-- ==== Sys2Proof/Word.lean ====
section
/-! DEFINITION. The data units of the manual (00_scope.md, R1). -/
namespace Sys2Proof

/-- A byte (R1). -/
abbrev Byte := BitVec 8
/-- A half (R1). -/
abbrev Half := BitVec 16
/-- A word (R1). -/
abbrev Word := BitVec 32
/-- A double (R1). -/
abbrev Dbl := BitVec 64
/-- A 64-byte image: an active message, a node, a request packet (R100, R368, R398). -/
abbrev Packet := BitVec 512
/-- The payload of a wide token; a narrow or control token uses the low bits (R30, R31). -/
abbrev Wide := BitVec 1024

end Sys2Proof
end

