-- ==== Sys2Proof/Syntax.lean ====
section
/-! DEFINITION. The instructions and steps of the G88: one constructor of `Instr` for each row of the
opcode table, and the operand types they are written with (05_formats_and_opcode_map.md). -/
namespace Sys2Proof

/-- A register specifier 0-15 (R66). -/
abbrev SReg := Fin 16
/-- A queue q0-q3 (R66). -/
abbrev QIn := Fin 4
/-- A control input k0 or k1 (R66). -/
abbrev KIn := Fin 2
/-- An output port o0 or o1 (R66). -/
abbrev OPort := Fin 2
/-- A vector register v0-v31 (R93). -/
abbrev VNum := Fin 32
/-- A predicate p0-p7 (R93). -/
abbrev PNum := Fin 8
/-- PE and PRED: `none` when PE is clear (R93). -/
abbrev Pred := Option PNum

/-- A read specifier 0-25 or 28-30 (R66, R88). The immediate carries its extension word. -/
inductive Src where
  | s (n : SReg)
  | q (n : QIn)
  | pk (n : QIn)
  | k (n : KIn)
  | tok
  | ctxk
  | imm (v : Word)
deriving DecidableEq, Repr, Inhabited

/-- A written specifier 0-15 or 26-27 (R88). -/
inductive Dst where
  | s (n : SReg)
  | o (n : OPort)
deriving DecidableEq, Repr, Inhabited

/-- The conditions CC 0-10 of R89. -/
inductive Cond where
  | eq | ne | lt | ge | ltu | geu | le | gt | leu | gtu | uno
deriving DecidableEq, Repr, Inhabited

/-- Rounding 0-3 (R91, R93). -/
inductive Rm where
  | rne | rtz | rup | rdn
deriving DecidableEq, Repr, Inhabited

/-- Rounding of the VC format: 0-3, and 4 SR (R93). -/
inductive RmC where
  | rne | rtz | rup | rdn | sr
deriving DecidableEq, Repr, Inhabited

/-- Functions 0x00-0x0B of amo, rmw and the bank ALUs (R91, R336). -/
inductive RmwFn where
  | add | sub | min | max | minu | maxu | and | or | xor | xchg | cas | fadd
deriving DecidableEq, Repr, Inhabited

/-- FN 0-2 of vred and vscan (R94). -/
inductive RedFn where
  | add | min | max
deriving DecidableEq, Repr, Inhabited

/-- The four neighbours of a tile (R25). -/
inductive Dir where
  | north | east | south | west
deriving DecidableEq, Repr, Inhabited

/-- The three networks (R25). -/
inductive Net where
  | narrow | wide | control
deriving DecidableEq, Repr, Inhabited

/-- One hop of a route: from tile (x, y) to its neighbour in direction `dir` (R25). -/
structure Hop where
  x : Nat
  y : Nat
  dir : Dir
deriving DecidableEq, Repr, Inhabited

/-- An engine that replies: an operator of a placed task, or a bank ALU queue (R225, R341). -/
inductive EngineRef where
  | op (t o : Nat)
  | bank (b lctx : Nat)
deriving DecidableEq, Repr, Inhabited

/-- Where the Joiner puts one operator: its tile and the cell, address generator or unit there (R44). -/
structure OpPlace where
  x : Nat
  y : Nat
  sub : Nat
deriving DecidableEq, Repr, Inhabited

/-- The choices the Joiner is free to make for one phase graph: operator positions and channel routes (R44). -/
structure PhaseChoice where
  places : List OpPlace
  routes : List (List Hop)
  /-- The S tile that holds each memory-tile region, by region in increasing number (R316). -/
  regions : List (Nat × Nat)
  /-- The S tile of each channel's spill extension; unused where the channel needs none (R45). -/
  spills : List (Nat × Nat)
deriving DecidableEq, Repr, Inhabited

/-- The choices of one placement, one entry for each phase (R44, R57). -/
structure PlaceChoice where
  phases : List PhaseChoice
deriving DecidableEq, Repr, Inhabited

/-- One remote access carried by a span frame (R405). -/
structure SpanAccess where
  id : Nat
  write : Bool
  /-- Context whose span window receives it. -/
  lctx : Nat
  offset : Word
  bytes : Nat
  data : Wide
deriving DecidableEq, Repr, Inhabited

/-- The data an uncorrectable error strikes (R412). -/
inductive EccWhere where
  /-- A granule of the tile's memory. -/
  | granule (offset : Nat)
  /-- The token at the head of an end queue of a channel of a placed task. -/
  | token (t chan : Nat)
  /-- A read in flight of a memory node or walker. -/
  | read (t o : Nat)
  /-- The head token of the link buffer of a hop of a channel. -/
  | link (t chan hop : Nat)
  /-- A vector register of a vector actor. -/
  | vreg (t o v : Nat)
  /-- The active plane of a matrix node, or its shadow plane. -/
  | plane (t o : Nat) (shadow : Bool)
  /-- The element that a copy's next transfer reads. -/
  | copy (t o slot : Nat)
  /-- A tile that a spline unit keeps as computed. -/
  | spline (t o n : Nat)
  /-- A word that the command of a context reads in a bank. -/
  | bank (b lctx : Nat)
  /-- A page of a heartwood slot: that of a context's part, or of the header or trailer past them. -/
  | flash (slot part : Nat)
  /-- A buffer line of a fibre unit. -/
  | line (t o n : Nat)
  /-- Data that nothing reads again. -/
  | none
deriving DecidableEq, Repr, Inhabited

/-- The instructions and steps of the opcode table. -/
inductive Instr where
  /-- Integer add of a and b, wrapping, with optional overflow trap under OVT (R113). -/
  | add (d : Dst) (a b : Src) (w64 ovt : Bool)
  /-- Integer subtract a − b, wrapping, with optional OVT (R113). -/
  | sub (d : Dst) (a b : Src) (w64 ovt : Bool)
  /-- Signed saturating add (R113). -/
  | adds (d : Dst) (a b : Src) (w64 : Bool)
  /-- Signed saturating subtract (R113). -/
  | subs (d : Dst) (a b : Src) (w64 : Bool)
  /-- Low half of the product, with optional OVT (R113). -/
  | mul (d : Dst) (a b : Src) (w64 ovt : Bool)
  /-- High half of the signed product (R113). -/
  | mulh (d : Dst) (a b : Src) (w64 : Bool)
  /-- High half of the unsigned product (R113). -/
  | mulhu (d : Dst) (a b : Src) (w64 : Bool)
  /-- Signed division toward zero; DIV0 on zero divisor, IOVF under OVT (R114). -/
  | div (d : Dst) (a b : Src) (w64 ovt : Bool)
  /-- Unsigned division; DIV0 on zero divisor (R114). -/
  | divu (d : Dst) (a b : Src) (w64 : Bool)
  /-- Signed remainder with the sign of a; DIV0 on zero divisor (R114). -/
  | rem (d : Dst) (a b : Src) (w64 : Bool)
  /-- Unsigned remainder; DIV0 on zero divisor (R114). -/
  | remu (d : Dst) (a b : Src) (w64 : Bool)
  /-- Bitwise AND (R113). -/
  | and (d : Dst) (a b : Src) (w64 : Bool)
  /-- Bitwise OR (R113). -/
  | or (d : Dst) (a b : Src) (w64 : Bool)
  /-- Bitwise XOR (R113). -/
  | xor (d : Dst) (a b : Src) (w64 : Bool)
  /-- a AND NOT b (R113). -/
  | andn (d : Dst) (a b : Src) (w64 : Bool)
  /-- Shift left by the low bits of b (R113). -/
  | shl (d : Dst) (a b : Src) (w64 : Bool)
  /-- Logical shift right (R113). -/
  | shr (d : Dst) (a b : Src) (w64 : Bool)
  /-- Arithmetic shift right (R113). -/
  | sra (d : Dst) (a b : Src) (w64 : Bool)
  /-- Rotate left (R113). -/
  | rotl (d : Dst) (a b : Src) (w64 : Bool)
  /-- Signed minimum (R113). -/
  | min (d : Dst) (a b : Src) (w64 : Bool)
  /-- Signed maximum (R113). -/
  | max (d : Dst) (a b : Src) (w64 : Bool)
  /-- Unsigned minimum (R113). -/
  | minu (d : Dst) (a b : Src) (w64 : Bool)
  /-- Unsigned maximum (R113). -/
  | maxu (d : Dst) (a b : Src) (w64 : Bool)
  /-- Wrapping absolute value, optional OVT (R113). -/
  | abs (d : Dst) (a : Src) (w64 ovt : Bool)
  /-- Count leading zero bits (R113). -/
  | clz (d : Dst) (a : Src) (w64 : Bool)
  /-- Count trailing zero bits (R113). -/
  | ctz (d : Dst) (a : Src) (w64 : Bool)
  /-- Count one bits (R113). -/
  | popc (d : Dst) (a : Src) (w64 : Bool)
  /-- Integer compare under CC writing 1 or 0 (R118). -/
  | cmpCc (cc : Cond) (d : Dst) (a b : Src) (w64 : Bool)
  /-- FP32 add rounded once in MODE (R120). -/
  | fadd (d : Dst) (a b : Src) (rm : Rm)
  /-- FP32 multiply rounded once (R120). -/
  | fmul (d : Dst) (a b : Src) (rm : Rm)
  /-- FP32 minimum with −0 below +0 and NaN handling (R121). -/
  | fmin (d : Dst) (a b : Src)
  /-- FP32 maximum (R121). -/
  | fmax (d : Dst) (a b : Src)
  /-- Signed integer to FP32 (R123). -/
  | fcvtSW (d : Dst) (a : Src) (rm : Rm)
  /-- Unsigned integer to FP32 (R123). -/
  | fcvtSWu (d : Dst) (a : Src) (rm : Rm)
  /-- FP32 to signed integer, saturating (R123). -/
  | fcvtWS (d : Dst) (a : Src) (rm : Rm)
  /-- FP32 to unsigned integer, saturating (R123). -/
  | fcvtWuS (d : Dst) (a : Src) (rm : Rm)
  /-- FP32 compare under CC writing 1 or 0 (R124). -/
  | fcmpCc (cc : Cond) (d : Dst) (a b : Src)
  /-- Pops all three operands and selects a or b by c (R119). -/
  | sel (d : Dst) (a b c : Src) (w64 : Bool)
  /-- Fused multiply-add rounded once (R122). -/
  | fma (d : Dst) (a b c : Src) (rm : Rm)
  /-- Control-core atomic read-modify-write at PKG scope returning the old value (R155). -/
  | amo (fn : RmwFn) (d : SReg) (a b : Src) (w64 ovt : Bool)
  /-- Add sign-extended immediate (R115). -/
  | addi (d : Dst) (a : Src) (imm : Half)
  /-- AND with sign-extended immediate (R115). -/
  | andi (d : Dst) (a : Src) (imm : Half)
  /-- OR with sign-extended immediate (R115). -/
  | ori (d : Dst) (a : Src) (imm : Half)
  /-- XOR with sign-extended immediate (R115). -/
  | xori (d : Dst) (a : Src) (imm : Half)
  /-- Shift left by immediate amount (R115). -/
  | shli (d : Dst) (a : Src) (amt : BitVec 6)
  /-- Logical shift right by immediate amount (R115). -/
  | shri (d : Dst) (a : Src) (amt : BitVec 6)
  /-- Arithmetic shift right by immediate amount (R115). -/
  | srai (d : Dst) (a : Src) (amt : BitVec 6)
  /-- Load sign-extended 16-bit immediate (R116). -/
  | li (d : Dst) (imm : Half)
  /-- Replace bits 31:16 of d with the immediate (R116). -/
  | lih (d : SReg) (imm : Half)
  /-- Compare with a 12-bit signed immediate under CC (R118). -/
  | cmpiCc (cc : Cond) (d : Dst) (a : Src) (imm : BitVec 12)
  /-- Extract a bit field, sign-extended (R117). -/
  | bfx (d : Dst) (a : Src) (pos lenM1 : BitVec 5)
  /-- Extract a bit field, zero-extended (R117). -/
  | bfxu (d : Dst) (a : Src) (pos lenM1 : BitVec 5)
  /-- Insert low bits of a into a field of d (R117). -/
  | bfi (d : SReg) (a : Src) (pos lenM1 : BitVec 5)
  /-- Unconditional branch (R129). -/
  | br (disp : Half)
  /-- Branch when a is zero (R129). -/
  | bz (a : Src) (disp : Half)
  /-- Branch when a is non-zero (R129). -/
  | bnz (a : Src) (disp : Half)
  /-- Pop a control token and branch when it equals v (R129). -/
  | bk (k : KIn) (v : Bool) (disp : Half)
  /-- Peek a queue head and branch on its kind and level (R130). -/
  | bkind (q : QIn) (kind : BitVec 3) (lvl : BitVec 3) (disp : Half)
  /-- Repeat the following block c times (R131). -/
  | rep (a : Src) (len : BitVec 5)
  /-- Close the firing of a cell actor (R132). -/
  | endCell
  /-- Control-core byte load, sign-extended (R154). -/
  | ldB (d : SReg) (a : Src) (off : Half)
  /-- Control-core half load (R154). -/
  | ldH (d : SReg) (a : Src) (off : Half)
  /-- Control-core word load (R154). -/
  | ldW (d : SReg) (a : Src) (off : Half)
  /-- Control-core double load, also used for management space (R154). -/
  | ldD (d : SReg) (a : Src) (off : Half)
  /-- Control-core byte store (R154). -/
  | stB (v : Src) (a : Src) (off : Half)
  /-- Control-core half store (R154). -/
  | stH (v : Src) (a : Src) (off : Half)
  /-- Control-core word store (R154). -/
  | stW (v : Src) (a : Src) (off : Half)
  /-- Control-core double store, also to management space (R154). -/
  | stD (v : Src) (a : Src) (off : Half)
  /-- Wait until outstanding loads, stores, copies and engine commands are within limits (R156). -/
  | owait (ld st cp op : BitVec 4)
  /-- Push a data token with payload a (R133). -/
  | send (o : OPort) (a : Src) (tag : BitVec 10)
  /-- Push a stop token of level LVL (R133). -/
  | sendstop (o : OPort) (lvl : BitVec 3) (tag : BitVec 10)
  /-- Push a done token (R133). -/
  | senddone (o : OPort) (tag : BitVec 10)
  /-- Pop a token of any kind to a port unchanged or to a register (R134). -/
  | recv (d : Dst) (q : QIn)
  /-- Read a queue head's payload without popping (R134). -/
  | peek (d : SReg) (q : QIn)
  /-- Pop and discard a token of any kind (R134). -/
  | drop (q : QIn)
  /-- Route a token to o0 or o1 by a control bit and forward the bit on kc (R137). -/
  | steer (q : QIn) (c : Src)
  /-- Pop the token selected by the control bit and push it (R138). -/
  | merge (o : OPort) (c : Src)
  /-- Reorder tagged tokens through a 64-slot window (R142). -/
  | collect (o : OPort) (q : QIn)
  /-- Push the earliest-arrived arm head (R139). -/
  | amerge (o : OPort)
  /-- Tag a token with TSEQ and advance the counter (R141). -/
  | tagseq (o : OPort) (q : QIn)
  /-- Broadcast a 32-bit payload into a wide token (R143). -/
  | repl (a : Src)
  /-- Push a control bit on kc (R144). -/
  | kout (a : Src)
  /-- Pop and discard a control token (R144). -/
  | kwait (k : KIn)
  /-- Copy the oldest fault record to local memory (R157). -/
  | rfetch (d : SReg) (a : Src)
  /-- Poll a local double until non-zero (R157). -/
  | swait (a : Src)
  /-- Submit a request packet to the graph sequencer (R157). -/
  | dispatch (a : Src)
  /-- Write a management-space register (R157). -/
  | cfgw (a d : Src)
  /-- Read a control register (R152). -/
  | csrr (d : SReg) (r : BitVec 12)
  /-- Write a control register (R152). -/
  | csrw (a : Src) (r : BitVec 12)
  /-- Update a CRC-32C with 1 to 8 bytes (R158). -/
  | crc32c (d : SReg) (a : Src) (n : BitVec 2)
  /-- Raise a software trap with code ARG (R153). -/
  | trap (c : BitVec 12)
  /-- Return from trap, restoring PC and mode (R153). -/
  | eret
  /-- Stop the core until reset or wake (R153). -/
  | halt
  /-- Take a work record from a work queue, blocking or failing (R147). -/
  | qpop (d : Dst) (nb : Bool) (n : BitVec 4)
  /-- Request placement of a subgraph named by a spawn record (R148). -/
  | spawn (rec : BitVec 12)
  /-- Patch a message template and send it to an engine inbox (R146). -/
  | amsg (a d : Src) (t : BitVec 4)
  /-- Wait on a timeline counter and acquire (R149). -/
  | tlwait (a : Src) (c : BitVec 12)
  /-- Wait for all task stores and mark the actor committed as a PKG release (R269). -/
  | wrapCommit
  /-- Atomically set a tile's validity flag unless it is failed (R268). -/
  | vfSet (a d : Src)
  /-- Retired NATIVE move (R167). -/
  | mov (d : Dst) (a : Src)
  /-- Retired MICROCODED negate (R167). -/
  | neg (d : Dst) (a : Src)
  /-- Retired MICROCODED clamp to INT8 range (R167). -/
  | clip8 (d : SReg) (a : Src)
  /-- Retired TRAPPED FP32 divide emulated on a control core (R168). -/
  | fdiv (d : Dst) (a b : Src) (rm : Rm)
  /-- Retired TRAPPED byte reverse (R168). -/
  | bswap (d : Dst) (a : Src)
  /-- Lane-wise add (R206). -/
  | vadd (d a b : VNum) (p : Pred) (rm : Rm)
  /-- Lane-wise subtract (R206). -/
  | vsub (d a b : VNum) (p : Pred) (rm : Rm)
  /-- Lane-wise multiply (R206). -/
  | vmul (d a b : VNum) (p : Pred) (rm : Rm)
  /-- Lane-wise fused multiply-add (R206). -/
  | vfma (d a b c : VNum) (p : Pred) (rm : Rm)
  /-- Lane-wise fused multiply-subtract (R206). -/
  | vfms (d a b c : VNum) (p : Pred) (rm : Rm)
  /-- Lane-wise negate (R206). -/
  | vneg (d a : VNum) (p : Pred)
  /-- Lane-wise absolute value (R206). -/
  | vabs (d a : VNum) (p : Pred)
  /-- Lane-wise minimum (R206). -/
  | vmin (d a b : VNum) (p : Pred)
  /-- Lane-wise maximum (R206). -/
  | vmax (d a b : VNum) (p : Pred)
  /-- Correctly rounded reciprocal (R207). -/
  | vrcp (d a : VNum) (p : Pred)
  /-- Correctly rounded reciprocal square root (R207). -/
  | vrsqrt (d a : VNum) (p : Pred)
  /-- Correctly rounded 2^a (R207). -/
  | vexp2 (d a : VNum) (p : Pred)
  /-- Correctly rounded log2 a (R207). -/
  | vlog2 (d a : VNum) (p : Pred)
  /-- Lane-wise compare into a predicate (R208). -/
  | vcmpCc (cc : Cond) (d : PNum) (a b : VNum) (p : Pred)
  /-- Select lanes of va or vb by predicate (R209). -/
  | vsel (d a b : VNum) (p : PNum)
  /-- Convert lanes to TFMT with rounding, saturation and NaN policy (R210). -/
  | vcvt (d a : VNum) (fmt : BitVec 4) (rm : RmC) (sat nanp : Bool) (p : Pred)
  /-- Quantise into OCP MX blocks with E8M0 scales (R211). -/
  | vquant (d a : VNum) (fmt : BitVec 4) (rm : RmC) (bsz : BitVec 3) (p : Pred)
  /-- Attach E8M0 scales as the sidecar of vd (R212). -/
  | vscale (d a : VNum) (bsz : BitVec 3)
  /-- Tree reduction of lanes into lane 0 (R221). -/
  | vred (fn : RedFn) (d a : VNum) (p : Pred) (rm : Rm)
  /-- Tree scan across lanes (R221). -/
  | vscan (fn : RedFn) (d a : VNum) (p : Pred) (rm : Rm)
  /-- Gather lanes by index vector (R213). -/
  | vperm (d a b : VNum) (p : Pred)
  /-- Rotate lanes by an immediate amount (R213). -/
  | vrot (d a : VNum) (n : BitVec 9) (p : Pred)
  /-- Broadcast one lane to all lanes (R213). -/
  | vsplat (d a : VNum) (n : BitVec 9) (p : Pred)
  /-- Copy a register with tag, sidecar, VLEN and MARK (R213). -/
  | vmov (d a : VNum) (p : Pred)
  /-- Lane-wise AND (R214). -/
  | vand (d a b : VNum) (p : Pred)
  /-- Lane-wise OR (R214). -/
  | vor (d a b : VNum) (p : Pred)
  /-- Lane-wise XOR (R214). -/
  | vxor (d a b : VNum) (p : Pred)
  /-- Lane-wise shift left (R214). -/
  | vshl (d a b : VNum) (p : Pred)
  /-- Lane-wise logical shift right (R214). -/
  | vshr (d a b : VNum) (p : Pred)
  /-- Lane-wise arithmetic shift right (R214). -/
  | vsra (d a b : VNum) (p : Pred)
  /-- Integer multiply-add into INT32 (R215). -/
  | vimad (d a b c : VNum) (p : Pred)
  /-- Write a register's format tag (R220). -/
  | vtagSet (d : VNum) (fmt : BitVec 4) (scl : Bool) (bsz : BitVec 3)
  /-- Read tag, VLEN and sticky flags, optionally clearing the flags (R220). -/
  | vtagGet (d a : VNum) (clr : Bool)
  /-- Fill a register from wide tokens of an input port (R217). -/
  | vld (v : VNum) (p : BitVec 2) (n : BitVec 4)
  /-- Push a register as wide tokens, with a scale token first if scaled (R218). -/
  | vst (v : VNum) (p : BitVec 1) (n : BitVec 4)
  /-- Push a wide stop token (R219). -/
  | vstop (p : BitVec 1) (lvl : BitVec 3)
  /-- Push a wide done token (R219). -/
  | vdone (p : BitVec 1)
  /-- Close the firing of a vector actor (R201). -/
  | vend
  /-- Configure formats and sizes and clear planes, scales and accumulators (R227). -/
  | mxCfg (t o : Nat) (p : Packet)
  /-- Start loading weights into the shadow plane (R230). -/
  | mxLoadw (t o : Nat) (p : Packet)
  /-- Make a plane swap pending (R231). -/
  | mxSwap (t o : Nat) (p : Packet)
  /-- Set the armed count, opening an operation (R232). -/
  | mxArm (t o : Nat) (p : Packet)
  /-- Load the column scales (R235). -/
  | mxScale (t o : Nat) (p : Packet)
  /-- Push or write accumulator rows (R236). -/
  | mxDrain (t o : Nat) (p : Packet)
  /-- Clear accumulators, latches, flags or pass counter (R237). -/
  | mxZero (t o : Nat) (p : Packet)
  /-- Write a status snapshot and optionally clear sticky flags (R238). -/
  | mxStat (t o : Nat) (p : Packet)
  /-- Write a copy template slot (R346). -/
  | cpArm (t o : Nat) (p : Packet)
  /-- Fire a copy template once (R348). -/
  | cpFire (t o : Nat) (p : Packet)
  /-- Hold the inbox until a handle reaches a state, optionally setting the next (R351). -/
  | bufWait (t o : Nat) (p : Packet)
  /-- Set a buffer handle's state (R351). -/
  | bufSet (t o : Nat) (p : Packet)
  /-- Add to a timeline counter as a PKG release after earlier commands complete (R352). -/
  | tlInc (t o : Nat) (p : Packet)
  /-- Hold the inbox until a counter reaches a value (R352). -/
  | tlWait (t o : Nat) (p : Packet)
  /-- Read dimension records and start a walk (R256). -/
  | wkSpec (t o : Nat) (p : Packet)
  /-- Replace the kerf pattern and record fields (R256). -/
  | wkKerf (t o : Nat) (p : Packet)
  /-- Replace the audit rate and window (R256). -/
  | wkAudit (t o : Nat) (p : Packet)
  /-- Set L, phase, or freeze or thaw window updates (R256). -/
  | kfCtl (t o : Nat) (p : Packet)
  /-- Configure a spline's format, kernel, lines, tile, base and count (R257). -/
  | spCfg (t o : Nat) (p : Packet)
  /-- Reconstruct from tiles in memory with no walker (R258). -/
  | spRun (t o : Nat) (p : Packet)
  /-- One atomic access at a shared bank (R342). -/
  | bkRmw (bank lctx : Nat) (p : Packet)
  /-- Reduce a range into dst[0] (R343). -/
  | bkRed (bank lctx : Nat) (p : Packet)
  /-- Apply a function element-wise over a range (R343). -/
  | bkApply (bank lctx : Nat) (p : Packet)
  /-- Fill a range with a value (R343). -/
  | bkFill (bank lctx : Nat) (p : Packet)
  /-- One collective step combining local data with a peer's (R344). -/
  | bkColl (bank lctx : Nat) (p : Packet)
  /-- The issue stage issues a TASK node, preparing its task set (R366). -/
  | nodeTask (l : Nat) (n : Packet)
  /-- A COND resolves its arm from an acquiring predicate read (R313). -/
  | nodeCond (l : Nat) (n : Packet)
  /-- A LOOP returns to its body or passes on by predicate and pass count (R313). -/
  | nodeLoop (l : Nat) (n : Packet)
  /-- The issue stage passes a JOIN when all earlier tasks are final (R312). -/
  | nodeJoin (l : Nat) (n : Packet)
  /-- A CALL pushes a return point and continues at its target list (R369). -/
  | nodeCall (l : Nat) (n : Packet)
  /-- A WAIT holds the issue stage until the counter reaches VALUE (R368). -/
  | nodeWait (l : Nat) (n : Packet)
  /-- A SIGNAL adds to a counter after earlier tasks complete (R368). -/
  | nodeSignal (l : Nat) (n : Packet)
  /-- A WRAP records the launch's wrap-up list (R368). -/
  | nodeWrap (l : Nat) (n : Packet)
  /-- END returns from a CALL or completes the top-level list (R368). -/
  | nodeEnd (l : Nat) (n : Packet)
  /-- A LAUNCH request packet starts a task graph (R398). -/
  | launch (aqi q : Nat) (p : Packet)
  /-- A SIGNAL request adds to a counter after earlier packets complete (R398). -/
  | reqSignal (aqi q : Nat) (p : Packet)
  /-- A WAIT request holds later packets until a counter reaches a value (R398). -/
  | reqWait (aqi q : Nat) (p : Packet)
  /-- A CANCEL request cancels a launch of the queue (R398). -/
  | cancel (aqi q : Nat) (p : Packet)
  /-- Create a launch context from a context record (R403). -/
  | createCtx (p : Packet)
  /-- Destroy a context once its launches are final (R402). -/
  | destroyCtx (p : Packet)
  /-- Create and bind a request queue of an AQI (R402). -/
  | createQueue (p : Packet)
  /-- Refuse further packets of a PASID and tear down its contexts (R401). -/
  | revokePasid (p : Packet)
  /-- Register a Zithes object after header, signature and page checks (R165). -/
  | registerObj (p : Packet)
  /-- Invalidate translations of a range (R325). -/
  | invalidate (p : Packet)
  /-- Reply retry or refuse to a page request (R329). -/
  | pageReply (p : Packet)
  /-- Pause a launch context, optionally at a stop condition (R388). -/
  | pause (p : Packet)
  /-- Release ready entries and re-place paused tasks (R391). -/
  | resume (p : Packet)
  /-- Enter tiles into the knot map and move tasks holding them (R13). -/
  | knotSet (p : Packet)
  /-- Clear tiles from the knot map, refusing fused tiles (R402). -/
  | knotClear (p : Packet)
  /-- Set the admin power-step level (R272). -/
  | pstep (p : Packet)
  /-- Apply a host offset to the deadline clock (R261). -/
  | clockOffset (p : Packet)
  /-- Cancel and tear down every context of an AQI (R404). -/
  | aqiReset (p : Packet)
  /-- Reload a heartwood image with contexts paused, or discard it (R411). -/
  | restore (p : Packet)
  /-- Set a keep window saved at power failure (R410). -/
  | keep (p : Packet)
  /-- Clear a timeline counter and its poison (R352). -/
  | tlClear (p : Packet)
  /-- An actor begins a firing when its guard queue holds a token, choosing the entry by the head kind (R125). -/
  | actorFiringBegin (t o : Nat)
  /-- An actor without an entry for a stop or done head pops it and pushes it on each bound port (R126). -/
  | defaultTokenForward (t o : Nat)
  /-- An actor without a poison entry pops the poison and pushes it on o0 then o1 (R35). -/
  | poisonForward (t o : Nat)
  /-- The emulation result of a TRAPPED word arrives and the cell writes D (R168). -/
  | trappedResultArrive (t o : Nat)
  /-- A link direction transfers one token from an eligible lane each fc (R27). -/
  | linkTransfer (x y : Nat) (dir : Dir) (net : Net)
  /-- A recomputed slot table takes effect at the next slot pointer 0 (R22). -/
  | slotTableApply (x y : Nat)
  /-- A held reply token is delivered into its reply queue when the queue has room (R414). -/
  | replyTokenDeliver (e : EngineRef)
  /-- A load node issues its next read against a free unreserved credit (R10). -/
  | loadReadIssue (t o : Nat)
  /-- A read returns and its token enters the node's output channel (R10). -/
  | readDelivery (t o : Nat)
  /-- A store, stfe or rmw node pops its input tokens and issues an access (R334). -/
  | storeIssue (t o : Nat)
  /-- A store or rmw is performed at the node's DSCOPE and acknowledged (R308). -/
  | storeAck (t o : Nat)
  /-- A memory-tile rmw accepted two fc earlier writes its new value (R337). -/
  | rmwWrite (x y : Nat)
  /-- Accesses waiting on a granule are accepted in order when its state changes (R335). -/
  | fullEmptyRelease (x y granule : Nat)
  /-- A memory node pushes its done token on its ordering edges once all its operations are performed (R308). -/
  | memoryNodeDone (t o : Nat)
  /-- A fence relays done tokens once every incoming edge has delivered one (R338). -/
  | fenceFire (t o : Nat)
  /-- A stream buffer fetches lines ahead of its load node's position (R326). -/
  | streamPrefetch (t o line : Nat)
  /-- A stream buffer line stops serving reads 4,096 fc after it was fetched (R361). -/
  | streamLineExpiry (t o line : Nat)
  /-- A write-combining line idle for 64 fc is written to memory (R327). -/
  | wcbIdleFlush (t line : Nat)
  /-- A translation miss starts a walk on a free page walker (R324). -/
  | pageWalkStart (die : Nat)
  /-- A page walk ends, filling the translation cache or raising a translation fault (R324). -/
  | pageWalkComplete (die n : Nat)
  /-- A walker begins a block of 1,024 points and latches L and its pattern parameters (R246). -/
  | walkerBlockBegin (t o : Nat)
  /-- A walker issues a kept or audited point as a wide token and records skipped points in the mask (R170). -/
  | walkerPointIssue (t o : Nat)
  /-- A walker pushes its end token after its last point or stop, marking the mask handle full (R170). -/
  | walkerEnd (t o : Nat)
  /-- A spline stores the tokens of a computed point as they arrive (R176). -/
  | splineTileStore (t o : Nat)
  /-- A spline reconstructs skipped and audited points once its input is done and the mask is full, then stores the validity
  map (R176). -/
  | splineReconstruct (t o : Nat)
  /-- The sequencer records the updates of L of one fc in the next fc (R254). -/
  | coverageLRecord (l : Nat)
  /-- A spline pushes done on o1 once every store it issued is acknowledged (R176). -/
  | splineDone (t o : Nat)
  /-- The array takes an activation, scale, stop or done token from in and computes the row (R232). -/
  | matrixTokenTake (t o : Nat)
  /-- The array pushes a row's output tokens one per fc as depth allows (R234). -/
  | matrixOutputPush (t o : Nat)
  /-- The last weight line or token arrives and the shadow plane load completes (R230). -/
  | mxLoadwComplete (t o : Nat)
  /-- An active message reaches an engine inbox and is checked (R107). -/
  | enginePacketArrive (n : Nat)
  /-- A completed command replies to a timeline counter or port in arrival order (R225). -/
  | engineReply (e : EngineRef)
  /-- A data token at a trigger port fires its template; done disarms it (R347). -/
  | copyTrigger (t o slot : Nat)
  /-- The copy engine makes one 64-byte transfer for a firing (R345). -/
  | copyTransfer (x y : Nat)
  /-- A firing's writes are performed, handles are updated and the reply is sent (R347). -/
  | copyFiringComplete (t o slot : Nat)
  /-- A bank ALU applies one line operation, round robin among context queues (R341). -/
  | bankLineOperation (bank : Nat)
  /-- A fibre unit issues the line reads of its read arrays at task start (R279). -/
  | fbBufferLoad (t o : Nat)
  /-- fb.scan turns a reference into a coordinate and reference fibre (R281). -/
  | fbScanStep (t o : Nat)
  /-- fb.dense pushes a dense fibre of extent n for a reference (R298). -/
  | fbDenseStep (t o : Nat)
  /-- fb.lookup turns a reference into its value (R284). -/
  | fbLookupStep (t o : Nat)
  /-- fb.isect advances sides and pushes matches (R299). -/
  | fbIsectStep (t o : Nat)
  /-- fb.union pushes the least coordinate with references or ZREFs (R300). -/
  | fbUnionStep (t o : Nat)
  /-- fb.filter passes entries whose value meets the condition (R301). -/
  | fbFilterStep (t o : Nat)
  /-- fb.repeat repeats a reference once per entry of its shape stream (R302). -/
  | fbRepeatStep (t o : Nat)
  /-- fb.reduce folds a level-L fibre into one entry (R303). -/
  | fbReduceStep (t o : Nat)
  /-- fb.write stores coordinates, values and positions (R304). -/
  | fbWriteStep (t o : Nat)
  /-- The block controller queues the freeze record and stops the task (R383). -/
  | freezeRecord (t o : Nat)
  /-- A context idle 4,096 fc with non-zero balance freezes its tasks with STUCK (R394). -/
  | stuckTimeout (lctx : Nat)
  /-- A firing unfinished 4,096 fc after its pause is saved where it stands (R390). -/
  | pauseFiringLimit (t o : Nat)
  /-- All firings ended, reads delivered and stores acknowledged: state is saved and the context reported paused (R12). -/
  | pauseComplete (t : Nat)
  /-- A context stack steps to its next phase when all sinks hold done and no store is outstanding (R58). -/
  | phaseStep (t : Nat)
  /-- A tile task meets its completion conditions, its writes reach PKG and the sequencer records it (R371). -/
  | taskComplete (t : Nat)
  /-- After the wrap mark, a task completes once every .wrap actor has committed and no store is outstanding (R270). -/
  | wrapComplete (t : Nat)
  /-- The sequencer selects a ready entry for the free Joiner, bypassing blocked entries (R377). -/
  | readyQueueSelect
  /-- The Joiner begins the next placement request in arrival order (R49). -/
  | joinerPlacementBegin
  /-- A placement ends with channels restored and first firing allowed, or with a failure report (R49). -/
  | placementEnd (c : PlaceChoice)
  /-- A signed page's hash completes, marking it verified or tainting the object (R166). -/
  | pageHashComplete (obj page : Nat)
  /-- The look-ahead stage reads a node and its TCB, halting on a check failure (R369). -/
  | lookaheadNodeRead (l : Nat)
  /-- Once every task is final and the fault routine has ended, the launch completes and its entry is written (R387). -/
  | launchComplete (l : Nat)
  /-- A fault service routine is entered on a free control core (R375). -/
  | fsrEntry
  /-- A control-core device load or amo returns and writes its register, or traps with ECC (R154). -/
  | coreLoadReturn (core n : Nat) (ecc : Bool)
  /-- At the stop instant walkers stop, the wrap control token is sent and the wrap-up list runs (R264). -/
  | stopInstant (l : Nat)
  /-- The wrap control token reaches a bay and sets the wrap-up mark (R265). -/
  | wrapTokenArrive (t : Nat)
  /-- At the deadline fc unfinished tasks freeze with WRAP_LATE (R271). -/
  | deadlineFc (l : Nat)
  /-- A 1588 timestamp corrects the deadline clock by slew or step (R261). -/
  | ieee1588Timestamp (off : Int)
  /-- A strobe on PSTEP_STB samples a new pin power level (R272). -/
  | pstepStrobe (level : BitVec 4)
  /-- The power manager engages the next throttle sub-step while draw exceeds the cap (R273). -/
  | powerLeverEngage (draw : Nat)
  /-- A sub-step is released while draw stays 150 W below the cap (R275). -/
  | powerLeverRelease (draw : Nat)
  /-- An HBM pseudo-channel idle 16 µs powers down under sub-step 7 (R273). -/
  | hbmPcPowerDown (stack pc : Nat)
  /-- A host notify write sets a request queue's tail or is dropped (R397). -/
  | notifyWrite (aqi q : Nat) (v : Dbl)
  /-- A write to a core window's wake register wakes the core from halt (R408). -/
  | coreWake (core : Nat) (v : Dbl)
  /-- A write to a management register with no behaviour of its own (R408). -/
  | mgmtRegisterWrite (off v : Dbl)
  /-- A span transport frame arrives and its remote accesses are translated and performed (R405). -/
  | spanFrameReceive (src : Nat) (flits : List SpanAccess)
  /-- A remote acknowledgement performs an access at SYS (R405). -/
  | spanAckReceive (id : Nat) (ok : Bool) (data : Wide)
  /-- A remote access unacknowledged for 100 µs gives XLATE poison (R405). -/
  | spanAccessTimeout (id : Nat)
  /-- PWRFAIL_N assertion stops issue, pauses contexts and starts the heartwood drain (R409). -/
  | powerFail
  /-- Firings unfinished 20 µs after assertion are saved where they stand (R409). -/
  | powerFailFiringSave (t o : Nat)
  /-- The heartwood image and trailer are written and the module halts (R409). -/
  | heartwoodWriteEnd
  /-- PERST# or board reset clears state and brings the device up (R406). -/
  | coldReset
  /-- FLR of PF0 resets every AQI and clears the admin rings (R406). -/
  | functionLevelReset
  /-- A correctable error is corrected and counted, retiring the tile at eight in an hour (R412). -/
  | eccCorrectable (x y : Nat)
  /-- An uncorrectable data error gives ECC poison and retires the tile (R412). -/
  | eccUncorrectable (x y : Nat) (w : EccWhere)
  /-- A parity error on a configuration word freezes the node with CFG_PARITY (R383). -/
  | cfgParityError (t o word : Nat)
  /-- At the start of every fc the sequencer adds the disciplined length of the previous fc to the deadline clock (R260). -/
  | deadlineClockAdvance
  /-- Each tile's 4-bit slot pointer advances by one every fc, choosing which context entry is offered issue (R21). -/
  | slotPointerAdvance (x y : Nat)
  /-- A control-core store is performed at PKG scope, lowering the core's outstanding store count (R156). -/
  | coreStorePerformed (core n : Nat)
  /-- The module's draw, averaged over 100 µs, reaches the cap in force, and PSTEP_ACK goes high (R272). -/
  | powerCapMet (draw : Nat)
  /-- The host's PCIe Page Request Interface response to a stage 2 host fault arrives, and the stalled node retries or turns
  the access into XLATE poison (R329). -/
  | pageRequestInterfaceResponse (tag : Word) (ok : Bool)
  /-- A span flit that has gone unacknowledged is retransmitted at link level (R405). -/
  | flitRetry (id : Nat)
  /-- A correctable error recorded for a tile passes out of the 3,600 s window of the deadline clock, lowering the tile's
  count (R412). -/
  | correctableErrorAgeOut (x y : Nat)
deriving DecidableEq, Repr, Inhabited

end Sys2Proof
end

