-- ==== Sys2Proof/WellFormed.lean ====
section
/-! DEFINITION. Well-formed instructions: the limits that R88 to R94 and R205 put on a word's fields, and which unit
may execute which word (R92, R105). -/
namespace Sys2Proof

/-- 1 for an operand that takes the extension word (specifier 30), else 0 (R88). -/
def Src.ext : Src → Nat
  | .imm _ => 1
  | _ => 0

/-- An operand that a control core may name: specifiers 16 to 28 are not legal there (R88). -/
def Src.onCore : Src → Bool
  | .s _ => true
  | .ctxk => true
  | .imm _ => true
  | _ => false

/-- A destination that a control core may name (R88). -/
def Dst.onCore : Dst → Bool
  | .s _ => true
  | .o _ => false

/-- The register numbers that R152 assigns. -/
def csrAssigned (r : BitVec 12) : Bool :=
  r.toNat ≤ 6 || r == 0x010 || r == 0x011

/-- The registers of R152 that `csrw` may name: CAUSE, EVAL, CYCLE and TAI are read only. -/
def csrWritable (r : BitVec 12) : Bool :=
  r == 0x000 || r == 0x001 || r == 0x004 || r == 0x005 || r == 0x006

/-- A control operand of `merge`: specifiers 18, 19, 24 and 25 (R136). -/
def Src.armControl : Src → Bool
  | .q n => decide (2 ≤ n.val)
  | .k _ => true
  | _ => false

/-- A control operand of `steer`: specifiers 0 to 25 (R137). -/
def Src.steerControl : Src → Bool
  | .s _ | .q _ | .pk _ | .k _ => true
  | _ => false

/-- R89: the conditions of the integer column. -/
def Cond.forInt : Cond → Bool
  | .uno => false
  | _ => true

/-- R89: the conditions of the FP32 column. -/
def Cond.forFloat : Cond → Bool
  | .ltu | .geu | .leu | .gtu => false
  | _ => true

/-- The limits on the fields of a scalar word (R88, R91, R104, R113, R136, R137, R155, R167). A word has no other. -/
def wfScalar : Instr → Bool
  | .add _ a b _ _ | .sub _ a b _ _ | .mul _ a b _ _ | .div _ a b _ _ => a.ext + b.ext ≤ 1
  | .adds _ a b _ | .subs _ a b _ | .mulh _ a b _ | .mulhu _ a b _ | .divu _ a b _ | .rem _ a b _
  | .remu _ a b _ | .and _ a b _ | .or _ a b _ | .xor _ a b _ | .andn _ a b _ | .shl _ a b _ | .shr _ a b _
  | .sra _ a b _ | .rotl _ a b _ | .min _ a b _ | .max _ a b _ | .minu _ a b _ | .maxu _ a b _ => a.ext + b.ext ≤ 1
  | .cmpCc cc _ a b _ => cc.forInt && a.ext + b.ext ≤ 1
  | .fadd _ a b _ | .fmul _ a b _ | .fdiv _ a b _ => a.ext + b.ext ≤ 1
  | .fmin _ a b | .fmax _ a b => a.ext + b.ext ≤ 1
  | .fcmpCc cc _ a b => cc.forFloat && a.ext + b.ext ≤ 1
  | .sel _ a b c _ => a.ext + b.ext + c.ext ≤ 1
  | .fma _ a b c _ => a.ext + b.ext + c.ext ≤ 1
  | .amo fn _ a b w64 ovt =>
      a.ext + b.ext ≤ 1 && (!ovt || fn == .add || fn == .sub) && (!w64 || fn != .fadd)
  | .cmpiCc cc _ _ _ => cc.forInt
  | .bfx _ _ pos l | .bfxu _ _ pos l => pos.toNat + l.toNat + 1 ≤ 32
  | .bfi _ _ pos l => pos.toNat + l.toNat + 1 ≤ 32
  | .bkind _ kind _ _ => kind.toNat ≤ 5
  | .rep _ len => len != 0
  | .sendstop _ lvl _ => lvl != 0
  | .stB v a _ | .stH v a _ | .stW v a _ | .stD v a _ => v.ext + a.ext ≤ 1
  | .cfgw a d | .vfSet a d => a.ext + d.ext ≤ 1
  | .amsg a d _ => a.ext + d.ext ≤ 1
  | .csrr _ r => csrAssigned r
  | .csrw _ r => csrWritable r
  | .clip8 d _ => d != 0
  | .steer _ c => c.steerControl
  | .merge _ c => c.armControl
  | _ => true

/-- A rounding field other than RNE (R93). -/
def Rm.plain : Rm → Bool
  | .rne => true
  | _ => false

/-- The limits on the fields of a vector word (R93, R94, R205, R210, R211, R220, R221). -/
def wfVector : Instr → Bool
  | .vcvt _ _ fmt _ _ _ _ => 1 ≤ fmt.toNat && fmt.toNat ≤ 0xD
  | .vquant _ _ fmt _ bsz _ => 4 ≤ fmt.toNat && fmt.toNat ≤ 8 && (bsz == 1 || bsz == 2)
  | .vscale _ _ bsz => bsz.toNat ≤ 2
  | .vred fn _ _ _ rm | .vscan fn _ _ _ rm => fn == .add || rm.plain
  | .vtagSet _ fmt scl bsz => fmt.toNat ≤ 0xE && bsz.toNat ≤ 2 && (fmt != 0 || (!scl && bsz == 0))
  | .vstop _ lvl => lvl != 0
  | _ => true

/-- The words of the vector map (R94). -/
def isVector : Instr → Bool
  | .vadd .. | .vsub .. | .vmul .. | .vfma .. | .vfms .. | .vneg .. | .vabs .. | .vmin .. | .vmax .. | .vrcp ..
  | .vrsqrt .. | .vexp2 .. | .vlog2 .. | .vcmpCc .. | .vsel .. | .vcvt .. | .vquant .. | .vscale .. | .vred ..
  | .vscan .. | .vperm .. | .vrot .. | .vsplat .. | .vmov .. | .vand .. | .vor .. | .vxor .. | .vshl .. | .vshr ..
  | .vsra .. | .vimad .. | .vtagSet .. | .vtagGet .. | .vld .. | .vst .. | .vstop .. | .vdone .. | .vend => true
  | _ => false

/-- The words of the scalar map of generation 3 (R90 to R92). -/
def isScalar : Instr → Bool
  | .add .. | .sub .. | .adds .. | .subs .. | .mul .. | .mulh .. | .mulhu .. | .div .. | .divu .. | .rem .. | .remu ..
  | .and .. | .or .. | .xor .. | .andn .. | .shl .. | .shr .. | .sra .. | .rotl .. | .min .. | .max .. | .minu ..
  | .maxu .. | .abs .. | .clz .. | .ctz .. | .popc .. | .cmpCc .. | .fadd .. | .fmul .. | .fmin .. | .fmax ..
  | .fcvtSW .. | .fcvtSWu .. | .fcvtWS .. | .fcvtWuS .. | .fcmpCc .. | .sel .. | .fma .. | .amo .. | .addi ..
  | .andi .. | .ori .. | .xori .. | .shli .. | .shri .. | .srai .. | .li .. | .lih .. | .cmpiCc .. | .bfx .. | .bfxu ..
  | .bfi .. | .br .. | .bz .. | .bnz .. | .bk .. | .bkind .. | .rep .. | .endCell | .ldB .. | .ldH .. | .ldW ..
  | .ldD .. | .stB .. | .stH .. | .stW .. | .stD .. | .owait .. | .send .. | .sendstop .. | .senddone .. | .recv ..
  | .peek .. | .drop .. | .steer .. | .merge .. | .collect .. | .amerge .. | .tagseq .. | .repl .. | .kout ..
  | .kwait .. | .rfetch .. | .swait .. | .dispatch .. | .cfgw .. | .csrr .. | .csrw .. | .crc32c .. | .trap ..
  | .eret | .halt | .qpop .. | .spawn .. | .amsg .. | .tlwait .. | .wrapCommit | .vfSet .. => true
  | _ => false

/-- Generations whose map holds a retired word (R167); the words of the scalar map are in every map. -/
def inGen (gen : Nat) : Instr → Bool
  | .mov .. | .neg .. => gen == 1 || gen == 2
  | .clip8 .. | .bswap .. => gen == 2
  | .fdiv .. => gen == 1
  | i => isScalar i

/-- The operands of a word that R88 restricts on a control core. -/
def operandsOnCore : Instr → Bool
  | .add d a b _ _ | .sub d a b _ _ | .mul d a b _ _ | .div d a b _ _ => d.onCore && a.onCore && b.onCore
  | .adds d a b _ | .subs d a b _ | .mulh d a b _ | .mulhu d a b _ | .divu d a b _ | .rem d a b _ | .remu d a b _
  | .and d a b _ | .or d a b _ | .xor d a b _ | .andn d a b _ | .shl d a b _ | .shr d a b _ | .sra d a b _
  | .rotl d a b _ | .min d a b _ | .max d a b _ | .minu d a b _ | .maxu d a b _ => d.onCore && a.onCore && b.onCore
  | .abs d a _ _ => d.onCore && a.onCore
  | .clz d a _ | .ctz d a _ | .popc d a _ => d.onCore && a.onCore
  | .cmpCc _ d a b _ => d.onCore && a.onCore && b.onCore
  | .fadd d a b _ | .fmul d a b _ => d.onCore && a.onCore && b.onCore
  | .fmin d a b | .fmax d a b => d.onCore && a.onCore && b.onCore
  | .fcvtSW d a _ | .fcvtSWu d a _ | .fcvtWS d a _ | .fcvtWuS d a _ => d.onCore && a.onCore
  | .fcmpCc _ d a b => d.onCore && a.onCore && b.onCore
  | .sel d a b c _ => d.onCore && a.onCore && b.onCore && c.onCore
  | .fma d a b c _ => d.onCore && a.onCore && b.onCore && c.onCore
  | .amo _ _ a b _ _ => a.onCore && b.onCore
  | .addi d a _ | .andi d a _ | .ori d a _ | .xori d a _ => d.onCore && a.onCore
  | .shli d a _ | .shri d a _ | .srai d a _ => d.onCore && a.onCore
  | .li d _ => d.onCore
  | .cmpiCc _ d a _ => d.onCore && a.onCore
  | .bfx d a _ _ | .bfxu d a _ _ => d.onCore && a.onCore
  | .bfi _ a _ _ => a.onCore
  | .bz a _ | .bnz a _ => a.onCore
  | .ldB _ a _ | .ldH _ a _ | .ldW _ a _ | .ldD _ a _ => a.onCore
  | .stB v a _ | .stH v a _ | .stW v a _ | .stD v a _ => v.onCore && a.onCore
  | .rfetch _ a | .crc32c _ a _ => a.onCore
  | .swait a | .dispatch a => a.onCore
  | .csrw a _ => a.onCore
  | .cfgw a d => a.onCore && d.onCore
  | .qpop d _ _ => d.onCore && d != .s 0
  | .amsg a d _ => a.onCore && d.onCore
  | .tlwait a _ => a.onCore
  | _ => true

/-- R92: the words of the scalar map that a control core executes. -/
def legalOnCore (i : Instr) : Bool :=
  isScalar i && operandsOnCore i &&
  match i with
  | .send .. | .sendstop .. | .senddone .. | .recv .. | .peek .. | .drop .. | .steer .. | .merge .. | .collect ..
  | .amerge .. | .tagseq .. | .repl .. | .kout .. | .kwait .. | .bk .. | .bkind .. | .rep .. | .endCell
  | .spawn .. | .wrapCommit | .vfSet .. => false
  | _ => true

/-- R92, R115: the words that a cell executes under the map of generation `gen`. -/
def legalOnCell (gen : Nat) (i : Instr) : Bool :=
  inGen gen i &&
  match i with
  | .add _ _ _ w _ | .sub _ _ _ w _ | .mul _ _ _ w _ | .div _ _ _ w _ => !w
  | .adds _ _ _ w | .subs _ _ _ w | .mulh _ _ _ w | .mulhu _ _ _ w | .divu _ _ _ w | .rem _ _ _ w | .remu _ _ _ w
  | .and _ _ _ w | .or _ _ _ w | .xor _ _ _ w | .andn _ _ _ w | .shl _ _ _ w | .shr _ _ _ w | .sra _ _ _ w
  | .rotl _ _ _ w | .min _ _ _ w | .max _ _ _ w | .minu _ _ _ w | .maxu _ _ _ w => !w
  | .abs _ _ w _ => !w
  | .clz _ _ w | .ctz _ _ w | .popc _ _ w => !w
  | .cmpCc _ _ _ _ w => !w
  | .sel _ _ _ _ w => !w
  | .shli _ _ n | .shri _ _ n | .srai _ _ n => n.toNat < 32
  | .amo .. | .ldB .. | .ldH .. | .ldW .. | .ldD .. | .stB .. | .stH .. | .stW .. | .stD .. | .owait .. | .rfetch ..
  | .swait .. | .dispatch .. | .cfgw .. | .csrr .. | .csrw .. | .crc32c .. | .trap .. | .eret | .halt => false
  | _ => true

/-- Well-formed: an instruction word within the limits of its fields (R104, R205). Steps that have no word carry no
limit of their own. -/
def wf (i : Instr) : Bool := wfScalar i && wfVector i

end Sys2Proof
end

