-- ==== Sys2Proof/Decode.lean ====
section
/-! DEFINITION. From words and 64-byte images to instructions, and back (05_formats_and_opcode_map.md). Everything that
is no instruction gives `none` (R104). The encoders follow the same tables. -/
namespace Sys2Proof

/-! ## Operand fields -/

/-- A read specifier (R66, R88): 26, 27 and 31 cannot be read. `ext` is the word that follows. -/
def src? (ext : Word) (f : BitVec 5) : Option Src :=
  match f.toNat with
  | 16 => some (.q 0) | 17 => some (.q 1) | 18 => some (.q 2) | 19 => some (.q 3)
  | 20 => some (.pk 0) | 21 => some (.pk 1) | 22 => some (.pk 2) | 23 => some (.pk 3)
  | 24 => some (.k 0) | 25 => some (.k 1)
  | 28 => some .tok | 29 => some .ctxk | 30 => some (.imm ext)
  | 26 | 27 | 31 => none
  | n => some (.s (Fin.ofNat 16 n))

/-- A written specifier (R88). -/
def dst? (f : BitVec 5) : Option Dst :=
  if f.toNat < 16 then some (.s (Fin.ofNat 16 f.toNat))
  else if f == 26 then some (.o 0)
  else if f == 27 then some (.o 1)
  else none

/-- A field that is both read and written (R116, R117). -/
def reg? (f : BitVec 5) : Option SReg :=
  if f.toNat < 16 then some (Fin.ofNat 16 f.toNat) else none

/-- A field that names an output port only (R133). -/
def port? (f : BitVec 5) : Option OPort :=
  if f == 26 then some 0 else if f == 27 then some 1 else none

/-- A field that names a queue, consuming (R134). -/
def queue? (f : BitVec 5) : Option QIn :=
  if 16 ≤ f.toNat ∧ f.toNat < 20 then some (Fin.ofNat 4 (f.toNat - 16)) else none

/-- A field that names a queue's head (R134). -/
def peek? (f : BitVec 5) : Option QIn :=
  if 20 ≤ f.toNat ∧ f.toNat < 24 then some (Fin.ofNat 4 (f.toNat - 20)) else none

/-- A field that names a control input (R144). -/
def kin? (f : BitVec 5) : Option KIn :=
  if f == 24 then some 0 else if f == 25 then some 1 else none

/-- R89: CC 0 to 10. -/
def cond? (n : BitVec 4) : Option Cond :=
  match n.toNat with
  | 0 => some .eq | 1 => some .ne | 2 => some .lt | 3 => some .ge | 4 => some .ltu | 5 => some .geu | 6 => some .le
  | 7 => some .gt | 8 => some .leu | 9 => some .gtu | 10 => some .uno
  | _ => none

/-- Rounding 0 to 3 (R91, R93). -/
def rm? (n : BitVec 3) : Option Rm :=
  match n.toNat with
  | 0 => some .rne | 1 => some .rtz | 2 => some .rup | 3 => some .rdn
  | _ => none

/-- RND of the VC format (R93). -/
def rmC? (n : BitVec 3) : Option RmC :=
  match n.toNat with
  | 0 => some .rne | 1 => some .rtz | 2 => some .rup | 3 => some .rdn | 4 => some .sr
  | _ => none

/-- Functions 0x00 to 0x0B of amo, rmw and the bank ALUs (R91, R336). -/
def rmwFn? (n : Nat) : Option RmwFn :=
  match n with
  | 0 => some .add | 1 => some .sub | 2 => some .min | 3 => some .max | 4 => some .minu | 5 => some .maxu
  | 6 => some .and | 7 => some .or | 8 => some .xor | 9 => some .xchg | 10 => some .cas | 11 => some .fadd
  | _ => none

/-- FN of vred and vscan (R94). -/
def redFn? (n : Nat) : Option RedFn :=
  match n with
  | 0 => some .add | 1 => some .min | 2 => some .max
  | _ => none

/-- PE and PRED (R93): PRED must be 0 when PE is clear. -/
def pred? (pe : BitVec 1) (p : BitVec 3) : Option Pred :=
  if pe == 1 then some (some (Fin.ofNat 8 p.toNat)) else if p == 0 then some none else none

/-- `some x` when the condition holds. -/
def when? {α : Type} (c : Bool) (x : Option α) : Option α := if c then x else none

/-! ## The scalar groups -/

/-- OP 0x00 (R91, R113): d, a, b, B as a field, FN and MODE. -/
def srInt (d : Dst) (a : Src) (b? : Option Src) (bf : BitVec 5) (fn : BitVec 8) (mode : BitVec 3) : Option Instr :=
  let w := mode.getLsbD 0
  let v := mode.getLsbD 1
  when? (!mode.getLsbD 2) <|
  let two (f : Src → Instr) : Option Instr := when? (!v) (b?.map f)
  let twoV (f : Src → Instr) : Option Instr := b?.map f
  let one (i : Instr) : Option Instr := when? (!v && bf == 0) (some i)
  match fn.toNat with
  | 0x00 => twoV (.add d a · w v)
  | 0x01 => twoV (.sub d a · w v)
  | 0x02 => two (.adds d a · w)
  | 0x03 => two (.subs d a · w)
  | 0x04 => twoV (.mul d a · w v)
  | 0x05 => two (.mulh d a · w)
  | 0x06 => two (.mulhu d a · w)
  | 0x07 => twoV (.div d a · w v)
  | 0x08 => two (.divu d a · w)
  | 0x09 => two (.rem d a · w)
  | 0x0A => two (.remu d a · w)
  | 0x0B => two (.and d a · w)
  | 0x0C => two (.or d a · w)
  | 0x0D => two (.xor d a · w)
  | 0x0E => two (.andn d a · w)
  | 0x0F => two (.shl d a · w)
  | 0x10 => two (.shr d a · w)
  | 0x11 => two (.sra d a · w)
  | 0x12 => two (.rotl d a · w)
  | 0x13 => two (.min d a · w)
  | 0x14 => two (.max d a · w)
  | 0x15 => two (.minu d a · w)
  | 0x16 => two (.maxu d a · w)
  | 0x17 => when? (bf == 0) (some (.abs d a w v))
  | 0x18 => one (.clz d a w)
  | 0x19 => one (.ctz d a w)
  | 0x1A => one (.popc d a w)
  | _ =>
    if fn.extractLsb' 4 4 == 2 then
      when? (!v) ((cond? (fn.extractLsb' 0 4)).bind fun cc => b?.map fun b => .cmpCc cc d a b w)
    else none

/-- OP 0x01 (R91, R120 to R124). -/
def srFloat (d : Dst) (a : Src) (b? : Option Src) (bf : BitVec 5) (fn : BitVec 8) (mode : BitVec 3) : Option Instr :=
  let two (f : Src → Rm → Instr) : Option Instr := (rm? mode).bind fun rm => b?.map fun b => f b rm
  let one (f : Rm → Instr) : Option Instr := when? (bf == 0) ((rm? mode).map f)
  let flat (f : Src → Instr) : Option Instr := when? (mode == 0) (b?.map f)
  match fn.toNat with
  | 0x00 => two (.fadd d a · ·)
  | 0x01 => two (.fmul d a · ·)
  | 0x02 => flat (.fmin d a ·)
  | 0x03 => flat (.fmax d a ·)
  | 0x08 => one (.fcvtSW d a ·)
  | 0x09 => one (.fcvtSWu d a ·)
  | 0x0A => one (.fcvtWS d a ·)
  | 0x0B => one (.fcvtWuS d a ·)
  | _ =>
    if fn.extractLsb' 4 4 == 1 then (cond? (fn.extractLsb' 0 4)).bind fun cc => flat (.fcmpCc cc d a ·)
    else none

/-- OP 0x02 (R91): C is FN [7:3] and SUB is FN [2:0]. -/
def srThree (ext : Word) (d : Dst) (a b : Src) (fn : BitVec 8) (mode : BitVec 3) : Option Instr :=
  (src? ext (fn.extractLsb' 3 5)).bind fun c =>
  match (fn.extractLsb' 0 3).toNat with
  | 0 => when? (!mode.getLsbD 1 && !mode.getLsbD 2) (some (.sel d a b c (mode.getLsbD 0)))
  | 1 => (rm? mode).map fun rm => .fma d a b c rm
  | _ => none

/-- The SI forms with an immediate in IMM16 (R91). -/
def siForm (ext : Word) (op df af : BitVec 5) (hi : Bool) (imm : Half) : Option Instr :=
  let two (f : Dst → Src → Instr) : Option Instr := (dst? df).bind fun d => (src? ext af).map fun a => f d a
  let shift (f : Dst → Src → BitVec 6 → Instr) : Option Instr :=
    when? (imm.extractLsb' 6 10 == 0) (two fun d a => f d a (imm.extractLsb' 0 6))
  let field (f : Dst → Src → BitVec 5 → BitVec 5 → Instr) : Option Instr :=
    when? (imm.extractLsb' 10 6 == 0) (two fun d a => f d a (imm.extractLsb' 5 5) (imm.extractLsb' 0 5))
  let load (f : SReg → Src → Half → Instr) : Option Instr :=
    (reg? df).bind fun d => (src? ext af).map fun a => f d a imm
  let store (f : Src → Src → Half → Instr) : Option Instr :=
    (src? ext df).bind fun v => (src? ext af).map fun a => f v a imm
  match hi, op.toNat with
  | false, 0x04 => two (.addi · · imm)
  | false, 0x05 => two (.andi · · imm)
  | false, 0x06 => two (.ori · · imm)
  | false, 0x07 => two (.xori · · imm)
  | false, 0x08 => shift .shli
  | false, 0x09 => shift .shri
  | false, 0x0A => shift .srai
  | false, 0x0C => when? (af == 0) ((dst? df).map fun d => .li d imm)
  | false, 0x0D => when? (af == 0) ((reg? df).map fun d => .lih d imm)
  | false, 0x0E => (cond? (imm.extractLsb' 12 4)).bind fun cc => two (.cmpiCc cc · · (imm.extractLsb' 0 12))
  | false, 0x0F => field .bfx
  | false, 0x10 => field .bfxu
  | false, 0x11 =>
    when? (imm.extractLsb' 10 6 == 0) ((reg? df).bind fun d => (src? ext af).map fun a =>
      .bfi d a (imm.extractLsb' 5 5) (imm.extractLsb' 0 5))
  | true, 0x08 => load .ldB
  | true, 0x09 => load .ldH
  | true, 0x0A => load .ldW
  | true, 0x0B => load .ldD
  | true, 0x0C => store .stB
  | true, 0x0D => store .stH
  | true, 0x0E => store .stW
  | true, 0x0F => store .stD
  | true, 0x11 =>
    when? (df == 0 && af == 0)
      (some (.owait (imm.extractLsb' 12 4) (imm.extractLsb' 8 4) (imm.extractLsb' 4 4) (imm.extractLsb' 0 4)))
  | _, _ => none

/-- The SB forms, OP 0x20 to 0x26 (R91): A, COND and DISP16. -/
def sbForm (ext : Word) (sel : BitVec 3) (af cond : BitVec 5) (disp : Half) : Option Instr :=
  match sel.toNat with
  | 0 => when? (af == 0 && cond == 0) (some (.br disp))
  | 1 => when? (cond == 0) ((src? ext af).map fun a => .bz a disp)
  | 2 => when? (cond == 0) ((src? ext af).map fun a => .bnz a disp)
  | 3 => when? (cond.extractLsb' 1 4 == 0) ((kin? af).map fun k => .bk k (cond.getLsbD 0) disp)
  | 4 => when? (cond.extractLsb' 3 2 == 0)
      (some (.bkind (Fin.ofNat 4 (af.extractLsb' 0 2).toNat) (cond.extractLsb' 0 3) (af.extractLsb' 2 3) disp))
  | 5 => when? (cond == 0 && disp.extractLsb' 5 11 == 0) ((src? ext af).map fun a => .rep a (disp.extractLsb' 0 5))
  | 6 => when? (af == 0 && cond == 0 && disp == 0) (some .endCell)
  | _ => none

/-- OP 0x18 (R91): LVL, TAG and KIND. -/
def sendForm (ext : Word) (df af : BitVec 5) (lvl : BitVec 3) (tag : BitVec 10) (kind : BitVec 3) : Option Instr :=
  (port? df).bind fun o =>
  match kind.toNat with
  | 0 => when? (lvl == 0) ((src? ext af).map fun a => .send o a tag)
  | 1 => when? (af == 0) (some (.sendstop o lvl tag))
  | 2 => when? (lvl == 0 && af == 0) (some (.senddone o tag))
  | _ => none

/-- OP 0x19 (R91): LVL and KIND are zero. -/
def tokenForm (ext : Word) (df af : BitVec 5) (lvl : BitVec 3) (fn : BitVec 10) (kind : BitVec 3) : Option Instr :=
  when? (lvl == 0 && kind == 0) <|
  match fn.toNat with
  | 0x001 => (dst? df).bind fun d => (queue? af).map fun q => .recv d q
  | 0x002 => (reg? df).bind fun d => (peek? af).map fun q => .peek d q
  | 0x003 => when? (df == 0) ((queue? af).map fun q => .drop q)
  | 0x004 => (queue? af).bind fun q => (src? ext df).map fun c => .steer q c
  | 0x005 => (port? df).bind fun o => (src? ext af).map fun c => .merge o c
  | 0x006 => (port? df).bind fun o => (queue? af).map fun q => .collect o q
  | 0x007 => when? (af == 0) ((port? df).map fun o => .amerge o)
  | 0x008 => (port? df).bind fun o => (queue? af).map fun q => .tagseq o q
  | 0x009 => when? (df == 26) ((src? ext af).map fun a => .repl a)
  | 0x00A => when? (df == 0) ((src? ext af).map fun a => .kout a)
  | 0x00B => when? (df == 0) ((kin? af).map fun k => .kwait k)
  | _ => none

/-- OP 0x30 (R91): SF and ARG. -/
def sxForm (ext : Word) (df af : BitVec 5) (sf : BitVec 4) (arg : BitVec 12) : Option Instr :=
  match sf.toNat with
  | 0 => when? (arg == 0) ((reg? df).bind fun d => (src? ext af).map fun a => .rfetch d a)
  | 1 => when? (df == 0 && arg == 0) ((src? ext af).map fun a => .swait a)
  | 2 => when? (df == 0 && arg == 0) ((src? ext af).map fun a => .dispatch a)
  | 3 => when? (arg == 0) ((src? ext af).bind fun a => (src? ext df).map fun d => .cfgw a d)
  | 4 => when? (af == 0) ((reg? df).map fun d => .csrr d arg)
  | 5 => when? (df == 0) ((src? ext af).map fun a => .csrw a arg)
  | 6 => when? (arg.extractLsb' 2 10 == 0) ((reg? df).bind fun d => (src? ext af).map fun a =>
      .crc32c d a (arg.extractLsb' 0 2))
  | 7 => when? (df == 0 && af == 0) (some (.trap arg))
  | 8 => when? (df == 0 && af == 0 && arg == 0) (some .eret)
  | 9 => when? (df == 0 && af == 0 && arg == 0) (some .halt)
  | 10 => when? (af == 0 && arg.extractLsb' 5 7 == 0) ((dst? df).map fun d =>
      .qpop d (arg.getLsbD 4) (arg.extractLsb' 0 4))
  | 11 => when? (df == 0 && af == 0) (some (.spawn arg))
  | 12 => when? (arg.extractLsb' 4 8 == 0) ((src? ext af).bind fun a => (src? ext df).map fun d =>
      .amsg a d (arg.extractLsb' 0 4))
  | 13 => when? (df == 0) ((src? ext af).map fun a => .tlwait a arg)
  | 14 => when? (df == 0 && af == 0 && arg == 0) (some .wrapCommit)
  | _ => when? (arg == 0) ((src? ext af).bind fun a => (src? ext df).map fun d => .vfSet a d)

/-- A word of the scalar map of generation 3 from its fields (R87, R90); `lo` is bits [15:0]. -/
def scalarForm (ext : Word) (op : BitVec 6) (df af : BitVec 5) (lo : Half) : Option Instr :=
  let bf : BitVec 5 := lo.extractLsb' 11 5
  let fn : BitVec 8 := lo.extractLsb' 3 8
  let mode : BitVec 3 := lo.extractLsb' 0 3
  match op.toNat with
  | 0x00 => (dst? df).bind fun d => (src? ext af).bind fun a => srInt d a (src? ext bf) bf fn mode
  | 0x01 => (dst? df).bind fun d => (src? ext af).bind fun a => srFloat d a (src? ext bf) bf fn mode
  | 0x02 => (dst? df).bind fun d => (src? ext af).bind fun a => (src? ext bf).bind fun b => srThree ext d a b fn mode
  | 0x03 => when? (!mode.getLsbD 2) ((reg? df).bind fun d => (src? ext af).bind fun a => (src? ext bf).bind fun b =>
      (rmwFn? fn.toNat).map fun f => .amo f d a b (mode.getLsbD 0) (mode.getLsbD 1))
  | 0x18 => sendForm ext df af (lo.extractLsb' 13 3) (lo.extractLsb' 3 10) mode
  | 0x19 => tokenForm ext df af (lo.extractLsb' 13 3) (lo.extractLsb' 3 10) mode
  | 0x30 => sxForm ext df af (lo.extractLsb' 12 4) (lo.extractLsb' 0 12)
  | _ =>
    if op.extractLsb' 3 3 == 4 then sbForm ext (op.extractLsb' 0 3) df af lo
    else siForm ext (op.extractLsb' 0 5) df af (op.getLsbD 5) lo

/-- A retired word from its fields (R167); the REMOVED words 0x16 and 0x17 are no instructions (R168). -/
def retiredForm (ext : Word) (gen : Nat) (op : BitVec 6) (df af : BitVec 5) (lo : Half) : Option Instr :=
  let old := gen == 1 || gen == 2
  match op.toNat with
  | 0x0B => when? (old && lo == 0) ((dst? df).bind fun d => (src? ext af).map fun a => .mov d a)
  | 0x12 => when? (old && lo == 0) ((dst? df).bind fun d => (src? ext af).map fun a => .neg d a)
  | 0x13 => when? (gen == 2 && lo == 0) ((reg? df).bind fun d => (src? ext af).map fun a => .clip8 d a)
  | 0x14 => when? (gen == 1 && lo.extractLsb' 3 8 == 0) ((dst? df).bind fun d => (src? ext af).bind fun a =>
      (src? ext (lo.extractLsb' 11 5)).bind fun b => (rm? (lo.extractLsb' 0 3)).map fun rm => .fdiv d a b rm)
  | 0x15 => when? (gen == 2 && lo == 0) ((dst? df).bind fun d => (src? ext af).map fun a => .bswap d a)
  | _ => none

/-- The fields OP, D, A and [15:0] of a word (R87, R93). -/
def opOf (w : Word) : BitVec 6 := w.extractLsb' 26 6
@[inherit_doc opOf] def dOf (w : Word) : BitVec 5 := w.extractLsb' 21 5
@[inherit_doc opOf] def aOf (w : Word) : BitVec 5 := w.extractLsb' 16 5
@[inherit_doc opOf] def loOf (w : Word) : Half := w.extractLsb' 0 16

/-- Keep an instruction that is within the limits of its fields. -/
def checked (i : Option Instr) : Option Instr := i.bind fun i => if wf i then some i else none

/-- A word of the scalar map of generation `gen`, with the word after it (R88, R90, R167). -/
def decodeScalar (gen : Nat) (w ext : Word) : Option Instr :=
  checked <|
  match scalarForm ext (opOf w) (dOf w) (aOf w) (loOf w) with
  | some i => some i
  | none => retiredForm ext gen (opOf w) (dOf w) (aOf w) (loOf w)

/-- What a cell decodes (R92, R104). -/
def decodeCell (gen : Nat) (w ext : Word) : Option Instr :=
  (decodeScalar gen w ext).bind fun i => if legalOnCell gen i then some i else none

/-- What a control core decodes (R88, R92, R106). -/
def decodeCore (w ext : Word) : Option Instr :=
  (decodeScalar 3 w ext).bind fun i => if legalOnCore i then some i else none

/-- The number of words of a scalar instruction: 2 with an extension word (R88). -/
def Src.isImm : Src → Bool
  | .imm _ => true
  | _ => false

/-- Whether the word takes the next word as its immediate: one of its operand fields holds 30 (R88). -/
def takesExt (i : Instr) : Bool :=
  match i with
  | .add _ a b _ _ | .sub _ a b _ _ | .mul _ a b _ _ | .div _ a b _ _ => a.isImm || b.isImm
  | .adds _ a b _ | .subs _ a b _ | .mulh _ a b _ | .mulhu _ a b _ | .divu _ a b _ | .rem _ a b _
  | .remu _ a b _ | .and _ a b _ | .or _ a b _ | .xor _ a b _ | .andn _ a b _ | .shl _ a b _ | .shr _ a b _
  | .sra _ a b _ | .rotl _ a b _ | .min _ a b _ | .max _ a b _ | .minu _ a b _ | .maxu _ a b _ => a.isImm || b.isImm
  | .abs _ a _ _ => a.isImm
  | .clz _ a _ | .ctz _ a _ | .popc _ a _ => a.isImm
  | .cmpCc _ _ a b _ => a.isImm || b.isImm
  | .fadd _ a b _ | .fmul _ a b _ | .fdiv _ a b _ => a.isImm || b.isImm
  | .fmin _ a b | .fmax _ a b => a.isImm || b.isImm
  | .fcvtSW _ a _ | .fcvtSWu _ a _ | .fcvtWS _ a _ | .fcvtWuS _ a _ => a.isImm
  | .fcmpCc _ _ a b => a.isImm || b.isImm
  | .sel _ a b c _ => a.isImm || b.isImm || c.isImm
  | .fma _ a b c _ => a.isImm || b.isImm || c.isImm
  | .amo _ _ a b _ _ => a.isImm || b.isImm
  | .addi _ a _ | .andi _ a _ | .ori _ a _ | .xori _ a _ => a.isImm
  | .shli _ a _ | .shri _ a _ | .srai _ a _ => a.isImm
  | .cmpiCc _ _ a _ => a.isImm
  | .bfx _ a _ _ | .bfxu _ a _ _ => a.isImm
  | .bfi _ a _ _ => a.isImm
  | .bz a _ | .bnz a _ => a.isImm
  | .rep a _ => a.isImm
  | .ldB _ a _ | .ldH _ a _ | .ldW _ a _ | .ldD _ a _ => a.isImm
  | .stB v a _ | .stH v a _ | .stW v a _ | .stD v a _ => v.isImm || a.isImm
  | .send _ a _ => a.isImm
  | .steer _ c | .merge _ c => c.isImm
  | .repl a | .kout a | .swait a | .dispatch a => a.isImm
  | .rfetch _ a | .crc32c _ a _ => a.isImm
  | .cfgw a d | .vfSet a d => a.isImm || d.isImm
  | .csrw a _ | .tlwait a _ => a.isImm
  | .amsg a d _ => a.isImm || d.isImm
  | .mov _ a | .neg _ a | .bswap _ a => a.isImm
  | .clip8 _ a => a.isImm
  | _ => false

/-- Words of an instruction (R88). -/
def wordsOf (i : Instr) : Nat := if takesExt i then 2 else 1

/-! ## The vector map -/

/-- A register field of a vector word. -/
def vnum (f : BitVec 5) : VNum := Fin.ofNat 32 f.toNat

/-- The VR forms (R93, R94): FN, PE, PRED and RND. -/
def vrForm (op : BitVec 6) (d a b : BitVec 5) (fn : BitVec 4) (pe : BitVec 1) (pr rnd : BitVec 3) : Option Instr :=
  let round (f : Pred → Rm → Instr) : Option Instr :=
    when? (fn == 0) ((pred? pe pr).bind fun p => (rm? rnd).map fun rm => f p rm)
  let flat (f : Pred → Instr) : Option Instr := when? (fn == 0 && rnd == 0) ((pred? pe pr).map f)
  let flat1 (f : Pred → Instr) : Option Instr := when? (b == 0) (flat f)
  let amt (f : BitVec 9 → Pred → Instr) : Option Instr :=
    when? (rnd == 0) ((pred? pe pr).map (f (fn ++ b)))
  match op.toNat with
  | 0x00 => round (.vadd (vnum d) (vnum a) (vnum b) · ·)
  | 0x01 => round (.vsub (vnum d) (vnum a) (vnum b) · ·)
  | 0x02 => round (.vmul (vnum d) (vnum a) (vnum b) · ·)
  | 0x05 => flat1 (.vneg (vnum d) (vnum a) ·)
  | 0x06 => flat1 (.vabs (vnum d) (vnum a) ·)
  | 0x07 => flat (.vmin (vnum d) (vnum a) (vnum b) ·)
  | 0x08 => flat (.vmax (vnum d) (vnum a) (vnum b) ·)
  | 0x09 => flat1 (.vrcp (vnum d) (vnum a) ·)
  | 0x0A => flat1 (.vrsqrt (vnum d) (vnum a) ·)
  | 0x0B => flat1 (.vexp2 (vnum d) (vnum a) ·)
  | 0x0C => flat1 (.vlog2 (vnum d) (vnum a) ·)
  | 0x0D => when? (d.extractLsb' 3 2 == 0 && rnd == 0) ((cond? fn).bind fun cc => (pred? pe pr).map fun p =>
      .vcmpCc cc (Fin.ofNat 8 (d.extractLsb' 0 3).toNat) (vnum a) (vnum b) p)
  | 0x0E => when? (fn == 0 && rnd == 0 && pe == 1) (some (.vsel (vnum d) (vnum a) (vnum b) (Fin.ofNat 8 pr.toNat)))
  | 0x12 => when? (b == 0) ((redFn? fn.toNat).bind fun f => (pred? pe pr).bind fun p => (rm? rnd).map fun rm =>
      .vred f (vnum d) (vnum a) p rm)
  | 0x13 => when? (b == 0) ((redFn? fn.toNat).bind fun f => (pred? pe pr).bind fun p => (rm? rnd).map fun rm =>
      .vscan f (vnum d) (vnum a) p rm)
  | 0x14 => flat (.vperm (vnum d) (vnum a) (vnum b) ·)
  | 0x15 => amt (.vrot (vnum d) (vnum a) · ·)
  | 0x16 => amt (.vsplat (vnum d) (vnum a) · ·)
  | 0x17 => flat1 (.vmov (vnum d) (vnum a) ·)
  | 0x18 => flat (.vand (vnum d) (vnum a) (vnum b) ·)
  | 0x19 => flat (.vor (vnum d) (vnum a) (vnum b) ·)
  | 0x1A => flat (.vxor (vnum d) (vnum a) (vnum b) ·)
  | 0x1B => flat (.vshl (vnum d) (vnum a) (vnum b) ·)
  | 0x1C => flat (.vshr (vnum d) (vnum a) (vnum b) ·)
  | 0x1D => flat (.vsra (vnum d) (vnum a) (vnum b) ·)
  | _ => none

/-- The VF forms (R93, R94): VC, PE, PRED and RND. -/
def vfForm (op : BitVec 6) (d a b c : BitVec 5) (pe : BitVec 1) (pr : BitVec 3) (rnd : BitVec 2) : Option Instr :=
  match op.toNat with
  | 0x03 => (pred? pe pr).bind fun p => (rm? (rnd.zeroExtend 3)).map fun rm => .vfma (vnum d) (vnum a) (vnum b) (vnum c) p rm
  | 0x04 => (pred? pe pr).bind fun p => (rm? (rnd.zeroExtend 3)).map fun rm => .vfms (vnum d) (vnum a) (vnum b) (vnum c) p rm
  | 0x1E => when? (rnd == 0) ((pred? pe pr).map fun p => .vimad (vnum d) (vnum a) (vnum b) (vnum c) p)
  | _ => none

/-- The VC forms (R93, R94): TFMT, RND, SAT, NANP, PE, PRED and BSZ. -/
def vcForm (op : BitVec 6) (d a : BitVec 5) (fmt : BitVec 4) (rnd : BitVec 3) (sat nanp pe : BitVec 1)
    (pr bsz : BitVec 3) : Option Instr :=
  match op.toNat with
  | 0x0F => when? (bsz == 0) ((rmC? rnd).bind fun rm => (pred? pe pr).map fun p =>
      .vcvt (vnum d) (vnum a) fmt rm (sat == 1) (nanp == 1) p)
  | 0x10 => when? (sat == 0 && nanp == 0) ((rmC? rnd).bind fun rm => (pred? pe pr).map fun p =>
      .vquant (vnum d) (vnum a) fmt rm bsz p)
  | 0x11 => when? (fmt == 0 && rnd == 0 && sat == 0 && nanp == 0 && pe == 0 && pr == 0)
      (some (.vscale (vnum d) (vnum a) bsz))
  | 0x1F => when? (nanp == 0 && pe == 0 && pr == 0) <|
      if rnd == 0 then when? (a == 0) (some (.vtagSet (vnum d) fmt (sat == 1) bsz))
      else if rnd == 1 then when? (fmt == 0 && bsz == 0) (some (.vtagGet (vnum d) (vnum a) (sat == 1)))
      else none
  | _ => none

/-- The VS forms (R93, R94): VREG, PORT, LVL and NTOK. -/
def vsForm (op : BitVec 6) (v : BitVec 5) (port lvl : BitVec 3) (n : BitVec 4) (res : BitVec 11) : Option Instr :=
  when? (res == 0) <|
  match op.toNat with
  | 0x20 => when? (!port.getLsbD 2 && lvl == 0) (some (.vld (vnum v) (port.extractLsb' 0 2) n))
  | 0x21 => when? (port.extractLsb' 1 2 == 0 && lvl == 0) (some (.vst (vnum v) (port.extractLsb' 0 1) n))
  | 0x22 => when? (port.extractLsb' 1 2 == 0 && v == 0 && n == 0) (some (.vstop (port.extractLsb' 0 1) lvl))
  | 0x23 => when? (port.extractLsb' 1 2 == 0 && v == 0 && n == 0 && lvl == 0) (some (.vdone (port.extractLsb' 0 1)))
  | _ => none

/-- A word of the vector map (R93, R94). -/
def vectorForm (op : BitVec 6) (d a : BitVec 5) (lo : Half) : Option Instr :=
  match op.toNat with
  | 0x03 | 0x04 | 0x1E =>
    vfForm op d a (lo.extractLsb' 11 5) (lo.extractLsb' 6 5) (lo.extractLsb' 5 1) (lo.extractLsb' 2 3) (lo.extractLsb' 0 2)
  | 0x0F | 0x10 | 0x11 | 0x1F =>
    vcForm op d a (lo.extractLsb' 12 4) (lo.extractLsb' 9 3) (lo.extractLsb' 8 1) (lo.extractLsb' 7 1)
      (lo.extractLsb' 6 1) (lo.extractLsb' 3 3) (lo.extractLsb' 0 3)
  | 0x20 | 0x21 | 0x22 | 0x23 =>
    vsForm op d (a.extractLsb' 2 3) (a.extractLsb' 0 2 ++ lo.extractLsb' 15 1) (lo.extractLsb' 11 4) (lo.extractLsb' 0 11)
  | 0x3F => when? (d == 0 && a == 0 && lo == 0) (some .vend)
  | _ => vrForm op d a (lo.extractLsb' 11 5) (lo.extractLsb' 7 4) (lo.extractLsb' 6 1) (lo.extractLsb' 3 3) (lo.extractLsb' 0 3)

/-- What a vector tile decodes (R94, R205). -/
def decodeVector (w : Word) : Option Instr := checked (vectorForm (opOf w) (dOf w) (aOf w) (loOf w))

/-! ## Messages, nodes and packets -/

/-- Double `n` of a 64-byte image. -/
def Packet.dbl (p : Packet) (n : Nat) : Dbl := p.extractLsb' (64 * n) 64

/-- Byte `n` of a 64-byte image. -/
def Packet.byte (p : Packet) (n : Nat) : Byte := p.extractLsb' (8 * n) 8

/-- Word `n` of a 64-byte image. -/
def Packet.word (p : Packet) (n : Nat) : Word := p.extractLsb' (32 * n) 32

/-- ENGINE of word 0 (R100). -/
def Packet.engine (p : Packet) : Nat := (p.extractLsb' 52 4).toNat

/-- OPC of word 0 of a message (R100). -/
def Packet.opc (p : Packet) : Nat := (p.extractLsb' 56 8).toNat

/-- The command of a message for an engine of operator `o` of task `t` (R102). -/
def decodeCommand (t o : Nat) (p : Packet) : Option Instr :=
  match p.engine, p.opc with
  | 1, 1 => some (.mxCfg t o p)
  | 1, 2 => some (.mxLoadw t o p)
  | 1, 3 => some (.mxSwap t o p)
  | 1, 4 => some (.mxArm t o p)
  | 1, 5 => some (.mxScale t o p)
  | 1, 6 => some (.mxDrain t o p)
  | 1, 7 => some (.mxZero t o p)
  | 1, 8 => some (.mxStat t o p)
  | 2, 1 => some (.cpArm t o p)
  | 2, 2 => some (.cpFire t o p)
  | 2, 3 => some (.bufWait t o p)
  | 2, 4 => some (.bufSet t o p)
  | 2, 5 => some (.tlInc t o p)
  | 2, 6 => some (.tlWait t o p)
  | 3, 1 => some (.wkSpec t o p)
  | 3, 2 => some (.wkKerf t o p)
  | 3, 3 => some (.wkAudit t o p)
  | 3, 4 => some (.kfCtl t o p)
  | 4, 1 => some (.spCfg t o p)
  | 4, 2 => some (.spRun t o p)
  | _, _ => none

/-- The command of a message for a bank ALU (R102). -/
def decodeBank (bank lctx : Nat) (p : Packet) : Option Instr :=
  match p.engine, p.opc with
  | 5, 1 => some (.bkRmw bank lctx p)
  | 5, 2 => some (.bkRed bank lctx p)
  | 5, 3 => some (.bkApply bank lctx p)
  | 5, 4 => some (.bkFill bank lctx p)
  | 5, 5 => some (.bkColl bank lctx p)
  | _, _ => none

/-- The node of a task graph (R103). -/
def decodeNode (l : Nat) (n : Packet) : Option Instr :=
  match (n.byte 0).toNat with
  | 1 => some (.nodeTask l n)
  | 2 => some (.nodeCond l n)
  | 3 => some (.nodeLoop l n)
  | 4 => some (.nodeJoin l n)
  | 5 => some (.nodeCall l n)
  | 6 => some (.nodeWait l n)
  | 7 => some (.nodeSignal l n)
  | 8 => some (.nodeWrap l n)
  | 9 => some (.nodeEnd l n)
  | _ => none

/-- A request packet (R398). -/
def decodeRequest (aqi q : Nat) (p : Packet) : Option Instr :=
  match (p.byte 0).toNat with
  | 1 => some (.launch aqi q p)
  | 2 => some (.reqSignal aqi q p)
  | 3 => some (.reqWait aqi q p)
  | 4 => some (.cancel aqi q p)
  | _ => none

/-- An admin packet (R402). -/
def decodeAdmin (p : Packet) : Option Instr :=
  match (p.byte 0).toNat with
  | 0x10 => some (.createCtx p)
  | 0x11 => some (.destroyCtx p)
  | 0x12 => some (.createQueue p)
  | 0x13 => some (.revokePasid p)
  | 0x14 => some (.registerObj p)
  | 0x15 => some (.invalidate p)
  | 0x16 => some (.pageReply p)
  | 0x17 => some (.pause p)
  | 0x18 => some (.resume p)
  | 0x19 => some (.knotSet p)
  | 0x1A => some (.knotClear p)
  | 0x1B => some (.pstep p)
  | 0x1C => some (.clockOffset p)
  | 0x1D => some (.aqiReset p)
  | 0x1E => some (.restore p)
  | 0x1F => some (.keep p)
  | 0x20 => some (.tlClear p)
  | _ => none

/-! ## The opcode table's words -/

/-- A word of any map, as the opcode table numbers its bits (little-endian, R1, R87). The maps share bit patterns: a word
that the scalar map of generation 3 holds is read there, then one of the retired words, then one of the vector map. The
unit that fetches a word knows its map (`decodeCell`, `decodeCore`, `decodeVector`). -/
def decodeTableWord (nbits w : Nat) : Option Instr :=
  if nbits == 32 then
    let x := BitVec.ofNat 32 w
    match decodeScalar 3 x 0 with
    | some i => some i
    | none =>
      match decodeScalar 2 x 0 with
      | some i => some i
      | none =>
        match decodeScalar 1 x 0 with
        | some i => some i
        | none => decodeVector x
  else none

/-! ## Encoders -/

/-- The specifier of a read operand (R66). -/
def Src.code : Src → BitVec 5
  | .s n => BitVec.ofNat 5 n.val
  | .q n => BitVec.ofNat 5 (16 + n.val)
  | .pk n => BitVec.ofNat 5 (20 + n.val)
  | .k n => BitVec.ofNat 5 (24 + n.val)
  | .tok => 28
  | .ctxk => 29
  | .imm _ => 30

/-- The specifier of a destination (R66). -/
def Dst.code : Dst → BitVec 5
  | .s n => BitVec.ofNat 5 n.val
  | .o n => BitVec.ofNat 5 (26 + n.val)

/-- The extension word of an operand list: the immediate among them, else 0. -/
def Src.immOf : List Src → Word
  | [] => 0
  | .imm v :: _ => v
  | _ :: t => immOf t

/-- CC (R89). -/
def Cond.code : Cond → BitVec 4
  | .eq => 0 | .ne => 1 | .lt => 2 | .ge => 3 | .ltu => 4 | .geu => 5 | .le => 6 | .gt => 7 | .leu => 8 | .gtu => 9
  | .uno => 10

/-- Rounding (R91). -/
def Rm.code : Rm → BitVec 2
  | .rne => 0 | .rtz => 1 | .rup => 2 | .rdn => 3

/-- RND of VC (R93). -/
def RmC.code : RmC → BitVec 3
  | .rne => 0 | .rtz => 1 | .rup => 2 | .rdn => 3 | .sr => 4

/-- FN of amo (R91). -/
def RmwFn.code : RmwFn → BitVec 8
  | .add => 0 | .sub => 1 | .min => 2 | .max => 3 | .minu => 4 | .maxu => 5 | .and => 6 | .or => 7 | .xor => 8
  | .xchg => 9 | .cas => 10 | .fadd => 11

/-- FN of vred (R94). -/
def RedFn.code : RedFn → BitVec 4
  | .add => 0 | .min => 1 | .max => 2

/-- One bit. -/
def bit (b : Bool) : BitVec 1 := if b then 1 else 0

/-- A word of the formats of R87 and R93: OP, D, A and [15:0]. -/
def wordOf (op : BitVec 6) (d a : BitVec 5) (lo : Half) : Word := op ++ (d ++ (a ++ lo))

/-- The SR tail: B, FN, MODE. -/
def srTail (b : BitVec 5) (fn : BitVec 8) (mode : BitVec 3) : Half := b ++ (fn ++ mode)

/-- MODE of the integer group: reserved, OVT, W64. -/
def modeI (w v : Bool) : BitVec 3 := (0 : BitVec 1) ++ (bit v ++ bit w)

/-- MODE of the float group. -/
def modeF (rm : Rm) : BitVec 3 := (0 : BitVec 1) ++ rm.code

/-- A word of OP 0x00. -/
def encInt (fn : BitVec 8) (d : Dst) (a b : Src) (w v : Bool) : List Word :=
  wordOf 0x00 d.code a.code (srTail b.code fn (modeI w v)) :: if a.isImm || b.isImm then [Src.immOf [a, b]] else []

/-- A word of OP 0x00 that reads A only. -/
def encInt1 (fn : BitVec 8) (d : Dst) (a : Src) (w v : Bool) : List Word :=
  wordOf 0x00 d.code a.code (srTail 0 fn (modeI w v)) :: if a.isImm then [Src.immOf [a]] else []

/-- A word of OP 0x01. -/
def encFloat (fn : BitVec 8) (d : Dst) (a b : Src) (mode : BitVec 3) : List Word :=
  wordOf 0x01 d.code a.code (srTail b.code fn mode) :: if a.isImm || b.isImm then [Src.immOf [a, b]] else []

/-- A word of OP 0x01 that reads A only. -/
def encFloat1 (fn : BitVec 8) (d : Dst) (a : Src) (rm : Rm) : List Word :=
  wordOf 0x01 d.code a.code (srTail 0 fn (modeF rm)) :: if a.isImm then [Src.immOf [a]] else []

/-- A word of OP 0x02. -/
def encThree (sub mode : BitVec 3) (d : Dst) (a b c : Src) : List Word :=
  wordOf 0x02 d.code a.code (srTail b.code (c.code ++ sub) mode) ::
    if a.isImm || b.isImm || c.isImm then [Src.immOf [a, b, c]] else []

/-- A word of any format with one read operand in A. -/
def encA (op : BitVec 6) (d : BitVec 5) (a : Src) (lo : Half) : List Word :=
  wordOf op d a.code lo :: if a.isImm then [Src.immOf [a]] else []

/-- A word with read operands in D and A. -/
def encDA (op : BitVec 6) (d a : Src) (lo : Half) : List Word :=
  wordOf op d.code a.code lo :: if a.isImm || d.isImm then [Src.immOf [a, d]] else []

/-- An SB word whose A operand is read (R87: A in [25:21], COND in [20:16]). -/
def encSB (op : BitVec 6) (a : Src) (cond : BitVec 5) (disp : Half) : List Word :=
  wordOf op a.code cond disp :: if a.isImm then [Src.immOf [a]] else []

/-- A word without operands that may be immediate. -/
def enc0 (op : BitVec 6) (d a : BitVec 5) (lo : Half) : List Word := [wordOf op d a lo]

/-- The ST tail: LVL, FN or TAG, KIND. -/
def stTail (lvl : BitVec 3) (fn : BitVec 10) (kind : BitVec 3) : Half := lvl ++ (fn ++ kind)

/-- The SX tail. -/
def sxTail (sf : BitVec 4) (arg : BitVec 12) : Half := sf ++ arg

/-- Register, queue, port and control input specifiers. -/
def SReg.code (n : SReg) : BitVec 5 := BitVec.ofNat 5 n.val
@[inherit_doc SReg.code] def QIn.code (n : QIn) : BitVec 5 := BitVec.ofNat 5 (16 + n.val)
@[inherit_doc SReg.code] def QIn.pkCode (n : QIn) : BitVec 5 := BitVec.ofNat 5 (20 + n.val)
@[inherit_doc SReg.code] def OPort.code (n : OPort) : BitVec 5 := BitVec.ofNat 5 (26 + n.val)
@[inherit_doc SReg.code] def KIn.code (n : KIn) : BitVec 5 := BitVec.ofNat 5 (24 + n.val)
@[inherit_doc SReg.code] def VNum.code (n : VNum) : BitVec 5 := BitVec.ofNat 5 n.val

/-- The words of a scalar instruction (R87 to R92, R167); other instructions have none. -/
def encodeScalar : Instr → List Word
  | .add d a b w v => encInt 0x00 d a b w v
  | .sub d a b w v => encInt 0x01 d a b w v
  | .adds d a b w => encInt 0x02 d a b w false
  | .subs d a b w => encInt 0x03 d a b w false
  | .mul d a b w v => encInt 0x04 d a b w v
  | .mulh d a b w => encInt 0x05 d a b w false
  | .mulhu d a b w => encInt 0x06 d a b w false
  | .div d a b w v => encInt 0x07 d a b w v
  | .divu d a b w => encInt 0x08 d a b w false
  | .rem d a b w => encInt 0x09 d a b w false
  | .remu d a b w => encInt 0x0A d a b w false
  | .and d a b w => encInt 0x0B d a b w false
  | .or d a b w => encInt 0x0C d a b w false
  | .xor d a b w => encInt 0x0D d a b w false
  | .andn d a b w => encInt 0x0E d a b w false
  | .shl d a b w => encInt 0x0F d a b w false
  | .shr d a b w => encInt 0x10 d a b w false
  | .sra d a b w => encInt 0x11 d a b w false
  | .rotl d a b w => encInt 0x12 d a b w false
  | .min d a b w => encInt 0x13 d a b w false
  | .max d a b w => encInt 0x14 d a b w false
  | .minu d a b w => encInt 0x15 d a b w false
  | .maxu d a b w => encInt 0x16 d a b w false
  | .abs d a w v => encInt1 0x17 d a w v
  | .clz d a w => encInt1 0x18 d a w false
  | .ctz d a w => encInt1 0x19 d a w false
  | .popc d a w => encInt1 0x1A d a w false
  | .cmpCc cc d a b w => encInt ((2 : BitVec 4) ++ cc.code) d a b w false
  | .fadd d a b rm => encFloat 0x00 d a b (modeF rm)
  | .fmul d a b rm => encFloat 0x01 d a b (modeF rm)
  | .fmin d a b => encFloat 0x02 d a b 0
  | .fmax d a b => encFloat 0x03 d a b 0
  | .fcvtSW d a rm => encFloat1 0x08 d a rm
  | .fcvtSWu d a rm => encFloat1 0x09 d a rm
  | .fcvtWS d a rm => encFloat1 0x0A d a rm
  | .fcvtWuS d a rm => encFloat1 0x0B d a rm
  | .fcmpCc cc d a b => encFloat ((1 : BitVec 4) ++ cc.code) d a b 0
  | .sel d a b c w => encThree 0 (modeI w false) d a b c
  | .fma d a b c rm => encThree 1 (modeF rm) d a b c
  | .amo fn d a b w v =>
    wordOf 0x03 d.code a.code (srTail b.code fn.code (modeI w v)) :: if a.isImm || b.isImm then [Src.immOf [a, b]] else []
  | .addi d a imm => encA 0x04 d.code a imm
  | .andi d a imm => encA 0x05 d.code a imm
  | .ori d a imm => encA 0x06 d.code a imm
  | .xori d a imm => encA 0x07 d.code a imm
  | .shli d a n => encA 0x08 d.code a ((0 : BitVec 10) ++ n)
  | .shri d a n => encA 0x09 d.code a ((0 : BitVec 10) ++ n)
  | .srai d a n => encA 0x0A d.code a ((0 : BitVec 10) ++ n)
  | .li d imm => enc0 0x0C d.code 0 imm
  | .lih d imm => enc0 0x0D d.code 0 imm
  | .cmpiCc cc d a imm => encA 0x0E d.code a (cc.code ++ imm)
  | .bfx d a pos l => encA 0x0F d.code a ((0 : BitVec 6) ++ (pos ++ l))
  | .bfxu d a pos l => encA 0x10 d.code a ((0 : BitVec 6) ++ (pos ++ l))
  | .bfi d a pos l => encA 0x11 d.code a ((0 : BitVec 6) ++ (pos ++ l))
  | .br disp => enc0 0x20 0 0 disp
  | .bz a disp => encSB 0x21 a 0 disp
  | .bnz a disp => encSB 0x22 a 0 disp
  | .bk k v disp => enc0 0x23 k.code ((0 : BitVec 4) ++ bit v) disp
  | .bkind q kind lvl disp => enc0 0x24 (lvl ++ BitVec.ofNat 2 q.val) ((0 : BitVec 2) ++ kind) disp
  | .rep a len => encSB 0x25 a 0 ((0 : BitVec 11) ++ len)
  | .endCell => enc0 0x26 0 0 0
  | .ldB d a off => encA 0x28 d.code a off
  | .ldH d a off => encA 0x29 d.code a off
  | .ldW d a off => encA 0x2A d.code a off
  | .ldD d a off => encA 0x2B d.code a off
  | .stB v a off => encDA 0x2C v a off
  | .stH v a off => encDA 0x2D v a off
  | .stW v a off => encDA 0x2E v a off
  | .stD v a off => encDA 0x2F v a off
  | .owait ld st cp op => enc0 0x31 0 0 (ld ++ (st ++ (cp ++ op)))
  | .send o a tag => encA 0x18 o.code a (stTail 0 tag 0)
  | .sendstop o lvl tag => enc0 0x18 o.code 0 (stTail lvl tag 1)
  | .senddone o tag => enc0 0x18 o.code 0 (stTail 0 tag 2)
  | .recv d q => enc0 0x19 d.code q.code (stTail 0 1 0)
  | .peek d q => enc0 0x19 d.code q.pkCode (stTail 0 2 0)
  | .drop q => enc0 0x19 0 q.code (stTail 0 3 0)
  | .steer q c =>
    wordOf 0x19 c.code q.code (stTail 0 4 0) :: if c.isImm then [Src.immOf [c]] else []
  | .merge o c => encA 0x19 o.code c (stTail 0 5 0)
  | .collect o q => enc0 0x19 o.code q.code (stTail 0 6 0)
  | .amerge o => enc0 0x19 o.code 0 (stTail 0 7 0)
  | .tagseq o q => enc0 0x19 o.code q.code (stTail 0 8 0)
  | .repl a => encA 0x19 26 a (stTail 0 9 0)
  | .kout a => encA 0x19 0 a (stTail 0 0x00A 0)
  | .kwait k => enc0 0x19 0 k.code (stTail 0 0x00B 0)
  | .rfetch d a => encA 0x30 d.code a (sxTail 0 0)
  | .swait a => encA 0x30 0 a (sxTail 1 0)
  | .dispatch a => encA 0x30 0 a (sxTail 2 0)
  | .cfgw a d => encDA 0x30 d a (sxTail 3 0)
  | .csrr d r => enc0 0x30 d.code 0 (sxTail 4 r)
  | .csrw a r => encA 0x30 0 a (sxTail 5 r)
  | .crc32c d a n => encA 0x30 d.code a (sxTail 6 ((0 : BitVec 10) ++ n))
  | .trap c => enc0 0x30 0 0 (sxTail 7 c)
  | .eret => enc0 0x30 0 0 (sxTail 8 0)
  | .halt => enc0 0x30 0 0 (sxTail 9 0)
  | .qpop d nb n => enc0 0x30 d.code 0 (sxTail 10 ((0 : BitVec 7) ++ (bit nb ++ n)))
  | .spawn r => enc0 0x30 0 0 (sxTail 11 r)
  | .amsg a d t => encDA 0x30 d a (sxTail 12 ((0 : BitVec 8) ++ t))
  | .tlwait a c => encA 0x30 0 a (sxTail 13 c)
  | .wrapCommit => enc0 0x30 0 0 (sxTail 14 0)
  | .vfSet a d => encDA 0x30 d a (sxTail 15 0)
  | .mov d a => encA 0x0B d.code a 0
  | .neg d a => encA 0x12 d.code a 0
  | .clip8 d a => encA 0x13 d.code a 0
  | .fdiv d a b rm =>
    wordOf 0x14 d.code a.code (srTail b.code 0 (modeF rm)) :: if a.isImm || b.isImm then [Src.immOf [a, b]] else []
  | .bswap d a => encA 0x15 d.code a 0
  | _ => []

/-- PE and PRED of a vector word. -/
def Pred.pe : Pred → BitVec 1
  | none => 0
  | some _ => 1
@[inherit_doc Pred.pe] def Pred.field : Pred → BitVec 3
  | none => 0
  | some n => BitVec.ofNat 3 n.val

/-- The VR tail: VB, FN, PE, PRED, RND. -/
def vrTail (b : BitVec 5) (fn : BitVec 4) (p : Pred) (rnd : BitVec 3) : Half := b ++ (fn ++ (p.pe ++ (p.field ++ rnd)))

/-- The VF tail: VB, VC, PE, PRED, RND. -/
def vfTail (b c : BitVec 5) (p : Pred) (rnd : BitVec 2) : Half := b ++ (c ++ (p.pe ++ (p.field ++ rnd)))

/-- The VC tail: TFMT, RND, SAT, NANP, PE, PRED, BSZ. -/
def vcTail (fmt : BitVec 4) (rnd : BitVec 3) (sat nanp : Bool) (p : Pred) (bsz : BitVec 3) : Half :=
  fmt ++ (rnd ++ (bit sat ++ (bit nanp ++ (p.pe ++ (p.field ++ bsz)))))

/-- A VS word: PORT and LVL straddle A and [15:0]. -/
def vsWord (op : BitVec 6) (v : BitVec 5) (port lvl : BitVec 3) (n : BitVec 4) : Word :=
  op ++ (v ++ (port ++ (lvl ++ (n ++ (0 : BitVec 11)))))

/-- The word of a vector instruction (R93, R94); other instructions have none. -/
def encodeVector : Instr → List Word
  | .vadd d a b p rm => [wordOf 0x00 d.code a.code (vrTail b.code 0 p ((0 : BitVec 1) ++ rm.code))]
  | .vsub d a b p rm => [wordOf 0x01 d.code a.code (vrTail b.code 0 p ((0 : BitVec 1) ++ rm.code))]
  | .vmul d a b p rm => [wordOf 0x02 d.code a.code (vrTail b.code 0 p ((0 : BitVec 1) ++ rm.code))]
  | .vfma d a b c p rm => [wordOf 0x03 d.code a.code (vfTail b.code c.code p rm.code)]
  | .vfms d a b c p rm => [wordOf 0x04 d.code a.code (vfTail b.code c.code p rm.code)]
  | .vneg d a p => [wordOf 0x05 d.code a.code (vrTail 0 0 p 0)]
  | .vabs d a p => [wordOf 0x06 d.code a.code (vrTail 0 0 p 0)]
  | .vmin d a b p => [wordOf 0x07 d.code a.code (vrTail b.code 0 p 0)]
  | .vmax d a b p => [wordOf 0x08 d.code a.code (vrTail b.code 0 p 0)]
  | .vrcp d a p => [wordOf 0x09 d.code a.code (vrTail 0 0 p 0)]
  | .vrsqrt d a p => [wordOf 0x0A d.code a.code (vrTail 0 0 p 0)]
  | .vexp2 d a p => [wordOf 0x0B d.code a.code (vrTail 0 0 p 0)]
  | .vlog2 d a p => [wordOf 0x0C d.code a.code (vrTail 0 0 p 0)]
  | .vcmpCc cc d a b p => [wordOf 0x0D ((0 : BitVec 2) ++ BitVec.ofNat 3 d.val) a.code (vrTail b.code cc.code p 0)]
  | .vsel d a b p => [wordOf 0x0E d.code a.code (vrTail b.code 0 (some p) 0)]
  | .vcvt d a fmt rm sat nanp p => [wordOf 0x0F d.code a.code (vcTail fmt rm.code sat nanp p 0)]
  | .vquant d a fmt rm bsz p => [wordOf 0x10 d.code a.code (vcTail fmt rm.code false false p bsz)]
  | .vscale d a bsz => [wordOf 0x11 d.code a.code (vcTail 0 0 false false none bsz)]
  | .vred fn d a p rm => [wordOf 0x12 d.code a.code (vrTail 0 fn.code p ((0 : BitVec 1) ++ rm.code))]
  | .vscan fn d a p rm => [wordOf 0x13 d.code a.code (vrTail 0 fn.code p ((0 : BitVec 1) ++ rm.code))]
  | .vperm d a b p => [wordOf 0x14 d.code a.code (vrTail b.code 0 p 0)]
  | .vrot d a n p => [wordOf 0x15 d.code a.code (vrTail (n.extractLsb' 0 5) (n.extractLsb' 5 4) p 0)]
  | .vsplat d a n p => [wordOf 0x16 d.code a.code (vrTail (n.extractLsb' 0 5) (n.extractLsb' 5 4) p 0)]
  | .vmov d a p => [wordOf 0x17 d.code a.code (vrTail 0 0 p 0)]
  | .vand d a b p => [wordOf 0x18 d.code a.code (vrTail b.code 0 p 0)]
  | .vor d a b p => [wordOf 0x19 d.code a.code (vrTail b.code 0 p 0)]
  | .vxor d a b p => [wordOf 0x1A d.code a.code (vrTail b.code 0 p 0)]
  | .vshl d a b p => [wordOf 0x1B d.code a.code (vrTail b.code 0 p 0)]
  | .vshr d a b p => [wordOf 0x1C d.code a.code (vrTail b.code 0 p 0)]
  | .vsra d a b p => [wordOf 0x1D d.code a.code (vrTail b.code 0 p 0)]
  | .vimad d a b c p => [wordOf 0x1E d.code a.code (vfTail b.code c.code p 0)]
  | .vtagSet d fmt scl bsz => [wordOf 0x1F d.code 0 (vcTail fmt 0 scl false none bsz)]
  | .vtagGet d a clr => [wordOf 0x1F d.code a.code (vcTail 0 1 clr false none 0)]
  | .vld v p n => [vsWord 0x20 v.code ((0 : BitVec 1) ++ p) 0 n]
  | .vst v p n => [vsWord 0x21 v.code ((0 : BitVec 2) ++ p) 0 n]
  | .vstop p lvl => [vsWord 0x22 0 ((0 : BitVec 2) ++ p) lvl 0]
  | .vdone p => [vsWord 0x23 0 ((0 : BitVec 2) ++ p) 0 0]
  | .vend => [wordOf 0x3F 0 0 0]
  | _ => []

/-- The words of an instruction that has any. -/
def encode (i : Instr) : List Word := if isVector i then encodeVector i else encodeScalar i

end Sys2Proof
end

