-- ==== Sys2Proof/Config.lean ====
section
/-! DEFINITION. What the manual leaves open and the model leaves free: constants with no body, so that no proof
can lean on a value (log entries 1, 2, 10, 16, 40 and 119). -/
namespace Sys2Proof

/-- Which agent moves next. A turn names a unit that fetches its own next instruction, or a step of the device
that has no instruction word (95_what_each_step_holds.md). -/
inductive Turn where
  /-- Cell `c` of tile (x, y) issues for the context entry that R21 picks. -/
  | cell (x y c : Nat)
  /-- The vector issue unit of tile (x, y) issues for the context entry that R21 picks. -/
  | vec (x y : Nat)
  /-- Control core `k` issues. -/
  | core (k : Nat)
  /-- The engine inbox of operator `o` of task `t` takes its next command (R224). -/
  | engine (t o : Nat)
  /-- The bank ALU queue of bank `b` and launch context `lctx` takes its next command (R341). -/
  | bank (b lctx : Nat)
  /-- The issue stage of launch `l` reaches its next node (R368). -/
  | node (l : Nat)
  /-- The sequencer fetches the next packet of request queue `q` of AQI `aqi` (R397). -/
  | request (aqi q : Nat)
  /-- The next admin packet is taken (R402). -/
  | admin
  /-- A step that no unit fetches. -/
  | event (i : Instr)
deriving DecidableEq, Repr, Inhabited

namespace Config

/-- The agent that moves next when the agenda of the state is empty (R44, R62): free (log entry 1). -/
opaque nextTurn : Nat → Turn

/-- Whether a copy that reads a byte it also writes reads the value before the firing (R347): free (log entry 2). -/
opaque overlapReadsOld : Nat → Bool

/-- Which vector registers v0-v31 of an operator are declared `.persist`: the manual gives the object no place
for the declaration (R95, R96), so the set is free, a function of the object's base, graph and operator (log entry 10). -/
opaque persistV : Nat → Nat → Nat → BitVec 32

/-- Which predicates p0-p7 of an operator are declared `.persist`, free likewise (log entry 10). -/
opaque persistP : Nat → Nat → Nat → BitVec 8

/-- Whether a walker is declared `start=msg`: the manual gives the declaration no place in the object either (R99, R256);
free likewise (log entry 10). -/
opaque startMsg : Nat → Nat → Nat → Bool

/-- The key that a key identifier names in the module's key store (R165): a point of P-384, which the manual
does not list; free (log entry 16). -/
opaque signingKey : BitVec 64 → Nat × Nat

/-- The bytes that a pause writes to a save area (R388): the manual does not lay them out; free, by the model's counter of
identifiers and the byte's place (log entry 40). -/
opaque saveByte : Nat → Nat → BitVec 8

/-- The link of a TCB to the next entry of the ready queue (R363): the manual does not say how 32 bits name an entry; free, by the
model's counter of identifiers (log entry 119). -/
opaque readyLink : Nat → BitVec 32

end Config
end Sys2Proof
end

