-- ==== Sys2Proof/Machine/State.lean ====
section
/-! DEFINITION. The state of the G88: everything the manual gives the machine, as plain data. INVENTORY.md lists
each piece with the rule that names it. -/
namespace Sys2Proof.Machine

/-- Why the machine stops. -/
inductive Fault where
  /-- Raised by `step`: the unit named by a turn would fetch a word that is no instruction of its map. R105 refuses such
  a placement and R106 traps on a core, so no run that the Joiner placed reaches it. Safe: the model stops. -/
  | noInstruction
deriving DecidableEq, Repr

/-- Why the model gives no next state. -/
inductive Refusal where
  /-- Raised by an arm of `exec` whose instruction has no meaning yet. Safe: the model stops. -/
  | notModelled (mnemonic : String)
deriving DecidableEq, Repr

/-- The unit whose instruction is executing (a field of the model, log entry 1). -/
inductive Unit where
  | none
  | cell (t o : Nat)
  | vec (t o : Nat)
  | core (k : Nat)
deriving DecidableEq, Repr, Inhabited

/-- A physical place of a byte (R315, R319, R322, R154). -/
inductive Loc where
  | hbm (a : Nat)
  | shm (a : Nat)
  | tile (t a : Nat)
  | core (k a : Nat)
  | host (a : Nat)
  | remote (a : Nat)
deriving DecidableEq, Repr, Inhabited

/-- A token: header (R30), COUNT of a wide header (R31) and payload. Narrow payloads use bits [31:0], control tokens bit 0.
-/
structure Token where
  hdr : Half
  count : Half
  pay : Wide
deriving DecidableEq, Repr, Inhabited

/-- A token in a buffer, with the fc from which it can move on or be popped (R20). -/
structure QTok where
  tok : Token
  due : Nat
deriving DecidableEq, Repr, Inhabited

/-- A channel of a placed task: its table entry (R162), its route and every token it holds (R42). -/
structure Chan where
  prodOp : Nat
  prodPort : Nat
  consOp : Nat
  consPort : Nat
  net : Net
  /-- An ordering edge (R81, R162). -/
  order : Bool
  prodLo : Nat
  prodHi : Nat
  consLo : Nat
  consHi : Nat
  route : List Hop
  /-- Size of the spill extension, 0 when there is none (R45). -/
  spillCap : Nat
  spill : List QTok
  /-- Fc of the next token that the extension takes in, and of the next that it gives out, at the earliest (R45). -/
  spillIn : Nat
  spillOut : Nat
  /-- The buffer of each hop, producer end first (R25). -/
  bufs : List (List QTok)
  endq : List QTok
  /-- Places freed, with the fc: the credit of a place returns one hop upstream in the fc after (R27). -/
  freed : List (Nat × Nat)
  /-- Tokens of depth reserved by reads in flight (R10). -/
  reserved : Nat
  /-- Counted tokens pushed by the producer's current firing (R39). -/
  pushed : Nat
  /-- Counted tokens popped by the consumer's current firing (R39). -/
  popped : Nat
  /-- A done token has been popped from or pushed on it (R32). -/
  closed : Bool
  /-- The channel of another task that this one delivers into: an edge of a spawned subgraph (R60). -/
  joined : Option (Nat × Nat)
deriving DecidableEq, Repr, Inhabited

/-- A register record (R96). -/
structure RegRec where
  reg : Nat
  isState : Bool
  isInit : Bool
  value : Word
deriving DecidableEq, Repr, Inhabited

/-- A rep block in progress: its first word, its length and the runs left after this one (R131). -/
structure RepBlock where
  start : Nat
  len : Nat
  left : Nat
deriving DecidableEq, Repr, Inhabited

/-- A firing in progress (R125 to R132). -/
structure Firing where
  /-- Next word of the actor's code. -/
  pc : Nat
  /-- The firing runs the wrap-up entry (R265). -/
  wrap : Bool
  /-- Header of the token that chose the entry. -/
  guardHdr : Half
  /-- The queues at whose heads that token still stands: one, or every arm that closes (R127, R136). -/
  chosen : List Nat
  /-- That token has been popped (R127). -/
  chosenPopped : Bool
  /-- What `tok` reads (R128). -/
  lastHdr : Half
  /-- Earliest fc of the next issue (R110, R201). -/
  nextAt : Nat
  rep : Option RepBlock
  /-- `collect` has popped its token and still releases held ones (R142). -/
  releasing : Bool
  /-- Its state has been saved where it stands (R390). -/
  saved : Bool
  /-- A token that the actor forwards without an entry, and the output ports still to take it (R35, R126). -/
  fwd : Option (Token × List Nat)
deriving DecidableEq, Repr, Inhabited

/-- A cell actor (R19, R95, R96). -/
structure Cell where
  code : List Word
  /-- Generation of the decoding map (R167). -/
  gen : Nat
  /-- Offsets in `code` of words that stand for MICROCODED words (R168). -/
  micro : List Nat
  entries : List Byte
  guard : Nat
  repl : Bool
  recs : List RegRec
  /-- s0-s15 in order; s0 is hard-wired in the accessors. -/
  regs : List Word
  tseq : Nat
  next : Nat
  /-- Tokens that collect holds, by tag (R142). -/
  window : List (Nat × Token)
  retired : Bool
  /-- The wrap-up entry has ended (R265). -/
  wrapRun : Bool
  committed : Bool
  firing : Option Firing
  /-- The fc from which the next firing may begin: the one after the last firing's `end` (R20). -/
  idleFrom : Nat
  /-- The result and destination of a TRAPPED word in progress (R168). -/
  trapped : Option (Word × Dst)
deriving DecidableEq, Repr, Inhabited

/-- A vector register (R198). `lanes` holds lanes 0 to VLEN - 1. -/
structure VReg where
  lanes : List Word
  tag : Byte
  side : BitVec 512
  mark : Option Word
deriving DecidableEq, Repr, Inhabited

/-- A predicate register (R198). -/
structure PReg where
  bits : BitVec 512
  mark : Option Word
deriving DecidableEq, Repr, Inhabited

/-- A `vld` or `vst` in progress: the tokens moved, the scale token taken or sent, the lanes taken and the origin word
that marks the register (R217, R218). -/
structure Xfer where
  moved : Nat
  scale : Option (BitVec 514)
  lanes : List Word
  bad : Option Word
deriving DecidableEq, Repr, Inhabited

/-- A vector actor (R198 to R201). -/
structure Vec where
  code : List Word
  entries : List Byte
  guard : Nat
  persistV : BitVec 32
  persistP : BitVec 8
  vregs : List VReg
  pregs : List PReg
  /-- Sticky flags: bit 0 NV, bit 1 OF, bit 2 TBAD (R192). -/
  flags : BitVec 3
  /-- Stochastic rounding state (R189). -/
  x : Word
  xfer : Option Xfer
  retired : Bool
  firing : Option Firing
  /-- The fc from which the next firing may begin: the one after the last firing's `end` (R20). -/
  idleFrom : Nat
deriving DecidableEq, Repr, Inhabited

/-- MOP of a memory node (R97). -/
inductive Mop where
  | ld | st | ldfeClr | ldfeKeep | stfe | rmw | fence
deriving DecidableEq, Repr, Inhabited

/-- An access in flight of a memory node, walker, spline or engine (R10, R308). -/
structure Acc where
  /-- Sequence number, or point. -/
  k : Nat
  loc : Loc
  /-- Bytes that lie at `loc`, and the place of the rest, when the access crosses a page boundary. -/
  tail : Option (Nat × Loc)
  bytes : Nat
  write : Bool
  /-- Value written, or read when the read was performed at issue (R318). A narrow rmw holds its compared value 64 bits
  higher. -/
  val : Wide
  /-- Fc of issue. -/
  at_ : Nat
  /-- The value is already read, or the store has been accepted by a write-combining buffer. -/
  done : Bool
  /-- Origin word when the access gives poison. -/
  poison : Option Word
  /-- Not acknowledged or delivered before this fc (R318, R337). -/
  due : Nat
  /-- Header of the token to push (R171, R172, R333), or COUNT of the operand of a wide rmw (R307). -/
  hdr : Half
deriving DecidableEq, Repr, Inhabited

/-- A line of a stream buffer (R326). `line` is the key of its first byte. -/
structure Line where
  line : Nat
  data : Wide
  at_ : Nat
deriving DecidableEq, Repr, Inhabited

/-- A REPLAY stall (R329). -/
structure Stall where
  va : Dbl
  tries : Nat
  tag : Word
  stage : Nat
  /-- A request is outstanding. -/
  waiting : Bool
  /-- The pager refused it. -/
  refused : Bool
deriving DecidableEq, Repr, Inhabited

/-- A memory node (R97, R331 to R340). -/
structure Mem where
  mop : Mop
  /-- Element size in bytes: 1, 2, 4, 8 or 128 (R333). -/
  size : Nat
  rfn : RmwFn
  acq : Bool
  rel : Bool
  ascope : BitVec 2
  dscope : BitVec 2
  replay : Bool
  space : Nat
  isState : Bool
  ret : Bool
  /-- Reference doubles of the address and the count, resolved at each placement (R163). -/
  addrRef : Dbl
  countRef : Dbl
  base : Nat
  count : Nat
  /-- Next element index (R53, R333). -/
  next : Nat
  accs : List Acc
  /-- The input's done token, or the `ai` done token, has been consumed. -/
  inputDone : Bool
  /-- Done tokens have been taken from every incoming ordering edge (R308). -/
  ordered : Bool
  /-- The node's own done token has been pushed (R10, R308). -/
  doneData : Bool
  doneOrder : Bool
  /-- Origin of the first poisoned access: no done token goes out on the edges (R362). -/
  bad : Option Word
  stall : Option Stall
  /-- An access waiting for a granule's state or an rmw hold, with the fc it began to wait (R335, R337). -/
  waitFrom : Option Nat
  /-- Earliest fc of the next access (R333). -/
  issueAt : Nat
  lines : List Line
deriving DecidableEq, Repr, Inhabited

/-- A command in an inbox: its image, the control core that sent it (R156) and whether the graph sequencer did (R414). -/
structure InPkt where
  image : Packet
  core : Option Nat
  seqSender : Bool
  /-- The number of its arrival (R351, MODEL). -/
  no : Nat
deriving DecidableEq, Repr, Inhabited

/-- A reply owed by an inbox (R225). `status` is `none` until the command completes. -/
structure Reply where
  core : Option Nat
  opc : Byte
  seq : Word
  rply : Bool
  word7 : Dbl
  status : Option Nat
  /-- Payload in place of the status word (R342), or a poison token's origin (R344). -/
  value : Option Word
  poison : Option Word
  id : Nat
  /-- Fc in which the command completed: its reply releases the writes issued up to then (R225, R357). -/
  doneAt : Nat
deriving DecidableEq, Repr, Inhabited

/-- An engine inbox of one context entry, or a bank ALU queue (R224, R341, R169). -/
structure Inbox where
  rev : Nat
  packets : List InPkt
  /-- Fc from which the next command may be taken (R224). -/
  nextAt : Nat
  replies : List Reply
  /-- A port reply held until its queue has room (R414). -/
  held : Option (Nat × Nat × Token)
  frozen : Bool
  /-- Commands started so far; it numbers the replies (MODEL). -/
  started : Nat
  /-- Fc in which the `tl.inc` at the head came to its turn, while it waits for the writes that it releases (R352, R357). -/
  relAt : Option Nat
deriving DecidableEq, Repr, Inhabited

/-- A weight plane (R222, R229): weights by 128 * row + column, absent entries 0. -/
structure Plane where
  w : List (Nat × Int)
  /-- E8M0 scale of each K block; 127 stands for exponent 0. -/
  eb : List Nat
  s : Nat
  poison : Option Word
deriving DecidableEq, Repr, Inhabited

/-- A weight load in progress (R230). -/
structure Load where
  stream : Bool
  va : Dbl
  /-- Lines issued or tokens taken. -/
  taken : Nat
  /-- The scale token of an MX stream image has been taken. -/
  scaled : Option (List Nat)
  lines : List Wide
  poison : Option Word
  reply : Nat
  /-- Fc from which the next token may be taken, or in which the last line has arrived at the earliest. -/
  at_ : Nat
deriving DecidableEq, Repr, Inhabited

/-- The entry of a matrix tile (R222). -/
structure Matrix where
  /-- Word 1 of the declaration's mx.cfg and the three doubles after it (R175). -/
  decl : List Dbl
  configured : Bool
  afmt : Nat
  wfmt : Nat
  mx : Bool
  ncol : Nat
  rows : Nat
  kpass : Nat
  active : Plane
  shadow : Plane
  /-- Column scales, by column; absent entries are 1.0. -/
  cs : List (Nat × Word)
  csPoison : Option Word
  /-- Accumulators by 128 * row + column; absent entries are +0. -/
  acc : List (Nat × Word)
  /-- Marked rows and their origins (R233). -/
  marks : List (Nat × Word)
  /-- Latched E8M0 scales of the activation K blocks; 127 stands for exponent 0. -/
  ea : List Nat
  armed : Nat
  /-- Tokens taken by the operation in progress. -/
  idx : Nat
  pass : Nat
  opOpen : Bool
  /-- Reply of the mx.arm in progress. -/
  armReply : Nat
  /-- The operation was ended by a done token, and its rows may be partial (R233). -/
  partialRows : Bool
  swapPending : Option Nat
  /-- Operations that must end before the swap applies: true while the operation it met is in progress (R231). -/
  swapAfter : Bool
  load : Option Load
  /-- Output tokens waiting to be pushed, oldest first (R234). -/
  out : List Token
  /-- Earliest fc of the next token, and of the next push (R234). -/
  takeAt : Nat
  pushAt : Nat
  /-- Each `mx.drain` whose rows are being pushed: the tokens left and its reply. -/
  drains : List (Nat × Nat)
  /-- Sticky flags: bit 0 TBAD, 1 NAN, 2 OF, 3 WNAN (R239). -/
  flags : BitVec 4
  ops : Nat
  tokens : Nat
  inbox : Inbox
deriving DecidableEq, Repr, Inhabited

/-- Parameters a walker latches at a block (R246). -/
structure Kerf where
  l : Nat
  pat : Nat
  da : Nat
  db : Nat
  phase : Nat
  lm : Nat
  la : Nat
  seed : Word
  audit : Nat
  win : Nat
deriving DecidableEq, Repr, Inhabited

/-- One dimension of a walk or copy: points and strides (R242, R346). -/
structure DimRec where
  ext : Nat
  sstr : Int
  dstr : Int
deriving DecidableEq, Repr, Inhabited

/-- What a spline has to know of a walk of its walker that has ended (R176, R256): its points issued, in order, its extents, the
parameters of its last block (R246), and the level of its end token. -/
structure WalkRec where
  pts : List Nat
  exts : List Nat
  latched : Kerf
  endLvl : Nat
deriving DecidableEq, Repr, Inhabited

/-- A walker (R99, R242 to R259). -/
structure Walker where
  /-- The walks that have ended, in order. -/
  past : List WalkRec
  dims : List DimRec
  baseRef : Dbl
  maskRef : Dbl
  base : Nat
  maskVa : Nat
  maskBytes : Nat
  handle : Nat
  pref : Bool
  startMsg : Bool
  /-- Values in force, those in force before the changes of fc `chgAt`, and those latched at a block (R246). -/
  now : Kerf
  prev : Kerf
  chgAt : Nat
  latched : Kerf
  /-- A walk is in progress, or is to begin. -/
  walking : Bool
  /-- Its first block has begun: the mask's handle is filling (R245). -/
  begun : Bool
  /-- The block in progress has begun. -/
  inBlock : Bool
  blockAt : Nat
  pos : Nat
  /-- Issued tokens of the current block (R246). -/
  issued : Nat
  /-- Skipped points passed so far: s (R172). -/
  skips : Nat
  /-- The kerf mask of the walk in progress, as a number whose bit n is point n (R171). -/
  mask : Nat
  /-- Lines of the mask that have been written (R244). -/
  lined : Nat
  /-- Points issued in the walk, in order (R176). -/
  pts : List Nat
  /-- The walk was ended at the stop instant or by the wrap-up mark (R173, R265). -/
  stopped : Bool
  endLvl : Nat
  /-- The walk has ended: its mask is complete and the handle full. -/
  ended : Bool
  /-- It ended at the stop instant, before its last point (R255). -/
  cut : Bool
  /-- Walks that have ended (R256). -/
  walks : Nat
  /-- The done token has been pushed; no further walk can start (R256). -/
  doneOut : Bool
  specReply : Option Nat
  /-- Earliest fc of the next issue. -/
  issueAt : Nat
  accs : List Acc
  inbox : Inbox
deriving DecidableEq, Repr, Inhabited

/-- Where a spline unit stands: taking tokens, reconstructing, waiting for its stores, or past its done token (R176). -/
inductive SplinePhase where
  | take | recon | acks | done
deriving DecidableEq, Repr, Inhabited

/-- An `sp.run` in progress (R258): its mask region, the extents of the walk that wrote it, its handle and its reply. -/
structure SplineRun where
  handle : Nat
  base : Nat
  exts : List Nat
  passed : Nat
  /-- The mask, as a number whose bit n is point n (R171). -/
  mask : Nat
  /-- Flags of its own validity map (R258). -/
  flags : List (Nat × Nat)
  /-- What the unit returns to: the tokens of a walk, or the end of its input. -/
  back : SplinePhase
  reply : Nat
deriving DecidableEq, Repr, Inhabited

/-- A spline unit (R176 to R179, R250 to R258). -/
structure Spline where
  fmt : Nat
  kernel : Nat
  da : Nat
  db : Nat
  /-- Wide tokens of a tile. -/
  tile : Nat
  baseRef : Dbl
  countRef : Dbl
  base : Nat
  count : Nat
  /-- Operator index of the walker named by `from=`; 0xFFFF where there is none. -/
  walker : Nat
  /-- Tokens taken in the walk. -/
  taken : Nat
  /-- Tile contents of the points computed in the walk, and the audited ones among them (R251). -/
  computed : List (Nat × List Wide)
  audited : List Nat
  inputDone : Bool
  phase : SplinePhase
  /-- Next point to reconstruct (R259), and the tokens of its tile that are stored; past the last point, pieces of the
  validity map that are stored. -/
  next : Nat
  sub : Nat
  /-- Walks whose end token has been answered with a reconstruction (R256). -/
  walks : Nat
  /-- Errors of the open audit window, in comparison order (R179). -/
  window : List Word
  flags : List (Nat × Nat)
  /-- The store of the validity map has been acknowledged, and where the map lies (R178, R268). -/
  mapStored : Bool
  mapVa : Nat
  /-- The unit holds the mask's handle in the draining state (R245, R259). -/
  holds : Bool
  accs : List Acc
  run : Option SplineRun
  inbox : Inbox
deriving DecidableEq, Repr, Inhabited

/-- FOP of a fibre unit (R98). -/
inductive Fop where
  | scan | dense | isect | union | repeat_ | reduce | lookup | write | filter
deriving DecidableEq, Repr, Inhabited

/-- LAST of the grammar state (R289). -/
inductive GLast where
  | start
  | data
  | stop (m : Nat)
  | done
deriving DecidableEq, Repr, Inhabited

/-- Grammar state of one fibre input: LAST, MAX and the stops of the expanded run still to act on (R289, R290). -/
structure Gram where
  last : GLast
  max : Nat
  /-- Levels of the run for the token at the head; empty when none is under way. -/
  run : List Nat
deriving DecidableEq, Repr, Inhabited

/-- A fibre unit (R98, R277 to R305). -/
structure Fibre where
  fop : Fop
  level : Nat
  nin : Nat
  dropEmpty : Bool
  vfmt : Nat
  rop : RedFn
  bufBase : Nat
  bufSize : Nat
  /-- Constants of R295: address and count references alternate; others stand as written. -/
  consts : List Dbl
  /-- Resolved addresses and counts (R296). -/
  addrs : List Nat
  counts : List Nat
  /-- Words of each read array. -/
  arrays : List (List Word)
  /-- Poisoned buffer lines: array, line and origin (R296). -/
  badLines : List (Nat × Nat × Word)
  /-- Lines of the read arrays whose reads have been issued, and whether all have arrived (R279). -/
  nextLine : Nat
  loaded : Bool
  gram : List Gram
  /-- Fibre being pushed by a scan or dense unit: reference and next position (R287), and whether the reference was audit
  data (R291). -/
  pushing : Option (Nat × Nat)
  pushAudit : Bool
  /-- Earliest fc of the next step (R280). -/
  nextAt : Nat
  /-- An unbound `ri` has delivered its root token (R278). -/
  rootUsed : Bool
  rootDone : Bool
  /-- Last coordinate popped from each side (R283). -/
  lastCoord : List (Option Word)
  sum : Option Word
  /-- The entries folded include audit data (R291). -/
  sumAudit : Bool
  fibrePoison : Option Word
  i : Nat
  f : Nat
  closed : Bool
  accs : List Acc
  retired : Bool
deriving DecidableEq, Repr, Inhabited

/-- An endpoint of a copy (R346). -/
inductive EndPt where
  | addr (va : Nat)
  | mtile (a : Nat)
  | port (p : Nat)
deriving DecidableEq, Repr, Inhabited

/-- A copy's read of another device: it is on its way, its data are here, or it ended with a fault (R405). -/
inductive Fetch where
  | asked
  | here
  | lost (code : BitVec 7)
deriving DecidableEq, Repr, Inhabited

/-- A template slot of a copy engine (R346, R347). -/
structure Slot where
  armed : Bool
  /-- The declaration of the node armed it, and its references are resolved at each placement (R163, R349). -/
  declared : Bool
  src : EndPt
  dst : EndPt
  dims : List DimRec
  esize : Nat
  ten : Bool
  tport : Nat
  sh : Option Nat
  dh : Option Nat
  rpl : Bool
  rply : Bool
  word7 : Dbl
  seq : Word
  /-- A firing is in progress. -/
  firing : Bool
  /-- Both handles have been taken (R347 L010, L020). -/
  shTaken : Bool
  dhTaken : Bool
  /-- Next part in point order, and its bytes that earlier transfers have moved (R345). -/
  elem : Nat
  sub : Nat
  /-- Parts of the source token that are not copied yet, `none` for a poisoned one, and the parts of it copied. -/
  inTok : List (Option Wide)
  inPos : Nat
  /-- That token is audit data (R36). -/
  inAudit : Bool
  /-- Parts of the destination token being packed, and whether audit data is among them. -/
  outTok : List Wide
  outAudit : Bool
  /-- Bytes that this firing has overwritten, as they were before it, and the number of the firing (R347, MODEL). -/
  old : List (Nat × Byte)
  fireNo : Nat
  stall : Option Stall
  /-- The read of the next transfer's source at another device (R405). -/
  fetch : Option Fetch
  status : Nat
  finished : Bool
  /-- Reply of the `cp.fire` that started it. -/
  fireReply : Option Nat
deriving DecidableEq, Repr, Inhabited

/-- The copy engine of a tile's context entry (R345). -/
structure Copy where
  slots : List Slot
  /-- Slot armed at placement by the declaration, with its doubles (R349). -/
  decl : List Dbl
  /-- The template served last (R345). -/
  rr : Nat
  inbox : Inbox
deriving DecidableEq, Repr, Inhabited

/-- The kinds of operator of R95. -/
inductive OpKind where
  | cell (c : Cell)
  | vec (v : Vec)
  | mem (m : Mem)
  | matrix (m : Matrix)
  | fibre (f : Fibre)
  | walker (w : Walker)
  | spline (p : Spline)
  | copy (c : Copy)
deriving DecidableEq, Repr, Inhabited

/-- An operator of a placed task. -/
structure Op where
  place : OpPlace
  /-- Fault register: code and DETAIL (R5, R383, R384). -/
  fault : Option (BitVec 7 × Word)
  /-- Fc since the freeze, while its record is not queued (R383). -/
  faultFor : Nat
  recorded : Bool
  /-- First poison held as a sink, with the fc of its receipt (R135, R373). -/
  poison : Option (Word × Nat)
  heldDone : Bool
  firings : Nat
  kind : OpKind
deriving DecidableEq, Repr, Inhabited

/-- A message template (R146). -/
structure Tmpl where
  image : Packet
  desc : Dbl
deriving DecidableEq, Repr, Inhabited

/-- A decoded graph (R160 to R163), kept for later phases and re-placements. -/
structure Graph where
  /-- Graph index in its object. -/
  index : Nat
  /-- Segment offset of its header. -/
  header : Nat
  gen : Nat
  rev : Nat
  mode : Nat
  /-- BODY_HASH (R160), and tiles needed of the kinds V, M, S, F and P (R40). -/
  hash : Nat
  need : List Nat
  /-- PLACE of each operator (R95). -/
  places : List Nat
  ops : List OpKind
  chans : List Chan
  consts : List Dbl
  /-- fork, join, s (R43). -/
  skews : List (Nat × Nat × Nat)
  /-- owner, slot, target and record of each template (R163). -/
  tmpls : List (List Dbl)
  stateSize : Nat
  wrapBudget : Nat
  kerf : Word
deriving DecidableEq, Repr, Inhabited

/-- A rectangle of tiles (R46). -/
structure Rect where
  x : Nat
  y : Nat
  w : Nat
  h : Nat
deriving DecidableEq, Repr, Inhabited

/-- A memory-tile region of a placed task (R316). -/
structure Region where
  num : Nat
  tile : Nat
  base : Nat
  size : Nat
  isState : Bool
deriving DecidableEq, Repr, Inhabited

/-- A line of a write-combining buffer (R327): its tile, the key of its first byte and the bytes written. -/
structure WLine where
  tile : Nat
  line : Nat
  bytes : List (Nat × Byte)
  /-- The stores put into it. -/
  stores : Nat
  /-- Fc of the last write to the line, and the earliest issue of a store that it holds. -/
  last : Nat
  since : Nat
deriving DecidableEq, Repr, Inhabited

/-- Where a tile task stands between placement and its end (R11, R12, R383). -/
inductive TaskPhase where
  | running
  | pausing
  | paused
  /-- Stopped by a freeze or discarded by a cancellation, and waiting for its last acknowledgement (R383). -/
  | stopping
deriving DecidableEq, Repr, Inhabited

/-- Poison that a sink received first: fc of its receipt, ORIGIN, WHO, GRAPH and HOLDER (R373, R374). -/
structure SinkPoison where
  fc : Nat
  origin : Word
  who : Nat
  graph : Nat
  holder : Nat
deriving DecidableEq, Repr, Inhabited

/-- A placed or paused tile task. -/
structure Task where
  launch : Nat
  lctx : Nat
  /-- Virtual address of its TCB (R363); 0 for a spawned subgraph. -/
  tcb : Nat
  obj : Nat
  frame : Nat
  graphs : List Graph
  /-- Phase of a context stack (R57). -/
  phase : Nat
  bay : Rect
  /-- Context entries taken on every tile of the bay, one for each phase (R24): tile key, entry numbers. -/
  entries : List (Nat × List Nat)
  choice : PlaceChoice
  ops : List Op
  chans : List Chan
  /-- Templates of its context entries: tile, slot and template (R146). -/
  tmpls : List (Nat × Nat × Tmpl)
  regions : List Region
  /-- Contents and tags of regions saved at a pause (R53): region, bytes and tags by offset. -/
  saved : List (Nat × List (Nat × Byte) × List (Nat × Nat))
  wcb : List WLine
  balance : Int
  status : TaskPhase
  /-- Why a stopping task ends: 5 FAILED or 7 CANCELLED (R364). -/
  endState : Nat
  /-- Fc that a pause has lasted, in fc of the slowest block of the bay (R274, R390). -/
  pauseFor : Nat
  /-- Stop condition of a kept PAUSE (R11). -/
  wrapMark : Bool
  /-- Fc from which the wrap control token may arrive (R264). -/
  wrapDue : Option Nat
  /-- Task of a wrap-up node list (R363). -/
  wrapX : Bool
  /-- A fault record has been queued for it, and the RESULT it wrote (R365). -/
  faulted : Bool
  result : Dbl
  /-- The first poison that a sink of an earlier phase, or of a subgraph that has ended, received (R373). -/
  oldPoison : Option SinkPoison
  /-- Requesting task, operator and reply queue of a spawned subgraph (R60). -/
  parent : Option (Nat × Nat × Nat)
  saveFigure : Nat
  /-- Spill extensions of the channels of each phase as placed (R45). -/
  caps : List (List Nat)
  /-- Fc from which the first firing may begin (R49). -/
  startAt : Nat
  /-- Messages of matrix declarations still to be sent: operator and packet (R175). -/
  decls : List (Nat × Packet)
deriving DecidableEq, Repr, Inhabited

/-- An rmw access that a memory tile's port has accepted: its write fc, place and new value (R337). It holds its granules
until the fc after the write. -/
structure RmwFlight where
  at_ : Nat
  t : Nat
  o : Nat
  k : Nat
  a : Nat
  bytes : Nat
  val : Nat
  written : Bool
deriving DecidableEq, Repr, Inhabited

/-- A tile (R18 to R24). Absent tiles of the sparse map are `default` but for marks loaded from flash. -/
structure Tile where
  /-- Context store entries 0-7 (R24). -/
  store : List Word
  slots : Dbl
  /-- A recomputed slot table that does not apply yet, and the fc of its recomputation (R22). -/
  newSlots : Option (Dbl × Nat)
  slotPtr : BitVec 4
  msgRr : Nat
  rmwRr : Nat
  copyRr : Nat
  /-- Fc of the last issue of each cell (0-7), of the vector unit (8), of the message port (9), of the RMW port (10) and of
  the copy engine (11), and of the last advance of the slot pointer (12) (R20, R21, R146, R337, R345). -/
  lastIssue : List (Nat × Nat)
  /-- rmw accesses in flight (R337). -/
  rmws : List RmwFlight
  /-- TAI ns of correctable errors (R412). -/
  errs : List Nat
  uncorrected : Nat
deriving DecidableEq, Repr, Inhabited

/-- A message on its way to an inbox (R146, R224). `entry` is the sender's lane. -/
structure Msg where
  /-- Sender: tile key and context entry, or a control core (128 * 48 + core). -/
  from_ : Nat
  entry : Nat
  x : Nat
  y : Nat
  packet : Packet
  /-- Operator the template names, when it is one of a task (R414). -/
  target : Option (Nat × Nat)
  due : Nat
  seqSender : Bool
deriving DecidableEq, Repr, Inhabited

/-- Who waits for a translation (R324). -/
inductive XUser where
  | op (t o : Nat)
  | core (k : Nat)
deriving DecidableEq, Repr, Inhabited

/-- A translation miss: waiting, walking, or ended in a fault (R324, R328). -/
structure Miss where
  die : Nat
  /-- The accesses that wait for the walk, the one that began it first. -/
  users : List XUser
  lctx : Nat
  pasid : Nat
  va : Nat
  kind : Nat
  walking : Bool
  /-- Stage of the fault that ended the walk. -/
  fault : Option Nat
  order : Nat
deriving DecidableEq, Repr, Inhabited

/-- An entry of a translation cache (R324): page base, size, place of its first byte, permissions. -/
structure XEntry where
  die : Nat
  pasid : Nat
  aqi : Nat
  va : Nat
  size : Nat
  loc : Loc
  r : Bool
  w : Bool
deriving DecidableEq, Repr, Inhabited

/-- A page request in flight (R329). -/
structure PageReq where
  tag : Word
  t : Nat
  o : Nat
  /-- A Page Request Interface request of a stage 2 host fault. -/
  host : Bool
  record : BitVec 256
deriving DecidableEq, Repr, Inhabited

/-- An outstanding device load or amo of a core (R154, R155). -/
structure CoreLoad where
  d : Nat
  /-- Its effective address (R152). -/
  va : Dbl
  loc : Loc
  bytes : Nat
  pc : Dbl
  /-- Its place in the program order of the core's accesses (MODEL). -/
  seq : Nat
  /-- Sign-extend the value (R154). -/
  ext : Bool
  /-- Old value of an amo, already read by its bank (R155), or the value that another device returned (R405). -/
  amo : Option Dbl
deriving DecidableEq, Repr, Inhabited

/-- A store of a core not yet performed at PKG (R156). -/
structure CoreStore where
  seq : Nat
  loc : Loc
  bytes : Nat
  val : Dbl
  /-- Fc of issue (R361). -/
  at_ : Nat
deriving DecidableEq, Repr, Inhabited

/-- A control core (R151 to R158). -/
structure Core where
  /-- s0-s15 in order; s0 is hard-wired in the accessors. -/
  regs : List Dbl
  pc : Dbl
  status : Dbl
  epc : Dbl
  cause : Dbl
  eval : Dbl
  tvec : Dbl
  ctxk : Dbl
  scratch : Dbl
  cycle : Dbl
  loads : List CoreLoad
  stores : List CoreStore
  copies : Nat
  cmds : Nat
  /-- Accesses numbered below this came before an `owait` with a store limit of 0: a later store releases them (R358). -/
  relSeq : Nat
  halted : Bool
  /-- Launch whose fault service routine runs (R375). -/
  fsr : Option Nat
  tmpls : List Tmpl
deriving DecidableEq, Repr, Inhabited

/-- A node the look-ahead stage has passed and the issue stage has not reached (R369). -/
structure Ahead where
  node : Packet
  off : Nat
  /-- A COND or LOOP whose predicate was read, and the node taken (R311). -/
  arm : Option Nat
  /-- A halt: code and DETAIL (R369). -/
  halt : Option (BitVec 7 × Word)
deriving DecidableEq, Repr, Inhabited

/-- A live task set (R363, R366): its TCBs. -/
structure TaskSet where
  tcbs : List Nat
deriving DecidableEq, Repr, Inhabited

/-- A launch (R262, R253, R368, R398). -/
structure Launch where
  lctx : Nat
  aqi : Nat
  q : Nat
  useq : Word
  cls : Nat
  deadline : Dbl
  budget : Nat
  optin : Bool
  /-- Pattern of the request; `none` when the graphs' defaults apply (R246). -/
  pat : Option Nat
  defaults : Bool
  fsr : Option Nat
  farg : Dbl
  obj : Nat
  l : Nat
  /-- L before the last record, and the fc of that record (R246). -/
  lOld : Nat
  lAt : Nat
  lSet : Bool
  scut : Nat
  pcut : Nat
  frz : Bool
  /-- Updates of L that arrived in a fc and are recorded in the next (R254): fc, rank, value, and whether the value is a
  step. -/
  updates : List (Nat × Nat × Int × Bool)
  /-- CE and FRZ at the end of the last fc, by which its updates are applied (R254). -/
  ceWas : Nat
  frzWas : Bool
  /-- Numbers of its fault records that are queued, in order: by the first, routines wait (R375). -/
  recs : List Nat
  /-- Offset of the next node the look-ahead stage reads, and of the list it lies in. -/
  look : Option Nat
  list : Nat
  /-- Return points and lists of the call chain (R369). -/
  calls : List (Nat × Nat)
  /-- Pass counts of the LOOPs of each entry of the chain: depth, node, count (R313, R370). -/
  passes : List (Nat × Nat × Nat)
  ahead : List Ahead
  joinHeld : Bool
  /-- TCBs of the TASK node passed last (R310). -/
  chain : Option (List Nat)
  sets : List TaskSet
  rseq : Nat
  wrapList : Option Nat
  inWrap : Bool
  ended : Bool
  halted : Bool
  cancelled : Bool
  absent : Bool
  stopDone : Bool
  deadlineDone : Bool
  paused : Bool
  /-- A task of it ended FAILED or DEP_FAILED; a task ended ABSENT or by wrap-up (R387). -/
  anyFailed : Bool
  anyDeadline : Bool
deriving DecidableEq, Repr, Inhabited

/-- An entry of the ready queue (R376, R378). -/
structure Ready where
  launch : Nat
  tcb : Nat
  cls : Nat
  rseq : Nat
  cost : Nat
  remain : Nat
  bypass : Nat
  wrapX : Bool
deriving DecidableEq, Repr, Inhabited

/-- A placement request to the Joiner (R49). -/
inductive PReq where
  /-- A ready entry. -/
  | ready (r : Ready)
  /-- A re-placement of a paused task (R56). -/
  | again (t : Nat)
  /-- A spawn: task, operator, constant index of its record (R60). -/
  | spawn (t o rec : Nat)
deriving DecidableEq, Repr, Inhabited

/-- An entry of the placement cache (R48): its object and the BODY_HASH of its first graph (R160). -/
structure CacheEnt where
  obj : Nat
  graph : Nat
  bay : Rect
  choice : PlaceChoice
  depths : List (List Nat)
deriving DecidableEq, Repr, Inhabited

/-- How a placement that has begun will end, as far as it is known (R49, R50, R105, R166). -/
inductive PlaceOut where
  /-- The bay it is given, and the cache entry it reuses when it is warm. -/
  | fits (bay : Rect) (warm : Option CacheEnt)
  /-- The object was tainted before: the page that failed. -/
  | hash (page : Nat)
  /-- GRAPH, WHO and DETAIL of an ILLEGAL item (R413). -/
  | illegal (graph who detail : Nat)
  /-- A failure-to-fit report (R51) with its code and WHO. -/
  | report (code who : Nat) (image : Packet)
deriving DecidableEq, Repr, Inhabited

/-- The placement that the Joiner has begun (R49). -/
structure Placing where
  req : PReq
  launch : Nat
  lctx : Nat
  tcb : Nat
  obj : Nat
  /-- Index of the graph it names. -/
  graph : Nat
  frame : Nat
  graphs : List Graph
  /-- Pages of the object that it reads (R165). -/
  pages : List Nat
  out : PlaceOut
deriving DecidableEq, Repr, Inhabited

/-- A registered object (R165, R166). -/
structure Obj where
  va : Nat
  pasid : Nat
  aqi : Nat
  size : Nat
  signed : Bool
  tainted : Bool
  signedEnd : Nat
  manifest : Nat
  verified : List Nat
  failed : List Nat
  /-- A restored image names it, and it has not been registered again (R410). -/
  lost : Bool
deriving DecidableEq, Repr, Inhabited

/-- What the completion entry of an admin command echoes: the packet's USEQ and LCTX (R399, R402). -/
structure AdminTag where
  useq : Word
  lctx : Nat
deriving DecidableEq, Repr, Inhabited

/-- A launch context (R403, R408). -/
structure Ctx where
  /-- The context record as written (R403). -/
  record : BitVec 1024
  pausing : Bool
  paused : Bool
  /-- Stop condition of an accepted PAUSE: operator and count (R11). -/
  stopCond : Option (Nat × Nat)
  /-- The task it names, once known. -/
  stopTask : Option Nat
  /-- Admin tags of the PAUSE and RESUME in progress. -/
  pauseTag : Option AdminTag
  resumeTag : Option AdminTag
  /-- Fault record queue (R385): the launch of each entry (MODEL) and the entry. -/
  faults : List (Nat × BitVec 256)
  lost : Half
  legacyTrapped : Word
  legacyMicro : Word
  saveFigure : Nat
  /-- Idle fc so far (R394). -/
  idle : Nat
  busy : Bool
  /-- Physical base of the shared window (R319). -/
  shmBase : Nat
  /-- Keep windows 0-3: VA and length (R410). -/
  keeps : List (Nat × Nat × Nat)
  bankRev : Option Nat
  dead : Bool
deriving DecidableEq, Repr, Inhabited

/-- A request queue of an AQI (R396, R397, R399). -/
structure Queue where
  pasid : Nat
  ring : Nat
  comp : Nat
  size : Nat
  head : Nat
  tail : Nat
  ctail : Nat
  phase : Bool
  irq : Option Nat
deriving DecidableEq, Repr, Inhabited

/-- An assignable queue interface (R396). -/
structure Aqi where
  queues : List (Nat × Queue)
  unsignedOk : Bool
  irqs : List (Nat × BitVec 128)
  pageReqs : List (BitVec 256)
  /-- Partition table entries (R322), absent entries 0. -/
  parts : List (Nat × Dbl)
deriving DecidableEq, Repr, Inhabited

/-- A bank ALU command in progress (R341 to R344). -/
structure BankCmd where
  opc : Nat
  lctx : Nat
  fn : RmwFn
  d64 : Bool
  ret : Bool
  scal : Bool
  dst : Nat
  src : Nat
  n : Nat
  i : Nat
  v : Dbl
  c : Dbl
  /-- Source elements that have been read and not yet applied (R343, R344). -/
  got : List Nat
  /-- A remote read is outstanding (R344). -/
  waiting : Bool
  status : Nat
  reply : Nat
deriving DecidableEq, Repr, Inhabited

/-- A bank ALU: its queues by launch context, the commands that run, the context served last and the fc from which the
next line operation may be applied (R341). -/
structure Bank where
  queues : List (Nat × Inbox)
  running : List (Nat × BankCmd)
  rr : Nat
  nextAt : Nat
deriving DecidableEq, Repr, Inhabited

/-- A remote access outstanding on the span transport (R405). -/
structure SpanOut where
  id : Nat
  launch : Nat
  t : Nat
  o : Nat
  /-- The bank and context whose collective reads (R344). -/
  bank : Option (Nat × Nat)
  /-- The control core whose access it is (R154). -/
  core : Option Nat
  /-- Its context, and the stores that it carries: each counts in LOST when it is abandoned (R409). -/
  lctx : Nat
  stores : Nat
  /-- Sequence number of the access at its unit. -/
  k : Nat
  write : Bool
  key : Nat
  bytes : Nat
  /-- When it left, on `Clock.run` (R405), and in which fc. -/
  at_ : Nat
  since : Nat
deriving DecidableEq, Repr, Inhabited

/-- An admin command that completes later (R402). -/
inductive AdminWait where
  | pause (lctx : Nat)
  | resume (lctx : Nat)
  | destroy (lctx : Nat)
  | aqiReset (aqi : Nat)
  | revoke (pasid : Nat)
  /-- A function-level reset of PF0 (R406): no packet waits for it. -/
  | functionReset
  /-- The fc and the identifier at which it was accepted: accesses from before have to end (R325). -/
  | invalidate (pasid fc id : Nat)
deriving DecidableEq, Repr, Inhabited

/-- Notices the manual says the admin queue is told (R56, R375, R385, R397, R401). -/
inductive Notice where
  | fitFailed (lctx : Nat)
  | fsrTrap (core : Nat) (cause : Dbl)
  | recordLost (lctx : Nat)
  | notifyDropped (aqi q : Nat)
  | pasidRefused (aqi pasid : Nat)
deriving DecidableEq, Repr, Inhabited

/-- The power manager (R272 to R276). -/
structure Power where
  pin : BitVec 4
  adm : BitVec 4
  /-- Highest sub-step engaged, coded as LEVER (R276). -/
  lever : Nat
  ack : Bool
  /-- Powered-down pseudo-channels (R273). -/
  down : List (Nat × Nat)
  /-- The last access of a pseudo-channel, on `Clock.run` (R273). -/
  access : List ((Nat × Nat) × Nat)
deriving DecidableEq, Repr, Inhabited

/-- The deadline clock (R260, R261). -/
structure Clock where
  ns : Dbl
  /-- `ns` at the start of the fc, against which the fc is compared (R260). -/
  start : Dbl
  /-- Time since reset in units of 1/18,000 ns, which no correction changes: what ns bounds are counted on (R273, R405,
  R409). -/
  run : Nat
  /-- Parts of 1/18,000 ns beyond `ns` (one fc is 5/3 ns at 600 MHz, 20/9 ns at 450 MHz, 10/3 ns at 300 MHz: R4, R273). -/
  frac : Nat
  /-- Correction still to slew, in units of 1/18,000 ns (R261). -/
  slew : Int
  steps : Byte
  src : BitVec 2
  /-- Consecutive corrections below 100 ns, up to 16. -/
  good : Nat
  set : Bool
deriving DecidableEq, Repr, Inhabited

/-- One part of a heartwood image: a context with its tasks, launches and keep windows (R410). -/
structure ImgCtx where
  lctx : Nat
  ctx : Ctx
  launches : List (Nat × Launch)
  ready : List Ready
  tasks : List (Nat × Task)
  timeline : List (Nat × Dbl)
  poisonedTl : List Nat
  handles : List (Nat × Dbl)
  masks : List (Nat × (Nat × List Nat))
  /-- Objects that the launches and tasks name, with the numbers they have there. -/
  objs : List (Nat × Obj)
  /-- Spawns that the Joiner has not taken, replies that it owes, and messages on their way to the tasks. -/
  spawns : List PReq
  replies : List (Nat × Nat × Nat × Word)
  msgs : List Msg
  keep : List (Nat × List Byte)
  /-- The part passes its verification (R411). -/
  good : Bool
deriving DecidableEq, Repr, Inhabited

/-- What a heartwood image holds before its trailer (R410). -/
structure ImageBody where
  magic : Word
  version : Nat
  seq : Nat
  tai : Dbl
  /-- Bytes of the image (log entry 118). -/
  length : Nat
  knots : List Nat
  ctxs : List ImgCtx
deriving DecidableEq, Repr, Inhabited

/-- A heartwood slot as it is written (R410). The trailer's SHA-384 is kept as what it is the hash of, so that it is good for that
alone (DESIGN CHOICE, log entry 118); `none` where it has not been written. -/
structure Image extends ImageBody where
  sha : Option ImageBody
  /-- The word VALID at the end of the trailer is there. -/
  word : Bool
  /-- It has been neither restored nor discarded (R407). -/
  pending : Bool
deriving DecidableEq, Repr, Inhabited

/-- The magic number of an image (R410). -/
def imageMagic : Word := 0x44485748

/-- Whether a slot holds a valid image: its header and its trailer are good (R410, R411). -/
def Image.valid (i : Image) : Bool := i.magic == imageMagic && i.version == 1 && i.word && i.sha == some i.toImageBody

/-- Board flash: heartwood slots A and B, fused and retired tiles (R406, R409, R412). -/
structure Flash where
  slotA : Option Image
  slotB : Option Image
  fused : List Nat
  retired : List Nat
deriving DecidableEq, Repr, Inhabited

/-- DEVSTAT and the power-fail state (R407, R409). -/
structure Dev where
  ready : Bool
  halt : Bool
  pend : Bool
  img : Nat
  /-- PWRFAIL_N asserted: the assertion on `Clock.run`. -/
  failAt : Option Nat
  failTai : Dbl
deriving DecidableEq, Repr, Inhabited

/-- The state of the device. -/
structure State where
  agenda : List Turn
  cur : Unit
  tick : Nat
  issues : Nat
  fc : Nat
  nextTask : Nat
  nextLaunch : Nat
  nextId : Nat
  /-- Bytes of memory by the key of their place, rising, none equal to 0 (R406). -/
  mem : List Host.Cell
  /-- Tags of memory-tile granules by key, absent entries Empty (R317). -/
  tags : List (Nat × Nat)
  tiles : List (Nat × Tile)
  knots : List Nat
  /-- Link directions by tile, direction and network: the lane served last and the fc of that transfer (R27). -/
  links : List ((Nat × Dir × Net) × (Nat × Nat))
  tasks : List (Nat × Task)
  msgs : List Msg
  cores : List Core
  banks : List (Nat × Bank)
  buffers : List (Nat × Dbl)
  /-- The fc of the last change of a handle, and the rank of the unit that made it among the changes of one fc (R350). -/
  bufSeen : List (Nat × (Nat × Nat))
  /-- Region and extents of the last walk that wrote a handle's mask (R244, R258). -/
  masks : List (Nat × (Nat × List Nat))
  timeline : List (Nat × Dbl)
  poisonedTl : List Nat
  tlb : List XEntry
  misses : List Miss
  roots : List (Nat × Nat)
  /-- Host I/O pages that the host's translation service does not translate (R322, R329). -/
  hostAbsent : List Nat
  pageReqs : List PageReq
  ctxs : List (Nat × Ctx)
  launches : List (Nat × Launch)
  ready : List Ready
  /-- Launches whose fault service routine waits for a core (R375). -/
  fsrQueue : List Nat
  held : Bool
  blocked : Bool
  requests : List PReq
  placing : Option Placing
  /-- Replies to spawns that wait for room in their queues: task, operator, queue and payload (R60). -/
  spawnReplies : List (Nat × Nat × Nat × Word)
  cache : List CacheEnt
  objs : List Obj
  aqis : List (Nat × Aqi)
  revoked : List Nat
  /-- The packets of the admin ring from its head to its tail, oldest first (R402; log entry 6). -/
  adminQ : List Packet
  adminWait : List (AdminTag × AdminWait)
  /-- The admin completion ring (R402): its entries by place, its size, the place of the next entry and its PHASE (R399). -/
  adminComp : List (Nat × BitVec 128)
  adminSize : Nat
  adminTail : Nat
  adminPhase : Bool
  notices : List Notice
  /-- Requests that control cores have dispatched and the sequencer has not fetched: core, AQI, packet (R157). -/
  intake : List (Nat × Nat × Packet)
  power : Power
  clock : Clock
  dev : Dev
  flash : Flash
  spans : List SpanOut
deriving DecidableEq, Repr

/-- A control core after reset: supervisor mode (R151, R152); the PC is local offset 0 (log entry 4). -/
def resetCore : Core :=
  { regs := List.replicate 16 0, pc := 0x8000000000000000, status := 1, epc := 0, cause := 0, eval := 0, tvec := 0,
    ctxk := 0, scratch := 0, cycle := 0, loads := [], stores := [], copies := 0, cmds := 0, relSeq := 0, halted := false,
    fsr := none, tmpls := List.replicate 16 { image := 0, desc := 0 } }

/-- The machine right after reset (R406, and the Reset columns of the tables). DEVSTAT reads 0 (R407): the bring-up
of R406 is the step COLD_RESET. -/
def State.reset : State :=
  { agenda := [], cur := .none, tick := 0, issues := 0, fc := 0, nextTask := 0, nextLaunch := 0, nextId := 0,
    mem := [], tags := [], tiles := [], knots := [], links := [], tasks := [], msgs := [],
    cores := List.replicate 16 resetCore, banks := [], buffers := [], bufSeen := [], masks := [], timeline := [], poisonedTl := [], tlb := [],
    misses := [], roots := [], hostAbsent := [], pageReqs := [], ctxs := [], launches := [], ready := [], fsrQueue := [], held := false,
    blocked := false,
    requests := [], placing := none, spawnReplies := [], cache := [], objs := [], aqis := [], revoked := [], adminQ := [], adminWait := [],
    adminComp := [], adminSize := 16, adminTail := 0, adminPhase := true, notices := [], intake := [],
    power := { pin := 0, adm := 0, lever := 0, ack := true, down := [], access := [] },
    clock := { ns := 0, start := 0, run := 0, frac := 0, slew := 0, steps := 0, src := 0, good := 0, set := false },
    dev := { ready := false, halt := false, pend := false, img := 0, failAt := none, failTai := 0 },
    flash := { slotA := none, slotB := none, fused := [], retired := [] }, spans := [] }

end Sys2Proof.Machine
end

