-- ==== Sys2Proof/Machine/Ops.lean ====
section
/-! DEFINITION. The named operations over memory, tiles, tasks, operators and control cores, and the taking of a trap. -/
namespace Sys2Proof.Machine

/-! ## Association lists -/

/-- The value of a key. -/
def aget {κ α : Type} [DecidableEq κ] (k : κ) : List (κ × α) → Option α
  | [] => none
  | (j, v) :: t => if j = k then some v else aget k t

/-- Set the value of a key. -/
def aset {κ α : Type} [DecidableEq κ] (k : κ) (v : α) : List (κ × α) → List (κ × α)
  | [] => [(k, v)]
  | (j, w) :: t => if j = k then (k, v) :: t else (j, w) :: aset k v t

/-- Remove a key. -/
def adel {κ α : Type} [DecidableEq κ] (k : κ) : List (κ × α) → List (κ × α)
  | [] => []
  | (j, w) :: t => if j = k then t else (j, w) :: adel k t

/-- Change the value of a key that is there. -/
def amod {κ α : Type} [DecidableEq κ] (k : κ) (f : α → α) : List (κ × α) → List (κ × α)
  | [] => []
  | (j, w) :: t => if j = k then (j, f w) :: t else (j, w) :: amod k f t

/-- Change every value. -/
def avals {κ α : Type} (f : κ → α → α) : List (κ × α) → List (κ × α)
  | [] => []
  | (j, w) :: t => (j, f j w) :: avals f t

/-- Element `n` of a list changed by `f`. -/
def lmod {α : Type} (n : Nat) (f : α → α) : List α → List α
  | [] => []
  | a :: t =>
    match n with
    | 0 => f a :: t
    | k + 1 => a :: lmod k f t

/-- The position of the first element that meets `p`. -/
def lfind {α : Type} (p : α → Bool) : List α → Option Nat
  | [] => none
  | a :: t => if p a then some 0 else (lfind p t).map (· + 1)

/-- The least natural number below `n` that meets `p`, from `k` on. -/
def firstFrom (p : Nat → Bool) : Nat → Nat → Option Nat
  | 0, _ => none
  | n + 1, k => if p k then some k else firstFrom p n (k + 1)

/-- The elements of a list, each once, in the order of their first places. -/
def lnub : List Nat → List Nat → List Nat
  | _, [] => []
  | seen, a :: t => if seen.contains a then lnub seen t else a :: lnub (a :: seen) t

/-- The sum of a list. -/
def lsum : List Nat → Nat
  | [] => 0
  | a :: t => a + lsum t

/-- The greatest of a list, 0 for none. -/
def lmax : List Nat → Nat
  | [] => 0
  | a :: t => max a (lmax t)

/-! ## Memory

One list of bytes, keyed by place. An address that is not listed reads as 0 (R406). -/

/-- The byte at a key. -/
def memGet : List Host.Cell → Nat → Byte
  | [], _ => 0
  | (j, b) :: t, k => if j = k then b else memGet t k

/-- Write the byte at a key, keeping the canonical form. -/
def memPut : List Host.Cell → Nat → Byte → List Host.Cell
  | [], k, b => if b = 0 then [] else [(k, b)]
  | (j, c) :: t, k, b =>
    if k < j then (if b = 0 then (j, c) :: t else (k, b) :: (j, c) :: t)
    else if k = j then (if b = 0 then t else (k, b) :: t)
    else (j, c) :: memPut t k b

/-- Keys above `lo` and rising, no byte equal to what an unlisted address reads as. -/
def memFrom : Nat → List Host.Cell → Bool
  | _, [] => true
  | lo, (k, b) :: t => decide (lo ≤ k) && decide (b ≠ 0) && memFrom (k + 1) t

/-- The canonical form of a memory. -/
def Memory.wf (m : List Host.Cell) : Bool := memFrom 0 m

/-- `n` bytes from a key, little-endian (R1). -/
def memRead (m : List Host.Cell) (k : Nat) : Nat → Nat
  | 0 => 0
  | n + 1 => (memGet m k).toNat + 256 * memRead m (k + 1) n

/-- Write `n` bytes from a key, little-endian (R1). -/
def memWrite (m : List Host.Cell) (k : Nat) : Nat → Nat → List Host.Cell
  | 0, _ => m
  | n + 1, v => memWrite (memPut m k (BitVec.ofNat 8 v)) (k + 1) n (v / 256)

/-- Keep the bytes whose keys meet `p`. -/
def memKeep (m : List Host.Cell) (p : Nat → Bool) : List Host.Cell := m.filter fun c => p c.1

/-- The key of a place: HBM below 2^39, shared memory, the local memories, the memory tiles, the host's and the remote
devices' addresses. -/
def Loc.key : Loc → Nat
  | .hbm a => a
  | .shm p => 2 ^ 40 + p
  | .core k a => 2 ^ 41 + k * 2 ^ 18 + a
  | .tile t a => 2 ^ 42 + t * 2 ^ 21 + a
  | .host a => 2 ^ 60 + a
  | .remote a => 2 ^ 61 + a

/-- A place `n` bytes on. -/
def Loc.off (l : Loc) (n : Nat) : Loc :=
  match l with
  | .hbm a => .hbm (a + n)
  | .shm p => .shm (p + n)
  | .core k a => .core k (a + n)
  | .tile t a => .tile t (a + n)
  | .host a => .host (a + n)
  | .remote a => .remote (a + n)

/-- Read `n` bytes at a place. -/
def State.readLoc (s : State) (l : Loc) (n : Nat) : Nat := memRead s.mem l.key n

/-- Write `n` bytes at a place. -/
def State.writeLoc (s : State) (l : Loc) (n v : Nat) : State := { s with mem := memWrite s.mem l.key n v }

/-- The bytes of a range (for saves). -/
def readBytes (m : List Host.Cell) (k : Nat) : Nat → List Byte
  | 0 => []
  | n + 1 => memGet m k :: readBytes m (k + 1) n

/-- Write a list of bytes. -/
def writeBytes (m : List Host.Cell) (k : Nat) : List Byte → List Host.Cell
  | [] => m
  | b :: t => writeBytes (memPut m k b) (k + 1) t

/-! ## Tiles (R17, R18) -/

/-- The number of a tile: 128·y + x. -/
def tileKey (x y : Nat) : Nat := 128 * y + x
/-- Column of a tile. -/
def tileX (k : Nat) : Nat := k % 128
/-- Row of a tile. -/
def tileY (k : Nat) : Nat := k / 128
/-- Whether a name is that of a tile (R17). -/
def tileOk (x y : Nat) : Bool := decide (x < 128) && decide (y < 48)
/-- The die of a tile (R17). -/
def dieOf (x y : Nat) : Nat := x / 32 + 4 * (y / 24)

/-- The kinds of tile (R18). -/
inductive TileKind where
  | V | M | S | F | P
deriving DecidableEq, Repr

/-- R18: the kind of a tile by its place in its block. -/
def tileKind (x y : Nat) : TileKind :=
  match y % 4, x % 4 with
  | 0, 0 => .V | 0, 1 => .M | 0, 2 => .V | 0, _ => .S
  | 1, 0 => .S | 1, 1 => .F | 1, 2 => .V | 1, _ => .P
  | 2, 0 => .V | 2, 1 => .M | 2, 2 => .S | 2, _ => .F
  | _, 0 => .P | _, 1 => .S | _, 2 => .V | _, _ => .M

/-- A tile that holds nothing. -/
def emptyTile : Tile :=
  { store := List.replicate 8 0, slots := 0, newSlots := none, slotPtr := 0, msgRr := 0, rmwRr := 0, copyRr := 0,
    lastIssue := [], rmws := [], errs := [], uncorrected := 0 }

/-- The state of a tile. The slot pointer of one that the map does not hold has advanced by one every fc (R21). -/
def State.tile (s : State) (k : Nat) : Tile := (aget k s.tiles).getD { emptyTile with slotPtr := BitVec.ofNat 4 s.fc }

/-- Change the state of a tile. -/
def State.modTile (s : State) (k : Nat) (f : Tile → Tile) : State := { s with tiles := aset k (f (s.tile k)) s.tiles }

/-- Word `e` of a tile's context store. -/
def Tile.entry (t : Tile) (e : Nat) : Word := t.store.getD e 0

/-- Units of `Clock.run` and of the parts of the deadline clock in a ns. -/
def nsUnits : Nat := 18000

/-! ## The clocks of blocks (R273, R274)

`State.fc` counts the fc of the sequencer's clock, which is never slower than a block's. A block that runs slower lets some of
them pass (log entry 100). -/

/-- The period of the clock of a block whose entries are all of class `least` or a higher one, in units of 1/1,800 µs: 3 at
600 MHz, 4 at 450 MHz, 6 at 300 MHz. -/
def Power.period (p : Power) (least : Nat) : Nat :=
  if p.lever ≥ 12 ∨ (p.lever = 11 ∧ least ≥ 2) ∨ (p.lever = 10 ∧ least ≥ 3) then 6
  else if p.lever ≥ 9 ∨ (p.lever = 8 ∧ least ≥ 2) ∨ (p.lever = 7 ∧ least ≥ 3) then 4
  else 3

/-- The period of the clock of the sequencer and the Joiner: that of a block of class 0. -/
def Power.seqPeriod (p : Power) : Nat := p.period 0

/-- The tiles of the block of a tile. -/
def blockTiles (tile : Nat) : List Nat :=
  let x := tileX tile / 4 * 4
  let y := tileY tile / 4 * 4
  (List.range 4).flatMap fun j => (List.range 4).map fun i => tileKey (x + i) (y + j)

/-- The least class among the entries taken in the block of a tile; a block with none counts as class 3. -/
def State.blockClass (s : State) (tile : Nat) : Nat :=
  ((blockTiles tile).flatMap fun t => (s.tile t).store).foldl
    (fun c w => if w.getLsbD 31 then min c (w.extractLsb' 26 2).toNat else c) 3

/-- The period of the block of a tile. -/
def State.period (s : State) (tile : Nat) : Nat := if s.power.lever < 7 then 3 else s.power.period (s.blockClass tile)

/-- Whether an fc of a clock of period `p` ends with this fc of the sequencer. -/
def State.ticksBy (s : State) (p : Nat) : Bool :=
  let q := s.power.seqPeriod
  decide (s.fc * q / p < (s.fc + 1) * q / p)

/-- The fc in which a clock of period `p` has gone on by `n` fc. -/
def State.laterBy (s : State) (p n : Nat) : Nat :=
  let q := s.power.seqPeriod
  if p = q ∨ n = 0 then s.fc + n else (((s.fc + 1) * q / p + n) * p + q - 1) / q - 1

/-- Whether a unit of a tile can act in this fc. -/
def State.ticks (s : State) (tile : Nat) : Bool := s.ticksBy (s.period tile)
/-- The fc in which the clock of a tile has gone on by `n` fc. -/
def State.later (s : State) (tile n : Nat) : Nat := s.laterBy (s.period tile) n

/-- The slowest period of some tiles. -/
def State.slowest (s : State) (tiles : List Nat) : Nat :=
  if s.power.lever < 7 then s.power.seqPeriod else lmax (s.power.seqPeriod :: tiles.map s.period)

/-- A bound of `n` fc at 600 MHz on a path through a tile, in fc of the sequencer (R274, R361). -/
def State.bound (s : State) (tile n : Nat) : Nat := n * s.slowest [tile] / s.power.seqPeriod

/-- The neighbour of a tile in a direction, if there is one (R17). -/
def neighbour (x y : Nat) : Dir → Option (Nat × Nat)
  | .north => if y = 0 then none else some (x, y - 1)
  | .south => if y ≥ 47 then none else some (x, y + 1)
  | .west => if x = 0 then none else some (x - 1, y)
  | .east => if x ≥ 127 then none else some (x + 1, y)

/-- The tile a hop ends at. -/
def hopDest (h : Hop) : Nat × Nat := (neighbour h.x h.y h.dir).getD (h.x, h.y)

/-- Whether a hop crosses a die boundary (R25). -/
def hopCrosses (h : Hop) : Bool := dieOf h.x h.y != dieOf (hopDest h).1 (hopDest h).2

/-! ## Contexts, launches, tasks, operators -/

/-- The context of a number. -/
def State.ctx (s : State) (c : Nat) : Option Ctx := aget c s.ctxs
/-- Change a context. -/
def State.modCtx (s : State) (c : Nat) (f : Ctx → Ctx) : State := { s with ctxs := amod c f s.ctxs }
/-- The launch of a number. -/
def State.launch (s : State) (l : Nat) : Option Launch := aget l s.launches
/-- Change a launch. -/
def State.modLaunch (s : State) (l : Nat) (f : Launch → Launch) : State := { s with launches := amod l f s.launches }
/-- The task of a number. -/
def State.task (s : State) (t : Nat) : Option Task := aget t s.tasks
/-- Change a task. -/
def State.modTask (s : State) (t : Nat) (f : Task → Task) : State := { s with tasks := amod t f s.tasks }
/-- An operator of a task. -/
def State.op (s : State) (t o : Nat) : Option Op := (s.task t).bind fun k => k.ops[o]?
/-- Change an operator. -/
def State.modOp (s : State) (t o : Nat) (f : Op → Op) : State :=
  s.modTask t fun k => { k with ops := lmod o f k.ops }
/-- Change a channel of a task. -/
def State.modChan (s : State) (t c : Nat) (f : Chan → Chan) : State :=
  s.modTask t fun k => { k with chans := lmod c f k.chans }

/-- The tile of an operator. -/
def State.tileOf (s : State) (t o : Nat) : Nat := ((s.op t o).map fun p => tileKey p.place.x p.place.y).getD 0
/-- Whether an operator can act in this fc (R274). -/
def State.unitTicks (s : State) (t o : Nat) : Bool := s.ticks (s.tileOf t o)
/-- The fc in which the clock of an operator's block has gone on by `n` fc (R274). -/
def State.after (s : State) (t o n : Nat) : Nat := s.later (s.tileOf t o) n

/-- The cell actor of an operator. -/
def State.cell (s : State) (t o : Nat) : Option Cell :=
  match s.op t o with
  | some { kind := .cell c, .. } => some c
  | _ => none
/-- Change a cell actor. -/
def State.modCell (s : State) (t o : Nat) (f : Cell → Cell) : State :=
  s.modOp t o fun p => match p.kind with
    | .cell c => { p with kind := .cell (f c) }
    | _ => p
/-- The vector actor of an operator. -/
def State.vec (s : State) (t o : Nat) : Option Vec :=
  match s.op t o with
  | some { kind := .vec c, .. } => some c
  | _ => none
/-- Change a vector actor. -/
def State.modVec (s : State) (t o : Nat) (f : Vec → Vec) : State :=
  s.modOp t o fun p => match p.kind with
    | .vec c => { p with kind := .vec (f c) }
    | _ => p
/-- The memory node of an operator. -/
def State.mnode (s : State) (t o : Nat) : Option Mem :=
  match s.op t o with
  | some { kind := .mem c, .. } => some c
  | _ => none
/-- Change a memory node. -/
def State.modMem (s : State) (t o : Nat) (f : Mem → Mem) : State :=
  s.modOp t o fun p => match p.kind with
    | .mem c => { p with kind := .mem (f c) }
    | _ => p
/-- The matrix node of an operator. -/
def State.matrix (s : State) (t o : Nat) : Option Matrix :=
  match s.op t o with
  | some { kind := .matrix c, .. } => some c
  | _ => none
/-- Change a matrix node. -/
def State.modMatrix (s : State) (t o : Nat) (f : Matrix → Matrix) : State :=
  s.modOp t o fun p => match p.kind with
    | .matrix c => { p with kind := .matrix (f c) }
    | _ => p
/-- The fibre unit of an operator. -/
def State.fibre (s : State) (t o : Nat) : Option Fibre :=
  match s.op t o with
  | some { kind := .fibre c, .. } => some c
  | _ => none
/-- Change a fibre unit. -/
def State.modFibre (s : State) (t o : Nat) (f : Fibre → Fibre) : State :=
  s.modOp t o fun p => match p.kind with
    | .fibre c => { p with kind := .fibre (f c) }
    | _ => p
/-- The walker of an operator. -/
def State.walker (s : State) (t o : Nat) : Option Walker :=
  match s.op t o with
  | some { kind := .walker c, .. } => some c
  | _ => none
/-- Change a walker. -/
def State.modWalker (s : State) (t o : Nat) (f : Walker → Walker) : State :=
  s.modOp t o fun p => match p.kind with
    | .walker c => { p with kind := .walker (f c) }
    | _ => p
/-- The spline unit of an operator. -/
def State.spline (s : State) (t o : Nat) : Option Spline :=
  match s.op t o with
  | some { kind := .spline c, .. } => some c
  | _ => none
/-- Change a spline unit. -/
def State.modSpline (s : State) (t o : Nat) (f : Spline → Spline) : State :=
  s.modOp t o fun p => match p.kind with
    | .spline c => { p with kind := .spline (f c) }
    | _ => p
/-- The copy engine of an operator. -/
def State.copyEng (s : State) (t o : Nat) : Option Copy :=
  match s.op t o with
  | some { kind := .copy c, .. } => some c
  | _ => none
/-- Change a copy engine. -/
def State.modCopy (s : State) (t o : Nat) (f : Copy → Copy) : State :=
  s.modOp t o fun p => match p.kind with
    | .copy c => { p with kind := .copy (f c) }
    | _ => p

/-- The launch context of a task. -/
def State.lctxOf (s : State) (t : Nat) : Nat := ((s.task t).map (·.lctx)).getD 0
/-- The launch of a task. -/
def State.launchOf (s : State) (t : Nat) : Option Launch := (s.task t).bind fun k => s.launch k.launch
/-- The graph of a task's current phase. -/
def Task.graph? (k : Task) : Option Graph := k.graphs[k.phase]?
/-- The index of that graph in its object. -/
def Task.graphIndex (k : Task) : Nat := (k.graph?.map (·.index)).getD 0

/-! ## A tile task and its subgraphs (R60) -/

/-- The tile task that a subgraph belongs to. The first argument bounds the chain. -/
def State.rootTask (s : State) : Nat → Nat → Nat
  | 0, t => t
  | n + 1, t => match (s.task t).bind fun k => k.parent with
    | some p => s.rootTask n p.1
    | none => t

/-- A tile task with all its live subgraphs. -/
def State.family (s : State) (t : Nat) : List (Nat × Task) :=
  let n := s.tasks.length
  s.tasks.filter fun z => s.rootTask n z.1 = s.rootTask n t

/-- The context entry that a task's current phase holds on a tile (R24, R57). -/
def Task.entryAt (k : Task) (tile : Nat) : Nat := (((aget tile k.entries).getD []).getD k.phase 0)

/-- A context is busy in this fc (R393). -/
def State.busy (s : State) (c : Nat) : State := s.modCtx c fun x => { x with busy := true }

/-- The next identifier is taken. -/
def State.bumpId (s : State) : State := { s with nextId := s.nextId + 1 }

/-- A fresh identifier. -/
def State.fresh (s : State) : Nat × State := (s.nextId, { s with nextId := s.nextId + 1 })

/-! ## Context record fields (R403) -/

/-- Bits [lo + n - 1 : lo] of the record. -/
def Ctx.field (c : Ctx) (lo n : Nat) : Nat := (c.record.extractLsb' lo n).toNat
/-- BAYLIM. -/
def Ctx.bayLim (c : Ctx) : Nat := c.field 0 9
/-- FTZ. -/
def Ctx.ftz (c : Ctx) : Bool := c.record.getLsbD 9
/-- AQI. -/
def Ctx.aqi (c : Ctx) : Nat := c.field 10 3
/-- PASID. -/
def Ctx.pasid (c : Ctx) : Nat := c.field 32 20
/-- FLOOR. -/
def Ctx.floor (c : Ctx) : Nat := c.field 64 7
/-- CEIL. -/
def Ctx.ceil (c : Ctx) : Nat := c.field 72 7
/-- SLACKT. -/
def Ctx.slackT (c : Ctx) : Nat := c.field 96 32
/-- TLO. -/
def Ctx.tlo (c : Ctx) : Word := c.record.extractLsb' 128 32
/-- THI. -/
def Ctx.thi (c : Ctx) : Word := c.record.extractLsb' 160 32
/-- EFLOOR. -/
def Ctx.eFloor (c : Ctx) : Word := c.record.extractLsb' 192 32
/-- SHM. -/
def Ctx.shm (c : Ctx) : Nat := c.field 256 57
/-- Bytes of the shared window. -/
def Ctx.shmLen (c : Ctx) : Nat := c.field 320 11 * 2 ^ 20
/-- WQT. -/
def Ctx.wqt (c : Ctx) : Nat := c.field 384 57
/-- POOL. -/
def Ctx.pool (c : Ctx) : Nat := c.field 448 57
/-- The count of the TCB pool. -/
def Ctx.poolN (c : Ctx) : Nat := c.field 512 16
/-- TL_BASE. -/
def Ctx.tlBase (c : Ctx) : Nat := c.field 544 12
/-- TL_N. -/
def Ctx.tlN (c : Ctx) : Nat := c.field 560 13
/-- BUF_BASE. -/
def Ctx.bufBase (c : Ctx) : Nat := c.field 576 12
/-- BUF_N. -/
def Ctx.bufN (c : Ctx) : Nat := c.field 592 13
/-- SAVE. -/
def Ctx.save (c : Ctx) : Nat := c.field 640 57
/-- Length of the save area. -/
def Ctx.saveLen (c : Ctx) : Nat := c.field 832 40
/-- SPAN. -/
def Ctx.span (c : Ctx) : Nat := c.field 704 57
/-- Length of the span window. -/
def Ctx.spanLen (c : Ctx) : Nat := c.field 768 33
/-- Whether a timeline counter is assigned to the context. -/
def Ctx.hasTl (c : Ctx) (n : Nat) : Bool := decide (c.tlBase ≤ n) && decide (n < c.tlBase + c.tlN)
/-- Whether a buffer handle is assigned to the context. -/
def Ctx.hasBuf (c : Ctx) (n : Nat) : Bool := decide (c.bufBase ≤ n) && decide (n < c.bufBase + c.bufN)

/-- FTZ in force for a context (R186). -/
def State.ftz (s : State) (c : Nat) : Bool := ((s.ctx c).map Ctx.ftz).getD false

/-! ## Timeline counters (R352) -/

/-- The value of a timeline counter. -/
def State.tl (s : State) (n : Nat) : Dbl := (aget n s.timeline).getD 0
/-- Whether it is poisoned. -/
def State.tlBad (s : State) (n : Nat) : Bool := s.poisonedTl.contains n
/-- Add to a counter; a poisoned counter stays as it is (R352). -/
def State.tlAdd (s : State) (n : Nat) (v : Dbl) : State :=
  if s.tlBad n then s else { s with timeline := aset n (s.tl n + v) s.timeline }

/-! ## Fault codes (R381), units (R33) and origin words -/

namespace Code
def div0 : BitVec 7 := 0x01
def invalid : BitVec 7 := 0x02
def range : BitVec 7 := 0x03
def xlate : BitVec 7 := 0x04
def ecc : BitVec 7 := 0x05
def nanConv : BitVec 7 := 0x06
def iovf : BitVec 7 := 0x07
def malformed : BitVec 7 := 0x40
def rate : BitVec 7 := 0x41
def ctrlPoison : BitVec 7 := 0x42
def tagWindow : BitVec 7 := 0x43
def illegal : BitVec 7 := 0x44
def priv : BitVec 7 := 0x45
def cfgParity : BitVec 7 := 0x46
def stuck : BitVec 7 := 0x47
def queueRev : BitVec 7 := 0x48
def graphDepth : BitVec 7 := 0x49
def graphRecurse : BitVec 7 := 0x4A
def loadHash : BitVec 7 := 0x4B
def wrapLate : BitVec 7 := 0x4C
def powerFail : BitVec 7 := 0x4D
def replayLimit : BitVec 7 := 0x4E
end Code

/-- The origin word of R33. -/
def originWord (lctx x y unit : Nat) (code : BitVec 7) : Word :=
  (BitVec.ofNat 8 lctx ++ (BitVec.ofNat 7 x ++ (BitVec.ofNat 6 y ++ (BitVec.ofNat 4 unit ++ code))) : BitVec 32)

/-- UNIT of an operator (R33): the cell's number, or the code of its kind. Copy engines are engines (8). -/
def Op.unit (p : Op) : Nat :=
  match p.kind with
  | .cell _ => p.place.sub
  | .vec _ => 8
  | .mem _ => 9
  | .matrix _ => 13
  | .fibre _ => 12
  | .walker _ => 10
  | .spline _ => 11
  | .copy _ => 8

/-- The origin word that operator `o` of task `t` gives to a fault of its own. -/
def State.origin (s : State) (t o : Nat) (code : BitVec 7) : Word :=
  match s.op t o with
  | some p => originWord (s.lctxOf t) p.place.x p.place.y p.unit code
  | none => 0

/-- An instruction has issued, or has frozen its node. -/
def State.issued (s : State) : State := { s with issues := s.issues + 1 }

/-- Freeze an operator: its fault register takes the code and DETAIL, and the first freeze stays (R5, R383). -/
def State.freeze (s : State) (t o : Nat) (code : BitVec 7) (detail : Word) : State :=
  (s.modOp t o fun p => if p.fault.isSome then p else { p with fault := some (code, detail) }).issued

/-! ## Control cores (R151 to R158) -/

/-- A core. -/
def State.core (s : State) (k : Nat) : Core := s.cores.getD k resetCore
/-- Change a core. -/
def State.modCore (s : State) (k : Nat) (f : Core → Core) : State := { s with cores := lmod k f s.cores }
/-- Read a register; s0 reads as zero (R19, R66). -/
def Core.reg (c : Core) (n : SReg) : Dbl := if n = 0 then 0 else c.regs.getD n.val 0
/-- Write a register; a write of s0 is discarded. -/
def Core.setReg (c : Core) (n : SReg) (v : Dbl) : Core :=
  if n = 0 then c else { c with regs := c.regs.set n.val v }
/-- MODE: supervisor (R152). -/
def Core.super (c : Core) : Bool := c.status.getLsbD 0
/-- The address of the next word. -/
def Core.after (c : Core) (words : Nat) : Dbl := c.pc + BitVec.ofNat 64 (4 * words)

/-- STATUS with PMODE := MODE and MODE := 1 (R153 steps 3 and 4). -/
def trapStatus (st : Dbl) : Dbl :=
  (st &&& ~~~(2 : Dbl)) ||| (if st.getLsbD 0 then 2 else 0) ||| 1

/-- STATUS with MODE := PMODE (`eret`, R153). -/
def eretStatus (st : Dbl) : Dbl :=
  (st &&& ~~~(1 : Dbl)) ||| (if st.getLsbD 1 then 1 else 0)

/-- The local address that a trap fetches from: local offset TVEC[17:2]·4 (R152, R154). -/
def trapEntry (tvec : Dbl) : Dbl := 0x8000000000000000 ||| (tvec &&& 0x3FFFC)

/-- Taking a trap (R153): EPC, CAUSE and EVAL, PMODE, MODE, and the fetch from TVEC, in that order. A trap out of a
fault service routine ends the routine (R375). -/
def Core.trap (c : Core) (epc cause eval : Dbl) : Core :=
  { c with epc := epc, cause := cause, eval := eval, status := trapStatus c.status, pc := trapEntry c.tvec }

/-- The return from a trap: PC := EPC and MODE := PMODE (R153). -/
def Core.eret (c : Core) : Core := { c with pc := c.epc, status := eretStatus c.status }

/-- CAUSE of a fault: SW 0 and the fault code (R152). -/
def faultCause (code : BitVec 7) : Dbl := code.zeroExtend 64
/-- CAUSE of `trap c`: SW 1 and ARG (R152). -/
def softCause (c : BitVec 12) : Dbl := 0x80000000 ||| c.zeroExtend 64

/-- The number of the first record of a launch that is queued. -/
def State.firstRec (s : State) (l : Nat) : Nat := (((s.launch l).bind fun x => x.recs.head?)).getD s.nextId

/-- A launch goes into the queue of routines, in the order in which their first records were queued (R375). -/
def State.fsrInsert (s : State) (l : Nat) : List Nat → List Nat
  | [] => [l]
  | m :: rest => if s.firstRec l < s.firstRec m then l :: m :: rest else m :: s.fsrInsert l rest

/-- The queue of routines when the one on a core ends: its launch waits again when a record of it is queued (R375). -/
def State.fsrAgain (s : State) (k : Nat) : List Nat :=
  match (s.core k).fsr with
  | none => s.fsrQueue
  | some l => match s.launch l with
    | none => s.fsrQueue
    | some x =>
      if !s.fsrQueue.contains l && ((s.ctx x.lctx).map fun c => c.faults.any fun r => r.1 == l).getD false then
        s.fsrInsert l s.fsrQueue
      else s.fsrQueue

/-- Core `k` takes a trap. A trap out of a fault service routine ends the routine, and the admin queue is told of any
but `trap 0x0FF` (R375). -/
def State.coreTrapAt (s : State) (k : Nat) (epc cause eval : Dbl) : State :=
  let told : List Notice :=
    if (s.core k).fsr.isSome && cause != softCause 0x0FF then [.fsrTrap k cause] else []
  { s with cores := lmod k (fun c => { (c.trap epc cause eval) with fsr := none }) s.cores, notices := s.notices ++ told,
           fsrQueue := s.fsrAgain k }

@[inherit_doc State.coreTrapAt]
def State.coreTrap (s : State) (k : Nat) (code : BitVec 7) (eval : Dbl) : State :=
  s.coreTrapAt k (s.core k).pc (faultCause code) eval

/-- TAI: the deadline clock (R152, R260). -/
def State.tai (s : State) : Dbl := s.clock.ns

end Sys2Proof.Machine
end

