-- ==== Sys2Proof/Machine/Xlate.lean ====
section
/-! DEFINITION. Memory spaces and address translation (18_memory_spaces.md). -/
namespace Sys2Proof.Machine

/-- The place of a virtual address in a context's shared window (R319). -/
def Ctx.shmAt (c : Ctx) (va n : Nat) : Option Nat :=
  if c.shm ≤ va ∧ va + n ≤ c.shm + c.shmLen then some (c.shmBase + (va - c.shm)) else none

/-- The bank of a shared physical address (R319). -/
def shmBank (p : Nat) : Nat := p / 128 % 512

/-- Stack and pseudo-channel of an HBM physical address (R323). -/
def hbmStack (pa : Nat) : Nat := pa / 256 % 8
@[inherit_doc hbmStack] def hbmPc (pa : Nat) : Nat := pa / 2048 % 256

/-- The partition table entry of 1 GiB of IA (R322). -/
def State.part (s : State) (aqi i : Nat) : Dbl :=
  match aget aqi s.aqis with
  | some a => (aget i a.parts).getD 0
  | none => 0

/-- Stage 2 (R322): the place of an intermediate address, or `none` for a translation fault. -/
def State.stage2 (s : State) (aqi tgt ia : Nat) : Option Loc :=
  match tgt with
  | 0 =>
    let e := s.part aqi (ia / 2 ^ 30)
    if ia / 2 ^ 30 < 512 ∧ e.getLsbD 63 ∧ (e.extractLsb' 9 54 == 0) then
      some (.hbm ((e.extractLsb' 0 9).toNat * 2 ^ 30 + ia % 2 ^ 30))
    else none
  | 1 => if s.hostAbsent.contains (ia / 4096) then none else some (.host ia)
  | 2 => some (.remote ia)
  | _ => none

/-- The outcome of a translation: a page with its place, or the stage of the fault (R328). -/
inductive Xl where
  | page (e : XEntry)
  | fault (stage : Nat)
deriving DecidableEq, Repr

/-- Reserved fields of a table entry are zero (R321, R328); CONT is reserved above level 1. -/
def pteClean (e : Dbl) (level : Nat) : Bool :=
  e.extractLsb' 53 9 == 0 && e.extractLsb' 8 4 == 0 && e.extractLsb' 3 4 == 0 && (level == 1 || !e.getLsbD 52)

/-- OA as an address (R321). -/
def pteOa (e : Dbl) : Nat := (e.extractLsb' 12 40).toNat * 4096
/-- TGT (R321). -/
def pteTgt (e : Dbl) : Nat := (e.extractLsb' 62 2).toNat

/-- The number that stands for a stage 2 fault of the host's translation, which is reported as stage 2 (R328, R329). -/
def hostFault : Nat := 3
/-- The number that stands for a fault of the partition entry of a page with TGT 0, reported as stage 2 (R322, R329). -/
def partFault : Nat := 4
/-- The numbers that stand for a missing permission (R321) of a page in HBM and of one elsewhere, reported as stage 1. -/
def hbmDenied : Nat := 5
@[inherit_doc hbmDenied] def farDenied : Nat := 6

/-- STAGE of a fault as a page request reports it (R329). -/
def faultStage (g : Nat) : Nat := if g = 1 ∨ g = hbmDenied ∨ g = farDenied then 1 else 2

/-- The fault lies at a page whose TGT a SPACE does not admit: such an access never replays (R322). -/
def tgtWrong (space g : Nat) : Bool :=
  (space == 2 && (g == hostFault || g == farDenied)) || (space == 3 && (g == partFault || g == hbmDenied))

/-- The host translates every 4 KiB of an output block. -/
def State.hostHas (s : State) (ia size : Nat) : Bool :=
  s.hostAbsent.all fun p => decide (p < ia / 4096) || decide ((ia + size) / 4096 ≤ p)

/-- A leaf of `size` bytes: alignment, TGT and stage 2 (R321, R322). One entry holds a page of any size with its stage 2
result (R324); where the host lacks a part of a page, its result covers the 4 KiB that it was asked for. -/
def State.leaf (s : State) (die pasid aqi va size : Nat) (e : Dbl) : Xl :=
  let unit := if pteTgt e ≠ 1 ∨ s.hostHas (pteOa e) size then size else 4096
  if pteOa e % size ≠ 0 ∨ pteTgt e = 3 then .fault 1
  else match s.stage2 aqi (pteTgt e) (pteOa e + va % size / unit * unit) with
    | none => .fault (if pteTgt e = 1 then hostFault else partFault)
    | some l =>
      .page { die := die, pasid := pasid, aqi := aqi, va := va / unit * unit, size := unit, loc := l, r := e.getLsbD 1,
              w := e.getLsbD 2 }

/-- The 16 entries of a 64 KiB run agree (R320; log entry 21). -/
def State.runAgrees (s : State) (aqi table idx : Nat) (e : Dbl) : Bool :=
  (List.range 16).all fun i =>
    match s.stage2 aqi 0 (table + 8 * (idx / 16 * 16 + i)) with
    | some l => s.readLoc l 8 == e.toNat
    | none => false

/-- The walk of R320 from a table: `levels` holds the levels still to read, 5 first. -/
def State.walkFrom (s : State) (die pasid aqi va : Nat) : List Nat → Nat → Xl
  | [], _ => .fault 1
  | lv :: rest, table =>
    let idx := va / 2 ^ (12 + 9 * (lv - 1)) % 512
    match s.stage2 aqi 0 (table + 8 * idx) with
    | none => .fault 2
    | some l =>
      let e := BitVec.ofNat 64 (s.readLoc l 8)
      let leaf := e.getLsbD 7
      if !e.getLsbD 0 || !pteClean e lv then .fault 1
      else if lv == 1 then
        if !leaf then .fault 1
        else if e.getLsbD 52 then
          if s.runAgrees aqi table idx e then s.leaf die pasid aqi va (2 ^ 16) e else .fault 1
        else s.leaf die pasid aqi va (2 ^ 12) e
      else if leaf then
        if lv ≤ 3 then s.leaf die pasid aqi va (2 ^ (12 + 9 * (lv - 1))) e else .fault 1
      else if pteTgt e ≠ 0 then .fault 1
      else s.walkFrom die pasid aqi va rest (pteOa e)

/-- The walk of a virtual address of a PASID (R320). A PASID that no root is set for has no translation. -/
def State.walk (s : State) (die pasid aqi va : Nat) : Xl :=
  if va ≥ 2 ^ 57 then .fault 1
  else match aget pasid s.roots with
    | none => .fault 1
    | some root => s.walkFrom die pasid aqi va [5, 4, 3, 2, 1] root

/-- Whether a page permits an access of kind 0 read, 1 write or 2 rmw (R321). -/
def XEntry.permits (e : XEntry) (kind : Nat) : Bool :=
  match kind with
  | 0 => e.r
  | 1 => e.w
  | _ => e.r && e.w

/-- The fault of an access that a page does not permit (R321, R328). -/
def XEntry.denied (e : XEntry) : Nat := match e.loc with
  | .hbm _ => hbmDenied
  | _ => farDenied

/-- The place of an address in a page. -/
def XEntry.at_ (e : XEntry) (va : Nat) : Loc := e.loc.off (va - e.va)

/-- TGT of a place (R321): 0 HBM, 1 host, 2 remote; 3 stands for the shared window. -/
def Loc.tgt : Loc → Nat
  | .hbm _ => 0
  | .host _ => 1
  | .remote _ => 2
  | _ => 3

/-- Where an access of a virtual address goes. -/
inductive XOut where
  | at_ (l : Loc)
  | fault (stage : Nat)
  | miss
deriving DecidableEq, Repr

/-- A translation that walks the tables as they stand: for the sequencer, the Joiner and the engines' own reads and
writes (log entry 20). -/
def State.xlateNow (s : State) (lctx va n kind : Nat) : XOut :=
  match s.ctx lctx with
  | none => .fault 1
  | some c =>
    match c.shmAt va n with
    | some p => .at_ (.shm p)
    | none =>
      match s.walk 0 c.pasid c.aqi va with
      | .page e => if e.permits kind then .at_ (e.at_ va) else .fault e.denied
      | .fault g => .fault g

/-- The cache entry of a die for an address (R324). -/
def State.tlbHit (s : State) (die pasid aqi va : Nat) : Option XEntry :=
  s.tlb.find? fun e => e.die == die && e.pasid == pasid && e.aqi == aqi && decide (e.va ≤ va) && decide (va < e.va + e.size)

/-- Whether a miss is one for the page of an address (R324): the same 4 KiB, or a larger page that the walk will find. -/
def State.missFor (s : State) (m : Miss) (die pasid aqi va : Nat) : Bool :=
  m.die == die && m.pasid == pasid && (m.va / 4096 == va / 4096 || match s.walk die pasid aqi m.va with
    | .page e => decide (e.va ≤ va) && decide (va < e.va + e.size)
    | .fault _ => false)

/-- A translation through the die's cache for an access of `u` (R324): a hit, the fault that the walk it waited for ended
with, or a miss. -/
def State.xlate (s : State) (die : Nat) (u : XUser) (lctx va n kind : Nat) : XOut :=
  match s.ctx lctx with
  | none => .fault 1
  | some c =>
    match c.shmAt va n with
    | some p => .at_ (.shm p)
    | none =>
      if va ≥ 2 ^ 57 then .fault 1
      else match s.tlbHit die c.pasid c.aqi va with
        | some e => if e.permits kind then .at_ (e.at_ va) else .fault e.denied
        | none =>
          match s.misses.find? fun m => s.missFor m die c.pasid c.aqi va && m.fault.isSome && m.users.contains u with
          | some m => .fault (m.fault.getD 1)
          | none => .miss

/-- Record a miss; it joins one for its page that waits or walks already (R324). -/
def State.addMiss (s : State) (die : Nat) (u : XUser) (lctx va kind : Nat) : State :=
  match s.ctx lctx with
  | none => s
  | some c =>
    let mine (m : Miss) : Bool := m.fault.isNone && s.missFor m die c.pasid c.aqi va
    if s.misses.any mine then
      { s with misses := s.misses.map fun m => if mine m && !m.users.contains u then { m with users := m.users ++ [u] } else m }
    else { s with
      misses := s.misses ++ [{ die := die, users := [u], lctx := lctx, pasid := c.pasid, va := va, kind := kind,
                                walking := false, fault := none, order := s.nextId }],
      nextId := s.nextId + 1 }

/-- An access that has been answered with the fault of a page waits for it no more. -/
def State.dropMiss (s : State) (die : Nat) (u : XUser) (lctx va : Nat) : State :=
  match s.ctx lctx with
  | none => s
  | some c =>
    let left (m : Miss) : Miss :=
      if m.fault.isSome && s.missFor m die c.pasid c.aqi va then { m with users := m.users.filter (· != u) } else m
    { s with misses := (s.misses.map left).filter fun m => !m.users.isEmpty }

/-- The accesses of a task wait for no page any more (R330, R383): a walk under way runs on, for those that join it. -/
def State.dropUsers (s : State) (t : Nat) : State :=
  let left (u : XUser) : Bool := match u with
    | .op t' _ => t' != t
    | _ => true
  { s with misses := (s.misses.map fun m => { m with users := m.users.filter left }).filter fun m =>
      !m.users.isEmpty || m.walking }

/-- The same for those of one unit. -/
def State.dropUsersOf (s : State) (t o : Nat) : State :=
  { s with misses := (s.misses.map fun m => { m with users := m.users.filter (· != .op t o) }).filter fun m =>
      !m.users.isEmpty || m.walking }

/-- An access of an HBM pseudo-channel (R273). -/
def State.touch (s : State) (l : Loc) : State :=
  match l with
  | .hbm pa =>
    { s with power := { s.power with access := aset (hbmStack pa, hbmPc pa) s.clock.run s.power.access,
                                     down := s.power.down.filter (· != (hbmStack pa, hbmPc pa)) } }
  | _ => s

/-- Read memory by virtual address of a context, for the sequencer, the Joiner and the engines. -/
def State.readVa (s : State) (lctx va n : Nat) : Option Nat :=
  match s.xlateNow lctx va n 0 with
  | .at_ l => some (s.readLoc l n)
  | _ => none

/-- A read by virtual address counts as an access (R273). -/
def State.touchVa (s : State) (lctx va n : Nat) : State :=
  match s.xlateNow lctx va n 0 with
  | .at_ l => s.touch l
  | _ => s

/-- Whether a write to one of `n` bytes from a place of another device awaits its acknowledgement: it is not performed at
SYS (R340, R353). -/
def State.sysPending (s : State) (l : Loc) (n : Nat) : Bool :=
  s.spans.any fun x => x.write && decide (x.key < l.key + n) && decide (l.key < x.key + x.bytes)

/-- A read by virtual address would not yet see a write that is on its way to another device (R353). -/
def State.vaPending (s : State) (lctx va n : Nat) : Bool :=
  match s.xlateNow lctx va n 0 with
  | .at_ l => s.sysPending l n
  | _ => false

/-- Write memory by virtual address; a fault writes nothing. -/
def State.writeVa (s : State) (lctx va n v : Nat) : State :=
  match s.xlateNow lctx va n 1 with
  | .at_ l => (s.writeLoc l n v).touch l
  | _ => s

/-! ## Walks (R324) -/

/-- The context entry that an access belongs to, a tile and an entry of it; a control core's stands for its context. -/
def State.userEntry (s : State) : XUser → Nat × Nat
  | .op t o => match s.task t, s.op t o with
    | some k, some p => (tileKey p.place.x p.place.y + 1, k.entryAt (tileKey p.place.x p.place.y))
    | _, _ => (0, 0)
  | .core k => (0, ((s.core k).ctxk.extractLsb' 24 8).toNat)

/-- The context entry of the access that began a miss. -/
def State.missEntry (s : State) (m : Miss) : Option (Nat × Nat) := m.users.head?.map s.userEntry

/-- Walks in progress on a die, for a context entry. -/
def State.walking (s : State) (die : Nat) : Nat := (s.misses.filter fun m => m.die == die && m.walking).length
@[inherit_doc State.walking] def State.walkingFor (s : State) (die : Nat) (e : Option (Nat × Nat)) : Nat :=
  (s.misses.filter fun m => m.die == die && m.walking && s.missEntry m == e).length

/-- The miss that a free walker takes: that of the context entry with the fewest walks in progress, and among equals the
first (R324). -/
def State.nextWalk (s : State) (die : Nat) : Option Miss :=
  (s.misses.filter fun m => m.die == die && !m.walking && m.fault.isNone).foldl
    (fun best m => match best with
      | none => some m
      | some b => if s.walkingFor die (s.missEntry m) < s.walkingFor die (s.missEntry b) then some m else some b) none

/-- A walk begins on one of the die's 32 walkers (R324). -/
def execPageWalkStart (die : Nat) (s : State) : Host.Outcome State Fault Refusal :=
  if s.walking die < 32 then
    match s.nextWalk die with
    | some b => .next { s with misses := s.misses.map fun m => if m.order = b.order then { m with walking := true } else m }
    | none => .next s
  else .next s

/-- Add an entry to the cache of its die; a full cache loses the entry that came first (log entry 22). -/
def State.tlbFill (s : State) (e : XEntry) : State :=
  let same := s.tlb.filter (·.die == e.die)
  let tlb := if same.length < 4096 then s.tlb else s.tlb.filter fun x => some x != same.head?
  { s with tlb := tlb ++ [e] }

/-- A walk ends: the cache takes the page, or the fault is kept for the access that waits (R324, R328). -/
def execPageWalkComplete (die n : Nat) (s : State) : Host.Outcome State Fault Refusal :=
  match (s.misses.filter fun m => m.die == die && m.walking)[n]? with
  | none => .next s
  | some m =>
    match s.ctx m.lctx with
    | none => .next { s with misses := s.misses.filter (·.order != m.order) }
    | some c =>
      match s.walk die m.pasid c.aqi m.va with
      | .page e => .next ({ s with misses := s.misses.filter (·.order != m.order) }.tlbFill e)
      | .fault g =>
        .next { s with misses := if m.users.isEmpty then s.misses.filter (·.order != m.order) else s.misses.map fun x =>
          if x.order = m.order then { x with walking := false, fault := some g } else x }

end Sys2Proof.Machine
end

