-- ==== Sys2Proof/Machine/Records.lean ====
section
/-! DEFINITION. Fault records, task control blocks, the ready queue and completion entries
(21_task_graphs.md, 22_lu_with_fault.md, 23_scheduling_faults.md, 24_host_links_power_fail.md). -/
namespace Sys2Proof.Machine

/-! ## Fault records (R374, R384, R385) -/

/-- A fault record (R374). -/
structure FaultRec where
  origin : Word
  graph : Nat
  who : Nat
  tcb : Nat
  code : Byte
  struct : Bool
  fit : Bool
  holder : Nat
  detail : Word
deriving DecidableEq, Repr

/-- The layout of R374. -/
def FaultRec.image (r : FaultRec) (tai : Dbl) : BitVec 256 :=
  let d0 : Dbl := BitVec.ofNat 16 r.who ++ (BitVec.ofNat 16 r.graph ++ r.origin)
  let d3 : Dbl := r.detail ++ (BitVec.ofNat 16 r.holder ++ ((0 : BitVec 6) ++ (bit r.fit ++ (bit r.struct ++ r.code))))
  d3 ++ (tai ++ (BitVec.ofNat 64 r.tcb ++ d0))

/-- Whether a core runs the launch's fault service routine. -/
def State.fsrRunning (s : State) (l : Nat) : Bool := s.cores.any fun c => c.fsr == some l

/-- The launch waits for its routine once more, if it names one (R375). -/
def State.wantFsr (s : State) (l : Nat) : State :=
  match s.launch l with
  | some x =>
    if x.fsr.isSome && !s.fsrRunning l && !s.fsrQueue.contains l then { s with fsrQueue := s.fsrInsert l s.fsrQueue } else s
  | none => s

/-- Queue entries together, for a launch of a context; a queue of 256 too full to take them all loses them (R385). -/
def State.queueRecord (s : State) (lctx l : Nat) (es : List (BitVec 256)) : State :=
  match s.ctx lctx with
  | none => s
  | some c =>
    if c.faults.length + es.length ≤ 256 then
      ((s.bumpId.modCtx lctx fun c => { c with faults := c.faults ++ es.map fun e => (l, e) }).modLaunch l fun x =>
        { x with recs := x.recs ++ es.map fun _ => s.nextId }).wantFsr l
    else
      { s.modCtx lctx (fun c => { c with lost := if c.lost == 0xFFFF then c.lost else c.lost + 1 }) with
        notices := s.notices ++ [.recordLost lctx] }

/-- Queue one fault record. -/
def State.queueFault (s : State) (lctx l : Nat) (r : FaultRec) : State :=
  s.queueRecord lctx l [r.image s.tai]

/-! ## Task control blocks (R363, R364) -/

/-- A double of a TCB. -/
def State.tcb (s : State) (lctx va off : Nat) : Dbl := BitVec.ofNat 64 ((s.readVa lctx (va + off) 8).getD 0)
/-- Write a double of a TCB. -/
def State.setTcb (s : State) (lctx va off : Nat) (v : Dbl) : State := s.writeVa lctx (va + off) 8 v.toNat

/-- Bits [lo + n - 1 : lo] of `x` replaced by `v`. -/
def setBits (x : Dbl) (lo n v : Nat) : Dbl :=
  let m : Dbl := BitVec.ofNat 64 ((2 ^ n - 1) * 2 ^ lo)
  (x &&& ~~~m) ||| (BitVec.ofNat 64 (v * 2 ^ lo) &&& m)

/-- STATE of a TCB (R364). -/
def State.tcbState (s : State) (lctx va : Nat) : Nat := ((s.tcb lctx va 0x10).extractLsb' 32 4).toNat
/-- COUNT of a TCB. -/
def State.tcbCount (s : State) (lctx va : Nat) : Nat := ((s.tcb lctx va 0x10).extractLsb' 0 32).toNat
/-- Set STATE. -/
def State.setTcbState (s : State) (lctx va st : Nat) : State :=
  s.setTcb lctx va 0x10 (setBits (s.tcb lctx va 0x10) 32 4 st)
/-- Set COUNT. -/
def State.setTcbCount (s : State) (lctx va n : Nat) : State :=
  s.setTcb lctx va 0x10 (setBits (s.tcb lctx va 0x10) 0 32 n)

/-- A final STATE (R364). -/
def isFinal (st : Nat) : Bool := decide (4 ≤ st) && decide (st ≤ 8)

/-- RESULT (R365). -/
def resultOf (who graph src code : Nat) (wrap : Bool) : Dbl :=
  BitVec.ofNat 16 who ++ (BitVec.ofNat 16 graph ++ (BitVec.ofNat 8 src ++ ((0 : BitVec 8) ++ (BitVec.ofNat 8 code ++
    ((0 : BitVec 6) ++ (bit wrap ++ (0 : BitVec 1)))))))

/-- RESULT of a task that fails by dependence: WHO, GRAPH and CODE of the predecessor, SRC 3 (R365). -/
def depResult (r : Dbl) : Dbl := (r &&& 0xFFFFFFFF0000FF00) ||| 0x03000000

/-- The value of a reference double of RK 0 or 1 (R163). -/
def refAddr (base : Nat) (r : Dbl) : Nat :=
  let v := (r.extractLsb' 0 57).toNat
  if (r.extractLsb' 62 2).toNat = 1 then (base + v) % 2 ^ 57 else v

/-- The object that a context can name and that holds an address (R163, R363). -/
def State.objAt (s : State) (pasid va : Nat) : Option (Nat × Obj) :=
  (s.objs.zipIdx.find? fun (x : Obj × Nat) =>
    x.1.pasid == pasid && decide (x.1.va ≤ va) && decide (va < x.1.va + x.1.size)).map fun x => (x.2, x.1)

/-- The base from which the references of a TCB count: the object that holds the TCB (R363). -/
def State.tcbBase (s : State) (lctx va : Nat) : Nat :=
  match s.ctx lctx with
  | some c => match s.objAt c.pasid va with
    | some (_, o) => o.va
    | none => 0
  | none => 0

/-- The base from which GRAPH and FRAME of a TCB of a launch count: where no object holds it, as for a pool TCB, that of the
launch's object, whose node filled it (DEDUCED, log entry 119). -/
def State.tcbOrigin (s : State) (x : Launch) (va : Nat) : Nat :=
  match (s.ctx x.lctx).bind fun c => s.objAt c.pasid va with
  | some (_, o) => o.va
  | none => ((s.objs[x.obj]?).map (·.va)).getD 0

/-- The TCBs that the successor list of a TCB names, in list order (R363). -/
def State.successors (s : State) (lctx va : Nat) : List Nat :=
  let r := s.tcb lctx va 0x18
  if r == 0 then []
  else
    let base := s.tcbBase lctx va
    let list := refAddr base r
    let n := ((s.tcb lctx list 0).extractLsb' 0 16).toNat
    (List.range n).map fun i => refAddr base (s.tcb lctx list (8 * (i + 1)))

/-- The TCBs reachable from those of a list, in the order met (R366). `fuel` bounds their number. -/
def State.reach (s : State) (lctx : Nat) : Nat → List Nat → List Nat → List Nat
  | 0, _, seen => seen
  | _, [], seen => seen
  | n + 1, v :: rest, seen =>
    if seen.contains v then s.reach lctx n rest seen
    else s.reach lctx n (s.successors lctx v ++ rest) (seen ++ [v])

/-- A bound on the TCBs of a task set. -/
def setFuel : Nat := 2 ^ 24

/-- The task set of a TCB (R366). -/
def State.taskSet (s : State) (lctx va : Nat) : List Nat := s.reach lctx setFuel [va] []

/-- Whether a TCB names itself through successor lists (R366). -/
def State.selfNaming (s : State) (lctx : Nat) (set : List Nat) : Bool :=
  set.any fun v => (s.reach lctx setFuel (s.successors lctx v) []).contains v

/-! ## The ready queue (R367, R376) -/

/-- A TCB enters READY with the next RSEQ of its launch (R363, R364, R376). -/
def State.enterReady (s : State) (l va : Nat) : State :=
  match s.launch l with
  | none => s
  | some x =>
    let h := s.tcb x.lctx va 0x20
    let s := s.setTcbState x.lctx va 1
    let s := s.bumpId.setTcb x.lctx va 0x38 (BitVec.ofNat 32 x.rseq ++ Config.readyLink s.nextId)
    let s := s.modLaunch l fun y => { y with rseq := y.rseq + 1 }
    let e : Ready :=
      { launch := l, tcb := va, cls := x.cls, rseq := x.rseq, cost := (h.extractLsb' 0 32).toNat,
        remain := (h.extractLsb' 32 32).toNat, bypass := 0, wrapX := (s.tcb x.lctx va 0x10).getLsbD 41 }
    { s with ready := s.ready ++ [e] }

/-- The TLID signal of a TCB at its end (R363, R367 step 1). -/
def State.endSignal (s : State) (lctx va : Nat) : State :=
  let d := s.tcb lctx va 0x28
  if d.getLsbD 51 then s.tlAdd (d.extractLsb' 52 12).toNat (d.extractLsb' 0 32 |>.zeroExtend 64) else s

/-- What a successor does when a predecessor ends (R364, R367): the state it moves to, or a decrement. -/
def State.predEnded (s : State) (l va st : Nat) (res : Dbl) : State × Option (Nat × Nat × Dbl) :=
  match s.launch l with
  | none => (s, none)
  | some x =>
    let mine := s.tcbState x.lctx va
    if st = 4 then
      if mine = 0 then
        let n := s.tcbCount x.lctx va
        let s := s.setTcbCount x.lctx va (n - 1)
        if n ≤ 1 then (s.enterReady l va, none) else (s, none)
      else (s, none)
    else if st = 8 then
      if mine ≤ 1 then (s, some (va, 8, resultOf 0 0 5 0 false)) else (s, none)
    else
      if mine = 0 then (s, some (va, 6, depResult res)) else (s, none)

/-- Successors in list order; those that end themselves are collected. -/
def State.predEndedAll (s : State) (l st : Nat) (res : Dbl) : List Nat → List (Nat × Nat × Dbl) →
    State × List (Nat × Nat × Dbl)
  | [], out => (s, out)
  | v :: t, out =>
    match s.predEnded l v st res with
    | (s, some e) => s.predEndedAll l st res t (out ++ [e])
    | (s, none) => s.predEndedAll l st res t out

/-- Every TCB of a set is final. -/
def State.setFinal (s : State) (lctx : Nat) (set : List Nat) : Bool := set.all fun v => isFinal (s.tcbState lctx v)

/-- The task sets of a launch that have become final are live no more (R363): what is then written to their TCBs, by another
launch that takes a pool TCB for one, says nothing about them. A predecessor that is final is kept as an empty set (R310).
-/
def State.settleSets (s : State) (l : Nat) : State :=
  s.modLaunch l fun y =>
    { y with sets := y.sets.filter fun t => !s.setFinal y.lctx t.tcbs,
             chain := y.chain.map fun set => if s.setFinal y.lctx set then [] else set }

/-- The final states of a list of TCBs and of everything they bring to an end (R364, R367). -/
def State.finishAll (s : State) (l : Nat) : Nat → List (Nat × Nat × Dbl) → State
  | 0, _ => s
  | _, [] => s
  | n + 1, (va, st, res) :: rest =>
    match s.launch l with
    | none => s
    | some x =>
      if isFinal (s.tcbState x.lctx va) then s.finishAll l n rest
      else
        let s := s.setTcbState x.lctx va st
        let s := s.setTcb x.lctx va 0x30 res
        let s := { s with ready := s.ready.filter fun r => !(r.launch == l && r.tcb == va) }
        let s := s.endSignal x.lctx va
        let s := s.modLaunch l fun y =>
          { y with anyFailed := y.anyFailed || st == 5 || st == 6,
                   anyDeadline := y.anyDeadline || st == 8 || res.getLsbD 1 }
        let s := s.settleSets l
        match s.predEndedAll l st res (s.successors x.lctx va) [] with
        | (s, more) => s.finishAll l n (more ++ rest)

/-- A task of launch `l` reaches a final state (R364, R367). -/
def State.finish (s : State) (l va st : Nat) (res : Dbl) : State := s.finishAll l setFuel [(va, st, res)]

/-- Whether every task that a launch has issued is final (R312, R368). -/
def State.allFinal (s : State) (l : Nat) : Bool :=
  match s.launch l with
  | none => true
  | some x => x.sets.all fun t => s.setFinal x.lctx t.tcbs

/-! ## Completion entries (R399, R400) -/

/-- The message of an interrupt remapping entry is sent (R400). -/
def State.sendIrq (s : State) (e : BitVec 128) : State :=
  s.writeLoc (.host (e.extractLsb' 0 64).toNat) 4 (e.extractLsb' 64 32).toNat

/-- An interrupt remapping entry that holds a message which nothing masks any more: P with V, and not M (R400). -/
def irqHeld (e : BitVec 128) : Bool := e.getLsbD 96 && !e.getLsbD 97 && e.getLsbD 98

/-- The held messages of entries that are no longer masked are sent, and P is cleared (R400). -/
def State.sendHeldIrqs (s : State) : State :=
  let es := s.aqis.flatMap fun (a : Nat × Aqi) => a.2.irqs.map (·.2)
  let s := (es.filter irqHeld).foldl State.sendIrq s
  let clear : Nat → BitVec 128 → BitVec 128 := fun _ e => if irqHeld e then e &&& ~~~((1 : BitVec 128) <<< 98) else e
  { s with aqis := avals (fun _ a => { a with irqs := avals clear a.irqs }) s.aqis }

/-- Signal an interrupt remapping entry of an AQI (R400). -/
def State.interrupt (s : State) (aqi n : Nat) : State :=
  match aget aqi s.aqis with
  | none => s
  | some a =>
    match aget n a.irqs with
    | none => s
    | some e =>
      if !e.getLsbD 96 then s
      else if e.getLsbD 97 then
        { s with aqis := amod aqi (fun a => { a with irqs := aset n (e ||| (1 <<< 98)) a.irqs }) s.aqis }
      else s.sendIrq e

/-- The 16 bytes of a completion entry (R399). -/
def completionImage (useq : Word) (status lctx : Nat) (phase : Bool) (tai : Dbl) : Nat :=
  useq.toNat + 2 ^ 32 * status + 2 ^ 40 * lctx + 2 ^ 48 * phase.toNat + 2 ^ 64 * tai.toNat

/-- The place of an address in the virtual space of a PASID (R396). -/
def State.pasidAt (s : State) (pasid aqi va kind : Nat) : Option Loc :=
  match s.walk 0 pasid aqi va with
  | .page e => if e.permits kind then some (e.at_ va) else none
  | .fault _ => none

/-- Write a completion entry to a request queue (R399). -/
def State.complete (s : State) (aqi q : Nat) (useq : Word) (status lctx : Nat) : State :=
  match (aget aqi s.aqis).bind fun a => aget q a.queues with
  | none => s
  | some u =>
    let s := match s.pasidAt u.pasid aqi (u.comp + 16 * u.ctail) 1 with
      | some l => s.writeLoc l 16 (completionImage useq status lctx u.phase s.tai)
      | none => s
    let last := u.ctail + 1 ≥ u.size
    let s := { s with aqis := amod aqi (fun a => { a with queues := amod q (fun u =>
      { u with ctail := if last then 0 else u.ctail + 1, phase := if last then !u.phase else u.phase }) a.queues }) s.aqis }
    match u.irq with
    | some n => s.interrupt aqi n
    | none => s

/-- The completion entry of an admin command (R402): DONE or REFUSED_FIELD, in the next place of the admin completion ring.
PHASE is inverted on each wrap (R399). -/
def State.adminDone (s : State) (tag : AdminTag) (ok : Bool) : State :=
  let last := s.adminTail + 1 ≥ s.adminSize
  { s with adminComp := aset s.adminTail
             (BitVec.ofNat 128 (completionImage tag.useq (if ok then 0 else 5) tag.lctx s.adminPhase s.tai)) s.adminComp,
           adminTail := if last then 0 else s.adminTail + 1,
           adminPhase := if last then !s.adminPhase else s.adminPhase }

/-- An admin command that has been waiting completes (R402). -/
def State.adminFinish (s : State) (w : AdminTag × AdminWait) (ok : Bool) : State :=
  ({ s with adminWait := s.adminWait.filter fun x => x != w } : State).adminDone w.1 ok

/-- The echo tag of a packet (R398). -/
def useqOf (p : Packet) : Word := p.extractLsb' 0x180 32

/-- What an admin packet's completion entry echoes (R399, R402). -/
def adminTag (p : Packet) : AdminTag := { useq := useqOf p, lctx := (p.byte 2).toNat }

end Sys2Proof.Machine
end

