-- ==== Sys2Proof/Machine/Chan.lean ====
section
/-! DEFINITION. Tokens and channels (02_fabric.md, 03_graphs_and_the_joiner.md): headers, depth, pushes, pops, rate
bounds, the token balance, and the ends of firings. -/
namespace Sys2Proof.Machine

/-! ## Token headers (R30 to R33) -/

/-- A header from KIND, LEVEL and TAG (R30). -/
def mkHdr (kind level tag : Nat) : Half := BitVec.ofNat 16 (kind * 2 ^ 13 + level * 2 ^ 10 + tag)
/-- KIND. -/
def hdrKind (h : Half) : Nat := h.toNat / 2 ^ 13
/-- LEVEL. -/
def hdrLevel (h : Half) : Nat := h.toNat / 2 ^ 10 % 8
/-- TAG. -/
def hdrTag (h : Half) : Nat := h.toNat % 2 ^ 10
/-- The header with another TAG. -/
def hdrWithTag (h : Half) (tag : Nat) : Half := mkHdr (hdrKind h) (hdrLevel h) tag

namespace Kind
def data : Nat := 0
def stop : Nat := 1
def done : Nat := 2
def poison : Nat := 3
def scale : Nat := 4
def audit : Nat := 5
end Kind

/-- KIND of a token. -/
def Token.kind (t : Token) : Nat := hdrKind t.hdr
/-- Data or audit data (R36). -/
def Token.isData (t : Token) : Bool := t.kind == Kind.data || t.kind == Kind.audit
/-- Stop or done. -/
def Token.isClose (t : Token) : Bool := t.kind == Kind.stop || t.kind == Kind.done
/-- Poison. -/
def Token.isPoison (t : Token) : Bool := t.kind == Kind.poison
/-- The low word of the payload. -/
def Token.word (t : Token) : Word := t.pay.extractLsb' 0 32

/-- A narrow token. -/
def narrowTok (hdr : Half) (w : Word) : Token := { hdr := hdr, count := 0, pay := w.zeroExtend 1024 }
/-- A poison token, untagged unless a tag is given (R32, R112). -/
def poisonTok (tag : Nat) (origin : Word) : Token := narrowTok (mkHdr Kind.poison 0 tag) origin
/-- A stop token (R32). -/
def stopTok (level tag : Nat) : Token := narrowTok (mkHdr Kind.stop level tag) 0
/-- A done token (R32). -/
def doneTok (tag : Nat) : Token := narrowTok (mkHdr Kind.done 0 tag) 0
/-- A control token of one bit (R144). -/
def ctrlTok (b : Bool) : Token := narrowTok 0 (if b then 1 else 0)

/-! ## Depth (R42, R45) -/

/-- Tokens that a hop adds to a channel's depth (R42). -/
def hopDepth (h : Hop) : Nat := if hopCrosses h then 8 else 2
/-- The depth of a channel (R42). -/
def Chan.depth (c : Chan) : Nat := 4 + lsum (c.route.map hopDepth) + c.spillCap
/-- The tokens it holds. -/
def Chan.occupancy (c : Chan) : Nat := c.spill.length + lsum (c.bufs.map List.length) + c.endq.length
/-- Whether it has a free, unreserved token of depth (R10, R15). -/
def Chan.free (c : Chan) : Bool := decide (c.occupancy + c.reserved < c.depth)
/-- Whether it has `n`. -/
def Chan.freeN (c : Chan) (n : Nat) : Bool := decide (c.occupancy + c.reserved + n ≤ c.depth)

/-- Places of buffer `i` of the route; the end queue follows the last hop, and a crossing before a place adds the
crossing's six (R25). -/
def Chan.capAt (c : Chan) (i : Nat) : Nat :=
  (if i < c.route.length then 2 else 4) +
    (match i with
     | 0 => 0
     | j + 1 => match c.route[j]? with
       | some h => if hopCrosses h then 6 else 0
       | none => 0)

/-- Whether the first place after the producer is free. -/
def Chan.firstFree (c : Chan) : Bool :=
  match c.bufs with
  | [] => decide (c.endq.length < c.capAt 0)
  | b :: _ => decide (b.length < c.capAt 0)

/-- Tokens that a push may still add: the free places of the spill extension and, while that is empty, those of the first
place after the producer (R25, R45). -/
def Chan.room (c : Chan) : Nat :=
  (c.spillCap - c.spill.length) +
    (if c.spill.isEmpty then (match c.bufs with
      | [] => c.capAt 0 - c.endq.length
      | b :: _ => c.capAt 0 - b.length) else 0)

/-- Put a token in the first place. -/
def Chan.enter (c : Chan) (q : QTok) : Chan :=
  match c.bufs with
  | [] => { c with endq := c.endq ++ [q] }
  | b :: t => { c with bufs := (b ++ [q]) :: t }

/-- Push a token, in fc `fc`, that can go on from fc `due`: past the spill extension, or into it (R20). The extension takes
in one token per fc: a second one of an fc is taken in the fc after (R45). -/
def Chan.push (c : Chan) (fc due : Nat) (t : Token) : Chan :=
  if c.spillCap > 0 && (!c.spill.isEmpty || !c.firstFree) then
    let at_ := max due c.spillIn
    { c with spill := c.spill ++ [{ tok := t, due := at_ }], spillIn := at_ + (due - fc) }
  else c.enter { tok := t, due := due }

/-- One token leaves the spill extension in fc `fc` for the first place, if it is free, and can go on from fc `due`. The
extension gives out one token per fc: a second one of an fc follows in the fc after (R45). -/
def Chan.refill (c : Chan) (fc due : Nat) : Chan :=
  match c.spill with
  | [] => c
  | q :: t =>
    if c.firstFree then
      let at_ := max (max due q.due) c.spillOut
      ({ c with spill := t, spillOut := at_ + (due - fc) } : Chan).enter { q with due := at_ }
    else c

/-- The head token that can be popped in fc `fc` (R20). -/
def Chan.head (c : Chan) (fc : Nat) : Option Token :=
  match c.endq with
  | [] => none
  | q :: _ => if q.due ≤ fc then some q.tok else none

/-- The n-th token that can be popped. -/
def Chan.nth (c : Chan) (fc n : Nat) : Option Token :=
  match c.endq[n]? with
  | some q => if q.due ≤ fc then some q.tok else none
  | none => none

/-- Whether a token counts against rate bounds (R39). Ordering edges and control tokens carry no such kind. -/
def Chan.counts (c : Chan) (t : Token) : Bool := !c.order && (c.net == .control || t.isData)

/-- A place of buffer `i` is freed in fc `fc` (R27); earlier entries are of no use any more. -/
def Chan.free1 (c : Chan) (fc i : Nat) : Chan := { c with freed := (c.freed.filter fun x => x.2 == fc) ++ [(i, fc)] }

/-- The channel with its head popped in fc `fc`; a token that leaves its spill extension can go on from fc `due`. -/
def Chan.popped_ (c : Chan) (fc due : Nat) : Chan :=
  match c.endq with
  | [] => c
  | q :: t =>
    ({ c.free1 fc c.bufs.length with
        endq := t, popped := c.popped + (if c.counts q.tok then 1 else 0),
        closed := c.closed || (c.net != .control && q.tok.kind == Kind.done) } : Chan).refill fc due

/-- A push counted against the producer's bound (R39). -/
def Chan.countPush (c : Chan) (t : Token) : Chan := { c with pushed := c.pushed + (if c.counts t then 1 else 0) }

/-! ## Ports of operators (R162) -/

/-- The channel that ends at a port of an operator. -/
def Task.chanIn (k : Task) (o p : Nat) : Option Nat := lfind (fun c => c.consOp == o && c.consPort == p) k.chans
/-- The channel that starts at a port of an operator. -/
def Task.chanOut (k : Task) (o p : Nat) : Option Nat := lfind (fun c => c.prodOp == o && c.prodPort == p) k.chans

/-- A channel end that lies at the edge of the graph (R60; log entry 23). -/
def edgeOp : Nat := 0xFFF

/-- The channel of a task. -/
def State.chan (s : State) (t c : Nat) : Option Chan := (s.task t).bind fun k => k.chans[c]?
/-- The channel bound to an input port. -/
def State.inChan (s : State) (t o p : Nat) : Option Chan := (s.task t).bind fun k => (k.chanIn o p).bind fun c => k.chans[c]?

/-- Where a push goes: nowhere (unbound), a channel, or a channel that is not linked yet (R60). -/
inductive OutTo where
  | unbound
  | to (t c : Nat)
  | unlinked
deriving DecidableEq, Repr

/-- Whether an operator index of a channel of `n` operators stands for the edge of the graph: a graph of 4,096 operators has
no edge channel, since the index is that of its last operator (R38; log entry 23). -/
def isEdge (n o : Nat) : Bool := o == edgeOp && decide (n ≤ edgeOp)

/-- The channel that takes the pushes of an output port. An edge channel delivers into the one it is linked to (R60). -/
def State.outTo (s : State) (t o p : Nat) : OutTo :=
  match s.task t with
  | none => .unbound
  | some k =>
    match k.chanOut o p with
    | none => .unbound
    | some c =>
      match k.chans[c]? with
      | none => .unbound
      | some ch =>
        if isEdge k.ops.length ch.consOp then
          match ch.joined with
          | some (t', c') => .to t' c'
          | none => .unlinked
        else .to t c

/-- The head token of an input port. -/
def State.headTok (s : State) (t o p : Nat) : Option Token := (s.inChan t o p).bind fun c => c.head s.fc
/-- The n-th token of an input port. -/
def State.nthTok (s : State) (t o p n : Nat) : Option Token := (s.inChan t o p).bind fun c => c.nth s.fc n

/-- Whether an output port has a free token of depth for `n` pushes, and a place to take them (R25); an unbound port always
has (R109, R278). -/
def State.canPush (s : State) (t o p n : Nat) : Bool :=
  match s.outTo t o p with
  | .unbound => true
  | .unlinked => false
  | .to t' c => match s.chan t' c with
    | some ch => ch.freeN n && decide (n ≤ ch.room)
    | none => true

/-- Whether `n` tokens whose depth was reserved (R10) find places to enter (R25). -/
def State.hasRoom (s : State) (t o p n : Nat) : Bool :=
  match s.outTo t o p with
  | .to t' c => match s.chan t' c with
    | some ch => decide (n ≤ ch.room)
    | none => true
  | _ => true

/-- Whether an output port has free, unreserved depth for the `n` tokens of an access (R10). -/
def State.canReserve (s : State) (t o p n : Nat) : Bool :=
  match s.outTo t o p with
  | .unbound => true
  | .unlinked => false
  | .to t' c => match s.chan t' c with
    | some ch => ch.freeN n
    | none => true

/-- Whether a channel is bound to an output port. -/
def State.outBound (s : State) (t o p : Nat) : Bool := s.outTo t o p != .unbound

/-- Change the token balance of a task (R392). -/
def State.balance (s : State) (t : Nat) (d : Int) : State := s.modTask t fun k => { k with balance := k.balance + d }

/-- The channel bound to an output port, whose `prod` bound its pushes count against (R39). -/
def State.ownOut (s : State) (t o p : Nat) : Option Nat := (s.task t).bind fun k => k.chanOut o p

/-- Push a token on an output port and count it on the port's own channel. A push to an unbound port is discarded (R109). -/
def State.pushTok (s : State) (t o p : Nat) (tok : Token) : State :=
  match s.outTo t o p with
  | .to t' c =>
    let counted := s.modChan t ((s.ownOut t o p).getD 0) fun ch => ch.countPush tok
    ((counted.modChan t' c fun ch => ch.push s.fc (s.after t o 1) tok).balance t' 1).busy (s.lctxOf t)
  | _ => s

/-- Push a token on each bound port of a list, in order. -/
def State.pushAll (s : State) (t o : Nat) (tok : Token) : List Nat → State
  | [] => s
  | p :: rest => (s.pushTok t o p tok).pushAll t o tok rest

/-- Whether every port of a list has a free token of depth. -/
def State.canPushAll (s : State) (t o : Nat) (ps : List Nat) : Bool := ps.all fun p => s.canPush t o p 1

/-- Pop the head of an input port. -/
def State.popTok (s : State) (t o p : Nat) : State :=
  match (s.task t).bind fun k => k.chanIn o p with
  | some c => (s.modChan t c fun ch => ch.popped_ s.fc (s.after t o 1)).balance t (-1)
  | none => s

/-- The RATE detail of a push that would exceed the producer's bound (R39, R384): the bound is that of the port's own
channel, also where an edge channel delivers into another task's. -/
def State.pushRate (s : State) (t o p : Nat) (tok : Token) : Option Word :=
  (s.ownOut t o p).bind fun c => (s.chan t c).bind fun ch =>
    if ch.counts tok && decide (ch.pushed + 1 > ch.prodHi) then some (BitVec.ofNat 32 (c + 2 ^ 16 * ch.prodHi)) else none

/-- The RATE detail of `n` pops that would exceed the consumer's bound (R39, R384). -/
def State.popRate (s : State) (t o p n : Nat) : Option Word :=
  match (s.task t).bind fun k => k.chanIn o p with
  | none => none
  | some c => match s.chan t c with
    | none => none
    | some ch =>
      let counted := ((List.range n).filter fun i => match ch.nth s.fc i with
        | some tok => ch.counts tok
        | none => false).length
      if ch.popped + counted > ch.consHi ∧ counted > 0 ∧ ¬ ch.order then some (BitVec.ofNat 32 (c + 2 ^ 16 * ch.consHi))
      else none

/-- DETAIL of a MALFORMED: the header of the offending token and the port (R384). -/
def malformedDetail (tok : Token) (port : Nat) : Word := BitVec.ofNat 32 (tok.hdr.toNat + 2 ^ 16 * port)

/-- Freeze with MALFORMED on the token at a port. -/
def State.malformed (s : State) (t o port : Nat) (tok : Token) : State :=
  s.freeze t o Code.malformed (malformedDetail tok port)

/-- A token behind a done token (R32): the channel is closed and holds another token. -/
def State.behindDone (s : State) (t o p : Nat) : Option Token :=
  match s.inChan t o p with
  | some ch => if ch.closed && !ch.order then ch.head s.fc else none
  | none => none

/-- The counts of a new firing start at zero on every channel of the operator (R39). -/
def State.resetRates (s : State) (t o : Nat) : State :=
  s.modTask t fun k => { k with chans := k.chans.map fun c =>
    { c with pushed := if c.prodOp == o then 0 else c.pushed, popped := if c.consOp == o then 0 else c.popped } }

/-! ## Sinks (R135, R371, R373) -/

/-- Poison received by operator `o` as a sink: the first one is kept (R373). -/
def State.sinkPoison (s : State) (t o : Nat) (origin : Word) : State :=
  s.modOp t o fun p => if p.poison.isSome then p else { p with poison := some (origin, s.fc) }

/-- A sink: an operator with no output channel bound other than ordering edges (R371). -/
def Task.isSink (k : Task) (o : Nat) : Bool := !(k.chans.any fun c => c.prodOp == o && !c.order)

/-- Operator `o` has consumed the done token of its stream: a sink then holds it (R371). -/
def State.gotDone (s : State) (t o : Nat) : State := s.modOp t o fun p => { p with heldDone := true }

/-! ## Task status -/

/-- A RESUME of a context is in progress: no firing begins before every channel of the context has been restored (R15). -/
def State.restoring (s : State) (lctx : Nat) : Bool := ((s.ctx lctx).bind (·.resumeTag)).isSome

/-- Whether the operators of a task may start firings and issue accesses: it runs, is not stopped or paused, its first
firing may begin (R15, R49), and the device is not halted (R409). -/
def State.live (s : State) (t : Nat) : Bool :=
  match s.task t with
  | some k => k.status == .running && decide (k.startAt ≤ s.fc) && !s.restoring k.lctx && !s.dev.halt && s.dev.failAt.isNone
  | none => false

/-- Whether a firing in progress may go on: a pause lets it end (R11, R12), a stop does not (R383). -/
def State.goesOn (s : State) (t : Nat) : Bool :=
  match s.task t with
  | some k => (k.status == .running || k.status == .pausing) && decide (k.startAt ≤ s.fc) && !s.restoring k.lctx && !s.dev.halt
  | none => false

/-- Whether an operator is frozen (R383). -/
def State.frozen (s : State) (t o : Nat) : Bool :=
  match s.op t o with
  | some p => p.fault.isSome
  | none => true

/-- An operator with its stalled REPLAY accesses withdrawn (R330): they are reissued after the re-placement. -/
def Op.withdrawn (p : Op) : Op :=
  match p.kind with
  | .mem m => { p with kind := .mem { m with stall := m.stall.map fun x => { x with waiting := false } } }
  | .copy c => { p with kind := .copy { c with slots := c.slots.map fun y =>
      { y with stall := y.stall.map fun x => { x with waiting := false } } } }
  | _ => p

/-- The running tasks that meet a test pause from this fc on (R11, R54), and their page requests are withdrawn (R330). -/
def State.pauseTasks (s : State) (p : Nat → Task → Bool) : State :=
  let hit (t : Nat) (k : Task) : Bool := k.status == .running && p t k
  { s with
    tasks := avals (fun t k => if hit t k then { k with status := .pausing, pauseFor := 0, ops := k.ops.map Op.withdrawn } else k)
      s.tasks,
    pageReqs := s.pageReqs.filter fun r => !(s.tasks.any fun z => z.1 == r.t && hit z.1 z.2) }

/-- The pause of a context takes effect (R11, R54, R388): its running tasks pause, and its launches pass no further node. -/
def State.pauseTakesEffect (s : State) (lctx : Nat) : State :=
  let s := s.pauseTasks fun _ k => k.lctx == lctx
  let s := s.modCtx lctx fun c => { c with pausing := true, stopCond := none, stopTask := none }
  let hold : Nat → Launch → Launch := fun _ l => if l.lctx == lctx then { l with paused := true } else l
  { s with launches := avals hold s.launches }

/-- The wrap-up of a task is due or has begun: a pause of its context does not hold its re-placement (R55). -/
def Task.wrapping (k : Task) : Bool := k.wrapDue.isSome || k.wrapMark

/-- A bank ALU command of a context that has started and not ended: it runs to completion before a pause completes (R341).
-/
def State.bankRuns (s : State) (lctx : Nat) : Bool := s.banks.any fun b => (aget lctx b.2.running).isSome

/-- The pause of a context is complete once every task of it is paused (R12, R388): the context is reported PAUSED. -/
def State.pauseCheck (s : State) (lctx : Nat) : State :=
  match s.ctx lctx with
  | none => s
  | some c =>
    let held := s.tasks.any fun z => z.2.lctx == lctx && z.2.status != .paused && !(z.2.status == .running && z.2.wrapping)
    if !c.pausing || held || s.bankRuns lctx || (s.placing.map (·.lctx)) == some lctx then s
    else
      let s := s.modCtx lctx fun c => { c with pausing := false, paused := true, pauseTag := none }
      match c.pauseTag with
      | some tag => s.adminFinish (tag, .pause lctx) true
      | none => s

/-- The stop condition of a PAUSE meets the n-th firing of its operator (R11). -/
def State.checkStopCond (s : State) (t o : Nat) : State :=
  match s.task t with
  | none => s
  | some k => match s.ctx k.lctx with
    | none => s
    | some c => match c.stopCond, s.op t o with
      | some (so, n), some p =>
        let retired := match p.kind with
          | .cell x => x.retired
          | .vec x => x.retired
          | .fibre x => x.retired
          | _ => false
        if c.stopTask == some t && so == o && (decide (p.firings ≥ n) || retired) then s.pauseTakesEffect k.lctx else s
      | _, _ => s

/-- A firing of an operator has ended, or one of the steps that R11 counts as one. -/
def State.countFiring (s : State) (t o : Nat) : State :=
  (s.modOp t o fun p => { p with firings := p.firings + 1 }).checkStopCond t o

/-- Marks that a vector actor holds in registers and predicates that two tests pick count as poison received by a sink
(R204). -/
def State.flushSome (s : State) (t o : Nat) (v : Vec) (pv pp : Nat → Bool) : State :=
  let marks := (v.vregs.zipIdx.filterMap fun r => if pv r.2 then r.1.mark else none) ++
    v.pregs.zipIdx.filterMap fun r => if pp r.2 then r.1.mark else none
  marks.foldl (fun s w => s.sinkPoison t o w) s

/-- The marks that a vector actor holds count as poison received by a sink (R204). -/
def State.flushMarks (s : State) (t o : Nat) : State :=
  match s.vec t o with
  | none => s
  | some v => s.flushSome t o v (fun _ => true) fun _ => true

/-- The marks that the vector actors of a task hold count when the task or its phase is over (R204). -/
def State.flushTask (s : State) (t : Nat) : State :=
  (List.range (((s.task t).map (·.ops.length)).getD 0)).foldl (fun s o => s.flushMarks t o) s

/-- The marks of registers that a pause does not save count: at the re-placement they are clear (R53, R198, R204). A firing
saved where it stands keeps its registers (R390). -/
def State.flushUnsaved (s : State) (t : Nat) : State :=
  (List.range (((s.task t).map (·.ops.length)).getD 0)).foldl (fun s o => match s.vec t o with
    | some v => if v.firing.isSome then s else s.flushSome t o v (fun i => !v.persistV.getLsbD i) fun i => !v.persistP.getLsbD i
    | none => s) s

/-- A firing ends, and the next may begin in the fc after (R20); a retired actor fires no more (R127, R265), and the marks
it holds count as poison (R204). An actor that has popped the done token of its guard queue holds it from the end of that
firing on (R371; log entry 44). -/
def State.endFiring (s : State) (t o : Nat) (wrap retire : Bool) : State :=
  let next := s.after t o 1
  let s := s.modOp t o fun p => match p.kind with
    | .cell c => { p with heldDone := p.heldDone || c.retired,
                           kind := .cell { c with firing := none, idleFrom := next, retired := c.retired || retire,
                                                  wrapRun := c.wrapRun || wrap } }
    | .vec v => { p with heldDone := p.heldDone || v.retired,
                          kind := .vec { v with firing := none, idleFrom := next, retired := v.retired || retire } }
    | _ => p
  let s := if ((s.vec t o).map (·.retired)).getD false then s.flushMarks t o else s
  s.countFiring t o

/-! ## Slot tables (R21 to R23) -/

/-- Weight of a class (R22). -/
def classWeight (c : Nat) : Nat :=
  match c with
  | 0 => 8 | 1 => 4 | 2 => 2 | _ => 1

/-- Slots of each resident entry after steps 1 and 2, with the numerator of its fraction (R22). -/
def slotShares (es : List (Nat × Nat)) : List (Nat × Nat × Nat) :=
  let n := es.length
  let w := lsum (es.map fun e => classWeight e.2)
  es.map fun e => (e.1, 1 + (16 - n) * classWeight e.2 / w, (16 - n) * classWeight e.2 % w)

/-- The entry with the largest fraction, ties to the lower entry (R22 step 3). -/
def bestFraction : List (Nat × Nat × Nat) → Option (Nat × Nat)
  | [] => none
  | (e, _, f) :: t =>
    match bestFraction t with
    | none => some (e, f)
    | some (e', f') => if f' > f then some (e', f') else some (e, f)

/-- Give one slot each to the entries with the largest fractions (R22 step 3). -/
def giveSlots : Nat → List (Nat × Nat × Nat) → List (Nat × Nat × Nat)
  | 0, l => l
  | n + 1, l =>
    match bestFraction (l.filter fun x => x.2.2 ≠ 0) with
    | none => l
    | some (e, _) => giveSlots n (l.map fun x => if x.1 = e then (x.1, x.2.1 + 1, 0) else x)

/-- Lay the slots out in rounds (R22 step 4). -/
def layRounds (l : List (Nat × Nat × Nat)) : Nat → Nat → List Nat
  | 0, _ => []
  | n + 1, r => (l.filter fun x => decide (x.2.1 > r)).map (·.1) ++ layRounds l n (r + 1)

/-- The slot table of the resident entries, with their classes, in entry order (R22, R23). -/
def slotTable (es : List (Nat × Nat)) : Dbl :=
  if es.isEmpty then 0
  else
    let sh := slotShares es
    let sh := giveSlots (16 - lsum (sh.map fun x => x.2.1)) sh
    (((layRounds sh 16 0).take 16).zipIdx.foldl (fun (w : Dbl) (x : Nat × Nat) =>
      w ||| BitVec.ofNat 64 ((8 + x.1) * 2 ^ (4 * x.2))) 0)

/-- The entry of slot `i`, if it is valid (R23). -/
def slotAt (w : Dbl) (i : Nat) : Option Nat :=
  let v := (w.extractLsb' (4 * (i % 16)) 4).toNat
  if v ≥ 8 then some (v - 8) else none

/-- The resident entries of a tile that hold slots: taken, and not of a later phase (R57). -/
def Tile.residents (t : Tile) (waiting : List Nat) : List (Nat × Nat) :=
  (List.range 8).filterMap fun e =>
    let w := t.entry e
    if w.getLsbD 31 && !waiting.contains e then some (e, (w.extractLsb' 26 2).toNat) else none

/-- The entries of a tile that later phases hold: they have no slot until they start (R57). -/
def State.waitingEntries (s : State) (tile : Nat) : List Nat :=
  (s.tasks.map fun (_, k) => ((aget tile k.entries).getD []).drop (k.phase + 1)).flatten

/-- SLOTS of each entry after a table applies (R24). -/
def Tile.withSlots (t : Tile) (w : Dbl) : Tile :=
  let cnt (e : Nat) : Nat := ((List.range 16).filter fun i => slotAt w i == some e).length
  { t with slots := w, newSlots := none, store := t.store.zipIdx.map fun (x : Word × Nat) =>
    (x.1 &&& ~~~(0x001F0000 : Word)) ||| BitVec.ofNat 32 (if x.1.getLsbD 31 then cnt x.2 * 2 ^ 16 else 0) }

/-- A recomputed table is due: it applies from the next fc in which the slot pointer is 0 (R22). -/
def Tile.slotsDue (t : Tile) (fc : Nat) : Option Dbl :=
  match t.newSlots with
  | some (w, at_) => if t.slotPtr = 0 ∧ at_ < fc then some w else none
  | none => none

/-- The tile with the table that is in force in fc `fc` (R22). -/
def Tile.inForce (t : Tile) (fc : Nat) : Tile :=
  match t.slotsDue fc with
  | some w => t.withSlots w
  | none => t

/-- Key of the slot pointer in `Tile.lastIssue`. -/
def slotStep : Nat := 12

/-- The slot pointer has advanced in this fc: the tile's issue units are at the end of it (R21). -/
def Tile.stepped (t : Tile) (fc : Nat) : Bool := aget slotStep t.lastIssue == some fc

/-- An issue unit of a tile issues no more in this fc: it has, the slot pointer has gone on to the next fc, or the clock of
the block lets the fc pass (R20, R21, R274). -/
def State.unitDone (s : State) (tile unit : Nat) : Bool :=
  aget unit (s.tile tile).lastIssue == some s.fc || (s.tile tile).stepped s.fc || !s.ticks tile

/-- The slot pointer advances by one in an fc (R21). -/
def Tile.step (t : Tile) (fc : Nat) : Tile :=
  if t.stepped fc then t
  else { t.inForce fc with slotPtr := t.slotPtr + 1, lastIssue := aset slotStep fc t.lastIssue }

/-- The block controller recomputes a tile's table when an entry is taken or freed; a table with no valid slot is
replaced at once (R22). -/
def State.recomputeSlots (s : State) (tile : Nat) : State :=
  let w := slotTable ((s.tile tile).residents (s.waitingEntries tile))
  s.modTile tile fun t =>
    let t := t.inForce s.fc
    if (List.range 16).any fun i => (slotAt t.slots i).isSome then { t with newSlots := some (w, s.fc) } else t.withSlots w

end Sys2Proof.Machine
end

