-- ==== Sys2Proof/Machine/Operands.lean ====
section
/-! DEFINITION. The operands of scalar instructions and the one operation by which a scalar instruction issues on a cell
or a control core (06_scalar_arithmetic.md R108 to R112, 02_fabric.md R34 to R36). -/
namespace Sys2Proof.Machine

/-- Words of an instruction with these read operands: one more for an immediate (R88). -/
def srcWords (l : List Src) : Nat := if l.any Src.isImm then 2 else 1

/-! ## Cells -/

/-- A cell register; s0 reads as zero (R19). -/
def Cell.reg (c : Cell) (n : SReg) : Word := if n = 0 then 0 else c.regs.getD n.val 0
/-- Write a cell register; a write of s0 is discarded (R19). -/
def Cell.setReg (c : Cell) (n : SReg) (v : Word) : Cell := if n = 0 then c else { c with regs := c.regs.set n.val v }

/-- The context constants word (R128). -/
def ctxkWord (lctx phase cls : Nat) : Word := BitVec.ofNat 32 (lctx * 2 ^ 24 + phase * 2 ^ 21 + cls * 2 ^ 19)

/-- `ctxk` of a task (R128). -/
def State.ctxkOf (s : State) (t : Nat) : Word :=
  match s.task t with
  | some k => ctxkWord k.lctx k.phase ((s.launchOf t).map (·.cls) |>.getD 0)
  | none => 0

/-- An operand as it was read: its value, and the token it came from with its port. -/
structure Opnd where
  val : Word
  tok : Option Token
  port : Nat
deriving DecidableEq, Repr

/-- The port that a consuming operand pops (R108, R162). -/
def srcPops : Src → Option Nat
  | .q n => some n.val
  | .k n => some (6 + n.val)
  | _ => none

/-- The ports that a list of operands pops, in order. -/
def popsOf (l : List Src) : List Nat := l.filterMap srcPops

/-- Read one operand of a cell; `before` holds the ports that earlier fields pop, and `last` is the header of the token that
the actor has popped last, by an earlier field or an earlier instruction (R108, R128). `none`: its token is not there. A
peek of an empty queue waits too (DESIGN CHOICE, log entry 79). -/
def State.readSrc (s : State) (t o : Nat) (c : Cell) (last : Half) (before : List Nat) : Src → Option Opnd
  | .s n => some { val := c.reg n, tok := none, port := 0 }
  | .q n => (s.nthTok t o n.val (before.count n.val)).map fun k => { val := k.word, tok := some k, port := n.val }
  | .pk n => (s.headTok t o n.val).map fun k => { val := k.word, tok := some k, port := n.val }
  | .k n => (s.nthTok t o (6 + n.val) (before.count (6 + n.val))).map fun k =>
      { val := k.word &&& 1, tok := none, port := 6 + n.val }
  | .tok => some { val := last.zeroExtend 32, tok := none, port := 0 }
  | .ctxk => some { val := s.ctxkOf t, tok := none, port := 0 }
  | .imm v => some { val := v, tok := none, port := 0 }

/-- The header that `tok` reads after a field: that of the token the field pops (R128). -/
def Opnd.last (v : Opnd) (a : Src) (last : Half) : Half :=
  match srcPops a, v.tok with
  | some _, some k => k.hdr
  | _, _ => last

/-- Read the operands in field order (R108). -/
def State.readSrcs (s : State) (t o : Nat) (c : Cell) (last : Half) : List Nat → List Src → Option (List Opnd)
  | _, [] => some []
  | before, a :: rest =>
    match s.readSrc t o c last before a with
    | none => none
    | some v => (s.readSrcs t o c (v.last a last) (before ++ (srcPops a).toList) rest).map (v :: ·)

/-- The first operand that came from a stop or done token (R34). -/
def firstClose (l : List Opnd) : Option (Token × Nat) :=
  l.findSome? fun x => x.tok.bind fun k => if k.isClose then some (k, x.port) else none
/-- The first poison operand (R34). -/
def firstPoison (l : List Opnd) : Option Token := l.findSome? fun x => x.tok.bind fun k => if k.isPoison then some k else none

/-- Change the firing of a cell actor. -/
def State.modFiring (s : State) (t o : Nat) (f : Firing → Firing) : State :=
  s.modCell t o fun c => { c with firing := c.firing.map f }

/-- A firing after the head of a queue has been popped: the token that chose the entry has been popped when no queue holds
it any more (R127). -/
def Firing.popOf (f : Firing) (port : Nat) : Firing :=
  let left := f.chosen.erase port
  { f with chosen := left, chosenPopped := f.chosenPopped || (f.chosen.contains port && left.isEmpty) }

/-- Pop a queue or control input of a cell in a firing: `tok` follows, the token that chose the entry may be popped, and a
done token popped from the guard queue retires the actor (R127, R128). Control tokens carry no header (R144). -/
def State.cellPop (s : State) (t o port : Nat) : State :=
  if port ≥ 6 then s.popTok t o port
  else match s.headTok t o port with
    | none => s
    | some k =>
      let guard := ((s.cell t o).map (·.guard)).getD 4
      let s := s.popTok t o port
      let s := s.modFiring t o fun f => { f.popOf port with lastHdr := k.hdr }
      if k.kind == Kind.done && port == guard then s.modCell t o fun c => { c with retired := true } else s

/-- Pop a list of ports in order. -/
def State.cellPops (s : State) (t o : Nat) : List Nat → State
  | [] => s
  | p :: rest => (s.cellPop t o p).cellPops t o rest

/-- The RATE detail of the pops of an instruction (R39). -/
def State.popsRate (s : State) (t o : Nat) (ps : List Nat) : Option Word :=
  ps.findSome? fun p => s.popRate t o p (ps.count p)

/-- A token behind a done token that one of the pops meets (R32). -/
def State.popsBehind (s : State) (t o : Nat) (ps : List Nat) : Option (Token × Nat) :=
  ps.findSome? fun p => if p < 6 then (s.behindDone t o p).map fun k => (k, p) else none

/-- The firing's guard token is audit data. -/
def Firing.audits (f : Firing) : Bool := hdrKind f.guardHdr == Kind.audit

/-- A token as a firing pushes it: an audit-data guard token marks every data token, wherever it comes from; the kind of
every other token stays (R36; log entry 80). -/
def Firing.marked (f : Firing) (k : Token) : Token :=
  if f.audits && k.kind == Kind.data then { k with hdr := mkHdr Kind.audit (hdrLevel k.hdr) (hdrTag k.hdr) } else k

/-- The data token that a firing pushes (R36, R109): audit data after an audit-data guard token; TAG of the guard token. -/
def resultTok (f : Firing) (w : Word) : Token :=
  narrowTok (mkHdr (if hdrKind f.guardHdr == Kind.audit then Kind.audit else Kind.data) 0 (hdrTag f.guardHdr)) w

/-- Where a firing goes after `words` words: the next word, or the first of a `rep` block that runs again (R131). -/
def Firing.next (f : Firing) (words : Nat) : Firing :=
  match f.rep with
  | some r =>
    if f.pc + words = r.start + r.len then
      if r.left = 0 then { f with pc := f.pc + words, rep := none }
      else { f with pc := r.start, rep := some { r with left := r.left - 1 } }
    else { f with pc := f.pc + words }
  | none => { f with pc := f.pc + words }

/-- A 32-bit count that holds at its greatest value (R168). -/
def satInc (w : Word) : Word := if w == 0xFFFFFFFF then w else w + 1

/-- A word that stands for a MICROCODED word counts in LEGACY_USE (R168). -/
def State.countMicro (s : State) (t o : Nat) : State :=
  match s.cell t o with
  | some c => match c.firing with
    | some f => if c.micro.contains f.pc then s.modCtx (s.lctxOf t) fun x => { x with legacyMicro := satInc x.legacyMicro } else s
    | none => s
  | none => s

/-- An instruction of `words` words has issued on a cell; the next may issue `iv` fc later (R110). -/
def State.cellAdvance (s : State) (t o words iv : Nat) : State :=
  (((s.countMicro t o).modFiring t o fun f => { f.next words with nextAt := s.after t o iv }).busy (s.lctxOf t)).issued

/-- The output ports of a cell that carry data: o0 and o1 (R162). -/
def cellOuts : List Nat := [4, 5]

/-- A poison leaves on each bound output port, o0 first, and the firing ends; an actor with no output bound receives it as
a sink (R34, R35, R112). `pops` are the pops of the instruction. -/
def State.poisonOut (s : State) (t o : Nat) (pops : List Nat) (tok : Token) : State :=
  if s.canPushAll t o cellOuts then
    let wrap := match (s.cell t o).bind (·.firing) with
      | some f => f.wrap
      | none => false
    let s := s.cellPops t o pops
    let s := if cellOuts.any fun p => s.outBound t o p then s.pushAll t o tok cellOuts else s.sinkPoison t o tok.word
    ((s.endFiring t o wrap false).busy (s.lctxOf t)).issued
  else s

/-- What stops an instruction before it takes effect: a frozen node, or nothing (R32, R34, R39). A stop or done operand
freezes the cell also where another operand is poison (DESIGN CHOICE, log entry 81), and before a pop over its rate does, for
the rules give no order of the two (DESIGN CHOICE, log entry 109). -/
def State.operandFreeze (s : State) (t o : Nat) (srcs : List Src) (vals : List Opnd) : Option State :=
  match s.popsBehind t o (popsOf srcs) with
  | some (k, p) => some (s.malformed t o p k)
  | none =>
    match firstClose vals with
    | some (k, p) => some (s.malformed t o p k)
    | none => (s.popsRate t o (popsOf srcs)).map fun d => s.freeze t o Code.rate d

/-- Write the result of a cell instruction (R109). A result that goes to the wide `o0` of a `.repl` cell is a wide token with the
32-bit payload in its word 0, zeros above and COUNT 0: the rules give only the token of `repl` (DESIGN CHOICE, log entry 107). -/
def State.cellWrite (s : State) (t o : Nat) (f : Firing) (d : Dst) (w : Word) : State :=
  match d with
  | .s n => s.modCell t o fun c => c.setReg n w
  | .o p => s.pushTok t o (4 + p.val) (resultTok f w)

/-- Whether the destination of a cell instruction takes a result: depth (R108). -/
def State.dstReady (s : State) (t o : Nat) : Dst → Bool
  | .s _ => true
  | .o p => s.canPush t o (4 + p.val) 1

/-- The RATE detail of the result's push (R39). -/
def State.dstRate (s : State) (t o : Nat) (f : Firing) : Dst → Option Word
  | .s _ => none
  | .o p => s.pushRate t o (4 + p.val) (resultTok f 0)

/-- A scalar instruction on a cell (R34, R108, R109, R112). The state is unchanged while it waits. -/
def State.cellScalar (s : State) (t o : Nat) (d : Dst) (srcs : List Src) (iv : Nat)
    (f : List Word → Except (BitVec 7) Word) : State :=
  match s.cell t o with
  | none => s
  | some c =>
    match c.firing with
    | none => s
    | some fi =>
      match s.readSrcs t o c fi.lastHdr [] srcs with
      | none => s
      | some vals =>
        if !s.dstReady t o d then s
        else match s.operandFreeze t o srcs vals with
        | some s' => s'
        | none =>
          match firstPoison vals with
          | some k => s.poisonOut t o (popsOf srcs) k
          | none =>
            match f (vals.map (·.val)) with
            | .error e => s.poisonOut t o (popsOf srcs) (poisonTok 0 (s.origin t o e))
            | .ok w =>
              match s.dstRate t o fi d with
              | some r => s.freeze t o Code.rate r
              | none => (((s.cellPops t o (popsOf srcs)).cellWrite t o fi d w).cellAdvance t o (srcWords srcs) iv)

/-! ## Control cores -/

/-- Read an operand of a core (R88, R108, R111). -/
def Core.src (c : Core) : Src → Dbl
  | .s n => c.reg n
  | .ctxk => c.ctxk
  | .imm v => v.signExtend 64
  | _ => 0

/-- Whether an outstanding load still has to write a register (R154). -/
def Core.pending (c : Core) (n : SReg) : Bool := n != 0 && c.loads.any fun x => x.d == n.val

/-- The registers that operands name. -/
def srcReg? : Src → Option SReg
  | .s n => some n
  | _ => none

/-- Whether a core instruction has to wait for a load to return (R154). -/
def Core.waits (c : Core) (srcs : List Src) (d : Option SReg) : Bool :=
  (srcs.filterMap srcReg? ++ d.toList).any c.pending

/-- The instruction at the PC has issued on a core and writes `v` to `d`. -/
def State.coreWrite (s : State) (k : Nat) (d : SReg) (v : Dbl) (words : Nat) : State :=
  (s.modCore k fun c => { c.setReg d v with pc := c.after words }).issued

/-- The instruction at the PC has issued on a core and writes nothing. -/
def State.coreNext (s : State) (k words : Nat) : State := (s.modCore k fun c => { c with pc := c.after words }).issued

/-- The width of an operation (R111): W64 chooses, the core's own width, or 32 bits. -/
inductive Width where
  | w (w64 : Bool)
  | own
deriving DecidableEq, Repr

/-- Bits of an operation on a core. -/
def Width.bits : Width → Nat
  | .w true => 64
  | .w false => 32
  | .own => 64

/-- The result of an `n`-bit operation in a 64-bit register (R111). -/
def coreResult (n v : Nat) : Dbl := if n = 32 then (BitVec.ofNat 32 v).signExtend 64 else BitVec.ofNat 64 v

/-- A scalar instruction on a control core (R111, R112, R154). -/
def State.coreScalar (s : State) (k : Nat) (d : Dst) (srcs : List Src) (w : Width)
    (f : Nat → List Nat → Except (BitVec 7) Nat) : State :=
  match d with
  | .o _ => s
  | .s n =>
    let c := s.core k
    if c.halted || c.waits srcs (some n) then s
    else match f w.bits (srcs.map fun x => (c.src x).toNat % 2 ^ w.bits) with
      | .error e => (s.coreTrap k e 0).issued
      | .ok v => s.coreWrite k n (coreResult w.bits v) (srcWords srcs)

/-- A scalar instruction: an operation `f` on operands below 2^n that gives a value below 2^n or a data fault (R111,
R112). On a cell every operation has 32 bits. -/
def State.scalar (d : Dst) (srcs : List Src) (w : Width) (iv : Nat) (f : Nat → List Nat → Except (BitVec 7) Nat)
    (s : State) : State :=
  match s.cur with
  | .cell t o =>
    s.cellScalar t o d srcs iv fun l => match f 32 (l.map (·.toNat)) with
      | .error e => .error e
      | .ok v => .ok (BitVec.ofNat 32 v)
  | .core k => s.coreScalar k d srcs w f
  | _ => s

end Sys2Proof.Machine
end

