-- ==== Sys2Proof/Machine/Flags.lean ====
section
/-! DEFINITION. Integer and floating-point arithmetic: exact values, then one narrowing (06_scalar_arithmetic.md,
10_number_formats.md). Operands and results are natural numbers below 2^n. -/
namespace Sys2Proof.Machine

/-! ## Integers (R113 to R118) -/

/-- The signed value of an `n`-bit number. -/
def sgn (n x : Nat) : Int := if x < 2 ^ (n - 1) then x else (x : Int) - 2 ^ n

/-- The low `n` bits of an integer. -/
def wrapI (n : Nat) (i : Int) : Nat := (i % 2 ^ n).toNat

/-- The signed overflow test of R114. -/
def overflows (n : Nat) (i : Int) : Bool := decide (i < -(2 ^ (n - 1))) || decide (i > 2 ^ (n - 1) - 1)

/-- Clamp to the signed range of `n` bits. -/
def clampI (n : Nat) (i : Int) : Int := max (-(2 ^ (n - 1))) (min (2 ^ (n - 1) - 1) i)

/-- The result of an operation that takes OVT: IOVF on overflow under OVT, else the wrapped result (R114). -/
def withOvt (n : Nat) (ovt : Bool) (i : Int) : Except (BitVec 7) Nat :=
  if ovt && overflows n i then .error Code.iovf else .ok (wrapI n i)

/-- A binary operation on operands. -/
def bin (f : Nat → Nat → Nat → Except (BitVec 7) Nat) (n : Nat) : List Nat → Except (BitVec 7) Nat
  | [a, b] => f n a b
  | _ => .ok 0

/-- A unary operation. -/
def una (f : Nat → Nat → Except (BitVec 7) Nat) (n : Nat) : List Nat → Except (BitVec 7) Nat
  | [a] => f n a
  | _ => .ok 0

def aluAdd (ovt : Bool) (n a b : Nat) : Except (BitVec 7) Nat := withOvt n ovt (sgn n a + sgn n b)
def aluSub (ovt : Bool) (n a b : Nat) : Except (BitVec 7) Nat := withOvt n ovt (sgn n a - sgn n b)
def aluAdds (n a b : Nat) : Except (BitVec 7) Nat := .ok (wrapI n (clampI n (sgn n a + sgn n b)))
def aluSubs (n a b : Nat) : Except (BitVec 7) Nat := .ok (wrapI n (clampI n (sgn n a - sgn n b)))
def aluMul (ovt : Bool) (n a b : Nat) : Except (BitVec 7) Nat := withOvt n ovt (sgn n a * sgn n b)
def aluMulh (n a b : Nat) : Except (BitVec 7) Nat := .ok (wrapI n ((sgn n a * sgn n b) / 2 ^ n))
def aluMulhu (n a b : Nat) : Except (BitVec 7) Nat := .ok (a * b / 2 ^ n % 2 ^ n)

/-- div: toward zero (R113, R114). -/
def aluDiv (ovt : Bool) (n a b : Nat) : Except (BitVec 7) Nat :=
  if b = 0 then .error Code.div0 else withOvt n ovt ((sgn n a).tdiv (sgn n b))
def aluDivu (_ a b : Nat) : Except (BitVec 7) Nat := if b = 0 then .error Code.div0 else .ok (a / b)
def aluRem (n a b : Nat) : Except (BitVec 7) Nat :=
  if b = 0 then .error Code.div0 else .ok (wrapI n ((sgn n a).tmod (sgn n b)))
def aluRemu (_ a b : Nat) : Except (BitVec 7) Nat := if b = 0 then .error Code.div0 else .ok (a % b)
def aluAnd (_ a b : Nat) : Except (BitVec 7) Nat := .ok (Nat.land a b)
def aluOr (_ a b : Nat) : Except (BitVec 7) Nat := .ok (Nat.lor a b)
def aluXor (_ a b : Nat) : Except (BitVec 7) Nat := .ok (Nat.xor a b)
def aluAndn (n a b : Nat) : Except (BitVec 7) Nat := .ok (Nat.land a (2 ^ n - 1 - b % 2 ^ n))

/-- Shift amounts: b[4:0] for 32 bits, b[5:0] for 64 (R113). -/
def aluShl (n a b : Nat) : Except (BitVec 7) Nat := .ok (a * 2 ^ (b % n) % 2 ^ n)
def aluShr (n a b : Nat) : Except (BitVec 7) Nat := .ok (a / 2 ^ (b % n))
def aluSra (n a b : Nat) : Except (BitVec 7) Nat := .ok (wrapI n (sgn n a / 2 ^ (b % n)))
def aluRotl (n a b : Nat) : Except (BitVec 7) Nat :=
  .ok (Nat.lor (a * 2 ^ (b % n) % 2 ^ n) (a / 2 ^ (n - b % n)))
def aluMin (n a b : Nat) : Except (BitVec 7) Nat := .ok (if sgn n b < sgn n a then b else a)
def aluMax (n a b : Nat) : Except (BitVec 7) Nat := .ok (if sgn n a < sgn n b then b else a)
def aluMinu (_ a b : Nat) : Except (BitVec 7) Nat := .ok (min a b)
def aluMaxu (_ a b : Nat) : Except (BitVec 7) Nat := .ok (max a b)
def aluAbs (ovt : Bool) (n a : Nat) : Except (BitVec 7) Nat := withOvt n ovt (sgn n a).natAbs
def aluClz (n a : Nat) : Except (BitVec 7) Nat := .ok (if a = 0 then n else n - 1 - Nat.log2 a)

/-- Trailing zero bits of the low `n` bits. -/
def ctzFrom : Nat → Nat → Nat
  | 0, _ => 0
  | n + 1, a => if a % 2 = 1 then 0 else 1 + ctzFrom n (a / 2)
def aluCtz (n a : Nat) : Except (BitVec 7) Nat := .ok (ctzFrom n a)

/-- One bits of the low `n` bits. -/
def popFrom : Nat → Nat → Nat
  | 0, _ => 0
  | n + 1, a => a % 2 + popFrom n (a / 2)
def aluPopc (n a : Nat) : Except (BitVec 7) Nat := .ok (popFrom n a)

/-- The integer conditions of R89; CC 10 is reserved there. -/
def intCond (cc : Cond) (n a b : Nat) : Bool :=
  match cc with
  | .eq => a == b
  | .ne => a != b
  | .lt => decide (sgn n a < sgn n b)
  | .ge => decide (sgn n a ≥ sgn n b)
  | .ltu => decide (a < b)
  | .geu => decide (a ≥ b)
  | .le => decide (sgn n a ≤ sgn n b)
  | .gt => decide (sgn n a > sgn n b)
  | .leu => decide (a ≤ b)
  | .gtu => decide (a > b)
  | .uno => false
def aluCmp (cc : Cond) (n a b : Nat) : Except (BitVec 7) Nat := .ok (intCond cc n a b).toNat

/-- `sel` (R119). -/
def aluSel (_ : Nat) : List Nat → Except (BitVec 7) Nat
  | [a, b, c] => .ok (if c ≠ 0 then a else b)
  | _ => .ok 0

/-- A 16-bit immediate sign-extended to `n` bits. -/
def immN (n : Nat) (imm : Half) : Nat := wrapI n imm.toInt
/-- A 12-bit immediate sign-extended to `n` bits (R118). -/
def imm12N (n : Nat) (imm : BitVec 12) : Nat := wrapI n imm.toInt

/-- Bits [pos + len - 1 : pos] (R117). -/
def fieldOf (a pos len : Nat) : Nat := a / 2 ^ pos % 2 ^ len
/-- bfx: the field sign-extended to `n` bits. -/
def aluBfx (pos len n a : Nat) : Except (BitVec 7) Nat := .ok (wrapI n (sgn len (fieldOf a pos len)))
/-- bfxu. -/
def aluBfxu (pos len _ a : Nat) : Except (BitVec 7) Nat := .ok (fieldOf a pos len)
/-- bfi: the low bits of `a` into the field of `d` [31:0]. -/
def aluBfi (pos len _ d a : Nat) : Except (BitVec 7) Nat :=
  let d := d % 2 ^ 32
  .ok (d - fieldOf d pos len * 2 ^ pos + a % 2 ^ len * 2 ^ pos)
/-- lih: bits [31:16] replaced (R116). -/
def aluLih (imm : Half) (_ d : Nat) : Except (BitVec 7) Nat := .ok (imm.toNat * 2 ^ 16 + d % 2 ^ 16)

/-! ## Floating point (R184 to R190) -/

/-- A floating-point value: m·2^e with a sign, an infinity or NaN. -/
inductive Fp where
  | nan
  | inf (neg : Bool)
  | fin (neg : Bool) (m : Nat) (e : Int)
deriving DecidableEq, Repr, Inhabited

/-- A floating-point format (R184). `maxEnc` is the encoding of the largest finite value without its sign, `inf` whether
it has infinities and `nan` its canonical NaN, if any (R185). -/
structure FFmt where
  mb : Nat
  eb : Nat
  bias : Int
  maxEnc : Nat
  inf : Bool
  nan : Option Nat
deriving DecidableEq, Repr

def fp32 : FFmt := { mb := 23, eb := 8, bias := 127, maxEnc := 0x7F7FFFFF, inf := true, nan := some 0x7FC00000 }
def bf16 : FFmt := { mb := 7, eb := 8, bias := 127, maxEnc := 0x7F7F, inf := true, nan := some 0x7FC0 }
def fp16 : FFmt := { mb := 10, eb := 5, bias := 15, maxEnc := 0x7BFF, inf := true, nan := some 0x7E00 }
def e4m3 : FFmt := { mb := 3, eb := 4, bias := 7, maxEnc := 0x7E, inf := false, nan := some 0x7F }
def e5m2 : FFmt := { mb := 2, eb := 5, bias := 15, maxEnc := 0x7B, inf := true, nan := some 0x7E }
def e3m2 : FFmt := { mb := 2, eb := 3, bias := 3, maxEnc := 0x1F, inf := false, nan := none }
def e2m3 : FFmt := { mb := 3, eb := 2, bias := 1, maxEnc := 0x1F, inf := false, nan := none }
def e2m1 : FFmt := { mb := 1, eb := 2, bias := 1, maxEnc := 0x7, inf := false, nan := none }

/-- The sign bit's weight. -/
def FFmt.signBit (f : FFmt) : Nat := 2 ^ (f.mb + f.eb)

/-- The value of an encoding (R184). -/
def FFmt.unpack (f : FFmt) (x : Nat) : Fp :=
  let neg := x / f.signBit % 2 == 1
  let mag := x % f.signBit
  let e := mag / 2 ^ f.mb
  let m := mag % 2 ^ f.mb
  if f.inf && e == 2 ^ f.eb - 1 then (if m == 0 then .inf neg else .nan)
  else if !f.inf && f.nan == some mag then .nan
  else if e == 0 then .fin neg m (1 - f.bias - f.mb)
  else .fin neg (2 ^ f.mb + m) ((e : Int) - f.bias - f.mb)

/-- An unsigned value with its sign. -/
def FFmt.signed (f : FFmt) (neg : Bool) (mag : Nat) : Nat := if neg then f.signBit + mag else mag

/-- Whether a magnitude with remainder `rem` of `2^sh` below the last place is rounded away from zero; `odd` is the last
bit, `rnd` the 24 random bits of SR (R188, R189). -/
def roundsUp (rm : RmC) (neg odd : Bool) (rem sh rnd : Nat) : Bool :=
  match rm with
  | .rne => decide (2 * rem > 2 ^ sh) || (2 * rem == 2 ^ sh && odd)
  | .rtz => false
  | .rup => !neg && rem != 0
  | .rdn => neg && rem != 0
  | .sr => rem != 0 && decide (rem * 2 ^ 24 / 2 ^ sh + rnd ≥ 2 ^ 24)

/-- m·2^e rounded to a multiple of 2^k: the multiple. -/
def roundAt (rm : RmC) (rnd : Nat) (neg : Bool) (m : Nat) (e k : Int) : Nat :=
  if k ≤ e then m * 2 ^ (e - k).toNat
  else
    let sh := (k - e).toNat
    let q := m / 2 ^ sh
    if roundsUp rm neg (q % 2 == 1) (m % 2 ^ sh) sh rnd then q + 1 else q

/-- The encoding of a rounded magnitude, as if the exponent range were unbounded above (R188). -/
def FFmt.roundMag (f : FFmt) (rm : RmC) (rnd : Nat) (neg : Bool) (m : Nat) (e : Int) : Nat :=
  if m = 0 then 0
  else
    let top : Int := max (Nat.log2 m + e) (1 - f.bias)
    let q := roundAt rm rnd neg m e (top - f.mb)
    if q < 2 ^ f.mb then q else ((top + f.bias).toNat - 1) * 2 ^ f.mb + q

/-- The encoding of ∞ without sign. -/
def FFmt.infEnc (f : FFmt) : Nat := (2 ^ f.eb - 1) * 2 ^ f.mb

/-- What an overflow gives in a format with infinities (R190, IEEE 754). -/
def FFmt.overflow (f : FFmt) (rm : RmC) (neg : Bool) : Nat :=
  match rm with
  | .rne | .sr => f.infEnc
  | .rtz => f.maxEnc
  | .rup => if neg then f.maxEnc else f.infEnc
  | .rdn => if neg then f.infEnc else f.maxEnc

/-- The canonical NaN of a format, 0 for none (R185). -/
def FFmt.nanEnc (f : FFmt) : Nat := f.nan.getD 0

/-- A subnormal magnitude. -/
def FFmt.isSub (f : FFmt) (mag : Nat) : Bool := decide (mag < 2 ^ f.mb)

/-- An operand of an arithmetic instruction: under FTZ a subnormal reads as zero of its sign (R186). -/
def FFmt.operand (f : FFmt) (ftz : Bool) (x : Nat) : Fp :=
  match f.unpack x with
  | .fin neg m e => if ftz && f.isSub (x % f.signBit) then .fin neg 0 e else .fin neg m e
  | v => v

/-- A result of an arithmetic instruction in a format with infinities: rounded once, then FTZ (R185, R186, R188). -/
def FFmt.result (f : FFmt) (ftz : Bool) (rm : RmC) (v : Fp) : Nat :=
  match v with
  | .nan => f.nanEnc
  | .inf neg => f.signed neg f.infEnc
  | .fin neg m e =>
    let mag := f.roundMag rm 0 neg m e
    let mag := if mag > f.maxEnc then f.overflow rm neg else mag
    f.signed neg (if ftz && f.isSub mag then 0 else mag)

/-- The rounding of the SR and VR formats as one of the VC format. -/
def rmC : Rm → RmC
  | .rne => .rne | .rtz => .rtz | .rup => .rup | .rdn => .rdn

/-- A signed integer as a magnitude with sign. -/
def fpOfInt (i : Int) (e : Int) : Fp := .fin (decide (i < 0)) i.natAbs e

/-- The exact sum; `down` is the rounding RDN, which decides the sign of an exact zero (R188). -/
def fpAdd (down : Bool) (a b : Fp) : Fp :=
  match a, b with
  | .nan, _ => .nan
  | _, .nan => .nan
  | .inf s, .inf t => if s = t then .inf s else .nan
  | .inf s, _ => .inf s
  | _, .inf t => .inf t
  | .fin s m e, .fin t n g =>
    let k := min e g
    let x : Int := (m : Int) * 2 ^ (e - k).toNat * (if s then -1 else 1)
    let y : Int := (n : Int) * 2 ^ (g - k).toNat * (if t then -1 else 1)
    if x + y = 0 then .fin (if s = t then s else down) 0 k else fpOfInt (x + y) k

/-- The value with its sign inverted. -/
def fpNeg : Fp → Fp
  | .nan => .nan
  | .inf s => .inf (!s)
  | .fin s m e => .fin (!s) m e

/-- The exact product. -/
def fpMul (a b : Fp) : Fp :=
  match a, b with
  | .nan, _ => .nan
  | _, .nan => .nan
  | .inf s, .inf t => .inf (s != t)
  | .inf s, .fin t n _ => if n = 0 then .nan else .inf (s != t)
  | .fin s m _, .inf t => if m = 0 then .nan else .inf (s != t)
  | .fin s m e, .fin t n g => .fin (s != t) (m * n) (e + g)

/-- Quotient bits kept beyond any format's last place. -/
def quotBits : Nat := 320

/-- The quotient with a last bit that says whether anything lies below it: it rounds once as the exact quotient does. -/
def fpDiv (a b : Fp) : Fp :=
  match a, b with
  | .nan, _ => .nan
  | _, .nan => .nan
  | .inf _, .inf _ => .nan
  | .inf s, .fin t _ _ => .inf (s != t)
  | .fin s _ _, .inf t => .fin (s != t) 0 0
  | .fin s m e, .fin t n g =>
    if n = 0 then (if m = 0 then .nan else .inf (s != t))
    else
      let x := m * 2 ^ quotBits
      .fin (s != t) (2 * (x / n) + (if x % n = 0 then 0 else 1)) (e - g - quotBits - 1)

/-- The integer square root by its bits, highest first. -/
def isqrtFrom (x : Nat) : Nat → Nat → Nat
  | 0, r => r
  | n + 1, r => if (r + 2 ^ n) * (r + 2 ^ n) ≤ x then isqrtFrom x n (r + 2 ^ n) else isqrtFrom x n r

/-- 1/√a for a positive finite a, with a last bit for what lies below. -/
def fpRsqrt (m : Nat) (e : Int) : Fp :=
  let odd := e % 2 ≠ 0
  let m := if odd then 2 * m else m
  let e := if odd then e - 1 else e
  let x := 2 ^ 300 / m
  let r := isqrtFrom x 151 0
  .fin false (2 * r + (if r * r * m = 2 ^ 300 then 0 else 1)) (-(150 : Int) - e / 2 - 1)

/-- Bits of the fixed-point numbers of `vexp2` and `vlog2`. -/
def fixBits : Nat := 320

/-- ln 2 in fixed point, from the series of 1/(n·2^n), rounded down. -/
def ln2From : Nat → Nat → Nat
  | 0, _ => 0
  | n + 1, k => 2 ^ (fixBits - k) / k + ln2From n (k + 1)

/-- The terms x^k/k! of the exponential series from term `t` of index `k`. -/
def expFrom (x : Nat) : Nat → Nat → Nat → Nat
  | 0, _, _ => 0
  | n + 1, k, t => t + expFrom x n (k + 1) (t * x / 2 ^ fixBits / (k + 1))

/-- 2^a, with a last bit for what lies below unless a is an integer (R207; log entry 24). -/
def fpExp2 (neg : Bool) (m : Nat) (e : Int) : Fp :=
  if m = 0 then .fin false 1 0
  else if (Nat.log2 m : Int) + e ≥ 12 then (if neg then .fin false 1 (-4096) else .fin false 1 4096)
  else
    let a : Int := (m : Int) * (if neg then -1 else 1)
    let n : Int := if e ≥ 0 then a * 2 ^ e.toNat else a / 2 ^ (-e).toNat
    let f : Nat := if e ≥ 0 then 0 else (a % 2 ^ (-e).toNat).toNat
    if f = 0 then .fin false 1 n
    else
      let fx := f * 2 ^ fixBits / 2 ^ (-e).toNat
      let x := fx * ln2From fixBits 1 / 2 ^ fixBits
      .fin false (2 * expFrom x 90 0 (2 ^ fixBits) + 1) (n - fixBits - 1)

/-- The first `n` binary places of log2 y, for y in [1, 2) in fixed point. -/
def log2From : Nat → Nat → Nat → Nat
  | 0, _, acc => acc
  | n + 1, y, acc =>
    let z := y * y / 2 ^ fixBits
    if z ≥ 2 ^ (fixBits + 1) then log2From n (z / 2) (2 * acc + 1) else log2From n z (2 * acc)

/-- log2 of a positive finite value, with a last bit for what lies below unless it is an integer (R207; log entry 24). -/
def fpLog2 (m : Nat) (e : Int) : Fp :=
  let k := Nat.log2 m
  let n : Int := k + e
  if m = 2 ^ k then fpOfInt n 0
  else
    let v : Int := n * 2 ^ 120 + log2From 120 (m * 2 ^ (fixBits - k)) 0
    if v ≥ 0 then .fin false (2 * v.toNat + 1) (-121) else .fin true (2 * ((-v).toNat - 1) + 1) (-121)

/-- a < b for values that are not NaN; zeros are equal. -/
def fpLt (a b : Fp) : Bool :=
  match a, b with
  | .inf true, .inf true => false
  | .inf true, _ => true
  | _, .inf true => false
  | .inf false, _ => false
  | _, .inf false => true
  | .fin s m e, .fin t n g =>
    let k := min e g
    let x : Int := (m : Int) * 2 ^ (e - k).toNat * (if s then -1 else 1)
    let y : Int := (n : Int) * 2 ^ (g - k).toNat * (if t then -1 else 1)
    decide (x < y)
  | _, _ => false

/-- Whether a value is NaN. -/
def Fp.isNan : Fp → Bool
  | .nan => true
  | _ => false

/-- The FP32 conditions of R89; the reserved codes hold for none. -/
def fpCond (cc : Cond) (a b : Fp) : Bool :=
  let un := a.isNan || b.isNan
  match cc with
  | .eq => !un && !fpLt a b && !fpLt b a
  | .ne => un || fpLt a b || fpLt b a
  | .lt => !un && fpLt a b
  | .ge => !un && !fpLt a b
  | .le => !un && !fpLt b a
  | .gt => !un && fpLt b a
  | .uno => un
  | .ltu | .geu | .leu | .gtu => false

/-- Whether a value is a zero. -/
def Fp.isZero : Fp → Bool
  | .fin _ 0 _ => true
  | _ => false
/-- The sign of a value. -/
def Fp.neg : Fp → Bool
  | .nan => false
  | .inf s => s
  | .fin s _ _ => s

/-- fmin and fmax: the other operand for one NaN, −0 below +0 (R121). `x` and `y` are the encodings. -/
def fpMinMax (f : FFmt) (ftz isMax : Bool) (x y : Nat) : Nat :=
  let a := f.operand ftz x
  let b := f.operand ftz y
  let less := if a.isZero && b.isZero then a.neg && !b.neg else fpLt a b
  if a.isNan && b.isNan then f.nanEnc
  else if a.isNan then f.result ftz .rne b
  else if b.isNan then f.result ftz .rne a
  else if less != isMax then f.result ftz .rne a else f.result ftz .rne b

/-- A value rounded to an integer (R123, R188). -/
def fpToInt (rm : RmC) (rnd : Nat) (neg : Bool) (m : Nat) (e : Int) : Int :=
  let q := roundAt rm rnd neg m e 0
  if neg then -(q : Int) else q

/-- fcvt.w.s and fcvt.wu.s: saturating to [lo, hi] (R123). -/
def fpToIntSat (rm : RmC) (lo hi : Int) (v : Fp) : Int :=
  match v with
  | .nan => 0
  | .inf neg => if neg then lo else hi
  | .fin neg m e => max lo (min hi (fpToInt rm 0 neg m e))

/-! ### Scalar FP32 (R120 to R124) -/

def fAdd (ftz : Bool) (rm : Rm) (_ a b : Nat) : Except (BitVec 7) Nat :=
  .ok (fp32.result ftz (rmC rm) (fpAdd (rm == .rdn) (fp32.operand ftz a) (fp32.operand ftz b)))
def fMul (ftz : Bool) (rm : Rm) (_ a b : Nat) : Except (BitVec 7) Nat :=
  .ok (fp32.result ftz (rmC rm) (fpMul (fp32.operand ftz a) (fp32.operand ftz b)))
def fDiv (ftz : Bool) (rm : Rm) (_ a b : Nat) : Except (BitVec 7) Nat :=
  .ok (fp32.result ftz (rmC rm) (fpDiv (fp32.operand ftz a) (fp32.operand ftz b)))
def fMin (ftz : Bool) (_ a b : Nat) : Except (BitVec 7) Nat := .ok (fpMinMax fp32 ftz false a b)
def fMax (ftz : Bool) (_ a b : Nat) : Except (BitVec 7) Nat := .ok (fpMinMax fp32 ftz true a b)
def fFma (ftz : Bool) (rm : Rm) (_ : Nat) : List Nat → Except (BitVec 7) Nat
  | [a, b, c] => .ok (fp32.result ftz (rmC rm) (fpAdd (rm == .rdn)
      (fpMul (fp32.operand ftz a) (fp32.operand ftz b)) (fp32.operand ftz c)))
  | _ => .ok 0
def fCmp (ftz : Bool) (cc : Cond) (_ a b : Nat) : Except (BitVec 7) Nat :=
  .ok (fpCond cc (fp32.operand ftz a) (fp32.operand ftz b)).toNat
def fCvtSW (rm : Rm) (_ a : Nat) : Except (BitVec 7) Nat := .ok (fp32.result false (rmC rm) (fpOfInt (sgn 32 a) 0))
def fCvtSWu (rm : Rm) (_ a : Nat) : Except (BitVec 7) Nat := .ok (fp32.result false (rmC rm) (.fin false a 0))
def fCvtWS (ftz : Bool) (rm : Rm) (_ a : Nat) : Except (BitVec 7) Nat :=
  .ok (wrapI 32 (fpToIntSat (rmC rm) (-(2 ^ 31)) (2 ^ 31 - 1) (fp32.operand ftz a)))
def fCvtWuS (ftz : Bool) (rm : Rm) (_ a : Nat) : Except (BitVec 7) Nat :=
  .ok (wrapI 32 (fpToIntSat (rmC rm) 0 (2 ^ 32 - 1) (fp32.operand ftz a)))

/-- FP32 add in RNE without FTZ, for reductions, bank ALUs and atomics (R186, R197). -/
def fAddRne (a b : Nat) : Nat := fp32.result false .rne (fpAdd false (fp32.unpack a) (fp32.unpack b))

/-- FTZ in force for the executing unit (R120, R186). -/
def State.ftzNow (s : State) : Bool :=
  match s.cur with
  | .cell t _ | .vec t _ => s.ftz (s.lctxOf t)
  | .core k => (s.core k).status.getLsbD 2
  | .none => false

/-! ## The functions of amo, rmw and the bank ALUs (R91, R155, R336) -/

/-- The new value of an `n`-bit location: old value, operand and compared value. -/
def rmwNew (fn : RmwFn) (n old v cmp : Nat) : Nat :=
  match fn with
  | .add => wrapI n (sgn n old + sgn n v)
  | .sub => wrapI n (sgn n old - sgn n v)
  | .min => if sgn n v < sgn n old then v else old
  | .max => if sgn n old < sgn n v then v else old
  | .minu => Nat.min old v
  | .maxu => Nat.max old v
  | .and => Nat.land old v
  | .or => Nat.lor old v
  | .xor => Nat.xor old v
  | .xchg => v
  | .cas => if old = cmp then v else old
  | .fadd => fAddRne old v

end Sys2Proof.Machine
end

