-- ==== Sys2Proof/Machine/Scalar.lean ====
section
/-! DEFINITION. The meanings of the scalar arithmetic words: integer, FP32, immediate and retired groups
(06_scalar_arithmetic.md, 08_code_objects.md R167 and R168). -/
namespace Sys2Proof.Machine

/-- The outcome of every meaning in this file: the next state. -/
abbrev Out := Host.Outcome State Fault Refusal

/-- `add` (R113, R114). -/
def execAdd (d : Dst) (a b : Src) (w v : Bool) (s : State) : Out :=
  .next (State.scalar d [a, b] (.w w) 1 (bin (aluAdd v)) s)

/-- `sub` (R113, R114). -/
def execSub (d : Dst) (a b : Src) (w v : Bool) (s : State) : Out :=
  .next (State.scalar d [a, b] (.w w) 1 (bin (aluSub v)) s)

/-- `mul` (R113, R114). -/
def execMul (d : Dst) (a b : Src) (w v : Bool) (s : State) : Out :=
  .next (State.scalar d [a, b] (.w w) 2 (bin (aluMul v)) s)

/-- `div` (R113, R114). -/
def execDiv (d : Dst) (a b : Src) (w v : Bool) (s : State) : Out :=
  .next (State.scalar d [a, b] (.w w) 12 (bin (aluDiv v)) s)

/-- `adds` (R113). -/
def execAdds (d : Dst) (a b : Src) (w : Bool) (s : State) : Out :=
  .next (State.scalar d [a, b] (.w w) 1 (bin aluAdds) s)

/-- `subs` (R113). -/
def execSubs (d : Dst) (a b : Src) (w : Bool) (s : State) : Out :=
  .next (State.scalar d [a, b] (.w w) 1 (bin aluSubs) s)

/-- `mulh` (R113). -/
def execMulh (d : Dst) (a b : Src) (w : Bool) (s : State) : Out :=
  .next (State.scalar d [a, b] (.w w) 2 (bin aluMulh) s)

/-- `mulhu` (R113). -/
def execMulhu (d : Dst) (a b : Src) (w : Bool) (s : State) : Out :=
  .next (State.scalar d [a, b] (.w w) 2 (bin aluMulhu) s)

/-- `divu` (R113, R114). -/
def execDivu (d : Dst) (a b : Src) (w : Bool) (s : State) : Out :=
  .next (State.scalar d [a, b] (.w w) 12 (bin aluDivu) s)

/-- `rem` (R113, R114). -/
def execRem (d : Dst) (a b : Src) (w : Bool) (s : State) : Out :=
  .next (State.scalar d [a, b] (.w w) 12 (bin aluRem) s)

/-- `remu` (R113, R114). -/
def execRemu (d : Dst) (a b : Src) (w : Bool) (s : State) : Out :=
  .next (State.scalar d [a, b] (.w w) 12 (bin aluRemu) s)

/-- `and` (R113). -/
def execAnd (d : Dst) (a b : Src) (w : Bool) (s : State) : Out :=
  .next (State.scalar d [a, b] (.w w) 1 (bin aluAnd) s)

/-- `or` (R113). -/
def execOr (d : Dst) (a b : Src) (w : Bool) (s : State) : Out :=
  .next (State.scalar d [a, b] (.w w) 1 (bin aluOr) s)

/-- `xor` (R113). -/
def execXor (d : Dst) (a b : Src) (w : Bool) (s : State) : Out :=
  .next (State.scalar d [a, b] (.w w) 1 (bin aluXor) s)

/-- `andn` (R113). -/
def execAndn (d : Dst) (a b : Src) (w : Bool) (s : State) : Out :=
  .next (State.scalar d [a, b] (.w w) 1 (bin aluAndn) s)

/-- `shl` (R113). -/
def execShl (d : Dst) (a b : Src) (w : Bool) (s : State) : Out :=
  .next (State.scalar d [a, b] (.w w) 1 (bin aluShl) s)

/-- `shr` (R113). -/
def execShr (d : Dst) (a b : Src) (w : Bool) (s : State) : Out :=
  .next (State.scalar d [a, b] (.w w) 1 (bin aluShr) s)

/-- `sra` (R113). -/
def execSra (d : Dst) (a b : Src) (w : Bool) (s : State) : Out :=
  .next (State.scalar d [a, b] (.w w) 1 (bin aluSra) s)

/-- `rotl` (R113). -/
def execRotl (d : Dst) (a b : Src) (w : Bool) (s : State) : Out :=
  .next (State.scalar d [a, b] (.w w) 1 (bin aluRotl) s)

/-- `min` (R113). -/
def execMin (d : Dst) (a b : Src) (w : Bool) (s : State) : Out :=
  .next (State.scalar d [a, b] (.w w) 1 (bin aluMin) s)

/-- `max` (R113). -/
def execMax (d : Dst) (a b : Src) (w : Bool) (s : State) : Out :=
  .next (State.scalar d [a, b] (.w w) 1 (bin aluMax) s)

/-- `minu` (R113). -/
def execMinu (d : Dst) (a b : Src) (w : Bool) (s : State) : Out :=
  .next (State.scalar d [a, b] (.w w) 1 (bin aluMinu) s)

/-- `maxu` (R113). -/
def execMaxu (d : Dst) (a b : Src) (w : Bool) (s : State) : Out :=
  .next (State.scalar d [a, b] (.w w) 1 (bin aluMaxu) s)

/-- `abs` (R113, R114). -/
def execAbs (d : Dst) (a : Src) (w v : Bool) (s : State) : Out :=
  .next (State.scalar d [a] (.w w) 1 (una (aluAbs v)) s)

/-- `clz` (R113). -/
def execClz (d : Dst) (a : Src) (w : Bool) (s : State) : Out :=
  .next (State.scalar d [a] (.w w) 1 (una aluClz) s)

/-- `ctz` (R113). -/
def execCtz (d : Dst) (a : Src) (w : Bool) (s : State) : Out :=
  .next (State.scalar d [a] (.w w) 1 (una aluCtz) s)

/-- `popc` (R113). -/
def execPopc (d : Dst) (a : Src) (w : Bool) (s : State) : Out :=
  .next (State.scalar d [a] (.w w) 1 (una aluPopc) s)

/-- `cmp.cc` (R118). -/
def execCmpCc (cc : Cond) (d : Dst) (a b : Src) (w : Bool) (s : State) : Out :=
  .next (State.scalar d [a, b] (.w w) 1 (bin (aluCmp cc)) s)

/-- `fadd` (R120). -/
def execFadd (d : Dst) (a b : Src) (rm : Rm) (s : State) : Out :=
  .next (State.scalar d [a, b] (.w false) 3 (bin (fAdd s.ftzNow rm)) s)

/-- `fmul` (R120). -/
def execFmul (d : Dst) (a b : Src) (rm : Rm) (s : State) : Out :=
  .next (State.scalar d [a, b] (.w false) 3 (bin (fMul s.ftzNow rm)) s)

/-- `fmin` (R121). -/
def execFmin (d : Dst) (a b : Src) (s : State) : Out :=
  .next (State.scalar d [a, b] (.w false) 1 (bin (fMin s.ftzNow)) s)

/-- `fmax` (R121). -/
def execFmax (d : Dst) (a b : Src) (s : State) : Out :=
  .next (State.scalar d [a, b] (.w false) 1 (bin (fMax s.ftzNow)) s)

/-- `fcvtSW` (R123). -/
def execFcvtSW (d : Dst) (a : Src) (rm : Rm) (s : State) : Out :=
  .next (State.scalar d [a] (.w false) 3 (una (fCvtSW rm)) s)

/-- `fcvtSWu` (R123). -/
def execFcvtSWu (d : Dst) (a : Src) (rm : Rm) (s : State) : Out :=
  .next (State.scalar d [a] (.w false) 3 (una (fCvtSWu rm)) s)

/-- `fcvtWS` (R123). -/
def execFcvtWS (d : Dst) (a : Src) (rm : Rm) (s : State) : Out :=
  .next (State.scalar d [a] (.w false) 3 (una (fCvtWS s.ftzNow rm)) s)

/-- `fcvtWuS` (R123). -/
def execFcvtWuS (d : Dst) (a : Src) (rm : Rm) (s : State) : Out :=
  .next (State.scalar d [a] (.w false) 3 (una (fCvtWuS s.ftzNow rm)) s)

/-- `fcmp.cc` (R124). -/
def execFcmpCc (cc : Cond) (d : Dst) (a b : Src) (s : State) : Out :=
  .next (State.scalar d [a, b] (.w false) 1 (bin (fCmp s.ftzNow cc)) s)

/-- `sel` (R119). -/
def execSel (d : Dst) (a b c : Src) (w : Bool) (s : State) : Out :=
  .next (State.scalar d [a, b, c] (.w w) 1 aluSel s)

/-- `fma` (R122). -/
def execFma (d : Dst) (a b c : Src) (rm : Rm) (s : State) : Out :=
  .next (State.scalar d [a, b, c] (.w false) 3 (fFma s.ftzNow rm) s)

/-- `addi` (R115). -/
def execAddi (d : Dst) (a : Src) (imm : Half) (s : State) : Out :=
  .next (State.scalar d [a] .own 1 (una fun n a => aluAdd false n a (immN n imm)) s)

/-- `andi` (R115). -/
def execAndi (d : Dst) (a : Src) (imm : Half) (s : State) : Out :=
  .next (State.scalar d [a] .own 1 (una fun n a => aluAnd n a (immN n imm)) s)

/-- `ori` (R115). -/
def execOri (d : Dst) (a : Src) (imm : Half) (s : State) : Out :=
  .next (State.scalar d [a] .own 1 (una fun n a => aluOr n a (immN n imm)) s)

/-- `xori` (R115). -/
def execXori (d : Dst) (a : Src) (imm : Half) (s : State) : Out :=
  .next (State.scalar d [a] .own 1 (una fun n a => aluXor n a (immN n imm)) s)

/-- `shli` (R115). -/
def execShli (d : Dst) (a : Src) (amt : BitVec 6) (s : State) : Out :=
  .next (State.scalar d [a] .own 1 (una fun n a => aluShl n a amt.toNat) s)

/-- `shri` (R115). -/
def execShri (d : Dst) (a : Src) (amt : BitVec 6) (s : State) : Out :=
  .next (State.scalar d [a] .own 1 (una fun n a => aluShr n a amt.toNat) s)

/-- `srai` (R115). -/
def execSrai (d : Dst) (a : Src) (amt : BitVec 6) (s : State) : Out :=
  .next (State.scalar d [a] .own 1 (una fun n a => aluSra n a amt.toNat) s)

/-- `li` (R116). -/
def execLi (d : Dst) (imm : Half) (s : State) : Out :=
  .next (State.scalar d [] .own 1 (fun n _ => .ok (immN n imm)) s)

/-- `lih` (R116): reads and writes d. -/
def execLih (d : SReg) (imm : Half) (s : State) : Out :=
  .next (State.scalar (.s d) [.s d] (.w false) 1 (una (aluLih imm)) s)

/-- `cmpi.cc` (R118). -/
def execCmpiCc (cc : Cond) (d : Dst) (a : Src) (imm : BitVec 12) (s : State) : Out :=
  .next (State.scalar d [a] .own 1 (una fun n a => aluCmp cc n a (imm12N n imm)) s)

/-- `bfx` (R117): bits [31:0] of a are read. -/
def execBfx (d : Dst) (a : Src) (pos l : BitVec 5) (s : State) : Out :=
  .next (State.scalar d [a] .own 1 (una (aluBfx pos.toNat (l.toNat + 1))) s)

/-- `bfxu` (R117). -/
def execBfxu (d : Dst) (a : Src) (pos l : BitVec 5) (s : State) : Out :=
  .next (State.scalar d [a] .own 1 (una (aluBfxu pos.toNat (l.toNat + 1))) s)

/-- `bfi` (R117): reads and writes d. -/
def execBfi (d : SReg) (a : Src) (pos l : BitVec 5) (s : State) : Out :=
  .next (State.scalar (.s d) [.s d, a] (.w false) 1 (bin (aluBfi pos.toNat (l.toNat + 1))) s)

/-- `mov` (R167, NATIVE). -/
def execMov (d : Dst) (a : Src) (s : State) : Out :=
  .next (State.scalar d [a] (.w false) 1 (una fun _ a => .ok a) s)

/-- A MICROCODED word counts once in LEGACY_USE when it issues (R168). The Joiner writes the substitute in its place, which
does the same; a word that stands in the code unreplaced has this meaning. -/
def State.microWord (d : Dst) (a : Src) (f : Nat → Except (BitVec 7) Nat) (s : State) : State :=
  let s' := State.scalar d [a] (.w false) 1 (una fun _ a => f a) s
  match s.cur with
  | .cell t _ =>
    if s'.issues = s.issues then s' else s'.modCtx (s.lctxOf t) fun x => { x with legacyMicro := satInc x.legacyMicro }
  | _ => s'

/-- `neg` (R167, MICROCODED): 0 − a, wrapping. -/
def execNeg (d : Dst) (a : Src) (s : State) : Out :=
  .next (State.microWord d a (fun x => .ok (wrapI 32 (-(sgn 32 x)))) s)

/-- `clip8` (R167, MICROCODED): the signed a clamped to [−128, 127]. -/
def execClip8 (d : SReg) (a : Src) (s : State) : Out :=
  .next (State.microWord (.s d) a (fun x => .ok (wrapI 32 (max (-128) (min 127 (sgn 32 x))))) s)

/-- A TRAPPED word (R168): the cell pops and sends its read operands, and waits; the result is written by
TRAPPED_RESULT_ARRIVE. Poison is forwarded and nothing is sent. -/
def State.trappedWord (d : Dst) (srcs : List Src) (f : List Nat → Nat) (s : State) : State :=
  match s.cur with
  | .cell t o =>
    match s.cell t o with
    | none => s
    | some c =>
      match c.firing, c.trapped with
      | some fi, none =>
        match s.readSrcs t o c fi.lastHdr [] srcs with
        | none => s
        | some vals =>
          match s.operandFreeze t o srcs vals with
          | some s' => s'
          | none =>
            match firstPoison vals with
            | some k => s.poisonOut t o (popsOf srcs) k
            | none =>
              let v := BitVec.ofNat 32 (f (vals.map (·.val.toNat)))
              let s := (s.cellPops t o (popsOf srcs)).modCell t o fun c => { c with trapped := some (v, d) }
              ((s.modCtx (s.lctxOf t) fun x => { x with legacyTrapped := satInc x.legacyTrapped }).busy (s.lctxOf t)).issued
      | _, _ => s
  | _ => s

/-- `fdiv` (R167, TRAPPED): FP32 a ÷ b under R120; x ÷ 0 gives ±∞ and 0 ÷ 0 the canonical NaN. -/
def execFdiv (d : Dst) (a b : Src) (rm : Rm) (s : State) : Out :=
  .next (State.trappedWord d [a, b] (fun l => match l with
    | [x, y] => fp32.result s.ftzNow (rmC rm) (fpDiv (fp32.operand s.ftzNow x) (fp32.operand s.ftzNow y))
    | _ => 0) s)

/-- `bswap` (R167, TRAPPED): the bytes of a reversed. -/
def execBswap (d : Dst) (a : Src) (s : State) : Out :=
  .next (State.trappedWord d [a] (fun l => match l with
    | [x] => x % 256 * 2 ^ 24 + x / 2 ^ 8 % 256 * 2 ^ 16 + x / 2 ^ 16 % 256 * 2 ^ 8 + x / 2 ^ 24 % 256
    | _ => 0) s)

/-- The emulation result of a TRAPPED word arrives, and the cell writes D (R168). -/
def execTrappedResultArrive (t o : Nat) (s : State) : Out :=
  match s.cell t o with
  | none => .next s
  | some c =>
    match c.firing, c.trapped with
    | some fi, some (v, d) =>
      if !s.goesOn t || fi.saved || s.frozen t o || !s.dstReady t o d then .next s
      else match s.dstRate t o fi d with
        | some r => .next (s.freeze t o Code.rate r)
        | none =>
          let words := (c.code[fi.pc]?.bind fun w => decodeCell c.gen w (c.code.getD (fi.pc + 1) 0)).map wordsOf |>.getD 1
          let s := (s.cellWrite t o fi d v).modCell t o fun c => { c with trapped := none }
          .next ((s.modFiring t o fun f => { f.next words with nextAt := s.after t o 1 }).busy (s.lctxOf t))
    | _, _ => .next s

end Sys2Proof.Machine
end

