-- ==== Sys2Proof/Machine/Tokens.lean ====
section
/-! DEFINITION. Firings, tokens, branches and steering on cells (07_tokens_control_system.md R125 to R145). -/
namespace Sys2Proof.Machine

/-- Read the operands of a cell instruction and go on with them; a stop or done token, a rate bound or a poison ends it as
R34 and R39 say, and it waits while a token is missing or the port `out` it pushes on takes none (R108). -/
def State.withOperands (s : State) (t o : Nat) (srcs : List Src) (out : Option Nat) (go : Cell → Firing → List Word → State) :
    State :=
  match s.cell t o with
  | none => s
  | some c =>
    match c.firing with
    | none => s
    | some f =>
      match s.readSrcs t o c f.lastHdr [] srcs with
      | none => s
      | some vals =>
        if out.any fun p => !s.canPush t o p 1 then s
        else match s.operandFreeze t o srcs vals with
        | some s' => s'
        | none =>
          match firstPoison vals with
          | some k => s.poisonOut t o (popsOf srcs) k
          | none => go c f (vals.map (·.val))

/-- The firing of the cell that executes, if one does. -/
def State.curFiring (s : State) : Option (Nat × Nat × Cell × Firing) :=
  match s.cur with
  | .cell t o => (s.cell t o).bind fun c => c.firing.map fun f => (t, o, c, f)
  | _ => none

/-- A branch target: the address of the branch word plus DISP16 words (R87). -/
def branchTo (pc : Nat) (disp : Half) : Nat := ((pc : Int) + disp.toInt).toNat

/-- A branch has issued on a cell: its firing goes on at the target, or after the branch's `words` words. -/
def State.cellBranch (s : State) (t o words : Nat) (taken : Bool) (disp : Half) : State :=
  let at_ := (((s.cell t o).bind (·.firing)).map (·.pc)).getD 0
  let s := s.cellAdvance t o words 1
  if taken then s.modFiring t o fun f => { f with pc := branchTo at_ disp } else s

/-- A branch on a core (R129): the target is the branch's address plus DISP16 words. -/
def State.coreBranch (s : State) (k words : Nat) (taken : Bool) (disp : Half) : State :=
  (s.modCore k fun c =>
    { c with pc := if taken then c.pc + (disp.signExtend 64) * 4 else c.after words }).issued

/-- `br` (R129). -/
def execBr (disp : Half) (s : State) : Out :=
  match s.cur with
  | .cell t o => .next (s.withOperands t o [] none fun _ _ _ => s.cellBranch t o 1 true disp)
  | .core k => .next (if (s.core k).halted then s else s.coreBranch k 1 true disp)
  | _ => .next s

/-- bz and bnz: `want` is the outcome of a ≠ 0 that branches (R129). -/
def State.condBranch (s : State) (a : Src) (want : Bool) (disp : Half) : State :=
  match s.cur with
  | .cell t o =>
    s.withOperands t o [a] none fun _ _ l =>
      (s.cellPops t o (popsOf [a])).cellBranch t o (srcWords [a]) ((l.getD 0 0 != 0) == want) disp
  | .core k =>
    let c := s.core k
    if c.halted || c.waits [a] none then s
    else s.coreBranch k (srcWords [a]) ((c.src a != 0) == want) disp
  | _ => s

/-- `bz` (R129). -/
def execBz (a : Src) (disp : Half) (s : State) : Out := .next (s.condBranch a false disp)
/-- `bnz` (R129). -/
def execBnz (a : Src) (disp : Half) (s : State) : Out := .next (s.condBranch a true disp)

/-- `bk`: pops a control token and branches when it equals v (R129). -/
def execBk (k : KIn) (v : Bool) (disp : Half) (s : State) : Out :=
  match s.cur with
  | .cell t o =>
    .next (s.withOperands t o [.k k] none fun _ _ l =>
      (s.cellPop t o (6 + k.val)).cellBranch t o 1 ((l.getD 0 0 != 0) == v) disp)
  | _ => .next s

/-- `bkind`: branches on the KIND and LEVEL of a queue's head, without popping (R130). -/
def execBkind (q : QIn) (kind lvl : BitVec 3) (disp : Half) (s : State) : Out :=
  match s.curFiring with
  | some (t, o, _, _) =>
    match s.headTok t o q.val with
    | none => .next s
    | some k =>
      .next (s.cellBranch t o 1 (k.kind == kind.toNat && (lvl == 0 || hdrLevel k.hdr == lvl.toNat)) disp)
  | none => .next s

/-- `rep`: the block of `len` words that follows runs a times (R131). -/
def execRep (a : Src) (len : BitVec 5) (s : State) : Out :=
  match s.cur with
  | .cell t o =>
    .next (s.withOperands t o [a] none fun _ _ l =>
      let s := (s.cellPops t o (popsOf [a])).cellAdvance t o (srcWords [a]) 1
      let n := (l.getD 0 0).toNat
      s.modFiring t o fun f =>
        if n = 0 then { f with pc := f.pc + len.toNat }
        else { f with rep := some { start := f.pc, len := len.toNat, left := n - 1 } })
  | _ => .next s

/-- The queue at whose head the token that chose the entry still stands: q0 to q3 for a merge or amerge actor, whose
selected token may stand on any arm (R127, R136). -/
def Firing.guardPort (f : Firing) : Nat := f.chosen.headD 0

/-- `end` closes the firing (R132); the token that chose the entry must have been popped (R127). The wrap-up entry
retires its actor (R265). -/
def execEndCell (s : State) : Out :=
  match s.curFiring with
  | some (t, o, _, f) =>
    if !f.chosenPopped && !f.wrap then
      match s.headTok t o f.guardPort with
      | some k => .next (s.malformed t o f.guardPort k)
      | none => .next ((s.endFiring t o f.wrap false).busy (s.lctxOf t)).issued
    else .next ((s.endFiring t o f.wrap f.wrap).busy (s.lctxOf t)).issued
  | none => .next s

/-! ## The send group and the token group -/

/-- Push a token on an output port and go on, or wait for depth, or freeze with RATE (R39, R133). -/
def State.cellSend (s : State) (t o : Nat) (p : OPort) (pops : List Nat) (words : Nat) (tok : Token) : State :=
  if s.canPush t o (4 + p.val) 1 then
    match s.pushRate t o (4 + p.val) tok with
    | some r => s.freeze t o Code.rate r
    | none => ((s.cellPops t o pops).pushTok t o (4 + p.val) tok).cellAdvance t o words 1
  else s

/-- `send` (R133): TAG 0 takes the guard token's tag. -/
def execSend (p : OPort) (a : Src) (tag : BitVec 10) (s : State) : Out :=
  match s.cur with
  | .cell t o =>
    .next (s.withOperands t o [a] (some (4 + p.val)) fun _ f l =>
      let k := resultTok f (l.getD 0 0)
      s.cellSend t o p (popsOf [a]) (srcWords [a]) (if tag == 0 then k else { k with hdr := hdrWithTag k.hdr tag.toNat }))
  | _ => .next s

/-- `sendstop` (R133). -/
def execSendstop (p : OPort) (lvl : BitVec 3) (tag : BitVec 10) (s : State) : Out :=
  match s.curFiring with
  | some (t, o, _, _) => .next (s.cellSend t o p [] 1 (stopTok lvl.toNat tag.toNat))
  | none => .next s

/-- `senddone` (R133). -/
def execSenddone (p : OPort) (tag : BitVec 10) (s : State) : Out :=
  match s.curFiring with
  | some (t, o, _, _) => .next (s.cellSend t o p [] 1 (doneTok tag.toNat))
  | none => .next s

/-- The pops of a token instruction of any kind: a token behind a done token or a rate bound freezes the cell (R32, R39). -/
def State.popFreeze (s : State) (t o : Nat) (ps : List Nat) : Option State :=
  match s.popsBehind t o ps with
  | some (k, p) => some (s.malformed t o p k)
  | none => (s.popsRate t o ps).map fun d => s.freeze t o Code.rate d

/-- `recv` (R134, R135). In a firing whose guard token is audit data a data token leaves marked (R36; log entry 80). -/
def execRecv (d : Dst) (q : QIn) (s : State) : Out :=
  match s.curFiring with
  | none => .next s
  | some (t, o, _, f) =>
    match s.headTok t o q.val with
    | none => .next s
    | some k =>
      if !s.dstReady t o d then .next s
      else match s.popFreeze t o [q.val] with
      | some s' => .next s'
      | none =>
        match d with
        | .o p => .next (s.cellSend t o p [q.val] 1 (f.marked k))
        | .s n =>
          let s := (s.cellPop t o q.val).modCell t o fun c => c.setReg n k.word
          let s := if k.isPoison then s.sinkPoison t o k.word else s
          .next (s.cellAdvance t o 1 1)

/-- `peek` (R134). -/
def execPeek (d : SReg) (q : QIn) (s : State) : Out :=
  match s.curFiring with
  | none => .next s
  | some (t, o, _, _) =>
    match s.headTok t o q.val with
    | none => .next s
    | some k =>
      let s := (s.modCell t o fun c => c.setReg d k.word).modFiring t o fun f => { f with lastHdr := k.hdr }
      .next (s.cellAdvance t o 1 1)

/-- `drop` (R134, R135). -/
def execDrop (q : QIn) (s : State) : Out :=
  match s.curFiring with
  | none => .next s
  | some (t, o, _, _) =>
    match s.headTok t o q.val with
    | none => .next s
    | some k =>
      match s.popFreeze t o [q.val] with
      | some s' => .next s'
      | none =>
        let s := s.cellPop t o q.val
        let s := if k.isPoison then s.sinkPoison t o k.word else s
        .next (s.cellAdvance t o 1 1)

/-- A control operand: its value, or the freeze of R34 and R137. -/
inductive Ctrl where
  | wait
  | value (v : Word)
  | poison (origin : Word)
  | close (tok : Token) (port : Nat)
deriving DecidableEq, Repr

/-- Read a control operand after the ports `before` have been popped, the last token among them with header `last`. -/
def State.readCtrl (s : State) (t o : Nat) (c : Cell) (last : Half) (before : List Nat) (a : Src) : Ctrl :=
  match s.readSrc t o c last before a with
  | none => .wait
  | some v => match v.tok with
    | none => .value v.val
    | some k => if k.isPoison then .poison k.word else if k.isClose then .close k v.port else .value v.val

/-- Push on kc, if it is bound (R137, R144). -/
def kcPort : Nat := 8

/-- `steer` (R137). -/
def execSteer (q : QIn) (a : Src) (s : State) : Out :=
  match s.curFiring with
  | none => .next s
  | some (t, o, c, f) =>
    match s.headTok t o q.val with
    | none => .next s
    | some k₀ =>
      let k := f.marked k₀
      if k.isClose then
        if !s.canPushAll t o cellOuts then .next s
        else match s.popFreeze t o [q.val] with
        | some s' => .next s'
        | none => .next (((s.cellPop t o q.val).pushAll t o k cellOuts).cellAdvance t o (srcWords [a]) 1)
      else match s.popFreeze t o (q.val :: popsOf [a]) with
      | some s' => .next s'
      | none =>
        match s.readCtrl t o c k₀.hdr [q.val] a with
          | .wait => .next s
          | .poison w => .next (s.freeze t o Code.ctrlPoison w)
          | .close x p => .next (s.malformed t o p x)
          | .value v =>
            let p := if v != 0 then 5 else 4
            if s.canPush t o p 1 && s.canPush t o kcPort 1 then
              match s.pushRate t o p k with
              | some r => .next (s.freeze t o Code.rate r)
              | none => match s.pushRate t o kcPort (ctrlTok (v != 0)) with
                | some r => .next (s.freeze t o Code.rate r)
                | none =>
                  let s := s.cellPops t o (q.val :: popsOf [a])
                  .next (((s.pushTok t o p k).pushTok t o kcPort (ctrlTok (v != 0))).cellAdvance t o (srcWords [a]) 1)
            else .next s

/-! ## Merge and amerge (R136, R138, R139) -/

/-- What an actor's data entry begins with (R136). -/
inductive ArmKind where
  | steer
  | merge (c : Src)
  | amerge
deriving DecidableEq, Repr

/-- The instruction at a word of a cell's code. -/
def Cell.instrAt (c : Cell) (pc : Nat) : Option Instr :=
  c.code[pc]?.bind fun w => decodeCell c.gen w (c.code.getD (pc + 1) 0)

/-- The offset of an entry, if the actor has it (R96). -/
def entryOf (entries : List Byte) (i : Nat) : Option Nat :=
  let e := (entries.getD i 0xFF).toNat
  if e = 0xFF then none else some e

/-- Whether a cell is a steer, merge or amerge actor (R136). -/
def Cell.armKind (c : Cell) : Option ArmKind :=
  match (entryOf c.entries 0).bind c.instrAt with
  | some (.steer _ _) => some .steer
  | some (.merge _ a) => some (.merge a)
  | some (.amerge _) => some .amerge
  | _ => none

/-- The token an actor's firing selects (R136): the ports it is popped from, or nothing yet, or a freeze. -/
inductive Pick where
  | wait
  | take (ports : List Nat) (tok : Token)
  | malformed (tok : Token) (port : Nat)
  | ctrlPoison (origin : Word)
deriving DecidableEq, Repr

/-- The arm queues: q0 and q1 for merge, every bound queue for amerge (R136). -/
def State.arms (s : State) (t o : Nat) : ArmKind → List Nat
  | .amerge => [0, 1, 2, 3].filter fun p => (s.inChan t o p).isSome
  | _ => [0, 1]

/-- The fc of arrival of an input's head (R20). -/
def State.headDue (s : State) (t o p : Nat) : Nat :=
  match s.inChan t o p with
  | some ch => match ch.endq with
    | q :: _ => q.due
    | [] => 0
  | none => 0

/-- The arm whose head arrived first; a tie goes to the lower queue (R136 rule 4). -/
def State.earliest (s : State) (t o : Nat) : List Nat → Option Nat
  | [] => none
  | p :: rest =>
    match s.headTok t o p with
    | some k =>
      if k.isClose then s.earliest t o rest
      else match s.earliest t o rest with
        | some q => if s.headDue t o q < s.headDue t o p then some q else some p
        | none => some p
    | none => s.earliest t o rest

/-- The control bit of a merge: its value, a wait, or a freeze. -/
def State.mergeCtrl (s : State) (t o : Nat) (c : Cell) (a : Src) : Ctrl :=
  s.readCtrl t o c ((c.firing.map (·.lastHdr)).getD 0) [] a

/-- Two heads that close together (R136 rule 1). -/
def sameClose (a b : Token) : Bool :=
  (a.kind == Kind.done && b.kind == Kind.done) ||
  (a.kind == Kind.stop && b.kind == Kind.stop && hdrLevel a.hdr == hdrLevel b.hdr)

/-- R136, rules 1 to 4. Poison at a control queue freezes the cell once an arm holds a head, for an arm is selected only then
(DESIGN CHOICE, log entry 111). -/
def State.pickArm (s : State) (t o : Nat) (c : Cell) (k : ArmKind) : Pick :=
  let arms := s.arms t o k
  let heads := arms.filterMap fun p => (s.headTok t o p).map fun x => (p, x)
  let full := heads.length == arms.length && !arms.isEmpty
  match heads with
  | (p, x) :: rest =>
    if full && x.isClose && rest.all (fun y => sameClose x y.2) then .take arms x
    else if full && heads.all (fun y => y.2.isClose) then .malformed x p
    else match k with
      | .merge a =>
        match s.mergeCtrl t o c a with
        | .wait => .wait
        | .poison w => .ctrlPoison w
        | .close y q => .malformed y q
        | .value v =>
          let b := if v != 0 then 1 else 0
          match s.headTok t o b with
          | some y => if y.isClose then .wait else .take [b] y
          | none => .wait
      | _ =>
        match s.earliest t o arms with
        | some q => match s.headTok t o q with
          | some y => .take [q] y
          | none => .wait
        | none => .wait
  | [] => .wait

/-- Pop the arms of a selected token; the actor retires with a done token. -/
def State.popArms (s : State) (t o : Nat) (ports : List Nat) (k : Token) : State :=
  let s := ports.foldl (fun s p => s.popTok t o p) s
  let s := s.modFiring t o fun f => { ports.foldl Firing.popOf f with lastHdr := k.hdr }
  if k.kind == Kind.done then s.modCell t o fun c => { c with retired := true } else s

/-- Merge and amerge push their selected token unchanged (R138, R139). Of arms that close together it is the lowest arm's, whatever
their TAGs; and a later `tok` has the header of the arm's token, not that of a control token (DESIGN CHOICE, log entry 112). -/
def State.armStep (s : State) (t o : Nat) (c : Cell) (p : OPort) (kind : ArmKind) (ctl : List Nat) (words : Nat) : State :=
  match s.pickArm t o c kind with
  | .wait => s
  | .malformed x q => s.malformed t o q x
  | .ctrlPoison w => s.freeze t o Code.ctrlPoison w
  | .take ports k =>
    let pops := if k.isClose then [] else ctl
    let k' := ((c.firing.map fun f => f.marked k).getD k)
    if !s.canPush t o (4 + p.val) 1 then s
    else match s.popFreeze t o (ports ++ pops) with
    | some s' => s'
    | none =>
      match s.pushRate t o (4 + p.val) k' with
      | some r => s.freeze t o Code.rate r
      | none =>
        let s := pops.foldl (fun s q => s.popTok t o q) (s.popArms t o ports k)
        (s.pushTok t o (4 + p.val) k').cellAdvance t o words 1

/-- `merge` (R136, R138). -/
def execMerge (p : OPort) (a : Src) (s : State) : Out :=
  match s.curFiring with
  | some (t, o, c, _) => .next (s.armStep t o c p (.merge a) (popsOf [a]) (srcWords [a]))
  | none => .next s

/-- `amerge` (R136, R139). -/
def execAmerge (p : OPort) (s : State) : Out :=
  match s.curFiring with
  | some (t, o, c, _) => .next (s.armStep t o c p .amerge [] 1)
  | none => .next s

/-! ## Tags (R141, R142) -/

/-- The sequence counters advance from 1 to 1,023 and round (R141). -/
def nextSeq (n : Nat) : Nat := n % 1023 + 1

/-- `tagseq` (R141). -/
def execTagseq (p : OPort) (q : QIn) (s : State) : Out :=
  match s.curFiring with
  | none => .next s
  | some (t, o, c, f) =>
    match s.headTok t o q.val with
    | none => .next s
    | some k =>
      if !s.canPush t o (4 + p.val) 1 then .next s
      else match s.popFreeze t o [q.val] with
      | some s' => .next s'
      | none =>
        let k' := f.marked { k with hdr := hdrWithTag k.hdr (if k.isClose then 0 else c.tseq) }
        let s' := s.cellSend t o p [q.val] 1 k'
        .next (if k.isClose || s'.issues == s.issues then s'
               else s'.modCell t o fun c => { c with tseq := nextSeq c.tseq })

/-- Push a released token of `collect`; the firing goes on when none is left that follows (R142). -/
def State.collectPush (s : State) (t o : Nat) (p : OPort) (pops : List Nat) (tok : Token) : State :=
  if s.canPush t o (4 + p.val) 1 then
    match s.pushRate t o (4 + p.val) tok with
    | some r => s.freeze t o Code.rate r
    | none =>
      let s := ((s.cellPops t o pops).pushTok t o (4 + p.val) tok).modCell t o fun c =>
        { c with next := nextSeq c.next, window := adel (hdrTag tok.hdr) c.window }
      let more := match s.cell t o with
        | some c => (aget c.next c.window).isSome
        | none => false
      if more then
        ((s.modFiring t o fun f => { f with releasing := true, nextAt := s.after t o 1 }).busy (s.lctxOf t)).issued
      else (s.modFiring t o fun f => { f with releasing := false }).cellAdvance t o 1 1
  else s

/-- `collect` (R142). -/
def execCollect (p : OPort) (q : QIn) (s : State) : Out :=
  match s.curFiring with
  | none => .next s
  | some (t, o, c, f) =>
    if f.releasing then
      match aget c.next c.window with
      | some k => .next (s.collectPush t o p [] (f.marked k))
      | none => .next ((s.modFiring t o fun f => { f with releasing := false }).cellAdvance t o 1 1)
    else match s.headTok t o q.val with
      | none => .next s
      | some k =>
        match s.popFreeze t o [q.val] with
        | some s' => .next s'
        | none =>
          let detail : Word := BitVec.ofNat 32 (hdrTag k.hdr + 2 ^ 10 * c.next)
          if k.isClose then
            if c.window.isEmpty then .next (s.cellSend t o p [q.val] 1 (f.marked k)) else .next (s.freeze t o Code.tagWindow detail)
          else
            let g := hdrTag k.hdr
            let δ := (g + 1023 - c.next) % 1023
            if g = 0 ∨ δ ≥ 64 ∨ (aget g c.window).isSome then .next (s.freeze t o Code.tagWindow detail)
            else if δ = 0 then .next (s.collectPush t o p [q.val] (f.marked k))
            else .next (((s.cellPop t o q.val).modCell t o fun c => { c with window := aset g k c.window }).cellAdvance t o 1 1)

/-! ## repl, kout, kwait (R143, R144) -/

/-- A payload of 32 equal words (R143). -/
def replWords (w : Word) : Nat → Nat
  | 0 => 0
  | n + 1 => w.toNat + 2 ^ 32 * replWords w n

/-- `repl` (R143): one wide token on the wide port bound to o0. TAG is the popped token's, else R109's. A stop or done that
is only peeked has no treatment of its own, and freezes the cell (R34). -/
def execRepl (a : Src) (s : State) : Out :=
  match s.curFiring with
  | none => .next s
  | some (t, o, c, f) =>
    match s.readSrc t o c f.lastHdr [] a with
    | none => .next s
    | some v =>
      let popped := (srcPops a).isSome
      if !s.canPush t o 4 1 then .next s
      else match s.popFreeze t o (popsOf [a]) with
      | some s' => .next s'
      | none =>
        let wide (hdr : Half) (w : Word) : Token := { hdr := hdr, count := 0, pay := BitVec.ofNat 1024 (replWords w 32) }
        let send (k : Token) : Out := .next (s.cellSend t o 0 (popsOf [a]) (srcWords [a]) (f.marked k))
        match v.tok with
        | none => send (wide (resultTok f 0).hdr v.val)
        | some k =>
          let hdr := if popped then k.hdr else hdrWithTag k.hdr (hdrTag f.guardHdr)
          if k.isPoison then send (narrowTok hdr k.word)
          else if k.isClose then
            if popped then send (narrowTok hdr 0) else .next (s.malformed t o v.port k)
          else send (wide hdr k.word)

/-- `kout` (R144). -/
def execKout (a : Src) (s : State) : Out :=
  match s.curFiring with
  | none => .next s
  | some (t, o, c, f) =>
    if !s.canPush t o kcPort 1 then .next s
    else match s.popFreeze t o (popsOf [a]) with
    | some s' => .next s'
    | none =>
      match s.readCtrl t o c f.lastHdr [] a with
      | .wait => .next s
      | .poison w => .next (s.freeze t o Code.ctrlPoison w)
      | .close x p => .next (s.malformed t o p x)
      | .value v =>
          match s.pushRate t o kcPort (ctrlTok (v != 0)) with
          | some r => .next (s.freeze t o Code.rate r)
          | none =>
            .next (((s.cellPops t o (popsOf [a])).pushTok t o kcPort (ctrlTok (v != 0))).cellAdvance t o (srcWords [a]) 1)

/-- `kwait` (R144). -/
def execKwait (k : KIn) (s : State) : Out :=
  match s.cur with
  | .cell t o => .next (s.withOperands t o [.k k] none fun _ _ _ => (s.cellPop t o (6 + k.val)).cellAdvance t o 1 1)
  | _ => .next s

/-! ## The beginning of a firing (R125, R126, R35) -/

/-- The entry index of a head token (R96, R125). -/
def entryIndex (k : Token) : Nat :=
  if k.kind == Kind.stop then hdrLevel k.hdr
  else if k.kind == Kind.done then 8
  else if k.kind == Kind.poison then 9
  else 0

/-- A new firing at a word of the code; `chosen` are the queues at whose heads the token that chose the entry stands. -/
def newFiring (pc : Nat) (hdr : Half) (chosen : List Nat) (wrap : Bool) (fc : Nat) : Firing :=
  { pc := pc, wrap := wrap, guardHdr := hdr, chosen := chosen, chosenPopped := false, lastHdr := hdr, nextAt := fc, rep := none,
    releasing := false, saved := false, fwd := none }

/-- Begin a firing of a cell actor. -/
def State.beginCell (s : State) (t o pc : Nat) (hdr : Half) (chosen : List Nat) (wrap : Bool) : State :=
  ((s.resetRates t o).modCell t o fun c => { c with firing := some (newFiring pc hdr chosen wrap s.fc) }).busy (s.lctxOf t)

/-- A cell actor that has a wrap-up entry to run: its task's mark is set (R265). -/
def State.wrapDue (s : State) (t : Nat) (c : Cell) : Option Nat :=
  match s.task t with
  | some k => if k.wrapMark && !c.wrapRun then entryOf c.entries 10 else none
  | none => none

/-- A cell actor's firing begins (R125, R136, R265). -/
def State.cellBegin (s : State) (t o : Nat) (c : Cell) : State :=
  match s.wrapDue t c with
  | some e => s.beginCell t o e 0 [] true
  | none =>
    match c.armKind with
    | some (.merge a) => armed (.merge a)
    | some .amerge => armed .amerge
    | kind =>
      match s.headTok t o c.guard with
      | none => s
      | some k =>
        if c.retired then s.malformed t o c.guard k
        else match entryOf c.entries (entryIndex k) with
          | some e => s.beginCell t o e k.hdr [c.guard] false
          | none =>
            if kind.isSome then
              match entryOf c.entries 0 with
              | some e => s.beginCell t o e k.hdr [c.guard] false
              | none => s
            else if k.isData then s.malformed t o c.guard k
            else s
where
  armed (kind : ArmKind) : State :=
    if c.retired then
      match (s.arms t o kind).findSome? fun p => (s.headTok t o p).map fun k => (k, p) with
      | some (k, p) => s.malformed t o p k
      | none => s
    else match s.pickArm t o c kind with
      | .wait => s
      | .malformed x q => s.malformed t o q x
      | .ctrlPoison w => s.freeze t o Code.ctrlPoison w
      | .take ports k =>
        match (entryOf c.entries (entryIndex k)).orElse fun _ => entryOf c.entries 0 with
        | some e => s.beginCell t o e k.hdr ports false
        | none => s

/-- A vector actor's firing begins (R125, R200). -/
def State.vecBegin (s : State) (t o : Nat) (v : Vec) : State :=
  match s.headTok t o v.guard with
  | none => s
  | some k =>
    if v.retired then s.malformed t o v.guard k
    else match entryOf v.entries (entryIndex k) with
      | some e =>
        ((s.resetRates t o).modVec t o fun v => { v with firing := some (newFiring e k.hdr [v.guard] false s.fc) }).busy (s.lctxOf t)
      | none => if k.isData || k.kind == Kind.scale then s.malformed t o v.guard k else s

/-- An actor with no firing in progress begins one (R125), in the fc after the last one's `end` at the earliest (R20). -/
def execActorFiringBegin (t o : Nat) (s : State) : Out :=
  if !s.live t || s.frozen t o then .next s
  else match s.op t o with
    | some p => match p.kind with
      | .cell c => if c.firing.isSome || !s.unitTicks t o || decide (s.fc < c.idleFrom) then .next s else .next (s.cellBegin t o c)
      | .vec v => if v.firing.isSome || !s.unitTicks t o || decide (s.fc < v.idleFrom) then .next s else .next (s.vecBegin t o v)
      | _ => .next s
    | none => .next s

/-- Guard queue, entries and retired mark of an actor without a firing in progress that R35 and R126 bind: a steer, merge
or amerge actor is not bound by them (R136). -/
def State.idleActor (s : State) (t o : Nat) : Option (Nat × List Byte) :=
  match s.op t o with
  | some p => match p.kind with
    | .cell c =>
      if c.firing.isSome || c.retired || c.armKind.isSome || (s.wrapDue t c).isSome then none else some (c.guard, c.entries)
    | .vec v => if v.firing.isSome || v.retired then none else some (v.guard, v.entries)
    | _ => none
  | none => none

/-- The actor retires, having popped the done token of its guard queue (R127). -/
def State.retire (s : State) (t o : Nat) : State :=
  ((s.modOp t o fun p => match p.kind with
    | .cell c => { p with kind := .cell { c with retired := true } }
    | .vec v => { p with kind := .vec { v with retired := true } }
    | _ => p).flushMarks t o).gotDone t o

/-- Set the firing of an actor. -/
def State.setFiring (s : State) (t o : Nat) (f : Firing) : State :=
  s.modOp t o fun p => match p.kind with
    | .cell c => { p with kind := .cell { c with firing := some f } }
    | .vec v => { p with kind := .vec { v with firing := some f } }
    | _ => p

/-- The token has been forwarded on every bound port: the firing ends, and a done token retires the actor (R126, R127). -/
def State.forwardEnd (s : State) (t o : Nat) (k : Token) : State :=
  ((if k.kind == Kind.done then s.retire t o else s).endFiring t o false false).busy (s.lctxOf t)

/-- Push the token on the first of the ports that are left; one push takes one issue of the actor's unit (R35, R126). -/
def State.forwardPush (s : State) (t o : Nat) (k : Token) : List Nat → State
  | [] => s.forwardEnd t o k
  | p :: rest =>
    let s := ((s.pushTok t o p k).busy (s.lctxOf t)).issued
    if rest.isEmpty then s.forwardEnd t o k
    else s.setFiring t o { newFiring 0 k.hdr [] false s.fc with fwd := some (k, rest), nextAt := s.after t o 1 }

/-- The firing in progress of an actor. -/
def State.firingOf (s : State) (t o : Nat) : Option Firing :=
  match s.op t o with
  | some { kind := .cell c, .. } => c.firing
  | some { kind := .vec v, .. } => v.firing
  | _ => none

/-- Whether the first of the ports left has a free token of depth. -/
def State.forwardReady (s : State) (t o : Nat) (ports : List Nat) : Bool :=
  match ports with
  | [] => true
  | p :: _ => s.canPush t o p 1

/-- The ports on which an actor forwards a token: o0 and o1, those that are bound (R35, R126). -/
def State.forwardPorts (s : State) (t o : Nat) : List Nat := cellOuts.filter fun p => s.outBound t o p

/-- The unit that issues for an actor serves it. -/
def State.serves (s : State) (t o : Nat) : Bool := s.cur == .cell t o || s.cur == .vec t o

/-- The forwarding step that an actor asks its unit for, if it has one (R35, R126): a token at the head of its guard queue
without an entry, or the next push of one. -/
def State.forwardOffer (s : State) (t o : Nat) : Option Instr :=
  let step (k : Token) : Instr := if k.isPoison then .poisonForward t o else .defaultTokenForward t o
  match s.firingOf t o with
  | some f =>
    f.fwd.bind fun x => if s.goesOn t && !s.frozen t o && !f.saved && decide (f.nextAt ≤ s.fc) then some (step x.1) else none
  | none =>
    if !s.live t || s.frozen t o || (s.forwardPorts t o).isEmpty then none
    else (s.idleActor t o).bind fun x => (s.headTok t o x.1).bind fun k =>
      if (k.isClose || k.isPoison) && (entryOf x.2 (entryIndex k)).isNone then some (step k) else none

/-- A token that an actor without an entry for it forwards (R35, R126): popped with the first push, or pushed on the next
bound port, each push in a turn of the actor's unit. `want` says which tokens. An actor with no output bound pops it without
an issue, and holds a poison as a sink does. -/
def State.forward (s : State) (t o : Nat) (want : List Byte → Token → Bool) : State :=
  match s.firingOf t o with
  | some f =>
    match f.fwd with
    | some (k, ports) =>
      if s.serves t o && s.goesOn t && !s.frozen t o && !f.saved && decide (f.nextAt ≤ s.fc) && want [] k &&
          s.forwardReady t o ports then
        s.forwardPush t o k ports
      else s
    | none => s
  | none =>
    if !s.live t || s.frozen t o then s
    else match s.idleActor t o with
      | none => s
      | some (g, es) =>
        match s.headTok t o g with
        | none => s
        | some k =>
          let ports := s.forwardPorts t o
          if want es k && (ports.isEmpty || s.serves t o) && s.forwardReady t o ports then
            let s := s.popTok t o g
            (if ports.isEmpty && k.isPoison then s.sinkPoison t o k.word else s).forwardPush t o k ports
          else s

/-- A stop or done token at the head of the guard queue, without an entry, is popped and pushed on each bound port, one
push at a time (R126). -/
def execDefaultTokenForward (t o : Nat) (s : State) : Out :=
  .next (s.forward t o fun es k => k.isClose && (entryOf es (entryIndex k)).isNone)

/-- A poison token at the head of the guard queue, without an entry, is popped and pushed on o0 and then o1; with no
output bound it is held as by a sink (R35). -/
def execPoisonForward (t o : Nat) (s : State) : Out :=
  .next (s.forward t o fun es k => k.isPoison && (entryOf es 9).isNone)

end Sys2Proof.Machine
end

