-- ==== Sys2Proof/Machine/Lanes.lean ====
section
/-! DEFINITION. Vector registers, their formats and the one operation by which a vector instruction issues
(10_number_formats.md R180 to R192, 11_vector_instructions.md R198 to R205). -/
namespace Sys2Proof.Machine

/-! ## Formats (R180 to R187) -/

/-- FMT of a tag byte. -/
def tagFmt (t : Byte) : Nat := (t.extractLsb' 0 4).toNat
/-- SCL of a tag byte. -/
def tagScl (t : Byte) : Bool := t.getLsbD 7
/-- BLK of a tag byte. -/
def tagBlk (t : Byte) : Nat := (t.extractLsb' 4 2).toNat
/-- A tag byte (R180). -/
def mkTag (fmt : Nat) (scl : Bool) (blk : Nat) : Byte := BitVec.ofNat 8 (fmt + 16 * blk + if scl then 128 else 0)

/-- Element bits of a format (R181). -/
def fmtBits (fmt : Nat) : Nat :=
  match fmt with
  | 0x1 | 0x9 => 32
  | 0x2 | 0x3 | 0xA => 16
  | 0x4 | 0x5 | 0xB | 0xC | 0xE => 8
  | 0x6 | 0x7 => 6
  | 0x8 => 4
  | 0xD => 2
  | _ => 0

/-- Elements of a format in one wide token (R181). -/
def fmtElems (fmt : Nat) : Nat :=
  match fmt with
  | 0x1 | 0x9 => 32
  | 0x2 | 0x3 | 0xA => 64
  | 0x4 | 0x5 | 0xB | 0xC | 0xE => 128
  | 0x6 | 0x7 => 160
  | 0x8 => 256
  | 0xD => 512
  | _ => 0

/-- The floating-point format of a code (R181, R184). -/
def floatFmt (fmt : Nat) : Option FFmt :=
  match fmt with
  | 0x1 => some fp32 | 0x2 => some bf16 | 0x3 => some fp16 | 0x4 => some e4m3
  | 0x5 => some e5m2 | 0x6 => some e3m2 | 0x7 => some e2m3 | 0x8 => some e2m1
  | _ => none

/-- The float formats of R206. -/
def isFloat3 (fmt : Nat) : Bool := fmt == 1 || fmt == 2 || fmt == 3
/-- The integer formats. -/
def isInt (fmt : Nat) : Bool := fmt == 9 || fmt == 0xA || fmt == 0xB || fmt == 0xC
/-- The seven formats of R206. -/
def isSeven (fmt : Nat) : Bool := isFloat3 fmt || isInt fmt

/-- Bit offset of an element of a wide token (R182). -/
def elemOffset (fmt i : Nat) : Nat := if fmtBits fmt = 6 then 32 * (i / 5) + 6 * (i % 5) else fmtBits fmt * i

/-- Element `i` of a wide payload. -/
def unpackElem (fmt : Nat) (w : Wide) (i : Nat) : Word := BitVec.ofNat 32 (w.toNat / 2 ^ elemOffset fmt i % 2 ^ fmtBits fmt)

/-- The first `n` elements of a wide payload. -/
def unpackElems (fmt : Nat) (w : Wide) (n : Nat) : List Word := (List.range n).map (unpackElem fmt w)

/-- Elements packed into a wide payload (R182). -/
def packElems (fmt : Nat) (l : List Word) : Wide :=
  BitVec.ofNat 1024 (lsum (l.zipIdx.map fun (x : Word × Nat) => x.1.toNat % 2 ^ fmtBits fmt * 2 ^ elemOffset fmt x.2))

/-- An integer element read at its own signedness (R187). -/
def intElem (fmt : Nat) (x : Word) : Int :=
  let w := fmtBits fmt
  if fmt = 0xC then (x.toNat % 2 ^ w : Nat) else sgn w (x.toNat % 2 ^ w)

/-- An integer in a lane of a format: its low bits. -/
def wrapLane (fmt : Nat) (v : Int) : Word := BitVec.ofNat 32 (wrapI (fmtBits fmt) v)

/-- The least and the greatest integer of a format; TERN holds −1 to 1. -/
def intLimits (fmt : Nat) : Int × Int :=
  match fmt with
  | 0xC => (0, 255)
  | 0xD => (-1, 1)
  | _ => (-(2 ^ (fmtBits fmt - 1) : Nat), (2 ^ (fmtBits fmt - 1) : Nat) - 1)

/-- A TERN code (R187). -/
def ternCode (v : Int) : Word := if v = 0 then 0 else if v > 0 then 1 else 3

/-- An operand of an arithmetic instruction; FTZ is for FP32, BF16 and FP16 (R186). -/
def fmtOperand (fmt : Nat) (ftz : Bool) (x : Word) : Fp :=
  match floatFmt fmt with
  | some f => f.operand (ftz && isFloat3 fmt) x.toNat
  | none => .nan

/-- A float result in a lane. -/
def fmtResult (fmt : Nat) (ftz : Bool) (rm : RmC) (v : Fp) : Word :=
  match floatFmt fmt with
  | some f => BitVec.ofNat 32 (f.result (ftz && isFloat3 fmt) rm v)
  | none => 0

/-! ## Registers (R198) -/

/-- A vector register of an actor. -/
def Vec.v (c : Vec) (n : VNum) : VReg := c.vregs.getD n.val { lanes := [], tag := 0, side := 0, mark := none }
/-- A predicate of an actor. -/
def Vec.p (c : Vec) (n : PNum) : PReg := c.pregs.getD n.val { bits := 0, mark := none }
/-- Lane `i`: zero at or beyond VLEN. -/
def VReg.lane (r : VReg) (i : Nat) : Word := r.lanes.getD i 0
/-- VLEN. -/
def VReg.vlen (r : VReg) : Nat := r.lanes.length

/-- The lanes that a predicate selects: all of them with PE clear (R203). -/
def Vec.sel (c : Vec) (p : Pred) (i : Nat) : Bool :=
  match p with
  | none => true
  | some n => (c.p n).bits.getLsbD i

/-- The mark of the first marked source, in the order VA, VB, VC, PRED (R204). -/
def Vec.markOf (c : Vec) (srcs : List VNum) (p : Pred) : Option Word :=
  (srcs.findSome? fun n => (c.v n).mark).orElse fun _ => p.bind fun n => (c.p n).mark

/-- The vector actor that executes, with its firing. -/
def State.curVec (s : State) : Option (Nat × Nat × Vec × Firing) :=
  match s.cur with
  | .vec t o => (s.vec t o).bind fun c => c.firing.map fun f => (t, o, c, f)
  | _ => none

/-- Change the firing of a vector actor. -/
def State.modVFiring (s : State) (t o : Nat) (f : Firing → Firing) : State :=
  s.modVec t o fun c => { c with firing := c.firing.map f }

/-- A vector instruction has issued; the next may issue `iv` fc later (R201). -/
def State.vecAdvance (s : State) (t o iv : Nat) : State :=
  ((s.modVFiring t o fun f => { f with pc := f.pc + 1, nextAt := s.after t o iv }).busy (s.lctxOf t)).issued

/-- Mark a register: the first fault to reach it stays (R198, R204). -/
def State.markV (s : State) (t o : Nat) (d : VNum) (w : Word) : State :=
  s.modVec t o fun c => { c with vregs := lmod d.val (fun r => if r.mark.isSome then r else { r with mark := some w }) c.vregs }

/-- Mark a predicate. -/
def State.markP (s : State) (t o : Nat) (d : PNum) (w : Word) : State :=
  s.modVec t o fun c => { c with pregs := lmod d.val (fun r => if r.mark.isSome then r else { r with mark := some w }) c.pregs }

/-- A mark that an unmarked result overwrites counts as poison received by a sink (R204). -/
def State.dropMark (s : State) (t o : Nat) (m : Option Word) : State :=
  match m with
  | some w => s.sinkPoison t o w
  | none => s

/-- Write a register whole. -/
def State.putV (s : State) (t o : Nat) (d : VNum) (r : VReg) : State :=
  let old := ((s.vec t o).map fun c => (c.v d).mark).getD none
  (s.dropMark t o old).modVec t o fun c => { c with vregs := lmod d.val (fun _ => r) c.vregs }

/-- What a vector instruction computes: lanes, tag, the sidecar it writes (none: unchanged) and sticky flags. -/
structure VOut where
  lanes : List Word
  tag : Byte
  side : Option (BitVec 512)
  flags : BitVec 3
deriving DecidableEq, Repr

/-- A result with neither sidecar nor flags. -/
def vout (tag : Byte) (lanes : List Word) : VOut := { lanes := lanes, tag := tag, side := none, flags := 0 }

/-- The lanes of the result where the predicate selects, and of the destination elsewhere (R203). -/
def mergeLanes (c : Vec) (p : Pred) (old : VReg) (new : List Word) : List Word :=
  new.zipIdx.map fun (x : Word × Nat) => if c.sel p x.2 then x.1 else old.lane x.2

/-- Issue a vector instruction that writes a vector register (R201 to R204). `merge`: PE restricts the lanes written. -/
def State.vecOp (s : State) (d : VNum) (srcs : List VNum) (p : Pred) (iv : Nat) (merge : Bool)
    (f : Vec → List VReg → Except (BitVec 7) VOut) : State :=
  match s.curVec with
  | none => s
  | some (t, o, c, _) =>
    match c.markOf srcs p with
    | some w => (s.markV t o d w).vecAdvance t o iv
    | none =>
      let old := c.v d
      match f c (srcs.map c.v) with
      | .error e => (s.markV t o d (s.origin t o e)).vecAdvance t o iv
      | .ok r =>
        if merge && p.isSome && old.tag != r.tag then (s.markV t o d (s.origin t o Code.invalid)).vecAdvance t o iv
        else
          let new : VReg :=
            { lanes := if merge then mergeLanes c p old r.lanes else r.lanes, tag := r.tag, side := r.side.getD old.side,
              mark := none }
          ((s.putV t o d new).modVec t o fun c => { c with flags := c.flags ||| r.flags }).vecAdvance t o iv

/-- The smallest VLEN of a list of sources (R202). -/
def minLen : List VReg → Nat
  | [] => 512
  | [r] => r.vlen
  | r :: t => min r.vlen (minLen t)

/-- Tag bytes all equal (R202). -/
def sameTags : List VReg → Bool
  | a :: t => t.all fun b => b.tag == a.tag
  | [] => true

/-- Arithmetic sources of an accepted format, with equal tags and SCL clear (R202). -/
def okSources (accept : Nat → Bool) (l : List VReg) : Bool :=
  sameTags l && match l with
  | a :: _ => accept (tagFmt a.tag) && !tagScl a.tag
  | [] => false

/-- A lane-wise result: tag of VA, the smallest VLEN (R202). -/
def lanewise (l : List VReg) (f : List Word → Word) : VOut :=
  vout ((l.head?.map (·.tag)).getD 0) ((List.range (minLen l)).map fun i => f (l.map fun r => r.lane i))

/-! ## Stochastic rounding (R189) -/

/-- One draw: the new X. -/
def drawX (x : Word) : Word :=
  let x := x ^^^ (x <<< 13)
  let x := x ^^^ (x >>> 17)
  x ^^^ (x <<< 5)

/-- X after `n` draws. -/
def drawsX : Nat → Word → Word
  | 0, x => x
  | n + 1, x => drawsX n (drawX x)

/-- rnd24 of the lane after `n` earlier draws. -/
def rnd24 (x : Word) (n : Nat) : Nat := ((drawsX (n + 1) x).extractLsb' 0 24).toNat

/-- The lanes below VLEN that are written, each with its number of earlier draws (R189). -/
def Vec.writtenCount (c : Vec) (p : Pred) (n : Nat) : Nat := ((List.range n).filter (c.sel p)).length

end Sys2Proof.Machine
end

