-- ==== Sys2Proof/Machine/Buffers.lean ====
section
/-! DEFINITION. Places of accesses, granules of memory tiles, write-combining and stream buffers
(18_memory_spaces.md, 20_ordering.md). -/
namespace Sys2Proof.Machine

/-! ## Places of an access -/

/-- Where an access of `n` bytes lies: its place, and the place of the rest when it crosses a page boundary. -/
inductive XPlace where
  | at_ (l : Loc) (tail : Option (Nat × Loc))
  | fault (stage : Nat) (va : Nat)
  | miss (va : Nat)
deriving DecidableEq, Repr

/-- Translate an access of `n` bytes page by page. -/
def State.xlatePlace (s : State) (die : Nat) (u : XUser) (lctx va n kind : Nat) : XPlace :=
  let head := 4096 - va % 4096
  match s.xlate die u lctx va (min n head) kind with
  | .fault g => .fault g va
  | .miss => .miss va
  | .at_ l =>
    if n ≤ head then .at_ l none
    else match s.xlate die u lctx (va + head) (n - head) kind with
      | .fault g => .fault g (va + head)
      | .miss => .miss (va + head)
      | .at_ m => .at_ l (some (head, m))

/-- What a translation through its die's cache gives a unit of a P tile (R324): the place, or the state in which it has its
fault or waits for a walk. -/
inductive UnitAt where
  | at_ (l : Loc) (tail : Option (Nat × Loc))
  | fault (s : State) (stage va : Nat)
  | wait (s : State)

@[inherit_doc UnitAt]
def State.unitAt (s : State) (t o va n kind : Nat) : UnitAt :=
  let die := match s.op t o with
    | some p => dieOf p.place.x p.place.y
    | none => 0
  let lctx := s.lctxOf t
  match s.xlatePlace die (.op t o) lctx va n kind with
  | .at_ l tail => .at_ l tail
  | .fault g v => .fault (s.dropMiss die (.op t o) lctx v) g v
  | .miss v => .wait ((s.addMiss die (.op t o) lctx v kind).busy lctx)

/-- Keys of `n` bytes from a place. -/
def keysFrom (l : Loc) (n : Nat) : List Nat := (List.range n).map (l.key + ·)
/-- Keys of the bytes of an access. -/
def placeKeys (l : Loc) (tail : Option (Nat × Loc)) (n : Nat) : List Nat :=
  match tail with
  | none => keysFrom l n
  | some (h, m) => keysFrom l h ++ keysFrom m (n - h)
@[inherit_doc placeKeys] def Acc.keys (a : Acc) : List Nat := placeKeys a.loc a.tail a.bytes

/-- The number that bytes make, little-endian (R1). -/
def bytesVal : List Byte → Nat
  | [] => 0
  | b :: t => b.toNat + 256 * bytesVal t
/-- Write a number to the bytes of a list of keys, little-endian. -/
def writeKeys (m : List Host.Cell) : List Nat → Nat → List Host.Cell
  | [], _ => m
  | k :: t, v => writeKeys (memPut m k (BitVec.ofNat 8 v)) t (v / 256)
/-- Read the bytes of a list of keys. -/
def State.readKeys (s : State) (ks : List Nat) : Nat := bytesVal (ks.map (memGet s.mem))

/-- The keys of `n` bytes at a virtual address, page by page, as the tables stand (log entry 20). `none` for a fault. The
first argument bounds the pages. -/
def State.vaKeysFrom (s : State) (lctx kind : Nat) : Nat → Nat → Nat → Option (List Nat)
  | 0, _, _ => some []
  | f + 1, va, n =>
    if n = 0 then some []
    else
      let here := min n (4096 - va % 4096)
      match s.xlateNow lctx va here kind with
      | .at_ l => (s.vaKeysFrom lctx kind f (va + here) (n - here)).map (keysFrom l here ++ ·)
      | _ => none
@[inherit_doc State.vaKeysFrom] def State.vaKeys (s : State) (lctx va n kind : Nat) : Option (List Nat) :=
  s.vaKeysFrom lctx kind (n / 4096 + 2) va n

/-- An engine reads `n` bytes at a virtual address: it sees what has been performed at PKG (R359). -/
def State.vaRead (s : State) (lctx va n : Nat) : Option Nat := (s.vaKeys lctx va n 0).map s.readKeys

/-- An engine writes `n` bytes at a virtual address; a fault writes nothing. -/
def State.vaWrite (s : State) (lctx va n v : Nat) : Option State :=
  (s.vaKeys lctx va n 1).map fun ks => { s with mem := writeKeys s.mem ks v }

/-- The place of an engine's access, as the tables stand. -/
def State.placeNow (s : State) (lctx va n kind : Nat) : Option (Loc × Option (Nat × Loc)) :=
  let head := 4096 - va % 4096
  match s.xlateNow lctx va (min n head) kind with
  | .at_ l =>
    if n ≤ head then some (l, none)
    else match s.xlateNow lctx (va + head) (n - head) kind with
      | .at_ m => some (l, some (head, m))
      | _ => none
  | _ => none

/-- An access of HBM at a key counts as one of its pseudo-channel (R273). -/
def State.touchKey (s : State) (k : Nat) : State := if k < 2 ^ 39 then s.touch (.hbm k) else s

/-- Accesses of HBM at keys count as some of their pseudo-channels (R273). -/
def State.touchKeys (s : State) (ks : List Nat) : State :=
  (ks.zipIdx.filter fun x => x.2 = 0 || x.1 % 64 = 0).foldl (fun s x => s.touchKey x.1) s

/-- What the translations of a range of addresses through its die's cache give a unit of a P tile (R324): the keys of its
bytes, or the state in which it has its fault or waits for a walk. -/
inductive UnitKeys where
  | at_ (ks : List Nat)
  | fault (s : State)
  | wait (s : State)

@[inherit_doc UnitKeys]
def State.unitKeysFrom (s : State) (t o kind : Nat) : Nat → Nat → Nat → UnitKeys
  | 0, _, _ => .at_ []
  | f + 1, va, n =>
    if n = 0 then .at_ []
    else
      let here := min n (4096 - va % 4096)
      match s.unitAt t o va here kind with
      | .fault s' _ _ => .fault s'
      | .wait s' => .wait s'
      | .at_ l _ => match s.unitKeysFrom t o kind f (va + here) (n - here) with
        | .at_ ks => .at_ (keysFrom l here ++ ks)
        | r => r
@[inherit_doc UnitKeys] def State.unitKeys (s : State) (t o va n kind : Nat) : UnitKeys :=
  s.unitKeysFrom t o kind (n / 4096 + 2) va n

/-- A unit of a P tile reads parameters of a command: with their value and the read counted it goes on with `ok`; with a
fault, by `bad`; and it waits for walks (R273, R324, R359). -/
def State.unitRead (s : State) (t o va n : Nat) (ok : Nat → State → State) (bad : State → State) : State :=
  match s.unitKeys t o va n 0 with
  | .at_ ks => ok (s.readKeys ks) (s.touchKeys ks)
  | .fault s' => bad s'
  | .wait s' => s'

/-! ## Granules of a memory tile (R317, R318) -/

/-- Keys of the granules that `n` bytes at an address of a tile touch. -/
def granules (tile a n : Nat) : List Nat :=
  let lo := (Loc.tile tile a).key / 16
  let hi := (Loc.tile tile (a + n - 1)).key / 16
  (List.range (hi + 1 - lo)).map (lo + ·)
/-- The state of a granule: 0 Empty, 1 Full, 2 Poisoned, 3 corrupted (R317). -/
def State.tag (s : State) (g : Nat) : Nat := (aget g s.tags).getD 0
/-- Set the state of granules. -/
def State.setTags (s : State) (gs : List Nat) (v : Nat) : State :=
  { s with tags := gs.foldl (fun l g => if v = 0 then adel g l else aset g v l) s.tags }

/-- The first poisoned granule of a list (R318). -/
def State.badGranule (s : State) (gs : List Nat) : Option Nat := gs.find? fun g => decide (s.tag g ≥ 2)

/-- The origin of a poisoned granule: bytes 0-3, or ECC of its tile for a corrupted tag (R317). -/
def State.granuleOrigin (s : State) (lctx tile g : Nat) : Word :=
  if s.tag g = 3 then originWord lctx (tileX tile) (tileY tile) 9 Code.ecc
  else BitVec.ofNat 32 (memRead s.mem (16 * g) 4)

/-- A tile is retired: it enters the knot map as under KNOT_SET, and the flash (R13, R412). -/
def State.retireTile (s : State) (tile : Nat) : State :=
  if s.flash.retired.contains tile then s
  else
    let s := s.pauseTasks fun _ k => (aget tile k.entries).isSome
    { s with flash := { s.flash with retired := tile :: s.flash.retired } }

/-- An uncorrectable error of a tile (R412). -/
def State.uncorrectable (s : State) (tile : Nat) : State :=
  (s.modTile tile fun t => { t with uncorrected := t.uncorrected + 1 }).retireTile tile

/-- An access of a granule whose tag is corrupted counts as an uncorrectable error of its tile (R318, R412). -/
def State.countTags (s : State) (tile : Nat) (gs : List Nat) : State :=
  if gs.any fun g => s.tag g = 3 then s.uncorrectable tile else s

/-- A read of a memory tile that was accepted in this fc, of bytes that these granules hold. -/
def Acc.readNow (a : Acc) (fc tile : Nat) (gs : List Nat) : Bool :=
  !a.write && a.at_ == fc && match a.loc with
    | .tile tl b => tl == tile && (granules tl b a.bytes).any gs.contains
    | _ => false

/-- Whether an `ldfe.clr` has emptied one of these granules in this fc. -/
def State.clearedNow (s : State) (tile : Nat) (gs : List Nat) : Bool :=
  s.tasks.any fun z => z.2.ops.any fun p => match p.kind with
    | .mem m => m.mop == .ldfeClr && m.accs.any fun a => a.poison.isNone && a.readNow s.fc tile gs
    | _ => false

/-- A read accepted in the fc of a write returns what the write left, since the write port goes first (R318, R337). -/
def State.rereadAcc (s : State) (lctx tile : Nat) (gs : List Nat) (a : Acc) : Acc :=
  if a.readNow s.fc tile gs then
    match a.loc with
    | .tile tl b =>
      match s.badGranule (granules tl b a.bytes) with
      | some g => { a with poison := some (s.granuleOrigin lctx tl g), hdr := mkHdr Kind.poison 0 0 }
      | none => { a with val := BitVec.ofNat 1024 (s.readLoc (.tile tl b) a.bytes), poison := none, hdr := 0 }
    | _ => a
  else a

/-- The same for a node: one whose read has turned to poison sends no done token on its edges (R362). -/
def State.rereadMem (s : State) (lctx tile : Nat) (gs : List Nat) (m : Mem) : Mem :=
  let accs := m.accs.map (s.rereadAcc lctx tile gs)
  { m with accs := accs, bad := m.bad.or ((accs.find? fun a => a.readNow s.fc tile gs).bind (·.poison)) }

@[inherit_doc State.rereadAcc]
def State.rereads (s : State) (tile : Nat) (gs : List Nat) : State :=
  { s with tasks := avals (fun _ k => { k with ops := k.ops.map fun p => match p.kind with
      | .mem m => { p with kind := .mem (s.rereadMem k.lctx tile gs m) }
      | _ => p }) s.tasks }

/-- The granules that an `ldfe.clr` of this fc has emptied together with one of these. -/
def State.clearedWith (s : State) (tile : Nat) (gs : List Nat) : List Nat :=
  s.tasks.flatMap fun z => z.2.ops.flatMap fun p => match p.kind with
    | .mem m => if m.mop == .ldfeClr then
        (m.accs.filter fun a => a.poison.isNone && a.readNow s.fc tile gs).flatMap fun a => match a.loc with
          | .tile tl b => granules tl b a.bytes
          | _ => []
      else []
    | _ => []

/-- A write or a poisoned store of a memory tile has changed its granules to state `v` (R318). A granule that an `ldfe.clr`
of the same fc has read is left empty by a write, which goes first; one that now reads poison empties no granule. -/
def State.tileDone (s : State) (tile v : Nat) (gs : List Nat) : State :=
  let cleared := gs.filter fun g => s.clearedNow tile [g]
  let back := (s.clearedWith tile gs).filter fun g => !gs.contains g && s.tag g = 0
  let s := (s.setTags gs v).rereads tile gs
  if v = 1 then s.setTags cleared 0 else s.setTags back 1

/-- Write data to a memory tile: its granules become full (R318). -/
def State.tileWrite (s : State) (tile a n v : Nat) : State :=
  let gs := granules tile a n
  ((s.countTags tile gs).writeLoc (.tile tile a) n v).tileDone tile 1 gs

/-- Store a poison token: its granules are poisoned with its origin (R318). -/
def State.tilePoison (s : State) (tile a n : Nat) (w : Word) : State :=
  let gs := granules tile a n
  let s := s.countTags tile gs
  ({ s with mem := gs.foldl (fun m g => memWrite m (16 * g) 4 w.toNat) s.mem }).tileDone tile 2 gs

/-- The in-flight comparator holds a write or an rmw that touches these bytes (R337). -/
def State.rmwHolds (s : State) (tile a n : Nat) : Bool :=
  (s.tile tile).rmws.any fun e =>
    (!e.written || decide (e.at_ ≥ s.fc)) && (granules tile a n).any fun g => (granules tile e.a e.bytes).contains g

/-! ## Write-combining buffers (R326, R327) -/

/-- Lines of a buffer of `total` lines that the slots of a tile's context entry give (R326). -/
def State.lineShare (s : State) (tile entry total : Nat) : Nat :=
  total * ((s.tile tile).entry entry |>.extractLsb' 16 5).toNat / 16

/-- The byte that a bay's write-combining buffers hold for a key; no two of them hold one byte (R354). -/
def Task.wcbByte (k : Task) (key : Nat) : Option Byte :=
  k.wcb.findSome? fun w => if w.line = key / 128 * 128 then aget (key % 128) w.bytes else none

/-- The byte that the write-combining buffers of a tile's other context entries hold for a key. -/
def State.tileByte (s : State) (tile key : Nat) : Option Byte :=
  s.tasks.findSome? fun z => z.2.wcb.findSome? fun w =>
    if w.tile = tile ∧ w.line = key / 128 * 128 then aget (key % 128) w.bytes else none

/-- Bytes as a load node of task `t` on a tile reads them (R326): from its bay's write-combining buffers where one holds them; from
those of its own tile, which may have put them into its stream buffer before (R355); and from memory otherwise. -/
def State.nodeRead (s : State) (t tile : Nat) (ks : List Nat) : Nat :=
  let own (x : Nat) : Option Byte := (s.task t).bind fun k => k.wcbByte x
  bytesVal (ks.map fun x => ((own x).or (s.tileByte tile x)).getD (memGet s.mem x))

/-- Bytes as a bay reads them: from its write-combining buffers where one holds them, and from memory otherwise (R326). -/
def State.bayRead (s : State) (t : Nat) (ks : List Nat) : Nat :=
  match s.task t with
  | none => s.readKeys ks
  | some k => bytesVal (ks.map fun x => (k.wcbByte x).getD (memGet s.mem x))

/-- Put a byte of a store issued in fc `at_` into the buffer of a tile. -/
def wcbPut (tile key : Nat) (b : Byte) (fc at_ : Nat) : List WLine → List WLine
  | [] => [{ tile := tile, line := key / 128 * 128, bytes := [(key % 128, b)], stores := 0, last := fc, since := at_ }]
  | w :: t =>
    if w.tile = tile ∧ w.line = key / 128 * 128 then
      { w with bytes := aset (key % 128) b w.bytes, last := fc, since := min w.since at_ } :: t
    else w :: wcbPut tile key b fc at_ t

/-- A store into one tile's buffer replaces the bytes that other buffers of the bay hold, so that they never reach memory
after it (R354). -/
def wcbTake (tile key : Nat) (l : List WLine) : List WLine :=
  l.filterMap fun w =>
    if w.tile = tile ∨ w.line ≠ key / 128 * 128 then some w
    else
      let bytes := adel (key % 128) w.bytes
      if bytes.isEmpty then none else some { w with bytes := bytes }

/-- Put the bytes of a store into the buffer of a tile. -/
def wcbStore (tile fc at_ : Nat) : List WLine → List Nat → Nat → List WLine
  | l, [], _ => l
  | l, k :: t, v => wcbStore tile fc at_ (wcbPut tile k (BitVec.ofNat 8 v) fc at_ (wcbTake tile k l)) t (v / 256)

/-- One more store is in the line of a tile's buffer that holds a key. -/
def wcbCount (tile key : Nat) (l : List WLine) : List WLine :=
  l.map fun w => if w.tile = tile ∧ w.line = key / 128 * 128 then { w with stores := w.stores + 1 } else w

/-! ### Accesses of other devices (R340, R405) -/

/-- Whether a key is that of a remote device's memory. -/
def isRemote (k : Nat) : Bool := decide (k ≥ 2 ^ 61)

/-- The ranges of successive keys of a list: first key and bytes. -/
def runsOf : List Nat → List (Nat × Nat)
  | [] => []
  | k :: t =>
    match runsOf t with
    | (a, n) :: rest => if k + 1 = a then (k, n + 1) :: rest else (k, 1) :: (a, n) :: rest
    | [] => [(k, 1)]

/-- An access of unit `o` of task `t` that leaves for another device, number `k` at its unit (R405). -/
def State.spanNew (s : State) (t o k : Nat) (write : Bool) (key bytes : Nat) : SpanOut :=
  { id := s.nextId, launch := ((s.task t).map (·.launch)).getD 0, t := t, o := o, bank := none, core := none, lctx := s.lctxOf t,
    stores := 1, k := k, write := write, key := key, bytes := bytes, at_ := s.clock.run, since := s.fc }

/-- An access leaves on the span transport, which delivers those of one context to one device in the order of the list (R405). -/
def State.addSpan (s : State) (x : SpanOut) : State := { s.bumpId with spans := s.spans ++ [x] }

/-- Those of an access's bytes that lie at another device leave for it (R405). -/
def State.unitSpan (s : State) (t o k : Nat) (write : Bool) (ks : List Nat) : State :=
  (runsOf (ks.filter isRemote)).foldl (fun s r => s.addSpan (s.spanNew t o k write r.1 r.2)) s

/-- The same for an access of control core `core`, of context `lctx` (R154, R405). -/
def State.coreSpan (s : State) (core lctx k : Nat) (write : Bool) (ks : List Nat) : State :=
  (runsOf (ks.filter isRemote)).foldl
    (fun s r => s.addSpan { s.spanNew 0 0 k write r.1 r.2 with core := some core, lctx := lctx }) s

/-- The number that stands for the write-combining buffers as the unit of an access. -/
def wcbUnit : Nat := 0xFFFF

/-- One line is written to memory; a line of remote memory leaves the package and awaits its acknowledgement (R327, R340,
R405). -/
def State.drainLine (s : State) (t : Nat) (w : WLine) : State :=
  let s := { s with mem := w.bytes.foldl (fun m (x : Nat × Byte) => memPut m (w.line + x.1) x.2) s.mem }
  let s := s.touchKey w.line
  if isRemote w.line then s.addSpan { s.spanNew t wcbUnit 0 true w.line 128 with stores := w.stores } else s

/-- The lines of a task's buffers that meet `p` are written, in the order in which they were first written to (R327). -/
def State.drain (s : State) (t : Nat) (p : WLine → Bool) : State :=
  match s.task t with
  | none => s
  | some k =>
    (k.wcb.filter p).foldl (fun s w => s.drainLine t w) (s.modTask t fun k => { k with wcb := k.wcb.filter fun w => !p w })

/-- The whole bay is drained (R357). -/
def State.drainAll (s : State) (t : Nat) : State := s.drain t fun _ => true

/-- The lines of a tile's buffer up to and including one, by its key. -/
def wcbUpTo (l : List WLine) (tile line : Nat) : List Nat :=
  let mine := (l.filter (·.tile == tile)).map (·.line)
  mine.take ((lfind (· == line) mine).map (· + 1) |>.getD 0)

/-- Write a line of a tile's buffer, and before it the lines first written to earlier (R327). -/
def State.drainTo (s : State) (t tile line : Nat) : State :=
  match s.task t with
  | none => s
  | some k => let ls := wcbUpTo k.wcb tile line
              s.drain t fun w => w.tile == tile && ls.contains w.line

/-- The bound of R361 on the time from the issue of a write until it is performed at PKG, in fc at 600 MHz. -/
def writeBound : Nat := 61440

/-- The age of a stream-buffer line that serves no read any more, in fc at 600 MHz (R361). -/
def lineLife : Nat := 4096

/-- A line of a write-combining buffer is written to memory by now: it is full, has been idle for 64 fc, or holds a store at
the bound of R361 (R274, R327). -/
def State.lineDue (s : State) (w : WLine) : Bool :=
  decide (w.last + s.bound w.tile 64 ≤ s.fc) || decide (w.bytes.length ≥ 128) || decide (w.since + s.bound w.tile writeBound ≤ s.fc)

/-- A line of a task's write-combining buffers, named by the key of its first byte, is due (R327, R361). -/
def execWcbIdleFlush (t line : Nat) (s : State) : Host.Outcome State Fault Refusal :=
  match (s.task t).bind fun k => k.wcb.find? fun w => w.line == line && s.lineDue w with
  | none => .next s
  | some w => .next (s.drainTo t w.tile w.line)

/-! ## Releases (R308, R353, R357) -/

/-- Writes of an operator that are not yet performed at BAY: an rmw of a memory tile until it has written (R337, R353). -/
def Op.writes (p : Op) : List Acc :=
  match p.kind with
  | .mem m => m.accs.filter fun a => a.write && (!a.done || m.space == 0)
  | .spline x => x.accs.filter (·.write)
  | .fibre f => f.accs.filter (·.write)
  | _ => []

/-- A release may be performed: every write issued earlier by the bay's other operators is performed at BAY (R308, R357).
Ties in the fc of issue go to the lower operator. -/
def Task.relReady (k : Task) (o at_ : Nat) : Bool :=
  k.ops.zipIdx.all fun (p, i) => i == o || p.writes.all fun a => decide (a.at_ > at_) || (a.at_ == at_ && decide (i > o))

/-- The commands that run in banks, but for that of one bank and context, hold a word of an access: `bk.red` holds its destination
from its first step to its last (R343). -/
def State.bankHeldBy (s : State) (but : Option (Nat × Nat)) (ks : List Nat) : Bool :=
  s.banks.any fun z => z.2.running.any fun r => some (z.1, r.1) != but && r.2.opc == 2 && decide (r.2.i > 0) &&
    ((s.vaKeys r.2.lctx r.2.dst (if r.2.d64 then 8 else 4) 1).getD []).any ks.contains

/-- The commands that run in banks hold a word of an access (R343). -/
def State.bankHolds (s : State) (ks : List Nat) : Bool := s.bankHeldBy none ks

/-- What a write of a unit comes to: it has been performed or issued, its translation has failed, or it waits (R324). -/
inductive Stored where
  | ok (s : State)
  | fault (s : State)
  | wait (s : State)

/-- A unit of a P tile writes the result of a command: it waits for walks (R324) and for a bank that holds its bytes (R343), and
bytes of another device leave for it (R405). -/
def State.unitWrite (s : State) (t o va n v : Nat) : Stored :=
  match s.unitKeys t o va n 1 with
  | .fault s' => .fault s'
  | .wait s' => .wait s'
  | .at_ ks =>
    if s.bankHolds ks then .wait s
    else .ok (({ s with mem := writeKeys s.mem ks v } : State).touchKeys ks |>.unitSpan t o 0 true ks)

/-! ## Stream buffers (R326, R361) -/

/-- The byte that a stream buffer serves for a key, from a line fetched in fc `since` or later. -/
def Mem.lineByte (m : Mem) (since key : Nat) : Option Byte :=
  (m.lines.find? fun l => l.line == key / 128 * 128 && decide (since ≤ l.at_)).map fun l =>
    l.data.extractLsb' (8 * (key % 128)) 8

/-- The bytes of an access, when lines of its node's stream buffer that still serve hold them all (R361). -/
def State.lineRead (s : State) (t o : Nat) (m : Mem) (ks : List Nat) : Option Nat :=
  (ks.mapM fun k => m.lineByte (s.fc - s.bound (s.tileOf t o) lineLife) k).map bytesVal

/-- A byte stored through a tile's write-combining buffer updates the lines of the tile's stream buffer (R326). -/
def Line.put (l : Line) (key : Nat) (b : Byte) : Line :=
  if l.line = key / 128 * 128 then
    let sh := 8 * (key % 128)
    { l with data := (l.data &&& ~~~((0xFF : Wide) <<< sh)) ||| (b.zeroExtend 1024 <<< sh) }
  else l

/-- The lines that the load nodes of a task hold on a tile, after a store through the tile's buffer by any of its context
entries (R326). -/
def Task.putLines (k : Task) (x y : Nat) (ks : List Nat) (v : Nat) : Task :=
  { k with ops := k.ops.map fun p =>
    if p.place.x = x ∧ p.place.y = y then match p.kind with
      | .mem m => { p with kind := .mem { m with lines := m.lines.map fun l =>
          (ks.zipIdx.foldl (fun l (z : Nat × Nat) => Line.put l z.1 (BitVec.ofNat 8 (v / 256 ^ z.2))) l) } }
      | _ => p
    else p }

end Sys2Proof.Machine
end

