-- ==== Sys2Proof/Machine/Mgmt.lean ====
section
/-! DEFINITION. The order of the ready queue (R376, R379) and the management space (24_host_links_power_fail.md R408). -/
namespace Sys2Proof.Machine

/-! ## Levels and coverage in force (R253, R272, R273) -/

/-- LEVEL in force (R272). -/
def Power.level (p : Power) : Nat := max p.pin.toNat p.adm.toNat

/-- The cap in force, in W (R272). -/
def Power.cap (p : Power) : Nat := 3000 - 160 * p.level

/-- PCUT that the power manager sets for a launch that has opted in (R273, R275). -/
def Power.pcut (p : Power) : Nat := if p.lever ≥ 3 then min (8 * p.level) 64 else 0

/-- CE (R253). -/
def State.ceOf (s : State) (l : Launch) : Nat :=
  match s.ctx l.lctx with
  | some c => max c.floor (c.ceil - l.scut - l.pcut)
  | none => 0

/-! ## The order of the ready queue (R376) -/

/-- Slack in ns (R376). -/
def State.slack (s : State) (l : Launch) (cost remain : Nat) : Int :=
  if l.deadline == BitVec.allOnes 64 then 2 ^ 63 - 1
  else (l.deadline.toNat : Int) - s.clock.ns.toNat - cost - remain

/-- The slack of an entry. -/
def State.readySlack (s : State) (r : Ready) : Int :=
  match s.launch r.launch with
  | some l => s.slack l r.cost r.remain
  | none => 0

/-- Whether entry `a` comes before entry `b` (R376). -/
def State.readyBefore (s : State) (a b : Ready) : Bool :=
  if a.cls ≠ b.cls then decide (a.cls < b.cls)
  else if s.readySlack a ≠ s.readySlack b then decide (s.readySlack a < s.readySlack b)
  else if a.rseq ≠ b.rseq then decide (a.rseq < b.rseq)
  else decide (a.tcb < b.tcb)

/-- Put an entry in its place. -/
def State.readyInsert (s : State) (r : Ready) : List Ready → List Ready
  | [] => [r]
  | x :: t => if s.readyBefore r x then r :: x :: t else x :: s.readyInsert r t

/-- The READY entries in queue order: those of a paused launch are not open to selection (R388). -/
def State.readyOrder (s : State) : List Ready :=
  (s.ready.filter fun r => !((s.launch r.launch).map (·.paused) |>.getD true)).foldl (fun l r => s.readyInsert r l) []

/-! ## Registers of the management space -/

/-- The bits of a number placed at an offset. -/
def bitsAt (lo v : Nat) : Dbl := BitVec.ofNat 64 (v * 2 ^ lo)

/-- DEVSTAT (R407). -/
def Dev.devstat (d : Dev) : Dbl :=
  bitsAt 0 d.ready.toNat ||| bitsAt 4 d.halt.toNat ||| bitsAt 5 d.pend.toNat ||| bitsAt 6 d.img

/-- Current slew, in units of 0.1 ppm (R261). -/
def Clock.slewField (c : Clock) : Half := if c.slew > 0 then 5000 else if c.slew < 0 then -5000 else 0

/-- The deadline clock's state (R261). -/
def Clock.image (c : Clock) : Dbl :=
  bitsAt 0 c.set.toNat ||| bitsAt 1 (decide (c.good ≥ 16)).toNat ||| bitsAt 2 c.src.toNat |||
    bitsAt 16 c.slewField.toNat ||| bitsAt 32 c.steps.toNat

/-- The power manager's state (R276). -/
def Power.image (p : Power) : Dbl :=
  bitsAt 0 p.lever ||| bitsAt 8 p.level ||| bitsAt 12 p.adm.toNat ||| bitsAt 16 p.pin.toNat

/-- The ready queue's state (R379). -/
def State.readyImage (s : State) : Dbl :=
  match s.readyOrder with
  | [] => bitsAt 32 s.ready.length
  | h :: _ =>
    bitsAt 0 ((s.launch h.launch).map (·.lctx) |>.getD 0) ||| bitsAt 12 h.cls ||| bitsAt 14 s.blocked.toNat |||
      bitsAt 15 (decide (h.bypass ≥ 16)).toNat ||| bitsAt 16 h.bypass ||| bitsAt 32 s.ready.length

/-- The token balance of a context: the sum over its tasks (R392). -/
def State.balanceOf (s : State) (lctx : Nat) : Int :=
  s.tasks.foldl (fun n k => if k.2.lctx == lctx then n + k.2.balance else n) 0

/-- The launch of a context whose coverage its window shows. -/
def State.ctxLaunch (s : State) (lctx : Nat) : Option Launch :=
  (s.launches.find? fun l => l.2.lctx == lctx).map (·.2)

/-- Coverage of a context window (R408). -/
def State.coverImage (s : State) (lctx : Nat) : Dbl :=
  match s.ctxLaunch lctx with
  | some l =>
    bitsAt 0 l.l ||| bitsAt 8 l.scut ||| bitsAt 16 l.pcut ||| bitsAt 24 (s.ceOf l) ||| bitsAt 32 l.frz.toNat
  | none => 0

/-- A double of a context window (R408). -/
def State.ctxWindow (s : State) (lctx off : Nat) : Dbl :=
  match s.ctx lctx with
  | none => 0
  | some c =>
    match off with
    | 0x00 => bitsAt 0 c.faults.length ||| bitsAt 32 c.lost.toNat
    | 0x08 => bitsAt 0 c.legacyMicro.toNat ||| bitsAt 32 c.legacyTrapped.toNat
    | 0x10 => BitVec.ofInt 64 (s.balanceOf lctx)
    | 0x18 => s.coverImage lctx
    | 0x20 => bitsAt 0 c.saveFigure
    | 0x28 => bitsAt 0 (!c.dead).toNat ||| bitsAt 1 c.pausing.toNat ||| bitsAt 2 c.paused.toNat
    | _ => 0

/-- Whether a tile is in the knot map, fused or retired (R408, R412). -/
def State.isKnot (s : State) (tile : Nat) : Bool :=
  s.knots.contains tile || s.flash.fused.contains tile || s.flash.retired.contains tile

/-- The operators that lie on a tile in a context entry. -/
def State.opsAt (s : State) (tile entry : Nat) : List (Nat × Nat × Op) :=
  (s.tasks.map fun (t, k) =>
    if k.status != .paused && (aget tile k.entries).isSome && k.entryAt tile == entry then
      (k.ops.zipIdx.filter fun (x : Op × Nat) => tileKey x.1.place.x x.1.place.y == tile).map fun x => (t, x.2, x.1)
    else []).flatten

/-- Vector sticky flags of an entry (R192). -/
def State.vecFlags (s : State) (tile entry : Nat) : Dbl :=
  match (s.opsAt tile entry).findSome? fun x => match x.2.2.kind with
    | .vec v => some v.flags
    | _ => none with
  | some f => f.zeroExtend 64
  | none => 0

/-- Matrix sticky flags of an entry (R239). -/
def State.mxFlags (s : State) (tile entry : Nat) : Dbl :=
  match (s.opsAt tile entry).findSome? fun x => match x.2.2.kind with
    | .matrix v => some v.flags
    | _ => none with
  | some f => f.zeroExtend 64
  | none => 0

/-- Whether a task holds entry `e` of a tile: it has not stepped past the phase of that entry (R24, R58). -/
def Task.holdsEntry (k : Task) (tile e : Nat) : Bool := (((aget tile k.entries).getD []).drop k.phase).contains e

/-- An entry of a tile's context store as it reads: STATE comes from the task that holds it (R24). -/
def State.entryImage (s : State) (tile e : Nat) : Word :=
  let w := ((s.tile tile).inForce s.fc).entry e
  match s.tasks.find? fun (z : Nat × Task) => z.2.holdsEntry tile e with
  | none => w
  | some (_, k) =>
    let st : Nat :=
      if k.status == .stopping || k.ops.any (·.fault.isSome) then 3
      else if k.status == .paused then 2
      else if k.status == .pausing then 1
      else 0
    (w &&& ~~~(0x70000000 : Word)) ||| BitVec.ofNat 32 (st * 2 ^ 28)

/-- 3,600 s in ns. -/
def hourNs : Nat := 3600 * 10 ^ 9

/-- The errors of a tile that lie within 3,600 s of the clock (R412). -/
def State.recentErrs (s : State) (l : List Nat) : List Nat := l.filter fun e => decide (s.tai.toNat < e + hourNs)

/-- A double of a tile window (R408). -/
def State.tileWindow (s : State) (tile off : Nat) : Dbl :=
  let t := (s.tile tile).inForce s.fc
  if tileY tile ≥ 48 then 0
  else if off = 0 then t.slots
  else if off < 0x28 then s.entryImage tile (2 * (off / 8 - 1) + 1) ++ s.entryImage tile (2 * (off / 8 - 1))
  else if off < 0x68 then s.vecFlags tile ((off - 0x28) / 8)
  else if off < 0xA8 then s.mxFlags tile ((off - 0x68) / 8)
  else if off = 0xA8 then
    bitsAt 0 (min (s.recentErrs t.errs).length 0xFFFF) ||| bitsAt 16 (s.flash.retired.contains tile).toNat |||
      bitsAt 17 (s.flash.fused.contains tile).toNat ||| bitsAt 18 (s.isKnot tile).toNat
  else 0

/-- A double of a core window (R408). -/
def State.coreWindow (s : State) (k off : Nat) : Dbl :=
  match s.cores[k]? with
  | none => 0
  | some c =>
    let tm (n : Nat) : Tmpl := c.tmpls.getD n { image := 0, desc := 0 }
    if off < 0x400 then (tm (off / 0x40)).image.dbl (off / 8 % 8)
    else if off < 0x480 then (tm ((off - 0x400) / 8)).desc
    else if off = 0x480 then bitsAt 0 c.halted.toNat ||| bitsAt 1 c.fsr.isSome.toNat
    else if off = 0x490 then c.ctxk
    else 0

/-- An entry of the buffer table (R350). -/
def State.bufEntry (s : State) (h : Nat) : Dbl := (aget h s.buffers).getD 0

/-- A read of an 8-byte aligned register (R408). An offset that names nothing reads as zero. -/
def State.mgmtRead (s : State) (off : Nat) : Dbl :=
  if off = 0 then s.dev.devstat
  else if off = 8 then s.clock.image
  else if off = 0x10 then s.power.image
  else if off = 0x18 then s.readyImage
  else if 0x10000 ≤ off ∧ off < 0x20000 then s.ctxWindow ((off - 0x10000) / 0x100) (off % 0x100)
  else if 0x200000 ≤ off ∧ off < 0x200000 + 0x100 * 6144 then s.tileWindow ((off - 0x200000) / 0x100) (off % 0x100)
  else if 0x800000 ≤ off ∧ off < 0x808000 then s.bufEntry ((off - 0x800000) / 8)
  else if 0x810000 ≤ off ∧ off < 0x818000 then s.tl ((off - 0x810000) / 8)
  else if 0x820000 ≤ off ∧ off < 0x820200 then
    ((List.range 64).filter fun i => s.tlBad (64 * ((off - 0x820000) / 8) + i)).foldl
      (fun w i => w ||| bitsAt i 1) 0
  else if 0x900000 ≤ off ∧ off < 0x910000 then s.coreWindow ((off - 0x900000) / 0x1000) (off % 0x1000)
  else 0

/-- Replace a double of a 64-byte image. -/
def Packet.setDbl (p : Packet) (n : Nat) (v : Dbl) : Packet :=
  (p &&& ~~~((BitVec.allOnes 64).zeroExtend 512 <<< (64 * n))) ||| (v.zeroExtend 512 <<< (64 * n))

/-- Whether a core may write the register at an offset: the writable part of a core window (R408). -/
def mgmtWritable (off : Nat) : Bool :=
  decide (0x900000 ≤ off) && decide (off < 0x910000) && decide (off % 8 = 0) &&
    (decide (off % 0x1000 < 0x480) || decide (off % 0x1000 = 0x488))

/-- A template descriptor as it is stored: its reserved bits read as zero (R3, R146). -/
def descBits (v : Dbl) : Dbl := v &&& ~~~(0x000700FF00000000 : Dbl)

/-- A core leaves `halt` (R153, R408). -/
def State.wakeCore (s : State) (k : Nat) : State := s.modCore k fun c => { c with halted := false }

/-- A write of a writable register of a core window (R408). Any other write is ignored. -/
def State.mgmtWrite (s : State) (off : Nat) (v : Dbl) : State :=
  if mgmtWritable off then
    let k := (off - 0x900000) / 0x1000
    let r := off % 0x1000
    if r < 0x400 then
      s.modCore k fun c => { c with tmpls := lmod (r / 0x40) (fun m => { m with image := Packet.setDbl m.image (r / 8 % 8) v }) c.tmpls }
    else if r < 0x480 then
      s.modCore k fun c => { c with tmpls := lmod ((r - 0x400) / 8) (fun m => { m with desc := descBits v }) c.tmpls }
    else if v.getLsbD 0 then s.wakeCore k
    else s
  else s

/-- A write by a core or the host to a register of the management space (R408). The wake register is CORE_WAKE. -/
def execMgmtRegisterWrite (off v : Dbl) (s : State) : Host.Outcome State Fault Refusal :=
  .next (if off.toNat % 8 = 0 then s.mgmtWrite off.toNat v else s)

/-- A write to a core's wake register (R408). -/
def execCoreWake (core : Nat) (v : Dbl) (s : State) : Host.Outcome State Fault Refusal :=
  .next (if core < 16 then s.mgmtWrite (0x900000 + 0x1000 * core + 0x488) v else s)

end Sys2Proof.Machine
end

