-- ==== Sys2Proof/Machine/Engine.lean ====
section
/-! DEFINITION. What every engine shares (05_formats_and_opcode_map.md R100 to R107, 12_matrix_instructions.md R223 to
R225): inboxes, the forms of packets, arriving messages, replies, and the fault records of a task. -/
namespace Sys2Proof.Machine

/-! ## Fault records of a task (R365, R374, R384) -/

/-- Queue a record for an operator of a task or of a subgraph that it spawned; the first one gives the tile task its RESULT
(R365, R373). -/
def State.taskRecord (s : State) (t : Nat) (who : Nat) (origin : Word) (code : BitVec 7) (struct : Bool) (holder : Nat)
    (detail : Word) : State :=
  match s.task t with
  | none => s
  | some k =>
    let root := s.rootTask s.tasks.length t
    let r : FaultRec :=
      { origin := origin, graph := k.graphIndex, who := who, tcb := ((s.task root).map (·.tcb)).getD 0,
        code := code.zeroExtend 8, struct := struct, fit := false, holder := holder, detail := detail }
    (s.queueFault k.lctx k.launch r).modTask root fun x =>
      if x.faulted then x else { x with faulted := true, result := resultOf who k.graphIndex 1 code.toNat false }

/-- A data fault that an engine reports with a record of its own (STATUS 2, R225). -/
def State.engineFault (s : State) (t o : Nat) (code : BitVec 7) : State :=
  s.taskRecord t o (s.origin t o code) code false 0xFFFF 0

/-! ## Inboxes -/

/-- ENGINE of an operator that is an engine (R100). -/
def OpKind.engine : OpKind → Option Nat
  | .matrix _ => some 1
  | .copy _ => some 2
  | .walker _ => some 3
  | .spline _ => some 4
  | _ => none

/-- The inbox of an engine operator. -/
def OpKind.inbox? : OpKind → Option Inbox
  | .matrix m => some m.inbox
  | .copy c => some c.inbox
  | .walker w => some w.inbox
  | .spline p => some p.inbox
  | _ => none

/-- Change the inbox of an engine operator. -/
def OpKind.modInbox (k : OpKind) (f : Inbox → Inbox) : OpKind :=
  match k with
  | .matrix m => .matrix { m with inbox := f m.inbox }
  | .copy c => .copy { c with inbox := f c.inbox }
  | .walker w => .walker { w with inbox := f w.inbox }
  | .spline p => .spline { p with inbox := f p.inbox }
  | k => k

/-- An inbox that holds nothing, bound to a layout revision (R169). -/
def emptyInbox (rev : Nat) : Inbox :=
  { rev := rev, packets := [], nextAt := 0, replies := [], held := none, frozen := false, started := 0, relAt := none }

/-- A bank ALU with no queue. -/
def emptyBank : Bank := { queues := [], running := [], rr := 0, nextAt := 0 }

/-- The inbox of an engine, or the bank queue of a launch context. -/
def State.inbox (s : State) : EngineRef → Option Inbox
  | .op t o => (s.op t o).bind fun p => p.kind.inbox?
  | .bank b c => (aget b s.banks).bind fun k => aget c k.queues

/-- Change an inbox. -/
def State.modInbox (s : State) (e : EngineRef) (f : Inbox → Inbox) : State :=
  match e with
  | .op t o => s.modOp t o fun p => { p with kind := p.kind.modInbox f }
  | .bank b c => { s with banks := amod b (fun k => { k with queues := amod c f k.queues }) s.banks }

/-- The launch context of an engine's packets. -/
def State.engineCtx (s : State) : EngineRef → Nat
  | .op t _ => s.lctxOf t
  | .bank _ c => c

/-- Whether an engine is frozen (R107). -/
def State.engineFrozen (s : State) (e : EngineRef) : Bool :=
  match e with
  | .op t o => s.frozen t o
  | .bank _ _ => ((s.inbox e).map (·.frozen)).getD true

/-- Whether an inbox may take its next command: its unit is not frozen or paused, no reply is held (R414), and the fc after
the last start has come (R224, R274). -/
def State.inboxOpen (s : State) (e : EngineRef) : Bool :=
  match s.inbox e with
  | none => false
  | some b =>
    !s.engineFrozen e && b.held.isNone && decide (b.nextAt ≤ s.fc) &&
      match e with
      | .op t o => s.live t && s.unitTicks t o
      | .bank _ c => match s.ctx c with
        | some x => !x.pausing && !x.paused && !s.dev.halt && s.dev.failAt.isNone
        | none => false

/-! ## Freezing an engine (R107, R383, R384) -/

/-- DETAIL of an ILLEGAL raised by an engine (R384). -/
def illegalDetail (p : Packet) : Word := BitVec.ofNat 32 (p.engine * 2 ^ 16 + p.opc * 2 ^ 8)
/-- LAYOUT_REV (R100). -/
def Packet.rev (p : Packet) : Nat := (p.extractLsb' 48 4).toNat
/-- CTX (R100). -/
def Packet.ctx (p : Packet) : Nat := (p.extractLsb' 40 8).toNat
/-- RPLY (R100); revision 2 always replies (R101). -/
def Packet.rply (p : Packet) : Bool := p.getLsbD 32 || (Packet.rev p == 2 && p.dbl 7 != 0)
/-- SEQ (R100). -/
def Packet.seq (p : Packet) : Word := p.extractLsb' 0 32
/-- DETAIL of a QUEUE_REV (R384). -/
def revDetail (p : Packet) (bound : Nat) : Word :=
  BitVec.ofNat 32 (Packet.rev p + bound * 2 ^ 4 + p.opc * 2 ^ 8 + p.engine * 2 ^ 16)

/-- The origin word of a bank ALU (R33): UNIT 14, and no tile. -/
def bankOrigin (lctx : Nat) (code : BitVec 7) : Word := originWord lctx 0 0 14 code

/-- The launch that a record of a bank queue is queued for. -/
def State.bankLaunch (s : State) (lctx : Nat) : Nat :=
  ((s.launches.find? fun l => l.2.lctx == lctx).map (·.1)).getD 0

/-- A record of a bank queue: it belongs to no operator (R384). -/
def State.bankRecord (s : State) (lctx : Nat) (code : BitVec 7) (struct : Bool) (detail : Word) : State :=
  s.queueFault lctx (s.bankLaunch lctx)
    { origin := bankOrigin lctx code, graph := 0, who := 0xFFFF, tcb := 0, code := code.zeroExtend 8, struct := struct,
      fit := false, holder := 0xFFFF, detail := detail }

/-- Freeze an engine's inbox. A bank queue freezes alone, and its record is queued at once (R107). -/
def State.freezeEngine (s : State) (e : EngineRef) (code : BitVec 7) (detail : Word) : State :=
  match e with
  | .op t o => s.freeze t o code detail
  | .bank _ c =>
    if s.engineFrozen e then s else (s.modInbox e fun b => { b with frozen := true }).bankRecord c code true detail

/-! ## Forms of packets (R101, R107, R223, R241, R255) -/

/-- An address operand (R101), aligned. -/
def isVa (w : Dbl) (align : Nat) : Bool := w.extractLsb' 57 7 == 0 && decide (w.toNat % align = 0)
/-- A 32-bit operand. -/
def low32 (w : Dbl) : Bool := w.extractLsb' 32 32 == 0

/-- PORT of a port name (R101). -/
def portOf (w : Dbl) : Nat := (w.extractLsb' 38 4).toNat
/-- A port operand names the receiving tile and context, one of its ports, and the channel bound there (R101, R223,
R414). -/
def State.isPort (s : State) (t o : Nat) (w : Dbl) (ports : List Nat) (out : Bool) : Bool :=
  match s.task t, s.op t o with
  | some k, some p =>
    w.getLsbD 63 && w.extractLsb' 0 25 == 0 && (w.extractLsb' 55 8).toNat == k.lctx &&
      (w.extractLsb' 48 7).toNat == p.place.x && (w.extractLsb' 42 6).toNat == p.place.y && ports.contains (portOf w) &&
      (if out then k.chanOut o (portOf w) else k.chanIn o (portOf w)) == some (w.extractLsb' 25 13).toNat
  | _, _ => false

/-- Word 7 and the header's reserved bits (R100, R101, R414). -/
def replyForm (rev : Nat) (p : Packet) (seqSender : Bool) : Bool :=
  let w := p.dbl 7
  let tl := w.getLsbD 63 && w.extractLsb' 32 19 == 0 && w.extractLsb' 0 32 != 0
  let port := !w.getLsbD 63 && w.extractLsb' 0 25 == 0 && w.extractLsb' 25 13 == 0 &&
    decide ((w.extractLsb' 42 6).toNat < 48)
  if rev == 2 then p.extractLsb' 32 8 == 0 && (tl || (seqSender && w == 0))
  else p.extractLsb' 33 7 == 0 && (if p.getLsbD 32 then tl || port else w == 0)

/-- Bits [hi - 1 : lo] set. -/
def mask (lo hi : Nat) : Nat := 2 ^ hi - 2 ^ lo

/-- A handle assigned to the context. -/
def State.hasHandle (s : State) (lctx h : Nat) : Bool := ((s.ctx lctx).map (·.hasBuf h)).getD false
/-- A counter assigned to the context. -/
def State.hasCounter (s : State) (lctx n : Nat) : Bool := ((s.ctx lctx).map (·.hasTl n)).getD false

/-- Size of a copied element, in bytes (R346). -/
def copySize (w1 : Dbl) : Nat :=
  match (w1.extractLsb' 47 3).toNat with
  | 0 => 1 | 1 => 2 | 2 => 4 | 3 => 8 | _ => 128

/-- A format and kernel pair of R250. -/
def splinePair (fmt kernel : Nat) : Bool :=
  match fmt with
  | 0x1 | 0x2 => decide (kernel ≤ 4)
  | 0x9 | 0xB => decide (kernel ≤ 3)
  | 0xC | 0xD => decide (kernel ≤ 1)
  | _ => false

/-- Whether `n` bytes at an address lie in the context's shared window, naturally aligned to `align` (R341). -/
def State.inWindow (s : State) (lctx va n align : Nat) : Bool :=
  decide (va % align = 0) && match s.ctx lctx with
  | some c => (c.shmAt va n).isSome
  | none => false

/-- What the form of a packet depends on beside the packet: the port names the receiver takes, among a list of ports and on
its output side or not; the handles and counters of its context; a walker's dimensions; the lines of the walker that a
spline is bound to; and the shared window, by address, bytes and alignment. -/
structure FormEnv where
  port : Dbl → List Nat → Bool → Bool
  handle : Nat → Bool
  counter : Nat → Bool
  dims : Nat
  lines : Option (Nat × Nat)
  window : Nat → Nat → Nat → Bool

/-- The bits of operand word `k` that must be zero whatever the others hold: reserved bits of a parameter word, the top bits
of an address or of a 32-bit operand, and the whole of a word that the command does not use (R101, R223, R226, R256 to R258,
R341 to R352). A word that may hold a port name has none of its own. -/
def wordReserved (engine opc k : Nat) : Nat :=
  let hi := mask 57 64
  match engine, opc, k with
  | 1, 2, 2 | 2, 1, 2 | 2, 1, 3 => 0
  | 1, 5, 2 | 1, 6, 2 | 1, 8, 2 | 2, 1, 4 | 3, 1, 2 | 4, 1, 2 | 4, 2, 2 => hi
  | 5, 1, 2 | 5, 2, 2 | 5, 3, 2 | 5, 4, 2 | 5, 5, 2 | 5, 2, 3 | 5, 3, 3 | 5, 5, 3 => hi
  | 2, 6, 2 | 2, 6, 3 | 3, 2, 2 | 4, 1, 3 => mask 32 64
  | 5, 1, 3 | 5, 1, 4 | 5, 1, 5 | 5, 1, 6 | 5, 3, 4 | 5, 4, 3 | 5, 4, 4 | 5, 5, 4 => mask 32 64
  | 1, 1, 1 => hi + mask 0 30
  | 1, 4, 1 => mask 32 64
  | 1, 5, 1 => hi + mask 32 56
  | 1, 6, 1 | 3, 4, 1 | 4, 1, 1 => hi + mask 0 40
  | 1, 7, 1 | 2, 2, 1 => hi + mask 0 53
  | 1, 8, 1 => hi + mask 0 56
  | 2, 1, 1 => hi + mask 0 13
  | 2, 3, 1 => mask 44 64 + mask 7 32 + mask 2 4
  | 2, 4, 1 => mask 44 64 + mask 2 32
  | 2, 5, 1 => mask 44 64
  | 2, 6, 1 => mask 44 64 + mask 0 32
  | 3, 1, 1 | 5, 1, 1 => hi + mask 0 51
  | 3, 2, 1 => hi + mask 0 30
  | 3, 3, 1 => hi + mask 0 45
  | 4, 2, 1 => mask 12 64
  | 5, 2, 1 | 5, 4, 1 | 5, 5, 1 => hi + mask 32 52
  | 5, 3, 1 => hi + mask 32 50 + mask 51 52
  | _, _, _ => mask 0 64

/-- A limit of a packet's words: the bits on which it rests, by word, and whether it holds. The Joiner judges a template by the
limits all of whose bits the image fixes (R105). -/
structure Limit where
  needs : List (Nat × Nat)
  ok : Bool
deriving DecidableEq, Repr

/-- A limit on bits of one word. -/
def limOn (k m : Nat) (ok : Bool) : Limit := { needs := [(k, m)], ok := ok }

/-- A word that must be zero where `c` holds, of which `deps` are the bits: by halves. -/
def limZero (k : Nat) (w : Dbl) (deps : List (Nat × Nat)) (c : Bool) : List Limit :=
  [{ needs := (k, mask 0 32) :: deps, ok := !c || w.extractLsb' 0 32 == 0 },
   { needs := (k, mask 32 64) :: deps, ok := !c || w.extractLsb' 32 32 == 0 }]

/-- An address operand where `c` holds: its top bits and its alignment. -/
def limVa (k : Nat) (w : Dbl) (align : Nat) (deps : List (Nat × Nat)) (c : Bool) : List Limit :=
  [{ needs := (k, mask 57 64) :: deps, ok := !c || w.extractLsb' 57 7 == 0 },
   { needs := (k, align - 1) :: deps, ok := !c || decide (w.toNat % align = 0) }]

/-- An endpoint word of cp.arm (R346): bit `mt` of word 1 is SMT or DMT, `wide` and `narrow` the ports of its side. -/
def FormEnv.endPt (e : FormEnv) (rev k : Nat) (w1 w : Dbl) (mt wide narrow : Nat) (out : Bool) : List Limit :=
  let tile := w1.getLsbD mt
  let port := !tile && w.getLsbD 63
  let deps := [(1, mask mt (mt + 1) + mask 47 50), (k, mask 63 64)]
  limZero k (w &&& BitVec.ofNat 64 (mask 32 64)) deps tile ++
    [{ needs := (k, mask 0 7) :: deps, ok := port || decide (w.toNat % copySize w1 = 0) },
     { needs := (k, mask 57 64) :: deps, ok := tile || port || w.extractLsb' 57 7 == 0 },
     { needs := (k, mask 0 64) :: deps, ok := !port || (rev == 3 && e.port w [wide, narrow] out &&
       (portOf w != narrow || w1.extractLsb' 47 3 == 2)) }]

/-- The limits of the matrix commands' words (R227 to R238, R241). -/
def FormEnv.mxWord (e : FormEnv) (p : Packet) (k : Nat) : List Limit :=
  let w := p.dbl k
  let w1 := p.dbl 1
  match p.opc, k with
  | 1, 1 =>
    [limOn 1 (mask 53 57) (w.extractLsb' 53 4 == 0x4 || w.extractLsb' 53 4 == 0xB),
     limOn 1 (mask 50 53) (decide ((w.extractLsb' 50 3).toNat ≤ 4))]
  | 2, 2 => [limOn 2 (mask 0 64) (isVa w 1 || (Packet.rev p == 3 && e.port w [1] false)),
     limOn 2 (mask 57 64) (w.extractLsb' 57 7 == 0 || (Packet.rev p == 3 && w.getLsbD 63))]
  | 4, 1 => [limOn 1 (mask 0 32) (w.extractLsb' 0 32 != 0)]
  | 5, 1 => [limOn 1 (mask 56 57 + mask 0 32) (w.getLsbD 56 || w.extractLsb' 0 32 == 0)]
  | 5, 2 => limZero 2 w [(1, mask 56 57)] (w1.getLsbD 56) ++ limVa 2 w 64 [(1, mask 56 57)] (!w1.getLsbD 56)
  | 6, 2 => limZero 2 w [(1, mask 40 41)] (!w1.getLsbD 40) ++ limVa 2 w 64 [(1, mask 40 41)] (w1.getLsbD 40)
  | 7, 1 => [limOn 1 (mask 53 57) (w.extractLsb' 53 4 != 0)]
  | 8, 2 => limVa 2 w 32 [] true
  | _, _ => []

/-- The limits of the copy engine's words (R346, R348, R351, R352). -/
def FormEnv.cpWord (e : FormEnv) (p : Packet) (k : Nat) : List Limit :=
  let w := p.dbl k
  let w1 := p.dbl 1
  match p.opc, k with
  | 1, 1 =>
    [limOn 1 (mask 47 50) (decide ((w.extractLsb' 47 3).toNat ≤ 4)),
     limOn 1 (mask 42 47) (if w.getLsbD 46 then decide ((w.extractLsb' 42 4).toNat ≥ 4) else w.extractLsb' 42 4 == 0),
     limOn 1 (mask 29 42) (!w.getLsbD 29 || e.handle (w.extractLsb' 30 12).toNat),
     limOn 1 (mask 16 29) (!w.getLsbD 16 || e.handle (w.extractLsb' 17 12).toNat)]
  | 1, 2 => e.endPt (Packet.rev p) 2 w1 w 15 0 2 false
  | 1, 3 => e.endPt (Packet.rev p) 3 w1 w 14 1 3 true
  | 3, 1 | 4, 1 => [limOn 1 (mask 32 44) (e.handle (w.extractLsb' 32 12).toNat)]
  | 5, 1 => [limOn 1 (mask 0 32) (w.extractLsb' 0 32 != 0), limOn 1 (mask 32 44) (e.counter (w.extractLsb' 32 12).toNat)]
  | 6, 1 => [limOn 1 (mask 32 44) (e.counter (w.extractLsb' 32 12).toNat)]
  | _, _ => []

/-- The limits of the walker's words (R256). -/
def FormEnv.wkWord (e : FormEnv) (p : Packet) (k : Nat) : List Limit :=
  let w := p.dbl k
  match p.opc, k with
  | 2, 1 =>
    [limOn 1 (mask 54 57) (decide ((w.extractLsb' 54 3).toNat ≤ 5)),
     limOn 1 (mask 51 54) (decide ((w.extractLsb' 51 3).toNat < e.dims)),
     limOn 1 (mask 48 51) (decide ((w.extractLsb' 48 3).toNat < e.dims))]
  | 2, 2 => limZero 2 w [(1, mask 54 57)] ((p.dbl 1).extractLsb' 54 3 != 5)
  | 3, 1 => [limOn 1 (mask 54 57) (decide ((w.extractLsb' 54 3).toNat ≤ 3))]
  | 4, 1 =>
    [limOn 1 (mask 49 56) (decide ((w.extractLsb' 49 7).toNat ≤ 64)), limOn 1 (mask 40 42) (!(w.getLsbD 41 && w.getLsbD 40)),
     limOn 1 (mask 56 57 + mask 48 49 + mask 40 42) (w.getLsbD 56 || w.getLsbD 48 || w.getLsbD 41 || w.getLsbD 40)]
  | _, _ => []

/-- The limits of the spline unit's words (R257, R258). Where the unit is bound by `from=`, its lines are the walker's. -/
def FormEnv.spWord (e : FormEnv) (p : Packet) (k : Nat) : List Limit :=
  let w := p.dbl k
  match p.opc, k with
  | 1, 1 =>
    [limOn 1 (mask 50 57) (splinePair (w.extractLsb' 53 4).toNat (w.extractLsb' 50 3).toNat),
     limOn 1 (mask 44 50) (match e.lines with
      | none => true
      | some l => (w.extractLsb' 47 3).toNat == l.1 && (w.extractLsb' 44 3).toNat == l.2)]
  | 1, 2 | 2, 2 => limVa 2 w 64 [] true
  | 1, 3 => [limOn 3 (mask 0 64) (w != 0)]
  | 2, 1 => [limOn 1 (mask 0 12) (e.handle (w.extractLsb' 0 12).toNat)]
  | _, _ => []

/-- The limits of the bank ALU's words (R341 to R344). -/
def FormEnv.bkWord (e : FormEnv) (p : Packet) (k : Nat) : List Limit :=
  let w := p.dbl k
  let w1 := p.dbl 1
  let fn := (w1.extractLsb' 53 4).toNat
  let d := w1.getLsbD 52
  let size := if d then 8 else 4
  let n := (w1.extractLsb' 0 32).toNat
  let fnD : List (Nat × Nat) := [(1, mask 52 57)]
  let sized : List (Nat × Nat) := [(1, mask 52 53)]
  let range : List Limit :=
    [{ needs := fnD, ok := decide (fn ≤ 8 ∨ fn = 11) && !(d && fn == 11) },
     limOn 1 (mask 0 32) (decide (1 ≤ n) && decide (n ≤ 0x1000000))]
  let inWindow (bytes : Nat) (deps : List (Nat × Nat)) : List Limit :=
    limVa k w size sized true ++ [{ needs := (k, mask 0 64) :: (sized ++ deps), ok := e.window w.toNat bytes size }]
  match p.opc, k with
  | 1, 1 =>
    [{ needs := fnD, ok := decide (fn ≤ 11) && !(d && fn == 11) },
     { needs := [(1, mask 51 53), (7, mask 63 64)], ok := !w.getLsbD 51 || (!d && Packet.rply p && !(p.dbl 7).getLsbD 63) }]
  | 1, 2 | 2, 2 => inWindow size []
  | 1, 4 => limZero 4 w sized (!d)
  | 1, 5 => limZero 5 w fnD (fn != 10)
  | 1, 6 => limZero 6 w fnD (fn != 10 || !d)
  | 2, 1 | 3, 1 | 5, 1 => range
  | 4, 1 => range ++ [limOn 1 (mask 53 57) (fn == 0)]
  | 2, 3 => inWindow (size * n) [(1, mask 0 32)]
  | 3, 2 | 4, 2 | 5, 2 => inWindow (size * n) [(1, mask 0 32)]
  | 3, 3 =>
    let scal := w1.getLsbD 50
    { needs := [(3, mask 32 64), (1, mask 50 51)], ok := !scal || low32 w } ::
      limVa 3 w size [(1, mask 50 51 + mask 52 53)] (!scal)
  | 3, 4 => limZero 4 w [(1, mask 50 51 + mask 52 53)] (!w1.getLsbD 50 || !d)
  | 4, 4 => limZero 4 w sized (!d)
  | 5, 3 => limVa 3 w size sized true
  | _, _ => []

/-- The limits of operand word `k` of a packet. -/
def FormEnv.limits (e : FormEnv) (p : Packet) (k : Nat) : List Limit :=
  match p.engine with
  | 1 => e.mxWord p k
  | 2 => e.cpWord p k
  | 3 => e.wkWord p k
  | 4 => e.spWord p k
  | 5 => e.bkWord p k
  | _ => [{ needs := [], ok := false }]

/-- Operand word `k` of a packet keeps its limits. -/
def FormEnv.wordLimits (e : FormEnv) (p : Packet) (k : Nat) : Bool := (e.limits p k).all (·.ok)

/-- The bits of a word under a mask. -/
def bitsClear (w : Dbl) (m : Nat) : Bool := (w &&& BitVec.ofNat 64 m) == 0

/-- Operand word `k` of a packet has the form that its command takes (R107). -/
def FormEnv.wordOk (e : FormEnv) (p : Packet) (k : Nat) : Bool :=
  bitsClear (p.dbl k) (wordReserved p.engine p.opc k) && e.wordLimits p k

/-- The lines of the walker that a spline is bound to by `from=`. -/
def State.boundLines (s : State) (t o : Nat) : Option (Nat × Nat) :=
  ((s.spline t o).bind fun x => s.walker t x.walker).map fun w => (w.now.da, w.now.db)

/-- What a receiver knows of the forms of its packets. -/
def State.formEnv (s : State) (e : EngineRef) : FormEnv :=
  let c := s.engineCtx e
  match e with
  | .op t o =>
    { port := s.isPort t o, handle := s.hasHandle c, counter := s.hasCounter c,
      dims := ((s.walker t o).map (·.dims.length)).getD 1, lines := s.boundLines t o, window := s.inWindow c }
  | .bank _ _ =>
    { port := fun _ _ _ => false, handle := s.hasHandle c, counter := s.hasCounter c, dims := 1, lines := none,
      window := s.inWindow c }

/-- ENGINE of a receiver. -/
def State.engineOf (s : State) : EngineRef → Nat
  | .op t o => ((s.op t o).bind fun p => p.kind.engine).getD 0
  | .bank _ _ => 5

/-- Whether OPC is assigned for an engine (R102). -/
def opcOk (engine opc : Nat) : Bool :=
  decide (1 ≤ opc) && decide (opc ≤ match engine with
    | 1 => 8 | 2 => 6 | 3 => 4 | 4 => 2 | 5 => 5 | _ => 0)

/-- R107 step 3 for a packet of an engine. -/
def State.operandsOk (s : State) (e : EngineRef) (p : Packet) (seqSender : Bool) : Bool :=
  replyForm (Packet.rev p) p seqSender && [1, 2, 3, 4, 5, 6].all fun k => (s.formEnv e).wordOk p k

/-- The three checks of R107: the freeze that the first failure gives. The queue of a bank ALU that no graph has bound yet takes
either revision, and no other (R100, R169; DESIGN CHOICE, log entry 102). -/
def State.packetFault (s : State) (e : EngineRef) (p : Packet) (seqSender : Bool) : Option (BitVec 7 × Word) :=
  let bound := match e with
    | .op _ _ => ((s.inbox e).map (·.rev)).getD 0
    | .bank _ c => ((s.ctx c).bind (·.bankRev)).getD (if Packet.rev p == 2 then 2 else 3)
  if Packet.rev p ≠ bound then some (Code.queueRev, revDetail p bound)
  else if p.engine ≠ s.engineOf e ∨ !opcOk p.engine p.opc then some (Code.illegal, illegalDetail p)
  else if !s.operandsOk e p seqSender then some (Code.illegal, illegalDetail p)
  else none

/-! ## Messages -/

/-- The bank that a bank ALU message goes to: the one that holds the address in word 2 (R341). -/
def State.bankFor (s : State) (lctx : Nat) (p : Packet) : Nat :=
  match (s.ctx lctx).bind fun c => c.shmAt (p.extractLsb' 128 57).toNat 1 with
  | some a => shmBank a
  | none => 0

/-- The first of a task's engines on a tile whose ENGINE satisfies `f`. -/
def Task.engineOn (k : Task) (x y : Nat) (f : Nat → Bool) : Option Nat :=
  lfind (fun p => p.place.x == x && p.place.y == y && p.kind.engine.any f) k.ops

/-- The engine that a message names (R146): a sender of a task names one of its own task, a control core one of the placed
tasks of its context. Where the tile has no inbox of that ENGINE, another engine there finds it ILLEGAL (R107). -/
def State.targetOf (s : State) (from? : Option Nat) (lctx x y engine : Nat) : Option (Nat × Nat) :=
  let near : Option (List (Nat × Task)) := from?.map fun t => s.tasks.filter fun z => z.1 == t
  let all := near.getD (s.tasks.filter fun z => z.2.lctx == lctx && z.2.status != .paused)
  let look : (Nat → Bool) → Option (Nat × Nat) := fun f => all.findSome? fun z => (z.2.engineOn x y f).map fun o => (z.1, o)
  (look fun e => e == engine).orElse fun _ => look fun _ => true

/-- The engine a message goes to. -/
def State.msgEngine (s : State) (m : Msg) : Option EngineRef :=
  if m.packet.engine == 5 then some (.bank (s.bankFor (Packet.ctx m.packet) m.packet) (Packet.ctx m.packet))
  else m.target.map fun x => .op x.1 x.2

/-- A bank queue comes into being with its first packet. -/
def State.openBank (s : State) (b lctx : Nat) : State :=
  let k := (aget b s.banks).getD emptyBank
  if (aget lctx k.queues).isSome then s
  else { s with banks := aset b { k with queues := aset lctx (emptyInbox 0) k.queues } s.banks }

/-- A sender of a control core's messages: the tile numbers end at 6,143 (R17). -/
def coreFrom (k : Nat) : Nat := 6144 + k
/-- The core that sent a message. -/
def Msg.core? (m : Msg) : Option Nat := if m.from_ ≥ 6144 then some (m.from_ - 6144) else none

/-- A message that no earlier message of its sender's lane waits before (R146, R224). -/
def State.laneFirst (s : State) (n : Nat) (m : Msg) : Bool :=
  !((s.msgs.take n).any fun x => x.from_ == m.from_ && x.entry == m.entry)

/-- A command of a control core completes: the core's count of outstanding copies or commands falls (R156). -/
def State.coreCmdDone (s : State) (c : Option Nat) (copy : Bool) : State :=
  match c with
  | none => s
  | some k => s.modCore k fun x =>
      if copy then { x with copies := x.copies - 1 } else { x with cmds := x.cmds - 1 }

/-- An active message reaches an engine inbox that has room, and is checked (R107, R224). A message that finds no engine is
lost, and no longer counts as outstanding at the core that sent it (R156; DESIGN CHOICE, log entry 15). -/
def execEnginePacketArrive (n : Nat) (s : State) : Host.Outcome State Fault Refusal :=
  match s.msgs[n]? with
  | none => .next s
  | some m =>
    if m.due > s.fc || !s.laneFirst n m then .next s
    else
      let gone : State → State := fun s => { s with msgs := s.msgs.eraseIdx n }
      match s.msgEngine m with
      | none => .next ((gone s).coreCmdDone m.core? (m.packet.engine == 2))
      | some e =>
        let s' := match e with
          | .bank b c => s.openBank b c
          | _ => s
        match s'.inbox e with
        | none => .next ((gone s).coreCmdDone m.core? (m.packet.engine == 2))
        | some b =>
          if b.packets.length ≥ 8 then .next s
          else
            let s' := (gone s').bumpId.busy (s.engineCtx e)
            match s'.packetFault e m.packet m.seqSender with
            | some (c, d) => .next (s'.freezeEngine e c d)
            | none =>
              .next (s'.modInbox e fun b =>
                { b with packets := b.packets ++ [{ image := m.packet, core := m.core?, seqSender := m.seqSender, no := s.nextId }] })

/-! ## Starting and completing commands (R224, R225) -/

/-- The head packet of an inbox, or the packet itself where it does not come from one. -/
def State.headPkt (s : State) (e : EngineRef) (p : Packet) : InPkt :=
  match s.inbox e with
  | some b => (b.packets.head?).getD { image := p, core := none, seqSender := false, no := 0 }
  | none => { image := p, core := none, seqSender := false, no := 0 }

/-- The fc in which the clock of an engine has gone on by `n` fc: a bank runs at the sequencer's (R273, R274). -/
def State.engineAfter (s : State) (e : EngineRef) (n : Nat) : Nat :=
  match e with
  | .op t o => s.after t o n
  | .bank _ _ => s.fc + n

/-- A command starts: it leaves the inbox, and its reply joins the replies that are owed (R224, R225). -/
def State.beginCmd (s : State) (e : EngineRef) (p : Packet) : State :=
  let h := s.headPkt e p
  (s.modInbox e fun b =>
    { b with packets := b.packets.drop 1, nextAt := s.engineAfter e 1, started := b.started + 1,
             replies := b.replies ++ [{ core := h.core, opc := BitVec.ofNat 8 p.opc, seq := Packet.seq p,
                                        rply := Packet.rply p, word7 := p.dbl 7, status := none, value := none,
                                        poison := none, id := b.started, doneAt := 0 }] }).busy (s.engineCtx e)

/-- The number of the command that starts next. -/
def State.cmdId (s : State) (e : EngineRef) : Nat := ((s.inbox e).map (·.started)).getD 0

/-- Set the outcome of a command's reply. -/
def Inbox.setReply (b : Inbox) (id : Nat) (f : Reply → Reply) : Inbox :=
  { b with replies := b.replies.map fun r => if r.id = id then f r else r }

/-- A command completes with a status (R225). -/
def State.endCmd (s : State) (e : EngineRef) (id status : Nat) : State :=
  match (s.inbox e).bind fun b => b.replies.find? (·.id == id) with
  | none => s
  | some r =>
    (s.modInbox e fun b => b.setReply id fun x => { x with status := some status, doneAt := s.fc }).coreCmdDone r.core (s.engineOf e == 2)

/-- A command that completes when it starts. -/
def State.oneStep (s : State) (e : EngineRef) (p : Packet) (status : Nat) : State :=
  (s.beginCmd e p).endCmd e (s.cmdId e) status

/-- A command that is ILLEGAL when it starts freezes its inbox (R107). -/
def State.illegalCmd (s : State) (e : EngineRef) (p : Packet) : State :=
  s.freezeEngine e Code.illegal (illegalDetail p)

/-- A command of an inbox: it does nothing until the inbox may take it and its own condition holds. -/
def State.command (s : State) (e : EngineRef) (ready : Bool) (run : State → State) : State :=
  if s.inboxOpen e && ready then run s else s

/-! ## Replies (R225, R414) -/

/-- Status word of a reply (R225). -/
def statusWord (r : Reply) : Word :=
  r.opc ++ (BitVec.ofNat 4 (r.status.getD 0) ++ ((0 : BitVec 4) ++ r.seq.extractLsb' 0 16))

/-- Whether a cell's code reads a queue. -/
def Cell.reads (c : Cell) (q : Nat) : Bool :=
  c.code.any fun w =>
    match decodeCell c.gen w 0 with
    | some (.recv _ n) | some (.peek _ n) | some (.drop n) | some (.bkind n _ _ _) => n.val == q
    | some i => (operands i).any fun x => srcPops x == some q || x == .pk (Fin.ofNat 4 q)
    | none => false
where
  /-- Operands of the words that read a register or a queue. -/
  operands : Instr → List Src
    | .add _ a b _ _ | .sub _ a b _ _ | .mul _ a b _ _ | .div _ a b _ _ | .adds _ a b _ | .subs _ a b _ | .mulh _ a b _
    | .mulhu _ a b _ | .divu _ a b _ | .rem _ a b _ | .remu _ a b _ | .and _ a b _ | .or _ a b _ | .xor _ a b _
    | .andn _ a b _ | .shl _ a b _ | .shr _ a b _ | .sra _ a b _ | .rotl _ a b _ | .min _ a b _ | .max _ a b _
    | .minu _ a b _ | .maxu _ a b _ | .cmpCc _ _ a b _ | .fadd _ a b _ | .fmul _ a b _ | .fmin _ a b | .fmax _ a b
    | .fcmpCc _ _ a b => [a, b]
    | .abs _ a _ _ | .clz _ a _ | .ctz _ a _ | .popc _ a _ | .fcvtSW _ a _ | .fcvtSWu _ a _ | .fcvtWS _ a _
    | .fcvtWuS _ a _ | .addi _ a _ | .andi _ a _ | .ori _ a _ | .xori _ a _ | .shli _ a _ | .shri _ a _ | .srai _ a _
    | .cmpiCc _ _ a _ | .bfx _ a _ _ | .bfxu _ a _ _ | .bfi _ a _ _ | .bz a _ | .bnz a _ | .rep a _ | .send _ a _
    | .mov _ a | .repl a | .kout a | .tlwait a _ => [a]
    | .sel _ a b c _ | .fma _ a b c _ => [a, b, c]
    | .amsg a d _ | .vfSet a d => [a, d]
    | _ => []

/-- The cell actor whose unbound queue a reply port names: the first on the tile that reads the queue, or the first that
could (R414). -/
def Task.replyCell (k : Task) (x y q : Nat) : Option Nat :=
  let free (p : Op × Nat) : Bool := p.1.place.x == x && p.1.place.y == y && ((k.chanIn p.2 q).map fun c =>
    ((k.chans[c]?).map fun h => h.prodOp != 0xFFFF).getD false).getD false == false
  let cells := k.ops.zipIdx.filter fun p => match p.1.kind with
    | .cell _ => free p
    | _ => false
  match cells.find? fun p => match p.1.kind with
    | .cell c => c.reads q
    | _ => false with
  | some p => some p.2
  | none => cells.head?.map (·.2)

/-- The operator number that stands for the message network as the producer of a reply queue. -/
def msgOp : Nat := 0xFFFF

/-- A reply queue of an operator: four tokens, and no rate bound (R19, R414). -/
def replyChan (o q : Nat) : Chan :=
  { prodOp := msgOp, prodPort := 0, consOp := o, consPort := q, net := .narrow, order := true, prodLo := 0, prodHi := 4096,
    consLo := 0, consHi := 4096, route := [], spillCap := 0, spill := [], spillIn := 0, spillOut := 0, bufs := [], endq := [], freed := [], reserved := 0,
    pushed := 0, popped := 0, closed := false, joined := none }

/-- Make the reply queue of an operator, if it is not there. -/
def State.openReply (s : State) (t o q : Nat) : State :=
  match s.task t with
  | none => s
  | some k => if (k.chanIn o q).isSome then s else s.modTask t fun k => { k with chans := k.chans ++ [replyChan o q] }

/-- Put a token into a reply queue of an operator, if it has room (R414). -/
def State.pushReply (s : State) (t o q : Nat) (tok : Token) : Option State :=
  let s := s.openReply t o q
  match (s.task t).bind fun k => k.chanIn o q with
  | none => none
  | some c => match s.chan t c with
    | none => none
    | some ch =>
      if ch.free then some (((s.modChan t c fun ch => ch.push s.fc (s.after t o 1) tok).balance t 1).busy (s.lctxOf t)) else none

/-- The reply queue that word 7 names: task, operator, queue. A reply whose PORT is 4 or more, or whose tile has no such
queue, has none: it is dropped (log entry 95). -/
def State.replyTo (s : State) (e : EngineRef) (w : Dbl) : Option (Nat × Nat × Nat) :=
  let x := (w.extractLsb' 48 7).toNat
  let y := (w.extractLsb' 42 6).toNat
  let q := portOf w
  if q ≥ 4 then none
  else match e with
    | .op t _ => (s.task t).bind fun k => (k.replyCell x y q).map fun o => (t, o, q)
    | .bank _ c => s.tasks.findSome? fun (t, k) =>
        if k.lctx == c then (k.replyCell x y q).map fun o => (t, o, q) else none

/-- Send a reply whose turn it is (R225). -/
def State.sendReply (s : State) (e : EngineRef) (r : Reply) : State :=
  let drop1 : State := s.modInbox e fun b => { b with replies := b.replies.drop 1 }
  if !r.rply then drop1
  else if r.word7.getLsbD 63 then
    let n := (r.word7.extractLsb' 51 12).toNat
    if r.poison.isSome then { drop1 with poisonedTl := if drop1.tlBad n then drop1.poisonedTl else n :: drop1.poisonedTl }
    else drop1.tlAdd n ((r.word7.extractLsb' 0 32).zeroExtend 64)
  else
    let tok : Token := match r.poison with
      | some w => poisonTok 0 w
      | none => narrowTok 0 (r.value.getD (statusWord r))
    match s.replyTo e r.word7 with
    | none => drop1
    | some (t, o, q) => match drop1.pushReply t o q tok with
      | some s' => s'
      | none => drop1.modInbox e fun b => { b with held := some (t, 16 * o + q, tok) }

/-- An engine releases at PKG the writes that its bay issued up to fc `at_`: once they are performed at BAY, the bay is
drained (R357). `none` while it waits. A bank ALU lies in no bay. -/
def State.engineRelease (s : State) (e : EngineRef) (at_ : Nat) : Option State :=
  match e with
  | .bank _ _ => some s
  | .op t o => match s.task t with
    | none => some s
    | some k => if k.relReady o at_ then some (s.drainAll t) else none

/-- Replies go out in arrival order, each after the writes that it releases (R225, R357). -/
def execEngineReply (e : EngineRef) (s : State) : Host.Outcome State Fault Refusal :=
  match s.inbox e with
  | none => .next s
  | some b =>
    match b.replies with
    | [] => .next s
    | r :: _ =>
      if r.status.isNone || b.held.isSome then .next s
      else match (if r.rply then s.engineRelease e r.doneAt else some s) with
        | none => .next s
        | some s => .next ((s.sendReply e r).busy (s.engineCtx e))

/-- A held reply token is delivered when its queue has room (R414). -/
def execReplyTokenDeliver (e : EngineRef) (s : State) : Host.Outcome State Fault Refusal :=
  match (s.inbox e).bind (·.held) with
  | none => .next s
  | some (t, oq, tok) =>
    match s.pushReply t (oq / 16) (oq % 16) tok with
    | some s' => .next (s'.modInbox e fun b => { b with held := none })
    | none => .next s

end Sys2Proof.Machine
end

