-- ==== Sys2Proof/Machine/System.lean ====
section
/-! DEFINITION. System instructions of cells and control cores (07_tokens_control_system.md R146 to R158), and the steps
that end the accesses of a core. -/
namespace Sys2Proof.Machine

/-! ## Memory accesses of control cores (R154) -/

/-- The launch context in CTXK (R128, R152). -/
def Core.lctx (c : Core) : Nat := (c.ctxk.extractLsb' 24 8).toNat

/-- Where an effective address goes, or the trap it raises (R154). -/
inductive CoreAt where
  | loc (off : Nat)
  | mgmt (off : Nat)
  | dev (l : Loc)
  | miss
  | trap (code : BitVec 7)
deriving DecidableEq, Repr

/-- The die of a core: two cores per die (R6). -/
def coreDie (k : Nat) : Nat := k / 2

/-- The forms of an effective address (R154, R408): form, privilege, size and alignment, translation, in this order (DEDUCED, log
entry 11). -/
def State.coreAt (s : State) (k : Nat) (e : Dbl) (n kind : Nat) : CoreAt :=
  let c := s.core k
  if e.extractLsb' 62 2 == 2 then
    if e.extractLsb' 18 44 ≠ 0 then .trap Code.xlate
    else if e.toNat % n ≠ 0 then .trap Code.range
    else .loc (e.extractLsb' 0 18).toNat
  else if e.extractLsb' 62 2 == 3 then
    if e.extractLsb' 32 30 ≠ 0 then .trap Code.xlate
    else if !c.super then .trap Code.priv
    else if n ≠ 8 ∨ e.toNat % 8 ≠ 0 then .trap Code.range
    else .mgmt (e.extractLsb' 0 32).toNat
  else if e.extractLsb' 57 7 ≠ 0 then .trap Code.xlate
  else if e.toNat % n ≠ 0 then .trap Code.range
  else match s.xlate (coreDie k) (.core k) c.lctx e.toNat n kind with
    | .at_ l => .dev l
    | .fault _ => .trap Code.xlate
    | .miss => .miss

/-- Set EVAL for the codes that have one (R152). -/
def evalOf (code : BitVec 7) (v : Dbl) : Dbl := if code = Code.xlate ∨ code = Code.range ∨ code = Code.illegal then v else 0

/-- Core `k` traps on an access. -/
def State.accessTrap (s : State) (k : Nat) (code : BitVec 7) (e : Dbl) : State :=
  ((s.dropMiss (coreDie k) (.core k) (s.core k).lctx e.toNat).coreTrap k code (evalOf code e)).issued

/-- A value of `n` bytes in a 64-bit register: sign-extended, a double as it is (R154). -/
def extend (n v : Nat) : Dbl :=
  match n with
  | 1 => (BitVec.ofNat 8 v).signExtend 64
  | 2 => (BitVec.ofNat 16 v).signExtend 64
  | 4 => (BitVec.ofNat 32 v).signExtend 64
  | _ => BitVec.ofNat 64 v

/-- The effective address of a load or store. -/
def Core.addr (c : Core) (a : Src) (off : Half) : Dbl := c.src a + off.signExtend 64

/-- A load (R154). -/
def State.coreLoad (s : State) (k : Nat) (d : SReg) (a : Src) (off : Half) (n : Nat) : State :=
  let c := s.core k
  let e := c.addr a off
  if c.halted || c.waits [a] (some d) then s
  else match s.coreAt k e n 0 with
    | .trap code => s.accessTrap k code e
    | .miss => s.addMiss (coreDie k) (.core k) c.lctx e.toNat 0
    | .loc o => s.coreWrite k d (extend n (s.readLoc (.core k o) n)) (srcWords [a])
    | .mgmt o => s.coreWrite k d (s.mgmtRead o) (srcWords [a])
    | .dev l =>
      let s := ((s.bumpId.touch l).modCore k fun c =>
        { c with loads := c.loads ++ [{ d := d.val, va := e, loc := l, bytes := n, pc := c.pc, seq := s.nextId, ext := true,
                                         amo := none }] }).coreSpan k c.lctx s.nextId false (keysFrom l n)
      s.coreNext k (srcWords [a])

/-- A store (R154). -/
def State.coreStore (s : State) (k : Nat) (v a : Src) (off : Half) (n : Nat) : State :=
  let c := s.core k
  let e := c.addr a off
  let x := c.src v
  if c.halted || c.waits [a, v] none then s
  else match s.coreAt k e n 1 with
    | .trap code => s.accessTrap k code e
    | .miss => s.addMiss (coreDie k) (.core k) c.lctx e.toNat 1
    | .loc o => (s.writeLoc (.core k o) n x.toNat).coreNext k (srcWords [v, a])
    | .mgmt o => (s.mgmtWrite o x).coreNext k (srcWords [v, a])
    | .dev l =>
      let s := (s.bumpId.touch l).modCore k fun c =>
        { c with stores := c.stores ++ [{ seq := s.nextId, loc := l, bytes := n, val := x, at_ := s.fc }] }
      s.coreNext k (srcWords [v, a])

/-- Run a step of the core that executes. -/
def State.onCore (s : State) (f : Nat → State) : State :=
  match s.cur with
  | .core k => f k
  | _ => s

/-- `ld.b` (R154). -/
def execLdB (d : SReg) (a : Src) (off : Half) (s : State) : Out := .next (s.onCore fun k => s.coreLoad k d a off 1)
/-- `ld.h` (R154). -/
def execLdH (d : SReg) (a : Src) (off : Half) (s : State) : Out := .next (s.onCore fun k => s.coreLoad k d a off 2)
/-- `ld.w` (R154). -/
def execLdW (d : SReg) (a : Src) (off : Half) (s : State) : Out := .next (s.onCore fun k => s.coreLoad k d a off 4)
/-- `ld.d` (R154). -/
def execLdD (d : SReg) (a : Src) (off : Half) (s : State) : Out := .next (s.onCore fun k => s.coreLoad k d a off 8)
/-- `st.b` (R154). -/
def execStB (v a : Src) (off : Half) (s : State) : Out := .next (s.onCore fun k => s.coreStore k v a off 1)
/-- `st.h` (R154). -/
def execStH (v a : Src) (off : Half) (s : State) : Out := .next (s.onCore fun k => s.coreStore k v a off 2)
/-- `st.w` (R154). -/
def execStW (v a : Src) (off : Half) (s : State) : Out := .next (s.onCore fun k => s.coreStore k v a off 4)
/-- `st.d` (R154). -/
def execStD (v a : Src) (off : Half) (s : State) : Out := .next (s.onCore fun k => s.coreStore k v a off 8)

/-- Whether two ranges of bytes meet. -/
def overlaps (a : Loc) (n : Nat) (b : Loc) (m : Nat) : Bool := decide (a.key < b.key + m) && decide (b.key < a.key + n)

/-- The value of a load: memory under the core's own earlier stores (R154). -/
def State.loadValue (s : State) (c : Core) (l : CoreLoad) : Nat :=
  let mem := (c.stores.filter fun x => decide (x.seq < l.seq)).foldl
    (fun m x => memWrite m x.loc.key x.bytes x.val.toNat) s.mem
  memRead mem l.loc.key l.bytes

/-- Whether an access of a core is on its way to another device or back (R405). -/
def State.coreAway (s : State) (core seq : Nat) : Bool := s.spans.any fun x => x.core == some core && x.k == seq

/-- A device load or an amo returns (R154, R155), one of another device when its data are back (R405); accesses to one address keep
their order, and a read of another device sees what is performed at SYS (R353). An uncorrectable error traps, with EPC at the
load. -/
def execCoreLoadReturn (core n : Nat) (ecc : Bool) (s : State) : Out :=
  let c := s.core core
  match c.loads[n]? with
  | none => .next s
  | some l =>
    if (c.loads.any fun x => decide (x.seq < l.seq) && overlaps x.loc x.bytes l.loc l.bytes) || s.sysPending l.loc l.bytes ||
        s.coreAway core l.seq then .next s
    else
      let s' := s.modCore core fun c => { c with loads := c.loads.eraseIdx n }
      if ecc then .next (s'.coreTrapAt core l.pc (faultCause Code.ecc) 0)
      else
        let v := match l.amo with
          | some old => old
          | none => extend l.bytes (s.loadValue c l)
        .next (s'.modCore core fun c => c.setReg (Fin.ofNat 16 l.d) v)

/-- Whether a store of a core may be performed: the core's earlier accesses to its address and those that it releases are,
and no bank ALU holds a word of it (R156, R343, R358). -/
def State.storeMay (s : State) (c : Core) (x : CoreStore) : Bool :=
  !(c.stores.any fun y => decide (y.seq < x.seq) && overlaps y.loc y.bytes x.loc x.bytes) &&
    !(c.loads.any fun y => decide (y.seq < x.seq) && (decide (y.seq < c.relSeq) || overlaps y.loc y.bytes x.loc x.bytes)) &&
    !s.bankHolds (keysFrom x.loc x.bytes)

/-- A store of a core is performed at PKG (R156), in order with the core's other accesses to its address, and after every
access that it releases (R358). A word that a bank ALU holds waits (R343). One of another device then awaits its acknowledgement
(R405). -/
def execCoreStorePerformed (core n : Nat) (s : State) : Out :=
  let c := s.core core
  match c.stores[n]? with
  | none => .next s
  | some x =>
    .next (if s.storeMay c x then
      ((s.writeLoc x.loc x.bytes x.val.toNat).modCore core fun c => { c with stores := c.stores.eraseIdx n }).coreSpan core c.lctx
        x.seq true (keysFrom x.loc x.bytes)
    else s)

/-- Whether an amo overflows under OVT (R155, R114). -/
def amoOverflow (fn : RmwFn) (n old v : Nat) : Bool :=
  match fn with
  | .add => decide (sgn n old + sgn n v ≠ sgn n ((old + v) % 2 ^ n))
  | .sub => decide (sgn n old - sgn n v ≠ sgn n ((old + 2 ^ n - v) % 2 ^ n))
  | _ => false

/-- `amo` (R155): the bank applies it once the core's earlier accesses to the address are performed. -/
def State.coreAmo (s : State) (k : Nat) (fn : RmwFn) (d : SReg) (a b : Src) (w64 ovt : Bool) : State :=
  let c := s.core k
  let e := c.src a
  let n := if w64 then 8 else 4
  if c.halted || c.waits [a, b] (some d) then s
  else if e.extractLsb' 57 7 ≠ 0 then s.accessTrap k Code.xlate e
  else match s.coreAt k e n 2 with
    | .trap code => s.accessTrap k code e
    | .miss => s.addMiss (coreDie k) (.core k) c.lctx e.toNat 2
    | .dev l =>
      if (c.stores.any fun y => overlaps y.loc y.bytes l n) || (c.loads.any fun y => overlaps y.loc y.bytes l n) ||
          s.bankHolds (keysFrom l n) then s
      else
        let old := s.readLoc l n
        let v := (c.src b).toNat % 2 ^ (8 * n)
        if ovt && amoOverflow fn (8 * n) old v then (s.coreTrap k Code.iovf 0).issued
        else
          let new := rmwNew fn (8 * n) old v ((c.reg d).toNat % 2 ^ (8 * n))
          let s := (((s.writeLoc l n new).bumpId.touch l).modCore k fun c =>
            { c with loads := c.loads ++ [{ d := d.val, va := e, loc := l, bytes := n, pc := c.pc, seq := s.nextId, ext := true,
                                             amo := some (extend n old) }] }).coreSpan k c.lctx s.nextId true (keysFrom l n)
          s.coreNext k (srcWords [a, b])
    | _ => s.accessTrap k Code.xlate e

/-- `amo.fn` (R155). -/
def execAmo (fn : RmwFn) (d : SReg) (a b : Src) (w64 ovt : Bool) (s : State) : Out :=
  .next (s.onCore fun k => s.coreAmo k fn d a b w64 ovt)

/-- `owait` (R156). With a store limit of 0 it makes the stores after it releases of every access before it (R358). -/
def execOwait (ld st cp op : BitVec 4) (s : State) : Out :=
  .next (s.onCore fun k =>
    let c := s.core k
    if c.halted then s
    else if c.loads.length ≤ ld.toNat ∧ c.stores.length ≤ st.toNat ∧ c.copies ≤ cp.toNat ∧ c.cmds ≤ op.toNat then
      (s.modCore k fun c => if st = 0 then { c with relSeq := s.nextId } else c).coreNext k 1
    else s)

/-! ## Control registers and traps (R151 to R153) -/

/-- The value of a control register (R152). -/
def State.csr (s : State) (k : Nat) (r : BitVec 12) : Dbl :=
  let c := s.core k
  match r.toNat with
  | 0x000 => c.status
  | 0x001 => c.epc
  | 0x002 => c.cause
  | 0x003 => c.eval
  | 0x004 => c.tvec
  | 0x005 => c.ctxk
  | 0x006 => c.scratch
  | 0x010 => c.cycle
  | 0x011 => s.tai
  | _ => 0

/-- The core with a control register written (R152). -/
def Core.setCsr (c : Core) (r : BitVec 12) (v : Dbl) : Core :=
  match r.toNat with
  | 0x000 => { c with status := (c.status &&& 1) ||| (v &&& 6) }
  | 0x001 => { c with epc := v }
  | 0x004 => { c with tvec := v &&& 0x3FFFC }
  | 0x005 => { c with ctxk := v &&& 0xFFF80000 }
  | 0x006 => { c with scratch := v }
  | _ => c

/-- `csrr` (R152). -/
def execCsrr (d : SReg) (r : BitVec 12) (s : State) : Out :=
  .next (s.onCore fun k =>
    let c := s.core k
    if c.halted || c.waits [] (some d) then s else s.coreWrite k d (s.csr k r) 1)

/-- Core `k` traps with PRIV. -/
def State.privTrap (s : State) (k : Nat) : State := (s.coreTrap k Code.priv 0).issued

/-- `csrw` (R151, R152). -/
def execCsrw (a : Src) (r : BitVec 12) (s : State) : Out :=
  .next (s.onCore fun k =>
    let c := s.core k
    if c.halted || c.waits [a] none then s
    else if !c.super && r != 0x006 then s.privTrap k
    else (s.modCore k fun x => x.setCsr r (c.src a)).coreNext k (srcWords [a]))

/-- `trap` (R153). -/
def execTrap (c : BitVec 12) (s : State) : Out :=
  .next (s.onCore fun k =>
    if (s.core k).halted then s
    else (s.coreTrapAt k ((s.core k).after 1) (softCause c) 0).issued)

/-- `eret` (R151, R153). -/
def execEret (s : State) : Out :=
  .next (s.onCore fun k =>
    if (s.core k).halted then s
    else if !(s.core k).super then s.privTrap k
    else (s.modCore k Core.eret).issued)

/-- `halt` (R151, R153). -/
def execHalt (s : State) : Out :=
  .next (s.onCore fun k =>
    if (s.core k).halted then s
    else if !(s.core k).super then s.privTrap k
    else (s.coreNext k 1).modCore k fun c => { c with halted := true })

/-! ## The remaining functions (R157, R158) -/

/-- `rfetch` (R157). -/
def execRfetch (d : SReg) (a : Src) (s : State) : Out :=
  .next (s.onCore fun k =>
    let c := s.core k
    let e := c.src a
    if c.halted || c.waits [a] (some d) then s
    else if e.extractLsb' 62 2 ≠ 2 ∨ e.extractLsb' 18 44 ≠ 0 ∨ e.toNat % 32 ≠ 0 then s.accessTrap k Code.range e
    else match (s.ctx c.lctx).bind fun x => x.faults.head? with
      | none => s.coreWrite k d 0 (srcWords [a])
      | some (l, r) =>
        (((s.modCtx c.lctx fun x => { x with faults := x.faults.drop 1 }).modLaunch l fun x =>
          { x with recs := x.recs.drop 1 }).writeLoc
          (.core k (e.extractLsb' 0 18).toNat) 32 r.toNat).coreWrite k d 1 (srcWords [a]))

/-- `swait` (R157). An address that is not local traps with XLATE, and one that is not aligned with RANGE, as R154 has it for an
access (DEDUCED, log entry 104). -/
def execSwait (a : Src) (s : State) : Out :=
  .next (s.onCore fun k =>
    let c := s.core k
    let e := c.src a
    if c.halted || c.waits [a] none then s
    else if e.extractLsb' 62 2 ≠ 2 ∨ e.extractLsb' 18 44 ≠ 0 then s.accessTrap k Code.xlate e
    else if e.toNat % 8 ≠ 0 then s.accessTrap k Code.range e
    else if s.readLoc (.core k (e.extractLsb' 0 18).toNat) 8 ≠ 0 then s.coreNext k (srcWords [a])
    else s)

/-- The request queue that stands for the sequencer's intake from cores (R157). -/
def intakeQ : Nat := 64

/-- `dispatch` (R151, R157). An address that is not local traps with XLATE, and one that is not aligned with RANGE, as R154 has
it for an access (DEDUCED, log entry 104). -/
def execDispatch (a : Src) (s : State) : Out :=
  .next (s.onCore fun k =>
    let c := s.core k
    let e := c.src a
    if c.halted || c.waits [a] none then s
    else if e.extractLsb' 62 2 ≠ 2 ∨ e.extractLsb' 18 44 ≠ 0 then s.accessTrap k Code.xlate e
    else if e.toNat % 64 ≠ 0 then s.accessTrap k Code.range e
    else
      let p : Packet := BitVec.ofNat 512 (s.readLoc (.core k (e.extractLsb' 0 18).toNat) 64)
      if !c.super && (p.byte 2).toNat ≠ c.lctx then s.privTrap k
      else if s.intake.any fun x => x.1 == k then s
      else
        ({ s with intake := s.intake ++ [(k, ((s.ctx c.lctx).map Ctx.aqi).getD 0, p)] } : State).coreNext k (srcWords [a]))

/-- `cfgw` (R151, R157). -/
def execCfgw (a d : Src) (s : State) : Out :=
  .next (s.onCore fun k =>
    let c := s.core k
    if c.halted || c.waits [a, d] none then s
    else if !c.super then s.privTrap k
    else if mgmtWritable (c.src a).toNat then (s.mgmtWrite (c.src a).toNat (c.src d)).coreNext k (srcWords [a, d])
    else s.accessTrap k Code.range (c.src a))

/-- One bit of a CRC-32C (R158). -/
def crcBit (c : Word) : Word := if c.getLsbD 0 then (c >>> 1) ^^^ 0x82F63B78 else c >>> 1

/-- Update a CRC-32C with `n` bytes, byte 0 first (R158). -/
def crcBytes : Nat → Word → Nat → Word
  | 0, c, _ => c
  | n + 1, c, v =>
    let c := c ^^^ BitVec.ofNat 32 (v % 256)
    crcBytes n (crcBit (crcBit (crcBit (crcBit (crcBit (crcBit (crcBit (crcBit c)))))))) (v / 256)

/-- `crc32c` (R158). -/
def execCrc32c (d : SReg) (a : Src) (n : BitVec 2) (s : State) : Out :=
  .next (s.onCore fun k =>
    let c := s.core k
    if c.halted || c.waits [a] (some d) then s
    else s.coreWrite k d ((crcBytes (2 ^ n.toNat) ((c.reg d).extractLsb' 0 32) (c.src a).toNat).zeroExtend 64) (srcWords [a]))

/-! ## qpop (R147) -/

/-- What a pop of a work queue gives. -/
inductive Popped where
  | value (v : Word)
  /-- The record has bit 31 set, and HEAD has passed it. -/
  | bad (v : Word)
  /-- The ring cannot be read. -/
  | fault (va : Nat)
  | wait
deriving DecidableEq, Repr

/-- The pop of R147, with HEAD advanced. Where the context does not exist the pop waits; a descriptor that does not translate reads
as zeros, SIZE is used as it stands whatever it is, and a record that does not translate is a fault (DESIGN CHOICE, log entry
106). -/
def State.popQueue (s : State) (lctx n : Nat) (nb : Bool) : Popped × State :=
  match s.ctx lctx with
  | none => (.wait, s)
  | some c =>
    let q := c.wqt + 32 * n
    let head := ((s.readVa lctx (q + 0x10) 4).getD 0)
    let tail := ((s.readVa lctx (q + 0x14) 4).getD 0)
    let size := ((s.readVa lctx (q + 0x08) 4).getD 0)
    let base := ((s.readVa lctx q 8).getD 0) % 2 ^ 57
    let term := ((s.readVa lctx (q + 0x18) 8).getD 0) % 2
    if s.vaPending lctx q 32 || (head ≠ tail && s.vaPending lctx (base + 4 * (head % size)) 4) then (.wait, s)
    else if head ≠ tail then
      match s.readVa lctx (base + 4 * (head % size)) 4 with
      | none => (.fault (base + 4 * (head % size)), s)
      | some r =>
        let s := (s.touchVa lctx (base + 4 * (head % size)) 4).writeVa lctx (q + 0x10) 4 ((head + 1) % 2 ^ 32)
        let r := BitVec.ofNat 32 r
        (if r.getLsbD 31 then .bad r else .value r, s)
    else if term = 1 then (.value 0xFFFFFFFF, s)
    else if nb then (.value 0x80000000, s)
    else (.wait, s)

/-- `qpop` on a cell: the pop and the write of its result are one issue (R108, R147). -/
def State.cellQpop (s : State) (t o : Nat) (d : Dst) (nb : Bool) (n : Nat) : State :=
  match s.popQueue (s.lctxOf t) n nb with
  | (.wait, _) => s
  | (.fault _, _) => s.cellScalar t o d [] 1 fun _ => .error Code.xlate
  | (.value v, s') =>
    let r := s'.cellScalar t o d [] 1 fun _ => .ok v
    if r.issues == s.issues || r.frozen t o then s.cellScalar t o d [] 1 fun _ => .ok v else r
  | (.bad _, s') =>
    let r := s'.cellScalar t o d [] 1 fun _ => .error Code.range
    if r.issues == s.issues then s else r

/-- `qpop` on a core (R147). -/
def State.coreQpop (s : State) (k : Nat) (d : Dst) (nb : Bool) (n : Nat) : State :=
  match d with
  | .o _ => s
  | .s r =>
    let c := s.core k
    if c.halted || c.waits [] (some r) then s
    else match s.popQueue c.lctx n nb with
      | (.wait, _) => s
      | (.fault va, _) => s.accessTrap k Code.xlate (BitVec.ofNat 64 va)
      | (.value v, s') => s'.coreWrite k r (v.zeroExtend 64) 1
      | (.bad v, s') => s'.accessTrap k Code.range (v.zeroExtend 64)

/-- `qpop` (R147). -/
def execQpop (d : Dst) (nb : Bool) (n : BitVec 4) (s : State) : Out :=
  match s.cur with
  | .cell t o => .next (s.cellQpop t o d nb n.toNat)
  | .core k => .next (s.coreQpop k d nb n.toNat)
  | _ => .next s

/-! ## spawn (R60, R148) -/

/-- `spawn`: the request goes to the Joiner (R49, R148). -/
def execSpawn (rec : BitVec 12) (s : State) : Out :=
  match s.curFiring with
  | some (t, o, _, _) => .next (({ s with requests := s.requests ++ [PReq.spawn t o rec.toNat] } : State).cellAdvance t o 1 1)
  | none => .next s

/-! ## amsg (R146) -/

/-- The fields of a template descriptor (R146). -/
def Tmpl.x (m : Tmpl) : Nat := (m.desc.extractLsb' 57 7).toNat
@[inherit_doc Tmpl.x] def Tmpl.y (m : Tmpl) : Nat := (m.desc.extractLsb' 51 6).toNat
@[inherit_doc Tmpl.x] def Tmpl.w0 (m : Tmpl) : Nat := (m.desc.extractLsb' 45 3).toNat
@[inherit_doc Tmpl.x] def Tmpl.h0 (m : Tmpl) : Nat := (m.desc.extractLsb' 44 1).toNat
@[inherit_doc Tmpl.x] def Tmpl.w1 (m : Tmpl) : Nat := (m.desc.extractLsb' 41 3).toNat
@[inherit_doc Tmpl.x] def Tmpl.h1 (m : Tmpl) : Nat := (m.desc.extractLsb' 40 1).toNat
@[inherit_doc Tmpl.x] def Tmpl.nseq (m : Tmpl) : Word := m.desc.extractLsb' 0 32

/-- Replace word `n` (32 bits) of an image. -/
def Packet.setWord (p : Packet) (n : Nat) (v : Word) : Packet :=
  (p &&& ~~~((BitVec.allOnes 32).zeroExtend 512 <<< (32 * n))) ||| (v.zeroExtend 512 <<< (32 * n))

/-- Patch half `h` of double `w`; 0 patches nothing (R146). -/
def patch (p : Packet) (w h : Nat) (v : Word) : Packet := if w = 0 then p else Packet.setWord p (2 * w + h) v

/-- The image that is sent: patched, with SEQ := NSEQ (R146). -/
def Tmpl.message (m : Tmpl) (a d : Word) : Packet :=
  Packet.setWord (patch (patch m.image m.w0 m.h0 a) m.w1 m.h1 d) 0 m.nseq

/-- The template with NSEQ incremented (R146). -/
def Tmpl.sent (m : Tmpl) : Tmpl := { m with desc := m.desc.extractLsb' 32 32 ++ (m.nseq + 1) }

/-- A template is invalid when its row is none (R146). -/
def Tmpl.invalid (m : Tmpl) : Bool := decide (m.y ≥ 48)

/-- Template `n` of the entry that a task holds on a tile (R146). A template that no record wrote has the descriptor's reset
value, 0, and an image of zeros (DESIGN CHOICE, log entry 103). -/
def Task.tmpl (k : Task) (tile n : Nat) : Tmpl :=
  ((k.tmpls.find? fun x => x.1 == tile && x.2.1 == n).map (·.2.2)).getD { image := 0, desc := 0 }

/-- A task with template `n` of its entry on a tile replaced. -/
def Task.setTmpl (k : Task) (tile n : Nat) (m : Tmpl) : Task :=
  { k with tmpls := (tile, n, m) :: k.tmpls.filter fun x => !(x.1 == tile && x.2.1 == n) }

/-- Whether a message of a sender's lane waits for room in its inbox (R146, R224). -/
def State.laneWaits (s : State) (from_ entry : Nat) : Bool :=
  s.msgs.any fun m => m.from_ == from_ && m.entry == entry && decide (m.due ≤ s.fc)

/-- Key of the message port in `Tile.lastIssue`. -/
def msgPort : Nat := 9

/-- Whether a cell actor has an `amsg` ready in this fc (R146). -/
def State.amsgReady (s : State) (t o : Nat) (p : Op) : Bool :=
  let tile := tileKey p.place.x p.place.y
  match p.kind with
  | .cell c => match c.firing with
    | some f =>
      decide (f.nextAt ≤ s.fc) && !f.saved && f.fwd.isNone && c.trapped.isNone && p.fault.isNone && s.goesOn t &&
        !s.unitDone tile p.place.sub &&
        (match c.instrAt f.pc with
         | some (.amsg a d _) => (s.readSrcs t o c f.lastHdr [] [a, d]).isSome
         | _ => false)
    | none => false
  | _ => false

/-- The cell that a tile's message port serves for an entry: the lowest one ready (R146). -/
def State.amsgCell (s : State) (tile entry : Nat) : Option (Nat × Nat × Nat) :=
  if s.laneWaits tile entry then none
  else ((s.opsAt tile entry).filter fun x => s.amsgReady x.1 x.2.1 x.2.2).foldl (fun best x => match best with
    | none => some (x.1, x.2.1, x.2.2.place.sub)
    | some b => if x.2.2.place.sub < b.2.2 then some (x.1, x.2.1, x.2.2.place.sub) else some b) none

/-- The cell that a tile's message port serves in this fc: round robin among the entries, from the one after that served
last (R146). -/
def State.amsgTurn (s : State) (tile : Nat) : Option (Nat × Nat × Nat) :=
  if aget msgPort (s.tile tile).lastIssue == some s.fc then none
  else (List.range 8).findSome? fun i => s.amsgCell tile (((s.tile tile).msgRr + 1 + i) % 8)

/-- `amsg` on a cell (R146). -/
def State.cellAmsg (s : State) (t o : Nat) (a d : Src) (n : Nat) : State :=
  s.withOperands t o [a, d] none fun _ _ l =>
    match s.task t, s.op t o with
    | some k, some p =>
      let tile := tileKey p.place.x p.place.y
      let m := k.tmpl tile n
      let entry := k.entryAt tile
      if Packet.ctx m.image ≠ k.lctx ∨ m.invalid then s.freeze t o Code.priv (BitVec.ofNat 32 n)
      else if (s.amsgTurn tile).map (fun x => (x.1, x.2.1)) ≠ some (t, o) then s
      else
        let msg : Msg :=
          { from_ := tile, entry := entry, x := m.x, y := m.y, packet := m.message (l.getD 0 0) (l.getD 1 0),
            target := s.targetOf (some t) k.lctx m.x m.y (Packet.engine m.image), due := s.after t o 1, seqSender := false }
        let s := s.cellPops t o (popsOf [a, d])
        let s := { s with msgs := s.msgs ++ [msg] }
        let s := s.modTask t fun k => k.setTmpl tile n m.sent
        let s := s.modTile tile fun y => { y with msgRr := entry, lastIssue := aset msgPort s.fc y.lastIssue }
        s.cellAdvance t o (srcWords [a, d]) 1
    | _, _ => s

/-- `amsg` on a core (R146, R156). -/
def State.coreAmsg (s : State) (k : Nat) (a d : Src) (n : Nat) : State :=
  let c := s.core k
  let m := c.tmpls.getD n { image := 0, desc := 0 }
  if c.halted || c.waits [a, d] none then s
  else if Packet.ctx m.image ≠ c.lctx ∨ m.invalid then s.privTrap k
  else if s.laneWaits (coreFrom k) 0 then s
  else
    let msg : Msg :=
      { from_ := coreFrom k, entry := 0, x := m.x, y := m.y,
        packet := m.message ((c.src a).extractLsb' 0 32) ((c.src d).extractLsb' 0 32),
        target := s.targetOf none c.lctx m.x m.y (Packet.engine m.image), due := s.fc + 1, seqSender := false }
    let copy := m.image.engine == 2
    (({ s with msgs := s.msgs ++ [msg] } : State).modCore k fun c =>
      { c with tmpls := lmod n Tmpl.sent c.tmpls, copies := if copy then c.copies + 1 else c.copies,
               cmds := if copy then c.cmds else c.cmds + 1 }).coreNext k (srcWords [a, d])

/-- `amsg` (R146). -/
def execAmsg (a d : Src) (n : BitVec 4) (s : State) : Out :=
  match s.cur with
  | .cell t o => .next (s.cellAmsg t o a d n.toNat)
  | .core k => .next (s.coreAmsg k a d n.toNat)
  | _ => .next s

/-! ## tlwait (R149) -/

/-- `tlwait` on a cell. -/
def State.cellTlwait (s : State) (t o : Nat) (a : Src) (n : Nat) : State :=
  s.withOperands t o [a] none fun _ _ l =>
    if !s.hasCounter (s.lctxOf t) n then s.freeze t o Code.priv (BitVec.ofNat 32 n)
    else if s.tlBad n then s.poisonOut t o (popsOf [a]) (poisonTok 0 (s.origin t o Code.invalid))
    else if ((s.tl n).extractLsb' 0 32 - l.getD 0 0).toNat < 2 ^ 31 then
      (s.cellPops t o (popsOf [a])).cellAdvance t o (srcWords [a]) 1
    else s

/-- `tlwait` on a core. -/
def State.coreTlwait (s : State) (k : Nat) (a : Src) (n : Nat) : State :=
  let c := s.core k
  if c.halted || c.waits [a] none then s
  else if !s.hasCounter c.lctx n then s.privTrap k
  else if s.tlBad n then (s.coreTrap k Code.invalid 0).issued
  else if (c.src a).toNat ≤ (s.tl n).toNat then s.coreNext k (srcWords [a])
  else s

/-- `tlwait` (R149). -/
def execTlwait (a : Src) (c : BitVec 12) (s : State) : Out :=
  match s.cur with
  | .cell t o => .next (s.cellTlwait t o a c.toNat)
  | .core k => .next (s.coreTlwait k a c.toNat)
  | _ => .next s

/-! ## wrap.commit (R269) -/

/-- Stores of an operator that are not acknowledged. -/
def Op.storesOut (p : Op) : Bool :=
  match p.kind with
  | .mem m => m.accs.any (·.write)
  | .spline x => x.accs.any (·.write)
  | .fibre f => f.accs.any (·.write)
  | _ => false

/-- Whether a store or rmw of a task awaits acknowledgement (R308, R371). -/
def Task.storesOut (k : Task) : Bool := k.ops.any Op.storesOut

/-- `wrap.commit`: the bay's write-combining buffers are drained, as for any release at PKG (R269, R357). An actor that has
committed does nothing more. -/
def execWrapCommit (s : State) : Out :=
  match s.curFiring with
  | none => .next s
  | some (t, o, c, _) =>
    if c.committed then .next (s.cellAdvance t o 1 1)
    else if ((s.task t).map Task.storesOut).getD true then .next s
    else .next (((s.drainAll t).modCell t o fun c => { c with committed := true }).cellAdvance t o 1 1)

end Sys2Proof.Machine
end

