-- ==== Sys2Proof/Machine/MemNode.lean ====
section
/-! DEFINITION. Memory nodes and fences (17_jacobi_on_device.md R306 to R308, 18_memory_spaces.md, 19_memory_nodes.md,
20_ordering.md). -/
namespace Sys2Proof.Machine

/-! ## Ports and kinds (R331, R332) -/

/-- Ports of a memory node (R332). -/
def mpAi : Nat := 2
@[inherit_doc mpAi] def mpOut : Nat := 3
@[inherit_doc mpAi] def mpDn : Nat := 4
@[inherit_doc mpAi] def mpOd : Nat := 5

/-- MOP 0, 2 or 3 (R334). -/
def Mem.isLoad (m : Mem) : Bool :=
  match m.mop with
  | .ld | .ldfeClr | .ldfeKeep => true
  | _ => false
/-- MOP 1, 4 or 5 (R334). -/
def Mem.isStore (m : Mem) : Bool :=
  match m.mop with
  | .st | .stfe | .rmw => true
  | _ => false
/-- MOP 2 to 4 (R318). -/
def Mem.isFe (m : Mem) : Bool :=
  match m.mop with
  | .ldfeClr | .ldfeKeep | .stfe => true
  | _ => false
/-- Tokens of one element: a double moves as two (R331). -/
def Mem.ntok (m : Mem) : Nat := if m.size = 8 then 2 else 1

/-- The memory node of an operator that may issue: its task runs, it is not frozen, and the fc of its block after its last
access has come (R274, R333). -/
def State.memOpen (s : State) (t o : Nat) : Option (Task × Op × Mem) :=
  match s.task t, s.op t o, s.mnode t o with
  | some k, some p, some m => if s.live t && p.fault.isNone && s.unitTicks t o && decide (m.issueAt ≤ s.fc) then some (k, p, m) else none
  | _, _, _ => none

/-! ## Ordering edges (R81, R308) -/

/-- Pop the head of a channel. -/
def State.popChan (s : State) (t o c : Nat) : State := (s.modChan t c fun ch => ch.popped_ s.fc (s.after t o 1)).balance t (-1)
/-- Push a done token on an ordering edge. -/
def State.pushEdge (s : State) (t o c : Nat) : State :=
  ((s.modChan t c fun ch => ch.push s.fc (s.after t o 1) (ctrlTok true)).balance t 1).busy (s.lctxOf t)
/-- Ordering edges that arrive at `od`. -/
def Task.edgesIn (k : Task) (o : Nat) : List Nat :=
  (List.range k.chans.length).filter fun c => ((k.chans[c]?).map fun ch => ch.consOp == o && ch.consPort == mpOd).getD false
/-- Ordering edges that leave `dn`. -/
def Task.edgesOut (k : Task) (o : Nat) : List Nat :=
  (List.range k.chans.length).filter fun c => ((k.chans[c]?).map fun ch => ch.prodOp == o && ch.prodPort == mpDn).getD false

/-- The done tokens of the incoming edges are taken once one has arrived on every edge (R308, R338, R360). -/
def State.takeEdges (s : State) (t o : Nat) : Option State :=
  match s.task t, s.mnode t o with
  | some k, some m =>
    if m.ordered then some s
    else
      let es := k.edgesIn o
      if es.all fun c => ((k.chans[c]?).bind (·.head s.fc)).isSome then
        some ((es.foldl (fun s c => s.popChan t o c) s).modMem t o fun m => { m with ordered := true })
      else none
  | _, _ => none

/-- A done token goes out on every edge, in one fc. -/
def State.sendEdges (s : State) (t o : Nat) : State :=
  match s.task t with
  | some k => ((k.edgesOut o).foldl (fun s c => s.pushEdge t o c) s).modMem t o fun m => { m with doneOrder := true }
  | none => s

/-- A fence relays done tokens once every incoming edge has delivered one; it fires once in each placement (R338). -/
def execFenceFire (t o : Nat) (s : State) : Host.Outcome State Fault Refusal :=
  match s.memOpen t o with
  | some (_, _, m) =>
    if m.mop == .fence && !m.doneOrder then
      match s.takeEdges t o with
      | some s' => .next ((s'.sendEdges t o).gotDone t o)
      | none => .next s
    else .next s
  | none => .next s

/-! ## Accesses and their tokens (R10, R333, R334) -/

/-- Reserve depth in an output port for the tokens of an access (R10). -/
def State.reserve (s : State) (t o p n : Nat) : State :=
  match s.outTo t o p with
  | .to t' c => s.modChan t' c fun ch => { ch with reserved := ch.reserved + n }
  | _ => s
/-- Release it. -/
def State.unreserve (s : State) (t o p n : Nat) : State :=
  match s.outTo t o p with
  | .to t' c => s.modChan t' c fun ch => { ch with reserved := ch.reserved - n }
  | _ => s

/-- An access of a node, with nothing read or written yet. -/
def Mem.access (m : Mem) (fc : Nat) (l : Loc) (tail : Option (Nat × Loc)) (due : Nat) : Acc :=
  { k := m.next, loc := l, tail := tail, bytes := m.size, write := false, val := 0, at_ := fc, done := false, poison := none,
    due := due, hdr := 0 }

/-- Tokens of an access that has been read (R331, R334): poison and forwarded stop tokens are one token. What is loaded is
data with header 0, as R334 says, also where the bytes are those of a `.stream` of R76 (log entry 94). -/
def Mem.tokens (m : Mem) (a : Acc) (v : Nat) : List Token :=
  match a.poison with
  | some w => [narrowTok a.hdr w]
  | none =>
    if a.hdr ≠ 0 then [narrowTok a.hdr 0]
    else if m.size = 128 then [{ hdr := 0, count := 0, pay := BitVec.ofNat 1024 v }]
    else if m.size = 8 then [narrowTok 0 (BitVec.ofNat 32 v), narrowTok 0 (BitVec.ofNat 32 (v / 2 ^ 32))]
    else [narrowTok 0 (BitVec.ofNat 32 v)]

/-- Push the tokens of an access; one beyond the producer's bound freezes the node (R39, R331). -/
def State.pushEach (s : State) (t o : Nat) : List Token → State
  | [] => s
  | tok :: rest =>
    match s.pushRate t o mpOut tok with
    | some d => s.freeze t o Code.rate d
    | none => (s.pushTok t o mpOut tok).pushEach t o rest

/-- The head access of a node delivers its tokens (R10, R333). Where no channel takes them, poison is held as a sink holds
one (R135). A read from memory discards the node's lines of the same bytes, which may be older (R355). -/
def State.deliver (s : State) (t o : Nat) (m : Mem) (a : Acc) : State :=
  let v := if a.done then a.val.toNat else s.nodeRead t (s.tileOf t o) a.keys
  let s := (s.modMem t o fun m => { m with
    accs := m.accs.drop 1,
    lines := if a.done then m.lines else m.lines.filter fun l => !(a.keys.any fun x => x / 128 * 128 == l.line) }).busy (s.lctxOf t)
  if s.outBound t o mpOut then ((s.unreserve t o mpOut m.ntok).resetRates t o).pushEach t o (m.tokens a v)
  else match a.poison with
    | some w => s.sinkPoison t o w
    | none => s

/-- After its last data token a node pushes its done token on `o0`, which takes a token of depth of its own; a node that
is a sink then holds it (R10, R371). -/
def State.memDone (s : State) (t o : Nat) (m : Mem) : State :=
  if !m.inputDone || m.doneData || !m.accs.isEmpty || !s.live t then s
  else if s.outBound t o mpOut then
    if s.canPush t o mpOut 1 then (s.pushTok t o mpOut (doneTok 0)).modMem t o fun m => { m with doneData := true } else s
  else (s.gotDone t o).modMem t o fun m => { m with doneData := true }

/-- A read of a memory node returns (R10). A read of remote memory returns with its acknowledgement (R405). -/
def State.memDelivery (s : State) (t o : Nat) (m : Mem) : State :=
  match m.accs with
  | [] => s.memDone t o m
  | a :: _ =>
    if a.write || decide (a.due > s.fc) || (!a.done && a.keys.any isRemote) ||
        (s.outBound t o mpOut && !s.hasRoom t o mpOut (m.tokens a 0).length) then s
    else s.deliver t o m a

/-- The node has issued access number k: the next one may follow in the next fc (R333). An access is a firing (R11). -/
def State.memIssued (s : State) (t o : Nat) (accs : List Acc) : State :=
  ((s.modMem t o fun m =>
    { m with next := m.next + 1, issueAt := s.after t o 1, waitFrom := none, stall := none, accs := m.accs ++ accs }).busy
      (s.lctxOf t)).countFiring t o

/-- The node has consumed a token that makes no access. -/
def State.memPassed (s : State) (t o : Nat) (accs : List Acc) : State :=
  (s.modMem t o fun m => { m with issueAt := s.after t o 1, accs := m.accs ++ accs }).busy (s.lctxOf t)

/-- A poison access: no done token will go out on the edges (R362). -/
def State.memBad (s : State) (t o : Nat) (w : Word) : State := s.modMem t o fun m => { m with bad := m.bad.or (some w) }

/-- Poison in the place of an access: pushed on `o0` by a load or an rmw with RET, held as a sink holds one otherwise
(R328, R333, R334). -/
def State.memFault (s : State) (t o : Nat) (m : Mem) (hdr : Half) (w : Word) (due : Nat) : State :=
  let s := s.memBad t o w
  if (m.isLoad || m.ret) && s.outBound t o mpOut then
    let a := m.access s.fc (.hbm 0) none due
    (s.reserve t o mpOut m.ntok).memIssued t o [{ a with done := true, poison := some w, hdr := hdr }]
  else (s.sinkPoison t o w).memIssued t o []

/-- The header of a poison token of the node's own (R32). -/
def ownPoison : Half := mkHdr Kind.poison 0 0

/-! ## REPLAY (R329, R330) -/

/-- The page request of a stalled access (R329). -/
def pageRecord (va lctx pasid tries stage kind graph o : Nat) (tag : Word) (origin : Word) : BitVec 256 :=
  let d1 : Dbl := (BitVec.ofNat 8 lctx ++ ((0 : BitVec 4) ++ BitVec.ofNat 20 pasid) : BitVec 32) ++ tag
  let d2 : Dbl := (BitVec.ofNat 16 graph ++ BitVec.ofNat 16 o : BitVec 32) ++
    ((0 : BitVec 12) ++ (BitVec.ofNat 4 tries ++ (BitVec.ofNat 8 stage ++ BitVec.ofNat 8 kind)) : BitVec 32)
  (origin.zeroExtend 64) ++ (d2 ++ (d1 ++ BitVec.ofNat 64 va))

/-- A faulting attempt of a node with REPLAY: a page request and a stall, or REPLAY_LIMIT at the eighth (R329). -/
def State.replay (s : State) (t o stage va kind : Nat) : State :=
  match s.task t, s.mnode t o with
  | some k, some m =>
    let tries := (m.stall.map (·.tries)).getD 0 + 1
    let st := faultStage stage
    if tries ≥ 8 then s.freeze t o Code.replayLimit (BitVec.ofNat 32 (tries * 2 ^ 16 + st * 2 ^ 8 + kind))
    else
      let tag := BitVec.ofNat 32 s.nextId
      let rec_ := pageRecord va k.lctx ((s.ctx k.lctx).map Ctx.pasid |>.getD 0) tries st kind k.graphIndex o tag
        (s.origin t o Code.xlate)
      let host := stage == hostFault
      let s := s.bumpId.modMem t o fun m =>
        { m with stall := some { va := BitVec.ofNat 64 va, tries := tries, tag := tag, stage := st, waiting := true,
                                 refused := false } }
      let s := { s with pageReqs := s.pageReqs ++ [{ tag := tag, t := t, o := o, host := host, record := rec_ }] }
      let aqi := ((s.ctx k.lctx).map Ctx.aqi).getD 0
      let ask : Aqi → Aqi := fun a => { a with pageReqs := a.pageReqs ++ [rec_] }
      if host then s else { s with aqis := amod aqi ask s.aqis }
  | _, _ => s

/-- A place of a node's space, or why the access fails: spaces 2 and 3 are HBM, and host or remote memory (R322). -/
inductive MAt where
  | at_ (l : Loc) (tail : Option (Nat × Loc))
  /-- The address whose miss the access waits for no more, if it had one. -/
  | fault (va : Option Nat)
  | wait (s : State)

/-- Whether a place is one that a space holds (R322). -/
def spaceOk (space : Nat) (l : Loc) : Bool :=
  match l with
  | .hbm _ => space == 2
  | .host _ | .remote _ => space == 3
  | .shm _ => space == 1
  | _ => false

/-- The place of an access to spaces 1 to 3 at a virtual address (R319, R324, R328, R329). -/
def State.memPlace (s : State) (t o : Nat) (p : Op) (m : Mem) (va kind : Nat) : MAt :=
  let die := dieOf p.place.x p.place.y
  let lctx := s.lctxOf t
  let headOk := match s.xlate die (.op t o) lctx va (min m.size (4096 - va % 4096)) kind with
    | .at_ l => spaceOk m.space l
    | _ => true
  if (m.stall.map (·.refused)).getD false || !headOk then .fault none
  else match s.xlatePlace die (.op t o) lctx va m.size kind with
    | .miss v => .wait ((s.addMiss die (.op t o) lctx v kind).busy lctx)
    | .fault g v =>
      if m.replay && !tgtWrong m.space g then .wait ((s.dropMiss die (.op t o) lctx v).replay t o g v kind) else .fault (some v)
    | .at_ l tail =>
      if spaceOk m.space l && (tail.map fun x => spaceOk m.space x.2).getD true then .at_ l tail else .fault none

/-- XLATE in the place of an access whose translation has failed (R328). -/
def State.memXlate (s : State) (t o : Nat) (p : Op) (m : Mem) (va : Option Nat) : State :=
  let s := match va with
    | some v => s.dropMiss (dieOf p.place.x p.place.y) (.op t o) (s.lctxOf t) v
    | none => s
  s.memFault t o m ownPoison (s.origin t o Code.xlate) (s.after t o 1)

/-- A remote read leaves on the span transport; its bytes come back together (R405). -/
def State.spanRead (s : State) (t o : Nat) (a : Acc) : State :=
  if a.keys.any isRemote then s.addSpan (s.spanNew t o a.k false a.loc.key a.bytes) else s

/-! ## Memory-tile accesses (R316, R318, R335, R337) -/

/-- The bytes of element `e` in the node's region: the tile and the address in it, unless they pass its end (R316). -/
def Task.tileAt (k : Task) (m : Mem) (e : Nat) : Option (Nat × Nat) :=
  match k.regions.find? (·.num == m.base / 2 ^ 21) with
  | some r =>
    let off := m.base % 2 ^ 21 + e * m.size
    if off + m.size ≤ r.size then some (r.tile, r.base + off) else none
  | none => none

/-- Port order of accesses in one fc (R318). -/
def portRank (p : Op) (m : Mem) : Nat :=
  match m.mop with
  | .rmw => 0
  | .st | .stfe => 1
  | _ => 2 + p.place.sub % 2

/-- The element that a node's next access names. -/
def State.nextElem (s : State) (t o : Nat) (m : Mem) : Nat :=
  match s.headTok t o mpAi with
  | some tok => tok.word.toNat
  | none => m.next

/-- The input ports of a store or rmw node that are bound (R332). -/
def Task.storePorts (k : Task) (o : Nat) : List Nat := [0, 1, mpAi].filter fun p => (k.chanIn o p).isSome

/-- The tokens at the head of a port: two for a data double, one otherwise; a double with poison in its second half is
poison, and both its tokens are popped. `none` while one is missing. The first token tells the kind. -/
def State.elemAt (s : State) (t o : Nat) (m : Mem) (port : Nat) : Option (List Token) :=
  match s.headTok t o port with
  | none => none
  | some a =>
    if port = mpAi || m.ntok = 1 || !a.isData then some [a]
    else match s.nthTok t o port 1 with
      | none => none
      | some b => if b.isPoison then some [b, a] else some [a, b]

/-- The elements of a list of ports. -/
def State.elemsAt (s : State) (t o : Nat) (m : Mem) : List Nat → Option (List (Nat × List Token))
  | [] => some []
  | p :: rest =>
    match s.elemAt t o m p, s.elemsAt t o m rest with
    | some l, some r => some ((p, l) :: r)
    | _, _ => none

/-- The kind of a token, with data and audit data one kind (R334). -/
def tokClass (t : Token) : Nat := if t.isData then 0 else t.kind

/-- The first head that makes the node MALFORMED (R334): a scale token, kinds that do not agree, or a double whose second
token is neither data nor poison. -/
def badHead (l : List (Nat × List Token)) : Option (Nat × Token) :=
  let kind := ((l.head?).bind fun x => x.2.head?).map tokClass
  l.findSome? fun (p, toks) =>
    match toks with
    | [] => none
    | [a] => if tokClass a = Kind.scale ∨ some (tokClass a) ≠ kind then some (p, a) else none
    | a :: b :: _ =>
      if some (tokClass a) ≠ kind then some (p, a)
      else if a.isData && !b.isData then some (p, b) else none

/-- Whether a node's next access has come to its port: the node may issue, its edges have delivered, and its tokens and
depth are there. -/
def State.accessReady (s : State) (t o : Nat) : Option (Task × Op × Mem) :=
  match s.memOpen t o with
  | none => none
  | some (k, p, m) =>
    let edges := m.ordered || (k.edgesIn o).all fun c => ((k.chans[c]?).bind (·.head s.fc)).isSome
    let ready := if m.isLoad then
        s.canReserve t o mpOut m.ntok && (if (k.chanIn o mpAi).isNone then decide (m.next < m.count)
          else ((s.headTok t o mpAi).map fun tok => tok.isData && decide (tok.word.toNat < m.count)).getD false)
      else match s.elemsAt t o m (k.storePorts o) with
        | none => false
        | some l => (badHead l).isNone && ((l.head?).bind fun x => x.2.head?).map (·.isData) == some true &&
            (!m.ret || s.canReserve t o mpOut m.ntok)
    if m.mop != .fence && !m.inputDone && !((m.stall.map (·.waiting)).getD false) && edges && ready then some (k, p, m) else none

/-- Whether a write-port or rmw access of one of these granules could be accepted in this fc: it goes before a read (R318).
-/
def State.writeAhead (s : State) (tile : Nat) (gs : List Nat) : Bool :=
  s.tasks.any fun (t, k) => (List.range k.ops.length).any fun o => match s.accessReady t o with
    | some (k, _, m) => m.isStore && m.space == 0 && match k.tileAt m (s.nextElem t o m) with
      | some (tl, a) => tl == tile && (granules tl a m.size).any gs.contains && !s.rmwHolds tl a m.size &&
          (m.mop != .stfe || (granules tl a m.size).all fun g => s.tag g != 1)
      | none => false
    | none => false

/-- Whether the state of every granule admits an ldfe or stfe (R318). An stfe finds a granule full that an `ldfe.clr` of the
same fc reads, since its port goes first. -/
def State.feAdmits (s : State) (m : Mem) (tile : Nat) (gs : List Nat) : Bool :=
  match m.mop with
  | .stfe => gs.all (fun g => s.tag g != 1) && !s.clearedNow tile gs
  | _ => gs.all fun g => s.tag g != 0

/-- Insert by a key. -/
def insertBy {α : Type} (f : α → Nat) (x : α) : List α → List α
  | [] => [x]
  | y :: t => if f x < f y then x :: y :: t else y :: insertBy f x t
/-- Sort by a key; equals keep their order. -/
def sortBy {α : Type} (f : α → Nat) (l : List α) : List α := l.foldl (fun acc x => insertBy f x acc) []

/-- The ldfe and stfe accesses that the state of one of these granules admits, in the order in which they began to wait,
ties in port order and then by operator (R335): task and operator. One that comes in this fc begins to wait now. -/
def State.feWaiters (s : State) (tile : Nat) (gs : List Nat) : List (Nat × Nat) :=
  let all := s.tasks.flatMap fun (t, k) => (List.range k.ops.length).filterMap fun o =>
    match s.accessReady t o with
    | some (k, p, m) =>
      match k.tileAt m (s.nextElem t o m) with
      | some (tl, a) =>
        let mine := granules tile a m.size
        if m.space == 0 && m.isFe && tl == tile && mine.any gs.contains && s.feAdmits m tile mine then
          some ((m.waitFrom.getD s.fc) * 4 + portRank p m, t, o)
        else none
      | none => none
    | none => none
  (sortBy (·.1) all).map (·.2)

/-- Whether it is the turn of a node's ldfe or stfe: no other that could go began to wait before it (R335). -/
def State.feTurn (s : State) (t o tile : Nat) (gs : List Nat) : Bool :=
  match s.feWaiters tile gs with
  | [] => true
  | x :: _ => x == (t, o)

/-- A node waits for full-empty state, from the fc in which it began to (R335). -/
def State.feWait (s : State) (t o : Nat) : State :=
  s.modMem t o fun m => { m with waitFrom := some (m.waitFrom.getD s.fc) }

/-! ## Loads -/

/-- Whether an earlier read of the node still goes to memory for one of these bytes: the later read then sees no line
fetched before it (R355). -/
def Mem.readBefore (m : Mem) (ks : List Nat) : Bool := m.accs.any fun a => !a.write && !a.done && a.keys.any ks.contains

/-- Issue the read of element `e` of a load node; `s₁` has the index token popped, `s` not. -/
def State.loadElem (s s₁ : State) (t o : Nat) (k : Task) (p : Op) (m : Mem) (e : Nat) : State :=
  let go (s₁ : State) (a : Acc) : State := ((s₁.reserve t o mpOut m.ntok).spanRead t o a).memIssued t o [a]
  if m.space = 0 then
    match k.tileAt m e with
    | none => s₁.memFault t o m ownPoison (s.origin t o Code.range) (s.after t o 2)
    | some (tile, a) =>
      let gs := granules tile a m.size
      if m.mop != .ld && !(s.feAdmits m tile gs && s.feTurn t o tile gs) then s.feWait t o
      else match s.badGranule gs with
        | some g =>
          if s.writeAhead tile gs then s
          else (s₁.countTags tile gs).memFault t o m ownPoison (s.granuleOrigin k.lctx tile g) (s.after t o 2)
        | none =>
          let acc := { m.access s.fc (.tile tile a) none (s.after t o 2) with
                       done := true, val := BitVec.ofNat 1024 (s.readLoc (.tile tile a) m.size) }
          let s₁ := go s₁ acc
          if m.mop == .ldfeClr then s₁.setTags gs 0 else s₁
  else
    match s.memPlace t o p m (m.base + e * m.size) 0 with
    | .wait s' => s'
    | .fault v => s₁.memXlate t o p m v
    | .at_ l tail =>
      let acc := m.access s.fc l tail (s.after t o 1)
      let s₁ := if m.acq then s₁.modMem t o fun m => { m with lines := [] } else s₁
      match (if m.acq || m.space = 1 || m.readBefore acc.keys then none else s.lineRead t o m acc.keys) with
      | some v => go s₁ { acc with done := true, val := BitVec.ofNat 1024 v }
      | none => go (s₁.touchKeys acc.keys) acc

/-- A load node takes its next index, or counts on (R333). -/
def State.loadNext (s : State) (t o : Nat) (k : Task) (p : Op) (m : Mem) : State :=
  if (k.chanIn o mpAi).isNone then
    if m.next ≥ m.count then s.modMem t o fun m => { m with inputDone := true }
    else if s.canReserve t o mpOut m.ntok then s.loadElem s t o k p m m.next else s
  else match s.behindDone t o mpAi, s.headTok t o mpAi with
    | some tok, _ => s.malformed t o mpAi tok
    | none, none => s
    | none, some tok =>
      let s₁ := s.popTok t o mpAi
      let a := { m.access s.fc (.hbm 0) none (s.after t o 1) with done := true, hdr := tok.hdr }
      if tok.kind = Kind.done then (s₁.memPassed t o []).modMem t o fun m => { m with inputDone := true }
      else if tok.kind = Kind.scale then s.malformed t o mpAi tok
      else if !s.canReserve t o mpOut m.ntok then s
      else if tok.kind = Kind.stop then
        if s.outBound t o mpOut then (s₁.reserve t o mpOut m.ntok).memPassed t o [a] else s₁.memPassed t o []
      else if tok.isPoison then s₁.memFault t o m tok.hdr tok.word (s.after t o 1)
      else if tok.word.toNat ≥ m.count then s₁.memFault t o m ownPoison (s.origin t o Code.range) (s.after t o 1)
      else s.loadElem s₁ t o k p m tok.word.toNat

/-- A load node issues its next read against a free, unreserved token of depth (R10, R333, R334). -/
def execLoadReadIssue (t o : Nat) (s : State) : Host.Outcome State Fault Refusal :=
  match s.memOpen t o with
  | none => .next s
  | some (k, p, m) =>
    if !m.isLoad || m.inputDone || (m.stall.map (·.waiting)).getD false then .next s
    else match s.takeEdges t o with
      | none => .next s
      | some s' => .next (s'.loadNext t o k p m)

/-! ## Stores and rmw -/

/-- Pop the elements. -/
def State.popElems (s : State) (t o : Nat) : List (Nat × List Token) → State
  | [] => s
  | (p, l) :: rest => (l.foldl (fun s _ => s.popTok t o p) s).popElems t o rest

/-- The number of an element. -/
def Mem.elemVal (m : Mem) (l : List Token) : Nat :=
  match l with
  | a :: b :: _ => a.word.toNat + 2 ^ 32 * b.word.toNat
  | [a] => if m.size = 128 then a.pay.toNat else a.word.toNat % 2 ^ (8 * m.size)
  | [] => 0

/-- Bit width of an rmw. -/
def Mem.bits (m : Mem) : Nat := 8 * m.size

/-- The new value of a wide rmw: word i for each i below COUNT (R307). -/
def wideRmw (fn : RmwFn) (old v : Nat) : Nat → Nat → Nat
  | 0, _ => old
  | n + 1, i =>
    let w (x : Nat) : Nat := x / 2 ^ (32 * i) % 2 ^ 32
    wideRmw fn (old - w old * 2 ^ (32 * i) + rmwNew fn 32 (w old) (w v) 0 * 2 ^ (32 * i)) v n (i + 1)

/-- The new value of an rmw with operand `v`, compared value `c` and COUNT of a wide operand (R307, R336). -/
def Mem.rmwVal (m : Mem) (old v c count : Nat) : Nat :=
  if m.size = 128 then wideRmw m.rfn old v (if count = 0 then 32 else min count 32) 0 else rmwNew m.rfn m.bits old v c

/-- Whether a remote write awaits its acknowledgement that a release of a task, issued at `at_`, covers: one of the task, or any
that had left the package by then, since it was performed at PKG (R357). -/
def State.remoteOut (s : State) (t at_ : Nat) : Bool :=
  s.spans.any fun x => x.write && ((x.t == t && x.core.isNone) || decide (x.since ≤ at_))

/-- A release by an access issued at `at_`: once the writes before it are performed at BAY the bay is drained, and at SYS
the remote acknowledgements have to come. The state, and whether the release may be performed in it (R308, R339, R357). -/
def State.release (s : State) (t o : Nat) (m : Mem) (at_ : Nat) : State × Bool :=
  if !m.rel then (s, true)
  else match s.task t with
    | none => (s, true)
    | some k =>
      if !k.relReady o at_ then (s, false)
      else
        let s := s.drainAll t
        (s, !(m.ascope == 3 && s.remoteOut t at_))

/-- Key of a memory tile's RMW port in `Tile.lastIssue`. -/
def rmwPort : Nat := 10

/-- An rmw node of a memory tile that could be accepted in this fc, with the fc in which its access arrived (R337): one whose
release has to wait (R357) is not. -/
def State.rmwReady (s : State) (t o : Nat) : Option Nat :=
  match s.accessReady t o with
  | none => none
  | some (k, _, m) =>
    if m.mop != .rmw || m.space ≠ 0 then none
    else match k.tileAt m (s.nextElem t o m) with
      | some (tile, a) =>
        if s.rmwHolds tile a m.size || !(s.release t o m s.fc).2 then none else some (lmax ((k.storePorts o).map fun p => s.headDue t o p))
      | none => none

/-- The rmw access that a memory tile's port accepts in this fc: round robin over the context entries, then the access that
arrived first, then the lower operator (R337). -/
def State.rmwTurn (s : State) (tile : Nat) : Option (Nat × Nat) :=
  if aget rmwPort (s.tile tile).lastIssue == some s.fc || !s.ticks tile then none
  else (List.range 8).findSome? fun i =>
    let ready := (s.opsAt tile (((s.tile tile).rmwRr + 1 + i) % 8)).filterMap fun x =>
      (s.rmwReady x.1 x.2.1).map fun at_ => (at_, x.1, x.2.1)
    ((sortBy (·.1) ready).head?).map (·.2)

/-- Whether the rmw that the port accepts in this fc touches one of these granules: it goes first, and holds a write back
(R318, R337). -/
def State.rmwFirst (s : State) (tile : Nat) (gs : List Nat) : Bool :=
  match s.rmwTurn tile with
  | none => false
  | some (t, o) => match s.task t, s.mnode t o with
    | some k, some m => match k.tileAt m (s.nextElem t o m) with
      | some (tl, a) => tl == tile && (granules tl a m.size).any gs.contains
      | none => false
    | _, _ => false

/-- A store or rmw of element `e` in a memory tile; `s₁` has the tokens popped. -/
def State.tileStore (s s₁ : State) (t o : Nat) (k : Task) (m : Mem) (e v c count : Nat) : State :=
  match k.tileAt m e with
  | none => s₁.memFault t o m ownPoison (s.origin t o Code.range) (s.after t o 2)
  | some (tile, a) =>
    let gs := granules tile a m.size
    if s.rmwHolds tile a m.size || (m.mop != .rmw && s.rmwFirst tile gs) then s
    else match s.release t o m s.fc with
      | (r, false) => r
      | (r, true) =>
        let drained (x : State) : State := if m.rel then x.drainAll t else x
        match m.mop with
        | .rmw =>
          if s.rmwTurn tile ≠ some (t, o) then r
          else
            let s₁ := (drained s₁).modTile tile fun y =>
              { y with rmwRr := k.entryAt tile, lastIssue := aset rmwPort s.fc y.lastIssue }
            match s.badGranule gs with
            | some g =>
              let s₁ := s₁.countTags tile gs
              if m.ret then s₁.memFault t o m ownPoison (s.granuleOrigin k.lctx tile g) (s.after t o 2) else s₁.memIssued t o []
            | none =>
              let old := s.readLoc (.tile tile a) m.size
              let s₁ := s₁.modTile tile fun y => { y with rmws := y.rmws ++
                [{ at_ := s.after t o 2, t := t, o := o, k := m.next, a := a, bytes := m.size, val := m.rmwVal old v c count,
                   written := false }] }
              let s₁ := if m.ret then s₁.reserve t o mpOut m.ntok else s₁
              s₁.memIssued t o [{ m.access s.fc (.tile tile a) none (s.after t o 2) with
                                  write := true, done := true, val := BitVec.ofNat 1024 old }]
        | .stfe =>
          if s.feAdmits m tile gs && s.feTurn t o tile gs then (((drained s₁).tileWrite tile a m.size v).memIssued t o [])
          else s.feWait t o
        | _ => ((drained s₁).tileWrite tile a m.size v).memIssued t o []

/-- The address of element `e`: for a wide rmw the 128-byte-aligned line at it (R307, R333). -/
def Mem.elemVa (m : Mem) (e : Nat) : Nat :=
  let va := m.base + e * m.size
  if m.mop == .rmw && m.size = 128 then va / 128 * 128 else va

/-- A store or rmw of element `e` in spaces 1 to 3. The issue of a REL store writes what its tile's buffer holds (R327,
R339). -/
def State.vaStore (s s₁ : State) (t o : Nat) (p : Op) (m : Mem) (e v c count : Nat) : State :=
  match s.memPlace t o p m (m.elemVa e) (if m.mop == .rmw then 2 else 1) with
  | .wait s' => s'
  | .fault v => s₁.memXlate t o p m v
  | .at_ l tail =>
    let s₁ := if m.rel then s₁.drain t fun w => w.tile == tileKey p.place.x p.place.y else s₁
    let val : Nat := if m.mop == .rmw && m.size ≠ 128 then v + 2 ^ 64 * c else v
    let s₁ := if m.ret then s₁.reserve t o mpOut m.ntok else s₁
    s₁.memIssued t o [{ m.access s.fc l tail (s.after t o (if m.space = 1 then 1 else 2)) with
                        write := true, val := BitVec.ofNat 1024 val, hdr := BitVec.ofNat 16 count }]

/-- A poison element of a store or rmw: a plain memory-tile store poisons its granule, and any other node holds it (R318,
R334, R362). -/
def State.poisonStore (s s₁ : State) (t o : Nat) (k : Task) (m : Mem) (tok : Token) : State :=
  let held (w : Word) : State := ((s₁.sinkPoison t o w).memBad t o w).memIssued t o []
  if m.space = 0 && m.mop != .rmw && (k.chanIn o mpAi).isNone && decide (m.next < m.count) then
    match k.tileAt m m.next with
    | none => held (s.origin t o Code.range)
    | some (tile, a) =>
      if s.rmwHolds tile a m.size || s.rmwFirst tile (granules tile a m.size) then s
      else (held tok.word).tilePoison tile a m.size tok.word
  else held tok.word

/-- A store or rmw node takes its elements and issues an access (R334). -/
def State.storeNext (s : State) (t o : Nat) (k : Task) (p : Op) (m : Mem) (l : List (Nat × List Token)) : State :=
  let s₁ := (s.resetRates t o).popElems t o l
  match badHead l, l with
  | some (port, tok), _ => s.malformed t o port tok
  | none, (_, tok :: more) :: _ =>
    let tooMany := l.findSome? fun (port, toks) => if toks.length = 2 then
      ((s.resetRates t o).popRate t o port 2) else none
    match tooMany with
    | some d => ((s.resetRates t o).popTok t o 0).freeze t o Code.rate d
    | none =>
      if tok.kind = Kind.stop then s₁.memPassed t o []
      else if tok.kind = Kind.done then
        let s₁ := (s₁.memPassed t o []).modMem t o fun m => { m with inputDone := true }
        if k.isSink o then (s₁.gotDone t o).modMem t o fun m => { m with doneData := true } else s₁
      else if tok.isPoison then s.poisonStore s₁ t o k m tok
      else
        let e := s.nextElem t o m
        let v := m.elemVal (tok :: more)
        let c := ((l.find? (·.1 == 1)).map fun x => m.elemVal x.2).getD 0
        if e ≥ m.count then
          if (k.chanIn o mpAi).isNone then
            ((s₁.sinkPoison t o (s.origin t o Code.range)).memBad t o (s.origin t o Code.range)).memIssued t o []
          else s₁.memFault t o m ownPoison (s.origin t o Code.range) (s.after t o 1)
        else if m.space = 0 then s.tileStore s₁ t o k m e v c tok.count.toNat
        else s.vaStore s₁ t o p m e v c tok.count.toNat
  | none, _ => s

/-- A store, stfe or rmw node pops its input tokens and issues an access (R334). -/
def execStoreIssue (t o : Nat) (s : State) : Host.Outcome State Fault Refusal :=
  match s.memOpen t o with
  | none => .next s
  | some (k, p, m) =>
    if !m.isStore || (m.stall.map (·.waiting)).getD false then .next s
    else match (k.storePorts o).findSome? fun port => (s.behindDone t o port).map fun tok => (port, tok) with
      | some (port, tok) => .next (s.malformed t o port tok)
      | none =>
        if m.inputDone then .next s
        else match s.takeEdges t o with
          | none => .next s
          | some s' => match s'.elemsAt t o m (k.storePorts o) with
            | none => .next s'
            | some l => if m.ret && !s'.canReserve t o mpOut m.ntok then .next s' else .next (s'.storeNext t o k p m l)

/-! ## Acknowledgements (R308, R340) -/

/-- Change the access number `k` of a node, or remove it. -/
def Mem.ackAcc (m : Mem) (k : Nat) (f : Acc → Option Acc) : Mem :=
  { m with accs := m.accs.filterMap fun a => if a.k = k ∧ a.write then f a else some a }

/-- The write is acknowledged: with RET the old value remains to be pushed (R336). -/
def Mem.acked (m : Mem) (k : Nat) (old : Option Nat) : Mem :=
  m.ackAcc k fun a => match old with
    | some v => if m.ret then some { a with write := false, done := true, val := BitVec.ofNat 1024 v, hdr := 0 } else none
    | none => none

/-- A shared bank applies a store or rmw (R307, R308, R319). -/
def State.bankApply (s : State) (t o : Nat) (m : Mem) (a : Acc) : State :=
  let old := s.readKeys a.keys
  let v := if m.mop == .rmw then
      (if m.size = 128 then m.rmwVal old a.val.toNat 0 a.hdr.toNat
       else m.rmwVal old (a.val.toNat % 2 ^ 64) (a.val.toNat / 2 ^ 64) 0)
    else a.val.toNat
  ({ s with mem := writeKeys s.mem a.keys v } : State).modMem t o fun m => m.acked a.k (some old)

/-- Whether a line holds a byte of an access. -/
def WLine.holds (w : WLine) (a : Acc) : Bool := a.keys.any fun x => x / 128 * 128 == w.line && (aget (x % 128) w.bytes).isSome

/-- Whether a line of the bay's buffers holds a byte of an access, or one that has replaced it. -/
def Task.buffered (k : Task) (a : Acc) : Bool := k.wcb.any (·.holds a)

/-- Whether the buffer of a tile has room for the lines of an access (R326). -/
def State.wcbRoom (s : State) (k : Task) (tile : Nat) (a : Acc) : Bool :=
  let mine := k.wcb.filter (·.tile == tile)
  let new := (lnub [] (a.keys.map fun x => x / 128 * 128)).filter fun l => !(mine.any fun w => w.line == l)
  decide (mine.length + new.length ≤ s.lineShare tile (k.entryAt tile) 64)

/-- A write-combining buffer accepts a store: it is performed at BAY, and the lines of the tile's stream buffer change with
it (R308, R326, R327). A store of space 3 is acknowledged when it leaves the package (R340). -/
def State.wcbAccept (s : State) (t o : Nat) (p : Op) (a : Acc) : State :=
  let tile := tileKey p.place.x p.place.y
  let s := s.modTask t fun k => { k with wcb := wcbCount tile (a.keys.headD 0) (wcbStore tile s.fc a.at_ k.wcb a.keys a.val.toNat) }
  let s : State := { s with tasks := avals (fun _ k => k.putLines p.place.x p.place.y a.keys a.val.toNat) s.tasks }
  let s := s.modMem t o fun m =>
    if m.dscope == 0 && m.space != 3 then m.acked a.k none else m.ackAcc a.k fun a => some { a with done := true }
  match s.task t with
  | none => s
  | some k => (k.wcb.filter fun w => w.tile == tile && decide (w.bytes.length ≥ 128)).foldl
      (fun s w => s.drainTo t tile w.line) s

/-- The first write of a node that is not yet accepted, where its buffer or its bank could take it now. -/
def State.storeDue (s : State) (t : Nat) (p : Op) (m : Mem) : Option Acc :=
  match m.accs.find? fun a => a.write && !a.done, s.task t with
  | some a, some k =>
    if a.due > s.fc then none
    else if m.space = 1 then (if s.bankHolds a.keys then none else some a)
    else if m.space ≥ 2 && s.wcbRoom k (tileKey p.place.x p.place.y) a then some a
    else none
  | _, _ => none

/-- A bank or a write-combining buffer performs a store (R308, R319). -/
def State.takeStore (s : State) (t o : Nat) (p : Op) (m : Mem) (a : Acc) : State :=
  if m.space = 1 then s.bankApply t o m a else s.wcbAccept t o p a

/-- The first write of a node that a write-combining buffer holds is acknowledged once its line is written; the done token
of a node at its end drains its tile (R308, R327, R340). -/
def State.ackStore (s : State) (t o : Nat) (p : Op) (m : Mem) : State :=
  let tile := tileKey p.place.x p.place.y
  match m.accs.find? fun a => a.write && a.done, s.task t with
  | some a, some k =>
    if m.space < 2 then s
    else
      let s' := if k.buffered a && m.inputDone then
          (k.wcb.filter (·.holds a)).foldl (fun s w => s.drainTo t w.tile w.line) (s.drain t fun w => w.tile == tile)
        else s
      if ((s'.task t).map fun k => k.buffered a).getD false then s'
      else if m.dscope == 3 && s'.spans.any (fun x => x.write && x.t == t && a.keys.any fun y => y / 128 * 128 == x.key) then s'
      else s'.modMem t o fun m => m.acked a.k none
  | _, _ => s

/-- A store or rmw of a memory node is performed at its DSCOPE and acknowledged (R308). -/
def State.memAck (s : State) (t o : Nat) (p : Op) (m : Mem) : State :=
  match s.storeDue t p m with
  | some a => match s.release t o m a.at_ with
    | (s', true) => (s'.takeStore t o p m a).busy (s.lctxOf t)
    | (s', false) => s'.ackStore t o p m
  | none => s.ackStore t o p m

/-- An rmw accepted by a memory tile two fc earlier writes its new value: it is performed, and its granules are full (R318,
R337). -/
def State.rmwLand (s : State) (tile : Nat) (e : RmwFlight) : State :=
  (s.tileWrite tile e.a e.bytes e.val).modMem e.t e.o fun m => m.ackAcc e.k fun a =>
    if m.ret then some { a with write := false } else none

@[inherit_doc State.rmwLand]
def execRmwWrite (x y : Nat) (s : State) : Host.Outcome State Fault Refusal :=
  let tile := tileKey x y
  let s := s.modTile tile fun z => { z with rmws := z.rmws.filter fun e => !e.written || decide (e.at_ ≥ s.fc) }
  match (s.tile tile).rmws.find? fun e => !e.written && decide (e.at_ ≤ s.fc) with
  | none => .next s
  | some e =>
    .next ((s.modTile tile fun z => { z with rmws := z.rmws.map fun f =>
      if f == e then { f with written := true, at_ := s.fc } else f }).rmwLand tile e)

/-- Accesses that wait for the state of a granule of a tile are accepted in the order in which they began to wait (R335). -/
def execFullEmptyRelease (x y granule : Nat) (s : State) : Host.Outcome State Fault Refusal :=
  let tile := tileKey x y
  match s.feWaiters tile [(Loc.tile tile (16 * granule)).key / 16] with
  | [] => .next s
  | (t, o) :: _ =>
    match s.mnode t o with
    | some m => if m.isLoad then execLoadReadIssue t o s else execStoreIssue t o s
    | none => .next s

/-! ## Done tokens (R308, R362) -/

/-- A node whose operations are all performed at DSCOPE, and which is at its end, pushes a done token on each ordering edge
that leaves it, unless an access of its own gave or held poison (R308, R362). -/
def execMemoryNodeDone (t o : Nat) (s : State) : Host.Outcome State Fault Refusal :=
  match s.memOpen t o with
  | none => .next s
  | some (_, _, m) =>
    if m.mop != .fence && m.ordered && m.inputDone && m.accs.isEmpty && m.bad.isNone && !m.doneOrder && m.stall.isNone then
      .next (s.sendEdges t o)
    else .next s

/-! ## Stream buffers (R326, R360, R361) -/

/-- The first line that a node may fetch, in units of 128 bytes of its address space: that of its position, or the first of
the array when the index comes from `ai`. -/
def Mem.firstLine (m : Mem) (ai : Bool) : Nat := (m.base + (if ai then 0 else m.next * m.size)) / 128

/-- A stream buffer fetches a line, named by its virtual address over 128, that the node has yet to read (R326, R360). -/
def execStreamPrefetch (t o line : Nat) (s : State) : Host.Outcome State Fault Refusal :=
  match s.memOpen t o with
  | none => .next s
  | some (k, p, m) =>
    let tile := tileKey p.place.x p.place.y
    if !m.isLoad || decide (m.space < 2) || !m.ordered || m.inputDone ||
        decide (line < m.firstLine (k.chanIn o mpAi).isSome) || decide (128 * line ≥ m.base + m.count * m.size) ||
        decide (m.lines.length ≥ s.lineShare tile (k.entryAt tile) 256) then .next s
    else match s.xlate (dieOf p.place.x p.place.y) (.op t o) k.lctx (128 * line) 128 0 with
      | .at_ l =>
        if !spaceOk m.space l || isRemote l.key then .next s
        else
          let data := s.nodeRead t tile (keysFrom l 128)
          .next (((s.modMem t o fun m => { m with lines := (m.lines.filter (·.line != l.key)) ++
            [{ line := l.key, data := BitVec.ofNat 1024 data, at_ := s.fc }] }).touch l).busy k.lctx)
      | _ => .next s

/-- A line, named by its key over 128, stops serving reads 4,096 fc after it was fetched (R274, R361). -/
def execStreamLineExpiry (t o line : Nat) (s : State) : Host.Outcome State Fault Refusal :=
  .next (s.modMem t o fun m => { m with lines := m.lines.filter fun l =>
    !(l.line == 128 * line && decide (s.fc > l.at_ + s.bound (s.tileOf t o) lineLife)) })

end Sys2Proof.Machine
end

