-- ==== Sys2Proof/Machine/Coverage.lean ====
section
/-! DEFINITION. Coverage: the launch's L, walkers, kerf patterns, splines and audits (09_ternary_layer_under_deadline.md
R170 to R179, 13_coverage.md), and `vf.set` (14_deadlines_power_steps.md R267, R268). -/
namespace Sys2Proof.Machine

/-! ## The level of a launch (R253, R254) -/

/-- Ranks of the updates of L of one fc (R254). -/
def rankCeil : Nat := 0
@[inherit_doc rankCeil] def rankCtl : Nat := 1
@[inherit_doc rankCeil] def rankWindow (graph o : Nat) : Nat := 2 + graph * 2 ^ 13 + o

/-- An update of L reaches the sequencer (R254). -/
def State.postL (s : State) (l rank : Nat) (v : Int) (step : Bool) : State :=
  s.modLaunch l fun x => { x with updates := x.updates ++ [(s.fc, rank, v, step)] }

/-- A ceiling change, when CE has fallen below L (R253). -/
def State.postCeil (s : State) (l : Nat) : State :=
  match s.launch l with
  | some x => if s.ceOf x < x.l then s.postL l rankCeil 0 false else s
  | none => s

/-- L after one update of the last fc, with CE and FRZ as they stood at its end (R179, R253, R254, R256). -/
def State.applyL (s : State) (x : Launch) (cur : Nat) (u : Nat × Nat × Int × Bool) : Nat :=
  let ce := x.ceWas
  let floor := ((s.ctx x.lctx).map Ctx.floor).getD 0
  let clamp (v : Int) : Nat := (max (floor : Int) (min (ce : Int) v)).toNat
  if u.2.1 = rankCeil then min cur ce
  else if u.2.2.2 then (if x.frzWas then cur else clamp (cur + u.2.2.1))
  else clamp u.2.2.1

/-- The sequencer records the updates of L of one fc in the next fc (R254). An L above the CE that now stands is cut by an update
of this fc (R253). -/
def execCoverageLRecord (l : Nat) (s : State) : Host.Outcome State Fault Refusal :=
  match s.launch l with
  | none => .next s
  | some x =>
    let due := sortBy (fun u => u.1 * 2 ^ 40 + u.2.1) (x.updates.filter fun u => decide (u.1 < s.fc))
    if due.isEmpty then .next s
    else
      let v := due.foldl (s.applyL x) x.l
      .next ((s.modLaunch l fun x =>
        { x with lOld := x.l, lAt := s.fc, l := v, updates := x.updates.filter fun u => decide (u.1 ≥ s.fc) }).postCeil l)

/-- L as it was recorded at the end of the previous fc (R246). -/
def Launch.lBefore (x : Launch) (fc : Nat) : Nat := if x.lAt = fc then x.lOld else x.l

/-! ## Buffer handles (R245, R350) -/

/-- STATE of a handle: 0 free, 1 filling, 2 full, 3 draining. -/
def State.bufState (s : State) (h : Nat) : Nat := ((s.bufEntry h).extractLsb' 0 2).toNat
/-- The order of the changes of one fc: walkers and splines, copies, `buf.set`, `buf.wait` (R350). -/
def rankUnit : Nat := 0
@[inherit_doc rankUnit] def rankCopy : Nat := 1
@[inherit_doc rankUnit] def rankSet : Nat := 2
@[inherit_doc rankUnit] def rankWait : Nat := 3
/-- Whether a change of a rank may still be made in this fc: none that follows it in the order has been (R350). -/
def State.bufMay (s : State) (h rank : Nat) : Bool :=
  match aget h s.bufSeen with
  | some (fc, r) => decide (fc ≠ s.fc) || decide (r ≤ rank)
  | none => true
/-- Set the state of a handle. -/
def State.setBuf (s : State) (h st rank : Nat) : State :=
  { s with buffers := aset h (setBits (s.bufEntry h) 0 2 st) s.buffers, bufSeen := aset h (s.fc, rank) s.bufSeen }

/-! ## Walks (R170 to R172, R242 to R249) -/

/-- The indices of a point, dimension 0 first (R170). -/
def pointIdx : List Nat → Nat → List Nat
  | [], _ => []
  | e :: t, n => n % e :: pointIdx t (n / e)
/-- Distance in point number of neighbours along a dimension. -/
def pointStride (exts : List Nat) (d : Nat) : Nat := (exts.take d).foldl (· * ·) 1
/-- The number of points. -/
def points (exts : List Nat) : Nat := exts.foldl (· * ·) 1
/-- Extents of a walk. -/
def Walker.exts (w : Walker) : List Nat := w.dims.map (·.ext)
/-- The number of points of a walk: N. -/
def Walker.total (w : Walker) : Nat := points w.exts
/-- Address of a point: base + Σ i_d·STEP_d (R242); an address below zero has no translation. -/
def Walker.pointVa (w : Walker) (n : Nat) : Nat :=
  let a := (pointIdx w.exts n).zip w.dims |>.foldl (fun (a : Int) z => a + z.1 * z.2.sstr) (w.base : Int)
  if a < 0 then 2 ^ 57 else a.toNat

/-- The threshold matrix T (R248). -/
def ditherT : List (List Nat) :=
  [[0, 32, 8, 40, 2, 34, 10, 42], [48, 16, 56, 24, 50, 18, 58, 26], [12, 44, 4, 36, 14, 46, 6, 38],
   [60, 28, 52, 20, 62, 30, 54, 22], [3, 35, 11, 43, 1, 33, 9, 41], [51, 19, 59, 27, 49, 17, 57, 25],
   [15, 47, 7, 39, 13, 45, 5, 37], [63, 31, 55, 23, 61, 29, 53, 21]]

/-- The hash of a point's indices with SEED (R249). -/
def kerfHash (seed : Word) (idx : List Nat) : Word :=
  idx.foldl (fun h i => let h := (h ^^^ BitVec.ofNat 32 i) * 0x9E3779B1; h ^^^ (h >>> 16)) seed

/-- Whether the kerf keeps a point (R247). -/
def Kerf.keeps (f : Kerf) (idx : List Nat) : Bool :=
  let a := idx.getD f.da 0
  let b := if f.db = f.da then 0 else idx.getD f.db 0
  if f.pat = 0 ∨ f.l ≥ 64 then true
  else if f.l = 0 then false
  else match f.pat with
    | 1 => (a + f.phase) % ((64 + f.l - 1) / f.l) == 0
    | 2 => (a + b + f.phase) % (([1, 2, 4, 8, 16, 32, 64].find? fun m => decide (m * f.l ≥ 64)).getD 64) == 0
    | 3 =>
      let m := f.lm + 1
      decide ((a + f.la * b + 64 * m - f.phase) % m < f.l * m / 64)
    | 4 => decide (((ditherT.getD ((b + f.phase / 8) % 8) []).getD ((a + f.phase % 8) % 8) 0) < f.l)
    | _ => decide ((kerfHash f.seed idx).toNat % 64 < f.l)

/-- What a walker does with a point. -/
inductive PointUse where
  | keep | audit | skip
deriving DecidableEq, Repr

/-- The use of the next point; `audits` is clear while sub-step 1 suspends audit sampling (R172, R247, R273). -/
def Walker.useOf (w : Walker) (audits : Bool) : PointUse :=
  if w.latched.keeps (pointIdx w.exts w.pos) then .keep
  else if audits && w.latched.audit ≠ 0 && w.skips % w.latched.audit == 0 then .audit else .skip

/-- A point is passed without being kept: its bit is set in the kerf mask (R171). -/
def Walker.skipOne (w : Walker) : Walker :=
  { w with mask := Nat.lor w.mask (2 ^ w.pos), pos := w.pos + 1, skips := w.skips + 1 }

/-- Pass the points that are not issued, up to one that is (R170). The first argument bounds them. -/
def Walker.pass (audits : Bool) : Nat → Walker → Walker
  | 0, w => w
  | n + 1, w => if w.pos ≥ w.total then w else match w.useOf audits with
    | .skip => (w.skipOne).pass audits n
    | _ => w

/-- Pass all of them. -/
def Walker.passAll (w : Walker) (audits : Bool) : Walker := w.pass audits (w.total - w.pos)

/-- Sub-step 1 suspends audit sampling (R273). -/
def State.audits (s : State) : Bool := decide (s.power.lever < 1)

/-- Bytes of a kerf mask region for N points (R244). -/
def maskLen (n : Nat) : Nat := ((n + 7) / 8 + 64 + 63) / 64 * 64

/-- Write the next mask lines, as many as the argument says (R244). One that waits for a walk (R324) is left, with those behind
it, to a later step of the walker; a fault is held as a sink holds poison (R328). -/
def State.maskLines (s : State) (t o : Nat) : Nat → State
  | 0 => s
  | n + 1 =>
    match s.walker t o with
    | none => s
    | some w =>
      let on (s : State) : State := (s.modWalker t o fun w => { w with lined := w.lined + 1 }).maskLines t o n
      match s.unitWrite t o (w.maskVa + 64 + 64 * w.lined) 64 (w.mask / 2 ^ (512 * w.lined) % 2 ^ 512) with
      | .ok s' => on s'
      | .fault s' => on (s'.sinkPoison t o (s.origin t o Code.xlate))
      | .wait s' => s'

/-- Mask lines of a walk (R244). -/
def Walker.lines (w : Walker) : Nat := maskLen w.total / 64 - 1

/-- The new state of a walker, with the whole mask lines that it has passed written (R244). -/
def State.setWalker (s : State) (t o : Nat) (new : Walker) : State :=
  (s.modWalker t o fun _ => new).maskLines t o (new.pos / 512 - new.lined)

/-- What its splines have to know of the walk that a walker is on. -/
def Walker.now_ (w : Walker) : WalkRec := { pts := w.pts, exts := w.exts, latched := w.latched, endLvl := w.endLvl }

/-- What a spline has to know of walk number `n` of its walker: one that has ended, or the one in progress (R256). -/
def Walker.walk (w : Walker) (n : Nat) : WalkRec :=
  (w.past[n]?).getD (if w.ended then { w.now_ with pts := [] } else w.now_)

/-- The stop of a launch has taken effect: its stop instant has come (R173). -/
def State.stopped (s : State) (t : Nat) : Bool :=
  match s.launchOf t with
  | some x => x.deadline != BitVec.allOnes 64 && decide (s.clock.start.toNat + x.budget ≥ x.deadline.toNat)
  | none => false

/-- A walker that may act. -/
def State.walkOpen (s : State) (t o : Nat) : Option Walker :=
  match s.op t o, s.walker t o with
  | some p, some w => if s.live t && p.fault.isNone && s.unitTicks t o && w.walking then some w else none
  | _, _ => none

/-- The next block of a walker begins in this fc (R245, R246): the first one waits while the mask's handle is draining. -/
def State.blockDue (s : State) (t o : Nat) : Option Walker :=
  match s.walkOpen t o with
  | none => none
  | some w =>
    if w.inBlock || w.ended || w.stopped || s.stopped t || decide (w.blockAt > s.fc) ||
        (!w.begun && (s.bufState w.handle == 3 || !s.bufMay w.handle rankUnit)) then none
    else some w

/-- A walker begins a block of 1,024 points and latches L and its pattern parameters; the first block starts the walk, which
waits while the mask's handle is draining (R245, R246). The points that it does not issue are passed at once (R170). -/
def execWalkerBlockBegin (t o : Nat) (s : State) : Host.Outcome State Fault Refusal :=
  match s.blockDue t o with
  | none => .next s
  | some w =>
      let s := if w.begun then s else
        { s.setBuf w.handle 1 rankUnit with masks := aset w.handle (w.maskVa, w.exts) s.masks }
      let f := if w.chgAt = s.fc then w.prev else w.now
      let f := match s.launchOf t with
        | some x => { f with l := x.lBefore s.fc, pat := x.pat.getD f.pat }
        | none => f
      .next ((s.setWalker t o (({ w with begun := true, inBlock := true, latched := f } : Walker).passAll s.audits)).busy
        (s.lctxOf t))

/-- The read of a point. -/
def pointAcc (fc n : Nat) (audit : Bool) : Acc :=
  { k := n, loc := .hbm 0, tail := none, bytes := 128, write := false, val := 0, at_ := fc, done := false, poison := none,
    due := fc + 1, hdr := mkHdr (if audit then Kind.audit else Kind.data) 0 0 }

/-- The next point has been issued with the read `a`; the points behind it that are not issued are passed at once, unless it
was the last of a block (R170, R246). -/
def State.pointIssued (s : State) (t o : Nat) (w : Walker) (audit : Bool) (a : Acc) : State :=
  let w' := if audit then w.skipOne else { w with pos := w.pos + 1 }
  let last := (w.issued + 1) % 1024 == 0
  let new := { w' with pts := w.pts ++ [w.pos], issued := w.issued + 1, inBlock := !last, blockAt := s.after t o 1,
                       issueAt := s.after t o 1, accs := w.accs ++ [a] }
  (((s.reserve t o 0 1).setWalker t o (if last then new else new.passAll s.audits)).busy (s.lctxOf t)).countFiring t o

/-- Issue the next point as data or audit data, once its address has been translated (R170 to R172, R324). -/
def State.issuePoint (s : State) (t o : Nat) (w : Walker) (audit : Bool) : State :=
  let a := pointAcc s.fc w.pos audit
  match s.unitAt t o (w.pointVa w.pos) 128 0 with
  | .wait s' => s'
  | .at_ l tail => (s.touchKey l.key).spanRead t o { a with loc := l, tail := tail } |>.pointIssued t o w audit { a with loc := l, tail := tail }
  | .fault s' _ _ =>
    s'.pointIssued t o w audit { a with done := true, poison := some (s.origin t o Code.xlate), hdr := ownPoison }

/-- A walker passes the points it does not keep, and issues the next kept or audited one against a free token of depth
(R170 to R172). A walker with PREF issues nothing from sub-step 2 on (R273). -/
def execWalkerPointIssue (t o : Nat) (s : State) : Host.Outcome State Fault Refusal :=
  match s.walkOpen t o with
  | none => .next s
  | some w =>
    if !w.inBlock || w.ended || w.stopped || s.stopped t || decide (w.issueAt > s.fc) then .next s
    else
      let s := s.setWalker t o (w.passAll s.audits)
      let w' := (s.walker t o).getD w
      if w'.pos ≥ w.total || (w.pref && decide (s.power.lever ≥ 2)) || !s.canReserve t o 0 1 then .next s
      else .next (s.issuePoint t o w' (w'.useOf s.audits == .audit))

/-- The token of a point that has been read. -/
def pointTok (a : Acc) (v : Nat) : Token :=
  match a.poison with
  | some x => narrowTok a.hdr x
  | none => { hdr := a.hdr, count := 0, pay := BitVec.ofNat 1024 v }

/-- The read of a point returns, and its token enters the channel (R170). -/
def State.walkDelivery (s : State) (t o : Nat) (w : Walker) : State :=
  match w.accs with
  | [] => s
  | a :: _ =>
    if a.due > s.fc || (!a.done && a.keys.any isRemote) || !s.hasRoom t o 0 1 then s
    else
      let tok := pointTok a (if a.done then a.val.toNat else s.readKeys a.keys)
      let s := ((s.modWalker t o fun w => { w with accs := w.accs.drop 1 }).unreserve t o 0 1).resetRates t o
      match s.pushRate t o 0 tok with
      | some d => s.freeze t o Code.rate d
      | none => s.pushTok t o 0 tok

/-- The walk is over once the mask lines that are left and PASSED have been written: the handle is full. Bits of points that were
not passed are 0 (R171, R244, R245). -/
def State.walkOver (s : State) (t o : Nat) (w : Walker) (stop : Bool) : State :=
  let s := s.maskLines t o (w.lines - w.lined)
  let close (s : State) : State :=
    ({ s.setBuf w.handle 2 rankUnit with masks := aset w.handle (w.maskVa, w.exts) s.masks } : State).modWalker t o fun w =>
      { w with ended := true, inBlock := false, stopped := w.stopped || stop, walks := w.walks + 1, past := w.past ++ [w.now_],
               cut := stop && decide (w.pos < w.total) }
  if (s.walker t o).any fun w => decide (w.lined < w.lines) then s
  else match s.unitWrite t o w.maskVa 64 w.pos with
    | .ok s' => close s'
    | .fault s' => close (s'.sinkPoison t o (s.origin t o Code.xlate))
    | .wait s' => s'

/-- The end token of a walker, with level `lvl`, 0 for a done token. -/
def State.endToken (s : State) (t o lvl : Nat) : State :=
  let s := s.pushTok t o 0 (if lvl = 0 then doneTok 0 else stopTok lvl 0)
  if lvl = 0 && !s.outBound t o 0 then s.gotDone t o else s

/-- A walker that may end: one with a walk in progress, or without one once the stop of its launch has taken effect, if it
has pushed no done token (R173, R265; log entry 97). -/
def State.walkEnds (s : State) (t o : Nat) : Option Walker :=
  match s.op t o, s.walker t o with
  | some p, some w =>
    if s.live t && p.fault.isNone && !w.doneOut && (w.walking || w.stopped || s.stopped t) then some w else none
  | _, _ => none

/-- A walker ends its walk after its last point or once stopped, and pushes its end token (R170, R173, R256). One that waits
for a `wk.spec` when the stop takes effect pushes its done token (R173). -/
def execWalkerEnd (t o : Nat) (s : State) : Host.Outcome State Fault Refusal :=
  match s.walkEnds t o with
  | none => .next s
  | some w =>
    let stop := w.stopped || s.stopped t
    if !w.ended && !stop && decide (w.pos < w.total) then .next s
    else if !w.ended && ((!w.begun && s.bufState w.handle == 3) || !s.bufMay w.handle rankUnit) then .next s
    else
      let s := if w.ended then s else s.walkOver t o w stop
      let w := (s.walker t o).getD w
      if !w.ended || !w.accs.isEmpty || !s.canPush t o 0 1 then .next s
      else
        let lvl := if w.walking then w.endLvl else 0
        let s := s.endToken t o lvl
        let s := match w.specReply with
          | some id => s.endCmd (.op t o) id (if w.cut then 1 else 0)
          | none => s
        .next (s.modWalker t o fun w => { w with walking := false, doneOut := lvl == 0, specReply := none })

/-! ## Walker commands (R256) -/

/-- Change the parameters in force, keeping those from before this fc (R246). -/
def Walker.change (w : Walker) (fc : Nat) (f : Kerf → Kerf) : Walker :=
  { w with prev := if w.chgAt = fc then w.prev else w.now, chgAt := fc, now := f w.now }

/-- n of an AUDIT code (R99). -/
def auditN (c : Nat) : Nat :=
  match c with
  | 1 => 64 | 2 => 16 | 3 => 4 | _ => 0

/-- Signed 32-bit field of a double at `lo`. -/
def sfield (d : Dbl) (lo : Nat) : Int := (d.extractLsb' lo 32).toInt

/-- A dimension record (R242). -/
def dimOf (d : Dbl) : DimRec := { ext := (d.extractLsb' 48 16).toNat + 1, sstr := sfield d 16, dstr := 0 }

/-- Doubles of a number read from memory. -/
def doubles (v n : Nat) : List Dbl := (List.range n).map fun i => BitVec.ofNat 64 (v / 2 ^ (64 * i))

/-- The walk that a `wk.spec` asks for: the walker as it starts it, or nothing where it is ILLEGAL (R256). -/
def Walker.spec (w : Walker) (fc : Nat) (ds : List Dbl) (nd endLvl id : Nat) : Option Walker :=
  let dims := (ds.take nd).map dimOf
  let n := points (dims.map (·.ext))
  let mv := (ds.getD (nd + 1) 0).toNat % 2 ^ 57
  if n ≥ 2 ^ 32 ∨ (mv = 0 ∧ maskLen n > w.maskBytes) then none
  else some { w with dims := dims, base := (ds.getD nd 0).toNat % 2 ^ 57, maskVa := if mv = 0 then w.maskVa else mv,
                     baseRef := BitVec.ofNat 64 ((ds.getD nd 0).toNat % 2 ^ 57),
                     maskRef := if mv = 0 then w.maskRef else BitVec.ofNat 64 mv,
                     maskBytes := if mv = 0 then w.maskBytes else maskLen n, walking := true, begun := false,
                     inBlock := false, blockAt := fc, pos := 0, issued := 0, skips := 0, mask := 0, lined := 0, pts := [],
                     stopped := false, endLvl := endLvl, ended := false, cut := false, specReply := some id }

/-- `wk.spec` (R256). -/
def execWkSpec (t o : Nat) (p : Packet) (s : State) : Host.Outcome State Fault Refusal :=
  let e := EngineRef.op t o
  match s.walker t o with
  | none => .next s
  | some w =>
    .next (s.command e (!w.walking) fun s =>
      if w.doneOut then s.illegalCmd e p
      else
        let nd := ((p.dbl 1).extractLsb' 54 3).toNat + 1
        let endLvl := ((p.dbl 1).extractLsb' 51 3).toNat
        s.unitRead t o (p.dbl 2).toNat (8 * (nd + 2))
          (fun v s => match w.spec s.fc (doubles v (nd + 2)) nd endLvl (s.cmdId e) with
            | none => s.illegalCmd e p
            | some w' => (s.beginCmd e p).modWalker t o fun x => { w' with inbox := x.inbox })
          fun s => (s.oneStep e p 2).engineFault t o Code.xlate)

/-- `wk.kerf` (R256). -/
def execWkKerf (t o : Nat) (p : Packet) (s : State) : Host.Outcome State Fault Refusal :=
  let f (lo n : Nat) : Nat := ((p.dbl 1).extractLsb' lo n).toNat
  .next (s.command (.op t o) true fun s =>
    (s.oneStep (.op t o) p 0).modWalker t o fun w => w.change s.fc fun k =>
      { k with pat := f 54 3, da := f 51 3, db := f 48 3, phase := f 42 6, lm := f 36 6, la := f 30 6,
               seed := (p.dbl 2).extractLsb' 0 32 })

/-- Discard the open window of the splines bound to a walker (R256). -/
def State.resetWindows (s : State) (t o : Nat) : State :=
  s.modTask t fun k => { k with ops := k.ops.map fun q => match q.kind with
    | .spline x => if x.walker = o then { q with kind := .spline { x with window := [] } } else q
    | _ => q }

/-- `wk.audit` (R256). -/
def execWkAudit (t o : Nat) (p : Packet) (s : State) : Host.Outcome State Fault Refusal :=
  let f (lo n : Nat) : Nat := ((p.dbl 1).extractLsb' lo n).toNat
  .next (s.command (.op t o) true fun s =>
    let s := (s.oneStep (.op t o) p 0).modWalker t o fun w => w.change s.fc fun k =>
      { k with audit := auditN (f 54 3), win := if f 46 8 = 0 then 64 else f 46 8 }
    if f 45 1 = 1 then s.resetWindows t o else s)

/-- `kf.ctl` (R256). -/
def execKfCtl (t o : Nat) (p : Packet) (s : State) : Host.Outcome State Fault Refusal :=
  let w1 := p.dbl 1
  let f (lo n : Nat) : Nat := (w1.extractLsb' lo n).toNat
  .next (s.command (.op t o) true fun s =>
    let l := ((s.task t).map (·.launch)).getD 0
    let s := s.oneStep (.op t o) p 0
    let s := if w1.getLsbD 56 then s.postL l rankCtl (f 49 7) false else s
    let s := if w1.getLsbD 48 then s.modWalker t o fun w => w.change s.fc fun k => { k with phase := f 42 6 } else s
    if w1.getLsbD 41 || w1.getLsbD 40 then s.modLaunch l fun x => { x with frz := w1.getLsbD 41 } else s)

/-! ## Reconstruction (R177, R251) -/

/-- FP32 arithmetic of the spline: to nearest even, with subnormals (R251). -/
def r32 (v : Fp) : Nat := fp32.result false .rne v
/-- The value of an FP32 encoding. -/
def u32 (x : Nat) : Fp := fp32.unpack x
/-- An FP32 encoding of an integer. -/
def ofInt32 (i : Int) : Nat := r32 (fpOfInt i 0)

/-- e[d] for two values in FP32 (R177 L760). -/
def fitF (t1 t2 : Int) (f1 f2 : Nat) : Nat :=
  let a := r32 (fpMul (u32 f1) (fpOfInt t2 0))
  let b := r32 (fpMul (u32 f2) (fpOfInt t1 0))
  r32 (fpDiv (u32 (r32 (fpAdd false (u32 a) (fpNeg (u32 b))))) (fpOfInt (t2 - t1) 0))

/-- n ÷ d rounded half to even, d > 0. -/
def divEven (n d : Int) : Int :=
  let q := n / d
  let r := 2 * (n % d)
  if r > d ∨ (r = d ∧ q % 2 ≠ 0) then q + 1 else q

/-- e[d] for two integers: exact, rounded half to even and saturated (R251). -/
def fitI (fmt : Nat) (t1 t2 f1 f2 : Int) : Word :=
  let v := divEven (f1 * t2 - f2 * t1) (t2 - t1)
  wrapLane fmt (max (intLimits fmt).1 (min (intLimits fmt).2 v))

/-- A known point on a line: its offset and its tile. -/
abbrev Near := Int × List Wide

/-- The two points of a line that a fit uses, the lesser offset first (R177 L720 to L750). -/
def fitPair (l : List Near) : Option (Near × Near) :=
  let neg := (l.filter fun z => decide (z.1 < 0)).reverse
  let pos := l.filter fun z => decide (z.1 > 0)
  match neg, pos with
  | a :: _, b :: _ => some (a, b)
  | a :: b :: _, [] => some (b, a)
  | [], a :: b :: _ => some (a, b)
  | _, _ => none

/-- The nearest of several lines: the least |offset|, the earlier line, the negative offset (R251). -/
def nearest (ls : List (List Near)) : Option (List Wide) :=
  ((sortBy (fun z : Nat × Near => 16 * z.2.1.natAbs + 2 * z.1 + (if z.2.1 < 0 then 0 else 1))
    (ls.zipIdx.flatMap fun (l, i) => l.map fun z => (i, z))).head?).map (·.2.2)

/-- Element `j` of a tile. -/
def tileElem (fmt : Nat) (tl : List Wide) (j : Nat) : Word :=
  unpackElem fmt (tl.getD (j / fmtElems fmt) 0) (j % fmtElems fmt)

/-- A tile of elements. -/
def mkTile (fmt n : Nat) (f : Nat → Word) : List Wide :=
  (List.range n).map fun i => packElems fmt ((List.range (fmtElems fmt)).map fun j => f (fmtElems fmt * i + j))

/-- One element fitted along a line. -/
def fitElem (fmt : Nat) (z : Near × Near) (j : Nat) : Word :=
  let a := tileElem fmt z.1.2 j
  let b := tileElem fmt z.2.2 j
  match fmt with
  | 0x1 => BitVec.ofNat 32 (fitF z.1.1 z.2.1 a.toNat b.toNat)
  | 0x2 => BitVec.ofNat 32 (fitF z.1.1 z.2.1 (a.toNat * 2 ^ 16) (b.toNat * 2 ^ 16))
  | _ => fitI fmt z.1.1 z.2.1 (intElem fmt a) (intElem fmt b)

/-- The mean of two FP32 estimates (R177 L770). -/
def meanF (a b : Word) : Word :=
  BitVec.ofNat 32 (r32 (fpMul (u32 (r32 (fpAdd false (u32 a.toNat) (u32 b.toNat)))) (.fin false 1 (-1))))

/-- A reconstructed FP32 value in the unit's format (R251). -/
def narrowF (fmt : Nat) (x : Word) : Word :=
  if fmt = 0x2 then BitVec.ofNat 32 (bf16.result false .rne (u32 x.toNat)) else x

/-- The reconstruction of a point: `lines` are the known points on the lines along DA and DB, nearest offsets first from
the negative side, and `before` the latest known point before it (R177, R251). -/
def Spline.reconstruct (x : Spline) (lines : List (List Near)) (before : Option (List Wide)) : List Wide :=
  let zero := List.replicate x.tile (0 : Wide)
  match x.kernel with
  | 1 => (nearest lines).getD zero
  | 2 => before.getD zero
  | 3 =>
    match fitPair (lines.headD []) with
    | some z => mkTile x.fmt x.tile fun j => let e := fitElem x.fmt z j
                                             if x.fmt = 0x2 then narrowF x.fmt e else e
    | none => (nearest (lines.take 1)).getD zero
  | 4 =>
    match lines.filterMap fitPair with
    | [z] => mkTile x.fmt x.tile fun j => narrowF x.fmt (fitElem x.fmt z j)
    | z :: y :: _ => mkTile x.fmt x.tile fun j => narrowF x.fmt (meanF (fitElem x.fmt z j) (fitElem x.fmt y j))
    | [] => (nearest lines).getD zero
  | _ => zero

/-- The points on the lines through P, by offset −4 to 4 (R251): their numbers, for DA and then DB. -/
def Spline.neighbours (x : Spline) (exts : List Nat) (n : Nat) : List (List (Int × Nat)) :=
  let idx := pointIdx exts n
  let line (d : Nat) : List (Int × Nat) := ([-4, -3, -2, -1, 1, 2, 3, 4] : List Int).filterMap fun t =>
    let i : Int := idx.getD d 0 + t
    if 0 ≤ i ∧ i < exts.getD d 1 then some (t, ((n : Int) + t * pointStride exts d).toNat) else none
  if x.db = x.da then [line x.da] else [line x.da, line x.db]

/-- The latest point below `n` that meets `p` (HOLD, R251). -/
def latestBefore (p : Nat → Bool) : Nat → Option Nat
  | 0 => none
  | n + 1 => if p n then some n else latestBefore p n

/-! ## Splines (R176 to R179, R250 to R259) -/

/-- Bytes of a tile. -/
def Spline.tileBytes (x : Spline) : Nat := 128 * x.tile

/-- Where a spline stores: the base of the reconstruction in progress. -/
def Spline.dest (x : Spline) : Nat := (x.run.map (·.base)).getD x.base

/-- The number that marks the stores of the validity map (MODEL). -/
def mapK : Nat := 2 ^ 40

/-- The number that marks the store of a `vf.set` (MODEL). Its value is four times the tile's place in the double of the
map, and the flag. -/
def flagK : Nat := 2 ^ 41

/-- The double of the map that a `vf.set` leaves: a tile flagged failed stays failed (R268). -/
def flagSet (m sh v : Nat) : Nat :=
  let old := m / 2 ^ sh % 4
  if old = 3 then m else m - old * 2 ^ sh + v * 2 ^ sh

/-- What the store of a spline writes: a `vf.set` reads the double and writes it in one step (R268). -/
def State.splineValue (s : State) (a : Acc) : Nat :=
  if a.k = flagK then flagSet (s.readKeys a.keys) (2 * (a.val.toNat / 4)) (a.val.toNat % 4) else a.val.toNat

/-- A spline issues a store (R176). -/
def State.splineStore (s : State) (t o k va n v : Nat) : Stored :=
  match s.unitAt t o va n 1 with
  | .wait s' => .wait s'
  | .fault s' _ _ => .fault s'
  | .at_ l tail => .ok ((s.modSpline t o fun x => { x with accs := x.accs ++
      [{ k := k, loc := l, tail := tail, bytes := n, write := true, val := BitVec.ofNat 1024 v, at_ := s.fc, done := false,
         poison := none, due := s.after t o 1, hdr := 0 }] }).busy (s.lctxOf t))

/-- A store of a spline is performed and acknowledged (R176). -/
def State.splineAck (s : State) (t o : Nat) (x : Spline) : State :=
  match x.accs with
  | [] => s
  | a :: rest =>
    if a.due > s.fc || s.bankHolds a.keys then s
    else
      let last := a.k = mapK && x.phase == .acks && !(rest.any fun b => b.k == mapK)
      ((({ s with mem := writeKeys s.mem a.keys (s.splineValue a) } : State).unitSpan t o a.k true a.keys).modSpline t o fun x =>
        { x with accs := rest, mapStored := x.mapStored || last }).busy (s.lctxOf t)

/-- The token of a computed point has been taken. -/
def State.tokenTaken (s : State) (t o : Nat) : State :=
  ((s.popTok t o 0).modSpline t o fun x => { x with taken := x.taken + 1 }).busy (s.lctxOf t)

/-- A spline takes one token of a computed point and stores it, once its address has been translated; a fault is held as a
sink holds poison (R176, R324, R328). -/
def State.splineTake (s : State) (t o : Nat) (x : Spline) (tok : Token) : State :=
  let n := ((s.walker t x.walker).bind fun w => (w.walk x.walks).pts[x.taken / x.tile]?).getD x.count
  let k := x.taken % x.tile
  if n ≥ x.count then s.tokenTaken t o
  else if tok.isPoison then
    ((s.tokenTaken t o).sinkPoison t o tok.word).modSpline t o fun x => { x with flags := aset n 3 x.flags }
  else
    let old := (aget n x.computed).getD (List.replicate x.tile 0)
    let note (s : State) : State := (s.tokenTaken t o).modSpline t o fun x =>
      { x with computed := aset n (old.set k tok.pay) x.computed,
               audited := if tok.kind == Kind.audit && !x.audited.contains n then n :: x.audited else x.audited,
               flags := if aget n x.flags == some 3 then x.flags else aset n 2 x.flags }
    match s.splineStore t o n (x.base + n * x.tileBytes + 128 * k) 128 tok.pay.toNat with
    | .wait s' => s'
    | .ok s' => (note s').countFiring t o
    | .fault s' => ((note s').sinkPoison t o (s.origin t o Code.xlate)).countFiring t o

/-- The tokens of a walk that ended with a stop have all been taken, and it has not been reconstructed yet: those of the next
walk wait (R176, R256; log entry 30). -/
def Spline.hasAll (x : Spline) (w : Walker) : Bool :=
  (w.past[x.walks]?).any fun r => r.endLvl != 0 && (r.pts[x.taken / x.tile]?).isNone

/-- A spline that may act. -/
def State.splineOpen (s : State) (t o : Nat) : Option Spline :=
  match s.op t o, s.spline t o with
  | some p, some x => if s.live t && p.fault.isNone && s.unitTicks t o then some x else none
  | _, _ => none

/-- A spline stores the tokens of a computed point as they arrive (R176). -/
def execSplineTileStore (t o : Nat) (s : State) : Host.Outcome State Fault Refusal :=
  match s.splineOpen t o with
  | none => .next s
  | some x =>
    if x.phase != .take || x.inputDone then
      match s.behindDone t o 0 with
      | some tok => .next (s.malformed t o 0 tok)
      | none => .next s
    else match s.headTok t o 0 with
      | none => .next s
      | some tok =>
        if tok.kind = Kind.done then
          .next (((s.popTok t o 0).modSpline t o fun x => { x with inputDone := true }).busy (s.lctxOf t))
        else if ((s.walker t x.walker).map x.hasAll).getD false then .next s
        else if tok.isData || tok.isPoison then .next (s.splineTake t o x tok)
        else .next (s.malformed t o 0 tok)

/-- FP32 of an element, for the error of an audit (R179). -/
def elemF (fmt : Nat) (x : Word) : Nat :=
  match floatFmt fmt with
  | some f => r32 (f.unpack x.toNat)
  | none => ofInt32 (intElem fmt x)

/-- The error of one element: |c − r| / max(|c|, EFLOOR), NaN counting as +∞ (R179, R252). -/
def auditElem (efloor : Nat) (c r : Nat) : Nat :=
  let d := r32 (fpAdd false (u32 c) (fpNeg (u32 r))) % 2 ^ 31
  let m := fpMinMax fp32 false true (c % 2 ^ 31) efloor
  let q := r32 (fpDiv (u32 d) (u32 m))
  if (u32 q).isNan then 0x7F800000 else q

/-- The error of an audit: the largest over its elements. -/
def auditError (fmt n efloor : Nat) (c r : List Wide) : Nat :=
  (List.range (n * fmtElems fmt)).foldl (fun e j =>
    fpMinMax fp32 false true e (auditElem efloor (elemF fmt (tileElem fmt c j)) (elemF fmt (tileElem fmt r j)))) 0

/-- The mean of a window: the sum in comparison order, divided by the number compared. That is W, but where `wk.audit` has lowered W
below what the open window holds: it then closes at the next comparison (DESIGN CHOICE, log entry 113). -/
def windowMean (l : List Word) : Nat :=
  match l with
  | [] => 0
  | e :: t => r32 (fpDiv (u32 (t.foldl (fun a b => r32 (fpAdd false (u32 a) (u32 b.toNat))) e.toNat)) (fpOfInt l.length 0))

/-- A window closes: SCUT follows the slack of the walker's task, whose hints a subgraph has from the tile task that spawned
it, and L moves by the mean (R179, R253). -/
def State.closeWindow (s : State) (t o : Nat) (l : List Word) : State :=
  match s.task t with
  | none => s
  | some k =>
    match s.ctx k.lctx, s.launch k.launch with
    | some c, some x =>
      let mean := u32 (windowMean l)
      let step : Int := if fpLt (u32 c.thi.toNat) mean then 8 else if fpLt mean (u32 c.tlo.toNat) then -4 else 0
      let s := if x.optin then
          let d := s.tcb k.lctx (((s.task (s.rootTask s.tasks.length t)).map (·.tcb)).getD k.tcb) 0x20
          let sl := s.slack x (d.extractLsb' 0 32).toNat (d.extractLsb' 32 32).toNat
          (s.modLaunch k.launch fun x =>
            { x with scut := if sl < c.slackT then min (x.scut + 8) 64 else x.scut - 8 }).postCeil k.launch
        else s
      s.postL k.launch (rankWindow k.graphIndex o) step true
    | _, _ => s

/-- An audited point is compared with its reconstruction, and not stored (R176, R179). `w` is W, as its walk
latched it (R246). A comparison made while sub-step 1 is engaged does not count (R273). -/
def State.compareAudit (s : State) (t o : Nat) (x : Spline) (w n : Nat) (r : List Wide) : State :=
  if s.power.lever ≥ 1 then s
  else
    let efloor := ((s.ctx (s.lctxOf t)).map Ctx.eFloor).getD 0
    let e := auditError x.fmt x.tile efloor.toNat ((aget n x.computed).getD []) r
    let win := x.window ++ [BitVec.ofNat 32 e]
    if win.length ≥ w then
      (s.modSpline t o fun x => { x with window := [] }).closeWindow t o win
    else s.modSpline t o fun x => { x with window := win }

/-- The validity map (R178). -/
def mapValue (flags : List (Nat × Nat)) : Nat := lsum (flags.map fun (n, f) => f * 2 ^ (2 * n))

/-- Bytes of the validity map (R178). -/
def Spline.mapBytes (x : Spline) : Nat := (x.count + 31) / 32 * 8

/-- The flags of the map that is being built: those of the walk, or of the `sp.run` in progress. -/
def Spline.mapFlags (x : Spline) : List (Nat × Nat) := (x.run.map (·.flags)).getD x.flags

/-- Set the flag of a tile in it. -/
def Spline.flag (x : Spline) (n v : Nat) : Spline :=
  match x.run with
  | some r => { x with run := some { r with flags := aset n v r.flags } }
  | none => { x with flags := aset n v x.flags }

/-- End an `sp.run` with STATUS 2 after a translation fault (R258). -/
def State.runFault (s : State) (t o : Nat) (r : SplineRun) : State :=
  let s := if (s.spline t o).any (·.holds) then s.setBuf r.handle 2 rankUnit else s
  ((s.endCmd (.op t o) r.reply 2).engineFault t o Code.xlate).modSpline t o fun y =>
    { y with run := none, phase := r.back, holds := false }

/-- Issue a store of a reconstruction and go on: a fault ends an `sp.run` with STATUS 2, and is held as a sink holds poison
otherwise (R258, R328). -/
def State.splineOut (s : State) (t o : Nat) (x : Spline) (k va n v : Nat) (on : State → State) : State :=
  match s.splineStore t o k va n v, x.run with
  | .wait s', _ => s'
  | .ok s', _ => on s'
  | .fault s', some r => s'.runFault t o r
  | .fault s', none => on (s'.sinkPoison t o (s.origin t o Code.xlate))

/-- Store the next token of the tile of point `x.next`: one firing (R11, R176). The last one goes on to the next point. -/
def State.tileOut (s : State) (t o : Nat) (x : Spline) (tl : List Wide) : State :=
  let n := x.next
  s.splineOut t o x n (x.dest + n * x.tileBytes + 128 * x.sub) 128 (tl.getD x.sub 0).toNat fun s =>
    (s.modSpline t o fun y =>
      if x.sub + 1 < x.tile then { y with sub := x.sub + 1 } else { (y.flag n 1) with next := n + 1, sub := 0 }).countFiring t o

/-- Store the next 128 bytes of the validity map. With the first the reconstruction is over and the handle full again; after
the last the unit waits for the acknowledgements (R176, R178, R245). -/
def State.mapOut (s : State) (t o : Nat) (x : Spline) (handle : Nat) : State :=
  let n := min 128 (x.mapBytes - 128 * x.sub)
  let va := x.dest + x.count * x.tileBytes
  let s := if x.holds then (s.setBuf handle 2 rankUnit).modSpline t o fun y => { y with holds := false } else s
  if n = 0 then s.modSpline t o fun y => { y with phase := .acks, mapVa := va }
  else s.splineOut t o x mapK (va + 128 * x.sub) n (mapValue x.mapFlags / 2 ^ (1024 * x.sub) % 2 ^ (8 * n)) fun s =>
    s.modSpline t o fun y => { y with sub := x.sub + 1, mapVa := va,
                                      phase := if 128 * (x.sub + 1) ≥ x.mapBytes then .acks else .recon }

/-- A point that `sp.run` takes as computed: below PASSED, with its mask bit 0 (R258). -/
def SplineRun.known (r : SplineRun) (n : Nat) : Bool := decide (n < r.passed) && !r.mask.testBit n

/-- One token of an `sp.run` (R258). -/
def State.runPoint (s : State) (t o : Nat) (x : Spline) (r : SplineRun) : State :=
  let n := x.next
  if r.known n then s.modSpline t o fun x => { (x.flag n 2) with next := n + 1 }
  else
    let keys (q : Nat) : UnitKeys := s.unitKeys t o (r.base + q * x.tileBytes) x.tileBytes 0
    let tileAt (q : Nat) : Option Nat := match keys q with
      | .at_ ks => some (s.readKeys ks)
      | _ => none
    let cut (v : Nat) : List Wide := (List.range x.tile).map fun i => BitVec.ofNat 1024 (v / 2 ^ (1024 * i))
    let near := (x.neighbours r.exts n).map fun l => l.filter fun z => decide (z.2 < x.count) && r.known z.2
    let hold := if x.kernel = 2 then latestBefore r.known n else none
    let used := (near.flatMap fun l => l.map (·.2)) ++ hold.toList
    let stop := used.findSome? fun q => match keys q with
      | .at_ _ => none
      | .wait s' => some s'
      | .fault s' => some (s'.runFault t o r)
    match stop with
    | some s' => s'
    | none =>
      let s := used.foldl (fun s q => match keys q with
        | .at_ ks => s.touchKeys ks
        | _ => s) s
      let lines := near.map fun l => l.map fun z => (z.1, cut ((tileAt z.2).getD 0))
      s.tileOut t o x (x.reconstruct lines (hold.map fun q => cut ((tileAt q).getD 0)))

/-- One token of a spline bound to a walker: a point that was not computed is stored, and an audited one compared (R176). -/
def State.walkPoint (s : State) (t o : Nat) (x : Spline) (w : WalkRec) : State :=
  let n := x.next
  let known (q : Nat) : Option (List Wide) := if aget q x.flags == some 2 then aget q x.computed else none
  let lines := (x.neighbours w.exts n).map fun l => l.filterMap fun z => (known z.2).map fun tl => (z.1, tl)
  let hold := if x.kernel = 2 then (latestBefore (fun q => (known q).isSome) n).bind known else none
  match aget n x.flags with
  | none => s.tileOut t o x (x.reconstruct lines hold)
  | some f =>
    let on : State := s.modSpline t o fun x => { x with next := n + 1 }
    if f = 2 && x.audited.contains n then on.compareAudit t o x w.latched.win n (x.reconstruct lines hold) else on

/-- The next walk of a spline's walker has ended, its tokens have all been taken, and the mask's handle is full (R176, R245,
R256; log entry 30). -/
def State.splineReady (s : State) (x : Spline) (w : Walker) : Bool :=
  (w.past[x.walks]?).isSome && s.bufState w.handle == 2 && s.bufMay w.handle rankUnit && (x.inputDone || x.hasAll w)

/-- Whether the points that a walk did not compute are reconstructed: the launch's pattern is not DENSE and L is below 64
(R176). Where the launch asks for defaults the walker has a pattern of its own, which counts as its walk last latched it (R246,
R256). -/
def State.reconstructs (s : State) (t : Nat) (w : WalkRec) : Bool :=
  match s.launchOf t with
  | some x => x.pat.getD w.latched.pat != 0 && decide (x.l < 64)
  | none => w.latched.pat != 0 && decide (w.latched.l < 64)

/-- A reconstruction that a pause has interrupted sets its mask's handle draining again, once no walk fills it and no other
spline drains it (R245, R259). -/
def State.drainAgain (s : State) (t o : Nat) (x : Spline) (h : Nat) (on : State → State) : State :=
  if x.holds || decide (x.next ≥ x.count) then on s
  else if s.bufState h == 1 || s.bufState h == 3 then s
  else on ((s.setBuf h 3 rankUnit).modSpline t o fun y => { y with holds := true })

/-- A spline reconstructs, one token at a time, and then stores the validity map (R176, R258). A done token that ends no
walk, since its walker was between walks at the stop, leaves nothing to reconstruct (log entry 97). -/
def execSplineReconstruct (t o : Nat) (s : State) : Host.Outcome State Fault Refusal :=
  match s.splineOpen t o with
  | none => .next s
  | some x =>
    match x.phase, x.run, s.walker t x.walker with
    | .take, none, some w =>
      if s.splineReady x w then
        .next (((s.setBuf w.handle 3 rankUnit).modSpline t o fun x =>
          { x with phase := .recon, mapStored := false, holds := true, sub := 0, walks := x.walks + 1,
                   next := if s.reconstructs t (w.walk x.walks) then 0 else x.count }).busy (s.lctxOf t))
      else if x.inputDone && w.doneOut && decide (w.walks ≤ x.walks) then
        .next ((s.modSpline t o fun x => { x with phase := .acks }).busy (s.lctxOf t))
      else .next s
    | .recon, none, some w =>
      if !s.bufMay w.handle rankUnit then .next s
      else .next (s.drainAgain t o x w.handle fun s =>
        (if x.next ≥ x.count then s.mapOut t o x w.handle else s.walkPoint t o x (w.walk (x.walks - 1))).busy (s.lctxOf t))
    | .recon, some r, _ =>
      if !s.bufMay r.handle rankUnit then .next s
      else .next (s.drainAgain t o x r.handle fun s =>
        (if x.next ≥ x.count then s.mapOut t o x r.handle else s.runPoint t o x r).busy (s.lctxOf t))
    | _, _, _ => .next s

/-- Once every store it issued is acknowledged, a spline pushes done on `o1`, or completes its `sp.run` (R176, R258). After
a walk that ended with a stop it takes the next walk's tokens (R256). -/
def execSplineDone (t o : Nat) (s : State) : Host.Outcome State Fault Refusal :=
  match s.splineOpen t o with
  | none => .next s
  | some x =>
    if x.phase != .acks || x.accs.any (fun a => a.k != flagK) then .next s
    else match x.run with
      | some r => .next ((s.endCmd (.op t o) r.reply 0).modSpline t o fun x => { x with run := none, phase := r.back })
      | none =>
        if x.inputDone then
          if s.outBound t o 1 && !s.canPush t o 1 1 then .next s
          else
            let s := if s.outBound t o 1 then s.pushTok t o 1 (doneTok 0) else s.gotDone t o
            .next ((s.modSpline t o fun x => { x with phase := .done }).countFiring t o)
        else .next (s.modSpline t o fun x =>
          { x with phase := .take, taken := 0, computed := [], audited := [], flags := [] })

/-- `sp.cfg` (R257). -/
def execSpCfg (t o : Nat) (p : Packet) (s : State) : Host.Outcome State Fault Refusal :=
  let f (lo n : Nat) : Nat := ((p.dbl 1).extractLsb' lo n).toNat
  let idle := match s.spline t o with
    | some x => x.phase != .recon && x.run.isNone
    | none => false
  .next (s.command (.op t o) idle fun s =>
    (s.oneStep (.op t o) p 0).modSpline t o fun x =>
      { x with fmt := f 53 4, kernel := f 50 3, da := f 47 3, db := f 44 3, tile := f 40 4 + 1, base := (p.dbl 2).toNat,
               count := (p.dbl 3).toNat, baseRef := p.dbl 2, countRef := p.dbl 3 })

/-- `sp.run`: it starts when the mask's handle is full, so that it waits while a walk fills it and while another spline
drains it (R245, R258), and reads PASSED and the mask. A handle that no walk has written has no mask to read, and the
command ends with STATUS 2 (log entry 31). -/
def execSpRun (t o : Nat) (p : Packet) (s : State) : Host.Outcome State Fault Refusal :=
  let e := EngineRef.op t o
  let h := ((p.dbl 1).extractLsb' 0 12).toNat
  match s.spline t o with
  | none => .next s
  | some x =>
    .next (s.command e ((x.phase == .take || x.phase == .done) && x.run.isNone && s.bufState h == 2 && s.bufMay h rankUnit) fun s =>
      let id := s.cmdId e
      let bad (s : State) : State := (s.oneStep e p 2).engineFault t o Code.xlate
      match aget h s.masks with
      | none => bad s
      | some (va, exts) =>
        s.unitRead t o va 4 (fun passed s => s.unitRead t o (va + 64) ((passed + 7) / 8) (fun mask s =>
          ((s.beginCmd e p).setBuf h 3 rankUnit).modSpline t o fun x =>
            { x with phase := .recon, next := 0, sub := 0, mapStored := false, holds := true,
                     run := some { handle := h, base := (p.dbl 2).toNat, exts := exts, passed := passed, mask := mask,
                                   flags := [], back := x.phase, reply := id } }) bad) bad)

/-! ## vf.set (R267, R268) -/

/-- The spline node of a rank in operator order (R267). -/
def Task.splineAt (k : Task) (rank : Nat) : Option Nat :=
  ((k.ops.zipIdx.filter fun p => match p.1.kind with
    | .spline _ => true
    | _ => false)[rank]?).map (·.2)

/-- `vf.set` (R268): it waits for the store of the map and acts on the map stored last, by the walk or by an `sp.run`. Its
store is the spline's among the stores of the task, and completes later. -/
def execVfSet (a d : Src) (s : State) : Out :=
  match s.cur with
  | .cell t o =>
    .next (s.withOperands t o [a, d] none fun _ _ l =>
      let x := l.getD 0 0
      let v := l.getD 1 0
      let n := (x.extractLsb' 0 24).toNat
      let bad (c : BitVec 7) : State := s.poisonOut t o (popsOf [a, d]) (poisonTok 0 (s.origin t o c))
      match (s.task t).bind fun k => (k.splineAt (x.extractLsb' 24 8).toNat).bind fun j => (s.spline t j).map fun q => (j, q) with
      | none => bad Code.range
      | some (j, q) =>
        if !q.mapStored then s
        else if n ≥ q.count ∨ v.extractLsb' 2 30 ≠ 0 then bad Code.range
        else
          let va := q.mapVa + 8 * (n / 32)
          match s.unitAt t j va 8 0, s.splineStore t j flagK va 8 (4 * (n % 32) + v.toNat) with
            | .wait s', _ => s'
            | .fault s' _ _, _ => s'.poisonOut t o (popsOf [a, d]) (poisonTok 0 (s.origin t o Code.xlate))
            | .at_ _ _, r => match r with
            | .wait s' => s'
            | .fault s' => s'.poisonOut t o (popsOf [a, d]) (poisonTok 0 (s.origin t o Code.xlate))
            | .ok s' => (s'.cellPops t o (popsOf [a, d])).cellAdvance t o (srcWords [a, d]) 1)
  | _ => .next s

end Sys2Proof.Machine
end

