-- ==== Sys2Proof/Machine/Matrix.lean ====
section
/-! DEFINITION. Matrix tiles: their commands, planes, chains and drains (12_matrix_instructions.md; 10_number_formats.md
R193 to R195; 09_ternary_layer_under_deadline.md R174). -/
namespace Sys2Proof.Machine

/-! ## Ports and planes (R222, R227) -/

/-- Ports of a matrix tile (R222). -/
def mxIn : Nat := 0
@[inherit_doc mxIn] def mxWt : Nat := 1
@[inherit_doc mxIn] def mxOut : Nat := 2

/-- The floor of S for a weight format: TERN, INT4, E2M1, E4M3, INT8 (R229). -/
def sFloor (wfmt : Nat) : Nat :=
  match wfmt with
  | 0 => 1
  | 4 => 4
  | _ => 2

/-- A cleared plane (R222). -/
def emptyPlane (wfmt : Nat) : Plane := { w := [], eb := [], s := sFloor wfmt, poison := none }

/-- Output tokens of one row (R233). -/
def Matrix.rowToks (m : Matrix) : Nat := (m.ncol + 31) / 32

/-! ## Weights (R174, R187, R193, R228, R229) -/

/-- The integer of a float weight or activation at the array edge: value · 2^9 (R193). `none` for NaN. -/
def edgeInt (f : FFmt) (x : Nat) : Option Int :=
  match f.unpack x with
  | .fin neg m e => some ((if neg then -1 else 1) * ((m * 2 ^ (e + 9).toNat : Nat) : Int))
  | _ => none

/-- The fewest signed digits 2^shift, with shift 0 to 17, that sum to a magnitude (R229). -/
def digits : Nat → Nat → Nat → Nat
  | 0, _, v => if v = 0 then 0 else 99
  | f + 1, sh, v =>
    if v = 0 then 0
    else if v % 2 = 0 then digits f (sh + 1) (v / 2)
    else if sh > 17 then 99
    else 1 + min (digits f (sh + 1) (v / 2)) (digits f (sh + 1) ((v + 1) / 2))

/-- The weight of row k, column j in an image given as one number, with the sticky flags that reading it sets: TBAD 1, WNAN
8 (R174, R187, R228, R229, R239). -/
def weightAt (wfmt : Nat) (stream : Bool) (img k j : Nat) : Int × Nat :=
  match wfmt with
  | 0 =>
    if stream then
      match img / 2 ^ (2 * (128 * j + k)) % 4 with
      | 1 => (1, 0)
      | 2 => (0, 1)
      | 3 => (-1, 0)
      | _ => (0, 0)
    else
      let b := img / 2 ^ (8 * (26 * j + k / 5)) % 256
      if b ≥ 243 then (0, 1)
      else match b / 3 ^ (k % 5) % 3 with
        | 1 => (1, 0)
        | 2 => (-1, 0)
        | _ => (0, 0)
  | 1 => (sgn 4 (img / 2 ^ (512 * j + 4 * k) % 16), 0)
  | 2 => ((edgeInt e2m1 (img / 2 ^ (512 * j + 4 * k) % 16)).getD 0, 0)
  | 3 =>
    match edgeInt e4m3 (img / 2 ^ (8 * (128 * j + k)) % 256) with
    | some v => (v, 0)
    | none => (0, 8)
  | _ => (sgn 8 (img / 2 ^ (8 * (128 * j + k)) % 256), 0)

/-- The weights of an image that are not zero, by 128 · row + column, and the flags. -/
def weightsOf (wfmt : Nat) (stream : Bool) (img : Nat) : List (Nat × Int) × Nat :=
  (List.range 16384).foldl (fun (acc : List (Nat × Int) × Nat) n =>
    match weightAt wfmt stream img (n / 128) (n % 128) with
    | (v, f) => (if v = 0 then acc.1 else (n, v) :: acc.1, Nat.lor acc.2 f)) ([], 0)

/-- S of a plane (R229). -/
def planeS (wfmt : Nat) (w : List (Nat × Int)) : Nat := max (sFloor wfmt) (lmax (w.map fun x => digits 20 0 x.2.natAbs))

/-- Lines of 64 bytes of an image in memory, without the line of block exponents (R228). -/
def imageLines (wfmt : Nat) : Nat :=
  match wfmt with
  | 0 => 52
  | 1 | 2 => 128
  | _ => 256
/-- Tokens of an image on the stream (R228). -/
def imageToks (wfmt : Nat) : Nat :=
  match wfmt with
  | 0 => 32
  | 1 | 2 => 64
  | _ => 128

/-- Bytes 0 to 3 of a scale line or token (R228, R233). -/
def fourBytes (v : Nat) : List Nat := (List.range 4).map fun i => v / 256 ^ i % 256

/-- A number from pieces of `n` bits, least significant first. -/
def joinBits (n : Nat) : List Wide → Nat
  | [] => 0
  | w :: t => w.toNat % 2 ^ n + 2 ^ n * joinBits n t

/-! ## Chains and drains (R193 to R195, R232) -/

/-- An activation element as an integer: 0 at or beyond COUNT, `none` for NaN (R193, R232). -/
def Matrix.act (m : Matrix) (tok : Token) (k : Nat) : Option Int :=
  if tok.count ≠ 0 ∧ k ≥ tok.count.toNat then some 0
  else
    let b := tok.pay.toNat / 2 ^ (8 * k) % 256
    if m.afmt = 0xB then some (sgn 8 b) else edgeInt e4m3 b

/-- Rows of a K block (R194). -/
def Matrix.blockRows (m : Matrix) : Nat := if m.mx then 32 else 128

/-- The chain of a column over K block b (R194). -/
def Matrix.chain (m : Matrix) (acts : List (Option Int)) (b col : Nat) : Int :=
  m.active.w.foldl (fun (s : Int) x =>
    if x.1 % 128 = col ∧ x.1 / 128 / m.blockRows = b then s + ((acts.getD (x.1 / 128) none).getD 0) * x.2 else s) 0

/-- The drain of a chain (R195): the new accumulator, and the flags it sets: NAN 2, OF 4. -/
def drainOne (acc cs : Word) (chain : Int) (nan : Bool) (ea eb : Nat) (f : Nat) : Word × Nat :=
  let c := fp32.unpack cs.toNat
  if nan || ea == 255 || eb == 255 || c.isNan then (0x7FC00000, 2)
  else
    let a := fp32.unpack acc.toNat
    let p := fpMul (fpOfInt chain ((ea : Int) + eb - 254 - f)) c
    let v := fpAdd false a p
    match v with
    | .nan => (0x7FC00000, 2)
    | .fin _ 0 _ => (0, 0)
    | _ =>
      let r := fp32.result false .rne v
      let fin (x : Fp) : Bool := match x with
        | .fin _ _ _ => true
        | _ => false
      (BitVec.ofNat 32 r, if r % 2 ^ 31 = 0x7F800000 ∧ fin a ∧ fin p then 4 else 0)

/-- The accumulators of a row after a token, one column at a time: for every K block in increasing order (R232). -/
def Matrix.column (m : Matrix) (acts : List (Option Int)) (row col : Nat) : Word × Nat :=
  let f := (if m.afmt = 0x4 then 9 else 0) + (if m.wfmt = 2 ∨ m.wfmt = 3 then 9 else 0)
  (List.range (128 / m.blockRows)).foldl (fun (z : Word × Nat) b =>
    let nan := ((acts.drop (b * m.blockRows)).take m.blockRows).any (·.isNone)
    match drainOne z.1 ((aget col m.cs).getD 0x3F800000) (m.chain acts b col) nan (m.ea.getD b 127) (m.active.eb.getD b 127) f with
    | (v, g) => (v, Nat.lor z.2 g)) ((aget (128 * row + col) m.acc).getD 0, 0)

/-- The tile after a token on a row that no poison marks. -/
def Matrix.compute (m : Matrix) (tok : Token) (row : Nat) : Matrix :=
  let acts := (List.range 128).map (m.act tok)
  (List.range 128).foldl (fun (x : Matrix) col =>
    match m.column acts row col with
    | (v, g) => { x with acc := aset (128 * row + col) v x.acc, flags := x.flags ||| BitVec.ofNat 4 g }) m

/-- The output tokens of a row: its accumulators, or poison with the row's origin (R233). -/
def Matrix.rowOut (m : Matrix) (row : Nat) (kind tag : Nat) : List Token :=
  (List.range m.rowToks).map fun i =>
    match aget row m.marks with
    | some w => poisonTok tag w
    | none =>
      let n := min 32 (m.ncol - 32 * i)
      { hdr := mkHdr kind 0 tag, count := if n = 32 then 0 else BitVec.ofNat 16 n,
        pay := packElems 0x1 ((List.range n).map fun j => (aget (128 * row + 32 * i + j) m.acc).getD 0) }

/-- A row cleared to +0, with its mark (R232, R233). -/
def Matrix.clearRow (m : Matrix) (row : Nat) : Matrix :=
  { m with acc := m.acc.filter fun x => x.1 / 128 != row, marks := adel row m.marks }

/-- The operation ends (R225, R232, R233): status 0 by its count, 1 by a done token. -/
def State.mxOpEnd (s : State) (t o status : Nat) : State :=
  match s.matrix t o with
  | none => s
  | some m =>
    if !m.opOpen then s
    else
      let pass := if status = 0 then (m.pass + 1) % m.kpass else 0
      (s.modMatrix t o fun m => { m with opOpen := false, armed := 0, pass := pass, ops := m.ops + 1, swapAfter := false }).endCmd
        (.op t o) m.armReply status

/-- Output tokens that the operation in progress has still to push: those of an earlier `mx.drain` stand before them (R224).
-/
def Matrix.ownOut (m : Matrix) : Nat := m.out.length - lsum (m.drains.map (·.1))

/-- End an operation whose count is 0 and whose own rows have all been pushed (R224, R233). -/
def State.mxSettle (s : State) (t o : Nat) : State :=
  match s.matrix t o with
  | some m => if m.opOpen && m.armed == 0 && m.ownOut == 0 then s.mxOpEnd t o 0 else s
  | none => s

/-- Fc between tokens: S, doubled and quadrupled under sub-steps 5a and 5b (R234). -/
def State.mxGap (s : State) (m : Matrix) : Nat := m.active.s * (if s.power.lever ≥ 6 then 4 else if s.power.lever ≥ 5 then 2 else 1)

/-- The array takes an activation token (R231 to R234). -/
def State.mxTake (s : State) (t o : Nat) (m : Matrix) (tok : Token) : State :=
  let swap := m.idx == 0 && m.swapPending.isSome && !m.swapAfter
  let m' : Matrix := if swap then { m with active := m.shadow, shadow := m.active } else m
  let row := m.idx % m.rows
  let origin := if tok.isPoison then some tok.word else match m'.active.poison with
    | some w => some w
    | none => m.csPoison
  let m' := match origin with
    | some w => { m' with marks := if (aget row m'.marks).isSome then m'.marks else aset row w m'.marks }
    | none => m'.compute tok row
  let last := m.pass + 1 == m.kpass
  let m' := if last then { m'.clearRow row with out := m'.out ++ m'.rowOut row tok.kind (hdrTag tok.hdr) } else m'
  let m' := { m' with armed := m.armed - 1, idx := m.idx + 1, tokens := m.tokens + 1, takeAt := s.after t o (s.mxGap m'),
                      pushAt := s.after t o 1, swapPending := if swap then none else m.swapPending }
  let s := ((s.resetRates t o).popTok t o mxIn).modMatrix t o fun x => { m' with inbox := x.inbox }
  let s := match swap, m.swapPending with
    | true, some id => s.endCmd (.op t o) id 0
    | _, _ => s
  ((s.mxSettle t o).busy (s.lctxOf t)).countFiring t o

/-- The array takes an activation, scale, stop or done token from `in` (R233). -/
def State.mxToken (s : State) (t o : Nat) (m : Matrix) (tok : Token) : State :=
  if tok.kind = Kind.scale then
    (s.popTok t o mxIn).modMatrix t o fun m =>
      { m with ea := if m.mx then fourBytes tok.pay.toNat else [tok.pay.toNat % 256] }
  else if tok.isClose then
    if !m.out.isEmpty || decide (m.pushAt > s.fc) || !s.canPush t o mxOut 1 then s
    else
      let s := ((s.popTok t o mxIn).pushTok t o mxOut tok).modMatrix t o fun m => { m with pushAt := s.after t o 1 }
      if tok.kind = Kind.done then
        let s := s.mxOpEnd t o 1
        let s := s.modMatrix t o fun m => { m with pass := 0, partialRows := true }
        if s.outBound t o mxOut then s else s.gotDone t o
      else s
  else
    let last := m.pass + 1 == m.kpass
    let swapWaits := m.idx == 0 && m.swapPending.isSome && !m.swapAfter && m.load.isSome
    if !m.opOpen || m.armed == 0 || (last && !m.out.isEmpty) || decide (m.takeAt > s.fc) || swapWaits then s
    else s.mxTake t o m tok

/-- A matrix tile that may act. -/
def State.mxOpen (s : State) (t o : Nat) : Option Matrix :=
  match s.op t o, s.matrix t o with
  | some p, some m => if s.live t && p.fault.isNone && s.unitTicks t o then some m else none
  | _, _ => none

@[inherit_doc State.mxToken]
def execMatrixTokenTake (t o : Nat) (s : State) : Host.Outcome State Fault Refusal :=
  match s.mxOpen t o with
  | none => .next s
  | some m =>
    match s.behindDone t o mxIn, s.headTok t o mxIn with
    | some tok, _ => .next (s.malformed t o mxIn tok)
    | none, some tok => .next (s.mxToken t o m tok)
    | none, none => .next s

/-- The array pushes a row's output tokens one per fc as depth allows; a pause lets the pushes of a token taken end (R234,
R236, R240). What `mx.drain` pushes counts against the rate bound with the last activation token taken (R39; log entry 90).
-/
def execMatrixOutputPush (t o : Nat) (s : State) : Host.Outcome State Fault Refusal :=
  match s.matrix t o with
  | none => .next s
  | some m =>
    if !s.goesOn t || s.frozen t o || !s.unitTicks t o || decide (m.pushAt > s.fc) || !s.canPush t o mxOut 1 then .next s
    else match m.out with
      | [] => .next s
      | tok :: rest =>
        match s.pushRate t o mxOut tok with
        | some d => .next (s.freeze t o Code.rate d)
        | none =>
          let s := s.pushTok t o mxOut tok
          let s := if s.outBound t o mxOut || !tok.isPoison then s else s.sinkPoison t o tok.word
          let drains := match m.drains with
            | (n, id) :: more => if n ≤ 1 then more else (n - 1, id) :: more
            | [] => []
          let s := s.modMatrix t o fun m => { m with out := rest, pushAt := s.after t o 1, drains := drains }
          let s := match m.drains with
            | (n, id) :: _ => if n ≤ 1 then s.endCmd (.op t o) id 0 else s
            | [] => s
          .next ((s.mxSettle t o).busy (s.lctxOf t))

/-! ## Loading weights (R230) -/

/-- A load is complete: the shadow plane takes its weights (R228 to R230). -/
def State.mxLoaded (s : State) (t o : Nat) (m : Matrix) (ld : Load) (img : Nat) (eb : List Nat) : State :=
  match weightsOf m.wfmt ld.stream img with
  | (w, f) =>
    let p : Plane := { w := w, eb := eb, s := planeS m.wfmt w, poison := ld.poison }
    let s := s.modMatrix t o fun m =>
      { m with shadow := p, load := none, flags := m.flags ||| BitVec.ofNat 4 f,
               takeAt := if m.swapPending.isSome then max m.takeAt (s.after t o 1) else m.takeAt }
    match ld.poison with
    | some x => (s.endCmd (.op t o) ld.reply 2).taskRecord t o x (x.extractLsb' 0 7) false 0xFFFF 0
    | none => s.endCmd (.op t o) ld.reply 0

/-- The address of line `i` of a load, of the image or of the block exponents behind it (R228, R230). -/
def Load.lineVa (ld : Load) (i : Nat) : Nat := ld.va.toNat + 64 * i

/-- A load from an address: its lines in image order, each faulting one poisoning the plane (R230). It waits for walks (R324),
and its reads count as accesses (R273). -/
def State.mxLines (s : State) (t o : Nat) (m : Matrix) (ld : Load) : State :=
  let n := imageLines m.wfmt
  let keys := (List.range (n + if m.mx then 1 else 0)).map fun i => s.unitKeys t o (ld.lineVa i) 64 0
  let wait := keys.findSome? fun k => match k with
    | .wait s' => some s'
    | _ => none
  match wait with
  | some s' => s'
  | none =>
  let lines := keys.map fun k => match k with
    | .at_ ks => some (s.readKeys ks)
    | _ => none
  let s := keys.foldl (fun s k => match k with
    | .at_ ks => s.touchKeys ks
    | _ => s) s
  let s := if lines.all (·.isSome) then s else s.dropUsersOf t o
  let img := joinBits 512 ((lines.take n).map fun x => BitVec.ofNat 1024 (x.getD 0))
  let eb := if m.mx then fourBytes ((lines.getD n none).getD 0) else []
  let bad := if lines.any (·.isNone) then some (s.origin t o Code.xlate) else none
  s.mxLoaded t o m { ld with poison := bad } img eb

/-- One token of a load from the stream (R228, R230). -/
def State.mxStream (s : State) (t o : Nat) (m : Matrix) (ld : Load) (tok : Token) : State :=
  if tok.isClose || tok.kind = Kind.audit || (tok.kind = Kind.scale && (!m.mx || ld.scaled.isSome || ld.taken ≠ 0)) then
    s.freezeEngine (.op t o) Code.malformed (malformedDetail tok mxWt)
  else
    let s := (s.popTok t o mxWt).busy (s.lctxOf t)
    if tok.kind = Kind.scale then
      s.modMatrix t o fun m => { m with load := some { ld with scaled := some (fourBytes tok.pay.toNat), at_ := s.after t o 1 } }
    else
      let ld := { ld with taken := ld.taken + 1, at_ := s.after t o 1, lines := ld.lines ++ [if tok.isPoison then 0 else tok.pay],
                          poison := if ld.poison.isSome || !tok.isPoison then ld.poison else some tok.word }
      if ld.taken < imageToks m.wfmt then s.modMatrix t o fun m => { m with load := some ld }
      else s.mxLoaded t o m ld (joinBits 1024 ld.lines) (ld.scaled.getD [])

/-- The next token of a load from the stream is taken, or the lines of a load from an address have all arrived: with the
last the load completes (R230). A pause lets it run to its end (R240). -/
def execMxLoadwComplete (t o : Nat) (s : State) : Host.Outcome State Fault Refusal :=
  match s.matrix t o with
  | none => .next s
  | some m =>
    match m.load with
    | none => .next s
    | some ld =>
      if !s.goesOn t || s.frozen t o || !s.unitTicks t o || decide (ld.at_ > s.fc) then .next s
      else if !ld.stream then .next (s.mxLines t o m ld)
      else match s.headTok t o mxWt with
        | none => .next s
        | some tok => .next (s.mxStream t o m ld tok)

/-! ## Commands (R224 to R238) -/

/-- The matrix tile of an operator, for a command's condition. -/
def State.mxWhen (s : State) (t o : Nat) (c : Matrix → Bool) : Bool := ((s.matrix t o).map c).getD false

/-- `mx.cfg` (R227). -/
def execMxCfg (t o : Nat) (p : Packet) (s : State) : Host.Outcome State Fault Refusal :=
  let f (lo n : Nat) : Nat := ((p.dbl 1).extractLsb' lo n).toNat
  .next (s.command (.op t o) (s.mxWhen t o fun m => !m.opOpen && m.load.isNone && m.swapPending.isNone) fun s =>
    (s.oneStep (.op t o) p 0).modMatrix t o fun m =>
      { m with configured := true, afmt := f 53 4, wfmt := f 50 3, mx := f 49 1 == 1, ncol := f 42 7 + 1,
               rows := f 34 8 + 1, kpass := f 30 4 + 1, active := emptyPlane (f 50 3), shadow := emptyPlane (f 50 3),
               cs := [], csPoison := none, acc := [], marks := [], ea := [], armed := 0, pass := 0,
               partialRows := false })

/-- `mx.loadw` (R230). -/
def execMxLoadw (t o : Nat) (p : Packet) (s : State) : Host.Outcome State Fault Refusal :=
  let e := EngineRef.op t o
  .next (s.command e (s.mxWhen t o fun m => m.load.isNone && m.swapPending.isNone) fun s =>
    match s.matrix t o with
    | none => s
    | some m =>
      if !m.configured then s.illegalCmd e p
      else
        let stream := (p.dbl 2).getLsbD 63
        let id := s.cmdId e
        let ld : Load :=
          { stream := stream, va := p.dbl 2, taken := 0, scaled := none, lines := [], poison := none, reply := id,
            at_ := if stream then s.after t o 1 else s.after t o (1 + imageLines m.wfmt) }
        (s.beginCmd e p).modMatrix t o fun m => { m with load := some ld })

/-- `mx.swap` (R231). -/
def execMxSwap (t o : Nat) (p : Packet) (s : State) : Host.Outcome State Fault Refusal :=
  let e := EngineRef.op t o
  .next (s.command e (s.mxWhen t o fun m => m.swapPending.isNone) fun s =>
    let id := s.cmdId e
    (s.beginCmd e p).modMatrix t o fun m => { m with swapPending := some id, swapAfter := m.opOpen })

/-- `mx.arm` (R227, R232, R233). -/
def execMxArm (t o : Nat) (p : Packet) (s : State) : Host.Outcome State Fault Refusal :=
  let e := EngineRef.op t o
  let n := ((p.dbl 1).extractLsb' 0 32).toNat
  .next (s.command e (s.mxWhen t o fun m => !m.opOpen) fun s =>
    match s.matrix t o with
    | none => s
    | some m =>
      if !m.configured ∨ (m.kpass > 1 ∧ n ≠ m.rows) then s.illegalCmd e p
      else
        let id := s.cmdId e
        (s.beginCmd e p).modMatrix t o fun m =>
          { m with armed := n, opOpen := true, idx := 0, armReply := id, partialRows := false,
                   acc := if m.partialRows then [] else m.acc, marks := if m.partialRows then [] else m.marks })

/-- `mx.scale` (R235). -/
def execMxScale (t o : Nat) (p : Packet) (s : State) : Host.Outcome State Fault Refusal :=
  let e := EngineRef.op t o
  .next (s.command e (s.mxWhen t o fun m => !m.opOpen) fun s =>
    if (p.dbl 1).getLsbD 56 then
      (s.oneStep e p 0).modMatrix t o fun m =>
        { m with cs := (List.range 128).map fun c => (c, (p.dbl 1).extractLsb' 0 32), csPoison := none }
    else s.unitRead t o (p.dbl 2).toNat 512
      (fun v s => (s.oneStep e p 0).modMatrix t o fun m =>
        { m with cs := (List.range 128).map fun c => (c, BitVec.ofNat 32 (v / 2 ^ (32 * c))), csPoison := none })
      fun s => ((s.oneStep e p 2).modMatrix t o fun m =>
        { m with csPoison := some (s.origin t o Code.xlate) }).engineFault t o Code.xlate)

/-- The rows that an `mx.drain` writes to memory; a fault stops the writes (R236), and so does a wait, after which the command
writes its rows again. -/
def State.mxRows (s : State) (t o : Nat) (m : Matrix) (va row : Nat) : Nat → Stored
  | 0 => .ok s
  | n + 1 =>
    let v := if (aget row m.marks).isSome then lsum ((List.range 128).map fun c => 0x7FC00000 * 2 ^ (32 * c))
      else lsum ((List.range 128).map fun c => ((aget (128 * row + c) m.acc).getD 0).toNat * 2 ^ (32 * c))
    match s.unitWrite t o va 512 v with
    | .ok s => s.mxRows t o m (va + 512) (row + 1) n
    | r => r

/-- `mx.drain` (R236). -/
def execMxDrain (t o : Nat) (p : Packet) (s : State) : Host.Outcome State Fault Refusal :=
  let e := EngineRef.op t o
  let w1 := p.dbl 1
  let row0 := (w1.extractLsb' 49 8).toNat
  let n := (w1.extractLsb' 41 8).toNat + 1
  .next (s.command e (s.mxWhen t o fun m => !m.opOpen) fun s =>
    match s.matrix t o with
    | none => s
    | some m =>
      if row0 + n > m.rows then s.illegalCmd e p
      else if !w1.getLsbD 40 then
        let id := s.cmdId e
        (s.beginCmd e p).modMatrix t o fun m =>
          { m with out := m.out ++ ((List.range n).map fun i => m.rowOut (row0 + i) Kind.data 0).flatten,
                   drains := m.drains ++ [(n * m.rowToks, id)], pushAt := max m.pushAt (s.after t o 1) }
      else
        let mark := (List.range n).findSome? fun i => aget (row0 + i) m.marks
        match s.unitKeys t o (p.dbl 2).toNat (512 * n) 1, s.mxRows t o m (p.dbl 2).toNat row0 n with
        | .wait s', _ | _, .wait s' => s'
        | _, .fault s => (s.oneStep e p 2).engineFault t o Code.xlate
        | _, .ok s => match mark with
          | some x => (s.oneStep e p 2).taskRecord t o x (x.extractLsb' 0 7) false 0xFFFF 0
          | none => s.oneStep e p 0)

/-- `mx.zero` (R237). -/
def execMxZero (t o : Nat) (p : Packet) (s : State) : Host.Outcome State Fault Refusal :=
  let w1 := p.dbl 1
  .next (s.command (.op t o) (s.mxWhen t o fun m => !m.opOpen) fun s =>
    (s.oneStep (.op t o) p 0).modMatrix t o fun m =>
      { m with acc := if w1.getLsbD 56 then [] else m.acc, marks := if w1.getLsbD 56 then [] else m.marks,
               ea := if w1.getLsbD 55 then [] else m.ea, flags := if w1.getLsbD 54 then 0 else m.flags,
               pass := if w1.getLsbD 53 then 0 else m.pass })

/-- The 32 bytes of `mx.stat` (R238). -/
def Matrix.stat (m : Matrix) : Nat :=
  let st := (if m.load.isSome then 8 else 0) + (if m.swapPending.isSome then 4 else 0) +
    (if m.active.poison.isSome then 2 else 0) + (if m.shadow.poison.isSome then 1 else 0)
  let d1 := m.armed * 2 ^ 32 + m.pass * 2 ^ 28 + (m.active.s - 1) * 2 ^ 26 + (m.shadow.s - 1) * 2 ^ 24 + st * 2 ^ 20
  m.flags.toNat + 2 ^ 64 * (d1 + 2 ^ 64 * (m.ops % 2 ^ 64 + 2 ^ 64 * (m.tokens % 2 ^ 64)))

/-- `mx.stat` (R238). -/
def execMxStat (t o : Nat) (p : Packet) (s : State) : Host.Outcome State Fault Refusal :=
  let e := EngineRef.op t o
  .next (s.command e true fun s =>
    match s.matrix t o with
    | none => s
    | some m => match s.unitWrite t o (p.dbl 2).toNat 32 m.stat with
      | .wait s' => s'
      | .fault s => (s.oneStep e p 2).engineFault t o Code.xlate
      | .ok s => (s.oneStep e p 0).modMatrix t o fun m => { m with flags := if (p.dbl 1).getLsbD 56 then 0 else m.flags })

end Sys2Proof.Machine
end

