-- ==== Sys2Proof/Machine/CopyEngine.lean ====
section
/-! DEFINITION. Copy engines, buffer handles, timeline commands and bank ALUs (19_memory_nodes.md R341 to R352). -/
namespace Sys2Proof.Machine

/-! ## Templates (R345, R346) -/

/-- Ports of a copy engine (R345). -/
def cpWi : Nat := 0
@[inherit_doc cpWi] def cpWo : Nat := 1
@[inherit_doc cpWi] def cpNi : Nat := 2
@[inherit_doc cpWi] def cpNo : Nat := 3

/-- A slot that is not armed. -/
def emptySlot : Slot :=
  { armed := false, declared := false, src := .addr 0, dst := .addr 0, dims := [], esize := 1, ten := false, tport := 0, sh := none, dh := none,
    rpl := false, rply := false, word7 := 0, seq := 0, firing := false, shTaken := false, dhTaken := false, elem := 0,
    inTok := [], inPos := 0, inAudit := false, outTok := [], outAudit := false, old := [], fireNo := 0, stall := none, fetch := none, status := 0,
    finished := false, fireReply := none, sub := 0 }

/-- A slot of a copy engine. -/
def State.slot (s : State) (t o n : Nat) : Option Slot := (s.copyEng t o).bind fun c => c.slots[n]?
/-- Change a slot. -/
def State.modSlot (s : State) (t o n : Nat) (f : Slot → Slot) : State :=
  s.modCopy t o fun c => { c with slots := lmod n f c.slots }

/-- A dimension record of a copy (R346). -/
def copyDim (d : Dbl) : DimRec :=
  { ext := (d.extractLsb' 48 16).toNat + 1, sstr := (d.extractLsb' 24 24).toInt, dstr := (d.extractLsb' 0 24).toInt }

/-- The endpoint that an operand word of `cp.arm` names. -/
def endPt (w : Dbl) (mt : Bool) : EndPt :=
  if mt then .mtile (w.extractLsb' 0 32).toNat else if w.getLsbD 63 then .port (portOf w) else .addr (w.extractLsb' 0 57).toNat

/-- The slot that an image of `cp.arm` arms (R346). -/
def armedSlot (p : Packet) (dims : List DimRec) : Slot :=
  let w1 := p.dbl 1
  { emptySlot with
    armed := true, src := endPt (p.dbl 2) (w1.getLsbD 15), dst := endPt (p.dbl 3) (w1.getLsbD 14), dims := dims,
    esize := copySize w1, ten := w1.getLsbD 46, tport := (w1.extractLsb' 42 4).toNat,
    sh := if w1.getLsbD 29 then some (w1.extractLsb' 30 12).toNat else none,
    dh := if w1.getLsbD 16 then some (w1.extractLsb' 17 12).toNat else none,
    rpl := w1.getLsbD 13, rply := Packet.rply p, word7 := p.dbl 7, seq := Packet.seq p }

/-- Whether an endpoint is a stream. -/
def EndPt.stream : EndPt → Bool
  | .port _ => true
  | _ => false

/-- The strides of a stream endpoint are 0 (R346). -/
def Slot.stridesOk (x : Slot) : Bool :=
  x.dims.all fun d => (!x.src.stream || d.sstr == 0) && (!x.dst.stream || d.dstr == 0)

/-- A copy engine that may act. -/
def State.copyOpen (s : State) (t o : Nat) : Bool := s.live t && !s.frozen t o

/-- `cp.arm`: it waits while its template has a firing in progress, and sends no reply of its own (R346; log entry 32). -/
def execCpArm (t o : Nat) (p : Packet) (s : State) : Host.Outcome State Fault Refusal :=
  let e := EngineRef.op t o
  let w1 := p.dbl 1
  let n := (w1.extractLsb' 53 4).toNat
  let nd := (w1.extractLsb' 50 3).toNat + 1
  let quiet (s : State) (id : Nat) : State := s.modInbox e fun b => b.setReply id fun r => { r with rply := false }
  .next (s.command e (((s.slot t o n).map fun x => !x.firing).getD false) fun s =>
    let id := s.cmdId e
    s.unitRead t o (p.dbl 4).toNat (8 * nd)
      (fun v s =>
        let x := armedSlot p ((doubles v nd).map copyDim)
        if x.stridesOk then (quiet (s.oneStep e p 0) id).modSlot t o n fun _ => x else s.illegalCmd e p)
      fun s => (quiet (s.oneStep e p 2) id).engineFault t o Code.xlate)

/-! ## Firings (R347, R348) -/

/-- A firing takes its handles, the source's first (R347 L010, L020). -/
def State.takeHandles (s : State) (t o n : Nat) : State :=
  match s.slot t o n with
  | none => s
  | some x =>
    if !x.firing then s
    else
      let s := if x.shTaken then s else match x.sh with
        | none => s.modSlot t o n fun x => { x with shTaken := true }
        | some h =>
          if s.bufState h = 2 ∧ s.bufMay h rankCopy then (s.setBuf h 3 rankCopy).modSlot t o n fun x => { x with shTaken := true }
          else s
      if x.dhTaken || !(((s.slot t o n).map (·.shTaken)).getD false) then s else match x.dh with
        | none => s.modSlot t o n fun x => { x with dhTaken := true }
        | some h =>
          if s.bufState h = 1 ∨ s.bufState h = 3 ∨ !s.bufMay h rankCopy then s
          else (s.setBuf h 1 rankCopy).modSlot t o n fun x => { x with dhTaken := true }

/-- A template fires (R347). The rates of R39 count over the firing of the template, as R347 calls it, and not over the
64-byte transfers that R11 counts (log entry 92). -/
def State.fireSlot (s : State) (t o n : Nat) (reply : Option Nat) : State :=
  (((s.resetRates t o).bumpId.modSlot t o n fun x =>
    { x with firing := true, shTaken := false, dhTaken := false, elem := 0, sub := 0, inTok := [], inPos := 0, inAudit := false, outTok := [],
             outAudit := false, old := [], fireNo := s.nextId, stall := none, fetch := none, status := 0, finished := false,
             fireReply := reply }).takeHandles t o n).busy (s.lctxOf t)

/-- `cp.fire`; without RPLY the template's stored reply stands for its own (R348). -/
def execCpFire (t o : Nat) (p : Packet) (s : State) : Host.Outcome State Fault Refusal :=
  let e := EngineRef.op t o
  let n := ((p.dbl 1).extractLsb' 53 4).toNat
  .next (s.command e (((s.slot t o n).map fun x => !x.firing).getD false) fun s =>
    match s.slot t o n with
    | none => s
    | some x =>
      if !x.armed then s.illegalCmd e p
      else
        let id := s.cmdId e
        let s := s.beginCmd e p
        let s := if Packet.rply p then s else s.modInbox e fun b => b.setReply id fun r =>
          { r with rply := x.rply, word7 := x.word7, opc := 1, seq := x.seq }
        s.fireSlot t o n (some id))

/-- A data token at a trigger port fires its template, a done token disarms it, and poison is held as a sink holds it
(R347). -/
def execCopyTrigger (t o slot : Nat) (s : State) : Host.Outcome State Fault Refusal :=
  match s.slot t o slot with
  | none => .next s
  | some x =>
    if !s.copyOpen t o || !x.ten then .next s
    else match s.behindDone t o x.tport, s.headTok t o x.tport with
      | some tok, _ => .next (s.malformed t o x.tport tok)
      | none, none => .next s
      | none, some tok =>
        if tok.isData then
          .next (if x.armed && !x.firing then (s.fireSlot t o slot none).popTok t o x.tport else s)
        else if tok.kind = Kind.done then
          .next (((s.popTok t o x.tport).modSlot t o slot fun x => { x with armed := false }).gotDone t o)
        else if tok.isPoison then .next ((s.popTok t o x.tport).sinkPoison t o tok.word)
        else .next (s.malformed t o x.tport tok)

/-! ## Transfers (R345 to R347) -/

/-- Bytes of a part: an element, or half of a 128-byte line. -/
def Slot.part (x : Slot) : Nat := min x.esize 64
/-- Parts of an element. -/
def Slot.parts (x : Slot) : Nat := x.esize / x.part
/-- Parts of a firing. -/
def Slot.total (x : Slot) : Nat := points (x.dims.map (·.ext)) * x.parts

/-- Offset of part `i` from an endpoint's base, with the strides that `f` selects (R346). -/
def Slot.offset (x : Slot) (f : DimRec → Int) (i : Nat) : Int :=
  ((pointIdx (x.dims.map (·.ext)) (i / x.parts)).zip x.dims).foldl (fun (a : Int) z => a + z.1 * f z.2)
    ((64 * (i % x.parts) : Nat) : Int)

/-- The address of part `i` at an endpoint; one below zero has no translation. -/
def Slot.addrAt (x : Slot) (e : EndPt) (f : DimRec → Int) (i : Nat) : Nat :=
  let base := match e with
    | .addr a => a
    | .mtile a => a
    | .port _ => 0
  let a := (base : Int) + x.offset f i
  if a < 0 then 2 ^ 57 else a.toNat

/-- Source and destination address of a part. -/
def Slot.srcAt (x : Slot) (i : Nat) : Nat := x.addrAt x.src (·.sstr) i
@[inherit_doc Slot.srcAt] def Slot.dstAt (x : Slot) (i : Nat) : Nat := x.addrAt x.dst (·.dstr) i

/-- Parts that a token of a stream endpoint holds (R346). -/
def Slot.tokParts (x : Slot) (p : Nat) : Nat := if p < 2 then 128 / x.part else 1

/-- Whether part i + 1 lies whole behind part i at an endpoint, in the same 64 bytes (R345). -/
def Slot.follows (x : Slot) (e : EndPt) (f : DimRec → Int) (pos i : Nat) : Bool :=
  match e with
  | .port p => decide (pos + 1 < x.tokParts p) && decide (pos * x.part / 64 = (pos + 1) * x.part / 64)
  | _ => decide (x.addrAt e f (i + 1) = x.addrAt e f i + x.part) &&
      decide (x.addrAt e f i / 64 = (x.addrAt e f (i + 1) + x.part - 1) / 64)

/-- Bytes of part `i` from its byte `j` on that one transfer moves: it crosses a 64-byte boundary of neither endpoint
(R345). -/
def Slot.pieceLen (x : Slot) (i j : Nat) : Nat :=
  let left (e : EndPt) (f : DimRec → Int) : Nat := match e with
    | .port _ => x.part
    | _ => 64 - (x.addrAt e f i + j) % 64
  min (x.part - j) (min (left x.src (·.sstr)) (left x.dst (·.dstr)))

/-- The parts of the next transfer, where the first is moved whole: as many as follow one another at both endpoints in 64
bytes (R345). -/
def Slot.run (x : Slot) : Nat → Nat → Nat → Nat
  | 0, _, _ => 1
  | f + 1, i, k =>
    if i + 1 < x.total && x.follows x.src (·.sstr) (x.inPos + k) i && x.follows x.dst (·.dstr) (x.outTok.length + k) i &&
        (!x.src.stream || decide (k + 1 < x.inTok.length)) then x.run f (i + 1) (k + 1) + 1
    else 1

/-- The next transfer moves its part whole. -/
def Slot.whole (x : Slot) : Bool := decide (x.sub = 0) && decide (x.pieceLen x.elem x.sub = x.part)

/-- The parts that the next transfer ends, and its bytes (R345). -/
def Slot.moves (x : Slot) : Nat :=
  if x.whole then x.run 64 x.elem 0 else if x.sub + x.pieceLen x.elem x.sub = x.part then 1 else 0
@[inherit_doc Slot.moves] def Slot.moveBytes (x : Slot) : Nat :=
  if x.whole then x.moves * x.part else x.pieceLen x.elem x.sub

/-- The next transfer is the first of an element. -/
def Slot.starts (x : Slot) : Bool := decide (x.sub = 0) && decide (x.elem % x.parts = 0)

/-- The bytes that the next transfer needs translated: with the first of an element all of it, since a fault leaves the whole of its
destination unwritten (R347). -/
def Slot.needBytes (x : Slot) : Nat := if x.starts then max x.moveBytes x.esize else x.moveBytes

/-- The elements that the next transfer, of `k` parts, begins. -/
def Slot.begun (x : Slot) (k : Nat) : List Nat :=
  (lnub [] ((List.range (max 1 k)).map fun j => (x.elem + j) / x.parts)).filter fun e =>
    decide (x.elem < e * x.parts) || (x.starts && decide (e * x.parts = x.elem))

/-- A memory-tile address of a task: its tile and the address in it, unless `n` bytes pass the region's end (R316). -/
def Task.regionAt (k : Task) (a n : Nat) : Option (Nat × Nat) :=
  match k.regions.find? (·.num == a / 2 ^ 21) with
  | some r => if a % 2 ^ 21 + n ≤ r.size then some (r.tile, r.base + a % 2 ^ 21) else none
  | none => none

/-- Keys of a part's bytes at an endpoint in memory, as the tables stand. -/
def State.partKeys (s : State) (t : Nat) (e : EndPt) (a n kind : Nat) : Option (List Nat) :=
  match e with
  | .addr _ => s.vaKeys (s.lctxOf t) a n kind
  | .mtile _ => ((s.task t).bind fun k => k.regionAt a n).map fun x => keysFrom (.tile x.1 x.2) n
  | .port _ => none

/-- The bytes still to be written by a firing, with the bytes they are copied from, the last part first. -/
def State.pairsLeft (s : State) (t : Nat) (x : Slot) : List (Nat × Nat) :=
  ((List.range x.total).drop x.elem).reverse.flatMap fun i =>
    match s.partKeys t x.src (x.srcAt i) x.part 0, s.partKeys t x.dst (x.dstAt i) x.part 1 with
    | some a, some b => b.zip a
    | _, _ => []

/-- Which value a firing reads for a byte that it also writes: free (R347; log entry 2). -/
def Slot.readsOld (x : Slot) (key : Nat) : Bool := Config.overlapReadsOld (2 ^ 64 * x.fireNo + key)

/-- The value that a firing reads for a byte: where it also writes it, its value before the firing or the value the
firing writes there (R347). The first argument bounds the chain of copies. -/
def State.copyByte (s : State) (x : Slot) (left : List (Nat × Nat)) : Nat → Nat → Byte
  | 0, key => memGet s.mem key
  | f + 1, key =>
    match aget key x.old, aget key left with
    | some b, _ => if x.readsOld key then b else memGet s.mem key
    | none, some from_ => if x.readsOld key then memGet s.mem key else s.copyByte x left f from_
    | none, none => memGet s.mem key

/-- What a part of the source holds. -/
inductive PartVal where
  | val (v : Nat)
  | bad (origin : Word)
deriving DecidableEq, Repr

/-- Keys of `n` bytes of one transfer at an endpoint in memory, translated through the die's cache (R324). -/
def State.moveKeys (s : State) (t o : Nat) (e : EndPt) (a n kind : Nat) : Option (List Nat) :=
  match e with
  | .addr _ => match s.unitAt t o a n kind with
    | .at_ l tail => some (placeKeys l tail n)
    | _ => none
  | e => s.partKeys t e a n kind

/-- Read bytes j to j + m - 1 of part `i` at a source in memory (R318, R347). An element that a poisoned granule touches is
poisoned whole. -/
def State.readPart (s : State) (t o : Nat) (x : Slot) (i j m : Nat) : PartVal :=
  let keys (c : BitVec 7) : PartVal :=
    match s.moveKeys t o x.src (x.srcAt i + j) m 0 with
    | none => .bad (s.origin t o c)
    | some ks =>
      let left := if x.dst.stream then [] else s.pairsLeft t x
      .val (bytesVal (ks.map (s.copyByte x left (left.length + 1))))
  match x.src with
  | .mtile _ =>
    let a := x.srcAt (i / x.parts * x.parts)
    match (s.task t).bind fun k => k.regionAt a x.esize with
    | none => .bad (s.origin t o Code.range)
    | some (tile, b) =>
      match s.badGranule (granules tile b x.esize) with
      | some g => .bad (s.granuleOrigin (s.lctxOf t) tile g)
      | none => keys Code.range
  | _ => keys Code.xlate

/-- Each source element that a transfer begins and that lies in a corrupted granule counts as an uncorrectable error of its tile
(R318). -/
def State.countSource (s : State) (t : Nat) (x : Slot) (k : Nat) : State :=
  match x.src with
  | .mtile _ => (x.begun k).foldl (fun s e => match (s.task t).bind fun k => k.regionAt (x.srcAt (e * x.parts)) x.esize with
    | some (tile, b) => s.countTags tile (granules tile b x.esize)
    | none => s) s
  | _ => s

/-- The number of a firing's accesses of other devices: its slot and its number. -/
def Slot.spanK (x : Slot) (n : Nat) : Nat := 16 * x.fireNo + n

/-- The source of the next transfer lies at another device (R405). -/
def State.copyFar (s : State) (t o : Nat) (x : Slot) : Bool :=
  match x.src with
  | .addr _ => ((s.moveKeys t o x.src (x.srcAt x.elem + x.sub) x.moveBytes 0).getD []).any isRemote
  | _ => false

/-- The source bytes of a transfer are read (R273). -/
def State.touchSource (s : State) (t o : Nat) (x : Slot) (n : Nat) : State :=
  match x.src with
  | .addr _ => s.touchKeys ((s.moveKeys t o x.src (x.srcAt x.elem + x.sub) n 0).getD [])
  | _ => s

/-- The read of it leaves (R405). -/
def State.copyAsk (s : State) (t o n : Nat) (x : Slot) : State :=
  if x.fetch.isNone && s.copyFar t o x then
    (s.unitSpan t o (x.spanK n) false ((s.moveKeys t o x.src (x.srcAt x.elem + x.sub) x.moveBytes 0).getD [])).modSlot t o n fun x =>
      { x with fetch := some .asked }
  else s

/-- Its data have still to come. -/
def State.copyAwaits (s : State) (t o : Nat) (x : Slot) : Bool :=
  s.copyFar t o x && (x.fetch.isNone || x.fetch == some .asked)

/-- A data fault of a firing: STATUS 2, and one record with UNIT 8 (R225, R347). -/
def State.copyBad (s : State) (t o n : Nat) (code : BitVec 7) : State :=
  match s.slot t o n with
  | some x => if x.status = 2 then s else (s.modSlot t o n fun x => { x with status := 2 }).engineFault t o code
  | none => s

/-- Remember the bytes that a part overwrites. -/
def Slot.remember (x : Slot) (m : List Host.Cell) (ks : List Nat) : Slot :=
  { x with old := ks.foldl (fun l k => if (aget k l).isSome then l else (k, memGet m k) :: l) x.old }

/-- Parts packed for a stream with bytes from byte `j` of a part on: a part joins them with its first bytes. -/
def packPart (l : List Wide) (j : Nat) (v : Wide) : List Wide :=
  if j = 0 then l ++ [v] else l.dropLast ++ [(l.getLast?).getD 0 ||| v <<< (8 * j)]

/-- Write bytes j to j + m - 1 of a part to a destination in memory, or pack them for a stream (R335, R346, R347). -/
def State.writePart (s : State) (t o n : Nat) (x : Slot) (i j m v : Nat) (audit : Bool) : State :=
  match x.dst with
  | .port _ =>
    s.modSlot t o n fun y => { y with outTok := packPart y.outTok j (BitVec.ofNat 1024 v), outAudit := y.outAudit || audit }
  | .addr _ =>
    match s.moveKeys t o x.dst (x.dstAt i + j) m 1 with
    | none => s.copyBad t o n Code.xlate
    | some ks =>
      (({ s with mem := writeKeys s.mem ks v }.touchKeys ks).unitSpan t o (x.spanK n) true ks).modSlot t o n fun y =>
        y.remember s.mem ks
  | .mtile _ =>
    match (s.task t).bind fun k => k.regionAt (x.dstAt i) x.part with
    | none => s.copyBad t o n Code.range
    | some (tile, a) =>
      (s.tileWrite tile (a + j) m v).modSlot t o n fun y => y.remember s.mem (keysFrom (.tile tile (a + j)) m)

/-- The token that a stream destination packs: a partial last token carries COUNT (R31, R346). -/
def Slot.packed (x : Slot) (p : Nat) : Token :=
  let n := x.outTok.length / x.parts
  { hdr := mkHdr (if x.outAudit then Kind.audit else Kind.data) 0 0,
    count := if p ≥ 2 ∨ x.outTok.length = x.tokParts p then 0 else BitVec.ofNat 16 n,
    pay := BitVec.ofNat 1024 (joinBits (8 * x.part) x.outTok) }

/-- Push the packed token when it is full or the firing is over. -/
def State.pushPacked (s : State) (t o n : Nat) : State :=
  match s.slot t o n with
  | some x =>
    match x.dst with
    | .port p =>
      if x.outTok.isEmpty || !(x.finished || decide (x.outTok.length = x.tokParts p)) then s
      else
        let tok := x.packed p
        match s.pushRate t o p tok with
        | some d => s.freeze t o Code.rate d
        | none => (s.pushTok t o p tok).modSlot t o n fun x => { x with outTok := [], outAudit := false }
    | _ => s
  | none => s

/-- A fault of an access of the template that is to be replayed (R329, R346). -/
def State.copyReplay (s : State) (t o n : Nat) (x : Slot) (va m kind : Nat) : Option State :=
  match s.unitAt t o va m kind, s.task t with
  | .fault s g va, some k =>
    if !x.rpl || ((x.stall.map (·.refused)).getD false) then none
    else
      let tries := (x.stall.map (·.tries)).getD 0 + 1
      let st := faultStage g
      if tries ≥ 8 then some (s.freeze t o Code.replayLimit (BitVec.ofNat 32 (tries * 2 ^ 16 + st * 2 ^ 8 + kind)))
      else
        let tag := BitVec.ofNat 32 s.nextId
        let r := pageRecord va k.lctx ((s.ctx k.lctx).map Ctx.pasid |>.getD 0) tries st kind k.graphIndex o tag
          (s.origin t o Code.xlate)
        let stall : Stall :=
          { va := BitVec.ofNat 64 va, tries := tries, tag := tag, stage := st, waiting := true, refused := false }
        let s := s.bumpId.modSlot t o n fun x => { x with stall := some stall }
        let s := { s with pageReqs := s.pageReqs ++ [{ tag := tag, t := t, o := o, host := g == hostFault, record := r }] }
        let ask : Aqi → Aqi := fun a => { a with pageReqs := a.pageReqs ++ [r] }
        some (if g == hostFault then s else { s with aqis := amod (((s.ctx k.lctx).map Ctx.aqi).getD 0) ask s.aqis })
  | _, _ => none

/-- The addresses in virtual memory of the next transfer, of `m` bytes: address and kind of access. -/
def Slot.vas (x : Slot) : List (Nat × Nat) :=
  (match x.src with
    | .addr _ => [(x.srcAt x.elem + x.sub, 0)]
    | _ => []) ++
  match x.dst with
    | .addr _ => [(x.dstAt x.elem + x.sub, 1)]
    | _ => []

/-- The faulting access of the next transfer that is to be replayed, if there is one. -/
def State.copyStall (s : State) (t o n : Nat) (x : Slot) (m : Nat) : Option State :=
  x.vas.findSome? fun a => s.copyReplay t o n x a.1 m a.2

/-- Whether the next transfer waits for a walk (R324). -/
def State.copyWaits (s : State) (t o : Nat) (x : Slot) (m : Nat) : Bool :=
  x.vas.any fun a => match s.unitAt t o a.1 m a.2 with
    | .wait _ => true
    | _ => false

/-- The misses of a slot's next transfer are recorded (R324), and a read of another device leaves (R405). -/
def State.copyMiss (s : State) (t o n : Nat) (x : Slot) : State :=
  if !x.firing || x.finished || !x.shTaken || !x.dhTaken then s
  else (x.vas.foldl (fun s a => match s.unitAt t o a.1 x.needBytes a.2 with
    | .wait s' => s'
    | _ => s) s).copyAsk t o n x

/-- Why the element that the next transfer begins cannot be copied: an access of it does not translate, passes its region's end, or
got no answer from another device (R347, R405). -/
def State.elemFault (s : State) (t o : Nat) (x : Slot) : Option (BitVec 7) :=
  let past (e : EndPt) (a : Nat) : Bool := match e with
    | .mtile _ => ((s.task t).bind fun k => k.regionAt a x.esize).isNone
    | _ => false
  match x.fetch with
  | some (.lost c) => some c
  | _ =>
  if !x.starts then none
  else if x.vas.any fun a => match s.unitAt t o a.1 x.needBytes a.2 with
    | .fault _ _ _ => true
    | _ => false then some Code.xlate
  else if past x.src (x.srcAt x.elem) || past x.dst (x.dstAt x.elem) then some Code.range
  else none

/-- The faults of a transfer that has been made have been answered. -/
def State.copyFaulted (s : State) (t o : Nat) (x : Slot) (m : Nat) : State :=
  x.vas.foldl (fun s a => match s.unitAt t o a.1 m a.2 with
    | .fault s' _ _ => s'
    | _ => s) s

/-- The parts of one transfer, in point order. -/
def State.moveParts (s : State) (t o n : Nat) (x : Slot) : Nat → Nat → State
  | 0, _ => s
  | k + 1, i =>
    let j := i - x.elem
    let v : PartVal := match x.src with
      | .port _ => match x.inTok[j]? with
        | some (some w) => .val w.toNat
        | _ => .bad 0
      | _ => s.readPart t o x i 0 x.part
    let s := match v with
      | .val v => s.writePart t o n x i 0 x.part v (x.src.stream && x.inAudit)
      | .bad w => if x.src.stream then s else s.copyBad t o n (w.extractLsb' 0 7)
    s.moveParts t o n x k (i + 1)

/-- Bytes j to j + m - 1 of the next part (R345). -/
def State.movePiece (s : State) (t o n : Nat) (x : Slot) (j m : Nat) : State :=
  let v : PartVal := match x.src with
    | .port _ => match x.inTok.head? with
      | some (some w) => .val (w.toNat / 2 ^ (8 * j) % 2 ^ (8 * m))
      | _ => .bad 0
    | _ => s.readPart t o x x.elem j m
  match v with
  | .val v => s.writePart t o n x x.elem j m v (x.src.stream && x.inAudit)
  | .bad w => if x.src.stream then s else s.copyBad t o n (w.extractLsb' 0 7)

/-- Take the next token of a stream source (R346, R347). -/
def State.copyTake (s : State) (t o n : Nat) (x : Slot) (p : Nat) (tok : Token) : State :=
  let s₁ := s.popTok t o p
  if tok.isClose then
    let s₁ := (s₁.modSlot t o n fun x => { x with finished := true, status := if x.status = 2 then 2 else 1 }).pushPacked t o n
    if tok.kind = Kind.done then s₁.gotDone t o else s₁
  else if tok.isPoison then
    (s₁.modSlot t o n fun x => { x with inTok := List.replicate (x.tokParts p) none, inPos := 0 }).copyBad t o n
      (tok.word.extractLsb' 0 7)
  else if !tok.isData then s.malformed t o p tok
  else match s.popRate t o p 1 with
    | some d => s.freeze t o Code.rate d
    | none =>
      let full := x.tokParts p
      let cnt := if p ≥ 2 ∨ tok.count = 0 then full else min full (tok.count.toNat * x.parts)
      let vals := (List.range cnt).map fun i =>
        some (BitVec.ofNat 1024 (if p ≥ 2 then tok.word.toNat else tok.pay.toNat / 2 ^ (8 * x.part * i) % 2 ^ (8 * x.part)) : Wide)
      s₁.modSlot t o n fun x => { x with inTok := vals, inPos := 0, inAudit := tok.kind == Kind.audit }

/-- A write of `m` bytes to a memory tile waits while an rmw holds its granules, and one to a word that a bank ALU holds
waits for it (R337, R343). -/
def State.copyHeld (s : State) (t o : Nat) (x : Slot) (m : Nat) : Bool :=
  match x.dst with
  | .mtile _ => match (s.task t).bind fun q => q.regionAt (x.dstAt x.elem + x.sub) m with
    | some (tile, a) => s.rmwHolds tile a m || s.rmwFirst tile (granules tile a m)
    | none => false
  | .addr _ => s.bankHolds ((s.moveKeys t o x.dst (x.dstAt x.elem + x.sub) m 1).getD [])
  | _ => false

/-- A transfer has been made, or an element passed over: `k` parts are done, and `sub` bytes of the next. -/
def State.copyOn (s : State) (t o n : Nat) (x : Slot) (k sub : Nat) : State :=
  let s := (s.copyFaulted t o x x.needBytes).modSlot t o n fun y =>
    { y with elem := x.elem + k, sub := sub, inTok := y.inTok.drop k, inPos := x.inPos + k, stall := none, fetch := none,
             finished := decide (x.elem + k ≥ x.total) }
  ((s.pushPacked t o n).busy (s.lctxOf t)).countFiring t o

/-- One transfer of a firing, or nothing when it cannot make one. An element that cannot be copied is passed over, with its
destination unwritten (R347). -/
def State.copyMove (s : State) (t o n : Nat) (x : Slot) : Option State :=
  let k := x.moves
  let bytes := x.moveBytes
  let room := match x.dst with
    | .port p => decide (x.outTok.length + k < x.tokParts p) && decide (x.elem + k < x.total) || s.canPush t o p 1
    | _ => true
  if !room || s.copyWaits t o x x.needBytes || s.copyHeld t o x bytes || s.copyAwaits t o x then none
  else match s.copyStall t o n x x.needBytes, s.elemFault t o x with
    | some s', _ => some s'
    | none, some c => some ((s.copyBad t o n c).copyOn t o n x (x.parts - x.elem % x.parts) 0)
    | none, none =>
      let s := s.touchSource t o x bytes
      let s := (if x.whole then s.moveParts t o n x k x.elem else s.movePiece t o n x x.sub bytes).countSource t x k
      some (s.copyOn t o n x k (if x.whole || k = 1 then 0 else x.sub + bytes))

/-- Sub-step 2 defers the templates of class-3 launches (R273). -/
def State.copyDeferred (s : State) (t : Nat) : Bool :=
  decide (s.power.lever ≥ 2) && ((s.launchOf t).map fun l => l.cls == 3).getD false

/-- The step of a firing template, if it is ready to transfer. -/
def State.copyStep (s : State) (t o n : Nat) : Option State :=
  match s.slot t o n with
  | none => none
  | some x =>
    if !s.copyOpen t o || !x.firing || x.finished || !x.shTaken || !x.dhTaken || (x.stall.map (·.waiting)).getD false ||
        s.copyDeferred t then none
    else match x.src, x.inTok with
      | .port p, [] =>
        match s.behindDone t o p, s.headTok t o p with
        | some tok, _ => some (s.malformed t o p tok)
        | none, none => none
        | none, some tok =>
          let s := s.copyTake t o n x p tok
          match s.slot t o n with
          | some y => if y.inTok.isEmpty then some s else some ((s.copyMove t o n y).getD s)
          | none => some s
      | _, _ => s.copyMove t o n x

/-- Key of a copy engine's transfers in `Tile.lastIssue`. -/
def copyPort : Nat := 11

/-- The transfer of a context entry: round robin over its firing templates (R345). -/
def State.copyEntry (s : State) (tile e : Nat) : Option State :=
  (s.opsAt tile e).findSome? fun x =>
    match x.2.2.kind with
    | .copy c => (List.range 16).findSome? fun i =>
        let n := (c.rr + 1 + i) % 16
        (s.copyStep x.1 x.2.1 n).map fun s => s.modCopy x.1 x.2.1 fun c => { c with rr := n }
    | _ => none

/-- Every firing on a tile that waits for a handle takes it, and the misses of those that have theirs are recorded. -/
def State.copyHandles (s : State) (tile : Nat) : State :=
  let one (s : State) (t o n : Nat) : State :=
    if !s.copyOpen t o then s
    else
      let s := s.takeHandles t o n
      ((s.slot t o n).map (s.copyMiss t o n)).getD s
  (List.range 8).foldl (fun s e => (s.opsAt tile e).foldl (fun s x => match x.2.2.kind with
    | .copy _ => (List.range 16).foldl (fun s n => one s x.1 x.2.1 n) s
    | _ => s) s) s

/-- A copy engine makes one transfer of at most 64 bytes in a fc: round robin over the context entries, then over the
firing templates of the entry (R345). -/
def execCopyTransfer (x y : Nat) (s : State) : Host.Outcome State Fault Refusal :=
  let tile := tileKey x y
  let s := s.copyHandles tile
  if aget copyPort (s.tile tile).lastIssue == some s.fc || !s.ticks tile then .next s
  else
    let pick := (List.range 8).findSome? fun i =>
      let e := ((s.tile tile).copyRr + 1 + i) % 8
      (s.copyEntry tile e).map fun s => s.modTile tile fun z =>
        { z with copyRr := e, lastIssue := aset copyPort s.fc z.lastIssue }
    .next (pick.getD s)

/-- A firing ends once its writes are performed: handles move on, and the completion reply is sent (R347 L040 to L070). A
reply of a triggered firing waits for no command of the inbox. -/
def execCopyFiringComplete (t o slot : Nat) (s : State) : Host.Outcome State Fault Refusal :=
  match s.slot t o slot with
  | none => .next s
  | some x =>
    let may (h : Option Nat) : Bool := (h.map fun h => s.bufMay h rankCopy).getD true
    if !x.firing || !x.finished || !x.outTok.isEmpty || !s.goesOn t || s.frozen t o || !may x.sh || !may x.dh then .next s
    else
      let s := match x.sh with
        | some h => s.setBuf h 0 rankCopy
        | none => s
      let s := match x.dh with
        | some h => s.setBuf h 2 rankCopy
        | none => s
      let s := (s.modSlot t o slot fun x => { x with firing := false, shTaken := false, dhTaken := false, old := [] }).busy
        (s.lctxOf t)
      .next (match x.fireReply with
        | some id => s.endCmd (.op t o) id x.status
        | none =>
          if !x.rply then s
          else s.modInbox (.op t o) fun b => { b with started := b.started + 1, replies :=
            { core := none, opc := 1, seq := x.seq, rply := true, word7 := x.word7, status := some x.status, value := none,
              poison := none, id := b.started, doneAt := s.fc } :: b.replies })

/-! ## Handles and counters (R350 to R352) -/

/-- HANDLE or TLID of a parameter word. -/
def field32 (w : Dbl) : Nat := (w.extractLsb' 32 12).toNat

/-- Whether a packet is a `buf.wait` with NSET that awaits a state of a handle (R351). -/
def Packet.awaits (p : Packet) (h st : Nat) : Bool :=
  p.engine == 2 && p.opc == 3 && field32 (p.dbl 1) == h && ((p.dbl 1).extractLsb' 0 2).toNat == st && (p.dbl 1).getLsbD 6

/-- The arrival numbers of the `buf.wait` commands with NSET that await a state of a handle, each at the head of its inbox.
-/
def State.awaiting (s : State) (h st : Nat) : List Nat :=
  s.tasks.flatMap fun (t, k) => (List.range k.ops.length).filterMap fun o => match s.inbox (.op t o) with
    | some b => (b.packets.head?).bind fun z => if s.inboxOpen (.op t o) && Packet.awaits z.image h st then some z.no else none
    | none => none

/-- Whether the command at the head of an inbox is the first of them to arrive (R351). -/
def State.firstAwaiting (s : State) (e : EngineRef) (h st : Nat) : Bool :=
  match (s.inbox e).bind fun b => b.packets.head? with
  | some z => (s.awaiting h st).all fun n => decide (z.no ≤ n)
  | none => true

/-- `buf.wait`: it holds the inbox until the state matches (R351). -/
def execBufWait (t o : Nat) (p : Packet) (s : State) : Host.Outcome State Fault Refusal :=
  let w1 := p.dbl 1
  let h := field32 w1
  let st := (w1.extractLsb' 0 2).toNat
  let sets := w1.getLsbD 6
  .next (s.command (.op t o)
    (s.bufState h == st && (!sets || (s.bufMay h rankWait && s.firstAwaiting (.op t o) h st))) fun s =>
    let s := s.oneStep (.op t o) p 0
    if sets then s.setBuf h (w1.extractLsb' 4 2).toNat rankWait else s)

/-- `buf.set` (R350, R351). -/
def execBufSet (t o : Nat) (p : Packet) (s : State) : Host.Outcome State Fault Refusal :=
  let w1 := p.dbl 1
  .next (s.command (.op t o) (s.bufMay (field32 w1) rankSet) fun s =>
    (s.oneStep (.op t o) p 0).setBuf (field32 w1) (w1.extractLsb' 0 2).toNat rankSet)

/-- A reply that adds to a counter, and has still to do it (R106). -/
def Reply.owesAdd (r : Reply) : Bool := r.rply && r.word7.getLsbD 63

/-- `tl.inc`: once every earlier command of the inbox has completed, and what they add to counters has been added, it adds, as a
release of the writes that its bay had issued by then (R352, R357). -/
def execTlInc (t o : Nat) (p : Packet) (s : State) : Host.Outcome State Fault Refusal :=
  let w1 := p.dbl 1
  let e := EngineRef.op t o
  .next (s.command e (((s.inbox e).map fun b => b.replies.all fun r => r.status.isSome && !r.owesAdd).getD false) fun s =>
    let at_ := (((s.inbox e).bind (·.relAt)).getD s.fc)
    match s.engineRelease e at_ with
    | none => s.modInbox e fun b => { b with relAt := some at_ }
    | some s =>
      ((s.oneStep e p 0).modInbox e fun b => { b with relAt := none }).tlAdd (field32 w1) ((w1.extractLsb' 0 32).zeroExtend 64))

/-- `tl.wait`: it holds the inbox until the counter is at least the value; a poisoned counter completes it with STATUS 2
(R352). -/
def execTlWait (t o : Nat) (p : Packet) (s : State) : Host.Outcome State Fault Refusal :=
  let n := field32 (p.dbl 1)
  let v := ((p.dbl 2).extractLsb' 0 32).toNat + 2 ^ 32 * ((p.dbl 3).extractLsb' 0 32).toNat
  .next (s.command (.op t o) (s.tlBad n || decide ((s.tl n).toNat ≥ v)) fun s =>
    s.oneStep (.op t o) p (if s.tlBad n then 2 else 0))

/-! ## Bank ALUs (R341 to R344) -/

/-- The command of a context that runs in a bank. -/
def State.bankCmd (s : State) (b c : Nat) : Option BankCmd := (aget b s.banks).bind fun k => aget c k.running
/-- Change it. -/
def State.modBankCmd (s : State) (b c : Nat) (f : BankCmd → BankCmd) : State :=
  { s with banks := amod b (fun k => { k with running := amod c f k.running }) s.banks }

/-- The command that a packet asks for. -/
def bankCmdOf (c : Nat) (p : Packet) (id : Nat) : BankCmd :=
  let w1 := p.dbl 1
  let v (lo hi : Nat) : Dbl := ((p.dbl hi).extractLsb' 0 32 ++ (p.dbl lo).extractLsb' 0 32 : BitVec 64)
  { opc := p.opc, lctx := c, fn := (rmwFn? (w1.extractLsb' 53 4).toNat).getD .add, d64 := w1.getLsbD 52, ret := w1.getLsbD 51,
    scal := w1.getLsbD 50, dst := (p.dbl 2).toNat, src := (p.dbl 3).toNat,
    n := if p.opc = 1 then 1 else (w1.extractLsb' 0 32).toNat, i := 0, v := v 3 4,
    c := if p.opc = 5 then ((p.dbl 4).extractLsb' 0 32).zeroExtend 64 else v 5 6, got := [], waiting := false, status := 0,
    reply := id }

/-- A bank command starts: commands of one queue apply in arrival order (R341). -/
def State.startBank (s : State) (b c : Nat) (p : Packet) : State :=
  let e := EngineRef.bank b c
  s.command e (s.bankCmd b c).isNone fun s =>
    let id := s.cmdId e
    let s := s.beginCmd e p
    { s with banks := amod b (fun k => { k with running := aset c (bankCmdOf c p id) k.running }) s.banks }

/-- `bk.rmw` (R342). -/
def execBkRmw (bank lctx : Nat) (p : Packet) (s : State) : Host.Outcome State Fault Refusal := .next (s.startBank bank lctx p)
/-- `bk.red` (R343). -/
def execBkRed (bank lctx : Nat) (p : Packet) (s : State) : Host.Outcome State Fault Refusal := .next (s.startBank bank lctx p)
/-- `bk.apply` (R343). -/
def execBkApply (bank lctx : Nat) (p : Packet) (s : State) : Host.Outcome State Fault Refusal := .next (s.startBank bank lctx p)
/-- `bk.fill` (R343). -/
def execBkFill (bank lctx : Nat) (p : Packet) (s : State) : Host.Outcome State Fault Refusal := .next (s.startBank bank lctx p)

/-- Whether a peer address has TGT 2 in stage 1 (R344). -/
def State.isPeer (s : State) (c va : Nat) : Bool :=
  match s.placeNow c va 4 0 with
  | some (.remote _, _) => true
  | _ => false

/-- `bk.coll`: a peer that is not remote is ILLEGAL (R344). -/
def execBkColl (bank lctx : Nat) (p : Packet) (s : State) : Host.Outcome State Fault Refusal :=
  .next (if s.isPeer lctx (p.dbl 3).toNat then s.startBank bank lctx p
    else s.command (.bank bank lctx) (s.bankCmd bank lctx).isNone fun s => s.illegalCmd (.bank bank lctx) p)

/-- Bytes of an element. -/
def BankCmd.size (k : BankCmd) : Nat := if k.d64 then 8 else 4
/-- The element's new value. -/
def BankCmd.apply (k : BankCmd) (old v : Nat) : Nat := rmwNew k.fn (8 * k.size) old (v % 2 ^ (8 * k.size)) (k.c.toNat % 2 ^ (8 * k.size))
/-- Elements of the line operation that starts at element i of a range: those in one 128-byte line (R341). -/
def BankCmd.inLine (k : BankCmd) (base : Nat) : Nat :=
  let a := base + k.i * k.size
  min (k.n - k.i) ((128 - a % 128) / k.size)

/-- Whether the source of a range command is the memory of another device. -/
def State.bankRemote (s : State) (k : BankCmd) (i : Nat) : Bool :=
  match s.placeNow k.lctx (k.src + i * k.size) k.size 0 with
  | some (l, _) => isRemote l.key
  | none => false

/-- Apply `n` source elements from element i on, each read after the one before it has been written (R343). The state, and
whether every element could be read: those applied before a fault stay applied. -/
def State.bankEach (s : State) (k : BankCmd) : Nat → Nat → State × Bool
  | 0, _ => (s, true)
  | n + 1, i =>
    let dst := k.dst + i * k.size
    if s.bankRemote k i then (s, false)
    else match s.vaRead k.lctx (k.src + i * k.size) k.size, s.vaRead k.lctx dst k.size with
      | some v, some old => ((s.vaWrite k.lctx dst k.size (k.apply old v)).getD s).bankEach k n (i + 1)
      | _, _ => (s, false)

/-- Apply values to successive elements of the destination from element i on. -/
def State.bankPut (s : State) (k : BankCmd) (i : Nat) : List Nat → State
  | [] => s
  | v :: rest =>
    let va := k.dst + i * k.size
    match s.vaRead k.lctx va k.size with
    | none => s.bankPut k (i + 1) rest
    | some old => ((s.vaWrite k.lctx va k.size (k.apply old v)).getD s).bankPut k (i + 1) rest

/-- The command ends (R225), and with it a pause that waited for it (R341). -/
def State.bankEnd (s : State) (b : Nat) (k : BankCmd) (status : Nat) : State :=
  (({ s with banks := amod b (fun x => { x with running := adel k.lctx x.running }) s.banks }).endCmd (.bank b k.lctx) k.reply
    status).pauseCheck k.lctx

/-- An abandoned collective: a record, and a poisoned reply (R344). -/
def State.bankAbandon (s : State) (b : Nat) (k : BankCmd) : State :=
  let s := s.bankRecord k.lctx Code.xlate false (k.c.extractLsb' 0 32)
  let s := s.modInbox (.bank b k.lctx) fun x => x.setReply k.reply fun r =>
    { r with poison := some (bankOrigin k.lctx Code.xlate) }
  s.bankEnd b k 2

/-- The elements that follow i have been applied. -/
def State.bankOn (s : State) (b : Nat) (k : BankCmd) (n : Nat) : State :=
  if k.i + n ≥ k.n then s.bankEnd b k 0
  else s.modBankCmd b k.lctx fun k => { k with i := k.i + n, got := [] }

/-- The running value of `bk.red` after `n` elements from element i on; a source element that is dst[0] itself is the running value
(R343). -/
def State.bankFold (s : State) (k : BankCmd) : Nat → Nat → Nat → Nat
  | 0, _, v => v
  | n + 1, i, v =>
    let a := k.src + i * k.size
    s.bankFold k n (i + 1) (k.apply v (if a = k.dst then v else (s.vaRead k.lctx a k.size).getD 0))

/-- One line operation of a command (R341 to R344). `bk.red` keeps its running value until its last line and then writes it, so
dst[0] is held throughout. -/
def State.bankLine (s : State) (b : Nat) (k : BankCmd) : State :=
  match k.opc with
  | 1 =>
    let old := (s.vaRead k.lctx k.dst k.size).getD 0
    let s := s.bankPut k 0 [k.v.toNat]
    let s := if k.ret then s.modInbox (.bank b k.lctx) fun x => x.setReply k.reply fun r =>
      { r with value := some (BitVec.ofNat 32 old) } else s
    s.bankEnd b k 0
  | 2 =>
    let n := k.inLine k.src
    let v := s.bankFold k n k.i (k.got.headD ((s.vaRead k.lctx k.dst k.size).getD 0))
    if k.i + n ≥ k.n then ((s.vaWrite k.lctx k.dst k.size v).getD s).bankEnd b k 0
    else s.modBankCmd b k.lctx fun k => { k with i := k.i + n, got := [v] }
  | 3 =>
    if k.scal then (s.bankPut k k.i (List.replicate (k.inLine k.dst) k.v.toNat)).bankOn b k (k.inLine k.dst)
    else
      let n := min (k.inLine k.dst) (k.inLine k.src)
      match s.bankEach k n k.i with
      | (s, true) => s.bankOn b k n
      | (s, false) => (s.bankRecord k.lctx Code.xlate false 0).bankEnd b k 2
  | 4 =>
    let n := k.inLine k.dst
    let s := (List.range n).foldl (fun s j => (s.vaWrite k.lctx (k.dst + (k.i + j) * k.size) k.size k.v.toNat).getD s) s
    s.bankOn b k n
  | _ => if k.got.isEmpty then s else (s.bankPut k k.i k.got).bankOn b k k.got.length

/-- A collective asks its peer for the elements of the next line (R344, R405). -/
def State.bankAsk (s : State) (b : Nat) (k : BankCmd) : State :=
  let n := min (k.inLine k.dst) (k.inLine k.src)
  match s.placeNow k.lctx (k.src + k.i * k.size) (n * k.size) 0 with
  | some (.remote a, none) =>
    let s := s.modBankCmd b k.lctx fun k => { k with waiting := true }
    s.addSpan { s.spanNew 0 0 k.i false (Loc.remote a).key (n * k.size) with
      launch := s.bankLaunch k.lctx, bank := some (b, k.lctx), lctx := k.lctx }
  | _ => s.bankAbandon b k

/-- The words that a command's next line operation may write. -/
def State.bankTarget (s : State) (k : BankCmd) : List Nat :=
  if k.opc ≤ 2 then (s.vaKeys k.lctx k.dst k.size 1).getD []
  else (s.vaKeys k.lctx (k.dst + k.i * k.size) (k.size * k.inLine k.dst) 1).getD []

/-- The words that a range command's next line operation reads at its source. -/
def State.bankSource (s : State) (k : BankCmd) : List Nat :=
  if k.opc = 2 || (k.opc = 3 && !k.scal) then
    let n := if k.opc = 2 then k.inLine k.src else min (k.inLine k.dst) (k.inLine k.src)
    (s.vaKeys k.lctx (k.src + k.i * k.size) (k.size * n) 0).getD []
  else []

/-- Whether a command has a line operation ready: a collective waits for its peer's elements, and a word that a `bk.red` of another
queue holds waits for its end (R343, R344). -/
def State.bankReady (s : State) (b : Nat) (k : BankCmd) : Bool := !k.waiting && !s.bankHeldBy (some (b, k.lctx)) (s.bankTarget k)

/-- A bank ALU applies one line operation every 2 fc, round robin over the context queues that have one ready (R341). -/
def execBankLineOperation (bank : Nat) (s : State) : Host.Outcome State Fault Refusal :=
  match aget bank s.banks with
  | none => .next s
  | some x =>
    if x.nextAt > s.fc || s.dev.halt then .next s
    else
      let order := sortBy (fun z : Nat × BankCmd => (z.1 + 256 - x.rr - 1) % 256) (x.running.filter fun z => s.bankReady bank z.2)
      match order with
      | [] => .next s
      | (c, k) :: _ =>
        let s := s.busy c
        if k.opc = 5 && k.got.isEmpty then .next (s.bankAsk bank k)
        else
          let s := { s with banks := amod bank (fun y => { y with rr := c, nextAt := s.fc + 2 }) s.banks }
          .next ((s.touchKeys (s.bankTarget k ++ s.bankSource k)).bankLine bank k)

end Sys2Proof.Machine
end

