-- ==== Sys2Proof/Machine/Fibre.lean ====
section
/-! DEFINITION. Fibre units (15_sparse_product.md R277 to R287, 16_fibres.md). -/
namespace Sys2Proof.Machine

/-! ## Read arrays (R279, R295, R296) -/

/-- Number of read arrays of a unit: pos and crd of a scan, val of a lookup (R279). -/
def Fibre.reads (f : Fibre) : Nat :=
  match f.fop with
  | .scan => 2
  | .lookup => 1
  | _ => 0

/-- Lines of an array. -/
def Fibre.linesOf (f : Fibre) (a : Nat) : Nat := (f.counts.getD a 0 + 15) / 16

/-- The line reads of a unit, in the order in which they are issued: array and line. -/
def Fibre.lines (f : Fibre) : List (Nat × Nat) :=
  (List.range f.reads).flatMap fun a => (List.range (f.linesOf a)).map fun l => (a, l)

/-- Words of a line that belong to its array. -/
def Fibre.lineWords (f : Fibre) (a l : Nat) : Nat := min 16 (f.counts.getD a 0 - 16 * l)

/-- The origin word of a line that is poisoned, if it is. -/
def Fibre.badLine (f : Fibre) (a l : Nat) : Option Word :=
  (f.badLines.find? fun z => z.1 == a && z.2.1 == l).map (·.2.2)

/-- A word of a read array, or the origin of its poisoned line. -/
def Fibre.word (f : Fibre) (a i : Nat) : Except Word Nat :=
  match f.badLine a (i / 16) with
  | some w => .error w
  | none => .ok ((f.arrays.getD a []).getD i 0).toNat

/-- A fibre unit whose task runs and which is not frozen. -/
def State.fibreOpen (s : State) (t o : Nat) : Option (Task × Fibre) :=
  match s.task t, s.op t o, s.fibre t o with
  | some k, some p, some f => if s.live t && p.fault.isNone && s.unitTicks t o then some (k, f) else none
  | _, _, _ => none

/-- A fibre unit issues the next line read of its read arrays, one in each fc (R279). A translation fault poisons the line
(R296). -/
def execFbBufferLoad (t o : Nat) (s : State) : Host.Outcome State Fault Refusal :=
  match s.fibreOpen t o with
  | none => .next s
  | some (k, f) =>
    if f.loaded || decide (f.nextAt > s.fc) then .next s
    else match f.lines[f.nextLine]? with
      | none => .next (if f.accs.isEmpty then s.modFibre t o fun f => { f with loaded := true } else s)
      | some (a, l) =>
        let n := 4 * f.lineWords a l
        let va := f.addrs.getD a 0 + 64 * l
        let on (s : State) : State :=
          (s.modFibre t o fun f => { f with nextLine := f.nextLine + 1, nextAt := s.after t o 1 }).busy k.lctx
        match s.unitAt t o va n 0 with
        | .wait s' => .next s'
        | .fault s' _ _ =>
          .next ((on s').modFibre t o fun f => { f with badLines := (a, l, s.origin t o Code.xlate) :: f.badLines })
        | .at_ loc tail =>
          let s := on s
          let acc : Acc :=
            { k := f.nextLine, loc := loc, tail := tail, bytes := n, write := false, val := 0, at_ := s.fc, done := false,
              poison := none, due := s.after t o 1, hdr := 0 }
          .next (((s.touchKey loc.key).spanRead t o acc).modFibre t o fun f => { f with accs := f.accs ++ [acc] })

/-- A line of a read array arrives; the first step follows the last line by one fc (R279). -/
def State.fibreDelivery (s : State) (t o : Nat) (f : Fibre) : State :=
  match f.accs.find? fun a => !a.write with
  | none => s
  | some a =>
    if a.due > s.fc || (!a.done && a.keys.any isRemote) then s
    else
      let v := if a.done then a.val.toNat else s.bayRead t a.keys
      let al := f.lines.getD a.k (0, 0)
      let words := (List.range (f.lineWords al.1 al.2)).map fun i => BitVec.ofNat 32 (v / 2 ^ (32 * i))
      (s.modFibre t o fun f =>
        let accs := f.accs.filter fun b => !(b.k == a.k && !b.write)
        { f with accs := accs, loaded := decide (f.nextLine ≥ f.lines.length) && accs.all (·.write),
                 arrays := f.arrays.zipIdx.map fun (ws, i) =>
                   if i = al.1 then ws.take (16 * al.2) ++ words ++ ws.drop (16 * al.2 + words.length) else ws,
                 nextAt := max f.nextAt (s.after t o 1) }).busy (s.lctxOf t)

/-! ## Grammar (R288 to R290, R305) -/

/-- The levels from `a` to `b`. -/
def levelRun (a b : Nat) : List Nat := (List.range (b + 1 - a)).map (a + ·)

/-- What the token that arrives is acted on as, and the state after it (R289): no levels for a token that stands for
itself. `none` is a MALFORMED freeze. -/
def Gram.take (g : Gram) (tok : Token) : Option (List Nat × Gram) :=
  let k := hdrLevel tok.hdr
  match g.last with
  | .done => none
  | last =>
    if tok.isData || tok.isPoison then some ([], { g with last := .data, run := [] })
    else if tok.kind = Kind.stop && decide (k ≥ 1) then
      let g' : Gram := { last := .stop k, max := Nat.max g.max k, run := [] }
      some (match last with
        | .data => (levelRun 1 k, g')
        | .stop m => (if m + 1 < k then levelRun (m + 1) k else [k], g')
        | _ => ([k], g'))
    else if tok.kind = Kind.done then
      match last with
      | .start => some ([], { g with last := .done, run := [] })
      | .data => if g.max = 0 then some ([], { g with last := .done, run := [] }) else none
      | .stop m => if m = g.max then some ([], { g with last := .done, run := [] }) else none
      | .done => none
    else none

/-- The head of an input after expansion. -/
inductive FHead where
  | none
  | tok (t : Token)
  | bad (t : Token)
deriving DecidableEq, Repr

/-- Grammar state of an input. -/
def Fibre.gramOf (f : Fibre) (q : Nat) : Gram := f.gram.getD q { last := .start, max := 0, run := [] }

/-- Whether input 0 is an `ri` that reads the root: data token 0, then done (R278). -/
def State.isRoot (s : State) (t o : Nat) (f : Fibre) (q : Nat) : Bool :=
  q == 0 && (f.fop == .scan || f.fop == .dense || f.fop == .repeat_) && (s.inChan t o 0).isNone

/-- The head of an input (R278, R289, R290). -/
def State.fHead (s : State) (t o : Nat) (f : Fibre) (q : Nat) : FHead :=
  if s.isRoot t o f q then
    if !f.rootUsed then .tok (narrowTok 0 0) else if !f.rootDone then .tok (doneTok 0) else .none
  else match s.headTok t o q with
    | none => .none
    | some tok =>
      match (f.gramOf q).run, (f.gramOf q).take tok with
      | l :: _, _ => .tok (stopTok l 0)
      | [], none => .bad tok
      | [], some ([], _) => .tok tok
      | [], some (l :: _, _) => .tok (stopTok l 0)

/-- One step takes the head of an input: the token that arrived is popped with the last of its run (R290). -/
def State.fPop (s : State) (t o : Nat) (q : Nat) : State :=
  match s.fibre t o with
  | none => s
  | some f =>
    if s.isRoot t o f q then
      s.modFibre t o fun f => if f.rootUsed then { f with rootDone := true } else { f with rootUsed := true }
    else match s.headTok t o q with
      | none => s
      | some tok =>
        match (f.gramOf q).take tok with
        | none => s
        | some (ls, g') =>
          let rest := match (f.gramOf q).run with
            | _ :: r => r
            | [] => ls.drop 1
          if rest.isEmpty then (s.popTok t o q).modFibre t o fun f => { f with gram := f.gram.set q g' }
          else s.modFibre t o fun f => { f with gram := f.gram.set q { f.gramOf q with run := rest } }

/-! ## Steps (R280, R291 to R293) -/

/-- One step: the inputs popped, the tokens pushed by port, the new state of the unit, whether it retires or ends the
step, poison that it holds as a sink, and words that it stores. -/
structure FStep where
  pops : List Nat
  pushes : List (Nat × Token)
  upd : Fibre → Fibre
  retire : Bool
  ends : Bool
  poison : Option Word
  stores : List (Nat × Nat)

/-- A step that pops and pushes. -/
def fStep (pops : List Nat) (pushes : List (Nat × Token)) : FStep :=
  { pops := pops, pushes := pushes, upd := id, retire := false, ends := true, poison := none, stores := [] }

/-- What the unit does next. -/
inductive FAct where
  | wait
  | malformed (q : Nat) (tok : Token)
  | go (st : FStep)

/-- A data or audit-data token with TAG 0 (R291). -/
def fData (audit : Bool) (v : Nat) : Token := narrowTok (mkHdr (if audit then Kind.audit else Kind.data) 0 0) (BitVec.ofNat 32 v)
/-- A token passed on with TAG 0 (R291). -/
def fPass (t : Token) : Token := narrowTok (mkHdr t.kind (hdrLevel t.hdr) 0) t.word
/-- Audit data. -/
def Token.isAudit (t : Token) : Bool := t.kind == Kind.audit
/-- LEVEL of a stop. -/
def Token.level (t : Token) : Nat := hdrLevel t.hdr
/-- The class by which paired heads must agree (R292): entries, stops of one level, done. -/
def fClass (t : Token) : Nat := if t.isData then 0 else if t.kind = Kind.stop then 1 + t.level else 10 + t.kind

/-- Push the tokens of a step; one beyond a channel's bound freezes the unit with RATE (R292). -/
def State.fPush (s : State) (t o : Nat) : List (Nat × Token) → State
  | [] => s
  | (p, tok) :: rest =>
    match s.pushRate t o p tok with
    | some d => s.freeze t o Code.rate d
    | none => (s.pushTok t o p tok).fPush t o rest

/-- The state in which a unit waits for the walk of a word that its step stores, if it has to (R324). -/
def State.fWalk (s : State) (t o : Nat) (l : List (Nat × Nat)) : Option State :=
  l.findSome? fun x => match s.unitAt t o x.1 4 1 with
    | .wait s' => some s'
    | _ => none

/-- Store a word; a translation fault is held as a poison (R304). -/
def State.fStore (s : State) (t o : Nat) (x : Nat × Nat) : State :=
  match s.unitAt t o x.1 4 1 with
  | .wait s' => s'
  | .fault s' _ _ => s'.sinkPoison t o (s.origin t o Code.xlate)
  | .at_ l tail =>
    s.modFibre t o fun f => { f with accs := f.accs ++
      [{ k := 0, loc := l, tail := tail, bytes := 4, write := true, val := BitVec.ofNat 1024 x.2, at_ := s.fc, done := false,
         poison := none, due := s.after t o 1, hdr := 0 }] }

/-- A store of a writer is performed and acknowledged (R12, R286). -/
def State.fibreAck (s : State) (t o : Nat) (f : Fibre) : State :=
  match f.accs.find? (·.write) with
  | none => s
  | some a =>
    if a.due > s.fc || s.bankHolds a.keys then s
    else
      let rest := f.accs.filter (!·.write) ++ (f.accs.filter (·.write)).drop 1
      ((({ s with mem := writeKeys s.mem a.keys a.val.toNat } : State).unitSpan t o 0 true a.keys).modFibre t o fun f =>
        { f with accs := rest }).busy (s.lctxOf t)

/-- Poison that a unit with no output bound would push is held as a sink holds it (R135, R371). -/
def State.fSink (s : State) (t o : Nat) (pushes : List (Nat × Token)) : State :=
  if ((s.task t).map fun k => k.isSink o).getD false then
    match pushes.find? (·.2.isPoison) with
    | some (_, tok) => s.sinkPoison t o tok.word
    | none => s
  else s

/-- Take a step: all its pops, pushes and stores happen together, once every output has free depth (R280, R293). -/
def State.fTake (s : State) (t o : Nat) (st : FStep) : State :=
  if !s.canPushAll t o (st.pushes.map (·.1)) then s
  else if (s.fWalk t o st.stores).isSome then (s.fWalk t o st.stores).getD s
  else
    let s := st.pops.foldl (fun s q => s.fPop t o q) (s.resetRates t o)
    let s := (s.fPush t o st.pushes).fSink t o st.pushes
    let s := s.modFibre t o fun f => { st.upd f with retired := f.retired || st.retire, nextAt := s.after t o 1 }
    let s := match st.poison with
      | some w => s.sinkPoison t o w
      | none => s
    let s := st.stores.foldl (fun s x => s.fStore t o x) s
    let s := if st.retire && ((s.task t).map fun k => k.isSink o).getD false then s.gotDone t o else s
    let s := s.busy (s.lctxOf t)
    if st.ends then s.countFiring t o else s

/-- The poison token of a fault of the unit's own. -/
def State.fPoison (s : State) (t o : Nat) (code : BitVec 7) : Token := poisonTok 0 (s.origin t o code)

/-- A word of a read array as a token: poison from a poisoned line (R296). -/
def wordTok (audit : Bool) : Except Word Nat → Token
  | .ok v => fData audit v
  | .error w => poisonTok 0 w

/-! ### Scan and dense units (R281, R298) -/

/-- The fibre of a reference in a scan unit: its first position and length, or the poison that replaces it. -/
def State.scanFibre (s : State) (t o : Nat) (f : Fibre) (r : Nat) : Except Word (Nat × Nat) :=
  let range := s.origin t o Code.range
  if r + 1 ≥ f.counts.getD 0 0 then .error range
  else match f.word 0 r, f.word 0 (r + 1) with
    | .error w, _ => .error w
    | _, .error w => .error w
    | .ok a, .ok b => if a > b ∨ b > f.counts.getD 1 0 then .error range else .ok (a, b - a)

/-- The tokens on `co` and `ro` at place `j` of the fibre of a reference; `none` where the closing stop follows. -/
def State.fibreAt (s : State) (t o : Nat) (f : Fibre) (r j : Nat) : Option (Token × Token) :=
  let both (x : Token) : Option (Token × Token) := some (x, x)
  if f.fop = .dense then
    let n := f.counts.getD 0 0
    if j ≥ n then none
    else if r * n + j ≥ 2 ^ 32 then both (s.fPoison t o Code.range)
    else some (fData f.pushAudit j, fData f.pushAudit (r * n + j))
  else match s.scanFibre t o f r with
    | .error w => if j = 0 then both (poisonTok 0 w) else none
    | .ok (a, n) =>
      if j ≥ n then none
      else match f.word 1 (a + j) with
        | .error w => both (poisonTok 0 w)
        | .ok c => some (fData f.pushAudit c, fData f.pushAudit (a + j))

/-- The next token of the fibre being pushed, or its closing stop (R280, R281). -/
def State.scanPush (s : State) (t o : Nat) (f : Fibre) (r j : Nat) : State :=
  if !s.canPushAll t o [1, 2] then s
  else
    let step (s : State) (ps : List (Nat × Token)) (p : Option (Nat × Nat)) : State :=
      (((s.fPush t o ps).fSink t o ps).modFibre t o fun f => { f with pushing := p, nextAt := s.after t o 1 }).busy (s.lctxOf t)
    match s.fibreAt t o f r j with
    | some (c, x) => step s [(1, c), (2, x)] (some (r, j + 1))
    | none => (step s [(1, stopTok 1 0), (2, stopTok 1 0)] none).countFiring t o

/-- The step that takes a reference of a scan or dense unit pushes the first tokens of its fibre, or the closing stop of an
empty one, in the fc of the take (R280, R293); `scanPush` pushes the rest. -/
def State.scanTake (s : State) (t o : Nat) (f : Fibre) (r : Nat) (audit : Bool) : FStep :=
  match s.fibreAt t o { f with pushAudit := audit } r 0 with
  | some (c, x) =>
    { fStep [0] [(1, c), (2, x)] with ends := false, upd := fun f => { f with pushing := some (r, 1), pushAudit := audit } }
  | none => { fStep [0] [(1, stopTok 1 0), (2, stopTok 1 0)] with upd := fun f => { f with pushAudit := audit } }

/-- The step of a scan or dense unit for the head of `ri`. -/
def State.scanAct (s : State) (t o : Nat) (f : Fibre) : FAct :=
  match s.fHead t o f 0 with
  | .none => .wait
  | .bad tok => .malformed 0 tok
  | .tok tok =>
    let both (x : Token) : FStep := fStep [0] [(1, x), (2, x)]
    if tok.isData then .go (s.scanTake t o f tok.word.toNat tok.isAudit)
    else if tok.kind = Kind.stop then
      if tok.level ≥ 7 then .malformed 0 tok else .go (both (stopTok (tok.level + 1) 0))
    else if tok.kind = Kind.done then .go { both (doneTok 0) with retire := true }
    else .go (both (fPass tok))

/-! ### Lookup (R284) -/

/-- The step of a lookup unit. -/
def State.lookupAct (s : State) (t o : Nat) (f : Fibre) : FAct :=
  match s.fHead t o f 0 with
  | .none => .wait
  | .bad tok => .malformed 0 tok
  | .tok tok =>
    if tok.isData then
      let r := tok.word.toNat
      .go (fStep [0] [(1, if r ≥ f.counts.getD 0 0 then s.fPoison t o Code.range else wordTok tok.isAudit (f.word 0 r))])
    else .go { fStep [0] [(1, fPass tok)] with retire := tok.kind == Kind.done }

/-! ### Merges (R283, R299 to R301) -/

/-- The heads of the sides of a merge, coordinates and references. -/
inductive FSides where
  | wait
  | bad (q : Nat) (tok : Token)
  | heads (l : List (Token × Token))

/-- The heads of the sides from side `i` on. -/
def State.sides (s : State) (t o : Nat) (f : Fibre) : Nat → Nat → FSides
  | 0, _ => .heads []
  | n + 1, i =>
    match s.fHead t o f (2 * i), s.fHead t o f (2 * i + 1), s.sides t o f n (i + 1) with
    | .bad tok, _, _ => .bad (2 * i) tok
    | _, .bad tok, _ => .bad (2 * i + 1) tok
    | _, _, .bad q tok => .bad q tok
    | .tok c, .tok r, .heads l => .heads ((c, r) :: l)
    | _, _, _ => .wait

/-- The pair of one side with poison at either head. -/
def pairPoison (x : Token × Token) : Option Token := if x.1.isPoison then some x.1 else if x.2.isPoison then some x.2 else none

/-- A side whose heads differ in kind, or whose coordinate does not rise (R283, R292). -/
def Fibre.badSide (f : Fibre) (l : List (Token × Token)) : Option (Nat × Token) :=
  l.zipIdx.findSome? fun (x, i) =>
    if fClass x.1 ≠ fClass x.2 then some (2 * i + 1, x.2)
    else match f.lastCoord.getD i none with
      | some c => if x.1.isData && decide (x.1.word.toNat ≤ c.toNat) then some (2 * i, x.1) else none
      | none => none

/-- The last coordinates after the pops of some sides; a close begins a new fibre on every side popped (R283). -/
def lastAfter (l : List (Token × Token)) (take : Nat → Bool) (old : List (Option Word)) : List (Option Word) :=
  (List.range l.length).map fun i =>
    match l[i]? with
    | some (c, _) => if take i then (if c.isData then some c.word else if c.isPoison then old.getD i none else none) else old.getD i none
    | none => none

/-- The step of fb.isect or fb.union (R299, R300): a side at its done token beside one at an entry is malformed (R292), and
the ZREF of a side that is not popped is a data token, since it derives from no input (R291, R300). -/
def State.mergeAct (s : State) (t o : Nat) (f : Fibre) : FAct :=
  match s.sides t o f f.nin 0 with
  | .wait => .wait
  | .bad q tok => .malformed q tok
  | .heads l =>
    let n := l.length
    let outs := (List.range (n + 1)).map (6 + ·)
    let pop (take : Nat → Bool) (pushes : List (Nat × Token)) : FStep :=
      { fStep (((List.range n).filter take).flatMap fun i => [2 * i, 2 * i + 1]) pushes with
        upd := fun f => { f with lastCoord := lastAfter l take f.lastCoord } }
    match l.zipIdx.findSome? fun (x, i) => (pairPoison x).map fun p => (i, p) with
    | some (i, p) => .go (pop (· == i) (outs.map fun q => (q, fPass p)))
    | none =>
      match f.badSide l with
      | some (q, tok) => .malformed q tok
      | none =>
        let isData (i : Nat) : Bool := (l[i]?.map fun x => x.1.isData).getD false
        let coord (i : Nat) : Nat := (l[i]?.map fun x => x.1.word.toNat).getD 0
        let data := (List.range n).filter isData
        let least := data.foldl (fun m i => min m (coord i)) (2 ^ 32)
        let first (i : Nat) : Bool := isData i && coord i == least
        let audit (take : Nat → Bool) : Bool := l.zipIdx.any fun (x, i) => take i && (x.1.isAudit || x.2.isAudit)
        let ended := l.zipIdx.find? fun (x, _) => !x.1.isData && x.1.kind != Kind.stop
        let entry : FStep := pop first ((6, fData (audit first) least) :: (List.range n).map fun i =>
          (7 + i, if first i then fData (audit first) ((l[i]?.map fun x => x.2.word.toNat).getD 0)
            else fData false ((f.consts.getD i 0).toNat % 2 ^ 32)))
        if data.isEmpty then match l with
          | [] => .wait
          | x :: _ =>
            if l.all fun y => fClass y.1 == fClass x.1 then
              .go { pop (fun _ => true) (outs.map fun q => (q, fPass x.1)) with retire := x.1.kind == Kind.done }
            else .malformed 0 x.1
        else match ended with
          | some (x, i) => .malformed (2 * i) x.1
          | none =>
            if f.fop == .union || (List.range n).all first then .go entry
            else if data.length == n then .go (pop first [])
            else .go (pop isData [])

/-- The condition of fb.filter (R301): no FTZ (R186). -/
def Fibre.holds (f : Fibre) (v : Nat) : Bool :=
  let k := f.consts.getD 0 0
  match cond? (k.extractLsb' 32 4) with
  | some cc =>
    let x := (k.extractLsb' 0 32).toNat
    if f.vfmt = 1 then fpCond cc (fp32.unpack v) (fp32.unpack x) else intCond cc 32 v x
  | none => false

/-- The step of fb.filter (R301). -/
def State.filterAct (s : State) (t o : Nat) (f : Fibre) : FAct :=
  match s.sides t o f 1 0 with
  | .wait => .wait
  | .bad q tok => .malformed q tok
  | .heads [(c, v)] =>
    match pairPoison (c, v) with
    | some p => .go (fStep [0, 1] [(2, fPass p), (3, fPass p)])
    | none =>
      if fClass c ≠ fClass v then .malformed 1 v
      else if c.isData then
        let a := c.isAudit || v.isAudit
        .go (fStep [0, 1] (if f.holds v.word.toNat then [(2, fData a c.word.toNat), (3, fData a v.word.toNat)] else []))
      else .go { fStep [0, 1] [(2, fPass c), (3, fPass c)] with retire := c.kind == Kind.done }
  | .heads _ => .wait

/-! ### Repeat (R282, R302) -/

/-- What fb.repeat needs at `ri` for a head of `si`: nothing, a reference or a token of a class; and whether it is popped.
-/
inductive RiNeed where
  | none
  | ref (pop : Bool)
  | cls (k : Nat)

/-- R302. -/
def Fibre.riNeed (f : Fibre) (x : Token) : RiNeed :=
  if x.isData then .ref false
  else if x.kind = Kind.stop then
    if x.level = f.level then .ref true else if x.level > f.level then .cls (1 + (x.level - f.level)) else .none
  else if x.kind = Kind.done then .cls (10 + Kind.done)
  else .none

/-- The step of fb.repeat. -/
def State.repeatAct (s : State) (t o : Nat) (f : Fibre) : FAct :=
  match s.fHead t o f 1 with
  | .none => .wait
  | .bad tok => .malformed 1 tok
  | .tok x =>
    let both (pops : List Nat) : FAct := .go { fStep pops [(2, fPass x), (3, fPass x)] with retire := x.kind == Kind.done }
    let entry (r : Token) : FAct :=
      let ro := if r.isPoison then fPass r else fData (r.isAudit || x.isAudit) r.word.toNat
      .go (fStep [1] [(2, ro), (3, fPass x)])
    if (s.inChan t o 0).isNone then
      if x.isData then entry (narrowTok 0 0) else both [1]
    else
      let head (ok : Token → Bool) (k : Token → FAct) : FAct :=
        match s.fHead t o f 0 with
        | .none => .wait
        | .bad tok => .malformed 0 tok
        | .tok r => if ok r then k r else .malformed 0 r
      match f.riNeed x with
      | .none => both [1]
      | .ref pop => head (fun r => r.isData || r.isPoison) fun r => if pop then both [1, 0] else entry r
      | .cls c => head (fun r => fClass r == c) fun _ => both [1, 0]

/-! ### Reduce (R197, R285, R303) -/

/-- The sum after a value (R285, R303). -/
def Fibre.fold (f : Fibre) (v : Nat) : Nat :=
  match f.sum with
  | none => v
  | some x =>
    let a := x.toNat
    if f.vfmt = 1 then
      match f.rop with
      | .add => fAddRne a v
      | .min => fpMinMax fp32 false false a v
      | .max => fpMinMax fp32 false true a v
    else match f.rop with
      | .add => (a + v) % 2 ^ 32
      | .min => if sgn 32 v < sgn 32 a then v else a
      | .max => if sgn 32 a < sgn 32 v then v else a

/-- The next fibre begins empty. -/
def Fibre.clearSum (f : Fibre) : Fibre := { f with sum := none, sumAudit := false, fibrePoison := none }

/-- The tokens that close a fibre with coordinate `c` (R285). -/
def Fibre.entryOut (f : Fibre) (c : Token) : List (Nat × Token) :=
  if c.isPoison then [(2, fPass c), (3, fPass c)]
  else match f.fibrePoison, f.sum with
    | some w, _ => [(2, fPass c), (3, poisonTok 0 w)]
    | none, some v => [(2, fPass c), (3, fData f.sumAudit v.toNat)]
    | none, none => if f.dropEmpty then [] else [(2, fPass c), (3, fData false 0)]

/-- The step of fb.reduce: c is the head of `ci`, v that of `vi`. -/
def State.reduceAct (s : State) (t o : Nat) (f : Fibre) : FAct :=
  match s.sides t o f 1 0 with
  | .wait => .wait
  | .bad q tok => .malformed q tok
  | .heads [(c, v)] =>
    if v.isData then
      .go { fStep [1] [] with upd := fun f =>
        { f with sum := some (BitVec.ofNat 32 (f.fold v.word.toNat)), sumAudit := f.sumAudit || v.isAudit } }
    else if v.isPoison then
      .go { fStep [1] [] with upd := fun f => { f with fibrePoison := some (f.fibrePoison.getD v.word) } }
    else if v.kind = Kind.stop then
      if v.level < f.level then .go (fStep [1] [])
      else if v.level = f.level then
        if c.isData || c.isPoison then .go { fStep [0, 1] (f.entryOut c) with upd := Fibre.clearSum } else .malformed 0 c
      else if fClass c = 1 + (v.level - f.level) then
        .go (fStep [0, 1] [(2, stopTok (v.level - f.level) 0), (3, stopTok (v.level - f.level) 0)])
      else .malformed 0 c
    else if c.kind = Kind.done then .go { fStep [0, 1] [(2, doneTok 0), (3, doneTok 0)] with retire := true }
    else .malformed 0 c
  | .heads _ => .wait

/-! ### Write (R286, R304) -/

/-- The step of fb.write: behind the closing stop only a pair of done tokens may come (R304). -/
def State.writeAct (s : State) (t o : Nat) (f : Fibre) : FAct :=
  let range := s.origin t o Code.range
  let addr (a i : Nat) : Nat := f.addrs.getD a 0 + 4 * i
  match s.sides t o f 1 0 with
  | .wait => .wait
  | .bad q tok => .malformed q tok
  | .heads [(c, v)] =>
    if f.closed && c.kind != Kind.done then .malformed 0 c
    else if f.closed && v.kind != Kind.done then .malformed 1 v
    else match pairPoison (c, v) with
      | some p => .go { fStep [0, 1] [] with poison := some p.word }
      | none =>
        if fClass c ≠ fClass v then .malformed 1 v
        else if c.isData then
          if f.i ≥ min (f.counts.getD 1 0) (f.counts.getD 2 0) then .go { fStep [0, 1] [] with poison := some range }
          else .go { fStep [0, 1] [] with upd := (fun f => { f with i := f.i + 1 }),
                                          stores := [(addr 1 f.i, c.word.toNat), (addr 2 f.i, v.word.toNat)] }
        else if c.kind = Kind.done then
          .go { fStep [0, 1] [] with retire := true,
                                     stores := if f.level = 1 then [(addr 0 0, 0), (addr 0 1, f.i)] else [] }
        else if c.level > f.level then .malformed 0 c
        else if c.level = f.level then .go { fStep [0, 1] [] with upd := fun f => { f with closed := true } }
        else if c.level = 1 then
          if f.f + 1 ≥ f.counts.getD 0 0 then
            .go { fStep [0, 1] [] with upd := (fun f => { f with f := f.f + 1 }), poison := some range }
          else .go { fStep [0, 1] [] with upd := (fun f => { f with f := f.f + 1 }),
                                          stores := (if f.f = 0 then [(addr 0 0, 0)] else []) ++ [(addr 0 (f.f + 1), f.i)] }
        else .go (fStep [0, 1] [])
  | .heads _ => .wait

/-! ### The steps -/

/-- A token behind the done token of a retired unit (R289, R292). -/
def State.afterDone (s : State) (t o : Nat) : State :=
  match (List.range 6).findSome? fun q => (s.headTok t o q).map fun tok => (q, tok) with
  | some (q, tok) => s.malformed t o q tok
  | none => s

/-- A step of a fibre unit of one of some kinds, one in each fc at most (R280, R293). -/
def State.fibreRun (s : State) (t o : Nat) (kinds : List Fop) (act : State → Fibre → FAct) : State :=
  match s.fibreOpen t o with
  | none => s
  | some (_, f) =>
    if !kinds.contains f.fop || !f.loaded || decide (f.nextAt > s.fc) then s
    else if f.retired then s.afterDone t o
    else match f.pushing with
      | some (r, j) => s.scanPush t o f r j
      | none => match act s f with
        | .wait => s
        | .malformed q tok => s.malformed t o q tok
        | .go st => s.fTake t o st

/-- fb.scan (R281). -/
def execFbScanStep (t o : Nat) (s : State) : Host.Outcome State Fault Refusal :=
  .next (s.fibreRun t o [.scan] fun s f => s.scanAct t o f)
/-- fb.dense (R281, R298). -/
def execFbDenseStep (t o : Nat) (s : State) : Host.Outcome State Fault Refusal :=
  .next (s.fibreRun t o [.dense] fun s f => s.scanAct t o f)
/-- fb.lookup (R284). -/
def execFbLookupStep (t o : Nat) (s : State) : Host.Outcome State Fault Refusal :=
  .next (s.fibreRun t o [.lookup] fun s f => s.lookupAct t o f)
/-- fb.isect (R283, R299). -/
def execFbIsectStep (t o : Nat) (s : State) : Host.Outcome State Fault Refusal :=
  .next (s.fibreRun t o [.isect] fun s f => s.mergeAct t o f)
/-- fb.union (R300). -/
def execFbUnionStep (t o : Nat) (s : State) : Host.Outcome State Fault Refusal :=
  .next (s.fibreRun t o [.union] fun s f => s.mergeAct t o f)
/-- fb.filter (R301). -/
def execFbFilterStep (t o : Nat) (s : State) : Host.Outcome State Fault Refusal :=
  .next (s.fibreRun t o [.filter] fun s f => s.filterAct t o f)
/-- fb.repeat (R282, R302). -/
def execFbRepeatStep (t o : Nat) (s : State) : Host.Outcome State Fault Refusal :=
  .next (s.fibreRun t o [.repeat_] fun s f => s.repeatAct t o f)
/-- fb.reduce (R285, R303). -/
def execFbReduceStep (t o : Nat) (s : State) : Host.Outcome State Fault Refusal :=
  .next (s.fibreRun t o [.reduce] fun s f => s.reduceAct t o f)
/-- fb.write (R286, R304). -/
def execFbWriteStep (t o : Nat) (s : State) : Host.Outcome State Fault Refusal :=
  .next (s.fibreRun t o [.write] fun s f => s.writeAct t o f)

end Sys2Proof.Machine
end

