-- ==== Sys2Proof/Machine/Acks.lean ====
section
/-! DEFINITION. The return of reads and the acknowledgement of stores (R10, R12, R308). -/
namespace Sys2Proof.Machine

/-- The oldest read of a memory node, walker or fibre unit returns (R10). A pause lets reads already issued return (R12). -/
def execReadDelivery (t o : Nat) (s : State) : Host.Outcome State Fault Refusal :=
  if !s.goesOn t || s.frozen t o then .next s
  else match s.mnode t o, s.walker t o, s.fibre t o with
    | some m, _, _ => .next (s.memDelivery t o m)
    | _, some w, _ => .next (s.walkDelivery t o w)
    | _, _, some f => .next (s.fibreDelivery t o f)
    | _, _, _ => .next s

/-- The oldest store or rmw of a memory node, spline or fibre writer is performed and acknowledged (R308); one already
issued lands whatever becomes of the task (R12, R383). -/
def execStoreAck (t o : Nat) (s : State) : Host.Outcome State Fault Refusal :=
  match s.op t o with
  | none => .next s
  | some p =>
    if s.dev.halt then .next s
    else match p.kind with
      | .mem m => .next (s.memAck t o p m)
      | .spline x => .next (s.splineAck t o x)
      | .fibre f => .next (s.fibreAck t o f)
      | _ => .next s

end Sys2Proof.Machine
end

