-- ==== Sys2Proof/Machine/Crypto.lean ====
section
/-! DEFINITION. The functions that check a signed object: SHA-384 and ECDSA over P-384 (R164, R165). The manual names
them; their steps and constants are those of FIPS 180-4 and FIPS 186 (PRESUMED, log entry 25). -/
namespace Sys2Proof.Machine

/-! ## SHA-384

The constants are computed from their definition: fractional parts of roots of primes, to 64 bits. -/

/-- The first 80 primes, rising. -/
def primes80 : List Nat := (List.range 410).filter fun n => decide (2 ≤ n) && ((List.range n).drop 2).all fun d => decide (n % d ≠ 0)

/-- The greatest `r` with `r ^ k ≤ v`, found bit by bit from bit `n - 1` down. -/
def rootBits (k v : Nat) : Nat → Nat → Nat
  | 0, r => r
  | n + 1, r => rootBits k v n (if (r + 2 ^ n) ^ k ≤ v then r + 2 ^ n else r)

/-- The first 64 bits of the fractional part of the k-th root of `p`, for a root below 16. -/
def rootFrac (k p : Nat) : Dbl := BitVec.ofNat 64 (rootBits k (p * 2 ^ (64 * k)) 68 0)

/-- The constant of each round: the cube roots of the first 80 primes. -/
def roundConsts : List Dbl := primes80.map (rootFrac 3)

/-- The hash value before the first block: the square roots of the ninth to the sixteenth prime. -/
def firstHash : List Dbl := ((primes80.drop 8).take 8).map (rootFrac 2)

/-- A double from bytes, the first most significant. -/
def beDbl (l : List Byte) : Dbl := l.foldl (fun (v : Dbl) b => (v <<< 8) ||| b.zeroExtend 64) 0

/-- The exclusive or of a double rotated right by each of some distances. -/
def rotMix (x : Dbl) (ds : List Nat) : Dbl := ds.foldl (fun (v : Dbl) d => v ^^^ x.rotateRight d) 0

/-- The next word of a message schedule whose last 16 words are given, the latest first. -/
def nextWord (w : List Dbl) : Dbl :=
  let back (i : Nat) : Dbl := w.getD (i - 1) 0
  back 16 + back 7 + (rotMix (back 15) [1, 8] ^^^ (back 15 >>> 7)) + (rotMix (back 2) [19, 61] ^^^ (back 2 >>> 6))

/-- The eight working words. -/
structure HashVars where
  a : Dbl
  b : Dbl
  c : Dbl
  d : Dbl
  e : Dbl
  f : Dbl
  g : Dbl
  h : Dbl

/-- The working words from a hash value, and back. -/
def HashVars.of (l : List Dbl) : HashVars :=
  let x (i : Nat) : Dbl := l.getD i 0
  { a := x 0, b := x 1, c := x 2, d := x 3, e := x 4, f := x 5, g := x 6, h := x 7 }
@[inherit_doc HashVars.of]
def HashVars.list (v : HashVars) : List Dbl := [v.a, v.b, v.c, v.d, v.e, v.f, v.g, v.h]

/-- Bit by bit: the one of two words that a third selects, and the value that two of three words have. -/
def pickBits (s x y : Dbl) : Dbl := y ^^^ (s &&& (x ^^^ y))
@[inherit_doc pickBits]
def mostBits (x y z : Dbl) : Dbl := (x &&& y) ||| (z &&& (x ||| y))

/-- A round: `k` is its constant and `w` its word of the schedule. -/
def HashVars.round (v : HashVars) (k w : Dbl) : HashVars :=
  let x := v.h + rotMix v.e [14, 18, 41] + pickBits v.e v.f v.g + k + w
  { v with h := v.g, g := v.f, f := v.e, e := v.d + x, d := v.c, c := v.b, b := v.a,
           a := x + rotMix v.a [28, 34, 39] + mostBits v.a v.b v.c }

/-- The rounds of a block, which take the oldest of the last 16 words of the schedule and make the next. -/
def HashVars.rounds : List Dbl → List Dbl → HashVars → HashVars
  | [], _, v => v
  | k :: ks, w, v => HashVars.rounds ks (nextWord w :: w.take 15) (v.round k (w.getD 15 0))

/-- The hash value after a block of 128 bytes. -/
def hashBlock (h : List Dbl) (m : List Byte) : List Dbl :=
  let w := (List.range 16).map fun i => beDbl ((m.drop (8 * (15 - i))).take 8)
  (h.zip (HashVars.rounds roundConsts w (HashVars.of h)).list).map fun x => x.1 + x.2

/-- The hash value after some blocks. -/
def hashBlocks : Nat → List Dbl → List Byte → List Dbl
  | 0, h, _ => h
  | n + 1, h, m => hashBlocks n (hashBlock h (m.take 128)) (m.drop 128)

/-- A number as bytes, the first most significant. -/
def beBytes (v : Nat) : Nat → List Byte
  | 0 => []
  | n + 1 => BitVec.ofNat 8 (v / 256 ^ n) :: beBytes v n

/-- The number that bytes make, the first most significant. -/
def beNat (l : List Byte) : Nat := l.foldl (fun v b => 256 * v + b.toNat) 0

/-- SHA-384, as a number whose first byte is most significant. -/
def sha384 (m : List Byte) : Nat :=
  let pad := m ++ 0x80 :: List.replicate ((239 - m.length % 128) % 128) 0 ++ beBytes (8 * m.length) 16
  let h := hashBlocks (pad.length / 128) firstHash pad
  (h.take 6).foldl (fun v w => 2 ^ 64 * v + w.toNat) 0

/-! ## ECDSA over P-384 -/

/-- The field, the order of the base point and the base point. -/
def p384 : Nat := 2 ^ 384 - 2 ^ 128 - 2 ^ 96 + 2 ^ 32 - 1
@[inherit_doc p384] def n384 : Nat := 0xffffffffffffffffffffffffffffffffffffffffffffffffc7634d81f4372ddf581a0db248b0a77aecec196accc52973
@[inherit_doc p384] def g384 : Nat × Nat :=
  (0xaa87ca22be8b05378eb1c71ef320ad746e1d3b628ba79b9859f741e082542a385502f25dbf55296c3a545e3872760ab7,
   0x3617de4a96262c6f5d9e98bf9292dc29f8f41dbd289a147ce9da3113b5f0b8c00a60b1ce1d7e819d7a431d7c90ea0e5f)

/-- b ^ e mod m; the first argument bounds the bits of e. -/
def powMod (m : Nat) : Nat → Nat → Nat → Nat
  | 0, _, _ => 1 % m
  | f + 1, b, e =>
    let r := powMod m f (b * b % m) (e / 2)
    if e % 2 = 1 then r * b % m else r

/-- The inverse of a number modulo a prime. -/
def invMod (m b : Nat) : Nat := powMod m 384 (b % m) (m - 2)

/-- The sum of two points; `none` is the point at infinity. -/
def ecAdd (a b : Option (Nat × Nat)) : Option (Nat × Nat) :=
  match a, b with
  | none, _ => b
  | _, none => a
  | some (x, y), some (u, v) =>
    let out (l : Nat) : Option (Nat × Nat) :=
      let r := (l * l + 2 * p384 - x - u) % p384
      some (r, (l * (x + p384 - r) + p384 - y) % p384)
    if x = u then
      if (y + v) % p384 = 0 then none else out ((3 * x * x + p384 - 3) * invMod p384 (2 * y) % p384)
    else out ((v + p384 - y) * invMod p384 (u + p384 - x) % p384)

/-- A multiple of a point; the first argument bounds the bits of k. -/
def ecMul : Nat → Nat → Option (Nat × Nat) → Option (Nat × Nat)
  | 0, _, _ => none
  | f + 1, k, p =>
    let r := ecMul f (k / 2) (ecAdd p p)
    if k % 2 = 1 then ecAdd r p else r

/-- Whether (r, s) is a signature of a digest under a public key. -/
def ecdsaOk (key : Nat × Nat) (digest r s : Nat) : Bool :=
  if r = 0 ∨ r ≥ n384 ∨ s = 0 ∨ s ≥ n384 then false
  else
    let w := invMod n384 s
    match ecAdd (ecMul 384 (digest * w % n384) (some g384)) (ecMul 384 (r * w % n384) (some key)) with
    | none => false
    | some (x, _) => x % n384 == r

end Sys2Proof.Machine
end

