-- ==== Sys2Proof/Machine/Object.lean ====
section
/-! DEFINITION. Zithes objects: reading their segments, registration, and page hashes (08_code_objects.md R159, R164 to
R166). -/
namespace Sys2Proof.Machine

/-! ## Segments (R159) -/

/-- `n` bytes at an address in the virtual space of a PASID, page by page; the first argument bounds the pages. -/
def State.readPasid (s : State) (pasid aqi : Nat) : Nat → Nat → Nat → Option Nat
  | 0, _, _ => none
  | f + 1, va, n =>
    if n = 0 then some 0
    else match s.pasidAt pasid aqi va 0 with
      | none => none
      | some l =>
        let m := min n (4096 - va % 4096)
        (s.readPasid pasid aqi f (va + m) (n - m)).map fun r => s.readLoc l m + 2 ^ (8 * m) * r

/-- `n` bytes of a segment. A page that does not translate reads as zero (log entry 33). -/
def State.seg (s : State) (o : Obj) (off n : Nat) : Nat :=
  (s.readPasid o.pasid o.aqi (n / 4096 + 3) (o.va + off) n).getD 0

/-- The sequencer or the Joiner reads `n` bytes of a segment: an access of each pseudo-channel that holds some (R273, R323). -/
def State.touchSeg (s : State) (o : Obj) (off n : Nat) : State :=
  let a := o.va + off
  (List.range ((a % 256 + n + 255) / 256)).foldl (fun s i =>
    match s.pasidAt o.pasid o.aqi (a / 256 * 256 + 256 * i) 0 with
    | some l => s.touchKey l.key
    | none => s) s

/-- A double of a segment. -/
def State.segD (s : State) (o : Obj) (off : Nat) : Dbl := BitVec.ofNat 64 (s.seg o off 8)

/-- `n` doubles from an offset. -/
def State.segDs (s : State) (o : Obj) (off n : Nat) : List Dbl := (List.range n).map fun i => s.segD o (off + 8 * i)

/-- The bytes of a segment, in order. -/
def State.segBytes (s : State) (o : Obj) (off n : Nat) : List Byte :=
  ((List.range ((n + 63) / 64)).flatMap fun i =>
    let v := s.seg o (off + 64 * i) (min 64 (n - 64 * i))
    (List.range (min 64 (n - 64 * i))).map fun j => BitVec.ofNat 8 (v / 2 ^ (8 * j)))

/-- CRC-32C of `n` bytes, with the final inversion of R159. -/
def crcOf (n v : Nat) : Word := ~~~(crcBytes n 0xFFFFFFFF v)

/-- Bytes of a page of an object (R164). -/
def pageBytes : Nat := 65536

/-- Whether an object is registered: one that a restored launch names and that has not been registered again is not
(R410). -/
def Obj.registered (o : Obj) : Bool := !o.lost

/-- The base of object `i`. -/
def State.objBase (s : State) (i : Nat) : Nat := ((s.objs[i]?).map (·.va)).getD 0

/-! ## Page hashes (R164, R166) -/

/-- The digest that the manifest gives for a page. -/
def State.pageDigest (s : State) (o : Obj) (page : Nat) : Nat := beNat (s.segBytes o (o.manifest + 8 + 48 * page) 48)

/-- Whether a page matches its digest. -/
def State.pageGood (s : State) (o : Obj) (page : Nat) : Bool :=
  sha384 (s.segBytes o (page * pageBytes) pageBytes) == s.pageDigest o page

/-- The pages of an object that hold `n` bytes from an offset. -/
def pagesOf (off n : Nat) : List Nat := if n = 0 then [] else (List.range ((off + n - 1) / pageBytes + 1)).drop (off / pageBytes)

/-- The pages that hold the offsets of graphs in the graph directory (R159). -/
def State.gdirPages (s : State) (o : Obj) (gs : List Nat) : List Nat := gs.flatMap fun g => pagesOf (s.seg o 0x18 4 + 4 * g) 4

/-- The pages that hold the directories of the `.tasks` and `.core` sections (R159). -/
def State.sectionPages (s : State) (o : Obj) : List Nat :=
  pagesOf (s.seg o 0x1C 4) (4 * s.seg o 0x12 2) ++ pagesOf (s.seg o 0x20 4) (4 * s.seg o 0x14 2)

/-- Whether a signed page has still to be hashed (R165). -/
def Obj.unhashed (o : Obj) (page : Nat) : Bool :=
  o.signed && decide (page * pageBytes < o.signedEnd) && !o.verified.contains page && !o.failed.contains page

/-- Change an object. -/
def State.modObj (s : State) (i : Nat) (f : Obj → Obj) : State := { s with objs := lmod i f s.objs }

/-- An object is marked tainted, and its placement cache entries go (R48, R166). -/
def State.taint (s : State) (i : Nat) : State :=
  { s.modObj i (fun o => { o with tainted := true }) with cache := s.cache.filter fun e => e.obj ≠ i }

/-! ## The admin queue (R402) -/

/-- Admin packets are taken while the device is ready, and neither halted nor failing (R406, R409, R411). -/
def State.adminOpen (s : State) : Bool := s.dev.ready && !s.dev.halt && s.dev.failAt.isNone

/-- Take the admin packet at the head of the queue. -/
def State.admin (s : State) (p : Packet) (go : State → State) : State :=
  if !s.adminOpen || s.adminQ.head? != some p then s else go { s with adminQ := s.adminQ.drop 1 }

/-- An operand of an admin packet: a double from offset 0x08 on (R402; log entry 41). -/
def argD (p : Packet) (n : Nat) : Dbl := p.dbl (n + 1)
@[inherit_doc argD] def arg (p : Packet) (n : Nat) : Nat := (argD p n).toNat

/-! ## Registration (R165) -/

/-- The AQIs that have a queue bound to a PASID. -/
def State.aqisOf (s : State) (pasid : Nat) : List (Nat × Aqi) :=
  s.aqis.filter fun (a : Nat × Aqi) => a.2.queues.any fun (q : Nat × Queue) => q.2.pasid == pasid

/-- Whether the header's CRC holds (R159). -/
def State.objCrcOk (s : State) (o : Obj) : Bool := crcOf 0x3C (s.seg o 0 0x3C) == BitVec.ofNat 32 (s.seg o 0x3C 4)

/-- The MAGIC and the version of the header (R159: any other OBJ_VER is refused; log entry 34). -/
def State.objHeaderOk (s : State) (o : Obj) : Bool := s.seg o 0 4 == 0x4F48545A && s.seg o 4 2 == 1

/-- Whether the signature of the manifest holds (R164). -/
def State.objSigned (s : State) (o : Obj) : Bool :=
  let n := s.seg o o.manifest 4
  let list := o.manifest + 8
  let key := BitVec.ofNat 64 (s.seg o (list + 48 * n) 8)
  let sig := list + 48 * n + 8
  n == o.signedEnd / pageBytes &&
    ecdsaOk (Config.signingKey key) (sha384 (s.segBytes o 0 0x40 ++ s.segBytes o list (48 * n)))
      (beNat (s.segBytes o sig 48)) (beNat (s.segBytes o (sig + 48) 48))

/-- The object at an address, before it is registered. -/
def State.objAtVa (s : State) (va pasid : Nat) : Obj :=
  let o : Obj := { va := va, pasid := pasid, aqi := ((s.aqisOf pasid).head?.map (·.1)).getD 0, size := 0, signed := false,
                   tainted := false, signedEnd := 0, manifest := 0, verified := [], failed := [], lost := false }
  { o with size := s.seg o 0x08 4, signedEnd := s.seg o 0x0C 4, manifest := s.seg o 0x28 4, signed := s.seg o 0x28 4 != 0 }

/-- `REGISTER_OBJ` (R165, R402): the header, the signature and page 0, in that order. An unsigned object needs an AQI with a
queue of the PASID whose UNSIGNED_OK is on. -/
def execRegisterObj (p : Packet) (s : State) : Host.Outcome State Fault Refusal :=
  .next (s.admin p fun s =>
  let va := arg p 0
  let pasid := arg p 1
  let o := s.objAtVa va pasid
  let ok := decide (va < 2 ^ 57) && decide (pasid < 2 ^ 20) && s.objCrcOk o && s.objHeaderOk o &&
    (if o.signed then s.objSigned o && s.pageGood o 0 else (s.aqisOf pasid).any fun (a : Nat × Aqi) => a.2.unsignedOk)
  let same := lfind (fun (x : Obj) => x.va == va && x.pasid == pasid) s.objs
  let o := if o.signed then { o with verified := [0] } else o
  let s' : State := match same with
    | some i => s.modObj i fun _ => o
    | none => { s with objs := s.objs ++ [o] }
  (if ok then s' else s).adminDone (adminTag p) ok)

end Sys2Proof.Machine
end

