-- ==== Sys2Proof/Machine/GraphDecode.lean ====
section
/-! DEFINITION. What the Joiner checks when it decodes a graph (05_formats_and_opcode_map.md R95 to R99, R104, R105, R413;
08_code_objects.md R159 to R163, R167, R168). -/
namespace Sys2Proof.Machine

/-! ## A graph as it stands in its segment (R160) -/

/-- The words of a graph: its header image and its tables. -/
structure GView where
  ob : Nat
  obj : Obj
  index : Nat
  /-- Segment offset of the header. -/
  hdr : Nat
  head : Nat
  ngraph : Nat
  ops : List Dbl
  chans : List (Dbl × Dbl)
  consts : List Dbl
  code : List Word
  skews : List Dbl
deriving DecidableEq, Repr

/-- `n` bytes of the header at an offset. -/
def GView.f (g : GView) (off n : Nat) : Nat := g.head / 2 ^ (8 * off) % 2 ^ (8 * n)

/-- Bytes that tables may take: the segment, and its signed part (R161). -/
def Obj.limit (o : Obj) : Nat := min o.size o.signedEnd

/-- The graph of an index of an object. -/
def State.graphView (s : State) (ob index : Nat) : Option GView :=
  match s.objs[ob]? with
  | none => none
  | some o =>
    let hdr := s.seg o (s.seg o 0x18 4 + 4 * index) 4
    let head := s.seg o hdr 96
    let f (off n : Nat) : Nat := head / 2 ^ (8 * off) % 2 ^ (8 * n)
    let ch := s.segDs o (f 0x44 4) (2 * min (f 0x0A 2) 8192)
    some
      { ob := ob, obj := o, index := index, hdr := hdr, head := head, ngraph := s.seg o 0x10 2,
        ops := s.segDs o (f 0x40 4) (min (f 0x08 2) 4096),
        chans := (List.range (min (f 0x0A 2) 8192)).map fun i => (ch.getD (2 * i) 0, ch.getD (2 * i + 1) 0),
        consts := s.segDs o (f 0x48 4) (min (f 0x4C 4) 65536),
        code := (List.range (min (f 0x54 4) (2 ^ 18))).map fun i => BitVec.ofNat 32 (s.seg o (f 0x50 4 + 4 * i) 4),
        skews := s.segDs o (f 0x58 4) (f 0x1A 2) }

/-- Bits [lo + n - 1 : lo] of a double. -/
def fld (w : Dbl) (lo n : Nat) : Nat := (w.extractLsb' lo n).toNat

/-- A double of the constant table. -/
def GView.c (g : GView) (i : Nat) : Dbl := g.consts.getD i 0
/-- GEN, AM_REV and MODE (R160). -/
def GView.gen (g : GView) : Nat := g.f 0x06 1
@[inherit_doc GView.gen] def GView.rev (g : GView) : Nat := g.f 0x07 1
@[inherit_doc GView.gen] def GView.mode (g : GView) : Nat := g.f 0x0C 2 % 4

/-- The segment bytes that a placement of the graph reads (R165): header, tables, code and skew list. -/
def GView.reads (g : GView) : List (Nat × Nat) :=
  [(g.hdr, 96), (g.f 0x40 4, 8 * g.f 0x08 2), (g.f 0x44 4, 16 * g.f 0x0A 2), (g.f 0x48 4, 8 * g.f 0x4C 4),
   (g.f 0x50 4, 4 * g.f 0x54 4), (g.f 0x58 4, 8 * g.f 0x1A 2)]

/-- The pages that a placement of the graph reads. -/
def GView.pages (g : GView) : List Nat := lnub [] (g.reads.flatMap fun r => pagesOf r.1 r.2)

/-! ## Operator configuration words (R95) -/

/-- OPK, PLACE, GUARD, NREG, CODE, CLEN and AUX (R95). -/
def opk (w : Dbl) : Nat := fld w 60 4
@[inherit_doc opk] def opPlace (w : Dbl) : Nat := fld w 57 3
@[inherit_doc opk] def opRepl (w : Dbl) : Bool := w.getLsbD 56
@[inherit_doc opk] def opGuard (w : Dbl) : Nat := fld w 54 2
@[inherit_doc opk] def opNreg (w : Dbl) : Nat := fld w 48 4
@[inherit_doc opk] def opCode (w : Dbl) : Nat := fld w 32 16
@[inherit_doc opk] def opClen (w : Dbl) : Nat := fld w 23 9
@[inherit_doc opk] def opAux (w : Dbl) : Nat := fld w 0 16

/-- The unit configuration word of a node. -/
def GView.unit (g : GView) (w : Dbl) : Dbl := g.c (opAux w)

/-- A memory node that is not a fence; SPACE of one (R97). -/
def memAccess (u : Dbl) : Bool := fld u 60 4 != 6
@[inherit_doc memAccess] def memSpace (u : Dbl) : Nat := fld u 44 2

/-- The kinds of unit of an F tile: scan, merge, repeat, reduce and writer (R279). -/
def fbType (fop : Nat) : Nat :=
  match fop with
  | 0 | 1 | 6 => 0
  | 2 | 3 | 8 => 1
  | 4 => 2
  | 5 => 3
  | _ => 4
/-- Units of a type per F tile (R279). -/
def fbPer (ty : Nat) : Nat := if ty = 1 ∨ ty = 4 then 1 else 2

/-- Quotient rounded up. -/
def ceilDiv (a b : Nat) : Nat := (a + b - 1) / b

/-- Tiles of each kind V, M, S, F, P that the operators need (R40). -/
def GView.need (g : GView) : List Nat :=
  let count (p : Dbl → Bool) : Nat := (g.ops.filter p).length
  let mem (w : Dbl) : Bool := opk w == 2 && memAccess (g.unit w)
  let s := count fun w => mem w && memSpace (g.unit w) == 0
  let p := count fun w => mem w && memSpace (g.unit w) != 0
  let ag := count fun w => opk w == 5 || opk w == 6 || opk w == 7
  let f := lmax ((List.range 5).map fun ty =>
    ceilDiv (count fun w => opk w == 4 && fbType (fld (g.unit w) 60 4) == ty) (fbPer ty))
  [count fun w => opk w == 1, count fun w => opk w == 3, ceilDiv s 8, f, max p ag]

/-- Cell actors (R16). -/
def GView.ncell (g : GView) : Nat := (g.ops.filter fun w => opk w == 0).length

/-! ## The header (R161) -/

/-- KERF of a graph (R160): that of its first walker. -/
def GView.kerfOf (g : GView) : Nat :=
  match g.ops.find? fun w => opk w == 5 with
  | none => 0x00400000
  | some w =>
    let u := g.unit w
    fld u 40 8 * 2 ^ 24 + fld u 51 7 * 2 ^ 16 + fld u 58 3 * 2 ^ 12 + fld u 48 3 * 2 ^ 8

/-- A table of `n` bytes at an offset lies in the segment's signed part. -/
def GView.fits (g : GView) (off n : Nat) : Bool := decide (off + n ≤ g.obj.limit)

/-- A skew record within its limits (R38, R160). -/
def GView.skewOk (g : GView) (d : Dbl) : Bool :=
  decide (fld d 52 12 < g.ops.length) && decide (fld d 40 12 < g.ops.length) && decide (1 ≤ fld d 27 13) &&
    decide (fld d 27 13 ≤ 4096) && fld d 0 27 == 0

/-- The first field of the header that is ILLEGAL, in the order of R161; a skew record outside its limits counts as SKEW_OFF
(log entry 34). -/
def State.headerBad (s : State) (g : GView) : Option Nat :=
  let need := (g.need.zipIdx.find? fun n => n.1 != g.f (0x10 + 2 * n.2) 2).map fun n => 0x10 + 2 * n.2
  let flags := g.f 0x0C 2
  let kerf := g.f 0x2C 4
  let bad (b : Bool) (off : Nat) : Option Nat := if b then some off else none
  [bad (g.f 0 4 != 0x4748545A) 0,
   bad (BitVec.ofNat 32 (g.f 0x5C 4) != crcOf 0x5C (s.seg g.obj g.hdr 0x5C)) 0x5C,
   bad (g.f 4 2 != 1) 4, bad (decide (g.gen < 1) || decide (g.gen > 3)) 6, bad (g.rev != 2 && g.rev != 3) 7,
   bad (g.f 8 2 == 0 || decide (g.f 8 2 > 4096)) 8, bad (decide (g.f 0x0A 2 > 8192)) 0x0A, need,
   bad (!g.fits (g.f 0x40 4) (8 * g.f 0x08 2)) 0x40, bad (!g.fits (g.f 0x44 4) (16 * g.f 0x0A 2)) 0x44,
   bad (!g.fits (g.f 0x48 4) (8 * g.f 0x4C 4) || g.f 0x48 4 % 8 != 0) 0x48, bad (decide (g.f 0x4C 4 > 65536)) 0x4C,
   bad (!g.fits (g.f 0x50 4) (4 * g.f 0x54 4)) 0x50, bad (!g.fits (g.f 0x58 4) (8 * g.f 0x1A 2) || !g.skews.all g.skewOk) 0x58,
   bad (g.mode == 3 || decide (flags / 32 ≠ 0)) 0x0C,
   bad (if flags / 4 % 8 = 0 then g.f 0x0E 2 != 0 else decide (g.f 0x0E 2 + 2 > g.f 0x4C 4)) 0x0E,
   bad (g.f 0x1C 2 != 0 && decide (g.f 0x1E 2 + 10 * g.f 0x1C 2 > g.f 0x4C 4)) 0x1E, bad (g.f 0x2A 2 != 0) 0x2A,
   bad (g.f 0x28 2 != 0xFFFF) 0x28, bad (kerf != g.kerfOf) 0x2C].findSome? id

/-- The graphs of a context stack, phase 0 first; a graph without a stack is the one phase (R57, R160). -/
def GView.phases (g : GView) : List Nat :=
  let n := g.f 0x0C 2 / 4 % 8
  if n = 0 then [g.index]
  else (List.range (n + 1)).map fun i => fld (g.c (g.f 0x0E 2 + i / 4)) (16 * (i % 4)) 16

/-! ## Cell code (R96, R104, R131, R143, R150) -/

/-- The instructions of a cell's code in word order, each with its offset. -/
def scanCell (gen : Nat) : Nat → List Word → List (Nat × Option Instr)
  | _, [] => []
  | i, [w] =>
    match decodeCell gen w 0 with
    | some x => [(i, if takesExt x then none else some x)]
    | none => [(i, none)]
  | i, w :: e :: t =>
    match decodeCell gen w e with
    | some x => if takesExt x then (i, some x) :: scanCell gen (i + 2) t else (i, some x) :: scanCell gen (i + 1) (e :: t)
    | none => (i, none) :: scanCell gen (i + 1) (e :: t)

/-- The displacement of a branch. -/
def branchDisp : Instr → Option Half
  | .br d => some d
  | .bz _ d => some d
  | .bnz _ d => some d
  | .bk _ _ d => some d
  | .bkind _ _ _ d => some d
  | _ => none

/-- Words of a decoded position. -/
def slotWords (x : Option Instr) : Nat := (x.map wordsOf).getD 1

/-- Where a word leads, within the code or just past it. -/
def succOf (i : Nat) (x : Option Instr) : List Nat :=
  match x with
  | none => []
  | some .endCell => []
  | some (.br d) => [branchTo i d]
  | some y => (i + wordsOf y) :: (match branchDisp y with
    | some d => [branchTo i d]
    | none => [])

/-- The words reached from those of a list. The first argument bounds the words looked at. -/
def reachCode (xs : List (Nat × Option Instr)) : Nat → List Nat → List Nat → List Nat
  | 0, _, seen => seen
  | _, [], seen => seen
  | n + 1, i :: rest, seen =>
    if seen.contains i then reachCode xs n rest seen
    else match xs.find? fun x => x.1 == i with
      | none => reachCode xs n rest seen
      | some x => reachCode xs n (succOf i x.2 ++ rest) (i :: seen)

/-- The words reached from some entries. -/
def reached (xs : List (Nat × Option Instr)) (es : List Nat) : List Nat := reachCode xs (4 * xs.length + 16) es []

/-- A word that no `rep` block may hold (R131). -/
def notInRep : Instr → Bool
  | .rep _ _ | .endCell => true
  | x => (branchDisp x).isSome

/-- Whether a `rep` at word i of a cell's code is in order (R131). -/
def repOk (xs : List (Nat × Option Instr)) (size i words len : Nat) : Bool :=
  let b := i + words
  let e := b + len
  let inside (q : Nat) : Bool := decide (b ≤ q) && decide (q < e)
  decide (e ≤ size) && (decide (e = size) || xs.any fun x => x.1 == e) &&
    !(xs.any fun x => inside x.1 && ((x.2.map notInRep).getD false)) &&
    !(xs.any fun x => !inside x.1 && match x.2.bind branchDisp with
      | some d => inside (branchTo x.1 d)
      | none => false)

/-- Whether a graph's mode permits a word (R59), and a cell without `.repl` a `repl` (R143). -/
def modeOk (mode : Nat) (repl : Bool) : Instr → Bool
  | .spawn _ => mode == 1
  | .qpop _ _ _ => mode == 2
  | .repl _ => repl
  | _ => true

/-- Words of an actor's wrap-up entry only (R150). -/
def wrapOnly : Instr → Bool
  | .wrapCommit | .vfSet _ _ => true
  | _ => false

/-- The entries of an actor: numbers 0 to 10 that it has (R96). -/
def entryList (entries : List Byte) (ks : List Nat) : List Nat := ks.filterMap fun k => entryOf entries k

/-- The first word of a cell's code that is ILLEGAL: `wrap.commit` and `vf.set` stand only where the wrap-up entry leads,
and no other entry (R92, R150). -/
def cellCodeBad (gen mode : Nat) (repl : Bool) (code : List Word) (entries : List Byte) : Option Nat :=
  let xs := scanCell gen 0 code
  let inCode (q : Nat) : Bool := xs.any fun x => x.1 == q
  let plain := reached xs (entryList entries (List.range 10))
  let wrap := reached xs (entryList entries [10])
  let all := plain ++ wrap
  xs.findSome? fun (i, x) =>
    match x with
    | none => some i
    | some y =>
      let target := match branchDisp y with
        | some d => inCode (branchTo i d) && decide (0 ≤ (i : Int) + d.toInt)
        | none => true
      let block := match y with
        | .rep _ len => repOk xs code.length i (wordsOf y) len.toNat
        | _ => true
      let ends := match y with
        | .endCell | .br _ => true
        | _ => decide (i + wordsOf y < code.length) || !all.contains i
      if target && block && ends && modeOk mode repl y &&
          (!wrapOnly y || (wrap.contains i && !plain.contains i)) then none else some i

/-! ### MICROCODED words (R168) -/

/-- The words that stand for a word, and whether they are a substitute. A `clip8` of an immediate has no room for a second
one, and stays as it is (log entry 35). -/
def microWords : Instr → Option (List Word)
  | .neg d a => some (encode (.sub d (.s 0) a false false))
  | .clip8 d a =>
    match a with
    | .imm _ => none
    | a => some (encode (.max (.s d) a (.imm 0xFFFFFF80) false) ++ encode (.min (.s d) (.s d) (.imm 127) false))
  | _ => none

/-- Words that position `x` takes after substitution. -/
def newWords (x : Option Instr) : Nat := ((x.bind microWords).map List.length).getD (slotWords x)

/-- Where a word moves to. -/
def moved (xs : List (Nat × Option Instr)) (q : Nat) : Nat := lsum ((xs.filter fun x => decide (x.1 < q)).map fun x => newWords x.2)

/-- The length of a `rep` block after substitution. -/
def newRep (xs : List (Nat × Option Instr)) (i words len : Nat) : Nat := moved xs (i + words + len) - moved xs (i + words)

/-- A word after substitution. -/
def placedWords (xs : List (Nat × Option Instr)) (i : Nat) (raw : List Word) (y : Instr) : List Word :=
  let far (d : Half) : Half := BitVec.ofInt 16 ((moved xs (branchTo i d) : Int) - (moved xs i : Int))
  match y with
  | .br d => encode (.br (far d))
  | .bz a d => encode (.bz a (far d))
  | .bnz a d => encode (.bnz a (far d))
  | .bk k v d => encode (.bk k v (far d))
  | .bkind q k l d => encode (.bkind q k l (far d))
  | .rep a len => encode (.rep a (BitVec.ofNat 5 (newRep xs i (wordsOf y) len.toNat)))
  | y => (microWords y).getD raw

/-- The code as it is placed, and the offsets of the words that stand for retired ones. -/
def placedCode (gen : Nat) (code : List Word) : List Word × List Nat :=
  let xs := scanCell gen 0 code
  if gen = 3 then (code, [])
  else
    (xs.flatMap fun (i, x) => match x with
      | some y => placedWords xs i ((code.drop i).take (wordsOf y)) y
      | none => (code.drop i).take 1,
     xs.filterMap fun (i, x) => if (x.bind microWords).isSome then some (moved xs i) else none)

/-- The first retired word whose substitute does not fit: the store overflows, or a `rep` can no longer span its block. -/
def microBad (gen : Nat) (code : List Word) : Option Nat :=
  let xs := scanCell gen 0 code
  let retired := xs.filter fun x => (x.2.bind microWords).isSome
  let wide := retired.find? fun x => decide (moved xs x.1 + newWords x.2 + (code.length - x.1 - slotWords x.2) > 32)
  let rep := xs.findSome? fun (i, x) => match x with
    | some (.rep a len) =>
      let b := i + wordsOf (.rep a len)
      if newRep xs i (b - i) len.toNat > 31 then
        (retired.find? fun z => decide (b ≤ z.1) && decide (z.1 < b + len.toNat)).map (·.1)
      else none
    | _ => none
  if gen = 3 then none else (wide.map (·.1)).or rep

/-! ## Vector code (R96, R104, R265) -/

/-- The first word of a vector actor's code that is ILLEGAL: no word of the map, or one by which a firing runs past the
end. -/
def vecCodeBad (code : List Word) (entries : List Byte) : Option Nat :=
  let es := entryList entries (List.range 10)
  let runs (i : Nat) : Bool := es.any fun e => decide (e ≤ i) && ((code.drop e).take (i - e)).all fun w => decodeVector w != some .vend
  code.zipIdx.findSome? fun (w, i) =>
    match decodeVector w with
    | none => some i
    | some x => if i + 1 = code.length && x != .vend && runs i then some i else none

/-- Vector registers and predicates that a word names (R199). -/
def vecNames : Instr → List VNum × List PNum
  | .vadd d a b p _ | .vsub d a b p _ | .vmul d a b p _ => ([d, a, b], p.toList)
  | .vfma d a b c p _ | .vfms d a b c p _ | .vimad d a b c p => ([d, a, b, c], p.toList)
  | .vneg d a p | .vabs d a p | .vrcp d a p | .vrsqrt d a p | .vexp2 d a p | .vlog2 d a p | .vmov d a p => ([d, a], p.toList)
  | .vmin d a b p | .vmax d a b p | .vperm d a b p | .vand d a b p | .vor d a b p | .vxor d a b p | .vshl d a b p
  | .vshr d a b p | .vsra d a b p => ([d, a, b], p.toList)
  | .vcmpCc _ d a b p => ([a, b], d :: p.toList)
  | .vsel d a b p => ([d, a, b], [p])
  | .vcvt d a _ _ _ _ p | .vquant d a _ _ _ p => ([d, a], p.toList)
  | .vscale d a _ | .vtagGet d a _ => ([d, a], [])
  | .vred _ d a p _ | .vscan _ d a p _ => ([d, a], p.toList)
  | .vrot d a _ p | .vsplat d a _ p => ([d, a], p.toList)
  | .vtagSet d _ _ _ => ([d], [])
  | .vld v _ _ | .vst v _ _ => ([v], [])
  | _ => ([], [])

/-- Physical registers, predicates and store words that a vector actor takes (R199). -/
def vecNeed (code : List Word) : Nat × Nat × Nat :=
  let xs := code.filterMap decodeVector
  ((lnub [] (xs.flatMap fun x => (vecNames x).1.map (·.val))).length,
   (lnub [] (xs.flatMap fun x => (vecNames x).2.map (·.val))).length, code.length)

/-! ## Register records and references (R96, R163) -/

/-- A register record. -/
def regRec (d : Dbl) : RegRec :=
  { reg := fld d 36 4, isState := d.getLsbD 35, isInit := d.getLsbD 34, value := d.extractLsb' 0 32 }

/-- The first record of a list that is ILLEGAL (R96). -/
def recsBad (ds : List Dbl) : Option Nat :=
  (ds.zipIdx.find? fun (d, k) =>
    let r := regRec d
    fld d 40 24 != 0 || fld d 32 2 != 0 || r.reg == 0 || !(r.isState || r.isInit) || (!r.isInit && r.value != 0) ||
      (ds.take k).any fun e => fld e 36 4 == r.reg).map (·.2)

/-- A reference double is in order (R163). -/
def refOk (r : Dbl) : Bool := fld r 57 5 == 0 && !(fld r 62 2 == 2 && fld r 0 57 % 4 != 0)

/-- The value of a reference at a placement (R163). -/
def State.refVal (s : State) (o : Obj) (frame : Nat) (r : Dbl) : Nat :=
  let v := fld r 0 57
  match fld r 62 2 with
  | 0 => v
  | 1 => o.va + v
  | 2 => s.seg o v 4
  | _ => frame + v

/-! ## Unit configuration words (R97 to R99, R227, R250, R257, R295, R296) -/

/-- Element size of a memory node (R97). -/
def memSize (u : Dbl) : Nat := 2 ^ fld u 57 3 * (if fld u 57 3 = 4 then 8 else 1)

/-- A memory node's word (R97, R317, R328, R331, R338, R339). -/
def memWordOk (u : Dbl) (place : Nat) : Bool :=
  let mop := fld u 60 4
  let size := fld u 57 3
  let rfn := fld u 53 4
  let acq := u.getLsbD 52
  let rel := u.getLsbD 51
  let sp := memSpace u
  decide (mop ≤ 6) && decide (size ≤ 4) && decide (rfn ≤ 11) && (mop == 5 || rfn == 0) && fld u 32 10 == 0 &&
    (acq || rel || fld u 49 2 == 0) && !(u.getLsbD 46 && decide (sp ≤ 1)) && !(u.getLsbD 43 && sp != 0) &&
    (mop == 5 || !u.getLsbD 42) &&
    (if mop = 6 then size == 0 && !acq && !rel && fld u 47 4 == 0 else (place == 3) == (sp == 0)) &&
    (!(mop == 2 || mop == 3 || mop == 4) || (sp == 0 && decide (size ≥ 2))) &&
    (mop != 5 || (decide (sp ≤ 1) && decide (size ≥ 2) &&
      (size != 4 || (sp == 1 && decide (rfn ≤ 8) && !u.getLsbD 42)))) &&
    !(rfn == 11 && size != 2) && !(acq && (mop == 1 || mop == 4)) && !(rel && (mop == 0 || mop == 2 || mop == 3))

/-- A node without `shm` whose range meets the shared window, or one with it whose range does not lie inside (R306). -/
def State.shmBad (s : State) (lctx : Nat) (u : Dbl) (a n : Nat) : Bool :=
  let e := a + n * memSize u
  match s.ctx lctx with
  | none => false
  | some c =>
    if n = 0 ∨ (memSpace u ≠ 1 ∧ c.shmLen = 0) then false
    else if memSpace u = 1 then !(decide (c.shm ≤ a) && decide (e ≤ c.shm + c.shmLen))
    else decide (a < c.shm + c.shmLen) && decide (c.shm < e)

/-- The double of a memory node that is ILLEGAL, by constant-table index. -/
def State.memNodeBad (s : State) (g : GView) (lctx frame : Nat) (w : Dbl) : Option Nat :=
  let u := g.unit w
  let ai := fld u 16 16
  let ci := fld u 0 16
  if !memWordOk u (opPlace w) then some (opAux w)
  else if !memAccess u then none
  else if ai ≥ g.consts.length ∨ ci ≥ g.consts.length then some (opAux w)
  else if !refOk (g.c ai) then some ai
  else if !refOk (g.c ci) then some ci
  else if memSpace u ≠ 0 ∧ s.shmBad lctx u (s.refVal g.obj frame (g.c ai)) (s.refVal g.obj frame (g.c ci)) then some ai
  else none

/-- N of a walker's records (R242). -/
def GView.walkN (g : GView) (w : Dbl) : Nat :=
  points ((List.range (fld (g.unit w) 61 3 + 1)).map fun d => fld (g.c (opAux w + 1 + d)) 48 16 + 1)

/-- DA and DB of a walker's kerf record (R242). -/
def GView.linesOf (g : GView) (w : Dbl) : Nat × Nat :=
  let k := g.c (opAux w + 2 + fld (g.unit w) 61 3)
  (fld k 61 3, fld k 58 3)

/-- The double of a walker that is ILLEGAL (R99, R242, R243). -/
def GView.walkBad (g : GView) (w : Dbl) : Option Nat :=
  let a := opAux w
  let u := g.unit w
  let nd := fld u 61 3 + 1
  let k := g.c (a + 1 + nd)
  let bad (b : Bool) (i : Nat) : Option Nat := if b then some (a + i) else none
  ([bad (decide (a + nd + 3 ≥ g.consts.length) || decide (fld u 58 3 > 5) || decide (fld u 51 7 > 64) ||
      decide (fld u 48 3 > 3) || fld u 32 7 != 0 || (fld u 0 32 != 0 && fld u 58 3 != 5)) 0] ++
   ((List.range nd).map fun d => bad (fld (g.c (a + 1 + d)) 0 16 != 0) (1 + d)) ++
   [bad (decide (g.walkN w ≥ 2 ^ 32)) nd,
    bad (decide (fld k 61 3 ≥ nd) || decide (fld k 58 3 ≥ nd) || fld k 16 24 != 0 || fld k 0 16 != 0) (nd + 1),
    bad (!refOk (g.c (a + nd + 2))) (nd + 2), bad (!refOk (g.c (a + nd + 3))) (nd + 3)]).findSome? id

/-- The operators with a path of channels to operator `o`; the first argument bounds the steps. -/
def GView.upstream (g : GView) : Nat → List Nat → List Nat → List Nat
  | 0, _, seen => seen
  | _, [], seen => seen
  | n + 1, o :: rest, seen =>
    if seen.contains o then g.upstream n rest seen
    else g.upstream n ((g.chans.filterMap fun c => if fld c.1 36 12 = o then some (fld c.1 52 12) else none) ++ rest)
      (seen ++ [o])

/-- The walker that a spline is bound to by `from=`: the first one with a path of channels to it; a spline with none is
bound to no walker (log entry 36). -/
def GView.walkerOf (g : GView) (o : Nat) : Option Nat :=
  let up := g.upstream (g.chans.length + g.ops.length + 1) [o] []
  (List.range g.ops.length).find? fun i => up.contains i && ((g.ops[i]?).map fun w => opk w == 5).getD false

/-- The double of a spline that is ILLEGAL (R250, R257): its lines and count are the walker's where it is bound to one. -/
def State.splineBad (s : State) (g : GView) (frame o : Nat) (w : Dbl) : Option Nat :=
  let a := opAux w
  let u := g.unit w
  let wk := (g.walkerOf o).bind fun i => g.ops[i]?
  let bad (b : Bool) (i : Nat) : Option Nat := if b then some (a + i) else none
  let lines := wk.map g.linesOf
  let count := s.refVal g.obj frame (g.c (a + 2))
  [bad (decide (a + 2 ≥ g.consts.length) || fld u 57 7 != 0 || fld u 0 40 != 0 || !splinePair (fld u 53 4) (fld u 50 3) ||
      lines.any fun l => fld u 47 3 != l.1 || fld u 44 3 != l.2) 0,
   bad (!refOk (g.c (a + 1)) || s.refVal g.obj frame (g.c (a + 1)) % 64 != 0) 1,
   bad (!refOk (g.c (a + 2)) || match wk with
      | some x => count != g.walkN x
      | none => decide (count = 0) || decide (2 ^ 32 ≤ count)) 2].findSome? id

/-- Doubles that follow a fibre unit's word (R295). -/
def fbConsts (fop nin : Nat) : Nat :=
  match fop with
  | 0 => 4 | 1 => 1 | 3 => nin | 6 => 2 | 7 => 6 | 8 => 1 | _ => 0
/-- Places of the addresses and the counts among them. -/
def fbAddrs (fop : Nat) : List Nat :=
  match fop with
  | 0 => [0, 2] | 6 => [0] | 7 => [0, 2, 4] | _ => []
@[inherit_doc fbAddrs] def fbCounts (fop : Nat) : List Nat :=
  match fop with
  | 0 => [1, 3] | 1 => [0] | 6 => [1] | 7 => [1, 3, 5] | _ => []

/-- The double of a fibre unit that is ILLEGAL, the lowest in the table (R98, R295, R296, R301, R413). -/
def State.fibreBad (s : State) (g : GView) (frame : Nat) (w : Dbl) : Option Nat :=
  let a := opAux w
  let u := g.unit w
  let fop := fld u 60 4
  let nin := fld u 55 2
  let k := g.c (a + 1)
  let count (i : Nat) : Nat := s.refVal g.obj frame (g.c (a + 1 + i))
  let lines := if fop = 0 ∨ fop = 6 then lsum ((fbCounts fop).map fun i => (count i + 15) / 16) else 0
  let bad (b : Bool) (i : Nat) : Option Nat := if b then some (a + i) else none
  ([bad (decide (fop > 8) || decide (a + fbConsts fop nin ≥ g.consts.length) || fld u 57 3 == 0 ||
      (if fop = 2 ∨ fop = 3 then nin != 2 && nin != 3 else nin != 0) || (u.getLsbD 54 && fop != 5) ||
      (if fop = 5 then decide (fld u 46 4 > 2) else fld u 46 4 != 0) ||
      (if fop = 5 ∨ fop = 6 ∨ fop = 7 ∨ fop = 8 then fld u 50 4 != 1 && fld u 50 4 != 9 else fld u 50 4 != 0) ||
      fld u 32 14 != 0 || decide (fld u 16 16 + fld u 0 16 > 1536) || decide (lines > fld u 0 16)) 0] ++
   ((List.range (fbConsts fop nin)).map fun i =>
      bad (((fbAddrs fop).contains i || (fbCounts fop).contains i) && !refOk (g.c (a + 1 + i)) ||
        (fbCounts fop).contains i && (count i == 0 || (fop == 1 && decide (count i > 65536)) ||
          (fop == 7 && i == 1 && fld u 57 3 == 1 && count i != 2))) (1 + i)) ++
   [bad (fop == 8 && (fld k 36 28 != 0 || !(((cond? (k.extractLsb' 32 4)).map fun cc =>
      if fld u 50 4 = 1 then Cond.forFloat cc else Cond.forInt cc).getD false))) 1] ++
   (if fop = 3 then (List.range nin).map fun i => bad (fld (g.c (a + 1 + i)) 32 32 != 0) (1 + i) else [])).findSome? id

/-- The double of a matrix node that is ILLEGAL (R175, R227, R235). Three zero doubles ask for no messages (log entry
37). -/
def GView.matrixBad (g : GView) (w : Dbl) : Option Nat :=
  let a := opAux w
  let u := g.unit w
  let bad (b : Bool) (i : Nat) : Option Nat := if b then some (a + i) else none
  let none_ := g.c (a + 1) == 0 && g.c (a + 2) == 0 && g.c (a + 3) == 0
  [bad (decide (a + 3 ≥ g.consts.length) || fld u 57 7 != 0 || (fld u 53 4 != 4 && fld u 53 4 != 0xB) ||
      decide (fld u 50 3 > 4) || fld u 0 30 != 0) 0,
   bad (!none_ && !refOk (g.c (a + 1))) 1,
   bad (!none_ && (fld (g.c (a + 2)) 57 7 != 0 || !(g.c (a + 2)).getLsbD 56 || fld (g.c (a + 2)) 32 24 != 0)) 2,
   bad (!none_ && (fld (g.c (a + 3)) 32 32 != 0 || g.c (a + 3) == 0)) 3].findSome? id

/-- A port name as an object holds it: an operator index in place of a tile, and no context (R163). `chan` allows a channel.
-/
def GView.portName (g : GView) (w : Dbl) (chan : Bool) : Bool :=
  !w.getLsbD 42 && fld w 0 25 == 0 && fld w 55 8 == 0 && (chan || fld w 25 13 == 0) && decide (fld w 43 12 < g.ops.length)

/-- A reply word as an object holds it: a counter, none, or a reply port (R101, R226, R414). -/
def GView.replyWord (g : GView) (w : Dbl) (none_ : Bool) : Bool :=
  if w.getLsbD 63 then fld w 32 19 == 0 && fld w 0 32 != 0
  else if w == 0 then none_
  else g.portName w false && g.rev == 3

/-- A port of operator `o` in an operand word of an object: one of `ports`, with the channel that the graph binds there
(R101). -/
def GView.ownPort (g : GView) (o : Nat) (w : Dbl) (ports : List Nat) (out : Bool) : Bool :=
  w.getLsbD 63 && g.portName w true && fld w 43 12 == o && ports.contains (portOf w) &&
    match g.chans[fld w 25 13]? with
    | some c => if out then fld c.1 52 12 == o && fld c.1 48 4 == portOf w else fld c.1 36 12 == o && fld c.1 32 4 == portOf w
    | none => false

/-- An endpoint of a declared copy (R346, R349): a port of the node, a memory-tile address or a reference. -/
def State.copyEndBad (s : State) (g : GView) (frame o : Nat) (u d : Dbl) (mt out : Bool) (wide narrow : Nat) : Bool :=
  let size := copySize u
  if fld d 62 2 = 2 then
    mt || !g.ownPort o d [wide, narrow] out || g.rev != 3 || (portOf d == narrow && fld u 47 3 != 2)
  else
    let v := s.refVal g.obj frame d
    fld d 57 5 != 0 || v % size != 0 || (mt && decide (v ≥ 2 ^ 32))

/-- Doubles of a copy node: word 1 of `cp.arm`, the source, the destination, word 7 and the records, held to what `cp.arm`
takes (R346, R349; log entry 36). -/
def State.copyNodeBad (s : State) (g : GView) (lctx frame o : Nat) (w : Dbl) : Option Nat :=
  let a := opAux w
  let u := g.unit w
  let nd := fld u 50 3 + 1
  let bad (b : Bool) (i : Nat) : Option Nat := if b then some (a + i) else none
  let stream (i : Nat) : Bool := fld (g.c (a + i)) 62 2 == 2
  ([bad (decide (a + 3 + nd ≥ g.consts.length) || !bitsClear u (wordReserved 2 1 1) || decide (fld u 47 3 > 4) ||
      (if u.getLsbD 46 then decide (fld u 42 4 < 4) else fld u 42 4 != 0) ||
      (u.getLsbD 29 && !s.hasHandle lctx (fld u 30 12)) || (u.getLsbD 16 && !s.hasHandle lctx (fld u 17 12))) 0,
    bad (s.copyEndBad g frame o u (g.c (a + 1)) (u.getLsbD 15) false 0 2) 1,
    bad (s.copyEndBad g frame o u (g.c (a + 2)) (u.getLsbD 14) true 1 3) 2,
    bad (!g.replyWord (g.c (a + 3)) true) 3] ++
   ((List.range nd).map fun i =>
      let r := g.c (a + 4 + i)
      bad ((stream 1 && fld r 24 24 != 0) || (stream 2 && fld r 0 24 != 0)) (4 + i))).findSome? id

/-! ## Spawn records and templates (R148, R163) -/

/-- The double of a spawn record that is ILLEGAL (R148). A subgraph channel that it binds lies at the edge of the subgraph
(R60). -/
def State.spawnBad (s : State) (g : GView) (o rec : Nat) : Option Nat :=
  let d := g.c rec
  let nb := fld d 44 4
  let bound := g.chans.any fun c => fld c.1 36 12 == o && fld c.1 32 4 == fld d 42 2
  let sub := s.graphView g.ob (fld d 48 16)
  let edge (i : Nat) : Bool := (sub.map fun v => ((v.chans[i]?).map fun c =>
    isEdge v.ops.length (fld c.1 52 12) || isEdge v.ops.length (fld c.1 36 12)).getD false).getD false
  if rec + nb ≥ g.consts.length ∨ fld d 48 16 ≥ g.ngraph ∨ nb = 0 ∨ fld d 0 42 ≠ 0 ∨ bound then some rec
  else ((List.range nb).find? fun i =>
    let b := g.c (rec + 1 + i)
    fld b 32 32 != 0 || decide (fld b 16 16 ≥ g.chans.length) || !edge (fld b 0 16)).map fun i => rec + 1 + i

/-- ENGINE of an operator (R100). -/
def opEngine (w : Dbl) : Nat :=
  match opk w with
  | 3 => 1 | 7 => 2 | 5 => 3 | 6 => 4 | _ => 0

/-- What the target of a template takes, as far as the Joiner knows it (R105). -/
def State.tmplEnv (s : State) (g : GView) (lctx target : Nat) : FormEnv :=
  let w := (g.ops[target]?).getD 0
  { port := g.ownPort target, handle := s.hasHandle lctx, counter := s.hasCounter lctx, dims := fld (g.unit w) 61 3 + 1,
    lines := (((g.walkerOf target).bind fun i => g.ops[i]?).map g.linesOf), window := s.inWindow lctx }

/-- The image of a template record with its addresses relocated and its other words as they stand (R163). -/
def tmplImage (objVa frame : Nat) (ds : List Dbl) : Packet :=
  let d (i : Nat) : Dbl := ds.getD i 0
  (List.range 8).foldl (fun p k =>
    let w := d (2 + k)
    let off := (w.extractLsb' 0 57).toNat
    let va := if 1 ≤ k ∧ (d 0).getLsbD (41 + k) then some (objVa + off)
      else if 1 ≤ k ∧ (d 0).getLsbD (35 + k) then some (frame + off) else none
    Packet.setDbl p k (((va.filter fun _ => decide (k ≤ 6)).map fun v => setBits w 0 57 (v % 2 ^ 57)).getD w)) (0 : Packet)

/-- The bits of a word that no patch of `amsg` replaces (R146). -/
def fixedBits (desc : Dbl) (k : Nat) : Nat :=
  let half (w h : Nat) : Nat := if fld desc w 3 = k then (if desc.getLsbD h then mask 32 64 else mask 0 32) else 0
  mask 0 64 - (half 45 44 ||| half 41 40)

/-- Whether a limit holds as far as an image fixes it: one that rests on a bit which `amsg` patches is not judged yet (R105).
-/
def Limit.holds (l : Limit) (desc : Dbl) : Bool := l.ok || l.needs.any fun x => x.2 &&& fixedBits desc x.1 != x.2

/-- Whether an operand word of a template has the form its command takes, as far as the image fixes it (R105): the reserved
bits that no patch replaces, and the limits that rest on such bits alone. -/
def FormEnv.tmplWord (e : FormEnv) (desc : Dbl) (p : Packet) (k : Nat) : Bool :=
  bitsClear (p.dbl k) (wordReserved p.engine p.opc k &&& fixedBits desc k) && (e.limits p k).all (·.holds desc)

/-- The limits of word 7 of a template: a counter with an increment, a reply port, or nothing where RPLY is 0 (R101, R163,
R414). -/
def GView.replyLimits (g : GView) (rply : Bool) (w : Dbl) : List Limit :=
  let counter := w.getLsbD 63
  let kind : Nat × Nat := (7, mask 63 64)
  if g.rev = 2 then [limOn 7 (mask 63 64) counter, limOn 7 (mask 32 51) (fld w 32 19 == 0), limOn 7 (mask 0 32) (fld w 0 32 != 0)]
  else if !rply then limZero 7 w [] true
  else
    [{ needs := [kind, (7, mask 32 51)], ok := !counter || fld w 32 19 == 0 },
     { needs := [kind, (7, mask 0 32)], ok := !counter || fld w 0 32 != 0 },
     { needs := [kind, (7, mask 32 63)], ok := counter || (!w.getLsbD 42 && fld w 55 8 == 0 && fld w 32 6 == 0 &&
       decide (fld w 43 12 < g.ops.length)) },
     { needs := [kind, (7, mask 0 32)], ok := counter || fld w 0 32 == 0 }]

/-- The place among the ten doubles of a template record of the one that is ILLEGAL, if there is one (R105, R163). `ds` is
the record and `before` the records before it. -/
def State.tmplBad (s : State) (g : GView) (lctx frame : Nat) (ds : List Dbl) (before : List (List Dbl)) : Option Nat :=
  let d (i : Nat) : Dbl := ds.getD i 0
  let rel := fld (d 0) 42 6
  let frl := fld (d 0) 36 6
  let desc := d 1
  let h := d 2
  let engine := fld h 52 4
  let opc := fld h 56 8
  let target := (g.ops[fld desc 52 12]?).map opEngine
  let w7 := d 9
  let image := tmplImage g.obj.va frame ds
  let env := s.tmplEnv g lctx (fld desc 52 12)
  let bad (b : Bool) (i : Nat) : Option Nat := if b then some i else none
  ([bad (fld (d 0) 0 36 != 0 || decide (fld (d 0) 52 12 ≥ g.ops.length) ||
      (before.any fun b => (b.getD 0 0).extractLsb' 48 16 == (d 0).extractLsb' 48 16) ||
      ((List.range 6).any fun k => (rel / 2 ^ k % 2 == 1) && (frl / 2 ^ k % 2 == 1 || (d (3 + k)).getLsbD 63)) ||
      ((List.range 6).any fun k => frl / 2 ^ k % 2 == 1 && (d (3 + k)).getLsbD 63)) 0,
    bad (fld desc 0 32 != 0 || desc.getLsbD 51 || fld desc 48 3 != 0 || fld desc 32 8 != 0 ||
      !(if engine = 5 then target.isSome else target == some engine && engine != 0)) 1,
    bad (!opcOk engine opc || fld h 48 4 != g.rev || fld h 40 8 != 0 ||
      (if g.rev = 2 then fld h 32 8 != 0 else fld h 33 7 != 0)) 2] ++
   ((List.range 6).map fun k => bad (!env.tmplWord desc image (k + 1)) (3 + k)) ++
   [bad (!(g.replyLimits (h.getLsbD 32) w7).all (·.holds desc)) 9]).findSome? id

/-- The template records of a graph, in order, each with the index of its first double. -/
def GView.tmpls (g : GView) : List (Nat × List Dbl) :=
  (List.range (g.f 0x1C 2)).map fun i =>
    let a := g.f 0x1E 2 + 10 * i
    (a, (List.range 10).map fun j => g.c (a + j))

/-! ## The items of a graph in decoding order (R413) -/

/-- What is ILLEGAL in a placement: the graph, WHO and DETAIL of its record (R413). -/
structure Bad where
  graph : Nat
  who : Nat
  detail : Nat
deriving DecidableEq, Repr, Inhabited

/-- DETAIL of an item (R413). -/
def detailOf (kind n : Nat) : Nat := kind * 2 ^ 28 + n

/-- The configuration word of an operator (R95). A `fence` takes no tile kind of its own (R331), and any
code that names a kind is accepted on it, but not 0, which is a cell actor's (DEDUCED, log entry 83). The GUARD of a merge or
amerge actor is not looked at: its arms start at `q0` whatever it is (DESIGN CHOICE, log entry 110). -/
def GView.opWordOk (g : GView) (w : Dbl) : Bool :=
  let k := opk w
  let p := opPlace w
  let actor := k == 0 || k == 1
  let fence := k == 2 && !memAccess (g.unit w)
  decide (k ≤ 7) && (k == 0 || !opRepl w) && fld w 52 2 == 0 && fld w 16 7 == 0 &&
    (match k with
     | 0 => decide (p ≤ 5)
     | 1 => p == 1
     | 2 => fence && decide (1 ≤ p) && decide (p ≤ 5) || p == 3 || p == 5
     | 3 => p == 2
     | 4 => p == 4
     | _ => p == 5) &&
    (if actor then decide (1 ≤ opClen w) && decide (opClen w ≤ if k = 0 then 32 else 256) &&
        decide (opCode w + opClen w ≤ g.code.length) && decide (opAux w + 2 + opNreg w ≤ g.consts.length)
     else opClen w == 0 && opNreg w == 0 && opGuard w == 0 && decide (opAux w < g.consts.length))

/-- The code words of an actor, and the 16 bytes of its entry vector. -/
def GView.codeOf (g : GView) (w : Dbl) : List Word := (g.code.drop (opCode w)).take (opClen w)
@[inherit_doc GView.codeOf] def GView.entriesOf (g : GView) (w : Dbl) : List Byte :=
  (List.range 16).map fun k => (g.c (opAux w + k / 8)).extractLsb' (8 * (k % 8)) 8

/-- The double of an entry vector that is ILLEGAL: 0 or 1 (R96, R265). -/
def GView.entriesBad (g : GView) (w : Dbl) : Option Nat :=
  let es := g.entriesOf w
  let starts := if opk w = 0 then (scanCell g.gen 0 (g.codeOf w)).map (·.1) else List.range (opClen w)
  ((List.range 16).find? fun k =>
    let e := (es.getD k 0xFF).toNat
    if k < 11 then e != 0xFF && (!starts.contains e || (opk w == 1 && k == 10)) else e != 0xFF).map fun k => k / 8

/-- The spawn records that a cell's code names. -/
def GView.spawns (g : GView) (w : Dbl) : List Nat :=
  if opk w = 0 then (scanCell g.gen 0 (g.codeOf w)).filterMap fun x => match x.2 with
    | some (.spawn r) => some r.toNat
    | _ => none
  else []

/-- The lower of two word offsets: code words are decoded in word order (R413). -/
def lower : Option Nat → Option Nat → Option Nat
  | some a, some b => some (min a b)
  | a, b => a.or b

/-- DETAIL of the first ILLEGAL item of operator `o`. -/
def State.opBad (s : State) (g : GView) (lctx frame o : Nat) (w : Dbl) : Option Nat :=
  let con (x : Option Nat) : Option Nat := x.map (detailOf 2)
  let a := opAux w
  let tmpls := g.tmpls
  let own := tmpls.zipIdx.findSome? fun (t, i) =>
    if fld (t.2.getD 0 0) 52 12 = o then (s.tmplBad g lctx frame t.2 ((tmpls.take i).map (·.2))).map fun j => t.1 + j else none
  if !g.opWordOk w then some (detailOf 1 0)
  else
    let code := g.codeOf w
    let entries := g.entriesOf w
    let actor (code : Option Nat) : Option Nat :=
      ((code.map (detailOf 0)).or (con ((g.entriesBad w).map (a + ·)))).or
        (con ((recsBad ((List.range (opNreg w)).map fun i => g.c (a + 2 + i))).map (a + 2 + ·)))
    let body : Option Nat := match opk w with
      | 0 => actor (lower (cellCodeBad g.gen g.mode (opRepl w) code entries) (microBad g.gen code))
      | 1 => actor (vecCodeBad code entries)
      | 2 => con (s.memNodeBad g lctx frame w)
      | 3 => con (g.matrixBad w)
      | 4 => con (s.fibreBad g frame w)
      | 5 => con (g.walkBad w)
      | 6 => con (s.splineBad g frame o w)
      | _ => con (s.copyNodeBad g lctx frame o w)
    (body.or (con ((g.spawns w).findSome? (s.spawnBad g o)))).or (con own)

/-- A channel table entry is in order (R162). Rates that break R41 are refused later. -/
def GView.chanOk (g : GView) (c : Dbl × Dbl) : Bool :=
  let op (o : Nat) : Bool := decide (o < g.ops.length) || isEdge g.ops.length o
  op (fld c.1 52 12) && op (fld c.1 36 12) && fld c.1 30 2 != 3 && fld c.1 0 30 == 0 && fld c.2 0 12 == 0

/-- The first ILLEGAL item of a graph (R413). A template record whose owner is no operator stands after the operators, with
its owner field for WHO (log entry 84). -/
def State.graphBad (s : State) (g : GView) (lctx frame : Nat) : Option Bad :=
  let b (who d : Nat) : Bad := { graph := g.index, who := who, detail := d }
  match s.headerBad g with
  | some off => some (b 0xFFFF (detailOf 4 off))
  | none =>
    match g.ops.zipIdx.findSome? fun (w, o) => (s.opBad g lctx frame o w).map fun d => b o d with
    | some x => some x
    | none =>
      match lfind (fun t : Nat × List Dbl => decide (fld (t.2.getD 0 0) 52 12 ≥ g.ops.length)) g.tmpls with
      | some i => some (b (fld (((g.tmpls[i]?).map fun t => t.2.getD 0 0).getD 0) 52 12) (detailOf 2 (g.f 0x1E 2 + 10 * i)))
      | none =>
        ((lfind (fun c => !g.chanOk c) g.chans).map fun i => b 0xFFFF (detailOf 3 i))

end Sys2Proof.Machine
end

