-- ==== Sys2Proof/Machine/GraphBuild.lean ====
section
/-! DEFINITION. What a decoded graph configures: its operators and channels as they are at the first placement
(05_formats_and_opcode_map.md R95 to R99, 08_code_objects.md R162, R163, R168), and the ports of each kind of operator. -/
namespace Sys2Proof.Machine

/-! ## Operators -/

/-- A cell actor (R8, R95, R96, R168). -/
def GView.cell (g : GView) (w : Dbl) : Cell :=
  let code := g.codeOf w
  let xs := scanCell g.gen 0 code
  let pc := placedCode g.gen code
  let recs := (List.range (opNreg w)).map fun i => regRec (g.c (opAux w + 2 + i))
  { code := pc.1, gen := g.gen, micro := pc.2,
    entries := (g.entriesOf w).map fun e =>
      if e == 0xFF || g.gen == 3 then e else BitVec.ofNat 8 (moved xs e.toNat),
    guard := opGuard w, repl := opRepl w, recs := recs,
    regs := (List.range 16).map fun r => ((recs.find? fun x => x.reg == r && x.isInit).map (·.value)).getD 0,
    tseq := 1, next := 1, window := [], retired := false, wrapRun := false, committed := false, firing := none,
    idleFrom := 0, trapped := none }

/-- A vector register and a predicate at a placement (R198). -/
def vreg0 : VReg := { lanes := List.replicate 512 0, tag := 0, side := 0, mark := none }
@[inherit_doc vreg0] def preg0 : PReg := { bits := 0, mark := none }

/-- X at the first placement (R189). -/
def seedX (lctx o : Nat) : Word :=
  let x : Word := 0x9E3779B9 * BitVec.ofNat 32 (256 * o + lctx + 1)
  if x == 0 then 1 else x

/-- A vector actor (R95, R96, R198). -/
def GView.vec (g : GView) (lctx o : Nat) (w : Dbl) : Vec :=
  { code := g.codeOf w, entries := g.entriesOf w, guard := opGuard w, persistV := Config.persistV g.obj.va g.index o,
    persistP := Config.persistP g.obj.va g.index o, vregs := List.replicate 32 vreg0, pregs := List.replicate 8 preg0,
    flags := 0, x := seedX lctx o, xfer := none, retired := false, firing := none, idleFrom := 0 }

/-- MOP of a code (R97). -/
def mopOf (n : Nat) : Mop :=
  match n with
  | 0 => .ld | 1 => .st | 2 => .ldfeClr | 3 => .ldfeKeep | 4 => .stfe | 5 => .rmw | _ => .fence

/-- A memory node (R97). -/
def State.buildMem (s : State) (g : GView) (frame : Nat) (w : Dbl) : Mem :=
  let u := g.unit w
  let a := g.c (fld u 16 16)
  let n := g.c (fld u 0 16)
  { mop := mopOf (fld u 60 4), size := memSize u, rfn := (rmwFn? (fld u 53 4)).getD .add, acq := u.getLsbD 52,
    rel := u.getLsbD 51, ascope := u.extractLsb' 49 2, dscope := u.extractLsb' 47 2, replay := u.getLsbD 46,
    space := memSpace u, isState := u.getLsbD 43, ret := u.getLsbD 42, addrRef := a, countRef := n,
    base := if memAccess u then s.refVal g.obj frame a else 0, count := if memAccess u then s.refVal g.obj frame n else 0,
    next := 0, accs := [], inputDone := false, ordered := false, doneData := false, doneOrder := false, bad := none,
    stall := none, waitFrom := none, issueAt := 0, lines := [] }

/-- A matrix node before its first `mx.cfg` (R175, R222). -/
def GView.matrix (g : GView) (w : Dbl) : Matrix :=
  { decl := (List.range 4).map fun i => g.c (opAux w + i), configured := false, afmt := 0xB, wfmt := 0, mx := false,
    ncol := 128, rows := 1, kpass := 1, active := emptyPlane 0, shadow := emptyPlane 0, cs := [], csPoison := none, acc := [],
    marks := [], ea := [], armed := 0, idx := 0, pass := 0, opOpen := false, armReply := 0, partialRows := false,
    swapPending := none, swapAfter := false, load := none, out := [], takeAt := 0, pushAt := 0, drains := [], flags := 0,
    ops := 0, tokens := 0, inbox := emptyInbox g.rev }

/-- FOP of a code (R98). -/
def fopOf (n : Nat) : Fop :=
  match n with
  | 0 => .scan | 1 => .dense | 2 => .isect | 3 => .union | 4 => .repeat_ | 5 => .reduce | 6 => .lookup | 7 => .write | _ => .filter

/-- The code of a FOP (R98). -/
def Fop.num (f : Fop) : Nat :=
  match f with
  | .scan => 0 | .dense => 1 | .isect => 2 | .union => 3 | .repeat_ => 4 | .reduce => 5 | .lookup => 6 | .write => 7 | .filter => 8

/-- The read arrays of a unit before they are loaded, of the sizes that its counts give (R279, R295). -/
def Fop.arrays (f : Fop) (counts : List Nat) : List (List Word) :=
  let n : Nat := match f with
    | .scan => 2
    | .lookup => 1
    | _ => 0
  (counts.take n).map fun n => List.replicate n 0

/-- A fibre unit (R98, R287, R295). -/
def State.buildFibre (s : State) (g : GView) (frame : Nat) (w : Dbl) : Fibre :=
  let u := g.unit w
  let fop := fld u 60 4
  let a := opAux w + 1
  let val (i : Nat) : Nat := s.refVal g.obj frame (g.c (a + i))
  let counts := (fbCounts fop).map val
  { fop := fopOf fop, level := fld u 57 3, nin := fld u 55 2, dropEmpty := u.getLsbD 54, vfmt := fld u 50 4,
    rop := (redFn? (fld u 46 4)).getD .add, bufBase := 0, bufSize := fld u 0 16,
    consts := (List.range (fbConsts fop (fld u 55 2))).map fun i => g.c (a + i), addrs := (fbAddrs fop).map val,
    counts := counts, arrays := (fopOf fop).arrays counts, badLines := [], nextLine := 0,
    loaded := false, gram := List.replicate 6 { last := .start, max := 0, run := [] }, pushing := none, pushAudit := false,
    nextAt := 0, rootUsed := false, rootDone := false, lastCoord := [none, none, none], sum := none, sumAudit := false,
    fibrePoison := none, i := 0, f := 0, closed := false, accs := [], retired := false }

/-- A walker, whose extents are literals (R242; log entry 85), with the walk it begins at its placement unless it is
declared `start=msg` (R99, R242, R243, R256). The handle of its mask is given at the placement. -/
def State.buildWalker (s : State) (g : GView) (frame o : Nat) (w : Dbl) : Walker :=
  let u := g.unit w
  let a := opAux w + 1
  let nd := fld u 61 3 + 1
  let k := g.c (a + nd)
  let dims := (List.range nd).map fun d => dimOf (g.c (a + d))
  let now : Kerf :=
    { l := fld u 51 7, pat := fld u 58 3, da := fld k 61 3, db := fld k 58 3, phase := fld k 52 6, lm := fld k 46 6,
      la := fld k 40 6, seed := u.extractLsb' 0 32, audit := auditN (fld u 48 3),
      win := if fld u 40 8 = 0 then 64 else fld u 40 8 }
  let msg := Config.startMsg g.obj.va g.index o
  { dims := dims, baseRef := g.c (a + nd + 1), maskRef := g.c (a + nd + 2), base := s.refVal g.obj frame (g.c (a + nd + 1)),
    maskVa := s.refVal g.obj frame (g.c (a + nd + 2)), maskBytes := maskLen (points (dims.map (·.ext))), handle := 0,
    pref := u.getLsbD 39, startMsg := msg, now := now, prev := now, chgAt := 0, latched := now, walking := !msg,
    begun := false, inBlock := false, blockAt := 0, pos := 0, issued := 0, skips := 0, mask := 0, pts := [], stopped := false,
    past := [], lined := 0, endLvl := 0, ended := false, cut := false, walks := 0, doneOut := false, specReply := none, issueAt := 0, accs := [],
    inbox := emptyInbox g.rev }

/-- The upper `cons` bound of the channel at an input port. -/
def GView.consHi (g : GView) (o p : Nat) : Option Nat :=
  (g.chans.find? fun c => fld c.1 36 12 == o && fld c.1 32 4 == p).map fun c => fld c.2 12 13

/-- A spline unit (R176, R257). Its tile is the `cons` of its input channel. -/
def State.buildSpline (s : State) (g : GView) (frame o : Nat) (w : Dbl) : Spline :=
  let u := g.unit w
  let a := opAux w
  { fmt := fld u 53 4, kernel := fld u 50 3, da := fld u 47 3, db := fld u 44 3,
    tile := (g.consHi o 0).getD (fld u 40 4 + 1), baseRef := g.c (a + 1), countRef := g.c (a + 2),
    base := s.refVal g.obj frame (g.c (a + 1)), count := s.refVal g.obj frame (g.c (a + 2)),
    walker := (g.walkerOf o).getD 0xFFFF, taken := 0, computed := [], audited := [], inputDone := false, phase := .take,
    next := 0, sub := 0, walks := 0,
    window := [], flags := [], mapStored := false, mapVa := 0, holds := false, accs := [], run := none, inbox := emptyInbox g.rev }

/-- An endpoint of a copy node's declaration (R349; log entry 36). -/
def State.copyEnd (s : State) (o : Obj) (frame : Nat) (d : Dbl) (mt : Bool) : EndPt :=
  if fld d 62 2 = 2 then .port (portOf d)
  else
    let v := s.refVal o frame d
    if mt then .mtile (v % 2 ^ 32) else .addr v

/-- A copy node, armed as if by `cp.arm` (R346, R349). -/
def State.buildCopy (s : State) (g : GView) (frame : Nat) (w : Dbl) : Copy :=
  let u := g.unit w
  let a := opAux w
  let nd := fld u 50 3 + 1
  let x : Slot :=
    { armedSlot 0 ((List.range nd).map fun i => copyDim (g.c (a + 4 + i))) with
      declared := true, src := s.copyEnd g.obj frame (g.c (a + 1)) (u.getLsbD 15),
      dst := s.copyEnd g.obj frame (g.c (a + 2)) (u.getLsbD 14),
      esize := copySize u, ten := u.getLsbD 46, tport := fld u 42 4,
      sh := if u.getLsbD 29 then some (fld u 30 12) else none, dh := if u.getLsbD 16 then some (fld u 17 12) else none,
      rpl := u.getLsbD 13, rply := g.c (a + 3) != 0, word7 := g.c (a + 3) }
  { slots := (List.range 16).map fun i => if i = fld u 53 4 then x else emptySlot,
    decl := (List.range (4 + nd)).map fun i => g.c (a + i), rr := 0, inbox := emptyInbox g.rev }

/-- An operator as its first placement configures it (R95). -/
def State.buildOp (s : State) (g : GView) (lctx frame o : Nat) (w : Dbl) : OpKind :=
  match opk w with
  | 0 => .cell (g.cell w)
  | 1 => .vec (g.vec lctx o w)
  | 2 => .mem (s.buildMem g frame w)
  | 3 => .matrix (g.matrix w)
  | 4 => .fibre (s.buildFibre g frame w)
  | 5 => .walker (s.buildWalker g frame o w)
  | 6 => .spline (s.buildSpline g frame o w)
  | _ => .copy (s.buildCopy g frame w)

/-! ## Ports (R28, R162, R200, R222, R278, R332, R345) -/

/-- The network of an output port of an operator, if it has that port. -/
def OpKind.outNet (k : OpKind) (p : Nat) : Option Net :=
  match k with
  | .cell c => match p with
    | 4 => some (if c.repl then .wide else .narrow)
    | 5 => some .narrow
    | 8 => some .control
    | _ => none
  | .vec _ => if p = 4 ∨ p = 5 then some .wide else none
  | .mem m => match p with
    | 3 => some (if m.size = 128 then .wide else .narrow)
    | 4 => some .control
    | _ => none
  | .matrix _ => if p = 2 then some .wide else none
  | .fibre f =>
    let outs : List Nat := match f.fop with
      | .scan | .dense => [1, 2]
      | .repeat_ | .filter | .reduce => [2, 3]
      | .lookup => [1]
      | .isect | .union => if f.nin = 3 then [6, 7, 8, 9] else [6, 7, 8]
      | .write => []
    if outs.contains p then some .narrow else none
  | .walker _ => if p = 0 then some .wide else none
  | .spline _ => if p = 1 then some .narrow else none
  | .copy _ => match p with
    | 1 => some .wide
    | 3 => some .narrow
    | _ => none

/-- The network of an input port of an operator, if it has that port. -/
def OpKind.inNet (k : OpKind) (p : Nat) : Option Net :=
  match k with
  | .cell _ => if p < 4 then some .narrow else if p = 6 ∨ p = 7 then some .control else none
  | .vec _ => if p < 4 then some .wide else none
  | .mem m => match p with
    | 0 | 1 => some (if m.size = 128 then .wide else .narrow)
    | 2 => some .narrow
    | 5 => some .control
    | _ => none
  | .matrix _ => if p < 2 then some .wide else none
  | .fibre f =>
    let n : Nat := match f.fop with
      | .scan | .dense | .lookup => 1
      | .isect | .union => 2 * f.nin
      | _ => 2
    if p < n then some .narrow else none
  | .walker _ => none
  | .spline _ => if p = 0 then some .wide else none
  | .copy _ => if p = 0 then some .wide else if p = 2 ∨ (4 ≤ p ∧ p < 16) then some .narrow else none

/-! ## Channels and the graph -/

/-- The network of a WIDTH (R162). -/
def netOf (n : Nat) : Net :=
  match n with
  | 0 => .narrow | 1 => .wide | _ => .control

/-- A channel of the table (R162), before it has a route. -/
def chanOf (ops : List OpKind) (c : Dbl × Dbl) : Chan :=
  let po := fld c.1 52 12
  let co := fld c.1 36 12
  let isMem (o : Nat) : Bool := match ops[o]? with
    | some (.mem _) => true
    | _ => false
  { prodOp := po, prodPort := fld c.1 48 4, consOp := co, consPort := fld c.1 32 4, net := netOf (fld c.1 30 2),
    order := fld c.1 30 2 == 2 && isMem po && fld c.1 48 4 == 4 && isMem co && fld c.1 32 4 == 5,
    prodLo := fld c.2 51 13, prodHi := fld c.2 38 13, consLo := fld c.2 25 13, consHi := fld c.2 12 13, route := [],
    spillCap := 0, spill := [], spillIn := 0, spillOut := 0, bufs := [], endq := [], freed := [], reserved := 0, pushed := 0, popped := 0, closed := false,
    joined := none }

/-- A graph as its first placement configures it. -/
def State.buildGraph (s : State) (g : GView) (lctx frame : Nat) : Graph :=
  let ops := g.ops.zipIdx.map fun (w, o) => s.buildOp g lctx frame o w
  { index := g.index, header := g.hdr, gen := g.gen, rev := g.rev, mode := g.mode, hash := g.f 0x30 16, need := g.need,
    places := g.ops.map opPlace, ops := ops, chans := g.chans.map (chanOf ops), consts := g.consts,
    skews := g.skews.map fun d => (fld d 52 12, fld d 40 12, fld d 27 13), tmpls := g.tmpls.map (·.2),
    stateSize := g.f 0x20 4, wrapBudget := g.f 0x24 4, kerf := BitVec.ofNat 32 (g.f 0x2C 4) }

/-! ## References at a re-placement (R53, R163) -/

/-- A declared template whose endpoints are resolved afresh (R163, R349). -/
def State.resolveSlot (s : State) (o : Obj) (frame : Nat) (decl : List Dbl) (z : Slot) : Slot :=
  let d (i : Nat) : Dbl := decl.getD i 0
  if z.declared then
    { z with src := s.copyEnd o frame (d 1) ((d 0).getLsbD 15), dst := s.copyEnd o frame (d 2) ((d 0).getLsbD 14) }
  else z

/-- An operator whose references are resolved afresh (R72, R163). -/
def State.resolve (s : State) (o : Obj) (frame : Nat) (k : OpKind) : OpKind :=
  match k with
  | .mem m =>
    if m.mop = .fence then k
    else .mem { m with base := s.refVal o frame m.addrRef, count := s.refVal o frame m.countRef }
  | .fibre f =>
    let val (i : Nat) : Nat := s.refVal o frame (f.consts.getD i 0)
    let counts := (fbCounts f.fop.num).map val
    .fibre { f with addrs := (fbAddrs f.fop.num).map val, counts := counts, arrays := f.fop.arrays counts }
  | .walker w => .walker { w with base := s.refVal o frame w.baseRef, maskVa := s.refVal o frame w.maskRef }
  | .spline x => .spline { x with base := s.refVal o frame x.baseRef, count := s.refVal o frame x.countRef }
  | .copy c => .copy { c with slots := c.slots.map (s.resolveSlot o frame c.decl) }
  | k => k

/-- A graph whose references are resolved afresh: every phase of a task is configured at every placement of it (R57, R72).
-/
def State.resolveGraph (s : State) (o : Obj) (frame : Nat) (g : Graph) : Graph := { g with ops := g.ops.map (s.resolve o frame) }

end Sys2Proof.Machine
end

