-- ==== Sys2Proof/Machine/Bay.lean ====
section
/-! DEFINITION. The Joiner's checks before routing: rates, widths, needs, and the choice of a bay
(03_graphs_and_the_joiner.md R40, R41, R46, R47, R50 to R52; 01_running_sum_replaced.md R16). -/
namespace Sys2Proof.Machine

/-! ## Balance and widths (R28, R41) -/

/-- The ratio of an operator's firings to those of its component's first operator: root, numerator, denominator. -/
abbrev Ratio := Nat × Nat × Nat

/-- Take the equation f(p)·a = f(c)·b into account; `none` when it cannot hold (R41). -/
def addEquation (rs : List Ratio) (p c a b : Nat) : Option (List Ratio) :=
  match rs[p]?, rs[c]? with
  | some (rp, np, dp), some (rc, nc, dc) =>
    if rp = rc then (if np * a * dc = nc * b * dp then some rs else none)
    else
      some (rs.map fun (r, n, d) => if r = rc then
        (let n' := n * (np * a * dc)
         let d' := d * (nc * b * dp)
         let g := Nat.gcd n' d'
         (rp, n' / g, d' / g)) else (r, n, d))
  | _, _ => some rs

/-- A declared range breaks R41. -/
def rangeBad (lo hi : Nat) : Bool := decide (lo > hi) || hi == 0 || decide (hi > 4096)

/-- The first channel whose equation or range fails, from channel `i` on (R41, R52). -/
def unbalanced (rs : List Ratio) : Nat → List Chan → Option Nat
  | _, [] => none
  | i, c :: t =>
    if rangeBad c.prodLo c.prodHi || rangeBad c.consLo c.consHi then some i
    else if c.order || c.prodLo ≠ c.prodHi || c.consLo ≠ c.consHi then unbalanced rs (i + 1) t
    else match addEquation rs c.prodOp c.consOp c.prodHi c.consHi with
      | none => some i
      | some rs' => unbalanced rs' (i + 1) t

/-- The first channel of a graph that is out of balance (R41). -/
def Graph.unbalanced (g : Graph) : Option Nat :=
  Machine.unbalanced ((List.range g.ops.length).map fun o => (o, 1, 1)) 0 g.chans

/-- The network at an end of a channel: an end at the edge of the graph takes any (R60). -/
def Graph.endOk (g : Graph) (o : Nat) (net : OpKind → Option Net) (n : Net) : Bool :=
  match g.ops[o]? with
  | some k => net k == some n
  | none => true

/-- Whether a port is narrow. -/
def Graph.endNarrow (g : Graph) (o : Nat) (net : OpKind → Option Net) : Bool := ((g.ops[o]?).bind net) == some .narrow

/-- The first channel with an end of the wrong width (R28, R52). -/
def Graph.misfit (g : Graph) : Option Nat :=
  lfind (fun c => !(g.endOk c.prodOp (·.outNet c.prodPort) c.net && g.endOk c.consOp (·.inNet c.consPort) c.net)) g.chans

/-! ## Needs (R40, R47 step 1) -/

/-- Tiles of V, M, S, F and P in a block (R18). -/
def perBlock : List Nat := [5, 3, 4, 2, 2]

/-- Cell actors of a graph. -/
def Graph.ncell (g : Graph) : Nat := (g.ops.filter fun k => match k with
  | .cell _ => true
  | _ => false).length

/-- The largest need of each kind over the phases (R57). -/
def needOf (gs : List Graph) : List Nat := (List.range 5).map fun i => lmax (gs.map fun g => g.need.getD i 0)
/-- The largest number of cell actors over the phases. -/
def cellsOf (gs : List Graph) : Nat := lmax (gs.map Graph.ncell)

/-- n_min (R47 step 1). -/
def nMin (gs : List Graph) : Nat :=
  max 1 (max (ceilDiv (cellsOf gs) 128) (lmax (((needOf gs).zip perBlock).map fun z => ceilDiv z.1 z.2)))

/-! ## Vector actors on V tiles (R199) -/

/-- The needs of a graph's vector actors. -/
def Graph.vecNeeds (g : Graph) : List (Nat × Nat × Nat) := g.ops.filterMap fun k => match k with
  | .vec v => some (vecNeed v.code)
  | _ => none

/-- The phases of a placed task that still hold its resources, each with its positions. -/
def Task.phasesLeft (k : Task) : List (Graph × PhaseChoice) := (k.graphs.zip k.choice.phases).drop k.phase

/-- Placed tasks that hold their bays. -/
def State.placed (s : State) : List Task := (s.tasks.map (·.2)).filter fun k => k.status != .paused

/-- Sum of two needs. -/
def addNeed (a b : Nat × Nat × Nat) : Nat × Nat × Nat := (a.1 + b.1, a.2.1 + b.2.1, a.2.2 + b.2.2)
/-- Whether a need lies within a V tile's 32 registers, 8 predicates and 256 words (R199). -/
def needFits (a : Nat × Nat × Nat) : Bool := decide (a.1 ≤ 32) && decide (a.2.1 ≤ 8) && decide (a.2.2 ≤ 256)

/-- What the vector actors placed on a tile take. -/
def State.vecUsed (s : State) (tile : Nat) : Nat × Nat × Nat :=
  s.placed.foldl (fun u k => k.phasesLeft.foldl (fun u (z : Graph × PhaseChoice) =>
    (z.1.ops.zip z.2.places).foldl (fun u (x : OpKind × OpPlace) => match x.1 with
      | .vec v => if tileKey x.2.x x.2.y = tile then addNeed u (vecNeed v.code) else u
      | _ => u) u) u) (0, 0, 0)

/-- Whether each vector actor of a list of phases can be given a V tile of its own phase that covers its needs (R199).
`used` is what each tile has given so far, `taken` the tiles of the phase. -/
def assignVec (tiles : List Nat) : List (Nat × (Nat × Nat × Nat)) → List (Nat × (Nat × Nat × Nat)) → List (Nat × Nat) → Bool
  | [], _, _ => true
  | (ph, need) :: rest, used, taken =>
    tiles.any fun t =>
      !taken.contains (ph, t) && needFits (addNeed ((aget t used).getD (0, 0, 0)) need) &&
        assignVec tiles rest (aset t (addNeed ((aget t used).getD (0, 0, 0)) need) used) ((ph, t) :: taken)

/-- The needs of all phases, each with its phase. -/
def phaseNeeds (gs : List Graph) : List (Nat × (Nat × Nat × Nat)) :=
  gs.zipIdx.flatMap fun (g, ph) => g.vecNeeds.map fun n => (ph, n)

/-! ## Bays (R46, R47) -/

/-- The tiles of a rectangle of tiles, in (y, x) order. -/
def Rect.tiles (r : Rect) : List Nat :=
  (List.range r.h).flatMap fun j => (List.range r.w).map fun i => tileKey (r.x + i) (r.y + j)
/-- Whether a tile lies in it. -/
def Rect.has (r : Rect) (x y : Nat) : Bool := decide (r.x ≤ x) && decide (x < r.x + r.w) && decide (r.y ≤ y) && decide (y < r.y + r.h)
/-- Its size in blocks. -/
def Rect.blocks (r : Rect) : Nat := r.w * r.h / 16
/-- A rectangle of blocks as one of tiles. -/
def blockRect (x y w h : Nat) : Rect := { x := 4 * x, y := 4 * y, w := 4 * w, h := 4 * h }
/-- Tiles of a kind in a rectangle. -/
def Rect.ofKind (r : Rect) (k : TileKind) : List Nat := r.tiles.filter fun t => tileKind (tileX t) (tileY t) == k

/-- The rectangles of `n` blocks in the order of R47 steps 3 and 4. -/
def baysOf (n : Nat) : List Rect :=
  (List.range 32).flatMap fun w' =>
    let w := w' + 1
    if n % w ≠ 0 ∨ n / w > 12 then []
    else (List.range (13 - n / w)).flatMap fun y => (List.range (33 - w)).map fun x => blockRect x y w (n / w)

/-- Free context entries of a tile (R24). -/
def State.freeEntries (s : State) (tile : Nat) : List Nat :=
  (List.range 8).filter fun e => !((s.tile tile).entry e).getLsbD 31

/-- A sound rectangle (R46). -/
def State.sound (s : State) (r : Rect) : Bool := !(r.tiles.any s.isKnot)

/-- Whether each tile has the entries that a placement needs; a V tile that covers no vector actor's needs lacks them
(R46, R199). -/
def State.entriesFree (s : State) (gs : List Graph) (r : Rect) : Bool :=
  let needs := phaseNeeds gs
  r.tiles.all fun t =>
    decide ((s.freeEntries t).length ≥ gs.length) &&
      (needs.isEmpty || tileKind (tileX t) (tileY t) != .V || needs.any fun n => needFits (addNeed (s.vecUsed t) n.2))

/-- Whether the V tiles of a bay can hold the vector actors (R199). -/
def State.vecFits (s : State) (gs : List Graph) (r : Rect) : Bool :=
  let v := r.ofKind .V
  assignVec v (phaseNeeds gs) (v.map fun t => (t, s.vecUsed t)) []

/-- A free and sound bay (R46). -/
def State.bayFree (s : State) (gs : List Graph) (r : Rect) : Bool := s.sound r && s.entriesFree gs r && s.vecFits gs r

/-- Sizes from `lo` to `hi` blocks. -/
def sizes (lo hi : Nat) : List Nat := (List.range (hi + 1)).drop lo

/-- The bay of R47 among sizes up to a limit. -/
def State.findBay (s : State) (gs : List Graph) (limit : Nat) : Option Rect :=
  (sizes (nMin gs) limit).findSome? fun n => (baysOf n).find? (s.bayFree gs)

/-- The candidate bay of a KIND_SHORT report (R16): free and sound, of the largest size within the context's limit. -/
def State.candidate (s : State) (gs : List Graph) (limit : Nat) : Option Rect :=
  (sizes 1 limit).reverse.findSome? fun n => (baysOf n).find? (s.bayFree gs)

/-- The largest free sound rectangle (R46, R51). -/
def State.largestFree (s : State) (gs : List Graph) : Option Rect :=
  let free := (List.range 384).map fun b =>
    let r := blockRect (b % 32) (b / 32) 1 1
    s.sound r && s.entriesFree gs r
  let ok (x y w h : Nat) : Bool :=
    (List.range h).all fun j => (List.range w).all fun i => free.getD (32 * (y + j) + x + i) false
  (List.range 12).foldl (fun best y => (List.range 32).foldl (fun best x =>
    (List.range (32 - x)).reverse.foldl (fun best w' => (List.range (12 - y)).foldl (fun (best : Option Rect) h' =>
      let r := blockRect x y (w' + 1) (h' + 1)
      if r.blocks > (best.map Rect.blocks).getD 0 && ok x y (w' + 1) (h' + 1) && s.vecFits gs r then some r else best)
      best) best) best) none

/-! ## Reports (R16, R51, R52) -/

namespace FitCode
def noBay : Nat := 1
def kindShort : Nat := 2
def routeDepth : Nat := 3
def rateUnbalanced : Nat := 4
def linkWidth : Nat := 5
def contextSlots : Nat := 6
end FitCode

/-- Bytes of a rectangle field. -/
def rectBytes (r : Option Rect) : List Nat :=
  match r with
  | some r => [r.x, r.y, r.w, r.h]
  | none => [0, 0, 0, 0]

/-- Fields of a report: offset, bytes, value. -/
def packFields (l : List (Nat × Nat × Nat)) : Packet :=
  BitVec.ofNat 512 (lsum (l.map fun f => f.2.2 % 2 ^ (8 * f.2.1) * 2 ^ (8 * f.1)))

/-- A failure-to-fit report (R51). -/
def State.fitReport (s : State) (gs : List Graph) (lctx graph limit code who detail : Nat) (cand : Option Rect) : Packet :=
  let n := (cand.map Rect.blocks).getD 0
  let four (off : Nat) (l : List Nat) : List (Nat × Nat × Nat) := l.zipIdx.map fun (v, i) => (off + i, 1, v)
  packFields ([(0, 1, code), (1, 1, lctx), (4, 2, graph), (8, 4, who), (0xC, 4, detail), (0x1A, 2, cellsOf gs),
      (0x2A, 2, 128 * n), (0x34, 2, limit), (0x3C, 2, (cand.map fun r => (r.tiles.filter s.isKnot).length).getD 0)] ++
    ((needOf gs).zipIdx.map fun (v, i) => (0x10 + 2 * i, 2, v)) ++
    (perBlock.zipIdx.map fun (v, i) => (0x20 + 2 * i, 2, v * n)) ++
    four 0x30 (rectBytes cand) ++ four 0x38 (rectBytes (s.largestFree gs)))

/-- The tile kind, as an index of `perBlock`, that an operator counts against, and the number of the tile of that kind that
it needs: its rank among those that share (R16). -/
def Graph.tileRank (g : Graph) (o : Nat) : Option (Nat × Nat) :=
  let before := g.ops.take (o + 1)
  let rank (p : OpKind → Bool) : Nat := (before.filter p).length
  match g.ops[o]? with
  | some (.vec _) => some (0, rank fun k => match k with
    | .vec _ => true
    | _ => false)
  | some (.matrix _) => some (1, rank fun k => match k with
    | .matrix _ => true
    | _ => false)
  | some (.mem m) =>
    if m.mop = .fence then none
    else if m.space = 0 then some (2, ceilDiv (rank fun k => match k with
      | .mem x => x.mop != .fence && x.space == 0
      | _ => false) 8)
    else some (4, rank fun k => match k with
      | .mem x => x.mop != .fence && x.space != 0
      | _ => false)
  | some (.fibre f) =>
    let ty (f : Fibre) : Nat := match f.fop with
      | .scan | .dense | .lookup => 0
      | .isect | .union | .filter => 1
      | .repeat_ => 2
      | .reduce => 3
      | .write => 4
    some (3, ceilDiv (rank fun k => match k with
      | .fibre x => ty x == ty f
      | _ => false) (fbPer (ty f)))
  | some (.walker _) | some (.spline _) | some (.copy _) => some (4, rank fun k => match k with
    | .walker _ | .spline _ | .copy _ => true
    | _ => false)
  | _ => none

/-- WHO of a KIND_SHORT report: graph index and operator (R16). -/
def shortWho (gs : List Graph) (n : Nat) : Nat × Nat :=
  let kinds := (List.range 5).findSome? fun i =>
    if (needOf gs).getD i 0 > perBlock.getD i 0 * n then
      gs.findSome? fun g => ((List.range g.ops.length).find? fun o => match g.tileRank o with
        | some (k, r) => k == i && decide (r > perBlock.getD i 0 * n)
        | none => false).map fun o => (g.index, o)
    else none
  let cells := gs.findSome? fun g =>
    let ix := (List.range g.ops.length).filter fun o => match g.ops[o]? with
      | some (.cell _) => true
      | _ => false
    (ix[128 * n]?).map fun o => (g.index, o)
  (kinds.or cells).getD ((gs.head?.map (·.index)).getD 0, 0)

/-- The outcome of the checks of R50 up to check 5: the number of the check that fails with its report, or the bay. `whole`
is the context's limit, which the reports give, and `limit` what remains of it: a report gives that one where n_min lies
between the two (R60). `live` counts the live subgraphs of a task that spawns. -/
def State.fit (s : State) (gs : List Graph) (lctx whole limit live : Nat) : Except (Nat × PlaceOut) Rect :=
  let g0 := (gs.head?.map (·.index)).getD 0
  let rep (graph code who detail : Nat) (cand : Option Rect) : PlaceOut :=
    .report code who (s.fitReport gs lctx graph whole code who detail cand)
  match gs.findSome? fun g => g.unbalanced.map fun c => (g, c) with
  | some (g, c) =>
    let ch := (g.chans[c]?).getD default
    .error (1, rep g.index FitCode.rateUnbalanced (2 ^ 31 + c) (ch.prodHi * 2 ^ 16 + ch.consHi % 2 ^ 16) none)
  | none =>
    match gs.findSome? fun g => g.misfit.map fun c => (g, c) with
    | some (g, c) =>
      let ch := (g.chans[c]?).getD default
      .error (2, rep g.index FitCode.linkWidth (2 ^ 31 + c)
        (2 * (g.endNarrow ch.consOp (·.inNet ch.consPort)).toNat + (g.endNarrow ch.prodOp (·.outNet ch.prodPort)).toNat) none)
    | none =>
      let n := nMin gs
      if n > whole then
        let cand := s.candidate gs whole
        let w := shortWho gs ((cand.map Rect.blocks).getD 0)
        .error (3, rep w.1 FitCode.kindShort w.2 0 cand)
      else if n > limit then .error (4, .report FitCode.noBay 0 (s.fitReport gs lctx g0 limit FitCode.noBay 0 n none))
      else if !((sizes n limit).any fun n => (baysOf n).any s.sound) then .error (4, rep g0 FitCode.noBay 0 n none)
      else if live ≥ 16 then .error (5, rep g0 FitCode.contextSlots 0 gs.length ((baysOf n).find? s.sound))
      else match s.findBay gs limit with
        | some r => .ok r
        | none => .error (5, rep g0 FitCode.contextSlots 0 gs.length ((baysOf n).find? s.sound))

end Sys2Proof.Machine
end

