-- ==== Sys2Proof/Machine/Place.lean ====
section
/-! DEFINITION. Positions, routes and depths: what a choice of the Joiner must keep (02_fabric.md R19, R26;
03_graphs_and_the_joiner.md R40, R42 to R45; 15_sparse_product.md R279; 18_memory_spaces.md R316). -/
namespace Sys2Proof.Machine

/-! ## Lists -/

/-- Whether no element of a list occurs twice. -/
def allDistinct {α : Type} [DecidableEq α] : List α → Bool
  | [] => true
  | a :: t => !t.contains a && allDistinct t

/-- The numbers of a list in rising order, each once. -/
def risingOf (l : List Nat) : List Nat := sortBy id (lnub [] l)

/-! ## Memory-tile regions (R316) -/

/-- Bytes of a memory tile. -/
def tileBytes : Nat := 1310720

/-- The region that a node names, and the end of its accesses in it. -/
def Mem.regionOf (m : Mem) : Nat := m.base / 2 ^ 21 % 2048
@[inherit_doc Mem.regionOf] def Mem.regionEnd (m : Mem) : Nat := m.base % 2 ^ 21 + m.count * m.size

/-- The memory nodes of a graph that lie in memory tiles. -/
def Graph.tileMems (g : Graph) : List Mem := g.ops.filterMap fun k => match k with
  | .mem m => if m.mop != .fence && m.space == 0 then some m else none
  | _ => none

/-- The regions that a graph names, in rising order. -/
def Graph.regionNums (g : Graph) : List Nat := risingOf (g.tileMems.map Mem.regionOf)

/-- Size of a region: the largest offset plus extent, rounded up to 16 bytes. -/
def regionSize (gs : List Graph) (r : Nat) : Nat :=
  ceilDiv (lmax (gs.map fun g => lmax ((g.tileMems.filter fun m => m.regionOf = r).map Mem.regionEnd))) 16 * 16

/-- Whether a node of the region is declared `.state` (R53). -/
def regionState (gs : List Graph) (r : Nat) : Bool := gs.any fun g => g.tileMems.any fun m => m.regionOf = r && m.isState

/-- Nodes that name a region in a graph. -/
def Graph.regionNodes (g : Graph) (r : Nat) : Nat := (g.tileMems.filter fun m => m.regionOf = r).length

/-- A region that no packing can hold: more than 8 nodes, those of all phases counted, or more than a memory tile (R316). -/
def regionsBad (gs : List Graph) : Bool :=
  (gs.any fun g => g.regionNums.any fun r => decide (lsum (gs.map fun h => h.regionNodes r) > 8)) ||
    (gs.any fun g => g.regionNums.any fun r => decide (regionSize gs r > tileBytes))

/-- The least base at which `size` bytes lie clear of the ranges in use, below `limit`. -/
def firstGap (used : List (Nat × Nat)) (size limit : Nat) : Option Nat :=
  ((0 :: used.map fun u => u.1 + u.2).filter fun b =>
    decide (b + size ≤ limit) && used.all fun u => decide (b + size ≤ u.1) || decide (u.1 + u.2 ≤ b)).foldl
    (fun best b => match best with
      | none => some b
      | some a => some (min a b)) none

/-- Ranges of a memory tile that placed tasks hold. -/
def State.tileUsed (s : State) (tile : Nat) : List (Nat × Nat) :=
  s.placed.flatMap fun k => (k.regions.filter fun r => r.tile = tile).map fun r => (r.base, r.size)

/-! ## Depths (R42, R43, R45) -/

/-- The depth that a route gives. -/
def routeDepth (r : List Hop) : Nat := 4 + lsum (r.map hopDepth)

/-- The least depth of a channel: that of R42, or its saved occupancy (R56). -/
def Chan.needDepth (c : Chan) (occ : Nat) : Nat := max (c.prodHi + c.consHi - 1) occ

/-- An end of a channel lies at the edge of a graph of `n` operators (R60). -/
def Chan.edge (n : Nat) (c : Chan) : Bool := isEdge n c.prodOp || isEdge n c.consOp
/-- An end of a channel lies at the edge of the graph. -/
def Graph.edge (g : Graph) (c : Chan) : Bool := c.edge g.ops.length

/-- The channels of a graph with their indexes, those that carry paths: ordering edges are channels too (R43, R81). -/
def Graph.pathChans (g : Graph) : List (Chan × Nat) := g.chans.zipIdx.filter fun c => !g.edge c.1

/-- The paths of channels from an operator to another, none through one operator twice (R43). The first argument bounds
their lengths. -/
def Graph.paths (g : Graph) : Nat → Nat → Nat → List Nat → List (List Nat)
  | 0, _, _, _ => []
  | n + 1, a, b, seen => g.pathChans.flatMap fun (c, i) =>
    if c.prodOp ≠ a ∨ seen.contains c.consOp then []
    else if c.consOp = b then [[i]]
    else (g.paths n c.consOp b (c.consOp :: seen)).map (i :: ·)

/-- A shortfall rounded up to a multiple of 8 (R45). -/
def round8 (n : Nat) : Nat := (n + 7) / 8 * 8

/-- The depth of a path under given shortfalls. -/
def pathDepth (base sf : List Nat) (p : List Nat) : Nat := lsum (p.map fun i => base.getD i 0 + round8 (sf.getD i 0))

/-- The shortfalls with that of a path added to its last channel, and there to the extension that the channel already bears
(R45). -/
def addShort (base : List Nat) (n : Nat) (sf : List Nat) (p : List Nat) : List Nat :=
  let d := pathDepth base sf p
  if d < n then lmod (p.getLast?.getD 0) (fun x => round8 x + (n - d)) sf else sf

/-- The shortfall of each channel under its route: that of R42, and then those of R43, in the order of the declarations. An
edge channel has no route, and its own extension makes up its depth (R60). -/
def Graph.shortfalls (g : Graph) (routes : List (List Hop)) (occ : List Nat) : List Nat :=
  let base := routes.map routeDepth
  let sf := g.chans.zipIdx.map fun (c, i) => c.needDepth (occ.getD i 0) - base.getD i 4
  g.skews.foldl (fun sf k =>
    let ps := g.paths g.ops.length k.1 k.2.1 [k.1]
    if ps.length < 2 then sf else ps.foldl (addShort base k.2.2) sf) sf

/-- Whether given depths keep R42, R43 and the saved occupancies: the test of a cached entry (R14). -/
def Graph.depthsOk (g : Graph) (depths occ : List Nat) : Bool :=
  (g.chans.zipIdx.all fun (c, i) => decide (c.needDepth (occ.getD i 0) ≤ depths.getD i 0)) &&
    g.skews.all fun k =>
      let ps := g.paths g.ops.length k.1 k.2.1 [k.1]
      decide (ps.length < 2) || ps.all fun p => decide (k.2.2 ≤ lsum (p.map fun i => depths.getD i 0))

/-- Bytes of a token in a memory tile (R45). -/
def tokBytes (n : Net) : Nat := if n = .wide then 136 else 8

/-- Bytes of spill extensions on a tile, of a phase of `n` operators. -/
def spillBytes (n : Nat) (chans : List Chan) (caps : List Nat) (spills : List (Nat × Nat)) (tile : Nat) : Nat :=
  lsum (chans.zipIdx.map fun (c, i) =>
    if (spills[i]?).map (fun p => tileKey p.1 p.2) = some tile ∧ !c.edge n then tokBytes c.net * caps.getD i 0 else 0)

/-- Bytes of spill extensions that placed tasks hold on a tile. -/
def State.spillUsed (s : State) (tile : Nat) : Nat :=
  lsum (s.placed.map fun k => lsum (k.phasesLeft.zipIdx.map fun (z, i) =>
    if i = 0 then spillBytes z.1.ops.length k.chans (k.chans.map (·.spillCap)) z.2.spills tile
    else spillBytes z.1.ops.length z.1.chans ((z.1.shortfalls z.2.routes []).map round8) z.2.spills tile))

/-- Spill extensions of a phase on a tile: each takes one memory node (R45). -/
def spillNodes (g : Graph) (caps : List Nat) (spills : List (Nat × Nat)) (tile : Nat) : Nat :=
  (g.chans.zipIdx.filter fun (c, i) =>
    !g.edge c && decide (caps.getD i 0 > 0) && (spills[i]?).map (fun p => tileKey p.1 p.2) == some tile).length

/-! ## Positions (R19, R40, R95, R279) -/

/-- The tile kind that a PLACE code names (R95). -/
def placeKind (n : Nat) : Option TileKind :=
  match n with
  | 1 => some .V | 2 => some .M | 3 => some .S | 4 => some .F | 5 => some .P | _ => none

/-- Whether an operator may lie on a tile. -/
def onKind (place : Nat) (p : OpPlace) : Bool :=
  match placeKind place with
  | some k => tileKind p.x p.y == k
  | none => true

/-- The type of a fibre unit, as `fbType` numbers them (R279). -/
def Fibre.unitType (f : Fibre) : Nat :=
  match f.fop with
  | .scan | .dense | .lookup => 0
  | .isect | .union | .filter => 1
  | .repeat_ => 2
  | .reduce => 3
  | .write => 4

/-- The resources that an operator takes for itself at its position: class, tile, number. Classes: 0 a cell, 1 the vector
unit, 2 the array, 3 the buffer and wide port of a P tile, 4 the second generator's node, 5 an address generator, 6 a memory
node of an S tile, 7 up fibre units by type. -/
def resources (k : OpKind) (p : OpPlace) : List (Nat × Nat × Nat) :=
  let t := tileKey p.x p.y
  match k with
  | .cell _ => [(0, t, p.sub)]
  | .vec _ => [(1, t, 0)]
  | .matrix _ => [(2, t, 0)]
  | .mem m => if m.mop = .fence then [] else if m.space = 0 then [(6, t, p.sub)] else [(3, t, 0), (5, t, p.sub)]
  | .walker _ | .spline _ | .copy _ => [(4, t, 0), (5, t, p.sub)]
  | .fibre f => [(7 + f.unitType, t, p.sub)]

/-- The number of such resources on one tile. -/
def resourceCount (k : OpKind) : Nat :=
  match k with
  | .cell _ | .mem { space := 0, .. } => 8
  | .fibre f => fbPer f.unitType
  | .vec _ | .matrix _ => 1
  | _ => 2

/-- Whether a cell is held by another context (R19). -/
def State.cellHeld (s : State) (lctx tile c : Nat) : Bool :=
  s.placed.any fun k => k.lctx != lctx && k.phasesLeft.any fun z =>
    (z.1.ops.zip z.2.places).any fun x => match x.1 with
      | .cell _ => tileKey x.2.x x.2.y == tile && x.2.sub == c
      | _ => false

/-- The operators of a phase with their PLACE codes and positions. -/
def Graph.placed (g : Graph) (c : PhaseChoice) : List ((OpKind × Nat) × OpPlace) := (g.ops.zip g.places).zip c.places

/-- An actor lies on a cell that another context holds, although the bay has a free one where it may lie (R19). -/
def State.cellWaste (s : State) (lctx : Nat) (g : Graph) (c : PhaseChoice) (bay : Rect) : Bool :=
  let cells := (g.placed c).filter fun z => match z.1.1 with
    | .cell _ => true
    | _ => false
  cells.any fun z =>
    s.cellHeld lctx (tileKey z.2.x z.2.y) z.2.sub &&
      bay.tiles.any fun t => onKind z.1.2 { x := tileX t, y := tileY t, sub := 0 } && (List.range 8).any fun n =>
        !s.cellHeld lctx t n && !cells.any fun y => tileKey y.2.x y.2.y == t && y.2.sub == n

/-- The tiles of the operators of a phase that take a resource class. -/
def classTiles (g : Graph) (c : PhaseChoice) (cls : Nat) : List Nat :=
  (g.placed c).flatMap fun z => (resources z.1.1 z.2).filterMap fun r => if r.1 = cls then some r.2.1 else none

/-- The tile of a region under a phase's choice. -/
def Graph.regionTile (g : Graph) (c : PhaseChoice) (r : Nat) : Option Nat :=
  (lfind (· == r) g.regionNums).bind fun i => (c.regions[i]?).map fun p => tileKey p.1 p.2

/-- The position of one operator by itself: on a tile of its kind, and a fence beside a node that feeds it (R338). -/
def Graph.placeOk (g : Graph) (c : PhaseChoice) (bay : Rect) (z : (OpKind × Nat) × OpPlace) (o : Nat) : Bool :=
  bay.has z.2.x z.2.y && match z.1.1 with
    | .mem m =>
      if m.mop = .fence then
        let feeds := g.chans.filter fun x => x.consOp == o
        feeds.isEmpty || feeds.any fun x => match c.places[x.prodOp]? with
          | some q => q.x == z.2.x && q.y == z.2.y
          | none => false
      else
        onKind z.1.2 z.2 && decide (z.2.sub < resourceCount z.1.1) &&
          (m.space != 0 || g.regionTile c m.regionOf == some (tileKey z.2.x z.2.y))
    | k => onKind z.1.2 z.2 && decide (z.2.sub < resourceCount k)

/-- The positions of a phase (R19, R40, R279, R316). -/
def State.placesOk (s : State) (lctx : Nat) (g : Graph) (c : PhaseChoice) (bay : Rect) : Bool :=
  let zs := g.placed c
  let n3 := classTiles g c 3
  let n4 := classTiles g c 4
  decide (c.places.length = g.ops.length) && (zs.zipIdx.all fun (z, o) => g.placeOk c bay z o) &&
    allDistinct (zs.flatMap fun z => resources z.1.1 z.2) && decide ((lnub [] (n3 ++ n4)).length = max n3.length n4.length) &&
    !s.cellWaste lctx g c bay &&
    decide (c.regions.length = g.regionNums.length) &&
    c.regions.all fun p => bay.has p.1 p.2 && tileKind p.1 p.2 == .S

/-- Vector needs of the tiles, over all phases (R199). -/
def State.vecPlaced (s : State) (gs : List Graph) (cs : List PhaseChoice) (bay : Rect) : Bool :=
  (bay.ofKind .V).all fun t =>
    let mine := (gs.zip cs).foldl (fun u z => (z.1.ops.zip z.2.places).foldl (fun u (x : OpKind × OpPlace) => match x.1 with
      | .vec v => if tileKey x.2.x x.2.y = t then addNeed u (vecNeed v.code) else u
      | _ => u) u) (0, 0, 0)
    mine == (0, 0, 0) || needFits (addNeed (s.vecUsed t) mine)

/-! ## Routes (R26, R44) -/

/-- A route leads from one tile to another inside a bay. -/
def routeFrom (bay : Rect) : Nat → Nat → List Hop → Bool
  | a, b, [] => a == b
  | a, b, h :: t =>
    tileKey h.x h.y == a && (neighbour h.x h.y h.dir).isSome && bay.has (hopDest h).1 (hopDest h).2 &&
      routeFrom bay (tileKey (hopDest h).1 (hopDest h).2) b t

/-- The tiles of a channel's ends. -/
def chanEnds (c : PhaseChoice) (ch : Chan) : Option (Nat × Nat) :=
  match c.places[ch.prodOp]?, c.places[ch.consOp]? with
  | some p, some q => some (tileKey p.x p.y, tileKey q.x q.y)
  | _, _ => none

/-- The link directions that the routes of a phase take. -/
def Graph.linksOf (g : Graph) (c : PhaseChoice) : List (Hop × Net) :=
  (g.chans.zip c.routes).flatMap fun z => z.2.map fun h => (h, z.1.net)

/-- A channel that the choice leaves without a route although its ends lie on different tiles. -/
def Graph.routeMissing (g : Graph) (c : PhaseChoice) (ch : Chan) (r : List Hop) : Bool :=
  match chanEnds c ch with
  | some (a, b) => !g.edge ch && a != b && r.isEmpty
  | none => false

/-- One route. -/
def Graph.routeOk (g : Graph) (bay : Rect) (c : PhaseChoice) (ch : Chan) (r : List Hop) : Bool :=
  match chanEnds c ch with
  | some (a, b) => if g.edge ch then r.isEmpty else if a = b then r.isEmpty else routeFrom bay a b r
  | none => r.isEmpty

/-- The routes of a phase, but for channels left without one. -/
def Graph.routesOk (g : Graph) (c : PhaseChoice) (bay : Rect) : Bool :=
  decide (c.routes.length = g.chans.length) && allDistinct (g.linksOf c) &&
    (g.chans.zip c.routes).all fun z => g.routeMissing c z.1 z.2 || g.routeOk bay c z.1 z.2

/-- The tiles that can be reached from a list over links of a network that no route takes. -/
def reachTiles (bay : Rect) (used : List (Hop × Net)) (net : Net) : Nat → List Nat → List Nat
  | 0, l => l
  | n + 1, l =>
    let next := l.flatMap fun t => [Dir.north, .east, .south, .west].filterMap fun d =>
      let h : Hop := { x := tileX t, y := tileY t, dir := d }
      let q := hopDest h
      if (neighbour h.x h.y d).isSome && bay.has q.1 q.2 && !used.contains (h, net) then some (tileKey q.1 q.2) else none
    reachTiles bay used net n (lnub [] (l ++ next))

/-- No route is left for a channel. -/
def Graph.unroutable (g : Graph) (c : PhaseChoice) (bay : Rect) (ch : Chan) : Bool :=
  match chanEnds c ch with
  | some (a, b) => !(reachTiles bay (g.linksOf c) ch.net (bay.w * bay.h) [a]).contains b
  | none => false

/-! ## The packing of regions -/

/-- The regions of a placement in rising order, with sizes and marks. -/
def regionList (all left : List Graph) : List (Nat × Nat × Bool) :=
  (risingOf (left.flatMap Graph.regionNums)).map fun r => (r, regionSize all r, regionState all r)

/-- The tile that the phases agree on for a region. -/
def agreedTile (gs : List Graph) (cs : List PhaseChoice) (r : Nat) : Option Nat :=
  match (gs.zip cs).filterMap fun z => z.1.regionTile z.2 r with
  | [] => none
  | t :: rest => if rest.all (· == t) then some t else none

/-- The regions at their places under a choice, or `none` where they do not fit (R316). `spill` gives the bytes of spill
extensions on a tile. -/
def State.layRegions (s : State) (tileOf : Nat → Option Nat) (spill : Nat → Nat) :
    List (Nat × Nat × Bool) → List Region → Option (List Region)
  | [], out => some out
  | (r, size, st) :: rest, out =>
    match tileOf r with
    | none => none
    | some t =>
      let used := s.tileUsed t ++ (out.filter fun x => x.tile = t).map fun x => (x.base, x.size)
      match firstGap used size (tileBytes - spill t - s.spillUsed t) with
      | none => none
      | some b => s.layRegions tileOf spill rest (out ++ [{ num := r, tile := t, base := b, size := size, isState := st }])

/-- The nodes that each phase puts on a tile stay at 8 when a region joins those of `out`. -/
def nodesFit (gs : List Graph) (out : List (Nat × Nat)) (r t : Nat) : Bool :=
  gs.all fun g => decide (lsum ((((r, t) :: out).filter fun x => x.2 = t).map fun x => g.regionNodes x.1) ≤ 8)

/-- A packing of the regions into the S tiles of a bay, each in the first tile that holds it: tile, base and size of each;
`none` where they do not fit. -/
def State.packs (s : State) (gs : List Graph) (bay : Rect) : List (Nat × Nat × Bool) → List (Nat × Nat) →
    List (Nat × Nat × Nat) → Option (List (Nat × Nat × Nat))
  | [], _, used => some used
  | (r, size, _) :: rest, out, used =>
    match (bay.ofKind .S).findSome? fun t =>
      if nodesFit gs out r t then
        (firstGap (s.tileUsed t ++ (used.filter fun u => u.1 = t).map fun u => (u.2.1, u.2.2)) size
          (tileBytes - s.spillUsed t)).map fun b => (t, b)
      else none with
    | some (t, b) => s.packs gs bay rest ((r, t) :: out) ((t, b, size) :: used)
    | none => none

/-- Bytes that regions of placed tasks, and regions and extensions of others, leave on a memory tile. -/
def State.bytesLeft (s : State) (tile : Nat) : Nat :=
  tileBytes - s.spillUsed tile - lsum ((s.tileUsed tile).map (·.2))

/-- Extensions, each in the first tile with bytes left for it; `left` gives the bytes of each tile. -/
def packSpills : List (Nat × Nat) → List Nat → Bool
  | _, [] => true
  | left, b :: rest =>
    match lfind (fun x : Nat × Nat => decide (b ≤ x.2)) left with
    | some i => packSpills (lmod i (fun x => (x.1, x.2 - b)) left) rest
    | none => false

/-! ## The buffers of fibre units (R279, R296) -/

/-- Lines of an F tile's buffer. -/
def bufLines : Nat := 1536

/-- The fibre units of the phases of a choice: phase, operator, tile and lines. -/
def fibreUnits (gs : List Graph) (cs : List PhaseChoice) : List (Nat × Nat × Nat × Nat) :=
  (gs.zip cs).zipIdx.flatMap fun (z, ph) => (z.1.ops.zip z.2.places).zipIdx.filterMap fun (x, o) => match x.1 with
    | .fibre f => some (ph, o, tileKey x.2.x x.2.y, f.bufSize)
    | _ => none

/-- Lines of an F tile that placed tasks hold: base and length. -/
def State.fibreUsed (s : State) (tile : Nat) : List (Nat × Nat) :=
  s.placed.flatMap fun k => k.phasesLeft.flatMap fun z => (z.1.ops.zip z.2.places).filterMap fun x => match x.1 with
    | .fibre f => if tileKey x.2.x x.2.y = tile then some (f.bufBase, f.bufSize) else none
    | _ => none

/-- Disjoint ranges of lines for fibre units, each at the lowest place that is clear: phase, operator, tile, base and
length; `none` where they do not fit. -/
def State.layBuffers (s : State) : List (Nat × Nat × Nat × Nat) → List (Nat × Nat × Nat × Nat × Nat) →
    Option (List (Nat × Nat × Nat × Nat × Nat))
  | [], out => some out
  | (ph, o, t, n) :: rest, out =>
    match firstGap (s.fibreUsed t ++ (out.filter fun x => x.2.2.1 = t).map fun x => x.2.2.2) n bufLines with
    | some b => s.layBuffers rest (out ++ [(ph, o, t, b, n)])
    | none => none

/-- The graphs of a choice with their units' buffers given out. -/
def withBuffers (gs : List Graph) (l : List (Nat × Nat × Nat × Nat × Nat)) : List Graph :=
  gs.zipIdx.map fun (g, ph) => { g with ops := g.ops.zipIdx.map fun (k, o) => match k with
    | .fibre f =>
      .fibre { f with bufBase := ((l.find? fun x => x.1 == ph && x.2.1 == o).map fun x => x.2.2.2.1).getD 0 }
    | k => k }

/-- Whether fibre units of a type have an F tile with a unit free in their phase and lines for their buffers, each in the
first such tile: `used` lists the tile, phase and type of each so far, and `left` the lines of each tile. -/
def packFibres : List (Nat × Nat) → List (Nat × Nat × Nat) → List (Nat × Nat × Nat) → Bool
  | _, _, [] => true
  | left, used, (ph, ty, n) :: rest =>
    match lfind (fun x : Nat × Nat => decide (n ≤ x.2) &&
      decide ((used.filter fun u => u = (x.1, ph, ty)).length < fbPer ty)) left with
    | some i => packFibres (lmod i (fun x => (x.1, x.2 - n)) left) (((left.getD i (0, 0)).1, ph, ty) :: used) rest
    | none => false

/-! ## The judgement of a choice -/

/-- What a choice comes to: the extension of each channel by phase and the regions; a channel left short (R52); a packing
that does not fit (R413); or a choice that breaks a rule, which the Joiner does not make. -/
inductive Judge where
  | ok (caps : List (List Nat)) (regions : List Region)
  | short (graph chan need reached : Nat)
  | unpacked
  | invalid
deriving DecidableEq, Repr

/-- One phase of a choice: its extensions, or the channel left short. -/
inductive PhaseJudge where
  | ok (caps : List Nat)
  | short (chan need reached : Nat)
  | invalid
deriving DecidableEq, Repr

/-- Memory nodes of a phase on a tile, those that spill extensions take among them. -/
def nodesOn (g : Graph) (c : PhaseChoice) (caps : List Nat) (tile : Nat) : Nat :=
  ((classTiles g c 6).filter (· == tile)).length + spillNodes g caps c.spills tile

/-- The extensions of a phase stand on S tiles of the bay with a node free for each (R45). -/
def spillsOk (g : Graph) (c : PhaseChoice) (bay : Rect) (caps : List Nat) : Bool :=
  (g.chans.zipIdx.all fun (ch, i) => g.edge ch || caps.getD i 0 == 0 || match c.spills[i]? with
    | some p => bay.has p.1 p.2 && tileKind p.1 p.2 == .S
    | none => false) && (bay.ofKind .S).all fun t => decide (nodesOn g c caps t ≤ 8)

/-- Memory nodes that the S tiles of a bay have left beside the nodes of a phase (R45). -/
def freeNodes (g : Graph) (c : PhaseChoice) (bay : Rect) : Nat :=
  lsum ((bay.ofKind .S).map fun t => 8 - ((classTiles g c 6).filter (· == t)).length)

/-- Whether channel `i` is left short (R45, R52): no route is left for it, its shortfall exceeds 4,096 tokens, or the
extensions of the channels before it take every memory node that the bay has left. -/
def Graph.leftShort (g : Graph) (c : PhaseChoice) (bay : Rect) (sf : List Nat) (ch : Chan) (i : Nat) : Bool :=
  let n := sf.getD i 0
  let before := ((g.chans.zip sf).take i).filter fun z => !g.edge z.1 && decide (z.2 > 0)
  !g.edge ch && ((g.routeMissing c ch (c.routes.getD i []) && g.unroutable c bay ch) || decide (n > 4096) ||
    (decide (n > 0) && decide (before.length ≥ freeNodes g c bay)))

/-- The judgement of one phase (R42 to R45). A choice that leaves out a route which the bay has room for is not made. -/
def State.judgePhase (s : State) (lctx : Nat) (bay : Rect) (g : Graph) (c : PhaseChoice) (occ : List Nat) : PhaseJudge :=
  let missing (ch : Chan) (i : Nat) : Bool := g.routeMissing c ch (c.routes.getD i [])
  if !(s.placesOk lctx g c bay && g.routesOk c bay) then .invalid
  else if g.chans.zipIdx.any fun (ch, i) => missing ch i && !g.unroutable c bay ch then .invalid
  else
    let base (i : Nat) : Nat := routeDepth (c.routes.getD i [])
    let sf := g.shortfalls c.routes occ
    match g.chans.zipIdx.find? fun (ch, i) => g.leftShort c bay sf ch i with
    | some (ch, i) =>
      if missing ch i then .short i (ch.needDepth (occ.getD i 0)) 0 else .short i (base i + sf.getD i 0) (base i)
    | none =>
      let caps := (sf.zip g.chans).map fun (n, ch) => if g.edge ch then n else round8 n
      if spillsOk g c bay caps then .ok caps else .invalid

/-- The judgements of the phases together. -/
def State.judgePhases (s : State) (lctx : Nat) (bay : Rect) : List (Graph × PhaseChoice) → List (List Nat) →
    Except Judge (List (List Nat))
  | [], _ => .ok []
  | (g, c) :: rest, occs =>
    match s.judgePhase lctx bay g c (occs.headD []) with
    | .invalid => .error .invalid
    | .short i n d => .error (.short g.index i n d)
    | .ok caps => (s.judgePhases lctx bay rest occs.tail).map (caps :: ·)

/-- Bytes of the extensions of a choice on a tile. -/
def choiceSpill (gs : List Graph) (cs : List PhaseChoice) (caps : List (List Nat)) (tile : Nat) : Nat :=
  lsum (((gs.zip cs).zip caps).map fun z => spillBytes z.1.1.ops.length z.1.1.chans z.2 z.1.2.spills tile)

/-- Regions under a choice with its extensions: no memory tile of the bay holds more than its bytes (R45, R316). -/
def State.regionsFor (s : State) (bay : Rect) (all gs : List Graph) (cs : List PhaseChoice) (caps : List (List Nat)) :
    Option (List Region) :=
  (s.layRegions (agreedTile gs cs) (choiceSpill gs cs caps) (regionList all gs) []).filter fun rs =>
    (bay.ofKind .S).all fun t =>
      decide (choiceSpill gs cs caps t + lsum ((rs.filter fun r => r.tile = t).map (·.size)) ≤ s.bytesLeft t)

/-- Whether the S tiles of a bay can hold the regions and extensions of a placement, and its F tiles the buffers of its
fibre units (R45, R296, R316). -/
def State.bayPacks (s : State) (bay : Rect) (all gs : List Graph) (caps : List (List Nat)) : Bool :=
  let spills := (gs.zip caps).flatMap fun z => (z.1.chans.zip z.2).filterMap fun x =>
    if !z.1.edge x.1 && decide (x.2 > 0) then some (tokBytes x.1.net * x.2) else none
  let units := gs.zipIdx.flatMap fun (g, ph) => g.ops.filterMap fun k => match k with
    | .fibre f => some (ph, f.unitType, f.bufSize)
    | _ => none
  let lines := (bay.ofKind .F).map fun t => (t, bufLines - lsum ((s.fibreUsed t).map (·.2)))
  packFibres lines [] units && match s.packs gs bay (regionList all gs) [] [] with
  | none => false
  | some used => packSpills ((bay.ofKind .S).map fun t =>
      (t, s.bytesLeft t - lsum ((used.filter fun u => u.1 = t).map (·.2.2)))) spills

/-- The judgement of a choice for the phases `gs` that are placed, of a task whose phases are `all`; `occs` are the saved
occupancies of each phase's channels. -/
def State.judge (s : State) (lctx : Nat) (bay : Rect) (all gs : List Graph) (c : PlaceChoice) (occs : List (List Nat)) : Judge :=
  if c.phases.length ≠ gs.length ∨ !s.vecPlaced gs c.phases bay then .invalid
  else match s.judgePhases lctx bay (gs.zip c.phases) occs with
    | .error j => j
    | .ok caps =>
      match s.regionsFor bay all gs c.phases caps, s.layBuffers (fibreUnits gs c.phases) [] with
      | some rs, some _ => .ok caps rs
      | _, _ => if s.bayPacks bay all gs caps then .invalid else .unpacked

/-! ## Warm placements (R14, R48) -/

/-- The extensions that a cached entry gives: its depths beyond its routes. -/
def CacheEnt.caps (e : CacheEnt) : List (List Nat) :=
  (e.choice.phases.zip e.depths).map fun z => z.2.zipIdx.map fun (d, i) => d - routeDepth (z.1.routes.getD i [])

/-- No cell of an entry is held by another context (R14). -/
def State.cellsUnheld (s : State) (lctx : Nat) (gs : List Graph) (c : PlaceChoice) : Bool :=
  (gs.zip c.phases).all fun z => (z.1.ops.zip z.2.places).all fun x => match x.1 with
    | .cell _ => !s.cellHeld lctx (tileKey x.2.x x.2.y) x.2.sub
    | _ => true

/-- Whether a cached entry can be used unchanged (R14). -/
def State.warmOk (s : State) (lctx ob limit : Nat) (all gs : List Graph) (occs : List (List Nat)) (e : CacheEnt) : Bool :=
  e.obj == ob && some e.graph == (gs.head?.map (·.hash)) && decide (e.choice.phases.length = gs.length) &&
    decide (e.depths.length = gs.length) && s.sound e.bay && s.entriesFree gs e.bay && decide (e.bay.blocks ≤ limit) &&
    s.cellsUnheld lctx gs e.choice && s.vecPlaced gs e.choice.phases e.bay &&
    (((gs.zip e.depths).zipIdx.all fun (z, i) => z.1.depthsOk z.2 (occs.getD i []))) &&
    ((gs.zip e.choice.phases).all fun z => s.placesOk lctx z.1 z.2 e.bay && z.1.routesOk z.2 e.bay) &&
    ((gs.zip e.choice.phases).zip e.caps).all (fun z => spillsOk z.1.1 z.1.2 e.bay z.2) &&
    (s.regionsFor e.bay all gs e.choice.phases e.caps).isSome && (s.layBuffers (fibreUnits gs e.choice.phases) []).isSome

/-- The cached entry that a placement reuses. -/
def State.warm (s : State) (lctx ob limit : Nat) (all gs : List Graph) (occs : List (List Nat)) : Option CacheEnt :=
  s.cache.find? (s.warmOk lctx ob limit all gs occs)

/-- Make an entry of the placement cache, as the one used last (R48). -/
def State.cacheUse (s : State) (e : CacheEnt) : State :=
  let rest := s.cache.filter fun x => !(x.obj == e.obj && x.graph == e.graph)
  { s with cache := (if rest.length < 256 then rest else rest.drop 1) ++ [e] }

end Sys2Proof.Machine
end

