-- ==== Sys2Proof/Machine/Build.lean ====
section
/-! DEFINITION. What a placement that succeeds makes: entries, channels with their restored tokens, operators, regions,
templates and the task (02_fabric.md R24; 01_running_sum_replaced.md R8, R15; 03_graphs_and_the_joiner.md R53;
08_code_objects.md R163; 09_ternary_layer_under_deadline.md R175; 23_scheduling_faults.md R389, R390). -/
namespace Sys2Proof.Machine

/-! ## Channels (R15, R25, R42) -/

/-- Every token that a channel holds, oldest first. -/
def Chan.tokens (c : Chan) : List Token :=
  (c.endq ++ c.bufs.reverse.flatten ++ c.spill).map (·.tok)

/-- Fill places from the consumer end, older tokens first: the places, and the tokens left over (R15). -/
def fillPlaces (fc : Nat) : List Nat → List Token → List (List QTok) × List Token
  | [], toks => ([], toks)
  | n :: rest, toks =>
    let r := fillPlaces fc rest (toks.drop n)
    ((toks.take n).map (fun t => { tok := t, due := fc }) :: r.1, r.2)

/-- A channel with a route and an extension, holding restored tokens (R15). -/
def Chan.laid (c : Chan) (route : List Hop) (cap fc : Nat) (toks : List Token) : Chan :=
  let c := { c with route := route, spillCap := cap }
  let n := route.length
  let r := fillPlaces fc ((List.range (n + 1)).reverse.map c.capAt) toks
  { c with endq := r.1.headD [], bufs := r.1.tail.reverse, spill := r.2.map fun t => { tok := t, due := fc },
           spillIn := fc, spillOut := fc, freed := [], reserved := 0 }

/-- The channels of a phase as placed: `toks` the restored tokens of each. -/
def laidChans (chans : List Chan) (pc : PhaseChoice) (caps : List Nat) (fc : Nat) (toks : List (List Token)) : List Chan :=
  chans.zipIdx.map fun (c, i) => c.laid (pc.routes.getD i []) (caps.getD i 0) fc (toks.getD i [])

/-! ## Operators (R8, R53, R198, R240, R259, R330) -/

/-- An operator at its place. -/
def newOp (k : OpKind) (p : OpPlace) : Op :=
  { place := p, fault := none, faultFor := 0, recorded := false, poison := none, heldDone := false, firings := 0, kind := k }

/-- Registers of a cell at a re-placement (R8, R390): a firing saved where it stands keeps them all. -/
def Cell.restored (c : Cell) (fc : Nat) : Cell :=
  match c.firing with
  | some f => { c with firing := some { f with nextAt := fc, saved := false } }
  | none =>
    { c with regs := (List.range 16).map fun r =>
        match c.recs.find? fun x => x.reg == r && x.isState with
        | some _ => c.regs.getD r 0
        | none => ((c.recs.find? fun x => x.reg == r && x.isInit).map (·.value)).getD 0 }

/-- Registers of a vector actor at a re-placement (R53, R198, R390). -/
def Vec.restored (v : Vec) (fc : Nat) : Vec :=
  match v.firing with
  | some f => { v with firing := some { f with nextAt := fc, saved := false } }
  | none =>
    { v with vregs := v.vregs.zipIdx.map fun (r, i) => if v.persistV.getLsbD i then r else vreg0,
             pregs := v.pregs.zipIdx.map fun (r, i) => if v.persistP.getLsbD i then r else preg0 }

/-- An operator as its re-placement restores it (R53): references are read afresh, stream buffers and fibre buffers refetch
(R279), and a stalled access is reissued (R330). -/
def State.restoreOp (s : State) (o : Obj) (frame : Nat) (p : Op) (at_ : OpPlace) : Op :=
  let kind : OpKind := match s.resolve o frame p.kind with
    | .cell c => .cell (c.restored s.fc)
    | .vec v => .vec (v.restored s.fc)
    | .mem m => .mem { m with accs := [], lines := [], waitFrom := none, issueAt := 0 }
    | .matrix m => .matrix { m with takeAt := 0, pushAt := 0 }
    | .walker w => .walker { w with accs := [], issueAt := 0 }
    | .spline p => .spline { p with accs := [] }
    | .fibre f =>
      .fibre { f with badLines := [], nextLine := 0, loaded := false, accs := [], nextAt := 0 }
    | .copy c => .copy c
  { p with place := at_, kind := kind }

/-- An operator of a phase that goes on, in the buffer that the new placement gives it (R296). -/
def withBuffer (p : Op) (k : OpKind) : Op :=
  match p.kind, k with
  | .fibre f, .fibre g => { p with kind := .fibre { f with bufBase := g.bufBase } }
  | _, _ => p

/-- Handles that the walkers of placed tasks write masks through (R243, R244). -/
def State.walkHandles (s : State) : List Nat :=
  s.tasks.flatMap fun z => z.2.ops.filterMap fun p => match p.kind with
    | .walker w => some w.handle
    | _ => none

/-- Handles of a context that no live walker has, 0 left out (R243). -/
def State.freeHandles (s : State) (lctx : Nat) : List Nat :=
  match s.ctx lctx with
  | none => []
  | some c =>
    let used := s.walkHandles
    ((List.range c.bufN).map (c.bufBase + ·)).filter fun h => h != 0 && !used.contains h

/-- Give handles to the walkers that have none. -/
def giveHandles : List Nat → List Op → List Op
  | _, [] => []
  | hs, p :: t =>
    match p.kind with
    | .walker w =>
      if w.handle = 0 then { p with kind := .walker { w with handle := hs.headD 0 } } :: giveHandles hs.tail t
      else p :: giveHandles hs t
    | _ => p :: giveHandles hs t

/-- A word that holds a port name: its operator index becomes a tile, and the launch context goes in. -/
def portPatched (ops : List Op) (lctx : Nat) (w : Dbl) : Dbl :=
  match ops[(w.extractLsb' 43 12).toNat]? with
  | some p => setBits (setBits (setBits w 55 8 lctx) 48 7 p.place.x) 42 6 p.place.y
  | none => w

/-- A reply word: a counter, none, or a port name, which may be all zeros: q0 of operator 0 (R163, R414). -/
def wordPatched (ops : List Op) (lctx : Nat) (rply : Bool) (w : Dbl) : Dbl :=
  if w.getLsbD 63 || !rply then w else portPatched ops lctx w

/-- The reply of a declared copy template, patched for its placement (R349; log entry 36). -/
def replyPatched (ops : List Op) (lctx : Nat) (p : Op) : Op :=
  match p.kind with
  | .copy c => { p with kind := .copy { c with slots := c.slots.map fun z => { z with word7 := wordPatched ops lctx z.rply z.word7 } } }
  | _ => p

/-- The operators of a phase at their first placement. -/
def State.freshOps (s : State) (lctx : Nat) (g : Graph) (pc : PhaseChoice) : List Op :=
  let ops := giveHandles (s.freeHandles lctx) ((g.ops.zip pc.places).map fun z => newOp z.1 z.2)
  ops.map (replyPatched ops lctx)

/-! ## Templates (R163) -/

/-- A template of a task, patched for its placement, with the tile and the slot that hold it (R146, R163). -/
def patchTmpl (ops : List Op) (lctx objVa frame : Nat) (ds : List Dbl) : Nat × Nat × Tmpl :=
  let d (i : Nat) : Dbl := ds.getD i 0
  let h := d 2
  let engine := (h.extractLsb' 52 4).toNat
  let target := (ops[((d 1).extractLsb' 52 12).toNat]?).map (·.place)
  let x := (target.map (·.x)).getD 0
  let y := (target.map (·.y)).getD 0
  let desc := setBits (setBits (d 1) 57 7 x) 51 6 y
  let word (k : Nat) : Dbl :=
    let w := d (3 + k)
    if k = 6 then wordPatched ops lctx (h.getLsbD 32) w
    else if (d 0).getLsbD (42 + k) then setBits w 0 57 ((objVa + (w.extractLsb' 0 57).toNat) % 2 ^ 57)
    else if (d 0).getLsbD (36 + k) then setBits w 0 57 ((frame + (w.extractLsb' 0 57).toNat) % 2 ^ 57)
    else if w.getLsbD 63 && engine != 5 then portPatched ops lctx w
    else w
  let image : Packet := ((List.range 7).foldl (fun p k => Packet.setDbl p (k + 1) (word k)) (0 : Packet)) |>
    fun p => Packet.setDbl p 0 (setBits h 40 8 lctx)
  let home := ((ops[((d 0).extractLsb' 52 12).toNat]?).map fun p => tileKey p.place.x p.place.y).getD 0
  (home, ((d 0).extractLsb' 48 4).toNat, { image := image, desc := desc })

/-- The templates that a phase loads into the entries of its tiles, 16 to a tile: of two records for one slot of one tile
the later stands (R146; log entry 86). -/
def patchTmpls (g : Graph) (ops : List Op) (lctx objVa frame : Nat) : List (Nat × Nat × Tmpl) :=
  (g.tmpls.map (patchTmpl ops lctx objVa frame)).foldl (fun l x =>
    (l.filter fun y => !(y.1 == x.1 && y.2.1 == x.2.1)) ++ [x]) []

/-! ## The messages of a matrix declaration (R175) -/

/-- A message to a matrix tile, with its SEQ. -/
def mxMsg (rev lctx opc seq : Nat) (w1 w2 : Dbl) : Packet :=
  Packet.setDbl (Packet.setDbl (Packet.setDbl 0 0
    (BitVec.ofNat 64 (opc * 2 ^ 56 + 2 ^ 52 + rev * 2 ^ 48 + lctx * 2 ^ 40 + seq))) 1 w1) 2 w2

/-- The five messages of a declaration, in order, numbered from 0 (R175, R225); a node whose doubles after the first are all
zero has none (log entry 37). -/
def State.declMsgs (s : State) (o : Obj) (frame rev lctx : Nat) (decl : List Dbl) : List Packet :=
  let d (i : Nat) : Dbl := decl.getD i 0
  if d 1 == 0 && d 2 == 0 && d 3 == 0 then []
  else
    [mxMsg rev lctx 1 0 (d 0) 0, mxMsg rev lctx 2 1 0 (BitVec.ofNat 64 (s.refVal o frame (d 1))), mxMsg rev lctx 3 2 0 0,
     mxMsg rev lctx 5 3 (d 2) 0, mxMsg rev lctx 4 4 (d 3) 0]

/-- The declaration messages of the operators of a phase. -/
def State.phaseDecls (s : State) (o : Obj) (frame rev lctx : Nat) (ops : List Op) : List (Nat × Packet) :=
  ops.zipIdx.flatMap fun (p, i) => match p.kind with
    | .matrix m => (s.declMsgs o frame rev lctx m.decl).map fun x => (i, x)
    | _ => []

/-- The lane of the sequencer's messages (MODEL): no context entry has this number. -/
def seqEntry : Nat := 8

/-- Send the messages of a task that are still to be sent, one per fc to each node (R175). -/
def State.sendDecls (s : State) (t : Nat) : State :=
  match s.task t with
  | none => s
  | some k =>
    let msgs : List Msg := k.decls.zipIdx.filterMap fun (d, i) => (k.ops[d.1]?).map fun p =>
      let earlier := ((k.decls.take i).filter fun e => e.1 = d.1).length
      { from_ := tileKey p.place.x p.place.y, entry := seqEntry, x := p.place.x, y := p.place.y, packet := d.2,
        target := some (t, d.1), due := s.fc + earlier, seqSender := true }
    { s.modTask t (fun k => { k with decls := [] }) with msgs := s.msgs ++ msgs }

/-! ## Regions (R53, R58, R316, R317) -/

/-- Keys of a region's bytes, as a test. -/
def Region.holds (r : Region) (key : Nat) : Bool :=
  let base := (Loc.tile r.tile r.base).key
  decide (base ≤ key) && decide (key < base + r.size)

/-- Its granules. -/
def Region.granules (r : Region) : List Nat := if r.size = 0 then [] else Machine.granules r.tile r.base r.size

/-- A region empty: its bytes zero and its granules Empty. -/
def State.clearRegion (s : State) (r : Region) : State :=
  let gs := r.granules
  { s with mem := memKeep s.mem fun k => !r.holds k, tags := s.tags.filter fun (x : Nat × Nat) => !gs.contains x.1 }

/-- What a pause saves of a region: bytes and granule states by offset (R53). -/
def State.regionImage (s : State) (r : Region) : Nat × List (Nat × Byte) × List (Nat × Nat) :=
  let base := (Loc.tile r.tile r.base).key
  let gs := r.granules
  (r.num, (s.mem.filter fun c => r.holds c.1).map fun c => (c.1 - base, c.2),
    (s.tags.filter fun (x : Nat × Nat) => gs.contains x.1).filterMap fun x => (lfind (· == x.1) gs).map fun i => (i, x.2))

/-- A region with its saved contents put back. -/
def State.restoreRegion (s : State) (r : Region) (img : List (Nat × Byte) × List (Nat × Nat)) : State :=
  let s := s.clearRegion r
  let base := (Loc.tile r.tile r.base).key
  let gs := r.granules
  let s := { s with mem := img.1.foldl (fun m c => memPut m (base + c.1) c.2) s.mem }
  img.2.foldl (fun s (x : Nat × Nat) => match gs[x.1]? with
    | some g => s.setTags [g] x.2
    | none => s) s

/-- The regions of a task, with what was saved of those declared `.state` put back and the others empty (R53). -/
def State.layOut (s : State) (saved : List (Nat × List (Nat × Byte) × List (Nat × Nat))) : List Region → State
  | [] => s
  | r :: t =>
    (match saved.find? fun (x : Nat × List (Nat × Byte) × List (Nat × Nat)) => x.1 == r.num with
     | some x => s.restoreRegion r x.2
     | none => s.clearRegion r).layOut saved t

/-! ## The figure of R389 -/

/-- Whether the size of a region depends on a value read at placement: R160 counts it as 0. -/
def regionOpen (gs : List Graph) (r : Nat) : Bool :=
  gs.any fun g => g.tileMems.any fun m => m.regionOf = r && (fld m.addrRef 62 2 != 0 || fld m.countRef 62 2 != 0)

/-- Bytes of the saved state of a task at most (R389). -/
def savedBytes (gs : List Graph) (chans : List (List Chan)) (regions : List Region) : Nat :=
  lsum (gs.map fun g => g.stateSize) +
    lsum (regions.map fun r => if r.isState && regionOpen gs r.num then r.size else 0) + 4096 +
    lsum (chans.map fun l => lsum (l.map fun c => tokBytes c.net * c.depth)) +
    lsum (gs.map fun g => lsum (g.ops.map fun k => 64 + match k with
      | .matrix _ => 262144
      | .cell _ => 192
      | .vec _ => 71680
      | _ => 0))

/-! ## Context entries (R24) -/

/-- The first `n` free entries of each tile of a bay, after `skip` places that stand for phases gone by (R24, R57). -/
def State.takeEntries (s : State) (bay : Rect) (skip n : Nat) : List (Nat × List Nat) :=
  bay.tiles.map fun t => (t, List.replicate skip 8 ++ (s.freeEntries t).take n)

/-- The word of an entry that is taken (R24): STATE and SLOTS are kept elsewhere. -/
def entryWord (cls phase lctx : Nat) : Word := BitVec.ofNat 32 (2 ^ 31 + cls * 2 ^ 26 + phase * 2 ^ 23 + lctx * 2 ^ 8)

/-- Mark entries of tiles taken, and recompute their slot tables once the task stands (R22, R24). -/
def State.markEntries (s : State) (cls lctx : Nat) : List (Nat × List Nat) → State
  | [] => s
  | (tile, es) :: rest =>
    (s.modTile tile fun t =>
      { t with store := es.zipIdx.foldl (fun st (e : Nat × Nat) => lmod e.1 (fun _ => entryWord cls e.2 lctx) st) t.store }).markEntries
      cls lctx rest

/-- Free entries of tiles (R24). -/
def State.unmarkEntries (s : State) : List (Nat × List Nat) → State
  | [] => s
  | (tile, es) :: rest =>
    (s.modTile tile fun t => { t with store := es.foldl (fun st e => lmod e (fun _ => 0) st) t.store }).unmarkEntries rest

/-- Recompute the slot tables of tiles (R22). -/
def State.recompute (s : State) : List Nat → State
  | [] => s
  | t :: rest => (s.recomputeSlots t).recompute rest

/-- A task leaves its bay: its entries are freed (R24). -/
def State.freeBay (s : State) (t : Nat) : State :=
  match s.task t with
  | none => s
  | some k =>
    ((s.unmarkEntries (k.entries.map fun e => (e.1, e.2.drop k.phase))).modTask t fun k => { k with entries := [] }).recompute
      (k.entries.map (·.1))

end Sys2Proof.Machine
end

