-- ==== Sys2Proof/Machine/Joiner.lean ====
section
/-! DEFINITION. The Joiner's requests: the selection of a ready entry, the beginning of a placement and its end
(03_graphs_and_the_joiner.md R46 to R60; 05_formats_and_opcode_map.md R105; 08_code_objects.md R166;
23_scheduling_faults.md R376 to R378). -/
namespace Sys2Proof.Machine

/-! ## The bays of a tile task and its subgraphs (R60) -/

/-- Blocks of the live bays of a family, but for one task's. -/
def State.otherBlocks (s : State) (t but : Nat) : Nat :=
  lsum (((s.family t).filter fun z => z.1 ≠ but && z.2.status != .paused).map fun z => z.2.bay.blocks)

/-- Live spawned subgraphs of a family, but for one. -/
def State.liveSpawns (s : State) (t but : Nat) : Nat := ((s.family t).filter fun z => z.1 ≠ but && z.2.parent.isSome).length

/-! ## Decoding what a request names (R105, R413) -/

/-- The graphs of a request, the pages that its placement reads, and why it is refused, if it is. -/
structure Decoded where
  graphs : List Graph
  pages : List Nat
  bad : Option PlaceOut
deriving DecidableEq, Repr

/-- The pages that a placement reads of a graph: its entry of the directory, its header, tables, code and skew list (R165).
-/
def State.viewPages (s : State) (g : GView) : List Nat := s.gdirPages g.obj [g.index] ++ g.pages

/-- Decode a graph of an object with the phases of its stack (R57, R105, R165, R413). A STACK double that names no graph of the
object is field 0x0E of the header that names the stack, and comes before every operator (DESIGN CHOICE, log entry 108). -/
def State.decodeObj (s : State) (ob index lctx frame : Nat) : Decoded :=
  match s.objs[ob]?, s.graphView ob index with
  | some o, some g0 =>
    if o.tainted then { graphs := [], pages := [], bad := some (.hash (o.failed.headD 0)) }
    else match s.headerBad g0 with
      | some off => { graphs := [], pages := s.viewPages g0, bad := some (.illegal index 0xFFFF (detailOf 4 off)) }
      | none =>
        let ids := g0.phases
        let views := ids.filterMap (s.graphView ob)
        let pages := lnub [] (views.flatMap s.viewPages)
        if ids.any fun i => decide (i ≥ g0.ngraph) then
          { graphs := [], pages := pages, bad := some (.illegal index 0xFFFF (detailOf 4 0x0E)) }
        else match views.findSome? fun g => s.graphBad g lctx frame with
          | some b => { graphs := [], pages := pages, bad := some (.illegal b.graph b.who b.detail) }
          | none =>
            let gs := views.map fun g => s.buildGraph g lctx frame
            { graphs := gs, pages := pages,
              bad := if regionsBad gs then some (.illegal index 0xFFFF (detailOf 5 0)) else none }
  | _, _ => { graphs := [], pages := [], bad := some (.illegal index 0xFFFF 0) }

/-- The object and the graph that a TCB names (R363). -/
def State.tcbGraph (s : State) (x : Launch) (tcb : Nat) : Option (Nat × Nat) :=
  let va := refAddr (s.tcbOrigin x tcb) (s.tcb x.lctx tcb 0)
  match (s.ctx x.lctx).bind fun c => s.objAt c.pasid va with
  | none => none
  | some (i, o) =>
    if o.lost then some (i, 0) else
    let table := s.seg o 0x18 4
    ((List.range (s.seg o 0x10 2)).find? fun n => o.va + s.seg o (table + 4 * n) 4 == va).map fun n => (i, n)

/-- The frame that a TCB names. -/
def State.tcbFrame (s : State) (x : Launch) (tcb : Nat) : Nat := refAddr (s.tcbOrigin x tcb) (s.tcb x.lctx tcb 8)

/-! ## The checks of R50 -/

/-- The bay limit of a context. -/
def State.bayLim (s : State) (lctx : Nat) : Nat := ((s.ctx lctx).map Ctx.bayLim).getD 0

/-- What the checks of R50 come to for a placement: the number of the check that fails, 0 for none, and the outcome.
`limit` is what remains of the context's limit. -/
def State.fitOut (s : State) (lctx ob limit live : Nat) (all gs : List Graph) (occs : List (List Nat)) : Nat × PlaceOut :=
  match (if live ≥ 16 then none else s.warm lctx ob limit all gs occs) with
  | some e => (0, .fits e.bay (some e))
  | none => match s.fit gs lctx (s.bayLim lctx) limit live with
    | .ok r => (0, .fits r none)
    | .error e => e

/-- The judgement of a ready entry (R377): the check that fails, and the placement that would begin. -/
def State.readyOut (s : State) (r : Ready) : Nat × Option Placing :=
  match s.launch r.launch with
  | none => (0, none)
  | some x =>
    let lctx := x.lctx
    let frame := s.tcbFrame x r.tcb
    let g := (s.tcbGraph x r.tcb).getD (s.objs.length, 0)
    let d := s.decodeObj g.1 g.2 lctx frame
    let f : Nat × PlaceOut := match d.bad with
      | some b => (0, b)
      | none => s.fitOut lctx g.1 (s.bayLim lctx) 0 d.graphs d.graphs []
    (f.1, some { req := .ready r, launch := r.launch, lctx := lctx, tcb := r.tcb, obj := g.1, graph := g.2, frame := frame,
                 graphs := d.graphs, pages := d.pages, out := f.2 })

/-! ## Contexts that pause and resume (R12, R55, R388, R391) -/

/-- Whether a context holds its tasks: it is pausing or paused. -/
def State.ctxHeld (s : State) (lctx : Nat) : Bool := ((s.ctx lctx).map fun c => c.pausing || c.paused).getD false

/-- A RESUME completes once every re-placement has ended (R391, R402). -/
def State.resumeCheck (s : State) (lctx : Nat) : State :=
  match (s.ctx lctx).bind (·.resumeTag) with
  | none => s
  | some tag =>
    let again (q : PReq) : Bool := match q with
      | .again t => s.lctxOf t == lctx
      | _ => false
    if s.requests.any again || ((s.placing.map fun p => again p.req && p.lctx == lctx)).getD false then s
    else (s.modCtx lctx fun c => { c with resumeTag := none }).adminFinish (tag, .resume lctx) true

/-- What follows a change of a context's tasks. -/
def State.ctxCheck (s : State) (lctx : Nat) : State := (s.pauseCheck lctx).resumeCheck lctx

/-! ## Beginning a placement (R49) -/

/-- Every entry ahead of the one begun gains 1 in its bypass count (R378). -/
def addBypass (ahead : List Ready) (l : List Ready) : List Ready :=
  l.map fun r => if ahead.any fun a => a.launch == r.launch && a.tcb == r.tcb then { r with bypass := min 16 (r.bypass + 1) } else r

/-- The entries of the ready queue that stand ahead of one. -/
def State.readyAhead (s : State) (r : Ready) : List Ready :=
  s.readyOrder.takeWhile fun e => !(e.launch == r.launch && e.tcb == r.tcb)

/-- The bypass limit and the window of R378 let an entry be begun past those ahead of it. -/
def mayPass (ahead : List Ready) : Bool := decide (ahead.length ≤ 8) && ahead.all fun e => decide (e.bypass < 16)

/-- A ready entry: its TCB goes to PLACED, and those ahead of it have been passed (R364, R377, R378). An entry that is blocked by
the time its turn comes stays READY. -/
def State.beginReady (s : State) (r : Ready) : State :=
  match s.launch r.launch with
  | none => s
  | some x =>
    if x.paused || !(s.ready.any fun e => e.launch == r.launch && e.tcb == r.tcb) || s.tcbState x.lctx r.tcb ≠ 1 then s
    else match s.readyOut r with
      | (n, some p) =>
        if n = 5 || !mayPass (s.readyAhead r) then s
        else
          { s.setTcbState x.lctx r.tcb 2 with
            ready := (addBypass (s.readyAhead r) s.ready).filter fun e => !(e.launch == r.launch && e.tcb == r.tcb), placing := some p }
      | (_, none) => s

/-- The first item of the phases of a re-placement that is ILLEGAL with its references as they stand now: counts, extents
and addresses of nodes (R72, R163, R296; log entry 87). -/
def State.refsBad (s : State) (ob lctx frame : Nat) (gs : List Graph) : Option Bad :=
  (gs.filterMap fun g => s.graphView ob g.index).findSome? fun g => g.ops.zipIdx.findSome? fun (w, o) =>
    if [2, 4, 6, 7].contains (opk w) then
      (s.opBad g lctx frame o w).map fun d => { graph := g.index, who := o, detail := d }
    else none

/-- A re-placement of a paused task (R13, R56): the phases that are left are placed, with their references resolved afresh
(R72). Only a spawn is held to the count of live subgraphs (R60). -/
def State.beginAgain (s : State) (t : Nat) : State :=
  match s.task t with
  | none => s
  | some k =>
    if k.status != .paused || (s.ctxHeld k.lctx && !k.wrapping) then s
    else
      let all := match s.objs[k.obj]? with
        | some o => k.graphs.map (s.resolveGraph o k.frame)
        | none => k.graphs
      let gs := all.drop k.phase
      let occs := [k.chans.map Chan.occupancy]
      let out : PlaceOut :=
        if !(((s.objs[k.obj]?).map Obj.registered).getD false) then .hash 0
        else match s.refsBad k.obj k.lctx k.frame gs with
          | some b => .illegal b.graph b.who b.detail
          | none =>
            if regionsBad all then .illegal k.graphIndex 0xFFFF (detailOf 5 0)
            else (s.fitOut k.lctx k.obj (s.bayLim k.lctx - s.otherBlocks t t) 0 all gs occs).2
      { s with placing := some { req := .again t, launch := k.launch, lctx := k.lctx, tcb := k.tcb, obj := k.obj,
                                 graph := k.graphIndex, frame := k.frame, graphs := all, pages := [], out := out } }

/-- A double of the constant table of a task's current graph. -/
def Task.const (k : Task) (i : Nat) : Dbl := ((k.graph?.map (·.consts)).getD []).getD i 0

/-- A spawn (R60, R148): the TCB of its records is that of its tile task (R374). -/
def State.beginSpawn (s : State) (t o rec : Nat) : State :=
  match s.task t with
  | none => s
  | some k =>
    if k.status == .stopping then s
    else
      let g := fld (k.const rec) 48 16
      let d := s.decodeObj k.obj g k.lctx k.frame
      let out : PlaceOut := match d.bad with
        | some b => b
        | none => (s.fitOut k.lctx k.obj (s.bayLim k.lctx - s.otherBlocks t s.nextTask) (s.liveSpawns t s.nextTask) d.graphs
            d.graphs []).2
      { s with placing := some { req := .spawn t o rec, launch := k.launch, lctx := k.lctx,
                                 tcb := ((s.task (s.rootTask s.tasks.length t)).map (·.tcb)).getD k.tcb, obj := k.obj, graph := g,
                                 frame := k.frame, graphs := d.graphs, pages := d.pages, out := out } }

/-- The Joiner begins the next request in arrival order (R49). -/
def execJoinerPlacementBegin (s : State) : Host.Outcome State Fault Refusal :=
  if s.dev.halt || s.dev.failAt.isSome then .next s
  else match s.placing, s.requests with
  | none, q :: rest =>
    let s := { s with requests := rest }
    match q with
    | .ready r => .next (s.beginReady r)
    | .again t => .next ((s.beginAgain t).resumeCheck (s.lctxOf t))
    | .spawn t o rec => .next (s.beginSpawn t o rec)
  | _, _ => .next s

/-! ## Failures (R51, R56, R60, R105, R166) -/

/-- Double 0 of the spawn record of a request, if it is a spawn. -/
def State.spawnRec (s : State) (p : Placing) : Option (Nat × Nat × Dbl) :=
  match p.req with
  | .spawn t o rec => (s.task t).map fun k => (t, o, k.const rec)
  | _ => none

/-- Owe the reply of a spawn (R60). -/
def State.spawnReply (s : State) (p : Placing) (v : Nat) : State :=
  match s.spawnRec p with
  | some (t, o, d) => { s with spawnReplies := s.spawnReplies ++ [(t, o, fld d 42 2, BitVec.ofNat 32 v)] }
  | none => s

/-- The tile task of a spawn or a re-placement has a fault record queued for it: the first one gives it its RESULT (R365,
R371). -/
def State.placedFaulted (s : State) (p : Placing) (res : Dbl) : State :=
  let mark (t : Nat) : State := s.modTask (s.rootTask s.tasks.length t) fun k =>
    if k.faulted then k else { k with faulted := true, result := res }
  match p.req with
  | .spawn t _ _ => mark t
  | .again t => mark t
  | .ready _ => s

/-- A placement ends without one: the TCB fails, or the task stays paused and the admin queue is told (R51, R56). -/
def State.placeOver (s : State) (p : Placing) (res : Dbl) : State :=
  let s := { s with placing := none }
  match p.req with
  | .ready _ => s.finish p.launch p.tcb 5 res
  | .again _ => { s with notices := s.notices ++ [.fitFailed p.lctx] }
  | .spawn _ _ _ => s

/-- A placement refused with a structural record: ILLEGAL or LOAD_HASH (R105, R166, R413). -/
def State.placeFault (s : State) (p : Placing) (code : BitVec 7) (graph who detail : Nat) : State :=
  let r : FaultRec :=
    { origin := originWord p.lctx 0 0 15 code, graph := graph, who := who, tcb := p.tcb, code := code.zeroExtend 8,
      struct := true, fit := false, holder := 0xFFFF, detail := BitVec.ofNat 32 detail }
  let res := resultOf who graph 1 code.toNat false
  (((s.queueFault p.lctx p.launch r).spawnReply p code.toNat).placedFaulted p res).placeOver p res

/-- A placement that does not fit: three entries of the fault record queue (R51, R385). -/
def State.placeReport (s : State) (p : Placing) (code who : Nat) (image : Packet) : State :=
  let graph := (image.extractLsb' 32 16).toNat
  let r : FaultRec :=
    { origin := 0, graph := graph, who := who % 2 ^ 16, tcb := p.tcb, code := BitVec.ofNat 8 code, struct := false, fit := true,
      holder := 0xFFFF, detail := image.extractLsb' 96 32 }
  ((s.queueRecord p.lctx p.launch [r.image s.tai, image.extractLsb' 0 256, image.extractLsb' 256 256]).spawnReply p code).placeOver
    p (resultOf (who % 2 ^ 16) graph 2 code false)

/-! ## Success (R15, R48, R53, R55, R60, R364) -/

/-- Bind the edge channels of a subgraph to those of its requester (R60, R148). -/
def State.bindEdges (s : State) (t c : Nat) (d : Dbl) (rec : Nat) (k : Task) : State :=
  ((List.range (fld d 44 4)).map fun i => k.const (rec + 1 + i)).foldl (fun s b =>
    let rc := fld b 16 16
    let sc := fld b 0 16
    (s.modChan t rc fun x => { x with joined := some (c, sc) }).modChan c sc fun x => { x with joined := some (t, rc) }) s

/-- The largest figure of R389 among a context's placed tasks is recorded. -/
def State.noteFigure (s : State) (lctx : Nat) : State :=
  s.modCtx lctx fun c => { c with saveFigure := lmax ((s.placed.filter fun k => k.lctx = lctx).map (·.saveFigure)) }

/-- A kept PAUSE names the operator of the first tile task that is placed, a re-placement among them; a firing that it names
and that has ended counts at once (R11). -/
def State.nameStop (s : State) (t lctx : Nat) : State :=
  match s.ctx lctx, s.task t with
  | some c, some k =>
    match c.stopCond, c.stopTask with
    | some (o, _), none =>
      if k.parent.isSome then s
      else if o < k.ops.length then (s.modCtx lctx fun c => { c with stopTask := some t }).checkStopCond t o
      else
        let s := s.modCtx lctx fun c => { c with stopCond := none, pauseTag := none }
        match c.pauseTag with
        | some tag => s.adminFinish (tag, .pause lctx) false
        | none => s
    | _, _ => s
  | _, _ => s

/-- A task that has been placed pauses at once where its context does, or where a knot has come into its bay (R13, R55). -/
def State.pauseIfDue (s : State) (t : Nat) : State :=
  match s.task t with
  | none => s
  | some k =>
    if (s.ctxHeld k.lctx && !k.wrapping) || !s.sound k.bay then s.pauseTasks fun t' _ => t' == t else s

/-- An operator after the stop instant of its launch: a walker issues no further point (R173, R265). -/
def Op.marked (p : Op) : Op :=
  match p.kind with
  | .walker w => { p with kind := .walker { w with stopped := true } }
  | _ => p

/-! Port names of a task that moves: what waits in its engines names the tiles of the placement before, and the Joiner
writes the new ones (R163, R240, R414; log entry 46). -/

/-- The tile of an operator goes into a port name. -/
def renamed (w : Dbl) (p : Op) : Dbl := setBits (setBits w 48 7 p.place.x) 42 6 p.place.y

/-- Word 7 of a message of a task that moves to new operators. -/
def Task.moveReply (k : Task) (ops : List Op) (rply : Bool) (w : Dbl) : Dbl :=
  if w.getLsbD 63 || !rply then w
  else match k.replyCell (w.extractLsb' 48 7).toNat (w.extractLsb' 42 6).toNat (portOf w) with
    | some o => ((ops[o]?).map (renamed w)).getD w
    | none => w

/-- An operand word of a message to operator `o`: a port of its own. -/
def Task.moveName (k : Task) (ops : List Op) (o : Nat) (w : Dbl) : Dbl :=
  match k.ops[o]?, ops[o]? with
  | some p, some q =>
    if w.getLsbD 63 && (w.extractLsb' 48 7).toNat == p.place.x && (w.extractLsb' 42 6).toNat == p.place.y then renamed w q else w
  | _, _ => w

/-- A message to operator `o`. -/
def Task.movePacket (k : Task) (ops : List Op) (o : Nat) (p : Packet) : Packet :=
  let p := [1, 2, 3, 4, 5, 6].foldl (fun p i => Packet.setDbl p i (k.moveName ops o (p.dbl i))) p
  Packet.setDbl p 7 (k.moveReply ops (Packet.rply p) (p.dbl 7))

/-- The inbox of operator `o`. -/
def Task.moveInbox (k : Task) (ops : List Op) (o : Nat) (b : Inbox) : Inbox :=
  { b with packets := b.packets.map fun z => { z with image := k.movePacket ops o z.image },
           replies := b.replies.map fun r => { r with word7 := k.moveReply ops r.rply r.word7 } }

/-- An operator of a task that moves. -/
def Task.moveOp (k : Task) (ops : List Op) (p : Op) (o : Nat) : Op :=
  let kind : OpKind := match p.kind with
    | .copy c => .copy { c with slots := c.slots.map fun z => { z with word7 := k.moveReply ops z.rply z.word7 } }
    | x => x
  { p with kind := kind.modInbox (k.moveInbox ops o) }

/-- A message on its way when task `t` moves; one to a bank ALU of its context names a reply queue alone. -/
def Task.moveMsg (k : Task) (t : Nat) (ops : List Op) (m : Msg) : Msg :=
  match m.target with
  | some (t', o) =>
    if t' = t then { m with packet := k.movePacket ops o m.packet, x := ((ops[o]?).map (·.place.x)).getD m.x,
                            y := ((ops[o]?).map (·.place.y)).getD m.y } else m
  | none =>
    if m.packet.engine == 5 && Packet.ctx m.packet == k.lctx then
      { m with packet := Packet.setDbl m.packet 7 (k.moveReply ops (Packet.rply m.packet) (m.packet.dbl 7)) } else m

/-- The bank ALU queue of a context one of whose tasks moves. -/
def Task.moveBank (k : Task) (ops : List Op) (b : Inbox) : Inbox :=
  { b with packets := b.packets.map fun z => { z with image := Packet.setDbl z.image 7 (k.moveReply ops (Packet.rply z.image) (z.image.dbl 7)) },
           replies := b.replies.map fun r => { r with word7 := k.moveReply ops r.rply r.word7 } }

/-- Messages and bank ALU queues when task `t`, once `k`, has moved. -/
def State.moveNames (s : State) (t : Nat) (k : Task) (ops : List Op) : State :=
  { s with msgs := s.msgs.map (k.moveMsg t ops),
           banks := avals (fun _ b => { b with queues := amod k.lctx (k.moveBank ops) b.queues }) s.banks }

/-- The task of a placement that succeeds, before its number is given. `now` is the phase graph that starts. -/
def State.newTaskOf (s : State) (p : Placing) (bay : Rect) (c : PlaceChoice) (caps : List (List Nat)) (regions : List Region) : Task :=
  let objVa := s.objBase p.obj
  let old : Option Task := match p.req with
    | .again t => s.task t
    | _ => none
  let skip := (old.map (·.phase)).getD 0
  let gs := p.graphs.drop skip
  let gs := withBuffers gs ((s.layBuffers (fibreUnits gs c.phases) []).getD [])
  let g := gs.headD default
  let pc := c.phases.headD default
  let o := (s.objs[p.obj]?).getD
    { va := objVa, pasid := 0, aqi := 0, size := 0, signed := false, tainted := false, signedEnd := 0, manifest := 0,
      verified := [], failed := [], lost := false }
  let ops := match old with
    | some k =>
      let ops := ((k.ops.zip pc.places).zip g.ops).map fun z => withBuffer (s.restoreOp o p.frame z.1.1 z.1.2) z.2
      ops.zipIdx.map fun z => k.moveOp ops z.1 z.2
    | none => s.freshOps p.lctx g pc
  let chans := match old with
    | some k => laidChans k.chans pc (caps.headD []) s.fc (k.chans.map Chan.tokens)
    | none => laidChans g.chans pc (caps.headD []) s.fc []
  let later := ((gs.zip c.phases).zip caps).drop 1 |>.map fun z => laidChans z.1.1.chans z.1.2 z.2 s.fc []
  let tmpls := patchTmpls g ops p.lctx objVa p.frame
  let figure := savedBytes p.graphs (chans :: later) regions
  let choice : PlaceChoice := { phases := List.replicate skip default ++ c.phases }
  let entries := s.takeEntries bay skip gs.length
  match old with
  | some k =>
    { k with graphs := p.graphs.take skip ++ gs, bay := bay, entries := entries, choice := choice, ops := ops, chans := chans,
             tmpls := tmpls, regions := regions,
             saved := [], status := .running, saveFigure := figure, caps := List.replicate skip [] ++ caps, startAt := s.fc,
             wrapMark := k.wrapping, wrapDue := none }
  | none =>
    let x := s.launch p.launch
    let wrapX := match p.req with
      | .ready r => r.wrapX
      | .spawn t _ _ => ((s.task t).map (·.wrapX)).getD false
      | .again _ => false
    let late := !wrapX && (x.map (·.stopDone)).getD false
    let ops := if late then ops.map Op.marked else ops
    { launch := p.launch, lctx := p.lctx, tcb := p.tcb, obj := p.obj, frame := p.frame, graphs := gs, phase := 0,
      bay := bay, entries := entries, choice := choice, ops := ops, chans := chans, tmpls := tmpls, regions := regions,
      saved := [], wcb := [], balance := 0, status := .running, endState := 5, pauseFor := 0, wrapMark := late, wrapDue := none,
      wrapX := wrapX, faulted := false, result := 0,
      oldPoison := none, parent := (s.spawnRec p).map fun z => (z.1, z.2.1, fld z.2.2 42 2), saveFigure := figure,
      caps := caps, startAt := s.fc, decls := s.phaseDecls o p.frame g.rev p.lctx ops }

/-- The placement succeeds: the task stands, and its first firing may begin in this fc (R49). -/
def State.placeDone (s : State) (p : Placing) (bay : Rect) (c : PlaceChoice) (caps : List (List Nat)) (regions : List Region) :
    State :=
  let k := s.newTaskOf p bay c caps regions
  let cls := ((s.launch p.launch).map (·.cls)).getD 0
  let saved := match p.req with
    | .again t => ((s.task t).map (·.saved)).getD []
    | _ => []
  let t := match p.req with
    | .again t => t
    | _ => s.nextTask
  let depths := (c.phases.zip caps).map fun z => z.2.zipIdx.map fun (n, i) => routeDepth (z.1.routes.getD i []) + n
  let s := match p.req with
    | .again t => ((s.task t).map fun was => s.moveNames t was k.ops).getD s
    | _ => s
  let s := { s with placing := none, tasks := aset t k s.tasks, nextTask := max s.nextTask (t + 1) }
  let s := (s.markEntries cls p.lctx k.entries).layOut saved regions
  let s := (s.recompute (k.entries.map (·.1))).sendDecls t
  let s := s.cacheUse { obj := p.obj, graph := ((p.graphs.drop k.phase).headD default).hash, bay := bay, choice := c, depths := depths }
  let s := s.modCtx p.lctx fun x =>
    { x with bankRev := x.bankRev.or ((p.graphs.head?).map (·.rev)) }
  let s := match p.req with
    | .ready _ => (s.setTcbState p.lctx p.tcb 3).nameStop t p.lctx
    | .again _ => s.nameStop t p.lctx
    | .spawn r _ rec => match s.task r with
      | some q => (s.spawnReply p 0).bindEdges r t (q.const rec) rec q
      | none => s
  (s.noteFigure p.lctx).pauseIfDue t

/-- A placement ends (R49). Every page that it read has to be hashed first (R165). The operand is the Joiner's choice of
positions and routes (R44): one that breaks a rule is not made, and the placement goes on. -/
def State.endPlacement (s : State) (p : Placing) (c : PlaceChoice) : State :=
  match s.objs[p.obj]? with
  | none => s.placeFault p Code.illegal p.graph 0xFFFF 0
  | some o =>
    if p.pages.any o.unhashed then s
    else match p.pages.find? o.failed.contains with
      | some page => s.placeFault p Code.loadHash p.graph 0xFFFF (page * pageBytes)
      | none =>
        match p.out with
        | .hash page => s.placeFault p Code.loadHash p.graph 0xFFFF (page * pageBytes)
        | .illegal g w d => s.placeFault p Code.illegal g w d
        | .report code who image => s.placeReport p code who image
        | .fits bay warm =>
          let phase := match p.req with
            | .again t => ((s.task t).map (·.phase)).getD 0
            | _ => 0
          let occs := match p.req with
            | .again t => [((s.task t).map fun k => k.chans.map Chan.occupancy).getD []]
            | _ => []
          let gs := p.graphs.drop phase
          match warm with
          | some e =>
            s.placeDone p bay e.choice e.caps ((s.regionsFor bay p.graphs gs e.choice.phases e.caps).getD [])
          | none =>
            match s.judge p.lctx bay p.graphs gs c occs with
            | .ok caps regions => s.placeDone p bay c caps regions
            | .short g ch need reached =>
              let who := 2 ^ 31 + ch
              s.placeReport p FitCode.routeDepth who
                (s.fitReport gs p.lctx g (s.bayLim p.lctx) FitCode.routeDepth who (need * 2 ^ 16 + reached) (some bay))
            | .unpacked => s.placeFault p Code.illegal p.graph 0xFFFF (detailOf 5 0)
            | .invalid => s

/-- A placement ends with channels restored and its first firing allowed, or with a failure (R49). -/
def execPlacementEnd (c : PlaceChoice) (s : State) : Host.Outcome State Fault Refusal :=
  match s.placing with
  | none => .next s
  | some p => .next ((s.endPlacement p c).ctxCheck p.lctx)

/-! ## Selection (R376 to R378) -/

/-- Whether an entry is blocked: the first check of R50 to fail for it is check 5 (R377). -/
def State.readyBlocked (s : State) (r : Ready) : Bool := (s.readyOut r).1 == 5

/-- Whether the judgement of an entry reads a page that has still to be hashed (R165). -/
def State.readyUnhashed (s : State) (r : Ready) : Bool :=
  ((s.readyOut r).2.bind fun p => (s.objs[p.obj]?).map fun o => p.pages.any o.unhashed).getD false

/-- What a selection comes to: nothing, an entry whose pages have to be hashed first (R165), or one to begin. -/
inductive Picked where
  | none
  | hash (r : Ready)
  | begin_ (r : Ready)
deriving DecidableEq, Repr

/-- The first entry that is not blocked among the head and the eight behind it, as far as the bypass limit lets it pass (R378). -/
def State.pickReady (s : State) : Nat → List Ready → Picked
  | 9, _ => .none
  | _, [] => .none
  | n, r :: rest =>
    if s.readyUnhashed r then .hash r
    else if !s.readyBlocked r then .begin_ r
    else if r.bypass ≥ 16 then .none
    else s.pickReady (n + 1) rest

/-- The ready entry whose pages a selection for the free Joiner reads, with its placement (R165). -/
def State.selecting (s : State) : Option (Ready × Placing) :=
  if s.placing.isSome || !s.requests.isEmpty then none
  else match s.pickReady 0 s.readyOrder with
    | .hash r => (s.readyOut r).2.map fun p => (r, p)
    | _ => none

/-- The sequencer selects a ready entry for the free Joiner (R377, R378), once the pages that it judges by are hashed (R165). -/
def execReadyQueueSelect (s : State) : Host.Outcome State Fault Refusal :=
  if s.placing.isSome || !s.requests.isEmpty then .next s
  else match s.readyOrder with
    | [] => .next s
    | h :: rest =>
      match s.pickReady 0 (h :: rest) with
      | .hash _ => .next s
      | .none => .next { s with blocked := s.readyBlocked h, held := decide (h.bypass ≥ 16) }
      | .begin_ r => .next { s with blocked := s.readyBlocked h, held := false, requests := [.ready r] }

end Sys2Proof.Machine
end

