-- ==== Sys2Proof/Machine/Sequencer.lean ====
section
/-! DEFINITION. The graph sequencer: request packets, the look-ahead stage and the nodes of a task graph
(14_deadlines_power_steps.md R262, R263; 17_jacobi_on_device.md R310 to R313; 21_task_graphs.md R363 to R370;
24_host_links_power_fail.md R397 to R401). -/
namespace Sys2Proof.Machine

/-- Fetching and issue go on: not after a power failure, nor in a halted module (R409, R411). -/
def State.powered (s : State) : Bool := !s.dev.halt && s.dev.failAt.isNone

/-! ## Request queues (R397 to R399) -/

/-- A request queue of an AQI. -/
def State.queue (s : State) (aqi q : Nat) : Option Queue := (aget aqi s.aqis).bind fun a => aget q a.queues
/-- Change a request queue. -/
def State.modQueue (s : State) (aqi q : Nat) (f : Queue → Queue) : State :=
  { s with aqis := amod aqi (fun a => { a with queues := amod q f a.queues }) s.aqis }

/-- The packet at the head of a request queue, or of the intake from control cores (R157, R397). -/
def State.queueHead (s : State) (aqi q : Nat) : Option Packet :=
  if q = intakeQ then (s.intake.find? fun x => x.2.1 == aqi).map fun x => x.2.2
  else match s.queue aqi q with
    | none => none
    | some u =>
      if u.head = u.tail then none
      else (s.pasidAt u.pasid aqi (u.ring + 64 * u.head) 0).map fun l => BitVec.ofNat 512 (s.readLoc l 64)

/-- An AQI from which no packet is fetched: it is being reset (R404). -/
def State.resetting (s : State) (aqi : Nat) : Bool := s.adminWait.any fun w => w.2 == .aqiReset aqi || w.2 == .functionReset

/-- The packet that the sequencer would fetch from a queue. -/
def State.requestHead (s : State) (aqi q : Nat) : Option Packet :=
  if !s.powered || s.resetting aqi then none else s.queueHead aqi q

/-- Remove the first element that meets a test. -/
def dropFirst {α : Type} (p : α → Bool) : List α → List α
  | [] => []
  | a :: t => if p a then t else a :: dropFirst p t

/-- The queue once its head packet is fetched (R397): the head wraps at the end of the ring, and a tail that stands beyond it
with it. -/
def Queue.advanced (u : Queue) : Queue :=
  if u.head + 1 ≥ u.size then { u with head := 0, tail := if u.size ≤ u.tail then u.tail - u.size else u.tail }
  else { u with head := u.head + 1 }

/-- The packet is fetched: the head moves on. -/
def State.requestNext (s : State) (aqi q : Nat) : State :=
  if q = intakeQ then { s with intake := dropFirst (fun x => x.2.1 == aqi) s.intake }
  else s.modQueue aqi q Queue.advanced

/-- LCTX, PASID, CLASS and TLID of a request (R398). -/
def Packet.lctx (p : Packet) : Nat := (p.byte 2).toNat
@[inherit_doc Packet.lctx] def Packet.pasid (p : Packet) : Nat := (p.extractLsb' 32 20).toNat
@[inherit_doc Packet.lctx] def Packet.cls (p : Packet) : Nat := (p.extractLsb' 8 2).toNat
@[inherit_doc Packet.lctx] def Packet.tlid (p : Packet) : Nat := (p.extractLsb' 64 12).toNat

/-- The PASID that a queue's packets must name: that of the queue, or of the context for a core's request (R157, R398). -/
def State.queuePasid (s : State) (aqi q lctx : Nat) : Option Nat :=
  if q = intakeQ then (s.ctx lctx).map Ctx.pasid else (s.queue aqi q).map (·.pasid)

/-- Reserved bits and ranges of a request packet (R398). -/
def reqForm (p : Packet) : Bool :=
  let d6 := p.dbl 6
  let d3 := p.dbl 3
  (p.dbl 0).extractLsb' 10 6 == 0 && (p.dbl 0).extractLsb' 24 8 == 0 && (p.dbl 0).extractLsb' 52 12 == 0 &&
    isVa (p.dbl 1) 1 && d3.extractLsb' 44 20 == 0 && (p.dbl 4).extractLsb' 17 47 == 0 && d6.extractLsb' 32 32 == 0 &&
    decide ((d3.extractLsb' 32 7).toNat ≤ 64) && decide ((d3.extractLsb' 40 3).toNat ≤ 5) &&
    (!d3.getLsbD 39 || (d3.extractLsb' 32 7 == 0 && d3.extractLsb' 40 3 == 0)) &&
    match p.byte 0 with
    | 2 | 3 => (p.dbl 1).extractLsb' 12 45 == 0
    | 4 => low32 (p.dbl 7)
    | _ => true

/-- The context that a request names is bound to the queue's PASID, and its packet is in order (R398). -/
def State.reqOk (s : State) (aqi q : Nat) (p : Packet) : Bool :=
  reqForm p && some (Packet.pasid p) == s.queuePasid aqi q (Packet.lctx p) && match s.ctx (Packet.lctx p) with
    | some c => !c.dead && c.pasid == Packet.pasid p
    | none => false

/-- A request is refused with a status; a packet of a revoked PASID is told to the admin queue (R398, R401). -/
def State.refuse (s : State) (aqi q : Nat) (p : Packet) (status : Nat) : State :=
  let s := (s.requestNext aqi q).complete aqi q (useqOf p) status (Packet.lctx p)
  if status = 4 then { s with notices := s.notices ++ [.pasidRefused aqi (Packet.pasid p)] } else s

/-- A packet with an unassigned OPC completes with REFUSED_FIELD, or with REFUSED_PASID where its PASID is revoked. -/
def State.refuseOpc (s : State) (aqi q : Nat) (p : Packet) : State :=
  s.refuse aqi q p (if s.revoked.contains (Packet.pasid p) then 4 else 5)

/-- Take a request: refused if its PASID is revoked, its fields are not in order or `ok` fails (R398, R401). A request that
is not at the head of its queue is not taken. -/
def State.request (s : State) (aqi q : Nat) (p : Packet) (ok : Bool) (go : State → State) : State :=
  if s.requestHead aqi q ≠ some p then s
  else if s.revoked.contains (Packet.pasid p) then s.refuse aqi q p 4
  else if !s.reqOk aqi q p || !ok then s.refuse aqi q p 5
  else go s

/-- Launches of a queue that are not complete. -/
def State.queueLaunches (s : State) (aqi q : Nat) : List (Nat × Launch) :=
  s.launches.filter fun x => x.2.aqi == aqi && x.2.q == q

/-- A SIGNAL request (R398): it waits until every earlier packet of the queue has completed. -/
def execReqSignal (aqi q : Nat) (p : Packet) (s : State) : Host.Outcome State Fault Refusal :=
  .next (s.request aqi q p true fun s =>
    if !(s.queueLaunches aqi q).isEmpty then s
    else ((s.requestNext aqi q).tlAdd (Packet.tlid p) (p.dbl 7)).complete aqi q (useqOf p) 0 (Packet.lctx p))

/-- A WAIT request (R398): it holds the later packets of its queue. -/
def execReqWait (aqi q : Nat) (p : Packet) (s : State) : Host.Outcome State Fault Refusal :=
  .next (s.request aqi q p true fun s =>
    let n := Packet.tlid p
    if s.tlBad n then (s.requestNext aqi q).complete aqi q (useqOf p) 1 (Packet.lctx p)
    else if (s.tl n).toNat ≥ (p.dbl 7).toNat then (s.requestNext aqi q).complete aqi q (useqOf p) 0 (Packet.lctx p)
    else s)

/-! ## Node lists (R159, R368) -/

/-- The offsets of an object's `.tasks` sections, and of its `.core` sections (R159). -/
def State.taskSecs (s : State) (o : Obj) : List Nat :=
  (List.range (s.seg o 0x12 2)).map fun i => s.seg o (s.seg o 0x1C 4 + 4 * i) 4
@[inherit_doc State.taskSecs] def State.coreSecs (s : State) (o : Obj) : List Nat :=
  (List.range (s.seg o 0x14 2)).map fun i => s.seg o (s.seg o 0x20 4 + 4 * i) 4

/-- The end of the section that begins at an offset: the next section, or the end of the signed part. -/
def State.secEnd (s : State) (o : Obj) (sec : Nat) : Nat :=
  ((s.taskSecs o ++ s.coreSecs o ++ [o.signedEnd]).filter fun x => decide (x > sec)).foldl min o.size

/-- An offset is a node of the section that begins at `sec` (R368). -/
def State.nodeIn (s : State) (o : Obj) (sec off : Nat) : Bool :=
  decide (sec ≤ off) && decide (off + 64 ≤ s.secEnd o sec) && decide (off % 64 = 0)

/-- The node at an offset. -/
def State.nodeAt (s : State) (o : Obj) (off : Nat) : Packet := BitVec.ofNat 512 (s.seg o off 64)

/-- Fields of a node (R368). -/
def nodeF4 (n : Packet) : Nat := (n.extractLsb' 32 32).toNat
@[inherit_doc nodeF4] def nodeKind (n : Packet) : Nat := (n.byte 0).toNat

/-- A reference double of RK 0 or 1 (R163). -/
def isRef (d : Dbl) : Bool := d.extractLsb' 57 5 == 0 && decide ((d.extractLsb' 62 2).toNat ≤ 1)

/-- R369's first check: KIND, reserved bytes, ranges, and offsets of nodes that R368 allows. -/
def State.nodeOk (s : State) (o : Obj) (sec off : Nat) (n : Packet) : Bool :=
  let f4 := nodeF4 n
  let d1 := n.dbl 1
  let d2 := n.dbl 2
  let d3 := n.dbl 3
  s.nodeIn o sec off && (n.extractLsb' 8 24 == 0) && (n.extractLsb' 256 256 == 0) && match nodeKind n with
    | 1 => decide (f4 < s.seg o 0x10 2) && isRef d1 && isRef d3
    | 2 => f4 == 0 && isRef d1 && d3 == 0 && s.nodeIn o sec (d2.extractLsb' 32 32).toNat && s.nodeIn o sec (d2.extractLsb' 0 32).toNat
    | 3 => f4 == 0 && isRef d1 && d3 == 0 && d2.extractLsb' 48 16 == 0 && d2.extractLsb' 32 16 != 0 &&
        s.nodeIn o sec (d2.extractLsb' 0 32).toNat
    | 4 | 9 => f4 == 0 && d1 == 0 && d2 == 0 && d3 == 0
    | 5 | 8 => (s.taskSecs o).contains f4 && d1 == 0 && d2 == 0 && d3 == 0
    | 6 => decide (f4 < 4096) && d2 == 0 && d3 == 0
    | 7 => decide (f4 < 4096) && d1 != 0 && d2 == 0 && d3 == 0
    | _ => false

/-- The nodes that control can pass to from a node of the section at `sec`, each with its section. -/
def State.nodeNexts (s : State) (o : Obj) (sec off : Nat) : List (Nat × Nat) :=
  let n := s.nodeAt o off
  if !s.nodeOk o sec off n || (pagesOf off 64).any o.failed.contains then []
  else
    let d2 := n.dbl 2
    match nodeKind n with
    | 2 => [(sec, (d2.extractLsb' 0 32).toNat), (sec, (d2.extractLsb' 32 32).toNat)]
    | 3 => [(sec, (d2.extractLsb' 0 32).toNat), (sec, off + 64)]
    | 5 => [(nodeF4 n, nodeF4 n), (sec, off + 64)]
    | 9 => []
    | _ => [(sec, off + 64)]

/-- The nodes that control can reach. The first argument bounds their number. -/
def State.nodesFrom (s : State) (o : Obj) : Nat → List (Nat × Nat) → List (Nat × Nat) → List (Nat × Nat)
  | 0, _, seen => seen
  | _, [], seen => seen
  | n + 1, x :: rest, seen =>
    if seen.contains x then s.nodesFrom o n rest seen
    else s.nodesFrom o n (s.nodeNexts o x.1 x.2 ++ rest) (x :: seen)

/-- The nodes of a task graph, first met first. -/
def State.launchNodes (s : State) (o : Obj) (first : Nat) : List (Nat × Nat) := (s.nodesFrom o setFuel [(first, first)] []).reverse

/-- The graphs that the TASK nodes of a list of nodes name. -/
def State.graphsOf (s : State) (o : Obj) (l : List (Nat × Nat)) : List Nat :=
  lnub [] (l.filterMap fun x => let n := s.nodeAt o x.2
    if nodeKind n = 1 then some (nodeF4 n) else none)

/-- A field of the header of a graph of an object (R160). -/
def State.graphField (s : State) (o : Obj) (g off n : Nat) : Nat := s.seg o (s.seg o (s.seg o 0x18 4 + 4 * g) 4 + off) n

/-- The phase graphs of a graph of an object: itself, or those of a stack (R57, R160). -/
def State.phasesOf (s : State) (ob g : Nat) : List Nat :=
  match s.graphView ob g with
  | some v => (v.phases.filter fun i => decide (i < v.ngraph))
  | none => [g]

/-- The graphs of a task graph that have a budget: those that TASK nodes name, and the phase graphs of stacks (R57, R173, R262). -/
def State.budgetGraphs (s : State) (ob : Nat) (o : Obj) (first : Nat) : List Nat :=
  let gs := s.graphsOf o (s.launchNodes o first)
  lnub [] (gs ++ gs.flatMap (s.phasesOf ob))

/-- The pages that hold the phase list of a stack (R57, R160). -/
def State.stackPages (s : State) (ob : Nat) (o : Obj) (g : Nat) : List Nat :=
  match s.graphView ob g with
  | some v => if v.phases.length ≤ 1 then [] else pagesOf (s.graphField o g 0x48 4 + 8 * v.f 0x0E 2) (8 * ((v.phases.length + 3) / 4))
  | none => []

/-- The budget of the graphs of a task graph (R173, R262). -/
def State.graphBudget (s : State) (ob : Nat) (o : Obj) (first : Nat) : Nat :=
  lmax ((s.budgetGraphs ob o first).map fun g => s.graphField o g 0x24 4)

/-- The level of the KERF field of the launch's first graph (R246). -/
def State.graphLevel (s : State) (o : Obj) (first : Nat) : Nat :=
  match (s.graphsOf o (s.launchNodes o first)).head? with
  | some g => (BitVec.ofNat 32 (s.graphField o g 0x2C 4)).extractLsb' 16 7 |>.toNat
  | none => 0

/-! ## LAUNCH (R262, R263, R398) -/

/-- The object and offset that a LAUNCH names: the first node of a `.tasks` section of a registered, untainted object. -/
def State.launchObj (s : State) (p : Packet) : Option (Nat × Obj × Nat) :=
  let va := ((p.dbl 1).extractLsb' 0 57).toNat
  match s.objAt (Packet.pasid p) va with
  | some (i, o) => if !o.tainted && !o.lost && (s.taskSecs o).contains (va - o.va) then some (i, o, va - o.va) else none
  | none => none

/-- Whether a LAUNCH may start: its object, its routine, and UNSIGNED_OK for an unsigned object (R165, R375, R398). -/
def State.launchOk (s : State) (aqi : Nat) (p : Packet) : Bool :=
  match s.launchObj p with
  | some (_, o, _) =>
    let fsr := p.dbl 4
    (!fsr.getLsbD 16 || decide ((fsr.extractLsb' 0 16).toNat < (s.coreSecs o).length)) &&
      (o.signed || ((aget aqi s.aqis).map (·.unsignedOk)).getD false)
  | none => false

/-- The pages that the sequencer reads to start a LAUNCH: the directories of sections, and where the budget or the level is
the graphs', the nodes that control can reach with the directory entries and headers of their graphs (R165, R173, R246,
R262). -/
def State.launchPages (s : State) (p : Packet) (ob : Nat) (o : Obj) : List Nat :=
  let d3 := p.dbl 3
  s.sectionPages o ++
    if d3.extractLsb' 0 32 == 0 || d3.getLsbD 39 then
      let first := ((p.dbl 1).extractLsb' 0 57).toNat - o.va
      let gs := s.budgetGraphs ob o first
      (s.launchNodes o first).flatMap (fun n => pagesOf n.2 64) ++ s.gdirPages o gs ++
        gs.flatMap fun g => s.stackPages ob o g ++ pagesOf (s.seg o (s.seg o 0x18 4 + 4 * g) 4) 0x60
    else []

/-- The object that a LAUNCH names, with its number, while it may be read (R166, R398). -/
def State.launchReads (s : State) (p : Packet) : Option (Nat × Obj) :=
  if p.byte 0 != 1 then none
  else (s.objAt (Packet.pasid p) ((p.dbl 1).extractLsb' 0 57).toNat).filter fun z => !z.2.tainted && !z.2.lost

/-- Whether a LAUNCH waits for the hash of a page that it reads (R165). -/
def State.launchWaits (s : State) (p : Packet) : Bool :=
  match s.launchReads p with
  | some (i, o) => (s.launchPages p i o).any o.unhashed
  | none => false

/-- The launch that a LAUNCH packet starts. -/
def State.newLaunch (s : State) (aqi q : Nat) (p : Packet) (i : Nat) (o : Obj) (first : Nat) : Launch :=
  let d3 := p.dbl 3
  let df := d3.getLsbD 39
  let lctx := Packet.lctx p
  let budget := (d3.extractLsb' 0 32).toNat
  let l := if df then s.graphLevel o first else (d3.extractLsb' 32 7).toNat
  let c := s.ctx lctx
  let held := (c.map fun c => c.pausing || c.paused).getD false
  let fsr := p.dbl 4
  { lctx := lctx, aqi := aqi, q := q, useq := useqOf p, cls := Packet.cls p, deadline := p.dbl 2,
    budget := if budget = 0 then s.graphBudget i o first else budget, optin := d3.getLsbD 43,
    pat := if df then none else some (d3.extractLsb' 40 3).toNat, defaults := df,
    fsr := if fsr.getLsbD 16 then some (fsr.extractLsb' 0 16).toNat else none, farg := p.dbl 5, obj := i, l := l, lOld := l,
    lAt := 0, lSet := true, scut := 0, pcut := 0, frz := false, updates := [], ceWas := 0, frzWas := false, recs := [],
    look := some first, list := first, calls := [], passes := [], ahead := [], joinHeld := false, chain := none, sets := [],
    rseq := 0, wrapList := none, inWrap := false, ended := false, halted := false, cancelled := false, absent := false,
    stopDone := false, deadlineDone := false, paused := held, anyFailed := false, anyDeadline := false }

/-- The stop instant of a launch, in TAI ns (R173). -/
def Launch.stopAt (x : Launch) : Int := x.deadline.toNat - (x.budget : Int)
/-- Whether a launch has a deadline. -/
def Launch.timed (x : Launch) : Bool := x.deadline != BitVec.allOnes 64

/-- `LAUNCH` (R398). It waits for the hashes of the pages it reads; one that fails taints the object, and the packet is then
refused (R165, R166; log entry 93). A launch whose stop instant has passed starts nothing (R263). -/
def execLaunch (aqi q : Nat) (p : Packet) (s : State) : Host.Outcome State Fault Refusal :=
  .next (s.request aqi q p (s.launchWaits p || s.launchOk aqi p) fun s =>
    if s.launchWaits p then s
    else match s.launchObj p with
    | none => s
    | some (i, o, first) =>
      let x := s.newLaunch aqi q p i o first
      if x.timed && decide (x.stopAt < (s.clock.start.toNat : Int)) then
        (s.requestNext aqi q).complete aqi q (useqOf p) 2 x.lctx
      else
        let s := s.requestNext aqi q
        (({ s with launches := s.launches ++ [(s.nextLaunch, x)], nextLaunch := s.nextLaunch + 1 } : State)).postCeil s.nextLaunch)

/-! ## Halts (R369) -/

/-- A record of the sequencer (R369, R384), for a TCB and a graph where a task fails with it. -/
def State.seqRecord (s : State) (l : Nat) (code : BitVec 7) (detail tcb graph : Nat) : State :=
  match s.launch l with
  | none => s
  | some x =>
    s.queueFault x.lctx l
      { origin := originWord x.lctx 0 0 15 code, graph := graph, who := 0xFFFF, tcb := tcb, code := code.zeroExtend 8, struct := true,
        fit := false, holder := 0xFFFF, detail := BitVec.ofNat 32 detail }

/-- The look-ahead stage halts at a node (R369). -/
def State.lookHalt (s : State) (l : Nat) (n : Packet) (off : Nat) (code : BitVec 7) (detail : Nat) : State :=
  (s.seqRecord l code detail 0 0).modLaunch l fun x =>
    { x with look := none, ahead := x.ahead ++ [{ node := n, off := off, arm := none, halt := some (code, BitVec.ofNat 32 detail) }] }

/-- The issue stage halts at its node (R363, R366, R368). -/
def State.issueHalt (s : State) (l : Nat) (code : BitVec 7) (off : Nat) : State :=
  (s.seqRecord l code off 0 0).modLaunch l fun x => { x with look := none, ahead := [], halted := true, joinHeld := false }

/-! ## The look-ahead stage (R311, R369, R370) -/

/-- The pass counts once control has passed to the node at `next` from the node before it: a LOOP whose body begins there
starts again from 1, for which no count is kept (R313). A jump into the body from elsewhere keeps the count (log entry 98).
-/
def State.enterBody (s : State) (o : Obj) (depth next : Nat) (passes : List (Nat × Nat × Nat)) : List (Nat × Nat × Nat) :=
  passes.filter fun z => !(z.1 == depth && ((s.nodeAt o z.2.1).dbl 2).extractLsb' 0 32 == BitVec.ofNat 32 next)

/-- What the look-ahead stage does with a node that has passed its checks. The word of a predicate is read once the tasks
before it are issued (R311), as it is performed at PKG, or at SYS in space 3 (R353). -/
def State.lookNode (s : State) (l : Nat) (x : Launch) (o : Obj) (off : Nat) (n : Packet) : State :=
  let d2 := n.dbl 2
  let depth := x.calls.length
  let go (arm : Option Nat) (next : Option Nat) (f : Launch → Launch) : State :=
    s.modLaunch l fun x => f
      { x with look := next, ahead := x.ahead ++ [{ node := n, off := off, arm := arm, halt := none }],
               passes := if next = some (off + 64) then s.enterBody o depth (off + 64) x.passes else x.passes }
  let word := refAddr o.va (n.dbl 1)
  let taken : Option Nat := s.readVa x.lctx word 4
  let waits := x.ahead.any (fun a => nodeKind a.node == 1) || s.vaPending x.lctx word 4
  match nodeKind n with
  | 2 =>
    if waits then s
    else match taken with
      | none => s.lookHalt l n off Code.illegal off
      | some v =>
        let next := if v ≠ 0 then (d2.extractLsb' 0 32).toNat else (d2.extractLsb' 32 32).toNat
        (go (some next) (some next) id).touchVa x.lctx word 4
  | 3 =>
    if waits then s
    else match taken with
      | none => s.lookHalt l n off Code.illegal off
      | some v =>
        let count := ((x.passes.find? fun z => z.1 == depth && z.2.1 == off).map (·.2.2)).getD 1
        let others (x : Launch) := x.passes.filter fun z => !(z.1 == depth && z.2.1 == off)
        if v ≠ 0 ∧ count < (d2.extractLsb' 32 16).toNat then
          let next := (d2.extractLsb' 0 32).toNat
          (go (some next) (some next) fun x => { x with passes := (depth, off, count + 1) :: others x }).touchVa x.lctx word 4
        else (go (some (off + 64)) (some (off + 64)) fun x => { x with passes := others x }).touchVa x.lctx word 4
  | 4 => go none (some (off + 64)) fun x => { x with joinHeld := true }
  | 5 =>
    go none (some (nodeF4 n)) fun x =>
      { x with calls := (off + 64, x.list) :: x.calls, list := nodeF4 n, passes := x.passes.filter fun z => decide (z.1 ≤ depth) }
  | 9 =>
    match x.calls with
    | [] => go none none id
    | (ret, list) :: rest => go (some ret) (some ret) fun x =>
        { x with calls := rest, list := list, passes := s.enterBody o rest.length ret x.passes }
  | _ => go none (some (off + 64)) id

/-- Pages that the look-ahead stage reads with a node: the node's and those of the directories its offsets are held to, and
for a TASK node those of its graph's directory entry, of its TCB and of the TCB's successor list (R165, R369). -/
def State.nodePages (s : State) (x : Launch) (o : Obj) (off : Nat) (n : Packet) : List Nat :=
  let inObj (va len : Nat) : List Nat := if o.va ≤ va ∧ va < o.va + o.size then pagesOf (va - o.va) len else []
  pagesOf off 64 ++ s.sectionPages o ++ (if nodeKind n = 1 then s.gdirPages o [nodeF4 n] else []) ++
    if nodeKind n = 1 && n.dbl 3 != 0 then
      let tcb := refAddr o.va (n.dbl 3)
      let r := s.tcb x.lctx tcb 0x18
      let list := refAddr (s.tcbBase x.lctx tcb) r
      inObj tcb 64 ++ (if r == 0 then [] else inObj list (8 + 8 * ((s.tcb x.lctx list 0).extractLsb' 0 16).toNat))
    else []

/-- Whether a CALL names a list that is on the call chain, the top-level list included (R369). -/
def Launch.recurses (x : Launch) (n : Packet) : Bool :=
  nodeKind n == 5 && (x.list == nodeF4 n || x.calls.any fun c => c.2 == nodeF4 n)
/-- Whether a CALL would make the call chain 9 deep: the chain is that of the return points pushed (R369; DEDUCED, log entry 114). -/
def Launch.tooDeep (x : Launch) (n : Packet) : Bool := nodeKind n == 5 && decide (x.calls.length + 1 > 8)

/-- The first check of R369 that a node fails before its pages' hashes count, with its code. -/
def State.nodeFails (s : State) (x : Launch) (o : Obj) (off : Nat) (n : Packet) : Option (BitVec 7) :=
  if !s.nodeOk o x.list off n then some Code.illegal
  else if x.recurses n then some Code.graphRecurse
  else if x.tooDeep n then some Code.graphDepth
  else none

/-- Whether a TCB lies in a live task set of the package (R363, R366). -/
def State.inLiveSet (s : State) (lctx tcb : Nat) : Bool :=
  let space (c : Nat) : Option Nat := (s.ctx c).map Ctx.pasid
  s.launches.any fun z => space z.2.lctx == space lctx && z.2.sets.any fun t => t.tcbs.contains tcb && !s.setFinal lctx t.tcbs

/-- The TCB of a TASK node (R363): the one it names, a pool entry, `none` while no entry is free. -/
inductive NodeTcb where
  | named (va : Nat)
  | pool (va : Nat)
  | wait
  | empty
deriving DecidableEq, Repr

@[inherit_doc NodeTcb]
def State.nodeTcb (s : State) (x : Launch) (objVa : Nat) (n : Packet) : NodeTcb :=
  if n.dbl 3 != 0 then .named (refAddr objVa (n.dbl 3))
  else match s.ctx x.lctx with
    | none => .empty
    | some c =>
      if c.poolN = 0 then .empty
      else match ((List.range c.poolN).map fun i => c.pool + 64 * i).find? fun va => !s.inLiveSet x.lctx va with
        | some va => .pool va
        | none => .wait

/-- A reference of RK 1 to an address, as the TCB at `tcb` counts it (R363; log entry 119). -/
def State.tcbRef (s : State) (x : Launch) (tcb va : Nat) : Dbl :=
  BitVec.ofNat 64 (2 ^ 62 + (va + 2 ^ 57 - s.tcbOrigin x tcb) % 2 ^ 57)

/-- Write GRAPH, FRAME and the hints of a TASK node into its TCB, and for a pool TCB its other program fields (R363). -/
def State.fillTcb (s : State) (x : Launch) (o : Obj) (tcb : Nat) (pool : Bool) (n : Packet) : State :=
  let hdr := o.va + s.seg o (s.seg o 0x18 4 + 4 * nodeF4 n) 4
  let c := x.lctx
  let s := s.setTcb c tcb 0 (s.tcbRef x tcb hdr)
  let s := s.setTcb c tcb 8 (n.dbl 1)
  let s := if n.dbl 2 != 0 then s.setTcb c tcb 0x20 (n.dbl 2) else s
  if pool then (((s.setTcb c tcb 0x10 (BitVec.ofNat 64 (2 ^ 48))).setTcb c tcb 0x18 0).setTcb c tcb 0x28 0) else s

/-- Prepare a TCB of a task set (R366). -/
def State.prepareTcb (s : State) (x : Launch) (root tcb : Nat) : State :=
  let d := s.tcb x.lctx tcb 0x10
  let init := (d.extractLsb' 48 16).toNat
  let own := tcb = root
  let v := init * 2 ^ 48 + x.inWrap.toNat * 2 ^ 41 + (if own then 2 ^ 40 else 0) + x.cls * 2 ^ 36 + (if own then 0 else init)
  ((s.setTcb x.lctx tcb 0x10 (BitVec.ofNat 64 v)).setTcb x.lctx tcb 0x30 0).setTcb x.lctx tcb 0x38 0

/-- The task of a TASK node a page of which fails its hash ends FAILED with LOAD_HASH, and its successors with it (R166, R367). A
node that R366 would refuse, or for which no pool TCB is free, has no task; the TCB is the answer otherwise. -/
def State.hashTask (s : State) (x : Launch) (o : Obj) (n : Packet) : Option (Nat × Bool) :=
  if nodeKind n ≠ 1 then none
  else
    let ok (tcb : Nat) (pool : Bool) : Option (Nat × Bool) :=
      let set := if pool then [tcb] else s.taskSet x.lctx tcb
      if (set.any fun v => s.inLiveSet x.lctx v) || (!pool && s.selfNaming x.lctx set) then none else some (tcb, pool)
    match s.nodeTcb x o.va n with
    | .named va => ok va false
    | .pool va => ok va true
    | _ => none

/-- The look-ahead stage halts at a node a page of which fails its hash (R166, R369). -/
def State.hashHalt (s : State) (l : Nat) (x : Launch) (o : Obj) (off : Nat) (n : Packet) (page : Nat) : State :=
  match s.hashTask x o n with
  | none => s.lookHalt l n off Code.loadHash (page * pageBytes)
  | some (tcb, pool) =>
    let set := if pool then [tcb] else s.taskSet x.lctx tcb
    let s := (s.seqRecord l Code.loadHash (page * pageBytes) tcb (nodeF4 n)).modLaunch l fun x =>
      { x with look := none, sets := x.sets ++ [{ tcbs := set }],
               ahead := x.ahead ++ [{ node := n, off := off, arm := none, halt := some (Code.loadHash, BitVec.ofNat 32 (page * pageBytes)) }] }
    (set.foldl (fun s v => s.prepareTcb x tcb v) (s.fillTcb x o tcb pool n)).finish l tcb 5
      (resultOf 0xFFFF (nodeF4 n) 1 Code.loadHash.toNat false)

/-- The look-ahead stage reads a node (R369). It waits while 64 nodes are ahead, at a JOIN (R312), at a predicate whose
tasks are not issued (R311), and for the hash of a page (R165). -/
def execLookaheadNodeRead (l : Nat) (s : State) : Host.Outcome State Fault Refusal :=
  match s.launch l with
  | none => .next s
  | some x =>
    match x.look, s.objs[x.obj]? with
    | some off, some o =>
      if x.joinHeld || x.ahead.length ≥ 64 || x.halted || x.cancelled || !s.powered then .next s
      else
        let n := s.nodeAt o off
        if !o.registered then .next (s.lookHalt l n off Code.loadHash off)
        else if (pagesOf off 64 ++ s.sectionPages o).any o.unhashed then .next s
        else match s.nodeFails x o off n with
        | some code => .next (s.lookHalt l n off code off)
        | none =>
          let pages := s.nodePages x o off n
          if pages.any o.unhashed then .next s
          else match pages.find? o.failed.contains with
            | some page => .next (s.hashHalt l x o off n page)
            | none => .next ((s.touchSeg o off 64).lookNode l x o off n)
    | _, _ => .next s

/-! ## The hashes of pages (R165, R166) -/

/-- Whether the look-ahead stage of a launch has read a page of object `obj` with the node it stands at (R369): the pages of
the node first, and those of a node in order after them. -/
def State.lookReads (s : State) (x : Launch) (obj page : Nat) : Bool :=
  match x.look, s.objs[obj]? with
  | some off, some o =>
    let n := s.nodeAt o off
    let own := pagesOf off 64 ++ s.sectionPages o
    x.obj == obj && !x.joinHeld && !x.halted && !x.cancelled && decide (x.ahead.length < 64) &&
      (own.contains page || (!own.any o.unhashed && (s.nodeFails x o off n).isNone &&
        (s.nodePages x o off n).contains page))
  | _, _ => false

/-- Whether the Joiner has read a page of object `obj` for its placement (R165). -/
def Placing.reads (p : Placing) (obj page : Nat) : Bool := p.obj == obj && p.pages.contains page

/-- The packets at the heads of the request queues. -/
def State.queueHeads (s : State) : List Packet :=
  s.aqis.flatMap fun (a : Nat × Aqi) => (intakeQ :: a.2.queues.map (·.1)).filterMap (s.requestHead a.1)

/-- The pages of the nodes that a stop instant looks for TASK nodes among (R165, R266). -/
def State.leftNodes (s : State) (x : Launch) (o : Obj) : List (Nat × Nat) :=
  if x.halted then []
  else s.nodesFrom o setFuel ((x.look.map fun off => (x.list, off)).toList ++ x.calls.map fun c => (c.2, c.1)) []

/-- The stop instant of a launch falls in this fc, or fell in one before, and has not been handled (R260, R262). -/
def State.stopOwed (s : State) (x : Launch) : Bool :=
  x.timed && !x.stopDone && !x.cancelled && decide (x.stopAt ≤ (s.clock.start.toNat : Int))

/-- Whether a stop instant that is due reads a page of object `obj` (R165, R266). -/
def State.stopReads (s : State) (obj page : Nat) : Bool :=
  s.launches.any fun z => z.2.obj == obj && s.stopOwed z.2 && match s.objs[obj]? with
    | some o => (s.leftNodes z.2 o).any fun n => (pagesOf n.2 64).contains page
    | none => false

/-- Whether the sequencer or the Joiner has read a page of object `obj`: with a node, for a placement or for a LAUNCH
(R165). -/
def State.pageRead (s : State) (obj page : Nat) : Bool :=
  ((s.selecting.map fun z => z.2.reads obj page).getD false) || s.stopReads obj page || ((s.placing.map fun p => p.reads obj page).getD false) ||
    s.launches.any (fun z => s.lookReads z.2 obj page) ||
    s.queueHeads.any fun p => match s.launchReads p with
      | some (i, o) => i == obj && (s.launchPages p i o).contains page
      | none => false

/-- The placement in progress, or the ready entry that a selection looks at, fails where it needs a page whose digest does not
match (R166). `was` is the state before the object was tainted. -/
def State.hashFailPlacing (s was : State) (obj page : Nat) : State :=
  match s.placing with
  | none => match was.selecting with
    | some (r, p) =>
      if p.reads obj page then
        (({ s.setTcbState p.lctx r.tcb 2 with
            ready := s.ready.filter fun e => !(e.launch == r.launch && e.tcb == r.tcb), placing := some p }).placeFault p
          Code.loadHash p.graph 0xFFFF (page * pageBytes)).ctxCheck p.lctx
      else s
    | none => s
  | some p => if p.reads obj page then (s.placeFault p Code.loadHash p.graph 0xFFFF (page * pageBytes)).ctxCheck p.lctx else s

/-- The look-ahead stages that need the page halt at their nodes, by the first check of R369 that each fails (R166, R369). -/
def State.hashFailLooks (s : State) (obj page : Nat) : State :=
  s.launches.foldl (fun s' z =>
    if s.lookReads z.2 obj page then
      match z.2.look, s.objs[obj]? with
      | some off, some o =>
        let n := s.nodeAt o off
        match s.nodeFails z.2 o off n with
        | some code => s'.lookHalt z.1 n off code off
        | none => s'.hashHalt z.1 z.2 o off n page
      | _, _ => s'
    else s') s

/-- The hash of a page that the sequencer or the Joiner has read completes (R165, R166): the page is verified, or the object
is tainted and what needed the page fails in this fc. -/
def execPageHashComplete (obj page : Nat) (s : State) : Host.Outcome State Fault Refusal :=
  match s.objs[obj]? with
  | none => .next s
  | some o =>
    if !o.unhashed page || !s.pageRead obj page then .next s
    else if s.pageGood o page then
      .next ((s.touchSeg o (page * pageBytes) pageBytes).modObj obj fun o => { o with verified := page :: o.verified })
    else
      let s' := ((s.touchSeg o (page * pageBytes) pageBytes).modObj obj fun o => { o with failed := page :: o.failed }).taint obj
      .next ((s'.hashFailLooks obj page).hashFailPlacing s obj page)

/-! ## The issue stage (R310, R312, R368) -/

/-- Whether the issue stage may pass a node now: it is the next, and neither a pause nor a power failure holds the stage. -/
def State.issuing (s : State) (l : Nat) (n : Packet) : Option Launch :=
  match s.launch l with
  | none => none
  | some x =>
    if x.paused || x.halted || x.cancelled || x.ended || !s.powered then none
    else match x.ahead with
      | a :: _ => if a.halt.isNone && a.node == n then some x else none
      | [] => none

/-- Offset of the node at the head. -/
def Launch.headOff (x : Launch) : Nat := (x.ahead.head?.map (·.off)).getD 0

/-- The issue stage passes its node. -/
def State.passNode (s : State) (l : Nat) : State := s.modLaunch l fun x => { x with ahead := x.ahead.drop 1 }

/-- A TASK node (R310, R363, R366): it waits for its predecessor, and for a pool TCB. -/
def execNodeTask (l : Nat) (n : Packet) (s : State) : Host.Outcome State Fault Refusal :=
  match s.issuing l n with
  | none => .next s
  | some x =>
    match s.objs[x.obj]? with
    | none => .next s
    | some o =>
      if !((x.chain.map fun set => s.setFinal x.lctx set).getD true) then .next s
      else
        let issue (tcb : Nat) (pool : Bool) : State :=
          let set := if pool then [tcb] else s.taskSet x.lctx tcb
          if (set.any fun v => s.inLiveSet x.lctx v) || (!pool && s.selfNaming x.lctx set) then s.issueHalt l Code.illegal x.headOff
          else
            let s := set.foldl (fun s v => s.prepareTcb x tcb v) (s.fillTcb x o tcb pool n)
            let s := s.modLaunch l fun y =>
              { y with sets := y.sets ++ [{ tcbs := set }], chain := some set }
            (s.passNode l).enterReady l tcb
        match s.nodeTcb x o.va n with
        | .named va => .next (issue va false)
        | .pool va => .next (issue va true)
        | .wait => .next s
        | .empty => .next (s.issueHalt l Code.illegal x.headOff)

/-- A node that the look-ahead stage has resolved is passed (R311, R368). -/
def State.passResolved (s : State) (l : Nat) (n : Packet) (f : Launch → Launch) : State :=
  match s.issuing l n with
  | none => s
  | some _ => (s.passNode l).modLaunch l f

/-- A COND node: the arm was resolved when the look-ahead stage reached it (R311, R313). -/
def execNodeCond (l : Nat) (n : Packet) (s : State) : Host.Outcome State Fault Refusal := .next (s.passResolved l n id)

/-- A LOOP node, resolved likewise (R311, R313, R370). -/
def execNodeLoop (l : Nat) (n : Packet) (s : State) : Host.Outcome State Fault Refusal := .next (s.passResolved l n id)

/-- A CALL node: the look-ahead stage has pushed its return point (R369). -/
def execNodeCall (l : Nat) (n : Packet) (s : State) : Host.Outcome State Fault Refusal := .next (s.passResolved l n id)

/-- A WRAP node records the launch's wrap-up list (R368). -/
def execNodeWrap (l : Nat) (n : Packet) (s : State) : Host.Outcome State Fault Refusal :=
  .next (s.passResolved l n fun x => { x with wrapList := some (nodeF4 n) })

/-- A JOIN node: passed when every task issued before it is final (R312). -/
def execNodeJoin (l : Nat) (n : Packet) (s : State) : Host.Outcome State Fault Refusal :=
  .next (if s.allFinal l then s.passResolved l n fun x => { x with joinHeld := false } else s)

/-- A WAIT node: it holds the issue stage until the counter reaches VALUE; a poisoned counter halts the walk with INVALID
(R368). -/
def execNodeWait (l : Nat) (n : Packet) (s : State) : Host.Outcome State Fault Refusal :=
  match s.issuing l n with
  | none => .next s
  | some x =>
    if s.tlBad (nodeF4 n) then .next (s.issueHalt l Code.invalid x.headOff)
    else if (s.tl (nodeF4 n)).toNat ≥ (n.dbl 1).toNat then .next (s.passNode l)
    else .next s

/-- A SIGNAL node: it waits, as JOIN does, and adds INCR (R368). -/
def execNodeSignal (l : Nat) (n : Packet) (s : State) : Host.Outcome State Fault Refusal :=
  match s.issuing l n with
  | none => .next s
  | some x =>
    if !s.allFinal l then .next s
    else if s.tlBad (nodeF4 n) then .next (s.issueHalt l Code.invalid x.headOff)
    else .next ((s.tlAdd (nodeF4 n) (n.dbl 1)).passNode l)

/-- An END node: the return of a CALL, or the end of the top-level list, beyond which nothing is read (R368, R369). -/
def execNodeEnd (l : Nat) (n : Packet) (s : State) : Host.Outcome State Fault Refusal :=
  match s.issuing l n with
  | none => .next s
  | some x =>
    if (x.ahead.head?.bind (·.arm)).isSome then .next (s.passNode l)
    else .next ((s.passNode l).modLaunch l fun y => { y with ended := true, look := none, ahead := [] })

end Sys2Proof.Machine
end

