-- ==== Sys2Proof/Machine/Tasks.lean ====
section
/-! DEFINITION. What ends, stops, pauses and steps tile tasks, and what ends launches (01_running_sum_replaced.md R11 to
R13; 03_graphs_and_the_joiner.md R53, R58; 14_deadlines_power_steps.md R264 to R271; 20_ordering.md R362; 21_task_graphs.md
R364, R371; 22_lu_with_fault.md R373 to R375; 23_scheduling_faults.md R383, R386, R387, R390, R394;
24_host_links_power_fail.md R398). -/
namespace Sys2Proof.Machine

/-! ## Poison at sinks (R373, R374) -/

/-- The operator of a task that an origin word names in the current placement, 0xFFFF for none (R33, R373). -/
def Task.whoAt (k : Task) (w : Word) : Nat :=
  if (w.extractLsb' 24 8).toNat = k.lctx then
    (lfind (fun p => p.place.x == (w.extractLsb' 17 7).toNat && p.place.y == (w.extractLsb' 11 6).toNat &&
      p.unit == (w.extractLsb' 7 4).toNat) k.ops).getD 0xFFFF
  else 0xFFFF

/-- The earlier of two receipts of poison; the first argument wins a tie (R373). -/
def firstOf : Option SinkPoison → Option SinkPoison → Option SinkPoison
  | some a, some b => if a.fc ≤ b.fc then some a else some b
  | some a, none => some a
  | none, b => b

/-- The first poison that a sink of a task has received, with ties to the lower operator index (R373). -/
def Task.firstPoison (k : Task) : Option SinkPoison :=
  k.ops.zipIdx.foldl (fun best (x : Op × Nat) => firstOf best (x.1.poison.map fun q =>
    { fc := q.2, origin := q.1, who := k.whoAt q.1, graph := k.graphIndex, holder := x.2 })) k.oldPoison

/-- A record for poison that a sink received (R374): the first record of a task gives it its RESULT (R365). -/
def State.poisonRecord (s : State) (t : Nat) (q : SinkPoison) : State :=
  match s.task t with
  | none => s
  | some k =>
    let code := q.origin.extractLsb' 0 7
    let r : FaultRec :=
      { origin := q.origin, graph := q.graph, who := q.who, tcb := k.tcb, code := code.zeroExtend 8, struct := false, fit := false,
        holder := q.holder, detail := 0 }
    (s.queueFault k.lctx k.launch r).modTask t fun k =>
      if k.faulted then k else { k with faulted := true, result := resultOf q.who q.graph 1 code.toNat false }

/-! ## Nodes that wait for a done token which never comes (R362) -/

/-- Consumers of the channels of a list of operators, and theirs in turn. -/
def downstream (chans : List Chan) : Nat → List Nat → List Nat
  | 0, l => l
  | n + 1, l => downstream chans n (lnub [] (l ++ chans.filterMap fun c => if l.contains c.prodOp then some c.consOp else none))

/-- The origin of the poisoned access of a memory node, if it has one. -/
def Op.badOrigin (p : Op) : Option Word :=
  match p.kind with
  | .mem m => m.bad
  | _ => none

/-- The operators that wait on the ordering edges of a node with a poisoned access (R362). -/
def Task.blocked (k : Task) : List Nat :=
  downstream k.chans k.ops.length (k.chans.filterMap fun c =>
    if c.order && ((k.ops[c.prodOp]?).bind Op.badOrigin).isSome then some c.consOp else none)

/-- A copy engine none of whose streams or trigger ports is bound holds no done token (R347, R371). -/
def Task.streamless (k : Task) (o : Nat) : Bool :=
  match k.ops[o]? with
  | some p => match p.kind with
    | .copy _ => !(k.chans.any fun c => c.consOp == o && !c.order)
    | _ => false
  | none => false

/-- Whether every sink holds its done token, but for those that wait under R362 (R371). -/
def Task.sinksDone (k : Task) : Bool :=
  let waiting := k.blocked
  k.ops.zipIdx.all fun (x : Op × Nat) => !k.isSink x.2 || x.1.heldDone || waiting.contains x.2 || k.streamless x.2

/-- Live subgraphs that a task spawned (R60). -/
def State.hasKids (s : State) (t : Nat) : Bool := s.tasks.any fun z => (z.2.parent.map (·.1)) == some t

/-- A spawn that a task asked for has not ended (R60). -/
def State.spawning (s : State) (t : Nat) : Bool :=
  let asks (q : PReq) : Bool := match q with
    | .spawn t' _ _ => t' == t
    | _ => false
  s.requests.any asks || ((s.placing.map fun p => asks p.req)).getD false

/-- The completion conditions of R371: a stack with sinks that wait under R362 steps no further. -/
def State.taskOver (s : State) (t : Nat) (k : Task) : Bool :=
  (decide (k.phase + 1 ≥ k.graphs.length) || !k.blocked.isEmpty) && k.ops.all (·.fault.isNone) && k.sinksDone && !k.storesOut &&
    !s.hasKids t && !s.spawning t

/-! ## Stopping and removing a task (R383) -/

/-- An operator of a stopped task: its stalled accesses are withdrawn, and a later freeze queues no record (R383, R386). -/
def Op.stopped (p : Op) : Op :=
  let kind : OpKind := match p.kind with
    | .mem m => .mem { m with stall := none }
    | .copy c => .copy { c with slots := c.slots.map fun y => { y with stall := none } }
    | k => k
  { p with kind := kind, recorded := p.recorded || p.fault.isNone }

/-- A placement or a request that belongs to one of a list of tasks. -/
def PReq.ofTasks (q : PReq) (ids : List Nat) : Bool :=
  match q with
  | .ready _ => false
  | .again t => ids.contains t
  | .spawn t _ _ => ids.contains t

/-- Placements and requests that a test picks out are dropped. -/
def State.dropRequests (s : State) (p : PReq → Bool) : State :=
  { s with requests := s.requests.filter fun q => !p q,
           placing := s.placing.bind fun x => if p x.req then none else some x }

/-- Tasks are stopped, those that were stopping before among them where `again` says so; `quiet` drops the records that their frozen
nodes have not queued yet (R364, R383, R386, R404). -/
def State.stopTasks (s : State) (ids : List Nat) (endState : Nat) (again quiet : Bool) : State :=
  let stop (k : Task) : Task :=
    if k.status == .stopping && !again then k
    else { k with status := .stopping, endState := endState, ops := k.ops.map fun p =>
             let p := p.stopped
             { p with recorded := p.recorded || quiet } }
  ({ s with tasks := avals (fun t k => if ids.contains t then stop k else k) s.tasks,
            pageReqs := s.pageReqs.filter fun r => !ids.contains r.t } : State).dropRequests fun q => q.ofTasks ids

/-- A tile task and its subgraphs are stopped by a freeze (R383). -/
def State.stopFamily (s : State) (t : Nat) : State := s.stopTasks ((s.family t).map (·.1)) 5 false false

/-- A context of a kept PAUSE whose task ends pauses now (R11). -/
def State.stopCondEnds (s : State) (t lctx : Nat) : State :=
  if ((s.ctx lctx).bind (·.stopTask)) == some t then s.pauseTakesEffect lctx else s

/-- A task is gone: its bay is free, and everything that waited for it is dropped (R270, R383). -/
def State.removeTask (s : State) (t : Nat) : State :=
  let lctx := s.lctxOf t
  let s := (s.freeBay t).dropUsers t
  let s : State := { s with
    tasks := adel t s.tasks,
    pageReqs := s.pageReqs.filter fun r => r.t != t,
    spans := s.spans.filter fun x => x.write || x.bank.isSome || x.core.isSome || x.t != t,
    spawnReplies := s.spawnReplies.filter fun x => x.1 != t,
    msgs := s.msgs.filter fun m => (m.target.map (·.1)) != some t }
  ((s.dropRequests fun q => q.ofTasks [t]).stopCondEnds t lctx).ctxCheck lctx

/-! ## Contexts that are torn down (R402, R404) -/

/-- Nothing of a context is left to run. -/
def State.ctxOver (s : State) (c : Nat) : Bool :=
  !(s.launches.any fun l => l.2.lctx == c) && !(s.tasks.any fun k => k.2.lctx == c) && (s.placing.map (·.lctx)) != some c

/-- A context and its resources are freed. -/
def State.dropCtx (s : State) (c : Nat) : State :=
  { s with ctxs := adel c s.ctxs,
           buffers := s.buffers.filter fun (b : Nat × Dbl) => !(((s.ctx c).map (·.hasBuf b.1)).getD false),
           banks := avals (fun _ b => { b with queues := adel c b.queues, running := adel c b.running }) s.banks,
           spans := s.spans.filter fun x => (x.bank.map (·.2)) != some c,
           msgs := s.msgs.filter fun m => !(m.packet.engine == 5 && Packet.ctx m.packet == c) }

/-- The queues and interrupt entries of a reset AQI are destroyed (R404 step 6). -/
def State.clearAqi (s : State) (a : Nat) : State :=
  { s with aqis := amod a (fun x => { x with queues := [], irqs := [] }) s.aqis }

/-- Whether what a waiting admin command tears down is gone. -/
def State.waitOver (s : State) (w : AdminWait) : Bool :=
  match w with
  | .destroy c => (s.ctx c).isNone
  | .aqiReset a => !(s.ctxs.any fun c => c.2.dead && c.2.aqi == a)
  | .revoke p => !(s.ctxs.any fun c => c.2.dead && c.2.pasid == p)
  | .functionReset => !(s.ctxs.any fun c => c.2.dead)
  | _ => false

/-- An admin command that waits for a teardown completes. -/
def State.endWait (s : State) (w : AdminTag × AdminWait) : State :=
  if !s.waitOver w.2 then s
  else match w.2 with
    | .aqiReset a => (s.clearAqi a).adminFinish w true
    | .functionReset =>
      { s with aqis := avals (fun _ x => { x with queues := [], irqs := [] }) s.aqis, adminQ := [], adminComp := [], adminTail := 0,
                adminPhase := true, adminWait := [] }
    | _ => s.adminFinish w true

/-- Contexts that are over and dead are freed, and the commands that waited for them complete. -/
def State.reap (s : State) : State :=
  let gone := (s.ctxs.filter fun c => c.2.dead && s.ctxOver c.1).map (·.1)
  let s := gone.foldl State.dropCtx s
  s.adminWait.foldl State.endWait s

/-! ## Freezes (R383, R386, R394) -/

/-- A freeze whose record has to be queued in this fc (R383). -/
def Op.recordDue (p : Op) : Bool := p.fault.isSome && !p.recorded && decide (64 ≤ p.faultFor)

/-- Within 64 fc of a freeze its record is queued, and the task is stopped (R383). -/
def execFreezeRecord (t o : Nat) (s : State) : Host.Outcome State Fault Refusal :=
  match s.op t o with
  | none => .next s
  | some p =>
    match p.fault with
    | none => .next s
    | some (code, detail) =>
      if p.recorded then .next s
      else
        .next (((s.taskRecord t o (s.origin t o code) code true 0xFFFF detail).modOp t o fun p => { p with recorded := true }).stopFamily t)

/-- A whole task is frozen with a structural code: the record names no operator (R271, R394). -/
def State.taskFreeze (s : State) (t : Nat) (code : BitVec 7) (detail : Word) : State :=
  (s.taskRecord t 0xFFFF (originWord (s.lctxOf t) 0 0 15 code) code true 0xFFFF detail).stopFamily t

/-- A number clamped to a signed 32-bit word (R384). -/
def clamp32 (v : Int) : Word := BitVec.ofInt 32 (max (-(2 ^ 31)) (min (2 ^ 31 - 1) v))

/-- The token balance of a tile task with its subgraphs (R60, R392). -/
def State.familyBalance (s : State) (t : Nat) : Int := (s.family t).foldl (fun n z => n + z.2.balance) 0

/-! ## The end of a task (R270, R371, R374, R383) -/

/-- A tile task ends: its writes are performed at PKG, the record of the poison it received is queued, and its TCB takes its
final state (R309, R365, R371, R374). -/
def State.endRoot (s : State) (t : Nat) (wrap : Bool) : State :=
  let s := (s.drainAll t).flushTask t
  match s.task t with
  | none => s
  | some k =>
    let now : SinkPoison :=
      { fc := s.fc, origin := 0, who := 0xFFFF, graph := k.graphIndex, holder := 0xFFFF }
    let held := k.firstPoison
    let bad := if k.blocked.isEmpty || k.status == .stopping then none else (k.ops.findSome? Op.badOrigin).map fun w =>
      { now with origin := w, who := k.whoAt w }
    let s := if k.endState = 7 then s else match held.or bad with
      | some q => s.poisonRecord t q
      | none => s
    let faulted := ((s.task t).map (·.faulted)).getD false
    let result := ((s.task t).map (·.result)).getD 0
    let s := if k.endState = 7 then s.finish k.launch k.tcb 7 (resultOf 0 0 4 0 false) else
      s.finish k.launch k.tcb (if faulted then 5 else 4) (if wrap then result ||| 2 else result)
    s.removeTask t

/-- A subgraph ends: the poison that its sinks received, or that its poisoned accesses gave, counts for the tile task (R60, R362,
R373). -/
def State.endSpawn (s : State) (t parent : Nat) : State :=
  let s := (s.drainAll t).flushTask t
  match s.task t with
  | none => s
  | some k =>
    let bad := if k.blocked.isEmpty || k.status == .stopping then none else (k.ops.findSome? Op.badOrigin).map fun w =>
      { fc := s.fc, origin := w, who := k.whoAt w, graph := k.graphIndex, holder := 0xFFFF : SinkPoison }
    (s.modTask parent fun p => { p with oldPoison := firstOf p.oldPoison (k.firstPoison.or bad) }).removeTask t

/-- A placed graph ends. -/
def State.endTask (s : State) (t : Nat) (wrap : Bool) : State :=
  (match (s.task t).bind (·.parent) with
   | some p => s.endSpawn t p.1
   | none => s.endRoot t wrap).reap

/-- Actors of a task that declare `.wrap` (R96, R265). -/
def Task.wrapActors (k : Task) : List Cell :=
  k.ops.filterMap fun p => match p.kind with
    | .cell c => if (entryOf c.entries 10).isSome then some c else none
    | _ => none

/-- A task is complete by wrap-up: its mark is set, each of its `.wrap` actors has committed, and no store awaits
acknowledgement (R270). -/
def State.wrapOver (s : State) (t : Nat) (k : Task) : Bool :=
  (k.status == .running || k.status == .pausing) && k.wrapMark && !k.wrapActors.isEmpty && k.wrapActors.all (·.committed) &&
    k.ops.all (·.fault.isNone) && !k.storesOut && !s.hasKids t

/-- A stopped task ends: its last acknowledgement has arrived, and each node that froze before the stop has queued its record
(R383, R386). -/
def State.stopOver (s : State) (t : Nat) (k : Task) : Bool :=
  k.status == .stopping && !k.storesOut && !s.hasKids t && k.ops.all fun p => p.fault.isNone || p.recorded

/-- A task meets the conditions of its end in this fc. -/
def State.endsNow (s : State) (t : Nat) (k : Task) : Bool :=
  s.stopOver t k || s.wrapOver t k || ((k.status == .running || k.status == .pausing) && s.taskOver t k)

/-- A task of those that `p` picks out has an outcome of its own in this fc, which comes before a stop instant and a
cancellation (R364, R404). -/
def State.owesEnd (s : State) (p : Task → Bool) : Bool := s.tasks.any fun z => p z.2 && s.endsNow z.1 z.2

/-- A task completes: a running one by R371 (by wrap-up where R270 holds as well; log entry 44), a stopped one when its last
acknowledgement has arrived and each node that froze before the stop has queued its record (R383, R386). -/
def execTaskComplete (t : Nat) (s : State) : Host.Outcome State Fault Refusal :=
  match s.task t with
  | none => .next s
  | some k =>
    match k.status with
    | .paused => .next s
    | .stopping => if s.stopOver t k then .next (s.endTask t false) else .next s
    | _ => if s.taskOver t k then .next (s.endTask t (s.wrapOver t k)) else .next s

/-- A task completes by wrap-up (R270). -/
def execWrapComplete (t : Nat) (s : State) : Host.Outcome State Fault Refusal :=
  match s.task t with
  | none => .next s
  | some k =>
    if s.wrapOver t k then .next (s.endTask t true) else .next s

/-! ## Context stacks (R58) -/

/-- The operators and channels of the next phase take the place of the current ones (R58). The firings of the new operators
count from 0, and a stop condition that names the task goes on with its operator index in the new phase (R11; log entry 88).
-/
def State.startPhase (s : State) (t : Nat) : State :=
  let s := s.flushTask t
  let k := (s.task t).getD default
  let ph := k.phase + 1
  let g := (k.graphs[ph]?).getD default
  let pc := (k.choice.phases[ph]?).getD default
  let s := s.modTask t fun k => { k with ops := [] }
  let ops := s.freshOps k.lctx g pc
  let ops := if k.wrapping then ops.map Op.marked else ops
  let objVa := s.objBase k.obj
  let decls := match s.objs[k.obj]? with
    | some o => s.phaseDecls o k.frame g.rev k.lctx ops
    | none => []
  s.modTask t fun k =>
    { k with phase := ph, ops := ops, chans := laidChans g.chans pc (k.caps.getD ph []) s.fc [],
             tmpls := patchTmpls g ops k.lctx objVa k.frame, decls := decls, balance := 0, oldPoison := k.firstPoison }

/-- Channels of subgraphs that were bound to channels of a phase that is over are bound to none. -/
def State.unbindKids (s : State) (t : Nat) : State :=
  let cut (c : Chan) : Chan := if (c.joined.map (·.1)) == some t then { c with joined := none } else c
  { s with tasks := avals (fun _ k => if (k.parent.map (·.1)) == some t then { k with chans := k.chans.map cut } else k) s.tasks }

/-- The block controllers step a context stack to its next phase (R58). -/
def execPhaseStep (t : Nat) (s : State) : Host.Outcome State Fault Refusal :=
  match s.task t with
  | none => .next s
  | some k =>
    if k.status != .running || decide (k.phase + 1 ≥ k.graphs.length) || !k.blocked.isEmpty || !(k.ops.all (·.fault.isNone)) ||
        !k.sinksDone || k.storesOut || s.spawning t then .next s
    else
      let s := (s.unbindKids t).startPhase t
      let s := s.unmarkEntries (k.entries.map fun e => (e.1, (e.2.drop k.phase).take 1))
      .next ((s.recompute (k.entries.map (·.1))).sendDecls t)

/-! ## The end of a pause (R12, R53, R54, R388, R390) -/

/-- Whether an operator has come to its boundary, but for stores that a write-combining buffer holds: its firing has ended
or is saved where it stands, its reads have been delivered and its other stores acknowledged, the output of the activation
token that a matrix tile has taken is pushed, and a weight load has run to its end (R12, R54, R240). After 4,096 fc a matrix
tile counts as an actor does in what it has not pushed, which is saved where it stands (R390; log entry 89). -/
def Op.stopped? (late : Bool) (p : Op) : Bool :=
  let flying (l : List Acc) : Bool := l.any fun a => !(a.write && a.done)
  p.fault.isNone && match p.kind with
    | .cell c => (c.firing.map (·.saved)).getD true
    | .vec v => (v.firing.map (·.saved)).getD true
    | .mem m => !flying m.accs
    | .walker w => !flying w.accs
    | .spline x => !flying x.accs
    | .fibre f => !flying f.accs
    | .matrix m => (m.out.isEmpty || late) && m.load.isNone
    | .copy _ => true

/-- An operator at its boundary whose stores have all been acknowledged (R12). -/
def Op.settled (late : Bool) (p : Op) : Bool :=
  p.stopped? late && match p.kind with
    | .mem m => m.accs.isEmpty
    | .walker w => w.accs.isEmpty
    | .spline x => x.accs.isEmpty
    | .fibre f => f.accs.isEmpty
    | _ => true

/-- 4,096 fc have passed since the pause of a task took effect, in fc of the slowest block of its bay (R274, R390). -/
def Task.pauseLate (k : Task) : Bool := decide (k.pauseFor ≥ 4096)

/-- A firing is saved where it stands (R390). -/
def State.saveFiring (s : State) (t o : Nat) : State :=
  s.modOp t o fun p => match p.kind with
    | .cell c => { p with kind := .cell { c with firing := c.firing.map fun f => { f with saved := true } } }
    | .vec v => { p with kind := .vec { v with firing := v.firing.map fun f => { f with saved := true } } }
    | _ => p

/-- An operator with a firing that has neither ended nor been saved where it stands. -/
def Op.midFiring (p : Op) : Bool :=
  match p.kind with
  | .cell c => (c.firing.map fun f => !f.saved).getD false
  | .vec v => (v.firing.map fun f => !f.saved).getD false
  | _ => false

/-- A firing that has not ended 4,096 fc after its pause took effect is saved where it stands (R390). -/
def execPauseFiringLimit (t o : Nat) (s : State) : Host.Outcome State Fault Refusal :=
  match s.task t with
  | none => .next s
  | some k => .next (if k.status == .pausing && k.pauseLate then s.saveFiring t o else s)

/-- An operator that holds no handle: a spline sets its mask's draining again when it resumes (R259). -/
def Op.unheld (p : Op) : Op :=
  match p.kind with
  | .spline x => { p with kind := .spline { x with holds := false } }
  | _ => p

/-- Mask handles that a spline of a task is draining return to full (R259). -/
def State.releaseHandles (s : State) (k : Task) : State :=
  k.ops.foldl (fun s p => match p.kind with
    | .spline x =>
      let walk : Option Nat := (k.ops[x.walker]?).bind fun q => match q.kind with
        | .walker w => some w.handle
        | _ => none
      match (x.run.map (·.handle)).or walk with
      | some h => if x.holds then s.setBuf h 2 rankUnit else s
      | none => s
    | _ => s) s

/-- The regions of a task that a pause saves: those declared `.state`, and those that later phases name (R53, R58). -/
def Task.savedRegions (k : Task) : List Region :=
  let later := (k.graphs.drop (k.phase + 1)).flatMap Graph.regionNums
  k.regions.filter fun r => r.isState || later.contains r.num

/-- Bytes whose values the manual does not lay out go to a range of keys (R388; log entry 40). -/
def freeBytes (m : List Host.Cell) (id : Nat) (keys : List Nat) : List Host.Cell :=
  (keys.zipIdx.foldl (fun m (x : Nat × Nat) => memPut m x.1 (Config.saveByte id x.2)) m)

/-- The state of a task is written to its context's save area, after those of the tasks that stand paused (R388, R389). -/
def State.writeSave (s : State) (k : Task) : State :=
  match s.ctx k.lctx with
  | none => s
  | some c =>
    let at_ := lsum ((s.tasks.filter fun z => z.2.lctx == k.lctx && z.2.status == .paused).map fun z => z.2.saveFigure)
    match s.vaKeys k.lctx (c.save + at_) (min k.saveFigure (c.saveLen - at_)) 1 with
    | some keys => { s.bumpId with mem := freeBytes s.mem s.nextId keys }
    | none => s

/-- The pause of a task is complete: its state is saved and its bay freed. A task that moves away from a knot, or whose
wrap-up is due, asks for its re-placement at once (R13, R53, R55, R388). The entries are freed here, as R380 and R388 say,
and not at the re-placement of R24, so that STATE 2 is never reported (log entry 91). -/
def State.savePaused (s : State) (t : Nat) : State :=
  let s := s.flushUnsaved t
  match s.task t with
  | none => s
  | some k =>
    let mine (m : Msg) : Bool := m.seqSender && (m.target.map (·.1)) == some t
    let decls := (s.msgs.filter mine).filterMap fun m => m.target.map fun x => (x.2, m.packet)
    let s := (s.releaseHandles k).writeSave k
    let imgs := k.savedRegions.map s.regionImage
    let s := (s.freeBay t).modTask t fun k =>
      { k with status := .paused, saved := imgs, regions := [], decls := decls, ops := k.ops.map Op.unheld }
    let s := { s.dropUsers t with msgs := s.msgs.filter fun m => !mine m }
    let s : State := if !s.ctxHeld k.lctx || k.wrapDue.isSome then { s with requests := s.requests ++ [.again t] } else s
    s.ctxCheck k.lctx

/-- The pause of a task completes (R12, R54): once its units have stopped, its write-combining buffers are drained (R327),
and once the stores are acknowledged and no bank ALU command of its context runs (R341) its state is saved. -/
def execPauseComplete (t : Nat) (s : State) : Host.Outcome State Fault Refusal :=
  match s.task t with
  | none => .next s
  | some k =>
    let late := k.pauseLate
    if k.status != .pausing || !k.ops.all (Op.stopped? late) || s.taskOver t k then .next s
    else
      let s := s.drainAll t
      let ops := ((s.task t).map (·.ops)).getD []
      .next (if ops.all (Op.settled late) && !s.bankRuns k.lctx then s.savePaused t else s)

/-! ## The stop instant and the deadline (R263 to R271, R368) -/

/-- A list of TCBs takes a final state in one fc: the end signals follow (R367). -/
def State.endBatch (s : State) (l lctx st src : Nat) (vs : List Nat) : State :=
  let s := vs.foldl (fun s v => (s.setTcbState lctx v st).setTcb lctx v 0x30 (resultOf 0 0 src 0 false)) s
  let s := { s with ready := s.ready.filter fun r => !(r.launch == l && vs.contains r.tcb) }.settleSets l
  vs.foldl (fun s v => s.endSignal lctx v) s

/-- The TCBs of a launch, and those of them in STATE 0 to `most`. -/
def State.openTcbs (s : State) (x : Launch) (most : Nat) : List Nat :=
  (lnub [] (x.sets.flatMap (·.tcbs))).filter fun v => decide (s.tcbState x.lctx v ≤ most)

/-- Whether TASK nodes remain that the issue stage would have reached. A node on a page that fails its hash is none (R166). -/
def State.tasksLeft (s : State) (x : Launch) : Bool :=
  match s.objs[x.obj]? with
  | none => false
  | some o =>
    x.ahead.any (fun a => nodeKind a.node == 1) ||
      (s.leftNodes x o).any fun z => nodeKind (s.nodeAt o z.2) == 1 && !(pagesOf z.2 64).any o.failed.contains

/-- Whether a page of those nodes has still to be hashed (R165). -/
def State.leftUnhashed (s : State) (x : Launch) : Bool :=
  match s.objs[x.obj]? with
  | none => false
  | some o => (s.leftNodes x o).any fun z => (pagesOf z.2 64).any o.unhashed

/-- Die boundaries between die 0 and the origin tile of a bay (R264). -/
def Rect.hops (r : Rect) : Nat := r.x / 32 + r.y / 24

/-- What the stop instant does to a tile task: no walker of it issues a point (R173), the token is on its way, and a paused
task is re-placed (R55, R264, R266). -/
def Task.stopped (k : Task) (fc : Nat) : Task :=
  let k := { k with ops := k.ops.map Op.marked }
  match k.status with
  | .running | .pausing => { k with wrapDue := some (fc + 1 + 6 * k.bay.hops) }
  | .paused => { k with wrapDue := some fc }
  | .stopping => k

/-- The launch after its stop instant: the issue stage leaves the main list for the wrap-up list (R368). -/
def Launch.atStop (x : Launch) (left : Bool) : Launch :=
  let x := { x with stopDone := true, absent := x.absent || left, halted := x.halted || x.ahead.any fun a => a.halt.isSome, ahead := [],
                    look := none, calls := [], passes := [], joinHeld := false, chain := none }
  match x.wrapList with
  | some w => if x.halted || x.cancelled then x else { x with inWrap := true, ended := false, look := some w, list := w }
  | none => { x with ended := true }

/-- The deadline fc of a launch has come and has not been handled; the stop instant is handled first (R262, R271). -/
def State.deadlineOwed (s : State) (x : Launch) : Bool :=
  x.timed && x.stopDone && !x.deadlineDone && !x.cancelled && decide (x.deadline ≤ s.clock.start)

/-- The wrap token reaches the bay of a running task in this fc, unless the deadline fc has passed (R264, R271). -/
def State.wrapOwed (s : State) (k : Task) : Bool :=
  k.status == .running && !(((s.launch k.launch).map (·.deadlineDone)).getD true) &&
    ((k.wrapDue.map fun due => decide (due ≤ s.fc))).getD false

/-- The stop instant of a launch (R173, R262, R264, R266, R368). The tasks whose own end falls in this fc end first (R364), and
the pages of the nodes that are left are hashed (R165). -/
def execStopInstant (l : Nat) (s : State) : Host.Outcome State Fault Refusal :=
  match s.launch l with
  | none => .next s
  | some x =>
    if !s.stopOwed x || s.owesEnd (·.launch == l) || s.leftUnhashed x then .next s
    else
      let vs := s.openTcbs x 1
      let left := s.tasksLeft x
      let mine (k : Task) : Bool := k.launch == l && !k.wrapX
      let again : List PReq := (s.tasks.filter fun z => mine z.2 && z.2.status == .paused).map fun z => .again z.1
      let s := { s with tasks := avals (fun _ k => if mine k then k.stopped s.fc else k) s.tasks, requests := s.requests ++ again }
      let s := s.endBatch l x.lctx 8 5 vs
      .next (s.modLaunch l fun x => { x.atStop left with anyDeadline := x.anyDeadline || !vs.isEmpty })

/-- The wrap control token reaches the tiles of a bay: the mark is set (R264, R265). -/
def execWrapTokenArrive (t : Nat) (s : State) : Host.Outcome State Fault Refusal :=
  match s.task t with
  | none => .next s
  | some k =>
    .next (if s.wrapOwed k then s.modTask t fun k => { k with wrapMark := true, wrapDue := none, ops := k.ops.map Op.marked }
    else s)

/-- The deadline fc: what has not completed is frozen with WRAP_LATE, unless it is frozen already (R271, R386). -/
def execDeadlineFc (l : Nat) (s : State) : Host.Outcome State Fault Refusal :=
  match s.launch l with
  | none => .next s
  | some x =>
    if !s.deadlineOwed x then .next s
    else
      let late := (s.tasks.filter fun z => z.2.launch == l && z.2.parent.isNone && z.2.status != .stopping &&
        (s.family z.1).all fun y => y.2.ops.all (·.fault.isNone)).map (·.1)
      let s := late.foldl (fun s t => s.taskFreeze t Code.wrapLate 0) s
      let s := match s.placing with
        | some p => match p.req with
          | .ready r => if r.launch == l then s.placeFault p Code.wrapLate p.graph 0xFFFF 0 else s
          | _ => s
        | none => s
      .next ((s.modLaunch l fun x => { x with deadlineDone := true }).ctxCheck x.lctx)

/-! ## The end of a launch (R368, R369, R375, R387, R398) -/

/-- The issue stage has no node to reach: past END, halted, or at a node where the look-ahead stage halted (R368, R369). -/
def Launch.over (x : Launch) : Bool :=
  x.ended || x.halted || x.cancelled || ((x.ahead.head?).map fun a => a.halt.isSome).getD false

/-- The issue stage halted. -/
def Launch.hasHalted (x : Launch) : Bool := x.halted || ((x.ahead.head?).map fun a => a.halt.isSome).getD false

/-- The completion status of a launch (R387). -/
def Launch.outcome (x : Launch) : Nat :=
  if x.cancelled then 3
  else if x.hasHalted || x.anyFailed then 1
  else if x.anyDeadline || x.absent then 2
  else 0

/-- The fault service routine of a launch has ended, and no record of the launch is queued (R375). -/
def State.fsrOver (s : State) (l : Nat) (x : Launch) : Bool :=
  x.fsr.isNone || (!s.fsrRunning l && !s.fsrQueue.contains l && !(((s.ctx x.lctx).map fun c => c.faults.any fun r => r.1 == l).getD false))

/-- A launch completes (R368, R375, R387, R399): its remote writes are acknowledged, since its entry is a release at SYS. -/
def execLaunchComplete (l : Nat) (s : State) : Host.Outcome State Fault Refusal :=
  match s.launch l with
  | none => .next s
  | some x =>
    let busy := s.tasks.any (fun z => z.2.launch == l) || ((s.placing.map (·.launch)) == some l) ||
      s.spans.any fun w => w.write && w.core.isNone && w.launch == l
    if !x.over || !s.allFinal l || busy || !s.fsrOver l x then .next s
    else
      let s := s.complete x.aqi x.q x.useq x.outcome x.lctx
      .next ({ s with launches := adel l s.launches, fsrQueue := s.fsrQueue.filter (· != l) } : State).reap

/-- A launch is cancelled: its TCBs that are not final become CANCELLED, and its placed tasks are discarded (R364, R398). The TCB of a
placed task takes its final state when the task's writes have been performed, with its signal (R367). A reset of the AQI (`quiet`)
takes them all at once, and drops the records of frozen nodes (R404). -/
def State.cancelLaunch (s : State) (l : Nat) (quiet : Bool) : State :=
  match s.launch l with
  | none => s
  | some x =>
    let placed (v : Nat) : Bool := s.tasks.any fun z => z.2.launch == l && z.2.parent.isNone && z.2.tcb == v
    let s := s.endBatch l x.lctx 7 4 ((s.openTcbs x 3).filter fun v => quiet || !placed v)
    let ids := (s.tasks.filter fun z => z.2.launch == l).map (·.1)
    let mine (q : PReq) : Bool := match q with
      | .ready r => r.launch == l
      | q => q.ofTasks ids
    let s := (s.stopTasks ids 7 true quiet).dropRequests mine
    (s.modLaunch l fun x => { x with cancelled := true, look := none, ahead := [], joinHeld := false }).ctxCheck x.lctx

/-- `CANCEL` (R398): it names a launch of its queue by USEQ, and has no entry of its own (R399). The tasks whose own end falls
in this fc end first, and a stop instant of this fc comes before it (R364). -/
def execCancel (aqi q : Nat) (p : Packet) (s : State) : Host.Outcome State Fault Refusal :=
  .next (s.request aqi q p true fun s =>
    match (s.queueLaunches aqi q).find? fun z => z.2.useq == (p.dbl 7).extractLsb' 0 32 && !z.2.cancelled with
    | some z => if s.owesEnd (·.launch == z.1) || s.stopOwed z.2 then s else (s.requestNext aqi q).cancelLaunch z.1 false
    | none => s.requestNext aqi q)

/-! ## Fault service routines (R375) -/

/-- A core that a routine can be entered on: neither halted nor running another. -/
def Core.takesFsr (c : Core) : Bool := !c.halted && c.fsr.isNone

/-- Registers at the entry of a routine: s1 holds the argument, and s2 to s15 are zero (R375). A load that is on its way writes none
of them (DEDUCED, log entry 19). -/
def Core.enterFsr (c : Core) (l lctx : Nat) (arg pc : Dbl) : Core :=
  { c with regs := (List.replicate 16 (0 : Dbl)).set 1 arg, pc := pc, status := c.status &&& ~~~(1 : Dbl),
           ctxk := BitVec.ofNat 64 (lctx * 2 ^ 24), fsr := some l, loads := c.loads.map fun x => { x with d := 0 } }

/-- A fault service routine is entered on the first core that can take it, in die order (R375). -/
def execFsrEntry (s : State) : Host.Outcome State Fault Refusal :=
  match s.fsrQueue, lfind Core.takesFsr s.cores with
  | l :: rest, some k =>
    let s := { s with fsrQueue := rest }
    match s.launch l with
    | none => .next s
    | some x =>
      match x.fsr, s.objs[x.obj]? with
      | some i, some o =>
        let pc := BitVec.ofNat 64 (o.va + (s.coreSecs o).getD i 0)
        .next (s.modCore k fun c => c.enterFsr l x.lctx x.farg pc)
      | _, _ => .next s
  | _, _ => .next s

end Sys2Proof.Machine
end

