-- ==== Sys2Proof/Machine/Host.lean ====
section
/-! DEFINITION. The host's side: admin commands, notify writes, the deadline clock and the power manager
(14_deadlines_power_steps.md R261, R272, R273, R275; 24_host_links_power_fail.md R397, R401 to R404, R406, R410). The manual
lists the operands of an admin command; the model gives each a double of its own from offset 0x08, in the order listed (log
entry 41). -/
namespace Sys2Proof.Machine

/-- An admin command that completes in the fc in which it starts. -/
def State.adminNow (s : State) (p : Packet) (ok : Bool) (f : State → State) : State :=
  s.admin p fun s => (if ok then f s else s).adminDone (adminTag p) ok

/-! ## Contexts (R402, R403) -/

/-- The fields of a context record: first bit and width (R403). -/
def recordFields : List (Nat × Nat) :=
  [(0, 13), (32, 20), (64, 7), (72, 7), (96, 32), (128, 96), (256, 57), (320, 11), (384, 57), (448, 57), (512, 16), (544, 12),
   (560, 13), (576, 12), (592, 13), (640, 57), (704, 57), (768, 33), (832, 40)]

/-- A record as it is kept: software must write its reserved bits as zero, and where it does not they have no effect (R3,
R403). -/
def recordClean (r : BitVec 1024) : BitVec 1024 :=
  r &&& recordFields.foldl (fun (m : BitVec 1024) f => m ||| (BitVec.ofNat 1024 (2 ^ f.2 - 1) <<< f.1)) 0

/-- Whether two ranges of numbers meet. -/
def rangesMeet (a n b m : Nat) : Bool := decide (0 < n) && decide (0 < m) && decide (a < b + m) && decide (b < a + n)

/-- The checks of R403 on the record itself. -/
def Ctx.recordOk (c : Ctx) : Bool :=
  decide (1 ≤ c.bayLim) && decide (c.bayLim ≤ 384) && decide (c.floor ≤ c.ceil) && decide (c.ceil ≤ 64) &&
    decide (c.shm % 2 ^ 20 = 0) && decide (c.shmLen ≤ 2 ^ 30) &&
    (c.wqt == 0 || (decide (c.shm ≤ c.wqt) && decide (c.wqt + 512 ≤ c.shm + c.shmLen))) &&
    decide (c.tlBase + c.tlN ≤ 4096) && decide (c.bufBase + c.bufN ≤ 4096) && decide (c.spanLen ≤ 2 ^ 32)

/-- The TCB pool, the save area and the inbound span window of a context: virtual ranges of its PASID (R403). -/
def Ctx.ranges (c : Ctx) : List (Nat × Nat) := [(c.pool, 64 * c.poolN), (c.save, c.saveLen), (c.span, c.spanLen)]

/-- Ranges of a context that meet those of another: counters, handles, and virtual ranges in one PASID (R403; log entry 45).
-/
def Ctx.meets (c d : Ctx) : Bool :=
  rangesMeet c.tlBase c.tlN d.tlBase d.tlN || rangesMeet c.bufBase c.bufN d.bufBase d.bufN ||
    (c.pasid == d.pasid && (rangesMeet c.shm c.shmLen d.shm d.shmLen ||
      c.ranges.any fun x => d.ranges.any fun y => rangesMeet x.1 x.2 y.1 y.2))

/-- Physical windows of the live contexts. -/
def State.windows (s : State) : List (Nat × Nat) := (s.ctxs.map fun c => (c.2.shmBase, c.2.shmLen)).filter fun w => w.2 != 0

/-- A place in shared memory for a window (R319, R403). -/
def State.windowFor (s : State) (len : Nat) : Option Nat := if len = 0 then some 0 else firstGap s.windows len (2 ^ 30)

/-- A context as it is created. -/
def newCtx (r : BitVec 1024) : Ctx :=
  { record := recordClean r, pausing := false, paused := false, stopCond := none, stopTask := none, pauseTag := none, resumeTag := none,
    faults := [], lost := 0, legacyTrapped := 0, legacyMicro := 0, saveFigure := 0, idle := 0, busy := false, shmBase := 0, keeps := [],
    bankRev := none, dead := false }

/-- Counters from `lo` on read 0 and are not poisoned (R352). -/
def State.freshCounters (s : State) (lo n : Nat) : State :=
  let mine (i : Nat) : Bool := decide (lo ≤ i) && decide (i < lo + n)
  { s with timeline := s.timeline.filter fun (x : Nat × Dbl) => !mine x.1, poisonedTl := s.poisonedTl.filter fun i => !mine i }

/-- Handles from `lo` on are assigned to a context, and free (R350). -/
def State.freshHandles (s : State) (lctx lo : Nat) : Nat → State
  | 0 => s
  | n + 1 => ({ s with buffers := aset lo (BitVec.ofNat 64 (2 ^ 63 + lctx * 2 ^ 55)) s.buffers } : State).freshHandles lctx (lo + 1) n

/-- `CREATE_CTX` (R402, R403): LCTX and the host address of the record. -/
def execCreateCtx (p : Packet) (s : State) : Host.Outcome State Fault Refusal :=
  let lctx := arg p 0
  let c := newCtx (BitVec.ofNat 1024 (s.readLoc (.host (arg p 1)) 128))
  let base := s.windowFor c.shmLen
  let ok := decide (lctx < 256) && (s.ctx lctx).isNone && c.recordOk && base.isSome && !(s.ctxs.any fun (d : Nat × Ctx) => c.meets d.2)
  .next (s.adminNow p ok fun s =>
    let s := (s.freshCounters c.tlBase c.tlN).freshHandles lctx c.bufBase c.bufN
    { s with ctxs := aset lctx { c with shmBase := base.getD 0 } s.ctxs })

/-- `DESTROY_CTX` (R402): no launch of it is accepted any more, and it goes when its launches are final. -/
def execDestroyCtx (p : Packet) (s : State) : Host.Outcome State Fault Refusal :=
  let lctx := arg p 0
  .next (s.admin p fun s =>
    if !(((s.ctx lctx).map fun c => !c.dead).getD false) then s.adminDone (adminTag p) false
    else
      let s := s.modCtx lctx fun c => { c with dead := true }
      ({ s with adminWait := s.adminWait ++ [(adminTag p, .destroy lctx)] } : State).reap)

/-- A launch of a context that is torn down waits for no fault service routine (R404). -/
def State.dropFsr (s : State) (l : Nat) : State :=
  { s.modLaunch l (fun x => { x with fsr := none }) with fsrQueue := s.fsrQueue.filter (· != l) }

/-- Steps 2 to 6 of R404 for one context. The abort to peer devices is not part of the state (log entry 42). -/
def State.tearDown (s : State) (c : Nat) : State :=
  let ls := (s.launches.filter fun z => z.2.lctx == c).map (·.1)
  let s := ls.foldl (fun s l => (s.cancelLaunch l true).dropFsr l) s
  match s.ctx c with
  | none => s
  | some x =>
    let s := { s with poisonedTl := lnub [] (((List.range x.tlN).map (x.tlBase + ·)) ++ s.poisonedTl),
                      banks := avals (fun _ b => { b with queues := adel c b.queues, running := adel c b.running }) s.banks,
                      spans := s.spans.filter fun z => (z.bank.map fun (y : Nat × Nat) => y.2) != some c,
                      msgs := s.msgs.filter fun m => !(m.packet.engine == 5 && Packet.ctx m.packet == c) }
    s.modCtx c fun x => { x with dead := true, faults := [] }

/-- Contexts are torn down, and an admin command waits for the end (R401, R404). -/
def State.tearDownAll (s : State) (cs : List Nat) (w : AdminTag × AdminWait) : State :=
  let s := cs.foldl State.tearDown { s with adminWait := s.adminWait ++ [w] }
  s.reap

/-- Packets of a queue that are not fetched yet complete CANCELLED (R404 step 1). -/
def State.flushQueue (s : State) (aqi q : Nat) : Nat → State
  | 0 => s
  | n + 1 => match s.queueHead aqi q with
    | none => s
    | some p => ((s.requestNext aqi q).complete aqi q (useqOf p) 3 (Packet.lctx p)).flushQueue aqi q n

/-- Step 1 of R404 for an AQI: its queues are flushed, and what control cores dispatched to it is dropped. -/
def State.flushAqi (s : State) (a : Nat) : State :=
  let qs := ((aget a s.aqis).map (·.queues)).getD []
  let s := qs.foldl (fun s (q : Nat × Queue) => s.flushQueue a q.1 q.2.size) s
  { s with intake := s.intake.filter fun x => x.2.1 != a }

/-- Tasks of the contexts of an AQI, and of those bound to a PASID. -/
def State.ofAqi (s : State) (a : Nat) (k : Task) : Bool := ((s.ctx k.lctx).map (·.aqi)) == some a
@[inherit_doc State.ofAqi]
def State.ofPasid (s : State) (pasid : Nat) (k : Task) : Bool := ((s.ctx k.lctx).map (·.pasid)) == some pasid

/-- `AQI_RESET` (R404). The tasks whose own end falls in this fc keep it. -/
def execAqiReset (p : Packet) (s : State) : Host.Outcome State Fault Refusal :=
  let a := arg p 0
  if s.owesEnd (s.ofAqi a) then .next s
  else .next (s.admin p fun s =>
    if a ≥ 8 then s.adminDone (adminTag p) false
    else (s.flushAqi a).tearDownAll ((s.ctxs.filter fun c => c.2.aqi == a).map (·.1)) (adminTag p, .aqiReset a))

/-- `REVOKE_PASID` (R401): AQI and PASID. The tasks whose own end falls in this fc keep it (R404). -/
def execRevokePasid (p : Packet) (s : State) : Host.Outcome State Fault Refusal :=
  let pasid := arg p 1
  if s.owesEnd (s.ofPasid pasid) then .next s
  else .next (s.admin p fun s =>
    if arg p 0 ≥ 8 || pasid ≥ 2 ^ 20 then s.adminDone (adminTag p) false
    else
      let s := { s with revoked := if s.revoked.contains pasid then s.revoked else pasid :: s.revoked }
      s.tearDownAll ((s.ctxs.filter fun c => c.2.pasid == pasid).map (·.1)) (adminTag p, .revoke pasid))

/-- A function-level reset of PF0 (R406): R404 for every AQI, and the admin rings cleared. The tasks whose own end falls in
this fc keep it. -/
def execFunctionLevelReset (s : State) : Host.Outcome State Fault Refusal :=
  if s.owesEnd fun _ => true then .next s
  else .next (((List.range 8).foldl State.flushAqi s).tearDownAll (s.ctxs.map (·.1)) (default, .functionReset))

/-! ## Queues (R396, R397, R402) -/

/-- An AQI with nothing bound: unsigned objects are refused (log entry 7). -/
def emptyAqi : Aqi := { queues := [], unsignedOk := false, irqs := [], pageReqs := [], parts := [] }

/-- `CREATE_QUEUE` (R402): AQI, q, PASID, ring and completion VAs; at 0x38, size in [31:0], and in [63:32] an interrupt
entry 0-63, or all ones for none. -/
def execCreateQueue (p : Packet) (s : State) : Host.Outcome State Fault Refusal :=
  let a := arg p 0
  let q := arg p 1
  let size := (p.dbl 7).extractLsb' 0 32 |>.toNat
  let irq := (p.dbl 7).extractLsb' 32 32 |>.toNat
  let ok := decide (a < 8) && decide (q < 64) && decide (arg p 2 < 2 ^ 20) && isVa (argD p 3) 1 && isVa (argD p 4) 1 &&
    decide (16 ≤ size) && decide (size ≤ 65536) && (decide (irq < 64) || decide (irq = 2 ^ 32 - 1)) && (s.queue a q).isNone
  let u : Queue := { pasid := arg p 2, ring := arg p 3, comp := arg p 4, size := size, head := 0, tail := 0, ctail := 0, phase := true,
                     irq := if irq < 64 then some irq else none }
  .next (s.adminNow p ok fun s =>
    let x := (aget a s.aqis).getD emptyAqi
    { s with aqis := aset a { x with queues := aset q u x.queues } s.aqis })

/-- The tail that a notify write sets (R397): a tail that passes more than the ring's size beyond the head is taken modulo
the size. -/
def Queue.notified (u : Queue) (tail : Nat) : Nat := if u.head + u.size < tail then tail % u.size else tail

/-- A notify write (R397): it sets the tail of a queue, or is dropped and the admin queue told. Its reserved bits [43:32] have
no effect (R3). -/
def execNotifyWrite (aqi q : Nat) (v : Dbl) (s : State) : Host.Outcome State Fault Refusal :=
  let pasid := (v.extractLsb' 44 20).toNat
  let tail := (v.extractLsb' 0 32).toNat
  match s.queue aqi q with
  | some u =>
    if u.pasid = pasid ∧ !s.revoked.contains pasid then
      .next (s.modQueue aqi q fun u => { u with tail := u.notified tail })
    else .next { s with notices := s.notices ++ [.notifyDropped aqi q] }
  | none => .next { s with notices := s.notices ++ [.notifyDropped aqi q] }

/-! ## Translations and page requests (R325, R329) -/

/-- Drop what the caches hold for a range, and restart the walks that began before (R325). -/
def State.invalidateRange (s : State) (pasid lo hi : Nat) : State :=
  let hits (va size : Nat) : Bool := decide (va < hi) && decide (lo < va + size)
  { s with tlb := s.tlb.filter fun e => !(e.pasid == pasid && hits e.va e.size),
           misses := s.misses.map fun m => if m.pasid = pasid then { m with walking := false, fault := none } else m }

/-- `INVALIDATE` (R325): PASID, first address and length. Stores that write-combining buffers hold are written at once,
since their translations were made before. -/
def execInvalidate (p : Packet) (s : State) : Host.Outcome State Fault Refusal :=
  let pasid := arg p 0
  .next (s.admin p fun s =>
    if pasid ≥ 2 ^ 20 || !isVa (argD p 1) 1 then s.adminDone (adminTag p) false
    else
      let s := s.invalidateRange pasid (arg p 1) (arg p 1 + arg p 2)
      let mine := (s.tasks.filter fun z => ((s.ctx z.2.lctx).map Ctx.pasid) == some pasid).map (·.1)
      let s := mine.foldl State.drainAll s
      { s.bumpId with adminWait := s.adminWait ++ [(adminTag p, .invalidate pasid s.fc s.nextId)] })

/-- Accesses in flight of an operator. -/
def Op.inFlight (p : Op) : List Acc :=
  match p.kind with
  | .mem m => m.accs
  | .walker w => w.accs
  | .spline x => x.accs
  | .fibre f => f.accs
  | _ => []

/-- An access translated before an invalidation is still in flight, or lies in a write-combining buffer (R325). -/
def State.oldAccess (s : State) (pasid fc id : Nat) : Bool :=
  (s.tasks.any fun z => ((s.ctx z.2.lctx).map Ctx.pasid) == some pasid &&
    (z.2.ops.any (fun p => p.inFlight.any fun a => decide (a.at_ ≤ fc)) || z.2.wcb.any fun w => decide (w.since ≤ fc))) ||
  s.cores.any fun c => (c.loads.any fun x => decide (x.seq < id)) || c.stores.any fun x => decide (x.seq < id)

/-- Invalidations that hold complete (R325). -/
def State.endInvalidations (s : State) : State :=
  s.adminWait.foldl (fun s w => match w.2 with
    | .invalidate pasid fc id => if s.oldAccess pasid fc id then s else s.adminFinish w true
    | _ => s) s

/-- A stall that waits for a request is answered. -/
def Stall.answered (x : Stall) (tag : Word) (retry : Bool) : Stall :=
  if x.tag = tag ∧ x.waiting then { x with waiting := false, refused := !retry } else x

/-- The pager answers a page request: retry or refuse (R329). A reply to a withdrawn request is discarded (R330). -/
def State.pageAnswer (s : State) (tag : Word) (host retry : Bool) : State :=
  match s.pageReqs.find? fun r => r.tag == tag && r.host == host with
  | none => s
  | some r =>
    let s := { s with pageReqs := s.pageReqs.filter fun x => !(x.tag == tag && x.host == host) }
    s.modOp r.t r.o fun p => match p.kind with
      | .mem m => { p with kind := .mem { m with stall := m.stall.map fun x => x.answered tag retry } }
      | .copy c =>
        let answer (y : Slot) : Slot := { y with stall := y.stall.map fun x => x.answered tag retry }
        { p with kind := .copy { c with slots := c.slots.map answer } }
      | _ => p

/-- `PAGE_REPLY` (R329, R402): TAG, and 0 retry or 1 refuse. -/
def execPageReply (p : Packet) (s : State) : Host.Outcome State Fault Refusal :=
  let v := arg p 1
  .next (s.adminNow p (decide (v ≤ 1)) fun s => s.pageAnswer ((argD p 0).extractLsb' 0 32) false (decide (v = 0)))

/-- The host answers a Page Request Interface request (R322, R329). -/
def execPageRequestInterfaceResponse (tag : Word) (ok : Bool) (s : State) : Host.Outcome State Fault Refusal :=
  .next (s.pageAnswer tag true ok)

/-! ## PAUSE and RESUME (R11, R388, R389, R391) -/

/-- Placed tasks of a context. -/
def State.placedOf (s : State) (lctx : Nat) : List (Nat × Task) := s.tasks.filter fun z => z.2.lctx == lctx && z.2.status != .paused

/-- The tile task whose graph the operator of a stop condition is an operator of: the first that is placed (R11). -/
def State.stopTaskOf (s : State) (lctx : Nat) : Option (Nat × Task) := (s.placedOf lctx).find? fun z => z.2.parent.isNone

/-- Whether a stop condition names an operator that there is, with a count (R11). -/
def State.stopOk (s : State) (lctx o n : Nat) : Bool :=
  decide (1 ≤ n) && match s.stopTaskOf lctx with
    | some z => decide (o < z.2.ops.length)
    | none => true

/-- A PAUSE is refused when the recorded figures of the placed tasks exceed the save area (R389). -/
def State.saveFits (s : State) (lctx : Nat) (c : Ctx) : Bool := decide (lsum ((s.placedOf lctx).map fun z => z.2.saveFigure) ≤ c.saveLen)

/-- `PAUSE` (R11, R388): LCTX, and with bit 63 of the next double an operator in its [15:0] and a firing count after it. -/
def execPause (p : Packet) (s : State) : Host.Outcome State Fault Refusal :=
  let lctx := arg p 0
  let tag := adminTag p
  let cond : Option (Nat × Nat) := if (argD p 1).getLsbD 63 then some (((argD p 1).extractLsb' 0 16).toNat, arg p 2) else none
  .next (s.admin p fun s =>
    match s.ctx lctx with
    | none => s.adminDone tag false
    | some c =>
      let ok := !c.dead && c.pauseTag.isNone && s.saveFits lctx c && (cond.map fun x => s.stopOk lctx x.1 x.2).getD true
      if !ok then s.adminDone tag false
      else
        let s : State := { s with adminWait := s.adminWait ++ [(tag, .pause lctx)] }
        let s := s.modCtx lctx fun c => { c with pauseTag := some tag }
        match cond with
        | none => (s.pauseTakesEffect lctx).pauseCheck lctx
        | some x =>
          let s := s.modCtx lctx fun c => { c with stopCond := some x, stopTask := (s.stopTaskOf lctx).map fun (z : Nat × Task) => z.1 }
          (match s.stopTaskOf lctx with
           | some z => s.checkStopCond z.1 x.1
           | none => s).pauseCheck lctx)

/-- The key of R376 of a paused task: that of its TCB. -/
def State.taskEntry (s : State) (t : Nat) : Ready :=
  let root := s.rootTask s.tasks.length t
  match s.task root with
  | none => { launch := 0, tcb := 0, cls := 0, rseq := 0, cost := 0, remain := 0, bypass := 0, wrapX := false }
  | some k =>
    let h := s.tcb k.lctx k.tcb 0x20
    { launch := k.launch, tcb := k.tcb, cls := ((s.launch k.launch).map (·.cls)).getD 0,
      rseq := ((s.tcb k.lctx k.tcb 0x38).extractLsb' 32 32).toNat, cost := (h.extractLsb' 0 32).toNat,
      remain := (h.extractLsb' 32 32).toNat, bypass := 0, wrapX := k.wrapX }

/-- Put a paused task in its place in the order of R376. -/
def State.taskInsert (s : State) (t : Nat) : List Nat → List Nat
  | [] => [t]
  | u :: rest => if s.readyBefore (s.taskEntry t) (s.taskEntry u) then t :: u :: rest else u :: s.taskInsert t rest

/-- `RESUME` (R391): it waits while the context is still pausing. -/
def execResume (p : Packet) (s : State) : Host.Outcome State Fault Refusal :=
  let lctx := arg p 0
  let tag := adminTag p
  if ((s.ctx lctx).map (·.pausing)).getD false then .next s
  else .next (s.admin p fun s =>
    match s.ctx lctx with
    | none => s.adminDone tag false
    | some c =>
      if c.dead || c.resumeTag.isSome then s.adminDone tag false
      else
        let paused := (s.tasks.filter fun z => z.2.lctx == lctx && z.2.status == .paused).map (·.1)
        let order := paused.foldl (fun l t => s.taskInsert t l) []
        let free : Nat → Launch → Launch := fun _ l => if l.lctx == lctx then { l with paused := false } else l
        let s := s.modCtx lctx fun c => { c with paused := false, resumeTag := some tag }
        ({ s with launches := avals free s.launches, requests := s.requests ++ order.map PReq.again,
                  adminWait := s.adminWait ++ [(tag, .resume lctx)] } : State).resumeCheck lctx)

/-! ## Knots (R13, R402) -/

/-- The tile rectangle of a command: X, Y, W and H, one byte each (log entry 41). -/
def knotRect (p : Packet) : Rect :=
  { x := (p.byte 8).toNat, y := (p.byte 9).toNat, w := (p.byte 10).toNat, h := (p.byte 11).toNat }

/-- Whether a rectangle lies on the device. -/
def Rect.onDevice (r : Rect) : Bool := decide (1 ≤ r.w) && decide (1 ≤ r.h) && decide (r.x + r.w ≤ 128) && decide (r.y + r.h ≤ 48)

/-- `KNOT_SET` (R13): running tasks that hold the tiles pause, and are re-placed when their pauses complete. -/
def execKnotSet (p : Packet) (s : State) : Host.Outcome State Fault Refusal :=
  let r := knotRect p
  .next (s.adminNow p r.onDevice fun s =>
    let s := s.pauseTasks fun _ k => r.tiles.any fun t => (aget t k.entries).isSome
    { s with knots := lnub [] (s.knots ++ r.tiles) })

/-- `KNOT_CLEAR` (R402, R412): it refuses fused tiles, and returns retired ones. -/
def execKnotClear (p : Packet) (s : State) : Host.Outcome State Fault Refusal :=
  let r := knotRect p
  .next (s.adminNow p (r.onDevice && !(r.tiles.any s.flash.fused.contains)) fun s =>
    { s with knots := s.knots.filter fun t => !r.tiles.contains t,
             flash := { s.flash with retired := s.flash.retired.filter fun t => !r.tiles.contains t } })

/-! ## Keep windows and counters (R352, R410) -/

/-- Bytes of the keep windows set, but for one (R410). -/
def State.keepTotal (s : State) (lctx w : Nat) : Nat :=
  lsum (s.ctxs.map fun c => lsum ((c.2.keeps.filter fun k => !(c.1 == lctx && k.1 == w)).map fun k => k.2.2))

/-- `KEEP` (R410): LCTX, window, VA and length. -/
def execKeep (p : Packet) (s : State) : Host.Outcome State Fault Refusal :=
  let lctx := arg p 0
  let w := arg p 1
  let ok := (s.ctx lctx).isSome && decide (w < 4) && isVa (argD p 2) 1 && decide (s.keepTotal lctx w + arg p 3 ≤ 2 ^ 29)
  .next (s.adminNow p ok fun s => s.modCtx lctx fun c => { c with keeps := c.keeps.filter (·.1 != w) ++ [(w, arg p 2, arg p 3)] })

/-- `TL_CLEAR` (R352, R402): LCTX and TLID. -/
def execTlClear (p : Packet) (s : State) : Host.Outcome State Fault Refusal :=
  .next (s.adminNow p (s.hasCounter (arg p 0) (arg p 1)) fun s => s.freshCounters (arg p 1) 1)

/-! ## The deadline clock (R260, R261) -/

/-- A launch with a deadline is in flight. -/
def State.timedLaunch (s : State) : Bool := s.launches.any fun z => z.2.timed

/-- A correction in ns (R261): slewed below 1 ms; stepped from there on, backward only while no launch has a deadline. -/
def State.correctClock (s : State) (off : Int) (src : BitVec 2) : State :=
  let c := s.clock
  let c := { c with src := src, set := true, good := if off.natAbs < 100 then min 16 (c.good + 1) else 0 }
  let step := decide (off ≥ 1000000) || (decide (off ≤ -1000000) && !s.timedLaunch)
  { s with clock := if step then
      { c with ns := BitVec.ofInt 64 ((c.ns.toNat : Int) + off), slew := 0, steps := if c.steps = 0xFF then c.steps else c.steps + 1 }
    else { c with slew := off * nsUnits } }

/-- `CLOCK_OFFSET` (R261): a signed offset in ns. -/
def execClockOffset (p : Packet) (s : State) : Host.Outcome State Fault Refusal :=
  .next (s.adminNow p true fun s => s.correctClock (argD p 0).toInt 2)

/-- An IEEE 1588 timestamp (R261): its offset from the clock in ns. -/
def execIeee1588Timestamp (off : Int) (s : State) : Host.Outcome State Fault Refusal := .next (s.correctClock off 1)

/-- The length of an fc of the sequencer's clock, in units of 1/18,000 ns: 600, 450 or 300 MHz (R4, R273, R274). -/
def Power.fcLen (p : Power) : Nat := 10000 * p.seqPeriod

/-- The correction taken in an fc: at most 500 ppm of its length (R261; log entry 43). -/
def Clock.slewStep (c : Clock) (len : Nat) : Int :=
  let m : Int := len / 2000
  max (-m) (min m c.slew)

/-- The clock one fc later (R260). -/
def Clock.tick (c : Clock) (len : Nat) : Clock :=
  let d := c.slewStep len
  let n : Int := c.frac + len + d
  let ns := c.ns + BitVec.ofInt 64 (n / nsUnits)
  { c with ns := ns, start := ns, run := c.run + len, frac := (n % nsUnits).toNat, slew := c.slew - d }

/-- Cycles of the control cores in an fc: their clock is 1.2 GHz whatever the fabric's (R274). -/
def Power.coreCycles (p : Power) (fc : Nat) : Nat := 2 * p.seqPeriod * (fc + 1) / 3 - 2 * p.seqPeriod * fc / 3

/-- An operator keeps its context busy (R393): an issue interval runs, an access is in flight, a REPLAY stall lasts, its page
walks and retries included (R329), or a TRAPPED call is in progress; or its engine executes a command: a copy firing, a weight
load, a spline run (log entry 120). -/
def Op.keepsBusy (p : Op) (fc : Nat) : Bool :=
  !p.inFlight.isEmpty || match p.kind with
    | .cell c => c.trapped.isSome || ((c.firing.map fun f => decide (f.nextAt > fc))).getD false
    | .vec v => ((v.firing.map fun f => decide (f.nextAt > fc))).getD false
    | .mem m => m.stall.isSome
    | .copy c => c.slots.any fun x => x.firing || x.stall.isSome
    | .matrix m => m.load.isSome
    | .spline x => x.run.isSome
    | _ => false

/-- Whether a context is busy in the fc that ends (R393). -/
def State.ctxBusy (s : State) (lctx : Nat) (c : Ctx) : Bool :=
  c.busy || (s.placing.map (·.lctx)) == some lctx || s.banks.any (fun b => (aget lctx b.2.running).isSome) ||
    s.tasks.any fun z => z.2.lctx == lctx && z.2.status != .paused && z.2.ops.any fun p => p.keepsBusy s.fc

/-- The tiles on which tasks of a context are placed. -/
def State.ctxTiles (s : State) (lctx : Nat) : List Nat :=
  (s.tasks.filter fun z => z.2.lctx == lctx).flatMap fun z => z.2.entries.map (·.1)

/-- The idle count of a context after an fc of the slowest block of its bays (R274): the consecutive idle fc in which its
balance is not zero (R394; log entry 76). That of a paused context is held (R393). -/
def State.idleTick (s : State) (lctx : Nat) (c : Ctx) : Ctx :=
  if !s.ticksBy (s.slowest (s.ctxTiles lctx)) then { c with busy := s.ctxBusy lctx c }
  else if c.pausing || c.paused then { c with busy := false }
  else { c with busy := false, idle := if s.ctxBusy lctx c || s.balanceOf lctx == 0 then 0 else c.idle + 1 }

/-- This fc is the 4,096th consecutive one in which a context is idle with a balance that is not zero (R394). -/
def State.stuckNow (s : State) (lctx : Nat) (c : Ctx) : Bool :=
  !c.pausing && !c.paused && decide (4095 ≤ c.idle) && s.balanceOf lctx != 0 && !s.ctxBusy lctx c &&
    s.ticksBy (s.slowest (s.ctxTiles lctx))

/-- Each tile task of a stuck context whose own balance is not zero freezes with STUCK (R394). -/
def execStuckTimeout (lctx : Nat) (s : State) : Host.Outcome State Fault Refusal :=
  match s.ctx lctx with
  | none => .next s
  | some c =>
    if !s.stuckNow lctx c then .next s
    else
      let stuck := (s.tasks.filter fun z => z.2.lctx == lctx && z.2.parent.isNone && z.2.status != .stopping &&
        s.familyBalance z.1 != 0).map (·.1)
      .next ((stuck.foldl (fun s t => s.taskFreeze t Code.stuck (clamp32 (s.familyBalance t))) s).modCtx lctx fun c => { c with idle := 0 })

/-- The reply token of a spawn is pushed when its queue has room (R60). -/
def State.pushSpawnReplies (s : State) : State :=
  s.spawnReplies.foldl (fun s z => match s.pushReply z.1 z.2.1 z.2.2.1 (narrowTok 0 z.2.2.2) with
    | some s' => { s' with spawnReplies := s'.spawnReplies.filter (· != z) }
    | none => s) s

/-- A store of an operator is at the bound of R361, and could be performed now. -/
def State.storeOwed (s : State) (t o : Nat) (p : Op) : Bool :=
  let old (a : Acc) : Bool := decide (a.due ≤ s.fc) && decide (a.at_ + s.bound (tileKey p.place.x p.place.y) writeBound ≤ s.fc)
  match p.kind with
  | .mem m => ((s.storeDue t p m).map fun a => old a && (s.release t o m a.at_).2).getD false
  | .spline x => ((x.accs.head?).map fun a => old a && !s.bankHolds a.keys).getD false
  | .fibre f => ((f.accs.find? (·.write)).map fun a => old a && !s.bankHolds a.keys).getD false
  | _ => false

/-- A block of a walk after the first begins in this fc (R246). -/
def State.blockOwed (s : State) (t o : Nat) : Bool := ((s.blockDue t o).map (·.begun)).getD false

/-- What falls in this fc and has still to happen in a task: its wrap token (R264), the record of a freeze (R383), the saving
of firings that a pause has waited for (R390), the blocks of its walks (R246), and writes at the end of their time (R327, R361).
-/
def State.taskOwes (s : State) (t : Nat) (k : Task) : Bool :=
  s.wrapOwed k || k.wcb.any s.lineDue || k.ops.any Op.recordDue || (k.status == .pausing && k.pauseLate && k.ops.any Op.midFiring) ||
    (!s.dev.halt && k.ops.zipIdx.any fun x => s.storeOwed t x.2 x.1 || s.blockOwed t x.2)

/-- The node at the head of the issue stage passes in this fc: a TASK node in the fc in which its predecessor completes, a WAIT
when its counter has come, a JOIN or SIGNAL when all before it are final (R310, R312, R368). -/
def State.issueOwed (s : State) (l : Nat) (x : Launch) : Bool :=
  match x.ahead with
  | [] => false
  | a :: _ => (s.issuing l a.node).isSome && match nodeKind a.node with
    | 1 => ((x.chain.map fun set => s.setFinal x.lctx set).getD true) &&
        ((s.objs[x.obj]?).map fun o => s.nodeTcb x o.va a.node != .wait).getD false
    | 4 => s.allFinal l
    | 6 => s.tlBad (nodeF4 a.node) || decide ((a.node.dbl 1).toNat ≤ (s.tl (nodeF4 a.node)).toNat)
    | 7 => s.allFinal l
    | _ => true

/-- The bound of a core's store: its path may cross a block of the slowest clock (R274, R361). -/
def State.coreBound (s : State) : Nat := writeBound * s.power.period 3 / s.power.seqPeriod

/-- What falls in this fc and has still to happen: stop instants and deadlines (R262, R271), updates of L of the last fc
(R254), the nodes that the issue stage passes (R310), what tasks owe, freezes with STUCK (R394), writes of rmw accesses (R337),
and writes of cores at the end of their time (R361). Each is a step of its own. -/
def State.fcOwes (s : State) : Bool :=
  s.launches.any (fun z => s.stopOwed z.2 || s.deadlineOwed z.2 || s.issueOwed z.1 z.2 || z.2.updates.any fun u => decide (u.1 < s.fc)) ||
    s.tasks.any (fun z => s.taskOwes z.1 z.2) || s.ctxs.any (fun z => s.stuckNow z.1 z.2) ||
    s.tiles.any (fun z => z.2.rmws.any fun e => !e.written && decide (e.at_ ≤ s.fc)) ||
    s.cores.any fun c => c.stores.any fun x => decide (x.at_ + s.coreBound ≤ s.fc) && s.storeMay c x

/-- A frozen node whose record is not queued counts its fc (R383). -/
def Op.countFault (p : Op) : Op := if p.fault.isSome && !p.recorded then { p with faultFor := p.faultFor + 1 } else p

/-- A task after an fc of the slowest block of its bay (R274): a pausing one counts it (R390), and its frozen nodes do (R383). -/
def State.countTask (s : State) (k : Task) : Task :=
  if !s.ticksBy (s.slowest (k.entries.map (·.1))) then k
  else
    let k := { k with ops := k.ops.map Op.countFault }
    if k.status == .pausing then { k with pauseFor := k.pauseFor + 1 } else k

/-- A launch at the end of an fc: CE and FRZ as they then stand govern the updates of L of that fc (R253, R254). -/
def State.latchCe (s : State) (x : Launch) : Launch := { x with ceWas := s.ceOf x, frzWas := x.frz }

/-- The next fc, once nothing falls in this one: the deadline clock takes the disciplined length of the last (R260), the
cores count their cycles (R152), the slot pointers go on (R21), and what is counted fc by fc is counted. -/
def State.nextFc (s : State) : State :=
  let count (c : Core) : Core := { c with cycle := c.cycle + BitVec.ofNat 64 (s.power.coreCycles s.fc) }
  { s with launches := avals (fun _ x => s.latchCe x) s.launches, ctxs := avals s.idleTick s.ctxs, tasks := avals (fun _ k => s.countTask k) s.tasks,
           tiles := avals (fun n t => if s.ticks n then t.step s.fc else t) s.tiles,
           clock := s.clock.tick s.power.fcLen, cores := s.cores.map count, fc := s.fc + 1 }

@[inherit_doc State.nextFc]
def execDeadlineClockAdvance (s : State) : Host.Outcome State Fault Refusal :=
  .next (if s.fcOwes then s else s.nextFc.pushSpawnReplies.endInvalidations.sendHeldIrqs)

/-! ## The power manager (R272 to R276) -/

/-- The power cut of each launch that has opted in follows the power manager (R253, R273, R275). -/
def State.setPcuts (s : State) : State :=
  (s.launches.map (·.1)).foldl (fun s l => match s.launch l with
    | some x => if x.optin && x.pcut != s.power.pcut then (s.modLaunch l fun x => { x with pcut := s.power.pcut }).postCeil l else s
    | none => s) s

/-- `PSTEP` (R272): level 0 to 15. -/
def execPstep (p : Packet) (s : State) : Host.Outcome State Fault Refusal :=
  .next (s.adminNow p (decide (arg p 0 < 16)) fun s =>
    ({ s with power := { s.power with adm := BitVec.ofNat 4 (arg p 0) } } : State).setPcuts)

/-- A strobe samples the pins; PSTEP_ACK goes low until the cap in force is met (R272). -/
def execPstepStrobe (level : BitVec 4) (s : State) : Host.Outcome State Fault Refusal :=
  .next ({ s with power := { s.power with pin := level, ack := false } } : State).setPcuts

/-- The cap in force is met: PSTEP_ACK goes high (R272, R273). The operand is the draw in W. -/
def execPowerCapMet (draw : Nat) (s : State) : Host.Outcome State Fault Refusal :=
  .next (if draw ≤ s.power.cap then { s with power := { s.power with ack := true } } else s)

/-- The next sub-step is engaged while the draw exceeds the cap (R273). -/
def execPowerLeverEngage (draw : Nat) (s : State) : Host.Outcome State Fault Refusal :=
  .next (if draw > s.power.cap ∧ s.power.lever < 13 then
    ({ s with power := { s.power with lever := s.power.lever + 1 } } : State).setPcuts else s)

/-- The highest sub-step is released while the draw stays at least 150 W below the cap (R275). -/
def execPowerLeverRelease (draw : Nat) (s : State) : Host.Outcome State Fault Refusal :=
  .next (if draw + 150 ≤ s.power.cap ∧ 0 < s.power.lever then
    ({ s with power := { s.power with lever := s.power.lever - 1 } } : State).setPcuts else s)

/-- 16 µs on `Clock.run` (R273). -/
def idlePc : Nat := 16000 * nsUnits

/-- A pseudo-channel without an access for 16 µs is powered down under sub-step 7 (R273). -/
def execHbmPcPowerDown (stack pc : Nat) (s : State) : Host.Outcome State Fault Refusal :=
  let last := (aget (stack, pc) s.power.access).getD 0
  .next (if s.power.lever = 13 ∧ stack < 8 ∧ pc < 256 ∧ last + idlePc ≤ s.clock.run ∧ !s.power.down.contains (stack, pc) then
    { s with power := { s.power with down := (stack, pc) :: s.power.down } } else s)

end Sys2Proof.Machine
end

