-- ==== Sys2Proof/Machine/Links.lean ====
section
/-! DEFINITION. Links and slot tables (02_fabric.md R21 to R27). -/
namespace Sys2Proof.Machine

/-- The place of a hop in a channel's route. -/
def Chan.hopAt (c : Chan) (x y : Nat) (dir : Dir) : Option Nat := lfind (fun h => h.x == x && h.y == y && h.dir == dir) c.route

/-- Tokens in buffer `i`; the end queue follows the last hop. -/
def Chan.bufLen (c : Chan) (i : Nat) : Nat :=
  match c.bufs[i]? with
  | some b => b.length
  | none => c.endq.length

/-- Whether hop `i` has a token to move and the next buffer a free place, whose credit is back: one freed in this fc counts
from the next (R27). -/
def Chan.eligible (c : Chan) (fc i : Nat) : Bool :=
  match (c.bufs.getD i []).head? with
  | some q => decide (q.due ≤ fc) && decide (c.bufLen (i + 1) + c.freed.count (i + 1, fc) < c.capAt (i + 1))
  | none => false

/-- The fc, after the move over hop `i`, from which a token can go on: none into the end queue, one into a buffer, and six
over a die boundary (R20, R25). -/
def Chan.hopFc (c : Chan) (i : Nat) : Nat :=
  (if i + 1 < c.route.length then 1 else 0) +
    (match c.route[i]? with
     | some h => if hopCrosses h then 6 else 0
     | none => 0)

/-- Move the head token of hop `i` on in fc `fc`, by a link whose clock has gone on by `n` fc in fc `later n` (R27). -/
def Chan.moveHop (c : Chan) (fc : Nat) (later : Nat → Nat) (i : Nat) : Chan :=
  match c.bufs.getD i [] with
  | [] => c
  | q :: rest =>
    let q' : QTok := { q with due := later (c.hopFc i) }
    let bufs := lmod i (fun _ => rest) c.bufs
    let c' : Chan :=
      if i + 1 < c.bufs.length then { c.free1 fc i with bufs := lmod (i + 1) (fun b => b ++ [q']) bufs }
      else { c.free1 fc i with bufs := bufs, endq := c.endq ++ [q'] }
    if i = 0 then c'.refill fc (later 1) else c'

/-- The channels that a lane of a link direction may serve: task, channel, hop and lane (R26). -/
def State.linkLanes (s : State) (x y : Nat) (dir : Dir) (net : Net) : List (Nat × Nat × Nat × Nat) :=
  (s.tasks.map fun (t, k) =>
    if k.status == .paused then []
    else (k.chans.zipIdx.filterMap fun (c : Chan × Nat) =>
      if c.1.net = net then
        (c.1.hopAt x y dir).bind fun i =>
          if c.1.eligible s.fc i then some (t, c.2, i, k.entryAt (tileKey x y)) else none
      else none)).flatten

/-- The eligible lane after the one last served (R27). -/
def pickLane (last : Nat) (l : List (Nat × Nat × Nat × Nat)) : Option (Nat × Nat × Nat × Nat) :=
  (List.range 8).findSome? fun i => l.find? fun z => z.2.2.2 == (last + 1 + i) % 8

/-- The period of a link direction: that of the slower of the blocks that it joins (R273, R274). -/
def State.linkPeriod (s : State) (x y : Nat) (dir : Dir) : Nat :=
  let d := hopDest { x := x, y := y, dir := dir }
  s.slowest [tileKey x y, tileKey d.1 d.2]

/-- Move one token of a lane of a link direction of period `p`. -/
def State.moveLane (s : State) (p : Nat) (z : Nat × Nat × Nat × Nat) : State :=
  (s.modChan z.1 z.2.1 fun c => c.moveHop s.fc (s.laterBy p) z.2.2.1).busy (s.lctxOf z.1)

/-- A link direction transfers in this fc (R27): one lane of a narrow or wide link, every eligible lane of a control
link. A direction that has served no lane yet starts its round at lane 0 (DESIGN CHOICE, log entry 78). -/
def execLinkTransfer (x y : Nat) (dir : Dir) (net : Net) (s : State) : Out :=
  let key := ((tileKey x y, dir, net) : Nat × Dir × Net)
  let last := aget key s.links
  let done := match last with
    | some (_, fc) => decide (fc = s.fc)
    | none => false
  let p := s.linkPeriod x y dir
  if done || s.dev.halt || !s.ticksBy p then .next s
  else
    let l := s.linkLanes x y dir net
    match net with
    | .control =>
      if l.isEmpty then .next s
      else
        let s := l.foldl (fun s z => s.moveLane p z) s
        .next { s with links := aset key (0, s.fc) s.links }
    | _ =>
      match pickLane ((last.map (·.1)).getD 7) l with
      | none => .next s
      | some z => .next { s.moveLane p z with links := aset key (z.2.2.2, s.fc) s.links }

/-- A recomputed slot table takes effect in the first fc after its recomputation in which the slot pointer is 0 (R22). -/
def execSlotTableApply (x y : Nat) (s : State) : Out :=
  .next (if ((s.tile (tileKey x y)).slotsDue s.fc).isSome then s.modTile (tileKey x y) fun t => t.inForce s.fc else s)

/-- The slot pointer advances by one at the end of every fc of the tile's block (R21, R274). -/
def execSlotPointerAdvance (x y : Nat) (s : State) : Out :=
  .next (if tileOk x y && s.ticks (tileKey x y) then s.modTile (tileKey x y) fun t => t.step s.fc else s)

end Sys2Proof.Machine
end

