-- ==== Sys2Proof/Machine/Power.lean ====
section
/-! DEFINITION. Power failure, heartwood images and resets, soft errors, and the span transport
(24_host_links_power_fail.md R405, R406, R409 to R412). -/
namespace Sys2Proof.Machine

/-! ## Power failure (R409) -/

/-- Whether a key lies in space 3: the host's memory or another device's (R322). -/
def isFar (k : Nat) : Bool := decide (k ≥ 2 ^ 60)

/-- `n` stores of a context are abandoned: LOST rises, and holds at 0xFFFF (R385, R409). -/
def State.loseStores (s : State) (lctx n : Nat) : State :=
  s.modCtx lctx fun c => { c with lost := BitVec.ofNat 16 (min (c.lost.toNat + n) 0xFFFF) }

/-- The stores of a list of accesses to space 3, and the others. -/
def farWrites (l : List Acc) : List Acc := l.filter fun a => a.write && a.keys.any isFar
@[inherit_doc farWrites] def nearAccs (l : List Acc) : List Acc := l.filter fun a => !(a.write && a.keys.any isFar)

/-- An operator without its stores to space 3, and how many no write-combining buffer has taken. -/
def Op.dropFar (p : Op) : Op × Nat :=
  match p.kind with
  | .mem m => ({ p with kind := .mem { m with accs := nearAccs m.accs } }, ((farWrites m.accs).filter (!·.done)).length)
  | .spline x => ({ p with kind := .spline { x with accs := nearAccs x.accs } }, (farWrites x.accs).length)
  | .fibre f => ({ p with kind := .fibre { f with accs := nearAccs f.accs } }, (farWrites f.accs).length)
  | _ => (p, 0)

/-- A task without its stores to space 3, and how many there were. -/
def Task.dropFar (k : Task) : Task × Nat :=
  ({ k with ops := k.ops.map fun p => p.dropFar.1, wcb := k.wcb.filter fun w => !isFar w.line },
   lsum (k.ops.map fun p => p.dropFar.2) + lsum ((k.wcb.filter fun w => isFar w.line).map (·.stores)))

/-- Stores to space 3 that are not acknowledged are abandoned, wherever they stand: each raises its context's LOST (R385, R409).
-/
def State.abandonSpans (s : State) : State :=
  let s := (s.spans.filter (·.write)).foldl (fun s w => s.loseStores w.lctx w.stores) s
  let s := s.tasks.foldl (fun s (z : Nat × Task) => s.loseStores z.2.lctx z.2.dropFar.2) s
  let far (x : CoreStore) : Bool := isFar x.loc.key
  let s := s.cores.foldl (fun s c => s.loseStores c.lctx (c.stores.filter far).length) s
  { s with spans := s.spans.filter fun w => !w.write, tasks := avals (fun _ k => k.dropFar.1) s.tasks,
           cores := s.cores.map fun c => { c with stores := c.stores.filter fun x => !far x } }

/-- PWRFAIL_N is asserted (R409): fetching and issue stop, and every context pauses. -/
def execPowerFail (s : State) : Host.Outcome State Fault Refusal :=
  if s.dev.halt || s.dev.failAt.isSome then .next s
  else
    let s := { s with dev := { s.dev with failAt := some s.clock.run, failTai := s.tai } }
    .next (((s.ctxs.map (·.1)).foldl State.pauseTakesEffect s).abandonSpans)

/-- A firing that has not ended 20 µs after the assertion is saved where it stands (R274, R390, R409). -/
def execPowerFailFiringSave (t o : Nat) (s : State) : Host.Outcome State Fault Refusal :=
  match s.dev.failAt, s.task t with
  | some f, some k => .next (if decide (f + 20000 * nsUnits ≤ s.clock.run) && k.status == .pausing then s.saveFiring t o else s)
  | _, _ => .next s

/-- The bytes of a range of addresses in the space of a context; a page that does not translate reads as zero. -/
def State.vaBytes (s : State) (lctx va : Nat) : Nat → List Byte
  | 0 => []
  | n + 1 => (match s.xlateNow lctx va 1 0 with
    | .at_ l => memGet s.mem l.key
    | _ => 0) :: s.vaBytes lctx (va + 1) n

/-- Write bytes to a range of addresses in the space of a context; a page that does not translate takes none. -/
def State.putVaBytes (s : State) (lctx va : Nat) : List Byte → State
  | [] => s
  | b :: t =>
    (match s.xlateNow lctx va 1 1 with
     | .at_ l => { s with mem := memPut s.mem l.key b }
     | _ => s).putVaBytes lctx (va + 1) t

/-- The part of a heartwood image that holds a context (R410). -/
def State.imgCtx (s : State) (lctx : Nat) (c : Ctx) : ImgCtx :=
  let launches := s.launches.filter fun z => z.2.lctx == lctx
  let tasks := s.tasks.filter fun z => z.2.lctx == lctx
  let ids := tasks.map (·.1)
  let objs := lnub [] (launches.map (fun z => z.2.obj) ++ tasks.map fun z => z.2.obj)
  let mineTl (i : Nat) : Bool := c.hasTl i
  let mineBuf (h : Nat) : Bool := c.hasBuf h
  { lctx := lctx, ctx := c, launches := launches, ready := s.ready.filter fun r => launches.any fun z => z.1 == r.launch, tasks := tasks,
    timeline := s.timeline.filter fun (x : Nat × Dbl) => mineTl x.1, poisonedTl := s.poisonedTl.filter mineTl,
    handles := s.buffers.filter fun (x : Nat × Dbl) => mineBuf x.1,
    masks := s.masks.filter fun (x : Nat × (Nat × List Nat)) => mineBuf x.1,
    objs := objs.filterMap fun i => (s.objs[i]?).map fun o => (i, o),
    spawns := s.requests.filter fun q => match q with
      | .spawn t _ _ => ids.contains t
      | _ => false,
    replies := s.spawnReplies.filter fun x => ids.contains x.1,
    msgs := s.msgs.filter fun m => (m.target.map fun (x : Nat × Nat) => ids.contains x.1).getD false,
    keep := c.keeps.map fun (k : Nat × Nat × Nat) => (k.2.1, s.vaBytes lctx k.2.1 k.2.2), good := true }

/-- The newest valid image of the flash: 0 none, 1 slot A, 2 slot B (R407). -/
def Flash.newest (f : Flash) : Nat :=
  let seq (i : Option Image) : Option Nat := i.bind fun x => if x.valid then some x.seq else none
  match seq f.slotA, seq f.slotB with
  | some a, some b => if a ≥ b then 1 else 2
  | some _, none => 1
  | none, some _ => 2
  | none, none => 0

/-- The image in a slot. -/
def Flash.slot (f : Flash) (n : Nat) : Option Image :=
  match n with
  | 1 => f.slotA
  | 2 => f.slotB
  | _ => none

/-- The flash with an image in a slot. -/
def Flash.setSlot (f : Flash) (n : Nat) (i : Image) : Flash := if n = 1 then { f with slotA := some i } else { f with slotB := some i }

/-- No image is pending any more (R411). -/
def Flash.settle (f : Flash) : Flash :=
  let old : Option Image → Option Image := fun i => i.map fun x => { x with pending := false }
  { f with slotA := old f.slotA, slotB := old f.slotB }

/-- IMG and PEND as the flash has them (R407). -/
def State.readFlash (s : State) : State :=
  let n := s.flash.newest
  { s with dev := { s.dev with img := n, pend := ((s.flash.slot n).map (·.pending)).getD false } }

/-- Everything has come to rest: no task runs, pauses or stops, no placement is in progress, and the stores of the cores to spaces
1 and 2 are performed (R409). -/
def State.atRest (s : State) : Bool :=
  s.tasks.all (fun z => z.2.status == .paused) && s.placing.isNone && s.cores.all fun c => c.stores.all fun x => isFar x.loc.key

/-- Bytes of a context's part of an image: its save figures and its keep windows (log entry 118). -/
def ImgCtx.bytes (i : ImgCtx) : Nat := lsum (i.tasks.map fun z => z.2.saveFigure) + lsum (i.keep.map fun k => k.2.length)

/-- What the heartwood image holds before its trailer: SEQ is one more than that of the newest image (R410). -/
def State.imageBody (s : State) : ImageBody :=
  let parts := s.ctxs.map fun (c : Nat × Ctx) => s.imgCtx c.1 c.2
  { magic := imageMagic, version := 1, seq := ((s.flash.slot s.flash.newest).map (·.seq)).getD 0 + 1, tai := s.dev.failTai,
    length := 4096 + lsum (parts.map ImgCtx.bytes), knots := s.knots, ctxs := parts }

/-- The heartwood image, with its trailer (R410). -/
def State.heartwood (s : State) : Image :=
  { s.imageBody with sha := some s.imageBody, word := true, pending := true }

/-- The slot that an image is written to: the one that does not hold the newest valid image (R409). -/
def Flash.target (f : Flash) : Nat := if f.newest = 1 then 2 else 1

/-- The flash after a reset during the write of an image: the slot has no trailer, so that it holds no valid image (R410). -/
def State.cutShort (s : State) : Flash :=
  if s.dev.failAt.isSome && !s.dev.halt && s.atRest then
    s.flash.setSlot s.flash.target { s.imageBody with sha := none, word := false, pending := true }
  else s.flash

/-- The heartwood image and its trailer are written to the slot that does not hold the newest valid image, and the module
halts (R409). -/
def execHeartwoodWriteEnd (s : State) : Host.Outcome State Fault Refusal :=
  if s.dev.failAt.isNone || s.dev.halt || !s.atRest then .next s
  else
    let s := s.abandonSpans
    let s := { s with flash := s.flash.setSlot s.flash.target s.heartwood }
    .next ({ s with dev := { s.dev with halt := true } } : State).readFlash

/-! ## RESTORE (R411) -/

/-- Whether a part of an image names a context, counter, handle or window that is live (R411). -/
def State.partLive (s : State) (i : ImgCtx) : Bool :=
  s.ctxs.any fun (c : Nat × Ctx) =>
    c.1 == i.lctx || i.ctx.meets c.2 || rangesMeet i.ctx.shmBase i.ctx.shmLen c.2.shmBase c.2.shmLen

/-- The number of an object that an image names: the one registered at the same address, or a placeholder (R410). -/
def State.findObj (s : State) (o : Obj) : State × Nat :=
  match lfind (fun (x : Obj) => x.va == o.va && x.pasid == o.pasid) s.objs with
  | some n => (s, n)
  | none => ({ s with objs := s.objs ++ [{ o with tainted := true, lost := true, verified := [], failed := [] }] }, s.objs.length)

/-- The numbers of the objects of a part. -/
def State.findObjs (s : State) : List (Nat × Obj) → State × List (Nat × Nat)
  | [] => (s, [])
  | (i, o) :: rest =>
    match s.findObj o with
    | (s, n) => match s.findObjs rest with
      | (s, l) => (s, (i, n) :: l)

/-- A task of an image with the numbers it takes now. -/
def Task.renumbered (k : Task) (dt dl : Nat) (objs : List (Nat × Nat)) : Task :=
  { k with launch := k.launch + dl, obj := (aget k.obj objs).getD k.obj, parent := k.parent.map fun p => (p.1 + dt, p.2.1, p.2.2),
           chans := k.chans.map fun c => { c with joined := c.joined.map fun j => (j.1 + dt, j.2) } }

/-- The state of a context of an image, with its tasks and launches paused (R411). -/
def State.restorePart (s : State) (i : ImgCtx) : State :=
  let dt := s.nextTask
  let dl := s.nextLaunch
  match s.findObjs i.objs with
  | (s, objs) =>
    let tasks := i.tasks.map fun (z : Nat × Task) => (z.1 + dt, z.2.renumbered dt dl objs)
    let launches := i.launches.map fun (z : Nat × Launch) =>
      (z.1 + dl, { z.2 with obj := (aget z.2.obj objs).getD z.2.obj, paused := true })
    let c : Ctx := { i.ctx with
      pausing := false, paused := true, pauseTag := none, resumeTag := none, idle := 0, busy := false,
      stopCond := none, stopTask := none, faults := i.ctx.faults.map fun (r : Nat × BitVec 256) => (r.1 + dl, r.2) }
    let again : List PReq := (tasks.filter fun z => z.2.wrapDue.isSome || z.2.wrapMark).map fun z => .again z.1
    let spawns : List PReq := i.spawns.map fun q => match q with
      | .spawn t o r => .spawn (t + dt) o r
      | q => q
    let s : State := { s with
      ctxs := aset i.lctx c s.ctxs, tasks := s.tasks ++ tasks, launches := s.launches ++ launches,
      ready := s.ready ++ i.ready.map fun r => { r with launch := r.launch + dl },
      timeline := i.timeline ++ s.timeline.filter fun (x : Nat × Dbl) => !c.hasTl x.1,
      poisonedTl := i.poisonedTl ++ s.poisonedTl.filter fun n => !c.hasTl n,
      buffers := i.handles ++ s.buffers.filter fun (x : Nat × Dbl) => !c.hasBuf x.1,
      masks := i.masks ++ s.masks.filter fun (x : Nat × (Nat × List Nat)) => !c.hasBuf x.1, requests := s.requests ++ again ++ spawns,
      spawnReplies := s.spawnReplies ++ i.replies.map fun x => (x.1 + dt, x.2),
      msgs := s.msgs ++ i.msgs.map fun m => { m with target := m.target.map fun x => (x.1 + dt, x.2) },
      nextTask := lmax (s.nextTask :: tasks.map fun z => z.1 + 1), nextLaunch := lmax (s.nextLaunch :: launches.map fun z => z.1 + 1) }
    let s := launches.foldl (fun s z => s.wantFsr z.1) s
    i.keep.foldl (fun s (k : Nat × List Byte) => s.putVaBytes i.lctx k.1 k.2) s

/-- A context whose part fails its verification: every task of it is FAILED with POWER_FAIL (R411). -/
def State.restoreBad (s : State) (i : ImgCtx) : State :=
  let dl := s.nextLaunch
  let s := s.restorePart { i with keep := [] }
  let fails : List (Nat × Nat) := lnubP ((i.tasks.filter fun z => z.2.parent.isNone).map (fun z => (z.2.launch, z.2.tcb)) ++
    i.ready.map fun r => (r.launch, r.tcb))
  let s := fails.foldl (fun s (z : Nat × Nat) =>
    let r : FaultRec :=
      { origin := originWord i.lctx 0 0 15 Code.powerFail, graph := 0, who := 0xFFFF, tcb := z.2, code := Code.powerFail.zeroExtend 8,
        struct := true, fit := false, holder := 0xFFFF, detail := 0 }
    (s.queueFault i.lctx (z.1 + dl) r).finish (z.1 + dl) z.2 5 (resultOf 0xFFFF 0 1 Code.powerFail.toNat false)) s
  { s with tasks := s.tasks.filter fun z => z.2.lctx != i.lctx }
where
  /-- Each pair once. -/
  lnubP : List (Nat × Nat) → List (Nat × Nat)
    | [] => []
    | a :: t => if t.contains a then lnubP t else a :: lnubP t

/-- `RESTORE` (R402, R411): 1 slot A, 2 slot B, 3 the newest valid image; 0 discards the pending image. -/
def execRestore (p : Packet) (s : State) : Host.Outcome State Fault Refusal :=
  let n := arg p 0
  .next (s.admin p fun s =>
    let tag := adminTag p
    let slot := if n = 3 then s.flash.newest else n
    if n = 0 then (({ s with flash := s.flash.settle } : State).readFlash).adminDone tag true
    else match s.flash.slot slot with
      | none => s.adminDone tag false
      | some i =>
        if n > 3 || !i.valid || i.ctxs.any s.partLive then s.adminDone tag false
        else
          let s := i.ctxs.foldl (fun s x => if x.good then s.restorePart x else s.restoreBad x) s
          (({ s with flash := s.flash.settle } : State).readFlash).adminDone tag true)

/-! ## Resets (R406) -/

/-- A cold reset: every state but the flash is cleared, the knot map loaded, and READY set (R406, R411). The memory of the host and
of other devices, and what the host maps, lie outside the device. The model's own fields go on. -/
def execColdReset (s : State) : Host.Outcome State Fault Refusal :=
  let z := State.reset
  .next ({ z with agenda := s.agenda, tick := s.tick, issues := s.issues, flash := s.cutShort, mem := memKeep s.mem isFar,
                  hostAbsent := s.hostAbsent,
                  knots := lnub [] (s.flash.fused ++ s.flash.retired), dev := { z.dev with ready := true } } : State).readFlash

/-! ## Soft errors (R412) -/

/-- A correctable error is corrected and counted; eight within 3,600 s retire the tile (R412). -/
def execEccCorrectable (x y : Nat) (s : State) : Host.Outcome State Fault Refusal :=
  if !tileOk x y then .next s
  else
    let tile := tileKey x y
    let errs := s.recentErrs (s.tile tile).errs ++ [s.tai.toNat]
    let s := s.modTile tile fun t => { t with errs := errs }
    .next (if errs.length ≥ 8 then s.retireTile tile else s)

/-- Errors older than 3,600 s pass out of the count (R412). -/
def execCorrectableErrorAgeOut (x y : Nat) (s : State) : Host.Outcome State Fault Refusal :=
  .next (if tileOk x y then s.modTile (tileKey x y) fun t => { t with errs := s.recentErrs t.errs } else s)

/-- The token at the head of an end queue becomes ECC poison. -/
def State.eccToken (s : State) (t chan x y : Nat) : State :=
  s.modChan t chan fun c => match c.endq with
    | q :: rest =>
      if c.net == .control then c
      else { c with endq := { q with tok := poisonTok (hdrTag q.tok.hdr) (originWord (s.lctxOf t) x y 15 Code.ecc) } :: rest }
    | [] => c

/-- The oldest read in flight of a list of accesses becomes ECC poison. -/
def eccAcc (w : Word) : List Acc → List Acc
  | [] => []
  | a :: rest => if a.write then a :: eccAcc w rest else { a with done := true, poison := some w, hdr := mkHdr Kind.poison 0 0 } :: rest

/-- A read in flight of a memory node or a walker becomes ECC poison (R381, R412). -/
def State.eccRead (s : State) (t o : Nat) : State :=
  let w := s.origin t o Code.ecc
  s.modOp t o fun p => match p.kind with
    | .mem m =>
      if m.accs.any (fun a => !a.write) then { p with kind := .mem { m with accs := eccAcc w m.accs, bad := m.bad.or (some w) } }
      else p
    | .walker k => { p with kind := .walker { k with accs := eccAcc w k.accs } }
    | _ => p

/-- The head token of a link buffer becomes ECC poison. -/
def State.eccLink (s : State) (t chan hop x y : Nat) : State :=
  let w := originWord (s.lctxOf t) x y 15 Code.ecc
  let spoil : List QTok → List QTok
    | q :: rest => { q with tok := poisonTok (hdrTag q.tok.hdr) w } :: rest
    | [] => []
  s.modChan t chan fun c => if c.net == .control then c else { c with bufs := lmod hop spoil c.bufs }

/-- A vector register, a weight plane, the element that a copy reads next, or a computed tile of a spline becomes ECC poison. -/
def State.eccReg (s : State) (t o v : Nat) : State :=
  s.modVec t o fun c => { c with vregs := lmod v (fun r => { r with mark := some (s.origin t o Code.ecc) }) c.vregs }
@[inherit_doc State.eccReg] def State.eccPlane (s : State) (t o : Nat) (shadow : Bool) : State :=
  let bad (p : Plane) : Plane := { p with poison := some (s.origin t o Code.ecc) }
  s.modMatrix t o fun m => if shadow then { m with shadow := bad m.shadow } else { m with active := bad m.active }
@[inherit_doc State.eccReg] def State.eccCopy (s : State) (t o n : Nat) : State :=
  s.modSlot t o n fun x => if x.firing && !x.finished then { x with fetch := some (.lost Code.ecc) } else x
@[inherit_doc State.eccReg] def State.eccTile (s : State) (t o n : Nat) : State :=
  s.modSpline t o fun x => if aget n x.flags == some 2 then { x with flags := aset n 3 x.flags } else x

/-- The command of a context in a bank has read a bad word: it ends with STATUS 2 and a record (R381). -/
def State.eccBank (s : State) (b lctx : Nat) : State :=
  match s.bankCmd b lctx with
  | some k => (s.bankRecord lctx Code.ecc false 0).bankEnd b k 2
  | none => s

/-- A page of a heartwood slot is lost: that part fails its verification, or the trailer is not good (R410, R411). -/
def State.eccFlash (s : State) (slot part : Nat) : State :=
  match s.flash.slot slot with
  | none => s
  | some i =>
    let spoil (l : List ImgCtx) : List ImgCtx := lmod part (fun x => { x with good := false }) l
    let i := if part < i.ctxs.length then
        { i with ctxs := spoil i.ctxs, sha := i.sha.map fun b => { b with ctxs := spoil b.ctxs } }
      else { i with word := false }
    ({ s with flash := s.flash.setSlot slot i } : State).readFlash

/-- A line of a fibre unit's buffer becomes ECC poison (R296). -/
def State.eccLine (s : State) (t o n : Nat) : State :=
  let w := s.origin t o Code.ecc
  s.modFibre t o fun f => { f with badLines := (n / 4096, n % 4096, w) :: f.badLines }

/-- An uncorrectable error in data gives ECC poison, and retires the tile (R412). -/
def execEccUncorrectable (x y : Nat) (w : EccWhere) (s : State) : Host.Outcome State Fault Refusal :=
  if !tileOk x y then .next s
  else
    let tile := tileKey x y
    let lctx := (s.tasks.findSome? fun z => if (aget tile z.2.entries).isSome then some z.2.lctx else none).getD 0
    let s' := match w with
      | .granule off => s.tilePoison tile (off / 16 * 16) 16 (originWord lctx x y 9 Code.ecc)
      | .token t c => s.eccToken t c x y
      | .read t o => s.eccRead t o
      | .line t o n => s.eccLine t o n
      | .link t c h => s.eccLink t c h x y
      | .vreg t o v => s.eccReg t o v
      | .plane t o b => s.eccPlane t o b
      | .copy t o n => s.eccCopy t o n
      | .spline t o n => s.eccTile t o n
      | .bank b c => s.eccBank b c
      | .flash n p => s.eccFlash n p
      | .none => s
    .next (match w with
      | .flash _ _ => s'
      | _ => s'.uncorrectable tile)

/-- A parity error freezes the node with CFG_PARITY, and counts as uncorrectable (R383, R384, R412). -/
def execCfgParityError (t o word : Nat) (s : State) : Host.Outcome State Fault Refusal :=
  match s.op t o with
  | none => .next s
  | some p => .next ((s.freeze t o Code.cfgParity (BitVec.ofNat 32 word)).uncorrectable (tileKey p.place.x p.place.y))

/-! ## The span transport (R340, R344, R405) -/

/-- One remote access, translated through the stage 1 tables of the context whose window receives it (R405). -/
def State.spanAccess (s : State) (a : SpanAccess) : State :=
  match s.ctx a.lctx with
  | none => s
  | some c =>
    let n := min a.bytes 128
    if a.offset.toNat + n > c.spanLen then s
    else if a.write then
      match s.xlateNow a.lctx (c.span + a.offset.toNat) n 1 with
      | .at_ l => (s.writeLoc l n a.data.toNat).touch l
      | _ => s
    else match s.xlateNow a.lctx (c.span + a.offset.toNat) n 0 with
      | .at_ l => s.touch l
      | _ => s

/-- A frame of one to sixteen flits arrives: its accesses are performed in order (R405). -/
def execSpanFrameReceive (src : Nat) (flits : List SpanAccess) (s : State) : Host.Outcome State Fault Refusal :=
  .next (if s.dev.halt || decide (src ≥ 2 ^ 20) || decide (flits.length > 16) then s else flits.foldl State.spanAccess s)

/-- The elements in a line of data. -/
def elemsOf (size n : Nat) (data : Wide) : List Nat := (List.range n).map fun i => data.toNat / 2 ^ (8 * size * i) % 2 ^ (8 * size)

/-- A core's access of another device ends without an acknowledgement: a load or an amo traps with XLATE, with EPC at it (R154, R405;
DEDUCED, log entry 117). -/
def State.coreLost (s : State) (core : Nat) (x : SpanOut) : State :=
  match (s.core core).loads.find? fun l => l.seq == x.k with
  | some l => (s.modCore core fun c => { c with loads := c.loads.filter fun l => l.seq != x.k }).coreTrapAt core l.pc
      (faultCause Code.xlate) l.va
  | none => s

/-- A core's load from another device has its data, or traps (R405). -/
def State.coreReadEnd (s : State) (core : Nat) (x : SpanOut) (ok : Bool) (data : Wide) : State :=
  if ok then s.modCore core fun c => { c with loads := c.loads.map fun l =>
    if l.seq = x.k then { l with amo := some (extend l.bytes (data.toNat % 2 ^ (8 * l.bytes))) } else l }
  else s.coreLost core x

/-- A copy's read of another device ends: its bytes are here, unless another part of them has still to come (R405). -/
def State.copyReadEnd (s : State) (x : SpanOut) (ok : Bool) (data : Wide) : State :=
  match s.slot x.t x.o (x.k % 16) with
  | none => s
  | some z =>
    if !z.firing || z.fireNo ≠ x.k / 16 then s
    else if !ok then s.modSlot x.t x.o (x.k % 16) fun z => { z with fetch := some (.lost Code.xlate) }
    else
      let more := s.spans.any fun y => !y.write && y.t == x.t && y.o == x.o && y.k == x.k && y.core.isNone && y.bank.isNone
      let s : State := { s with mem := memWrite s.mem x.key x.bytes data.toNat }
      s.modSlot x.t x.o (x.k % 16) fun z =>
        { z with fetch := match z.fetch with
          | some (.lost c) => some (.lost c)
          | _ => if more then some .asked else some .here }

/-- A remote read ends: with its data, or with XLATE poison (R405). -/
def State.spanReadEnd (s : State) (x : SpanOut) (ok : Bool) (data : Wide) : State :=
  match x.bank with
  | some (b, c) =>
    match (aget b s.banks).bind fun k => aget c k.running with
    | none => s
    | some k =>
      if ok then s.modBankCmd b c fun k => { k with waiting := false, got := elemsOf k.size (x.bytes / k.size) data }
      else s.bankAbandon b k
  | none => match x.core with
    | some c => s.coreReadEnd c x ok data
    | none =>
      let w := s.origin x.t x.o Code.xlate
      let land (a : Acc) : Acc :=
        if a.k = x.k ∧ !a.write ∧ !a.done then
          (if ok then { a with done := true, val := data } else { a with done := true, poison := some w, hdr := mkHdr Kind.poison 0 0 })
        else a
      match (s.op x.t x.o).map Op.kind with
      | some (.walker _) => s.modWalker x.t x.o fun k => { k with accs := k.accs.map land }
      | some (.fibre _) => s.modFibre x.t x.o fun f =>
          let al := f.lines.getD x.k (0, 0)
          { f with accs := f.accs.map land, badLines := if ok then f.badLines else (al.1, al.2, w) :: f.badLines }
      | some (.copy _) => s.copyReadEnd x ok data
      | _ => s.modMem x.t x.o fun m => { m with accs := m.accs.map land, bad := if ok then m.bad else m.bad.or (some w) }

/-- A write of a unit that goes without an acknowledgement: XLATE poison that a spline or a fibre unit holds as a sink does, an `sp.run`
that ends with STATUS 2, or a data fault of the copy (R258, R328, R347, R405). -/
def State.unitLost (s : State) (x : SpanOut) : State :=
  match (s.op x.t x.o).map Op.kind with
  | some (.spline z) => match z.run with
    | some r => s.runFault x.t x.o r
    | none => s.sinkPoison x.t x.o (s.origin x.t x.o Code.xlate)
  | some (.copy _) => match s.slot x.t x.o (x.k % 16) with
    | some z => if z.firing && z.fireNo == x.k / 16 then s.copyBad x.t x.o (x.k % 16) Code.xlate else s.engineFault x.t x.o Code.xlate
    | none => s
  | some _ => s.sinkPoison x.t x.o (s.origin x.t x.o Code.xlate)
  | none => s

/-- A remote write ends. One that is not acknowledged gives XLATE poison, held as a sink holds one by each store node that
still waits for it (R334, R405). -/
def State.spanWriteEnd (s : State) (x : SpanOut) (ok : Bool) : State :=
  if ok then s
  else match x.core, s.task x.t with
    | some c, _ => s.coreLost c x
    | none, none => s
    | none, some k =>
      if x.o ≠ wcbUnit then s.unitLost x
      else (List.range k.ops.length).foldl (fun s o =>
        let waits := ((s.mnode x.t o).map fun m => m.dscope == 3 && m.accs.any fun a =>
          a.write && a.done && a.keys.any fun y => y / 128 * 128 == x.key).getD false
        if waits then
          let w := s.origin x.t o Code.xlate
          (s.sinkPoison x.t o w).memBad x.t o w
        else s) s

/-- A remote access ends. -/
def State.spanEnd (s : State) (x : SpanOut) (ok : Bool) (data : Wide) : State :=
  let s := { s with spans := s.spans.filter fun y => y.id != x.id }
  if x.write then s.spanWriteEnd x ok else s.spanReadEnd x ok data

/-- An acknowledgement returns (R405). -/
def execSpanAckReceive (id : Nat) (ok : Bool) (data : Wide) (s : State) : Host.Outcome State Fault Refusal :=
  match s.spans.find? fun x => x.id == id with
  | some x => .next (if s.dev.halt then s else s.spanEnd x ok data)
  | none => .next s

/-- 100 µs on `Clock.run` (R405). -/
def spanTimeout : Nat := 100000 * nsUnits

/-- An access that is not acknowledged within 100 µs gives XLATE poison (R405). -/
def execSpanAccessTimeout (id : Nat) (s : State) : Host.Outcome State Fault Refusal :=
  match s.spans.find? fun x => x.id == id with
  | some x => .next (if x.at_ + spanTimeout ≤ s.clock.run then s.spanEnd x false 0 else s)
  | none => .next s

/-- A flit is sent again at link level until it is acknowledged (R405): the state of the device does not change. -/
def execFlitRetry (id : Nat) (s : State) : Host.Outcome State Fault Refusal :=
  .next (if s.spans.any fun x => x.id == id then s else s)

end Sys2Proof.Machine
end

