-- ==== Sys2Proof/Machine/Vector.lean ====
section
/-! DEFINITION. The vector instructions (11_vector_instructions.md R206 to R221). -/
namespace Sys2Proof.Machine

/-! ## Element-wise arithmetic (R206, R207) -/

/-- A float or integer operation on lanes of equal tags; a rounding other than RNE on an integer format is INVALID
(R205, R206). -/
def arith (ftz : Bool) (rm : Rm) (l : List VReg) (accept : Nat → Bool) (ff : List Fp → Fp) (fi : List Int → Int) :
    Except (BitVec 7) VOut :=
  let fmt := tagFmt ((l.head?.map (·.tag)).getD 0)
  if !okSources accept l || (isInt fmt && rm != .rne) then .error Code.invalid
  else if isInt fmt then .ok (lanewise l fun xs => wrapLane fmt (fi (xs.map (intElem fmt))))
  else .ok (lanewise l fun xs => fmtResult fmt ftz (rmC rm) (ff (xs.map (fmtOperand fmt ftz))))

/-- The value of a list of two operands. -/
def two {α β : Type} (f : α → α → β) (z : β) : List α → β
  | [a, b] => f a b
  | _ => z
/-- The value of a list of three operands. -/
def three {α β : Type} (f : α → α → α → β) (z : β) : List α → β
  | [a, b, c] => f a b c
  | _ => z
/-- The value of a list of one operand. -/
def one {α β : Type} (f : α → β) (z : β) : List α → β
  | [a] => f a
  | _ => z

/-- `vadd` (R206). -/
def execVadd (d a b : VNum) (p : Pred) (rm : Rm) (s : State) : Out :=
  .next (s.vecOp d [a, b] p 1 true fun _ l =>
    arith s.ftzNow rm l isSeven (two (fpAdd (rm == .rdn)) .nan) (two (· + ·) 0))
/-- `vsub` (R206). -/
def execVsub (d a b : VNum) (p : Pred) (rm : Rm) (s : State) : Out :=
  .next (s.vecOp d [a, b] p 1 true fun _ l =>
    arith s.ftzNow rm l isSeven (two (fun x y => fpAdd (rm == .rdn) x (fpNeg y)) .nan) (two (· - ·) 0))
/-- `vmul` (R206). -/
def execVmul (d a b : VNum) (p : Pred) (rm : Rm) (s : State) : Out :=
  .next (s.vecOp d [a, b] p 1 true fun _ l => arith s.ftzNow rm l isSeven (two fpMul .nan) (two (· * ·) 0))
/-- `vfma` (R206). -/
def execVfma (d a b c : VNum) (p : Pred) (rm : Rm) (s : State) : Out :=
  .next (s.vecOp d [a, b, c] p 1 true fun _ l =>
    arith s.ftzNow rm l isFloat3 (three (fun x y z => fpAdd (rm == .rdn) (fpMul x y) z) .nan) (fun _ => 0))
/-- `vfms` (R206). -/
def execVfms (d a b c : VNum) (p : Pred) (rm : Rm) (s : State) : Out :=
  .next (s.vecOp d [a, b, c] p 1 true fun _ l =>
    arith s.ftzNow rm l isFloat3 (three (fun x y z => fpAdd (rm == .rdn) (fpMul x y) (fpNeg z)) .nan) (fun _ => 0))

/-- Formats of vneg and vabs: float, INT32, INT16, INT8 (R206). -/
def isSignedFmt (fmt : Nat) : Bool := isSeven fmt && fmt != 0xC

/-- The value with its sign cleared. -/
def fpAbs : Fp → Fp
  | .nan => .nan
  | .inf _ => .inf false
  | .fin _ m e => .fin false m e

/-- `vneg` (R206). -/
def execVneg (d a : VNum) (p : Pred) (s : State) : Out :=
  .next (s.vecOp d [a] p 1 true fun _ l => arith s.ftzNow .rne l isSignedFmt (one fpNeg .nan) (one (fun x => -x) 0))
/-- `vabs` (R206). -/
def execVabs (d a : VNum) (p : Pred) (s : State) : Out :=
  .next (s.vecOp d [a] p 1 true fun _ l =>
    arith s.ftzNow .rne l isSignedFmt (one fpAbs .nan) (one (fun x => (x.natAbs : Int)) 0))

/-- The smaller or the larger of two lanes (R121, R206). -/
def laneMinMax (fmt : Nat) (ftz isMax : Bool) (x y : Word) : Word :=
  match floatFmt fmt with
  | some f => BitVec.ofNat 32 (fpMinMax f (ftz && isFloat3 fmt) isMax x.toNat y.toNat)
  | none =>
    if isMax then (if intElem fmt x < intElem fmt y then y else x) else (if intElem fmt y < intElem fmt x then y else x)

/-- vmin and vmax (R206). -/
def minMaxOut (ftz isMax : Bool) (l : List VReg) : Except (BitVec 7) VOut :=
  let fmt := tagFmt ((l.head?.map (·.tag)).getD 0)
  if !okSources isSeven l then .error Code.invalid else .ok (lanewise l (two (laneMinMax fmt ftz isMax) 0))

/-- `vmin` (R206). -/
def execVmin (d a b : VNum) (p : Pred) (s : State) : Out :=
  .next (s.vecOp d [a, b] p 1 true fun _ l => minMaxOut s.ftzNow false l)
/-- `vmax` (R206). -/
def execVmax (d a b : VNum) (p : Pred) (s : State) : Out :=
  .next (s.vecOp d [a, b] p 1 true fun _ l => minMaxOut s.ftzNow true l)

/-- An estimate: FP32 only, rounded once to nearest even (R207). -/
def estimate (ftz : Bool) (f : Fp → Fp) (l : List VReg) : Except (BitVec 7) VOut :=
  if !okSources (· == 1) l then .error Code.invalid
  else .ok (lanewise l (one (fun x => fmtResult 1 ftz .rne (f (fmtOperand 1 ftz x))) 0))

/-- 1/a (R207). -/
def rcpOf (x : Fp) : Fp := fpDiv (.fin false 1 0) x
/-- 1/√a (R207). -/
def rsqrtOf : Fp → Fp
  | .nan => .nan
  | .inf neg => if neg then .nan else .fin false 0 0
  | .fin neg m e => if m = 0 then .inf neg else if neg then .nan else fpRsqrt m e
/-- 2^a (R207). -/
def exp2Of : Fp → Fp
  | .nan => .nan
  | .inf neg => if neg then .fin false 0 0 else .inf false
  | .fin neg m e => fpExp2 neg m e
/-- log2 a (R207). -/
def log2Of : Fp → Fp
  | .nan => .nan
  | .inf neg => if neg then .nan else .inf false
  | .fin neg m e => if m = 0 then .inf true else if neg then .nan else fpLog2 m e

/-- `vrcp` (R207). -/
def execVrcp (d a : VNum) (p : Pred) (s : State) : Out := .next (s.vecOp d [a] p 4 true fun _ l => estimate s.ftzNow rcpOf l)
/-- `vrsqrt` (R207). -/
def execVrsqrt (d a : VNum) (p : Pred) (s : State) : Out :=
  .next (s.vecOp d [a] p 4 true fun _ l => estimate s.ftzNow rsqrtOf l)
/-- `vexp2` (R207). -/
def execVexp2 (d a : VNum) (p : Pred) (s : State) : Out :=
  .next (s.vecOp d [a] p 4 true fun _ l => estimate s.ftzNow exp2Of l)
/-- `vlog2` (R207). -/
def execVlog2 (d a : VNum) (p : Pred) (s : State) : Out :=
  .next (s.vecOp d [a] p 4 true fun _ l => estimate s.ftzNow log2Of l)

/-! ## Compare and select (R208, R209) -/

/-- Whether a CC is one of a format (R89, R208). -/
def ccOk (fmt : Nat) (cc : Cond) : Bool :=
  match cc with
  | .ltu | .geu | .leu | .gtu => isInt fmt
  | .uno => !isInt fmt
  | _ => true

/-- A CC between two lanes; UINT8 compares unsigned under every CC (R208). -/
def laneCond (fmt : Nat) (ftz : Bool) (cc : Cond) (x y : Word) : Bool :=
  if isInt fmt then
    let a := intElem fmt x
    let b := intElem fmt y
    let u (v : Word) : Nat := v.toNat % 2 ^ fmtBits fmt
    match cc with
    | .eq => a == b
    | .ne => a != b
    | .lt => decide (a < b)
    | .ge => decide (b ≤ a)
    | .le => decide (a ≤ b)
    | .gt => decide (b < a)
    | .ltu => decide (u x < u y)
    | .geu => decide (u y ≤ u x)
    | .leu => decide (u x ≤ u y)
    | .gtu => decide (u y < u x)
    | .uno => false
  else fpCond cc (fmtOperand fmt ftz x) (fmtOperand fmt ftz y)

/-- The bits i below 512 that meet a condition. -/
def bitsOf (f : Nat → Bool) : BitVec 512 := (List.range 512).foldl (fun w i => if f i then w ||| (1 <<< i) else w) 0

/-- `vcmp.cc` (R208). -/
def execVcmpCc (cc : Cond) (d : PNum) (a b : VNum) (p : Pred) (s : State) : Out :=
  match s.curVec with
  | none => .next s
  | some (t, o, c, _) =>
    match c.markOf [a, b] p with
    | some w => .next ((s.markP t o d w).vecAdvance t o 1)
    | none =>
      let l := [c.v a, c.v b]
      let fmt := tagFmt (c.v a).tag
      if !okSources isSeven l || !ccOk fmt cc then .next ((s.markP t o d (s.origin t o Code.invalid)).vecAdvance t o 1)
      else
        let n := minLen l
        let old := c.p d
        let ftz := s.ftzNow
        let bits := bitsOf fun i =>
          if c.sel p i then decide (i < n) && laneCond fmt ftz cc ((c.v a).lane i) ((c.v b).lane i) else old.bits.getLsbD i
        .next (((s.dropMark t o old.mark).modVec t o fun c =>
          { c with pregs := lmod d.val (fun _ => { bits := bits, mark := none }) c.pregs }).vecAdvance t o 1)

/-- `vsel` (R209): every lane is written. Scaled sources are not among those that R202 lets it read (log entry 82). -/
def execVsel (d a b : VNum) (p : PNum) (s : State) : Out :=
  .next (s.vecOp d [a, b] (some p) 1 false fun c l =>
    match l with
    | [x, y] =>
      if sameTags l && tagFmt x.tag != 0 && !tagScl x.tag then
        .ok { lanes := (List.range (minLen l)).map fun i => if (c.p p).bits.getLsbD i then x.lane i else y.lane i,
              tag := x.tag, side := some x.side, flags := 0 }
      else .error Code.invalid
    | _ => .error Code.invalid)

/-! ## Conversion (R210, R190, R191) -/

/-- The value a conversion reads: a real or integer value, and whether its source is an integer (R190, R210). -/
structure CvtIn where
  v : Fp
  int : Bool
  tbad : Bool
deriving DecidableEq, Repr

/-- A value times a power of two. -/
def fpScale : Fp → Int → Fp
  | .fin neg m e, k => .fin neg m (e + k)
  | v, _ => v

/-- Element `i` as a conversion reads it, unscaled (R187, R210). -/
def cvtElem (ftz : Bool) (fmt : Nat) (x : Word) : CvtIn :=
  if fmt = 0xE then
    { v := if x.toNat % 256 = 255 then .nan else .fin false 1 ((x.toNat % 256 : Nat) - 127), int := false, tbad := false }
  else if fmt = 0xD then
    { v := match x.toNat % 4 with
        | 1 => .fin false 1 0
        | 3 => .fin true 1 0
        | _ => .fin false 0 0,
      int := true, tbad := x.toNat % 4 == 2 }
  else if isInt fmt then { v := fpOfInt (intElem fmt x) 0, int := true, tbad := false }
  else { v := fmtOperand fmt ftz x, int := false, tbad := false }

/-- Bytes of block scales: the byte of lane `i` (R183). -/
def sideByte (side : BitVec 512) (k : Nat) : Nat := (side.extractLsb' (8 * k) 8).toNat
/-- The block of lane `i` for a BLK code. -/
def blockOf (blk i : Nat) : Nat :=
  match blk with
  | 1 => i / 16
  | 2 => i / 32
  | _ => 0

/-- Element `i` of a register at its scaled value (R183). -/
def cvtLane (ftz : Bool) (r : VReg) (i : Nat) : CvtIn :=
  let e := cvtElem ftz (tagFmt r.tag) (r.lane i)
  if tagScl r.tag then
    let k := sideByte r.side (blockOf (tagBlk r.tag) i)
    if k = 255 then { e with v := .nan } else { e with v := fpScale e.v ((k : Int) - 127) }
  else e

/-- What one element converts to: its bits, its flags, and whether it fell into a NaN row without a NaN result (R190). -/
structure CvtOut where
  bits : Word
  flags : BitVec 3
  noNan : Bool
deriving DecidableEq, Repr

/-- Flags NV and OF (R192). -/
def flagNV : BitVec 3 := 1
@[inherit_doc flagNV] def flagOF : BitVec 3 := 2
/-- Flag TBAD. -/
def flagTBAD : BitVec 3 := 4

/-- An integer in a destination format, TERN included. -/
def intBits (fmt : Nat) (v : Int) : Word := if fmt = 0xD then ternCode v else wrapLane fmt v

/-- The conversion of one element (R190, R210). -/
def cvtOne (ftz : Bool) (fmt : Nat) (rm : RmC) (rnd : Nat) (sat : Bool) (x : CvtIn) : CvtOut :=
  let base : BitVec 3 := if x.tbad then flagTBAD else 0
  match floatFmt fmt with
  | some f =>
    match x.v with
    | .nan =>
      match f.nan with
      | some n => { bits := BitVec.ofNat 32 n, flags := base, noNan := false }
      | none => { bits := BitVec.ofNat 32 f.maxEnc, flags := base ||| flagNV, noNan := true }
    | .inf neg =>
      if f.inf then { bits := BitVec.ofNat 32 (f.signed neg f.infEnc), flags := base, noNan := false }
      else { bits := BitVec.ofNat 32 (f.signed neg f.maxEnc), flags := base ||| flagOF, noNan := false }
    | .fin neg m e =>
      let mag := f.roundMag rm rnd neg m e
      if mag > f.maxEnc then
        if sat then { bits := BitVec.ofNat 32 (f.signed neg f.maxEnc), flags := base, noNan := false }
        else
          { bits := BitVec.ofNat 32 (f.signed neg (if f.inf then f.overflow rm neg else f.maxEnc)), flags := base ||| flagOF,
            noNan := false }
      else
        let mag := if ftz && isFloat3 fmt && f.isSub mag then 0 else mag
        { bits := BitVec.ofNat 32 (f.signed neg mag), flags := base, noNan := false }
  | none =>
    let lo := (intLimits fmt).1
    let hi := (intLimits fmt).2
    match x.v with
    | .nan => { bits := 0, flags := base ||| flagNV, noNan := true }
    | .inf neg => { bits := intBits fmt (if neg then lo else hi), flags := base ||| flagOF, noNan := false }
    | .fin neg m e =>
      let v := fpToInt rm rnd neg m e
      if lo ≤ v ∧ v ≤ hi then { bits := intBits fmt v, flags := base, noNan := false }
      else if sat then { bits := intBits fmt (if v < lo then lo else hi), flags := base, noNan := false }
      else if x.int && fmt != 0xD then { bits := wrapLane fmt v, flags := base ||| flagOF, noNan := false }
      else { bits := intBits fmt (if v < lo then lo else hi), flags := base ||| flagOF, noNan := false }

/-- SR takes its draws whatever becomes of the result (R189). -/
def State.takeDraws (s : State) (rm : RmC) (a : VNum) (p : Pred) : State :=
  match s.curVec with
  | some (t, o, c, _) =>
    if rm = .sr then s.modVec t o fun v => { v with x := drawsX (c.writtenCount p (c.v a).vlen) v.x } else s
  | none => s

/-- rnd24 of each lane: the draws of the lanes written before it (R189). -/
def Vec.rndOf (c : Vec) (rm : RmC) (p : Pred) (i : Nat) : Nat :=
  if rm = .sr then rnd24 c.x (c.writtenCount p i) else 0

/-- All flags of a list of converted elements, and whether any stands in a NaN row without a NaN. -/
def cvtFlags (l : List CvtOut) : BitVec 3 × Bool :=
  l.foldl (fun x y => (x.1 ||| y.flags, x.2 || y.noNan)) (0, false)

/-- The result of `vcvt` (R210). -/
def cvtOut (ftz : Bool) (c : Vec) (a : VNum) (fmt : Nat) (rm : RmC) (sat nanp : Bool) (p : Pred) : Except (BitVec 7) VOut :=
  let r := c.v a
  if tagFmt r.tag = 0 then .error Code.invalid
  else
    let outs := (List.range r.vlen).map fun i =>
      if c.sel p i then cvtOne ftz fmt rm (c.rndOf rm p i) sat (cvtLane ftz r i) else { bits := 0, flags := 0, noNan := false }
    if nanp && (cvtFlags outs).2 then .error Code.nanConv
    else .ok { lanes := outs.map (·.bits), tag := mkTag fmt false 0, side := none, flags := (cvtFlags outs).1 }

/-- `vcvt` (R210). -/
def execVcvt (d a : VNum) (fmt : BitVec 4) (rm : RmC) (sat nanp : Bool) (p : Pred) (s : State) : Out :=
  let c0 := s.curVec.map (·.2.2.1)
  .next ((s.takeDraws rm a p).vecOp d [a] p 1 true fun c _ => cvtOut s.ftzNow (c0.getD c) a fmt.toNat rm sat nanp p)

/-! ## vquant and vscale (R211, R212) -/

/-- emax of a format of vquant (R211). -/
def emaxOf (fmt : Nat) : Int :=
  match fmt with
  | 0x4 => 8
  | 0x5 => 15
  | 0x6 => 4
  | _ => 2

/-- floor(log2 |v|) of the largest of a list of finite values, and whether all are zero. -/
def topLog (l : List Fp) : Option Int :=
  l.foldl (fun best v => match v with
    | .fin _ m e =>
      if m = 0 then best
      else
        let k : Int := (Nat.log2 m : Int) + e
        match best with
        | none => some k
        | some b => some (max b k)
    | _ => best) none

/-- The block exponent E of R211, lines L310 to L330. -/
def blockScale (fmt : Nat) (l : List Fp) : Nat :=
  if l.any fun v => match v with
    | .fin _ _ _ => false
    | _ => true then 255
  else match topLog l with
    | none => 127
    | some k => (max 0 (min 254 (k - emaxOf fmt + 127))).toNat

/-- An element of a quantised block: rounded, then saturated (R211 L340). -/
def quantOne (fmt : Nat) (rm : RmC) (rnd e : Nat) (v : Fp) : Word :=
  match floatFmt fmt with
  | none => 0
  | some f =>
    if e = 255 then 0
    else match fpScale v (127 - (e : Int)) with
      | .fin neg m k => BitVec.ofNat 32 (f.signed neg (min (f.roundMag rm rnd neg m k) f.maxEnc))
      | _ => 0

/-- The result of `vquant` (R211). -/
def quantOut (ftz : Bool) (c : Vec) (a : VNum) (fmt : Nat) (rm : RmC) (blk : Nat) (p : Pred) : Except (BitVec 7) VOut :=
  let r := c.v a
  if !okSources isFloat3 [r] then .error Code.invalid
  else
    let b := if blk = 1 then 16 else 32
    let val (i : Nat) : Fp := fmtOperand (tagFmt r.tag) ftz (r.lane i)
    let members (k : Nat) : List Nat := (List.range b).filterMap fun j =>
      if b * k + j < r.vlen ∧ c.sel p (b * k + j) then some (b * k + j) else none
    let scales := (List.range (512 / b)).map fun k => blockScale fmt ((members k).map val)
    let bad := scales.zipIdx.any fun (x : Nat × Nat) => x.1 == 255 && !(members x.2).isEmpty
    .ok { lanes := (List.range r.vlen).map fun i =>
            if c.sel p i then quantOne fmt rm (c.rndOf rm p i) (scales.getD (i / b) 127) (val i) else 0,
          tag := mkTag fmt true blk,
          side := some (BitVec.ofNat 512 (lsum (scales.zipIdx.map fun (x : Nat × Nat) =>
            if b * x.2 < r.vlen then x.1 * 2 ^ (8 * x.2) else 0))),
          flags := if bad then flagNV else 0 }

/-- `vquant` (R211). -/
def execVquant (d a : VNum) (fmt : BitVec 4) (rm : RmC) (bsz : BitVec 3) (p : Pred) (s : State) : Out :=
  let c0 := s.curVec.map (·.2.2.1)
  .next ((s.takeDraws rm a p).vecOp d [a] p 1 true fun c _ => quantOut s.ftzNow (c0.getD c) a fmt.toNat rm bsz.toNat p)

/-- `vscale` (R212): the sidecar and tag of vd change; its lanes, VLEN and MARK stay. -/
def execVscale (d a : VNum) (bsz : BitVec 3) (s : State) : Out :=
  match s.curVec with
  | none => .next s
  | some (t, o, c, _) =>
    match (c.v a).mark with
    | some w => .next ((s.markV t o d w).vecAdvance t o 1)
    | none =>
      let r := c.v a
      if tagFmt r.tag ≠ 0xE ∨ tagScl r.tag ∨ tagFmt (c.v d).tag = 0 then
        .next ((s.markV t o d (s.origin t o Code.invalid)).vecAdvance t o 1)
      else
        let n := match bsz.toNat with
          | 1 => 32
          | 2 => 16
          | _ => 1
        let side := BitVec.ofNat 512 (lsum ((List.range n).map fun k => (r.lane k).toNat % 256 * 2 ^ (8 * k)))
        .next ((s.modVec t o fun c => { c with vregs := lmod d.val (fun x =>
          { x with side := side, tag := mkTag (tagFmt x.tag) true bsz.toNat }) c.vregs }).vecAdvance t o 1)

/-! ## Data movement (R213) -/

/-- A movement: va of any format but NONE; its tag and sidecar are copied. Only vmov reads scaled values (R202; log entry
82). -/
def moveOut (scaled : Bool) (r : VReg) (lanes : List Word) : Except (BitVec 7) VOut :=
  if tagFmt r.tag = 0 ∨ (tagScl r.tag ∧ ¬ scaled) then .error Code.invalid
  else .ok { lanes := lanes, tag := r.tag, side := some r.side, flags := 0 }

/-- `vperm` (R213). -/
def execVperm (d a b : VNum) (p : Pred) (s : State) : Out :=
  .next (s.vecOp d [a, b] p 4 true fun c _ =>
    let x := c.v a
    let y := c.v b
    let fmt := tagFmt y.tag
    if (fmt ≠ 0x9 ∧ fmt ≠ 0xA) ∨ tagScl y.tag then .error Code.invalid
    else moveOut false x ((List.range y.vlen).map fun i =>
      let j := intElem fmt (y.lane i)
      if 0 ≤ j ∧ j < x.vlen then x.lane j.toNat else 0))

/-- `vrot` (R213). -/
def execVrot (d a : VNum) (n : BitVec 9) (p : Pred) (s : State) : Out :=
  .next (s.vecOp d [a] p 4 true fun c _ =>
    let x := c.v a
    moveOut false x ((List.range x.vlen).map fun i => x.lane ((i + x.vlen * 512 - n.toNat) % x.vlen)))

/-- `vsplat` (R213). -/
def execVsplat (d a : VNum) (n : BitVec 9) (p : Pred) (s : State) : Out :=
  .next (s.vecOp d [a] p 1 true fun c _ =>
    let x := c.v a
    if n.toNat ≥ x.vlen then .error Code.invalid else moveOut false x (List.replicate 512 (x.lane n.toNat)))

/-- `vmov` (R213): without a predicate, lanes, VLEN, tag, sidecar and MARK are copied as they stand. -/
def execVmov (d a : VNum) (p : Pred) (s : State) : Out :=
  match s.curVec, p with
  | some (t, o, c, _), none =>
    if tagFmt (c.v a).tag = 0 ∧ (c.v a).mark.isNone then
      .next ((s.markV t o d (s.origin t o Code.invalid)).vecAdvance t o 1)
    else if d = a then .next (s.vecAdvance t o 1)
    else .next ((s.putV t o d (c.v a)).vecAdvance t o 1)
  | _, _ => .next (s.vecOp d [a] p 1 true fun c _ => moveOut true (c.v a) (c.v a).lanes)

/-! ## Bitwise, shifts and integer multiply-add (R214, R215) -/

/-- A bitwise operation on equal tag bytes of any format but NONE. -/
def bitwise (f : Word → Word → Word) (l : List VReg) : Except (BitVec 7) VOut :=
  match l with
  | x :: _ =>
    if !sameTags l || tagFmt x.tag == 0 then .error Code.invalid
    else .ok { lanewise l (two f 0) with side := if tagScl x.tag then some x.side else none }
  | [] => .error Code.invalid

/-- `vand` (R214). -/
def execVand (d a b : VNum) (p : Pred) (s : State) : Out := .next (s.vecOp d [a, b] p 1 true fun _ l => bitwise (· &&& ·) l)
/-- `vor` (R214). -/
def execVor (d a b : VNum) (p : Pred) (s : State) : Out := .next (s.vecOp d [a, b] p 1 true fun _ l => bitwise (· ||| ·) l)
/-- `vxor` (R214). -/
def execVxor (d a b : VNum) (p : Pred) (s : State) : Out := .next (s.vecOp d [a, b] p 1 true fun _ l => bitwise (· ^^^ ·) l)

/-- A shift of va by the low bits of vb (R214): `f` takes the format, the lane and the amount. -/
def shiftOut (unsignedOk : Bool) (f : Nat → Word → Nat → Word) (l : List VReg) : Except (BitVec 7) VOut :=
  match l with
  | [x, y] =>
    let fmt := tagFmt x.tag
    if !isInt fmt || !isInt (tagFmt y.tag) || tagScl x.tag || tagScl y.tag || (fmt == 0xC && !unsignedOk) then
      .error Code.invalid
    else .ok (lanewise l (two (fun v n => f fmt v (n.toNat % fmtBits fmt)) 0))
  | _ => .error Code.invalid

/-- `vshl` (R214). -/
def execVshl (d a b : VNum) (p : Pred) (s : State) : Out :=
  .next (s.vecOp d [a, b] p 1 true fun _ l =>
    shiftOut true (fun fmt v n => BitVec.ofNat 32 (v.toNat * 2 ^ n % 2 ^ fmtBits fmt)) l)
/-- `vshr` (R214). -/
def execVshr (d a b : VNum) (p : Pred) (s : State) : Out :=
  .next (s.vecOp d [a, b] p 1 true fun _ l =>
    shiftOut true (fun fmt v n => BitVec.ofNat 32 (v.toNat % 2 ^ fmtBits fmt / 2 ^ n)) l)
/-- `vsra` (R214). -/
def execVsra (d a b : VNum) (p : Pred) (s : State) : Out :=
  .next (s.vecOp d [a, b] p 1 true fun _ l =>
    shiftOut false (fun fmt v n => wrapLane fmt (intElem fmt v / 2 ^ n)) l)

/-- `vimad` (R215). -/
def execVimad (d a b c : VNum) (p : Pred) (s : State) : Out :=
  .next (s.vecOp d [a, b, c] p 1 true fun _ l =>
    match l with
    | [x, y, z] =>
      let ok (f : Nat) : Bool := f == 0xA || f == 0xB || f == 0xC
      let fx := tagFmt x.tag
      let fy := tagFmt y.tag
      if !ok fx || !ok fy || tagFmt z.tag != 0x9 || tagScl x.tag || tagScl y.tag || tagScl z.tag then .error Code.invalid
      else
        .ok (vout (mkTag 0x9 false 0) ((List.range (minLen l)).map fun i =>
          wrapLane 0x9 (intElem fx (x.lane i) * intElem fy (y.lane i) + intElem 0x9 (z.lane i))))
    | _ => .error Code.invalid)

/-! ## Tags and flags (R220) -/

/-- `vtag.set` (R220): VLEN and MARK are kept. -/
def execVtagSet (d : VNum) (fmt : BitVec 4) (scl : Bool) (bsz : BitVec 3) (s : State) : Out :=
  match s.curVec with
  | none => .next s
  | some (t, o, _, _) =>
    let w := fmtBits fmt.toNat
    .next ((s.modVec t o fun c => { c with vregs := lmod d.val (fun r =>
      { r with tag := mkTag fmt.toNat scl bsz.toNat,
               lanes := r.lanes.map fun x => BitVec.ofNat 32 (x.toNat % 2 ^ w),
               side := if fmt = 0 then 0 else r.side }) c.vregs }).vecAdvance t o 1)

/-- `vtag.get` (R220): it reads va even if va is marked. -/
def execVtagGet (d a : VNum) (clr : Bool) (s : State) : Out :=
  match s.curVec with
  | none => .next s
  | some (t, o, c, _) =>
    let r := c.v a
    let s' := s.putV t o d
      { lanes := [r.tag.zeroExtend 32, BitVec.ofNat 32 r.vlen, c.flags.zeroExtend 32], tag := mkTag 0x9 false 0,
        side := (c.v d).side, mark := none }
    .next ((if clr then s'.modVec t o fun c => { c with flags := 0 } else s').vecAdvance t o 1)

/-! ## Reductions and scans (R196, R221) -/

/-- The identity of a reduction (R196). -/
def redIdentity (fn : RedFn) (fmt : Nat) : Word :=
  match fn, floatFmt fmt with
  | .add, _ => 0
  | .min, some f => BitVec.ofNat 32 f.infEnc
  | .max, some f => BitVec.ofNat 32 (f.signed true f.infEnc)
  | .min, none => intBits fmt (intLimits fmt).2
  | .max, none => intBits fmt (intLimits fmt).1

/-- The operation of a reduction on two lanes. -/
def redOp (fn : RedFn) (fmt : Nat) (ftz : Bool) (rm : Rm) (x y : Word) : Word :=
  match fn with
  | .add =>
    if isInt fmt then wrapLane fmt (intElem fmt x + intElem fmt y)
    else fmtResult fmt ftz (rmC rm) (fpAdd (rm == .rdn) (fmtOperand fmt ftz x) (fmtOperand fmt ftz y))
  | .min => laneMinMax fmt ftz false x y
  | .max => laneMinMax fmt ftz true x y

/-- `vred`'s steps of stride 2^(n-1) down to 1 (R196). -/
def redTree (op : Word → Word → Word) : Nat → List Word → List Word
  | 0, l => l
  | n + 1, l =>
    let s := 2 ^ n
    redTree op n (List.zipWith op (l.take s) (l.drop s))

/-- `vscan`'s steps of stride 1 up to 256 (R196): `k` steps from stride 2^i. -/
def scanTree (op : Word → Word → Word) : Nat → Nat → List Word → List Word
  | 0, _, l => l
  | n + 1, i, l =>
    let s := 2 ^ i
    scanTree op n (i + 1) (l.take s ++ List.zipWith op l (l.drop s))

/-- The 512 lanes of a reduction: the identity at or beyond VLEN and where the predicate is 0. -/
def redLanes (c : Vec) (r : VReg) (p : Pred) (z : Word) : List Word :=
  (List.range 512).map fun i => if i < r.vlen ∧ c.sel p i then r.lane i else z

/-- A lane as an operation writes it: NaN canonical, and subnormals under FTZ (R185, R186). A scan writes lane 0 so, which
no step combines with another. -/
def canonLane (fmt : Nat) (ftz : Bool) (x : Word) : Word :=
  match floatFmt fmt with
  | some _ => fmtResult fmt ftz .rne (fmtOperand fmt ftz x)
  | none => x

/-- Sources of a reduction (R205, R221). -/
def redOk (fn : RedFn) (r : VReg) (rm : Rm) : Bool :=
  okSources isSeven [r] && !(fn == .add && isInt (tagFmt r.tag) && rm != .rne)

/-- `vred` (R221). -/
def execVred (fn : RedFn) (d a : VNum) (p : Pred) (rm : Rm) (s : State) : Out :=
  .next (s.vecOp d [a] p 9 false fun c _ =>
    let r := c.v a
    let fmt := tagFmt r.tag
    if redOk fn r rm then
      .ok (vout r.tag ((redTree (redOp fn fmt s.ftzNow rm) 9 (redLanes c r p (redIdentity fn fmt))).take 1))
    else .error Code.invalid)

/-- `vscan` (R221). -/
def execVscan (fn : RedFn) (d a : VNum) (p : Pred) (rm : Rm) (s : State) : Out :=
  .next (s.vecOp d [a] p 9 false fun c _ =>
    let r := c.v a
    let fmt := tagFmt r.tag
    if redOk fn r rm then
      .ok (vout r.tag ((lmod 0 (canonLane fmt s.ftzNow)
        (scanTree (redOp fn fmt s.ftzNow rm) 9 0 (redLanes c r p (redIdentity fn fmt)))).take r.vlen))
    else .error Code.invalid)

/-! ## The wide ports (R216 to R219) -/

/-- Pop a wide port in a firing: the token that chose the entry may be popped, and a done token of the guard port retires
the actor (R127, R200). -/
def State.vecPop (s : State) (t o port : Nat) (k : Token) : State :=
  let guard := ((s.vec t o).map (·.guard)).getD 4
  let s := (s.popTok t o port).modVFiring t o fun f =>
    { f.popOf port with lastHdr := k.hdr }
  if k.kind == Kind.done && port == guard then s.modVec t o fun c => { c with retired := true } else s

/-- A transfer that begins. -/
def newXfer : Xfer := { moved := 0, scale := none, lanes := [], bad := none }

/-- The word of a transfer goes on in the next fc. -/
def State.xferStep (s : State) (t o : Nat) (x : Xfer) : State :=
  (((s.modVec t o fun c => { c with xfer := some x }).modVFiring t o fun f => { f with nextAt := s.after t o 1 }).busy
    (s.lctxOf t)).issued

/-- The last token of a transfer has moved. -/
def State.xferEnd (s : State) (t o : Nat) : State := (s.modVec t o fun c => { c with xfer := none }).vecAdvance t o 1

/-- What marks a `vld` before its tokens arrive: FMT NONE, or more tokens than a register holds (R217). -/
def vldBad (fmt n : Nat) : Bool := fmt == 0 || decide (n > (512 + fmtElems fmt - 1) / fmtElems fmt)

/-- The register that a `vld` leaves (R217). -/
def vldReg (r : VReg) (x : Xfer) : VReg :=
  match x.scale with
  | some b =>
    { lanes := x.lanes.take 512, tag := mkTag (tagFmt r.tag) true (b.extractLsb' 512 2).toNat, side := b.extractLsb' 0 512,
      mark := none }
  | none => { lanes := x.lanes.take 512, tag := mkTag (tagFmt r.tag) false 0, side := r.side, mark := none }

/-- A token of `vld`'s third step: the transfer with it (R217). -/
def vldTake (fmt n : Nat) (inv : Word) (x : Xfer) (k : Token) : Xfer :=
  let e := fmtElems fmt
  let cnt := if k.count.toNat = 0 then e else min k.count.toNat e
  let first (w : Word) : Option Word := if x.bad.isSome then x.bad else some w
  if k.isPoison then { x with moved := x.moved + 1, bad := first k.word }
  else
    { x with moved := x.moved + 1, lanes := x.lanes ++ unpackElems fmt k.pay cnt,
             bad := if x.moved + 1 < n ∧ k.count.toNat ≠ 0 ∧ k.count.toNat ≠ e then first inv else x.bad }

/-- `vld` (R217): one token in each issue. -/
def execVld (v : VNum) (p : BitVec 2) (n : BitVec 4) (s : State) : Out :=
  match s.curVec with
  | none => .next s
  | some (t, o, c, _) =>
    let port := p.toNat
    let cnt := n.toNat + 1
    let r := c.v v
    let inv := s.origin t o Code.invalid
    match s.headTok t o port with
    | none => .next s
    | some k =>
      match s.behindDone t o port with
      | some b => .next (s.malformed t o port b)
      | none =>
        if c.xfer.isNone && cnt == 1 && k.isClose then .next ((s.vecPop t o port k).vecAdvance t o 1)
        else if c.xfer.isNone && k.kind == Kind.scale then
          let b : BitVec 514 := k.pay.extractLsb' 0 514
          .next ((s.vecPop t o port k).xferStep t o
            { newXfer with scale := some b, bad := if b.extractLsb' 512 2 == 3 then some inv else none })
        else if k.isClose || k.kind == Kind.scale then .next (s.malformed t o port k)
        else match s.popRate t o port 1 with
          | some d => .next (s.freeze t o Code.rate d)
          | none =>
            let x := c.xfer.getD newXfer
            let x := if x.bad.isNone && vldBad (tagFmt r.tag) cnt then { x with bad := some inv } else x
            let x := vldTake (tagFmt r.tag) cnt inv x k
            let s := s.vecPop t o port k
            if x.moved < cnt then .next (s.xferStep t o x)
            else
              let s := match x.bad with
                | some w => s.markV t o v w
                | none => s.putV t o v (vldReg r x)
              .next (s.xferEnd t o)

/-- The header of a wide token that a firing pushes (R36, R109, R200). -/
def wideHdr (f : Firing) (kind : Nat) : Half :=
  mkHdr (if kind = Kind.data ∧ hdrKind f.guardHdr = Kind.audit then Kind.audit else kind) 0 (hdrTag f.guardHdr)

/-- The origin of the poison that `vst` pushes in place of a register (R218). -/
def vstPoison (r : VReg) (n : Nat) (inv : Word) : Option Word :=
  match r.mark with
  | some w => some w
  | none => if tagFmt r.tag = 0 ∨ (n - 1) * fmtElems (tagFmt r.tag) ≥ r.vlen then some inv else none

/-- Token `i` of a `vst` (R218). -/
def vstToken (f : Firing) (r : VReg) (i : Nat) : Token :=
  let fmt := tagFmt r.tag
  let e := fmtElems fmt
  let c := min e (r.vlen - i * e)
  { hdr := wideHdr f Kind.data, count := BitVec.ofNat 16 (if c = e then 0 else c),
    pay := packElems fmt ((List.range c).map fun j => r.lane (i * e + j)) }

/-- Sidecar bytes that a tag uses: the others read as zero (R180, R183). -/
def sideUsed (t : Byte) : Nat :=
  match tagBlk t with
  | 1 => 32
  | 2 => 16
  | _ => 1

/-- The sidecar as it reads (R183). -/
def VReg.sideRead (r : VReg) : BitVec 512 := r.side &&& BitVec.ofNat 512 (2 ^ (8 * sideUsed r.tag) - 1)

/-- A scale token (R216). -/
def scaleToken (f : Firing) (r : VReg) : Token :=
  { hdr := wideHdr f Kind.scale, count := 0,
    pay := (BitVec.ofNat 2 (tagBlk r.tag) ++ r.sideRead : BitVec 514).zeroExtend 1024 }

/-- `vst` (R218): one token in each issue. -/
def execVst (v : VNum) (p : BitVec 1) (n : BitVec 4) (s : State) : Out :=
  match s.curVec with
  | none => .next s
  | some (t, o, c, f) =>
    let port := 4 + p.toNat
    let cnt := n.toNat + 1
    let r := c.v v
    if !s.canPush t o port 1 then .next s
    else
      let bad := vstPoison r cnt (s.origin t o Code.invalid)
      if bad.isNone && tagScl r.tag && c.xfer.isNone then .next ((s.pushTok t o port (scaleToken f r)).xferStep t o newXfer)
      else
        let x := c.xfer.getD newXfer
        let tok := match bad with
          | some w => poisonTok 0 w
          | none => vstToken f r x.moved
        match s.pushRate t o port tok with
        | some d => .next (s.freeze t o Code.rate d)
        | none =>
          let s := s.pushTok t o port tok
          if x.moved + 1 < cnt then .next (s.xferStep t o { x with moved := x.moved + 1 }) else .next (s.xferEnd t o)

/-- Push one closing token on a wide port (R219). -/
def State.vecClose (s : State) (p : BitVec 1) (tok : Token) : State :=
  match s.curVec with
  | none => s
  | some (t, o, _, _) =>
    if s.canPush t o (4 + p.toNat) 1 then (s.pushTok t o (4 + p.toNat) tok).vecAdvance t o 1 else s

/-- `vstop` (R219). -/
def execVstop (p : BitVec 1) (lvl : BitVec 3) (s : State) : Out := .next (s.vecClose p (stopTok lvl.toNat 0))
/-- `vdone` (R219). -/
def execVdone (p : BitVec 1) (s : State) : Out := .next (s.vecClose p (doneTok 0))

/-- `end` of a vector actor (R127, R132, R201). -/
def execVend (s : State) : Out :=
  match s.curVec with
  | none => .next s
  | some (t, o, c, f) =>
    if !f.chosenPopped then
      match s.headTok t o c.guard with
      | some k => .next (s.malformed t o c.guard k)
      | none => .next ((s.endFiring t o false false).busy (s.lctxOf t)).issued
    else .next ((s.endFiring t o false false).busy (s.lctxOf t)).issued

end Sys2Proof.Machine
end

