-- ==== Sys2Proof/Machine/Dispatch.lean ====
section
/-! DEFINITION. The meaning of every instruction: one arm for each constructor of `Instr`. -/
namespace Sys2Proof.Machine
open Sys2Proof

def exec (i : Instr) (s : State) : Host.Outcome State Fault Refusal :=
  match i with
  | .add d a b w64 ovt => Sys2Proof.Machine.execAdd d a b w64 ovt s
  | .sub d a b w64 ovt => Sys2Proof.Machine.execSub d a b w64 ovt s
  | .adds d a b w64 => Sys2Proof.Machine.execAdds d a b w64 s
  | .subs d a b w64 => Sys2Proof.Machine.execSubs d a b w64 s
  | .mul d a b w64 ovt => Sys2Proof.Machine.execMul d a b w64 ovt s
  | .mulh d a b w64 => Sys2Proof.Machine.execMulh d a b w64 s
  | .mulhu d a b w64 => Sys2Proof.Machine.execMulhu d a b w64 s
  | .div d a b w64 ovt => Sys2Proof.Machine.execDiv d a b w64 ovt s
  | .divu d a b w64 => Sys2Proof.Machine.execDivu d a b w64 s
  | .rem d a b w64 => Sys2Proof.Machine.execRem d a b w64 s
  | .remu d a b w64 => Sys2Proof.Machine.execRemu d a b w64 s
  | .and d a b w64 => Sys2Proof.Machine.execAnd d a b w64 s
  | .or d a b w64 => Sys2Proof.Machine.execOr d a b w64 s
  | .xor d a b w64 => Sys2Proof.Machine.execXor d a b w64 s
  | .andn d a b w64 => Sys2Proof.Machine.execAndn d a b w64 s
  | .shl d a b w64 => Sys2Proof.Machine.execShl d a b w64 s
  | .shr d a b w64 => Sys2Proof.Machine.execShr d a b w64 s
  | .sra d a b w64 => Sys2Proof.Machine.execSra d a b w64 s
  | .rotl d a b w64 => Sys2Proof.Machine.execRotl d a b w64 s
  | .min d a b w64 => Sys2Proof.Machine.execMin d a b w64 s
  | .max d a b w64 => Sys2Proof.Machine.execMax d a b w64 s
  | .minu d a b w64 => Sys2Proof.Machine.execMinu d a b w64 s
  | .maxu d a b w64 => Sys2Proof.Machine.execMaxu d a b w64 s
  | .abs d a w64 ovt => Sys2Proof.Machine.execAbs d a w64 ovt s
  | .clz d a w64 => Sys2Proof.Machine.execClz d a w64 s
  | .ctz d a w64 => Sys2Proof.Machine.execCtz d a w64 s
  | .popc d a w64 => Sys2Proof.Machine.execPopc d a w64 s
  | .cmpCc cc d a b w64 => Sys2Proof.Machine.execCmpCc cc d a b w64 s
  | .fadd d a b rm => Sys2Proof.Machine.execFadd d a b rm s
  | .fmul d a b rm => Sys2Proof.Machine.execFmul d a b rm s
  | .fmin d a b => Sys2Proof.Machine.execFmin d a b s
  | .fmax d a b => Sys2Proof.Machine.execFmax d a b s
  | .fcvtSW d a rm => Sys2Proof.Machine.execFcvtSW d a rm s
  | .fcvtSWu d a rm => Sys2Proof.Machine.execFcvtSWu d a rm s
  | .fcvtWS d a rm => Sys2Proof.Machine.execFcvtWS d a rm s
  | .fcvtWuS d a rm => Sys2Proof.Machine.execFcvtWuS d a rm s
  | .fcmpCc cc d a b => Sys2Proof.Machine.execFcmpCc cc d a b s
  | .sel d a b c w64 => Sys2Proof.Machine.execSel d a b c w64 s
  | .fma d a b c rm => Sys2Proof.Machine.execFma d a b c rm s
  | .amo fn d a b w64 ovt => Sys2Proof.Machine.execAmo fn d a b w64 ovt s
  | .addi d a imm => Sys2Proof.Machine.execAddi d a imm s
  | .andi d a imm => Sys2Proof.Machine.execAndi d a imm s
  | .ori d a imm => Sys2Proof.Machine.execOri d a imm s
  | .xori d a imm => Sys2Proof.Machine.execXori d a imm s
  | .shli d a amt => Sys2Proof.Machine.execShli d a amt s
  | .shri d a amt => Sys2Proof.Machine.execShri d a amt s
  | .srai d a amt => Sys2Proof.Machine.execSrai d a amt s
  | .li d imm => Sys2Proof.Machine.execLi d imm s
  | .lih d imm => Sys2Proof.Machine.execLih d imm s
  | .cmpiCc cc d a imm => Sys2Proof.Machine.execCmpiCc cc d a imm s
  | .bfx d a pos lenM1 => Sys2Proof.Machine.execBfx d a pos lenM1 s
  | .bfxu d a pos lenM1 => Sys2Proof.Machine.execBfxu d a pos lenM1 s
  | .bfi d a pos lenM1 => Sys2Proof.Machine.execBfi d a pos lenM1 s
  | .br disp => Sys2Proof.Machine.execBr disp s
  | .bz a disp => Sys2Proof.Machine.execBz a disp s
  | .bnz a disp => Sys2Proof.Machine.execBnz a disp s
  | .bk k v disp => Sys2Proof.Machine.execBk k v disp s
  | .bkind q kind lvl disp => Sys2Proof.Machine.execBkind q kind lvl disp s
  | .rep a len => Sys2Proof.Machine.execRep a len s
  | .endCell => Sys2Proof.Machine.execEndCell s
  | .ldB d a off => Sys2Proof.Machine.execLdB d a off s
  | .ldH d a off => Sys2Proof.Machine.execLdH d a off s
  | .ldW d a off => Sys2Proof.Machine.execLdW d a off s
  | .ldD d a off => Sys2Proof.Machine.execLdD d a off s
  | .stB v a off => Sys2Proof.Machine.execStB v a off s
  | .stH v a off => Sys2Proof.Machine.execStH v a off s
  | .stW v a off => Sys2Proof.Machine.execStW v a off s
  | .stD v a off => Sys2Proof.Machine.execStD v a off s
  | .owait ld st cp op => Sys2Proof.Machine.execOwait ld st cp op s
  | .send o a tag => Sys2Proof.Machine.execSend o a tag s
  | .sendstop o lvl tag => Sys2Proof.Machine.execSendstop o lvl tag s
  | .senddone o tag => Sys2Proof.Machine.execSenddone o tag s
  | .recv d q => Sys2Proof.Machine.execRecv d q s
  | .peek d q => Sys2Proof.Machine.execPeek d q s
  | .drop q => Sys2Proof.Machine.execDrop q s
  | .steer q c => Sys2Proof.Machine.execSteer q c s
  | .merge o c => Sys2Proof.Machine.execMerge o c s
  | .collect o q => Sys2Proof.Machine.execCollect o q s
  | .amerge o => Sys2Proof.Machine.execAmerge o s
  | .tagseq o q => Sys2Proof.Machine.execTagseq o q s
  | .repl a => Sys2Proof.Machine.execRepl a s
  | .kout a => Sys2Proof.Machine.execKout a s
  | .kwait k => Sys2Proof.Machine.execKwait k s
  | .rfetch d a => Sys2Proof.Machine.execRfetch d a s
  | .swait a => Sys2Proof.Machine.execSwait a s
  | .dispatch a => Sys2Proof.Machine.execDispatch a s
  | .cfgw a d => Sys2Proof.Machine.execCfgw a d s
  | .csrr d r => Sys2Proof.Machine.execCsrr d r s
  | .csrw a r => Sys2Proof.Machine.execCsrw a r s
  | .crc32c d a n => Sys2Proof.Machine.execCrc32c d a n s
  | .trap c => Sys2Proof.Machine.execTrap c s
  | .eret => Sys2Proof.Machine.execEret s
  | .halt => Sys2Proof.Machine.execHalt s
  | .qpop d nb n => Sys2Proof.Machine.execQpop d nb n s
  | .spawn rc => Sys2Proof.Machine.execSpawn rc s
  | .amsg a d t => Sys2Proof.Machine.execAmsg a d t s
  | .tlwait a c => Sys2Proof.Machine.execTlwait a c s
  | .wrapCommit => Sys2Proof.Machine.execWrapCommit s
  | .vfSet a d => Sys2Proof.Machine.execVfSet a d s
  | .mov d a => Sys2Proof.Machine.execMov d a s
  | .neg d a => Sys2Proof.Machine.execNeg d a s
  | .clip8 d a => Sys2Proof.Machine.execClip8 d a s
  | .fdiv d a b rm => Sys2Proof.Machine.execFdiv d a b rm s
  | .bswap d a => Sys2Proof.Machine.execBswap d a s
  | .vadd d a b p rm => Sys2Proof.Machine.execVadd d a b p rm s
  | .vsub d a b p rm => Sys2Proof.Machine.execVsub d a b p rm s
  | .vmul d a b p rm => Sys2Proof.Machine.execVmul d a b p rm s
  | .vfma d a b c p rm => Sys2Proof.Machine.execVfma d a b c p rm s
  | .vfms d a b c p rm => Sys2Proof.Machine.execVfms d a b c p rm s
  | .vneg d a p => Sys2Proof.Machine.execVneg d a p s
  | .vabs d a p => Sys2Proof.Machine.execVabs d a p s
  | .vmin d a b p => Sys2Proof.Machine.execVmin d a b p s
  | .vmax d a b p => Sys2Proof.Machine.execVmax d a b p s
  | .vrcp d a p => Sys2Proof.Machine.execVrcp d a p s
  | .vrsqrt d a p => Sys2Proof.Machine.execVrsqrt d a p s
  | .vexp2 d a p => Sys2Proof.Machine.execVexp2 d a p s
  | .vlog2 d a p => Sys2Proof.Machine.execVlog2 d a p s
  | .vcmpCc cc d a b p => Sys2Proof.Machine.execVcmpCc cc d a b p s
  | .vsel d a b p => Sys2Proof.Machine.execVsel d a b p s
  | .vcvt d a fmt rm sat nanp p => Sys2Proof.Machine.execVcvt d a fmt rm sat nanp p s
  | .vquant d a fmt rm bsz p => Sys2Proof.Machine.execVquant d a fmt rm bsz p s
  | .vscale d a bsz => Sys2Proof.Machine.execVscale d a bsz s
  | .vred fn d a p rm => Sys2Proof.Machine.execVred fn d a p rm s
  | .vscan fn d a p rm => Sys2Proof.Machine.execVscan fn d a p rm s
  | .vperm d a b p => Sys2Proof.Machine.execVperm d a b p s
  | .vrot d a n p => Sys2Proof.Machine.execVrot d a n p s
  | .vsplat d a n p => Sys2Proof.Machine.execVsplat d a n p s
  | .vmov d a p => Sys2Proof.Machine.execVmov d a p s
  | .vand d a b p => Sys2Proof.Machine.execVand d a b p s
  | .vor d a b p => Sys2Proof.Machine.execVor d a b p s
  | .vxor d a b p => Sys2Proof.Machine.execVxor d a b p s
  | .vshl d a b p => Sys2Proof.Machine.execVshl d a b p s
  | .vshr d a b p => Sys2Proof.Machine.execVshr d a b p s
  | .vsra d a b p => Sys2Proof.Machine.execVsra d a b p s
  | .vimad d a b c p => Sys2Proof.Machine.execVimad d a b c p s
  | .vtagSet d fmt scl bsz => Sys2Proof.Machine.execVtagSet d fmt scl bsz s
  | .vtagGet d a clr => Sys2Proof.Machine.execVtagGet d a clr s
  | .vld v p n => Sys2Proof.Machine.execVld v p n s
  | .vst v p n => Sys2Proof.Machine.execVst v p n s
  | .vstop p lvl => Sys2Proof.Machine.execVstop p lvl s
  | .vdone p => Sys2Proof.Machine.execVdone p s
  | .vend => Sys2Proof.Machine.execVend s
  | .mxCfg t o p => Sys2Proof.Machine.execMxCfg t o p s
  | .mxLoadw t o p => Sys2Proof.Machine.execMxLoadw t o p s
  | .mxSwap t o p => Sys2Proof.Machine.execMxSwap t o p s
  | .mxArm t o p => Sys2Proof.Machine.execMxArm t o p s
  | .mxScale t o p => Sys2Proof.Machine.execMxScale t o p s
  | .mxDrain t o p => Sys2Proof.Machine.execMxDrain t o p s
  | .mxZero t o p => Sys2Proof.Machine.execMxZero t o p s
  | .mxStat t o p => Sys2Proof.Machine.execMxStat t o p s
  | .cpArm t o p => Sys2Proof.Machine.execCpArm t o p s
  | .cpFire t o p => Sys2Proof.Machine.execCpFire t o p s
  | .bufWait t o p => Sys2Proof.Machine.execBufWait t o p s
  | .bufSet t o p => Sys2Proof.Machine.execBufSet t o p s
  | .tlInc t o p => Sys2Proof.Machine.execTlInc t o p s
  | .tlWait t o p => Sys2Proof.Machine.execTlWait t o p s
  | .wkSpec t o p => Sys2Proof.Machine.execWkSpec t o p s
  | .wkKerf t o p => Sys2Proof.Machine.execWkKerf t o p s
  | .wkAudit t o p => Sys2Proof.Machine.execWkAudit t o p s
  | .kfCtl t o p => Sys2Proof.Machine.execKfCtl t o p s
  | .spCfg t o p => Sys2Proof.Machine.execSpCfg t o p s
  | .spRun t o p => Sys2Proof.Machine.execSpRun t o p s
  | .bkRmw bank lctx p => Sys2Proof.Machine.execBkRmw bank lctx p s
  | .bkRed bank lctx p => Sys2Proof.Machine.execBkRed bank lctx p s
  | .bkApply bank lctx p => Sys2Proof.Machine.execBkApply bank lctx p s
  | .bkFill bank lctx p => Sys2Proof.Machine.execBkFill bank lctx p s
  | .bkColl bank lctx p => Sys2Proof.Machine.execBkColl bank lctx p s
  | .nodeTask l n => Sys2Proof.Machine.execNodeTask l n s
  | .nodeCond l n => Sys2Proof.Machine.execNodeCond l n s
  | .nodeLoop l n => Sys2Proof.Machine.execNodeLoop l n s
  | .nodeJoin l n => Sys2Proof.Machine.execNodeJoin l n s
  | .nodeCall l n => Sys2Proof.Machine.execNodeCall l n s
  | .nodeWait l n => Sys2Proof.Machine.execNodeWait l n s
  | .nodeSignal l n => Sys2Proof.Machine.execNodeSignal l n s
  | .nodeWrap l n => Sys2Proof.Machine.execNodeWrap l n s
  | .nodeEnd l n => Sys2Proof.Machine.execNodeEnd l n s
  | .launch aqi q p => Sys2Proof.Machine.execLaunch aqi q p s
  | .reqSignal aqi q p => Sys2Proof.Machine.execReqSignal aqi q p s
  | .reqWait aqi q p => Sys2Proof.Machine.execReqWait aqi q p s
  | .cancel aqi q p => Sys2Proof.Machine.execCancel aqi q p s
  | .createCtx p => Sys2Proof.Machine.execCreateCtx p s
  | .destroyCtx p => Sys2Proof.Machine.execDestroyCtx p s
  | .createQueue p => Sys2Proof.Machine.execCreateQueue p s
  | .revokePasid p => Sys2Proof.Machine.execRevokePasid p s
  | .registerObj p => Sys2Proof.Machine.execRegisterObj p s
  | .invalidate p => Sys2Proof.Machine.execInvalidate p s
  | .pageReply p => Sys2Proof.Machine.execPageReply p s
  | .pause p => Sys2Proof.Machine.execPause p s
  | .resume p => Sys2Proof.Machine.execResume p s
  | .knotSet p => Sys2Proof.Machine.execKnotSet p s
  | .knotClear p => Sys2Proof.Machine.execKnotClear p s
  | .pstep p => Sys2Proof.Machine.execPstep p s
  | .clockOffset p => Sys2Proof.Machine.execClockOffset p s
  | .aqiReset p => Sys2Proof.Machine.execAqiReset p s
  | .restore p => Sys2Proof.Machine.execRestore p s
  | .keep p => Sys2Proof.Machine.execKeep p s
  | .tlClear p => Sys2Proof.Machine.execTlClear p s
  | .actorFiringBegin t o => Sys2Proof.Machine.execActorFiringBegin t o s
  | .defaultTokenForward t o => Sys2Proof.Machine.execDefaultTokenForward t o s
  | .poisonForward t o => Sys2Proof.Machine.execPoisonForward t o s
  | .trappedResultArrive t o => Sys2Proof.Machine.execTrappedResultArrive t o s
  | .linkTransfer x y dir net => Sys2Proof.Machine.execLinkTransfer x y dir net s
  | .slotTableApply x y => Sys2Proof.Machine.execSlotTableApply x y s
  | .replyTokenDeliver e => Sys2Proof.Machine.execReplyTokenDeliver e s
  | .loadReadIssue t o => Sys2Proof.Machine.execLoadReadIssue t o s
  | .readDelivery t o => Sys2Proof.Machine.execReadDelivery t o s
  | .storeIssue t o => Sys2Proof.Machine.execStoreIssue t o s
  | .storeAck t o => Sys2Proof.Machine.execStoreAck t o s
  | .rmwWrite x y => Sys2Proof.Machine.execRmwWrite x y s
  | .fullEmptyRelease x y granule => Sys2Proof.Machine.execFullEmptyRelease x y granule s
  | .memoryNodeDone t o => Sys2Proof.Machine.execMemoryNodeDone t o s
  | .fenceFire t o => Sys2Proof.Machine.execFenceFire t o s
  | .streamPrefetch t o line => Sys2Proof.Machine.execStreamPrefetch t o line s
  | .streamLineExpiry t o line => Sys2Proof.Machine.execStreamLineExpiry t o line s
  | .wcbIdleFlush t line => Sys2Proof.Machine.execWcbIdleFlush t line s
  | .pageWalkStart die => Sys2Proof.Machine.execPageWalkStart die s
  | .pageWalkComplete die n => Sys2Proof.Machine.execPageWalkComplete die n s
  | .walkerBlockBegin t o => Sys2Proof.Machine.execWalkerBlockBegin t o s
  | .walkerPointIssue t o => Sys2Proof.Machine.execWalkerPointIssue t o s
  | .walkerEnd t o => Sys2Proof.Machine.execWalkerEnd t o s
  | .splineTileStore t o => Sys2Proof.Machine.execSplineTileStore t o s
  | .splineReconstruct t o => Sys2Proof.Machine.execSplineReconstruct t o s
  | .coverageLRecord l => Sys2Proof.Machine.execCoverageLRecord l s
  | .splineDone t o => Sys2Proof.Machine.execSplineDone t o s
  | .matrixTokenTake t o => Sys2Proof.Machine.execMatrixTokenTake t o s
  | .matrixOutputPush t o => Sys2Proof.Machine.execMatrixOutputPush t o s
  | .mxLoadwComplete t o => Sys2Proof.Machine.execMxLoadwComplete t o s
  | .enginePacketArrive n => Sys2Proof.Machine.execEnginePacketArrive n s
  | .engineReply e => Sys2Proof.Machine.execEngineReply e s
  | .copyTrigger t o slot => Sys2Proof.Machine.execCopyTrigger t o slot s
  | .copyTransfer x y => Sys2Proof.Machine.execCopyTransfer x y s
  | .copyFiringComplete t o slot => Sys2Proof.Machine.execCopyFiringComplete t o slot s
  | .bankLineOperation bank => Sys2Proof.Machine.execBankLineOperation bank s
  | .fbBufferLoad t o => Sys2Proof.Machine.execFbBufferLoad t o s
  | .fbScanStep t o => Sys2Proof.Machine.execFbScanStep t o s
  | .fbDenseStep t o => Sys2Proof.Machine.execFbDenseStep t o s
  | .fbLookupStep t o => Sys2Proof.Machine.execFbLookupStep t o s
  | .fbIsectStep t o => Sys2Proof.Machine.execFbIsectStep t o s
  | .fbUnionStep t o => Sys2Proof.Machine.execFbUnionStep t o s
  | .fbFilterStep t o => Sys2Proof.Machine.execFbFilterStep t o s
  | .fbRepeatStep t o => Sys2Proof.Machine.execFbRepeatStep t o s
  | .fbReduceStep t o => Sys2Proof.Machine.execFbReduceStep t o s
  | .fbWriteStep t o => Sys2Proof.Machine.execFbWriteStep t o s
  | .freezeRecord t o => Sys2Proof.Machine.execFreezeRecord t o s
  | .stuckTimeout lctx => Sys2Proof.Machine.execStuckTimeout lctx s
  | .pauseFiringLimit t o => Sys2Proof.Machine.execPauseFiringLimit t o s
  | .pauseComplete t => Sys2Proof.Machine.execPauseComplete t s
  | .phaseStep t => Sys2Proof.Machine.execPhaseStep t s
  | .taskComplete t => Sys2Proof.Machine.execTaskComplete t s
  | .wrapComplete t => Sys2Proof.Machine.execWrapComplete t s
  | .readyQueueSelect => Sys2Proof.Machine.execReadyQueueSelect s
  | .joinerPlacementBegin => Sys2Proof.Machine.execJoinerPlacementBegin s
  | .placementEnd c => Sys2Proof.Machine.execPlacementEnd c s
  | .pageHashComplete obj page => Sys2Proof.Machine.execPageHashComplete obj page s
  | .lookaheadNodeRead l => Sys2Proof.Machine.execLookaheadNodeRead l s
  | .launchComplete l => Sys2Proof.Machine.execLaunchComplete l s
  | .fsrEntry => Sys2Proof.Machine.execFsrEntry s
  | .coreLoadReturn core n ecc => Sys2Proof.Machine.execCoreLoadReturn core n ecc s
  | .stopInstant l => Sys2Proof.Machine.execStopInstant l s
  | .wrapTokenArrive t => Sys2Proof.Machine.execWrapTokenArrive t s
  | .deadlineFc l => Sys2Proof.Machine.execDeadlineFc l s
  | .ieee1588Timestamp off => Sys2Proof.Machine.execIeee1588Timestamp off s
  | .pstepStrobe level => Sys2Proof.Machine.execPstepStrobe level s
  | .powerLeverEngage draw => Sys2Proof.Machine.execPowerLeverEngage draw s
  | .powerLeverRelease draw => Sys2Proof.Machine.execPowerLeverRelease draw s
  | .hbmPcPowerDown stack pc => Sys2Proof.Machine.execHbmPcPowerDown stack pc s
  | .notifyWrite aqi q v => Sys2Proof.Machine.execNotifyWrite aqi q v s
  | .coreWake core v => Sys2Proof.Machine.execCoreWake core v s
  | .mgmtRegisterWrite off v => Sys2Proof.Machine.execMgmtRegisterWrite off v s
  | .spanFrameReceive src flits => Sys2Proof.Machine.execSpanFrameReceive src flits s
  | .spanAckReceive id ok data => Sys2Proof.Machine.execSpanAckReceive id ok data s
  | .spanAccessTimeout id => Sys2Proof.Machine.execSpanAccessTimeout id s
  | .powerFail => Sys2Proof.Machine.execPowerFail s
  | .powerFailFiringSave t o => Sys2Proof.Machine.execPowerFailFiringSave t o s
  | .heartwoodWriteEnd => Sys2Proof.Machine.execHeartwoodWriteEnd s
  | .coldReset => Sys2Proof.Machine.execColdReset s
  | .functionLevelReset => Sys2Proof.Machine.execFunctionLevelReset s
  | .eccCorrectable x y => Sys2Proof.Machine.execEccCorrectable x y s
  | .eccUncorrectable x y w => Sys2Proof.Machine.execEccUncorrectable x y w s
  | .cfgParityError t o word => Sys2Proof.Machine.execCfgParityError t o word s
  | .deadlineClockAdvance => Sys2Proof.Machine.execDeadlineClockAdvance s
  | .slotPointerAdvance x y => Sys2Proof.Machine.execSlotPointerAdvance x y s
  | .coreStorePerformed core n => Sys2Proof.Machine.execCoreStorePerformed core n s
  | .powerCapMet draw => Sys2Proof.Machine.execPowerCapMet draw s
  | .pageRequestInterfaceResponse tag ok => Sys2Proof.Machine.execPageRequestInterfaceResponse tag ok s
  | .flitRetry id => Sys2Proof.Machine.execFlitRetry id s
  | .correctableErrorAgeOut x y => Sys2Proof.Machine.execCorrectableErrorAgeOut x y s

end Sys2Proof.Machine
end

