-- ==== Sys2Proof/Machine/Fetch.lean ====
section
/-! DEFINITION. Fetching: which context entry a unit issues for (02_fabric.md R20, R21), and the word it fetches. -/
namespace Sys2Proof.Machine

/-- The entries in the order in which a unit is offered them: the slots from the pointer on, wrapping (R21). -/
def Tile.slotOrder (t : Tile) : List Nat :=
  lnub [] ((List.range 16).filterMap fun i => slotAt t.slots (t.slotPtr.toNat + i))

/-- A word that an actor may issue: its task, its operator and its instruction, `none` when the word is no instruction of
its map. -/
structure Fetched where
  t : Nat
  o : Nat
  instr : Option Instr
deriving DecidableEq, Repr

/-- The forwarding step that an actor asks its unit for (R35, R126). -/
def State.forwardWord (s : State) (t o : Nat) : Option Fetched :=
  (s.forwardOffer t o).map fun i => { t := t, o := o, instr := some i }

/-- The word of a cell actor whose firing may issue in this fc (R20, R110, R168), or the push it has to forward. -/
def State.cellWord (s : State) (t o : Nat) (p : Op) : Option Fetched :=
  match p.kind with
  | .cell c => match c.firing with
    | some f =>
      if f.nextAt ≤ s.fc ∧ !f.saved ∧ f.fwd.isNone ∧ c.trapped.isNone ∧ p.fault.isNone ∧ s.goesOn t then
        some { t := t, o := o, instr := c.instrAt f.pc }
      else s.forwardWord t o
    | none => s.forwardWord t o
  | _ => none

/-- The word of a vector actor whose firing may issue in this fc (R201), or the push it has to forward. -/
def State.vecWord (s : State) (t o : Nat) (p : Op) : Option Fetched :=
  match p.kind with
  | .vec v => match v.firing with
    | some f =>
      if f.nextAt ≤ s.fc ∧ !f.saved ∧ f.fwd.isNone ∧ p.fault.isNone ∧ s.goesOn t then
        some { t := t, o := o, instr := (v.code[f.pc]?).bind decodeVector }
      else s.forwardWord t o
    | none => s.forwardWord t o
  | _ => none

/-- The words that cell `c` of a tile is offered, in slot order (R20, R21). -/
def State.cellOffers (s : State) (x y c : Nat) : List Fetched :=
  let tile := tileKey x y
  if s.unitDone tile c then []
  else ((s.tile tile).inForce s.fc).slotOrder.filterMap fun e =>
    (s.opsAt tile e).findSome? fun z => if z.2.2.place.sub == c then s.cellWord z.1 z.2.1 z.2.2 else none

/-- Key of the vector unit in `Tile.lastIssue`. -/
def vecUnit : Nat := 8

/-- The words that the vector issue unit of a tile is offered (R21, R201); from sub-step 4 on, only in the fc where the
slot pointer is even (R273). -/
def State.vecOffers (s : State) (x y : Nat) : List Fetched :=
  let tile := tileKey x y
  if s.unitDone tile vecUnit || (decide (s.power.lever ≥ 4) && (s.tile tile).slotPtr.toNat % 2 == 1) then []
  else ((s.tile tile).inForce s.fc).slotOrder.filterMap fun e =>
    (s.opsAt tile e).findSome? fun z => s.vecWord z.1 z.2.1 z.2.2

/-- A unit of a tile has issued in this fc. -/
def State.markIssue (s : State) (x y unit : Nat) : State :=
  s.modTile (tileKey x y) fun t => { t with lastIssue := aset unit s.fc t.lastIssue }

/-! ## Control cores -/

/-- What a control core fetches at its PC (R106, R153, R154, R375). -/
inductive CoreFetch where
  | instr (i : Instr)
  | trap (code : BitVec 7) (eval : Dbl)
  /-- The page of the address has to be walked for (R324). -/
  | walk (va : Dbl)
deriving DecidableEq, Repr

/-- What the die's cache has of an address of a core's code (R324). -/
def State.codeAt (s : State) (k : Nat) (pc : Dbl) : XOut := s.xlate (coreDie k) (.core k) (s.core k).lctx pc.toNat 4 0

/-- The word at an address of a core's code: local memory, or the virtual space of the CTXK context. A PC with [63:62] = 0b10 is
fetched at the local offset [17:0] whatever its other bits are, and one in the management space has no word: it traps with XLATE
(DEDUCED, log entry 105). -/
def State.coreWord (s : State) (k : Nat) (pc : Dbl) : Option Word :=
  if pc.extractLsb' 62 2 == 2 then some (BitVec.ofNat 32 (s.readLoc (.core k (pc.extractLsb' 0 18).toNat) 4))
  else if pc.extractLsb' 57 7 ≠ 0 then none
  else match s.codeAt k pc with
    | .at_ l => some (BitVec.ofNat 32 (s.readLoc l 4))
    | _ => none

/-- Why a core has no word: its page waits for a walk, or it traps. -/
def State.noWord (s : State) (k : Nat) (pc : Dbl) : CoreFetch :=
  if pc.extractLsb' 57 7 = 0 ∧ s.codeAt k pc = .miss then .walk pc else .trap Code.xlate pc

/-- The instruction at a core's PC. -/
def State.coreFetch (s : State) (k : Nat) : CoreFetch :=
  let pc := (s.core k).pc
  if pc.toNat % 4 ≠ 0 then .trap Code.range pc
  else match s.coreWord k pc with
    | none => s.noWord k pc
    | some w =>
      match s.coreWord k (pc + 4) with
      | some ext => match decodeCore w ext with
        | some i => .instr i
        | none => .trap Code.illegal (w.zeroExtend 64)
      | none => match decodeCore w 0 with
        | some i => if takesExt i then s.noWord k (pc + 4) else .instr i
        | none => .trap Code.illegal (w.zeroExtend 64)

/-- A core's fetch of HBM counts as an access of its pseudo-channel (R273). -/
def State.touchCode (s : State) (k : Nat) : State :=
  match (s.core k).pc.extractLsb' 57 7 == 0, s.codeAt k (s.core k).pc with
  | true, .at_ l => s.touchKey l.key
  | _, _ => s

/-- Whether a core issues: it is not halted, and the device is not (R153, R409). -/
def State.coreRuns (s : State) (k : Nat) : Bool := decide (k < s.cores.length) && !(s.core k).halted && !s.dev.halt

/-! ## Commands -/

/-- The command at the head of an engine's inbox (R224). -/
def State.engineHead (s : State) (t o : Nat) : Option Instr :=
  (s.inbox (.op t o)).bind fun b => b.packets.head?.bind fun p => decodeCommand t o p.image

/-- The command at the head of a bank queue (R341). -/
def State.bankHead (s : State) (b lctx : Nat) : Option Instr :=
  (s.inbox (.bank b lctx)).bind fun q => q.packets.head?.bind fun p => decodeBank b lctx p.image

/-! ## Placing one word by hand -/

/-- A rate and route that a word placed by hand does not need. -/
def handTask (k : OpKind) : Task :=
  { launch := 0, lctx := 0, tcb := 0, obj := 0, frame := 0, graphs := [], phase := 0, bay := { x := 0, y := 0, w := 1, h := 1 },
    entries := [(0, [0])], choice := { phases := [] },
    ops := [{ place := { x := 0, y := 0, sub := 0 }, fault := none, faultFor := 0, recorded := false, poison := none, heldDone := false,
              firings := 0, kind := k }],
    chans := [], tmpls := [], regions := [], saved := [], wcb := [], balance := 0, status := .running, endState := 5,
    pauseFor := 0, wrapMark := false, wrapDue := none, wrapX := false, faulted := false, result := 0, oldPoison := none, parent := none,
    saveFigure := 0, caps := [], startAt := 0, decls := [] }

/-- A cell actor with a firing at the first word of its code. -/
def handCell (gen : Nat) (code : List Word) (fc : Nat) : Cell :=
  { code := code, gen := gen, micro := [], entries := 0 :: List.replicate 10 0xFF, guard := 0, repl := false, recs := [],
    regs := List.replicate 16 0, tseq := 1, next := 1, window := [], retired := false, wrapRun := false, committed := false,
    firing := some (newFiring 0 0 [] false fc), idleFrom := 0, trapped := none }

/-- A vector register at the first placement (R198). -/
def freshV : VReg := { lanes := List.replicate 512 0, tag := 0, side := 0, mark := none }
/-- A predicate at the first placement (R198). -/
def freshP : PReg := { bits := 0, mark := none }

/-- A vector actor with a firing at the first word of its code. -/
def handVec (code : List Word) (fc : Nat) : Vec :=
  { code := code, entries := 0 :: List.replicate 10 0xFF, guard := 0, persistV := 0, persistP := 0,
    vregs := List.replicate 32 freshV, pregs := List.replicate 8 freshP, flags := 0, x := 1, xfer := none, retired := false,
    firing := some (newFiring 0 0 [] false fc), idleFrom := 0 }

/-- The state with a task of one operator on tile (0, 0), entry 0, which holds every slot, at full clocks. -/
def State.handPlace (s : State) (k : OpKind) (turn : Turn) : State :=
  let s := { s with tasks := (s.nextTask, handTask k) :: s.tasks, nextTask := s.nextTask + 1, agenda := [turn],
                    dev := { s.dev with halt := false, failAt := none }, power := { s.power with lever := 0 } }
  s.modTile 0 fun t =>
    { t with store := lmod 0 (fun _ => 0x80100000) t.store, slots := 0x8888888888888888, newSlots := none, lastIssue := [] }

/-- The generation whose map a cell word belongs to (R167). -/
def cellGen (w ext : Word) (i : Instr) : Option Nat := [3, 2, 1].find? fun g => decodeCell g w ext == some i

/-- Place a word so that the next step fetches it: a vector word on a vector tile's issue unit, a word that cells decode
on cell c0, any other word in core 0's local memory. -/
def State.handWord (s : State) (i : Option Instr) (w ext : Word) : State :=
  match i with
  | some i =>
    if isVector i then s.handPlace (.vec (handVec [w] s.fc)) (.vec 0 0)
    else match cellGen w ext i with
      | some g => s.handPlace (.cell (handCell g [w, ext] s.fc)) (.cell 0 0 0)
      | none => onCore
  | none => onCore
where
  onCore : State :=
    let s := (s.writeLoc (.core 0 0) 4 w.toNat).writeLoc (.core 0 4) 4 ext.toNat
    let s := s.modCore 0 fun c => { c with pc := 0x8000000000000000, halted := false, loads := [] }
    { s with agenda := [.core 0], dev := { s.dev with halt := false } }

end Sys2Proof.Machine
end

