-- ==== Sys2Proof/Machine/Turns.lean ====
section
/-! DEFINITION. What a turn does: the unit it names fetches its next instruction, and the instruction runs (log entry 1). -/
namespace Sys2Proof.Machine

/-- The words offered to an issue unit, in slot order: the first that issues is the one the unit issues (R20, R21, R201). A
word that would wait changes nothing, and the next entry is asked. `u` makes the unit's name; `unit` is its key in
`Tile.lastIssue`. -/
def State.issueFirst (s : State) (x y unit : Nat) (u : Nat → Nat → Unit) : List Fetched → Out
  | [] => .next s
  | f :: rest =>
    match f.instr with
    | none => .fault .noInstruction
    | some i => match exec i { s with cur := u f.t f.o } with
      | .next s' => if s'.issues ≠ s.issues then .next (s'.markIssue x y unit) else s.issueFirst x y unit u rest
      | stop => stop

/-- The turn of a control core (R153, R154). -/
def State.coreTurn (s : State) (k : Nat) : Out :=
  if !s.coreRuns k then .next s
  else
    let s := { s with cur := .core k }
    match s.coreFetch k with
    | .instr i => exec i (s.touchCode k)
    | .trap code eval => .next (s.accessTrap k code eval)
    | .walk va => .next (s.addMiss (coreDie k) (.core k) (s.core k).lctx va.toNat 0)

/-- The instruction is run when there is one. -/
def State.runHead (s : State) : Option Instr → Out
  | none => .next s
  | some i => exec i s

/-- The turn of the issue stage of a launch (R368, R369). -/
def State.nodeHead (s : State) (l : Nat) : Option Instr :=
  (s.launch l).bind fun x => x.ahead.head?.bind fun a => decodeNode l a.node

/-- The turn of a request queue (R397). -/
def State.requestTurn (s : State) (aqi q : Nat) : Out :=
  match s.requestHead aqi q with
  | none => .next s
  | some p => match decodeRequest aqi q p with
    | some i => exec i s
    | none => .next (s.refuseOpc aqi q p)

/-- The turn of the admin queue (R402). An unassigned OPC is refused. -/
def State.adminTurn (s : State) : Out :=
  match s.adminQ.head? with
  | none => .next s
  | some p => match decodeAdmin p with
    | some i => exec i s
    | none => .next (s.admin p fun s => s.adminDone (adminTag p) false)

/-- What a turn does. -/
def State.turn (s : State) : Turn → Out
  | .cell x y c => s.issueFirst x y c .cell (s.cellOffers x y c)
  | .vec x y => s.issueFirst x y vecUnit .vec (s.vecOffers x y)
  | .core k => s.coreTurn k
  | .engine t o => s.runHead (s.engineHead t o)
  | .bank b lctx => s.runHead (s.bankHead b lctx)
  | .node l => s.runHead (s.nodeHead l)
  | .request aqi q => s.requestTurn aqi q
  | .admin => s.adminTurn
  | .event i => exec i s

/-- The next turn, and the state that has given it out: the head of the agenda, or the free choice when it is empty. -/
def State.nextTurn (s : State) : Turn × State :=
  match s.agenda with
  | t :: rest => (t, { s with agenda := rest, cur := .none })
  | [] => (Config.nextTurn s.tick, { s with tick := s.tick + 1, cur := .none })

end Sys2Proof.Machine
end

