-- ==== Sys2Proof/Machine/Step.lean ====
section
/-! DEFINITION. One step of the device: one turn of one unit (log entry 1). -/
namespace Sys2Proof.Machine

/-- One step. -/
def step (s : State) : Host.Outcome State Fault Refusal := s.nextTurn.2.turn s.nextTurn.1

/-- The state in which the next step fetches and runs the instruction whose bits are `w`, numbered as the opcode table
numbers them. -/
def State.withFetchWord (s : State) (nbits w : Nat) : State :=
  s.handWord (decodeTableWord nbits w) (BitVec.ofNat 32 w) (BitVec.ofNat 32 (w / 2 ^ 32))

end Sys2Proof.Machine
end

