-- ==== Sys2Proof/Safety.lean ====
section
/-! DEFINITION. What counts as a safe run, and the terms that statements speak in. -/
namespace Sys2Proof.Machine

/-! ## Runs -/

/-- One step answers a next state. -/
def Steps (s s' : State) : Prop := step s = .next s'

/-- The states that steps reach from a state. -/
inductive Reaches : State → State → Prop where
  | refl (s : State) : Reaches s s
  | tail {s m t : State} (h : Reaches s m) (h' : Steps m t) : Reaches s t

/-- A state is safe when the next step neither faults nor is refused. -/
def State.safe (s : State) : Prop := ∃ t, Steps s t

/-- The memory is in its canonical form. -/
def State.memOk (s : State) : Prop := Memory.wf s.mem = true

/-! ## A word on a cell -/

/-- The cell of operator `o` of task `t` runs: `c` is its actor and `f` the firing in progress. -/
structure CellRuns (s : State) (t o : Nat) (c : Cell) (f : Firing) : Prop where
  cur : s.cur = .cell t o
  cell : s.cell t o = some c
  firing : c.firing = some f

/-- The operands of a word are there and are data: `vals` are their values, and no stop, done, poison or rate bound keeps
the word from taking effect (R34, R39, R108). -/
structure CellReads (s : State) (t o : Nat) (c : Cell) (f : Firing) (srcs : List Src) (vals : List Word) : Prop where
  runs : CellRuns s t o c f
  data : ∃ l, s.readSrcs t o c f.lastHdr [] srcs = some l ∧ l.map Opnd.val = vals ∧ s.operandFreeze t o srcs l = none ∧
    firstPoison l = none

/-- One of the operands of a word with destination `d` is poison, and no stop, done or rate bound comes before it; `k` is
the first (R34). The word issues: its destination has depth (R108). -/
structure CellPoison (s : State) (t o : Nat) (c : Cell) (f : Firing) (d : Dst) (srcs : List Src) (k : Token) : Prop where
  runs : CellRuns s t o c f
  ready : s.dstReady t o d = true
  first : ∃ l, s.readSrcs t o c f.lastHdr [] srcs = some l ∧ s.operandFreeze t o srcs l = none ∧ firstPoison l = some k

/-- The destination takes a result: a register, or a port with a free token of depth within its rate bound (R39, R108). -/
structure CellTakes (s : State) (t o : Nat) (f : Firing) (d : Dst) : Prop where
  ready : s.dstReady t o d = true
  rate : s.dstRate t o f d = none

/-- The state after a word that pops its operands, writes `w` to `d` and lets the next word issue `iv` fc later. -/
def State.cellDone (s : State) (t o : Nat) (f : Firing) (d : Dst) (srcs : List Src) (w : Word) (iv : Nat) : State :=
  ((s.cellPops t o (popsOf srcs)).cellWrite t o f d w).cellAdvance t o (srcWords srcs) iv

/-- The state after a word that ends its firing with a data fault (R112). -/
def State.cellFault (s : State) (t o : Nat) (srcs : List Src) (code : BitVec 7) : State :=
  s.poisonOut t o (popsOf srcs) (poisonTok 0 (s.origin t o code))

/-! ## A word on a control core -/

/-- Core `k` runs, and none of the registers that a word names waits for a load (R154). -/
structure CoreRuns (s : State) (k : Nat) (srcs : List Src) (d : Option SReg) : Prop where
  cur : s.cur = .core k
  there : k < s.cores.length
  going : (s.core k).halted = false
  still : (s.core k).waits srcs d = false

/-- Core `k` runs in supervisor mode. -/
structure CoreSuper (s : State) (k : Nat) (srcs : List Src) (d : Option SReg) : Prop where
  runs : CoreRuns s k srcs d
  super : (s.core k).super = true

/-- The value a word of 64 or 32 bits writes on a core (R111). -/
def coreVal (w : Bool) (fn : (m : Nat) → BitVec m → BitVec m → BitVec m) (x y : Dbl) : Dbl :=
  if w then fn 64 x y else (fn 32 (x.setWidth 32) (y.setWidth 32)).signExtend 64

/-! ## The integer words (R113) -/

/-- A word with two operands: its constructor without OVT, its value at m bits, its issue interval on a cell (R110), and
whether it divides. -/
structure IntRow where
  word : Dst → Src → Src → Bool → Instr
  fn : (m : Nat) → BitVec m → BitVec m → BitVec m
  iv : Nat
  divides : Bool := false

/-- Clamp an integer to the signed range of m bits. -/
def clampV (m : Nat) (i : Int) : BitVec m := BitVec.ofInt m (max (-(2 ^ (m - 1))) (min (2 ^ (m - 1) - 1) i))

/-- The two-operand rows of R113. -/
def intRows : List IntRow :=
  [{ word := fun d a b w => .add d a b w false, fn := fun _ x y => x + y, iv := 1 },
   { word := fun d a b w => .sub d a b w false, fn := fun _ x y => x - y, iv := 1 },
   { word := .adds, fn := fun m x y => clampV m (x.toInt + y.toInt), iv := 1 },
   { word := .subs, fn := fun m x y => clampV m (x.toInt - y.toInt), iv := 1 },
   { word := fun d a b w => .mul d a b w false, fn := fun _ x y => x * y, iv := 2 },
   { word := .mulh, fn := fun m x y => (x.signExtend (2 * m) * y.signExtend (2 * m)).extractLsb' m m, iv := 2 },
   { word := .mulhu, fn := fun m x y => (x.zeroExtend (2 * m) * y.zeroExtend (2 * m)).extractLsb' m m, iv := 2 },
   { word := fun d a b w => .div d a b w false, fn := fun _ x y => x.sdiv y, iv := 12, divides := true },
   { word := .divu, fn := fun _ x y => x.udiv y, iv := 12, divides := true },
   { word := .rem, fn := fun _ x y => x.srem y, iv := 12, divides := true },
   { word := .remu, fn := fun _ x y => x.umod y, iv := 12, divides := true },
   { word := .and, fn := fun _ x y => x &&& y, iv := 1 },
   { word := .or, fn := fun _ x y => x ||| y, iv := 1 },
   { word := .xor, fn := fun _ x y => x ^^^ y, iv := 1 },
   { word := .andn, fn := fun _ x y => x &&& ~~~y, iv := 1 },
   { word := .shl, fn := fun m x y => x <<< (y.toNat % m), iv := 1 },
   { word := .shr, fn := fun m x y => x >>> (y.toNat % m), iv := 1 },
   { word := .sra, fn := fun m x y => x.sshiftRight (y.toNat % m), iv := 1 },
   { word := .rotl, fn := fun m x y => x.rotateLeft (y.toNat % m), iv := 1 },
   { word := .min, fn := fun _ x y => if y.slt x then y else x, iv := 1 },
   { word := .max, fn := fun _ x y => if x.slt y then y else x, iv := 1 },
   { word := .minu, fn := fun _ x y => if y.ult x then y else x, iv := 1 },
   { word := .maxu, fn := fun _ x y => if x.ult y then y else x, iv := 1 }]

/-- A word with one operand. -/
structure UnaryRow where
  word : Dst → Src → Bool → Instr
  fn : (m : Nat) → BitVec m → BitVec m

/-- The one-operand rows of R113. -/
def unaryRows : List UnaryRow :=
  [{ word := fun d a w => .abs d a w false, fn := fun m x => BitVec.ofInt m x.toInt.natAbs },
   { word := .clz, fn := fun m x => BitVec.ofNat m ((List.range m).takeWhile fun i => !x.getMsbD i).length },
   { word := .ctz, fn := fun m x => BitVec.ofNat m ((List.range m).takeWhile fun i => !x.getLsbD i).length },
   { word := .popc, fn := fun m x => BitVec.ofNat m ((List.range m).filter fun i => x.getLsbD i).length }]

/-- A word that takes OVT, with its exact result (R114). -/
structure OvtRow where
  word : Dst → Src → Src → Bool → Instr
  exact : Int → Int → Int
  iv : Nat
  divides : Bool := false

/-- The two-operand rows that take OVT, under OVT (R113, R114). -/
def ovtRows : List OvtRow :=
  [{ word := fun d a b w => .add d a b w true, exact := fun x y => x + y, iv := 1 },
   { word := fun d a b w => .sub d a b w true, exact := fun x y => x - y, iv := 1 },
   { word := fun d a b w => .mul d a b w true, exact := fun x y => x * y, iv := 2 },
   { word := fun d a b w => .div d a b w true, exact := fun x y => x.tdiv y, iv := 12, divides := true }]

/-- The four dividing words, with and without OVT (R114). -/
def divRows : List (Dst → Src → Src → Bool → Instr) :=
  [fun d a b w => .div d a b w false, fun d a b w => .div d a b w true, .divu, .rem, .remu]

/-- The conditions of integer compares at m bits (R89). -/
def condV (cc : Cond) (m : Nat) (x y : BitVec m) : Bool :=
  match cc with
  | .eq => x == y
  | .ne => x != y
  | .lt => x.slt y
  | .ge => y.sle x
  | .ltu => x.ult y
  | .geu => y.ule x
  | .le => x.sle y
  | .gt => y.slt x
  | .leu => x.ule y
  | .gtu => y.ult x
  | .uno => false

/-- The outcome of a test as a word of m bits. -/
def flagV (m : Nat) (b : Bool) : BitVec m := if b then 1 else 0

/-- A word with an immediate, with its value at m bits (R115). -/
structure ImmRow where
  word : Dst → Src → Instr
  fn : (m : Nat) → BitVec m → BitVec m

/-- The rows of R115, for an immediate and, for the shifts, its low six bits. -/
def immRows (imm : Half) (amt : BitVec 6) : List ImmRow :=
  [{ word := fun d a => .addi d a imm, fn := fun m x => x + imm.signExtend m },
   { word := fun d a => .andi d a imm, fn := fun m x => x &&& imm.signExtend m },
   { word := fun d a => .ori d a imm, fn := fun m x => x ||| imm.signExtend m },
   { word := fun d a => .xori d a imm, fn := fun m x => x ^^^ imm.signExtend m },
   { word := fun d a => .shli d a amt, fn := fun m x => x <<< (amt.toNat % m) },
   { word := fun d a => .shri d a amt, fn := fun m x => x >>> (amt.toNat % m) },
   { word := fun d a => .srai d a amt, fn := fun m x => x.sshiftRight (amt.toNat % m) }]

/-- Ones in the `n` low bits of a word. -/
def lowOnes (n : Nat) : Word := BitVec.ofNat 32 (2 ^ n - 1)

/-- The word `x` with `n` bits of `y` in place of its bits [pos + n - 1 : pos] (R117). -/
def insertV (pos n : Nat) (x y : Word) : Word := (x &&& ~~~(lowOnes n <<< pos)) ||| ((y &&& lowOnes n) <<< pos)

/-! ## The FP32 words (R120 to R124) -/

/-- An FP32 encoding. -/
def w32 (n : Nat) : Word := BitVec.ofNat 32 n

/-- The FP32 value of an operand: a subnormal reads as zero under FTZ (R186). -/
def fpVal (ftz : Bool) (x : Word) : Fp := fp32.operand ftz x.toNat

/-- The result of an FP32 word: the exact value rounded once (R120). -/
def fpRes (ftz : Bool) (rm : Rm) (v : Fp) : Word := w32 (fp32.result ftz (rmC rm) v)

/-- An FP32 word with two operands, with its result under an FTZ and its issue interval (R110). -/
structure FloatRow where
  word : Dst → Src → Src → Instr
  fn : Bool → Word → Word → Word
  iv : Nat

/-- The two-operand FP32 rows (R120, R121, R124). -/
def floatRows (rm : Rm) (cc : Cond) : List FloatRow :=
  [{ word := fun d a b => .fadd d a b rm, fn := fun z x y => fpRes z rm (fpAdd (rm == .rdn) (fpVal z x) (fpVal z y)), iv := 3 },
   { word := fun d a b => .fmul d a b rm, fn := fun z x y => fpRes z rm (fpMul (fpVal z x) (fpVal z y)), iv := 3 },
   { word := fun d a b => .fmin d a b, fn := fun z x y => w32 (fpMinMax fp32 z false x.toNat y.toNat), iv := 1 },
   { word := fun d a b => .fmax d a b, fn := fun z x y => w32 (fpMinMax fp32 z true x.toNat y.toNat), iv := 1 },
   { word := fun d a b => .fcmpCc cc d a b, fn := fun z x y => flagV 32 (fpCond cc (fpVal z x) (fpVal z y)), iv := 1 }]

/-- A conversion between FP32 and integers. -/
structure CvtRow where
  word : Dst → Src → Instr
  fn : Bool → Word → Word

/-- The conversion rows (R123). -/
def cvtRows (rm : Rm) : List CvtRow :=
  [{ word := fun d a => .fcvtSW d a rm, fn := fun _ x => fpRes false rm (fpOfInt x.toInt 0) },
   { word := fun d a => .fcvtSWu d a rm, fn := fun _ x => fpRes false rm (.fin false x.toNat 0) },
   { word := fun d a => .fcvtWS d a rm,
     fn := fun z x => BitVec.ofInt 32 (fpToIntSat (rmC rm) (-(2 ^ 31)) (2 ^ 31 - 1) (fpVal z x)) },
   { word := fun d a => .fcvtWuS d a rm, fn := fun z x => BitVec.ofInt 32 (fpToIntSat (rmC rm) 0 (2 ^ 32 - 1) (fpVal z x)) }]

/-! ## Firings and tokens on a cell -/

/-- The firing of a cell, if one is in progress. -/
def State.firing (s : State) (t o : Nat) : Option Firing := (s.cell t o).bind (·.firing)

/-- The next word of a cell's firing. -/
def State.pcOf (s : State) (t o : Nat) : Option Nat := (s.firing t o).map (·.pc)

/-- The pops of a token word freeze nothing: no token behind a done token, and no rate bound exceeded (R32, R39). -/
structure PopsOk (s : State) (t o : Nat) (ports : List Nat) : Prop where
  fits : s.popsBehind t o ports = none
  rate : s.popsRate t o ports = none

/-- A port takes a token: depth is free, and no rate bound is exceeded (R39, R133). -/
structure PushOk (s : State) (t o p : Nat) (tok : Token) : Prop where
  ready : s.canPush t o p 1 = true
  rate : s.pushRate t o p tok = none

/-- A word that pops `pops`, pushes `tok` on a port and goes on. -/
def State.cellSent (s : State) (t o p : Nat) (pops : List Nat) (words : Nat) (tok : Token) : State :=
  ((s.cellPops t o pops).pushTok t o p tok).cellAdvance t o words 1

/-- A branch that pops `pops` has issued: the firing `f` goes on at the target when it is taken, else after its `words` words. -/
def State.branched (s : State) (t o : Nat) (f : Firing) (pops : List Nat) (words : Nat) (taken : Bool) (disp : Half) : State :=
  let u := (s.cellPops t o pops).cellAdvance t o words 1
  if taken then u.modFiring t o fun g => { g with pc := branchTo f.pc disp } else u

/-- `collect` has pushed the token of TAG `g` that NEXT named: NEXT goes on, and the firing stays at its word while the window holds
the token that follows (R142). -/
def State.collected (s : State) (t o : Nat) (c : Cell) (g : Nat) : State :=
  let u := s.modCell t o fun x => { x with next := x.next % 1023 + 1, window := adel g x.window }
  if (aget (c.next % 1023 + 1) (adel g c.window)).isSome then
    ((u.modFiring t o fun f => { f with releasing := true, nextAt := u.after t o 1 }).busy (u.lctxOf t)).issued
  else (u.modFiring t o fun f => { f with releasing := false }).cellAdvance t o 1 1

/-- A token with another TAG. -/
def Token.tagged (k : Token) (tag : Nat) : Token := { k with hdr := hdrWithTag k.hdr tag }

/-- A wide token whose payload is one word 32 times (R143). -/
def wideTok (hdr : Half) (w : Word) : Token := { hdr := hdr, count := 0, pay := BitVec.ofNat 1024 (replWords w 32) }

/-! ## A word on a vector unit -/

/-- The vector unit runs operator `o` of task `t`: `c` is its actor and `f` the firing in progress. -/
structure VecRuns (s : State) (t o : Nat) (c : Vec) (f : Firing) : Prop where
  cur : s.cur = .vec t o
  vec : s.vec t o = some c
  firing : c.firing = some f

/-- From actor `c` to actor `c'`, vector register `d` is written with `r`, the firing goes on to its next word, and no other
register and no predicate changes. -/
structure VecWrote (c c' : Vec) (f : Firing) (d : VNum) (r : VReg) : Prop where
  dest : c'.v d = r
  others : ∀ n, n ≠ d → c'.v n = c.v n
  preds : c'.pregs = c.pregs
  next : (c'.firing.map (·.pc)) = some (f.pc + 1)

/-- A register with a mark: the first one stays (R198). -/
def VReg.marked (r : VReg) (w : Word) : VReg := if r.mark.isSome then r else { r with mark := some w }

/-- The lanes that a predicate selects, the destination's lanes elsewhere (R203). -/
def blend (c : Vec) (p : Pred) (d : VNum) (n : Nat) (f : Nat → Word) : List Word :=
  (List.range n).map fun i => if c.sel p i then f i else (c.v d).lane i

/-- A lane-wise word: its constructor with destination and three sources, the number of sources it has, the formats it
accepts, and the value of a lane under an FTZ and a format. -/
structure LaneRow where
  word : VNum → VNum → VNum → VNum → Pred → Instr
  arity : Nat
  accepts : Nat → Bool
  fn : Bool → Nat → List Word → Word

/-- A value computed on floats, or on integers at their own signedness (R187, R206). -/
def laneVal (rm : Rm) (ff : List Fp → Fp) (fi : List Int → Int) (ftz : Bool) (fmt : Nat) (l : List Word) : Word :=
  if isInt fmt then wrapLane fmt (fi (l.map (intElem fmt))) else fmtResult fmt ftz (rmC rm) (ff (l.map (fmtOperand fmt ftz)))

/-- The lane-wise words of R206, R207 and R214 whose sources have one tag. -/
def laneRows (rm : Rm) : List LaneRow :=
  let num (fmt : Nat) : Bool := isFloat3 fmt || (isInt fmt && rm == .rne)
  let shift (f : Nat → Word → Nat → Word) (_ : Bool) (fmt : Nat) : List Word → Word :=
    two (fun v n => f fmt v (n.toNat % fmtBits fmt)) 0
  [{ word := fun d a b _ p => .vadd d a b p rm, arity := 2, accepts := num,
     fn := laneVal rm (two (fpAdd (rm == .rdn)) .nan) (two (· + ·) 0) },
   { word := fun d a b _ p => .vsub d a b p rm, arity := 2, accepts := num,
     fn := laneVal rm (two (fun x y => fpAdd (rm == .rdn) x (fpNeg y)) .nan) (two (· - ·) 0) },
   { word := fun d a b _ p => .vmul d a b p rm, arity := 2, accepts := num, fn := laneVal rm (two fpMul .nan) (two (· * ·) 0) },
   { word := fun d a b c p => .vfma d a b c p rm, arity := 3, accepts := isFloat3,
     fn := laneVal rm (three (fun x y z => fpAdd (rm == .rdn) (fpMul x y) z) .nan) (fun _ => 0) },
   { word := fun d a b c p => .vfms d a b c p rm, arity := 3, accepts := isFloat3,
     fn := laneVal rm (three (fun x y z => fpAdd (rm == .rdn) (fpMul x y) (fpNeg z)) .nan) (fun _ => 0) },
   { word := fun d a _ _ p => .vneg d a p, arity := 1, accepts := isSignedFmt,
     fn := laneVal .rne (one fpNeg .nan) (one (fun x => -x) 0) },
   { word := fun d a _ _ p => .vabs d a p, arity := 1, accepts := isSignedFmt,
     fn := laneVal .rne (one fpAbs .nan) (one (fun x => (x.natAbs : Int)) 0) },
   { word := fun d a b _ p => .vmin d a b p, arity := 2, accepts := isSeven,
     fn := fun ftz fmt => two (laneMinMax fmt ftz false) 0 },
   { word := fun d a b _ p => .vmax d a b p, arity := 2, accepts := isSeven,
     fn := fun ftz fmt => two (laneMinMax fmt ftz true) 0 },
   { word := fun d a _ _ p => .vrcp d a p, arity := 1, accepts := (· == 1),
     fn := fun ftz _ => one (fun x => fmtResult 1 ftz .rne (fpDiv (.fin false 1 0) (fmtOperand 1 ftz x))) 0 },
   { word := fun d a _ _ p => .vrsqrt d a p, arity := 1, accepts := (· == 1),
     fn := fun ftz _ => one (fun x => fmtResult 1 ftz .rne (rsqrtOf (fmtOperand 1 ftz x))) 0 },
   { word := fun d a _ _ p => .vexp2 d a p, arity := 1, accepts := (· == 1),
     fn := fun ftz _ => one (fun x => fmtResult 1 ftz .rne (exp2Of (fmtOperand 1 ftz x))) 0 },
   { word := fun d a _ _ p => .vlog2 d a p, arity := 1, accepts := (· == 1),
     fn := fun ftz _ => one (fun x => fmtResult 1 ftz .rne (log2Of (fmtOperand 1 ftz x))) 0 },
   { word := fun d a b _ p => .vand d a b p, arity := 2, accepts := (· != 0), fn := fun _ _ => two (· &&& ·) 0 },
   { word := fun d a b _ p => .vor d a b p, arity := 2, accepts := (· != 0), fn := fun _ _ => two (· ||| ·) 0 },
   { word := fun d a b _ p => .vxor d a b p, arity := 2, accepts := (· != 0), fn := fun _ _ => two (· ^^^ ·) 0 },
   { word := fun d a b _ p => .vshl d a b p, arity := 2, accepts := isInt,
     fn := shift fun fmt v n => BitVec.ofNat 32 (v.toNat * 2 ^ n % 2 ^ fmtBits fmt) },
   { word := fun d a b _ p => .vshr d a b p, arity := 2, accepts := isInt,
     fn := shift fun fmt v n => BitVec.ofNat 32 (v.toNat % 2 ^ fmtBits fmt / 2 ^ n) },
   { word := fun d a b _ p => .vsra d a b p, arity := 2, accepts := fun fmt => isInt fmt && fmt != 0xC,
     fn := shift fun fmt v n => wrapLane fmt (intElem fmt v / 2 ^ n) }]

/-- The bitwise words of R214 with the value of a lane. -/
def bitRows : List ((VNum → VNum → VNum → Pred → Instr) × (Word → Word → Word)) :=
  [(.vand, (· &&& ·)), (.vor, (· ||| ·)), (.vxor, (· ^^^ ·))]

/-- The shifts of R214 with the formats of VA and the value of a lane of that format under an amount. -/
def shiftRows : List ((VNum → VNum → VNum → Pred → Instr) × (Nat → Bool) × (Nat → Word → Nat → Word)) :=
  [(.vshl, isInt, fun fmt v n => BitVec.ofNat 32 (v.toNat * 2 ^ n % 2 ^ fmtBits fmt)),
   (.vshr, isInt, fun fmt v n => BitVec.ofNat 32 (v.toNat % 2 ^ fmtBits fmt / 2 ^ n)),
   (.vsra, fun fmt => isInt fmt && fmt != 0xC, fun fmt v n => wrapLane fmt (intElem fmt v / 2 ^ n))]

/-- The words that move lanes (R213), with the lane that each takes. -/
structure MoveRow where
  word : VNum → VNum → BitVec 9 → Pred → Instr
  lanes : VReg → BitVec 9 → List Word
  fits : VReg → BitVec 9 → Prop

/-- vrot, vsplat, and vmov under a predicate or not. -/
def moveRows : List MoveRow :=
  [{ word := .vrot, lanes := fun x n => (List.range x.vlen).map fun i => x.lane ((i + x.vlen * 512 - n.toNat) % x.vlen),
     fits := fun x _ => tagScl x.tag = false },
   { word := .vsplat, lanes := fun x n => List.replicate 512 (x.lane n.toNat),
     fits := fun x n => n.toNat < x.vlen ∧ tagScl x.tag = false },
   { word := fun d a _ p => .vmov d a p, lanes := fun x _ => x.lanes, fits := fun _ _ => True }]

/-! ## Memory -/

/-- Every byte but `n` of them from a key on reads as before. -/
def sameBut (m m' : List Host.Cell) (key n : Nat) : Prop := ∀ a, a < key ∨ key + n ≤ a → memGet m' a = memGet m a

/-- The loads of R154 with their sizes in bytes. -/
def loadWords : List ((SReg → Src → Half → Instr) × Nat) := [(.ldB, 1), (.ldH, 2), (.ldW, 4), (.ldD, 8)]

/-- The stores of R154 with their sizes in bytes. -/
def storeWords : List ((Src → Src → Half → Instr) × Nat) := [(.stB, 1), (.stH, 2), (.stW, 4), (.stD, 8)]

/-! ## Engines, nodes and events -/

/-- The mask lines that a walk has not yet written, and PASSED, can be written now: none waits for a page walk (R244, R324). -/
def State.masked (s : State) (t o : Nat) (w : Walker) : Bool :=
  let u := s.maskLines t o (w.lines - w.lined)
  !((u.walker t o).any fun w => decide (w.lined < w.lines)) && match u.unitWrite t o w.maskVa 64 w.pos with
    | .wait _ => false
    | _ => true

/-- The next `n` elements of a range command's destination, one atomic access after the other (R343): in `u j` those before `j` have
been written, and `val` gives what is written over an old value. -/
structure BankSteps (s : State) (k : BankCmd) (n : Nat) (val : State → Nat → Nat → Nat) (u : Nat → State) : Prop where
  first : u 0 = s
  next : ∀ j, j < n → ∃ ks, (u j).vaKeys k.lctx (k.dst + (k.i + j) * k.size) k.size 0 = some ks ∧
    (u j).vaKeys k.lctx (k.dst + (k.i + j) * k.size) k.size 1 = some ks ∧
    u (j + 1) = { u j with mem := writeKeys (u j).mem ks (val (u j) j ((u j).readKeys ks)) }

/-- A range command after its next `n` elements: over with the last of them, and else at the element behind them. -/
def BankCmd.after (k : BankCmd) (n : Nat) (got : List Nat) : Option BankCmd :=
  if k.n ≤ k.i + n then none else some { k with i := k.i + n, got := got }

/-- An instruction completes in a state of which `P` holds. -/
def Gives (i : Instr) (s : State) (P : State → Prop) : Prop := ∃ s', exec i s = .next s' ∧ P s'

/-- A command has left its inbox and is counted (R224). -/
structure Started (b b' : Inbox) : Prop where
  packets : b'.packets = b.packets.drop 1
  started : b'.started = b.started + 1

/-- A fibre unit of a kind that may take a step, and `f` is its state (R279, R280, R293). -/
structure FibreReady (s : State) (t o : Nat) (f : Fibre) (kind : Fop) : Prop where
  isOpen : ∃ k, s.fibreOpen t o = some (k, f)
  fop : f.fop = kind
  loaded : f.loaded = true
  time : f.nextAt ≤ s.fc
  going : f.retired = false

/-- A step of a fibre unit with these pops and pushes. -/
structure StepIs (st : FStep) (pops : List Nat) (pushes : List (Nat × Token)) : Prop where
  pops : st.pops = pops
  pushes : st.pushes = pushes

/-! ## Frames and the invariant -/

/-- The register of a destination. -/
def dstReg : Dst → Option SReg
  | .s n => some n
  | .o _ => none

/-- The register that a scalar word writes (R109, R113 to R124, R134, R147, R154 to R158). -/
def destReg : Instr → Option SReg
  | .add d _ _ _ _ | .sub d _ _ _ _ | .mul d _ _ _ _ | .div d _ _ _ _ => dstReg d
  | .adds d _ _ _ | .subs d _ _ _ | .mulh d _ _ _ | .mulhu d _ _ _ | .divu d _ _ _ | .rem d _ _ _ | .remu d _ _ _
  | .and d _ _ _ | .or d _ _ _ | .xor d _ _ _ | .andn d _ _ _ | .shl d _ _ _ | .shr d _ _ _ | .sra d _ _ _
  | .rotl d _ _ _ | .min d _ _ _ | .max d _ _ _ | .minu d _ _ _ | .maxu d _ _ _ => dstReg d
  | .abs d _ _ _ => dstReg d
  | .clz d _ _ | .ctz d _ _ | .popc d _ _ => dstReg d
  | .cmpCc _ d _ _ _ => dstReg d
  | .fadd d _ _ _ | .fmul d _ _ _ | .fdiv d _ _ _ => dstReg d
  | .fmin d _ _ | .fmax d _ _ => dstReg d
  | .fcvtSW d _ _ | .fcvtSWu d _ _ | .fcvtWS d _ _ | .fcvtWuS d _ _ => dstReg d
  | .fcmpCc _ d _ _ => dstReg d
  | .sel d _ _ _ _ => dstReg d
  | .fma d _ _ _ _ => dstReg d
  | .addi d _ _ | .andi d _ _ | .ori d _ _ | .xori d _ _ => dstReg d
  | .shli d _ _ | .shri d _ _ | .srai d _ _ => dstReg d
  | .li d _ => dstReg d
  | .cmpiCc _ d _ _ => dstReg d
  | .bfx d _ _ _ | .bfxu d _ _ _ => dstReg d
  | .recv d _ => dstReg d
  | .qpop d _ _ => dstReg d
  | .mov d _ | .neg d _ | .bswap d _ => dstReg d
  | .lih d _ | .bfi d _ _ _ | .peek d _ | .clip8 d _ => some d
  | .ldB d _ _ | .ldH d _ _ | .ldW d _ _ | .ldD d _ _ => some d
  | .rfetch d _ | .csrr d _ | .crc32c d _ _ => some d
  | _ => none

/-- The vector register that a vector word writes (R206 to R221). -/
def destV : Instr → Option VNum
  | .vadd d _ _ _ _ | .vsub d _ _ _ _ | .vmul d _ _ _ _ => some d
  | .vfma d _ _ _ _ _ | .vfms d _ _ _ _ _ => some d
  | .vneg d _ _ | .vabs d _ _ | .vrcp d _ _ | .vrsqrt d _ _ | .vexp2 d _ _ | .vlog2 d _ _ | .vmov d _ _ => some d
  | .vmin d _ _ _ | .vmax d _ _ _ | .vperm d _ _ _ | .vand d _ _ _ | .vor d _ _ _ | .vxor d _ _ _ | .vshl d _ _ _
  | .vshr d _ _ _ | .vsra d _ _ _ => some d
  | .vsel d _ _ _ => some d
  | .vcvt d _ _ _ _ _ _ => some d
  | .vquant d _ _ _ _ _ => some d
  | .vscale d _ _ => some d
  | .vred _ d _ _ _ | .vscan _ d _ _ _ => some d
  | .vrot d _ _ _ | .vsplat d _ _ _ => some d
  | .vimad d _ _ _ _ => some d
  | .vtagSet d _ _ _ => some d
  | .vtagGet d _ _ => some d
  | .vld d _ _ => some d
  | _ => none

/-- The predicate that a vector word writes (R208). -/
def destP : Instr → Option PNum
  | .vcmpCc _ d _ _ _ => some d
  | _ => none

/-- The steps that may change a byte of memory. Every other one leaves memory as it was. The advance of the clock sends a
message-signalled interrupt whose mask is gone (R400); the end of an access of another device brings a copy's bytes (R405). -/
def mayWrite : Instr → Bool
  | .amo .. | .stB .. | .stH .. | .stW .. | .stD .. | .rfetch .. | .qpop .. | .wrapCommit | .mxDrain .. | .mxStat ..
  | .nodeTask .. | .launch .. | .reqSignal .. | .reqWait .. | .cancel .. | .revokePasid .. | .invalidate ..
  | .aqiReset .. | .restore .. | .storeIssue .. | .storeAck .. | .rmwWrite .. | .fullEmptyRelease .. | .wcbIdleFlush ..
  | .engineReply .. | .tlInc .. | .pageHashComplete .. | .walkerBlockBegin .. | .walkerPointIssue .. | .walkerEnd ..
  | .copyTransfer .. | .bankLineOperation .. | .pauseComplete .. | .taskComplete .. | .wrapComplete ..
  | .joinerPlacementBegin | .placementEnd .. | .launchComplete .. | .stopInstant .. | .deadlineFc ..
  | .spanFrameReceive .. | .spanAckReceive .. | .spanAccessTimeout .. | .lookaheadNodeRead .. | .deadlineClockAdvance
  | .coldReset | .functionLevelReset | .eccUncorrectable .. | .coreStorePerformed .. =>
    true
  | _ => false

/-- The steps other than scalar words that may change a general register of a control core (R154, R375, R406). -/
def mayWriteCores : Instr → Bool
  | .coreLoadReturn .. | .fsrEntry | .coldReset => true
  | _ => false

/-- What holds of every state that a run reaches: memory is in its canonical form, a launch context is listed once, and
there are 16 control cores, each with 16 registers, the reserved bits of STATUS zero, and TVEC a word's offset in local
memory. -/
structure State.Inv (s : State) : Prop where
  mem : s.memOk
  ctxs : (s.ctxs.map (·.1)).Nodup
  cores : s.cores.length = 16
  core : ∀ c ∈ s.cores, c.regs.length = 16 ∧ c.status &&& ~~~(7 : Dbl) = 0 ∧ c.tvec &&& ~~~(0x3FFFC : Dbl) = 0

end Sys2Proof.Machine
end

