-- ==== Sys2Proof/Certificates/Slice0/Obligations.lean ====
section
/-! DEFINITION. The statements for the provers, rule by rule of the manual. -/

open Sys2Proof Sys2Proof.Machine

/-! ## Words, steps, memory and reset (04, 05, 24) -/

/-- R87 to R94, R167: words written out from the tables of the manual decode to the instructions they stand for, in the
scalar map, in the maps of generations 1 and 2, and in the vector map; a word of no row, and a word with a reserved bit set,
is none. -/
def Obligations.DecodeWords : Prop :=
  (∀ e : Word,
    decodeScalar 3 0x00218000 e = some (.add (.s 1) (.s 1) (.q 0) false false) ∧
    decodeScalar 3 0x98000000 e = some .endCell ∧ decodeScalar 3 0x64100018 e = some (.drop 0) ∧
    decodeScalar 3 0x63400002 e = some (.senddone 0 0) ∧
    decodeScalar 3 0x005018A0 e = some (.max (.s 2) (.q 0) (.s 3) false) ∧
    decodeScalar 3 0x3060FC18 e = some (.li (.s 3) 0xFC18) ∧
    decodeScalar 3 0x00A1F000 e = some (.add (.s 5) (.s 1) (.imm e) false false) ∧
    decodeScalar 3 0xA8620010 e = some (.ldW 3 (.s 2) 0x10) ∧ decodeScalar 3 0xC0007123 e = some (.trap 0x123) ∧
    decodeScalar 3 0xC0008000 e = some .eret ∧ decodeScalar 3 0xFC000000 e = none ∧ decodeScalar 3 0x00218004 e = none ∧
    decodeScalar 1 0x48610000 e = some (.neg (.s 3) (.s 1)) ∧ decodeScalar 3 0x48610000 e = none) ∧
  decodeVector 0x00611000 = some (.vadd 3 1 2 none .rne) ∧
  decodeVector 0x3CC14100 = some (.vcvt 6 1 4 .rne true false none) ∧
  decodeVector 0xFC000000 = some .vend ∧ decodeVector 0xFC000001 = none

/-- R87 to R94 and R167: decoding and encoding agree. The words of a well-formed instruction decode to it, whatever follows
a word without an immediate; and a word that decodes is the encoding of what it decodes to, so that it has one meaning. -/
def Obligations.DecodeEncode : Prop :=
  (∀ (gen : Nat) (i : Instr), gen ∈ [1, 2, 3] → wf i = true → inGen gen i = true →
    if takesExt i then ∃ w e, encode i = [w, e] ∧ decodeScalar gen w e = some i
    else ∃ w, encode i = [w] ∧ ∀ e, decodeScalar gen w e = some i) ∧
  (∀ i, wf i = true → isVector i = true → ∃ w, encode i = [w] ∧ decodeVector w = some i) ∧
  (∀ (gen : Nat) (w e : Word) (i : Instr), gen ∈ [1, 2, 3] → decodeScalar gen w e = some i →
    encode i = if takesExt i then [w, e] else [w]) ∧
  (∀ (w : Word) (i : Instr), decodeVector w = some i → encode i = [w])

/-- R20, R21, R106, R201, R224, R341, R368, R397, R402: a step runs the instruction that the unit whose turn it is fetches:
the word at the PC of a control core, the next word of the actor that a cell or a vector unit is offered first, the image at
the head of an engine's inbox, a bank queue or a queue of requests, or the node a launch has reached. A core's fetch counts as
an access of its pseudo-channel (R273). The order of turns is the model's (log entry 1). -/
def Obligations.StepRunsDecodedInstruction : Prop :=
  ∀ (s : State) (x : Turn) (rest : List Turn), s.agenda = x :: rest →
    let u : State := { s with agenda := rest, cur := .none }
    (∀ i, x = .event i → step s = exec i u) ∧
    (∀ k w e i, x = .core k → u.coreRuns k = true → (u.core k).pc.toNat % 4 = 0 → u.coreWord k (u.core k).pc = some w →
      u.coreWord k ((u.core k).pc + 4) = some e → decodeCore w e = some i →
      step s = exec i (({ u with cur := .core k } : State).touchCode k)) ∧
    (∀ a b c f more i, x = .cell a b c → u.cellOffers a b c = f :: more → f.instr = some i →
      let r := exec i { u with cur := .cell f.t f.o }
      (∀ s', r = .next s' → s'.issues ≠ u.issues → step s = .next (s'.markIssue a b c)) ∧
      ((∀ s', r ≠ .next s') → step s = r)) ∧
    (∀ a b f more i, x = .vec a b → u.vecOffers a b = f :: more → f.instr = some i →
      let r := exec i { u with cur := .vec f.t f.o }
      (∀ s', r = .next s' → s'.issues ≠ u.issues → step s = .next (s'.markIssue a b vecUnit)) ∧
        ((∀ s', r ≠ .next s') → step s = r)) ∧
    (∀ t o b p more i, x = .engine t o → u.inbox (.op t o) = some b → b.packets = p :: more →
      decodeCommand t o p.image = some i → step s = exec i u) ∧
    (∀ n c b p more i, x = .bank n c → u.inbox (.bank n c) = some b → b.packets = p :: more →
      decodeBank n c p.image = some i → step s = exec i u) ∧
    (∀ l a more i, x = .node l → (u.launch l).map (·.ahead) = some (a :: more) → decodeNode l a.node = some i →
      step s = exec i u) ∧
    (∀ aqi q p i, x = .request aqi q → u.requestHead aqi q = some p → decodeRequest aqi q p = some i → step s = exec i u) ∧
    (∀ p more i, x = .admin → u.adminQ = p :: more → decodeAdmin p = some i → step s = exec i u)

/-- R1: what is read after a write of n bytes is what was written, no other byte changes, and memory keeps its canonical
form, in which equal contents are equal data. -/
def Obligations.MemoryReadAfterWrite : Prop :=
  (∀ (m : List Host.Cell) (k n v : Nat), Memory.wf m = true →
    memRead (memWrite m k n v) k n = v % 2 ^ (8 * n) ∧ sameBut m (memWrite m k n v) k n ∧
    Memory.wf (memWrite m k n v) = true) ∧
  (∀ m m' : List Host.Cell, Memory.wf m = true → Memory.wf m' = true → (∀ a, memGet m a = memGet m' a) → m = m')

/-- Every step keeps the invariant: memory in its canonical form, each launch context listed once, 16 control cores with 16
registers each (R6, R152), the reserved bits of STATUS and TVEC zero (R152). -/
def Obligations.StepKeepsInvariant : Prop := ∀ s s' : State, s.Inv → step s = .next s' → s'.Inv

/-- R152, R261, R273, R407: what reset leaves: STATUS holds MODE 1 and nothing else, CAUSE and TVEC are 0, DEVSTAT reads 0,
the clock free-runs from 0, no lever is engaged; and the invariant holds. Registers without a stated reset value are 0 and
memory reads 0, by the model's choice (log entries 4 and 5). -/
def Obligations.ResetState : Prop :=
  State.reset.Inv ∧
  (∀ k, k < 16 → State.reset.csr k 0x000 = 1 ∧ State.reset.csr k 0x002 = 0 ∧ State.reset.csr k 0x004 = 0 ∧
    (State.reset.core k).super = true ∧ ∀ n, (State.reset.core k).reg n = 0) ∧
  State.reset.dev.devstat = 0 ∧ State.reset.tai = 0 ∧ State.reset.power.lever = 0 ∧ (∀ a, memGet State.reset.mem a = 0) ∧
  State.reset.ctxs = [] ∧ State.reset.tasks = [] ∧ State.reset.launches = []

/-! ## Frames -/

/-- R19, R66, R109, R141, R142, R147, R268, R269: a word on a cell changes no register of its actor but its destination, and
never s0, which reads zero; TSEQ only by tagseq, and what collect keeps only by collect; nothing of another cell, of a
vector unit or of a control core; and no byte of memory but HEAD of the queue that qpop pops and the lines that wrap.commit
drains. -/
def Obligations.CellFrame : Prop :=
  ∀ (s s' : State) (t o : Nat) (c c' : Cell) (gen : Nat) (i : Instr), s.cur = .cell t o → legalOnCell gen i = true →
    exec i s = .next s' → s.cell t o = some c → s'.cell t o = some c' →
    (∀ n, destReg i ≠ some n → c'.reg n = c.reg n) ∧ c'.reg 0 = 0 ∧
    ((∀ p q, i ≠ .tagseq p q) → c'.tseq = c.tseq) ∧
    ((∀ p q, i ≠ .collect p q) → c'.next = c.next ∧ c'.window = c.window) ∧
    (∀ t' o', (t', o') ≠ (t, o) → s'.cell t' o' = s.cell t' o') ∧ (∀ t' o', s'.vec t' o' = s.vec t' o') ∧
    s'.cores = s.cores ∧
    (mayWrite i = false → s'.mem = s.mem) ∧
    (∀ d nb n x, i = .qpop d nb n → s.ctx (s.lctxOf t) = some x →
      let va := x.wqt + 32 * n.toNat + 0x10
      (∀ l, s.xlateNow (s.lctxOf t) va 4 1 = .at_ l → sameBut s.mem s'.mem l.key 4) ∧
      ((∀ l, s.xlateNow (s.lctxOf t) va 4 1 ≠ .at_ l) → s'.mem = s.mem)) ∧
    (i = .wrapCommit → ∀ k a, s.task t = some k → (∀ w ∈ k.wcb, ∀ x ∈ w.bytes, a ≠ w.line + x.1) →
      memGet s'.mem a = memGet s.mem a)

/-- R151 to R158: a word on a control core changes no register of its core but its destination, and never s0; no control
register but by csrw, eret or the trap it takes; no register of another core; nothing of a cell or a vector unit; and no
byte of memory but those that a store to local memory, an amo, rfetch or qpop writes. A device store reaches memory when it
is performed. -/
def Obligations.CoreFrame : Prop :=
  ∀ (s s' : State) (k : Nat) (i : Instr), s.cur = .core k → legalOnCore i = true → exec i s = .next s' →
    let c := s.core k
    let c' := s'.core k
    (∀ n, destReg i ≠ some n → c'.reg n = c.reg n) ∧ c'.reg 0 = 0 ∧
    (i ≠ .eret → (∀ a r, i ≠ .csrw a r) → (∀ r, s'.csr k r = s.csr k r) ∨
      ∃ epc cause eval, c' = { c.trap epc cause eval with fsr := none }) ∧
    (∀ j, j ≠ k → (s'.core j).regs = (s.core j).regs ∧ ∀ r, s'.csr j r = s.csr j r) ∧
    (∀ t o, s'.cell t o = s.cell t o ∧ s'.vec t o = s.vec t o) ∧
    (mayWrite i = false → s'.mem = s.mem) ∧
    (∀ w ∈ storeWords, ∀ v a off, i = w.1 v a off →
      (∀ l, s.coreAt k (c.addr a off) w.2 1 = .loc l → sameBut s.mem s'.mem (Loc.core k l).key w.2) ∧
      ((∀ l, s.coreAt k (c.addr a off) w.2 1 ≠ .loc l) → s'.mem = s.mem)) ∧
    (∀ fn d a b w ovt, i = .amo fn d a b w ovt →
      let n := if w then 8 else 4
      (∀ l, s.coreAt k (c.src a) n 2 = .dev l → sameBut s.mem s'.mem l.key n) ∧
      ((∀ l, s.coreAt k (c.src a) n 2 ≠ .dev l) → s'.mem = s.mem)) ∧
    (∀ d a, i = .rfetch d a → sameBut s.mem s'.mem (Loc.core k ((c.src a).extractLsb' 0 18).toNat).key 32) ∧
    (∀ d nb n x, i = .qpop d nb n → s.ctx c.lctx = some x →
      let va := x.wqt + 32 * n.toNat + 0x10
      (∀ l, s.xlateNow c.lctx va 4 1 = .at_ l → sameBut s.mem s'.mem l.key 4) ∧
      ((∀ l, s.xlateNow c.lctx va 4 1 ≠ .at_ l) → s'.mem = s.mem))

/-- R192, R198, R202, R203: a vector word changes no vector register and no predicate of its actor but its destination, the
sticky flags only by vcvt, vquant and vtag.get, the stochastic state only by vcvt and vquant; nothing of another actor or of
a control core; and no byte of memory. -/
def Obligations.VectorFrame : Prop :=
  ∀ (s s' : State) (t o : Nat) (c c' : Vec) (i : Instr), s.cur = .vec t o → isVector i = true →
    exec i s = .next s' → s.vec t o = some c → s'.vec t o = some c' →
    (∀ n, destV i ≠ some n → c'.v n = c.v n) ∧ (∀ n, destP i ≠ some n → c'.p n = c.p n) ∧
    ((∀ d a f r x y p, i ≠ .vcvt d a f r x y p) → (∀ d a f r b p, i ≠ .vquant d a f r b p) →
      c'.x = c.x ∧ ((∀ d a e, i ≠ .vtagGet d a e) → c'.flags = c.flags)) ∧
    (∀ t' o', (t', o') ≠ (t, o) → s'.vec t' o' = s.vec t' o') ∧ (∀ t' o', s'.cell t' o' = s.cell t' o') ∧
    s'.cores = s.cores ∧ s'.mem = s.mem

/-- R10, R154, R308, R375, R406: memory changes only in the steps that `mayWrite` names: the words and commands that store,
the delivery of stores, the records that requests and task-graph nodes write, and the save, restore and clearing of regions;
and of all steps that are no scalar word, only the return of a load, the entry of a fault service routine and a cold reset
change a general register of a control core. -/
def Obligations.MachineFrame : Prop :=
  ∀ (s s' : State) (i : Instr), exec i s = .next s' →
    (mayWrite i = false → s'.mem = s.mem) ∧
    (isScalar i = false → (∀ gen, inGen gen i = false) → mayWriteCores i = false →
      ∀ k, (s'.core k).regs = (s.core k).regs)

/-! ## Scalar words on cells and cores (06_scalar_arithmetic.md) -/

/-- R113: each integer word writes its value on a cell, at 32 bits; a dividing word needs a divisor. R34: a poison operand
is forwarded, the first in the order A, B, and the firing ends. -/
def Obligations.IntegerOnCells : Prop :=
  (∀ r ∈ intRows, ∀ (s : State) (t o : Nat) (c : Cell) (f : Firing) (d : Dst) (a b : Src) (w : Bool),
    (∀ x y : Word, CellReads s t o c f [a, b] [x, y] → CellTakes s t o f d → (r.divides = true → y ≠ 0) →
      exec (r.word d a b w) s = .next (s.cellDone t o f d [a, b] (r.fn 32 x y) r.iv)) ∧
    (∀ k, CellPoison s t o c f d [a, b] k → exec (r.word d a b w) s = .next (s.poisonOut t o (popsOf [a, b]) k))) ∧
  (∀ r ∈ unaryRows, ∀ (s : State) (t o : Nat) (c : Cell) (f : Firing) (d : Dst) (a : Src) (w : Bool) (x : Word),
    (CellReads s t o c f [a] [x] → CellTakes s t o f d →
      exec (r.word d a w) s = .next (s.cellDone t o f d [a] (r.fn 32 x) 1)) ∧
    (∀ k, CellPoison s t o c f d [a] k → exec (r.word d a w) s = .next (s.poisonOut t o (popsOf [a]) k)))

/-- R113 and R111: each integer word writes its value on a control core, at 64 bits under W64, else at 32 bits
sign-extended. -/
def Obligations.IntegerOnCores : Prop :=
  (∀ r ∈ intRows, ∀ (s : State) (k : Nat) (n : SReg) (a b : Src) (w : Bool),
    CoreRuns s k [a, b] (some n) →
    (r.divides = true → if w then (s.core k).src b ≠ 0 else ((s.core k).src b).setWidth 32 ≠ (0 : Word)) →
    exec (r.word (.s n) a b w) s =
      .next (s.coreWrite k n (coreVal w r.fn ((s.core k).src a) ((s.core k).src b)) (srcWords [a, b]))) ∧
  (∀ r ∈ unaryRows, ∀ (s : State) (k : Nat) (n : SReg) (a : Src) (w : Bool), CoreRuns s k [a] (some n) →
    exec (r.word (.s n) a w) s =
      .next (s.coreWrite k n (coreVal w (fun m x _ => r.fn m x) ((s.core k).src a) 0) (srcWords [a])))

/-- R117: the bit-field forms, on a cell and on a core, read or replace a field of l + 1 bits that starts at pos and ends by
bit 31; a word whose field ends beyond it, or whose D is no register for bfi, decodes to none of them. -/
def Obligations.BitFieldForms : Prop :=
  (∀ (pos l : BitVec 5), pos.toNat + l.toNat + 1 ≤ 32 →
   (∀ (s : State) (t o : Nat) (c : Cell) (f : Firing) (d : Dst) (a : Src) (x : Word),
     CellReads s t o c f [a] [x] → CellTakes s t o f d →
     let z := x.extractLsb' pos.toNat (l.toNat + 1)
     exec (.bfx d a pos l) s = .next (s.cellDone t o f d [a] (z.signExtend 32) 1) ∧
     exec (.bfxu d a pos l) s = .next (s.cellDone t o f d [a] (z.zeroExtend 32) 1)) ∧
   (∀ (s : State) (t o : Nat) (c : Cell) (f : Firing) (n : SReg) (a : Src) (x y : Word),
     CellReads s t o c f [.s n, a] [x, y] →
     exec (.bfi n a pos l) s = .next (s.cellDone t o f (.s n) [.s n, a] (insertV pos.toNat (l.toNat + 1) x y) 1)) ∧
   (∀ (s : State) (k : Nat) (n : SReg) (a : Src), CoreRuns s k [a] (some n) →
     let z := ((s.core k).src a).extractLsb' pos.toNat (l.toNat + 1)
     exec (.bfx (.s n) a pos l) s = .next (s.coreWrite k n (z.signExtend 64) (srcWords [a])) ∧
     exec (.bfxu (.s n) a pos l) s = .next (s.coreWrite k n (z.zeroExtend 64) (srcWords [a]))) ∧
   (∀ (s : State) (k : Nat) (n : SReg) (a : Src), CoreRuns s k [.s n, a] (some n) →
     exec (.bfi n a pos l) s =
       .next (s.coreWrite k n ((insertV pos.toNat (l.toNat + 1) (((s.core k).reg n).setWidth 32)
         (((s.core k).src a).setWidth 32)).signExtend 64) (srcWords [.s n, a])))) ∧
  (∀ (gen : Nat) (w e : Word) (a : Src) (pos l : BitVec 5),
    (∀ d, decodeScalar gen w e = some (.bfx d a pos l) ∨ decodeScalar gen w e = some (.bfxu d a pos l) →
      pos.toNat + l.toNat + 1 ≤ 32) ∧
    (∀ n, decodeScalar gen w e = some (.bfi n a pos l) → pos.toNat + l.toNat + 1 ≤ 32 ∧ (dOf w).toNat = n.val))

/-- R114: under OVT, a word whose exact signed result does not fit raises IOVF and its result is discarded; one whose result
fits writes it. R114: a division by zero raises DIV0 whatever OVT holds. R112: the fault is a poison token on a cell, and a
trap before d is written on a core. -/
def Obligations.OverflowAndDivisionByZero : Prop :=
  (∀ r ∈ ovtRows, ∀ (s : State) (t o : Nat) (c : Cell) (f : Firing) (d : Dst) (a b : Src) (w : Bool) (x y : Word),
     CellReads s t o c f [a, b] [x, y] → (r.divides = true → y ≠ 0) →
     let z := r.exact x.toInt y.toInt
     (-(2 ^ 31) ≤ z ∧ z ≤ 2 ^ 31 - 1 → CellTakes s t o f d →
       exec (r.word d a b w) s = .next (s.cellDone t o f d [a, b] (BitVec.ofInt 32 z) r.iv)) ∧
     (z < -(2 ^ 31) ∨ 2 ^ 31 - 1 < z → s.dstReady t o d = true →
       exec (r.word d a b w) s = .next (s.cellFault t o [a, b] Code.iovf))) ∧
  (∀ r ∈ ovtRows, ∀ (s : State) (k : Nat) (n : SReg) (a b : Src) (w : Bool), CoreRuns s k [a, b] (some n) →
     let m := if w then 64 else 32
     let y := (((s.core k).src b).setWidth m).toInt
     let z := r.exact (((s.core k).src a).setWidth m).toInt y
     (r.divides = true → y ≠ 0) →
     (-(2 ^ (m - 1)) ≤ z ∧ z ≤ 2 ^ (m - 1) - 1 → exec (r.word (.s n) a b w) s =
       .next (s.coreWrite k n (coreVal w (fun m _ _ => BitVec.ofInt m z) 0 0) (srcWords [a, b]))) ∧
     (z < -(2 ^ (m - 1)) ∨ 2 ^ (m - 1) - 1 < z →
       exec (r.word (.s n) a b w) s = .next (s.coreTrap k Code.iovf 0).issued)) ∧
  (∀ (s : State) (t o : Nat) (c : Cell) (f : Firing) (d : Dst) (a : Src) (w : Bool) (x : Word), CellReads s t o c f [a] [x] →
     (x.toInt ≠ -(2 ^ 31) → CellTakes s t o f d →
       exec (.abs d a w true) s = .next (s.cellDone t o f d [a] (BitVec.ofInt 32 x.toInt.natAbs) 1)) ∧
     (x.toInt = -(2 ^ 31) → s.dstReady t o d = true →
       exec (.abs d a w true) s = .next (s.cellFault t o [a] Code.iovf))) ∧
  (∀ (s : State) (k : Nat) (n : SReg) (a : Src) (w : Bool), CoreRuns s k [a] (some n) →
     let m := if w then 64 else 32
     let x := (((s.core k).src a).setWidth m).toInt
     (x ≠ -(2 ^ (m - 1)) → exec (.abs (.s n) a w true) s =
       .next (s.coreWrite k n (coreVal w (fun m _ _ => BitVec.ofInt m x.natAbs) 0 0) (srcWords [a]))) ∧
     (x = -(2 ^ (m - 1)) → exec (.abs (.s n) a w true) s = .next (s.coreTrap k Code.iovf 0).issued)) ∧
  (∀ word ∈ divRows,
     (∀ (s : State) (t o : Nat) (c : Cell) (f : Firing) (d : Dst) (a b : Src) (w : Bool) (x : Word),
       CellReads s t o c f [a, b] [x, 0] → s.dstReady t o d = true →
       exec (word d a b w) s = .next (s.cellFault t o [a, b] Code.div0)) ∧
     (∀ (s : State) (k : Nat) (n : SReg) (a b : Src) (w : Bool), CoreRuns s k [a, b] (some n) →
       (if w then (s.core k).src b = 0 else ((s.core k).src b).setWidth 32 = (0 : Word)) →
       exec (word (.s n) a b w) s = .next (s.coreTrap k Code.div0 0).issued))

/-- R115: the immediate forms on a cell at 32 bits, and on a core at 64 bits; a cell decodes no shift by 32 or more. R116:
`li` writes the sign-extended immediate, and `lih` replaces bits [31:16] of d, sign-extending them on a core; a field of A
must be 0, and D of lih a register. -/
def Obligations.ImmediateForms : Prop :=
  (∀ (imm : Half) (amt : BitVec 6), ∀ r ∈ immRows imm amt,
     (∀ (s : State) (t o : Nat) (c : Cell) (f : Firing) (d : Dst) (a : Src) (x : Word),
       CellReads s t o c f [a] [x] → CellTakes s t o f d → amt.toNat < 32 →
       exec (r.word d a) s = .next (s.cellDone t o f d [a] (r.fn 32 x) 1)) ∧
     (∀ (s : State) (k : Nat) (n : SReg) (a : Src), CoreRuns s k [a] (some n) →
       exec (r.word (.s n) a) s = .next (s.coreWrite k n (r.fn 64 ((s.core k).src a)) (srcWords [a])))) ∧
  (∀ (gen : Nat) (w e : Word) (d : Dst) (a : Src) (amt : BitVec 6),
    (decodeCell gen w e = some (.shli d a amt) ∨ decodeCell gen w e = some (.shri d a amt) ∨
      decodeCell gen w e = some (.srai d a amt) → amt.toNat < 32)) ∧
  ((∀ (s : State) (t o : Nat) (c : Cell) (f : Firing) (d : Dst) (imm : Half),
     CellReads s t o c f [] [] → CellTakes s t o f d →
     exec (.li d imm) s = .next (s.cellDone t o f d [] (imm.signExtend 32) 1)) ∧
   (∀ (s : State) (t o : Nat) (c : Cell) (f : Firing) (n : SReg) (imm : Half) (x : Word),
     CellReads s t o c f [.s n] [x] →
     exec (.lih n imm) s = .next (s.cellDone t o f (.s n) [.s n] (imm ++ x.extractLsb' 0 16) 1)) ∧
   (∀ (s : State) (k : Nat) (n : SReg) (imm : Half), CoreRuns s k [] (some n) →
     exec (.li (.s n) imm) s = .next (s.coreWrite k n (imm.signExtend 64) 1)) ∧
   (∀ (s : State) (k : Nat) (n : SReg) (imm : Half), CoreRuns s k [.s n] (some n) →
     exec (.lih n imm) s =
       .next (s.coreWrite k n ((imm ++ ((s.core k).reg n).extractLsb' 0 16 : Word).signExtend 64) 1)) ∧
   (∀ (gen : Nat) (w e : Word) (imm : Half),
     (∀ d, decodeScalar gen w e = some (.li d imm) → aOf w = 0 ∧ loOf w = imm) ∧
     (∀ n, decodeScalar gen w e = some (.lih n imm) → aOf w = 0 ∧ loOf w = imm ∧ (dOf w).toNat = n.val)))

/-- R118: `cmp.cc` and `cmpi.cc` write 1 or 0 over the whole destination, on a cell and on a core; their reserved conditions
and mode bits are no instruction. R119: `sel` consumes all three operands and writes a when c is not zero, else b; a poison
in any of them is forwarded, the first in order. -/
def Obligations.CompareAndSelect : Prop :=
  (∀ (s : State) (t o : Nat) (c : Cell) (f : Firing) (d : Dst) (a b : Src) (cc : Cond) (w : Bool) (x y : Word),
    CellReads s t o c f [a, b] [x, y] → CellTakes s t o f d →
    exec (.cmpCc cc d a b w) s = .next (s.cellDone t o f d [a, b] (flagV 32 (condV cc 32 x y)) 1)) ∧
  (∀ (s : State) (t o : Nat) (c : Cell) (f : Firing) (d : Dst) (a : Src) (cc : Cond) (imm : BitVec 12) (x : Word),
    CellReads s t o c f [a] [x] → CellTakes s t o f d →
    exec (.cmpiCc cc d a imm) s = .next (s.cellDone t o f d [a] (flagV 32 (condV cc 32 x (imm.signExtend 32))) 1)) ∧
  (∀ (s : State) (t o : Nat) (c : Cell) (f : Firing) (d : Dst) (a b e : Src) (w : Bool),
    (∀ x y z : Word, CellReads s t o c f [a, b, e] [x, y, z] → CellTakes s t o f d →
      exec (.sel d a b e w) s = .next (s.cellDone t o f d [a, b, e] (if z ≠ 0 then x else y) 1)) ∧
    (∀ k, CellPoison s t o c f d [a, b, e] k → exec (.sel d a b e w) s = .next (s.poisonOut t o (popsOf [a, b, e]) k))) ∧
  (∀ (s : State) (k : Nat) (n : SReg) (a b : Src) (cc : Cond) (w : Bool), CoreRuns s k [a, b] (some n) →
    exec (.cmpCc cc (.s n) a b w) s = .next (s.coreWrite k n
      (coreVal w (fun m x y => flagV m (condV cc m x y)) ((s.core k).src a) ((s.core k).src b)) (srcWords [a, b]))) ∧
  (∀ (s : State) (k : Nat) (n : SReg) (a : Src) (cc : Cond) (imm : BitVec 12), CoreRuns s k [a] (some n) →
    exec (.cmpiCc cc (.s n) a imm) s =
      .next (s.coreWrite k n (flagV 64 (condV cc 64 ((s.core k).src a) (imm.signExtend 64))) (srcWords [a]))) ∧
  (∀ (s : State) (k : Nat) (n : SReg) (a b e : Src) (w : Bool), CoreRuns s k [a, b, e] (some n) →
    let z : Bool := if w then (s.core k).src e != 0 else ((s.core k).src e).setWidth 32 != (0 : Word)
    exec (.sel (.s n) a b e w) s = .next (s.coreWrite k n
      (coreVal w (fun _ x y => if z then x else y) ((s.core k).src a) ((s.core k).src b)) (srcWords [a, b, e]))) ∧
  (∀ (gen : Nat) (w e : Word),
    (opOf w = 0 → 0x2A ≤ (w.extractLsb' 3 8).toNat → decodeScalar gen w e = none) ∧
    (opOf w = 0x0E → 10 ≤ (w.extractLsb' 12 4).toNat → decodeScalar gen w e = none) ∧
    (∀ cc d a b wide, decodeScalar gen w e = some (.cmpCc cc d a b wide) → w.extractLsb' 1 2 = 0 ∧ wide = w.getLsbD 0) ∧
    (∀ d a b c wide, decodeScalar gen w e = some (.sel d a b c wide) → w.extractLsb' 1 2 = 0 ∧ wide = w.getLsbD 0))

/-- R120 to R124: the FP32 words with two operands, fma and the conversions write the exact result rounded once, on a cell
and on a core, under the FTZ in force. -/
def Obligations.FloatWords : Prop :=
  ∀ (rm : Rm) (cc : Cond),
  (∀ r ∈ floatRows rm cc, ∀ (s : State) (t o : Nat) (c : Cell) (f : Firing) (d : Dst) (a b : Src) (x y : Word),
    CellReads s t o c f [a, b] [x, y] → CellTakes s t o f d →
    exec (r.word d a b) s = .next (s.cellDone t o f d [a, b] (r.fn (s.ftz (s.lctxOf t)) x y) r.iv)) ∧
  (∀ (s : State) (t o : Nat) (c : Cell) (f : Firing) (d : Dst) (a b e : Src) (x y z : Word),
    CellReads s t o c f [a, b, e] [x, y, z] → CellTakes s t o f d →
    let v := fpVal (s.ftz (s.lctxOf t))
    exec (.fma d a b e rm) s = .next (s.cellDone t o f d [a, b, e]
      (fpRes (s.ftz (s.lctxOf t)) rm (fpAdd (rm == .rdn) (fpMul (v x) (v y)) (v z))) 3)) ∧
  (∀ r ∈ cvtRows rm, ∀ (s : State) (t o : Nat) (c : Cell) (f : Firing) (d : Dst) (a : Src) (x : Word),
    CellReads s t o c f [a] [x] → CellTakes s t o f d →
    exec (r.word d a) s = .next (s.cellDone t o f d [a] (r.fn (s.ftz (s.lctxOf t)) x) 3)) ∧
  (∀ r ∈ floatRows rm cc, ∀ (s : State) (k : Nat) (n : SReg) (a b : Src), CoreRuns s k [a, b] (some n) →
    let x : Word := ((s.core k).src a).setWidth 32
    let y : Word := ((s.core k).src b).setWidth 32
    exec (r.word (.s n) a b) s =
      .next (s.coreWrite k n ((r.fn ((s.core k).status.getLsbD 2) x y).signExtend 64) (srcWords [a, b]))) ∧
  (∀ (s : State) (k : Nat) (n : SReg) (a b e : Src), CoreRuns s k [a, b, e] (some n) →
    let ftz := (s.core k).status.getLsbD 2
    let v (x : Src) : Fp := fpVal ftz (((s.core k).src x).setWidth 32)
    exec (.fma (.s n) a b e rm) s = .next (s.coreWrite k n
      ((fpRes ftz rm (fpAdd (rm == .rdn) (fpMul (v a) (v b)) (v e))).signExtend 64) (srcWords [a, b, e]))) ∧
  (∀ r ∈ cvtRows rm, ∀ (s : State) (k : Nat) (n : SReg) (a : Src), CoreRuns s k [a] (some n) →
    exec (r.word (.s n) a) s = .next (s.coreWrite k n
      ((r.fn ((s.core k).status.getLsbD 2) (((s.core k).src a).setWidth 32)).signExtend 64) (srcWords [a])))

/-- R120 and R188: rounding is exact on what FP32 holds: an encoding that is no NaN, read and rounded in any mode, comes
back. R185: a NaN gives the canonical NaN. R186: under FTZ no result is subnormal. -/
def Obligations.FloatRounding : Prop :=
  (∀ (x : Word) (rm : RmC), (fp32.unpack x.toNat).isNan = false → fp32.result false rm (fp32.unpack x.toNat) = x.toNat) ∧
  (∀ (z : Bool) (rm : RmC), fp32.result z rm .nan = 0x7FC00000) ∧
  (∀ (rm : RmC) (v : Fp), let mag := fp32.result true rm v % 2 ^ 31; mag = 0 ∨ 2 ^ 23 ≤ mag)

/-! ## Branches and firings (07_tokens_control_system.md) -/

/-- R129: br, bz and bnz set the next word of a cell's firing, or the PC of a core, to the branch's address plus its
displacement, or go on after the branch; a queue operand is popped (R108). R129 and R130: `bk` pops a control token and branches
when it equals v; `bkind` reads a head without popping, branches when its KIND equals kind and LEVEL is 0 or equal, and of the
cell changes nothing but the firing, and no channel, other operator, core or byte of memory. -/
def Obligations.Branches : Prop :=
  ((∀ (s : State) (t o : Nat) (c : Cell) (f : Firing) (disp : Half), CellReads s t o c f [] [] →
     exec (.br disp) s = .next (s.branched t o f [] 1 true disp) ∧
     (s.branched t o f [] 1 true disp).pcOf t o = some (branchTo f.pc disp)) ∧
   (∀ (s : State) (t o : Nat) (c : Cell) (f : Firing) (a : Src) (x : Word) (disp : Half), CellReads s t o c f [a] [x] →
     let went (taken : Bool) : State := s.branched t o f (popsOf [a]) (srcWords [a]) taken disp
     exec (.bz a disp) s = .next (went (x == 0)) ∧ exec (.bnz a disp) s = .next (went (x != 0)) ∧
     (went true).pcOf t o = some (branchTo f.pc disp) ∧ (went false).pcOf t o = some (f.next (srcWords [a])).pc) ∧
   (∀ (s : State) (k : Nat) (a : Src) (disp : Half), CoreRuns s k [a] none →
     let c := s.core k
     let far := c.pc + 4 * disp.signExtend 64
     let near := c.pc + 4 * BitVec.ofNat 64 (srcWords [a])
     (∃ s', exec (.br disp) s = .next s' ∧ s'.core k = { c with pc := far }) ∧
     (∃ s', exec (.bz a disp) s = .next s' ∧ s'.core k = { c with pc := if c.src a = 0 then far else near }) ∧
     (∃ s', exec (.bnz a disp) s = .next s' ∧ s'.core k = { c with pc := if c.src a ≠ 0 then far else near }))) ∧
  ((∀ (s : State) (t o : Nat) (c : Cell) (f : Firing) (k : KIn) (v : Bool) (x : Word) (disp : Half),
     CellReads s t o c f [.k k] [x] →
     let r := s.branched t o f [6 + k.val] 1 ((x != 0) == v) disp
     exec (.bk k v disp) s = .next r ∧
       r.pcOf t o = some (if (x != 0) = v then branchTo f.pc disp else (f.next 1).pc)) ∧
   (∀ (s : State) (t o : Nat) (c : Cell) (f : Firing) (q : QIn) (tok : Token) (kind lvl : BitVec 3) (disp : Half),
     CellRuns s t o c f → s.headTok t o q.val = some tok →
     ∃ s' g, exec (.bkind q kind lvl disp) s = .next s' ∧ s'.headTok t o q.val = some tok ∧
       s'.cell t o = some { c with firing := some g } ∧
       g.pc = (if tok.kind = kind.toNat ∧ (lvl = 0 ∨ hdrLevel tok.hdr = lvl.toNat) then branchTo f.pc disp else (f.next 1).pc) ∧
       (∀ t', (s'.task t').map (·.chans) = (s.task t').map (·.chans)) ∧
       (∀ t' o', (t', o') ≠ (t, o) → s'.op t' o' = s.op t' o') ∧ s'.cores = s.cores ∧ s'.mem = s.mem))

/-- R131: `rep` runs the block of len words that follows x times, and goes on after it: at the end of the block the firing goes
back to its start while runs are left; with x = 0 the block is skipped. R127 and R132: `end`
closes a firing that has popped the token that chose its entry, and freezes the cell with MALFORMED when that token is still
at the head of its queue; the actor's next firing begins in the fc after at the earliest (R20). R265: the wrap-up entry
retires its actor. -/
def Obligations.RepeatAndEnd : Prop :=
  (∀ (s : State) (t o : Nat) (c : Cell) (f : Firing) (a : Src) (x : Word) (len : BitVec 5), CellReads s t o c f [a] [x] →
     let b := (f.next (srcWords [a])).pc
     ∃ s' g, exec (.rep a len) s = .next s' ∧ s'.firing t o = some g ∧
       (x = 0 → g.pc = b + len.toNat ∧ g.rep = (f.next (srcWords [a])).rep) ∧
       (x ≠ 0 → g.pc = b ∧ g.rep = some { start := b, len := len.toNat, left := x.toNat - 1 })) ∧
  ((∀ (s : State) (t o : Nat) (c : Cell) (f : Firing) (r : RepBlock) (words iv : Nat), s.cell t o = some c → c.firing = some f →
     f.rep = some r → f.pc + words = r.start + r.len →
     ∃ g, (s.cellAdvance t o words iv).firing t o = some g ∧
       (0 < r.left → g.pc = r.start ∧ g.rep = some { r with left := r.left - 1 }) ∧
       (r.left = 0 → g.pc = f.pc + words ∧ g.rep = none)) ∧
   (∀ (f : Firing) (b len x : Nat), 0 < len → 0 < x → f.pc = b →
     f.rep = some { start := b, len := len, left := x - 1 } →
     (∀ j, j < len * x → ((List.range j).foldl (fun g _ => g.next 1) f).pc = b + j % len) ∧
     let g := (List.range (len * x)).foldl (fun g _ => g.next 1) f
     g.pc = b + len ∧ g.rep = none)) ∧
  ((∀ (s : State) (t o : Nat) (c : Cell) (f : Firing), CellRuns s t o c f →
     f.chosenPopped = true ∨ f.wrap = true ∨ s.headTok t o f.guardPort = none →
     ∃ s' c', exec .endCell s = .next s' ∧ s'.cell t o = some c' ∧ c'.firing = none ∧ c'.idleFrom = s.after t o 1 ∧
       c'.retired = (c.retired || f.wrap) ∧ c'.regs = c.regs) ∧
   (∀ (s : State) (t o : Nat) (c : Cell) (f : Firing) (tok : Token), CellRuns s t o c f →
     f.chosenPopped = false → f.wrap = false → s.headTok t o f.guardPort = some tok → s.frozen t o = false →
     ∃ s', exec .endCell s = .next s' ∧
       (s'.op t o).map (·.fault) = some (some (Code.malformed, malformedDetail tok f.guardPort))))

/-- R133: send pushes a data token with the operand's value, its own TAG or the guard token's; sendstop and senddone push a
stop of the level and a done token, with TAG as written. R134 and R135: recv pops one token of any kind and pushes it, or
writes its payload; peek writes the head's payload without popping; drop discards. A poison that recv writes or drop
discards is received by a sink. R36: what recv pushes is unchanged but for the mark of a firing whose guard token is audit
data (log entry 80). -/
def Obligations.SendAndReceive : Prop :=
  ((∀ (s : State) (t o : Nat) (c : Cell) (f : Firing) (p : OPort) (a : Src) (x : Word) (tag : BitVec 10),
     CellReads s t o c f [a] [x] →
     let tok := if tag = 0 then resultTok f x else (resultTok f x).tagged tag.toNat
     PushOk s t o (4 + p.val) tok →
     exec (.send p a tag) s = .next (s.cellSent t o (4 + p.val) (popsOf [a]) (srcWords [a]) tok)) ∧
   (∀ (s : State) (t o : Nat) (c : Cell) (f : Firing) (p : OPort) (lvl : BitVec 3) (tag : BitVec 10),
     CellRuns s t o c f → PushOk s t o (4 + p.val) (stopTok lvl.toNat tag.toNat) →
     exec (.sendstop p lvl tag) s = .next (s.cellSent t o (4 + p.val) [] 1 (stopTok lvl.toNat tag.toNat))) ∧
   (∀ (s : State) (t o : Nat) (c : Cell) (f : Firing) (p : OPort) (tag : BitVec 10),
     CellRuns s t o c f → PushOk s t o (4 + p.val) (doneTok tag.toNat) →
     exec (.senddone p tag) s = .next (s.cellSent t o (4 + p.val) [] 1 (doneTok tag.toNat)))) ∧
  (∀ (s : State) (t o : Nat) (c : Cell) (f : Firing) (q : QIn) (tok : Token),
     CellRuns s t o c f → s.headTok t o q.val = some tok →
     let seen (s : State) : State := if tok.isPoison then s.sinkPoison t o tok.word else s
     (PopsOk s t o [q.val] → ∀ (p : OPort), PushOk s t o (4 + p.val) (f.marked tok) →
       exec (.recv (.o p) q) s = .next (s.cellSent t o (4 + p.val) [q.val] 1 (f.marked tok))) ∧
     (PopsOk s t o [q.val] → ∀ (n : SReg), exec (.recv (.s n) q) s =
       .next ((seen ((s.cellPop t o q.val).modCell t o fun c => c.setReg n tok.word)).cellAdvance t o 1 1)) ∧
     (PopsOk s t o [q.val] → exec (.drop q) s = .next ((seen (s.cellPop t o q.val)).cellAdvance t o 1 1)) ∧
     (∀ (n : SReg), ∃ s' g, exec (.peek n q) s = .next s' ∧ s'.headTok t o q.val = some tok ∧
       s'.cell t o = some { c.setReg n tok.word with firing := some g } ∧ g.lastHdr = tok.hdr))

/-- R137: a data or poison token is steered to o0 or o1 by the control operand, which also goes out on kc; a stop or done
token goes to both ports and reads no control operand. R136, R138, R139: merge takes the arm that its control bit names, and
pops that bit; amerge takes the head that arrived first. Each pushes the token unchanged, but for the mark of R36 (log entry
80); the header that `tok` then reads is the arm's (log entry 112). -/
def Obligations.SteerAndMerge : Prop :=
  (∀ (s : State) (t o : Nat) (c : Cell) (f : Firing) (q : QIn) (a : Src) (tok : Token),
     CellRuns s t o c f → s.headTok t o q.val = some tok →
     (tok.isClose = false → ∀ (v : Word), s.readCtrl t o c tok.hdr [q.val] a = .value v →
       let p := if v = 0 then 4 else 5
       let bit := ctrlTok (v != 0)
       PopsOk s t o (q.val :: popsOf [a]) → PushOk s t o p (f.marked tok) → PushOk s t o kcPort bit →
       exec (.steer q a) s = .next ((((s.cellPops t o (q.val :: popsOf [a])).pushTok t o p (f.marked tok)).pushTok t o kcPort
         bit).cellAdvance t o (srcWords [a]) 1)) ∧
     (tok.isClose = true → PopsOk s t o [q.val] → s.canPushAll t o cellOuts = true →
       exec (.steer q a) s =
         .next ((((s.cellPop t o q.val).pushTok t o 4 tok).pushTok t o 5 tok).cellAdvance t o (srcWords [a]) 1))) ∧
  ((∀ (s : State) (t o : Nat) (c : Cell) (f : Firing) (p : OPort) (a : Src) (v : Word) (x : Token),
     CellRuns s t o c f → s.readCtrl t o c f.lastHdr [] a = .value v →
     let b := if v = 0 then 0 else 1
     s.headTok t o b = some x → x.isClose = false →
     PopsOk s t o (b :: popsOf [a]) → PushOk s t o (4 + p.val) (f.marked x) →
     exec (.merge p a) s = .next ((((popsOf [a]).foldl (fun s q => s.popTok t o q) (s.popArms t o [b] x)).pushTok t o (4 + p.val)
       (f.marked x)).cellAdvance t o (srcWords [a]) 1)) ∧
   (∀ (s : State) (t o : Nat) (c : Cell) (f : Firing) (p : OPort) (b : Nat) (x : Token),
     CellRuns s t o c f → s.earliest t o (s.arms t o .amerge) = some b → s.headTok t o b = some x → x.isClose = false →
     PopsOk s t o [b] → PushOk s t o (4 + p.val) (f.marked x) →
     exec (.amerge p) s = .next (((s.popArms t o [b] x).pushTok t o (4 + p.val) (f.marked x)).cellAdvance t o 1 1)))

/-- R141: tagseq pushes a data, audit data or poison token with TAG TSEQ and advances TSEQ from 1 to 1,023 and round; a stop
or done token goes out with TAG 0 and leaves TSEQ as it was. R142: collect holds a token that is not the next one and is
less than 64 ahead, pushes the next one and then each held token that follows it, one in an issue, freezes with TAG_WINDOW on tag 0,
on one 64 or more ahead and on one held already, and pushes a stop or done token when its window is empty. Each token that passes
on has the mark of R36: a firing whose guard token is audit data sends data tokens as audit data (DEDUCED, log entry 80). -/
def Obligations.TagSequenceAndCollect : Prop :=
  (∀ (s : State) (t o : Nat) (c : Cell) (f : Firing) (p : OPort) (q : QIn) (tok : Token),
     CellRuns s t o c f → s.headTok t o q.val = some tok → PopsOk s t o [q.val] →
     (tok.isClose = false → PushOk s t o (4 + p.val) (f.marked (tok.tagged c.tseq)) →
       exec (.tagseq p q) s = .next ((s.cellSent t o (4 + p.val) [q.val] 1 (f.marked (tok.tagged c.tseq))).modCell t o fun c =>
         { c with tseq := c.tseq % 1023 + 1 })) ∧
     (tok.isClose = true → PushOk s t o (4 + p.val) (tok.tagged 0) →
       exec (.tagseq p q) s = .next (s.cellSent t o (4 + p.val) [q.val] 1 (tok.tagged 0)))) ∧
  (∀ (s : State) (t o : Nat) (c : Cell) (f : Firing) (p : OPort) (q : QIn) (tok : Token),
     CellRuns s t o c f → f.releasing = false → s.headTok t o q.val = some tok → PopsOk s t o [q.val] →
     let g := hdrTag tok.hdr
     let δ := (g + 1023 - c.next) % 1023
     (tok.isClose = false → g ≠ 0 → δ ≠ 0 → δ < 64 → aget g c.window = none →
       exec (.collect p q) s =
         .next (((s.cellPop t o q.val).modCell t o fun c => { c with window := aset g tok c.window }).cellAdvance t o 1 1)) ∧
     (tok.isClose = false → g ≠ 0 → δ = 0 → aget g c.window = none → PushOk s t o (4 + p.val) (f.marked tok) →
       let r := (((s.cellPop t o q.val).pushTok t o (4 + p.val) (f.marked tok)).collected t o c g)
       exec (.collect p q) s = .next r ∧ ∃ c', r.cell t o = some c' ∧ c'.next = c.next % 1023 + 1) ∧
     (tok.isClose = false → g = 0 ∨ 64 ≤ δ ∨ aget g c.window ≠ none →
       exec (.collect p q) s = .next (s.freeze t o Code.tagWindow (BitVec.ofNat 32 (g + 2 ^ 10 * c.next)))) ∧
     (tok.isClose = true → c.window = [] → PushOk s t o (4 + p.val) tok →
       exec (.collect p q) s = .next (s.cellSent t o (4 + p.val) [q.val] 1 tok))) ∧
  (∀ (s : State) (t o : Nat) (c : Cell) (f : Firing) (p : OPort) (q : QIn) (k : Token),
     CellRuns s t o c f → f.releasing = true → aget c.next c.window = some k → hdrTag k.hdr = c.next →
     PushOk s t o (4 + p.val) (f.marked k) →
     exec (.collect p q) s = .next ((s.pushTok t o (4 + p.val) (f.marked k)).collected t o c c.next))

/-- R143 and R144: repl sends a wide token of 32 equal words, with the TAG of the token it pops or else that of R109; a
poison, stop or done token that it pops goes on as a narrow one. kout sends the bit a ≠ 0 on kc, and kwait pops one control
token. What a firing with an audit-data guard token pushes is marked (R36, log entry 80). -/
def Obligations.ReplAndControlBits : Prop :=
  (∀ (s : State) (t o : Nat) (c : Cell) (f : Firing) (q : QIn) (tok : Token), CellRuns s t o c f →
    s.nthTok t o q.val 0 = some tok → PopsOk s t o [q.val] →
    let out := if tok.isPoison then narrowTok tok.hdr tok.word else if tok.isClose then narrowTok tok.hdr 0
      else f.marked (wideTok tok.hdr tok.word)
    PushOk s t o 4 out → exec (.repl (.q q)) s = .next (s.cellSent t o 4 [q.val] 1 out)) ∧
  (∀ (s : State) (t o : Nat) (c : Cell) (f : Firing) (q : QIn) (tok : Token), CellRuns s t o c f →
    s.headTok t o q.val = some tok → tok.isPoison = false → tok.isClose = false →
    let out := f.marked (wideTok (hdrWithTag tok.hdr (hdrTag f.guardHdr)) tok.word)
    PushOk s t o 4 out → exec (.repl (.pk q)) s = .next (s.cellSent t o 4 [] 1 out)) ∧
  (∀ (s : State) (t o : Nat) (c : Cell) (f : Firing) (a : Src) (v : Opnd), CellRuns s t o c f →
    s.readSrc t o c f.lastHdr [] a = some v → v.tok = none → PopsOk s t o (popsOf [a]) →
    PushOk s t o 4 (wideTok (resultTok f 0).hdr v.val) →
    exec (.repl a) s = .next (s.cellSent t o 4 (popsOf [a]) (srcWords [a]) (wideTok (resultTok f 0).hdr v.val))) ∧
  (∀ (s : State) (t o : Nat) (c : Cell) (f : Firing) (a : Src) (v : Word), CellRuns s t o c f →
    PopsOk s t o (popsOf [a]) → s.readCtrl t o c f.lastHdr [] a = .value v → PushOk s t o kcPort (ctrlTok (v != 0)) →
    exec (.kout a) s = .next (s.cellSent t o kcPort (popsOf [a]) (srcWords [a]) (ctrlTok (v != 0)))) ∧
  (∀ (s : State) (t o : Nat) (c : Cell) (f : Firing) (k : KIn) (x : Word), CellReads s t o c f [.k k] [x] →
    exec (.kwait k) s = .next ((s.cellPop t o (6 + k.val)).cellAdvance t o 1 1))

/-! ## System words of cells (07_tokens_control_system.md) -/

/-- R147, R148, R149, R269: a cell's qpop writes the record it takes, spawn asks the Joiner, tlwait ends once the counter
has reached its operand, and wrap.commit ends once no store of the task is out. R147: a blocking or failing qpop takes the
record at HEAD and stores HEAD + 1; with no record left it gives all ones after TERM, and in the failing mode 0x8000_0000. It
reads what is performed at SYS (R353). R269: an actor's second wrap.commit in an entry does nothing more. SIZE is used as it
stands whatever it is (log entry 106). -/
def Obligations.CellSystemWords : Prop :=
  ((∀ (s s₁ : State) (t o : Nat) (c : Cell) (f : Firing) (d : Dst) (nb : Bool) (n : BitVec 4) (v : Word),
     s.popQueue (s.lctxOf t) n.toNat nb = (.value v, s₁) → CellReads s₁ t o c f [] [] → CellTakes s₁ t o f d →
     s₁.frozen t o = false → exec (.qpop d nb n) s = .next (s₁.cellDone t o f d [] v 1)) ∧
   (∀ (s : State) (t o : Nat) (c : Cell) (f : Firing) (n : BitVec 12), CellRuns s t o c f →
     exec (.spawn n) s = .next (({ s with requests := s.requests ++ [.spawn t o n.toNat] } : State).cellAdvance t o 1 1)) ∧
   (∀ (s : State) (t o : Nat) (c : Cell) (f : Firing) (a : Src) (x : Word) (n : BitVec 12), CellReads s t o c f [a] [x] →
     s.hasCounter (s.lctxOf t) n.toNat = true → s.tlBad n.toNat = false →
     ((s.tl n.toNat).setWidth 32 - x).toNat < 2 ^ 31 →
     exec (.tlwait a n) s = .next ((s.cellPops t o (popsOf [a])).cellAdvance t o (srcWords [a]) 1)) ∧
   (∀ (s : State) (t o : Nat) (c : Cell) (f : Firing) (k : Task), CellRuns s t o c f → s.task t = some k →
     k.storesOut = false →
     ∃ s' c', exec .wrapCommit s = .next s' ∧ s'.cell t o = some c' ∧ c'.committed = true ∧ c'.regs = c.regs) ∧
   (∀ (s : State) (t o : Nat) (c : Cell) (f : Firing), CellRuns s t o c f → c.committed = true →
     exec .wrapCommit s = .next (s.cellAdvance t o 1 1))) ∧
  (∀ (s : State) (l n : Nat) (c : Ctx) (nb : Bool) (head tail term size base : Nat), s.ctx l = some c →
     let q := c.wqt + 32 * n
     s.readVa l q 8 = some base → s.readVa l (q + 0x08) 4 = some size → s.readVa l (q + 0x10) 4 = some head →
     s.readVa l (q + 0x14) 4 = some tail → s.readVa l (q + 0x18) 8 = some term → s.vaPending l q 32 = false →
     let rec_ := base % 2 ^ 57 + 4 * (head % size)
     (head ≠ tail → s.vaPending l rec_ 4 = false) →
     (head ≠ tail → ∀ r, s.readVa l rec_ 4 = some r →
       s.popQueue l n nb = (if r / 2 ^ 31 % 2 = 1 then .bad (w32 r) else .value (w32 r),
         (s.touchVa l rec_ 4).writeVa l (q + 0x10) 4 ((head + 1) % 2 ^ 32))) ∧
     (head = tail → s.popQueue l n nb =
       (if term % 2 = 1 then .value 0xFFFFFFFF else if nb then .value 0x80000000 else .wait, s)))

/-- R146: amsg sends its template's image, patched with its operands and numbered NSEQ, to the engine that the template
names, and the template's NSEQ goes on; from a cell when the tile's message port serves it, and from a core. -/
def Obligations.Messages : Prop :=
  (∀ (s : State) (t o : Nat) (c : Cell) (f : Firing) (a d : Src) (x y : Word) (n : BitVec 4) (k : Task) (p : Op),
    CellReads s t o c f [a, d] [x, y] → s.task t = some k → s.op t o = some p →
    let tile := tileKey p.place.x p.place.y
    let m := k.tmpl tile n.toNat
    Packet.ctx m.image = k.lctx → m.invalid = false → (s.amsgTurn tile).map (fun z => (z.1, z.2.1)) = some (t, o) →
    ∃ s' msg, exec (.amsg a d n) s = .next s' ∧ s'.msgs = s.msgs ++ [msg] ∧ msg.packet = m.message x y ∧ msg.x = m.x ∧
      msg.y = m.y ∧ msg.from_ = tile ∧
      (s'.task t).map (fun k' => k'.tmpl tile n.toNat) = some m.sent ∧
      (∀ tile' n', (tile', n') ≠ (tile, n.toNat) → (s'.task t).map (fun k' => k'.tmpl tile' n') = some (k.tmpl tile' n'))) ∧
  (∀ (s : State) (k : Nat) (a d : Src) (n : BitVec 4) (m : Tmpl), CoreRuns s k [a, d] none →
    (s.core k).tmpls[n.toNat]? = some m → Packet.ctx m.image = (s.core k).lctx → m.invalid = false →
    s.laneWaits (coreFrom k) 0 = false →
    ∃ s' msg, exec (.amsg a d n) s = .next s' ∧ s'.msgs = s.msgs ++ [msg] ∧
      msg.packet = m.message (((s.core k).src a).setWidth 32) (((s.core k).src d).setWidth 32) ∧
      (s'.core k).tmpls[n.toNat]? = some m.sent ∧ (s'.core k).pc = (s.core k).after (srcWords [a, d]))

/-- R267 and R268: vf.set issues a store to the double of the map that holds its tile, and goes on; when that store
completes, the flag of the one tile is written and the rest of the double stays, and a tile flagged failed stays failed. -/
def Obligations.ValidityFlags : Prop :=
  (∀ (s : State) (t o q : Nat) (c : Cell) (f : Firing) (a d : Src) (x y : Word) (k : Task) (z : Spline) (l : Loc)
      (tail : Option (Nat × Loc)),
    CellReads s t o c f [a, d] [x, y] → s.task t = some k → k.splineAt (x.extractLsb' 24 8).toNat = some q →
    s.spline t q = some z → z.mapStored = true → y.toNat < 4 →
    let n := (x.extractLsb' 0 24).toNat
    n < z.count →
    let va := z.mapVa + 8 * (n / 32)
    (∃ l' tail', s.unitAt t q va 8 0 = .at_ l' tail') → s.unitAt t q va 8 1 = .at_ l tail →
    ∃ acc : Acc, acc.k = flagK ∧ acc.loc = l ∧ acc.tail = tail ∧ acc.bytes = 8 ∧ acc.write = true ∧
      acc.val.toNat = 4 * (n % 32) + y.toNat ∧ acc.due = s.after t q 1 ∧
      exec (.vfSet a d) s = .next ((((s.modSpline t q fun z => { z with accs := z.accs ++ [acc] }).busy (s.lctxOf t)).cellPops t o
        (popsOf [a, d])).cellAdvance t o (srcWords [a, d]) 1)) ∧
  (∀ (s : State) (t q : Nat) (p : Op) (z : Spline) (acc : Acc) (rest : List Acc) (n v : Nat), s.op t q = some p →
    p.kind = .spline z → s.dev.halt = false → z.accs = acc :: rest → acc.k = flagK → acc.due ≤ s.fc →
    acc.val.toNat = 4 * n + v → v < 4 → s.bankHolds acc.keys = false →
    let m := s.readKeys acc.keys
    Gives (.storeAck t q) s fun s' =>
      s'.mem = writeKeys s.mem acc.keys
        (if m / 2 ^ (2 * n) % 4 = 3 then m else m - m / 2 ^ (2 * n) % 4 * 2 ^ (2 * n) + v * 2 ^ (2 * n)) ∧
      ∃ z', s'.spline t q = some z' ∧ z'.accs = rest)

/-- R167 and R168: mov, neg and clip8 write their values, and the MICROCODED ones count in LEGACY_USE; fdiv and bswap send
their operands and wait, and the result that arrives is written to d. -/
def Obligations.RetiredWords : Prop :=
  (∀ (s : State) (t o : Nat) (c : Cell) (f : Firing) (d : Dst) (a : Src) (x : Word), CellReads s t o c f [a] [x] →
    CellTakes s t o f d →
    let count (s' : State) : State := s'.modCtx (s.lctxOf t) fun z => { z with legacyMicro := satInc z.legacyMicro }
    exec (.mov d a) s = .next (s.cellDone t o f d [a] x 1) ∧
    (∃ s', exec (.neg d a) s = .next s' ∧ s' = count (s.cellDone t o f d [a] (-x) 1)) ∧
    (∀ n, d = .s n → ∃ s', exec (.clip8 n a) s = .next s' ∧
      s' = count (s.cellDone t o f d [a] (BitVec.ofInt 32 (max (-128) (min 127 x.toInt))) 1))) ∧
  (∀ (s : State) (t o : Nat) (c : Cell) (f : Firing) (d : Dst) (a b : Src) (rm : Rm) (x y : Word),
    CellReads s t o c f [a, b] [x, y] → c.trapped = none →
    let v := fpVal (s.ftz (s.lctxOf t))
    ∃ s' c', exec (.fdiv d a b rm) s = .next s' ∧ s'.cell t o = some c' ∧
      c'.trapped = some (fpRes (s.ftz (s.lctxOf t)) rm (fpDiv (v x) (v y)), d)) ∧
  (∀ (s : State) (t o : Nat) (c : Cell) (f : Firing) (d : Dst) (a : Src) (x : Word),
    CellReads s t o c f [a] [x] → c.trapped = none →
    ∃ s' c', exec (.bswap d a) s = .next s' ∧ s'.cell t o = some c' ∧
      c'.trapped = some (x.extractLsb' 0 8 ++ (x.extractLsb' 8 8 ++ (x.extractLsb' 16 8 ++ x.extractLsb' 24 8)), d)) ∧
  (∀ (s : State) (t o : Nat) (c : Cell) (f : Firing) (d : Dst) (v : Word), s.cell t o = some c → c.firing = some f →
    c.trapped = some (v, d) → s.goesOn t = true → f.saved = false → s.frozen t o = false → CellTakes s t o f d →
    ∃ s' c', exec (.trappedResultArrive t o) s = .next s' ∧ s'.cell t o = some c' ∧ c'.trapped = none ∧
      (∀ n, d = .s n → c'.regs = (c.setReg n v).regs))

/-! ## Control cores (07_tokens_control_system.md) -/

/-- R153: `trap n` saves the address of the next word in EPC, sets SW and CODE n in CAUSE and EVAL to 0, moves MODE to
PMODE, sets MODE, and fetches from TVEC; no other register, and no byte of memory, changes. -/
def Obligations.SoftwareTrap : Prop :=
  ∀ (s : State) (k : Nat) (n : BitVec 12), CoreRuns s k [] none →
    ∃ s', exec (.trap n) s = .next s' ∧ s'.mem = s.mem ∧
      let c := s.core k
      let c' := s'.core k
      c'.epc = c.pc + 4 ∧ c'.cause = 0x80000000 ||| n.zeroExtend 64 ∧ c'.eval = 0 ∧
      c'.status.getLsbD 0 = true ∧ c'.status.getLsbD 1 = c.status.getLsbD 0 ∧
      (∀ i, 2 ≤ i → c'.status.getLsbD i = c.status.getLsbD i) ∧
      c'.pc = 0x8000000000000000 ||| (c.tvec &&& 0x3FFFC) ∧
      c'.regs = c.regs ∧ c'.tvec = c.tvec ∧ c'.ctxk = c.ctxk ∧ c'.scratch = c.scratch

/-- R151 and R153: eret in supervisor mode sets PC to EPC and MODE to PMODE and changes nothing else of the core; halt stops
it. R151: in user mode cfgw, eret and halt, csrw of any register but SCRATCH, and dispatch of a request of another context,
raise PRIV: EPC is the word's own address, CAUSE is PRIV, and MODE is set. -/
def Obligations.ReturnHaltAndPrivilege : Prop :=
  ((∀ (s : State) (k : Nat), CoreSuper s k [] none →
     ∃ s', exec .eret s = .next s' ∧ s'.mem = s.mem ∧
       (s'.core k).pc = (s.core k).epc ∧ (s'.core k).status.getLsbD 0 = (s.core k).status.getLsbD 1 ∧
       (∀ i, 1 ≤ i → (s'.core k).status.getLsbD i = (s.core k).status.getLsbD i) ∧
       s'.core k = { s.core k with pc := (s'.core k).pc, status := (s'.core k).status }) ∧
   (∀ (s : State) (k : Nat), CoreSuper s k [] none →
     ∃ s', exec .halt s = .next s' ∧ s'.core k = { s.core k with halted := true, pc := (s.core k).pc + 4 }) ∧
   (∀ (s : State) (k : Nat) (v : Dbl), k < 16 → k < s.cores.length → v.getLsbD 0 = true →
     ∃ s', exec (.coreWake k v) s = .next s' ∧ s'.core k = { s.core k with halted := false })) ∧
  (∀ (s : State) (k : Nat) (a b : Src) (r : BitVec 12), CoreRuns s k [a, b] none → (s.core k).super = false →
     let priv (i : Instr) : Prop := ∃ s', exec i s = .next s' ∧ (s'.core k).epc = (s.core k).pc ∧
       (s'.core k).cause = 0x45 ∧ (s'.core k).super = true ∧ (s'.core k).regs = (s.core k).regs
     priv (.cfgw a b) ∧ priv .eret ∧ priv .halt ∧ (r ≠ 0x006 → priv (.csrw a r)) ∧
     (let e := (s.core k).src a
      e.extractLsb' 62 2 = 2 → e.extractLsb' 18 44 = 0 → e.toNat % 64 = 0 →
      (Packet.byte (BitVec.ofNat 512 (s.readLoc (.core k (e.extractLsb' 0 18).toNat) 64)) 2).toNat ≠ (s.core k).lctx →
      priv (.dispatch a)))

/-- R152: csrw writes each register as its Access column says, and csrr writes a register's value to d. -/
def Obligations.ControlRegisters : Prop :=
  (∀ (s : State) (k : Nat) (d : SReg) (r : BitVec 12), CoreRuns s k [] (some d) →
    exec (.csrr d r) s = .next (s.coreWrite k d (s.csr k r) 1)) ∧
  (∀ (s : State) (k : Nat) (a : Src) (r : BitVec 12), CoreRuns s k [a] none → (s.core k).super = true ∨ r = 0x006 →
    ∃ s', exec (.csrw a r) s = .next s' ∧ s'.mem = s.mem ∧
      let v := (s.core k).src a
      let st := (s.core k).status
      (r = 0x000 → s'.csr k 0x000 = (st &&& 1) ||| (v &&& 6)) ∧ (r = 0x001 → s'.csr k 0x001 = v) ∧
      (r = 0x004 → s'.csr k 0x004 = v &&& 0x3FFFC) ∧ (r = 0x005 → s'.csr k 0x005 = v &&& 0xFFF80000) ∧
      (r = 0x006 → s'.csr k 0x006 = v) ∧
      (∀ q : BitVec 12, q ≠ r → s'.csr k q = s.csr k q) ∧ (s'.core k).regs = (s.core k).regs)

/-- R154: a load from local memory writes the sign-extended value, and a store to it writes the low bytes of its value at
the effective address and no other byte. R154: where an effective address goes: local memory for 0b10, the management space
for 0b11, else a virtual address; and the traps XLATE for a form that is none of these, PRIV for the management space in
user mode, and RANGE for one that is not aligned, and in the management space for one that is not 8 bytes (R408). Where several of
them hold, the form comes first, then the privilege, then size and alignment (DEDUCED, log entry 11). -/
def Obligations.LocalMemoryAndAddresses : Prop :=
  ((∀ w ∈ loadWords, ∀ (s : State) (k : Nat) (d : SReg) (a : Src) (off : Half) (l : Nat), CoreRuns s k [a] (some d) →
     s.coreAt k ((s.core k).addr a off) w.2 0 = .loc l →
     exec (w.1 d a off) s = .next (s.coreWrite k d (extend w.2 (s.readLoc (.core k l) w.2)) (srcWords [a]))) ∧
   (∀ w ∈ storeWords, ∀ (s : State) (k : Nat) (v a : Src) (off : Half) (l : Nat), CoreRuns s k [a, v] none → s.memOk →
     s.coreAt k ((s.core k).addr a off) w.2 1 = .loc l →
     ∃ s', exec (w.1 v a off) s = .next s' ∧ s'.memOk ∧
       s'.readLoc (.core k l) w.2 = ((s.core k).src v).toNat % 2 ^ (8 * w.2) ∧
       sameBut s.mem s'.mem (Loc.core k l).key w.2 ∧
       s'.core k = { s.core k with pc := (s.core k).after (srcWords [v, a]) })) ∧
  (∀ (s : State) (k n kind : Nat) (e : Dbl), n ∈ [1, 2, 4, 8] →
     (e.extractLsb' 62 2 = 2 → s.coreAt k e n kind =
       if e.extractLsb' 18 44 ≠ 0 then .trap Code.xlate else if e.toNat % n ≠ 0 then .trap Code.range
       else .loc (e.toNat % 2 ^ 18)) ∧
     (e.extractLsb' 62 2 = 3 → s.coreAt k e n kind =
       if e.extractLsb' 32 30 ≠ 0 then .trap Code.xlate else if (s.core k).super = false then .trap Code.priv
       else if n ≠ 8 ∨ e.toNat % 8 ≠ 0 then .trap Code.range else .mgmt (e.toNat % 2 ^ 32)) ∧
     (e.extractLsb' 63 1 = 0 → e.extractLsb' 57 6 ≠ 0 → s.coreAt k e n kind = .trap Code.xlate) ∧
     (e.extractLsb' 57 7 = 0 → e.toNat % n ≠ 0 → s.coreAt k e n kind = .trap Code.range))

/-- R154 and R156: a device load or store leaves the core and goes on; the load writes d when it returns, the store reaches
memory when it is performed, and owait ends once the counts are within its limits. R358: with a store limit of 0 it makes
the stores after it wait for the loads before it: such a store is not performed while such a load is out. That a load which an
earlier store of its core overlaps has that store's bytes is log entry 19. -/
def Obligations.DeviceAccesses : Prop :=
  (∀ w ∈ loadWords, ∀ (s : State) (k : Nat) (d : SReg) (a : Src) (off : Half) (l : Loc), CoreRuns s k [a] (some d) →
    s.coreAt k ((s.core k).addr a off) w.2 0 = .dev l →
    ∃ s' x, exec (w.1 d a off) s = .next s' ∧ (s'.core k).loads = (s.core k).loads ++ [x] ∧ x.d = d.val ∧ x.loc = l ∧
      x.bytes = w.2 ∧ x.pc = (s.core k).pc ∧ (s'.core k).pc = (s.core k).after (srcWords [a]) ∧
      (s'.core k).regs = (s.core k).regs ∧ s'.mem = s.mem) ∧
  (∀ w ∈ storeWords, ∀ (s : State) (k : Nat) (v a : Src) (off : Half) (l : Loc), CoreRuns s k [a, v] none →
    s.coreAt k ((s.core k).addr a off) w.2 1 = .dev l →
    ∃ s' x, exec (w.1 v a off) s = .next s' ∧ (s'.core k).stores = (s.core k).stores ++ [x] ∧ x.loc = l ∧ x.bytes = w.2 ∧
      x.val = (s.core k).src v ∧ s'.mem = s.mem) ∧
  (∀ (s : State) (k n : Nat) (x : CoreLoad), k < s.cores.length → (s.core k).loads[n]? = some x → x.amo = none →
    ((s.core k).loads.any fun y => decide (y.seq < x.seq) && overlaps y.loc y.bytes x.loc x.bytes) = false →
    s.sysPending x.loc x.bytes = false → s.coreAway k x.seq = false →
    ∃ s', exec (.coreLoadReturn k n false) s = .next s' ∧ s'.mem = s.mem ∧
      s'.core k = ({ s.core k with loads := (s.core k).loads.eraseIdx n } : Core).setReg (Fin.ofNat 16 x.d)
        (extend x.bytes (s.loadValue (s.core k) x))) ∧
  (∀ (s : State) (k n : Nat) (x : CoreStore), k < s.cores.length → (s.core k).stores[n]? = some x → s.memOk →
    s.storeMay (s.core k) x = true →
    ∃ s', exec (.coreStorePerformed k n) s = .next s' ∧ s'.readLoc x.loc x.bytes = x.val.toNat % 2 ^ (8 * x.bytes) ∧
      sameBut s.mem s'.mem x.loc.key x.bytes ∧ (s'.core k).stores = (s.core k).stores.eraseIdx n) ∧
  (∀ (s : State) (k : Nat) (ld st cp op : BitVec 4), CoreRuns s k [] none →
    (s.core k).loads.length ≤ ld.toNat → (s.core k).stores.length ≤ st.toNat → (s.core k).copies ≤ cp.toNat →
    (s.core k).cmds ≤ op.toNat →
    ∃ s', exec (.owait ld st cp op) s = .next s' ∧ s'.mem = s.mem ∧
      s'.core k = { s.core k with pc := (s.core k).pc + 4, relSeq := if st = 0 then s.nextId else (s.core k).relSeq } ∧
      (st = 0 → ∀ (u : State) (n : Nat) (x : CoreStore), ∀ y ∈ (s.core k).loads, y.seq < s.nextId →
        (u.core k).relSeq = (s'.core k).relSeq → y ∈ (u.core k).loads → (u.core k).stores[n]? = some x → y.seq < x.seq →
        exec (.coreStorePerformed k n) u = .next u))

/-- R155: an amo on a device address whose earlier accesses are performed writes the function's result to memory, and the
old value is on its way to d; under OVT an add or sub that overflows traps with IOVF and leaves memory as it was. -/
def Obligations.Atomics : Prop :=
  ∀ (s : State) (k : Nat) (fn : RmwFn) (d : SReg) (a b : Src) (w ovt : Bool) (l : Loc), CoreRuns s k [a, b] (some d) →
    let n := if w then 8 else 4
    let c := s.core k
    (c.src a).extractLsb' 57 7 = 0 → s.coreAt k (c.src a) n 2 = .dev l →
    (c.stores.any fun y => overlaps y.loc y.bytes l n) = false → (c.loads.any fun y => overlaps y.loc y.bytes l n) = false →
    s.bankHolds (keysFrom l n) = false →
    let old := s.readLoc l n
    let v := (c.src b).toNat % 2 ^ (8 * n)
    (ovt = true ∧ amoOverflow fn (8 * n) old v = true →
      exec (.amo fn d a b w ovt) s = .next (s.coreTrap k Code.iovf 0).issued) ∧
    (ovt = false ∨ amoOverflow fn (8 * n) old v = false →
      ∃ s' x, exec (.amo fn d a b w ovt) s = .next s' ∧
        s'.mem = memWrite s.mem l.key n (rmwNew fn (8 * n) old v ((c.reg d).toNat % 2 ^ (8 * n))) ∧
        (s'.core k).loads = c.loads ++ [x] ∧ x.d = d.val ∧ x.amo = some (extend n old) ∧
        (s'.core k).pc = c.after (srcWords [a, b]))

/-- R157: rfetch copies the oldest fault record of the CTXK context to local memory and sets d to 1, or sets d to 0 when
none is queued. -/
def Obligations.FetchFaultRecord : Prop :=
  ∀ (s : State) (k : Nat) (d : SReg) (a : Src) (x : Ctx), CoreRuns s k [a] (some d) →
    let e := (s.core k).src a
    e.extractLsb' 62 2 = 2 → e.extractLsb' 18 44 = 0 → e.toNat % 32 = 0 → s.ctx (s.core k).lctx = some x →
    (x.faults = [] → exec (.rfetch d a) s = .next (s.coreWrite k d 0 (srcWords [a]))) ∧
    (∀ r rest, x.faults = r :: rest → s.memOk →
      ∃ s', exec (.rfetch d a) s = .next s' ∧ (s'.ctx (s.core k).lctx).map (·.faults) = some rest ∧
        s'.readLoc (.core k (e.extractLsb' 0 18).toNat) 32 = r.2.toNat ∧
        sameBut s.mem s'.mem (Loc.core k (e.extractLsb' 0 18).toNat).key 32 ∧
        s'.core k = { (s.core k).setReg d 1 with pc := (s.core k).after (srcWords [a]) })

/-- R157 and R158: swait ends once its local double is not zero; dispatch puts the request at a local address in the
sequencer's intake; cfgw writes a writable register of the management space; crc32c updates the CRC in d with 2^n bytes of
a. R147 and R149: qpop writes the record it takes, and tlwait ends once the counter has reached its operand. That the intake holds
one request of each core is log entry 12. -/
def Obligations.CoreServices : Prop :=
  (∀ (s : State) (k : Nat) (a : Src), CoreRuns s k [a] none →
    let e := (s.core k).src a
    e.extractLsb' 62 2 = 2 → e.extractLsb' 18 44 = 0 → e.toNat % 8 = 0 →
    s.readLoc (.core k (e.extractLsb' 0 18).toNat) 8 ≠ 0 →
    exec (.swait a) s = .next (s.coreNext k (srcWords [a]))) ∧
  (∀ (s : State) (k : Nat) (a : Src) (x : Ctx), CoreRuns s k [a] none →
    let e := (s.core k).src a
    let p : Packet := BitVec.ofNat 512 (s.readLoc (.core k (e.extractLsb' 0 18).toNat) 64)
    e.extractLsb' 62 2 = 2 → e.extractLsb' 18 44 = 0 → e.toNat % 64 = 0 →
    (s.core k).super = true ∨ (p.byte 2).toNat = (s.core k).lctx → (∀ z ∈ s.intake, z.1 ≠ k) →
    s.ctx (s.core k).lctx = some x →
    ∃ s', exec (.dispatch a) s = .next s' ∧ s'.intake = s.intake ++ [(k, x.aqi, p)] ∧ s'.mem = s.mem ∧
      s'.core k = { s.core k with pc := (s.core k).after (srcWords [a]) }) ∧
  (∀ (s : State) (k : Nat) (a d : Src), CoreSuper s k [a, d] none → mgmtWritable ((s.core k).src a).toNat = true →
    exec (.cfgw a d) s =
      .next ((s.mgmtWrite ((s.core k).src a).toNat ((s.core k).src d)).coreNext k (srcWords [a, d]))) ∧
  (∀ (s : State) (k : Nat) (d : SReg) (a : Src) (n : BitVec 2), CoreRuns s k [a] (some d) →
    exec (.crc32c d a n) s = .next (s.coreWrite k d
      ((crcBytes (2 ^ n.toNat) (((s.core k).reg d).setWidth 32) ((s.core k).src a).toNat).zeroExtend 64) (srcWords [a]))) ∧
  (∀ (s s₁ : State) (k : Nat) (d : SReg) (nb : Bool) (n : BitVec 4) (v : Word), CoreRuns s k [] (some d) →
    s.popQueue (s.core k).lctx n.toNat nb = (.value v, s₁) →
    exec (.qpop (.s d) nb n) s = .next (s₁.coreWrite k d (v.zeroExtend 64) 1)) ∧
  (∀ (s : State) (k : Nat) (a : Src) (n : BitVec 12), CoreRuns s k [a] none → s.hasCounter (s.core k).lctx n.toNat = true →
    s.tlBad n.toNat = false → ((s.core k).src a).toNat ≤ (s.tl n.toNat).toNat →
    exec (.tlwait a n) s = .next (s.coreNext k (srcWords [a])))

/-! ## Vector words (11_vector_instructions.md) -/

/-- R202, R203, R206, R207, R214: a lane-wise word on unmarked sources of one accepted tag with SCL clear writes, in the
lanes that PRED selects below the smallest VLEN, the value of its lanes, with the tag of VA; the other lanes of VD stay. A
bitwise word takes sources of any one tag byte but NONE and keeps the sidecar of a scaled source; a shift takes any two
integer formats, and shifts the lane of VA by the low bits of that of VB. VD keeps its own sidecar otherwise (log entry 26),
and the last bits of vexp2 and vlog2 are the model's (log entry 24). -/
def Obligations.VectorLanes : Prop :=
  (∀ w ∈ bitRows, ∀ (s : State) (t o : Nat) (c : Vec) (f : Firing) (d a b : VNum) (p : Pred),
    VecRuns s t o c f → d.val < c.vregs.length → c.markOf [a, b] p = none →
    let tag := (c.v a).tag
    (c.v b).tag = tag → tagFmt tag ≠ 0 → (p = none ∨ (c.v d).tag = tag) →
    ∃ s' c', exec (w.1 d a b p) s = .next s' ∧ s'.vec t o = some c' ∧ VecWrote c c' f d
      { lanes := blend c p d (min (c.v a).vlen (c.v b).vlen) fun i => w.2 ((c.v a).lane i) ((c.v b).lane i), tag := tag,
        side := if tagScl tag then (c.v a).side else (c.v d).side, mark := none }) ∧
  (∀ w ∈ shiftRows, ∀ (s : State) (t o : Nat) (c : Vec) (f : Firing) (d a b : VNum) (p : Pred),
    VecRuns s t o c f → d.val < c.vregs.length → c.markOf [a, b] p = none →
    let fmt := tagFmt (c.v a).tag
    w.2.1 fmt = true → isInt (tagFmt (c.v b).tag) = true → tagScl (c.v a).tag = false → tagScl (c.v b).tag = false →
    (p = none ∨ (c.v d).tag = (c.v a).tag) →
    ∃ s' c', exec (w.1 d a b p) s = .next s' ∧ s'.vec t o = some c' ∧ VecWrote c c' f d
      { lanes := blend c p d (min (c.v a).vlen (c.v b).vlen) fun i =>
          w.2.2 fmt ((c.v a).lane i) (((c.v b).lane i).toNat % fmtBits fmt),
        tag := (c.v a).tag, side := (c.v d).side, mark := none }) ∧
  ∀ rm, ∀ r ∈ laneRows rm, ∀ (s : State) (t o : Nat) (c : Vec) (f : Firing) (d a b e : VNum) (p : Pred),
    VecRuns s t o c f → d.val < c.vregs.length →
    let srcs := [a, b, e].take r.arity
    let tag := (c.v a).tag
    c.markOf srcs p = none → (∀ x ∈ srcs, (c.v x).tag = tag) → tagScl tag = false → r.accepts (tagFmt tag) = true →
    (p = none ∨ (c.v d).tag = tag) →
    let fn (i : Nat) : Word := r.fn (s.ftz (s.lctxOf t)) (tagFmt tag) (srcs.map fun x => (c.v x).lane i)
    ∃ s' c', exec (r.word d a b e p) s = .next s' ∧ s'.vec t o = some c' ∧
      VecWrote c c' f d { lanes := blend c p d (minLen (srcs.map c.v)) fn, tag := tag, side := (c.v d).side, mark := none }

/-- R202 and R204: a lane-wise word whose VA has the tag NONE marks VD with an origin of INVALID; one with a marked source
marks VD with the first mark in the order VA, VB, VC, PRED. Lanes, tags and the other registers stay. -/
def Obligations.VectorMarks : Prop :=
  ∀ rm, ∀ r ∈ laneRows rm, ∀ (s : State) (t o : Nat) (c : Vec) (f : Firing) (d a b e : VNum) (p : Pred),
    VecRuns s t o c f → d.val < c.vregs.length →
    let srcs := [a, b, e].take r.arity
    (∀ w, c.markOf srcs p = some w →
      ∃ s' c', exec (r.word d a b e p) s = .next s' ∧ s'.vec t o = some c' ∧ VecWrote c c' f d ((c.v d).marked w)) ∧
    (c.markOf srcs p = none → tagFmt (c.v a).tag = 0 →
      ∃ s' c', exec (r.word d a b e p) s = .next s' ∧ s'.vec t o = some c' ∧
        VecWrote c c' f d ((c.v d).marked (s.origin t o Code.invalid)))

/-- R208, R209, R215: vcmp writes the bits of a predicate, vsel chooses each lane by a predicate bit, and vimad multiplies
and adds integers into INT32 lanes; vimad leaves VD its sidecar (log entry 26). -/
def Obligations.VectorCompareSelectMultiply : Prop :=
  (∀ (s : State) (t o : Nat) (c : Vec) (f : Firing) (cc : Cond) (d : PNum) (a b : VNum) (p : Pred),
    VecRuns s t o c f → d.val < c.pregs.length → c.markOf [a, b] p = none → (c.v a).tag = (c.v b).tag →
    tagScl (c.v a).tag = false → isSeven (tagFmt (c.v a).tag) = true → ccOk (tagFmt (c.v a).tag) cc = true →
    ∃ s' c', exec (.vcmpCc cc d a b p) s = .next s' ∧ s'.vec t o = some c' ∧ c'.vregs = c.vregs ∧ (c'.p d).mark = none ∧
      ∀ i, i < 512 → (c'.p d).bits.getLsbD i =
        if c.sel p i then decide (i < (c.v a).vlen ∧ i < (c.v b).vlen) &&
          laneCond (tagFmt (c.v a).tag) (s.ftz (s.lctxOf t)) cc ((c.v a).lane i) ((c.v b).lane i)
        else (c.p d).bits.getLsbD i) ∧
  (∀ (s : State) (t o : Nat) (c : Vec) (f : Firing) (d a b : VNum) (p : PNum),
    VecRuns s t o c f → d.val < c.vregs.length → c.markOf [a, b] (some p) = none → (c.v a).tag = (c.v b).tag →
    tagFmt (c.v a).tag ≠ 0 → tagScl (c.v a).tag = false →
    ∃ s' c', exec (.vsel d a b p) s = .next s' ∧ s'.vec t o = some c' ∧ VecWrote c c' f d
      { lanes := (List.range (min (c.v a).vlen (c.v b).vlen)).map fun i =>
          if (c.p p).bits.getLsbD i then (c.v a).lane i else (c.v b).lane i,
        tag := (c.v a).tag, side := (c.v a).side, mark := none }) ∧
  (∀ (s : State) (t o : Nat) (c : Vec) (f : Firing) (d a b e : VNum) (p : Pred),
    VecRuns s t o c f → d.val < c.vregs.length → c.markOf [a, b, e] p = none →
    let fa := tagFmt (c.v a).tag
    let fb := tagFmt (c.v b).tag
    fa ∈ [0xA, 0xB, 0xC] → fb ∈ [0xA, 0xB, 0xC] → tagFmt (c.v e).tag = 0x9 →
    (∀ x ∈ [a, b, e], tagScl (c.v x).tag = false) → (p = none ∨ (c.v d).tag = 0x09) →
    ∃ s' c', exec (.vimad d a b e p) s = .next s' ∧ s'.vec t o = some c' ∧ VecWrote c c' f d
      { lanes := blend c p d (min (c.v a).vlen (min (c.v b).vlen (c.v e).vlen)) fun i =>
          BitVec.ofInt 32 (intElem fa ((c.v a).lane i) * intElem fb ((c.v b).lane i) + ((c.v e).lane i).toInt),
        tag := 0x09, side := (c.v d).side, mark := none })

/-- R202, R213: the movements copy lanes of any format but NONE with tag and sidecar, and of them vmov alone a scaled
register (log entry 82); vperm takes the lane that each index of VB names, and zero where it names none. -/
def Obligations.VectorMovement : Prop :=
  (∀ r ∈ moveRows, ∀ (s : State) (t o : Nat) (c : Vec) (f : Firing) (d a : VNum) (n : BitVec 9) (p : Pred),
    VecRuns s t o c f → d.val < c.vregs.length → c.markOf [a] p = none → tagFmt (c.v a).tag ≠ 0 → r.fits (c.v a) n →
    (p = none ∨ (c.v d).tag = (c.v a).tag) →
    ∃ s' c', exec (r.word d a n p) s = .next s' ∧ s'.vec t o = some c' ∧ VecWrote c c' f d
      { lanes := blend c p d (r.lanes (c.v a) n).length fun i => (r.lanes (c.v a) n).getD i 0,
        tag := (c.v a).tag, side := (c.v a).side, mark := none }) ∧
  (∀ (s : State) (t o : Nat) (c : Vec) (f : Firing) (d a b : VNum) (p : Pred),
    VecRuns s t o c f → d.val < c.vregs.length → c.markOf [a, b] p = none → tagFmt (c.v a).tag ≠ 0 →
    tagScl (c.v a).tag = false → tagFmt (c.v b).tag ∈ [0x9, 0xA] → tagScl (c.v b).tag = false →
    (p = none ∨ (c.v d).tag = (c.v a).tag) →
    ∃ s' c', exec (.vperm d a b p) s = .next s' ∧ s'.vec t o = some c' ∧ VecWrote c c' f d
      { lanes := blend c p d (c.v b).vlen fun i =>
          let j := intElem (tagFmt (c.v b).tag) ((c.v b).lane i)
          if 0 ≤ j ∧ j < (c.v a).vlen then (c.v a).lane j.toNat else 0,
        tag := (c.v a).tag, side := (c.v a).side, mark := none })

/-- R210 and R211: vcvt and vquant write the converted lanes that PRED selects with the tag of their destination format and
gather the sticky flags; a conversion that may not stand marks VD. R189: SR takes one draw for each lane it writes, and no
other rounding takes any. What vcvt leaves of the sidecar is log entry 26, and FTZ in vcvt is log entry 38. -/
def Obligations.VectorConversion : Prop :=
  (∀ (s : State) (t o : Nat) (c : Vec) (f : Firing) (d a : VNum) (fmt : BitVec 4) (rm : RmC) (sat nanp : Bool) (p : Pred),
    VecRuns s t o c f → d.val < c.vregs.length → c.markOf [a] p = none →
    let x := if rm = .sr then drawsX (c.writtenCount p (c.v a).vlen) c.x else c.x
    (∀ out, cvtOut (s.ftz (s.lctxOf t)) c a fmt.toNat rm sat nanp p = .ok out →
      (p = none ∨ (c.v d).tag = mkTag fmt.toNat false 0) →
      ∃ s' c', exec (.vcvt d a fmt rm sat nanp p) s = .next s' ∧ s'.vec t o = some c' ∧
        VecWrote c c' f d { lanes := blend c p d out.lanes.length fun i => out.lanes.getD i 0, tag := mkTag fmt.toNat false 0,
                            side := (c.v d).side, mark := none } ∧
        c'.flags = c.flags ||| out.flags ∧ c'.x = x) ∧
    (∀ code, cvtOut (s.ftz (s.lctxOf t)) c a fmt.toNat rm sat nanp p = .error code →
      ∃ s' c', exec (.vcvt d a fmt rm sat nanp p) s = .next s' ∧ s'.vec t o = some c' ∧
        VecWrote c c' f d ((c.v d).marked (s.origin t o code)) ∧ c'.flags = c.flags)) ∧
  (∀ (s : State) (t o : Nat) (c : Vec) (f : Firing) (d a : VNum) (fmt : BitVec 4) (rm : RmC) (bsz : BitVec 3) (p : Pred),
    VecRuns s t o c f → d.val < c.vregs.length → c.markOf [a] p = none →
    let x := if rm = .sr then drawsX (c.writtenCount p (c.v a).vlen) c.x else c.x
    (∀ out, quantOut (s.ftz (s.lctxOf t)) c a fmt.toNat rm bsz.toNat p = .ok out →
      (p = none ∨ (c.v d).tag = mkTag fmt.toNat true bsz.toNat) →
      ∃ s' c', exec (.vquant d a fmt rm bsz p) s = .next s' ∧ s'.vec t o = some c' ∧
        VecWrote c c' f d
          { lanes := blend c p d out.lanes.length fun i => out.lanes.getD i 0, tag := mkTag fmt.toNat true bsz.toNat,
            side := out.side.getD (c.v d).side, mark := none } ∧
        c'.flags = c.flags ||| out.flags ∧ c'.x = x) ∧
    (isFloat3 (tagFmt (c.v a).tag) = false ∨ tagScl (c.v a).tag = true →
      ∃ s' c', exec (.vquant d a fmt rm bsz p) s = .next s' ∧ s'.vec t o = some c' ∧
        VecWrote c c' f d ((c.v d).marked (s.origin t o Code.invalid)) ∧ c'.flags = c.flags))

/-- R212 and R220: vscale makes the lanes of an E8M0 register the block scales of VD, the other bytes zero; vtag.set gives
VD a format, keeping VLEN and MARK; vtag.get writes the tag, VLEN and the sticky flags of VA to three INT32 lanes, even from
a marked VA, and may clear the flags. That vscale keeps MARK, and the two vtag words the sidecar, is log entry 26. -/
def Obligations.VectorTags : Prop :=
  (∀ (s : State) (t o : Nat) (c : Vec) (f : Firing) (d a : VNum) (bsz : BitVec 3),
    VecRuns s t o c f → d.val < c.vregs.length → (c.v a).mark = none → tagFmt (c.v a).tag = 0xE →
    tagScl (c.v a).tag = false → tagFmt (c.v d).tag ≠ 0 →
    ∃ s' c' side, exec (.vscale d a bsz) s = .next s' ∧ s'.vec t o = some c' ∧ VecWrote c c' f d
      { c.v d with side := side, tag := mkTag (tagFmt (c.v d).tag) true bsz.toNat } ∧
      ∀ k, k < 64 → sideByte side k =
        if k < (if bsz = 1 then 32 else if bsz = 2 then 16 else 1) then ((c.v a).lane k).toNat % 256 else 0) ∧
  (∀ (s : State) (t o : Nat) (c : Vec) (f : Firing) (d : VNum) (fmt : BitVec 4) (scl : Bool) (bsz : BitVec 3),
    VecRuns s t o c f → d.val < c.vregs.length →
    ∃ s' c', exec (.vtagSet d fmt scl bsz) s = .next s' ∧ s'.vec t o = some c' ∧ VecWrote c c' f d
      { lanes := (c.v d).lanes.map fun x => BitVec.ofNat 32 (x.toNat % 2 ^ fmtBits fmt.toNat),
        tag := mkTag fmt.toNat scl bsz.toNat, side := if fmt = 0 then 0 else (c.v d).side, mark := (c.v d).mark }) ∧
  (∀ (s : State) (t o : Nat) (c : Vec) (f : Firing) (d a : VNum) (clr : Bool),
    VecRuns s t o c f → d.val < c.vregs.length →
    ∃ s' c', exec (.vtagGet d a clr) s = .next s' ∧ s'.vec t o = some c' ∧ VecWrote c c' f d
      { lanes := [(c.v a).tag.zeroExtend 32, BitVec.ofNat 32 (c.v a).vlen, c.flags.zeroExtend 32], tag := 0x09,
        side := (c.v d).side, mark := none } ∧
      c'.flags = (if clr then 0 else c.flags))

/-- R196 and R221: vred leaves one lane, and vscan as many as VA has, of the reduction over the selected lanes, in the tree
order of R196. R185, R186: lane 0 of a scan, which no step combines, is written as an operation writes its result. Addition
of integer lanes gives their sum. The adds round in the word's RND (log entry 38), and VD keeps its sidecar (log entry 26).
-/
def Obligations.VectorReductions : Prop :=
  (∀ (s : State) (t o : Nat) (c : Vec) (f : Firing) (fn : RedFn) (d a : VNum) (p : Pred) (rm : Rm),
    VecRuns s t o c f → d.val < c.vregs.length → c.markOf [a] p = none → redOk fn (c.v a) rm = true →
    let fmt := tagFmt (c.v a).tag
    let op := redOp fn fmt (s.ftz (s.lctxOf t)) rm
    let l := redLanes c (c.v a) p (redIdentity fn fmt)
    (∃ s' c', exec (.vred fn d a p rm) s = .next s' ∧ s'.vec t o = some c' ∧ VecWrote c c' f d
      { lanes := (redTree op 9 l).take 1, tag := (c.v a).tag, side := (c.v d).side, mark := none }) ∧
    (∃ s' c', exec (.vscan fn d a p rm) s = .next s' ∧ s'.vec t o = some c' ∧ VecWrote c c' f d
      { lanes := (lmod 0 (canonLane fmt (s.ftz (s.lctxOf t))) (scanTree op 9 0 l)).take (c.v a).vlen, tag := (c.v a).tag,
        side := (c.v d).side, mark := none })) ∧
  (∀ (l : List Word), l.length = 512 →
    (redTree (redOp .add 0x9 false .rne) 9 l).take 1 = [BitVec.ofInt 32 (l.map BitVec.toInt).sum])

/-- R217, R218, R219: vld takes its tokens from a wide port, one in each issue, and the last of them writes the register
(log entry 27), whose sidecar stays where no scale token led them (log entry 26); a leading scale token gives the scales.
vst sends the scale token of a scaled register and then its lanes, one token in each issue, and a poison token for a marked
register; vstop and vdone push a stop and a done token, and `end` closes a firing that has popped the token that chose it.
-/
def Obligations.VectorPorts : Prop :=
  (∀ (s : State) (t o : Nat) (c : Vec) (f : Firing) (v : VNum) (p : BitVec 2) (n : BitVec 4) (tok : Token),
    VecRuns s t o c f → v.val < c.vregs.length → s.headTok t o p.toNat = some tok → s.behindDone t o p.toNat = none →
    s.popRate t o p.toNat 1 = none →
    let r := c.v v
    let e := fmtElems (tagFmt r.tag)
    let x := c.xfer.getD newXfer
    let cnt := if tok.count.toNat = 0 then e else min tok.count.toNat e
    (tok.isData = true → tagFmt r.tag ≠ 0 → n.toNat < (512 + e - 1) / e → x.bad = none →
      (x.moved = n.toNat → ∃ s' c', exec (.vld v p n) s = .next s' ∧ s'.vec t o = some c' ∧ c'.xfer = none ∧
        VecWrote c c' f v
        { lanes := (x.lanes ++ unpackElems (tagFmt r.tag) tok.pay cnt).take 512,
          tag := mkTag (tagFmt r.tag) x.scale.isSome ((x.scale.map fun b => (b.extractLsb' 512 2).toNat).getD 0),
          side := (x.scale.map (·.extractLsb' 0 512)).getD r.side, mark := none }) ∧
      (x.moved < n.toNat → cnt = e → ∃ s' c', exec (.vld v p n) s = .next s' ∧ s'.vec t o = some c' ∧ c'.vregs = c.vregs ∧
        c'.xfer = some { x with moved := x.moved + 1, lanes := x.lanes ++ unpackElems (tagFmt r.tag) tok.pay cnt })) ∧
    (tok.isPoison = true → n = 0 → c.xfer = none → tagFmt r.tag ≠ 0 → e ≠ 0 → ∃ s' c', exec (.vld v p n) s = .next s' ∧
      s'.vec t o = some c' ∧ VecWrote c c' f v (r.marked tok.word)) ∧
    (tok.kind = Kind.scale → c.xfer = none →
      let b : BitVec 514 := tok.pay.extractLsb' 0 514
      exec (.vld v p n) s = .next ((s.vecPop t o p.toNat tok).xferStep t o
        { newXfer with scale := some b,
                       bad := if b.extractLsb' 512 2 = 3 then some (s.origin t o Code.invalid) else none })) ∧
    (tok.isClose = true → n = 0 → c.xfer = none → ∃ s' c', exec (.vld v p n) s = .next s' ∧ s'.vec t o = some c' ∧
      c'.vregs = c.vregs ∧ (c'.firing.map (·.pc)) = some (f.pc + 1))) ∧
  (∀ (s : State) (t o : Nat) (c : Vec) (f : Firing) (v : VNum) (p : BitVec 1) (n : BitVec 4), VecRuns s t o c f →
    let r := c.v v
    let x := c.xfer.getD newXfer
    let sent (tok : Token) : State := s.pushTok t o (4 + p.toNat) tok
    (r.mark = none → tagFmt r.tag ≠ 0 → n.toNat * fmtElems (tagFmt r.tag) < r.vlen →
      (tagScl r.tag = true → c.xfer = none → s.canPush t o (4 + p.toNat) 1 = true →
        exec (.vst v p n) s = .next ((sent (scaleToken f r)).xferStep t o newXfer)) ∧
      (tagScl r.tag = false ∨ c.xfer.isSome = true → PushOk s t o (4 + p.toNat) (vstToken f r x.moved) →
        (x.moved < n.toNat →
          exec (.vst v p n) s = .next ((sent (vstToken f r x.moved)).xferStep t o { x with moved := x.moved + 1 })) ∧
        (x.moved = n.toNat → exec (.vst v p n) s = .next ((sent (vstToken f r x.moved)).xferEnd t o)))) ∧
    (∀ w, r.mark = some w → x.moved = n.toNat → PushOk s t o (4 + p.toNat) (poisonTok 0 w) →
      exec (.vst v p n) s = .next ((sent (poisonTok 0 w)).xferEnd t o))) ∧
  (∀ (s : State) (t o : Nat) (c : Vec) (f : Firing) (p : BitVec 1) (lvl : BitVec 3),
    VecRuns s t o c f → s.canPush t o (4 + p.toNat) 1 = true →
    exec (.vstop p lvl) s = .next ((s.pushTok t o (4 + p.toNat) (stopTok lvl.toNat 0)).vecAdvance t o 1) ∧
    exec (.vdone p) s = .next ((s.pushTok t o (4 + p.toNat) (doneTok 0)).vecAdvance t o 1)) ∧
  (∀ (s : State) (t o : Nat) (c : Vec) (f : Firing), VecRuns s t o c f →
    f.chosenPopped = true ∨ s.headTok t o c.guard = none →
    ∃ s' c', exec .vend s = .next s' ∧ s'.vec t o = some c' ∧ c'.firing = none ∧ c'.vregs = c.vregs ∧ c'.pregs = c.pregs)

/-! ## Matrix tiles (12_matrix_instructions.md) -/

/-- R227 to R238: what each command of a matrix tile does once its inbox is open and the state it waits for has come; and
what the array does with an activation token, a row of output and a line of weights. -/
def Obligations.MatrixTiles : Prop :=
  (∀ (s : State) (t o : Nat) (p : Packet) (m : Matrix), s.matrix t o = some m → s.inboxOpen (.op t o) = true →
    let fld (lo n : Nat) : Nat := ((p.dbl 1).extractLsb' lo n).toNat
    let give (i : Instr) (P : Matrix → Prop) : Prop :=
      Gives i s fun s' => ∃ m', s'.matrix t o = some m' ∧ Started m.inbox m'.inbox ∧ P m'
    (m.opOpen = false → m.load = none → m.swapPending = none → give (.mxCfg t o p) fun m' =>
      m'.configured = true ∧ m'.afmt = fld 53 4 ∧ m'.wfmt = fld 50 3 ∧ m'.mx = (fld 49 1 == 1) ∧ m'.ncol = fld 42 7 + 1 ∧
        m'.rows = fld 34 8 + 1 ∧ m'.kpass = fld 30 4 + 1 ∧ m'.acc = [] ∧ m'.cs = [] ∧ m'.marks = [] ∧ m'.ea = [] ∧
        m'.active.w = [] ∧ m'.shadow.w = [] ∧ m'.pass = 0) ∧
    (m.load = none → m.swapPending = none → m.configured = true → give (.mxLoadw t o p) fun m' =>
      ∃ ld, m'.load = some ld ∧ ld.stream = (p.dbl 2).getLsbD 63 ∧ ld.va = p.dbl 2 ∧ ld.taken = 0 ∧ m'.active = m.active) ∧
    (m.swapPending = none → give (.mxSwap t o p) fun m' =>
      m'.swapPending = some m.inbox.started ∧ m'.swapAfter = m.opOpen) ∧
    (m.opOpen = false → m.configured = true → m.kpass ≤ 1 ∨ fld 0 32 = m.rows → give (.mxArm t o p) fun m' =>
      m'.armed = fld 0 32 ∧ m'.opOpen = true ∧ m'.idx = 0) ∧
    (m.opOpen = false → (p.dbl 1).getLsbD 56 = true → give (.mxScale t o p) fun m' =>
      ∀ c, c < 128 → aget c m'.cs = some ((p.dbl 1).extractLsb' 0 32)) ∧
    (∀ ks, m.opOpen = false → (p.dbl 1).getLsbD 56 = false → s.unitKeys t o (p.dbl 2).toNat 512 0 = .at_ ks →
      give (.mxScale t o p) fun m' => ∀ c, c < 128 →
        aget c m'.cs = some (BitVec.ofNat 32 (s.readKeys ks / 2 ^ (32 * c)))) ∧
    (m.opOpen = false → fld 49 8 + fld 41 8 + 1 ≤ m.rows → (p.dbl 1).getLsbD 40 = false → give (.mxDrain t o p) fun m' =>
      m'.out = m.out ++ ((List.range (fld 41 8 + 1)).map fun i => m.rowOut (fld 49 8 + i) Kind.data 0).flatten) ∧
    (∀ u, m.opOpen = false → fld 49 8 + fld 41 8 + 1 ≤ m.rows → (p.dbl 1).getLsbD 40 = true →
      (∀ z, s.unitKeys t o (p.dbl 2).toNat (512 * (fld 41 8 + 1)) 1 ≠ .wait z) →
      s.mxRows t o m (p.dbl 2).toNat (fld 49 8) (fld 41 8 + 1) = .ok u →
      Gives (.mxDrain t o p) s fun s' => s'.mem = u.mem) ∧
    (m.opOpen = false → give (.mxZero t o p) fun m' =>
      m'.acc = (if (p.dbl 1).getLsbD 56 then [] else m.acc) ∧ m'.marks = (if (p.dbl 1).getLsbD 56 then [] else m.marks) ∧
        m'.ea = (if (p.dbl 1).getLsbD 55 then [] else m.ea) ∧ m'.flags = (if (p.dbl 1).getLsbD 54 then 0 else m.flags) ∧
        m'.pass = (if (p.dbl 1).getLsbD 53 then 0 else m.pass)) ∧
    (∀ u, s.unitWrite t o (p.dbl 2).toNat 32 m.stat = .ok u →
      Gives (.mxStat t o p) s fun s' => s'.mem = u.mem ∧ ∃ m', s'.matrix t o = some m' ∧
        m'.flags = if (p.dbl 1).getLsbD 56 then 0 else m.flags)) ∧
  (∀ (s : State) (t o : Nat) (m : Matrix) (tok : Token), s.mxOpen t o = some m → s.behindDone t o mxIn = none →
    s.headTok t o mxIn = some tok → tok.isData = true → m.opOpen = true → 0 < m.armed → m.takeAt ≤ s.fc →
    m.swapPending = none → m.active.poison = none → m.csPoison = none →
    let row := m.idx % m.rows
    let z := m.compute tok row
    let takes (acc : List (Nat × Word)) (out : List Token) : Prop :=
      Gives (.matrixTokenTake t o) s fun s' => ∃ m', s'.matrix t o = some m' ∧ m'.acc = acc ∧ m'.out = out ∧
        m'.idx = m.idx + 1 ∧ m'.armed = m.armed - 1
    (m.pass + 1 ≠ m.kpass → takes z.acc m.out) ∧
    (m.pass + 1 = m.kpass → m.out = [] → takes (z.clearRow row).acc (z.rowOut row tok.kind (hdrTag tok.hdr)))) ∧
  (∀ (s : State) (t o : Nat) (m : Matrix) (tok : Token) (rest : List Token), s.matrix t o = some m → s.goesOn t = true →
    s.frozen t o = false → s.unitTicks t o = true → m.pushAt ≤ s.fc → m.out = tok :: rest → PushOk s t o mxOut tok →
    Gives (.matrixOutputPush t o) s fun s' => ∃ m', s'.matrix t o = some m' ∧ m'.out = rest ∧ m'.pushAt = s.after t o 1) ∧
  (∀ (s : State) (t o : Nat) (m : Matrix) (ld : Load), s.matrix t o = some m → s.goesOn t = true → s.frozen t o = false →
    s.unitTicks t o = true → m.load = some ld → ld.at_ ≤ s.fc →
    (ld.stream = false → (∀ i z, i ≤ imageLines m.wfmt → s.unitKeys t o (ld.lineVa i) 64 0 ≠ .wait z) →
      Gives (.mxLoadwComplete t o) s fun s' => ∃ m', s'.matrix t o = some m' ∧ m'.load = none ∧
      m'.active = m.active) ∧
    (∀ tok, ld.stream = true → s.headTok t o mxWt = some tok → tok.kind = Kind.data → ld.taken + 1 < imageToks m.wfmt →
      Gives (.mxLoadwComplete t o) s fun s' => ∃ m' ld', s'.matrix t o = some m' ∧ m'.load = some ld' ∧
        ld'.taken = ld.taken + 1 ∧ ld'.lines = ld.lines ++ [tok.pay]))

/-! ## Copy engines, handles, counters and bank ALUs (19_memory_nodes.md) -/

/-- R346 to R348, R351, R352: the commands of a copy engine's inbox; a trigger; the transfer of one element from memory to
memory; and the end of a firing. -/
def Obligations.CopyEngines : Prop :=
  (∀ (s : State) (t o : Nat) (p : Packet), s.inboxOpen (.op t o) = true →
    let fld (lo n : Nat) : Nat := ((p.dbl 1).extractLsb' lo n).toNat
    let h := fld 32 12
    (∀ z ks, s.slot t o (fld 53 4) = some z → z.firing = false →
      s.unitKeys t o (p.dbl 4).toNat (8 * (fld 50 3 + 1)) 0 = .at_ ks →
      let x := armedSlot p ((doubles (s.readKeys ks) (fld 50 3 + 1)).map copyDim)
      x.stridesOk = true → Gives (.cpArm t o p) s fun s' => s'.slot t o (fld 53 4) = some x) ∧
    (∀ z, s.slot t o (fld 53 4) = some z → z.firing = false → z.armed = true →
      Gives (.cpFire t o p) s fun s' => ∃ z', s'.slot t o (fld 53 4) = some z' ∧ z'.firing = true ∧ z'.elem = 0 ∧
        z'.finished = false ∧ z'.dims = z.dims ∧ z'.src = z.src ∧ z'.dst = z.dst) ∧
    (s.bufState h = fld 0 2 →
      ((p.dbl 1).getLsbD 6 = true → s.bufMay h rankWait = true ∧ s.firstAwaiting (.op t o) h (fld 0 2) = true) →
      Gives (.bufWait t o p) s fun s' =>
      s'.bufState h = (if (p.dbl 1).getLsbD 6 then fld 4 2 else fld 0 2) ∧ ∀ g, g ≠ h → s'.bufState g = s.bufState g) ∧
    (s.bufMay h rankSet = true → Gives (.bufSet t o p) s fun s' => s'.bufState h = fld 0 2 ∧
      ∀ g, g ≠ h → s'.bufState g = s.bufState g) ∧
    (∀ b, s.inbox (.op t o) = some b → (b.replies.all fun r => r.status.isSome && !r.owesAdd) = true → s.tlBad h = false →
      (s.engineRelease (.op t o) (b.relAt.getD s.fc)).isSome = true →
      Gives (.tlInc t o p) s fun s' => s'.tl h = s.tl h + BitVec.ofNat 64 (fld 0 32) ∧ ∀ g, g ≠ h → s'.tl g = s.tl g) ∧
    (∀ b, s.inbox (.op t o) = some b →
      ((p.dbl 2).extractLsb' 0 32).toNat + 2 ^ 32 * ((p.dbl 3).extractLsb' 0 32).toNat ≤ (s.tl h).toNat →
      Gives (.tlWait t o p) s fun s' => s'.timeline = s.timeline ∧ ∃ b', s'.inbox (.op t o) = some b' ∧ Started b b')) ∧
  (∀ (s : State) (t o n : Nat) (z : Slot) (tok : Token), s.slot t o n = some z → s.copyOpen t o = true → z.ten = true →
    s.behindDone t o z.tport = none → s.headTok t o z.tport = some tok → tok.isData = true → z.armed = true →
    z.firing = false → Gives (.copyTrigger t o n) s fun s' => ∃ z', s'.slot t o n = some z' ∧ z'.firing = true ∧
    z'.elem = 0) ∧
  (∀ (s : State) (x y t o : Nat) (op : Op) (c : Copy) (z : Slot) (va vb : Nat) (la lb : Loc)
      (ta tb : Option (Nat × Loc)),
    let tile := tileKey x y
    let u := s.copyHandles tile
    let n := (c.rr + 1) % 16
    let ka := placeKeys la ta z.esize
    let kb := placeKeys lb tb z.esize
    aget copyPort (u.tile tile).lastIssue ≠ some u.fc → u.ticks tile = true →
    u.opsAt tile (((u.tile tile).copyRr + 1) % 8) = [(t, o, op)] → op.kind = .copy c → u.copyOpen t o = true →
    u.copyDeferred t = false → u.slot t o n = some z → z.firing = true → z.finished = false → z.shTaken = true →
    z.dhTaken = true → z.stall = none → z.elem = 0 → z.sub = 0 → z.old = [] → z.src = .addr va → z.dst = .addr vb →
    0 < z.esize → va % 64 + z.esize ≤ 64 → vb % 64 + z.esize ≤ 64 → z.dims = [{ ext := 1, sstr := 0, dstr := 0 }] →
    u.unitAt t o va z.esize 0 = .at_ la ta → u.unitAt t o vb z.esize 1 = .at_ lb tb → u.bankHolds kb = false →
    (∀ kv, u.vaKeys (u.lctxOf t) vb z.esize 1 = some kv → ∀ key ∈ ka, key ∉ kv) →
    z.fetch = some .here ∨ z.fetch = none ∧ ka.any isRemote = false →
    Gives (.copyTransfer x y) s fun s' => s'.mem = writeKeys u.mem kb (u.readKeys ka) ∧
      ∃ z', s'.slot t o n = some z' ∧ z'.elem = 1 ∧ z'.finished = true) ∧
  (∀ (s : State) (t o n : Nat) (z : Slot), s.slot t o n = some z → z.firing = true → z.finished = true → z.outTok = [] →
    s.goesOn t = true → s.frozen t o = false → (∀ g, z.sh = some g ∨ z.dh = some g → s.bufMay g rankCopy = true) →
    Gives (.copyFiringComplete t o n) s fun s' => (∃ z', s'.slot t o n = some z' ∧ z'.firing = false) ∧
      (∀ g, z.dh = some g → s'.bufState g = 2) ∧ (∀ g, z.sh = some g → z.dh ≠ some g → s'.bufState g = 0))

/-- R341 to R344: a command of a bank ALU's queue starts once the one before it has ended, with its operands; a collective
asks for a remote peer. The line operation of a bk.rmw writes its function's value; that of a bk.red goes on with its running
value, in index order, and writes it to dst[0] with the last element; those of bk.apply, bk.fill and bk.coll write the elements of
one line one after the other, and that of a bk.coll first asks its peer for them. That each reads its
sources line by line is log entry 54. -/
def Obligations.BankCommands : Prop :=
  (∀ (s : State) (b c : Nat) (p : Packet), s.inboxOpen (.bank b c) = true → s.bankCmd b c = none →
    let starts (i : Instr) : Prop :=
      Gives i s fun s' => s'.bankCmd b c = some (bankCmdOf c p (s.cmdId (.bank b c))) ∧ s'.mem = s.mem
    starts (.bkRmw b c p) ∧ starts (.bkRed b c p) ∧ starts (.bkApply b c p) ∧ starts (.bkFill b c p) ∧
    (s.isPeer c (p.dbl 3).toNat = true → starts (.bkColl b c p))) ∧
  (∀ (s : State) (b c : Nat) (x : Bank) (k : BankCmd) (ks : List Nat), aget b s.banks = some x → x.nextAt ≤ s.fc →
    s.dev.halt = false → x.running = [(c, k)] → k.lctx = c → k.waiting = false → s.bankHeldBy (some (b, c)) (s.bankTarget k) = false →
    let line (P : State → Prop) : Prop := Gives (.bankLineOperation b) s P
    (s.vaKeys c k.dst k.size 0 = some ks → s.vaKeys c k.dst k.size 1 = some ks →
      (k.opc = 1 → line fun s' =>
        s'.mem = writeKeys s.mem ks (rmwNew k.fn (8 * k.size) (s.readKeys ks) (k.v.toNat % 2 ^ (8 * k.size))
          (k.c.toNat % 2 ^ (8 * k.size))) ∧ s'.bankCmd b c = none) ∧
      (∀ r v : Nat → Nat, k.opc = 2 → r 0 = k.got.headD (s.readKeys ks) →
        let n := k.inLine k.src
        let src (j : Nat) : Nat := k.src + (k.i + j) * k.size
        (∀ j, j < n → src j ≠ k.dst → s.vaRead c (src j) k.size = some (v j)) →
        (∀ j, j < n → r (j + 1) = k.apply (r j) (if src j = k.dst then r j else v j)) →
        line fun s' => s'.bankCmd b c = k.after n [r n] ∧
          s'.mem = if k.n ≤ k.i + n then writeKeys s.mem ks (r n) else s.mem)) ∧
    (∀ u, k.opc = 3 → k.scal = true → BankSteps s k (k.inLine k.dst) (fun _ _ old => k.apply old k.v.toNat) u →
      line fun s' => s'.mem = (u (k.inLine k.dst)).mem ∧ s'.bankCmd b c = k.after (k.inLine k.dst) []) ∧
    (∀ (u : Nat → State) (v : Nat → Nat), k.opc = 3 → k.scal = false →
      let n := min (k.inLine k.dst) (k.inLine k.src)
      BankSteps s k n (fun _ j old => k.apply old (v j)) u →
      (∀ j, j < n → (u j).bankRemote k (k.i + j) = false ∧ (u j).vaRead c (k.src + (k.i + j) * k.size) k.size = some (v j)) →
      line fun s' => s'.mem = (u n).mem ∧ s'.bankCmd b c = k.after n []) ∧
    (∀ u, k.opc = 4 → BankSteps s k (k.inLine k.dst) (fun _ _ _ => k.v.toNat) u →
      line fun s' => s'.mem = (u (k.inLine k.dst)).mem ∧ s'.bankCmd b c = k.after (k.inLine k.dst) []) ∧
    (k.opc = 5 →
      let n := min (k.inLine k.dst) (k.inLine k.src)
      (∀ a, k.got = [] → s.placeNow c (k.src + k.i * k.size) (n * k.size) 0 = some (.remote a, none) →
        line fun s' => s'.mem = s.mem ∧ s'.bankCmd b c = some { k with waiting := true } ∧ ∃ w ∈ s'.spans,
          w.bank = some (b, c) ∧ w.write = false ∧ w.key = (Loc.remote a).key ∧ w.bytes = n * k.size ∧ w.k = k.i) ∧
      (∀ u, k.got ≠ [] → BankSteps s k k.got.length (fun _ j old => k.apply old (k.got.getD j 0)) u →
        line fun s' => s'.mem = (u k.got.length).mem ∧ s'.bankCmd b c = k.after k.got.length [])))

/-! ## Walkers and splines (09_ternary_layer_under_deadline.md, 13_coverage.md) -/

/-- R170 to R173, R246, R253, R254, R256: a walker latches L at a block, issues the points it keeps or audits and passes the
others with their mask bits set, and ends its walk with the handle full, once its mask has been written; its commands change what it
walks; and the sequencer records L between the floor and the ceiling, as CE and FRZ stood at the end of the fc of the update. That
a walker between walks pushes its done token at the stop is log entry 97. -/
def Obligations.Walkers : Prop :=
  (∀ (s : State) (t o : Nat) (w : Walker) (x : Launch), s.walkOpen t o = some w → s.stopped t = false → w.ended = false →
    w.stopped = false → s.launchOf t = some x →
    (w.inBlock = false → w.blockAt ≤ s.fc → w.begun = true ∨ s.bufState w.handle ≠ 3 ∧ s.bufMay w.handle rankUnit = true →
      let f := if w.chgAt = s.fc then w.prev else w.now
      Gives (.walkerBlockBegin t o) s fun s' => (w.begun = false → s'.bufState w.handle = 1) ∧
        ∃ w', s'.walker t o = some w' ∧ w'.begun = true ∧ w'.inBlock = true ∧ w'.latched.l = x.lBefore s.fc ∧
          w'.latched.pat = x.pat.getD f.pat ∧ w'.latched.phase = f.phase ∧ w'.pts = w.pts) ∧
    (∀ l tail, w.inBlock = true → w.issueAt ≤ s.fc → w.pos < w.total → w.pref = false ∨ s.power.lever < 2 →
      let u := s.setWalker t o w
      u.canReserve t o 0 1 = true → u.unitAt t o (w.pointVa w.pos) 128 0 = .at_ l tail →
      let use := w.useOf (decide (s.power.lever < 1))
      use ≠ .skip → Gives (.walkerPointIssue t o) s fun s' => ∃ w' acc, s'.walker t o = some w' ∧ w.pos < w'.pos ∧
        w'.pts = w.pts ++ [w.pos] ∧ w'.issued = w.issued + 1 ∧ w'.accs = w.accs ++ [acc] ∧ acc.k = w.pos ∧ acc.loc = l ∧
        acc.tail = tail ∧ acc.write = false ∧ w'.mask.testBit w.pos = (use == .audit || w.mask.testBit w.pos) ∧
        ∀ n, w.pos < n → n < w'.pos → w'.mask.testBit n = true) ∧
    (w.inBlock = true → w.issueAt ≤ s.fc → (w.passAll s.audits).pos = w.total →
      Gives (.walkerPointIssue t o) s fun s' => ∃ w', s'.walker t o = some w' ∧ w'.pos = w.total ∧ w'.pts = w.pts ∧
        ∀ n, w.pos ≤ n → n < w.total → w'.mask.testBit n = true) ∧
    (w.begun = true → w.pos = w.total → w.doneOut = false → w.accs = [] → s.bufMay w.handle rankUnit = true →
      s.canPush t o 0 1 = true → s.masked t o w = true →
      Gives (.walkerEnd t o) s fun s' => s'.bufState w.handle = 2 ∧ ∃ w', s'.walker t o = some w' ∧ w'.walking = false ∧
        w'.ended = true ∧ w'.cut = false ∧ w'.walks = w.walks + 1 ∧ w'.past = w.past ++ [w.now_] ∧
        w'.doneOut = (w.endLvl == 0))) ∧
  (∀ (s : State) (t o : Nat) (w : Walker), s.walkEnds t o = some w → s.stopped t = true → w.ended = false →
    w.begun = true ∨ s.bufState w.handle ≠ 3 → s.bufMay w.handle rankUnit = true → w.accs = [] → s.canPush t o 0 1 = true →
    s.masked t o w = true → Gives (.walkerEnd t o) s fun s' => s'.bufState w.handle = 2 ∧ ∃ w', s'.walker t o = some w' ∧ w'.walking = false ∧
      w'.stopped = true ∧ w'.cut = decide (w.pos < w.total) ∧ w'.doneOut = ((if w.walking then w.endLvl else 0) == 0)) ∧
  (∀ (s : State) (t o : Nat) (p : Packet) (w : Walker), s.walker t o = some w → s.inboxOpen (.op t o) = true →
    let fld (lo n : Nat) : Nat := ((p.dbl 1).extractLsb' lo n).toNat
    let nd := fld 54 3 + 1
    (∀ ks w₁, w.walking = false → w.doneOut = false → s.unitKeys t o (p.dbl 2).toNat (8 * (nd + 2)) 0 = .at_ ks →
      let ds := doubles (s.readKeys ks) (nd + 2)
      w.spec s.fc ds nd (fld 51 3) (s.cmdId (.op t o)) = some w₁ →
      Gives (.wkSpec t o p) s fun s' => ∃ w', s'.walker t o = some w' ∧ w'.walking = true ∧ w'.pos = 0 ∧
        w'.dims = (ds.take nd).map dimOf ∧ w'.endLvl = fld 51 3 ∧ w'.past = w.past) ∧
    Gives (.wkKerf t o p) s (fun s' => ∃ w', s'.walker t o = some w' ∧ w'.now.pat = fld 54 3 ∧ w'.now.da = fld 51 3 ∧
      w'.now.db = fld 48 3 ∧ w'.now.phase = fld 42 6 ∧ w'.now.lm = fld 36 6 ∧ w'.now.la = fld 30 6 ∧
      w'.now.seed = (p.dbl 2).extractLsb' 0 32 ∧ w'.latched = w.latched) ∧
    Gives (.wkAudit t o p) s (fun s' => ∃ w', s'.walker t o = some w' ∧ w'.now.audit = auditN (fld 54 3) ∧
      w'.now.win = (if fld 46 8 = 0 then 64 else fld 46 8) ∧ w'.now.pat = w.now.pat) ∧
    (∀ k x, s.task t = some k → s.launch k.launch = some x → Gives (.kfCtl t o p) s fun s' => ∃ w' x',
      s'.walker t o = some w' ∧ s'.launch k.launch = some x' ∧
      w'.now.phase = (if (p.dbl 1).getLsbD 48 then fld 42 6 else w.now.phase) ∧
      x'.frz = (if (p.dbl 1).getLsbD 41 || (p.dbl 1).getLsbD 40 then (p.dbl 1).getLsbD 41 else x.frz) ∧
      x'.updates = (if (p.dbl 1).getLsbD 56 then x.updates ++ [(s.fc, rankCtl, (fld 49 7 : Int), false)] else x.updates))) ∧
  (∀ (s : State) (l f v : Nat) (x : Launch) (c : Ctx), s.launch l = some x → s.ctx x.lctx = some c →
    x.updates = [(f, rankCtl, (v : Int), false)] → f < s.fc →
    let new := max c.floor (min x.ceWas v)
    Gives (.coverageLRecord l) s fun s' => ∃ x', s'.launch l = some x' ∧ x'.l = new ∧ x'.lBefore s.fc = x.l ∧
      x'.updates = if s.ceOf x < new then [(s.fc, rankCeil, 0, false)] else []) ∧
  (∀ (s : State) (l : Nat) (x : Launch), s.launch l = some x → s.fcOwes = false →
    Gives .deadlineClockAdvance s fun s' => ∃ x', s'.launch l = some x' ∧ x'.ceWas = s.ceOf x ∧ x'.frzWas = x.frz ∧ x'.l = x.l)

/-- R176, R250, R257 to R259: a spline takes the tokens of computed points, reconstructs the points that were not computed
once the walk's mask is full, and ends; one that a pause has interrupted first sets the handle draining again, and waits while it is
filling or draining; sp.cfg sets its parameters and sp.run starts a reconstruction of a mask region. What a walk that ends with a
stop leaves to the next is log entry 30, and the phase to which an sp.run goes back is log entry 31. -/
def Obligations.Splines : Prop :=
  (∀ (s : State) (t o : Nat) (x : Spline), s.splineOpen t o = some x →
    let stored (x' : Spline) (k : Nat) (l : Loc) (tail : Option (Nat × Loc)) (n : Nat) : Prop :=
      ∃ acc, x'.accs = x.accs ++ [acc] ∧ acc.k = k ∧ acc.loc = l ∧ acc.tail = tail ∧ acc.bytes = n ∧ acc.write = true
    (∀ tok w n l tail, x.phase = .take → x.inputDone = false → s.headTok t o 0 = some tok → tok.isData = true →
      s.walker t x.walker = some w → x.hasAll w = false → (w.walk x.walks).pts[x.taken / x.tile]? = some n → n < x.count →
      s.unitAt t o (x.base + n * x.tileBytes + 128 * (x.taken % x.tile)) 128 1 = .at_ l tail →
      Gives (.splineTileStore t o) s fun s' => ∃ x', s'.spline t o = some x' ∧ x'.taken = x.taken + 1 ∧
        stored x' n l tail 128 ∧
        (∃ l, aget n x'.computed = some l ∧ (x.taken % x.tile < l.length → l[x.taken % x.tile]? = some tok.pay)) ∧
        (aget n x.flags ≠ some 3 → aget n x'.flags = some 2)) ∧
    (∀ w, x.phase = .take → x.run = none → s.walker t x.walker = some w → s.splineReady x w = true →
      Gives (.splineReconstruct t o) s fun s' => s'.bufState w.handle = 3 ∧ ∃ x', s'.spline t o = some x' ∧
        x'.phase = .recon ∧ x'.walks = x.walks + 1 ∧ x'.holds = true ∧
        x'.next = if s.reconstructs t (w.walk x.walks) then 0 else x.count) ∧
    (∀ w l tail, x.phase = .recon → x.run = none → s.walker t x.walker = some w → s.bufMay w.handle rankUnit = true →
      (x.next < x.count → x.holds = false → s.bufState w.handle = 1 ∨ s.bufState w.handle = 3 →
        exec (.splineReconstruct t o) s = .next s) ∧
      (x.next < x.count → x.holds = true ∨ s.bufState w.handle ≠ 1 ∧ s.bufState w.handle ≠ 3 → aget x.next x.flags = none →
        s.unitAt t o (x.base + x.next * x.tileBytes + 128 * x.sub) 128 1 = .at_ l tail →
        Gives (.splineReconstruct t o) s fun s' => (x.holds = false → s'.bufState w.handle = 3) ∧ ∃ x',
          s'.spline t o = some x' ∧ x'.holds = true ∧ stored x' x.next l tail 128 ∧
          (x.sub + 1 < x.tile → x'.next = x.next ∧ x'.sub = x.sub + 1) ∧
          (x.tile ≤ x.sub + 1 → x'.next = x.next + 1 ∧ x'.sub = 0 ∧ aget x.next x'.flags = some 1)) ∧
      (let n := min 128 (x.mapBytes - 128 * x.sub)
       x.count ≤ x.next → 0 < n → s.unitAt t o (x.base + x.count * x.tileBytes + 128 * x.sub) n 1 = .at_ l tail →
        Gives (.splineReconstruct t o) s fun s' => (x.holds = true → s'.bufState w.handle = 2) ∧ ∃ x',
          s'.spline t o = some x' ∧ x'.holds = false ∧ stored x' mapK l tail n ∧ x'.sub = x.sub + 1 ∧ x'.mapVa = x.base + x.count * x.tileBytes ∧
          x'.phase = if 128 * (x.sub + 1) ≥ x.mapBytes then .acks else .recon)) ∧
    (x.phase = .acks → (∀ a ∈ x.accs, a.k = flagK) → x.run = none →
      (x.inputDone = true → (s.outBound t o 1 = true → s.canPush t o 1 1 = true) →
        Gives (.splineDone t o) s fun s' => ∃ x', s'.spline t o = some x' ∧ x'.phase = .done) ∧
      (x.inputDone = false → Gives (.splineDone t o) s fun s' => ∃ x', s'.spline t o = some x' ∧ x'.phase = .take ∧
        x'.taken = 0 ∧ x'.flags = [])) ∧
    (∀ r, x.phase = .acks → (∀ a ∈ x.accs, a.k = flagK) → x.run = some r →
      Gives (.splineDone t o) s fun s' => ∃ x', s'.spline t o = some x' ∧ x'.run = none ∧ x'.phase = r.back)) ∧
  (∀ (s : State) (t o : Nat) (p : Packet) (x : Spline), s.spline t o = some x → s.inboxOpen (.op t o) = true →
    x.run = none →
    let fld (lo n : Nat) : Nat := ((p.dbl 1).extractLsb' lo n).toNat
    let h := fld 0 12
    (x.phase ≠ .recon → Gives (.spCfg t o p) s fun s' => ∃ x', s'.spline t o = some x' ∧ x'.fmt = fld 53 4 ∧
      x'.kernel = fld 50 3 ∧ x'.da = fld 47 3 ∧ x'.db = fld 44 3 ∧ x'.tile = fld 40 4 + 1 ∧ x'.base = (p.dbl 2).toNat ∧
      x'.count = (p.dbl 3).toNat) ∧
    (∀ va exts k₁ k₂, x.phase = .take ∨ x.phase = .done → s.bufState h = 2 → s.bufMay h rankUnit = true →
      aget h s.masks = some (va, exts) → s.unitKeys t o va 4 0 = .at_ k₁ →
      s.unitKeys t o (va + 64) ((s.readKeys k₁ + 7) / 8) 0 = .at_ k₂ → Gives (.spRun t o p) s fun s' => s'.bufState h = 3 ∧
        ∃ x' r, s'.spline t o = some x' ∧ x'.phase = .recon ∧ x'.next = 0 ∧ x'.holds = true ∧ x'.run = some r ∧ r.handle = h ∧
        r.base = (p.dbl 2).toNat ∧ r.exts = exts ∧ r.passed = s.readKeys k₁ ∧ r.mask = s.readKeys k₂ ∧ r.flags = [] ∧ r.back = x.phase))

/-! ## Fibre units (15_sparse_product.md, 16_fibres.md) -/

/-- R279 to R286, R298 to R304: what a step of each fibre unit pops and pushes; an output of several inputs is audit data if any of
them is (log entry 56). The step that takes a reference of a scan or
dense unit pushes the first tokens of its fibre. -/
def Obligations.FibreUnits : Prop :=
  (∀ (s : State) (t o : Nat) (k : Task) (f : Fibre) (a l : Nat) (loc : Loc) (tail : Option (Nat × Loc)),
    s.fibreOpen t o = some (k, f) → f.loaded = false → f.nextAt ≤ s.fc → f.lines[f.nextLine]? = some (a, l) →
    s.unitAt t o (f.addrs.getD a 0 + 64 * l) (4 * f.lineWords a l) 0 = .at_ loc tail →
    Gives (.fbBufferLoad t o) s fun s' => ∃ f' acc, s'.fibre t o = some f' ∧ f'.nextLine = f.nextLine + 1 ∧
      f'.accs = f.accs ++ [acc] ∧ acc.loc = loc ∧ acc.bytes = 4 * f.lineWords a l ∧ acc.write = false) ∧
  (∀ (s : State) (t o : Nat) (f : Fibre) (r j a b c : Nat), FibreReady s t o f .scan → f.pushing = some (r, j) →
    s.canPushAll t o [1, 2] = true → r + 1 < f.counts.getD 0 0 → f.word 0 r = .ok a → f.word 0 (r + 1) = .ok b → a ≤ b →
    b ≤ f.counts.getD 1 0 →
    (a + j < b → f.word 1 (a + j) = .ok c → exec (.fbScanStep t o) s =
      .next (((s.fPush t o [(1, fData f.pushAudit c), (2, fData f.pushAudit (a + j))]).modFibre t o fun f =>
        { f with pushing := some (r, j + 1), nextAt := s.after t o 1 }).busy (s.lctxOf t))) ∧
    (b ≤ a + j → exec (.fbScanStep t o) s =
      .next ((((s.fPush t o [(1, stopTok 1 0), (2, stopTok 1 0)]).modFibre t o fun f =>
        { f with pushing := none, nextAt := s.after t o 1 }).busy (s.lctxOf t)).countFiring t o))) ∧
  (∀ (s : State) (t o : Nat) (f : Fibre) (r j : Nat), FibreReady s t o f .dense → f.pushing = some (r, j) →
    s.canPushAll t o [1, 2] = true → j < f.counts.getD 0 0 → r * f.counts.getD 0 0 + j < 2 ^ 32 →
    exec (.fbDenseStep t o) s =
      .next (((s.fPush t o [(1, fData f.pushAudit j), (2, fData f.pushAudit (r * f.counts.getD 0 0 + j))]).modFibre t o fun f =>
        { f with pushing := some (r, j + 1), nextAt := s.after t o 1 }).busy (s.lctxOf t))) ∧
  (∀ (s : State) (t o : Nat) (f : Fibre) (tok : Token), f.pushing = none → s.fHead t o f 0 = .tok tok →
    let r := tok.word.toNat
    let n := f.counts.getD 0 0
    let data (v : Nat) : Token := fData tok.isAudit v
    let bad := poisonTok 0 (s.origin t o Code.range)
    let takes (i : Instr) (x y : Token) (p : Option (Nat × Nat)) : Prop := s.canPushAll t o [1, 2] = true →
      ∃ st, exec i s = .next (s.fTake t o st) ∧ StepIs st [0] [(1, x), (2, y)] ∧ (st.upd f).pushing = p
    let looks (x : Token) : Prop := FibreReady s t o f .lookup → s.canPushAll t o [1] = true →
      ∃ st, exec (.fbLookupStep t o) s = .next (s.fTake t o st) ∧ StepIs st [0] [(1, x)]
    (tok.isData = true →
      (FibreReady s t o f .scan →
        (∀ a b, r + 1 < n → f.word 0 r = .ok a → f.word 0 (r + 1) = .ok b → a ≤ b → b ≤ f.counts.getD 1 0 →
          (∀ c, a < b → f.word 1 a = .ok c → takes (.fbScanStep t o) (data c) (data a) (some (r, 1))) ∧
          (a = b → takes (.fbScanStep t o) (stopTok 1 0) (stopTok 1 0) none)) ∧
        (n ≤ r + 1 → takes (.fbScanStep t o) bad bad (some (r, 1)))) ∧
      (FibreReady s t o f .dense →
        (0 < n → r * n < 2 ^ 32 → takes (.fbDenseStep t o) (data 0) (data (r * n)) (some (r, 1))) ∧
        (n = 0 → takes (.fbDenseStep t o) (stopTok 1 0) (stopTok 1 0) none)) ∧
      looks (if r < n then wordTok tok.isAudit (f.word 0 r) else bad)) ∧
    (tok.kind = Kind.stop → tok.level < 7 →
      let up := stopTok (tok.level + 1) 0
      (FibreReady s t o f .scan → takes (.fbScanStep t o) up up none) ∧
      (FibreReady s t o f .dense → takes (.fbDenseStep t o) up up none) ∧ looks (fPass tok)) ∧
    (tok.kind = Kind.done → (FibreReady s t o f .scan → takes (.fbScanStep t o) (doneTok 0) (doneTok 0) none) ∧
      (FibreReady s t o f .dense → takes (.fbDenseStep t o) (doneTok 0) (doneTok 0) none) ∧ looks (fPass tok)) ∧
    (tok.kind = Kind.poison → (FibreReady s t o f .scan → takes (.fbScanStep t o) (fPass tok) (fPass tok) none) ∧
      (FibreReady s t o f .dense → takes (.fbDenseStep t o) (fPass tok) (fPass tok) none) ∧ looks (fPass tok))) ∧
  (∀ (s : State) (t o : Nat) (f : Fibre) (kind : Fop) (l : List (Token × Token)), FibreReady s t o f kind →
    f.pushing = none →
    s.sides t o f f.nin 0 = .heads l → l ≠ [] → (∀ x ∈ l, x.1.isData = true ∧ x.2.isData = true) → f.badSide l = none →
    let coord (i : Nat) : Nat := (l[i]?.map fun x => x.1.word.toNat).getD 0
    let least := (List.range l.length).foldl (fun m i => min m (coord i)) (2 ^ 32)
    let first := (List.range l.length).filter fun i => coord i == least
    let audit := first.any fun i => (l[i]?.map fun x => x.1.isAudit || x.2.isAudit).getD false
    let ref (i : Nat) : Nat := (l[i]?.map fun x => x.2.word.toNat).getD 0
    let pops := first.flatMap fun i => [2 * i, 2 * i + 1]
    let outs := 6 :: (List.range l.length).map (7 + ·)
    (kind = .isect → s.canPushAll t o outs = true → ∃ st, exec (.fbIsectStep t o) s = .next (s.fTake t o st) ∧
      StepIs st pops (if first.length = l.length then
        (6, fData audit least) :: (List.range l.length).map fun i => (7 + i, fData audit (ref i)) else [])) ∧
    (kind = .union → s.canPushAll t o outs = true → ∃ st, exec (.fbUnionStep t o) s = .next (s.fTake t o st) ∧
      StepIs st pops ((6, fData audit least) :: (List.range l.length).map fun i =>
        (7 + i, if coord i = least then fData audit (ref i) else fData false ((f.consts.getD i 0).toNat % 2 ^ 32))))) ∧
  (∀ (s : State) (t o : Nat) (f : Fibre) (kind : Fop) (l : List (Token × Token)) (c r : Token), FibreReady s t o f kind →
    f.pushing = none → s.sides t o f f.nin 0 = .heads ((c, r) :: l) → c.isClose = true →
    (∀ x ∈ (c, r) :: l, fClass x.1 = fClass c ∧ fClass x.2 = fClass c) →
    let n := l.length + 1
    let outs := (List.range (n + 1)).map (6 + ·)
    s.canPushAll t o outs = true →
    let closes (i : Instr) : Prop := ∃ st, exec i s = .next (s.fTake t o st) ∧ st.retire = (c.kind == Kind.done) ∧
      StepIs st ((List.range n).flatMap fun i => [2 * i, 2 * i + 1]) (outs.map fun q => (q, fPass c))
    (kind = .isect → closes (.fbIsectStep t o)) ∧ (kind = .union → closes (.fbUnionStep t o))) ∧
  (∀ (s : State) (t o : Nat) (f : Fibre) (c v : Token), f.pushing = none → s.sides t o f 1 0 = .heads [(c, v)] →
    c.isData = true → v.isData = true →
    (FibreReady s t o f .filter → s.canPushAll t o [2, 3] = true →
      ∃ st, exec (.fbFilterStep t o) s = .next (s.fTake t o st) ∧ StepIs st [0, 1]
        (if f.holds v.word.toNat then [(2, fData (c.isAudit || v.isAudit) c.word.toNat),
          (3, fData (c.isAudit || v.isAudit) v.word.toNat)] else [])) ∧
    (FibreReady s t o f .reduce → Gives (.fbReduceStep t o) s fun s' => ∃ f', s'.fibre t o = some f' ∧
      f'.sum = some (BitVec.ofNat 32 (f.fold v.word.toNat)) ∧ f'.i = f.i) ∧
    (FibreReady s t o f .write → f.closed = false → f.i < min (f.counts.getD 1 0) (f.counts.getD 2 0) →
      ∃ st, exec (.fbWriteStep t o) s = .next (s.fTake t o st) ∧ StepIs st [0, 1] [] ∧
        st.stores = [(f.addrs.getD 1 0 + 4 * f.i, c.word.toNat), (f.addrs.getD 2 0 + 4 * f.i, v.word.toNat)])) ∧
  (∀ (s : State) (t o : Nat) (f : Fibre) (c v : Token), f.pushing = none → s.sides t o f 1 0 = .heads [(c, v)] →
    (FibreReady s t o f .filter → c.isClose = true → fClass c = fClass v → s.canPushAll t o [2, 3] = true →
      ∃ st, exec (.fbFilterStep t o) s = .next (s.fTake t o st) ∧ StepIs st [0, 1] [(2, fPass c), (3, fPass c)] ∧
        st.retire = (c.kind == Kind.done)) ∧
    (∀ w, FibreReady s t o f .reduce → v.kind = Kind.stop → v.level = f.level → c.isData = true → f.fibrePoison = none →
      f.sum = some w → s.canPushAll t o [2, 3] = true → ∃ st, exec (.fbReduceStep t o) s = .next (s.fTake t o st) ∧
        StepIs st [0, 1] [(2, fPass c), (3, fData f.sumAudit w.toNat)] ∧ (st.upd f).sum = none) ∧
    (FibreReady s t o f .write → c.kind = Kind.done → v.kind = Kind.done →
      ∃ st, exec (.fbWriteStep t o) s = .next (s.fTake t o st) ∧ StepIs st [0, 1] [] ∧ st.retire = true ∧
        st.stores = if f.level = 1 then [(f.addrs.getD 0 0, 0), (f.addrs.getD 0 0 + 4, f.i)] else [])) ∧
  (∀ (s : State) (t o : Nat) (f : Fibre) (x r : Token), FibreReady s t o f .repeat_ → f.pushing = none →
    s.fHead t o f 1 = .tok x → x.isData = true → (s.inChan t o 0).isSome = true → s.fHead t o f 0 = .tok r →
    r.isData = true →
    s.canPushAll t o [2, 3] = true → ∃ st, exec (.fbRepeatStep t o) s = .next (s.fTake t o st) ∧
      StepIs st [1] [(2, fData (r.isAudit || x.isAudit) r.word.toNat), (3, fPass x)])

/-! ## Memory nodes (17_jacobi_on_device.md, 18_memory_spaces.md, 19_memory_nodes.md, 20_ordering.md) -/

/-- R10, R308, R318, R324, R326, R327, R333 to R338, R361: loads and stores of memory nodes issue, return and are
acknowledged; full and empty granules; rmw; done tokens on ordering edges and fences; stream buffers, write-combining lines
and page walks. That a read from memory has the value of its delivery is log entry 28. -/
def Obligations.MemoryNodes : Prop :=
  (∀ (s : State) (t o : Nat) (k : Task) (p : Op) (m : Mem), s.memOpen t o = some (k, p, m) → m.ordered = true →
    m.inputDone = false → m.stall = none → k.chanIn o mpAi = none → m.next < m.count →
    (∀ tile a, s.canReserve t o mpOut m.ntok = true → m.space = 0 → k.tileAt m m.next = some (tile, a) →
      let gs := granules tile a m.size
      let read (i : Instr) : Prop := Gives i s fun s' => ∃ m' acc, s'.mnode t o = some m' ∧ m'.next = m.next + 1 ∧
        m'.accs = m.accs ++ [acc] ∧ acc.done = true ∧ acc.val = BitVec.ofNat 1024 (s.readLoc (.tile tile a) m.size) ∧
        (m.mop = .ldfeClr → ∀ g ∈ gs, s'.tag g = 0) ∧ (m.mop ≠ .ldfeClr → s'.tags = s.tags)
      s.badGranule gs = none →
      (m.mop = .ld ∨ (m.mop = .ldfeClr ∨ m.mop = .ldfeKeep) ∧ s.feAdmits m tile gs = true ∧ s.feTurn t o tile gs = true →
        read (.loadReadIssue t o)) ∧
      (∀ x y g more, (m.mop = .ldfeClr ∨ m.mop = .ldfeKeep) → s.feAdmits m tile gs = true → s.feTurn t o tile gs = true →
        s.feWaiters (tileKey x y) [(Loc.tile (tileKey x y) (16 * g)).key / 16] = (t, o) :: more →
        read (.fullEmptyRelease x y g))) ∧
    (∀ l tail, s.canReserve t o mpOut m.ntok = true → m.mop = .ld → m.space ≠ 0 →
      s.memPlace t o p m (m.base + m.next * m.size) 0 = .at_ l tail →
      let ks := placeKeys l tail m.size
      let read (done : Bool) (P : Mem → Acc → Prop) : Prop :=
        Gives (.loadReadIssue t o) s fun s' => ∃ m' acc, s'.mnode t o = some m' ∧ m'.next = m.next + 1 ∧
          m'.accs = m.accs ++ [acc] ∧ acc.loc = l ∧ acc.tail = tail ∧ acc.bytes = m.size ∧ acc.done = done ∧ P m' acc
      (m.acq = true ∨ m.space = 1 ∨ m.readBefore ks = true ∨ s.lineRead t o m ks = none →
        read false fun m' _ => m'.lines = if m.acq then [] else m.lines) ∧
      (∀ v, m.acq = false → m.space ≠ 1 → m.readBefore ks = false → s.lineRead t o m ks = some v →
        read true fun m' acc => acc.val = BitVec.ofNat 1024 v ∧ m'.lines = m.lines)) ∧
    (∀ tile a tok, (m.mop = .st ∨ m.mop = .stfe ∧ s.feAdmits m tile (granules tile a m.size) = true ∧
        s.feTurn t o tile (granules tile a m.size) = true) → s.memOk →
      (∀ q ∈ k.storePorts o, s.behindDone t o q = none) → k.storePorts o = [0] → s.elemAt t o m 0 = some [tok] →
      tok.isData = true → m.ret = false → m.rel = false → m.space = 0 → k.tileAt m m.next = some (tile, a) →
      s.rmwHolds tile a m.size = false → s.rmwFirst tile (granules tile a m.size) = false →
      s.clearedNow tile (granules tile a m.size) = false →
      Gives (.storeIssue t o) s fun s' => s'.readLoc (.tile tile a) m.size = m.elemVal [tok] % 2 ^ (8 * m.size) ∧
        sameBut s.mem s'.mem (Loc.tile tile a).key m.size ∧ (∀ g ∈ granules tile a m.size, s'.tag g = 1) ∧
        ∃ m', s'.mnode t o = some m' ∧ m'.next = m.next + 1) ∧
    (∀ l tail tok, m.mop = .st → (∀ q ∈ k.storePorts o, s.behindDone t o q = none) → k.storePorts o = [0] →
      s.elemAt t o m 0 = some [tok] → tok.isData = true → m.ret = false → m.rel = false → m.space ≠ 0 →
      s.memPlace t o p m (m.base + m.next * m.size) 1 = .at_ l tail →
      Gives (.storeIssue t o) s fun s' => s'.mem = s.mem ∧ ∃ m' acc, s'.mnode t o = some m' ∧ m'.next = m.next + 1 ∧
        m'.accs = m.accs ++ [acc] ∧ acc.loc = l ∧ acc.write = true ∧ acc.done = false ∧
        acc.val = BitVec.ofNat 1024 (m.elemVal [tok]))) ∧
  (∀ (s : State) (t o : Nat) (m : Mem) (a : Acc) (rest : List Acc), s.mnode t o = some m → s.goesOn t = true →
    s.frozen t o = false → m.accs = a :: rest → a.write = false → a.due ≤ s.fc → a.poison = none →
    (a.done = true ∨ a.keys.any isRemote = false) → s.outBound t o mpOut = true →
    s.hasRoom t o mpOut (m.tokens a 0).length = true →
    Gives (.readDelivery t o) s fun s' => ∃ u : State, (∃ m', u.mnode t o = some m' ∧ m'.accs = rest) ∧ u.mem = s.mem ∧
      s' = u.pushEach t o (m.tokens a (if a.done then a.val.toNat else s.nodeRead t (s.tileOf t o) a.keys))) ∧
  (∀ (s : State) (t o : Nat) (p : Op) (m : Mem) (a : Acc), s.op t o = some p → p.kind = .mem m → s.dev.halt = false →
    m.accs = [a] → a.write = true → a.done = false → a.due ≤ s.fc → m.space = 1 → s.bankHolds a.keys = false →
    m.rel = false →
    m.mop = .st → m.ret = false →
    Gives (.storeAck t o) s fun s' => s'.mem = writeKeys s.mem a.keys a.val.toNat ∧
      ∃ m', s'.mnode t o = some m' ∧ m'.accs = []) ∧
  (∀ (s : State) (x y : Nat) (e : RmwFlight), (s.tile (tileKey x y)).rmws = [e] → e.written = false → e.at_ ≤ s.fc →
    s.memOk →
    s.clearedNow (tileKey x y) (granules (tileKey x y) e.a e.bytes) = false →
    Gives (.rmwWrite x y) s fun s' => s'.readLoc (.tile (tileKey x y) e.a) e.bytes = e.val % 2 ^ (8 * e.bytes) ∧
      sameBut s.mem s'.mem (Loc.tile (tileKey x y) e.a).key e.bytes ∧
      ∀ g ∈ granules (tileKey x y) e.a e.bytes, s'.tag g = 1) ∧
  (∀ (s : State) (t o : Nat) (k : Task) (p : Op) (m : Mem), s.memOpen t o = some (k, p, m) → m.doneOrder = false →
    (m.mop ≠ .fence → m.ordered = true → m.inputDone = true → m.accs = [] → m.bad = none → m.stall = none →
      exec (.memoryNodeDone t o) s = .next (s.sendEdges t o) ∧
        ∃ m', (s.sendEdges t o).mnode t o = some m' ∧ m'.doneOrder = true) ∧
    (∀ u, m.mop = .fence → s.takeEdges t o = some u → Gives (.fenceFire t o) s fun s' =>
      s' = (u.sendEdges t o).gotDone t o ∧ ∃ m', s'.mnode t o = some m' ∧ m'.doneOrder = true ∧ m'.ordered = true) ∧
    (∀ line l, m.isLoad = true → 2 ≤ m.space → m.ordered = true → m.inputDone = false →
      m.firstLine (k.chanIn o mpAi).isSome ≤ line → 128 * line < m.base + m.count * m.size →
      m.lines.length < s.lineShare (tileKey p.place.x p.place.y) (k.entryAt (tileKey p.place.x p.place.y)) 256 →
      s.xlate (dieOf p.place.x p.place.y) (.op t o) k.lctx (128 * line) 128 0 = .at_ l → spaceOk m.space l = true →
      isRemote l.key = false →
      Gives (.streamPrefetch t o line) s fun s' => s'.mem = s.mem ∧ ∃ m' z, s'.mnode t o = some m' ∧
        m'.lines = (m.lines.filter (·.line != l.key)) ++ [z] ∧ z.line = l.key ∧ z.at_ = s.fc ∧
        z.data = BitVec.ofNat 1024 (s.nodeRead t (tileKey p.place.x p.place.y) (keysFrom l 128)))) ∧
  (∀ (s : State) (t o line : Nat) (m : Mem), s.mnode t o = some m →
    Gives (.streamLineExpiry t o line) s fun s' => ∃ m', s'.mnode t o = some m' ∧
      m'.lines = m.lines.filter fun l => !(l.line == 128 * line && decide (l.at_ + s.bound (s.tileOf t o) 4096 < s.fc))) ∧
  (∀ (s : State) (t : Nat) (k : Task) (w : WLine), s.task t = some k → k.wcb = [w] → isRemote w.line = false →
    w.last + s.bound w.tile 64 ≤ s.fc ∨ 128 ≤ w.bytes.length ∨ w.since + s.bound w.tile 61440 ≤ s.fc →
    Gives (.wcbIdleFlush t w.line) s fun s' =>
      s'.mem = w.bytes.foldl (fun m x => memPut m (w.line + x.1) x.2) s.mem ∧ (s'.task t).map (·.wcb) = some []) ∧
  (∀ (s : State) (die : Nat) (b : Miss), s.walking die < 32 → s.nextWalk die = some b →
    Gives (.pageWalkStart die) s fun s' => s'.misses = s.misses.map fun m =>
      if m.order = b.order then { m with walking := true } else m) ∧
  (∀ (s : State) (die n : Nat) (m : Miss) (c : Ctx), (s.misses.filter fun m => m.die == die && m.walking)[n]? = some m →
    s.ctx m.lctx = some c →
    (∀ e, s.walk die m.pasid c.aqi m.va = .page e → Gives (.pageWalkComplete die n) s fun s' =>
      e ∈ s'.tlb ∧ s'.misses = s.misses.filter (·.order != m.order)) ∧
    (∀ g, s.walk die m.pasid c.aqi m.va = .fault g → Gives (.pageWalkComplete die n) s fun s' => s'.tlb = s.tlb ∧
      s'.misses = if m.users = [] then s.misses.filter (·.order != m.order)
        else s.misses.map fun x => if x.order = m.order then { x with walking := false, fault := some g } else x))

/-! ## Firings, links and messages (02_fabric.md, 05_formats_and_opcode_map.md, 07_tokens_control_system.md) -/

/-- R21, R22, R27, R35, R125, R126: the token at an actor's guard queue chooses the entry its firing begins at, or is
forwarded; a link moves a token of one lane; slot tables apply and advance. The header 0 of a wrap-up firing is log entry 48, that a
token is popped with the first push of its forwarding is log entry 49, and that lane 0 is the first served is log entry 78. -/
def Obligations.FiringsAndLinks : Prop :=
  (∀ (s : State) (t o : Nat) (p : Op) (k : Token) (e : Nat), s.live t = true → s.frozen t o = false → s.op t o = some p →
    s.unitTicks t o = true →
    let begins (f : Firing) : Prop := Gives (.actorFiringBegin t o) s fun s' => s'.firingOf t o = some f
    (∀ c, p.kind = .cell c → c.firing = none → c.idleFrom ≤ s.fc →
      (s.wrapDue t c = some e → begins (newFiring e 0 [] true s.fc)) ∧
      (s.wrapDue t c = none → c.retired = false →
        (c.armKind = none → s.headTok t o c.guard = some k → entryOf c.entries (entryIndex k) = some e →
          begins (newFiring e k.hdr [c.guard] false s.fc)) ∧
        (∀ kind ports, c.armKind = some kind → (kind = .amerge ∨ ∃ a, kind = .merge a) →
          s.pickArm t o c kind = .take ports k →
          entryOf c.entries (entryIndex k) = some e ∨ entryOf c.entries (entryIndex k) = none ∧
          entryOf c.entries 0 = some e →
          begins (newFiring e k.hdr ports false s.fc)))) ∧
    (∀ v, p.kind = .vec v → v.firing = none → v.idleFrom ≤ s.fc → v.retired = false → s.headTok t o v.guard = some k →
      entryOf v.entries (entryIndex k) = some e → begins (newFiring e k.hdr [v.guard] false s.fc))) ∧
  (∀ (s : State) (t o g : Nat) (es : List Byte) (k : Token), s.live t = true → s.frozen t o = false →
    s.firingOf t o = none →
    s.idleActor t o = some (g, es) → s.headTok t o g = some k →
    (∀ q more, s.serves t o = true → s.forwardPorts t o = q :: more → s.canPush t o q 1 = true →
      (k.isClose = true → entryOf es (entryIndex k) = none →
        exec (.defaultTokenForward t o) s = .next ((s.popTok t o g).forwardPush t o k (q :: more))) ∧
      (k.isPoison = true → entryOf es 9 = none →
        exec (.poisonForward t o) s = .next ((s.popTok t o g).forwardPush t o k (q :: more)))) ∧
    (s.forwardPorts t o = [] →
      (k.isClose = true → entryOf es (entryIndex k) = none →
        exec (.defaultTokenForward t o) s = .next ((s.popTok t o g).forwardEnd t o k)) ∧
      (k.isPoison = true → entryOf es 9 = none →
        exec (.poisonForward t o) s = .next (((s.popTok t o g).sinkPoison t o k.word).forwardEnd t o k)))) ∧
  (∀ (s : State) (t o : Nat) (f : Firing) (k : Token) (q : Nat) (more : List Nat), s.serves t o = true →
    s.firingOf t o = some f → f.fwd = some (k, q :: more) → s.goesOn t = true → s.frozen t o = false → f.saved = false →
    f.nextAt ≤ s.fc →
    s.canPush t o q 1 = true →
    (k.isClose = true → exec (.defaultTokenForward t o) s = .next (s.forwardPush t o k (q :: more))) ∧
    (k.isPoison = true → exec (.poisonForward t o) s = .next (s.forwardPush t o k (q :: more)))) ∧
  (∀ (s : State) (x y : Nat) (dir : Dir) (net : Net) (z : Nat × Nat × Nat × Nat), net ≠ .control → s.dev.halt = false →
    (∀ last, aget (tileKey x y, dir, net) s.links = some last → last.2 ≠ s.fc) → s.ticksBy (s.linkPeriod x y dir) = true →
    pickLane (((aget (tileKey x y, dir, net) s.links).map (·.1)).getD 7) (s.linkLanes x y dir net) = some z →
    Gives (.linkTransfer x y dir net) s fun s' =>
      s'.chan z.1 z.2.1 = (s.chan z.1 z.2.1).map (fun c =>
        c.moveHop s.fc (s.laterBy (s.linkPeriod x y dir)) z.2.2.1) ∧
      (∀ t c, t ≠ z.1 ∨ c ≠ z.2.1 → s'.chan t c = s.chan t c) ∧
      aget (tileKey x y, dir, net) s'.links = some (z.2.2.2, s.fc)) ∧
  (∀ (s : State) (x y : Nat),
    let tile := tileKey x y
    (∀ w, (s.tile tile).slotsDue s.fc = some w → Gives (.slotTableApply x y) s fun s' => (s'.tile tile).slots = w ∧
      (s'.tile tile).newSlots = none) ∧
    (tileOk x y = true → s.ticks tile = true → (s.tile tile).stepped s.fc = false →
      Gives (.slotPointerAdvance x y) s fun s' => (s'.tile tile).slotPtr = (s.tile tile).slotPtr + 1 ∧
        (s'.tile tile).slots = ((s.tile tile).inForce s.fc).slots))

/-- R107, R146, R224, R225, R414: a message reaches its inbox in order; a reply of a completed command adds to a counter, or
goes to the queue that its port names, or is held until that queue has room. -/
def Obligations.EngineMessages : Prop :=
  (∀ (s : State) (n : Nat) (m : Msg) (t o : Nat) (b : Inbox), s.msgs[n]? = some m → m.due ≤ s.fc → s.laneFirst n m = true →
    s.msgEngine m = some (.op t o) → s.inbox (.op t o) = some b → b.packets.length < 8 →
    ({ s with msgs := s.msgs.eraseIdx n }.bumpId.busy (s.lctxOf t)).packetFault (.op t o) m.packet m.seqSender = none →
    Gives (.enginePacketArrive n) s fun s' => s'.msgs = s.msgs.eraseIdx n ∧ ∃ b', s'.inbox (.op t o) = some b' ∧
      b'.packets = b.packets ++ [{ image := m.packet, core := m.core?, seqSender := m.seqSender, no := s.nextId }] ∧
      b'.replies = b.replies) ∧
  (∀ (s : State) (e : EngineRef) (b : Inbox) (r : Reply) (rest : List Reply), s.inbox e = some b → b.replies = r :: rest →
    r.status.isSome = true → b.held = none → r.value = none → r.poison = none →
    (r.rply = true → (s.engineRelease e r.doneAt).isSome = true) →
    let left (s' : State) : Prop := ∃ b', s'.inbox e = some b' ∧ b'.replies = rest ∧ b'.held = none
    (r.rply = false → Gives (.engineReply e) s fun s' => left s' ∧ s'.timeline = s.timeline) ∧
    (r.rply = true → r.word7.getLsbD 63 = true → s.tlBad (r.word7.extractLsb' 51 12).toNat = false →
      Gives (.engineReply e) s fun s' => left s' ∧ s'.tl (r.word7.extractLsb' 51 12).toNat =
        s.tl (r.word7.extractLsb' 51 12).toNat + (r.word7.extractLsb' 0 32).zeroExtend 64) ∧
    (∀ t o q ch, r.rply = true → r.word7.getLsbD 63 = false → s.replyTo e r.word7 = some (t, o, q) →
      s.inChan t o q = some ch → ch.free = true → Gives (.engineReply e) s fun s' => left s' ∧
        s'.inChan t o q = some (ch.push s.fc (s.after t o 1) (narrowTok 0 (statusWord r))))) ∧
  (∀ (s : State) (e : EngineRef) (b : Inbox) (t oq : Nat) (tok : Token) (ch : Chan), s.inbox e = some b →
    b.held = some (t, oq, tok) → s.inChan t (oq / 16) (oq % 16) = some ch → ch.free = true →
    Gives (.replyTokenDeliver e) s fun s' => (∃ b', s'.inbox e = some b' ∧ b'.held = none) ∧
      s'.inChan t (oq / 16) (oq % 16) = some (ch.push s.fc (s.after t (oq / 16) 1) tok))

/-! ## Requests and task graphs (14_deadlines_power_steps.md, 17_jacobi_on_device.md, 21_task_graphs.md, 24_host_links_power_fail.md) -/

/-- R263, R397, R398, R364: a request at the head of its queue that passes its checks starts a launch, adds to a counter,
ends a wait or cancels a launch, and the head of the queue moves on. A CANCEL lets the tasks that end in its fc end first, and a stop
instant of its fc take effect. A LAUNCH waits for the hashes of pages that it reads (R165; log entry 93). -/
def Obligations.Requests : Prop :=
  ∀ (s : State) (aqi q : Nat) (p : Packet), s.requestHead aqi q = some p → s.revoked.contains (Packet.pasid p) = false →
    s.reqOk aqi q p = true →
    let moved (s' : State) : Prop := q ≠ intakeQ → ∀ u, s.queue aqi q = some u →
      (s'.queue aqi q).map (·.head) = some (if u.head + 1 < u.size then u.head + 1 else 0)
    let n := Packet.tlid p
    (s.launchWaits p = true → exec (.launch aqi q p) s = .next s) ∧
    (∀ i o first, s.launchWaits p = false → s.launchOk aqi p = true → s.launchObj p = some (i, o, first) →
      let x := s.newLaunch aqi q p i o first
      (x.timed = false ∨ (s.clock.start.toNat : Int) ≤ x.stopAt → Gives (.launch aqi q p) s fun s' => moved s' ∧
        s'.nextLaunch = s.nextLaunch + 1 ∧ ∃ y, (s.nextLaunch, y) ∈ s'.launches ∧ y.lctx = Packet.lctx p ∧
          y.useq = useqOf p ∧ y.deadline = p.dbl 2 ∧ y.look = some first ∧ y.obj = i ∧ y.ended = false ∧ y.sets = []) ∧
      (x.timed = true → x.stopAt < (s.clock.start.toNat : Int) → Gives (.launch aqi q p) s fun s' => moved s' ∧
        s'.launches = s.launches ∧ s'.nextLaunch = s.nextLaunch)) ∧
    (s.queueLaunches aqi q = [] → s.tlBad n = false → Gives (.reqSignal aqi q p) s fun s' => moved s' ∧
      s'.tl n = s.tl n + p.dbl 7 ∧ ∀ g, g ≠ n → s'.tl g = s.tl g) ∧
    (s.tlBad n = false → (p.dbl 7).toNat ≤ (s.tl n).toNat → Gives (.reqWait aqi q p) s fun s' => moved s' ∧
      s'.timeline = s.timeline) ∧
    (∀ z, ((s.queueLaunches aqi q).find? fun z => z.2.useq == (p.dbl 7).extractLsb' 0 32 && !z.2.cancelled) = some z →
      (s.owesEnd (fun k => k.launch == z.1) = true ∨ s.stopOwed z.2 = true → exec (.cancel aqi q p) s = .next s) ∧
      (s.owesEnd (fun k => k.launch == z.1) = false → s.stopOwed z.2 = false → Gives (.cancel aqi q p) s fun s' => moved s' ∧
        ∃ y, s'.launch z.1 = some y ∧ y.cancelled = true ∧ y.look = none ∧ y.ahead = []))

/-- R310 to R313, R363, R364, R366, R368: what the issue stage does with the node at its head. That a TCB takes the launch's RSEQ
when it enters READY is log entry 59. -/
def Obligations.TaskGraphNodes : Prop :=
  ∀ (s : State) (l : Nat) (n : Packet) (x : Launch), s.issuing l n = some x →
    let passes (i : Instr) : Prop := Gives i s fun s' => ∃ y, s'.launch l = some y ∧ y = { x with ahead := x.ahead.drop 1 }
    passes (.nodeCond l n) ∧ passes (.nodeLoop l n) ∧ passes (.nodeCall l n) ∧
    Gives (.nodeWrap l n) s (fun s' => ∃ y, s'.launch l = some y ∧ y.wrapList = some (nodeF4 n) ∧
      y.ahead = x.ahead.drop 1) ∧
    (s.allFinal l = true → Gives (.nodeJoin l n) s fun s' => ∃ y, s'.launch l = some y ∧ y.joinHeld = false ∧
      y.ahead = x.ahead.drop 1) ∧
    (s.tlBad (nodeF4 n) = false → (n.dbl 1).toNat ≤ (s.tl (nodeF4 n)).toNat → passes (.nodeWait l n)) ∧
    (s.allFinal l = true → s.tlBad (nodeF4 n) = false → Gives (.nodeSignal l n) s fun s' =>
      s'.tl (nodeF4 n) = s.tl (nodeF4 n) + n.dbl 1 ∧ ∃ y, s'.launch l = some y ∧ y.ahead = x.ahead.drop 1) ∧
    ((x.ahead.head?.bind (·.arm)) = none → Gives (.nodeEnd l n) s fun s' => ∃ y, s'.launch l = some y ∧ y.ended = true ∧
      y.look = none ∧ y.ahead = []) ∧
    ((x.ahead.head?.bind (·.arm)).isSome = true → passes (.nodeEnd l n)) ∧
    (∀ o va pool, s.objs[x.obj]? = some o → (∀ set, x.chain = some set → s.setFinal x.lctx set = true) →
      (pool = false ∧ s.nodeTcb x o.va n = .named va ∨ pool = true ∧ s.nodeTcb x o.va n = .pool va) →
      let set := if pool then [va] else s.taskSet x.lctx va
      (∀ v ∈ set, s.inLiveSet x.lctx v = false) → (pool = true ∨ s.selfNaming x.lctx set = false) →
      Gives (.nodeTask l n) s fun s' => ∃ e y, s'.ready = s.ready ++ [e] ∧ e.launch = l ∧ e.tcb = va ∧ e.cls = x.cls ∧
        e.rseq = x.rseq ∧ e.bypass = 0 ∧ s'.launch l = some y ∧ y.chain = some set ∧ y.rseq = x.rseq + 1 ∧
        y.ahead = x.ahead.drop 1)

/-! ## Admin commands (24_host_links_power_fail.md) -/

/-- R11, R13, R261, R272, R325, R329, R352, R388, R391, R401 to R404, R410, R411: what each admin command at the head of the
admin queue does when its operands are in order. The places of the operands are log entry 41, the window of a new context is log
entry 64, and when a context is freed is log entry 65. -/
def Obligations.AdminCommands : Prop :=
  ∀ (s : State) (p : Packet), s.adminOpen = true → s.adminQ.head? = some p → (s.ctxs.map (·.1)).Nodup →
    let a0 := arg p 0
    let a1 := arg p 1
    let r := knotRect p
    (∀ base, let c := newCtx (BitVec.ofNat 1024 (s.readLoc (.host a1) 128))
      a0 < 256 → s.ctx a0 = none → c.recordOk = true → s.windowFor c.shmLen = some base →
      (∀ d ∈ s.ctxs, c.meets d.2 = false) →
      Gives (.createCtx p) s fun s' => s'.ctx a0 = some { c with shmBase := base }) ∧
    (∀ c, s.ctx a0 = some c → c.dead = false →
      (s.ctxOver a0 = true → Gives (.destroyCtx p) s fun s' => s'.ctx a0 = none) ∧
      (s.ctxOver a0 = false → Gives (.destroyCtx p) s fun s' => ∃ c', s'.ctx a0 = some c' ∧ c'.dead = true)) ∧
    (let size := ((p.dbl 7).extractLsb' 0 32).toNat
     let irq := ((p.dbl 7).extractLsb' 32 32).toNat
     a0 < 8 → a1 < 64 → arg p 2 < 2 ^ 20 → arg p 3 < 2 ^ 57 → arg p 4 < 2 ^ 57 → 16 ≤ size → size ≤ 65536 →
      irq < 64 ∨ irq = 2 ^ 32 - 1 → s.queue a0 a1 = none → Gives (.createQueue p) s fun s' =>
      ∃ u, s'.queue a0 a1 = some u ∧ u.pasid = arg p 2 ∧ u.ring = arg p 3 ∧ u.comp = arg p 4 ∧ u.size = size ∧
        u.irq = (if irq < 64 then some irq else none) ∧ u.head = 0 ∧ u.tail = 0) ∧
    (a0 < 8 → a1 < 2 ^ 20 → (s.owesEnd (s.ofPasid a1) = true → exec (.revokePasid p) s = .next s) ∧
      (s.owesEnd (s.ofPasid a1) = false → Gives (.revokePasid p) s fun s' => a1 ∈ s'.revoked)) ∧
    (let o := s.objAtVa a0 a1
     a0 < 2 ^ 57 → a1 < 2 ^ 20 → s.objCrcOk o = true → s.objHeaderOk o = true →
      (if o.signed then s.objSigned o = true ∧ s.pageGood o 0 = true else ∃ a ∈ s.aqisOf a1, a.2.unsignedOk = true) →
      Gives (.registerObj p) s fun s' => ∃ z ∈ s'.objs, z.va = a0 ∧ z.pasid = a1 ∧ z.tainted = false ∧ z.size = o.size) ∧
    (a0 < 2 ^ 20 → a1 < 2 ^ 57 → Gives (.invalidate p) s fun s' => s'.tlb = s.tlb.filter fun e =>
      !(e.pasid == a0 && (decide (e.va < a1 + arg p 2) && decide (a1 < e.va + e.size)))) ∧
    (∀ q m x, a1 ≤ 1 → (s.pageReqs.find? fun q => q.tag == (argD p 0).extractLsb' 0 32 && q.host == false) = some q →
      s.mnode q.t q.o = some m → m.stall = some x → x.tag = q.tag → x.waiting = true →
      Gives (.pageReply p) s fun s' => ∃ m', s'.mnode q.t q.o = some m' ∧
        m'.stall = some { x with waiting := false, refused := decide (a1 = 1) }) ∧
    (∀ c, s.ctx a0 = some c → c.dead = false → c.pauseTag = none → s.saveFits a0 c = true → (argD p 1).getLsbD 63 = false →
      Gives (.pause p) s fun s' => (∃ c', s'.ctx a0 = some c' ∧ (c'.pausing = true ∨ c'.paused = true)) ∧
        ∀ t k, s.task t = some k → k.lctx = a0 → k.status = .running →
          ∃ k', s'.task t = some k' ∧ k'.status = .pausing ∧ k'.pauseFor = 0) ∧
    (∀ c, s.ctx a0 = some c → c.dead = false → c.pausing = false → c.resumeTag = none →
      Gives (.resume p) s fun s' => (∃ c', s'.ctx a0 = some c' ∧ c'.paused = false) ∧
        ∀ z ∈ s.tasks, z.2.lctx = a0 → z.2.status = .paused → .again z.1 ∈ s'.requests) ∧
    (r.onDevice = true → Gives (.knotSet p) s fun s' => (∀ t ∈ r.tiles, t ∈ s'.knots) ∧
      ∀ t k, s.task t = some k → k.status = .running → (∃ i ∈ r.tiles, (aget i k.entries).isSome = true) →
        ∃ k', s'.task t = some k' ∧ k'.status = .pausing) ∧
    (r.onDevice = true → (∀ t ∈ r.tiles, t ∉ s.flash.fused) → Gives (.knotClear p) s fun s' => ∀ t,
      t ∈ s'.knots ↔ t ∈ s.knots ∧ t ∉ r.tiles) ∧
    (a0 < 16 → Gives (.pstep p) s fun s' => s'.power = { s.power with adm := BitVec.ofNat 4 a0 }) ∧
    (let off := (argD p 0).toInt
     (off.natAbs < 1000000 → Gives (.clockOffset p) s fun s' => s'.clock.slew = off * 18000 ∧ s'.clock.ns = s.clock.ns ∧
       s'.clock.src = 2 ∧ s'.clock.set = true) ∧
     (1000000 ≤ off ∨ off ≤ -1000000 ∧ s.timedLaunch = false → Gives (.clockOffset p) s fun s' => s'.clock.slew = 0 ∧
       s'.clock.ns = s.clock.ns + BitVec.ofInt 64 off ∧ s'.clock.src = 2)) ∧
    (a0 < 8 → (s.owesEnd (s.ofAqi a0) = true → exec (.aqiReset p) s = .next s) ∧
      (s.owesEnd (s.ofAqi a0) = false → Gives (.aqiReset p) s fun s' =>
        (∀ c x, s'.ctx c = some x → x.aqi = a0 → x.dead = true) ∧ ∀ z ∈ s'.intake, z.2.1 ≠ a0)) ∧
    (a0 = 0 → Gives (.restore p) s fun s' => s'.dev.pend = false ∧ s'.tasks = s.tasks) ∧
    (∀ img i, (a0 = 1 ∨ a0 = 2) → s.flash.slot a0 = some img → img.valid = true → img.ctxs = [i] → i.good = true →
      s.partLive i = false → Gives (.restore p) s fun s' => ∃ c, s'.ctx i.lctx = some c ∧ c.record = i.ctx.record ∧
        c.paused = true ∧ c.pausing = false) ∧
    (∀ c, s.ctx a0 = some c → a1 < 4 → arg p 2 < 2 ^ 57 → s.keepTotal a0 a1 + arg p 3 ≤ 2 ^ 29 →
      Gives (.keep p) s fun s' => ∃ c', s'.ctx a0 = some c' ∧ (a1, arg p 2, arg p 3) ∈ c'.keeps) ∧
    (s.hasCounter a0 a1 = true → Gives (.tlClear p) s fun s' => s'.tl a1 = 0 ∧ s'.tlBad a1 = false ∧
      ∀ n, n ≠ a1 → s'.tl n = s.tl n)

/-! ## The lives of tasks and launches (03_graphs_and_the_joiner.md, 14_deadlines_power_steps.md, 21_task_graphs.md, 23_scheduling_faults.md) -/

/-- R12, R49, R58, R165, R270, R371, R377, R378, R383, R390, R394: selection, placement, phases, freezes, pauses and the end of
tasks. The balance of a task with its subgraphs, and that of a new phase, are log entry 76; the 20 us are taken on the time since
reset (log entry 67). -/
def Obligations.TaskLives : Prop :=
  (∀ (s : State) (t o : Nat) (p : Op) (k : Task) (c : Ctx) (code : BitVec 7) (d : Word), s.op t o = some p →
    s.task t = some k →
    p.fault = some (code, d) → p.recorded = false → s.ctx k.lctx = some c → c.faults.length < 256 →
    Gives (.freezeRecord t o) s fun s' => (∃ k', s'.task t = some k' ∧ k'.status = .stopping) ∧
      (∃ p', s'.op t o = some p' ∧ p'.recorded = true ∧ p'.fault = some (code, d)) ∧
      ∃ c' e, s'.ctx k.lctx = some c' ∧ c'.faults = c.faults ++ [(k.launch, e)]) ∧
  (∀ (s : State) (lctx : Nat) (c : Ctx), s.ctx lctx = some c → c.pausing = false → c.paused = false → 4095 ≤ c.idle →
    s.balanceOf lctx ≠ 0 → s.ctxBusy lctx c = false → s.ticksBy (s.slowest (s.ctxTiles lctx)) = true →
    Gives (.stuckTimeout lctx) s fun s' => (∃ c', s'.ctx lctx = some c' ∧ c'.idle = 0) ∧
      ∀ t k, s.task t = some k → k.lctx = lctx → k.parent = none → k.status ≠ .stopping →
        s.familyBalance t ≠ 0 → ∃ k', s'.task t = some k' ∧ k'.status = .stopping) ∧
  (∀ (s : State) (t o : Nat) (k : Task), s.task t = some k → k.status = .pausing →
    (∀ f, s.firingOf t o = some f → 4096 ≤ k.pauseFor →
      Gives (.pauseFiringLimit t o) s fun s' => s'.firingOf t o = some { f with saved := true }) ∧
    (∀ f at_, s.firingOf t o = some f → s.dev.failAt = some at_ → at_ + 20000 * nsUnits ≤ s.clock.run →
      Gives (.powerFailFiringSave t o) s fun s' => s'.firingOf t o = some { f with saved := true }) ∧
    (k.ops.all (Op.stopped? k.pauseLate) = true → s.taskOver t k = false →
      Gives (.pauseComplete t) s fun s' => ∃ k', s'.task t = some k' ∧ k'.wcb = [] ∧
        (k.wcb = [] → k.ops.all (Op.settled k.pauseLate) = true → s.bankRuns k.lctx = false →
          k'.status = .paused ∧ k'.regions = []))) ∧
  (∀ (s : State) (t : Nat) (k : Task), s.task t = some k →
    (k.status = .running → k.phase + 1 < k.graphs.length → k.blocked = [] → (k.ops.all (·.fault.isNone)) = true →
      k.sinksDone = true → k.storesOut = false → s.spawning t = false →
      Gives (.phaseStep t) s fun s' => ∃ k', s'.task t = some k' ∧ k'.phase = k.phase + 1 ∧ k'.balance = 0) ∧
    (k.status = .running → s.taskOver t k = true → k.parent = none → Gives (.taskComplete t) s fun s' =>
      s'.tasks.length + 1 = s.tasks.length) ∧
    (k.status = .running ∨ k.status = .pausing → k.wrapMark = true → k.wrapActors ≠ [] →
      (k.wrapActors.all (·.committed)) = true →
      (k.ops.all (·.fault.isNone)) = true → k.storesOut = false → s.hasKids t = false →
      Gives (.wrapComplete t) s fun s' => s'.tasks.length + 1 = s.tasks.length)) ∧
  (∀ (s : State) (r : Ready) (rest : List Ready), s.placing = none →
    (s.requests = [] → s.readyOrder = r :: rest → s.readyUnhashed r = true → exec .readyQueueSelect s = .next s) ∧
    (s.requests = [] → s.readyOrder = r :: rest → s.readyUnhashed r = false → s.readyBlocked r = false → Gives .readyQueueSelect s fun s' =>
      s'.requests = [.ready r] ∧ s'.held = false) ∧
    (∀ more x n q, s.dev.halt = false → s.dev.failAt = none → s.requests = .ready r :: more → s.launch r.launch = some x →
      x.paused = false → (s.ready.any fun e => e.launch == r.launch && e.tcb == r.tcb) = true →
      s.tcbState x.lctx r.tcb = 1 →
      ({ s with requests := more }).readyOut r = (n, some q) → n ≠ 5 → mayPass (s.readyAhead r) = true →
      Gives .joinerPlacementBegin s fun s' => s'.placing = some q ∧ s'.requests = more ∧
        (∀ e ∈ s'.ready, ¬(e.launch = r.launch ∧ e.tcb = r.tcb)) ∧
        ∀ e ∈ s.readyAhead r, { e with bypass := min 16 (e.bypass + 1) } ∈ s'.ready) ∧
    (∀ more t k, s.dev.halt = false → s.dev.failAt = none → s.requests = .again t :: more → s.task t = some k →
      k.status = .paused → (s.ctxHeld k.lctx = false ∨ k.wrapping = true) → Gives .joinerPlacementBegin s fun s' =>
      ∃ q, s'.placing = some q ∧ q.req = .again t ∧ q.lctx = k.lctx ∧
        ∀ o, s.objs[k.obj]? = some o → q.graphs = k.graphs.map (({ s with requests := more } : State).resolveGraph o k.frame)) ∧
    (∀ more t o rec k, s.dev.halt = false → s.dev.failAt = none → s.requests = .spawn t o rec :: more → s.task t = some k →
      k.status ≠ .stopping → Gives .joinerPlacementBegin s fun s' =>
      ∃ q, s'.placing = some q ∧ q.req = .spawn t o rec ∧ q.lctx = k.lctx)) ∧
  (∀ (s : State) (q : Placing) (o : Obj) (c : PlaceChoice), s.placing = some q → s.objs[q.obj]? = some o →
    (∀ i ∈ q.pages, o.unhashed i = false ∧ i ∉ o.failed) →
    (∀ r bay caps regions, q.req = .ready r → q.out = .fits bay none →
      s.judge q.lctx bay q.graphs q.graphs c [] = .ok caps regions →
      Gives (.placementEnd c) s fun s' => s'.placing = none ∧ ∃ k, s'.task s.nextTask = some k ∧ k.bay = bay ∧
        k.lctx = q.lctx ∧ k.tcb = q.tcb ∧ k.phase = 0 ∧ k.regions = regions ∧ k.startAt = s.fc) ∧
    (∀ code who image, q.out = .report code who image → Gives (.placementEnd c) s fun s' => s'.placing = none)) ∧
  (∀ (s : State) (i page : Nat) (o : Obj), s.objs[i]? = some o → o.unhashed page = true → s.pageRead i page = true →
    Gives (.pageHashComplete i page) s fun s' => ∃ o', s'.objs[i]? = some o' ∧
      if s.pageGood o page then page ∈ o'.verified
      else page ∈ o'.failed ∧ o'.tainted = true ∧ ∀ q, s.placing = some q → q.reads i page = true → s'.placing = none)

/-- R173, R264, R265, R271, R311, R312, R368, R369, R375, R387: the look-ahead stage reads nodes, and stop instants, wrap
marks, deadlines, fault service routines and completions take effect. That a walk without a wrap-up list ends at the stop instant is
log entry 58, and what becomes of paused tasks there is log entry 101; that a load on its way writes nothing once a routine has been
entered is log entry 19. -/
def Obligations.LaunchLives : Prop :=
  ∀ (s : State) (l : Nat) (x : Launch), s.launch l = some x →
    (∀ off o, x.look = some off → s.objs[x.obj]? = some o → x.joinHeld = false → x.ahead.length < 64 → x.halted = false →
      x.cancelled = false → s.powered = true → o.registered = true →
      let n := s.nodeAt o off
      (∀ i ∈ s.nodePages x o off n, o.unhashed i = false ∧ i ∉ o.failed) → s.nodeOk o x.list off n = true →
      (nodeKind n ∈ [1, 6, 7, 8] → Gives (.lookaheadNodeRead l) s fun s' => ∃ y, s'.launch l = some y ∧
        y = { x with look := some (off + 64), ahead := x.ahead ++ [{ node := n, off := off, arm := none, halt := none }],
                     passes := s.enterBody o x.calls.length (off + 64) x.passes }) ∧
      (nodeKind n = 4 → Gives (.lookaheadNodeRead l) s fun s' => ∃ y, s'.launch l = some y ∧ y.joinHeld = true ∧
        y.look = some (off + 64))) ∧
    (x.over = true → s.allFinal l = true → (∀ z ∈ s.tasks, z.2.launch ≠ l) → (∀ q, s.placing = some q → q.launch ≠ l) →
      (∀ w ∈ s.spans, w.write = true → w.core = none → w.launch ≠ l) → s.fsrOver l x = true →
      Gives (.launchComplete l) s fun s' => s'.launches.length + 1 = s.launches.length ∧ l ∉ s'.fsrQueue) ∧
    (∀ rest k i o, s.fsrQueue = l :: rest → lfind Core.takesFsr s.cores = some k → x.fsr = some i →
      s.objs[x.obj]? = some o →
      Gives .fsrEntry s fun s' => s'.fsrQueue = rest ∧ (s'.core k).fsr = some l ∧ (s'.core k).super = false ∧
        (s'.core k).reg 1 = x.farg ∧ (∀ n, n ≠ 1 → (s'.core k).reg n = 0) ∧ (s'.core k).lctx = x.lctx % 256 ∧
        (s'.core k).pc = BitVec.ofNat 64 (o.va + (s.coreSecs o).getD i 0) ∧ ∀ z ∈ (s'.core k).loads, z.d = 0) ∧
    (x.timed = true → x.cancelled = false →
      (x.stopDone = false → x.stopAt ≤ (s.clock.start.toNat : Int) →
        s.owesEnd (fun k => k.launch == l) = true ∨ s.leftUnhashed x = true → exec (.stopInstant l) s = .next s) ∧
      (x.stopDone = false → x.stopAt ≤ (s.clock.start.toNat : Int) → s.owesEnd (fun k => k.launch == l) = false →
        s.leftUnhashed x = false → Gives (.stopInstant l) s fun s' =>
        (∃ y, s'.launch l = some y ∧ y.stopDone = true ∧ y.ahead = [] ∧
          (x.wrapList = none → y.ended = true ∧ y.look = none) ∧
          ∀ w, x.wrapList = some w → x.halted = false → (∀ a ∈ x.ahead, a.halt = none) → y.look = some w ∧
          y.inWrap = true) ∧
        ∀ t k, s.task t = some k → k.launch = l → k.wrapX = false →
          (k.status = .running ∨ k.status = .pausing →
            ∃ k', s'.task t = some k' ∧ k'.wrapDue = some (s.fc + 1 + 6 * k.bay.hops)) ∧
          (k.status = .paused → (∃ k', s'.task t = some k' ∧ k'.wrapDue = some s.fc) ∧ .again t ∈ s'.requests)) ∧
      (x.stopDone = true → x.deadlineDone = false → x.deadline ≤ s.clock.start → Gives (.deadlineFc l) s fun s' =>
        (∃ y, s'.launch l = some y ∧ y.deadlineDone = true) ∧
        ∀ t k, s.task t = some k → k.launch = l → k.parent = none → k.status ≠ .stopping →
          (∀ z ∈ s.family t, (z.2.ops.all (·.fault.isNone)) = true) → ∃ k', s'.task t = some k' ∧ k'.status = .stopping)) ∧
    (∀ t k due, s.task t = some k → k.launch = l → k.wrapDue = some due → due ≤ s.fc → k.status = .running →
      x.deadlineDone = false → Gives (.wrapTokenArrive t) s fun s' => ∃ k', s'.task t = some k' ∧ k'.wrapMark = true ∧
        k'.wrapDue = none)

/-! ## Clocks, power, resets, errors and the span transport (14_deadlines_power_steps.md, 23_scheduling_faults.md, 24_host_links_power_fail.md) -/

/-- R152, R260, R261, R272, R273, R275, R397, R408: the deadline clock, the levers of the power manager, notify writes and
writes to the management space. What holds an fc is the model's choice (log entries 3, 99 and 100), and the 16 us of R273 are taken on
the time since reset (log entry 67). -/
def Obligations.ClocksAndPower : Prop :=
  ∀ (s : State),
    (s.fcOwes = true → exec .deadlineClockAdvance s = .next s) ∧
    (s.fcOwes = false → Gives .deadlineClockAdvance s fun s' => s'.fc = s.fc + 1 ∧ s'.clock = s.clock.tick s.power.fcLen ∧
      ∀ k, k < s.cores.length → (s'.core k).cycle = (s.core k).cycle + BitVec.ofNat 64 (s.power.coreCycles s.fc)) ∧
    (∀ off : Int,
      (off.natAbs < 1000000 → Gives (.ieee1588Timestamp off) s fun s' => s'.clock.slew = off * 18000 ∧
        s'.clock.ns = s.clock.ns ∧ s'.clock.src = 1 ∧ s'.clock.set = true) ∧
      (1000000 ≤ off ∨ off ≤ -1000000 ∧ s.timedLaunch = false → Gives (.ieee1588Timestamp off) s fun s' =>
        s'.clock.slew = 0 ∧ s'.clock.ns = s.clock.ns + BitVec.ofInt 64 off ∧ s'.clock.src = 1)) ∧
    (∀ level, Gives (.pstepStrobe level) s fun s' => s'.power = { s.power with pin := level, ack := false }) ∧
    (∀ draw, (draw ≤ s.power.cap → Gives (.powerCapMet draw) s fun s' => s'.power = { s.power with ack := true }) ∧
      (s.power.cap < draw → s.power.lever < 13 → Gives (.powerLeverEngage draw) s fun s' =>
        s'.power = { s.power with lever := s.power.lever + 1 }) ∧
      (draw + 150 ≤ s.power.cap → 0 < s.power.lever → Gives (.powerLeverRelease draw) s fun s' =>
        s'.power = { s.power with lever := s.power.lever - 1 })) ∧
    (∀ stack pc, s.power.lever = 13 → stack < 8 → pc < 256 →
      ((aget (stack, pc) s.power.access).getD 0) + idlePc ≤ s.clock.run →
      (stack, pc) ∉ s.power.down → Gives (.hbmPcPowerDown stack pc) s fun s' => s'.power.down = (stack, pc) :: s.power.down) ∧
    (∀ aqi q v u, s.queue aqi q = some u → u.pasid = (v.extractLsb' 44 20).toNat → s.revoked.contains u.pasid = false →
      Gives (.notifyWrite aqi q v) s fun s' => s'.queue aqi q = some { u with tail :=
        if u.head + u.size < (v.extractLsb' 0 32).toNat then (v.extractLsb' 0 32).toNat % u.size else (v.extractLsb' 0 32).toNat }) ∧
    (∀ k n i v, k < 16 → k < s.cores.length → n < 16 → i < 8 →
      Gives (.mgmtRegisterWrite (BitVec.ofNat 64 (0x900000 + 0x1000 * k + 0x40 * n + 8 * i)) v) s (fun s' =>
        (s'.core k).tmpls[n]? = ((s.core k).tmpls[n]?).map fun m => { m with image := Packet.setDbl m.image i v }) ∧
      Gives (.mgmtRegisterWrite (BitVec.ofNat 64 (0x900000 + 0x1000 * k + 0x400 + 8 * n)) v) s (fun s' =>
        (s'.core k).tmpls[n]? = ((s.core k).tmpls[n]?).map fun m => { m with desc := descBits v })) ∧
    (∀ tag ok q m x, (s.pageReqs.find? fun q => q.tag == tag && q.host == true) = some q → s.mnode q.t q.o = some m →
      m.stall = some x → x.tag = q.tag → x.waiting = true →
      Gives (.pageRequestInterfaceResponse tag ok) s fun s' => ∃ m', s'.mnode q.t q.o = some m' ∧
        m'.stall = some { x with waiting := false, refused := !ok })

/-- R405, R406, R409 to R412, R381, R384: remote accesses, power failure, resets, and errors in tiles. What makes an image valid, and
what a reset leaves of one that is being written, is log entry 118. -/
def Obligations.FailuresAndSpans : Prop :=
  (∀ (s : State) (src : Nat) (a : SpanAccess) (c : Ctx) (l : Loc), s.dev.halt = false → src < 2 ^ 20 → s.memOk →
    s.ctx a.lctx = some c → a.offset.toNat + min a.bytes 128 ≤ c.spanLen →
    (a.write = true → s.xlateNow a.lctx (c.span + a.offset.toNat) (min a.bytes 128) 1 = .at_ l →
      Gives (.spanFrameReceive src [a]) s fun s' =>
        s'.readLoc l (min a.bytes 128) = a.data.toNat % 2 ^ (8 * min a.bytes 128) ∧
        sameBut s.mem s'.mem l.key (min a.bytes 128)) ∧
    (a.write = false → Gives (.spanFrameReceive src [a]) s fun s' => s'.mem = s.mem ∧ s'.tasks = s.tasks)) ∧
  (∀ (s : State) (x : SpanOut), (s.spans.find? fun y => y.id == x.id) = some x →
    exec (.flitRetry x.id) s = .next s ∧
    (x.write = true → s.dev.halt = false → Gives (.spanAckReceive x.id true 0) s fun s' =>
      s'.spans = s.spans.filter (fun y => y.id != x.id) ∧ s'.tasks = s.tasks) ∧
    (∀ m a data, x.write = false → x.bank = none → x.core = none → s.mnode x.t x.o = some m → m.accs = [a] → a.k = x.k → a.write = false →
      a.done = false →
      (s.dev.halt = false → Gives (.spanAckReceive x.id true data) s fun s' => ∃ m', s'.mnode x.t x.o = some m' ∧
        m'.accs = [{ a with done := true, val := data }] ∧ m'.bad = m.bad) ∧
      (x.at_ + spanTimeout ≤ s.clock.run → Gives (.spanAccessTimeout x.id) s fun s' => ∃ m' b, s'.mnode x.t x.o = some m' ∧
        m'.accs = [b] ∧ b.done = true ∧ b.poison = some (s.origin x.t x.o Code.xlate) ∧ m'.bad.isSome = true))) ∧
  (∀ (s : State), s.dev.halt = false →
    (s.dev.failAt = none → Gives .powerFail s fun s' => s'.dev.failAt = some s.clock.run ∧
      (∀ w ∈ s'.spans, w.write = false) ∧
      ∀ t k, s.task t = some k → (s.ctx k.lctx).isSome = true → k.status = .running →
        ∃ k', s'.task t = some k' ∧ k'.status = .pausing) ∧
    (s.dev.failAt.isSome = true → s.atRest = true → Gives .heartwoodWriteEnd s fun s' => s'.dev.halt = true ∧
      ∃ i, s'.flash.slot (if s.flash.newest = 1 then 2 else 1) = some i ∧ i.valid = true ∧ i.knots = s.knots ∧
        i.seq = ((s.flash.slot s.flash.newest).map (·.seq)).getD 0 + 1)) ∧
  (∀ (s : State), Gives .coldReset s fun s' => (∀ a, memGet s'.mem a = if isFar a then memGet s.mem a else 0) ∧
    s'.tasks = [] ∧ s'.ctxs = [] ∧ s'.flash = s.cutShort ∧ (s.dev.failAt = none → s'.flash = s.flash) ∧ s'.dev.ready = true ∧
    s'.dev.halt = false ∧ ∀ t, t ∈ s'.knots ↔ t ∈ s.flash.fused ∨ t ∈ s.flash.retired) ∧
  (∀ (s : State), (s.ctxs.map (·.1)).Nodup →
    (s.owesEnd (fun _ => true) = true → exec .functionLevelReset s = .next s) ∧
    (s.owesEnd (fun _ => true) = false → Gives .functionLevelReset s fun s' => ∀ c x, s'.ctx c = some x → x.dead = true)) ∧
  (∀ (s : State) (x y : Nat), tileOk x y = true →
    let tile := tileKey x y
    ((s.recentErrs (s.tile tile).errs).length < 7 → Gives (.eccCorrectable x y) s fun s' =>
      (s'.tile tile).errs = s.recentErrs (s.tile tile).errs ++ [s.tai.toNat] ∧ s'.flash = s.flash) ∧
    (7 ≤ (s.recentErrs (s.tile tile).errs).length → Gives (.eccCorrectable x y) s fun s' => tile ∈ s'.flash.retired) ∧
    Gives (.correctableErrorAgeOut x y) s (fun s' => (s'.tile tile).errs = s.recentErrs (s.tile tile).errs) ∧
    (∀ off, Gives (.eccUncorrectable x y (.granule off)) s fun s' =>
      (∀ g ∈ granules tile (off / 16 * 16) 16, s'.tag g = 2) ∧ tile ∈ s'.flash.retired ∧
        (s'.tile tile).uncorrected = (s.tile tile).uncorrected + 1)) ∧
  (∀ (s : State) (t o word : Nat) (p : Op), s.op t o = some p → p.fault = none →
    Gives (.cfgParityError t o word) s fun s' => (∃ p', s'.op t o = some p' ∧
      p'.fault = some (Code.cfgParity, BitVec.ofNat 32 word)) ∧ tileKey p.place.x p.place.y ∈ s'.flash.retired)
end

