-- ==== Sys2Proof/Laws/Arith.lean ====
section
/-! SUPPORT. The integer operations of the model are those of bit vectors (R113 to R118). -/
namespace Sys2Proof.Machine

variable {m : Nat}

theorem sgn_toNat (x : BitVec m) : sgn m x.toNat = x.toInt := by
  unfold sgn
  rw [BitVec.toInt_eq_toNat_cond]
  rcases Nat.eq_zero_or_pos m with rfl | h
  · have := x.isLt; simp at this; simp [this]
  · have : 2 ^ m = 2 * 2 ^ (m - 1) := by rw [← Nat.pow_succ']; congr 1; omega
    split <;> split <;> first | rfl | omega

theorem wrapI_eq (i : Int) : wrapI m i = (BitVec.ofInt m i).toNat := by
  simp [wrapI, BitVec.toNat_ofInt]

theorem withOvt_eq (b : Bool) (i : Int) (h : b = true → overflows m i = false) :
    withOvt m b i = .ok (BitVec.ofInt m i).toNat := by
  unfold withOvt
  cases b
  · simp [wrapI_eq]
  · simp [h rfl, wrapI_eq]

theorem aluAdd_eq (x y : BitVec m) : aluAdd false m x.toNat y.toNat = .ok (x + y).toNat := by
  simp [aluAdd, sgn_toNat, withOvt_eq, BitVec.ofInt_add]

theorem aluSub_eq (x y : BitVec m) : aluSub false m x.toNat y.toNat = .ok (x - y).toNat := by
  simp only [aluSub, sgn_toNat]
  rw [withOvt_eq _ _ (by simp), Int.sub_eq_add_neg, BitVec.ofInt_add, BitVec.ofInt_neg, BitVec.ofInt_toInt, BitVec.ofInt_toInt,
    BitVec.sub_eq_add_neg]

theorem aluMul_eq (x y : BitVec m) : aluMul false m x.toNat y.toNat = .ok (x * y).toNat := by
  simp [aluMul, sgn_toNat, withOvt_eq, BitVec.ofInt_mul]

theorem aluAdds_eq (x y : BitVec m) : aluAdds m x.toNat y.toNat = .ok (clampV m (x.toInt + y.toInt)).toNat := by
  simp [aluAdds, sgn_toNat, wrapI_eq, clampI, clampV]

theorem aluSubs_eq (x y : BitVec m) : aluSubs m x.toNat y.toNat = .ok (clampV m (x.toInt - y.toInt)).toNat := by
  simp [aluSubs, sgn_toNat, wrapI_eq, clampI, clampV]

theorem aluAnd_eq (x y : BitVec m) : aluAnd m x.toNat y.toNat = .ok (x &&& y).toNat := rfl
theorem aluOr_eq (x y : BitVec m) : aluOr m x.toNat y.toNat = .ok (x ||| y).toNat := rfl
theorem aluXor_eq (x y : BitVec m) : aluXor m x.toNat y.toNat = .ok (x ^^^ y).toNat := rfl

theorem aluAndn_eq (x y : BitVec m) : aluAndn m x.toNat y.toNat = .ok (x &&& ~~~y).toNat := by
  simp only [aluAndn, BitVec.toNat_and, BitVec.toNat_not, Nat.mod_eq_of_lt y.isLt]
  rfl

theorem aluDivu_eq (x y : BitVec m) (h : y ≠ 0) : aluDivu m x.toNat y.toNat = .ok (x.udiv y).toNat := by
  have : y.toNat ≠ 0 := fun c => h (by simpa using BitVec.eq_of_toNat_eq (x := y) (y := 0) (by simpa using c))
  simp [aluDivu, this]

theorem aluRemu_eq (x y : BitVec m) (h : y ≠ 0) : aluRemu m x.toNat y.toNat = .ok (x.umod y).toNat := by
  have : y.toNat ≠ 0 := fun c => h (by simpa using BitVec.eq_of_toNat_eq (x := y) (y := 0) (by simpa using c))
  simp [aluRemu, this]

theorem aluDiv_eq (x y : BitVec m) (h : y ≠ 0) : aluDiv false m x.toNat y.toNat = .ok (x.sdiv y).toNat := by
  have : y.toNat ≠ 0 := fun c => h (by simpa using BitVec.eq_of_toNat_eq (x := y) (y := 0) (by simpa using c))
  simp only [aluDiv, this, if_false, sgn_toNat]
  rw [withOvt_eq _ _ (by simp)]
  congr 2
  apply BitVec.eq_of_toInt_eq
  rw [BitVec.toInt_ofInt, BitVec.toInt_sdiv]

theorem aluRem_eq (x y : BitVec m) (h : y ≠ 0) : aluRem m x.toNat y.toNat = .ok (x.srem y).toNat := by
  have : y.toNat ≠ 0 := fun c => h (by simpa using BitVec.eq_of_toNat_eq (x := y) (y := 0) (by simpa using c))
  simp only [aluRem, this, if_false, sgn_toNat, wrapI_eq]
  congr 2
  apply BitVec.eq_of_toInt_eq
  rw [← BitVec.toInt_srem, BitVec.ofInt_toInt]

theorem aluShl_eq (x y : BitVec m) : aluShl m x.toNat y.toNat = .ok (x <<< (y.toNat % m)).toNat := by
  simp [aluShl, Nat.shiftLeft_eq]

theorem aluShr_eq (x y : BitVec m) : aluShr m x.toNat y.toNat = .ok (x >>> (y.toNat % m)).toNat := by
  simp [aluShr, Nat.shiftRight_eq_div_pow]

theorem aluSra_eq (x y : BitVec m) : aluSra m x.toNat y.toNat = .ok (x.sshiftRight (y.toNat % m)).toNat := by
  simp only [aluSra, sgn_toNat, wrapI_eq]
  congr 2
  apply BitVec.eq_of_toInt_eq
  have e : x.toInt / 2 ^ (y.toNat % m) = (x.sshiftRight (y.toNat % m)).toInt := by
    rw [BitVec.toInt_sshiftRight, Int.shiftRight_eq_div_pow]; norm_cast
  rw [e, BitVec.ofInt_toInt]

theorem aluMin_eq (x y : BitVec m) : aluMin m x.toNat y.toNat = .ok (if y.slt x then y else x).toNat := by
  simp only [aluMin, sgn_toNat, BitVec.slt]
  by_cases h : y.toInt < x.toInt <;> simp [h]

theorem aluMax_eq (x y : BitVec m) : aluMax m x.toNat y.toNat = .ok (if x.slt y then y else x).toNat := by
  simp only [aluMax, sgn_toNat, BitVec.slt]
  by_cases h : x.toInt < y.toInt <;> simp [h]

theorem aluMinu_eq (x y : BitVec m) : aluMinu m x.toNat y.toNat = .ok (if y.ult x then y else x).toNat := by
  simp only [aluMinu, BitVec.ult]
  by_cases h : y.toNat < x.toNat <;> simp [h] <;> omega

theorem aluMaxu_eq (x y : BitVec m) : aluMaxu m x.toNat y.toNat = .ok (if x.ult y then y else x).toNat := by
  simp only [aluMaxu, BitVec.ult]
  by_cases h : x.toNat < y.toNat <;> simp [h] <;> omega

theorem aluRotl_eq (x y : BitVec m) : aluRotl m x.toNat y.toNat = .ok (x.rotateLeft (y.toNat % m)).toNat := by
  rcases Nat.eq_zero_or_pos m with rfl | h
  · have := x.isLt; simp at this; simp [aluRotl, this]
  · simp only [aluRotl, BitVec.rotateLeft, BitVec.rotateLeftAux, Nat.mod_mod, BitVec.toNat_or, BitVec.toNat_shiftLeft,
      BitVec.toNat_ushiftRight, Nat.shiftLeft_eq, Nat.shiftRight_eq_div_pow]
    rfl

theorem aluMulhu_eq (x y : BitVec m) : aluMulhu m x.toNat y.toNat =
    .ok ((x.zeroExtend (2 * m) * y.zeroExtend (2 * m)).extractLsb' m m).toNat := by
  have hx := x.isLt
  have hy := y.isLt
  have h2 : 2 ^ m ≤ 2 ^ (2 * m) := Nat.pow_le_pow_right (by omega) (by omega)
  have hm : x.toNat * y.toNat < 2 ^ (2 * m) := by
    rw [Nat.two_mul, Nat.pow_add]; exact Nat.mul_lt_mul'' hx hy
  simp [aluMulhu, Nat.shiftRight_eq_div_pow, Nat.mod_eq_of_lt (lt_of_lt_of_le hx h2), Nat.mod_eq_of_lt (lt_of_lt_of_le hy h2),
    Nat.mod_eq_of_lt hm]

theorem aluMulh_eq (x y : BitVec m) : aluMulh m x.toNat y.toNat =
    .ok ((x.signExtend (2 * m) * y.signExtend (2 * m)).extractLsb' m m).toNat := by
  simp only [aluMulh, sgn_toNat]
  have e : (x.signExtend (2 * m) * y.signExtend (2 * m)) = BitVec.ofInt (2 * m) (x.toInt * y.toInt) := by
    rw [BitVec.ofInt_mul]; rfl
  rw [e, BitVec.extractLsb'_toNat, BitVec.toNat_ofInt, Nat.shiftRight_eq_div_pow]
  congr 1
  have hp : (0 : Int) ≤ (x.toInt * y.toInt) % 2 ^ (2 * m) := Int.emod_nonneg _ (by positivity)
  unfold wrapI
  zify
  rw [Int.toNat_of_nonneg (Int.emod_nonneg _ (by positivity)), Int.toNat_of_nonneg hp]
  rw [Nat.two_mul, pow_add]
  generalize x.toInt * y.toInt = z
  have hpos : (0 : Int) < 2 ^ m := by positivity
  generalize (2 : Int) ^ m = q at hpos
  have h1 := Int.mul_ediv_add_emod z (q * q)
  have : z / q = (z % (q * q)) / q + q * (z / (q * q)) := by
    conv_lhs => rw [← h1, mul_assoc, Int.add_comm, Int.add_mul_ediv_left _ _ (ne_of_gt hpos)]
  rw [this]; simp

theorem intCond_eq (cc : Cond) (x y : BitVec m) : intCond cc m x.toNat y.toNat = condV cc m x y := by
  have e : (x.toNat == y.toNat) = (x == y) := by
    rw [Bool.eq_iff_iff, beq_iff_eq, beq_iff_eq, BitVec.toNat_inj]
  cases cc <;> simp [intCond, condV, sgn_toNat, BitVec.slt, BitVec.sle, BitVec.ult, BitVec.ule, bne, e]

theorem aluAbs_eq (x : BitVec m) : aluAbs false m x.toNat = .ok (BitVec.ofInt m x.toInt.natAbs).toNat := by
  simp only [aluAbs, sgn_toNat]
  rw [withOvt_eq _ _ (by simp)]

theorem ctzFrom_eq (n a : Nat) : ctzFrom n a = ((List.range n).takeWhile fun i => !a.testBit i).length := by
  induction n generalizing a with
  | zero => simp [ctzFrom]
  | succ n ih =>
    rw [ctzFrom, List.range_succ_eq_map, List.takeWhile_cons, Nat.testBit_zero]
    by_cases h : a % 2 = 1
    · simp [h]
    · simp only [h, if_false, decide_false, Bool.not_false, if_true, List.length_cons, List.takeWhile_map, List.length_map, ih]
      rw [Nat.add_comm]
      congr 3
      funext i
      simp [Nat.testBit_succ]

theorem popFrom_eq (n a : Nat) : popFrom n a = ((List.range n).filter fun i => a.testBit i).length := by
  induction n generalizing a with
  | zero => simp [popFrom]
  | succ n ih =>
    rw [popFrom, List.range_succ_eq_map, List.filter_cons, Nat.testBit_zero, List.filter_map, ih]
    have e : ((fun i => a.testBit i) ∘ Nat.succ) = fun i => (a / 2).testBit i := by funext i; simp [Nat.testBit_succ]
    rw [e]
    by_cases h : a % 2 = 1
    · simp [h]; omega
    · have : a % 2 = 0 := by omega
      simp [this]

/-- A count of the bits of an m-bit word fits in m bits. -/
theorem toNat_ofNat_of_le {n : Nat} (h : n ≤ m) : (BitVec.ofNat m n).toNat = n := by
  rw [BitVec.toNat_ofNat]
  exact Nat.mod_eq_of_lt (lt_of_le_of_lt h (Nat.lt_two_pow_self))

theorem aluCtz_eq (x : BitVec m) :
    aluCtz m x.toNat = .ok (BitVec.ofNat m ((List.range m).takeWhile fun i => !x.getLsbD i).length).toNat := by
  rw [toNat_ofNat_of_le (by simpa using (List.takeWhile_sublist (l := List.range m) fun i => !x.getLsbD i).length_le)]
  rw [aluCtz, ctzFrom_eq]
  rfl

theorem aluPopc_eq (x : BitVec m) :
    aluPopc m x.toNat = .ok (BitVec.ofNat m ((List.range m).filter fun i => x.getLsbD i).length).toNat := by
  rw [toNat_ofNat_of_le (by simpa using List.length_filter_le (fun i => x.getLsbD i) (List.range m))]
  rw [aluPopc, popFrom_eq]
  rfl

/-- The leading zero bits of a number below 2^n. -/
theorem leading_eq (n a : Nat) (h : a < 2 ^ n) :
    (if a = 0 then n else n - 1 - Nat.log2 a) = ((List.range n).takeWhile fun i => !a.testBit (n - 1 - i)).length := by
  induction n with
  | zero => simp at h; simp [h]
  | succ n ih =>
    rw [List.range_succ_eq_map, List.takeWhile_cons]
    by_cases hb : a < 2 ^ n
    · have hz : a.testBit n = false := Nat.testBit_lt_two_pow hb
      simp only [Nat.add_sub_cancel, Nat.sub_zero, hz, Bool.not_false, if_true, List.length_cons, List.takeWhile_map,
        List.length_map]
      have e : (fun i => !a.testBit (n - (Nat.succ i))) = fun i => !a.testBit (n - 1 - i) := by
        funext i; congr 2; omega
      have := ih hb
      simp only [Function.comp_def, e]
      rw [← this]
      by_cases h0 : a = 0
      · simp [h0]
      · have : Nat.log2 a < n := (Nat.log2_lt h0).2 hb
        simp only [h0, if_false]; omega
    · have h0 : a ≠ 0 := by rintro rfl; exact hb (Nat.two_pow_pos n)
      have hl : Nat.log2 a = n := by
        have h1 : Nat.log2 a < n + 1 := (Nat.log2_lt h0).2 h
        have h2 : ¬ Nat.log2 a < n := fun c => hb ((Nat.log2_lt h0).1 c)
        omega
      have hz : a.testBit n = true := by rw [← hl]; exact Nat.testBit_log2 h0
      simp [hz, h0, hl]

theorem takeWhile_congr {α : Type} {p q : α → Bool} {l : List α} (h : ∀ a ∈ l, p a = q a) :
    l.takeWhile p = l.takeWhile q := by
  induction l with
  | nil => rfl
  | cons a t ih =>
    rw [List.takeWhile_cons, List.takeWhile_cons, h a (by simp), ih fun b hb => h b (by simp [hb])]

theorem aluClz_eq (x : BitVec m) :
    aluClz m x.toNat = .ok (BitVec.ofNat m ((List.range m).takeWhile fun i => !x.getMsbD i).length).toNat := by
  rw [toNat_ofNat_of_le (by simpa using (List.takeWhile_sublist (l := List.range m) fun i => !x.getMsbD i).length_le)]
  rw [aluClz, leading_eq m x.toNat x.isLt]
  rw [takeWhile_congr (q := fun i => !x.getMsbD i)]
  intro i hi
  have : i < m := by simpa using hi
  simp [BitVec.getMsbD, BitVec.getLsbD, this]

theorem immN_eq (imm : Half) : immN m imm = (imm.signExtend m).toNat := by
  simp only [immN, wrapI_eq]; rfl

theorem imm12N_eq (imm : BitVec 12) : imm12N m imm = (imm.signExtend m).toNat := by
  simp only [imm12N, wrapI_eq]; rfl

end Sys2Proof.Machine
end

