-- ==== Sys2Proof/Laws/Cell.lean ====
section
/-! SUPPORT. What the one operation of scalar words does on a cell and on a core, for all words at once (R108 to R112). -/
namespace Sys2Proof.Machine

variable {s : State} {t o k : Nat} {c : Cell} {f : Firing} {srcs : List Src} {vals : List Word} {d : Dst} {iv : Nat}

/-- A word whose operands are data and whose result is fitting takes effect. -/
theorem cellScalar_done (h : CellReads s t o c f srcs vals) (hd : CellTakes s t o f d)
    {g : List Word → Except (BitVec 7) Word} {w : Word} (hg : g vals = .ok w) :
    s.cellScalar t o d srcs iv g = s.cellDone t o f d srcs w iv := by
  obtain ⟨⟨_, hc, hf⟩, l, hl, rfl, hz, hp⟩ := h
  obtain ⟨hr, hq⟩ := hd
  simp [State.cellScalar, hc, hf, hl, hz, hp, hg, hr, hq, State.cellDone]

/-- A word whose operands are data and that raises a data fault sends a poison token. -/
theorem cellScalar_fault (h : CellReads s t o c f srcs vals) (hd : s.dstReady t o d = true)
    {g : List Word → Except (BitVec 7) Word} {e : BitVec 7} (hg : g vals = .error e) :
    s.cellScalar t o d srcs iv g = s.cellFault t o srcs e := by
  obtain ⟨⟨_, hc, hf⟩, l, hl, rfl, hz, hp⟩ := h
  simp [State.cellScalar, hc, hf, hl, hz, hp, hg, hd, State.cellFault]

/-- A word with a poison operand forwards the first. -/
theorem cellScalar_poison {k : Token} (h : CellPoison s t o c f d srcs k) {g : List Word → Except (BitVec 7) Word} :
    s.cellScalar t o d srcs iv g = s.poisonOut t o (popsOf srcs) k := by
  obtain ⟨⟨_, hc, hf⟩, hd, l, hl, hz, hp⟩ := h
  simp [State.cellScalar, hc, hf, hl, hz, hp, hd]

/-- `State.scalar` on a cell. -/
theorem scalar_cell_done {w : Width} {g : Nat → List Nat → Except (BitVec 7) Nat} {v : Word}
    (h : CellReads s t o c f srcs vals) (hd : CellTakes s t o f d)
    (hg : g 32 (vals.map (·.toNat)) = .ok v.toNat) :
    State.scalar d srcs w iv g s = s.cellDone t o f d srcs v iv := by
  rw [State.scalar, h.runs.cur]
  exact cellScalar_done h hd (by rw [hg]; simp)

@[inherit_doc scalar_cell_done]
theorem scalar_cell_fault {w : Width} {g : Nat → List Nat → Except (BitVec 7) Nat} {e : BitVec 7}
    (h : CellReads s t o c f srcs vals) (hd : s.dstReady t o d = true) (hg : g 32 (vals.map (·.toNat)) = .error e) :
    State.scalar d srcs w iv g s = s.cellFault t o srcs e := by
  rw [State.scalar, h.runs.cur]
  exact cellScalar_fault h hd (by rw [hg])

@[inherit_doc scalar_cell_done]
theorem scalar_cell_poison {w : Width} {g : Nat → List Nat → Except (BitVec 7) Nat} {k : Token}
    (h : CellPoison s t o c f d srcs k) :
    State.scalar d srcs w iv g s = s.poisonOut t o (popsOf srcs) k := by
  rw [State.scalar, h.runs.cur]
  exact cellScalar_poison h

/-- `State.scalar` on a core. -/
theorem scalar_core_done {w : Width} {n : SReg} {g : Nat → List Nat → Except (BitVec 7) Nat} {v : Nat}
    (h : CoreRuns s k srcs (some n))
    (hg : g w.bits (srcs.map fun x => ((s.core k).src x).toNat % 2 ^ w.bits) = .ok v) :
    State.scalar (.s n) srcs w iv g s = s.coreWrite k n (coreResult w.bits v) (srcWords srcs) := by
  rw [State.scalar, h.cur]
  simp [State.coreScalar, h.going, h.still, hg]

@[inherit_doc scalar_core_done]
theorem scalar_core_fault {w : Width} {n : SReg} {g : Nat → List Nat → Except (BitVec 7) Nat} {e : BitVec 7}
    (h : CoreRuns s k srcs (some n))
    (hg : g w.bits (srcs.map fun x => ((s.core k).src x).toNat % 2 ^ w.bits) = .error e) :
    State.scalar (.s n) srcs w iv g s = (s.coreTrap k e 0).issued := by
  rw [State.scalar, h.cur]
  simp [State.coreScalar, h.going, h.still, hg]

/-- The firing of the cell that runs. -/
theorem curFiring_eq (h : CellRuns s t o c f) : s.curFiring = some (t, o, c, f) := by
  simp [State.curFiring, h.cur, h.cell, h.firing]

/-- Pops that freeze nothing. -/
theorem popFreeze_eq {ps : List Nat} (h : PopsOk s t o ps) : s.popFreeze t o ps = none := by
  simp [State.popFreeze, h.fits, h.rate]

/-- A word that reads its operands goes on with their values, once the port it pushes on takes a token. -/
theorem withOperands_eq {out : Option Nat} {go : Cell → Firing → List Word → State} (h : CellReads s t o c f srcs vals)
    (ho : ∀ p ∈ out, s.canPush t o p 1 = true) : s.withOperands t o srcs out go = go c f vals := by
  obtain ⟨⟨_, hc, hf⟩, l, hl, rfl, hz, hp⟩ := h
  have hw : (out.any fun p => !s.canPush t o p 1) = false := by
    cases out with
    | none => rfl
    | some p => simp [ho p rfl]
  simp [State.withOperands, hc, hf, hl, hz, hp, hw]

/-- A push that the port takes. -/
theorem cellSend_eq {p : OPort} {tok : Token} {pops : List Nat} {words : Nat} (h : PushOk s t o (4 + p.val) tok) :
    s.cellSend t o p pops words tok = s.cellSent t o (4 + p.val) pops words tok := by
  simp [State.cellSend, h.ready, h.rate, State.cellSent]

end Sys2Proof.Machine
end

