-- ==== Sys2Proof/Laws/State.lean ====
section
/-! SUPPORT. What each update of the state does to each of its fields: one lemma for each field of each update that changes a field,
and one for all the fields of each update that is such an update of a task or a context. -/
namespace Sys2Proof.Machine

variable {s : State}

/-! ## `modTask`: a task -/

section
variable {t : Nat} {g : Task → Task}
@[simp] theorem modTask_agenda : (s.modTask t g).agenda = s.agenda := rfl
@[simp] theorem modTask_cur : (s.modTask t g).cur = s.cur := rfl
@[simp] theorem modTask_tick : (s.modTask t g).tick = s.tick := rfl
@[simp] theorem modTask_issues : (s.modTask t g).issues = s.issues := rfl
@[simp] theorem modTask_fc : (s.modTask t g).fc = s.fc := rfl
@[simp] theorem modTask_nextTask : (s.modTask t g).nextTask = s.nextTask := rfl
@[simp] theorem modTask_nextLaunch : (s.modTask t g).nextLaunch = s.nextLaunch := rfl
@[simp] theorem modTask_nextId : (s.modTask t g).nextId = s.nextId := rfl
@[simp] theorem modTask_mem : (s.modTask t g).mem = s.mem := rfl
@[simp] theorem modTask_tags : (s.modTask t g).tags = s.tags := rfl
@[simp] theorem modTask_tiles : (s.modTask t g).tiles = s.tiles := rfl
@[simp] theorem modTask_knots : (s.modTask t g).knots = s.knots := rfl
@[simp] theorem modTask_links : (s.modTask t g).links = s.links := rfl
@[simp] theorem modTask_tasks : (s.modTask t g).tasks = amod t g s.tasks := rfl
@[simp] theorem modTask_msgs : (s.modTask t g).msgs = s.msgs := rfl
@[simp] theorem modTask_cores : (s.modTask t g).cores = s.cores := rfl
@[simp] theorem modTask_banks : (s.modTask t g).banks = s.banks := rfl
@[simp] theorem modTask_buffers : (s.modTask t g).buffers = s.buffers := rfl
@[simp] theorem modTask_bufSeen : (s.modTask t g).bufSeen = s.bufSeen := rfl
@[simp] theorem modTask_masks : (s.modTask t g).masks = s.masks := rfl
@[simp] theorem modTask_timeline : (s.modTask t g).timeline = s.timeline := rfl
@[simp] theorem modTask_poisonedTl : (s.modTask t g).poisonedTl = s.poisonedTl := rfl
@[simp] theorem modTask_tlb : (s.modTask t g).tlb = s.tlb := rfl
@[simp] theorem modTask_misses : (s.modTask t g).misses = s.misses := rfl
@[simp] theorem modTask_roots : (s.modTask t g).roots = s.roots := rfl
@[simp] theorem modTask_hostAbsent : (s.modTask t g).hostAbsent = s.hostAbsent := rfl
@[simp] theorem modTask_pageReqs : (s.modTask t g).pageReqs = s.pageReqs := rfl
@[simp] theorem modTask_ctxs : (s.modTask t g).ctxs = s.ctxs := rfl
@[simp] theorem modTask_launches : (s.modTask t g).launches = s.launches := rfl
@[simp] theorem modTask_ready : (s.modTask t g).ready = s.ready := rfl
@[simp] theorem modTask_fsrQueue : (s.modTask t g).fsrQueue = s.fsrQueue := rfl
@[simp] theorem modTask_held : (s.modTask t g).held = s.held := rfl
@[simp] theorem modTask_blocked : (s.modTask t g).blocked = s.blocked := rfl
@[simp] theorem modTask_requests : (s.modTask t g).requests = s.requests := rfl
@[simp] theorem modTask_placing : (s.modTask t g).placing = s.placing := rfl
@[simp] theorem modTask_spawnReplies : (s.modTask t g).spawnReplies = s.spawnReplies := rfl
@[simp] theorem modTask_cache : (s.modTask t g).cache = s.cache := rfl
@[simp] theorem modTask_objs : (s.modTask t g).objs = s.objs := rfl
@[simp] theorem modTask_aqis : (s.modTask t g).aqis = s.aqis := rfl
@[simp] theorem modTask_revoked : (s.modTask t g).revoked = s.revoked := rfl
@[simp] theorem modTask_adminQ : (s.modTask t g).adminQ = s.adminQ := rfl
@[simp] theorem modTask_adminWait : (s.modTask t g).adminWait = s.adminWait := rfl
@[simp] theorem modTask_adminComp : (s.modTask t g).adminComp = s.adminComp := rfl
@[simp] theorem modTask_adminSize : (s.modTask t g).adminSize = s.adminSize := rfl
@[simp] theorem modTask_adminTail : (s.modTask t g).adminTail = s.adminTail := rfl
@[simp] theorem modTask_adminPhase : (s.modTask t g).adminPhase = s.adminPhase := rfl
@[simp] theorem modTask_notices : (s.modTask t g).notices = s.notices := rfl
@[simp] theorem modTask_intake : (s.modTask t g).intake = s.intake := rfl
@[simp] theorem modTask_power : (s.modTask t g).power = s.power := rfl
@[simp] theorem modTask_clock : (s.modTask t g).clock = s.clock := rfl
@[simp] theorem modTask_dev : (s.modTask t g).dev = s.dev := rfl
@[simp] theorem modTask_flash : (s.modTask t g).flash = s.flash := rfl
@[simp] theorem modTask_spans : (s.modTask t g).spans = s.spans := rfl
end

/-! ## `modCtx`: a launch context -/

section
variable {t : Nat} {g : Ctx → Ctx}
@[simp] theorem modCtx_agenda : (s.modCtx t g).agenda = s.agenda := rfl
@[simp] theorem modCtx_cur : (s.modCtx t g).cur = s.cur := rfl
@[simp] theorem modCtx_tick : (s.modCtx t g).tick = s.tick := rfl
@[simp] theorem modCtx_issues : (s.modCtx t g).issues = s.issues := rfl
@[simp] theorem modCtx_fc : (s.modCtx t g).fc = s.fc := rfl
@[simp] theorem modCtx_nextTask : (s.modCtx t g).nextTask = s.nextTask := rfl
@[simp] theorem modCtx_nextLaunch : (s.modCtx t g).nextLaunch = s.nextLaunch := rfl
@[simp] theorem modCtx_nextId : (s.modCtx t g).nextId = s.nextId := rfl
@[simp] theorem modCtx_mem : (s.modCtx t g).mem = s.mem := rfl
@[simp] theorem modCtx_tags : (s.modCtx t g).tags = s.tags := rfl
@[simp] theorem modCtx_tiles : (s.modCtx t g).tiles = s.tiles := rfl
@[simp] theorem modCtx_knots : (s.modCtx t g).knots = s.knots := rfl
@[simp] theorem modCtx_links : (s.modCtx t g).links = s.links := rfl
@[simp] theorem modCtx_tasks : (s.modCtx t g).tasks = s.tasks := rfl
@[simp] theorem modCtx_msgs : (s.modCtx t g).msgs = s.msgs := rfl
@[simp] theorem modCtx_cores : (s.modCtx t g).cores = s.cores := rfl
@[simp] theorem modCtx_banks : (s.modCtx t g).banks = s.banks := rfl
@[simp] theorem modCtx_buffers : (s.modCtx t g).buffers = s.buffers := rfl
@[simp] theorem modCtx_bufSeen : (s.modCtx t g).bufSeen = s.bufSeen := rfl
@[simp] theorem modCtx_masks : (s.modCtx t g).masks = s.masks := rfl
@[simp] theorem modCtx_timeline : (s.modCtx t g).timeline = s.timeline := rfl
@[simp] theorem modCtx_poisonedTl : (s.modCtx t g).poisonedTl = s.poisonedTl := rfl
@[simp] theorem modCtx_tlb : (s.modCtx t g).tlb = s.tlb := rfl
@[simp] theorem modCtx_misses : (s.modCtx t g).misses = s.misses := rfl
@[simp] theorem modCtx_roots : (s.modCtx t g).roots = s.roots := rfl
@[simp] theorem modCtx_hostAbsent : (s.modCtx t g).hostAbsent = s.hostAbsent := rfl
@[simp] theorem modCtx_pageReqs : (s.modCtx t g).pageReqs = s.pageReqs := rfl
@[simp] theorem modCtx_ctxs : (s.modCtx t g).ctxs = amod t g s.ctxs := rfl
@[simp] theorem modCtx_launches : (s.modCtx t g).launches = s.launches := rfl
@[simp] theorem modCtx_ready : (s.modCtx t g).ready = s.ready := rfl
@[simp] theorem modCtx_fsrQueue : (s.modCtx t g).fsrQueue = s.fsrQueue := rfl
@[simp] theorem modCtx_held : (s.modCtx t g).held = s.held := rfl
@[simp] theorem modCtx_blocked : (s.modCtx t g).blocked = s.blocked := rfl
@[simp] theorem modCtx_requests : (s.modCtx t g).requests = s.requests := rfl
@[simp] theorem modCtx_placing : (s.modCtx t g).placing = s.placing := rfl
@[simp] theorem modCtx_spawnReplies : (s.modCtx t g).spawnReplies = s.spawnReplies := rfl
@[simp] theorem modCtx_cache : (s.modCtx t g).cache = s.cache := rfl
@[simp] theorem modCtx_objs : (s.modCtx t g).objs = s.objs := rfl
@[simp] theorem modCtx_aqis : (s.modCtx t g).aqis = s.aqis := rfl
@[simp] theorem modCtx_revoked : (s.modCtx t g).revoked = s.revoked := rfl
@[simp] theorem modCtx_adminQ : (s.modCtx t g).adminQ = s.adminQ := rfl
@[simp] theorem modCtx_adminWait : (s.modCtx t g).adminWait = s.adminWait := rfl
@[simp] theorem modCtx_adminComp : (s.modCtx t g).adminComp = s.adminComp := rfl
@[simp] theorem modCtx_adminSize : (s.modCtx t g).adminSize = s.adminSize := rfl
@[simp] theorem modCtx_adminTail : (s.modCtx t g).adminTail = s.adminTail := rfl
@[simp] theorem modCtx_adminPhase : (s.modCtx t g).adminPhase = s.adminPhase := rfl
@[simp] theorem modCtx_notices : (s.modCtx t g).notices = s.notices := rfl
@[simp] theorem modCtx_intake : (s.modCtx t g).intake = s.intake := rfl
@[simp] theorem modCtx_power : (s.modCtx t g).power = s.power := rfl
@[simp] theorem modCtx_clock : (s.modCtx t g).clock = s.clock := rfl
@[simp] theorem modCtx_dev : (s.modCtx t g).dev = s.dev := rfl
@[simp] theorem modCtx_flash : (s.modCtx t g).flash = s.flash := rfl
@[simp] theorem modCtx_spans : (s.modCtx t g).spans = s.spans := rfl
end

/-! ## `modLaunch`: a launch -/

section
variable {t : Nat} {g : Launch → Launch}
@[simp] theorem modLaunch_agenda : (s.modLaunch t g).agenda = s.agenda := rfl
@[simp] theorem modLaunch_cur : (s.modLaunch t g).cur = s.cur := rfl
@[simp] theorem modLaunch_tick : (s.modLaunch t g).tick = s.tick := rfl
@[simp] theorem modLaunch_issues : (s.modLaunch t g).issues = s.issues := rfl
@[simp] theorem modLaunch_fc : (s.modLaunch t g).fc = s.fc := rfl
@[simp] theorem modLaunch_nextTask : (s.modLaunch t g).nextTask = s.nextTask := rfl
@[simp] theorem modLaunch_nextLaunch : (s.modLaunch t g).nextLaunch = s.nextLaunch := rfl
@[simp] theorem modLaunch_nextId : (s.modLaunch t g).nextId = s.nextId := rfl
@[simp] theorem modLaunch_mem : (s.modLaunch t g).mem = s.mem := rfl
@[simp] theorem modLaunch_tags : (s.modLaunch t g).tags = s.tags := rfl
@[simp] theorem modLaunch_tiles : (s.modLaunch t g).tiles = s.tiles := rfl
@[simp] theorem modLaunch_knots : (s.modLaunch t g).knots = s.knots := rfl
@[simp] theorem modLaunch_links : (s.modLaunch t g).links = s.links := rfl
@[simp] theorem modLaunch_tasks : (s.modLaunch t g).tasks = s.tasks := rfl
@[simp] theorem modLaunch_msgs : (s.modLaunch t g).msgs = s.msgs := rfl
@[simp] theorem modLaunch_cores : (s.modLaunch t g).cores = s.cores := rfl
@[simp] theorem modLaunch_banks : (s.modLaunch t g).banks = s.banks := rfl
@[simp] theorem modLaunch_buffers : (s.modLaunch t g).buffers = s.buffers := rfl
@[simp] theorem modLaunch_bufSeen : (s.modLaunch t g).bufSeen = s.bufSeen := rfl
@[simp] theorem modLaunch_masks : (s.modLaunch t g).masks = s.masks := rfl
@[simp] theorem modLaunch_timeline : (s.modLaunch t g).timeline = s.timeline := rfl
@[simp] theorem modLaunch_poisonedTl : (s.modLaunch t g).poisonedTl = s.poisonedTl := rfl
@[simp] theorem modLaunch_tlb : (s.modLaunch t g).tlb = s.tlb := rfl
@[simp] theorem modLaunch_misses : (s.modLaunch t g).misses = s.misses := rfl
@[simp] theorem modLaunch_roots : (s.modLaunch t g).roots = s.roots := rfl
@[simp] theorem modLaunch_hostAbsent : (s.modLaunch t g).hostAbsent = s.hostAbsent := rfl
@[simp] theorem modLaunch_pageReqs : (s.modLaunch t g).pageReqs = s.pageReqs := rfl
@[simp] theorem modLaunch_ctxs : (s.modLaunch t g).ctxs = s.ctxs := rfl
@[simp] theorem modLaunch_launches : (s.modLaunch t g).launches = amod t g s.launches := rfl
@[simp] theorem modLaunch_ready : (s.modLaunch t g).ready = s.ready := rfl
@[simp] theorem modLaunch_fsrQueue : (s.modLaunch t g).fsrQueue = s.fsrQueue := rfl
@[simp] theorem modLaunch_held : (s.modLaunch t g).held = s.held := rfl
@[simp] theorem modLaunch_blocked : (s.modLaunch t g).blocked = s.blocked := rfl
@[simp] theorem modLaunch_requests : (s.modLaunch t g).requests = s.requests := rfl
@[simp] theorem modLaunch_placing : (s.modLaunch t g).placing = s.placing := rfl
@[simp] theorem modLaunch_spawnReplies : (s.modLaunch t g).spawnReplies = s.spawnReplies := rfl
@[simp] theorem modLaunch_cache : (s.modLaunch t g).cache = s.cache := rfl
@[simp] theorem modLaunch_objs : (s.modLaunch t g).objs = s.objs := rfl
@[simp] theorem modLaunch_aqis : (s.modLaunch t g).aqis = s.aqis := rfl
@[simp] theorem modLaunch_revoked : (s.modLaunch t g).revoked = s.revoked := rfl
@[simp] theorem modLaunch_adminQ : (s.modLaunch t g).adminQ = s.adminQ := rfl
@[simp] theorem modLaunch_adminWait : (s.modLaunch t g).adminWait = s.adminWait := rfl
@[simp] theorem modLaunch_adminComp : (s.modLaunch t g).adminComp = s.adminComp := rfl
@[simp] theorem modLaunch_adminSize : (s.modLaunch t g).adminSize = s.adminSize := rfl
@[simp] theorem modLaunch_adminTail : (s.modLaunch t g).adminTail = s.adminTail := rfl
@[simp] theorem modLaunch_adminPhase : (s.modLaunch t g).adminPhase = s.adminPhase := rfl
@[simp] theorem modLaunch_notices : (s.modLaunch t g).notices = s.notices := rfl
@[simp] theorem modLaunch_intake : (s.modLaunch t g).intake = s.intake := rfl
@[simp] theorem modLaunch_power : (s.modLaunch t g).power = s.power := rfl
@[simp] theorem modLaunch_clock : (s.modLaunch t g).clock = s.clock := rfl
@[simp] theorem modLaunch_dev : (s.modLaunch t g).dev = s.dev := rfl
@[simp] theorem modLaunch_flash : (s.modLaunch t g).flash = s.flash := rfl
@[simp] theorem modLaunch_spans : (s.modLaunch t g).spans = s.spans := rfl
end

/-! ## `modTile`: a tile -/

section
variable {t : Nat} {g : Tile → Tile}
@[simp] theorem modTile_agenda : (s.modTile t g).agenda = s.agenda := rfl
@[simp] theorem modTile_cur : (s.modTile t g).cur = s.cur := rfl
@[simp] theorem modTile_tick : (s.modTile t g).tick = s.tick := rfl
@[simp] theorem modTile_issues : (s.modTile t g).issues = s.issues := rfl
@[simp] theorem modTile_fc : (s.modTile t g).fc = s.fc := rfl
@[simp] theorem modTile_nextTask : (s.modTile t g).nextTask = s.nextTask := rfl
@[simp] theorem modTile_nextLaunch : (s.modTile t g).nextLaunch = s.nextLaunch := rfl
@[simp] theorem modTile_nextId : (s.modTile t g).nextId = s.nextId := rfl
@[simp] theorem modTile_mem : (s.modTile t g).mem = s.mem := rfl
@[simp] theorem modTile_tags : (s.modTile t g).tags = s.tags := rfl
@[simp] theorem modTile_tiles : (s.modTile t g).tiles = aset t (g (s.tile t)) s.tiles := rfl
@[simp] theorem modTile_knots : (s.modTile t g).knots = s.knots := rfl
@[simp] theorem modTile_links : (s.modTile t g).links = s.links := rfl
@[simp] theorem modTile_tasks : (s.modTile t g).tasks = s.tasks := rfl
@[simp] theorem modTile_msgs : (s.modTile t g).msgs = s.msgs := rfl
@[simp] theorem modTile_cores : (s.modTile t g).cores = s.cores := rfl
@[simp] theorem modTile_banks : (s.modTile t g).banks = s.banks := rfl
@[simp] theorem modTile_buffers : (s.modTile t g).buffers = s.buffers := rfl
@[simp] theorem modTile_bufSeen : (s.modTile t g).bufSeen = s.bufSeen := rfl
@[simp] theorem modTile_masks : (s.modTile t g).masks = s.masks := rfl
@[simp] theorem modTile_timeline : (s.modTile t g).timeline = s.timeline := rfl
@[simp] theorem modTile_poisonedTl : (s.modTile t g).poisonedTl = s.poisonedTl := rfl
@[simp] theorem modTile_tlb : (s.modTile t g).tlb = s.tlb := rfl
@[simp] theorem modTile_misses : (s.modTile t g).misses = s.misses := rfl
@[simp] theorem modTile_roots : (s.modTile t g).roots = s.roots := rfl
@[simp] theorem modTile_hostAbsent : (s.modTile t g).hostAbsent = s.hostAbsent := rfl
@[simp] theorem modTile_pageReqs : (s.modTile t g).pageReqs = s.pageReqs := rfl
@[simp] theorem modTile_ctxs : (s.modTile t g).ctxs = s.ctxs := rfl
@[simp] theorem modTile_launches : (s.modTile t g).launches = s.launches := rfl
@[simp] theorem modTile_ready : (s.modTile t g).ready = s.ready := rfl
@[simp] theorem modTile_fsrQueue : (s.modTile t g).fsrQueue = s.fsrQueue := rfl
@[simp] theorem modTile_held : (s.modTile t g).held = s.held := rfl
@[simp] theorem modTile_blocked : (s.modTile t g).blocked = s.blocked := rfl
@[simp] theorem modTile_requests : (s.modTile t g).requests = s.requests := rfl
@[simp] theorem modTile_placing : (s.modTile t g).placing = s.placing := rfl
@[simp] theorem modTile_spawnReplies : (s.modTile t g).spawnReplies = s.spawnReplies := rfl
@[simp] theorem modTile_cache : (s.modTile t g).cache = s.cache := rfl
@[simp] theorem modTile_objs : (s.modTile t g).objs = s.objs := rfl
@[simp] theorem modTile_aqis : (s.modTile t g).aqis = s.aqis := rfl
@[simp] theorem modTile_revoked : (s.modTile t g).revoked = s.revoked := rfl
@[simp] theorem modTile_adminQ : (s.modTile t g).adminQ = s.adminQ := rfl
@[simp] theorem modTile_adminWait : (s.modTile t g).adminWait = s.adminWait := rfl
@[simp] theorem modTile_adminComp : (s.modTile t g).adminComp = s.adminComp := rfl
@[simp] theorem modTile_adminSize : (s.modTile t g).adminSize = s.adminSize := rfl
@[simp] theorem modTile_adminTail : (s.modTile t g).adminTail = s.adminTail := rfl
@[simp] theorem modTile_adminPhase : (s.modTile t g).adminPhase = s.adminPhase := rfl
@[simp] theorem modTile_notices : (s.modTile t g).notices = s.notices := rfl
@[simp] theorem modTile_intake : (s.modTile t g).intake = s.intake := rfl
@[simp] theorem modTile_power : (s.modTile t g).power = s.power := rfl
@[simp] theorem modTile_clock : (s.modTile t g).clock = s.clock := rfl
@[simp] theorem modTile_dev : (s.modTile t g).dev = s.dev := rfl
@[simp] theorem modTile_flash : (s.modTile t g).flash = s.flash := rfl
@[simp] theorem modTile_spans : (s.modTile t g).spans = s.spans := rfl
end

/-! ## `modCore`: a control core -/

section
variable {t : Nat} {g : Core → Core}
@[simp] theorem modCore_agenda : (s.modCore t g).agenda = s.agenda := rfl
@[simp] theorem modCore_cur : (s.modCore t g).cur = s.cur := rfl
@[simp] theorem modCore_tick : (s.modCore t g).tick = s.tick := rfl
@[simp] theorem modCore_issues : (s.modCore t g).issues = s.issues := rfl
@[simp] theorem modCore_fc : (s.modCore t g).fc = s.fc := rfl
@[simp] theorem modCore_nextTask : (s.modCore t g).nextTask = s.nextTask := rfl
@[simp] theorem modCore_nextLaunch : (s.modCore t g).nextLaunch = s.nextLaunch := rfl
@[simp] theorem modCore_nextId : (s.modCore t g).nextId = s.nextId := rfl
@[simp] theorem modCore_mem : (s.modCore t g).mem = s.mem := rfl
@[simp] theorem modCore_tags : (s.modCore t g).tags = s.tags := rfl
@[simp] theorem modCore_tiles : (s.modCore t g).tiles = s.tiles := rfl
@[simp] theorem modCore_knots : (s.modCore t g).knots = s.knots := rfl
@[simp] theorem modCore_links : (s.modCore t g).links = s.links := rfl
@[simp] theorem modCore_tasks : (s.modCore t g).tasks = s.tasks := rfl
@[simp] theorem modCore_msgs : (s.modCore t g).msgs = s.msgs := rfl
@[simp] theorem modCore_cores : (s.modCore t g).cores = lmod t g s.cores := rfl
@[simp] theorem modCore_banks : (s.modCore t g).banks = s.banks := rfl
@[simp] theorem modCore_buffers : (s.modCore t g).buffers = s.buffers := rfl
@[simp] theorem modCore_bufSeen : (s.modCore t g).bufSeen = s.bufSeen := rfl
@[simp] theorem modCore_masks : (s.modCore t g).masks = s.masks := rfl
@[simp] theorem modCore_timeline : (s.modCore t g).timeline = s.timeline := rfl
@[simp] theorem modCore_poisonedTl : (s.modCore t g).poisonedTl = s.poisonedTl := rfl
@[simp] theorem modCore_tlb : (s.modCore t g).tlb = s.tlb := rfl
@[simp] theorem modCore_misses : (s.modCore t g).misses = s.misses := rfl
@[simp] theorem modCore_roots : (s.modCore t g).roots = s.roots := rfl
@[simp] theorem modCore_hostAbsent : (s.modCore t g).hostAbsent = s.hostAbsent := rfl
@[simp] theorem modCore_pageReqs : (s.modCore t g).pageReqs = s.pageReqs := rfl
@[simp] theorem modCore_ctxs : (s.modCore t g).ctxs = s.ctxs := rfl
@[simp] theorem modCore_launches : (s.modCore t g).launches = s.launches := rfl
@[simp] theorem modCore_ready : (s.modCore t g).ready = s.ready := rfl
@[simp] theorem modCore_fsrQueue : (s.modCore t g).fsrQueue = s.fsrQueue := rfl
@[simp] theorem modCore_held : (s.modCore t g).held = s.held := rfl
@[simp] theorem modCore_blocked : (s.modCore t g).blocked = s.blocked := rfl
@[simp] theorem modCore_requests : (s.modCore t g).requests = s.requests := rfl
@[simp] theorem modCore_placing : (s.modCore t g).placing = s.placing := rfl
@[simp] theorem modCore_spawnReplies : (s.modCore t g).spawnReplies = s.spawnReplies := rfl
@[simp] theorem modCore_cache : (s.modCore t g).cache = s.cache := rfl
@[simp] theorem modCore_objs : (s.modCore t g).objs = s.objs := rfl
@[simp] theorem modCore_aqis : (s.modCore t g).aqis = s.aqis := rfl
@[simp] theorem modCore_revoked : (s.modCore t g).revoked = s.revoked := rfl
@[simp] theorem modCore_adminQ : (s.modCore t g).adminQ = s.adminQ := rfl
@[simp] theorem modCore_adminWait : (s.modCore t g).adminWait = s.adminWait := rfl
@[simp] theorem modCore_adminComp : (s.modCore t g).adminComp = s.adminComp := rfl
@[simp] theorem modCore_adminSize : (s.modCore t g).adminSize = s.adminSize := rfl
@[simp] theorem modCore_adminTail : (s.modCore t g).adminTail = s.adminTail := rfl
@[simp] theorem modCore_adminPhase : (s.modCore t g).adminPhase = s.adminPhase := rfl
@[simp] theorem modCore_notices : (s.modCore t g).notices = s.notices := rfl
@[simp] theorem modCore_intake : (s.modCore t g).intake = s.intake := rfl
@[simp] theorem modCore_power : (s.modCore t g).power = s.power := rfl
@[simp] theorem modCore_clock : (s.modCore t g).clock = s.clock := rfl
@[simp] theorem modCore_dev : (s.modCore t g).dev = s.dev := rfl
@[simp] theorem modCore_flash : (s.modCore t g).flash = s.flash := rfl
@[simp] theorem modCore_spans : (s.modCore t g).spans = s.spans := rfl
end

/-! ## `modObj`: an object -/

section
variable {t : Nat} {g : Obj → Obj}
@[simp] theorem modObj_agenda : (s.modObj t g).agenda = s.agenda := rfl
@[simp] theorem modObj_cur : (s.modObj t g).cur = s.cur := rfl
@[simp] theorem modObj_tick : (s.modObj t g).tick = s.tick := rfl
@[simp] theorem modObj_issues : (s.modObj t g).issues = s.issues := rfl
@[simp] theorem modObj_fc : (s.modObj t g).fc = s.fc := rfl
@[simp] theorem modObj_nextTask : (s.modObj t g).nextTask = s.nextTask := rfl
@[simp] theorem modObj_nextLaunch : (s.modObj t g).nextLaunch = s.nextLaunch := rfl
@[simp] theorem modObj_nextId : (s.modObj t g).nextId = s.nextId := rfl
@[simp] theorem modObj_mem : (s.modObj t g).mem = s.mem := rfl
@[simp] theorem modObj_tags : (s.modObj t g).tags = s.tags := rfl
@[simp] theorem modObj_tiles : (s.modObj t g).tiles = s.tiles := rfl
@[simp] theorem modObj_knots : (s.modObj t g).knots = s.knots := rfl
@[simp] theorem modObj_links : (s.modObj t g).links = s.links := rfl
@[simp] theorem modObj_tasks : (s.modObj t g).tasks = s.tasks := rfl
@[simp] theorem modObj_msgs : (s.modObj t g).msgs = s.msgs := rfl
@[simp] theorem modObj_cores : (s.modObj t g).cores = s.cores := rfl
@[simp] theorem modObj_banks : (s.modObj t g).banks = s.banks := rfl
@[simp] theorem modObj_buffers : (s.modObj t g).buffers = s.buffers := rfl
@[simp] theorem modObj_bufSeen : (s.modObj t g).bufSeen = s.bufSeen := rfl
@[simp] theorem modObj_masks : (s.modObj t g).masks = s.masks := rfl
@[simp] theorem modObj_timeline : (s.modObj t g).timeline = s.timeline := rfl
@[simp] theorem modObj_poisonedTl : (s.modObj t g).poisonedTl = s.poisonedTl := rfl
@[simp] theorem modObj_tlb : (s.modObj t g).tlb = s.tlb := rfl
@[simp] theorem modObj_misses : (s.modObj t g).misses = s.misses := rfl
@[simp] theorem modObj_roots : (s.modObj t g).roots = s.roots := rfl
@[simp] theorem modObj_hostAbsent : (s.modObj t g).hostAbsent = s.hostAbsent := rfl
@[simp] theorem modObj_pageReqs : (s.modObj t g).pageReqs = s.pageReqs := rfl
@[simp] theorem modObj_ctxs : (s.modObj t g).ctxs = s.ctxs := rfl
@[simp] theorem modObj_launches : (s.modObj t g).launches = s.launches := rfl
@[simp] theorem modObj_ready : (s.modObj t g).ready = s.ready := rfl
@[simp] theorem modObj_fsrQueue : (s.modObj t g).fsrQueue = s.fsrQueue := rfl
@[simp] theorem modObj_held : (s.modObj t g).held = s.held := rfl
@[simp] theorem modObj_blocked : (s.modObj t g).blocked = s.blocked := rfl
@[simp] theorem modObj_requests : (s.modObj t g).requests = s.requests := rfl
@[simp] theorem modObj_placing : (s.modObj t g).placing = s.placing := rfl
@[simp] theorem modObj_spawnReplies : (s.modObj t g).spawnReplies = s.spawnReplies := rfl
@[simp] theorem modObj_cache : (s.modObj t g).cache = s.cache := rfl
@[simp] theorem modObj_objs : (s.modObj t g).objs = lmod t g s.objs := rfl
@[simp] theorem modObj_aqis : (s.modObj t g).aqis = s.aqis := rfl
@[simp] theorem modObj_revoked : (s.modObj t g).revoked = s.revoked := rfl
@[simp] theorem modObj_adminQ : (s.modObj t g).adminQ = s.adminQ := rfl
@[simp] theorem modObj_adminWait : (s.modObj t g).adminWait = s.adminWait := rfl
@[simp] theorem modObj_adminComp : (s.modObj t g).adminComp = s.adminComp := rfl
@[simp] theorem modObj_adminSize : (s.modObj t g).adminSize = s.adminSize := rfl
@[simp] theorem modObj_adminTail : (s.modObj t g).adminTail = s.adminTail := rfl
@[simp] theorem modObj_adminPhase : (s.modObj t g).adminPhase = s.adminPhase := rfl
@[simp] theorem modObj_notices : (s.modObj t g).notices = s.notices := rfl
@[simp] theorem modObj_intake : (s.modObj t g).intake = s.intake := rfl
@[simp] theorem modObj_power : (s.modObj t g).power = s.power := rfl
@[simp] theorem modObj_clock : (s.modObj t g).clock = s.clock := rfl
@[simp] theorem modObj_dev : (s.modObj t g).dev = s.dev := rfl
@[simp] theorem modObj_flash : (s.modObj t g).flash = s.flash := rfl
@[simp] theorem modObj_spans : (s.modObj t g).spans = s.spans := rfl
end

/-! ## `writeLoc`: memory -/

section
variable {l : Loc} {n v : Nat}
@[simp] theorem writeLoc_agenda : (s.writeLoc l n v).agenda = s.agenda := rfl
@[simp] theorem writeLoc_cur : (s.writeLoc l n v).cur = s.cur := rfl
@[simp] theorem writeLoc_tick : (s.writeLoc l n v).tick = s.tick := rfl
@[simp] theorem writeLoc_issues : (s.writeLoc l n v).issues = s.issues := rfl
@[simp] theorem writeLoc_fc : (s.writeLoc l n v).fc = s.fc := rfl
@[simp] theorem writeLoc_nextTask : (s.writeLoc l n v).nextTask = s.nextTask := rfl
@[simp] theorem writeLoc_nextLaunch : (s.writeLoc l n v).nextLaunch = s.nextLaunch := rfl
@[simp] theorem writeLoc_nextId : (s.writeLoc l n v).nextId = s.nextId := rfl
@[simp] theorem writeLoc_mem : (s.writeLoc l n v).mem = memWrite s.mem l.key n v := rfl
@[simp] theorem writeLoc_tags : (s.writeLoc l n v).tags = s.tags := rfl
@[simp] theorem writeLoc_tiles : (s.writeLoc l n v).tiles = s.tiles := rfl
@[simp] theorem writeLoc_knots : (s.writeLoc l n v).knots = s.knots := rfl
@[simp] theorem writeLoc_links : (s.writeLoc l n v).links = s.links := rfl
@[simp] theorem writeLoc_tasks : (s.writeLoc l n v).tasks = s.tasks := rfl
@[simp] theorem writeLoc_msgs : (s.writeLoc l n v).msgs = s.msgs := rfl
@[simp] theorem writeLoc_cores : (s.writeLoc l n v).cores = s.cores := rfl
@[simp] theorem writeLoc_banks : (s.writeLoc l n v).banks = s.banks := rfl
@[simp] theorem writeLoc_buffers : (s.writeLoc l n v).buffers = s.buffers := rfl
@[simp] theorem writeLoc_bufSeen : (s.writeLoc l n v).bufSeen = s.bufSeen := rfl
@[simp] theorem writeLoc_masks : (s.writeLoc l n v).masks = s.masks := rfl
@[simp] theorem writeLoc_timeline : (s.writeLoc l n v).timeline = s.timeline := rfl
@[simp] theorem writeLoc_poisonedTl : (s.writeLoc l n v).poisonedTl = s.poisonedTl := rfl
@[simp] theorem writeLoc_tlb : (s.writeLoc l n v).tlb = s.tlb := rfl
@[simp] theorem writeLoc_misses : (s.writeLoc l n v).misses = s.misses := rfl
@[simp] theorem writeLoc_roots : (s.writeLoc l n v).roots = s.roots := rfl
@[simp] theorem writeLoc_hostAbsent : (s.writeLoc l n v).hostAbsent = s.hostAbsent := rfl
@[simp] theorem writeLoc_pageReqs : (s.writeLoc l n v).pageReqs = s.pageReqs := rfl
@[simp] theorem writeLoc_ctxs : (s.writeLoc l n v).ctxs = s.ctxs := rfl
@[simp] theorem writeLoc_launches : (s.writeLoc l n v).launches = s.launches := rfl
@[simp] theorem writeLoc_ready : (s.writeLoc l n v).ready = s.ready := rfl
@[simp] theorem writeLoc_fsrQueue : (s.writeLoc l n v).fsrQueue = s.fsrQueue := rfl
@[simp] theorem writeLoc_held : (s.writeLoc l n v).held = s.held := rfl
@[simp] theorem writeLoc_blocked : (s.writeLoc l n v).blocked = s.blocked := rfl
@[simp] theorem writeLoc_requests : (s.writeLoc l n v).requests = s.requests := rfl
@[simp] theorem writeLoc_placing : (s.writeLoc l n v).placing = s.placing := rfl
@[simp] theorem writeLoc_spawnReplies : (s.writeLoc l n v).spawnReplies = s.spawnReplies := rfl
@[simp] theorem writeLoc_cache : (s.writeLoc l n v).cache = s.cache := rfl
@[simp] theorem writeLoc_objs : (s.writeLoc l n v).objs = s.objs := rfl
@[simp] theorem writeLoc_aqis : (s.writeLoc l n v).aqis = s.aqis := rfl
@[simp] theorem writeLoc_revoked : (s.writeLoc l n v).revoked = s.revoked := rfl
@[simp] theorem writeLoc_adminQ : (s.writeLoc l n v).adminQ = s.adminQ := rfl
@[simp] theorem writeLoc_adminWait : (s.writeLoc l n v).adminWait = s.adminWait := rfl
@[simp] theorem writeLoc_adminComp : (s.writeLoc l n v).adminComp = s.adminComp := rfl
@[simp] theorem writeLoc_adminSize : (s.writeLoc l n v).adminSize = s.adminSize := rfl
@[simp] theorem writeLoc_adminTail : (s.writeLoc l n v).adminTail = s.adminTail := rfl
@[simp] theorem writeLoc_adminPhase : (s.writeLoc l n v).adminPhase = s.adminPhase := rfl
@[simp] theorem writeLoc_notices : (s.writeLoc l n v).notices = s.notices := rfl
@[simp] theorem writeLoc_intake : (s.writeLoc l n v).intake = s.intake := rfl
@[simp] theorem writeLoc_power : (s.writeLoc l n v).power = s.power := rfl
@[simp] theorem writeLoc_clock : (s.writeLoc l n v).clock = s.clock := rfl
@[simp] theorem writeLoc_dev : (s.writeLoc l n v).dev = s.dev := rfl
@[simp] theorem writeLoc_flash : (s.writeLoc l n v).flash = s.flash := rfl
@[simp] theorem writeLoc_spans : (s.writeLoc l n v).spans = s.spans := rfl
end

/-! ## `setTags`: the tags of granules -/

section
variable {gs : List Nat} {v : Nat}
@[simp] theorem setTags_agenda : (s.setTags gs v).agenda = s.agenda := rfl
@[simp] theorem setTags_cur : (s.setTags gs v).cur = s.cur := rfl
@[simp] theorem setTags_tick : (s.setTags gs v).tick = s.tick := rfl
@[simp] theorem setTags_issues : (s.setTags gs v).issues = s.issues := rfl
@[simp] theorem setTags_fc : (s.setTags gs v).fc = s.fc := rfl
@[simp] theorem setTags_nextTask : (s.setTags gs v).nextTask = s.nextTask := rfl
@[simp] theorem setTags_nextLaunch : (s.setTags gs v).nextLaunch = s.nextLaunch := rfl
@[simp] theorem setTags_nextId : (s.setTags gs v).nextId = s.nextId := rfl
@[simp] theorem setTags_mem : (s.setTags gs v).mem = s.mem := rfl
@[simp] theorem setTags_tags : (s.setTags gs v).tags = gs.foldl (fun l g => if v = 0 then adel g l else aset g v l) s.tags := rfl
@[simp] theorem setTags_tiles : (s.setTags gs v).tiles = s.tiles := rfl
@[simp] theorem setTags_knots : (s.setTags gs v).knots = s.knots := rfl
@[simp] theorem setTags_links : (s.setTags gs v).links = s.links := rfl
@[simp] theorem setTags_tasks : (s.setTags gs v).tasks = s.tasks := rfl
@[simp] theorem setTags_msgs : (s.setTags gs v).msgs = s.msgs := rfl
@[simp] theorem setTags_cores : (s.setTags gs v).cores = s.cores := rfl
@[simp] theorem setTags_banks : (s.setTags gs v).banks = s.banks := rfl
@[simp] theorem setTags_buffers : (s.setTags gs v).buffers = s.buffers := rfl
@[simp] theorem setTags_bufSeen : (s.setTags gs v).bufSeen = s.bufSeen := rfl
@[simp] theorem setTags_masks : (s.setTags gs v).masks = s.masks := rfl
@[simp] theorem setTags_timeline : (s.setTags gs v).timeline = s.timeline := rfl
@[simp] theorem setTags_poisonedTl : (s.setTags gs v).poisonedTl = s.poisonedTl := rfl
@[simp] theorem setTags_tlb : (s.setTags gs v).tlb = s.tlb := rfl
@[simp] theorem setTags_misses : (s.setTags gs v).misses = s.misses := rfl
@[simp] theorem setTags_roots : (s.setTags gs v).roots = s.roots := rfl
@[simp] theorem setTags_hostAbsent : (s.setTags gs v).hostAbsent = s.hostAbsent := rfl
@[simp] theorem setTags_pageReqs : (s.setTags gs v).pageReqs = s.pageReqs := rfl
@[simp] theorem setTags_ctxs : (s.setTags gs v).ctxs = s.ctxs := rfl
@[simp] theorem setTags_launches : (s.setTags gs v).launches = s.launches := rfl
@[simp] theorem setTags_ready : (s.setTags gs v).ready = s.ready := rfl
@[simp] theorem setTags_fsrQueue : (s.setTags gs v).fsrQueue = s.fsrQueue := rfl
@[simp] theorem setTags_held : (s.setTags gs v).held = s.held := rfl
@[simp] theorem setTags_blocked : (s.setTags gs v).blocked = s.blocked := rfl
@[simp] theorem setTags_requests : (s.setTags gs v).requests = s.requests := rfl
@[simp] theorem setTags_placing : (s.setTags gs v).placing = s.placing := rfl
@[simp] theorem setTags_spawnReplies : (s.setTags gs v).spawnReplies = s.spawnReplies := rfl
@[simp] theorem setTags_cache : (s.setTags gs v).cache = s.cache := rfl
@[simp] theorem setTags_objs : (s.setTags gs v).objs = s.objs := rfl
@[simp] theorem setTags_aqis : (s.setTags gs v).aqis = s.aqis := rfl
@[simp] theorem setTags_revoked : (s.setTags gs v).revoked = s.revoked := rfl
@[simp] theorem setTags_adminQ : (s.setTags gs v).adminQ = s.adminQ := rfl
@[simp] theorem setTags_adminWait : (s.setTags gs v).adminWait = s.adminWait := rfl
@[simp] theorem setTags_adminComp : (s.setTags gs v).adminComp = s.adminComp := rfl
@[simp] theorem setTags_adminSize : (s.setTags gs v).adminSize = s.adminSize := rfl
@[simp] theorem setTags_adminTail : (s.setTags gs v).adminTail = s.adminTail := rfl
@[simp] theorem setTags_adminPhase : (s.setTags gs v).adminPhase = s.adminPhase := rfl
@[simp] theorem setTags_notices : (s.setTags gs v).notices = s.notices := rfl
@[simp] theorem setTags_intake : (s.setTags gs v).intake = s.intake := rfl
@[simp] theorem setTags_power : (s.setTags gs v).power = s.power := rfl
@[simp] theorem setTags_clock : (s.setTags gs v).clock = s.clock := rfl
@[simp] theorem setTags_dev : (s.setTags gs v).dev = s.dev := rfl
@[simp] theorem setTags_flash : (s.setTags gs v).flash = s.flash := rfl
@[simp] theorem setTags_spans : (s.setTags gs v).spans = s.spans := rfl
end

/-! ## `bumpId`: the count of identifiers -/

section
@[simp] theorem bumpId_agenda : (s.bumpId).agenda = s.agenda := rfl
@[simp] theorem bumpId_cur : (s.bumpId).cur = s.cur := rfl
@[simp] theorem bumpId_tick : (s.bumpId).tick = s.tick := rfl
@[simp] theorem bumpId_issues : (s.bumpId).issues = s.issues := rfl
@[simp] theorem bumpId_fc : (s.bumpId).fc = s.fc := rfl
@[simp] theorem bumpId_nextTask : (s.bumpId).nextTask = s.nextTask := rfl
@[simp] theorem bumpId_nextLaunch : (s.bumpId).nextLaunch = s.nextLaunch := rfl
@[simp] theorem bumpId_nextId : (s.bumpId).nextId = s.nextId + 1 := rfl
@[simp] theorem bumpId_mem : (s.bumpId).mem = s.mem := rfl
@[simp] theorem bumpId_tags : (s.bumpId).tags = s.tags := rfl
@[simp] theorem bumpId_tiles : (s.bumpId).tiles = s.tiles := rfl
@[simp] theorem bumpId_knots : (s.bumpId).knots = s.knots := rfl
@[simp] theorem bumpId_links : (s.bumpId).links = s.links := rfl
@[simp] theorem bumpId_tasks : (s.bumpId).tasks = s.tasks := rfl
@[simp] theorem bumpId_msgs : (s.bumpId).msgs = s.msgs := rfl
@[simp] theorem bumpId_cores : (s.bumpId).cores = s.cores := rfl
@[simp] theorem bumpId_banks : (s.bumpId).banks = s.banks := rfl
@[simp] theorem bumpId_buffers : (s.bumpId).buffers = s.buffers := rfl
@[simp] theorem bumpId_bufSeen : (s.bumpId).bufSeen = s.bufSeen := rfl
@[simp] theorem bumpId_masks : (s.bumpId).masks = s.masks := rfl
@[simp] theorem bumpId_timeline : (s.bumpId).timeline = s.timeline := rfl
@[simp] theorem bumpId_poisonedTl : (s.bumpId).poisonedTl = s.poisonedTl := rfl
@[simp] theorem bumpId_tlb : (s.bumpId).tlb = s.tlb := rfl
@[simp] theorem bumpId_misses : (s.bumpId).misses = s.misses := rfl
@[simp] theorem bumpId_roots : (s.bumpId).roots = s.roots := rfl
@[simp] theorem bumpId_hostAbsent : (s.bumpId).hostAbsent = s.hostAbsent := rfl
@[simp] theorem bumpId_pageReqs : (s.bumpId).pageReqs = s.pageReqs := rfl
@[simp] theorem bumpId_ctxs : (s.bumpId).ctxs = s.ctxs := rfl
@[simp] theorem bumpId_launches : (s.bumpId).launches = s.launches := rfl
@[simp] theorem bumpId_ready : (s.bumpId).ready = s.ready := rfl
@[simp] theorem bumpId_fsrQueue : (s.bumpId).fsrQueue = s.fsrQueue := rfl
@[simp] theorem bumpId_held : (s.bumpId).held = s.held := rfl
@[simp] theorem bumpId_blocked : (s.bumpId).blocked = s.blocked := rfl
@[simp] theorem bumpId_requests : (s.bumpId).requests = s.requests := rfl
@[simp] theorem bumpId_placing : (s.bumpId).placing = s.placing := rfl
@[simp] theorem bumpId_spawnReplies : (s.bumpId).spawnReplies = s.spawnReplies := rfl
@[simp] theorem bumpId_cache : (s.bumpId).cache = s.cache := rfl
@[simp] theorem bumpId_objs : (s.bumpId).objs = s.objs := rfl
@[simp] theorem bumpId_aqis : (s.bumpId).aqis = s.aqis := rfl
@[simp] theorem bumpId_revoked : (s.bumpId).revoked = s.revoked := rfl
@[simp] theorem bumpId_adminQ : (s.bumpId).adminQ = s.adminQ := rfl
@[simp] theorem bumpId_adminWait : (s.bumpId).adminWait = s.adminWait := rfl
@[simp] theorem bumpId_adminComp : (s.bumpId).adminComp = s.adminComp := rfl
@[simp] theorem bumpId_adminSize : (s.bumpId).adminSize = s.adminSize := rfl
@[simp] theorem bumpId_adminTail : (s.bumpId).adminTail = s.adminTail := rfl
@[simp] theorem bumpId_adminPhase : (s.bumpId).adminPhase = s.adminPhase := rfl
@[simp] theorem bumpId_notices : (s.bumpId).notices = s.notices := rfl
@[simp] theorem bumpId_intake : (s.bumpId).intake = s.intake := rfl
@[simp] theorem bumpId_power : (s.bumpId).power = s.power := rfl
@[simp] theorem bumpId_clock : (s.bumpId).clock = s.clock := rfl
@[simp] theorem bumpId_dev : (s.bumpId).dev = s.dev := rfl
@[simp] theorem bumpId_flash : (s.bumpId).flash = s.flash := rfl
@[simp] theorem bumpId_spans : (s.bumpId).spans = s.spans := rfl
end

/-! ## `issued`: the count of issues -/

section
@[simp] theorem issued_agenda : (s.issued).agenda = s.agenda := rfl
@[simp] theorem issued_cur : (s.issued).cur = s.cur := rfl
@[simp] theorem issued_tick : (s.issued).tick = s.tick := rfl
@[simp] theorem issued_issues : (s.issued).issues = s.issues + 1 := rfl
@[simp] theorem issued_fc : (s.issued).fc = s.fc := rfl
@[simp] theorem issued_nextTask : (s.issued).nextTask = s.nextTask := rfl
@[simp] theorem issued_nextLaunch : (s.issued).nextLaunch = s.nextLaunch := rfl
@[simp] theorem issued_nextId : (s.issued).nextId = s.nextId := rfl
@[simp] theorem issued_mem : (s.issued).mem = s.mem := rfl
@[simp] theorem issued_tags : (s.issued).tags = s.tags := rfl
@[simp] theorem issued_tiles : (s.issued).tiles = s.tiles := rfl
@[simp] theorem issued_knots : (s.issued).knots = s.knots := rfl
@[simp] theorem issued_links : (s.issued).links = s.links := rfl
@[simp] theorem issued_tasks : (s.issued).tasks = s.tasks := rfl
@[simp] theorem issued_msgs : (s.issued).msgs = s.msgs := rfl
@[simp] theorem issued_cores : (s.issued).cores = s.cores := rfl
@[simp] theorem issued_banks : (s.issued).banks = s.banks := rfl
@[simp] theorem issued_buffers : (s.issued).buffers = s.buffers := rfl
@[simp] theorem issued_bufSeen : (s.issued).bufSeen = s.bufSeen := rfl
@[simp] theorem issued_masks : (s.issued).masks = s.masks := rfl
@[simp] theorem issued_timeline : (s.issued).timeline = s.timeline := rfl
@[simp] theorem issued_poisonedTl : (s.issued).poisonedTl = s.poisonedTl := rfl
@[simp] theorem issued_tlb : (s.issued).tlb = s.tlb := rfl
@[simp] theorem issued_misses : (s.issued).misses = s.misses := rfl
@[simp] theorem issued_roots : (s.issued).roots = s.roots := rfl
@[simp] theorem issued_hostAbsent : (s.issued).hostAbsent = s.hostAbsent := rfl
@[simp] theorem issued_pageReqs : (s.issued).pageReqs = s.pageReqs := rfl
@[simp] theorem issued_ctxs : (s.issued).ctxs = s.ctxs := rfl
@[simp] theorem issued_launches : (s.issued).launches = s.launches := rfl
@[simp] theorem issued_ready : (s.issued).ready = s.ready := rfl
@[simp] theorem issued_fsrQueue : (s.issued).fsrQueue = s.fsrQueue := rfl
@[simp] theorem issued_held : (s.issued).held = s.held := rfl
@[simp] theorem issued_blocked : (s.issued).blocked = s.blocked := rfl
@[simp] theorem issued_requests : (s.issued).requests = s.requests := rfl
@[simp] theorem issued_placing : (s.issued).placing = s.placing := rfl
@[simp] theorem issued_spawnReplies : (s.issued).spawnReplies = s.spawnReplies := rfl
@[simp] theorem issued_cache : (s.issued).cache = s.cache := rfl
@[simp] theorem issued_objs : (s.issued).objs = s.objs := rfl
@[simp] theorem issued_aqis : (s.issued).aqis = s.aqis := rfl
@[simp] theorem issued_revoked : (s.issued).revoked = s.revoked := rfl
@[simp] theorem issued_adminQ : (s.issued).adminQ = s.adminQ := rfl
@[simp] theorem issued_adminWait : (s.issued).adminWait = s.adminWait := rfl
@[simp] theorem issued_adminComp : (s.issued).adminComp = s.adminComp := rfl
@[simp] theorem issued_adminSize : (s.issued).adminSize = s.adminSize := rfl
@[simp] theorem issued_adminTail : (s.issued).adminTail = s.adminTail := rfl
@[simp] theorem issued_adminPhase : (s.issued).adminPhase = s.adminPhase := rfl
@[simp] theorem issued_notices : (s.issued).notices = s.notices := rfl
@[simp] theorem issued_intake : (s.issued).intake = s.intake := rfl
@[simp] theorem issued_power : (s.issued).power = s.power := rfl
@[simp] theorem issued_clock : (s.issued).clock = s.clock := rfl
@[simp] theorem issued_dev : (s.issued).dev = s.dev := rfl
@[simp] theorem issued_flash : (s.issued).flash = s.flash := rfl
@[simp] theorem issued_spans : (s.issued).spans = s.spans := rfl
end

/-! ## Updates of the operators, actors and channels of a task, and of a context -/

@[simp] theorem modOp_rest {t o : Nat} {g : Op → Op} :
    (s.modOp t o g).agenda = s.agenda ∧ (s.modOp t o g).cur = s.cur ∧ (s.modOp t o g).tick = s.tick ∧
    (s.modOp t o g).issues = s.issues ∧ (s.modOp t o g).fc = s.fc ∧ (s.modOp t o g).nextTask = s.nextTask ∧
    (s.modOp t o g).nextLaunch = s.nextLaunch ∧ (s.modOp t o g).nextId = s.nextId ∧ (s.modOp t o g).mem = s.mem ∧
    (s.modOp t o g).tags = s.tags ∧ (s.modOp t o g).tiles = s.tiles ∧ (s.modOp t o g).knots = s.knots ∧
    (s.modOp t o g).links = s.links ∧ (s.modOp t o g).msgs = s.msgs ∧ (s.modOp t o g).cores = s.cores ∧
    (s.modOp t o g).banks = s.banks ∧ (s.modOp t o g).buffers = s.buffers ∧ (s.modOp t o g).bufSeen = s.bufSeen ∧
    (s.modOp t o g).masks = s.masks ∧ (s.modOp t o g).timeline = s.timeline ∧ (s.modOp t o g).poisonedTl = s.poisonedTl ∧
    (s.modOp t o g).tlb = s.tlb ∧ (s.modOp t o g).misses = s.misses ∧ (s.modOp t o g).roots = s.roots ∧
    (s.modOp t o g).hostAbsent = s.hostAbsent ∧ (s.modOp t o g).pageReqs = s.pageReqs ∧ (s.modOp t o g).ctxs = s.ctxs ∧
    (s.modOp t o g).launches = s.launches ∧ (s.modOp t o g).ready = s.ready ∧ (s.modOp t o g).fsrQueue = s.fsrQueue ∧
    (s.modOp t o g).held = s.held ∧ (s.modOp t o g).blocked = s.blocked ∧ (s.modOp t o g).requests = s.requests ∧
    (s.modOp t o g).placing = s.placing ∧ (s.modOp t o g).spawnReplies = s.spawnReplies ∧ (s.modOp t o g).cache = s.cache ∧
    (s.modOp t o g).objs = s.objs ∧ (s.modOp t o g).aqis = s.aqis ∧ (s.modOp t o g).revoked = s.revoked ∧
    (s.modOp t o g).adminQ = s.adminQ ∧ (s.modOp t o g).adminWait = s.adminWait ∧ (s.modOp t o g).adminComp = s.adminComp ∧
    (s.modOp t o g).adminSize = s.adminSize ∧ (s.modOp t o g).adminTail = s.adminTail ∧
    (s.modOp t o g).adminPhase = s.adminPhase ∧ (s.modOp t o g).notices = s.notices ∧ (s.modOp t o g).intake = s.intake ∧
    (s.modOp t o g).power = s.power ∧ (s.modOp t o g).clock = s.clock ∧ (s.modOp t o g).dev = s.dev ∧
    (s.modOp t o g).flash = s.flash ∧ (s.modOp t o g).spans = s.spans := by
  refine ⟨rfl, rfl, rfl, rfl, rfl, rfl, rfl, rfl, rfl, rfl, rfl, rfl, rfl, rfl, rfl, rfl, rfl, rfl, rfl, rfl, rfl, rfl, rfl, rfl, rfl, rfl, rfl, rfl, rfl, rfl, rfl, rfl, rfl, rfl, rfl, rfl, rfl, rfl, rfl, rfl, rfl, rfl, rfl, rfl, rfl, rfl, rfl, rfl, rfl, rfl, rfl, rfl⟩
@[simp] theorem modChan_rest {t o : Nat} {g : Chan → Chan} :
    (s.modChan t o g).agenda = s.agenda ∧ (s.modChan t o g).cur = s.cur ∧ (s.modChan t o g).tick = s.tick ∧
    (s.modChan t o g).issues = s.issues ∧ (s.modChan t o g).fc = s.fc ∧ (s.modChan t o g).nextTask = s.nextTask ∧
    (s.modChan t o g).nextLaunch = s.nextLaunch ∧ (s.modChan t o g).nextId = s.nextId ∧ (s.modChan t o g).mem = s.mem ∧
    (s.modChan t o g).tags = s.tags ∧ (s.modChan t o g).tiles = s.tiles ∧ (s.modChan t o g).knots = s.knots ∧
    (s.modChan t o g).links = s.links ∧ (s.modChan t o g).msgs = s.msgs ∧ (s.modChan t o g).cores = s.cores ∧
    (s.modChan t o g).banks = s.banks ∧ (s.modChan t o g).buffers = s.buffers ∧ (s.modChan t o g).bufSeen = s.bufSeen ∧
    (s.modChan t o g).masks = s.masks ∧ (s.modChan t o g).timeline = s.timeline ∧ (s.modChan t o g).poisonedTl = s.poisonedTl ∧
    (s.modChan t o g).tlb = s.tlb ∧ (s.modChan t o g).misses = s.misses ∧ (s.modChan t o g).roots = s.roots ∧
    (s.modChan t o g).hostAbsent = s.hostAbsent ∧ (s.modChan t o g).pageReqs = s.pageReqs ∧ (s.modChan t o g).ctxs = s.ctxs ∧
    (s.modChan t o g).launches = s.launches ∧ (s.modChan t o g).ready = s.ready ∧ (s.modChan t o g).fsrQueue = s.fsrQueue ∧
    (s.modChan t o g).held = s.held ∧ (s.modChan t o g).blocked = s.blocked ∧ (s.modChan t o g).requests = s.requests ∧
    (s.modChan t o g).placing = s.placing ∧ (s.modChan t o g).spawnReplies = s.spawnReplies ∧ (s.modChan t o g).cache = s.cache ∧
    (s.modChan t o g).objs = s.objs ∧ (s.modChan t o g).aqis = s.aqis ∧ (s.modChan t o g).revoked = s.revoked ∧
    (s.modChan t o g).adminQ = s.adminQ ∧ (s.modChan t o g).adminWait = s.adminWait ∧ (s.modChan t o g).adminComp = s.adminComp ∧
    (s.modChan t o g).adminSize = s.adminSize ∧ (s.modChan t o g).adminTail = s.adminTail ∧
    (s.modChan t o g).adminPhase = s.adminPhase ∧ (s.modChan t o g).notices = s.notices ∧ (s.modChan t o g).intake = s.intake ∧
    (s.modChan t o g).power = s.power ∧ (s.modChan t o g).clock = s.clock ∧ (s.modChan t o g).dev = s.dev ∧
    (s.modChan t o g).flash = s.flash ∧ (s.modChan t o g).spans = s.spans := by
  refine ⟨rfl, rfl, rfl, rfl, rfl, rfl, rfl, rfl, rfl, rfl, rfl, rfl, rfl, rfl, rfl, rfl, rfl, rfl, rfl, rfl, rfl, rfl, rfl, rfl, rfl, rfl, rfl, rfl, rfl, rfl, rfl, rfl, rfl, rfl, rfl, rfl, rfl, rfl, rfl, rfl, rfl, rfl, rfl, rfl, rfl, rfl, rfl, rfl, rfl, rfl, rfl, rfl⟩
@[simp] theorem modCell_rest {t o : Nat} {g : Cell → Cell} :
    (s.modCell t o g).agenda = s.agenda ∧ (s.modCell t o g).cur = s.cur ∧ (s.modCell t o g).tick = s.tick ∧
    (s.modCell t o g).issues = s.issues ∧ (s.modCell t o g).fc = s.fc ∧ (s.modCell t o g).nextTask = s.nextTask ∧
    (s.modCell t o g).nextLaunch = s.nextLaunch ∧ (s.modCell t o g).nextId = s.nextId ∧ (s.modCell t o g).mem = s.mem ∧
    (s.modCell t o g).tags = s.tags ∧ (s.modCell t o g).tiles = s.tiles ∧ (s.modCell t o g).knots = s.knots ∧
    (s.modCell t o g).links = s.links ∧ (s.modCell t o g).msgs = s.msgs ∧ (s.modCell t o g).cores = s.cores ∧
    (s.modCell t o g).banks = s.banks ∧ (s.modCell t o g).buffers = s.buffers ∧ (s.modCell t o g).bufSeen = s.bufSeen ∧
    (s.modCell t o g).masks = s.masks ∧ (s.modCell t o g).timeline = s.timeline ∧ (s.modCell t o g).poisonedTl = s.poisonedTl ∧
    (s.modCell t o g).tlb = s.tlb ∧ (s.modCell t o g).misses = s.misses ∧ (s.modCell t o g).roots = s.roots ∧
    (s.modCell t o g).hostAbsent = s.hostAbsent ∧ (s.modCell t o g).pageReqs = s.pageReqs ∧ (s.modCell t o g).ctxs = s.ctxs ∧
    (s.modCell t o g).launches = s.launches ∧ (s.modCell t o g).ready = s.ready ∧ (s.modCell t o g).fsrQueue = s.fsrQueue ∧
    (s.modCell t o g).held = s.held ∧ (s.modCell t o g).blocked = s.blocked ∧ (s.modCell t o g).requests = s.requests ∧
    (s.modCell t o g).placing = s.placing ∧ (s.modCell t o g).spawnReplies = s.spawnReplies ∧ (s.modCell t o g).cache = s.cache ∧
    (s.modCell t o g).objs = s.objs ∧ (s.modCell t o g).aqis = s.aqis ∧ (s.modCell t o g).revoked = s.revoked ∧
    (s.modCell t o g).adminQ = s.adminQ ∧ (s.modCell t o g).adminWait = s.adminWait ∧ (s.modCell t o g).adminComp = s.adminComp ∧
    (s.modCell t o g).adminSize = s.adminSize ∧ (s.modCell t o g).adminTail = s.adminTail ∧
    (s.modCell t o g).adminPhase = s.adminPhase ∧ (s.modCell t o g).notices = s.notices ∧ (s.modCell t o g).intake = s.intake ∧
    (s.modCell t o g).power = s.power ∧ (s.modCell t o g).clock = s.clock ∧ (s.modCell t o g).dev = s.dev ∧
    (s.modCell t o g).flash = s.flash ∧ (s.modCell t o g).spans = s.spans := by
  refine ⟨rfl, rfl, rfl, rfl, rfl, rfl, rfl, rfl, rfl, rfl, rfl, rfl, rfl, rfl, rfl, rfl, rfl, rfl, rfl, rfl, rfl, rfl, rfl, rfl, rfl, rfl, rfl, rfl, rfl, rfl, rfl, rfl, rfl, rfl, rfl, rfl, rfl, rfl, rfl, rfl, rfl, rfl, rfl, rfl, rfl, rfl, rfl, rfl, rfl, rfl, rfl, rfl⟩
@[simp] theorem modVec_rest {t o : Nat} {g : Vec → Vec} :
    (s.modVec t o g).agenda = s.agenda ∧ (s.modVec t o g).cur = s.cur ∧ (s.modVec t o g).tick = s.tick ∧
    (s.modVec t o g).issues = s.issues ∧ (s.modVec t o g).fc = s.fc ∧ (s.modVec t o g).nextTask = s.nextTask ∧
    (s.modVec t o g).nextLaunch = s.nextLaunch ∧ (s.modVec t o g).nextId = s.nextId ∧ (s.modVec t o g).mem = s.mem ∧
    (s.modVec t o g).tags = s.tags ∧ (s.modVec t o g).tiles = s.tiles ∧ (s.modVec t o g).knots = s.knots ∧
    (s.modVec t o g).links = s.links ∧ (s.modVec t o g).msgs = s.msgs ∧ (s.modVec t o g).cores = s.cores ∧
    (s.modVec t o g).banks = s.banks ∧ (s.modVec t o g).buffers = s.buffers ∧ (s.modVec t o g).bufSeen = s.bufSeen ∧
    (s.modVec t o g).masks = s.masks ∧ (s.modVec t o g).timeline = s.timeline ∧ (s.modVec t o g).poisonedTl = s.poisonedTl ∧
    (s.modVec t o g).tlb = s.tlb ∧ (s.modVec t o g).misses = s.misses ∧ (s.modVec t o g).roots = s.roots ∧
    (s.modVec t o g).hostAbsent = s.hostAbsent ∧ (s.modVec t o g).pageReqs = s.pageReqs ∧ (s.modVec t o g).ctxs = s.ctxs ∧
    (s.modVec t o g).launches = s.launches ∧ (s.modVec t o g).ready = s.ready ∧ (s.modVec t o g).fsrQueue = s.fsrQueue ∧
    (s.modVec t o g).held = s.held ∧ (s.modVec t o g).blocked = s.blocked ∧ (s.modVec t o g).requests = s.requests ∧
    (s.modVec t o g).placing = s.placing ∧ (s.modVec t o g).spawnReplies = s.spawnReplies ∧ (s.modVec t o g).cache = s.cache ∧
    (s.modVec t o g).objs = s.objs ∧ (s.modVec t o g).aqis = s.aqis ∧ (s.modVec t o g).revoked = s.revoked ∧
    (s.modVec t o g).adminQ = s.adminQ ∧ (s.modVec t o g).adminWait = s.adminWait ∧ (s.modVec t o g).adminComp = s.adminComp ∧
    (s.modVec t o g).adminSize = s.adminSize ∧ (s.modVec t o g).adminTail = s.adminTail ∧
    (s.modVec t o g).adminPhase = s.adminPhase ∧ (s.modVec t o g).notices = s.notices ∧ (s.modVec t o g).intake = s.intake ∧
    (s.modVec t o g).power = s.power ∧ (s.modVec t o g).clock = s.clock ∧ (s.modVec t o g).dev = s.dev ∧
    (s.modVec t o g).flash = s.flash ∧ (s.modVec t o g).spans = s.spans := by
  refine ⟨rfl, rfl, rfl, rfl, rfl, rfl, rfl, rfl, rfl, rfl, rfl, rfl, rfl, rfl, rfl, rfl, rfl, rfl, rfl, rfl, rfl, rfl, rfl, rfl, rfl, rfl, rfl, rfl, rfl, rfl, rfl, rfl, rfl, rfl, rfl, rfl, rfl, rfl, rfl, rfl, rfl, rfl, rfl, rfl, rfl, rfl, rfl, rfl, rfl, rfl, rfl, rfl⟩
@[simp] theorem modMem_rest {t o : Nat} {g : Mem → Mem} :
    (s.modMem t o g).agenda = s.agenda ∧ (s.modMem t o g).cur = s.cur ∧ (s.modMem t o g).tick = s.tick ∧
    (s.modMem t o g).issues = s.issues ∧ (s.modMem t o g).fc = s.fc ∧ (s.modMem t o g).nextTask = s.nextTask ∧
    (s.modMem t o g).nextLaunch = s.nextLaunch ∧ (s.modMem t o g).nextId = s.nextId ∧ (s.modMem t o g).mem = s.mem ∧
    (s.modMem t o g).tags = s.tags ∧ (s.modMem t o g).tiles = s.tiles ∧ (s.modMem t o g).knots = s.knots ∧
    (s.modMem t o g).links = s.links ∧ (s.modMem t o g).msgs = s.msgs ∧ (s.modMem t o g).cores = s.cores ∧
    (s.modMem t o g).banks = s.banks ∧ (s.modMem t o g).buffers = s.buffers ∧ (s.modMem t o g).bufSeen = s.bufSeen ∧
    (s.modMem t o g).masks = s.masks ∧ (s.modMem t o g).timeline = s.timeline ∧ (s.modMem t o g).poisonedTl = s.poisonedTl ∧
    (s.modMem t o g).tlb = s.tlb ∧ (s.modMem t o g).misses = s.misses ∧ (s.modMem t o g).roots = s.roots ∧
    (s.modMem t o g).hostAbsent = s.hostAbsent ∧ (s.modMem t o g).pageReqs = s.pageReqs ∧ (s.modMem t o g).ctxs = s.ctxs ∧
    (s.modMem t o g).launches = s.launches ∧ (s.modMem t o g).ready = s.ready ∧ (s.modMem t o g).fsrQueue = s.fsrQueue ∧
    (s.modMem t o g).held = s.held ∧ (s.modMem t o g).blocked = s.blocked ∧ (s.modMem t o g).requests = s.requests ∧
    (s.modMem t o g).placing = s.placing ∧ (s.modMem t o g).spawnReplies = s.spawnReplies ∧ (s.modMem t o g).cache = s.cache ∧
    (s.modMem t o g).objs = s.objs ∧ (s.modMem t o g).aqis = s.aqis ∧ (s.modMem t o g).revoked = s.revoked ∧
    (s.modMem t o g).adminQ = s.adminQ ∧ (s.modMem t o g).adminWait = s.adminWait ∧ (s.modMem t o g).adminComp = s.adminComp ∧
    (s.modMem t o g).adminSize = s.adminSize ∧ (s.modMem t o g).adminTail = s.adminTail ∧
    (s.modMem t o g).adminPhase = s.adminPhase ∧ (s.modMem t o g).notices = s.notices ∧ (s.modMem t o g).intake = s.intake ∧
    (s.modMem t o g).power = s.power ∧ (s.modMem t o g).clock = s.clock ∧ (s.modMem t o g).dev = s.dev ∧
    (s.modMem t o g).flash = s.flash ∧ (s.modMem t o g).spans = s.spans := by
  refine ⟨rfl, rfl, rfl, rfl, rfl, rfl, rfl, rfl, rfl, rfl, rfl, rfl, rfl, rfl, rfl, rfl, rfl, rfl, rfl, rfl, rfl, rfl, rfl, rfl, rfl, rfl, rfl, rfl, rfl, rfl, rfl, rfl, rfl, rfl, rfl, rfl, rfl, rfl, rfl, rfl, rfl, rfl, rfl, rfl, rfl, rfl, rfl, rfl, rfl, rfl, rfl, rfl⟩
@[simp] theorem modMatrix_rest {t o : Nat} {g : Matrix → Matrix} :
    (s.modMatrix t o g).agenda = s.agenda ∧ (s.modMatrix t o g).cur = s.cur ∧ (s.modMatrix t o g).tick = s.tick ∧
    (s.modMatrix t o g).issues = s.issues ∧ (s.modMatrix t o g).fc = s.fc ∧ (s.modMatrix t o g).nextTask = s.nextTask ∧
    (s.modMatrix t o g).nextLaunch = s.nextLaunch ∧ (s.modMatrix t o g).nextId = s.nextId ∧ (s.modMatrix t o g).mem = s.mem ∧
    (s.modMatrix t o g).tags = s.tags ∧ (s.modMatrix t o g).tiles = s.tiles ∧ (s.modMatrix t o g).knots = s.knots ∧
    (s.modMatrix t o g).links = s.links ∧ (s.modMatrix t o g).msgs = s.msgs ∧ (s.modMatrix t o g).cores = s.cores ∧
    (s.modMatrix t o g).banks = s.banks ∧ (s.modMatrix t o g).buffers = s.buffers ∧ (s.modMatrix t o g).bufSeen = s.bufSeen ∧
    (s.modMatrix t o g).masks = s.masks ∧ (s.modMatrix t o g).timeline = s.timeline ∧
    (s.modMatrix t o g).poisonedTl = s.poisonedTl ∧ (s.modMatrix t o g).tlb = s.tlb ∧ (s.modMatrix t o g).misses = s.misses ∧
    (s.modMatrix t o g).roots = s.roots ∧ (s.modMatrix t o g).hostAbsent = s.hostAbsent ∧
    (s.modMatrix t o g).pageReqs = s.pageReqs ∧ (s.modMatrix t o g).ctxs = s.ctxs ∧ (s.modMatrix t o g).launches = s.launches ∧
    (s.modMatrix t o g).ready = s.ready ∧ (s.modMatrix t o g).fsrQueue = s.fsrQueue ∧ (s.modMatrix t o g).held = s.held ∧
    (s.modMatrix t o g).blocked = s.blocked ∧ (s.modMatrix t o g).requests = s.requests ∧
    (s.modMatrix t o g).placing = s.placing ∧ (s.modMatrix t o g).spawnReplies = s.spawnReplies ∧
    (s.modMatrix t o g).cache = s.cache ∧ (s.modMatrix t o g).objs = s.objs ∧ (s.modMatrix t o g).aqis = s.aqis ∧
    (s.modMatrix t o g).revoked = s.revoked ∧ (s.modMatrix t o g).adminQ = s.adminQ ∧
    (s.modMatrix t o g).adminWait = s.adminWait ∧ (s.modMatrix t o g).adminComp = s.adminComp ∧
    (s.modMatrix t o g).adminSize = s.adminSize ∧ (s.modMatrix t o g).adminTail = s.adminTail ∧
    (s.modMatrix t o g).adminPhase = s.adminPhase ∧ (s.modMatrix t o g).notices = s.notices ∧
    (s.modMatrix t o g).intake = s.intake ∧ (s.modMatrix t o g).power = s.power ∧ (s.modMatrix t o g).clock = s.clock ∧
    (s.modMatrix t o g).dev = s.dev ∧ (s.modMatrix t o g).flash = s.flash ∧ (s.modMatrix t o g).spans = s.spans := by
  refine ⟨rfl, rfl, rfl, rfl, rfl, rfl, rfl, rfl, rfl, rfl, rfl, rfl, rfl, rfl, rfl, rfl, rfl, rfl, rfl, rfl, rfl, rfl, rfl, rfl, rfl, rfl, rfl, rfl, rfl, rfl, rfl, rfl, rfl, rfl, rfl, rfl, rfl, rfl, rfl, rfl, rfl, rfl, rfl, rfl, rfl, rfl, rfl, rfl, rfl, rfl, rfl, rfl⟩
@[simp] theorem modFibre_rest {t o : Nat} {g : Fibre → Fibre} :
    (s.modFibre t o g).agenda = s.agenda ∧ (s.modFibre t o g).cur = s.cur ∧ (s.modFibre t o g).tick = s.tick ∧
    (s.modFibre t o g).issues = s.issues ∧ (s.modFibre t o g).fc = s.fc ∧ (s.modFibre t o g).nextTask = s.nextTask ∧
    (s.modFibre t o g).nextLaunch = s.nextLaunch ∧ (s.modFibre t o g).nextId = s.nextId ∧ (s.modFibre t o g).mem = s.mem ∧
    (s.modFibre t o g).tags = s.tags ∧ (s.modFibre t o g).tiles = s.tiles ∧ (s.modFibre t o g).knots = s.knots ∧
    (s.modFibre t o g).links = s.links ∧ (s.modFibre t o g).msgs = s.msgs ∧ (s.modFibre t o g).cores = s.cores ∧
    (s.modFibre t o g).banks = s.banks ∧ (s.modFibre t o g).buffers = s.buffers ∧ (s.modFibre t o g).bufSeen = s.bufSeen ∧
    (s.modFibre t o g).masks = s.masks ∧ (s.modFibre t o g).timeline = s.timeline ∧
    (s.modFibre t o g).poisonedTl = s.poisonedTl ∧ (s.modFibre t o g).tlb = s.tlb ∧ (s.modFibre t o g).misses = s.misses ∧
    (s.modFibre t o g).roots = s.roots ∧ (s.modFibre t o g).hostAbsent = s.hostAbsent ∧
    (s.modFibre t o g).pageReqs = s.pageReqs ∧ (s.modFibre t o g).ctxs = s.ctxs ∧ (s.modFibre t o g).launches = s.launches ∧
    (s.modFibre t o g).ready = s.ready ∧ (s.modFibre t o g).fsrQueue = s.fsrQueue ∧ (s.modFibre t o g).held = s.held ∧
    (s.modFibre t o g).blocked = s.blocked ∧ (s.modFibre t o g).requests = s.requests ∧ (s.modFibre t o g).placing = s.placing ∧
    (s.modFibre t o g).spawnReplies = s.spawnReplies ∧ (s.modFibre t o g).cache = s.cache ∧ (s.modFibre t o g).objs = s.objs ∧
    (s.modFibre t o g).aqis = s.aqis ∧ (s.modFibre t o g).revoked = s.revoked ∧ (s.modFibre t o g).adminQ = s.adminQ ∧
    (s.modFibre t o g).adminWait = s.adminWait ∧ (s.modFibre t o g).adminComp = s.adminComp ∧
    (s.modFibre t o g).adminSize = s.adminSize ∧ (s.modFibre t o g).adminTail = s.adminTail ∧
    (s.modFibre t o g).adminPhase = s.adminPhase ∧ (s.modFibre t o g).notices = s.notices ∧
    (s.modFibre t o g).intake = s.intake ∧ (s.modFibre t o g).power = s.power ∧ (s.modFibre t o g).clock = s.clock ∧
    (s.modFibre t o g).dev = s.dev ∧ (s.modFibre t o g).flash = s.flash ∧ (s.modFibre t o g).spans = s.spans := by
  refine ⟨rfl, rfl, rfl, rfl, rfl, rfl, rfl, rfl, rfl, rfl, rfl, rfl, rfl, rfl, rfl, rfl, rfl, rfl, rfl, rfl, rfl, rfl, rfl, rfl, rfl, rfl, rfl, rfl, rfl, rfl, rfl, rfl, rfl, rfl, rfl, rfl, rfl, rfl, rfl, rfl, rfl, rfl, rfl, rfl, rfl, rfl, rfl, rfl, rfl, rfl, rfl, rfl⟩
@[simp] theorem modWalker_rest {t o : Nat} {g : Walker → Walker} :
    (s.modWalker t o g).agenda = s.agenda ∧ (s.modWalker t o g).cur = s.cur ∧ (s.modWalker t o g).tick = s.tick ∧
    (s.modWalker t o g).issues = s.issues ∧ (s.modWalker t o g).fc = s.fc ∧ (s.modWalker t o g).nextTask = s.nextTask ∧
    (s.modWalker t o g).nextLaunch = s.nextLaunch ∧ (s.modWalker t o g).nextId = s.nextId ∧ (s.modWalker t o g).mem = s.mem ∧
    (s.modWalker t o g).tags = s.tags ∧ (s.modWalker t o g).tiles = s.tiles ∧ (s.modWalker t o g).knots = s.knots ∧
    (s.modWalker t o g).links = s.links ∧ (s.modWalker t o g).msgs = s.msgs ∧ (s.modWalker t o g).cores = s.cores ∧
    (s.modWalker t o g).banks = s.banks ∧ (s.modWalker t o g).buffers = s.buffers ∧ (s.modWalker t o g).bufSeen = s.bufSeen ∧
    (s.modWalker t o g).masks = s.masks ∧ (s.modWalker t o g).timeline = s.timeline ∧
    (s.modWalker t o g).poisonedTl = s.poisonedTl ∧ (s.modWalker t o g).tlb = s.tlb ∧ (s.modWalker t o g).misses = s.misses ∧
    (s.modWalker t o g).roots = s.roots ∧ (s.modWalker t o g).hostAbsent = s.hostAbsent ∧
    (s.modWalker t o g).pageReqs = s.pageReqs ∧ (s.modWalker t o g).ctxs = s.ctxs ∧ (s.modWalker t o g).launches = s.launches ∧
    (s.modWalker t o g).ready = s.ready ∧ (s.modWalker t o g).fsrQueue = s.fsrQueue ∧ (s.modWalker t o g).held = s.held ∧
    (s.modWalker t o g).blocked = s.blocked ∧ (s.modWalker t o g).requests = s.requests ∧
    (s.modWalker t o g).placing = s.placing ∧ (s.modWalker t o g).spawnReplies = s.spawnReplies ∧
    (s.modWalker t o g).cache = s.cache ∧ (s.modWalker t o g).objs = s.objs ∧ (s.modWalker t o g).aqis = s.aqis ∧
    (s.modWalker t o g).revoked = s.revoked ∧ (s.modWalker t o g).adminQ = s.adminQ ∧
    (s.modWalker t o g).adminWait = s.adminWait ∧ (s.modWalker t o g).adminComp = s.adminComp ∧
    (s.modWalker t o g).adminSize = s.adminSize ∧ (s.modWalker t o g).adminTail = s.adminTail ∧
    (s.modWalker t o g).adminPhase = s.adminPhase ∧ (s.modWalker t o g).notices = s.notices ∧
    (s.modWalker t o g).intake = s.intake ∧ (s.modWalker t o g).power = s.power ∧ (s.modWalker t o g).clock = s.clock ∧
    (s.modWalker t o g).dev = s.dev ∧ (s.modWalker t o g).flash = s.flash ∧ (s.modWalker t o g).spans = s.spans := by
  refine ⟨rfl, rfl, rfl, rfl, rfl, rfl, rfl, rfl, rfl, rfl, rfl, rfl, rfl, rfl, rfl, rfl, rfl, rfl, rfl, rfl, rfl, rfl, rfl, rfl, rfl, rfl, rfl, rfl, rfl, rfl, rfl, rfl, rfl, rfl, rfl, rfl, rfl, rfl, rfl, rfl, rfl, rfl, rfl, rfl, rfl, rfl, rfl, rfl, rfl, rfl, rfl, rfl⟩
@[simp] theorem modSpline_rest {t o : Nat} {g : Spline → Spline} :
    (s.modSpline t o g).agenda = s.agenda ∧ (s.modSpline t o g).cur = s.cur ∧ (s.modSpline t o g).tick = s.tick ∧
    (s.modSpline t o g).issues = s.issues ∧ (s.modSpline t o g).fc = s.fc ∧ (s.modSpline t o g).nextTask = s.nextTask ∧
    (s.modSpline t o g).nextLaunch = s.nextLaunch ∧ (s.modSpline t o g).nextId = s.nextId ∧ (s.modSpline t o g).mem = s.mem ∧
    (s.modSpline t o g).tags = s.tags ∧ (s.modSpline t o g).tiles = s.tiles ∧ (s.modSpline t o g).knots = s.knots ∧
    (s.modSpline t o g).links = s.links ∧ (s.modSpline t o g).msgs = s.msgs ∧ (s.modSpline t o g).cores = s.cores ∧
    (s.modSpline t o g).banks = s.banks ∧ (s.modSpline t o g).buffers = s.buffers ∧ (s.modSpline t o g).bufSeen = s.bufSeen ∧
    (s.modSpline t o g).masks = s.masks ∧ (s.modSpline t o g).timeline = s.timeline ∧
    (s.modSpline t o g).poisonedTl = s.poisonedTl ∧ (s.modSpline t o g).tlb = s.tlb ∧ (s.modSpline t o g).misses = s.misses ∧
    (s.modSpline t o g).roots = s.roots ∧ (s.modSpline t o g).hostAbsent = s.hostAbsent ∧
    (s.modSpline t o g).pageReqs = s.pageReqs ∧ (s.modSpline t o g).ctxs = s.ctxs ∧ (s.modSpline t o g).launches = s.launches ∧
    (s.modSpline t o g).ready = s.ready ∧ (s.modSpline t o g).fsrQueue = s.fsrQueue ∧ (s.modSpline t o g).held = s.held ∧
    (s.modSpline t o g).blocked = s.blocked ∧ (s.modSpline t o g).requests = s.requests ∧
    (s.modSpline t o g).placing = s.placing ∧ (s.modSpline t o g).spawnReplies = s.spawnReplies ∧
    (s.modSpline t o g).cache = s.cache ∧ (s.modSpline t o g).objs = s.objs ∧ (s.modSpline t o g).aqis = s.aqis ∧
    (s.modSpline t o g).revoked = s.revoked ∧ (s.modSpline t o g).adminQ = s.adminQ ∧
    (s.modSpline t o g).adminWait = s.adminWait ∧ (s.modSpline t o g).adminComp = s.adminComp ∧
    (s.modSpline t o g).adminSize = s.adminSize ∧ (s.modSpline t o g).adminTail = s.adminTail ∧
    (s.modSpline t o g).adminPhase = s.adminPhase ∧ (s.modSpline t o g).notices = s.notices ∧
    (s.modSpline t o g).intake = s.intake ∧ (s.modSpline t o g).power = s.power ∧ (s.modSpline t o g).clock = s.clock ∧
    (s.modSpline t o g).dev = s.dev ∧ (s.modSpline t o g).flash = s.flash ∧ (s.modSpline t o g).spans = s.spans := by
  refine ⟨rfl, rfl, rfl, rfl, rfl, rfl, rfl, rfl, rfl, rfl, rfl, rfl, rfl, rfl, rfl, rfl, rfl, rfl, rfl, rfl, rfl, rfl, rfl, rfl, rfl, rfl, rfl, rfl, rfl, rfl, rfl, rfl, rfl, rfl, rfl, rfl, rfl, rfl, rfl, rfl, rfl, rfl, rfl, rfl, rfl, rfl, rfl, rfl, rfl, rfl, rfl, rfl⟩
@[simp] theorem modCopy_rest {t o : Nat} {g : Copy → Copy} :
    (s.modCopy t o g).agenda = s.agenda ∧ (s.modCopy t o g).cur = s.cur ∧ (s.modCopy t o g).tick = s.tick ∧
    (s.modCopy t o g).issues = s.issues ∧ (s.modCopy t o g).fc = s.fc ∧ (s.modCopy t o g).nextTask = s.nextTask ∧
    (s.modCopy t o g).nextLaunch = s.nextLaunch ∧ (s.modCopy t o g).nextId = s.nextId ∧ (s.modCopy t o g).mem = s.mem ∧
    (s.modCopy t o g).tags = s.tags ∧ (s.modCopy t o g).tiles = s.tiles ∧ (s.modCopy t o g).knots = s.knots ∧
    (s.modCopy t o g).links = s.links ∧ (s.modCopy t o g).msgs = s.msgs ∧ (s.modCopy t o g).cores = s.cores ∧
    (s.modCopy t o g).banks = s.banks ∧ (s.modCopy t o g).buffers = s.buffers ∧ (s.modCopy t o g).bufSeen = s.bufSeen ∧
    (s.modCopy t o g).masks = s.masks ∧ (s.modCopy t o g).timeline = s.timeline ∧ (s.modCopy t o g).poisonedTl = s.poisonedTl ∧
    (s.modCopy t o g).tlb = s.tlb ∧ (s.modCopy t o g).misses = s.misses ∧ (s.modCopy t o g).roots = s.roots ∧
    (s.modCopy t o g).hostAbsent = s.hostAbsent ∧ (s.modCopy t o g).pageReqs = s.pageReqs ∧ (s.modCopy t o g).ctxs = s.ctxs ∧
    (s.modCopy t o g).launches = s.launches ∧ (s.modCopy t o g).ready = s.ready ∧ (s.modCopy t o g).fsrQueue = s.fsrQueue ∧
    (s.modCopy t o g).held = s.held ∧ (s.modCopy t o g).blocked = s.blocked ∧ (s.modCopy t o g).requests = s.requests ∧
    (s.modCopy t o g).placing = s.placing ∧ (s.modCopy t o g).spawnReplies = s.spawnReplies ∧ (s.modCopy t o g).cache = s.cache ∧
    (s.modCopy t o g).objs = s.objs ∧ (s.modCopy t o g).aqis = s.aqis ∧ (s.modCopy t o g).revoked = s.revoked ∧
    (s.modCopy t o g).adminQ = s.adminQ ∧ (s.modCopy t o g).adminWait = s.adminWait ∧ (s.modCopy t o g).adminComp = s.adminComp ∧
    (s.modCopy t o g).adminSize = s.adminSize ∧ (s.modCopy t o g).adminTail = s.adminTail ∧
    (s.modCopy t o g).adminPhase = s.adminPhase ∧ (s.modCopy t o g).notices = s.notices ∧ (s.modCopy t o g).intake = s.intake ∧
    (s.modCopy t o g).power = s.power ∧ (s.modCopy t o g).clock = s.clock ∧ (s.modCopy t o g).dev = s.dev ∧
    (s.modCopy t o g).flash = s.flash ∧ (s.modCopy t o g).spans = s.spans := by
  refine ⟨rfl, rfl, rfl, rfl, rfl, rfl, rfl, rfl, rfl, rfl, rfl, rfl, rfl, rfl, rfl, rfl, rfl, rfl, rfl, rfl, rfl, rfl, rfl, rfl, rfl, rfl, rfl, rfl, rfl, rfl, rfl, rfl, rfl, rfl, rfl, rfl, rfl, rfl, rfl, rfl, rfl, rfl, rfl, rfl, rfl, rfl, rfl, rfl, rfl, rfl, rfl, rfl⟩
@[simp] theorem modFiring_rest {t o : Nat} {g : Firing → Firing} :
    (s.modFiring t o g).agenda = s.agenda ∧ (s.modFiring t o g).cur = s.cur ∧ (s.modFiring t o g).tick = s.tick ∧
    (s.modFiring t o g).issues = s.issues ∧ (s.modFiring t o g).fc = s.fc ∧ (s.modFiring t o g).nextTask = s.nextTask ∧
    (s.modFiring t o g).nextLaunch = s.nextLaunch ∧ (s.modFiring t o g).nextId = s.nextId ∧ (s.modFiring t o g).mem = s.mem ∧
    (s.modFiring t o g).tags = s.tags ∧ (s.modFiring t o g).tiles = s.tiles ∧ (s.modFiring t o g).knots = s.knots ∧
    (s.modFiring t o g).links = s.links ∧ (s.modFiring t o g).msgs = s.msgs ∧ (s.modFiring t o g).cores = s.cores ∧
    (s.modFiring t o g).banks = s.banks ∧ (s.modFiring t o g).buffers = s.buffers ∧ (s.modFiring t o g).bufSeen = s.bufSeen ∧
    (s.modFiring t o g).masks = s.masks ∧ (s.modFiring t o g).timeline = s.timeline ∧
    (s.modFiring t o g).poisonedTl = s.poisonedTl ∧ (s.modFiring t o g).tlb = s.tlb ∧ (s.modFiring t o g).misses = s.misses ∧
    (s.modFiring t o g).roots = s.roots ∧ (s.modFiring t o g).hostAbsent = s.hostAbsent ∧
    (s.modFiring t o g).pageReqs = s.pageReqs ∧ (s.modFiring t o g).ctxs = s.ctxs ∧ (s.modFiring t o g).launches = s.launches ∧
    (s.modFiring t o g).ready = s.ready ∧ (s.modFiring t o g).fsrQueue = s.fsrQueue ∧ (s.modFiring t o g).held = s.held ∧
    (s.modFiring t o g).blocked = s.blocked ∧ (s.modFiring t o g).requests = s.requests ∧
    (s.modFiring t o g).placing = s.placing ∧ (s.modFiring t o g).spawnReplies = s.spawnReplies ∧
    (s.modFiring t o g).cache = s.cache ∧ (s.modFiring t o g).objs = s.objs ∧ (s.modFiring t o g).aqis = s.aqis ∧
    (s.modFiring t o g).revoked = s.revoked ∧ (s.modFiring t o g).adminQ = s.adminQ ∧
    (s.modFiring t o g).adminWait = s.adminWait ∧ (s.modFiring t o g).adminComp = s.adminComp ∧
    (s.modFiring t o g).adminSize = s.adminSize ∧ (s.modFiring t o g).adminTail = s.adminTail ∧
    (s.modFiring t o g).adminPhase = s.adminPhase ∧ (s.modFiring t o g).notices = s.notices ∧
    (s.modFiring t o g).intake = s.intake ∧ (s.modFiring t o g).power = s.power ∧ (s.modFiring t o g).clock = s.clock ∧
    (s.modFiring t o g).dev = s.dev ∧ (s.modFiring t o g).flash = s.flash ∧ (s.modFiring t o g).spans = s.spans := by
  refine ⟨rfl, rfl, rfl, rfl, rfl, rfl, rfl, rfl, rfl, rfl, rfl, rfl, rfl, rfl, rfl, rfl, rfl, rfl, rfl, rfl, rfl, rfl, rfl, rfl, rfl, rfl, rfl, rfl, rfl, rfl, rfl, rfl, rfl, rfl, rfl, rfl, rfl, rfl, rfl, rfl, rfl, rfl, rfl, rfl, rfl, rfl, rfl, rfl, rfl, rfl, rfl, rfl⟩
@[simp] theorem busy_rest {t : Nat} :
    (s.busy t).agenda = s.agenda ∧ (s.busy t).cur = s.cur ∧ (s.busy t).tick = s.tick ∧ (s.busy t).issues = s.issues ∧
    (s.busy t).fc = s.fc ∧ (s.busy t).nextTask = s.nextTask ∧ (s.busy t).nextLaunch = s.nextLaunch ∧
    (s.busy t).nextId = s.nextId ∧ (s.busy t).mem = s.mem ∧ (s.busy t).tags = s.tags ∧ (s.busy t).tiles = s.tiles ∧
    (s.busy t).knots = s.knots ∧ (s.busy t).links = s.links ∧ (s.busy t).tasks = s.tasks ∧ (s.busy t).msgs = s.msgs ∧
    (s.busy t).cores = s.cores ∧ (s.busy t).banks = s.banks ∧ (s.busy t).buffers = s.buffers ∧ (s.busy t).bufSeen = s.bufSeen ∧
    (s.busy t).masks = s.masks ∧ (s.busy t).timeline = s.timeline ∧ (s.busy t).poisonedTl = s.poisonedTl ∧
    (s.busy t).tlb = s.tlb ∧ (s.busy t).misses = s.misses ∧ (s.busy t).roots = s.roots ∧ (s.busy t).hostAbsent = s.hostAbsent ∧
    (s.busy t).pageReqs = s.pageReqs ∧ (s.busy t).launches = s.launches ∧ (s.busy t).ready = s.ready ∧
    (s.busy t).fsrQueue = s.fsrQueue ∧ (s.busy t).held = s.held ∧ (s.busy t).blocked = s.blocked ∧
    (s.busy t).requests = s.requests ∧ (s.busy t).placing = s.placing ∧ (s.busy t).spawnReplies = s.spawnReplies ∧
    (s.busy t).cache = s.cache ∧ (s.busy t).objs = s.objs ∧ (s.busy t).aqis = s.aqis ∧ (s.busy t).revoked = s.revoked ∧
    (s.busy t).adminQ = s.adminQ ∧ (s.busy t).adminWait = s.adminWait ∧ (s.busy t).adminComp = s.adminComp ∧
    (s.busy t).adminSize = s.adminSize ∧ (s.busy t).adminTail = s.adminTail ∧ (s.busy t).adminPhase = s.adminPhase ∧
    (s.busy t).notices = s.notices ∧ (s.busy t).intake = s.intake ∧ (s.busy t).power = s.power ∧ (s.busy t).clock = s.clock ∧
    (s.busy t).dev = s.dev ∧ (s.busy t).flash = s.flash ∧ (s.busy t).spans = s.spans := by
  refine ⟨rfl, rfl, rfl, rfl, rfl, rfl, rfl, rfl, rfl, rfl, rfl, rfl, rfl, rfl, rfl, rfl, rfl, rfl, rfl, rfl, rfl, rfl, rfl, rfl, rfl, rfl, rfl, rfl, rfl, rfl, rfl, rfl, rfl, rfl, rfl, rfl, rfl, rfl, rfl, rfl, rfl, rfl, rfl, rfl, rfl, rfl, rfl, rfl, rfl, rfl, rfl, rfl⟩

/-! ## What the accessors read after an update -/

@[simp] theorem aget_amod_self {κ α : Type} [DecidableEq κ] {k : κ} {f : α → α} {l : List (κ × α)} :
    aget k (amod k f l) = (aget k l).map f := by
  induction l with
  | nil => rfl
  | cons a t ih =>
    obtain ⟨j, v⟩ := a
    by_cases h : j = k
    · simp [amod, aget, h]
    · simp [amod, aget, h, ih]

theorem aget_amod_other {κ α : Type} [DecidableEq κ] {j k : κ} {f : α → α} {l : List (κ × α)} (h : j ≠ k) :
    aget j (amod k f l) = aget j l := by
  induction l with
  | nil => rfl
  | cons a t ih =>
    obtain ⟨i, v⟩ := a
    by_cases hi : i = k
    · subst hi
      simp [amod, aget, Ne.symm h]
    · by_cases hj : i = j
      · subst hj
        simp [amod, aget, h]
      · simp [amod, aget, hi, hj, ih]

@[simp] theorem aget_aset_self {κ α : Type} [DecidableEq κ] {k : κ} {v : α} {l : List (κ × α)} : aget k (aset k v l) = some v := by
  induction l with
  | nil => simp [aset, aget]
  | cons a t ih =>
    obtain ⟨j, w⟩ := a
    by_cases h : j = k
    · simp [aset, aget, h]
    · simp [aset, aget, h, ih]

theorem aget_aset_other {κ α : Type} [DecidableEq κ] {j k : κ} {v : α} {l : List (κ × α)} (h : j ≠ k) :
    aget j (aset k v l) = aget j l := by
  induction l with
  | nil => simp [aset, aget, Ne.symm h]
  | cons a t ih =>
    obtain ⟨i, w⟩ := a
    by_cases hi : i = k
    · subst hi
      simp [aset, aget, Ne.symm h]
    · by_cases hj : i = j
      · subst hj
        simp [aset, aget, h]
      · simp [aset, aget, hi, hj, ih]

@[simp] theorem modTask_task_self {t : Nat} {g : Task → Task} : (s.modTask t g).task t = (s.task t).map g := aget_amod_self
theorem modTask_task_other {t u : Nat} {g : Task → Task} (h : u ≠ t) : (s.modTask t g).task u = s.task u := aget_amod_other h
@[simp] theorem modCtx_ctx_self {c : Nat} {g : Ctx → Ctx} : (s.modCtx c g).ctx c = (s.ctx c).map g := aget_amod_self
theorem modCtx_ctx_other {c d : Nat} {g : Ctx → Ctx} (h : d ≠ c) : (s.modCtx c g).ctx d = s.ctx d := aget_amod_other h
@[simp] theorem modLaunch_launch_self {l : Nat} {g : Launch → Launch} : (s.modLaunch l g).launch l = (s.launch l).map g := aget_amod_self
theorem modLaunch_launch_other {l m : Nat} {g : Launch → Launch} (h : m ≠ l) : (s.modLaunch l g).launch m = s.launch m :=
  aget_amod_other h
@[simp] theorem modTile_tile_self {k : Nat} {g : Tile → Tile} : (s.modTile k g).tile k = g (s.tile k) := by
  simp [State.tile, State.modTile]
theorem modTile_tile_other {k j : Nat} {g : Tile → Tile} (h : j ≠ k) : (s.modTile k g).tile j = s.tile j := by
  simp [State.tile, State.modTile, aget_aset_other h]

theorem getD_lmod {α : Type} {n : Nat} {f : α → α} {l : List α} {d : α} (h : n < l.length) :
    (lmod n f l).getD n d = f (l.getD n d) := by
  induction l generalizing n with
  | nil => cases h
  | cons a t ih =>
    cases n with
    | zero => rfl
    | succ n => simpa [lmod] using ih (Nat.lt_of_succ_lt_succ h)

theorem getD_lmod_other {α : Type} {n m : Nat} {f : α → α} {l : List α} {d : α} (h : m ≠ n) :
    (lmod n f l).getD m d = l.getD m d := by
  induction l generalizing n m with
  | nil => cases n <;> rfl
  | cons a t ih =>
    cases n with
    | zero =>
      cases m with
      | zero => exact absurd rfl h
      | succ m => rfl
    | succ n =>
      cases m with
      | zero => rfl
      | succ m => simpa [lmod] using ih (fun e => h (congrArg Nat.succ e))

theorem length_lmod {α : Type} {n : Nat} {f : α → α} {l : List α} : (lmod n f l).length = l.length := by
  induction l generalizing n with
  | nil => cases n <;> rfl
  | cons a t ih =>
    cases n with
    | zero => rfl
    | succ n => simp [lmod, ih]

theorem modCore_core_self {k : Nat} {g : Core → Core} (h : k < s.cores.length) : (s.modCore k g).core k = g (s.core k) := getD_lmod h
@[simp] theorem modCore_core_other {k j : Nat} {g : Core → Core} (h : j ≠ k) : (s.modCore k g).core j = s.core j := getD_lmod_other h

end Sys2Proof.Machine
end

