-- ==== Sys2Proof/Laws/Core.lean ====
section
/-! SUPPORT. What the shared operations of control cores do: taking a trap, returning from one, and going on (R111, R151 to
R153). -/
namespace Sys2Proof.Machine

variable {s : State} {k j : Nat} {epc cause eval : Dbl} {code : BitVec 7} {d : SReg} {v : Dbl} {n words : Nat}

/-- Taking a trap, all it can do: EPC, CAUSE and EVAL are set, PMODE takes MODE, MODE is set, the PC goes to TVEC, and a
fault service routine ends; the other registers stay. -/
theorem coreTrapAt_core (h : k < s.cores.length) :
    (s.coreTrapAt k epc cause eval).core k = { (s.core k).trap epc cause eval with fsr := none } := getD_lmod h
@[simp] theorem coreTrapAt_core_other (h : j ≠ k) : (s.coreTrapAt k epc cause eval).core j = s.core j := getD_lmod_other h
/-- A trap writes no memory and changes no task, context or launch. -/
@[simp] theorem coreTrapAt_rest : (s.coreTrapAt k epc cause eval).mem = s.mem ∧ (s.coreTrapAt k epc cause eval).tasks = s.tasks ∧
    (s.coreTrapAt k epc cause eval).ctxs = s.ctxs ∧ (s.coreTrapAt k epc cause eval).launches = s.launches ∧
    (s.coreTrapAt k epc cause eval).tags = s.tags := ⟨rfl, rfl, rfl, rfl, rfl⟩
theorem coreTrap_core (h : k < s.cores.length) :
    (s.coreTrap k code eval).core k = { (s.core k).trap (s.core k).pc (faultCause code) eval with fsr := none } := coreTrapAt_core h
@[simp] theorem coreTrap_core_other (h : j ≠ k) : (s.coreTrap k code eval).core j = s.core j := coreTrapAt_core_other h
@[simp] theorem coreTrap_rest : (s.coreTrap k code eval).mem = s.mem ∧ (s.coreTrap k code eval).tasks = s.tasks ∧
    (s.coreTrap k code eval).ctxs = s.ctxs ∧ (s.coreTrap k code eval).launches = s.launches ∧
    (s.coreTrap k code eval).tags = s.tags := coreTrapAt_rest

/-- The registers of a core that takes a trap. -/
theorem trap_fields (c : Core) : (c.trap epc cause eval).epc = epc ∧ (c.trap epc cause eval).cause = cause ∧
    (c.trap epc cause eval).eval = eval ∧ (c.trap epc cause eval).pc = trapEntry c.tvec ∧
    (c.trap epc cause eval).status = trapStatus c.status ∧ (c.trap epc cause eval).regs = c.regs ∧
    (c.trap epc cause eval).tvec = c.tvec ∧ (c.trap epc cause eval).ctxk = c.ctxk ∧
    (c.trap epc cause eval).scratch = c.scratch := ⟨rfl, rfl, rfl, rfl, rfl, rfl, rfl, rfl, rfl⟩
/-- STATUS after a trap: MODE is set, PMODE takes MODE, and the other bits stay. -/
theorem trapStatus_bits (st : Dbl) : (trapStatus st).getLsbD 0 = true ∧ (trapStatus st).getLsbD 1 = st.getLsbD 0 ∧
    ∀ i, 2 ≤ i → (trapStatus st).getLsbD i = st.getLsbD i := by
  unfold trapStatus
  refine ⟨by simp, ?_, fun i hi => ?_⟩
  · cases h : st.getLsbD 0 <;> simp
  · by_cases hlt : i < 64
    · have h3 : ∀ j : Fin 64, 2 ≤ j.val → (~~~(2 : Dbl)).getLsbD j = true ∧ (2 : Dbl).getLsbD j = false ∧ (1 : Dbl).getLsbD j = false := by
        decide
      obtain ⟨h1, h2, h0⟩ := h3 ⟨i, hlt⟩ hi
      simp only at h1 h2 h0
      rw [BitVec.getLsbD_or, BitVec.getLsbD_or, BitVec.getLsbD_and, h1, h0, Bool.and_true, Bool.or_false]
      split
      · rw [h2, Bool.or_false]
      · rw [show (0 : Dbl).getLsbD i = false from BitVec.getLsbD_zero, Bool.or_false]
    · rw [BitVec.getLsbD_of_ge _ _ (by omega), BitVec.getLsbD_of_ge _ _ (by omega)]

/-- A word that writes a register and goes on. -/
theorem coreWrite_core (h : k < s.cores.length) :
    (s.coreWrite k d v words).core k = { (s.core k).setReg d v with pc := (s.core k).after words } := modCore_core_self h
@[simp] theorem coreWrite_core_other (h : j ≠ k) : (s.coreWrite k d v words).core j = s.core j := getD_lmod_other h
@[simp] theorem coreWrite_rest : (s.coreWrite k d v words).mem = s.mem ∧ (s.coreWrite k d v words).tasks = s.tasks ∧
    (s.coreWrite k d v words).ctxs = s.ctxs ∧ (s.coreWrite k d v words).tags = s.tags := ⟨rfl, rfl, rfl, rfl⟩
/-- A word that writes nothing and goes on. -/
theorem coreNext_core (h : k < s.cores.length) : (s.coreNext k words).core k = { s.core k with pc := (s.core k).after words } :=
  modCore_core_self h
@[simp] theorem coreNext_core_other (h : j ≠ k) : (s.coreNext k words).core j = s.core j := getD_lmod_other h
@[simp] theorem coreNext_rest : (s.coreNext k words).mem = s.mem ∧ (s.coreNext k words).tasks = s.tasks ∧
    (s.coreNext k words).ctxs = s.ctxs ∧ (s.coreNext k words).tags = s.tags := ⟨rfl, rfl, rfl, rfl⟩

/-! ## Registers: s0 reads zero and takes nothing (R66) -/

@[simp] theorem core_reg_zero (c : Core) : c.reg 0 = 0 := rfl
@[simp] theorem core_setReg_zero (c : Core) : c.setReg 0 v = c := rfl
@[simp] theorem cell_reg_zero (c : Cell) : c.reg 0 = 0 := rfl
@[simp] theorem cell_setReg_zero (c : Cell) {w : Word} : c.setReg 0 w = c := rfl

end Sys2Proof.Machine
end

