-- ==== Sys2Proof/Laws/Memory.lean ====
section
/-! SUPPORT. Memory: every operation on it keeps its canonical form, and reset's memory has it (R1, R406). -/
namespace Sys2Proof.Machine

variable {m : List Host.Cell} {lo lo' k n v : Nat} {b : Byte} {s : State}

/-! ## One byte -/

theorem memFrom_cons {t : List Host.Cell} :
    memFrom lo ((k, b) :: t) = true ↔ lo ≤ k ∧ b ≠ 0 ∧ memFrom (k + 1) t = true := by
  rw [memFrom, Bool.and_eq_true, Bool.and_eq_true, decide_eq_true_eq, decide_eq_true_eq, and_assoc]

theorem memFrom_mono (h : memFrom lo m = true) (hle : lo' ≤ lo) : memFrom lo' m = true := by
  cases m with
  | nil => rfl
  | cons c t =>
    obtain ⟨h1, h2⟩ := memFrom_cons.mp h
    exact memFrom_cons.mpr ⟨Nat.le_trans hle h1, h2⟩

/-- A byte written at or above the lower bound keeps the form. -/
theorem memFrom_put (h : memFrom lo m = true) (hk : lo ≤ k) : memFrom lo (memPut m k b) = true := by
  induction m generalizing lo with
  | nil =>
    unfold memPut
    split
    · rfl
    · next hb => exact memFrom_cons.mpr ⟨hk, hb, rfl⟩
  | cons c t ih =>
    obtain ⟨h1, h2, h3⟩ := memFrom_cons.mp h
    unfold memPut
    split
    · next hlt =>
      split
      · exact memFrom_cons.mpr ⟨h1, h2, h3⟩
      · next hb => exact memFrom_cons.mpr ⟨hk, hb, memFrom_cons.mpr ⟨hlt, h2, h3⟩⟩
    · split
      · next heq =>
        subst heq
        split
        · exact memFrom_mono h3 (Nat.le_succ_of_le h1)
        · next hb => exact memFrom_cons.mpr ⟨hk, hb, h3⟩
      · exact memFrom_cons.mpr ⟨h1, h2, ih h3 (by omega)⟩

theorem memPut_wf (h : Memory.wf m = true) : Memory.wf (memPut m k b) = true := memFrom_put h (Nat.zero_le k)

/-! ## Several bytes -/

theorem memWrite_keeps (h : Memory.wf m = true) : Memory.wf (memWrite m k n v) = true := by
  induction n generalizing m k v with
  | zero => exact h
  | succ n ih => exact ih (memPut_wf h)

theorem writeBytes_wf {l : List Byte} (h : Memory.wf m = true) : Memory.wf (writeBytes m k l) = true := by
  induction l generalizing m k with
  | nil => exact h
  | cons b t ih => exact ih (memPut_wf h)

/-- A fold whose steps keep the form keeps it. -/
theorem foldl_wf {α : Type} {f : List Host.Cell → α → List Host.Cell} {l : List α}
    (hf : ∀ m a, Memory.wf m = true → Memory.wf (f m a) = true) (h : Memory.wf m = true) : Memory.wf (l.foldl f m) = true := by
  induction l generalizing m with
  | nil => exact h
  | cons a t ih => exact ih (hf m a h)

theorem memFrom_keep {p : Nat → Bool} (h : memFrom lo m = true) : memFrom lo (memKeep m p) = true := by
  induction m generalizing lo with
  | nil => rfl
  | cons c t ih =>
    obtain ⟨h1, h2, h3⟩ := memFrom_cons.mp h
    unfold memKeep
    rw [List.filter_cons]
    split
    · exact memFrom_cons.mpr ⟨h1, h2, ih h3⟩
    · exact memFrom_mono (ih h3) (Nat.le_succ_of_le h1)

theorem memKeep_wf {p : Nat → Bool} (h : Memory.wf m = true) : Memory.wf (memKeep m p) = true := memFrom_keep h

theorem writeKeys_wf {l : List Nat} (h : Memory.wf m = true) : Memory.wf (writeKeys m l v) = true := by
  induction l generalizing m v with
  | nil => exact h
  | cons a t ih => exact ih (memPut_wf h)

theorem freeBytes_wf {l : List Nat} (h : Memory.wf m = true) : Memory.wf (freeBytes m n l) = true :=
  foldl_wf (fun _ _ => memPut_wf) h

/-! ## States -/

theorem reset_memOk : State.reset.memOk := rfl

theorem writeLoc_memOk {l : Loc} (h : s.memOk) : (s.writeLoc l n v).memOk := memWrite_keeps h

theorem vaWrite_memOk {lctx va : Nat} {s' : State} (h : s.memOk) (hw : s.vaWrite lctx va n v = some s') : s'.memOk := by
  unfold State.vaWrite at hw
  obtain ⟨ks, -, rfl⟩ := Option.map_eq_some_iff.mp hw
  exact writeKeys_wf h

theorem putVaBytes_memOk {lctx va : Nat} {l : List Byte} (h : s.memOk) : (s.putVaBytes lctx va l).memOk := by
  induction l generalizing s va with
  | nil => exact h
  | cons b t ih =>
    unfold State.putVaBytes
    apply ih
    split
    · exact memPut_wf h
    · exact h

theorem setTags_memOk {gs : List Nat} (h : s.memOk) : (s.setTags gs v).memOk := h

theorem uncorrectable_mem {tile : Nat} : (s.uncorrectable tile).mem = s.mem := by
  unfold State.uncorrectable State.retireTile
  split <;> rfl

theorem countTags_mem {tile : Nat} {gs : List Nat} : (s.countTags tile gs).mem = s.mem := by
  unfold State.countTags
  split
  · exact uncorrectable_mem
  · rfl

theorem tileDone_mem {tile v : Nat} {gs : List Nat} : (s.tileDone tile v gs).mem = s.mem := by
  unfold State.tileDone
  dsimp only
  split <;> rfl

theorem memOk_of {s' : State} (hm : s'.mem = s.mem) (h : s.memOk) : s'.memOk := (congrArg (Memory.wf · = true) hm).mpr h

theorem tileWrite_memOk {tile a : Nat} (h : s.memOk) : (s.tileWrite tile a n v).memOk :=
  memOk_of tileDone_mem (writeLoc_memOk (l := .tile tile a) (n := n) (v := v) (memOk_of countTags_mem h))

theorem tilePoison_memOk {tile a : Nat} {w : Word} (h : s.memOk) : (s.tilePoison tile a n w).memOk := by
  have h' := foldl_wf (m := (s.countTags tile (granules tile a n)).mem) (l := granules tile a n)
    (f := fun m g => memWrite m (16 * g) 4 w.toNat) (fun _ _ => memWrite_keeps) (memOk_of countTags_mem h)
  exact memOk_of tileDone_mem h'

theorem touchKey_mem : (s.touchKey k).mem = s.mem := by
  unfold State.touchKey State.touch
  split
  · rfl
  · rfl

theorem drainLine_memOk {t : Nat} {w : WLine} (h : s.memOk) : (s.drainLine t w).memOk := by
  have h' := foldl_wf (m := s.mem) (l := w.bytes) (f := fun m (x : Nat × Byte) => memPut m (w.line + x.1) x.2) (fun _ _ => memPut_wf) h
  unfold State.drainLine
  split
  · exact (congrArg (Memory.wf · = true) touchKey_mem).mpr h'
  · exact (congrArg (Memory.wf · = true) touchKey_mem).mpr h'

theorem clearRegion_memOk {r : Region} (h : s.memOk) : (s.clearRegion r).memOk :=
  memKeep_wf (p := fun k => !r.holds k) h

theorem restoreRegion_memOk {r : Region} {img : List (Nat × Byte) × List (Nat × Nat)} (h : s.memOk) :
    (s.restoreRegion r img).memOk := by
  unfold State.restoreRegion
  have h' : Memory.wf (img.1.foldl (fun m c => memPut m ((Loc.tile r.tile r.base).key + c.1) c.2) (s.clearRegion r).mem) = true :=
    foldl_wf (fun _ _ => memPut_wf) (clearRegion_memOk h)
  generalize img.2 = l
  suffices ∀ u : State, u.memOk → (l.foldl (fun s (x : Nat × Nat) => match r.granules[x.1]? with
      | some g => s.setTags [g] x.2
      | none => s) u).memOk from this _ h'
  induction l with
  | nil => exact fun _ hu => hu
  | cons x t ih =>
    intro u hu
    refine ih _ ?_
    dsimp only
    split
    · exact hu
    · exact hu

end Sys2Proof.Machine
end

