-- ==== Sys2Proof/Laws/Queues.lean ====
section
/-! SUPPORT. What the shared operations of queues of commands do, whatever the command: they leave the state as it was, or
run it (R224, R341, R397, R402); and what a step with a turn on the agenda is (log entry 1). -/
namespace Sys2Proof.Machine

variable {s : State} {p : Packet} {go : State → State}

theorem command_cases (s : State) (e : EngineRef) (ready : Bool) (go : State → State) :
    s.command e ready go = s ∨ s.inboxOpen e = true ∧ ready = true ∧ s.command e ready go = go s := by
  unfold State.command
  split
  · next h => exact .inr ⟨(Bool.and_eq_true _ _ ▸ h).1, (Bool.and_eq_true _ _ ▸ h).2, rfl⟩
  · exact .inl rfl
theorem command_run {e : EngineRef} (h : s.inboxOpen e = true) : s.command e true go = go s := by simp [State.command, h]

theorem admin_cases (s : State) (p : Packet) (go : State → State) :
    s.admin p go = s ∨ s.adminOpen = true ∧ s.adminQ.head? = some p ∧ s.admin p go = go { s with adminQ := s.adminQ.drop 1 } := by
  unfold State.admin
  split
  · exact .inl rfl
  · next h =>
    simp only [Bool.or_eq_true, Bool.not_eq_true', bne_iff_ne, ne_eq, not_or, Bool.not_eq_false, Decidable.not_not] at h
    exact .inr ⟨h.1, h.2, rfl⟩
theorem admin_run (h : s.adminOpen = true) (hp : s.adminQ.head? = some p) : s.admin p go = go { s with adminQ := s.adminQ.drop 1 } := by
  simp [State.admin, h, hp]

theorem request_cases (s : State) (aqi q : Nat) (p : Packet) (ok : Bool) (go : State → State) :
    (s.requestHead aqi q ≠ some p ∧ s.request aqi q p ok go = s) ∨
    (s.requestHead aqi q = some p ∧ (s.request aqi q p ok go = s.refuse aqi q p 4 ∨ s.request aqi q p ok go = s.refuse aqi q p 5 ∨
      s.revoked.contains (Packet.pasid p) = false ∧ s.reqOk aqi q p = true ∧ ok = true ∧ s.request aqi q p ok go = go s)) := by
  unfold State.request
  split
  · next h => exact .inl ⟨h, rfl⟩
  · next h =>
    refine .inr ⟨Decidable.not_not.mp h, ?_⟩
    split
    · exact .inl rfl
    · next h1 =>
      split
      · exact .inr (.inl rfl)
      · next h2 =>
        simp only [Bool.or_eq_true, Bool.not_eq_true', not_or, Bool.not_eq_false] at h2
        exact .inr (.inr ⟨Bool.eq_false_iff.mpr h1, h2.1, h2.2, rfl⟩)

theorem nextTurn_head {x : Turn} {rest : List Turn} (h : s.agenda = x :: rest) :
    s.nextTurn = (x, { s with agenda := rest, cur := .none }) := by simp [State.nextTurn, h]

end Sys2Proof.Machine
end

