-- ==== Sys2Proof/Laws/Tokens.lean ====
section
/-! SUPPORT. The shared operations on tokens, firings and vector registers write no memory and change no control core: one
lemma for each, so that no frame unfolds them (R10, R33 to R36, R109, R112, R127, R201 to R204). -/
namespace Sys2Proof.Machine

/-- From `s` to `s'` no byte of memory and no control core changes. -/
structure State.Quiet (s s' : State) : Prop where
  mem : s'.mem = s.mem
  cores : s'.cores = s.cores

variable {s s' s'' : State} {t o p n : Nat} {tok : Token}

theorem State.Quiet.refl (s : State) : s.Quiet s := ⟨rfl, rfl⟩
theorem State.Quiet.trans (h : s.Quiet s') (h' : s'.Quiet s'') : s.Quiet s'' := ⟨h'.mem.trans h.mem, h'.cores.trans h.cores⟩
theorem State.Quiet.ite {c : Prop} [Decidable c] (h : s.Quiet s') (h' : s.Quiet s'') : s.Quiet (if c then s' else s'') := by
  split
  · exact h
  · exact h'
theorem State.Quiet.foldl {α : Type} {f : State → α → State} {l : List α} (h : ∀ s a, State.Quiet s (f s a)) (s : State) :
    s.Quiet (l.foldl f s) := by
  induction l generalizing s with
  | nil => exact State.Quiet.refl s
  | cons a r ih => exact (h s a).trans (ih (f s a))

/-! ## Tokens -/

theorem modTask_quiet {g : Task → Task} : s.Quiet (s.modTask t g) := ⟨rfl, rfl⟩
theorem modOp_quiet {g : Op → Op} : s.Quiet (s.modOp t o g) := ⟨rfl, rfl⟩
theorem modCell_quiet {g : Cell → Cell} : s.Quiet (s.modCell t o g) := ⟨rfl, rfl⟩
theorem modVec_quiet {g : Vec → Vec} : s.Quiet (s.modVec t o g) := ⟨rfl, rfl⟩
theorem modFiring_quiet {g : Firing → Firing} : s.Quiet (s.modFiring t o g) := ⟨rfl, rfl⟩
theorem modVFiring_quiet {g : Firing → Firing} : s.Quiet (s.modVFiring t o g) := ⟨rfl, rfl⟩
theorem modCtx_quiet {g : Ctx → Ctx} : s.Quiet (s.modCtx t g) := ⟨rfl, rfl⟩
theorem busy_quiet : s.Quiet (s.busy t) := ⟨rfl, rfl⟩
theorem issued_quiet : s.Quiet s.issued := ⟨rfl, rfl⟩
theorem freeze_quiet {code : BitVec 7} {w : Word} : s.Quiet (s.freeze t o code w) := ⟨rfl, rfl⟩
theorem malformed_quiet : s.Quiet (s.malformed t o p tok) := ⟨rfl, rfl⟩
theorem sinkPoison_quiet {w : Word} : s.Quiet (s.sinkPoison t o w) := ⟨rfl, rfl⟩
theorem gotDone_quiet : s.Quiet (s.gotDone t o) := ⟨rfl, rfl⟩
theorem popTok_quiet : s.Quiet (s.popTok t o p) := by
  unfold State.popTok
  split
  · exact ⟨rfl, rfl⟩
  · exact State.Quiet.refl s
theorem pushTok_quiet : s.Quiet (s.pushTok t o p tok) := by
  unfold State.pushTok
  split
  · exact ⟨rfl, rfl⟩
  · exact State.Quiet.refl s
theorem pushAll_quiet {l : List Nat} : s.Quiet (s.pushAll t o tok l) := by
  induction l generalizing s with
  | nil => exact State.Quiet.refl s
  | cons a r ih => exact pushTok_quiet.trans ih
theorem cellPop_quiet : s.Quiet (s.cellPop t o p) := by
  unfold State.cellPop
  refine State.Quiet.ite popTok_quiet ?_
  split
  · exact State.Quiet.refl s
  · exact State.Quiet.ite ((popTok_quiet.trans modFiring_quiet).trans modCell_quiet) (popTok_quiet.trans modFiring_quiet)
theorem cellPops_quiet {l : List Nat} : s.Quiet (s.cellPops t o l) := by
  induction l generalizing s with
  | nil => exact State.Quiet.refl s
  | cons a r ih => exact cellPop_quiet.trans ih

/-! ## Firings -/

theorem pauseTasks_quiet {q : Nat → Task → Bool} : s.Quiet (s.pauseTasks q) := ⟨rfl, rfl⟩
theorem pauseTakesEffect_quiet {c : Nat} : s.Quiet (s.pauseTakesEffect c) := ⟨rfl, rfl⟩
theorem checkStopCond_quiet : s.Quiet (s.checkStopCond t o) := by
  unfold State.checkStopCond
  split
  · exact State.Quiet.refl s
  · split
    · exact State.Quiet.refl s
    · split
      · exact State.Quiet.ite pauseTakesEffect_quiet (State.Quiet.refl s)
      · exact State.Quiet.refl s
theorem countFiring_quiet : s.Quiet (s.countFiring t o) := modOp_quiet.trans checkStopCond_quiet
theorem flushMarks_quiet : s.Quiet (s.flushMarks t o) := by
  unfold State.flushMarks
  split
  · exact State.Quiet.refl s
  · exact State.Quiet.foldl (fun _ _ => sinkPoison_quiet) s
theorem endFiring_quiet {wrap retire : Bool} : s.Quiet (s.endFiring t o wrap retire) := by
  unfold State.endFiring
  exact (modOp_quiet.trans (State.Quiet.ite flushMarks_quiet (State.Quiet.refl _))).trans countFiring_quiet
theorem countMicro_quiet : s.Quiet (s.countMicro t o) := by
  unfold State.countMicro
  split
  · split
    · exact State.Quiet.ite modCtx_quiet (State.Quiet.refl s)
    · exact State.Quiet.refl s
  · exact State.Quiet.refl s
theorem cellAdvance_quiet {words iv : Nat} : s.Quiet (s.cellAdvance t o words iv) :=
  ((countMicro_quiet.trans modFiring_quiet).trans busy_quiet).trans issued_quiet
theorem poisonOut_quiet {pops : List Nat} : s.Quiet (s.poisonOut t o pops tok) := by
  unfold State.poisonOut
  refine State.Quiet.ite ?_ (State.Quiet.refl s)
  exact (((cellPops_quiet.trans (State.Quiet.ite pushAll_quiet sinkPoison_quiet)).trans endFiring_quiet).trans busy_quiet).trans issued_quiet
theorem cellWrite_quiet {f : Firing} {d : Dst} {w : Word} : s.Quiet (s.cellWrite t o f d w) := by
  unfold State.cellWrite
  split
  · exact modCell_quiet
  · exact pushTok_quiet
theorem operandFreeze_quiet {srcs : List Src} {vals : List Opnd} (h : s.operandFreeze t o srcs vals = some s') : s.Quiet s' := by
  unfold State.operandFreeze at h
  split at h
  · cases h; exact malformed_quiet
  · split at h
    · cases h; exact malformed_quiet
    · obtain ⟨w, -, rfl⟩ := Option.map_eq_some_iff.mp h
      exact freeze_quiet

/-- A scalar word on a cell, whatever it does. -/
theorem cellScalar_quiet {d : Dst} {srcs : List Src} {iv : Nat} {g : List Word → Except (BitVec 7) Word} :
    s.Quiet (s.cellScalar t o d srcs iv g) := by
  unfold State.cellScalar
  split
  · exact State.Quiet.refl s
  split
  · exact State.Quiet.refl s
  split
  · exact State.Quiet.refl s
  refine State.Quiet.ite (State.Quiet.refl s) ?_
  split
  · next h => exact operandFreeze_quiet h
  split
  · exact poisonOut_quiet
  split
  · exact poisonOut_quiet
  split
  · exact freeze_quiet
  · exact (cellPops_quiet.trans cellWrite_quiet).trans cellAdvance_quiet

/-! ## Vector words -/

theorem vecAdvance_quiet {iv : Nat} : s.Quiet (s.vecAdvance t o iv) := ⟨rfl, rfl⟩
theorem markV_quiet {d : VNum} {w : Word} : s.Quiet (s.markV t o d w) := ⟨rfl, rfl⟩
theorem markP_quiet {d : PNum} {w : Word} : s.Quiet (s.markP t o d w) := ⟨rfl, rfl⟩
theorem dropMark_quiet {m : Option Word} : s.Quiet (s.dropMark t o m) := by
  unfold State.dropMark
  split
  · exact sinkPoison_quiet
  · exact State.Quiet.refl s
theorem putV_quiet {d : VNum} {r : VReg} : s.Quiet (s.putV t o d r) := dropMark_quiet.trans modVec_quiet
/-- A vector word that writes a vector register, whatever it does. -/
theorem vecOp_quiet {d : VNum} {srcs : List VNum} {q : Pred} {iv : Nat} {merge : Bool} {f : Vec → List VReg → Except (BitVec 7) VOut} :
    s.Quiet (s.vecOp d srcs q iv merge f) := by
  unfold State.vecOp
  split
  · exact State.Quiet.refl s
  split
  · exact markV_quiet.trans vecAdvance_quiet
  dsimp only
  split
  · exact markV_quiet.trans vecAdvance_quiet
  · exact State.Quiet.ite (markV_quiet.trans vecAdvance_quiet) ((putV_quiet.trans modVec_quiet).trans vecAdvance_quiet)

end Sys2Proof.Machine
end

