-- ==== Sys2Proof/Tests/Base.lean ====
section
/-! SUPPORT. Small states for the tests: a task of a few operators with the channels they need, a context whose shared
window covers one MiB, and a launch. -/
namespace Sys2Proof.Tests
open Sys2Proof Sys2Proof.Machine

/-! ## Tokens and channels -/

/-- A data token. -/
def dat (w : Word) : Token := narrowTok 0 w
/-- A token that can be popped at once. -/
def qt (t : Token) : QTok := { tok := t, due := 0 }
/-- A channel from the edge of the test to port `p` of operator `o`. -/
def inp (o p : Nat) (l : List Token) : Chan :=
  { (default : Chan) with prodOp := 90, prodPort := 4, consOp := o, consPort := p, net := .narrow, prodHi := 9, consHi := 9,
                          endq := l.map qt }
/-- A channel from port `p` of operator `o` to the edge of the test. -/
def outp (o p : Nat) : Chan :=
  { (default : Chan) with prodOp := o, prodPort := p, consOp := 91, consPort := 0, net := .narrow, prodHi := 9, consHi := 9 }
/-- A control channel. -/
def ctl (c : Chan) : Chan := { c with net := .control }

/-! ## States -/

/-- A field of a context record. -/
def fld (lo v : Nat) : BitVec 1024 := BitVec.ofNat 1024 v <<< lo
/-- A context record: CEIL 64, PASID 7, the shared window at 0x100000, one MiB, the work queues at its start, 16 counters,
16 handles, the save area and the span window in it. -/
def record0 : BitVec 1024 :=
  fld 0 384 ||| fld 32 7 ||| fld 72 64 ||| fld 256 0x100000 ||| fld 320 1 ||| fld 384 0x100000 ||| fld 560 16 ||| fld 592 16 |||
    fld 640 0x180000 ||| fld 704 0x100000 ||| fld 768 0x1000 ||| fld 832 0x1000
/-- A context. -/
def ctx0 : Ctx := { (default : Ctx) with record := record0 }
/-- A launch. -/
def launch0 : Launch := { (default : Launch) with l := 64, lOld := 64, rseq := 1, deadline := BitVec.allOnes 64 }
/-- A task of some operators, all on tile (0, 0). -/
def task0 (ks : List OpKind) (chans : List Chan) : Task :=
  { handTask (.cell (handCell 3 [] 0)) with
    ops := ks.map fun k => { place := { x := 0, y := 0, sub := 0 }, fault := none, faultFor := 0, recorded := false, poison := none,
                             heldDone := false, firings := 0, kind := k },
    chans := chans }
/-- A state with one task. -/
def st (k : Task) : State :=
  { State.reset with tasks := [(0, k)], ctxs := [(0, ctx0)], launches := [(0, launch0)], nextTask := 1, nextLaunch := 1,
                     nextId := 1, fc := 100 }
/-- A state with some bytes of the shared window: pairs of an offset and a double. -/
def withMem (s : State) (l : List (Nat × Nat)) : State :=
  { s with mem := l.foldl (fun m x => memWrite m (Loc.shm x.1).key 8 x.2) s.mem }

/-- The state with page tables for PASID 7: the page of 1 GiB at VA 1 GiB is HBM, that at 2 GiB a remote device's, that at 3
GiB the host's; each may be read and written (R320 to R322). -/
def tables (s : State) : State :=
  { s with roots := [(7, 0x1000)], aqis := [(0, { (default : Aqi) with parts := [(0, 0x8000000000000000), (1, 0x8000000000000001)] })],
           mem := [(0x1000, 0x2001), (0x2000, 0x3001), (0x3008, 0x40000087), (0x3010, 0x8000000000000087),
             (0x3018, 0x4000000000000087)].foldl (fun m x => memWrite m x.1 8 x.2) s.mem }

/-! ## Cells -/

/-- A cell actor with registers s1 = 3, s2 = 0xFFFFFFF9 and a firing that a data token chose. -/
def cell0 : Cell := { handCell 3 [] 0 with regs := [0, 3, 0xFFFFFFF9] ++ List.replicate 13 0, guard := 3 }
/-- Its firing. -/
def fire0 : Firing := newFiring 0 0 [] false 0
/-- The cell's task: q0 holds -7, q1 holds 3 and a stop, k0 a one; o0, o1 and kc are bound. -/
def cellTask (c : Cell) : Task :=
  task0 [.cell c] [inp 0 0 [dat 0xFFFFFFF9, dat 5], inp 0 1 [dat 3, stopTok 1 0], inp 0 2 [doneTok 0], outp 0 4, outp 0 5,
    ctl (inp 0 6 [ctrlTok true]), ctl (outp 0 kcPort)]
/-- The cell runs. -/
def onCell (c : Cell) : State := { st (cellTask c) with cur := .cell 0 0 }
/-- The state that most tests of cells start from. -/
def cs : State := onCell cell0
/-- The tokens on an output port of operator 0. -/
def sent (s : State) (p : Nat) : List Token :=
  match s.outTo 0 0 p with
  | .to t c => match s.chan t c with
    | some ch => ch.endq.map (·.tok)
    | none => []
  | _ => []
/-- The next state, or reset where there is none. -/
def after (i : Instr) (s : State) : State :=
  match exec i s with
  | .next s' => s'
  | _ => State.reset
/-- An instruction ends in a next state that meets a test. -/
def gives (i : Instr) (s : State) (p : State → Bool) : Bool :=
  match exec i s with
  | .next s' => p s'
  | _ => false

/-- What CellRuns asks, as a test. -/
def runsB (s : State) (t o : Nat) (c : Cell) (f : Firing) : Bool :=
  decide (s.cur = .cell t o) && decide (s.cell t o = some c) && decide (c.firing = some f)
/-- What CellReads asks, as a test. -/
def readsB (s : State) (t o : Nat) (c : Cell) (f : Firing) (srcs : List Src) (vals : List Word) : Bool :=
  runsB s t o c f &&
  match s.readSrcs t o c f.lastHdr [] srcs with
  | none => false
  | some l => decide (l.map Opnd.val = vals) && (s.operandFreeze t o srcs l).isNone && (firstPoison l).isNone

theorem runs_of {s : State} {t o : Nat} {c : Cell} {f : Firing} (h : runsB s t o c f = true) : CellRuns s t o c f := by
  simp only [runsB, Bool.and_eq_true, decide_eq_true_eq] at h
  exact ⟨h.1.1, h.1.2, h.2⟩

theorem reads_of {s : State} {t o : Nat} {c : Cell} {f : Firing} {srcs : List Src} {vals : List Word}
    (h : readsB s t o c f srcs vals = true) : CellReads s t o c f srcs vals := by
  simp only [readsB, Bool.and_eq_true] at h
  refine ⟨runs_of h.1, ?_⟩
  have h2 := h.2
  split at h2
  · cases h2
  · next l hl =>
    simp only [Bool.and_eq_true, decide_eq_true_eq, Option.isNone_iff_eq_none] at h2
    exact ⟨l, hl, h2.1.1, h2.1.2, h2.2⟩

/-! ## Control cores -/

/-- A core with registers s1 = 3, s2 = -7, s3 = local offset 0x40 and s4 = a double of the shared window, CTXK 0. -/
def core0 : Core :=
  { resetCore with regs := [0, 3, 0xFFFFFFFFFFFFFFF9, 0x8000000000000040, 0x100008] ++ List.replicate 11 0,
                   pc := 0x8000000000000100, tvec := 0x200 }
/-- Core 0 runs. -/
def onCore (c : Core) : State :=
  { st (task0 [] []) with cur := .core 0, cores := c :: List.replicate 15 resetCore }
/-- Core 0 in supervisor mode, and in user mode. -/
def ks : State := onCore core0
@[inherit_doc ks] def ku : State := onCore { core0 with status := 0 }

/-! ## Vector units -/

/-- A vector register of some lanes. -/
def vr (tag : Byte) (l : List Word) : VReg := { lanes := l, tag := tag, side := 0, mark := none }
/-- A vector actor: v1 and v2 hold INT32 lanes, v3 FP32 lanes, v4 BF16 or other lanes of the test, v5 is marked. -/
def vec0 (v4 : VReg) : Vec :=
  { handVec [] 0 with vregs := [freshV, vr 9 [1, 2, 3], vr 9 [10, 20, 30, 40], vr 1 [0x3F800000, 0x40000000], v4,
                                { vr 9 [7] with mark := some 0x55 }] ++ List.replicate 26 freshV,
                      pregs := { bits := 5, mark := none } :: List.replicate 7 freshP }
/-- The vector unit runs; port 0 holds a wide token of three words. -/
def onVec (c : Vec) (l : List Token) : State :=
  { st (task0 [.vec c] [inp 0 0 l, { outp 0 4 with net := .wide }, { outp 0 5 with net := .wide }]) with cur := .vec 0 0 }

end Sys2Proof.Tests
end

