-- ==== Sys2Proof/Tests/Units.lean ====
section
/-! SUPPORT. Tests of the units that words do not run: matrix tiles, copy engines, bank ALUs, walkers, splines, fibre units,
memory nodes, firings, links and messages. Each theorem shows a state that meets the hypotheses of a clause of a statement,
and what the step gives there, worked out from the manual. -/
namespace Sys2Proof.Tests
open Sys2Proof Sys2Proof.Machine

set_option maxRecDepth 20000
set_option exponentiation.threshold 5000

/-- A 64-byte image from its doubles. -/
def pk (l : List Nat) : Packet := BitVec.ofNat 512 (l.reverse.foldl (fun v d => v * 2 ^ 64 + d) 0)
/-- An inbox with one packet. -/
def box : Inbox := { emptyInbox 3 with packets := [{ image := 0, core := none, seqSender := false, no := 0 }] }
/-- Where a unit's access goes, when it may go now. -/
def placed (u : UnitAt) : Option (Loc × Option (Nat × Loc)) :=
  match u with
  | .at_ l tail => some (l, tail)
  | _ => none
theorem placed_of {u : UnitAt} {l : Loc} {tail : Option (Nat × Loc)} (h : placed u = some (l, tail)) : u = .at_ l tail := by
  cases u <;> simp_all [placed]
/-- The bytes that a unit reaches, and whether it has stored, when it need not wait. -/
def keysAt (u : UnitKeys) : Option (List Nat) :=
  match u with
  | .at_ ks => some ks
  | _ => none
@[inherit_doc keysAt] def storedIn (r : Stored) : Bool :=
  match r with
  | .ok _ => true
  | _ => false
/-- The keys of n bytes of the shared window. -/
def shmKeys (off n : Nat) : List Nat := (List.range n).map (2 ^ 40 + off + ·)
/-- A state whose task has one operator and some channels. -/
def unit (k : OpKind) (l : List Chan) : State := st (task0 [k] l)

/-! ## Matrix tiles (R227 to R239) -/

/-- A matrix tile of two rows and two columns, INT8 by INT8, one K pass, with a row of each kind in its accumulators. -/
def mx0 : Matrix :=
  { (default : Matrix) with configured := true, afmt := 0xB, ncol := 2, rows := 2, kpass := 1, acc := [(0, 5)], flags := 3, inbox := box,
                            active := { w := [(0, 2), (1, 3)], eb := [], s := 0, poison := none } }
/-- The tile; its output port is bound. -/
def ms (m : Matrix) (l : List Token) : State := unit (.matrix m) [inp 0 mxIn l, inp 0 mxWt l, { outp 0 mxOut with net := .wide }]

theorem wit_mx_cfg : (ms mx0 []).inboxOpen (.op 0 0) = true ∧ mx0.opOpen = false ∧ mx0.load = none ∧
    mx0.swapPending = none ∧
    gives (.mxCfg 0 0 (pk [0, 0xB * 2 ^ 53 + 127 * 2 ^ 42 + 255 * 2 ^ 34 + 15 * 2 ^ 30])) (ms mx0 []) (fun s =>
      (s.matrix 0 0).map (fun m => (m.afmt, m.ncol, m.rows, m.kpass, m.acc.length, m.inbox.started)) ==
        some (0xB, 128, 256, 16, 0, 1)) = true := by decide
theorem wit_mx_loadw : gives (.mxLoadw 0 0 (pk [0, 0, 2 ^ 63])) (ms mx0 []) (fun s =>
    (s.matrix 0 0).map (fun m => m.load.map (fun ld => (ld.stream, ld.taken))) == some (some (true, 0))) = true := by decide
theorem wit_mx_swap : gives (.mxSwap 0 0 0) (ms mx0 []) (fun s => (s.matrix 0 0).map (fun m => (m.swapPending, m.swapAfter)) ==
    some (some 0, false)) = true := by decide
theorem wit_mx_arm : mx0.kpass ≤ 1 ∧ gives (.mxArm 0 0 (pk [0, 2])) (ms mx0 []) (fun s =>
    (s.matrix 0 0).map (fun m => (m.armed, m.opOpen, m.idx)) == some (2, true, 0)) = true := by decide
theorem wit_mx_scale : (pk [0, 2 ^ 56 + 0x3F800000] |>.dbl 1).getLsbD 56 = true ∧
    gives (.mxScale 0 0 (pk [0, 2 ^ 56 + 0x3F800000])) (ms mx0 []) (fun s =>
      (s.matrix 0 0).map (fun m => aget 127 m.cs) == some (some 0x3F800000)) = true ∧
    keysAt ((ms mx0 []).unitKeys 0 0 0x100000 512 0) = some (shmKeys 0 512) ∧
    gives (.mxScale 0 0 (pk [0, 0, 0x100000])) (withMem (ms mx0 []) [(508, 7 * 2 ^ 0)]) (fun s =>
      (s.matrix 0 0).map (fun m => aget 127 m.cs) == some (some 7)) = true := by decide
theorem wit_mx_drain : (0 : Nat) + 1 + 0 + 1 ≤ mx0.rows ∧ gives (.mxDrain 0 0 (pk [0, 1 * 2 ^ 41])) (ms mx0 []) (fun s =>
      (s.matrix 0 0).map (fun m => m.out.length) == some 2) = true ∧
    storedIn ((ms mx0 []).mxRows 0 0 mx0 0x100000 0 1) = true ∧ keysAt ((ms mx0 []).unitKeys 0 0 0x100000 512 1) = some (shmKeys 0 512) ∧
    gives (.mxDrain 0 0 (pk [0, 2 ^ 40, 0x100000])) (ms mx0 []) (fun s => s.readVa 0 0x100000 4 == some 5) = true := by decide
theorem wit_mx_zero : gives (.mxZero 0 0 (pk [0, 2 ^ 56])) (ms mx0 []) (fun s =>
      (s.matrix 0 0).map (fun m => (m.acc, m.flags)) == some ([], 3)) = true := by decide
theorem wit_mx_stat : storedIn ((ms mx0 []).unitWrite 0 0 0x100000 32 mx0.stat) = true ∧
    gives (.mxStat 0 0 (pk [0, 2 ^ 56, 0x100000])) (ms mx0 []) (fun s => (s.matrix 0 0).map (·.flags) == some 0) = true := by decide

/-- The tile with an operation armed for two tokens. -/
def mxRun : Matrix := { mx0 with armed := 2, opOpen := true }
/-- An activation token: two INT8 elements, 1 and 10. -/
def act : Token := { hdr := 0, count := 0, pay := 0x0A01 }
theorem wit_mx_token : (ms mxRun [act]).mxOpen 0 0 = some mxRun ∧ (ms mxRun [act]).behindDone 0 0 mxIn = none ∧
    (ms mxRun [act]).headTok 0 0 mxIn = some act ∧ act.isData = true ∧ mxRun.active.poison = none ∧ mxRun.csPoison = none ∧
    mxRun.pass + 1 = mxRun.kpass ∧ mxRun.out = [] ∧ mxRun.takeAt ≤ (ms mxRun [act]).fc ∧ mxRun.swapPending = none ∧
    ({ mxRun with kpass := 2 } : Matrix).pass + 1 ≠ 2 ∧
    gives (.matrixTokenTake 0 0) (ms { mxRun with kpass := 2 } [act]) (fun s => (s.matrix 0 0).map (fun m => (m.idx, m.armed)) ==
      some (1, 1)) = true := by decide
theorem wit_mx_push : (ms { mx0 with out := [act] } []).goesOn 0 = true ∧
    (ms { mx0 with out := [act] } []).frozen 0 0 = false ∧
    (ms { mx0 with out := [act] } []).canPush 0 0 mxOut 1 = true ∧
    (ms { mx0 with out := [act] } []).pushRate 0 0 mxOut act = none ∧
    (ms { mx0 with out := [act] } []).unitTicks 0 0 = true ∧
    gives (.matrixOutputPush 0 0) (ms { mx0 with out := [act] } []) (fun s => sent s mxOut == [act]) = true := by decide

/-- A weight load from memory, and one from the stream. -/
def ldMem : Load := { stream := false, va := 0x100000, taken := 0, scaled := none, lines := [], poison := none, reply := 0, at_ := 0 }
theorem wit_mx_load : (ms { mx0 with load := some ldMem } []).goesOn 0 = true ∧
    (ms { mx0 with load := some ldMem } []).unitTicks 0 0 = true ∧
    ldMem.at_ ≤ (ms { mx0 with load := some ldMem } []).fc ∧ (ms { mx0 with load := some ldMem } []).frozen 0 0 = false ∧
    ((List.range (imageLines mx0.wfmt + 1)).all fun i => (keysAt ((ms { mx0 with load := some ldMem } []).unitKeys 0 0
      (ldMem.lineVa i) 64 0)).isSome) = true ∧ (0 : Nat) + 1 < imageToks mx0.wfmt ∧ act.kind = Kind.data ∧
    (ms { mx0 with load := some { ldMem with stream := true } } [act]).headTok 0 0 mxWt = some act ∧
    gives (.mxLoadwComplete 0 0) (ms { mx0 with load := some { ldMem with stream := true } } [act]) (fun s =>
      (s.matrix 0 0).map (fun m => m.load.map (·.lines)) == some (some [act.pay])) = true := by decide

/-! ## Copy engines (R345 to R352) -/

/-- A slot that copies one element of 8 bytes within the shared window. -/
def slot0 : Slot :=
  { emptySlot with armed := true, src := .addr 0x100000, dst := .addr 0x100100, dims := [{ ext := 1, sstr := 0, dstr := 0 }],
                   esize := 8, ten := true, tport := 0, sh := some 2, dh := some 3 }
/-- A copy engine. -/
def cp (z : Slot) : Copy := { slots := z :: List.replicate 15 emptySlot, decl := [], rr := 15, inbox := box }
/-- It, with a token at its trigger port. -/
def cps (z : Slot) : State := unit (.copy (cp z)) [inp 0 0 [dat 1]]
theorem wit_cp_arm : (cps slot0).inboxOpen (.op 0 0) = true ∧ (cps slot0).slot 0 0 15 = some emptySlot ∧
    emptySlot.firing = false ∧
    keysAt ((cps slot0).unitKeys 0 0 0x100000 8 0) = some (shmKeys 0 8) ∧ (cps slot0).readKeys (shmKeys 0 8) = 0 ∧
    (armedSlot (pk [0, 15 * 2 ^ 53, 0x100000, 0x100040, 0x100000]) [copyDim 0]).stridesOk = true ∧
    gives (.cpArm 0 0 (pk [0, 15 * 2 ^ 53, 0x100000, 0x100040, 0x100000])) (cps slot0) (fun s =>
      (s.slot 0 0 15).map (fun z => (z.armed, z.src, z.dst)) == some (true, .addr 0x100000, .addr 0x100040)) = true := by decide
theorem wit_cp_fire : gives (.cpFire 0 0 (pk [0, 0])) (cps slot0) (fun s => (s.slot 0 0 0).map (·.firing) == some true) = true := by decide
theorem wit_buf : (cps slot0).bufState 0 = 0 ∧ (cps slot0).bufMay 0 rankWait = true ∧ (cps slot0).bufMay 15 rankSet = true ∧
    (cps slot0).firstAwaiting (.op 0 0) 0 0 = true ∧
    gives (.bufWait 0 0 (pk [0, 0x60])) (cps slot0) (fun s => s.bufState 0 == 2) = true ∧
    gives (.bufSet 0 0 (pk [0, 15 * 2 ^ 32 + 3])) (cps slot0) (fun s => (s.bufState 15, s.bufState 0) == (3, 0)) = true := by decide
theorem wit_tl : ((cps slot0).inbox (.op 0 0)).map (fun b => b.replies.all fun r => r.status.isSome && !r.owesAdd) = some true ∧
    (cps slot0).tlBad 15 = false ∧ ((cps slot0).engineRelease (.op 0 0) 100).isSome = true ∧
    gives (.tlInc 0 0 (pk [0, 15 * 2 ^ 32 + 7])) (cps slot0) (fun s => (s.tl 15, s.tl 0) == (7, 0)) = true ∧
    gives (.tlWait 0 0 (pk [0, 15 * 2 ^ 32, 0, 0])) (cps slot0) (fun s => ((s.inbox (.op 0 0)).map (·.started)) == some 1) = true := by decide
theorem wit_cp_trigger : (cps slot0).copyOpen 0 0 = true ∧ (cps slot0).behindDone 0 0 0 = none ∧
    (cps slot0).headTok 0 0 0 = some (dat 1) ∧
    gives (.copyTrigger 0 0 0) (cps slot0) (fun s => (s.slot 0 0 0).map (fun z => (z.firing, z.elem)) == some (true, 0)) = true := by decide
/-- The slot fires and holds both handles. -/
def slotGo : Slot := { slot0 with firing := true, shTaken := true, dhTaken := true }
theorem wit_cp_transfer : let s := withMem (cps slotGo) [(0, 0x55)]
    let u := s.copyHandles 0
    u.ticks 0 = true ∧ placed (u.unitAt 0 0 0x100000 8 0) = some (.shm 0, none) ∧
    placed (u.unitAt 0 0 0x100100 8 1) = some (.shm 0x100, none) ∧ u.bankHolds (placeKeys (.shm 0x100) none 8) = false ∧
    (∀ key ∈ placeKeys (.shm 0) none 8, key ∉ placeKeys (.shm 0x100) none 8) ∧
    aget copyPort (u.tile 0).lastIssue ≠ some u.fc ∧
    (u.opsAt 0 (((u.tile 0).copyRr + 1) % 8)).map (fun z => (z.1, z.2.1)) = [] ∧
    u.copyDeferred 0 = false ∧ slotGo.fetch = none ∧ (placeKeys (.shm 0) none 8).any isRemote = false ∧ u.vaKeys 0 0x100000 8 0 = some ((List.range 8).map (2 ^ 40 + ·)) ∧
    u.vaKeys 0 0x100100 8 1 = some ((List.range 8).map (2 ^ 40 + 0x100 + ·)) := by decide
/-- A tile served last for entry 7 serves entry 0 next. -/
def cpGo : State := { withMem (cps slotGo) [(0, 0x55)] with tiles := [(0, { emptyTile with copyRr := 7 })] }
theorem wit_cp_element : aget copyPort ((cpGo.copyHandles 0).tile 0).lastIssue ≠ some (cpGo.copyHandles 0).fc ∧
    ((cpGo.copyHandles 0).opsAt 0 ((((cpGo.copyHandles 0).tile 0).copyRr + 1) % 8)).map (fun z => (z.1, z.2.1)) = [(0, 0)] ∧
    (cpGo.copyHandles 0).copyOpen 0 0 = true ∧ (cpGo.copyHandles 0).slot 0 0 (((cp slotGo).rr + 1) % 16) = some slotGo ∧
    gives (.copyTransfer 0 0) cpGo (fun s => s.readVa 0 0x100100 8 == some 0x55 &&
      (s.slot 0 0 0).map (fun z => (z.elem, z.finished)) == some (1, true)) = true := by decide
theorem wit_cp_end : (cps { slotGo with finished := true }).goesOn 0 = true ∧ (cps slotGo).bufMay 3 rankCopy = true ∧
    (cps slotGo).bufMay 2 rankCopy = true ∧
    gives (.copyFiringComplete 0 0 0) (cps { slotGo with finished := true }) (fun s =>
      (s.slot 0 0 0).map (·.firing) == some false && (s.bufState 3, s.bufState 2) == (2, 0)) = true := by decide

/-! ## Bank ALUs (R341 to R344) -/

/-- Bank 5 with a queue of context 0. -/
def bs : State := { st (task0 [] []) with banks := [(5, { emptyBank with queues := [(0, box)] })] }
/-- The image of `bk.rmw`: add the immediate 3 to the word at 0x100280. -/
def rmwImage : Packet := pk [0x0500000100000000, 0, 0x100280, 3]
theorem wit_bank_start : bs.inboxOpen (.bank 5 0) = true ∧ bs.bankCmd 5 0 = none ∧
    [Instr.bkRmw 5 0 rmwImage, .bkRed 5 0 rmwImage, .bkApply 5 0 rmwImage, .bkFill 5 0 rmwImage].all (fun i =>
      gives i bs fun s => s.bankCmd 5 0 == some (bankCmdOf 0 rmwImage 0)) = true := by decide
theorem wit_bank_coll : (tables bs).isPeer 0 (pk [0, 0, 0x100000, 0x80000000] |>.dbl 3).toNat = true ∧
    (tables bs).inboxOpen (.bank 5 0) = true ∧ gives (.bkColl 5 0 (pk [0, 0, 0x100000, 0x80000000])) (tables bs) (fun s =>
      (s.bankCmd 5 0).isSome) = true := by decide
/-- The bank with an rmw running. -/
def bankRun : BankCmd := { bankCmdOf 0 0 0 with opc := 1, dst := 0x100280, n := 1, v := 3 }
def bsRun : State := { withMem bs [(0x280, 4)] with banks := [(5, { emptyBank with queues := [(0, box)], running := [(0, bankRun)] })] }
theorem wit_bank_line : (aget 5 bsRun.banks).map (fun x => (x.nextAt, x.running)) = some (0, [(0, bankRun)]) ∧
    bsRun.dev.halt = false ∧
    bankRun.lctx = 0 ∧ bankRun.waiting = false ∧ bsRun.vaKeys 0 bankRun.dst bankRun.size 0 =
      some ((List.range 4).map (2 ^ 40 + 0x280 + ·)) ∧
    bsRun.vaKeys 0 bankRun.dst bankRun.size 1 = some ((List.range 4).map (2 ^ 40 + 0x280 + ·)) ∧
    gives (.bankLineOperation 5) bsRun (fun s => s.readVa 0 0x100280 4 == some 7 &&
      s.bankCmd 5 0 == none) = true := by decide

/-- Range commands of two words over 4 and 9 at 0x100280, from 10 and 20 at 0x100200. -/
def rangeCmd (opc : Nat) (scal : Bool) (src : Nat) (got : List Nat) : BankCmd :=
  { bankRun with opc := opc, scal := scal, src := src, n := 2, got := got }
@[inherit_doc rangeCmd] def range (k : BankCmd) : State :=
  { withMem bs [(0x280, 4 + 9 * 2 ^ 32), (0x200, 10 + 20 * 2 ^ 32)] with
    banks := [(5, { emptyBank with queues := [(0, box)], running := [(0, k)] })] }
/-- The states of its elements. -/
def rangeAt (k : BankCmd) (val : State → Nat → Nat → Nat) : Nat → State
  | 0 => range k
  | j + 1 =>
    let u := rangeAt k val j
    { u with mem := writeKeys u.mem (shmKeys (0x280 + 4 * j) 4) (val u j (u.readKeys (shmKeys (0x280 + 4 * j) 4))) }
theorem wit_bank_steps : BankSteps (range (rangeCmd 3 true 0x100200 [])) (rangeCmd 3 true 0x100200 []) 2
    (fun _ _ old => (rangeCmd 3 true 0x100200 []).apply old 3) (rangeAt (rangeCmd 3 true 0x100200 []) fun _ _ old =>
      (rangeCmd 3 true 0x100200 []).apply old 3) :=
  ⟨rfl, fun j hj => match j, hj with
    | 0, _ => ⟨shmKeys 0x280 4, by decide, by decide, rfl⟩
    | 1, _ => ⟨shmKeys 0x284 4, by decide, by decide, rfl⟩⟩
/-- What a line operation leaves of the two words, and of the command. -/
def lineOf (k : BankCmd) (d : Nat) : Bool :=
  gives (.bankLineOperation 5) (range k) fun s => s.readVa 0 0x100280 8 == some d && s.bankCmd 5 0 == none
theorem wit_bank_range : lineOf (rangeCmd 3 true 0x100200 []) (7 + 12 * 2 ^ 32) = true ∧
    lineOf (rangeCmd 3 false 0x100200 []) (14 + 29 * 2 ^ 32) = true ∧ lineOf (rangeCmd 4 true 0x100200 []) (3 + 3 * 2 ^ 32) = true ∧
    lineOf (rangeCmd 2 true 0x100200 []) (34 + 9 * 2 ^ 32) = true ∧ lineOf (rangeCmd 2 true 0x100280 []) (17 + 9 * 2 ^ 32) = true ∧
    lineOf (rangeCmd 5 true 0x100200 [1, 2]) (5 + 11 * 2 ^ 32) = true ∧
    (rangeCmd 5 true 0x100200 []).inLine 0x100280 = 2 ∧ (range (rangeCmd 3 false 0x100200 [])).bankRemote (rangeCmd 3 false 0x100200 []) 0 = false ∧
    (range (rangeCmd 3 false 0x100200 [])).vaRead 0 0x100204 4 = some 20 ∧
    (range (rangeCmd 4 true 0x100200 [])).bankHeldBy (some (5, 0)) ((range (rangeCmd 4 true 0x100200 [])).bankTarget (rangeCmd 4 true 0x100200 [])) = false := by
  decide
theorem wit_bank_ask : let s := tables (range (rangeCmd 5 true 0x80000000 []))
    (s.placeNow 0 0x80000000 8 0).map (fun x => (isRemote x.1.key, x.2)) = some (true, none) ∧
    gives (.bankLineOperation 5) s (fun s => s.mem == (tables (range (rangeCmd 5 true 0x80000000 []))).mem &&
      s.bankCmd 5 0 == some { rangeCmd 5 true 0x80000000 [] with waiting := true } &&
      s.spans.map (fun w => (w.bank, w.write, w.bytes, w.k)) == [(some (5, 0), false, 8, 0)]) = true := by decide

/-! ## Walkers and splines (R170 to R179, R242 to R259) -/

/-- A walker of two points, with its mask in the shared window, handle 4. -/
def wk0 : Walker :=
  { (default : Walker) with dims := [{ ext := 2, sstr := 128, dstr := 0 }], base := 0x100000, maskVa := 0x100800, maskBytes := 128,
                            handle := 4, walking := true, inbox := box }
/-- The walker, and a spline that follows it. -/
def ws (w : Walker) (x : Spline) (l : List Token) : State :=
  st (task0 [.walker w, .spline x] [{ outp 0 0 with net := .wide }, inp 1 0 l, outp 1 1])
def wss (w : Walker) : State := ws w default []
theorem wit_walk_begin : (wss wk0).walkOpen 0 0 = some wk0 ∧ (wss wk0).stopped 0 = false ∧
    (wss wk0).launchOf 0 = some launch0 ∧
    (wss wk0).bufState 4 ≠ 3 ∧ (wss wk0).bufMay 4 rankUnit = true ∧ wk0.ended = false ∧ wk0.stopped = false ∧
    wk0.blockAt ≤ (wss wk0).fc ∧
    gives (.walkerBlockBegin 0 0) (wss { wk0 with now := { wk0.now with phase := 5 } }) (fun s => s.bufState 4 == 1 &&
      (s.walker 0 0).map (fun w => (w.begun, w.inBlock, w.latched.l, w.latched.phase)) == some (true, true, 64, 5)) = true := by decide
/-- In its block: it keeps every point; and with L 0 it audits none or one in four. -/
def wkRun : Walker := { wk0 with begun := true, inBlock := true, latched := { wk0.latched with l := 64 } }
def wkSkip (n : Nat) : Walker := { wkRun with pos := 1, latched := { wk0.latched with pat := 1, audit := n } }
theorem wit_walk_point : wkRun.total = 2 ∧ wkRun.useOf true = .keep ∧ (wkSkip 4).useOf true = .audit ∧
    (wkSkip 0).useOf true = .skip ∧
    ((wkSkip 0).passAll (wss (wkSkip 0)).audits).pos = (wkSkip 0).total ∧ (wss wkRun).canReserve 0 0 0 1 = true ∧
    placed ((wss wkRun).unitAt 0 0 (wkRun.pointVa 0) 128 0) = some (.shm 0, none) ∧
    gives (.walkerPointIssue 0 0) (wss wkRun) (fun s => (s.walker 0 0).map (fun w => (w.pos, w.pts, w.mask)) == some (1, [0], 0)) = true ∧
    gives (.walkerPointIssue 0 0) (wss (wkSkip 4)) (fun s => (s.walker 0 0).map (fun w => (w.pos, w.pts, w.mask)) ==
      some (2, [1], 2)) = true ∧
    gives (.walkerPointIssue 0 0) (wss (wkSkip 0)) (fun s => (s.walker 0 0).map (fun w => (w.pos, w.pts, w.mask)) ==
      some (2, [], 2)) = true := by decide
theorem wit_walk_end : (wss { wkRun with pos := 2 }).masked 0 0 { wkRun with pos := 2 } = true ∧ wkRun.doneOut = false ∧ wkRun.accs = [] ∧
    (wss { wkRun with pos := 2 }).bufMay 4 rankUnit = true ∧ (wss wkRun).canPush 0 0 0 1 = true ∧
    gives (.walkerEnd 0 0) (wss { wkRun with pos := 2 }) (fun s => s.bufState 4 == 2 &&
    sent s 0 == [doneTok 0] &&
    (s.walker 0 0).map (fun w => (w.walking, w.ended, w.doneOut)) == some (false, true, true)) = true := by decide
/-- A walker that the stop of its launch ends before its last point, and one between walks. -/
theorem wit_walk_stop : let s (w : Walker) : State := { wss w with launches := [(0, { launch0 with deadline := 0 })] }
    (s wkRun).stopped 0 = true ∧ (s wkRun).walkEnds 0 0 = some wkRun ∧ (s wkRun).bufMay 4 rankUnit = true ∧
    (s wkRun).canPush 0 0 0 1 = true ∧ (s wkRun).masked 0 0 wkRun = true ∧ (s { wk0 with walking := false }).walkEnds 0 0 = some { wk0 with walking := false } ∧
    gives (.walkerEnd 0 0) (s wkRun) (fun s => s.bufState 4 == 2 && sent s 0 == [doneTok 0] &&
      (s.walker 0 0).map (fun w => (w.walking, w.cut)) == some (false, true)) = true := by decide
/-- Commands of a walker that is not walking. -/
def wkIdle : Walker := { wk0 with walking := false }
theorem wit_walk_commands : (wss wkIdle).inboxOpen (.op 0 0) = true ∧ wkIdle.walking = false ∧
    wkIdle.doneOut = false := by decide
theorem wit_wk_spec : let s := withMem (wss wkIdle) [(0, 3 * 2 ^ 48), (8, 0x100000), (16, 0)]
    keysAt (s.unitKeys 0 0 0x100000 (8 * (0 + 1 + 2)) 0) = some (shmKeys 0 24) ∧
    s.readKeys (shmKeys 0 24) = 3 * 2 ^ 48 + 0x100000 * 2 ^ 64 ∧
    (wkIdle.spec s.fc (doubles (3 * 2 ^ 48 + 0x100000 * 2 ^ 64) 3) 1 7 0).isSome = true ∧
    gives (.wkSpec 0 0 (pk [0, 7 * 2 ^ 51, 0x100000])) s (fun s => (s.walker 0 0).map (fun w => (w.walking, w.total, w.endLvl)) ==
      some (true, 4, 7)) = true := by decide
theorem wit_wk_kerf : gives (.wkKerf 0 0 (pk [0, 3 * 2 ^ 54 + 63 * 2 ^ 42, 9])) (wss wkIdle) (fun s =>
      (s.walker 0 0).map (fun w => (w.now.pat, w.now.phase, w.now.seed)) == some (3, 63, 9)) = true ∧
    gives (.wkAudit 0 0 (pk [0, 2 * 2 ^ 54])) (wss wkIdle) (fun s => (s.walker 0 0).map (fun w => (w.now.audit, w.now.win)) ==
      some (16, 64)) = true := by decide
theorem wit_kf_ctl : ((wss wkIdle).task 0).map (·.launch) = some 0 ∧ (wss wkIdle).launch 0 = some launch0 ∧
    gives (.kfCtl 0 0 (pk [0, 2 ^ 56 + 40 * 2 ^ 49 + 2 ^ 48 + 5 * 2 ^ 42 + 2 ^ 41])) (wss wkIdle) (fun s =>
      (s.walker 0 0).map (·.now.phase) == some 5 &&
      (s.launch 0).map (fun x => (x.frz, x.updates)) == some (true, [(100, rankCtl, 40, false)])) = true := by decide
/-- An update of L from the fc before, above the ceiling of 64. -/
def late : Launch := { launch0 with updates := [(99, rankCtl, 70, false)], ceWas := 64 }
theorem wit_l_record : (99 : Nat) < (wss wk0).fc ∧
    gives (.coverageLRecord 0) { wss wk0 with launches := [(0, late)] } (fun s =>
    (s.launch 0).map (fun x => (x.l, x.updates)) == some (64, [])) = true ∧
    gives (.coverageLRecord 0) { wss wk0 with launches := [(0, { late with ceWas := 66 })] } (fun s =>
    (s.launch 0).map (fun x => (x.l, x.updates)) == some (66, [(100, rankCeil, 0, false)])) = true := by decide
theorem wit_ce_was : (wss { wk0 with walking := false }).fcOwes = false ∧
    gives .deadlineClockAdvance (wss { wk0 with walking := false }) (fun s => (s.launch 0).map (fun x => (x.ceWas, x.frzWas, x.l)) ==
      some (64, false, 64)) = true := by decide

/-- A spline of two tiles of one token after the walker of operator 0. -/
def sp0 : Spline := { (default : Spline) with fmt := 1, tile := 1, base := 0x100100, count := 2, walker := 0, inbox := box }
/-- A walk that has issued point 1, and the walker after it. -/
def walk1 : WalkRec := { pts := [1], exts := [2], latched := wkRun.latched, endLvl := 0 }
def walked : Walker := { wkRun with pos := 2, pts := [1], ended := true, walks := 1, past := [walk1] }
theorem wit_sp_take : (ws walked sp0 [dat 7]).splineOpen 0 1 = some sp0 ∧ sp0.phase = .take ∧
    (ws walked sp0 [dat 7]).headTok 0 1 0 = some (dat 7) ∧ sp0.hasAll walked = false ∧ (walked.walk 0).pts[sp0.taken / sp0.tile]? = some 1 ∧
    placed ((ws walked sp0 [dat 7]).unitAt 0 1 (sp0.base + 1 * sp0.tileBytes) 128 1) = some (.shm 0x180, none) ∧
    gives (.splineTileStore 0 1) (ws walked sp0 [dat 7]) (fun s => (s.spline 0 1).map (fun x =>
      (x.taken, x.computed, x.flags, x.accs.map (·.loc))) == some (1, [(1, [(dat 7).pay])], [(1, 2)], [.shm 0x180])) = true := by decide
theorem wit_sp_recon : let s : State := { ws walked { sp0 with inputDone := true } [] with buffers := [(4, 2)] }
    s.splineReady { sp0 with inputDone := true } walked = true ∧ s.reconstructs 0 (walked.walk 0) = false ∧
    gives (.splineReconstruct 0 1) s (fun s => s.bufState 4 == 3 && (s.spline 0 1).map (fun x => (x.phase, x.next)) ==
      some (.recon, 2)) = true := by decide
theorem wit_sp_point : aget 1 ([] : List (Nat × Nat)) = none ∧ (ws walked sp0 []).bufMay 4 rankUnit = true ∧
    0 < min 128 (sp0.mapBytes - 128 * sp0.sub) ∧
    placed ((ws walked sp0 []).unitAt 0 1 (sp0.base + 1 * sp0.tileBytes) 128 1) = some (.shm 0x180, none) ∧
    placed ((ws walked sp0 []).unitAt 0 1 (sp0.base + 2 * sp0.tileBytes) (min 128 sp0.mapBytes) 1) = some (.shm 0x200, none) ∧
    gives (.splineReconstruct 0 1) (ws walked { sp0 with phase := .recon, next := 1 } []) (fun s =>
      (s.spline 0 1).map (fun x => (x.next, aget 1 x.flags)) == some (2, some 1)) = true ∧
    gives (.splineReconstruct 0 1) { ws walked { sp0 with phase := .recon, next := 2 } [] with buffers := [(4, 2)] } (fun s =>
      s.bufState 4 == 2 && (s.spline 0 1).map (·.phase) == some .acks) = true := by decide
/-- A reconstruction that a pause has interrupted: it waits while a walk fills the mask, and else sets it draining again. -/
theorem wit_sp_again : let x : Spline := { sp0 with phase := .recon, next := 0, holds := false }
    let s (b : Nat) : State := { ws walked x [] with buffers := [(4, b)] }
    (s 1).bufState 4 = 1 ∧ (s 3).bufState 4 = 3 ∧ gives (.splineReconstruct 0 1) (s 1) (fun u => u == s 1) = true ∧
    gives (.splineReconstruct 0 1) (s 3) (fun u => u == s 3) = true ∧
    (s 2).bufState 4 = 2 ∧ gives (.splineReconstruct 0 1) (s 2) (fun u => u.bufState 4 == 3 &&
      (u.spline 0 1).map (fun y => (y.holds, y.next, y.accs.length)) == some (true, 1, 1)) = true := by decide
/-- A reconstruction that `sp.run` asked for. -/
def run0 : SplineRun :=
  { handle := 5, base := 0x100100, exts := [2], passed := 2, mask := 0, flags := [], back := .take, reply := 0 }
theorem wit_sp_done : gives (.splineDone 0 1) (ws walked { sp0 with phase := .acks, taken := 1, flags := [(1, 2)] } []) (fun s =>
      (s.spline 0 1).map (fun x => (x.phase, x.taken, x.flags)) == some (.take, 0, [])) = true ∧
      (ws walked { sp0 with phase := .acks, inputDone := true } []).outBound 0 1 1 = true ∧
    gives (.splineDone 0 1) (ws walked { sp0 with phase := .acks, inputDone := true } []) (fun s =>
      (s.spline 0 1).map (·.phase) == some .done) = true ∧
    gives (.splineDone 0 1) (ws walked { sp0 with phase := .acks, run := some run0 } []) (fun s =>
      (s.spline 0 1).map (·.run) == some none) = true := by decide
theorem wit_sp_cfg : (ws walked sp0 []).inboxOpen (.op 0 1) = true ∧
    gives (.spCfg 0 1 (pk [0, 13 * 2 ^ 53 + 15 * 2 ^ 40, 0x100200, 9])) (ws walked sp0 []) (fun s =>
      (s.spline 0 1).map (fun x => (x.fmt, x.tile, x.base, x.count)) == some (13, 16, 0x100200, 9)) = true := by decide
theorem wit_sp_run : let s : State := { withMem (ws walked sp0 []) [(0x800, 2), (0x840, 1)] with
      masks := [(5, (0x100800, [2]))], buffers := [(5, 2)] }
    s.bufState 5 = 2 ∧ s.bufMay 5 rankUnit = true ∧ keysAt (s.unitKeys 0 1 0x100800 4 0) = some (shmKeys 0x800 4) ∧
    s.readKeys (shmKeys 0x800 4) = 2 ∧ keysAt (s.unitKeys 0 1 0x100840 1 0) = some (shmKeys 0x840 1) ∧ s.readKeys (shmKeys 0x840 1) = 1 ∧
    gives (.spRun 0 1 (pk [0, 5, 0x100100])) s (fun s => s.bufState 5 == 3 && (s.spline 0 1).map (fun x =>
      (x.phase, x.run.map fun r => (r.passed, r.mask, r.back))) == some (.recon, some (2, 1, .take))) = true := by decide

/-! ## Fibre units (R277 to R305) -/

/-- A fibre unit whose buffer is loaded. -/
def fb0 (op : Fop) : Fibre :=
  { (default : Fibre) with fop := op, nin := 2, loaded := true, gram := List.replicate 6 { last := .start, max := 1, run := [] },
                           counts := [3, 2, 4], addrs := [0x100000, 0x100100, 0x100200], arrays := [[0, 2, 2], [7, 9]],
                           lastCoord := [none, none, none], consts := [0, 8], rop := .add }
/-- The unit with tokens on its input ports; its outputs 1 to 9 are bound. -/
def fs (f : Fibre) (l : List (List Token)) : State :=
  unit (.fibre f) ((l.zipIdx.map fun x => inp 0 x.2 x.1) ++ (List.range 9).map fun p => outp 0 (p + 1))
/-- What FibreReady asks, as a test. -/
def readyB (s : State) (f : Fibre) (op : Fop) : Bool :=
  decide ((s.fibreOpen 0 0).map (·.2) = some f) && decide (f.fop = op) && f.loaded && decide (f.nextAt ≤ s.fc) && !f.retired
theorem ready_of {s : State} {f : Fibre} {op : Fop} (h : readyB s f op = true) : FibreReady s 0 0 f op := by
  simp only [readyB, Bool.and_eq_true, decide_eq_true_eq, Bool.not_eq_true'] at h
  obtain ⟨⟨⟨⟨h1, h2⟩, h3⟩, h4⟩, h5⟩ := h
  cases hf : s.fibreOpen 0 0 with
  | none => simp [hf] at h1
  | some x => exact ⟨⟨x.1, by simp [hf] at h1; rw [hf, ← h1]⟩, h2, h3, h4, h5⟩
/-- A scan or dense unit that pushes the fibre of reference r, at position j. -/
def pushing (op : Fop) (r j : Nat) : Fibre := { fb0 op with pushing := some (r, j) }

theorem wit_fb_load : let f : Fibre := { fb0 .scan with loaded := false, nextLine := 0 }
    ((fs f []).fibreOpen 0 0).map (·.2) = some f ∧ f.lines[0]? = some (0, 0) ∧
    placed ((fs f []).unitAt 0 0 (f.addrs.getD 0 0 + 64 * 0) (4 * f.lineWords 0 0) 0) = some (.shm 0, none) ∧
    gives (.fbBufferLoad 0 0) (fs f []) (fun s => (s.fibre 0 0).map (fun f => (f.nextLine, f.accs.length)) == some (1, 1)) = true := by
  decide
theorem wit_fb_scan : FibreReady (fs (pushing .scan 0 1) []) 0 0 (pushing .scan 0 1) .scan ∧
    (fs (pushing .scan 0 1) []).canPushAll 0 0 [1, 2] = true ∧ (pushing .scan 0 1).word 0 0 = .ok 0 ∧
    (pushing .scan 0 1).word 0 1 = .ok 2 ∧ (pushing .scan 0 1).word 1 1 = .ok 9 ∧ (pushing .scan 1 0).word 0 2 = .ok 2 :=
  ⟨ready_of (by decide), by decide, rfl, rfl, rfl, rfl⟩
theorem test_fb_scan : gives (.fbScanStep 0 0) (fs (pushing .scan 0 1) []) (fun s => (sent s 1, sent s 2) == ([dat 9], [dat 1])) = true ∧
    gives (.fbScanStep 0 0) (fs (pushing .scan 1 0) []) (fun s => (sent s 1, sent s 2) == ([stopTok 1 0], [stopTok 1 0])) = true := by
  decide
theorem wit_fb_dense : FibreReady (fs (pushing .dense 5 2) []) 0 0 (pushing .dense 5 2) .dense ∧
    gives (.fbDenseStep 0 0) (fs (pushing .dense 5 2) []) (fun s => (sent s 1, sent s 2) == ([dat 2], [dat 17])) = true :=
  ⟨ready_of (by decide), by decide⟩
theorem wit_fb_start : FibreReady (fs (fb0 .scan) [[dat 1]]) 0 0 (fb0 .scan) .scan ∧
    (fs (fb0 .scan) [[dat 1]]).fHead 0 0 (fb0 .scan) 0 = .tok (dat 1) ∧
    FibreReady (fs (fb0 .dense) [[dat 1]]) 0 0 (fb0 .dense) .dense ∧
    FibreReady (fs (fb0 .lookup) [[dat 1]]) 0 0 (fb0 .lookup) .lookup :=
  ⟨ready_of (by decide), by decide, ready_of (by decide), ready_of (by decide)⟩
/-- A dense unit of an empty level. -/
def dense0 : Fibre := { fb0 .dense with counts := [0] }
/-- The first tokens of a fibre, at its ends and for each kind of reference. -/
theorem wit_fb_take : (fs (fb0 .scan) [[dat 1]]).canPushAll 0 0 [1, 2] = true ∧
    gives (.fbScanStep 0 0) (fs (fb0 .scan) [[dat 0]]) (fun s => (sent s 1, sent s 2, s.headTok 0 0 0) ==
      ([dat 7], [dat 0], none)) = true ∧
    gives (.fbScanStep 0 0) (fs (fb0 .scan) [[dat 1]]) (fun s => (sent s 1, sent s 2) == ([stopTok 1 0], [stopTok 1 0])) = true ∧
    gives (.fbScanStep 0 0) (fs (fb0 .scan) [[dat 2]]) (fun s => (sent s 1).map Token.kind == [Kind.poison]) = true ∧
    gives (.fbScanStep 0 0) (fs (fb0 .scan) [[stopTok 6 0]]) (fun s => sent s 1 == [stopTok 7 0]) = true ∧
    gives (.fbScanStep 0 0) (fs (fb0 .scan) [[doneTok 0]]) (fun s => sent s 2 == [doneTok 0]) = true ∧
    gives (.fbScanStep 0 0) (fs (fb0 .scan) [[poisonTok 0 5]]) (fun s => sent s 2 == [poisonTok 0 5]) = true := by decide
theorem wit_fb_take_dense : gives (.fbDenseStep 0 0) (fs (fb0 .dense) [[dat 1]]) (fun s => (sent s 1, sent s 2) ==
      ([dat 0], [dat 3])) = true ∧ FibreReady (fs dense0 [[dat 1]]) 0 0 dense0 .dense ∧
    gives (.fbDenseStep 0 0) (fs dense0 [[dat 1]]) (fun s => (sent s 1, sent s 2) == ([stopTok 1 0], [stopTok 1 0])) = true ∧
    gives (.fbDenseStep 0 0) (fs (fb0 .dense) [[stopTok 6 0]]) (fun s => sent s 2 == [stopTok 7 0]) = true :=
  ⟨by decide, ready_of (by decide), by decide, by decide⟩
theorem test_fb_lookup : gives (.fbLookupStep 0 0) (fs (fb0 .lookup) [[dat 1]]) (fun s => sent s 1 == [dat 2]) = true ∧
    gives (.fbLookupStep 0 0) (fs (fb0 .lookup) [[dat 3]]) (fun s => (sent s 1).map Token.kind == [Kind.poison]) = true := by decide
/-- Two sides with coordinates a and b, references 10 and 20. -/
def two2 (op : Fop) (a b : Word) : State := fs (fb0 op) [[dat a], [dat 10], [dat b], [dat 20]]
theorem wit_fb_sides : FibreReady (two2 .isect 4 4) 0 0 (fb0 .isect) .isect ∧
    FibreReady (two2 .union 4 5) 0 0 (fb0 .union) .union ∧
    (two2 .isect 4 4).sides 0 0 (fb0 .isect) 2 0 = .heads [(dat 4, dat 10), (dat 4, dat 20)] ∧
    (fb0 .isect).badSide [(dat 4, dat 10), (dat 4, dat 20)] = none ∧
    (two2 .union 4 5).canPushAll 0 0 [6, 7, 8] = true := ⟨ready_of (by decide), ready_of (by decide), rfl, by decide, by decide⟩
theorem test_fb_sides : gives (.fbIsectStep 0 0) (two2 .isect 4 4) (fun s => (sent s 6, sent s 7, sent s 8) ==
      ([dat 4], [dat 10], [dat 20])) = true ∧
    gives (.fbIsectStep 0 0) (two2 .isect 4 5) (fun s => (sent s 6, s.headTok 0 0 0, s.headTok 0 0 2) == ([], none, some (dat 5))) = true ∧
    gives (.fbUnionStep 0 0) (two2 .union 4 5) (fun s => (sent s 6, sent s 7, sent s 8) == ([dat 4], [dat 10], [dat 8])) = true := by
  decide
/-- Two sides at their stop tokens, or at their done tokens. -/
def closing (op : Fop) (k : Token) : State := fs (fb0 op) (List.replicate 4 [k])
theorem wit_fb_close : FibreReady (closing .isect (doneTok 0)) 0 0 (fb0 .isect) .isect ∧
    FibreReady (closing .union (stopTok 2 0)) 0 0 (fb0 .union) .union ∧
    (closing .union (stopTok 2 0)).sides 0 0 (fb0 .union) 2 0 = .heads [(stopTok 2 0, stopTok 2 0), (stopTok 2 0, stopTok 2 0)] ∧
    (closing .isect (doneTok 0)).canPushAll 0 0 [6, 7, 8] = true ∧
    gives (.fbIsectStep 0 0) (closing .isect (doneTok 0)) (fun s => (sent s 6, sent s 7, sent s 8) ==
      ([doneTok 0], [doneTok 0], [doneTok 0])) = true ∧
    gives (.fbUnionStep 0 0) (closing .union (stopTok 2 0)) (fun s => sent s 6 == [stopTok 2 0] &&
      (s.headTok 0 0 3).isNone) = true :=
  ⟨ready_of (by decide), ready_of (by decide), rfl, by decide, by decide, by decide⟩
/-- One side at its end, and a reduction of 6 that its stop closes. -/
def sum0 : Fibre := { fb0 .reduce with sum := some 6, level := 1 }
theorem wit_fb_close_one : FibreReady (fs (fb0 .filter) [[stopTok 1 0], [stopTok 1 0]]) 0 0 (fb0 .filter) .filter ∧
    gives (.fbFilterStep 0 0) (fs (fb0 .filter) [[stopTok 1 0], [stopTok 1 0]]) (fun s => (sent s 2, sent s 3) ==
      ([stopTok 1 0], [stopTok 1 0])) = true ∧
    FibreReady (fs sum0 [[dat 3], [stopTok 1 0]]) 0 0 sum0 .reduce ∧
    gives (.fbReduceStep 0 0) (fs sum0 [[dat 3], [stopTok 1 0]]) (fun s => (sent s 2, sent s 3, (s.fibre 0 0).map (·.sum)) ==
      ([dat 3], [dat 6], some none)) = true ∧
    FibreReady (fs (fb0 .write) [[doneTok 0], [doneTok 0]]) 0 0 (fb0 .write) .write ∧
    gives (.fbWriteStep 0 0) (fs (fb0 .write) [[doneTok 0], [doneTok 0]]) (fun s => (s.fibre 0 0).map (·.retired) == some true) = true :=
  ⟨ready_of (by decide), by decide, ready_of (by decide), by decide, ready_of (by decide), by decide⟩
/-- A side with coordinate 3 and value 6. -/
def side1 (op : Fop) : State := fs (fb0 op) [[dat 3], [dat 6]]
theorem wit_fb_one : FibreReady (side1 .filter) 0 0 (fb0 .filter) .filter ∧
    FibreReady (side1 .reduce) 0 0 (fb0 .reduce) .reduce ∧
    FibreReady (side1 .write) 0 0 (fb0 .write) .write ∧
    (side1 .filter).sides 0 0 (fb0 .filter) 1 0 = .heads [(dat 3, dat 6)] ∧
    (side1 .filter).canPushAll 0 0 [2, 3] = true ∧
    (fb0 .write).i < min ((fb0 .write).counts.getD 1 0) ((fb0 .write).counts.getD 2 0) :=
  ⟨ready_of (by decide), ready_of (by decide), ready_of (by decide), rfl, by decide, by decide⟩
theorem test_fb_one : gives (.fbReduceStep 0 0) (side1 .reduce) (fun s => (s.fibre 0 0).map (·.sum) == some (some 6)) = true ∧
    gives (.fbWriteStep 0 0) (side1 .write) (fun s => (s.fibre 0 0).map (fun f => (f.i, f.accs.map (·.val.toNat))) ==
      some (1, [3, 6])) = true := by decide
theorem wit_fb_repeat : FibreReady (fs (fb0 .repeat_) [[dat 5], [dat 6]]) 0 0 (fb0 .repeat_) .repeat_ ∧
    (fs (fb0 .repeat_) [[dat 5], [dat 6]]).fHead 0 0 (fb0 .repeat_) 1 = .tok (dat 6) ∧
    (fs (fb0 .repeat_) [[dat 5], [dat 6]]).fHead 0 0 (fb0 .repeat_) 0 = .tok (dat 5) ∧
    gives (.fbRepeatStep 0 0) (fs (fb0 .repeat_) [[dat 5], [dat 6]]) (fun s => (sent s 2, sent s 3, s.headTok 0 0 0, s.headTok 0 0 1) ==
      ([dat 5], [dat 6], some (dat 5), none)) = true := ⟨ready_of (by decide), by decide, by decide, by decide⟩

/-! ## Memory nodes (R306 to R308, R316 to R338, R360, R361) -/

/-- A memory node of four words in the shared window from 0x100000. -/
def mm (op : Mop) (space : Nat) : Mem :=
  { (default : Mem) with mop := op, size := 4, space := space, base := 0x100000, count := 4, ordered := true }
/-- The same in region 0 of memory tile (0, 0), which lies at 0x400 there. -/
def mt (op : Mop) : Mem := { mm op 0 with base := 0x10 }
/-- The node as operator 0, with words at its input, its output bound and an ordering edge on each side. -/
def nk (m : Mem) (l : List Token) : Task :=
  { task0 [.mem m] [inp 0 0 l, { outp 0 mpOut with net := .narrow }, ctl { outp 0 mpDn with order := true },
      ctl { inp 0 mpOd [ctrlTok true] with order := true }] with
    regions := [{ num := 0, tile := tileKey 0 0, base := 0x400, size := 0x100, isState := false }] }
/-- Its operator record. -/
def np (m : Mem) : Op := { place := { x := 0, y := 0, sub := 0 }, fault := none, faultFor := 0, recorded := false, poison := none, heldDone := false,
                           firings := 0, kind := .mem m }
/-- Its state. -/
def ns (m : Mem) (l : List Token) : State := st (nk m l)
/-- The granule of the tile's address 0x410. -/
def g0 : Nat := (Loc.tile 0 0x410).key / 16
/-- The granule is full and holds a word. -/
def full (s : State) : State := { s with mem := memWrite s.mem (Loc.tile 0 0x410).key 4 0x77, tags := [(g0, 1)] }

theorem wit_tile_load : (full (ns (mt .ld) [])).memOpen 0 0 = some (nk (mt .ld) [], np (mt .ld), mt .ld) ∧
    (nk (mt .ld) []).chanIn 0 mpAi = none ∧ (full (ns (mt .ld) [])).canReserve 0 0 mpOut (mt .ld).ntok = true ∧
    (nk (mt .ld) []).tileAt (mt .ld) 0 = some (0, 0x410) ∧ (full (ns (mt .ld) [])).badGranule (granules 0 0x410 4) = none ∧
    gives (.loadReadIssue 0 0) (full (ns (mt .ld) [])) (fun s => (s.mnode 0 0).map (fun m => (m.next, m.accs.map (·.val))) ==
      some (1, [0x77]) && s.tag g0 == 1) = true := by decide
theorem wit_tile_ldfe : (full (ns (mt .ldfeClr) [])).memOpen 0 0 = some (nk (mt .ldfeClr) [], np (mt .ldfeClr), mt .ldfeClr) ∧
    (full (ns (mt .ldfeClr) [])).feAdmits (mt .ldfeClr) 0 (granules 0 0x410 4) = true ∧
    (full (ns (mt .ldfeClr) [])).feTurn 0 0 0 (granules 0 0x410 4) = true ∧
    gives (.loadReadIssue 0 0) (full (ns (mt .ldfeClr) [])) (fun s => (s.mnode 0 0).map (fun m => (m.next, m.accs.map (·.val))) ==
      some (1, [0x77]) && s.tag g0 == 0) = true := by decide
/-- An ldfe that waits since fc 90. -/
def mWait : Mem := { mt .ldfeKeep with waitFrom := some 90 }
theorem wit_tile_release : (full (ns mWait [])).memOpen 0 0 = some (nk mWait [], np mWait, mWait) ∧
    (full (ns mWait [])).feAdmits mWait 0 (granules 0 0x410 4) = true ∧
    (full (ns mWait [])).feTurn 0 0 0 (granules 0 0x410 4) = true ∧
    (full (ns mWait [])).feWaiters (tileKey 0 0) [(Loc.tile (tileKey 0 0) (16 * 0x41)).key / 16] = [(0, 0)] ∧
    gives (.fullEmptyRelease 0 0 0x41) (full (ns mWait [])) (fun s => (s.mnode 0 0).map (fun m => (m.next, m.accs.map (·.val))) ==
      some (1, [0x77]) && s.tag g0 == 1) = true := by decide
theorem wit_shm_load : (ns { mm .ld 1 with acq := true } []).memPlace 0 0 (np { mm .ld 1 with acq := true })
      { mm .ld 1 with acq := true } 0x100000 0 = .at_ (.shm 0) none ∧
    gives (.loadReadIssue 0 0) (ns { mm .ld 1 with acq := true } []) (fun s =>
      (s.mnode 0 0).map (fun m => (m.next, m.accs.map (fun a => (a.loc, a.bytes, a.done)))) == some (1, [(.shm 0, 4, false)])) = true :=
  ⟨rfl, by decide⟩
theorem wit_tile_store : (ns (mt .st) [dat 0x55]).memOk ∧
    (ns (mt .st) [dat 0x55]).memOpen 0 0 = some (nk (mt .st) [dat 0x55], np (mt .st), mt .st) ∧
    (nk (mt .st) [dat 0x55]).storePorts 0 = [0] ∧ (ns (mt .st) [dat 0x55]).behindDone 0 0 0 = none ∧
    (ns (mt .st) [dat 0x55]).elemAt 0 0 (mt .st) 0 = some [dat 0x55] ∧ (dat 0x55).isData = true ∧
    (nk (mt .st) [dat 0x55]).tileAt (mt .st) 0 = some (0, 0x410) ∧ (ns (mt .st) [dat 0x55]).rmwHolds 0 0x410 4 = false ∧
    (ns (mt .st) [dat 0x55]).rmwFirst 0 (granules 0 0x410 4) = false ∧
    (ns (mt .st) [dat 0x55]).clearedNow 0 (granules 0 0x410 4) = false ∧
    (ns (mt .stfe) [dat 0x55]).feAdmits (mt .stfe) 0 (granules 0 0x410 4) = true ∧
    (ns (mt .stfe) [dat 0x55]).feTurn 0 0 0 (granules 0 0x410 4) = true ∧
    [Mop.st, Mop.stfe].all (fun op => gives (.storeIssue 0 0) (ns (mt op) [dat 0x55]) (fun s => s.readLoc (.tile 0 0x410) 4 == 0x55 &&
      s.tag g0 == 1 && (s.mnode 0 0).map (·.next) == some 1)) = true := ⟨rfl, by decide⟩
theorem wit_shm_store : (ns (mm .st 1) [dat 0x55]).memPlace 0 0 (np (mm .st 1)) (mm .st 1) 0x100000 1 = .at_ (.shm 0) none ∧
    gives (.storeIssue 0 0) (ns (mm .st 1) [dat 0x55]) (fun s =>
      s.mem.isEmpty && (s.mnode 0 0).map (fun m => m.accs.map (fun a => (a.loc, a.write, a.done, a.val.toNat % 2 ^ 32))) ==
        some [(.shm 0, true, false, 0x55)]) = true := ⟨rfl, by decide⟩
/-- A read that has returned 9, and a write of 0x55 that is due. -/
def rdAcc : Acc := { (default : Acc) with k := 0, loc := .shm 0, bytes := 4, val := 9, done := true, due := 100 }
@[inherit_doc rdAcc] def wrAcc : Acc := { rdAcc with write := true, val := 0x55, done := false }
theorem wit_delivery : let s := ns { mm .ld 1 with accs := [rdAcc], next := 1 } []
    s.mnode 0 0 = some { mm .ld 1 with accs := [rdAcc], next := 1 } ∧ s.goesOn 0 = true ∧ s.frozen 0 0 = false ∧
    rdAcc.due ≤ s.fc ∧
    s.hasRoom 0 0 mpOut 1 = true ∧ s.outBound 0 0 mpOut = true ∧
    gives (.readDelivery 0 0) s (fun s => sent s mpOut == [dat 9]) = true := by decide
theorem wit_ack : let m : Mem := { mm .st 1 with accs := [wrAcc], next := 1 }
    (ns m []).op 0 0 = some (np m) ∧ (ns m []).bankHolds wrAcc.keys = false ∧ wrAcc.due ≤ (ns m []).fc ∧
    gives (.storeAck 0 0) (ns m []) (fun s => s.readVa 0 0x100000 4 == some 0x55 &&
      (s.mnode 0 0).map (·.accs) == some []) = true := by
  decide
/-- An rmw that the port of tile (0, 0) has accepted. -/
def fly : RmwFlight := { at_ := 100, t := 0, o := 0, k := 0, a := 0x410, bytes := 4, val := 12, written := false }
theorem wit_rmw_write : let s : State := { ns (mm .rmw 0) [] with tiles := [(tileKey 0 0, { emptyTile with rmws := [fly] })] }
    s.memOk ∧ (s.tile (tileKey 0 0)).rmws = [fly] ∧ fly.at_ ≤ s.fc ∧
    s.clearedNow (tileKey 0 0) (granules (tileKey 0 0) 0x410 4) = false ∧
    gives (.rmwWrite 0 0) s (fun s => s.readLoc (.tile (tileKey 0 0) 0x410) 4 == 12 &&
      s.tag g0 == 1) = true := ⟨rfl, by decide⟩
theorem wit_mem_done : let m : Mem := { mm .st 1 with inputDone := true, next := 4 }
    (ns m []).memOpen 0 0 = some (nk m [], np m, m) ∧
    gives (.memoryNodeDone 0 0) (ns m []) (fun s => sent s mpDn == [ctrlTok true] &&
      (s.mnode 0 0).map (·.doneOrder) == some true) = true := by decide
theorem wit_fence : let m : Mem := { mm .fence 0 with ordered := false }
    (ns m []).memOpen 0 0 = some (nk m [], np m, m) ∧ ((ns m []).takeEdges 0 0).isSome = true ∧
    gives (.fenceFire 0 0) (ns m []) (fun s => sent s mpDn == [ctrlTok true] &&
      (s.mnode 0 0).map (fun m => (m.doneOrder, m.ordered)) ==
      some (true, true)) = true := by decide
/-- A node that reads HBM, whose tile holds 16 slots of the stream buffers and whose page is in the translation cache. -/
def mh : Mem := { mm .ld 2 with base := 0x40000000 }
@[inherit_doc mh] def hs : State :=
  { ns mh [] with tiles := [(0, { emptyTile with store := List.replicate 8 0x100000 })], mem := memWrite [] 0x10 4 0x1234,
                  tlb := [{ die := 0, pasid := 7, aqi := 0, va := 0x40000000, size := 2 ^ 30, loc := .hbm 0, r := true, w := true }] }
theorem wit_prefetch : hs.memOpen 0 0 = some (nk mh [], np mh, mh) ∧
    mh.firstLine ((nk mh []).chanIn 0 mpAi).isSome ≤ 0x800000 ∧
    128 * 0x800000 < mh.base + mh.count * mh.size ∧
    mh.lines.length < hs.lineShare (tileKey 0 0) ((nk mh []).entryAt (tileKey 0 0)) 256 ∧
    hs.xlate (dieOf 0 0) (.op 0 0) (nk mh []).lctx (128 * 0x800000) 128 0 = .at_ (.hbm 0) ∧
    spaceOk mh.space (.hbm 0) = true ∧
    isRemote (Loc.hbm 0).key = false ∧ gives (.streamPrefetch 0 0 0x800000) hs (fun s =>
      (s.mnode 0 0).map (fun m => m.lines.map (fun l => (l.line, l.at_, l.data.toNat / 2 ^ 128))) == some [(0, 100, 0x1234)]) = true := by
  decide
theorem wit_expiry : let m : Mem := { mh with lines := [{ line := 0, data := 0, at_ := 0 }, { line := 128, data := 0, at_ := 50 }] }
    gives (.streamLineExpiry 0 0 0) { ns m [] with fc := 4097 } (fun s => (s.mnode 0 0).map (fun m => m.lines.map (·.line)) ==
      some [128]) = true := by decide
theorem wit_wcb : let w : WLine := { tile := 0, line := 2 ^ 40, bytes := [(4, 0xAB)], last := 36, since := 36, stores := 0 }
    let s := st { nk (mm .st 1) [] with wcb := [w] }
    isRemote w.line = false ∧ w.last + s.bound w.tile 64 ≤ s.fc ∧
    gives (.wcbIdleFlush 0 w.line) s (fun s => memGet s.mem (2 ^ 40 + 4) == 0xAB &&
      (s.task 0).map (·.wcb) == some []) = true := by decide
/-- A miss of the page of 1 GiB, and one of an address without a page. -/
def miss0 (va : Nat) (b : Bool) : Miss :=
  { die := 0, users := [.op 0 0], lctx := 0, pasid := 7, va := va, kind := 0, walking := b, fault := none, order := 3 }
theorem wit_walk : let s := tables (ns mh [])
    ({ s with misses := [miss0 0x40000000 false] }.nextWalk 0) = some (miss0 0x40000000 false) ∧
    gives (.pageWalkStart 0) { s with misses := [miss0 0x40000000 false] } (fun s => s.misses == [miss0 0x40000000 true]) = true ∧
    s.walk 0 7 0 0x40000000 = .page { die := 0, pasid := 7, aqi := 0, va := 0x40000000, size := 2 ^ 30,
                                      loc := .hbm 0x40000000, r := true, w := true } ∧
    gives (.pageWalkComplete 0 0) { s with misses := [miss0 0x40000000 true] } (fun s => s.misses.isEmpty &&
      s.tlb.length == 1) = true ∧
    s.walk 0 7 0 0x140000000 = .fault 1 ∧
    gives (.pageWalkComplete 0 0) { s with misses := [miss0 0x140000000 true] } (fun s => s.tlb.isEmpty &&
      s.misses.map (·.fault) == [some 1]) = true ∧
    gives (.pageWalkComplete 0 0) { s with misses := [{ miss0 0x140000000 true with users := [] }] } (fun s => s.misses.isEmpty) = true := by
  decide

/-! ## Firings, links and messages (R20 to R27, R35, R125, R126, R146, R224, R225, R414) -/

/-- An actor whose entry for data is at word 4 and that has no other; its output o0 is bound. -/
def idleC : Cell := { handCell 3 [] 0 with entries := 4 :: List.replicate 11 0xFF, guard := 0, firing := none }
@[inherit_doc idleC] def idleV : Vec := { handVec [] 0 with entries := 4 :: List.replicate 11 0xFF, guard := 0, firing := none }
/-- The actor with a token at its guard queue. -/
def ic (k : Token) : State := { st (task0 [.cell idleC] [inp 0 0 [k], outp 0 4]) with cur := .cell 0 0 }
theorem wit_begin : (ic (dat 1)).live 0 = true ∧ (ic (dat 1)).frozen 0 0 = false ∧ (ic (dat 1)).unitTicks 0 0 = true ∧
    idleC.idleFrom ≤ (ic (dat 1)).fc ∧ ((ic (dat 1)).op 0 0).map (·.kind) = some (.cell idleC) ∧
    (ic (dat 1)).wrapDue 0 idleC = none ∧ idleC.armKind = none ∧ idleC.retired = false ∧
    (ic (dat 1)).headTok 0 0 idleC.guard = some (dat 1) ∧
    entryOf idleC.entries (entryIndex (dat 1)) = some 4 ∧ gives (.actorFiringBegin 0 0) (ic (dat 1)) (fun s =>
      (s.firingOf 0 0).map (fun f => (f.pc, f.nextAt, s.headTok 0 0 0)) == some (4, 100, some (dat 1))) = true ∧
    gives (.actorFiringBegin 0 0) (st (task0 [.vec idleV] [inp 0 0 [dat 1]])) (fun s => (s.firingOf 0 0).map (·.pc) == some 4) = true := by
  decide
theorem wit_forward : (ic (stopTok 2 0)).firingOf 0 0 = none ∧ (ic (stopTok 2 0)).idleActor 0 0 = some (0, idleC.entries) ∧
    (ic (stopTok 2 0)).headTok 0 0 0 = some (stopTok 2 0) ∧ (ic (stopTok 2 0)).forwardPorts 0 0 = [4] ∧
    (ic (stopTok 2 0)).serves 0 0 = true ∧
    (st (task0 [.cell idleC] [inp 0 0 [stopTok 2 0]])).forwardPorts 0 0 = [] ∧
    (ic (stopTok 2 0)).canPush 0 0 4 1 = true ∧ (stopTok 2 0).isClose = true ∧
    entryOf idleC.entries (entryIndex (stopTok 2 0)) = none ∧
    gives (.defaultTokenForward 0 0) (ic (stopTok 2 0)) (fun s => sent s 4 == [stopTok 2 0] &&
      (s.headTok 0 0 0).isNone) = true ∧
    (poisonTok 0 0x77).isPoison = true ∧ entryOf idleC.entries 9 = none ∧
    gives (.poisonForward 0 0) (ic (poisonTok 0 0x77)) (fun s => sent s 4 == [poisonTok 0 0x77]) = true := by decide
/-- The same actor as a sink: no output of it is bound. -/
def sinkC (k : Token) : State := { st (task0 [.cell idleC] [inp 0 0 [k]]) with cur := .cell 0 0 }
theorem wit_forward_sink : (sinkC (stopTok 2 0)).forwardPorts 0 0 = [] ∧
    gives (.defaultTokenForward 0 0) (sinkC (stopTok 2 0)) (fun s => (s.headTok 0 0 0).isNone) = true ∧
    gives (.poisonForward 0 0) (sinkC (poisonTok 0 0x77)) (fun s => (s.headTok 0 0 0).isNone &&
      (s.op 0 0).map (fun p => p.poison.map (·.1)) == some (some 0x77)) = true := by decide
/-- Actors that the wrap mark fires, that a merge token chooses, and that an amerge token chooses. -/
def wrapC : Cell := { idleC with entries := List.replicate 10 0xFF ++ [6, 0xFF] }
def mergeC (i : Instr) : Cell := { idleC with code := encode i, entries := List.replicate 12 0 }
theorem wit_begin_arms : let w : State := st { task0 [.cell wrapC] [] with wrapMark := true }
    let m (i : Instr) : State := st (task0 [.cell (mergeC i)] [inp 0 0 [dat 4], inp 0 1 [dat 5], outp 0 4, ctl (inp 0 6 [ctrlTok true])])
    w.wrapDue 0 wrapC = some 6 ∧ gives (.actorFiringBegin 0 0) w (fun s => s.firingOf 0 0 == some (newFiring 6 0 [] true 100)) = true ∧
    (mergeC (.merge 0 (.k 0))).armKind = some (.merge (.k 0)) ∧ (mergeC (.amerge 0)).armKind = some .amerge ∧
    gives (.actorFiringBegin 0 0) (m (.merge 0 (.k 0))) (fun s => (s.firingOf 0 0).map (·.chosen) == some [1]) = true ∧
    gives (.actorFiringBegin 0 0) (m (.amerge 0)) (fun s => (s.firingOf 0 0).map (·.chosen) == some [0]) = true := by decide
/-- The actor that has still to push a token on o0. -/
def fwdC (k : Token) : State :=
  { st (task0 [.cell { idleC with firing := some { newFiring 0 0 [] false 0 with fwd := some (k, [4]) } }] [inp 0 0 [], outp 0 4])
      with cur := .cell 0 0 }
theorem wit_forward_rest : ((fwdC (stopTok 2 0)).firingOf 0 0).map (fun f => (f.fwd, f.saved, f.nextAt)) =
      some (some (stopTok 2 0, [4]), false, 0) ∧ (fwdC (stopTok 2 0)).serves 0 0 = true ∧
      (fwdC (stopTok 2 0)).goesOn 0 = true ∧ (fwdC (stopTok 2 0)).canPush 0 0 4 1 = true ∧
    gives (.defaultTokenForward 0 0) (fwdC (stopTok 2 0)) (fun s => sent s 4 == [stopTok 2 0] &&
      (s.firingOf 0 0).isNone) = true ∧
    gives (.poisonForward 0 0) (fwdC (poisonTok 0 0x77)) (fun s => sent s 4 == [poisonTok 0 0x77]) = true := by decide
/-- A channel over one link, with a token in its buffer. -/
def hop1 : Chan := { inp 0 0 [] with route := [{ x := 0, y := 0, dir := .east }], bufs := [[qt (dat 6)]] }
theorem wit_link : let s := st (task0 [.cell idleC] [hop1])
    s.dev.halt = false ∧ s.ticksBy (s.linkPeriod 0 0 .east) = true ∧
    pickLane (((aget (tileKey 0 0, Dir.east, Net.narrow) s.links).map (·.1)).getD 7)
      (s.linkLanes 0 0 .east .narrow) = some (0, 0, 0, 0) ∧
    gives (.linkTransfer 0 0 .east .narrow) s (fun s => s.headTok 0 0 0 == some (dat 6) &&
      aget (tileKey 0 0, Dir.east, Net.narrow) s.links == some (0, 100)) = true := by decide
theorem wit_slots : let s : State := { State.reset with fc := 100, tiles := [(0, { emptyTile with newSlots := some (0x1234, 0) })] }
    (s.tile (tileKey 0 0)).slotsDue s.fc = some 0x1234 ∧ s.ticks (tileKey 0 0) = true ∧
    (s.tile (tileKey 0 0)).stepped s.fc = false ∧
    gives (.slotTableApply 0 0) s (fun s => (s.tile 0).slots == 0x1234) = true ∧
    gives (.slotPointerAdvance 0 0) s (fun s => (s.tile 0).slotPtr == 1) = true := by decide

/-- A message to the copy engine, from context entry 0 of tile (0, 0). -/
def msg0 (p : Packet) : Msg :=
  { from_ := 0, entry := 0, x := 0, y := 0, packet := p, target := some (0, 0), due := 100, seqSender := false }
theorem wit_arrive : let p : Packet := pk [0x0423 * 2 ^ 48, 15 * 2 ^ 32 + 3]
    let s : State := { unit (.copy { cp slot0 with inbox := emptyInbox 3 }) [] with msgs := [msg0 p] }
    s.msgs[0]? = some (msg0 p) ∧ s.laneFirst 0 (msg0 p) = true ∧ s.msgEngine (msg0 p) = some (.op 0 0) ∧
    s.inbox (.op 0 0) = some (emptyInbox 3) ∧
    ({ s with msgs := s.msgs.eraseIdx 0 }.bumpId.busy (s.lctxOf 0)).packetFault (.op 0 0) p false = none ∧
    gives (.enginePacketArrive 0) s (fun s => s.msgs.isEmpty &&
      (s.inbox (.op 0 0)).map (fun b => b.packets.map (·.image)) ==
      some [p]) = true := by decide
/-- A reply of status 0 and SEQ 9 that is due, with its word 7. -/
def rep0 (r : Bool) (w : Dbl) : Reply :=
  { core := none, opc := 4, seq := 9, rply := r, word7 := w, status := some 0, value := none, poison := none, id := 0, doneAt := 0 }
/-- A copy engine that owes it, and a cell on the same tile that has a reply queue at q1. -/
def rs (r : Bool) (w : Dbl) (h : Option (Nat × Nat × Token)) : State :=
  st (task0 [.copy { cp slot0 with inbox := { emptyInbox 3 with replies := [rep0 r w], held := h } },
    .cell idleC] [replyChan 1 1])
theorem wit_reply : (rs false 0 none).inbox (.op 0 0) = some { emptyInbox 3 with replies := [rep0 false 0] } ∧
    gives (.engineReply (.op 0 0)) (rs false 0 none) (fun s => (s.inbox (.op 0 0)).map (·.replies) == some []) = true ∧
    (rs true 0x8010000000000005 none).tlBad 2 = false ∧ ((rs true 0 none).engineRelease (.op 0 0) 0).isSome = true ∧
    gives (.engineReply (.op 0 0)) (rs true 0x8010000000000005 none) (fun s => s.tl 2 == 5) = true ∧
    (rs true (1 * 2 ^ 38) none).replyTo (.op 0 0) (1 * 2 ^ 38) = some (0, 1, 1) ∧
    (rs true (1 * 2 ^ 38) none).inChan 0 1 1 = some (replyChan 1 1) ∧ (replyChan 1 1).free = true ∧
    gives (.engineReply (.op 0 0)) (rs true (1 * 2 ^ 38) none) (fun s => 
      (s.inChan 0 1 1).map (fun c => c.endq.map (·.tok)) == some [dat 0x04000009]) = true := by decide
theorem wit_held : let s := rs false 0 (some (0, 17, dat 8))
    (s.inbox (.op 0 0)).map (·.held) = some (some (0, 17, dat 8)) ∧ s.inChan 0 (17 / 16) (17 % 16) = some (replyChan 1 1) ∧
    gives (.replyTokenDeliver (.op 0 0)) s (fun s => (s.inChan 0 1 1).map (fun c => c.endq.map (·.tok)) == some [dat 8] &&
      (s.inbox (.op 0 0)).map (·.held) ==
      some none) = true := by decide

end Sys2Proof.Tests
end

