-- ==== Sys2Proof/Tests/Lives.lean ====
section
/-! SUPPORT. Witnesses and small tests for the statements about requests, task-graph nodes, admin commands, and the lives of
tasks and launches. Each theorem shows a state that meets the hypotheses of a clause of a statement, and what the model does
there. -/
namespace Sys2Proof.Tests
open Sys2Proof Sys2Proof.Machine
set_option maxRecDepth 20000
set_option exponentiation.threshold 5000


/-! ## Requests (R397, R398) -/

/-- Bytes of memory: pairs of a key and a double. -/
def poke (s : State) (l : List (Nat × Nat)) : State := { s with mem := l.foldl (fun m x => memWrite m x.1 8 x.2) s.mem }
/-- Where the object of the tests lies: an address of HBM that is its own key. -/
def objVa : Nat := 0x40000000
/-- An unsigned object with one graph at 0x200, one `.tasks` section at 0x100 and one `.core` section at 0x300. -/
def obj0 : Obj :=
  { va := objVa, pasid := 7, aqi := 0, size := 0x10000, signed := false, tainted := false, signedEnd := 0, manifest := 0,
    verified := [], failed := [], lost := false }
/-- Its header, without the CRC; an END node begins its list. -/
def objBytes : List (Nat × Nat) :=
  [(objVa, 0x14F48545A), (objVa + 8, 0x10000), (objVa + 0x10, 0x6000000100010001), (objVa + 0x18, 0x8000000060), (objVa + 0x20, 0x88),
   (objVa + 0x60, 0x200), (objVa + 0x80, 0x100), (objVa + 0x88, 0x300), (objVa + 0x100, 9)]
/-- A request queue of 16 packets at VA 0x40020000, with the packet at its head. -/
def rq (p : Packet) : State :=
  let s := tables (st (task0 [] []))
  let q : Queue := { pasid := 7, ring := 0x40020000, comp := 0x40030000, size := 16, head := 15, tail := 0, ctail := 0, phase := true,
                     irq := none }
  { poke s (objBytes ++ (List.range 8).map fun i => (0x400203C0 + 8 * i, (p.dbl i).toNat)) with
    objs := [obj0], aqis := s.aqis.map fun a => (a.1, { a.2 with unsignedOk := true, queues := [(3, q)] }), launches := [] }
/-- LAUNCH, SIGNAL of counter 2 by 5, WAIT of it for 0, and CANCEL of echo tag 9; PASID 7 and LCTX 0. -/
def reqLaunch : Packet := pk [7 * 2 ^ 32 + 1, objVa + 0x100, 2 ^ 64 - 1, 0, 0, 0, 9]
@[inherit_doc reqLaunch] def reqSig : Packet := pk [7 * 2 ^ 32 + 2, 2, 0, 0, 0, 0, 9, 5]
@[inherit_doc reqLaunch] def reqW : Packet := pk [7 * 2 ^ 32 + 3, 2, 0, 0, 0, 0, 9, 0]
@[inherit_doc reqLaunch] def reqCan : Packet := pk [7 * 2 ^ 32 + 4, 0, 0, 0, 0, 0, 0, 9]
/-- A deadline that has passed. -/
def reqLate : Packet := pk [7 * 2 ^ 32 + 1, objVa + 0x100, 3, 4, 0, 0, 9]
/-- The head of queue 3. -/
def headOf (s : State) : Option Nat := (s.queue 0 3).map (·.head)

theorem wit_req_launch : (rq reqLaunch).requestHead 0 3 = some reqLaunch ∧
    (rq reqLaunch).revoked.contains (Packet.pasid reqLaunch) = false ∧
    (rq reqLaunch).reqOk 0 3 reqLaunch = true ∧ (rq reqLaunch).launchOk 0 reqLaunch = true ∧
    (rq reqLaunch).launchObj reqLaunch = some (0, obj0, 0x100) ∧
    ((rq reqLaunch).newLaunch 0 3 reqLaunch 0 obj0 0x100).timed = false := by decide
/-- The object is signed over its first page, which has not been hashed. -/
def rqSigned : State := { rq reqLaunch with objs := [{ obj0 with signed := true, signedEnd := 0x1000 }] }
theorem wit_launch_waits : rqSigned.launchWaits reqLaunch = true ∧ (rq reqLaunch).launchWaits reqLaunch = false ∧
    rqSigned.pageRead 0 0 = true ∧ rqSigned.pageRead 0 5 = false ∧
    gives (.launch 0 3 reqLaunch) rqSigned (fun s => s.launches.isEmpty && headOf s == some 15) = true := by decide
theorem test_req_launch : gives (.launch 0 3 reqLaunch) (rq reqLaunch) (fun s => headOf s == some 0 && s.nextLaunch == 2 &&
    s.launches.map (fun z => (z.1, z.2.useq, z.2.look)) == [(1, 9, some 0x100)]) = true := by decide
theorem wit_req_late : (rq reqLate).requestHead 0 3 = some reqLate ∧ (rq reqLate).reqOk 0 3 reqLate = true ∧
    (rq reqLate).launchOk 0 reqLate = true ∧ (rq reqLate).launchObj reqLate = some (0, obj0, 0x100) ∧
    ((rq reqLate).newLaunch 0 3 reqLate 0 obj0 0x100).timed = true ∧
    ((rq reqLate).newLaunch 0 3 reqLate 0 obj0 0x100).stopAt < ((rq reqLate).tai.toNat : Int) ∧
    gives (.launch 0 3 reqLate) (rq reqLate) (fun s => headOf s == some 0 && s.launches.isEmpty) = true := by decide
theorem wit_req_counters : (rq reqSig).requestHead 0 3 = some reqSig ∧ (rq reqSig).reqOk 0 3 reqSig = true ∧
    (rq reqSig).queueLaunches 0 3 = [] ∧ (rq reqSig).tlBad 2 = false ∧
    gives (.reqSignal 0 3 reqSig) (rq reqSig) (fun s => headOf s == some 0 && s.tl 2 == 5) = true ∧
    (rq reqW).requestHead 0 3 = some reqW ∧ (rq reqW).reqOk 0 3 reqW = true ∧
    gives (.reqWait 0 3 reqW) (rq reqW) (fun s => headOf s == some 0) = true := by decide
/-- A launch of the queue with echo tag 9, and its task, which has come to its end in `rqOver`. -/
def rqOver : State := { rq reqCan with launches := [(0, { launch0 with aqi := 0, q := 3, useq := 9, look := some 0x100 })] }
def rqRun : State := { rqOver with tasks := (st (task0 [.cell idleC] [])).tasks }
theorem wit_req_cancel : rqRun.requestHead 0 3 = some reqCan ∧ rqRun.reqOk 0 3 reqCan = true ∧
    ((rqRun.queueLaunches 0 3).find? fun z => z.2.useq == (reqCan.dbl 7).extractLsb' 0 32 &&
      !z.2.cancelled).map (·.1) = some 0 ∧
    gives (.cancel 0 3 reqCan) rqRun (fun s => headOf s == some 0 && (s.launch 0).map (fun x => (x.cancelled, x.look)) ==
      some (true, none)) = true ∧
    rqRun.owesEnd (fun k => k.launch == 0) = false ∧ rqOver.owesEnd (fun k => k.launch == 0) = true ∧
    gives (.cancel 0 3 reqCan) rqOver (fun s => headOf s == some 15) = true := by decide

/-- A CANCEL lets a stop instant of its fc fall first. -/
theorem wit_cancel_stop : let s : State := { rqRun with launches := rqRun.launches.map fun z => (z.1, { z.2 with deadline := 0 }) }
    (s.launch 0).map s.stopOwed = some true ∧ (rqRun.launch 0).map rqRun.stopOwed = some false ∧
    gives (.cancel 0 3 reqCan) s (fun u => u == s) = true := by decide

/-! ## Task-graph nodes (R310 to R313, R363 to R368) -/

/-- A node of a kind, with F4 and three doubles. -/
def node (kind f4 : Nat) (l : List Nat) : Packet := pk ((f4 * 2 ^ 32 + kind) :: l)
/-- A launch whose issue stage has reached a node. -/
def isl (n : Packet) (arm : Option Nat) : State :=
  let s := tables (st (task0 [] []))
  { poke s objBytes with
    objs := [obj0], launches := [(0, { launch0 with look := some 0x140, ahead := [{ node := n, off := 0x100, arm := arm, halt := none }] })],
    timeline := [(2, 5)] }
/-- The first node is behind the issue stage of launch 0. -/
def past (s : State) : Bool := (s.launch 0).map (fun x => x.ahead.isEmpty) == some true
theorem wit_nodes : ((isl (node 2 0 []) (some 0x180)).issuing 0 (node 2 0 [])).isSome = true ∧
    gives (.nodeCond 0 (node 2 0 [])) (isl (node 2 0 []) (some 0x180)) past = true ∧
    gives (.nodeLoop 0 (node 3 0 [])) (isl (node 3 0 []) (some 0x180)) past = true ∧
    gives (.nodeCall 0 (node 5 0x100 [])) (isl (node 5 0x100 []) none) past = true ∧
    gives (.nodeWrap 0 (node 8 0x100 [])) (isl (node 8 0x100 []) none) (fun s => past s && (s.launch 0).map (·.wrapList) ==
      some (some 0x100)) = true ∧
    (isl (node 4 0 []) none).allFinal 0 = true ∧ gives (.nodeJoin 0 (node 4 0 [])) (isl (node 4 0 []) none) past = true ∧
    (isl (node 6 2 [5]) none).tlBad 2 = false ∧ gives (.nodeWait 0 (node 6 2 [5])) (isl (node 6 2 [5]) none) past = true ∧
    gives (.nodeSignal 0 (node 7 2 [4])) (isl (node 7 2 [4]) none) (fun s => past s && s.tl 2 == 9) = true ∧
    gives (.nodeEnd 0 (node 9 0 [])) (isl (node 9 0 []) none) (fun s => past s &&
      (s.launch 0).map (fun x => (x.ended, x.look)) ==
      some (true, none)) = true ∧
    gives (.nodeEnd 0 (node 9 0 [])) (isl (node 9 0 []) (some 0x140)) (fun s => past s &&
      (s.launch 0).map (·.ended) == some false) =
      true := by decide
/-- A TASK node of graph 0 with a TCB in the shared window, FRAME in the object and a cost of 6. -/
def nodeT : Packet := node 1 0 [0x4000000000000400, 6, 0x100040]
theorem wit_node_task : (isl nodeT none).issuing 0 nodeT ≠ none ∧ (isl nodeT none).objs[launch0.obj]? = some obj0 ∧
    launch0.chain = none ∧
    (isl nodeT none).nodeTcb launch0 objVa nodeT = .named 0x100040 ∧ (isl nodeT none).taskSet 0 0x100040 = [0x100040] ∧
    (isl nodeT none).inLiveSet 0 0x100040 = false ∧ (isl nodeT none).selfNaming 0 [0x100040] = false ∧
    gives (.nodeTask 0 nodeT) (isl nodeT none) (fun s => past s &&
      s.ready.map (fun e => (e.tcb, e.cost, e.rseq)) == [(0x100040, 6, 1)]) = true := by decide
/-- GRAPH is a reference of RK 1 to the header of graph 0, and FRAME the node's own double (R363). -/
theorem test_fill_tcb : let s := (isl nodeT none).fillTcb launch0 obj0 0x100040 false nodeT
    s.readVa 0 0x100040 8 = some (2 ^ 62 + 0x200) ∧ s.readVa 0 0x100048 8 = some 0x4000000000000400 ∧
    s.readVa 0 0x100060 8 = some 6 := by decide


/-! ## Admin commands (R402) -/

/-- The admin queue of a ready device, with one packet. -/
def ad (s : State) (p : Packet) : State := { s with dev := { s.dev with ready := true }, adminQ := [p] }
/-- The echo tag 9 and three operands. -/
def ap (a b c : Nat) : Packet := pk [0, a, b, c, 0, 0, 9]
/-- One task, and nothing else. -/
def one : State := st (task0 [.cell idleC] [])
/-- A state without launches and tasks. -/
def bare : State := { one with tasks := [], launches := [] }

/-- A record in host memory at 0x5000: CEIL 64, 384 tiles, PASID 7, 1 MiB at 0x100000. -/
def recAt : State := poke { bare with ctxs := [] } [(Loc.key (.host 0x5000), 7 * 2 ^ 32 + 384),
  (Loc.key (.host 0x5008), 64 * 2 ^ 8), (Loc.key (.host 0x5020), 0x100000), (Loc.key (.host 0x5028), 1)]
theorem wit_create_ctx : (ad recAt (ap 3 0x5000 0)).adminOpen = true ∧
    (ad recAt (ap 3 0x5000 0)).adminQ.head? = some (ap 3 0x5000 0) ∧
    (recAt.ctxs.map (·.1)).Nodup ∧ recAt.ctx 3 = none ∧
    (newCtx (BitVec.ofNat 1024 (recAt.readLoc (.host 0x5000) 128))).recordOk = true ∧ recAt.windowFor (2 ^ 20) = some 0 ∧
    gives (.createCtx (ap 3 0x5000 0)) (ad recAt (ap 3 0x5000 0)) (fun s => (s.ctx 3).map (fun c => (c.pasid, c.ceil, c.shmLen)) ==
      some (7, 64, 2 ^ 20)) = true := by decide
theorem wit_destroy_ctx : (bare.ctx 0).map (·.dead) = some false ∧ bare.ctxOver 0 = true ∧ one.ctxOver 0 = false ∧
    gives (.destroyCtx (ap 0 0 0)) (ad bare (ap 0 0 0)) (fun s => (s.ctx 0).isNone) = true ∧
    gives (.destroyCtx (ap 0 0 0)) (ad one (ap 0 0 0)) (fun s => (s.ctx 0).map (·.dead) == some true) = true := by decide
/-- CREATE_QUEUE: AQI 2, q 5, PASID 7, ring and completion addresses, 64 packets, interrupt entry 3. -/
def cqP : Packet := pk [0, 2, 5, 7, 0x40020000, 0x40030000, 9, 3 * 2 ^ 32 + 64]
theorem wit_create_queue : bare.queue 2 5 = none ∧ gives (.createQueue cqP) (ad bare cqP) (fun s =>
    (s.queue 2 5).map (fun u => (u.pasid, u.ring, u.comp, u.size, u.irq)) == some (7, 0x40020000, 0x40030000, 64, some 3)) = true := by decide
theorem wit_revoke : gives (.revokePasid (ap 0 7 0)) (ad one (ap 0 7 0)) (fun s => s.revoked == [7]) = true := by decide
/-- The object of the requests, with the CRC of its header, and a queue bound to PASID 7. -/
def crcObj : State :=
  let s := tables bare
  let q : Queue := { pasid := 7, ring := 0, comp := 0, size := 16, head := 0, tail := 0, ctail := 0, phase := true, irq := none }
  { poke s (objBytes ++ [(objVa + 0x38, 0x81E3992500000000)]) with
    aqis := s.aqis.map fun a => (a.1, { a.2 with unsignedOk := true, queues := [(3, q)] }) }
theorem wit_register : crcObj.objCrcOk (crcObj.objAtVa objVa 7) = true ∧
    crcObj.objHeaderOk (crcObj.objAtVa objVa 7) = true ∧
    (crcObj.objAtVa objVa 7).signed = false ∧ (crcObj.aqisOf 7).map (fun a => (a.1, a.2.unsignedOk)) = [(0, true)] ∧
    gives (.registerObj (ap objVa 7 0)) (ad crcObj (ap objVa 7 0)) (fun s => s.objs == [obj0]) = true := by decide
theorem wit_invalidate : gives (.invalidate (ap 7 0x40000000 4096)) (ad hs (ap 7 0x40000000 4096)) (fun s => s.tlb.isEmpty) = true := by
  decide
/-- A REPLAY stall with a request of tag 6. -/
def pg (host : Bool) : State :=
  let x : Stall := { va := 0, tries := 1, tag := 6, stage := 1, waiting := true, refused := false }
  { ns { mh with stall := some x } [] with pageReqs := [{ (default : PageReq) with tag := 6, host := host, t := 0, o := 0 }] }
theorem wit_page_reply : ((pg false).pageReqs.find? fun q => q.tag == (argD (ap 6 1 0) 0).extractLsb' 0 32 &&
    q.host == false).isSome = true ∧
    gives (.pageReply (ap 6 1 0)) (ad (pg false) (ap 6 1 0)) (fun s => (s.mnode 0 0).map (fun m => m.stall.map (fun x => (x.waiting, x.refused)))
      == some (some (false, true))) = true ∧
    gives (.pageRequestInterfaceResponse 6 true) (pg true) (fun s => (s.mnode 0 0).map (fun m => m.stall.map (fun x => (x.waiting, x.refused)))
      == some (some (false, false))) = true := by decide
/-- The task's state of progress. -/
def phaseOf (s : State) : Option TaskPhase := (s.task 0).map (·.status)
theorem wit_pause : (one.ctx 0).map (fun c => (c.dead, c.pauseTag, one.saveFits 0 c)) = some (false, none, true) ∧
    (argD (ap 0 0 0) 1).getLsbD 63 = false ∧
    gives (.pause (ap 0 0 0)) (ad one (ap 0 0 0)) (fun s => phaseOf s == some .pausing &&
      (s.ctx 0).map (·.pausing) == some true) = true := by decide
/-- A paused task. -/
def paused : State := { st { task0 [.cell idleC] [] with status := .paused } with ctxs := [(0, { ctx0 with paused := true })] }
theorem wit_resume : (paused.ctx 0).map (fun c => (c.dead, c.pausing, c.resumeTag)) = some (false, false, none) ∧
    gives (.resume (ap 0 0 0)) (ad paused (ap 0 0 0)) (fun s => s.requests == [.again 0] &&
      (s.ctx 0).map (·.paused) == some false) = true := by
  decide
/-- One tile at (1, 0), and the task on it. -/
def knotP : Packet := ap (2 ^ 16 + 2 ^ 24 + 1) 0 0
def onTile : State := st { task0 [.cell idleC] [] with entries := [(tileKey 1 0, [0])] }
theorem wit_knots : (knotRect knotP).onDevice = true ∧ (knotRect knotP).tiles = [tileKey 1 0] ∧
    gives (.knotSet knotP) (ad onTile knotP) (fun s => s.knots == [tileKey 1 0] && phaseOf s == some .pausing) = true ∧
    gives (.knotClear knotP) (ad { onTile with knots := [5, tileKey 1 0] } knotP) (fun s => s.knots == [5]) = true := by decide
theorem wit_power_clock : gives (.pstep (ap 6 0 0)) (ad one (ap 6 0 0)) (fun s => s.power.adm == 6) = true ∧
    gives (.clockOffset (ap 500 0 0)) (ad one (ap 500 0 0)) (fun s => (s.clock.slew, s.clock.src) == (9000000, 2)) = true ∧
    gives (.clockOffset (ap 2000000 0 0)) (ad one (ap 2000000 0 0)) (fun s => (s.clock.slew, s.clock.ns) == (0, 2000000)) = true := by decide
theorem wit_aqi_reset : gives (.aqiReset (ap 0 0 0)) (ad { one with intake := [(0, 0, 0)] } (ap 0 0 0)) (fun s =>
    s.intake.isEmpty && (s.ctx 0).map (·.dead) == some true) = true := by decide
/-- An image with the part of context 3. -/
def part3 : ImgCtx :=
  { lctx := 3, ctx := { ctx0 with record := 0 }, launches := [], ready := [], tasks := [], timeline := [], poisonedTl := [], handles := [],
    masks := [], objs := [], spawns := [], replies := [], msgs := [], keep := [], good := true }
def bodyA : ImageBody := { magic := imageMagic, version := 1, seq := 1, tai := 0, length := 0, knots := [], ctxs := [part3] }
def imgA : Image := { toImageBody := bodyA, sha := some bodyA, word := true, pending := true }
def flashA : State := { one with flash := { one.flash with slotA := some imgA } }
theorem wit_restore : flashA.flash.slot 1 = some imgA ∧ imgA.valid = true ∧ flashA.partLive part3 = false ∧
    gives (.restore (ap 1 0 0)) (ad flashA (ap 1 0 0)) (fun s => (s.ctx 3).map (fun c => (c.paused, c.record)) == some (true, 0)) = true ∧
    gives (.restore (ap 0 0 0)) (ad { flashA with dev := { flashA.dev with pend := true } } (ap 0 0 0)) (fun s => !s.dev.pend) = true := by
  decide
theorem wit_keep : one.keepTotal 0 2 + 4096 ≤ 2 ^ 29 ∧
    gives (.keep (pk [0, 0, 2, 0x100000, 4096])) (ad one (pk [0, 0, 2, 0x100000, 4096]))
    (fun s => (s.ctx 0).map (·.keeps) == some [(2, 0x100000, 4096)]) = true := by decide
theorem wit_tl_clear : one.hasCounter 0 3 = true ∧
    gives (.tlClear (ap 0 3 0)) (ad { one with timeline := [(2, 4), (3, 5)], poisonedTl := [3] }
    (ap 0 3 0)) (fun s => s.tl 3 == 0 && !s.tlBad 3 && s.tl 2 == 4) = true := by decide

end Sys2Proof.Tests
end

