-- ==== Sys2Proof/Tests/Slice0.lean ====
section
/-! SUPPORT. Tests of the model on fixed values worked out from the manual by hand: the limits of fields, decoding, the
words of cells, cores and vector units; with witnesses that the hypotheses of the statements about words can be met. -/
namespace Sys2Proof.Tests
open Sys2Proof Sys2Proof.Machine

set_option maxRecDepth 20000
set_option exponentiation.threshold 2000

/-! ## Ill-formed instructions are refused (R88 to R94, R104, R205) -/

theorem test_wf_accepts : wf (.add (.s 1) (.s 1) (.imm 5) false false) = true ∧
    wf (.vcvt 6 1 4 .rne true false none) = true := by
  decide
theorem test_wf_two_immediates : wf (.add (.s 1) (.imm 1) (.imm 2) false false) = false ∧
    wf (.stW (.imm 1) (.imm 2) 0) = false ∧ wf (.sel (.s 1) (.imm 1) (.s 2) (.imm 3) false) = false := by decide
theorem test_wf_conditions : wf (.cmpCc .uno (.s 1) (.s 2) (.s 3) false) = false ∧
    wf (.fcmpCc .ltu (.s 1) (.s 2) (.s 3)) = false ∧ wf (.cmpiCc .uno (.s 1) (.s 2) 0) = false := by decide
theorem test_wf_fields : wf (.bfx (.s 1) (.s 2) 16 16) = false ∧ wf (.bfi 1 (.s 2) 31 1) = false ∧
    wf (.bfxu (.s 1) (.s 2) 31 0) = true :=
  by decide
theorem test_wf_amo : wf (.amo .fadd 1 (.s 2) (.s 3) true false) = false ∧
    wf (.amo .min 1 (.s 2) (.s 3) false true) = false := by
  decide
theorem test_wf_csr : wf (.csrr 1 0x007) = false ∧ wf (.csrw (.s 1) 0x002) = false ∧ wf (.csrr 1 0x011) = true := by decide
theorem test_wf_small : wf (.bkind 0 6 0 0) = false ∧ wf (.rep (.s 1) 0) = false ∧ wf (.sendstop 0 0 0) = false ∧
    wf (.clip8 0 (.s 1)) = false := by decide
theorem test_wf_vector : wf (.vcvt 1 2 0 .rne false false none) = false ∧ wf (.vquant 1 2 4 .rne 3 none) = false ∧
    wf (.vscale 1 2 3) = false ∧ wf (.vred .min 1 2 none .rtz) = false ∧ wf (.vtagSet 1 0 true 0) = false ∧
    wf (.vstop 0 0) = false := by decide

/-! ## Decoding: words written out from the tables (R87 to R94, R167) -/

theorem test_decode_integer : decodeScalar 3 0x00218000 0 = some (.add (.s 1) (.s 1) (.q 0) false false) ∧
    decodeScalar 3 0x005018A0 0 = some (.max (.s 2) (.q 0) (.s 3) false) := by decide
theorem test_decode_immediate : decodeScalar 3 0x3060FC18 0 = some (.li (.s 3) 0xFC18) ∧
    decodeScalar 3 0x00A1F000 0x11170 = some (.add (.s 5) (.s 1) (.imm 0x11170) false false) := by decide
theorem test_decode_memory : decodeScalar 3 0xA8620010 0 = some (.ldW 3 (.s 2) 0x10) ∧
    decodeScalar 3 0x0C221800 0 = some (.amo .add 1 (.s 2) (.s 3) false false) := by decide
theorem test_decode_tokens : decodeScalar 3 0x64100018 0 = some (.drop 0) ∧
    decodeScalar 3 0x63400002 0 = some (.senddone 0 0) ∧
    decodeScalar 3 0x67500048 0 = some (.repl (.q 0)) ∧ decodeScalar 3 0x64010050 0 = some (.kout (.s 1)) ∧
    decodeScalar 3 0x64180058 0 = some (.kwait 0) := by decide
theorem test_decode_system : decodeScalar 3 0xC4000000 0 = some (.owait 0 0 0 0) ∧
    decodeScalar 3 0xC0007123 0 = some (.trap 0x123) ∧
    decodeScalar 3 0xC0008000 0 = some .eret ∧ decodeScalar 3 0xC0009000 0 = some .halt ∧
    decodeScalar 3 0xC0220000 0 = some (.rfetch 1 (.s 2)) ∧ decodeScalar 3 0xC0226002 0 = some (.crc32c 1 (.s 2) 2) ∧
    decodeScalar 3 0xC001F000 0 = some (.vfSet (.s 1) (.s 0)) := by decide
theorem test_decode_control : decodeScalar 3 0x98000000 0 = some .endCell := by decide
theorem test_decode_retired : decodeScalar 1 0x48610000 0 = some (.neg (.s 3) (.s 1)) ∧
    decodeScalar 3 0x48610000 0 = none := by decide
theorem test_decode_vector : decodeVector 0x00611000 = some (.vadd 3 1 2 none .rne) ∧
    decodeVector 0x3CC14100 = some (.vcvt 6 1 4 .rne true false none) ∧
    decodeVector 0x40E18002 = some (.vquant 7 1 8 .rne 2 none) ∧ decodeVector 0xFC000000 = some .vend := by decide
theorem test_decode_reserved : decodeScalar 3 0x00218004 0 = none ∧ decodeScalar 3 0xFC000000 0 = none ∧
    decodeVector 0xFC000001 = none ∧ decodeVector 0x8C000001 = none := by decide

/-- R88: an operand that a control core does not have is no instruction there; R92: a cell executes no load. -/
theorem test_decode_units : decodeCore 0x00218000 0 = none ∧ decodeCell 3 0xA8620010 0 = none ∧
    decodeCore 0xA8620010 0 = some (.ldW 3 (.s 2) 0x10) := by decide

/-! ## Integer words (R113 to R119) -/

/-- -7 and 3 through each row of `intRows`, on a cell. -/
theorem test_integers : intRows.map (fun r => (sent (after (r.word (.o 0) (.s 2) (.s 1) false) cs) 4).map Token.word) =
    [0xFFFFFFFC, 0xFFFFFFF6, 0xFFFFFFFC, 0xFFFFFFF6, 0xFFFFFFEB, 0xFFFFFFFF, 2, 0xFFFFFFFE, 0x55555553, 0xFFFFFFFF, 0, 1,
     0xFFFFFFFB, 0xFFFFFFFA, 0xFFFFFFF8, 0xFFFFFFC8, 0x1FFFFFFF, 0xFFFFFFFF, 0xFFFFFFCF, 0xFFFFFFF9, 3, 3, 0xFFFFFFF9].map
      fun w => [w] := by decide
/-- The same on a control core, at 64 bits. -/
theorem test_integers_core : intRows.map (fun r => ((after (r.word (.s 5) (.s 2) (.s 1) true) ks).core 0).reg 5) =
    [0xFFFFFFFFFFFFFFFC, 0xFFFFFFFFFFFFFFF6, 0xFFFFFFFFFFFFFFFC, 0xFFFFFFFFFFFFFFF6, 0xFFFFFFFFFFFFFFEB, 0xFFFFFFFFFFFFFFFF, 2,
     0xFFFFFFFFFFFFFFFE, 0x5555555555555553, 0xFFFFFFFFFFFFFFFF, 0, 1, 0xFFFFFFFFFFFFFFFB, 0xFFFFFFFFFFFFFFFA, 0xFFFFFFFFFFFFFFF8,
     0xFFFFFFFFFFFFFFC8, 0x1FFFFFFFFFFFFFFF, 0xFFFFFFFFFFFFFFFF, 0xFFFFFFFFFFFFFFCF, 0xFFFFFFFFFFFFFFF9, 3, 3,
     0xFFFFFFFFFFFFFFF9] := by decide
theorem test_unary : unaryRows.map (fun r => (sent (after (r.word (.o 0) (.s 2) false) cs) 4).map Token.word) =
    [[7], [0], [0], [30]] := by decide

theorem wit_cell_two : CellReads cs 0 0 cell0 fire0 [.q 0, .q 1] [0xFFFFFFF9, 3] ∧ CellTakes cs 0 0 fire0 (.o 0) ∧
    CellTakes cs 0 0 fire0 (.s 0) := ⟨reads_of (by decide), ⟨by decide, by decide⟩, ⟨by decide, by decide⟩⟩
theorem wit_cell_three : CellReads cs 0 0 cell0 fire0 [.q 0, .q 0, .imm 0x80000000] [0xFFFFFFF9, 5, 0x80000000] :=
  reads_of (by decide)
theorem wit_cell_one : CellReads cs 0 0 cell0 fire0 [.s 15] [0] ∧ CellReads cs 0 0 cell0 fire0 [] [] :=
  ⟨reads_of (by decide), reads_of (by decide)⟩
theorem wit_div_zero : CellReads cs 0 0 cell0 fire0 [.q 0, .s 0] [0xFFFFFFF9, 0] ∧ CoreRuns ks 0 [.s 2, .s 0] (some 5) ∧
    (ks.core 0).src (.s 0) = 0 := ⟨reads_of (by decide), ⟨by decide, by decide, by decide, by decide⟩, by decide⟩
theorem wit_core : CoreRuns ks 0 [.s 2, .s 1] (some 0) ∧ CoreRuns ks 0 [.s 2, .s 1, .s 15] (some 15) ∧
    (ks.core 0).src (.s 1) ≠ 0 ∧
    ((ks.core 0).src (.s 1)).setWidth 32 ≠ (0 : Word) :=
  ⟨⟨by decide, by decide, by decide, by decide⟩, ⟨by decide, by decide, by decide, by decide⟩, by decide, by decide⟩

/-- R114: the greatest sum that fits and the least that does not, under OVT. -/
theorem test_overflow : gives (.add (.s 5) (.imm 0x7FFFFFFC) (.s 1) false true) cs
      (fun s => ((s.cell 0 0).map fun c => c.reg 5) == some 0x7FFFFFFF) = true ∧
    gives (.add (.s 5) (.imm 0x7FFFFFFD) (.s 1) false true) cs
      (fun s => ((s.cell 0 0).map fun c => (c.reg 5, c.firing.isNone)) == some (0, true) &&
        (sent s 4).map Token.kind == [Kind.poison]) = true := by decide
theorem wit_overflow : CellReads cs 0 0 cell0 fire0 [.imm 0x7FFFFFFC, .s 1] [0x7FFFFFFC, 3] ∧
    CellReads cs 0 0 cell0 fire0 [.imm 0x7FFFFFFD, .s 1] [0x7FFFFFFD, 3] ∧
    CellReads cs 0 0 cell0 fire0 [.imm 0x80000000, .imm 0xFFFFFFFF] [0x80000000, 0xFFFFFFFF] :=
  ⟨reads_of (by decide), reads_of (by decide), reads_of (by decide)⟩
/-- R114: a division by zero leaves a poison token with DIV0 on a cell, and traps on a core. -/
theorem test_div_zero : gives (.div (.s 5) (.s 1) (.s 0) false false) cs
      (fun s => (sent s 4).map (fun t => (t.kind, t.word.extractLsb' 0 7)) == [(Kind.poison, Code.div0)]) = true ∧
    gives (.rem (.s 5) (.s 1) (.s 0) true) ks
      (fun s => ((s.core 0).cause, (s.core 0).epc, (s.core 0).pc) ==
        (Code.div0.zeroExtend 64, 0x8000000000000100, 0x8000000000000200)) = true := by decide

theorem test_immediates : (immRows 0xFFFF 4).map (fun r => (sent (after (r.word (.o 0) (.s 1)) cs) 4).map Token.word) =
    [[2], [3], [0xFFFFFFFF], [0xFFFFFFFC], [0x30], [0], [0]] := by decide
/-- A poison before a data token: it is the first, and the firing ends without a result (R34, R119). -/
def poisoned : State := onCell { cell0 with regs := [0, 1] } |> fun s => { s with tasks := s.tasks.map fun z =>
  (z.1, { z.2 with chans := [inp 0 0 [dat 4], inp 0 1 [poisonTok 0 0x55], outp 0 4] }) }
theorem wit_poison : CellPoison poisoned 0 0 { cell0 with regs := [0, 1] } fire0 (.o 0) [.q 0, .q 1] (poisonTok 0 0x55) ∧
    gives (.sel (.o 0) (.q 0) (.q 1) (.s 1) false) poisoned (fun s => sent s 4 == [poisonTok 0 0x55] &&
      s.headTok 0 0 0 == none && s.headTok 0 0 1 == none) = true ∧
    gives (.add (.s 5) (.q 0) (.q 1) false false) poisoned (fun s => sent s 4 == [poisonTok 0 0x55] &&
      (s.cell 0 0).map (fun c => (c.firing.isNone, c.reg 5)) == some (true, 0)) = true :=
  ⟨⟨runs_of (by decide), by decide, _, rfl, rfl, rfl⟩, by decide⟩
theorem wit_poison_third : CellPoison poisoned 0 0 { cell0 with regs := [0, 1] } fire0 (.s 0) [.q 0, .s 1, .q 1] (poisonTok 0 0x55) :=
  ⟨runs_of (by decide), by decide, _, rfl, rfl, rfl⟩
theorem wit_poison_unary : CellPoison poisoned 0 0 { cell0 with regs := [0, 1] } fire0 (.o 0) [.q 1] (poisonTok 0 0x55) :=
  ⟨runs_of (by decide), by decide, _, rfl, rfl, rfl⟩
theorem wit_reserved_words : opOf 0x00218150 = 0 ∧ decodeScalar 3 0x00218150 0 = none ∧ opOf 0x3821A000 = 0x0E ∧
    decodeScalar 3 0x3821A000 0 = none ∧
    decodeScalar 3 0x00218110 0 = some (.cmpCc .lt (.s 1) (.s 1) (.q 0) false) := by decide
theorem test_li : (sent (after (.li (.o 0) 0xFC18) cs) 4).map Token.word = [0xFFFFFC18] ∧
    ((after (.lih 2 0x1234) cs).cell 0 0).map (fun c => c.reg 2) = some 0x1234FFF9 ∧
    ((after (.lih 2 0x8000) ks).core 0).reg 2 = 0xFFFFFFFF8000FFF9 := by decide
theorem wit_li : CellReads cs 0 0 cell0 fire0 [.s 2] [0xFFFFFFF9] ∧ CoreRuns ks 0 [.s 2] (some 2) ∧
    CoreRuns ks 0 [] (some 0) :=
  ⟨reads_of (by decide), ⟨by decide, by decide, by decide, by decide⟩, ⟨by decide, by decide, by decide, by decide⟩⟩
theorem test_bit_fields : (sent (after (.bfx (.o 0) (.imm 0x00008F00) 8 7) cs) 4).map Token.word = [0xFFFFFF8F] ∧
    (sent (after (.bfxu (.o 0) (.imm 0x80000000) 31 0) cs) 4).map Token.word = [1] ∧
    ((after (.bfi 2 (.s 1) 4 3) cs).cell 0 0).map (fun c => c.reg 2) = some 0xFFFFFF39 := by decide
theorem wit_bit_fields : CellReads cs 0 0 cell0 fire0 [.s 2, .s 1] [0xFFFFFFF9, 3] ∧
    (31 : BitVec 5).toNat + (0 : BitVec 5).toNat + 1 ≤ 32 ∧
    CoreRuns ks 0 [.s 2, .s 1] (some 2) := ⟨reads_of (by decide), by decide, ⟨by decide, by decide, by decide, by decide⟩⟩
theorem test_compare : (sent (after (.cmpCc .lt (.o 0) (.s 2) (.s 1) false) cs) 4).map Token.word = [1] ∧
    (sent (after (.cmpCc .ltu (.o 0) (.s 2) (.s 1) false) cs) 4).map Token.word = [0] ∧
    ((after (.cmpCc .geu (.s 5) (.s 2) (.s 1) true) ks).core 0).reg 5 = 1 := by decide
theorem test_select : (sent (after (.sel (.o 0) (.s 2) (.s 1) (.s 0) false) cs) 4).map Token.word = [3] ∧
    ((after (.sel (.s 5) (.s 2) (.s 1) (.s 3) false) ks).core 0).reg 5 = 0xFFFFFFFFFFFFFFF9 := by decide

/-! ## FP32 words (R120 to R124) -/

/-- 1.5 and 2.0: the sum, the product, the lesser, the greater, and whether 1.5 < 2.0. -/
theorem test_floats : (floatRows .rne .lt).map
      (fun r => (sent (after (r.word (.o 0) (.imm 0x3FC00000) (.s 1)) (onCell { cell0 with regs := [0, 0x40000000] })) 4).map Token.word) =
    [[0x40600000], [0x40400000], [0x3FC00000], [0x40000000], [1]] := by decide
/-- 1.5 × 2.0 + 2.0. -/
theorem test_fma : (sent (after (.fma (.o 0) (.imm 0x3FC00000) (.s 1) (.s 1) .rne) (onCell { cell0 with regs := [0, 0x40000000] })) 4).map
      Token.word = [0x40A00000] := by decide
/-- The integers -7 and 0xFFFFFFF9 to FP32, and 2.5 to integers, to nearest even. -/
theorem test_conversions : (sent (after (.fcvtSW (.o 0) (.s 2) .rne) cs) 4).map Token.word = [0xC0E00000] ∧
    (sent (after (.fcvtSWu (.o 0) (.s 2) .rne) cs) 4).map Token.word = [0x4F800000] ∧
    (sent (after (.fcvtWS (.o 0) (.imm 0x40200000) .rne) cs) 4).map Token.word = [2] ∧
    (sent (after (.fcvtWuS (.o 0) (.imm 0xC0200000) .rne) cs) 4).map Token.word = [0] := by decide
theorem wit_rounding : (fp32.unpack (0x00000001 : Word).toNat).isNan = false ∧
    (fp32.unpack (0xFF800000 : Word).toNat).isNan = false := by
  decide

/-! ## Branches, blocks and firings (R127 to R132) -/

/-- The cell of the tests with another firing. -/
def firing (f : Firing) : Cell := { cell0 with firing := some f }

theorem wit_branch : fire0.rep = none ∧ CellReads cs 0 0 cell0 fire0 [.k 0] [1] ∧ CellReads cs 0 0 cell0 fire0 [.s 0] [0] ∧
    CellReads cs 0 0 cell0 fire0 [.s 1] [3] ∧ cs.headTok 0 0 2 = some (doneTok 0) ∧ CoreRuns ks 0 [.s 0] none :=
  ⟨rfl, reads_of (by decide), reads_of (by decide), reads_of (by decide), by decide, ⟨by decide, by decide, by decide, by decide⟩⟩
theorem test_branch : (after (.br 0xFFFF) (onCell (firing { fire0 with pc := 5 }))).pcOf 0 0 = some 4 ∧
    (after (.bz (.s 0) 3) cs).pcOf 0 0 = some 3 ∧ (after (.bnz (.s 0) 3) cs).pcOf 0 0 = some 1 ∧
    ((after (.br 0xFFFF) ks).core 0).pc = 0x80000000000000FC := by decide
theorem test_branch_tokens : (after (.bk 0 true 4) cs).pcOf 0 0 = some 4 ∧ (after (.bk 0 false 4) cs).pcOf 0 0 = some 1 ∧
    (after (.bkind 2 2 0 4) cs).pcOf 0 0 = some 4 ∧ (after (.bkind 2 1 0 4) cs).pcOf 0 0 = some 1 := by decide
/-- The last word of a block of two words that starts at 1, with one run left or none; and a block of three runs. -/
def inBlock (left : Nat) : Firing := { fire0 with pc := 2, rep := some { start := 1, len := 2, left := left } }
theorem wit_rep_block : (onCell (firing (inBlock 1))).cell 0 0 = some (firing (inBlock 1)) ∧ (inBlock 1).pc + 1 = 1 + 2 ∧
    (((onCell (firing (inBlock 1))).cellAdvance 0 0 1 1).firing 0 0).map (fun g => (g.pc, g.rep.map (·.left))) = some (1, some 0) ∧
    (((onCell (firing (inBlock 0))).cellAdvance 0 0 1 1).firing 0 0).map (fun g => (g.pc, g.rep)) = some (3, none) ∧
    (let f : Firing := { inBlock 2 with pc := 1 }
     (List.range 7).map (fun j => ((List.range j).foldl (fun g _ => g.next 1) f).pc) = [1, 2, 1, 2, 1, 2, 3]) := by decide
theorem test_rep : ((after (.rep (.s 1) 2) cs).firing 0 0).map (·.rep) = some (some { start := 1, len := 2, left := 2 }) ∧
    ((after (.rep (.s 0) 2) cs).firing 0 0).map (fun f => (f.pc, f.rep)) = some (3, none) := by decide

/-- The cell's guard is q0, whose token the firing has not popped. -/
def unread : Cell := { firing fire0 with guard := 0 }
theorem wit_end : CellRuns (onCell (firing { fire0 with chosenPopped := true })) 0 0
      (firing { fire0 with chosenPopped := true }) { fire0 with chosenPopped := true } ∧
    CellRuns (onCell (firing { fire0 with wrap := true })) 0 0 (firing { fire0 with wrap := true }) { fire0 with wrap := true } ∧
    CellRuns (onCell unread) 0 0 unread fire0 ∧ fire0.chosenPopped = false ∧ fire0.wrap = false ∧
    (onCell unread).headTok 0 0 0 = some (dat 0xFFFFFFF9) ∧ (onCell unread).frozen 0 0 = false :=
  ⟨runs_of (by decide), runs_of (by decide), runs_of (by decide), by decide, by decide, by decide, by decide⟩
theorem test_end : gives .endCell (onCell (firing { fire0 with wrap := true }))
      (fun s => (s.cell 0 0).map (fun c => (c.firing, c.retired)) == some (none, true)) = true ∧
    gives .endCell (onCell unread) (fun s => (s.op 0 0).map (·.fault) == some (some (Code.malformed, 0))) = true := by decide

/-! ## Tokens (R133 to R144) -/

theorem wit_send : PushOk cs 0 0 4 ((resultTok fire0 3).tagged 1023) ∧ PushOk cs 0 0 5 (stopTok 7 1023) ∧
    PushOk cs 0 0 4 (doneTok 0) ∧
    CellRuns cs 0 0 cell0 fire0 := ⟨⟨by decide, by decide⟩, ⟨by decide, by decide⟩, ⟨by decide, by decide⟩, runs_of (by decide)⟩
theorem test_send : sent (after (.send 0 (.s 1) 9) cs) 4 = [narrowTok 9 3] ∧
    sent (after (.sendstop 1 2 0) cs) 5 = [narrowTok 0x2800 0] ∧
    sent (after (.senddone 0 0) cs) 4 = [narrowTok 0x4000 0] := by decide
theorem wit_receive : cs.headTok 0 0 1 = some (dat 3) ∧ PopsOk cs 0 0 [1] ∧ PushOk cs 0 0 5 (dat 3) ∧
    cs.headTok 0 0 2 = some (doneTok 0) ∧ PopsOk cs 0 0 [2] :=
  ⟨by decide, ⟨by decide, by decide⟩, ⟨by decide, by decide⟩, by decide, ⟨by decide, by decide⟩⟩
theorem test_receive : sent (after (.recv (.o 1) 2) cs) 5 = [doneTok 0] ∧
    ((after (.peek 4 1) cs).cell 0 0).map (fun c => c.reg 4) = some 3 ∧
    (after (.drop 1) cs).headTok 0 0 1 = some (stopTok 1 0) := by
  decide
theorem wit_steer : cs.headTok 0 0 0 = some (dat 0xFFFFFFF9) ∧ (dat 0xFFFFFFF9).isClose = false ∧
    cs.readCtrl 0 0 cell0 fire0.lastHdr [0] (.k 0) = .value 1 ∧ PopsOk cs 0 0 (0 :: popsOf [.k 0]) ∧
    PushOk cs 0 0 5 (dat 0xFFFFFFF9) ∧
    PushOk cs 0 0 kcPort (ctrlTok true) ∧ (doneTok 0).isClose = true ∧ PopsOk cs 0 0 [2] ∧
    cs.canPushAll 0 0 cellOuts = true :=
  ⟨by decide, by decide, by decide, ⟨by decide, by decide⟩, ⟨by decide, by decide⟩, ⟨by decide, by decide⟩, by decide,
   ⟨by decide, by decide⟩, by decide⟩
theorem test_steer : gives (.steer 0 (.k 0)) cs (fun s => (sent s 4, sent s 5, sent s kcPort) ==
      ([], [dat 0xFFFFFFF9], [ctrlTok true])) = true ∧
    gives (.steer 2 (.k 0)) cs (fun s => (sent s 4, sent s 5, sent s kcPort) == ([doneTok 0], [doneTok 0], [])) = true := by decide
theorem wit_merge : cs.readCtrl 0 0 cell0 fire0.lastHdr [] (.k 0) = .value 1 ∧ cs.headTok 0 0 1 = some (dat 3) ∧
    (dat 3).isClose = false ∧
    PopsOk cs 0 0 (1 :: popsOf [.k 0]) ∧ PushOk cs 0 0 4 (dat 3) ∧ cs.earliest 0 0 (cs.arms 0 0 .amerge) = some 0 ∧
    PopsOk cs 0 0 [0] ∧ PushOk cs 0 0 5 (dat 0xFFFFFFF9) :=
  ⟨by decide, by decide, by decide, ⟨by decide, by decide⟩, ⟨by decide, by decide⟩, by decide, ⟨by decide, by decide⟩,
   ⟨by decide, by decide⟩⟩
theorem test_merge : gives (.merge 0 (.k 0)) cs (fun s => (sent s 4, s.headTok 0 0 0, s.headTok 0 0 1) ==
      ([dat 3], some (dat 0xFFFFFFF9), some (stopTok 1 0))) = true ∧
    gives (.amerge 1) cs (fun s => sent s 5 == [dat 0xFFFFFFF9]) = true := by decide

/-- TSEQ at its greatest value. -/
def lastTag : Cell := { cell0 with tseq := 1023 }
theorem wit_tagseq : CellRuns (onCell lastTag) 0 0 lastTag fire0 ∧ PopsOk (onCell lastTag) 0 0 [0] ∧
    (onCell lastTag).headTok 0 0 0 = some (dat 0xFFFFFFF9) ∧ PushOk (onCell lastTag) 0 0 4 ((dat 0xFFFFFFF9).tagged 1023) ∧
    (onCell lastTag).headTok 0 0 2 = some (doneTok 0) ∧ PopsOk (onCell lastTag) 0 0 [2] ∧
    PushOk (onCell lastTag) 0 0 4 ((doneTok 0).tagged 0) :=
  ⟨runs_of (by decide), ⟨by decide, by decide⟩, by decide, ⟨by decide, by decide⟩, by decide, ⟨by decide, by decide⟩,
   ⟨by decide, by decide⟩⟩
theorem test_tagseq : gives (.tagseq 0 0) (onCell lastTag) (fun s => (sent s 4, (s.cell 0 0).map (·.tseq)) ==
    ([narrowTok 1023 0xFFFFFFF9], some 1)) = true := by decide

/-- A cell that collects, NEXT 1,020, with a token of a tag on q0. -/
def gather (g : Half) (w : List (Nat × Token)) : State :=
  { st (task0 [.cell { cell0 with next := 1020, window := w }] [inp 0 0 [narrowTok g 8], outp 0 4, inp 0 2 [doneTok 0]]) with
    cur := .cell 0 0 }
/-- Its actor. -/
def gatherer (w : List (Nat × Token)) : Cell := { cell0 with next := 1020, window := w }
/-- What `collect` asks of a token with tag `g`, and how far it is ahead. -/
def ahead (g : Half) (w : List (Nat × Token)) (δ : Nat) : Bool :=
  runsB (gather g w) 0 0 (gatherer w) fire0 && decide ((gather g w).headTok 0 0 0 = some (narrowTok g 8)) &&
    ((gather g w).popsBehind 0 0 [0]).isNone && ((gather g w).popsRate 0 0 [0]).isNone &&
    decide ((hdrTag (narrowTok g 8).hdr + 1023 - 1020) % 1023 = δ) && !(narrowTok g 8).isClose && !fire0.releasing
/-- Tags 1,020, 1,021 and 60 are 0, 1 and 63 ahead; 61 is 64 ahead, and 0 is no tag. -/
theorem wit_collect : ahead 1020 [] 0 = true ∧ ahead 1021 [] 1 = true ∧ ahead 60 [] 63 = true ∧ ahead 61 [] 64 = true ∧
    ahead 0 [] 3 = true ∧ ahead 1021 [(1021, dat 1)] 1 = true ∧ aget 1021 ([(1021, dat 1)] : List (Nat × Token)) ≠ none ∧
    PushOk (gather 1020 []) 0 0 4 (narrowTok 1020 8) ∧ (gather 1020 []).headTok 0 0 2 = some (doneTok 0) ∧
    PopsOk (gather 1020 []) 0 0 [2] ∧ PushOk (gather 1020 []) 0 0 4 (doneTok 0) :=
  ⟨by decide, by decide, by decide, by decide, by decide, by decide, by decide, ⟨by decide, by decide⟩, by decide,
   ⟨by decide, by decide⟩, ⟨by decide, by decide⟩⟩
/-- The actor that gives out the tokens it keeps, of which 1,020 is the next. -/
def releasing : Cell := { gatherer [(1020, narrowTok 1020 8)] with firing := some { fire0 with releasing := true } }
theorem wit_release : let s : State := { st (task0 [.cell releasing] [inp 0 0 [], outp 0 4]) with cur := .cell 0 0 }
    CellRuns s 0 0 releasing { fire0 with releasing := true } ∧
    aget releasing.next releasing.window = some (narrowTok 1020 8) ∧
    hdrTag (narrowTok 1020 8).hdr = releasing.next ∧ PushOk s 0 0 4 (narrowTok 1020 8) ∧
    gives (.collect 0 0) s (fun s => sent s 4 == [narrowTok 1020 8] && (s.cell 0 0).map (fun c => (c.next, c.window)) ==
      some (1021, [])) = true :=
  ⟨runs_of (by decide), by decide, by decide, ⟨by decide, by decide⟩, by decide⟩
theorem test_collect : gives (.collect 0 0) (gather 60 []) (fun s => (sent s 4, (s.cell 0 0).map (·.window)) ==
      ([], some [(60, narrowTok 60 8)])) = true ∧
    gives (.collect 0 0) (gather 61 []) (fun s => (s.op 0 0).map (·.fault) ==
      some (some (Code.tagWindow, BitVec.ofNat 32 (61 + 1024 * 1020)))) = true := by decide

theorem wit_repl : cs.nthTok 0 0 1 0 = some (dat 3) ∧ PopsOk cs 0 0 [1] ∧ PushOk cs 0 0 4 (wideTok (dat 3).hdr 3) ∧
    PushOk cs 0 0 4 (wideTok (resultTok fire0 0).hdr (cell0.reg 1)) ∧ PopsOk cs 0 0 (popsOf [.k 0]) ∧
    PushOk cs 0 0 kcPort (ctrlTok true) ∧ CellReads cs 0 0 cell0 fire0 [.k 0] [1] :=
  ⟨by decide, ⟨by decide, by decide⟩, ⟨by decide, by decide⟩, ⟨by decide, by decide⟩, ⟨by decide, by decide⟩,
   ⟨by decide, by decide⟩, reads_of (by decide)⟩
theorem test_repl : (sent (after (.repl (.s 1)) cs) 4).map (fun t => (t.count, t.pay.extractLsb' 992 32)) = [(0, 3)] ∧
    sent (after (.kout (.s 1)) cs) kcPort = [ctrlTok true] ∧ (after (.kwait 0) cs).headTok 0 0 6 = none := by decide

/-! ## System words of cells (R146 to R149, R168, R268, R269) -/

/-- The shared window with a queue 0 at its start: ring at 0x100400, 4 records, HEAD 3, TAIL as given, TERM as given. -/
def queueAt (s : State) (tail term : Nat) : State :=
  withMem s [(0, 0x100400), (8, 4), (0x10, 3 + tail * 2 ^ 32), (0x18, term), (0x408, 0x7FFFFFFF * 2 ^ 32)]
theorem wit_qpop : (queueAt cs 4 0).popQueue ((queueAt cs 4 0).lctxOf 0) 0 false =
      (.value 0x7FFFFFFF, ((queueAt cs 4 0).popQueue 0 0 false).2) ∧
    CellReads ((queueAt cs 4 0).popQueue 0 0 false).2 0 0 cell0 fire0 [] [] ∧
    CellTakes ((queueAt cs 4 0).popQueue 0 0 false).2 0 0 fire0 (.o 0) ∧
    ((queueAt cs 4 0).popQueue 0 0 false).2.frozen 0 0 = false :=
  ⟨rfl, reads_of (by decide), ⟨by decide, by decide⟩, by decide⟩
theorem wit_queue : ((queueAt cs 4 0).ctx 0).map (·.wqt) = some 0x100000 ∧
    (queueAt cs 4 0).readVa 0 0x100000 8 = some 0x100400 ∧
    (queueAt cs 4 0).readVa 0 0x100008 4 = some 4 ∧ (queueAt cs 4 0).readVa 0 0x100010 4 = some 3 ∧
    (queueAt cs 4 0).readVa 0 0x100014 4 = some 4 ∧ (queueAt cs 4 0).readVa 0 0x100018 8 = some 0 ∧
    (queueAt cs 4 0).readVa 0 (0x100400 % 2 ^ 57 + 4 * (3 % 4)) 4 = some 0x7FFFFFFF ∧
    (queueAt cs 3 1).readVa 0 0x100014 4 = some 3 ∧ (queueAt cs 3 1).readVa 0 0x100018 8 = some 1 := by decide
theorem test_qpop : gives (.qpop (.o 0) false 0) (queueAt cs 4 0)
      (fun s => ((sent s 4).map Token.word, s.readVa 0 0x100010 4) == ([0x7FFFFFFF], some 4)) = true ∧
    gives (.qpop (.o 0) true 0) (queueAt cs 3 0) (fun s => (sent s 4).map Token.word == [0x80000000]) = true := by decide
theorem wit_tlwait : CellReads cs 0 0 cell0 fire0 [.s 2] [0xFFFFFFF9] ∧ cs.hasCounter (cs.lctxOf 0) 15 = true ∧
    cs.tlBad 15 = false ∧
    ((cs.tl 15).setWidth 32 - (0xFFFFFFF9 : Word)).toNat < 2 ^ 31 := ⟨reads_of (by decide), by decide, by decide, by decide⟩
theorem test_tlwait : (after (.tlwait (.s 2) 15) cs).pcOf 0 0 = some 1 ∧
    (after (.tlwait (.s 1) 15) cs).pcOf 0 0 = some 0 := by decide
theorem test_spawn : (after (.spawn 7) cs).requests = [.spawn 0 0 7] := by decide
theorem wit_commit : cs.task 0 = some (cellTask cell0) ∧ (cellTask cell0).storesOut = false ∧ CellRuns cs 0 0 cell0 fire0 :=
  ⟨rfl, by decide, runs_of (by decide)⟩
/-- `wrap.commit` writes what the buffers hold, and no byte beside it. -/
theorem test_commit : let w : WLine := { tile := 0, line := 0x40020000, bytes := [(3, 7)], since := 0, last := 0, stores := 0 }
    gives .wrapCommit { cs with tasks := cs.tasks.map fun z => (z.1, { z.2 with wcb := [w] }) } (fun s =>
      (s.cell 0 0).map (·.committed) == some true && memGet s.mem 0x40020003 == 7 && memGet s.mem 0x40020004 == 0) = true := by decide

/-- A cell at an `amsg` whose template 2 names the engine at tile (1, 0), context 0, NSEQ 5. -/
def sender : Cell := { cell0 with code := [0xC022C002] }
@[inherit_doc sender] def senderState : State :=
  { st { cellTask sender with tmpls := [(0, 2, { image := 0, desc := 0x0200000000000005 })] } with cur := .cell 0 0 }
theorem wit_amsg : CellReads senderState 0 0 sender fire0 [.s 2, .s 1] [0xFFFFFFF9, 3] ∧
    senderState.task 0 = some { cellTask sender with tmpls := [(0, 2, { image := 0, desc := 0x0200000000000005 })] } ∧
    (senderState.amsgTurn (tileKey 0 0)).map (fun z => (z.1, z.2.1)) = some (0, 0) ∧
    Packet.ctx ({ image := 0, desc := 0x0200000000000005 } : Tmpl).image = 0 ∧
    ({ image := 0, desc := 0x0200000000000005 } : Tmpl).invalid = false ∧ (senderState.op 0 0).isSome = true :=
  ⟨reads_of (by decide), rfl, by decide, by decide, by decide, by decide⟩
theorem test_amsg : gives (.amsg (.s 2) (.s 1) 2) senderState
      (fun s => s.msgs.map (fun m => (m.x, m.y, m.from_, Packet.seq m.packet)) == [(1, 0, 0, 5)] &&
        (s.task 0).map (·.tmpls) == some [(0, 2, { image := 0, desc := 0x0200000000000006 })]) = true := by decide
theorem wit_amsg_core : CoreRuns ks 0 [.s 2, .s 1] none ∧ (ks.core 0).tmpls[15]? = some { image := 0, desc := 0 } ∧
    Packet.ctx (0 : Packet) = (ks.core 0).lctx ∧ ({ image := 0, desc := 0 } : Tmpl).invalid = false ∧
    ks.laneWaits (coreFrom 0) 0 = false :=
  ⟨⟨by decide, by decide, by decide, by decide⟩, by decide, by decide, by decide, by decide⟩

/-- A spline of 33 tiles of one token whose map follows them; the cell sets a flag of it. -/
def mapped : Spline :=
  { (default : Spline) with tile := 1, base := 0x100000, count := 33, mapStored := true, mapVa := 0x110000 }
@[inherit_doc mapped] def flagState : State :=
  { st (task0 [.cell cell0, .spline mapped] []) with cur := .cell 0 0 }
theorem wit_flags : CellReads flagState 0 0 cell0 fire0 [.imm 0x20, .s 1] [0x20, 3] ∧
    (flagState.task 0).bind (fun k => k.splineAt 0) = some 1 ∧ flagState.spline 0 1 = some mapped ∧
    (0x20 : Nat) < mapped.count ∧
    (flagState.vaRead 0 (mapped.mapVa + 8 * (0x20 / 32)) 8).isSome = true ∧
    flagState.unitAt 0 1 (mapped.mapVa + 8 * (0x20 / 32)) 8 1 = .at_ (.shm 0x10008) none :=
  ⟨reads_of (by decide), by decide, rfl, by decide, by decide, rfl⟩
/-- The state after it, one fc later: the store is on its way. -/
def flagged : State := { after (.vfSet (.imm 0x20) (.s 1)) flagState with fc := flagState.fc + 1 }
theorem wit_flag_store : (flagged.spline 0 1).map (fun z => z.accs.map fun a => (a.k == flagK, decide (a.due ≤ flagged.fc), a.val)) =
    some [(true, true, 4 * 0 + 3)] ∧ flagged.dev.halt = false ∧ flagged.mem = flagState.mem := by decide
theorem test_flags : gives (.storeAck 0 1) flagged
      (fun s => s.vaRead 0 (mapped.mapVa + 8) 8 == some 3) = true := by decide

/-- A TRAPPED word's result on its way to s4. -/
def trapped : Cell := { cell0 with trapped := some (9, .s 4) }
theorem wit_retired : cell0.trapped = none ∧ trapped.trapped = some (9, .s 4) ∧ (onCell trapped).cell 0 0 = some trapped ∧
    (onCell trapped).goesOn 0 = true ∧ fire0.saved = false ∧ (onCell trapped).frozen 0 0 = false ∧
    CellTakes (onCell trapped) 0 0 fire0 (.s 4) := ⟨rfl, rfl, rfl, by decide, by decide, by decide, ⟨by decide, by decide⟩⟩
theorem test_retired : ((after (.neg (.s 4) (.s 1)) cs).cell 0 0).map (fun c => c.reg 4) = some 0xFFFFFFFD ∧
    ((after (.clip8 4 (.imm 0x80)) cs).cell 0 0).map (fun c => c.reg 4) = some 0x7F ∧
    ((after (.bswap (.s 4) (.s 2)) cs).cell 0 0).map (·.trapped) = some (some (0xF9FFFFFF, .s 4)) ∧
    ((after (.trappedResultArrive 0 0) (onCell trapped)).cell 0 0).map (fun c => (c.reg 4, c.trapped)) = some (9, none) := by decide
theorem test_fdiv : ((after (.fdiv (.s 4) (.imm 0x40400000) (.s 1) .rne) (onCell { cell0 with regs := [0, 0x40000000] })).cell 0 0).map
    (·.trapped) = some (some (0x3FC00000, .s 4)) := by decide

/-! ## Control cores (R151 to R158) -/

/-- The hypotheses of a statement about a core, as a test. -/
def coreB (s : State) (k : Nat) (srcs : List Src) (d : Option SReg) : Bool :=
  decide (s.cur = .core k) && decide (k < s.cores.length) && !(s.core k).halted && !(s.core k).waits srcs d
theorem core_of {s : State} {k : Nat} {srcs : List Src} {d : Option SReg} (h : coreB s k srcs d = true) : CoreRuns s k srcs d := by
  simp only [coreB, Bool.and_eq_true, decide_eq_true_eq, Bool.not_eq_true'] at h
  exact ⟨h.1.1.1, h.1.1.2, h.1.2, h.2⟩

theorem test_trap : gives (.trap 0xFFF) ku (fun s => ((s.core 0).epc, (s.core 0).cause, (s.core 0).status, (s.core 0).pc) ==
    (0x8000000000000104, 0x80000FFF, 1, 0x8000000000000200)) = true := by decide
theorem wit_trap : CoreRuns ku 0 [] none ∧ (ku.core 0).super = false ∧ CoreRuns ku 0 [.s 1, .s 2] none :=
  ⟨core_of (by decide), by decide, core_of (by decide)⟩
theorem wit_super : CoreSuper ks 0 [] none ∧ CoreSuper ks 0 [.imm 0x00900400, .s 1] none ∧
    mgmtWritable ((ks.core 0).src (.imm 0x00900400)).toNat = true ∧ mgmtWritable 0x90F488 = true :=
  ⟨⟨core_of (by decide), by decide⟩, ⟨core_of (by decide), by decide⟩, by decide, by decide⟩
theorem test_eret : gives .eret (onCore { core0 with epc := 0x40, status := 1 }) (fun s =>
      ((s.core 0).pc, (s.core 0).status) == (0x40, 0)) = true ∧
    gives .eret ku (fun s => ((s.core 0).cause, (s.core 0).epc) == (Code.priv.zeroExtend 64, 0x8000000000000100)) = true := by decide
theorem test_halt : gives .halt ks (fun s => (s.core 0).halted) = true ∧
    gives (.coreWake 0 1) (onCore { core0 with halted := true }) (fun s => !(s.core 0).halted) = true := by decide
theorem wit_wake : (15 : Nat) < ks.cores.length ∧ (1 : Dbl).getLsbD 0 = true := by decide
/-- User mode; a request of context 1 at local offset 0x40. -/
theorem wit_dispatch_priv : let s := { ku with mem := memWrite [] (Loc.core 0 0x42).key 1 1 }
    let e := (s.core 0).src (.s 3)
    CoreRuns s 0 [.s 3, .s 2] none ∧ e.extractLsb' 62 2 = 2 ∧ e.extractLsb' 18 44 = 0 ∧ e.toNat % 64 = 0 ∧
      (Packet.byte (BitVec.ofNat 512 (s.readLoc (.core 0 (e.extractLsb' 0 18).toNat) 64)) 2).toNat ≠ (s.core 0).lctx :=
  ⟨core_of (by decide), by decide, by decide, by decide, by decide⟩
theorem test_csr : gives (.csrw (.imm 0xFFFFFFFE) 0x000) ks (fun s => s.csr 0 0x000 == 7) = true ∧
    gives (.csrw (.s 2) 0x004) ks (fun s => s.csr 0 0x004 == 0x3FFF8) = true ∧
    gives (.csrw (.s 2) 0x006) ku (fun s => s.csr 0 0x006 == 0xFFFFFFFFFFFFFFF9) = true ∧
    gives (.csrr 5 0x004) ks (fun s => (s.core 0).reg 5 == 0x200) = true := by decide
theorem wit_csr : CoreRuns ks 0 [.s 2] none ∧ (ks.core 0).super = true ∧ CoreRuns ks 0 [] (some 5) :=
  ⟨core_of (by decide), by decide, core_of (by decide)⟩

/-- Local memory of core 0 holds 0x80 at offset 0x3F and 0xFF at 0x40. -/
def km : State := { ks with mem := memWrite [] (Loc.core 0 0x3F).key 2 0xFF80 }
theorem wit_local : CoreRuns km 0 [.s 3] (some 5) ∧ km.coreAt 0 ((km.core 0).addr (.s 3) 0xFFFF) 1 0 = .loc 0x3F ∧
    km.coreAt 0 ((km.core 0).addr (.s 3) 0) 8 0 = .loc 0x40 ∧ CoreRuns km 0 [.s 3, .s 2] none ∧ km.memOk ∧
    km.coreAt 0 ((km.core 0).addr (.s 3) 0) 8 1 = .loc 0x40 :=
  ⟨core_of (by decide), by decide, by decide, core_of (by decide), by unfold State.memOk; decide, by decide⟩
theorem test_load : gives (.ldB 5 (.s 3) 0xFFFF) km (fun s => (s.core 0).reg 5 == 0xFFFFFFFFFFFFFF80) = true ∧
    gives (.ldH 5 (.s 3) 0) km (fun s => (s.core 0).reg 5 == 0xFF) = true ∧
    gives (.ldW 5 (.s 3) 1) km (fun s => (s.core 0).cause == Code.range.zeroExtend 64) = true := by decide
theorem test_store : gives (.stH (.s 2) (.s 3) 0) km (fun s => s.readLoc (.core 0 0x3E) 4 == 0xFFF98000) = true := by decide
/-- A local address that is too far, and misaligned; the management space in each mode; a virtual address with bit 57 set.
-/
theorem wit_addresses : (0x8000000000040000 : Dbl).extractLsb' 62 2 = 2 ∧ (0x8000000000040000 : Dbl).extractLsb' 18 44 ≠ 0 ∧
    (0x8000000000000001 : Dbl).extractLsb' 62 2 = 2 ∧ (0xC000000000900008 : Dbl).extractLsb' 62 2 = 3 ∧
    (0xC000000000900008 : Dbl).extractLsb' 32 30 = 0 ∧ (0xC000000000900008 : Dbl).toNat % 8 = 0 ∧
    (ku.core 0).super = false ∧
    (ks.core 0).super = true ∧ (0x0200000000000000 : Dbl).extractLsb' 63 1 = 0 ∧
    (0x0200000000000000 : Dbl).extractLsb' 57 6 ≠ 0 ∧
    (0x01FFFFFFFFFFFFFF : Dbl).extractLsb' 57 7 = 0 ∧ (0x01FFFFFFFFFFFFFF : Dbl).toNat % 2 ≠ 0 := by decide
/-- The management space in supervisor mode: 8 bytes, misaligned ones, 4 bytes; and in user mode. -/
theorem test_management : [ks.coreAt 0 0xC000000000900008 8 0, ks.coreAt 0 0xC000000000900009 8 0, ks.coreAt 0 0xC000000000900008 4 0,
      ku.coreAt 0 0xC000000000900009 8 0, ku.coreAt 0 0xC000000100900008 8 0] =
    [.mgmt 0x900008, .trap Code.range, .trap Code.range, .trap Code.priv, .trap Code.xlate] := by decide

/-- A core with a load of 4 bytes and a store of 8 bytes on their way. -/
def busyCore : Core :=
  { core0 with loads := [{ d := 5, loc := .shm 8, va := 0x100008, bytes := 4, pc := 0, seq := 1, ext := true, amo := none }],
               stores := [{ seq := 2, loc := .shm 16, bytes := 8, val := 0x1122, at_ := 100 }] }
@[inherit_doc busyCore] def kd : State := { onCore busyCore with mem := memWrite [] (Loc.shm 8).key 4 0x80000000 }
theorem wit_device : CoreRuns ks 0 [.s 4] (some 5) ∧ ks.coreAt 0 ((ks.core 0).addr (.s 4) 0) 8 0 = .dev (.shm 8) ∧
    CoreRuns ks 0 [.s 4, .s 2] none ∧ ks.coreAt 0 ((ks.core 0).addr (.s 4) 0) 8 1 = .dev (.shm 8) ∧ 0 < kd.cores.length ∧
    (kd.core 0).loads[0]? = some { d := 5, loc := .shm 8, va := 0x100008, bytes := 4, pc := 0, seq := 1, ext := true, amo := none } ∧
    ((kd.core 0).loads.any fun y => decide (y.seq < 1) && overlaps y.loc y.bytes (.shm 8) 4) = false ∧
    (kd.core 0).stores[0]? = some { seq := 2, loc := .shm 16, bytes := 8, val := 0x1122, at_ := 100 } ∧ kd.memOk ∧
    ((kd.core 0).stores.any fun y => decide (y.seq < 2) && overlaps y.loc y.bytes (.shm 16) 8) = false ∧
    kd.storeMay (kd.core 0) { seq := 2, loc := .shm 16, bytes := 8, val := 0x1122, at_ := 100 } = true ∧
    kd.sysPending (.shm 8) 4 = false ∧ kd.coreAway 0 1 = false :=
  ⟨core_of (by decide), by decide, core_of (by decide), by decide, by decide, by decide, by decide, by decide,
   by unfold State.memOk; decide, by decide, by decide, by decide⟩
theorem wit_owait : CoreRuns kd 0 [] none ∧ (kd.core 0).loads.length ≤ (1 : BitVec 4).toNat ∧
    (kd.core 0).stores.length ≤ (1 : BitVec 4).toNat ∧ (kd.core 0).copies ≤ (0 : BitVec 4).toNat ∧
    (kd.core 0).cmds ≤ (0 : BitVec 4).toNat := ⟨core_of (by decide), by decide, by decide, by decide, by decide⟩
/-- After an owait with store limit 0 a store, which came later than the load that is still out, is not performed. -/
def ordered0 : State := after (.owait 1 0 0 0) { onCore { busyCore with stores := [] } with nextId := 3 }
def later0 : State := { ordered0 with cores := ordered0.cores.map fun c => { c with stores := [{ seq := 5, loc := .shm 16, bytes := 8, val := 1, at_ := 100 }] } }
theorem wit_owait_later : (ordered0.core 0).relSeq = 3 ∧ (ordered0.core 0).loads.map (·.seq) = [1] ∧ (1 : Nat) < 3 ∧
    (later0.core 0).relSeq = (ordered0.core 0).relSeq ∧ (later0.core 0).loads = (ordered0.core 0).loads ∧
    (later0.core 0).stores.map (·.seq) = [5] ∧ gives (.coreStorePerformed 0 0) later0 (fun s => s == later0) = true := by decide
theorem test_device : gives (.coreLoadReturn 0 0 false) kd (fun s => (s.core 0).reg 5 == 0xFFFFFFFF80000000) = true ∧
    gives (.coreStorePerformed 0 0) kd (fun s => s.readLoc (.shm 16) 8 == 0x1122 && (s.core 0).stores == []) = true ∧
    gives (.owait 0 1 0 0) kd (fun s => (s.core 0).pc == (kd.core 0).pc) = true := by decide

/-- The double at s4 holds 5; and it holds the greatest 32-bit integer. -/
def ka (v : Nat) : State := { ks with mem := memWrite [] (Loc.shm 8).key 8 v }
theorem wit_amo : CoreRuns (ka 5) 0 [.s 4, .s 1] (some 5) ∧ ((ka 5).core 0).src (.s 4) = 0x100008 ∧
    (0x100008 : Dbl).extractLsb' 57 7 = 0 ∧ (ka 5).coreAt 0 0x100008 8 2 = .dev (.shm 8) ∧
    amoOverflow .add 32 0x7FFFFFFF 3 = true ∧ amoOverflow .add 32 5 3 = false ∧ ((ka 5).core 0).stores = [] ∧
    ((ka 5).core 0).loads = [] :=
  ⟨core_of (by decide), by decide, by decide, by decide, by decide, by decide, rfl, rfl⟩
theorem test_amo : gives (.amo .add 5 (.s 4) (.s 1) true true) (ka 5) (fun s => s.readLoc (.shm 8) 8 == 8 &&
      (s.core 0).loads.map (fun x => (x.d, x.amo)) == [(5, some 5)]) = true ∧
    gives (.amo .add 5 (.s 4) (.s 1) false true) (ka 0x7FFFFFFF) (fun s => s.readLoc (.shm 8) 8 == 0x7FFFFFFF &&
      (s.core 0).cause == Code.iovf.zeroExtend 64) = true := by decide

/-- A record is queued for context 0. -/
def kr : State := { ks with ctxs := [(0, { ctx0 with faults := [(0, 0xABCD), (1, 0xEF)] })] }
theorem wit_rfetch : CoreRuns kr 0 [.s 3] (some 5) ∧ ((kr.core 0).src (.s 3)).extractLsb' 62 2 = 2 ∧
    ((kr.core 0).src (.s 3)).extractLsb' 18 44 = 0 ∧ ((kr.core 0).src (.s 3)).toNat % 32 = 0 ∧
    (kr.ctx (kr.core 0).lctx).map (·.faults) = some [(0, 0xABCD), (1, 0xEF)] ∧
    (ks.ctx (ks.core 0).lctx).map (·.faults) = some [] ∧ kr.memOk :=
  ⟨core_of (by decide), by decide, by decide, by decide, by decide, by decide, by unfold State.memOk; decide⟩
theorem test_rfetch : gives (.rfetch 5 (.s 3)) kr (fun s => (s.core 0).reg 5 == 1 &&
    s.readLoc (.core 0 0x40) 32 == 0xABCD &&
      (s.ctx 0).map (·.faults) == some [(1, 0xEF)]) = true ∧
    gives (.rfetch 5 (.s 3)) ks (fun s => (s.core 0).reg 5 == 0) = true := by decide
theorem wit_services : CoreRuns km 0 [.s 3] none ∧ km.readLoc (.core 0 0x40) 8 ≠ 0 ∧
    ((km.core 0).src (.s 3)).toNat % 64 = 0 ∧ (∀ z ∈ km.intake, z.1 ≠ 0) ∧ (km.ctx (km.core 0).lctx).isSome = true ∧
    CoreRuns ks 0 [.s 2] (some 5) := ⟨core_of (by decide), by decide, by decide, by decide, by decide, core_of (by decide)⟩
theorem test_services : gives (.swait (.s 3)) km (fun s => (s.core 0).pc == 0x8000000000000104) = true ∧
    gives (.dispatch (.s 3)) km (fun s => s.intake.map (fun z => (z.1, Packet.byte z.2.2 0)) == [(0, 0xFF)]) = true ∧
    gives (.cfgw (.imm 0x00900400) (.s 1)) ks (fun s => (s.core 0).tmpls.head?.map (·.desc) == some 3) = true ∧
    gives (.cfgw (.imm 0) (.s 1)) ks (fun s => (s.core 0).cause == Code.range.zeroExtend 64) = true := by decide
/-- The CRC-32C of nine bytes "123456789" is 0xE3069283: 8 bytes, then one, from all ones, complemented at the end. -/
theorem test_crc : ~~~(crcBytes 1 (crcBytes 8 0xFFFFFFFF 0x3837363534333231) 0x39) = 0xE3069283 := by decide

/-! ## Vector words (R196 to R221) -/

/-- What VecRuns asks, as a test. -/
def vecB (s : State) (t o : Nat) (c : Vec) (f : Firing) : Bool :=
  decide (s.cur = .vec t o) && decide (s.vec t o = some c) && decide (c.firing = some f)
theorem vec_of {s : State} {t o : Nat} {c : Vec} {f : Firing} (h : vecB s t o c f = true) : VecRuns s t o c f := by
  simp only [vecB, Bool.and_eq_true, decide_eq_true_eq] at h
  exact ⟨h.1.1, h.1.2, h.2⟩
/-- The vector state of the tests, with v4 as given. -/
def vs (v4 : VReg) : State := onVec (vec0 v4) []
/-- Register `n` of its actor. -/
def vreg (s : State) (n : VNum) : Option VReg := (s.vec 0 0).map fun c => c.v n

theorem wit_vec : VecRuns (vs freshV) 0 0 (vec0 freshV) fire0 ∧ (31 : VNum).val < (vec0 freshV).vregs.length ∧
    (7 : PNum).val < (vec0 freshV).pregs.length := ⟨vec_of (by decide), by decide, by decide⟩
theorem wit_lanes : (vec0 freshV).markOf [1, 2] (some 0) = none ∧ tagScl ((vec0 freshV).v 1).tag = false ∧
    ((vec0 freshV).v 1).tag = ((vec0 freshV).v 2).tag ∧ (vec0 freshV).markOf [5, 1] none = some 0x55 ∧
    (vec0 freshV).markOf [0] none = none ∧ tagFmt ((vec0 freshV).v 0).tag = 0 := by decide
/-- Each row accepts a format: INT32 or FP32. -/
theorem wit_lane_rows : (laneRows .rne).all (fun r => r.accepts 9 || r.accepts 1) = true ∧
    (laneRows .rtz).all (fun r => r.accepts 9 || r.accepts 1) = true := by decide
/-- Two scaled registers of one tag; an INT32 register shifted by an INT8 one, by its low five bits. -/
theorem wit_bits : let c := vec0 (vr (mkTag 4 true 1) [0x35, 0x0F])
    c.markOf [4, 4] none = none ∧ tagFmt (c.v 4).tag ≠ 0 ∧ tagScl (c.v 4).tag = true ∧ isInt (tagFmt (c.v 1).tag) = true ∧
    isInt (tagFmt ((vec0 (vr 0xA [33, 2])).v 4).tag) = true ∧ (vec0 (vr 0xA [33, 2])).markOf [1, 4] none = none ∧
    bitRows.map (fun w => vreg (after (w.1 6 4 4 none) (vs (vr (mkTag 4 true 1) [0x35, 0x0F]))) 6) =
      [vr (mkTag 4 true 1) [0x35, 0x0F], vr (mkTag 4 true 1) [0x35, 0x0F], vr (mkTag 4 true 1) [0, 0]].map some ∧
    shiftRows.map (fun w => vreg (after (w.1 6 2 4 none) (vs (vr 0xA [33, 2]))) 6) = [vr 9 [20, 80], vr 9 [5, 5], vr 9 [5, 5]].map some := by
  decide
theorem test_lanes : vreg (after (.vadd 2 1 2 (some 0) .rne) (vs freshV)) 2 = some (vr 9 [11, 20, 33]) ∧
    vreg (after (.vadd 6 1 0 none .rne) (vs freshV)) 6 = some { freshV with mark := some ((vs freshV).origin 0 0 Code.invalid) } := by
  decide
theorem test_lanes_float : vreg (after (.vfma 6 3 3 3 none .rne) (vs freshV)) 6 = some (vr 1 [0x40000000, 0x40C00000]) := by decide
theorem test_marks : vreg (after (.vadd 1 1 5 none .rne) (vs freshV)) 1 = some { vr 9 [1, 2, 3] with mark := some 0x55 } := by decide
theorem wit_compare : (vec0 (vr 0xA [2, 3])).markOf [1, 2] none = none ∧ isSeven (tagFmt ((vec0 freshV).v 1).tag) = true ∧
    ccOk (tagFmt ((vec0 freshV).v 1).tag) .lt = true ∧ (vec0 freshV).markOf [1, 2] (some 0) = none ∧
    tagFmt ((vec0 (vr 0xA [2, 3])).v 4).tag ∈ [0xA, 0xB, 0xC] ∧ tagFmt ((vec0 freshV).v 1).tag = 0x9 ∧
    (vec0 (vr 0xA [2, 3])).markOf [4, 4, 1] none = none ∧
    (∀ x ∈ [4, 4, 1], tagScl ((vec0 (vr 0xA [2, 3])).v x).tag = false) := by decide
theorem test_compare_vec : ((after (.vcmpCc .lt 1 1 2 none) (vs freshV)).vec 0 0).map (fun c => (c.p 1).bits) = some 7 ∧
    vreg (after (.vsel 6 1 2 0) (vs freshV)) 6 = some (vr 9 [1, 20, 3]) ∧
    vreg (after (.vimad 6 4 4 1 none) (vs (vr 0xA [2, 0xFF]))) 6 = some (vr 9 [5, 0xFE03]) := by decide
theorem wit_move : (vec0 (vr 0xA [2, 0xFF])).markOf [1, 4] none = none ∧ tagFmt ((vec0 freshV).v 1).tag ≠ 0 ∧
    moveRows.all (fun r => decide ((r.lanes (vr 9 [1, 2, 3]) 2).length ≤ 512)) = true ∧
    (2 : BitVec 9).toNat < (vr 9 [1, 2, 3]).vlen ∧ tagFmt ((vec0 (vr 0xA [2, 0xFF])).v 4).tag ∈ [0x9, 0xA] := by decide
theorem test_move : vreg (after (.vrot 6 1 1 none) (vs freshV)) 6 = some (vr 9 [3, 1, 2]) ∧
    vreg (after (.vperm 6 1 4 none) (vs (vr 0xA [2, 0xFF]))) 6 = some (vr 9 [3, 0]) := by decide
/-- FP32 1.0 and 2.0 to E4M3 and to a block-scaled format. -/
theorem wit_convert : ((vec0 freshV).v 3).mark = none ∧
    (cvtOut false (vec0 freshV) 3 4 .rne true false none).toOption.isSome = true ∧
    (quantOut false (vec0 (vr 1 (List.replicate 32 0x3F800000))) 4 8 .rne 2 none).toOption.isSome = true ∧
    (cvtOut false (vec0 freshV) 0 4 .sr true false (some 0)).toOption.isSome = false ∧
    (vec0 freshV).markOf [0] (some 0) = none ∧
    isFloat3 (tagFmt ((vec0 freshV).v 1).tag) = false ∧ (vec0 freshV).markOf [1] (some 0) = none := by decide
theorem test_convert : vreg (after (.vcvt 6 3 4 .rne true false none) (vs freshV)) 6 = some (vr 4 [0x38, 0x40]) := by decide
theorem wit_tags : tagFmt ((vec0 (vr 0xE [127])).v 4).tag = 0xE ∧ tagScl ((vec0 (vr 0xE [127])).v 4).tag = false ∧
    tagFmt ((vec0 freshV).v 1).tag ≠ 0 ∧ ((vec0 (vr 0xE [127])).v 4).mark = none := by decide
theorem test_tags : vreg (after (.vtagGet 6 1 true) (vs freshV)) 6 = some (vr 9 [9, 3, 0]) ∧
    vreg (after (.vtagSet 1 0xA false 0) (vs freshV)) 1 = some (vr 0xA [1, 2, 3]) := by decide
theorem wit_reduce : (vec0 freshV).markOf [1] (some 0) = none ∧ redOk .add ((vec0 freshV).v 1) .rne = true ∧
    (List.replicate 512 (0 : Word)).length = 512 := by decide
theorem test_reduce : vreg (after (.vred .add 6 1 none .rne) (vs freshV)) 6 = some (vr 9 [6]) ∧
    vreg (after (.vscan .add 6 1 none .rne) (vs freshV)) 6 = some (vr 9 [1, 3, 6]) := by decide

/-- A wide token of three INT32 elements. -/
def wide3 : Token := { hdr := 0, count := 3, pay := BitVec.ofNat 1024 (1 + 2 * 2 ^ 32 + 3 * 2 ^ 64) }
/-- The vector unit with that token on its port 0. -/
def vp : State := onVec (vec0 freshV) [wide3]
theorem wit_ports : VecRuns vp 0 0 (vec0 freshV) fire0 ∧ (vec0 freshV).xfer = none ∧ vp.headTok 0 0 0 = some wide3 ∧
    vp.behindDone 0 0 0 = none ∧ wide3.isData = true ∧ vp.popRate 0 0 0 1 = none ∧
    fmtElems (tagFmt ((vec0 freshV).v 2).tag) ≠ 0 ∧
    0 < ((vec0 freshV).v 1).vlen ∧ tagScl ((vec0 freshV).v 1).tag = false ∧ ((vec0 freshV).v 1).mark = none ∧
    PushOk vp 0 0 5 (vstToken fire0 ((vec0 freshV).v 1) 0) ∧ vp.canPush 0 0 5 1 = true :=
  ⟨vec_of (by decide), by decide, by decide, by decide, by decide, by decide, by decide, by decide, by decide, by decide,
   ⟨by decide, by decide⟩, by decide⟩
/-- A vld of two tokens, of which the first is here, and then the second; a poison and a stop; a register of 40 lanes, and a
scaled one. -/
theorem wit_vld : let c := vec0 freshV
    let one (t : Token) : State := onVec c [t]
    let full : Token := { wide3 with count := 0 }
    (one full).headTok 0 0 0 = some full ∧ full.isData = true ∧ newXfer.moved < (1 : BitVec 4).toNat ∧
    (1 : BitVec 4).toNat < (512 + fmtElems 9 - 1) / fmtElems 9 ∧ fmtElems (tagFmt (c.v 2).tag) = 32 ∧
    (one (poisonTok 0 9)).headTok 0 0 0 = some (poisonTok 0 9) ∧ (poisonTok 0 9).isPoison = true ∧
    (one (poisonTok 0 9)).popRate 0 0 0 1 = none ∧ (one (stopTok 1 0)).headTok 0 0 0 = some (stopTok 1 0) ∧
    (stopTok 1 0).isClose = true ∧ (one (stopTok 1 0)).popRate 0 0 0 1 = none := by decide
theorem wit_vst : let c := vec0 (vr 9 (List.replicate 40 7))
    (c.v 4).mark = none ∧ (1 : BitVec 4).toNat * fmtElems (tagFmt (c.v 4).tag) < (c.v 4).vlen ∧
    PushOk (onVec c []) 0 0 4 (vstToken fire0 (c.v 4) 0) ∧ tagScl (vr (mkTag 4 true 1) [1]).tag = true ∧
    (c.v 5).mark = some 0x55 ∧ PushOk (onVec c []) 0 0 4 (poisonTok 0 0x55) :=
  ⟨by decide, by decide, ⟨by decide, by decide⟩, by decide, by decide, ⟨by decide, by decide⟩⟩
/-- A scale token with block scales of BSZ 1 before the elements. -/
theorem wit_vld_scale : let k : Token := scaleToken fire0 { vr (mkTag 4 true 1) [1] with side := 0x7F }
    k.kind = Kind.scale ∧ (onVec (vec0 freshV) [k]).headTok 0 0 0 = some k ∧ (onVec (vec0 freshV) [k]).popRate 0 0 0 1 = none ∧
    (onVec (vec0 freshV) [k]).behindDone 0 0 0 = none ∧
    gives (.vld 2 0 0) (onVec (vec0 freshV) [k]) (fun s => (s.vec 0 0).map (fun c => c.xfer.map fun x =>
      (x.scale.map fun b => (b.extractLsb' 0 8, b.extractLsb' 512 2), x.bad)) == some (some (some (0x7F, 1), none))) = true := by decide
theorem test_vld_two : gives (.vld 2 0 1) (onVec (vec0 freshV) [{ wide3 with count := 0 }])
    (fun s => (s.vec 0 0).map (fun c => (c.xfer.map (·.moved), (c.v 2).lanes)) == some (some 1, [10, 20, 30, 40])) = true := by decide

/-- The vector unit with a firing that has popped its token. -/
def vecEnd : Vec := { vec0 freshV with firing := some { fire0 with chosenPopped := true } }
theorem wit_vend : VecRuns (onVec vecEnd []) 0 0 vecEnd { fire0 with chosenPopped := true } := vec_of (by decide)
theorem test_ports : vreg (after (.vld 2 0 0) vp) 2 = some (vr 9 [1, 2, 3]) ∧
    (sent (after (.vst 1 1 0) vp) 5).map (fun t => (t.count, t.pay)) = [(3, wide3.pay)] ∧
    sent (after (.vstop 0 3) vp) 4 = [stopTok 3 0] ∧ sent (after (.vdone 1) vp) 5 = [doneTok 0] ∧
    gives .vend (onVec vecEnd []) (fun s => (s.vec 0 0).map (·.firing) == some none) = true := by decide

end Sys2Proof.Tests
end

