-- ==== Sys2Proof/Tests/Runs.lean ====
section
/-! SUPPORT. Witnesses and small tests for the statements about the lives of tasks and launches, clocks, power, failures and
the span transport, and for the general statements: steps, memory, reset, frames and encodings. -/
namespace Sys2Proof.Tests
open Sys2Proof Sys2Proof.Machine
set_option maxRecDepth 20000
set_option exponentiation.threshold 5000

/-! ## The lives of tasks (R12, R49, R58, R270, R371 to R394) -/

/-- The status of task 0, and of its operator 0 the fault register and whether its record has been queued. -/
def op0 (s : State) : Option (Option (BitVec 7 × Word) × Bool) := (s.op 0 0).map fun p => (p.fault, p.recorded)
/-- Task 0 with one more thing about it. -/
def with0 (s : State) (f : Task → Task) : State := { s with tasks := s.tasks.map fun z => (z.1, f z.2) }
/-- Operator 0 has failed with code 9 and DETAIL 5. -/
def frozen0 : State := with0 one fun k => { k with ops := k.ops.map fun p => { p with fault := some (9, 5) } }
theorem wit_freeze : op0 frozen0 = some (some (9, 5), false) ∧ (frozen0.ctx 0).map (fun c => c.faults.length) = some 0 ∧
    gives (.freezeRecord 0 0) frozen0 (fun s => op0 s == some (some (9, 5), true) && phaseOf s == some .stopping &&
      (s.ctx 0).map (fun c => c.faults.map (·.1)) == some [0]) = true := by decide
def stuck0 : State := with0 { one with ctxs := [(0, { ctx0 with idle := 4095 })] } fun k => { k with balance := 1 }
theorem wit_stuck : (stuck0.ctx 0).map (fun c => (c.pausing, c.paused, stuck0.ctxBusy 0 c)) = some (false, false, false) ∧
    stuck0.ticksBy (stuck0.slowest (stuck0.ctxTiles 0)) = true ∧ (stuck0.ctx 0).map (·.idle) = some 4095 ∧ stuck0.balanceOf 0 = 1 ∧ stuck0.familyBalance 0 = 1 ∧
    phaseOf stuck0 = some .running ∧
    gives (.stuckTimeout 0) stuck0 (fun s => (s.ctx 0).map (·.idle) == some 0 &&
      phaseOf s == some .stopping) = true := by decide
/-- A paused task with a balance freezes too. -/
theorem wit_stuck_paused : let s := with0 stuck0 fun k => { k with status := .paused }
    s.balanceOf 0 = 1 ∧ s.familyBalance 0 = 1 ∧ (s.ctx 0).map (fun c => s.ctxBusy 0 c) = some false ∧
    s.ticksBy (s.slowest (s.ctxTiles 0)) = true ∧ gives (.stuckTimeout 0) s (fun s => phaseOf s == some .stopping) = true := by decide
/-- A pausing task whose cell fires, 4,096 fc after the pause and 20 us after a power failure; and one at rest. -/
def pausing0 : State :=
  { with0 cs fun k => { k with status := .pausing, pauseFor := 4096 } with
    fc := 12000, dev := { cs.dev with failAt := some 0 }, clock := { cs.clock with run := 20000 * nsUnits } }
def atRest0 : State := with0 (st (task0 [.cell idleC] [inp 0 0 [dat 1]])) fun k => { k with
  status := .pausing, ops := k.ops.map fun p => { p with heldDone := false } }
theorem wit_pausing : (pausing0.task 0).map (fun k => (k.status, k.pauseFor)) = some (.pausing, 4096) ∧
    pausing0.firingOf 0 0 = some fire0 ∧ pausing0.dev.failAt = some 0 ∧ 0 + 20000 * nsUnits ≤ pausing0.clock.run ∧
    gives (.pauseFiringLimit 0 0) pausing0 (fun s => s.firingOf 0 0 == some { fire0 with saved := true }) = true ∧
    gives (.powerFailFiringSave 0 0) pausing0 (fun s => s.firingOf 0 0 == some { fire0 with saved := true }) = true := by decide
theorem wit_pause_complete : phaseOf atRest0 = some .pausing ∧
    (atRest0.task 0).map (fun k => (k.ops.all (Op.stopped? k.pauseLate), k.ops.all (Op.settled k.pauseLate), k.wcb,
      atRest0.taskOver 0 k, atRest0.bankRuns k.lctx)) = some (true, true, [], false, false) ∧
    gives (.pauseComplete 0) atRest0 (fun s => phaseOf s == some .paused &&
      (s.task 0).map (·.regions) == some []) = true := by decide
/-- A context stack of two phases whose sink holds its done token, and its last phase. -/
def stack0 : State := with0 (st (task0 [.cell idleC] [inp 0 0 []])) fun k => { k with
  graphs := [default, default], ops := k.ops.map fun p => { p with heldDone := true } }
def last0 : State := with0 stack0 fun k => { k with graphs := [default] }
theorem wit_phase : (stack0.task 0).map (fun k => (k.status, k.phase, k.graphs.length)) = some (.running, 0, 2) ∧
    (stack0.task 0).map (fun k => (k.blocked.isEmpty, k.sinksDone, k.storesOut)) = some (true, true, false) ∧
    (stack0.task 0).map (fun k => k.ops.all (·.fault.isNone)) = some true ∧
    stack0.spawning 0 = false ∧
    gives (.phaseStep 0) stack0 (fun s => (s.task 0).map (fun k => (k.phase, k.balance)) == some (1, 0)) = true := by decide
theorem wit_complete : (last0.task 0).map (fun k => (k.status, k.parent, last0.taskOver 0 k)) = some (.running, none, true) ∧
    (stack0.task 0).map (fun k => stack0.taskOver 0 k) = some false ∧
    gives (.taskComplete 0) last0 (fun s => s.tasks.isEmpty) = true := by decide
/-- A cell with a `.wrap` entry that has committed. -/
def wrap0 : State := with0 (st (task0 [.cell { idleC with entries := List.replicate 10 0xFF ++ [4, 0xFF], committed := true }]
  [inp 0 0 []])) fun k => { k with wrapMark := true }
theorem wit_wrap : (wrap0.task 0).map (fun k => (k.status, k.wrapMark, k.wrapActors.length, k.wrapActors.all (·.committed))) =
      some (.running, true, 1, true) ∧
      (wrap0.task 0).map (fun k => (k.ops.all (·.fault.isNone), k.storesOut)) = some (true, false) ∧
    wrap0.hasKids 0 = false ∧ gives (.wrapComplete 0) wrap0 (fun s => s.tasks.isEmpty) = true := by decide
/-- A READY entry of launch 0, as the node above leaves it but for the link in its TCB: GRAPH, FRAME, state 1 and the hints. -/
def entry0 : Ready := { launch := 0, tcb := 0x100040, cls := 0, rseq := 1, cost := 6, remain := 0, bypass := 0, wrapX := false }
@[inherit_doc entry0] def ready0 : State :=
  { poke (isl nodeT none) [(Loc.key (.shm 0x40), 2 ^ 62 + 0x200), (Loc.key (.shm 0x48), 0x4000000000000400),
      (Loc.key (.shm 0x50), 2 ^ 32), (Loc.key (.shm 0x60), 6), (Loc.key (.shm 0x78), 2 ^ 32)] with
    ready := [entry0], launches := [(0, { launch0 with look := some 0x140, rseq := 2, chain := some [0x100040], sets := [{ tcbs := [0x100040] }] })] }
/-- It, selected. -/
def select0 : State := { ready0 with requests := [.ready entry0] }
theorem wit_select : ready0.readyOrder = [entry0] ∧ ready0.placing = none ∧ ready0.requests = [] ∧
    ready0.readyBlocked entry0 = false ∧
    gives .readyQueueSelect ready0 (fun s => s.requests == [.ready entry0] && !s.held) = true := by decide
/-- The entry reads a page that has not been hashed; and an entry that has passed another. -/
def unhashed0 : State := { ready0 with objs := [{ obj0 with signed := true, signedEnd := 0x1000 }] }
theorem wit_ready_unhashed : unhashed0.readyOrder = [entry0] ∧ unhashed0.readyUnhashed entry0 = true ∧
    ready0.readyUnhashed entry0 = false ∧ gives .readyQueueSelect unhashed0 (fun s => s == unhashed0) = true := by decide
theorem wit_passes : let z : Ready := { entry0 with tcb := 0x100080, rseq := 0, bypass := 15 }
    let s : State := { select0 with ready := [z, entry0] }
    mayPass (select0.readyAhead entry0) = true ∧ s.readyAhead entry0 = [z] ∧ mayPass [z] = true ∧
    mayPass [{ z with bypass := 16 }] = false ∧
    gives .joinerPlacementBegin s (fun s => s.ready == [{ z with bypass := 16 }] && s.placing.isSome) = true := by decide
theorem wit_begin_ready : select0.dev.halt = false ∧ select0.dev.failAt = none ∧
    (select0.launch 0).map (·.paused) = some false ∧
    (select0.ready.any fun e => e.launch == 0 && e.tcb == 0x100040) = true ∧ select0.tcbState 0 0x100040 = 1 ∧
    (({ select0 with requests := [] } : State).readyOut entry0).1 ≠ 5 ∧
    (({ select0 with requests := [] } : State).readyOut entry0).2.isSome = true ∧
    gives .joinerPlacementBegin select0 (fun s => s.placing.isSome && s.requests.isEmpty &&
      s.ready.isEmpty) = true := by decide
/-- A task to be placed again, and a task whose cell asks for a spawn. -/
def again0 : State := with0 { one with requests := [.again 0] } fun k => { k with status := .paused }
/-- The same while its context is held, to wrap up. -/
def againWrap : State := with0 again0 fun k => { k with wrapMark := true }
theorem wit_begin_wrap : (againWrap.task 0).map (·.wrapping) = some true ∧
    gives .joinerPlacementBegin { againWrap with ctxs := [(0, { ctx0 with paused := true })] } (fun s =>
      s.placing.map (fun q => q.req) == some (.again 0)) = true := by decide
def spawn0 : State := { one with requests := [.spawn 0 0 0] }
theorem wit_begin_more : phaseOf again0 = some .paused ∧ again0.ctxHeld 0 = false ∧ phaseOf spawn0 = some .running ∧
    gives .joinerPlacementBegin again0 (fun s => s.placing.map (fun q => q.req) == some (.again 0)) = true ∧
    gives .joinerPlacementBegin spawn0 (fun s => s.placing.map (fun q => (q.lctx, q.req)) == some (0, .spawn 0 0 0)) = true := by decide
/-- The placement of a graph of one cell in a bay of one block, and one that has failed to fit. -/
def place0 (out : PlaceOut) : State :=
  { ready0 with
    ready := [],
    placing := some { req := .ready entry0, launch := 0, lctx := 0, tcb := 0x100040, obj := 0, graph := 0, frame := 0,
                      graphs := [{ (default : Graph) with gen := 3, ops := [.cell idleC], places := [0] }], pages := [0], out := out } }
def bay0 : Rect := { x := 0, y := 0, w := 8, h := 4 }
def choice0 : PlaceChoice := { phases := [{ places := [{ x := 0, y := 0, sub := 0 }], routes := [], regions := [], spills := [] }] }
def fits0 : State := place0 (.fits bay0 none)
theorem wit_placement_end : fits0.objs[0]? = some obj0 ∧ obj0.unhashed 0 = false ∧ 0 ∉ obj0.failed ∧
    ((fits0.placing.map fun q => fits0.judge 0 bay0 q.graphs q.graphs choice0 []) == some (.ok [[]] [])) = true ∧
    gives (.placementEnd choice0) fits0 (fun s => s.placing.isNone &&
      (s.task fits0.nextTask).map (fun k => (k.bay, k.lctx, k.phase)) ==
      some (bay0, 0, 0)) = true ∧
    gives (.placementEnd choice0) (place0 (.report 3 0 0)) (fun s => s.placing.isNone &&
      s.tasks.length == fits0.tasks.length) = true := by
  decide
/-- A signed object whose page 0 has not been hashed. -/
theorem wit_page_hash : let q : Option Placing := (fits0.placing.map fun q => { q with pages := [0, 3] })
    let s := { fits0 with objs := [{ obj0 with signed := true, signedEnd := 0x100000 }], placing := q }
    (s.objs[0]?).map (fun o => (o.unhashed 0, o.unhashed 15, o.unhashed 16)) = some (true, true, false) ∧
    s.pageRead 0 3 = true ∧ s.pageRead 0 2 = false ∧ (q.map fun q => q.reads 0 3) = some true := by decide

/-! ## The lives of launches (R264 to R271, R311, R312, R368 to R375, R387) -/

/-- A launch whose look-ahead stage reads next the node at 0x100: a WAIT, or a JOIN. -/
def look0 (n a : Nat) : State :=
  let s := isl nodeT none
  { poke s [(objVa + 0x100, n), (objVa + 0x108, a)] with
    tasks := [], launches := [(0, { launch0 with list := 0x100, look := some 0x100, ahead := [] })] }
theorem wit_lookahead : (look0 (2 * 2 ^ 32 + 6) 5).nodeOk obj0 0x100 0x100 ((look0 (2 * 2 ^ 32 + 6) 5).nodeAt obj0 0x100) = true ∧
    ((look0 (2 * 2 ^ 32 + 6) 5).nodePages launch0 obj0 0x100 ((look0 (2 * 2 ^ 32 + 6) 5).nodeAt obj0 0x100)).all (fun i =>
      !obj0.unhashed i && !obj0.failed.contains i) = true ∧
    (look0 (2 * 2 ^ 32 + 6) 5).powered = true ∧ obj0.registered = true ∧ obj0.unhashed 0 = false ∧
    nodeKind ((look0 (2 * 2 ^ 32 + 6) 5).nodeAt obj0 0x100) = 6 ∧
    gives (.lookaheadNodeRead 0) (look0 (2 * 2 ^ 32 + 6) 5) (fun s => (s.launch 0).map (fun x => (x.look, x.ahead.map (·.off))) ==
      some (some 0x140, [0x100])) = true ∧
    (look0 4 0).nodeOk obj0 0x100 0x100 ((look0 4 0).nodeAt obj0 0x100) = true ∧
    gives (.lookaheadNodeRead 0) (look0 4 0) (fun s => (s.launch 0).map (fun x => (x.look, x.joinHeld)) == some (some 0x140, true)) =
      true := by decide
/-- A launch that has reached END, with nothing left. -/
def ended0 : State := { look0 4 0 with launches := [(0, { launch0 with ended := true })] }
theorem wit_launch_complete : (ended0.launch 0).map Launch.over = some true ∧ ended0.allFinal 0 = true ∧ ended0.tasks = [] ∧
    ended0.placing = none ∧ ended0.spans = [] ∧ (ended0.launch 0).map (ended0.fsrOver 0) = some true ∧
    gives (.launchComplete 0) ended0 (fun s => s.launches.isEmpty) = true := by decide
/-- A launch whose fault service routine waits for a core: `.core` section 0 at 0x300. -/
def fsr0 : State := { ended0 with launches := [(0, { launch0 with fsr := some 0, farg := 77 })], fsrQueue := [0] }
theorem wit_fsr : fsr0.fsrQueue = [0] ∧ lfind Core.takesFsr fsr0.cores = some 0 ∧ fsr0.objs[0]? = some obj0 ∧
    gives .fsrEntry fsr0 (fun s => s.fsrQueue.isEmpty && (s.core 0).fsr == some 0 && (s.core 0).reg 1 == 77 &&
      !(s.core 0).super &&
      (s.core 0).pc == BitVec.ofNat 64 (objVa + 0x300)) = true := by decide
/-- The routine is entered on a core that has a load out, which then writes nothing. -/
theorem wit_fsr_loads : let x : CoreLoad := { d := 5, loc := .shm 8, va := 0x100008, bytes := 4, pc := 0, seq := 1, ext := true, amo := none }
    let s : State := { fsr0 with cores := fsr0.cores.map fun c => { c with loads := [x] } }
    lfind Core.takesFsr s.cores = some 0 ∧ gives .fsrEntry s (fun s => (s.core 0).loads.map (·.d) == [0] && (s.core 0).reg 1 == 77) = true := by
  decide
/-- A launch with a deadline of 10 ns that has passed, and its running task; with a wrap-up list at 0x140, too. -/
def timed0 (w : Option Nat) (stopped : Bool) : State :=
  let s := isl nodeT none
  { s with tasks := one.tasks,
           launches := [(0, { launch0 with deadline := 10, wrapList := w, stopDone := stopped, look := some 0x140 })],
           clock := { s.clock with ns := 20, start := 20 },
           fc := 100 }
theorem wit_stop : (timed0 none false).owesEnd (fun k => k.launch == 0) = false ∧
    (timed0 (some 0x140) false).owesEnd (fun k => k.launch == 0) = false ∧
    ((timed0 none false).launch 0).map (fun x => (x.timed, x.cancelled, x.stopDone, x.halted, x.ahead)) =
      some (true, false, false, false, []) ∧
    ((timed0 none false).launch 0).map (fun x => decide (x.stopAt ≤ ((timed0 none false).clock.start.toNat : Int))) = some true ∧
    gives (.stopInstant 0) (timed0 none false) (fun s => (s.launch 0).map (fun x => (x.stopDone, x.ended)) == some (true, true) &&
      (s.task 0).map (·.wrapDue) == some (some 101)) = true ∧
    gives (.stopInstant 0) (timed0 (some 0x140) false) (fun s => (s.launch 0).map (fun x => (x.stopDone, x.inWrap, x.look)) ==
      some (true, true, some 0x140)) = true := by decide
/-- A node that the stop instant leaves is in a page that has not been hashed. -/
theorem wit_stop_unhashed : let s : State := { timed0 none false with objs := [{ obj0 with signed := true, signedEnd := 0x1000 }] }
    (s.launch 0).map s.leftUnhashed = some true ∧ ((timed0 none false).launch 0).map (timed0 none false).leftUnhashed = some false ∧
    gives (.stopInstant 0) s (fun u => u == s) = true := by decide
/-- A task that ends in the fc of the stop instant or of a reset ends first (R364, R404). -/
theorem wit_ends_first : let s := { timed0 none false with tasks := last0.tasks }
    s.owesEnd (fun k => k.launch == 0) = true ∧ s.fcOwes = true ∧
    gives (.stopInstant 0) s (fun s => (s.launch 0).map (·.stopDone) == some false) = true ∧
    last0.owesEnd (last0.ofAqi 0) = true ∧ last0.owesEnd (last0.ofPasid 7) = true ∧ last0.owesEnd (fun _ => true) = true ∧
    gives .functionLevelReset last0 (fun s => !s.tasks.isEmpty) = true := by decide
/-- A paused task at the stop instant is placed again to wrap up. -/
theorem wit_stop_paused : gives (.stopInstant 0) (with0 (timed0 none false) fun k => { k with status := .paused }) (fun s =>
    (s.task 0).map (·.wrapDue) == some (some 100) && s.requests == [.again 0]) = true := by decide
theorem wit_deadline : ((timed0 none true).launch 0).map (fun x => (x.timed, x.cancelled, x.stopDone)) = some (true, false, true) ∧
    ((timed0 none true).launch 0).map (fun x => (x.deadlineDone, decide (x.deadline ≤ (timed0 none true).clock.start))) =
      some (false, true) ∧
    ((timed0 none true).family 0).all (fun z => z.2.ops.all (·.fault.isNone)) = true ∧
    phaseOf (timed0 none true) = some .running ∧
    gives (.deadlineFc 0) (timed0 none true) (fun s => (s.launch 0).map (·.deadlineDone) == some true &&
      phaseOf s == some .stopping) =
      true := by decide
theorem wit_wrap_token : let s := with0 (timed0 none true) fun k => { k with wrapDue := some 100 }
    phaseOf s = some .running ∧ (s.task 0).map (fun k => (k.launch, k.wrapDue)) = some (0, some 100) ∧ s.fc = 100 ∧
    gives (.wrapTokenArrive 0) s (fun s => (s.task 0).map (fun k => (k.wrapMark, k.wrapDue)) == some (true, none)) = true := by decide

/-! ## Clocks, power, resets and the span transport (R152, R260 to R275, R397 to R412) -/

/-- A state with levers engaged, and one that draws. -/
def lever0 (n : Nat) : State :=
  { one with power := { one.power with lever := n, ack := false }, fc := 9600, clock := { one.clock with run := 16000 * nsUnits } }
theorem wit_clock_power : gives .deadlineClockAdvance one (fun s => (s.fc, s.clock.ns.toNat, s.clock.frac) == (101, 1, 12000) &&
      (s.core 0).cycle == 2) = true ∧ one.timedLaunch = false ∧ (500 : Int).natAbs < 1000000 ∧
    gives (.ieee1588Timestamp 500) one (fun s => (s.clock.slew, s.clock.src) == (9000000, 1)) = true ∧
    gives (.ieee1588Timestamp (-1000000)) { one with clock := { one.clock with ns := 3000000 } } (fun s => s.clock.ns == 2000000) = true ∧
    gives (.pstepStrobe 9) one (fun s => s.power.pin == 9 && !s.power.ack) = true := by decide
/-- A fc does not end while a stop instant of it has still to fall. -/
theorem wit_fc_owes : one.fcOwes = false ∧ (timed0 none false).fcOwes = true ∧
    gives .deadlineClockAdvance (timed0 none false) (fun s => s.fc == 100) = true ∧
    (with0 one fun k => { k with ops := k.ops.map fun p => { p with fault := some (9, 5), faultFor := 64 } }).fcOwes = true ∧
    frozen0.fcOwes = false ∧ stuck0.fcOwes = true ∧ pausing0.fcOwes = true := by decide
theorem wit_levers : gives (.powerCapMet (lever0 3).power.cap) (lever0 3) (fun s => s.power.ack) = true ∧
    gives (.powerLeverEngage ((lever0 3).power.cap + 1)) (lever0 3) (fun s => s.power.lever == 4) = true ∧
    150 + 0 ≤ (lever0 3).power.cap ∧ gives (.powerLeverRelease 0) (lever0 3) (fun s => s.power.lever == 2) = true ∧
    (lever0 13).power.access = [] ∧ 0 + idlePc ≤ (lever0 13).clock.run ∧ (7, 255) ∉ (lever0 13).power.down ∧
    gives (.hbmPcPowerDown 7 255) (lever0 13) (fun s => s.power.down == [(7, 255)]) = true := by decide
theorem wit_notify : ((rq reqSig).queue 0 3).map (·.pasid) = some 7 ∧ (rq reqSig).revoked.contains 7 = false ∧
    gives (.notifyWrite 0 3 (BitVec.ofNat 64 (7 * 2 ^ 44 + 2 ^ 33 + 21))) (rq reqSig) (fun s => (s.queue 0 3).map (·.tail) == some 21) = true ∧
    gives (.notifyWrite 0 3 (BitVec.ofNat 64 (7 * 2 ^ 44 + 40))) (rq reqSig) (fun s => (s.queue 0 3).map (·.tail) == some 8) = true := by
  decide
theorem wit_mgmt : one.cores.length = 16 ∧
    gives (.mgmtRegisterWrite 0x90F3F8 0x77) one (fun s => ((s.core 15).tmpls[15]?).map (fun m => Packet.dbl m.image 7) == some 0x77) = true ∧
    gives (.mgmtRegisterWrite 0x90F478 0x77) one (fun s => ((s.core 15).tmpls[15]?).map (·.desc) == some 0x77) = true := by decide

/-- A write of 4 bytes to the span window of context 0, whose first VA translates: the window is placed at 0x100000. -/
def spanC : State := { one with ctxs := [(0, { ctx0 with record := record0 })] }
def spanW (write : Bool) : SpanAccess := { id := 1, write := write, lctx := 0, offset := 8, bytes := 4, data := 0x55667788 }
theorem wit_span : spanC.memOk ∧ spanC.dev.halt = false ∧ 8 + 4 ≤ ctx0.spanLen ∧
    (match spanC.xlateNow 0 (ctx0.span + 8) 4 1 with | .at_ _ => true | _ => false) = true ∧
    gives (.spanFrameReceive 5 [spanW true]) spanC (fun s => s.readVa 0 (ctx0.span + 8) 4 == some 0x55667788) = true ∧
    gives (.spanFrameReceive 5 [spanW false]) spanC (fun s => s.mem == spanC.mem) = true := ⟨rfl, by decide⟩
/-- A remote read and a remote write of memory node 0, the read's access on its way. -/
def acc0 : Acc := { k := 2, loc := .hbm 0, tail := none, bytes := 4, write := false, val := 0, at_ := 0, done := false, poison := none,
                    due := 0, hdr := 0 }
def out0 (write : Bool) : SpanOut :=
  { id := 6, launch := 0, t := 0, o := 0, bank := none, core := none, lctx := 0, stores := 1, k := 2, write := write, key := 0, bytes := 4,
    at_ := 0, since := 0 }
def spanO (write : Bool) : State := { ns { mm .ld 3 with accs := [acc0] } [] with
    spans := [out0 write], fc := 60000, clock := { State.reset.clock with run := spanTimeout } }
theorem wit_span_out : ((spanO true).spans.find? fun y => y.id == 6) = some (out0 true) ∧
    gives (.flitRetry 6) (spanO true) (fun s => s == spanO true) = true ∧
    gives (.spanAckReceive 6 true 0) (spanO true) (fun s => s.spans.isEmpty) = true ∧
    ((spanO false).spans.find? fun y => y.id == 6) = some (out0 false) ∧
    ((spanO false).mnode 0 0).map (·.accs) = some [acc0] ∧
    gives (.spanAckReceive 6 true 0x99) (spanO false) (fun s => (s.mnode 0 0).map (fun m => m.accs.map fun a => (a.done, a.val)) ==
      some [(true, 0x99)]) = true ∧
    gives (.spanAccessTimeout 6) (spanO false) (fun s => (s.mnode 0 0).map (fun m => (m.accs.map fun a => a.poison.isSome, m.bad.isSome)) ==
      some ([true], true)) = true := by decide
/-- Power fails; and the image is complete once every task is paused. -/
def failed0 : State := { paused with dev := { paused.dev with failAt := some 100 } }
theorem wit_power_fail : one.dev.halt = false ∧ one.dev.failAt = none ∧ (one.ctx 0).isSome = true ∧
    phaseOf one = some .running ∧
    gives .powerFail { one with spans := [out0 true] } (fun s => s.dev.failAt == some 0 && s.spans.isEmpty &&
      phaseOf s == some .pausing) =
      true ∧ failed0.atRest = true ∧
    gives .heartwoodWriteEnd failed0 (fun s => s.dev.halt &&
      (s.flash.slotA.map (fun i => (i.valid, i.seq)) == some (true, 1))) = true := by
  decide
theorem wit_resets : gives .coldReset { one with flash := { one.flash with fused := [3], retired := [5] } } (fun s => s.tasks.isEmpty &&
      s.mem.isEmpty && s.dev.ready && s.knots.contains 3 && s.knots.contains 5) = true ∧ (one.ctxs.map (·.1)).Nodup ∧
    gives .functionLevelReset one (fun s => s.ctxs.all fun z => z.2.dead) = true := by decide
/-- A cold reset clears the device's memory, not the host's. -/
theorem test_cold_memory : gives .coldReset (poke one [(Loc.key (.host 0x5000), 7), (Loc.key (.hbm 0x40), 9)]) (fun s =>
    memGet s.mem (Loc.key (.host 0x5000)) == 7 && memGet s.mem (Loc.key (.hbm 0x40)) == 0) = true ∧
    isFar (Loc.key (.host 0x5000)) = true ∧ isFar (Loc.key (.hbm 0x40)) = false := by decide
/-- Tile (0, 0) with some correctable errors at the present instant. -/
def errs0 (n : Nat) : State := { one with tiles := [(0, { emptyTile with errs := List.replicate n 0 })] }
theorem wit_errors : tileOk 0 0 = true ∧ ((errs0 6).recentErrs ((errs0 6).tile 0).errs).length = 6 ∧
    ((errs0 7).recentErrs ((errs0 7).tile 0).errs).length = 7 ∧
    gives (.eccCorrectable 0 0) (errs0 6) (fun s => (s.tile 0).errs.length == 7 && s.flash == (errs0 6).flash) = true ∧
    gives (.eccCorrectable 0 0) (errs0 7) (fun s => s.flash.retired == [0]) = true ∧
    gives (.correctableErrorAgeOut 0 0) { errs0 3 with clock := { one.clock with ns := 3600000000000 } } (fun s =>
      (s.tile 0).errs.isEmpty) = true ∧
    gives (.eccUncorrectable 0 0 (.granule 0x25)) one (fun s => s.tag (granules 0 0x20 16).head! == 2 &&
      s.flash.retired == [0] &&
      (s.tile 0).uncorrected == 1) = true ∧
    gives (.cfgParityError 0 0 7) one (fun s => op0 s == some (some (Code.cfgParity, 7), false) &&
      s.flash.retired == [0]) = true := by decide

/-! ## Steps (R20, R106, R153, R201, R224, R341, R368, R397, R402) -/

/-- The agenda holds one turn. -/
def turnOf (s : State) (x : Turn) : State := { s with agenda := [x] }
/-- A step ends in a next state that meets a test. -/
def stepGives (s : State) (p : State → Bool) : Bool :=
  match step s with
  | .next s' => p s'
  | _ => false
/-- The word `add s5, s1, 0x11170` (R91) is next on core 0, with its immediate. -/
def coreWords : State := poke ks [((Loc.core 0 0x100).key, 0x0001117000A1F000)]
/-- The word is next on a cell of tile (0, 0), and `vadd v3, v1, v2` on its vector unit; each owns every slot. -/
def cellWords : State := (one.handPlace (.cell (handCell 3 [0x00A1F000, 0x11170] 100)) (.cell 0 0 0))
def vecWords : State := (one.handPlace (.vec (handVec [0x00611000] 100)) (.vec 0 0))

theorem wit_step_event : stepGives (turnOf one (.event (.pstepStrobe 9))) (fun s => s.power.pin == 9) = true := by decide
theorem wit_step_core : (turnOf coreWords (.core 0)).coreRuns 0 = true ∧ (coreWords.core 0).pc.toNat % 4 = 0 ∧
    coreWords.coreWord 0 (coreWords.core 0).pc = some 0x00A1F000 ∧
    coreWords.coreWord 0 ((coreWords.core 0).pc + 4) = some 0x11170 ∧
    decodeCore 0x00A1F000 0x11170 = some (.add (.s 5) (.s 1) (.imm 0x11170) false false) ∧
    stepGives (turnOf coreWords (.core 0)) (fun s => (s.core 0).reg 5 == 0x11173) = true := by decide
theorem wit_step_cell : (({ cellWords with agenda := [] } : State).cellOffers 0 0 0).map (·.instr) =
      [some (.add (.s 5) (.s 1) (.imm 0x11170) false false)] ∧
    stepGives cellWords (fun s => (s.cell 1 0).map (fun c => c.reg 5) == some 0x11170) = true := by decide
theorem wit_step_vec : (({ vecWords with agenda := [] } : State).vecOffers 0 0).map (·.instr) = [some (.vadd 3 1 2 none .rne)] ∧
    stepGives vecWords (fun s => (s.vec 1 0).isSome) = true := by decide
/-- A `buf.wait` image (OPC 3, handle 0, then state 2) at the copy engine, and an `rmw` image at bank 5. -/
def bufP : Packet := pk [3 * 2 ^ 56 + 2 * 2 ^ 52, 0x60]
def bankP : Packet := pk [2 ^ 56 + 5 * 2 ^ 52, 0, 0x100280, 3]
def boxOf (p : Packet) : Inbox := { emptyInbox 3 with packets := [{ image := p, core := none, seqSender := false, no := 0 }] }
def copyS : State := unit (.copy { cp slot0 with inbox := boxOf bufP }) [inp 0 0 [dat 1]]
def bankS : State := { bs with banks := [(5, { emptyBank with queues := [(0, boxOf bankP)] })] }
theorem wit_step_engine : (copyS.inbox (.op 0 0)).map (fun b => b.packets.map fun p => decodeCommand 0 0 p.image) =
      some [some (.bufWait 0 0 bufP)] ∧
    stepGives (turnOf copyS (.engine 0 0)) (fun s => s.bufState 0 == 2) = true := by decide
theorem wit_step_bank : (bankS.inbox (.bank 5 0)).map (fun b => b.packets.map fun p => decodeBank 5 0 p.image) =
      some [some (.bkRmw 5 0 bankP)] ∧
    stepGives (turnOf bankS (.bank 5 0)) (fun s => s.bankCmd 5 0 == some (bankCmdOf 0 bankP 0)) = true := by decide
theorem wit_step_node : ((isl (node 7 2 [4]) none).launch 0).map (fun x => x.ahead.map fun a => decodeNode 0 a.node) =
      some [some (.nodeSignal 0 (node 7 2 [4]))] ∧
    stepGives (turnOf (isl (node 7 2 [4]) none) (.node 0)) (fun s => past s && s.tl 2 == 9) = true := by decide
theorem wit_step_request : (turnOf (rq reqSig) (.request 0 3)).requestHead 0 3 = some reqSig ∧
    decodeRequest 0 3 reqSig = some (.reqSignal 0 3 reqSig) ∧
    stepGives (turnOf (rq reqSig) (.request 0 3)) (fun s => headOf s == some 0 && s.tl 2 == 5) = true := by decide
/-- PSTEP to level 6. -/
def pstepP : Packet := pk [0x1B, 6]
theorem wit_step_admin : decodeAdmin pstepP = some (.pstep pstepP) ∧
    stepGives (turnOf (ad one pstepP) .admin) (fun s => s.power.adm == 6 && s.adminQ.isEmpty) = true := by decide

/-! ## Memory, reset, frames and encodings -/

theorem wit_memory : Memory.wf [] = true ∧ Memory.wf [(3, 5)] = true ∧
    memRead (memWrite [(3, 5)] 2 4 0xAABBCCDD) 2 4 = 0xAABBCCDD ∧ memRead (memWrite [] 2 4 0xAABBCCDD) 4 1 = 0xBB := by
  decide
theorem reset_inv : State.reset.Inv := ⟨rfl, by decide, by decide, by decide⟩
theorem test_reset : (List.range 16).all (fun k => (State.reset.csr k 0x000, State.reset.csr k 0x002, State.reset.csr k 0x004) == (1, 0, 0)) =
    true ∧ State.reset.dev.devstat = 0 ∧ State.reset.tai = 0 := by decide
/-- A state that meets the invariant, and a step of it. -/
theorem wit_step_keeps : (turnOf coreWords (.core 0)).Inv ∧ stepGives (turnOf coreWords (.core 0)) (fun _ => true) = true :=
  ⟨⟨rfl, by decide, by decide, by decide⟩, by decide⟩
/-- The frames: a word on a cell, a store on a core, a word on a vector unit, and a step that writes no memory. -/
theorem wit_frames : cs.cur = .cell 0 0 ∧ legalOnCell 3 (.add (.s 5) (.s 1) (.imm 7) false false) = true ∧
    gives (.add (.s 5) (.s 1) (.imm 7) false false) cs (fun s => (s.cell 0 0).isSome) = true ∧ cs.cell 0 0 = some cell0 ∧
    ks.cur = .core 0 ∧ legalOnCore (.stW (.s 2) (.s 3) 0) = true ∧ gives (.stW (.s 2) (.s 3) 0) ks (fun _ => true) = true ∧
    (vs freshV).cur = .vec 0 0 ∧ (vs freshV).vec 0 0 = some (vec0 freshV) ∧ isVector (.vadd 6 1 2 none .rne) = true ∧
    gives (.vadd 6 1 2 none .rne) (vs freshV) (fun s => (s.vec 0 0).isSome) = true ∧
    mayWrite (.pstepStrobe 9) = false ∧ isScalar (.pstepStrobe 9) = false ∧ mayWriteCores (.pstepStrobe 9) = false ∧
    [1, 2, 3].all (fun g => !inGen g (.pstepStrobe 9)) = true := by decide
theorem wit_encode : wf (.add (.s 5) (.s 1) (.imm 0x11170) false false) = true ∧
    inGen 3 (.add (.s 5) (.s 1) (.imm 0x11170) false false) = true ∧
    takesExt (.add (.s 5) (.s 1) (.imm 0x11170) false false) = true ∧
    encode (.add (.s 5) (.s 1) (.imm 0x11170) false false) = [0x00A1F000, 0x11170] ∧
    wf (.neg (.s 3) (.s 1)) = true ∧ inGen 1 (.neg (.s 3) (.s 1)) = true ∧ takesExt (.neg (.s 3) (.s 1)) = false ∧
    encode (.neg (.s 3) (.s 1)) = [0x48610000] ∧ wf .vend = true ∧ isVector .vend = true ∧
    encode .vend = [0xFC000000] := by decide

end Sys2Proof.Tests
end

namespace Sys2Proof.Machine

/-! SUPPORT and PROOFS. Comparisons, selection, immediate and bit-field forms (R115 to R119). -/

/-! ## Arithmetic: the operations of the model are those of bit vectors -/

section
variable {m : Nat}

theorem flagV_toNat (h : 0 < m) (b : Bool) : (flagV m b).toNat = b.toNat := by
  cases b
  · simp [flagV]
  · simp [flagV, Nat.mod_eq_of_lt (Nat.one_lt_two_pow h.ne')]

theorem aluCmp_eq (cc : Cond) (h : 0 < m) (x y : BitVec m) :
    aluCmp cc m x.toNat y.toNat = .ok (flagV m (condV cc m x y)).toNat := by
  rw [aluCmp, intCond_eq, flagV_toNat h]

theorem aluSel_eq (x y z : BitVec m) :
    aluSel m [x.toNat, y.toNat, z.toNat] = .ok (if z ≠ 0 then x else y).toNat := by
  rw [aluSel, apply_ite BitVec.toNat]
  simp [BitVec.toNat_eq]

theorem fieldOf_toNat (x : BitVec m) (pos len : Nat) : fieldOf x.toNat pos len = (x.extractLsb' pos len).toNat := by
  rw [fieldOf, BitVec.extractLsb'_toNat, Nat.shiftRight_eq_div_pow]

theorem aluBfx_eq (pos len : Nat) (x : BitVec m) :
    aluBfx pos len m x.toNat = .ok ((x.extractLsb' pos len).signExtend m).toNat := by
  rw [aluBfx, fieldOf_toNat, sgn_toNat, wrapI_eq]
  rfl

theorem aluBfxu_eq {pos len : Nat} (h : len ≤ m) (x : BitVec m) :
    aluBfxu pos len m x.toNat = .ok ((x.extractLsb' pos len).zeroExtend m).toNat := by
  rw [aluBfxu, fieldOf_toNat, BitVec.zeroExtend, BitVec.toNat_setWidth_of_le h]

theorem aluLih_eq (imm : Half) (x : BitVec m) :
    aluLih imm m x.toNat = .ok (imm ++ x.extractLsb' 0 16).toNat := by
  have hlo : (x.extractLsb' 0 16).toNat = x.toNat % 2 ^ 16 := by simp
  rw [aluLih, BitVec.toNat_append, hlo, ← Nat.shiftLeft_add_eq_or_of_lt (Nat.mod_lt _ (by decide)), Nat.shiftLeft_eq]

/-- The bits of a number with its field [pos + len - 1 : pos] replaced. -/
theorem testBit_replaceField (d v : Nat) {pos len : Nat} (hv : v < 2 ^ len) (i : Nat) :
    (d - fieldOf d pos len * 2 ^ pos + v * 2 ^ pos).testBit i =
      if pos ≤ i ∧ i < pos + len then v.testBit (i - pos) else d.testBit i := by
  have hparts : d - fieldOf d pos len * 2 ^ pos + v * 2 ^ pos =
      2 ^ pos * (2 ^ len * (d / 2 ^ pos / 2 ^ len) + v) + d % 2 ^ pos := by
    have h1 := Nat.div_add_mod d (2 ^ pos)
    have h2 := Nat.div_add_mod (d / 2 ^ pos) (2 ^ len)
    have h3 : d = 2 ^ pos * (2 ^ len * (d / 2 ^ pos / 2 ^ len)) + fieldOf d pos len * 2 ^ pos + d % 2 ^ pos := by
      rw [fieldOf, Nat.mul_comm (d / 2 ^ pos % 2 ^ len), ← Nat.mul_add, h2, h1]
    rw [Nat.mul_add, Nat.mul_comm v]
    omega
  rw [hparts, Nat.testBit_two_pow_mul_add _ (Nat.mod_lt _ (Nat.two_pow_pos pos)), Nat.testBit_two_pow_mul_add _ hv]
  rcases Nat.lt_or_ge i pos with hlo | hlo
  · simp [hlo, Nat.not_le.2 hlo]
  · rcases Nat.lt_or_ge i (pos + len) with hhi | hhi
    · simp [hlo, hhi, Nat.not_lt.2 hlo, show i - pos < len by omega]
    · have hidx : i - pos - len + len + pos = i := by omega
      simp [Nat.not_lt.2 hlo, Nat.not_lt.2 hhi, show ¬ i - pos < len by omega, Nat.testBit_div_two_pow, hidx]

theorem getLsbD_lowOnes (n i : Nat) : (lowOnes n).getLsbD i = (decide (i < 32) && decide (i < n)) := by
  rw [lowOnes, BitVec.getLsbD_ofNat, Nat.testBit_two_pow_sub_one]

theorem getLsbD_insertV (pos n i : Nat) (x y : Word) : (insertV pos n x y).getLsbD i =
    (decide (i < 32) && if pos ≤ i ∧ i < pos + n then y.getLsbD (i - pos) else x.getLsbD i) := by
  simp only [insertV, BitVec.getLsbD_or, BitVec.getLsbD_and, BitVec.getLsbD_not, BitVec.getLsbD_shiftLeft, getLsbD_lowOnes]
  by_cases h32 : i < 32
  · by_cases hlo : pos ≤ i
    · by_cases hhi : i < pos + n
      · simp [h32, hlo, hhi, Nat.not_lt.2 hlo, show i - pos < 32 by omega, show i - pos < n by omega]
      · simp [h32, hlo, hhi, Nat.not_lt.2 hlo, show ¬ i - pos < n by omega]
    · simp [h32, hlo, Nat.not_le.1 hlo]
  · simp [h32]

theorem aluBfi_eq {pos len : Nat} (h : pos + len ≤ 32) (x y : Word) :
    aluBfi pos len m x.toNat y.toNat = .ok (insertV pos len x y).toNat := by
  rw [aluBfi, Nat.mod_eq_of_lt x.isLt]
  congr 1
  refine Nat.eq_of_testBit_eq fun i => ?_
  rw [testBit_replaceField _ _ (Nat.mod_lt _ (Nat.two_pow_pos len)), BitVec.testBit_toNat, BitVec.testBit_toNat, getLsbD_insertV,
    Nat.testBit_mod_two_pow, BitVec.testBit_toNat]
  by_cases hf : pos ≤ i ∧ i < pos + len
  · simp [hf, show i < 32 by omega, show i - pos < len by omega]
  · by_cases h32 : i < 32
    · simp [hf, h32]
    · simp [hf, h32, BitVec.getLsbD_of_ge x i (by omega)]

end

/-! ## The shared operation of scalar words on a core, by width (R111) -/

section
variable {s : State} {t o k iv : Nat} {f : Firing} {srcs : List Src} {n : SReg} {a b : Src}
  {g : Nat → List Nat → Except (BitVec 7) Nat}

theorem coreResult_dbl (v : Dbl) : coreResult 64 v.toNat = v := by simp [coreResult]
theorem coreResult_word (v : Word) : coreResult 32 v.toNat = v.signExtend 64 := by simp [coreResult]

/-- A register takes every result. -/
theorem cellTakes_reg : CellTakes s t o f (.s n) := ⟨rfl, rfl⟩

/-- A word of 64 bits on a core. -/
theorem scalar_core_dbl {w : Width} {v : Dbl} (hw : w.bits = 64) (h : CoreRuns s k srcs (some n))
    (hg : g 64 (srcs.map fun x => ((s.core k).src x).toNat) = .ok v.toNat) :
    State.scalar (.s n) srcs w iv g s = s.coreWrite k n v (srcWords srcs) := by
  have hmod (x : Src) : ((s.core k).src x).toNat % 2 ^ 64 = ((s.core k).src x).toNat := Nat.mod_eq_of_lt (BitVec.isLt _)
  rw [scalar_core_done (v := v.toNat) h (by simpa only [hw, hmod] using hg), hw, coreResult_dbl]

/-- A word of 32 bits on a core: its result is sign-extended. -/
theorem scalar_core_word {w : Width} {v : Word} (hw : w.bits = 32) (h : CoreRuns s k srcs (some n))
    (hg : g 32 (srcs.map fun x => (((s.core k).src x).setWidth 32).toNat) = .ok v.toNat) :
    State.scalar (.s n) srcs w iv g s = s.coreWrite k n (v.signExtend 64) (srcWords srcs) := by
  rw [scalar_core_done (v := v.toNat) h (by simpa only [hw, BitVec.toNat_setWidth] using hg), hw, coreResult_word]

/-- A word of 64 or 32 bits with two operands on a core (R111). -/
theorem scalar_core_bin {w : Bool} {alu : Nat → Nat → Nat → Except (BitVec 7) Nat}
    {fn : (m : Nat) → BitVec m → BitVec m → BitVec m}
    (h : CoreRuns s k [a, b] (some n)) (hg : ∀ m, 0 < m → ∀ x y : BitVec m, alu m x.toNat y.toNat = .ok (fn m x y).toNat) :
    State.scalar (.s n) [a, b] (.w w) iv (bin alu) s =
      s.coreWrite k n (coreVal w fn ((s.core k).src a) ((s.core k).src b)) (srcWords [a, b]) := by
  cases w with
  | true => exact scalar_core_dbl rfl h (hg 64 (by decide) _ _)
  | false => exact scalar_core_word rfl h (hg 32 (by decide) _ _)

end

/-! ## Decoding (R87, R91) -/

/-- OP of the words whose fields R116 to R119 restrict by more than well-formedness, and none for any other word (R91). -/
def majorOp : Instr → Option (BitVec 6)
  | .cmpCc .. => some 0x00
  | .sel .. => some 0x02
  | .li .. => some 0x0C
  | .lih .. => some 0x0D
  | .cmpiCc .. => some 0x0E
  | .bfi .. => some 0x11
  | _ => none

/-- Whatever instruction a decoder answers has the property. -/
def Answers (P : Instr → Prop) (o : Option Instr) : Prop := ∀ i, o = some i → P i

theorem when?_eq_some {α : Type} {c : Bool} {x : Option α} {y : α} : when? c x = some y ↔ c = true ∧ x = some y := by
  cases c <;> simp [when?]

section
variable {α : Type} {P Q : Instr → Prop} {i : Instr} {c : Bool} {x : Option Instr} {o : Option α}

theorem Answers.mono (h : Answers P x) (hi : ∀ i, P i → Q i) : Answers Q x := fun i he => hi i (h i he)
@[simp] theorem answers_none : Answers P none := by simp [Answers]
@[simp] theorem answers_some : Answers P (some i) ↔ P i := by simp [Answers]
@[simp] theorem answers_when? : Answers P (when? c x) ↔ (c = true → Answers P x) := by cases c <;> simp [when?]
@[simp] theorem answers_map {f : α → Instr} : Answers P (o.map f) ↔ ∀ y, o = some y → P (f y) := by simp [Answers]
@[simp] theorem answers_bind {f : α → Option Instr} : Answers P (o.bind f) ↔ ∀ y, o = some y → Answers P (f y) := by
  cases o <;> simp

end

section
variable {ext : Word} {op : BitVec 6} {df af bf cond : BitVec 5} {fn : BitVec 8} {mode lvl kind sel : BitVec 3} {lo : Half}
  {tag : BitVec 10} {sf : BitVec 4} {arg : BitVec 12} {hi : Bool} {op5 : BitVec 5}
  {d : Dst} {a b : Src} {b? : Option Src} {i : Instr} {gen : Nat} {w e : Word} {p : BitVec 6}

/-- An instruction is an integer compare that FN and MODE of OP 0x00 name (R91, R118). -/
def IsCmp (fn : BitVec 8) (mode : BitVec 3) (i : Instr) : Prop :=
  ∃ cc d a b, i = .cmpCc cc d a b (mode.getLsbD 0) ∧ cond? (fn.extractLsb' 0 4) = some cc ∧ fn.extractLsb' 4 4 = 2 ∧
    mode.getLsbD 1 = false ∧ mode.getLsbD 2 = false

theorem srInt_answers : Answers (fun i => (fn.toNat < 0x1B ∧ majorOp i = none) ∨ IsCmp fn mode i)
    (srInt d a b? bf fn mode) := by
  unfold srInt
  split
  case h_28 =>
    split
    case isTrue hhi =>
      simp only [answers_when?, answers_bind, answers_map]
      exact fun hm hv cc hcc b _ =>
        .inr ⟨cc, d, a, b, rfl, hcc, by simpa using hhi, by simpa using hv, by simpa using hm⟩
    case isFalse => simp
  all_goals
    rename_i hfn
    simp [hfn, majorOp]

theorem srFloat_answers : Answers (majorOp · = none) (srFloat d a b? bf fn mode) := by
  unfold srFloat
  split
  case h_9 => split <;> simp [majorOp]
  all_goals simp [majorOp]

theorem srThree_answers : Answers (fun i => majorOp i = none ∨
    ∃ c, i = .sel d a b c (mode.getLsbD 0) ∧ mode.getLsbD 1 = false ∧ mode.getLsbD 2 = false)
    (srThree ext d a b fn mode) := by
  unfold srThree
  split <;> simp +contextual [majorOp]

theorem sendForm_answers : Answers (majorOp · = none) (sendForm ext df af lvl tag kind) := by
  unfold sendForm
  split <;> simp [majorOp]

theorem tokenForm_answers : Answers (majorOp · = none) (tokenForm ext df af lvl tag kind) := by
  unfold tokenForm
  split <;> simp [majorOp]

theorem sxForm_answers : Answers (majorOp · = none) (sxForm ext df af sf arg) := by
  unfold sxForm
  split <;> simp [majorOp]

theorem sbForm_answers : Answers (majorOp · = none) (sbForm ext sel af cond lo) := by
  unfold sbForm
  split <;> simp [majorOp]

theorem retiredForm_answers : Answers (majorOp · = none) (retiredForm ext gen op df af lo) := by
  unfold retiredForm
  split <;> simp [majorOp]

theorem siForm_answers : Answers (fun i => ∀ p, majorOp i = some p → hi = false ∧ op5.toNat = p.toNat)
    (siForm ext op5 df af hi lo) := by
  unfold siForm
  split <;> rename_i hop <;> simp [majorOp, hop]

/-- A word that `majorOp` names is decoded under its own OP only. -/
theorem scalarForm_answers : Answers (fun i => ∀ p, majorOp i = some p → op = p) (scalarForm ext op df af lo) := by
  have other {x : Option Instr} (h : Answers (majorOp · = none) x) : Answers (fun i => ∀ p, majorOp i = some p → op = p) x :=
    h.mono fun i hi => by simp [hi]
  unfold scalarForm
  split
  case h_1 hop =>
    simp only [answers_bind]
    refine fun d _ a _ => srInt_answers.mono ?_
    rintro i (⟨-, hi⟩ | ⟨cc, d, a, b, rfl, -⟩)
    · simp [hi]
    · rintro _ ⟨⟩
      exact BitVec.eq_of_toNat_eq hop
  case h_2 =>
    simp only [answers_bind]
    exact fun d _ a _ => other srFloat_answers
  case h_3 hop =>
    simp only [answers_bind]
    refine fun d _ a _ b _ => srThree_answers.mono ?_
    rintro i (hi | ⟨c, rfl, -⟩)
    · simp [hi]
    · rintro _ ⟨⟩
      exact BitVec.eq_of_toNat_eq hop
  case h_4 => simp [majorOp]
  case h_5 => exact other sendForm_answers
  case h_6 => exact other tokenForm_answers
  case h_7 => exact other sxForm_answers
  case h_8 =>
    split
    · exact other sbForm_answers
    · refine siForm_answers.mono fun i hi p hp => ?_
      obtain ⟨h5, hlow⟩ := hi p hp
      rw [BitVec.getLsbD, Nat.testBit_eq_decide_div_mod_eq, decide_eq_false_iff_not] at h5
      rw [BitVec.extractLsb'_toNat, Nat.shiftRight_zero] at hlow
      exact BitVec.eq_of_toNat_eq (by omega)

theorem checked_eq_some {x : Option Instr} : checked x = some i ↔ wf i = true ∧ x = some i := by
  cases x with
  | none => simp [checked]
  | some j =>
    simp only [checked, Option.bind_some, Option.ite_none_right_eq_some, Option.some.injEq]
    exact ⟨fun ⟨hw, hj⟩ => ⟨hj ▸ hw, hj⟩, fun ⟨hw, hj⟩ => ⟨hj ▸ hw, hj⟩⟩

/-- Decoding answers what one of the two maps answers, within the limits of its fields. -/
theorem decodeScalar_eq_some : decodeScalar gen w e = some i ↔ wf i = true ∧
    (scalarForm e (opOf w) (dOf w) (aOf w) (loOf w)).or (retiredForm e gen (opOf w) (dOf w) (aOf w) (loOf w)) = some i := by
  rw [decodeScalar, checked_eq_some]
  cases scalarForm e (opOf w) (dOf w) (aOf w) (loOf w) <;> rfl

theorem wf_of_decodeScalar (h : decodeScalar gen w e = some i) : wf i = true := (decodeScalar_eq_some.1 h).1

theorem scalarForm_of_decodeScalar (h : decodeScalar gen w e = some i) (hp : majorOp i = some p) :
    opOf w = p ∧ scalarForm e p (dOf w) (aOf w) (loOf w) = some i := by
  obtain ⟨-, h⟩ := decodeScalar_eq_some.1 h
  rw [Option.or_eq_some_iff] at h
  rcases h with h | ⟨-, h⟩
  · obtain rfl := scalarForm_answers i h p hp
    exact ⟨rfl, h⟩
  · rw [retiredForm_answers i h] at hp
    cases hp

theorem reg?_eq_some {n : SReg} (h : reg? df = some n) : df.toNat = n.val := by
  simp only [reg?, Option.ite_none_right_eq_some, Option.some.injEq] at h
  obtain ⟨h, rfl⟩ := h
  simp [Fin.ofNat, Nat.mod_eq_of_lt h]

theorem cond?_reserved {n : BitVec 4} {cc : Cond} (hn : 10 ≤ n.toNat) (h : cond? n = some cc) : cc = .uno := by
  revert h
  unfold cond?
  split <;> simp_all [eq_comm]

theorem scalarForm_int : scalarForm e 0 df af lo = (dst? df).bind fun d => (src? e af).bind fun a =>
    srInt d a (src? e (lo.extractLsb' 11 5)) (lo.extractLsb' 11 5) (lo.extractLsb' 3 8) (lo.extractLsb' 0 3) := rfl
theorem scalarForm_cmpi : scalarForm e 0x0E df af lo = (cond? (lo.extractLsb' 12 4)).bind fun cc =>
    (dst? df).bind fun d => (src? e af).map fun a => .cmpiCc cc d a (lo.extractLsb' 0 12) := rfl
theorem scalarForm_three : scalarForm e 2 df af lo = (dst? df).bind fun d => (src? e af).bind fun a =>
    (src? e (lo.extractLsb' 11 5)).bind fun b => srThree e d a b (lo.extractLsb' 3 8) (lo.extractLsb' 0 3) := rfl
theorem scalarForm_li {imm : Half} : scalarForm e 0x0C df af imm = when? (af == 0) ((dst? df).map fun d => .li d imm) := rfl
theorem scalarForm_lih {imm : Half} : scalarForm e 0x0D df af imm = when? (af == 0) ((reg? df).map fun d => .lih d imm) := rfl
theorem scalarForm_bfi : scalarForm e 0x11 df af lo =
    when? (lo.extractLsb' 10 6 == 0) ((reg? df).bind fun d => (src? e af).map fun a =>
      .bfi d a (lo.extractLsb' 5 5) (lo.extractLsb' 0 5)) := rfl

theorem decodeScalar_bfi {n : SReg} {pos l : BitVec 5} (h : decodeScalar gen w e = some (.bfi n a pos l)) :
    (dOf w).toNat = n.val := by
  have hf := (scalarForm_of_decodeScalar h rfl).2
  simp only [scalarForm_bfi, when?_eq_some, Option.bind_eq_some_iff, Option.map_eq_some_iff] at hf
  obtain ⟨-, m, hm, b, -, hi⟩ := hf
  cases hi
  exact reg?_eq_some hm

theorem decodeScalar_li {imm : Half} (h : decodeScalar gen w e = some (.li d imm)) : aOf w = 0 ∧ loOf w = imm := by
  have hf := (scalarForm_of_decodeScalar h rfl).2
  simp only [scalarForm_li, when?_eq_some, Option.map_eq_some_iff] at hf
  obtain ⟨ha, m, -, hi⟩ := hf
  cases hi
  exact ⟨by simpa using ha, rfl⟩

theorem decodeScalar_lih {n : SReg} {imm : Half} (h : decodeScalar gen w e = some (.lih n imm)) :
    aOf w = 0 ∧ loOf w = imm ∧ (dOf w).toNat = n.val := by
  have hf := (scalarForm_of_decodeScalar h rfl).2
  simp only [scalarForm_lih, when?_eq_some, Option.map_eq_some_iff] at hf
  obtain ⟨ha, m, hm, hi⟩ := hf
  cases hi
  exact ⟨by simpa using ha, rfl, reg?_eq_some hm⟩

/-- MODE is bits [2:0] of a word (R87). -/
theorem getLsbD_mode {j : Nat} (hj : j < 3) : ((loOf w).extractLsb' 0 3).getLsbD j = w.getLsbD j := by
  simp [loOf, hj]

theorem mode_2_1_eq_zero (h1 : ((loOf w).extractLsb' 0 3).getLsbD 1 = false)
    (h2 : ((loOf w).extractLsb' 0 3).getLsbD 2 = false) : w.extractLsb' 1 2 = 0 := by
  rw [getLsbD_mode (by decide)] at h1 h2
  refine BitVec.eq_of_getLsbD_eq fun i hi => ?_
  interval_cases i
  · simpa using h1
  · simpa using h2

theorem decodeScalar_cmpCc {cc : Cond} {wide : Bool} (h : decodeScalar gen w e = some (.cmpCc cc d a b wide)) :
    w.extractLsb' 1 2 = 0 ∧ wide = w.getLsbD 0 := by
  have hf := (scalarForm_of_decodeScalar h rfl).2
  simp only [scalarForm_int, Option.bind_eq_some_iff] at hf
  obtain ⟨d', -, a', -, hi⟩ := hf
  rcases srInt_answers _ hi with ⟨-, hi⟩ | ⟨_, _, _, _, hi, -, -, h1, h2⟩
  · simp [majorOp] at hi
  · cases hi
    exact ⟨mode_2_1_eq_zero h1 h2, getLsbD_mode (by decide)⟩

theorem decodeScalar_sel {c : Src} {wide : Bool} (h : decodeScalar gen w e = some (.sel d a b c wide)) :
    w.extractLsb' 1 2 = 0 ∧ wide = w.getLsbD 0 := by
  have hf := (scalarForm_of_decodeScalar h rfl).2
  simp only [scalarForm_three, Option.bind_eq_some_iff] at hf
  obtain ⟨_, -, _, -, _, -, hi⟩ := hf
  rcases srThree_answers _ hi with hi | ⟨_, hi, h1, h2⟩
  · simp [majorOp] at hi
  · cases hi
    exact ⟨mode_2_1_eq_zero h1 h2, getLsbD_mode (by decide)⟩

theorem decodeScalar_eq_none (h : Answers (wf · = false) (scalarForm e (opOf w) (dOf w) (aOf w) (loOf w)))
    (hr : retiredForm e gen (opOf w) (dOf w) (aOf w) (loOf w) = none) : decodeScalar gen w e = none := by
  refine Option.eq_none_iff_forall_ne_some.2 fun i hi => ?_
  obtain ⟨hw, hi⟩ := decodeScalar_eq_some.1 hi
  rw [hr, Option.or_none] at hi
  simp [h i hi] at hw

theorem wf_cmpCc_uno {wide : Bool} : wf (.cmpCc .uno d a b wide) = false := rfl
theorem wf_cmpiCc_uno {imm : BitVec 12} : wf (.cmpiCc .uno d a imm) = false := rfl

theorem low_nibble_reserved (hfn : 0x2A ≤ fn.toNat) (hhi : fn.extractLsb' 4 4 = 2) : 10 ≤ (fn.extractLsb' 0 4).toNat := by
  have hhi' := congrArg BitVec.toNat hhi
  rw [BitVec.extractLsb'_toNat, Nat.shiftRight_eq_div_pow] at hhi'
  rw [BitVec.extractLsb'_toNat, Nat.shiftRight_zero]
  change _ = 2 at hhi'
  omega

theorem decodeScalar_cmp_reserved (hop : opOf w = 0) (hfn : 0x2A ≤ (w.extractLsb' 3 8).toNat) : decodeScalar gen w e = none := by
  have hfn' : (loOf w).extractLsb' 3 8 = w.extractLsb' 3 8 := by simp [loOf]
  refine decodeScalar_eq_none ?_ (by rw [hop]; rfl)
  simp only [hop, scalarForm_int, answers_bind, hfn']
  refine fun d _ a _ => srInt_answers.mono ?_
  rintro i (⟨hlt, -⟩ | ⟨cc, d, a, b, rfl, hcc, hhi, -⟩)
  · omega
  · rw [cond?_reserved (low_nibble_reserved hfn hhi) hcc, wf_cmpCc_uno]

theorem decodeScalar_cmpi_reserved (hop : opOf w = 0x0E) (hcc : 10 ≤ (w.extractLsb' 12 4).toNat) :
    decodeScalar gen w e = none := by
  have hcc' : (loOf w).extractLsb' 12 4 = w.extractLsb' 12 4 := by simp [loOf]
  refine decodeScalar_eq_none ?_ (by rw [hop]; rfl)
  simp only [hop, scalarForm_cmpi, answers_bind, answers_map, hcc']
  intro cc hc d _ a _
  rw [cond?_reserved hcc hc, wf_cmpiCc_uno]

end

/-! ## What the words do (R115 to R119) -/

section
variable {d : Dst} {n : SReg} {a b c : Src} {pos l : BitVec 5} {imm : Half} {cc : Cond} {w : Bool} {s : State}

theorem exec_bfx : exec (.bfx d a pos l) s = .next (State.scalar d [a] .own 1 (una (aluBfx pos.toNat (l.toNat + 1))) s) := rfl
theorem exec_bfxu : exec (.bfxu d a pos l) s = .next (State.scalar d [a] .own 1 (una (aluBfxu pos.toNat (l.toNat + 1))) s) := rfl
theorem exec_bfi : exec (.bfi n a pos l) s =
    .next (State.scalar (.s n) [.s n, a] (.w false) 1 (bin (aluBfi pos.toNat (l.toNat + 1))) s) := rfl
theorem exec_li : exec (.li d imm) s = .next (State.scalar d [] .own 1 (fun n _ => .ok (immN n imm)) s) := rfl
theorem exec_lih : exec (.lih n imm) s = .next (State.scalar (.s n) [.s n] (.w false) 1 (una (aluLih imm)) s) := rfl
theorem exec_cmpCc : exec (.cmpCc cc d a b w) s = .next (State.scalar d [a, b] (.w w) 1 (bin (aluCmp cc)) s) := rfl
theorem exec_cmpiCc {imm : BitVec 12} : exec (.cmpiCc cc d a imm) s =
    .next (State.scalar d [a] .own 1 (una fun n a => aluCmp cc n a (imm12N n imm)) s) := rfl
theorem exec_sel : exec (.sel d a b c w) s = .next (State.scalar d [a, b, c] (.w w) 1 aluSel s) := rfl

/-- A row of R115 is one operation of the unit's own width, whose value is the row's at every width that holds a shift amount. -/
theorem immRows_scalar {amt : BitVec 6} {r : ImmRow} (hr : r ∈ immRows imm amt) :
    ∃ alu : Nat → Nat → Except (BitVec 7) Nat,
      (∀ d a s, exec (r.word d a) s = .next (State.scalar d [a] .own 1 (una alu) s)) ∧
      ∀ m, 6 ≤ m → ∀ x : BitVec m, alu m x.toNat = .ok (r.fn m x).toNat := by
  have hamt {m : Nat} (hm : 6 ≤ m) : (amt.setWidth m).toNat = amt.toNat := BitVec.toNat_setWidth_of_le hm
  simp only [immRows, List.mem_cons, List.not_mem_nil, or_false] at hr
  rcases hr with rfl | rfl | rfl | rfl | rfl | rfl | rfl
  · exact ⟨_, fun _ _ _ => rfl, fun m _ x => by rw [immN_eq, aluAdd_eq]⟩
  · exact ⟨_, fun _ _ _ => rfl, fun m _ x => by rw [immN_eq, aluAnd_eq]⟩
  · exact ⟨_, fun _ _ _ => rfl, fun m _ x => by rw [immN_eq, aluOr_eq]⟩
  · exact ⟨_, fun _ _ _ => rfl, fun m _ x => by rw [immN_eq, aluXor_eq]⟩
  · exact ⟨_, fun _ _ _ => rfl, fun m hm x => by rw [← hamt hm, aluShl_eq]⟩
  · exact ⟨_, fun _ _ _ => rfl, fun m hm x => by rw [← hamt hm, aluShr_eq]⟩
  · exact ⟨_, fun _ _ _ => rfl, fun m hm x => by rw [← hamt hm, aluSra_eq]⟩

end

section
variable {s : State} {t o k : Nat} {f : Firing} {d : Dst} {n : SReg} {a b e : Src} {x y z : Word} {pos l : BitVec 5}
  {imm : Half} {amt : BitVec 6} {cc : Cond} {w : Bool} {c : Cell} {r : ImmRow}

/-! ### On a cell -/

theorem exec_immRow_cell (hr : r ∈ immRows imm amt) (h : CellReads s t o c f [a] [x]) (hd : CellTakes s t o f d) :
    exec (r.word d a) s = .next (s.cellDone t o f d [a] (r.fn 32 x) 1) := by
  obtain ⟨alu, hexec, halu⟩ := immRows_scalar hr
  rw [hexec, scalar_cell_done h hd (halu 32 (by decide) x)]

theorem exec_li_cell (h : CellReads s t o c f [] []) (hd : CellTakes s t o f d) :
    exec (.li d imm) s = .next (s.cellDone t o f d [] (imm.signExtend 32) 1) := by
  rw [exec_li, scalar_cell_done h hd (congrArg _ (immN_eq imm))]

theorem exec_lih_cell (h : CellReads s t o c f [.s n] [x]) :
    exec (.lih n imm) s = .next (s.cellDone t o f (.s n) [.s n] (imm ++ x.extractLsb' 0 16) 1) := by
  rw [exec_lih, scalar_cell_done h cellTakes_reg (aluLih_eq imm x)]

theorem exec_bfx_cell (h : CellReads s t o c f [a] [x]) (hd : CellTakes s t o f d) :
    exec (.bfx d a pos l) s =
      .next (s.cellDone t o f d [a] ((x.extractLsb' pos.toNat (l.toNat + 1)).signExtend 32) 1) := by
  rw [exec_bfx, scalar_cell_done h hd (aluBfx_eq _ _ x)]

theorem exec_bfxu_cell (h : CellReads s t o c f [a] [x]) (hd : CellTakes s t o f d) :
    exec (.bfxu d a pos l) s =
      .next (s.cellDone t o f d [a] ((x.extractLsb' pos.toNat (l.toNat + 1)).zeroExtend 32) 1) := by
  rw [exec_bfxu, scalar_cell_done h hd (aluBfxu_eq l.isLt x)]

theorem exec_bfi_cell (hf : pos.toNat + l.toNat + 1 ≤ 32) (h : CellReads s t o c f [.s n, a] [x, y]) :
    exec (.bfi n a pos l) s = .next (s.cellDone t o f (.s n) [.s n, a] (insertV pos.toNat (l.toNat + 1) x y) 1) := by
  rw [exec_bfi, scalar_cell_done h cellTakes_reg (aluBfi_eq (m := 32) (len := l.toNat + 1) hf x y)]

theorem exec_cmpCc_cell (h : CellReads s t o c f [a, b] [x, y]) (hd : CellTakes s t o f d) :
    exec (.cmpCc cc d a b w) s = .next (s.cellDone t o f d [a, b] (flagV 32 (condV cc 32 x y)) 1) := by
  rw [exec_cmpCc, scalar_cell_done h hd (aluCmp_eq cc (by decide) x y)]

theorem aluCmp_imm12N {m : Nat} (cc : Cond) (hm : 0 < m) (x : BitVec m) (imm : BitVec 12) :
    aluCmp cc m x.toNat (imm12N m imm) = .ok (flagV m (condV cc m x (imm.signExtend m))).toNat := by
  rw [imm12N_eq, aluCmp_eq cc hm]

theorem exec_cmpiCc_cell {imm : BitVec 12} (h : CellReads s t o c f [a] [x]) (hd : CellTakes s t o f d) :
    exec (.cmpiCc cc d a imm) s = .next (s.cellDone t o f d [a] (flagV 32 (condV cc 32 x (imm.signExtend 32))) 1) := by
  rw [exec_cmpiCc, scalar_cell_done h hd (aluCmp_imm12N cc (by decide) x imm)]

theorem exec_sel_cell (h : CellReads s t o c f [a, b, e] [x, y, z]) (hd : CellTakes s t o f d) :
    exec (.sel d a b e w) s = .next (s.cellDone t o f d [a, b, e] (if z ≠ 0 then x else y) 1) := by
  rw [exec_sel, scalar_cell_done h hd (aluSel_eq x y z)]

theorem exec_sel_cell_poison {p : Token} (h : CellPoison s t o c f d [a, b, e] p) :
    exec (.sel d a b e w) s = .next (s.poisonOut t o (popsOf [a, b, e]) p) := by
  rw [exec_sel, scalar_cell_poison h]

/-! ### On a control core -/

theorem exec_immRow_core (hr : r ∈ immRows imm amt) (h : CoreRuns s k [a] (some n)) :
    exec (r.word (.s n) a) s = .next (s.coreWrite k n (r.fn 64 ((s.core k).src a)) (srcWords [a])) := by
  obtain ⟨alu, hexec, halu⟩ := immRows_scalar hr
  rw [hexec, scalar_core_dbl rfl h (halu 64 (by decide) _)]

theorem exec_li_core (h : CoreRuns s k [] (some n)) :
    exec (.li (.s n) imm) s = .next (s.coreWrite k n (imm.signExtend 64) 1) := by
  rw [exec_li, scalar_core_dbl rfl h (congrArg _ (immN_eq imm))]
  rfl

theorem exec_lih_core (h : CoreRuns s k [.s n] (some n)) :
    exec (.lih n imm) s =
      .next (s.coreWrite k n ((imm ++ ((s.core k).reg n).extractLsb' 0 16 : Word).signExtend 64) 1) := by
  have hlo (r : Dbl) : (r.setWidth 32).extractLsb' 0 16 = r.extractLsb' 0 16 := by
    ext i hi
    simp [show i < 32 by omega]
  rw [exec_lih, scalar_core_word rfl h (aluLih_eq imm _), hlo]
  rfl

theorem exec_bfx_core (h : CoreRuns s k [a] (some n)) :
    exec (.bfx (.s n) a pos l) s =
      .next (s.coreWrite k n ((((s.core k).src a).extractLsb' pos.toNat (l.toNat + 1)).signExtend 64) (srcWords [a])) := by
  rw [exec_bfx, scalar_core_dbl rfl h (aluBfx_eq _ _ _)]

theorem exec_bfxu_core (h : CoreRuns s k [a] (some n)) :
    exec (.bfxu (.s n) a pos l) s =
      .next (s.coreWrite k n ((((s.core k).src a).extractLsb' pos.toNat (l.toNat + 1)).zeroExtend 64) (srcWords [a])) := by
  rw [exec_bfxu, scalar_core_dbl rfl h (aluBfxu_eq (l.isLt.trans (by decide)) _)]

theorem exec_bfi_core (hf : pos.toNat + l.toNat + 1 ≤ 32) (h : CoreRuns s k [.s n, a] (some n)) :
    exec (.bfi n a pos l) s = .next (s.coreWrite k n ((insertV pos.toNat (l.toNat + 1) (((s.core k).reg n).setWidth 32)
      (((s.core k).src a).setWidth 32)).signExtend 64) (srcWords [.s n, a])) := by
  rw [exec_bfi, scalar_core_word rfl h (aluBfi_eq (m := 32) (len := l.toNat + 1) hf _ _)]
  rfl

theorem exec_cmpCc_core (h : CoreRuns s k [a, b] (some n)) :
    exec (.cmpCc cc (.s n) a b w) s = .next (s.coreWrite k n
      (coreVal w (fun m x y => flagV m (condV cc m x y)) ((s.core k).src a) ((s.core k).src b)) (srcWords [a, b])) := by
  rw [exec_cmpCc, scalar_core_bin h fun m hm x y => aluCmp_eq cc hm x y]

theorem exec_cmpiCc_core {imm : BitVec 12} (h : CoreRuns s k [a] (some n)) :
    exec (.cmpiCc cc (.s n) a imm) s =
      .next (s.coreWrite k n (flagV 64 (condV cc 64 ((s.core k).src a) (imm.signExtend 64))) (srcWords [a])) := by
  rw [exec_cmpiCc, scalar_core_dbl rfl h (aluCmp_imm12N cc (by decide) _ imm)]

theorem exec_sel_core (h : CoreRuns s k [a, b, e] (some n)) :
    exec (.sel (.s n) a b e w) s = .next (s.coreWrite k n
      (coreVal w (fun _ x y => if (if w then (s.core k).src e != 0 else ((s.core k).src e).setWidth 32 != (0 : Word)) then x else y)
        ((s.core k).src a) ((s.core k).src b)) (srcWords [a, b, e])) := by
  rw [exec_sel]
  cases w with
  | true =>
    rw [scalar_core_dbl rfl h (aluSel_eq _ _ _)]
    simp [coreVal]
  | false =>
    rw [scalar_core_word rfl h (aluSel_eq _ _ _)]
    simp [coreVal]

end

/-! ## The limits of fields (R91, R115, R117) -/

section
variable {gen : Nat} {w e : Word} {d : Dst} {n : SReg} {a : Src} {pos l : BitVec 5} {amt : BitVec 6} {i : Instr}

theorem wf_bfx : wf (.bfx d a pos l) = decide (pos.toNat + l.toNat + 1 ≤ 32) := Bool.and_true _
theorem wf_bfxu : wf (.bfxu d a pos l) = decide (pos.toNat + l.toNat + 1 ≤ 32) := Bool.and_true _
theorem wf_bfi : wf (.bfi n a pos l) = decide (pos.toNat + l.toNat + 1 ≤ 32) := Bool.and_true _
theorem legalOnCell_shli : legalOnCell gen (.shli d a amt) = decide (amt.toNat < 32) := rfl
theorem legalOnCell_shri : legalOnCell gen (.shri d a amt) = decide (amt.toNat < 32) := rfl
theorem legalOnCell_srai : legalOnCell gen (.srai d a amt) = decide (amt.toNat < 32) := rfl

theorem legalOnCell_of_decodeCell (h : decodeCell gen w e = some i) : legalOnCell gen i = true := by
  simp only [decodeCell, Option.bind_eq_some_iff, Option.ite_none_right_eq_some, Option.some.injEq] at h
  obtain ⟨j, -, hl, rfl⟩ := h
  exact hl

end

/-! ## The obligations -/

/-- Settles O13: the values by the laws of `bfx`, `bfxu` and `bfi`, the bound of the field by well-formedness. -/
theorem bitFieldForms : Obligations.BitFieldForms := by
  refine ⟨fun pos l hf => ⟨fun s t o c f d a x h hd => ⟨exec_bfx_cell h hd, exec_bfxu_cell h hd⟩,
    fun s t o c f n a x y h => exec_bfi_cell hf h,
    fun s k n a h => ⟨exec_bfx_core h, exec_bfxu_core h⟩,
    fun s k n a h => exec_bfi_core hf h⟩, fun gen w e a pos l => ⟨?_, ?_⟩⟩
  · rintro d (h | h)
    · exact of_decide_eq_true (wf_bfx ▸ wf_of_decodeScalar h)
    · exact of_decide_eq_true (wf_bfxu ▸ wf_of_decodeScalar h)
  · exact fun n h => ⟨of_decide_eq_true (wf_bfi ▸ wf_of_decodeScalar h), decodeScalar_bfi h⟩

/-- Settles O15: one argument for all rows of R115; the fields of `li` and `lih` by inverting their decoding. -/
theorem immediateForms : Obligations.ImmediateForms := by
  refine ⟨fun imm amt r hr => ⟨?_, ?_⟩, ?_, ?_, ?_, ?_, ?_, fun gen w e imm => ⟨?_, ?_⟩⟩
  · exact fun s t o c f d a x h hd _ => exec_immRow_cell hr h hd
  · exact fun s k n a h => exec_immRow_core hr h
  · intro gen w e d a amt h
    rcases h with h | h | h
    · exact of_decide_eq_true (legalOnCell_shli ▸ legalOnCell_of_decodeCell h)
    · exact of_decide_eq_true (legalOnCell_shri ▸ legalOnCell_of_decodeCell h)
    · exact of_decide_eq_true (legalOnCell_srai ▸ legalOnCell_of_decodeCell h)
  · exact fun s t o c f d imm h hd => exec_li_cell h hd
  · exact fun s t o c f n imm x h => exec_lih_cell h
  · exact fun s k n imm h => exec_li_core h
  · exact fun s k n imm h => exec_lih_core h
  · exact fun d h => decodeScalar_li h
  · exact fun n h => decodeScalar_lih h

/-- Settles O16: the values by the laws of the three words; a reserved condition could only decode to `uno`, which no integer
compare takes. -/
theorem compareAndSelect : Obligations.CompareAndSelect := by
  refine ⟨?_, ?_, fun s t o c f d a b e w => ⟨?_, ?_⟩, ?_, ?_, ?_, fun gen w e => ⟨?_, ?_, ?_, ?_⟩⟩
  · exact fun s t o c f d a b cc w x y h hd => exec_cmpCc_cell h hd
  · exact fun s t o c f d a cc imm x h hd => exec_cmpiCc_cell h hd
  · exact fun x y z h hd => exec_sel_cell h hd
  · exact fun k h => exec_sel_cell_poison h
  · exact fun s k n a b cc w h => exec_cmpCc_core h
  · exact fun s k n a cc imm h => exec_cmpiCc_core h
  · exact fun s k n a b e w h => exec_sel_core h
  · exact decodeScalar_cmp_reserved
  · exact decodeScalar_cmpi_reserved
  · exact fun cc d a b wide h => decodeScalar_cmpCc h
  · exact fun d a b c wide h => decodeScalar_sel h

end Sys2Proof.Machine

namespace Sys2Proof.Machine

/-! SUPPORT and PROOFS. The integer words and the FP32 words (R111 to R114, R120 to R124). -/

/-! ## Rows of integer words -/

section
variable {m : Nat} {r : IntRow} {u : UnaryRow}

/-- Every row of R113 with two operands is the shared operation with an arithmetic function, whose value is the row's at every
width; a dividing row needs a divisor. -/
theorem intRows_scalar (hr : r ∈ intRows) : ∃ alu : Nat → Nat → Nat → Except (BitVec 7) Nat,
    (∀ d a b w s, exec (r.word d a b w) s = .next (State.scalar d [a, b] (.w w) r.iv (bin alu) s)) ∧
    ∀ m (x y : BitVec m), (r.divides = true → y ≠ 0) → alu m x.toNat y.toNat = .ok (r.fn m x y).toNat := by
  simp only [intRows, List.mem_cons, List.not_mem_nil, or_false] at hr
  rcases hr with rfl | rfl | rfl | rfl | rfl | rfl | rfl | rfl | rfl | rfl | rfl | rfl | rfl | rfl | rfl | rfl | rfl | rfl | rfl |
    rfl | rfl | rfl | rfl
  · exact ⟨_, fun _ _ _ _ _ => rfl, fun m x y _ => aluAdd_eq x y⟩
  · exact ⟨_, fun _ _ _ _ _ => rfl, fun m x y _ => aluSub_eq x y⟩
  · exact ⟨_, fun _ _ _ _ _ => rfl, fun m x y _ => aluAdds_eq x y⟩
  · exact ⟨_, fun _ _ _ _ _ => rfl, fun m x y _ => aluSubs_eq x y⟩
  · exact ⟨_, fun _ _ _ _ _ => rfl, fun m x y _ => aluMul_eq x y⟩
  · exact ⟨_, fun _ _ _ _ _ => rfl, fun m x y _ => aluMulh_eq x y⟩
  · exact ⟨_, fun _ _ _ _ _ => rfl, fun m x y _ => aluMulhu_eq x y⟩
  · exact ⟨_, fun _ _ _ _ _ => rfl, fun m x y h => aluDiv_eq x y (h rfl)⟩
  · exact ⟨_, fun _ _ _ _ _ => rfl, fun m x y h => aluDivu_eq x y (h rfl)⟩
  · exact ⟨_, fun _ _ _ _ _ => rfl, fun m x y h => aluRem_eq x y (h rfl)⟩
  · exact ⟨_, fun _ _ _ _ _ => rfl, fun m x y h => aluRemu_eq x y (h rfl)⟩
  · exact ⟨_, fun _ _ _ _ _ => rfl, fun m x y _ => aluAnd_eq x y⟩
  · exact ⟨_, fun _ _ _ _ _ => rfl, fun m x y _ => aluOr_eq x y⟩
  · exact ⟨_, fun _ _ _ _ _ => rfl, fun m x y _ => aluXor_eq x y⟩
  · exact ⟨_, fun _ _ _ _ _ => rfl, fun m x y _ => aluAndn_eq x y⟩
  · exact ⟨_, fun _ _ _ _ _ => rfl, fun m x y _ => aluShl_eq x y⟩
  · exact ⟨_, fun _ _ _ _ _ => rfl, fun m x y _ => aluShr_eq x y⟩
  · exact ⟨_, fun _ _ _ _ _ => rfl, fun m x y _ => aluSra_eq x y⟩
  · exact ⟨_, fun _ _ _ _ _ => rfl, fun m x y _ => aluRotl_eq x y⟩
  · exact ⟨_, fun _ _ _ _ _ => rfl, fun m x y _ => aluMin_eq x y⟩
  · exact ⟨_, fun _ _ _ _ _ => rfl, fun m x y _ => aluMax_eq x y⟩
  · exact ⟨_, fun _ _ _ _ _ => rfl, fun m x y _ => aluMinu_eq x y⟩
  · exact ⟨_, fun _ _ _ _ _ => rfl, fun m x y _ => aluMaxu_eq x y⟩

@[inherit_doc intRows_scalar]
theorem unaryRows_scalar (hr : u ∈ unaryRows) : ∃ alu : Nat → Nat → Except (BitVec 7) Nat,
    (∀ d a w s, exec (u.word d a w) s = .next (State.scalar d [a] (.w w) 1 (una alu) s)) ∧
    ∀ m (x : BitVec m), alu m x.toNat = .ok (u.fn m x).toNat := by
  simp only [unaryRows, List.mem_cons, List.not_mem_nil, or_false] at hr
  rcases hr with rfl | rfl | rfl | rfl
  · exact ⟨_, fun _ _ _ _ => rfl, fun m x => aluAbs_eq x⟩
  · exact ⟨_, fun _ _ _ _ => rfl, fun m x => aluClz_eq x⟩
  · exact ⟨_, fun _ _ _ _ => rfl, fun m x => aluCtz_eq x⟩
  · exact ⟨_, fun _ _ _ _ => rfl, fun m x => aluPopc_eq x⟩

end

/-! ## Signed overflow and division by zero (R114) -/

section
variable {m : Nat} {r : OvtRow}

/-- The exact signed result fits m bits. -/
theorem overflows_eq_false {z : Int} (h : -(2 ^ (m - 1)) ≤ z ∧ z ≤ 2 ^ (m - 1) - 1) : overflows m z = false := by
  simpa [overflows, Int.le_sub_one_iff] using h

/-- The exact signed result does not fit m bits. -/
theorem overflows_eq_true {z : Int} (h : z < -(2 ^ (m - 1)) ∨ 2 ^ (m - 1) - 1 < z) : overflows m z = true := by
  simpa [overflows] using h

theorem withOvt_fits {z : Int} (h : -(2 ^ (m - 1)) ≤ z ∧ z ≤ 2 ^ (m - 1) - 1) : withOvt m true z = .ok (BitVec.ofInt m z).toNat :=
  withOvt_eq true z fun _ => overflows_eq_false h

theorem withOvt_overflows {z : Int} (h : z < -(2 ^ (m - 1)) ∨ 2 ^ (m - 1) - 1 < z) : withOvt m true z = .error Code.iovf := by
  simp [withOvt, overflows_eq_true h]

theorem toNat_ne_zero {y : BitVec m} (h : y ≠ 0) : y.toNat ≠ 0 := fun h0 => h (BitVec.eq_of_toNat_eq (by simpa using h0))

/-- Every row that takes OVT narrows its exact result under OVT, once its divisor is not zero. -/
theorem ovtRows_scalar (hr : r ∈ ovtRows) : ∃ alu : Nat → Nat → Nat → Except (BitVec 7) Nat,
    (∀ d a b w s, exec (r.word d a b w) s = .next (State.scalar d [a, b] (.w w) r.iv (bin alu) s)) ∧
    ∀ m (x y : BitVec m), (r.divides = true → y ≠ 0) → alu m x.toNat y.toNat = withOvt m true (r.exact x.toInt y.toInt) := by
  simp only [ovtRows, List.mem_cons, List.not_mem_nil, or_false] at hr
  rcases hr with rfl | rfl | rfl | rfl
  · exact ⟨_, fun _ _ _ _ _ => rfl, fun m x y _ => by rw [aluAdd, sgn_toNat, sgn_toNat]⟩
  · exact ⟨_, fun _ _ _ _ _ => rfl, fun m x y _ => by rw [aluSub, sgn_toNat, sgn_toNat]⟩
  · exact ⟨_, fun _ _ _ _ _ => rfl, fun m x y _ => by rw [aluMul, sgn_toNat, sgn_toNat]⟩
  · exact ⟨_, fun _ _ _ _ _ => rfl, fun m x y h => by rw [aluDiv, if_neg (toNat_ne_zero (h rfl)), sgn_toNat, sgn_toNat]⟩

/-- Every dividing word raises DIV0 on a zero divisor. -/
theorem divRows_scalar {word : Dst → Src → Src → Bool → Instr} (hr : word ∈ divRows) :
    ∃ alu : Nat → Nat → Nat → Except (BitVec 7) Nat,
      (∀ d a b w s, exec (word d a b w) s = .next (State.scalar d [a, b] (.w w) 12 (bin alu) s)) ∧
      ∀ m x, alu m x 0 = .error Code.div0 := by
  simp only [divRows, List.mem_cons, List.not_mem_nil, or_false] at hr
  rcases hr with rfl | rfl | rfl | rfl | rfl
  · exact ⟨_, fun _ _ _ _ _ => rfl, fun _ _ => rfl⟩
  · exact ⟨_, fun _ _ _ _ _ => rfl, fun _ _ => rfl⟩
  · exact ⟨_, fun _ _ _ _ _ => rfl, fun _ _ => rfl⟩
  · exact ⟨_, fun _ _ _ _ _ => rfl, fun _ _ => rfl⟩
  · exact ⟨_, fun _ _ _ _ _ => rfl, fun _ _ => rfl⟩

theorem exec_abs {d : Dst} {a : Src} {w v : Bool} {s : State} :
    exec (.abs d a w v) s = .next (State.scalar d [a] (.w w) 1 (una (aluAbs v)) s) := rfl

theorem aluAbs_ovt (x : BitVec m) : aluAbs true m x.toNat = withOvt m true x.toInt.natAbs := by rw [aluAbs, sgn_toNat]

/-- The absolute value of a signed number of m bits fits unless it is the smallest. -/
theorem natAbs_fits {x : BitVec m} (hx : x.toInt ≠ -(2 ^ (m - 1))) :
    -(2 ^ (m - 1)) ≤ (x.toInt.natAbs : Int) ∧ (x.toInt.natAbs : Int) ≤ 2 ^ (m - 1) - 1 := by
  have h1 := BitVec.le_toInt x
  have h2 := BitVec.toInt_lt (x := x)
  have hp : (0 : Int) < 2 ^ (m - 1) := by positivity
  generalize (2 : Int) ^ (m - 1) = p at *
  omega

theorem natAbs_overflows {x : BitVec m} (hx : x.toInt = -(2 ^ (m - 1))) : (2 : Int) ^ (m - 1) - 1 < x.toInt.natAbs := by
  have hp : (0 : Int) < 2 ^ (m - 1) := by positivity
  generalize (2 : Int) ^ (m - 1) = p at *
  omega

end

/-! ## The shared operation on a core, by its outcome at the width that W64 chooses (R111, R112) -/

/-- The bits of an operation on a core (R111). -/
def coreBits (w : Bool) : Nat := if w then 64 else 32

section
variable {s : State} {k iv : Nat} {n : SReg} {a b : Src} {e : BitVec 7} {w : Bool}

/-- An operand of a core, as its operation reads it. -/
theorem core_operand (x : Src) : ((s.core k).src x).toNat % 2 ^ (Width.w w).bits = (((s.core k).src x).setWidth (coreBits w)).toNat := by
  cases w <;> exact (BitVec.toNat_setWidth _ _).symm

theorem coreResult_coreVal (v : (m : Nat) → BitVec m) :
    coreResult (Width.w w).bits (v (coreBits w)).toNat = coreVal w (fun m _ _ => v m) 0 0 := by
  cases w
  · exact coreResult_word _
  · exact coreResult_dbl _

variable {alu : Nat → Nat → Nat → Except (BitVec 7) Nat}

theorem scalar_core_bin_fault (h : CoreRuns s k [a, b] (some n))
    (hg : alu (coreBits w) (((s.core k).src a).setWidth (coreBits w)).toNat (((s.core k).src b).setWidth (coreBits w)).toNat = .error e) :
    State.scalar (.s n) [a, b] (.w w) iv (bin alu) s = (s.coreTrap k e 0).issued := by
  refine scalar_core_fault h ?_
  simp only [List.map_cons, List.map_nil, core_operand]
  cases w <;> exact hg

/-- A word with two operands on a core, whose value is `v` at each width. -/
theorem scalar_core_bin_at {v : (m : Nat) → BitVec m} (h : CoreRuns s k [a, b] (some n))
    (hg : alu (coreBits w) (((s.core k).src a).setWidth (coreBits w)).toNat (((s.core k).src b).setWidth (coreBits w)).toNat =
      .ok (v (coreBits w)).toNat) :
    State.scalar (.s n) [a, b] (.w w) iv (bin alu) s = s.coreWrite k n (coreVal w (fun m _ _ => v m) 0 0) (srcWords [a, b]) := by
  rw [← coreResult_coreVal]
  refine scalar_core_done h ?_
  simp only [List.map_cons, List.map_nil, core_operand]
  cases w <;> exact hg

variable {alu₁ : Nat → Nat → Except (BitVec 7) Nat}

@[inherit_doc scalar_core_bin_at]
theorem scalar_core_una_at {v : (m : Nat) → BitVec m} (h : CoreRuns s k [a] (some n))
    (hg : alu₁ (coreBits w) (((s.core k).src a).setWidth (coreBits w)).toNat = .ok (v (coreBits w)).toNat) :
    State.scalar (.s n) [a] (.w w) iv (una alu₁) s = s.coreWrite k n (coreVal w (fun m _ _ => v m) 0 0) (srcWords [a]) := by
  rw [← coreResult_coreVal]
  refine scalar_core_done h ?_
  simp only [List.map_cons, List.map_nil, core_operand]
  cases w <;> exact hg

theorem scalar_core_una_fault (h : CoreRuns s k [a] (some n))
    (hg : alu₁ (coreBits w) (((s.core k).src a).setWidth (coreBits w)).toNat = .error e) :
    State.scalar (.s n) [a] (.w w) iv (una alu₁) s = (s.coreTrap k e 0).issued := by
  refine scalar_core_fault h ?_
  simp only [List.map_cons, List.map_nil, core_operand]
  cases w <;> exact hg

/-- A zero operand at the width that W64 chooses. -/
theorem setWidth_coreBits_eq_zero {x : Dbl} :
    x.setWidth (coreBits w) = 0 ↔ if w then x = 0 else x.setWidth 32 = (0 : Word) := by
  cases w <;> simp [coreBits]

end

/-! ## The integer obligations -/

/-- Settles O11: each row of R113 is the shared operation of scalar words, whose value, fault and poison laws say the rest. -/
theorem integerOnCells : Obligations.IntegerOnCells := by
  refine ⟨fun r hr s t o c f d a b w => ?_, fun r hr s t o c f d a w x => ?_⟩
  · obtain ⟨alu, hexec, halu⟩ := intRows_scalar hr
    exact ⟨fun x y h hd hy => by rw [hexec, scalar_cell_done h hd (halu 32 x y hy)],
      fun k h => by rw [hexec, scalar_cell_poison h]⟩
  · obtain ⟨alu, hexec, halu⟩ := unaryRows_scalar hr
    exact ⟨fun h hd => by rw [hexec, scalar_cell_done h hd (halu 32 x)], fun k h => by rw [hexec, scalar_cell_poison h]⟩

/-- Settles O12: as on cells, with the width that W64 chooses. -/
theorem integerOnCores : Obligations.IntegerOnCores := by
  refine ⟨fun r hr s k n a b w h hy => ?_, fun r hr s k n a w h => ?_⟩
  · obtain ⟨alu, hexec, halu⟩ := intRows_scalar hr
    have hy' : r.divides = true → ((s.core k).src b).setWidth (coreBits w) ≠ 0 := fun hd h0 => by
      have := setWidth_coreBits_eq_zero.1 h0
      cases w <;> exact hy hd (by simpa using this)
    rw [hexec, scalar_core_bin_at (v := fun m => r.fn m (((s.core k).src a).setWidth m) (((s.core k).src b).setWidth m)) h
      (halu _ _ _ hy')]
    cases w <;> simp [coreVal]
  · obtain ⟨alu, hexec, halu⟩ := unaryRows_scalar hr
    rw [hexec, scalar_core_una_at (v := fun m => r.fn m (((s.core k).src a).setWidth m)) h (halu _ _)]
    cases w <;> simp [coreVal]

/-- Settles O14: the narrowing under OVT, once for all rows; a zero divisor before it. -/
theorem overflowAndDivisionByZero : Obligations.OverflowAndDivisionByZero := by
  refine ⟨fun r hr s t o c f d a b w x y h hy => ⟨fun hz hd => ?_, fun hz hd => ?_⟩,
    fun r hr s k n a b w h => ?_, fun s t o c f d a w x h => ⟨fun hx hd => ?_, fun hx hd => ?_⟩,
    fun s k n a w h => ⟨fun hx => ?_, fun hx => ?_⟩, fun word hr => ⟨fun s t o c f d a b w x h hd => ?_, fun s k n a b w h hy => ?_⟩⟩
  · obtain ⟨alu, hexec, halu⟩ := ovtRows_scalar hr
    rw [hexec, scalar_cell_done h hd ((halu 32 x y hy).trans (withOvt_fits hz))]
  · obtain ⟨alu, hexec, halu⟩ := ovtRows_scalar hr
    rw [hexec, scalar_cell_fault h hd ((halu 32 x y hy).trans (withOvt_overflows hz))]
  · obtain ⟨alu, hexec, halu⟩ := ovtRows_scalar hr
    intro m y z hy
    have hz : alu m (((s.core k).src a).setWidth m).toNat (((s.core k).src b).setWidth m).toNat = withOvt m true z :=
      halu m _ _ fun hd h0 => hy hd ((congrArg BitVec.toInt h0).trans (BitVec.toInt_zero))
    exact ⟨fun hfit => by rw [hexec, scalar_core_bin_at (v := fun m => BitVec.ofInt m z) h (hz.trans (withOvt_fits hfit))],
      fun hout => by rw [hexec, scalar_core_bin_fault h (hz.trans (withOvt_overflows hout))]⟩
  · rw [exec_abs, scalar_cell_done h hd ((aluAbs_ovt x).trans (withOvt_fits (natAbs_fits hx)))]
  · rw [exec_abs, scalar_cell_fault h hd ((aluAbs_ovt x).trans (withOvt_overflows (.inr (natAbs_overflows hx))))]
  · rw [exec_abs, scalar_core_una_at (v := fun m => BitVec.ofInt m _) h ((aluAbs_ovt _).trans (withOvt_fits (natAbs_fits hx)))]
    rfl
  · rw [exec_abs, scalar_core_una_fault h ((aluAbs_ovt _).trans (withOvt_overflows (.inr (natAbs_overflows hx))))]
  · obtain ⟨alu, hexec, halu⟩ := divRows_scalar hr
    rw [hexec, scalar_cell_fault h hd (halu 32 x.toNat)]
  · obtain ⟨alu, hexec, halu⟩ := divRows_scalar hr
    have hy' := setWidth_coreBits_eq_zero.2 hy
    exact (hexec ..).trans (congrArg _ (scalar_core_bin_fault h (hy' ▸ halu _ _)))

/-! ## The FP32 words (R120 to R124) -/

section
variable {s : State} {t o k iv : Nat} {c : Cell} {f : Firing} {d : Dst} {n : SReg} {srcs : List Src} {vals : List Word} {v : Nat}
  {g : Nat → List Nat → Except (BitVec 7) Nat}

/-- A word of 32 bits on a cell, whose result is an encoding. -/
theorem scalar_cell_w32 (h : CellReads s t o c f srcs vals) (hd : CellTakes s t o f d)
    (hg : g 32 (vals.map (·.toNat)) = .ok v) : State.scalar d srcs (.w false) iv g s = s.cellDone t o f d srcs (w32 v) iv := by
  rw [State.scalar, h.runs.cur]
  exact cellScalar_done h hd (by rw [hg]; rfl)

/-- A word of 32 bits on a core, whose result is an encoding. -/
theorem scalar_core_w32 (h : CoreRuns s k srcs (some n))
    (hg : g 32 (srcs.map fun x => (((s.core k).src x).setWidth 32).toNat) = .ok v) :
    State.scalar (.s n) srcs (.w false) iv g s = s.coreWrite k n ((w32 v).signExtend 64) (srcWords srcs) := by
  rw [scalar_core_done (v := v) h (by simpa only [Width.bits, BitVec.toNat_setWidth] using hg)]
  rfl

/-- FTZ on a cell is that of the launch's context. -/
theorem ftzNow_cell (h : CellRuns s t o c f) : s.ftzNow = s.ftz (s.lctxOf t) := by rw [State.ftzNow, h.cur]
/-- FTZ on a core is its STATUS bit. -/
theorem ftzNow_core {r : Option SReg} (h : CoreRuns s k srcs r) : s.ftzNow = (s.core k).status.getLsbD 2 := by
  rw [State.ftzNow, h.cur]

end

section
variable {rm : Rm} {cc : Cond} {r : FloatRow} {u : CvtRow}

theorem w32_toNat (b : Bool) : w32 b.toNat = flagV 32 b := by cases b <;> rfl
theorem w32_wrapI (i : Int) : w32 (wrapI 32 i) = BitVec.ofInt 32 i := by rw [wrapI_eq, w32, BitVec.ofNat_toNat, BitVec.setWidth_eq]

/-- Every two-operand FP32 row is the shared operation under the FTZ in force. -/
theorem floatRows_scalar (hr : r ∈ floatRows rm cc) : ∃ alu : Bool → Nat → Nat → Nat → Except (BitVec 7) Nat,
    (∀ d a b s, exec (r.word d a b) s = .next (State.scalar d [a, b] (.w false) r.iv (bin (alu s.ftzNow)) s)) ∧
    ∀ z (x y : Word), ∃ v, alu z 32 x.toNat y.toNat = .ok v ∧ w32 v = r.fn z x y := by
  simp only [floatRows, List.mem_cons, List.not_mem_nil, or_false] at hr
  rcases hr with rfl | rfl | rfl | rfl | rfl
  · exact ⟨fun z => fAdd z rm, fun _ _ _ _ => rfl, fun _ _ _ => ⟨_, rfl, rfl⟩⟩
  · exact ⟨fun z => fMul z rm, fun _ _ _ _ => rfl, fun _ _ _ => ⟨_, rfl, rfl⟩⟩
  · exact ⟨fMin, fun _ _ _ _ => rfl, fun _ _ _ => ⟨_, rfl, rfl⟩⟩
  · exact ⟨fMax, fun _ _ _ _ => rfl, fun _ _ _ => ⟨_, rfl, rfl⟩⟩
  · exact ⟨fun z => fCmp z cc, fun _ _ _ _ => rfl, fun _ _ _ => ⟨_, rfl, w32_toNat _⟩⟩

/-- Every conversion row is the shared operation under the FTZ in force. -/
theorem cvtRows_scalar (hr : u ∈ cvtRows rm) : ∃ alu : Bool → Nat → Nat → Except (BitVec 7) Nat,
    (∀ d a s, exec (u.word d a) s = .next (State.scalar d [a] (.w false) 3 (una (alu s.ftzNow)) s)) ∧
    ∀ z (x : Word), ∃ v, alu z 32 x.toNat = .ok v ∧ w32 v = u.fn z x := by
  simp only [cvtRows, List.mem_cons, List.not_mem_nil, or_false] at hr
  rcases hr with rfl | rfl | rfl | rfl
  · exact ⟨fun _ => fCvtSW rm, fun _ _ _ => rfl, fun _ x => ⟨_, rfl, by rw [sgn_toNat]; rfl⟩⟩
  · exact ⟨fun _ => fCvtSWu rm, fun _ _ _ => rfl, fun _ _ => ⟨_, rfl, rfl⟩⟩
  · exact ⟨fun z => fCvtWS z rm, fun _ _ _ => rfl, fun _ _ => ⟨_, rfl, w32_wrapI _⟩⟩
  · exact ⟨fun z => fCvtWuS z rm, fun _ _ _ => rfl, fun _ _ => ⟨_, rfl, w32_wrapI _⟩⟩

theorem exec_fma {d : Dst} {a b e : Src} {s : State} :
    exec (.fma d a b e rm) s = .next (State.scalar d [a, b, e] (.w false) 3 (fFma s.ftzNow rm) s) := rfl

end

/-- Settles O17: each FP32 word is the shared operation of 32 bits on encodings, under the FTZ of its unit. -/
theorem floatWords : Obligations.FloatWords := by
  refine fun rm cc => ⟨fun r hr s t o c f d a b x y h hd => ?_, fun s t o c f d a b e x y z h hd => ?_,
    fun r hr s t o c f d a x h hd => ?_, fun r hr s k n a b h => ?_, fun s k n a b e h => ?_, fun r hr s k n a h => ?_⟩
  · obtain ⟨alu, hexec, halu⟩ := floatRows_scalar hr
    obtain ⟨v, hv, hfn⟩ := halu (s.ftz (s.lctxOf t)) x y
    rw [hexec, ftzNow_cell h.runs, scalar_cell_w32 h hd hv, hfn]
  · rw [exec_fma, ftzNow_cell h.runs, scalar_cell_w32 h hd rfl]
    rfl
  · obtain ⟨alu, hexec, halu⟩ := cvtRows_scalar hr
    obtain ⟨v, hv, hfn⟩ := halu (s.ftz (s.lctxOf t)) x
    rw [hexec, ftzNow_cell h.runs, scalar_cell_w32 h hd hv, hfn]
  · obtain ⟨alu, hexec, halu⟩ := floatRows_scalar hr
    obtain ⟨v, hv, hfn⟩ := halu ((s.core k).status.getLsbD 2) (((s.core k).src a).setWidth 32) (((s.core k).src b).setWidth 32)
    rw [hexec, ftzNow_core h, scalar_core_w32 h hv, hfn]
  · rw [exec_fma, ftzNow_core h, scalar_core_w32 h rfl]
    rfl
  · obtain ⟨alu, hexec, halu⟩ := cvtRows_scalar hr
    obtain ⟨v, hv, hfn⟩ := halu ((s.core k).status.getLsbD 2) (((s.core k).src a).setWidth 32)
    rw [hexec, ftzNow_core h, scalar_core_w32 h hv, hfn]

end Sys2Proof.Machine

namespace Sys2Proof.Machine

/-! SUPPORT and PROOFS. Rounding to FP32 (R120, R185, R186, R188). -/

section
variable {rm : RmC} {neg ftz : Bool} {m : Nat} {e : Int}

/-- Nothing is rounded where the place of the last bit is the value's own. -/
theorem roundAt_exact : roundAt rm 0 neg m e e = m := by simp [roundAt]

/-- A subnormal magnitude is its own encoding. -/
theorem roundMag_subnormal (h : m < 2 ^ 23) : fp32.roundMag rm 0 neg m (-149) = m := by
  rcases Nat.eq_zero_or_pos m with rfl | h0
  · simp [FFmt.roundMag]
  · have hlog : Nat.log2 m < 23 := (Nat.log2_lt h0.ne').2 h
    have htop : max ((Nat.log2 m : Int) + -149) (1 - fp32.bias) - (fp32.mb : Int) = -149 := by
      simp only [fp32]
      omega
    simp only [FFmt.roundMag, h0.ne', if_false, htop, roundAt_exact]
    exact if_pos h

/-- A normal magnitude 1.m·2^(x − 127) has the encoding x·2^23 + m. -/
theorem roundMag_normal {x : Nat} (hm : m < 2 ^ 23) (hx : 1 ≤ x) :
    fp32.roundMag rm 0 neg (2 ^ 23 + m) ((x : Int) - 150) = x * 2 ^ 23 + m := by
  have h0 : 2 ^ 23 + m ≠ 0 := by omega
  have hlog : Nat.log2 (2 ^ 23 + m) = 23 := (Nat.log2_eq_iff h0).2 ⟨by omega, by omega⟩
  have htop : max (((23 : Nat) : Int) + ((x : Int) - 150)) (1 - fp32.bias) = (x : Int) - 127 := by
    simp only [fp32]
    omega
  have hk : (x : Int) - 127 - (fp32.mb : Int) = (x : Int) - 150 := by
    simp only [fp32]
    omega
  simp only [FFmt.roundMag, h0, if_false, hlog, htop, hk, roundAt_exact]
  have hq : ¬ 2 ^ 23 + m < 2 ^ fp32.mb := by simp only [fp32]; omega
  have hb : ((x : Int) - 127 + fp32.bias).toNat = x := by simp only [fp32]; omega
  rw [if_neg hq, hb]
  simp only [fp32]
  omega

/-- The parts of an FP32 encoding: sign, exponent and fraction. -/
theorem fp32_parts (x : Word) : x.toNat = (if x.toNat / 2 ^ 31 % 2 == 1 then 2 ^ 31 else 0) +
    (x.toNat % 2 ^ 31 / 2 ^ 23 * 2 ^ 23 + x.toNat % 2 ^ 31 % 2 ^ 23) := by
  have := x.isLt
  rw [Nat.div_add_mod']
  rcases Nat.mod_two_eq_zero_or_one (x.toNat / 2 ^ 31) with h | h
  · rw [h]
    simp only [Nat.reduceBEq, Bool.false_eq_true, if_false]
    omega
  · rw [h]
    simp only [BEq.rfl, if_true]
    omega

theorem signed_fp32 (neg : Bool) (mag : Nat) : fp32.signed neg mag = (if neg then 2 ^ 31 else 0) + mag := by
  cases neg <;> simp [FFmt.signed, FFmt.signBit, fp32]

/-- A finite value whose rounded magnitude is in range is that magnitude with its sign. -/
theorem result_fin_inRange {mag : Nat} (h : fp32.roundMag rm 0 neg m e = mag) (hle : mag ≤ fp32.maxEnc) :
    fp32.result false rm (.fin neg m e) = fp32.signed neg mag := by
  simp [FFmt.result, h, Nat.not_lt.2 hle]

/-- The value of an FP32 encoding, by its exponent field: zero or subnormal, infinity or NaN, normal. -/
theorem unpack_fp32 (x : Nat) : fp32.unpack x =
    if x % 2 ^ 31 / 2 ^ 23 = 255 then (if x % 2 ^ 31 % 2 ^ 23 = 0 then .inf (x / 2 ^ 31 % 2 == 1) else .nan)
    else if x % 2 ^ 31 / 2 ^ 23 = 0 then .fin (x / 2 ^ 31 % 2 == 1) (x % 2 ^ 31 % 2 ^ 23) (-149)
    else .fin (x / 2 ^ 31 % 2 == 1) (2 ^ 23 + x % 2 ^ 31 % 2 ^ 23) ((x % 2 ^ 31 / 2 ^ 23 : Nat) - 150) := by
  have he (y : Nat) : (y : Int) - 127 - 23 = (y : Int) - 150 := by omega
  simp only [FFmt.unpack, FFmt.signBit, fp32, beq_iff_eq, Bool.true_and, Bool.not_true, Bool.false_and, Bool.false_eq_true, if_false,
    Nat.cast_ofNat, he]
  rfl

/-- Reading an encoding and rounding its value gives the encoding back. -/
theorem result_unpack (x : Word) (h : (fp32.unpack x.toNat).isNan = false) : fp32.result false rm (fp32.unpack x.toNat) = x.toNat := by
  have hparts := fp32_parts x
  have hfrac : x.toNat % 2 ^ 31 % 2 ^ 23 < 2 ^ 23 := Nat.mod_lt _ (by decide)
  have hexp : x.toNat % 2 ^ 31 / 2 ^ 23 < 256 := by omega
  rw [unpack_fp32] at h ⊢
  generalize (x.toNat / 2 ^ 31 % 2 == 1) = sign at *
  generalize x.toNat % 2 ^ 31 / 2 ^ 23 = exp at *
  generalize x.toNat % 2 ^ 31 % 2 ^ 23 = frac at *
  by_cases hinf : exp = 255
  · by_cases hz : frac = 0
    · rw [if_pos hinf, if_pos hz, FFmt.result, signed_fp32, hparts, hinf, hz]
      rfl
    · simp [hinf, hz, Fp.isNan] at h
  · rw [if_neg hinf]
    by_cases hsub : exp = 0
    · rw [if_pos hsub, result_fin_inRange (roundMag_subnormal hfrac) (by simp only [fp32]; omega), signed_fp32, hparts, hsub,
        Nat.zero_mul, Nat.zero_add]
    · rw [if_neg hsub, result_fin_inRange (roundMag_normal hfrac (by omega)) (by simp only [fp32]; omega), signed_fp32, hparts]

/-- Every result is a sign and a magnitude that FP32 holds. -/
theorem result_ftz_cases (rm : RmC) (v : Fp) : ∃ sign mag, fp32.result true rm v = fp32.signed sign mag ∧ mag < 2 ^ 31 ∧
    (mag = 0 ∨ 2 ^ 23 ≤ mag) := by
  cases v with
  | nan => exact ⟨false, 0x7FC00000, rfl, by decide, .inr (by decide)⟩
  | inf sign => exact ⟨sign, fp32.infEnc, rfl, by decide, .inr (by decide)⟩
  | fin sign m e =>
    refine ⟨sign, _, rfl, ?_⟩
    have hover : fp32.overflow rm sign < 2 ^ 31 := by cases rm <;> cases sign <;> decide
    have hmag : (if fp32.roundMag rm 0 sign m e > fp32.maxEnc then fp32.overflow rm sign else fp32.roundMag rm 0 sign m e) < 2 ^ 31 := by
      split
      · exact hover
      · next hle => exact lt_of_le_of_lt (Nat.not_lt.1 hle) (by decide)
    generalize (if fp32.roundMag rm 0 sign m e > fp32.maxEnc then fp32.overflow rm sign else fp32.roundMag rm 0 sign m e) = mag at *
    by_cases hsub : fp32.isSub mag = true
    · simp [hsub]
    · have hnorm : ¬ mag < 2 ^ 23 := fun h => hsub (decide_eq_true h)
      simp only [hsub, Bool.and_false, Bool.false_eq_true, if_false]
      exact ⟨hmag, .inr (Nat.not_lt.1 hnorm)⟩

end

/-- Settles O18: the three kinds of encodings come back; a result under FTZ is a sign and a magnitude that is no subnormal's. -/
theorem floatRounding : Obligations.FloatRounding := by
  refine ⟨fun x rm h => result_unpack x h, fun z rm => rfl, fun rm v => ?_⟩
  obtain ⟨sign, mag, hres, hlt, hmag⟩ := result_ftz_cases rm v
  have : fp32.result true rm v % 2 ^ 31 = mag := by
    rw [hres, signed_fp32]
    cases sign <;> simp <;> omega
  simp only [this]
  exact hmag

end Sys2Proof.Machine

namespace Sys2Proof.Machine

/-! SUPPORT and PROOFS. What memory reads after a write (R1). -/

section
variable {m m' : List Host.Cell} {lo k n v a : Nat} {b : Byte}

/-- A key below every listed one reads 0. -/
theorem memGet_below (h : memFrom lo m = true) (ha : a < lo) : memGet m a = 0 := by
  induction m generalizing lo with
  | nil => rfl
  | cons c t ih =>
    obtain ⟨hlo, -, ht⟩ := memFrom_cons.1 h
    rw [memGet, if_neg (by omega)]
    exact ih ht (by omega)

theorem memGet_memPut_of_memFrom (h : memFrom lo m = true) : memGet (memPut m k b) a = if a = k then b else memGet m a := by
  induction m generalizing lo with
  | nil =>
    by_cases hb : b = 0
    · simp [memPut, memGet, hb]
    · simp only [memPut, hb, if_false, memGet, @eq_comm _ k a]
  | cons c t ih =>
    obtain ⟨j, d⟩ := c
    obtain ⟨-, -, ht⟩ := memFrom_cons.1 h
    unfold memPut
    split
    · next hkj =>
      split
      · next hb =>
        have hk : memGet ((j, d) :: t) k = 0 := memGet_below (lo := j) (memFrom_cons.2 ⟨le_rfl, (memFrom_cons.1 h).2⟩) hkj
        split
        · next hak => rw [hak, hk, hb]
        · rfl
      · rw [memGet]
        simp only [@eq_comm _ k a]
    · split
      · next hkj =>
        subst hkj
        split
        · next hb =>
          by_cases hak : a = k
          · rw [if_pos hak, hak, memGet_below ht (Nat.lt_succ_self k), hb]
          · rw [if_neg hak, memGet, if_neg (Ne.symm hak)]
        · by_cases hak : a = k
          · rw [if_pos hak, hak, memGet, if_pos rfl]
          · rw [if_neg hak, memGet, memGet, if_neg (Ne.symm hak), if_neg (Ne.symm hak)]
      · next hkj =>
        rw [memGet, memGet, ih ht]
        by_cases hja : j = a
        · subst hja
          rw [if_pos rfl, if_pos rfl, if_neg (Ne.symm hkj)]
        · rw [if_neg hja, if_neg hja]

/-- A byte written is read back, and every other byte reads as before. -/
theorem memGet_memPut (h : Memory.wf m = true) : memGet (memPut m k b) a = if a = k then b else memGet m a :=
  memGet_memPut_of_memFrom h

theorem memWrite_sameBut (h : Memory.wf m = true) : sameBut m (memWrite m k n v) k n := by
  induction n generalizing m k v with
  | zero => exact fun _ _ => rfl
  | succ n ih =>
    intro a ha
    rw [memWrite, ih (memPut_wf h) a (by omega), memGet_memPut h, if_neg (by omega)]

/-- The byte just below a write reads as before. -/
theorem memGet_memWrite_before (h : Memory.wf m = true) (ha : a < k) : memGet (memWrite m k n v) a = memGet m a :=
  memWrite_sameBut h a (.inl ha)

theorem memRead_memWrite (h : Memory.wf m = true) : memRead (memWrite m k n v) k n = v % 2 ^ (8 * n) := by
  induction n generalizing m k v with
  | zero => simp [memRead, Nat.mod_one]
  | succ n ih =>
    rw [memRead, memWrite, ih (memPut_wf h), memGet_memWrite_before (memPut_wf h) (Nat.lt_succ_self k), memGet_memPut h, if_pos rfl,
      BitVec.toNat_ofNat, show 8 * (n + 1) = 8 + 8 * n by ring, Nat.pow_add, Nat.mod_mul]

/-- Two memories in canonical form that read the same are the same list. -/
theorem memFrom_ext {lo' : Nat} (h : memFrom lo m = true) (h' : memFrom lo' m' = true) (heq : ∀ a, memGet m a = memGet m' a) :
    m = m' := by
  induction m generalizing lo lo' m' with
  | nil =>
    cases m' with
    | nil => rfl
    | cons c t =>
      have := heq c.1
      simp only [memGet, if_true] at this
      exact absurd this.symm (memFrom_cons.1 h').2.1
  | cons c t ih =>
    obtain ⟨j, d⟩ := c
    obtain ⟨hj, hd, ht⟩ := memFrom_cons.1 h
    cases m' with
    | nil =>
      have := heq j
      simp only [memGet, if_true] at this
      exact absurd this hd
    | cons c' t' =>
      obtain ⟨i, e⟩ := c'
      obtain ⟨hi, he, ht'⟩ := memFrom_cons.1 h'
      have hbelow {x : Nat} {y : Byte} {r : List Host.Cell} (hr : memFrom (x + 1) r = true) {a : Nat} (ha : a < x) :
          memGet ((x, y) :: r) a = 0 := by
        rw [memGet, if_neg (by omega)]
        exact memGet_below hr (by omega)
      have hij : i = j := by
        rcases Nat.lt_trichotomy i j with hlt | rfl | hlt
        · exact absurd ((heq i).symm.trans (hbelow ht hlt)) (by simpa [memGet] using he)
        · rfl
        · exact absurd ((heq j).trans (hbelow ht' hlt)) (by simpa [memGet] using hd)
      subst hij
      have hde : d = e := by simpa [memGet] using heq i
      subst hde
      refine congrArg _ (ih ht ht' fun a => ?_)
      by_cases ha : i = a
      · subst ha
        rw [memGet_below ht (Nat.lt_succ_self i), memGet_below ht' (Nat.lt_succ_self i)]
      · simpa [memGet, ha] using heq a

end

/-- Settles O4: one byte at a time, in the canonical form. -/
theorem memoryReadAfterWrite : Obligations.MemoryReadAfterWrite :=
  ⟨fun _ _ _ _ h => ⟨memRead_memWrite h, memWrite_sameBut h, memWrite_keeps h⟩, fun _ _ h h' heq => memFrom_ext h h' heq⟩

end Sys2Proof.Machine

namespace Sys2Proof.Machine

/-! SUPPORT. The fields of words, each with its encoder and its decoder (R66, R87 to R94). -/

/-! ## Operand fields -/

section
variable {e : Word} {a b c : Src} {d : Dst} {n : SReg} {o : OPort} {q : QIn} {k : KIn} {f : BitVec 5}

/-- An operand whose extension word, if it takes one, is `e` (R88). -/
def ExtIs (e : Word) (a : Src) : Prop := ∀ v, a = .imm v → v = e

theorem extIs_imm {v : Word} : ExtIs e (.imm v) ↔ v = e := ⟨fun h => h v rfl, fun h w hw => by cases hw; exact h⟩
theorem extIs_of_not_isImm (h : a.isImm = false) : ExtIs e a := by
  rintro v rfl
  cases h

theorem src?_code (h : ExtIs e a) : src? e a.code = some a := by
  cases a with
  | s n => fin_cases n <;> rfl
  | q n => fin_cases n <;> rfl
  | pk n => fin_cases n <;> rfl
  | k n => fin_cases n <;> rfl
  | tok => rfl
  | ctxk => rfl
  | imm v => exact congrArg (fun v => some (Src.imm v)) (extIs_imm.1 h).symm

theorem src?_eq_some (h : src? e f = some a) : f = a.code ∧ ExtIs e a := by
  obtain ⟨⟨i, hi⟩⟩ := f
  interval_cases i <;> cases h <;> exact ⟨rfl, fun v hv => by simpa using hv.symm⟩

@[simp] theorem dst?_code : dst? d.code = some d := by
  cases d with
  | s n => fin_cases n <;> rfl
  | o n => fin_cases n <;> rfl
theorem dst?_eq_some (h : dst? f = some d) : f = d.code := by
  obtain ⟨⟨i, hi⟩⟩ := f
  interval_cases i <;> cases h <;> rfl

@[simp] theorem reg?_code : reg? n.code = some n := by fin_cases n <;> rfl
theorem reg?_eq_code (h : reg? f = some n) : f = n.code := by
  obtain ⟨⟨i, hi⟩⟩ := f
  interval_cases i <;> cases h <;> rfl

@[simp] theorem port?_code : port? o.code = some o := by fin_cases o <;> rfl
theorem port?_eq_some (h : port? f = some o) : f = o.code := by
  obtain ⟨⟨i, hi⟩⟩ := f
  interval_cases i <;> cases h <;> rfl

@[simp] theorem queue?_code : queue? q.code = some q := by fin_cases q <;> rfl
theorem queue?_eq_some (h : queue? f = some q) : f = q.code := by
  obtain ⟨⟨i, hi⟩⟩ := f
  interval_cases i <;> cases h <;> rfl

@[simp] theorem peek?_pkCode : peek? q.pkCode = some q := by fin_cases q <;> rfl
theorem peek?_eq_some (h : peek? f = some q) : f = q.pkCode := by
  obtain ⟨⟨i, hi⟩⟩ := f
  interval_cases i <;> cases h <;> rfl

@[simp] theorem kin?_code : kin? k.code = some k := by fin_cases k <;> rfl
theorem kin?_eq_some (h : kin? f = some k) : f = k.code := by
  obtain ⟨⟨i, hi⟩⟩ := f
  interval_cases i <;> cases h <;> rfl

end

/-! ## Conditions, roundings, functions and predicates -/

section
variable {cc : Cond} {rm : Rm} {rmc : RmC} {fn : RmwFn} {red : RedFn} {p : Pred} {v : VNum} {r : PNum}

@[simp] theorem cond?_code : cond? cc.code = some cc := by cases cc <;> rfl
theorem cond?_eq_some {n : BitVec 4} (h : cond? n = some cc) : n = cc.code := by
  obtain ⟨⟨i, hi⟩⟩ := n
  interval_cases i <;> cases h <;> rfl

@[simp] theorem rm?_code : rm? ((0 : BitVec 1) ++ rm.code) = some rm := by cases rm <;> rfl
theorem rm?_eq_some {n : BitVec 3} (h : rm? n = some rm) : n = (0 : BitVec 1) ++ rm.code := by
  obtain ⟨⟨i, hi⟩⟩ := n
  interval_cases i <;> cases h <;> rfl
@[simp] theorem rm?_zeroExtend : rm? (rm.code.zeroExtend 3) = some rm := by cases rm <;> rfl
theorem rm?_zeroExtend_eq_some {n : BitVec 2} (h : rm? (n.zeroExtend 3) = some rm) : n = rm.code := by
  obtain ⟨⟨i, hi⟩⟩ := n
  interval_cases i <;> cases h <;> rfl

@[simp] theorem rmC?_code : rmC? rmc.code = some rmc := by cases rmc <;> rfl
theorem rmC?_eq_some {n : BitVec 3} (h : rmC? n = some rmc) : n = rmc.code := by
  obtain ⟨⟨i, hi⟩⟩ := n
  interval_cases i <;> cases h <;> rfl

@[simp] theorem rmwFn?_code : rmwFn? fn.code.toNat = some fn := by cases fn <;> rfl
theorem rmwFn?_eq_some {n : BitVec 8} (h : rmwFn? n.toNat = some fn) : n = fn.code := by
  refine BitVec.eq_of_toNat_eq ?_
  generalize n.toNat = i at h
  unfold rmwFn? at h
  split at h <;> cases h <;> rfl

@[simp] theorem redFn?_code : redFn? red.code.toNat = some red := by cases red <;> rfl
theorem redFn?_eq_some {n : BitVec 4} (h : redFn? n.toNat = some red) : n = red.code := by
  refine BitVec.eq_of_toNat_eq ?_
  generalize n.toNat = i at h
  unfold redFn? at h
  split at h <;> cases h <;> rfl

@[simp] theorem pred?_field : pred? p.pe p.field = some p := by
  cases p with
  | none => rfl
  | some r => fin_cases r <;> rfl
theorem pred?_eq_some {pe : BitVec 1} {pr : BitVec 3} (h : pred? pe pr = some p) : pe = p.pe ∧ pr = p.field := by
  obtain ⟨⟨i, hi⟩⟩ := pe
  obtain ⟨⟨j, hj⟩⟩ := pr
  interval_cases i <;> interval_cases j <;> cases h <;> exact ⟨rfl, rfl⟩

@[simp] theorem vnum_code : vnum v.code = v := by fin_cases v <;> rfl
@[simp] theorem code_vnum (f : BitVec 5) : (vnum f).code = f := by
  obtain ⟨⟨i, hi⟩⟩ := f
  interval_cases i <;> rfl
@[simp] theorem pnum_field : (Fin.ofNat 8 (BitVec.ofNat 3 r.val).toNat : PNum) = r := by fin_cases r <;> rfl
@[simp] theorem ofNat_pnum (f : BitVec 3) : BitVec.ofNat 3 (Fin.ofNat 8 f.toNat : PNum).val = f := by
  obtain ⟨⟨i, hi⟩⟩ := f
  interval_cases i <;> rfl
@[simp] theorem qnum_field {q : QIn} : (Fin.ofNat 4 (BitVec.ofNat 2 q.val).toNat : QIn) = q := by fin_cases q <;> rfl
@[simp] theorem ofNat_qnum (f : BitVec 2) : BitVec.ofNat 2 (Fin.ofNat 4 f.toNat : QIn).val = f := by
  obtain ⟨⟨i, hi⟩⟩ := f
  interval_cases i <;> rfl

@[simp] theorem bit_eq_one {b : Bool} : (bit b == 1) = b := by cases b <;> rfl
@[simp] theorem getLsbD_bit {b : Bool} : (bit b).getLsbD 0 = b := by cases b <;> rfl
theorem bit_beq_one (x : BitVec 1) : bit (x == 1) = x := by
  obtain ⟨⟨i, hi⟩⟩ := x
  interval_cases i <;> rfl

end

/-! ## Fields side by side -/

section
variable {m n : Nat}

/-- The low field of two. -/
theorem extractLsb'_append_low (x : BitVec m) (y : BitVec n) {k : Nat} {j : Nat} (h : j + k ≤ n) :
    (x ++ y).extractLsb' j k = y.extractLsb' j k := by
  refine BitVec.eq_of_getLsbD_eq fun i hi => ?_
  simp only [BitVec.getLsbD_extractLsb', BitVec.getLsbD_append, show j + i < n by omega, if_true]

/-- The high field of two. -/
theorem extractLsb'_append_high (x : BitVec m) (y : BitVec n) {k : Nat} {j : Nat} (h : n ≤ j) :
    (x ++ y).extractLsb' j k = x.extractLsb' (j - n) k := by
  refine BitVec.eq_of_getLsbD_eq fun i hi => ?_
  simp only [BitVec.getLsbD_extractLsb', BitVec.getLsbD_append, show ¬ j + i < n by omega, if_false, hi, decide_true,
    show j + i - n = j - n + i by omega]

@[simp] theorem extractLsb'_self (x : BitVec m) : x.extractLsb' 0 m = x := BitVec.extractLsb'_eq_self

/-- Two neighbouring fields put together are one. -/
theorem extractLsb'_append_extractLsb' (x : BitVec m) (j k l : Nat) :
    x.extractLsb' (j + l) k ++ x.extractLsb' j l = x.extractLsb' j (k + l) := by
  refine BitVec.eq_of_getLsbD_eq fun i hi => ?_
  simp only [BitVec.getLsbD_append, BitVec.getLsbD_extractLsb', hi, decide_true, Bool.true_and]
  by_cases hl : i < l
  · simp [hl]
  · simp [hl, show i - l < k by omega, show j + l + (i - l) = j + i by omega]

end

section
variable {op : BitVec 6} {d a b c : BitVec 5} {lo : Half} {fn : BitVec 8} {mode lvl kind : BitVec 3} {tag : BitVec 10}

@[simp] theorem opOf_wordOf : opOf (wordOf op d a lo) = op :=
  (extractLsb'_append_high op (d ++ (a ++ lo)) (by decide)).trans (extractLsb'_self op)
@[simp] theorem dOf_wordOf : dOf (wordOf op d a lo) = d :=
  (extractLsb'_append_low op (d ++ (a ++ lo)) (by decide)).trans <|
    (extractLsb'_append_high d (a ++ lo) (by decide)).trans (extractLsb'_self d)
@[simp] theorem aOf_wordOf : aOf (wordOf op d a lo) = a :=
  (extractLsb'_append_low op (d ++ (a ++ lo)) (by decide)).trans <|
    (extractLsb'_append_low d (a ++ lo) (by decide)).trans <|
      (extractLsb'_append_high a lo (by decide)).trans (extractLsb'_self a)
@[simp] theorem loOf_wordOf : loOf (wordOf op d a lo) = lo :=
  (extractLsb'_append_low op (d ++ (a ++ lo)) (by decide)).trans <|
    (extractLsb'_append_low d (a ++ lo) (by decide)).trans <|
      (extractLsb'_append_low a lo (by decide)).trans (extractLsb'_self lo)
/-- A word is its fields (R87). -/
theorem wordOf_fields (w : Word) : wordOf (opOf w) (dOf w) (aOf w) (loOf w) = w := by
  have h1 : aOf w ++ loOf w = w.extractLsb' 0 21 := extractLsb'_append_extractLsb' w 0 5 16
  have h2 : dOf w ++ w.extractLsb' 0 21 = w.extractLsb' 0 26 := extractLsb'_append_extractLsb' w 0 5 21
  have h3 : opOf w ++ w.extractLsb' 0 26 = w.extractLsb' 0 32 := extractLsb'_append_extractLsb' w 0 6 26
  rw [wordOf, h1, h2, h3, extractLsb'_self]

@[simp] theorem srTail_b : (srTail b fn mode).extractLsb' 11 5 = b :=
  (extractLsb'_append_high b (fn ++ mode) (by decide)).trans (extractLsb'_self b)
@[simp] theorem srTail_fn : (srTail b fn mode).extractLsb' 3 8 = fn :=
  (extractLsb'_append_low b (fn ++ mode) (by decide)).trans <|
    (extractLsb'_append_high fn mode (by decide)).trans (extractLsb'_self fn)
@[simp] theorem srTail_mode : (srTail b fn mode).extractLsb' 0 3 = mode :=
  (extractLsb'_append_low b (fn ++ mode) (by decide)).trans <|
    (extractLsb'_append_low fn mode (by decide)).trans (extractLsb'_self mode)
theorem srTail_fields (lo : Half) : srTail (lo.extractLsb' 11 5) (lo.extractLsb' 3 8) (lo.extractLsb' 0 3) = lo := by
  rw [srTail, extractLsb'_append_extractLsb' lo 0 8 3]
  exact (extractLsb'_append_extractLsb' lo 0 5 11).trans (extractLsb'_self lo)

@[simp] theorem stTail_lvl : (stTail lvl tag kind).extractLsb' 13 3 = lvl :=
  (extractLsb'_append_high lvl (tag ++ kind) (by decide)).trans (extractLsb'_self lvl)
@[simp] theorem stTail_fn : (stTail lvl tag kind).extractLsb' 3 10 = tag :=
  (extractLsb'_append_low lvl (tag ++ kind) (by decide)).trans <|
    (extractLsb'_append_high tag kind (by decide)).trans (extractLsb'_self tag)
@[simp] theorem stTail_kind : (stTail lvl tag kind).extractLsb' 0 3 = kind :=
  (extractLsb'_append_low lvl (tag ++ kind) (by decide)).trans <|
    (extractLsb'_append_low tag kind (by decide)).trans (extractLsb'_self kind)
theorem stTail_fields (lo : Half) : stTail (lo.extractLsb' 13 3) (lo.extractLsb' 3 10) (lo.extractLsb' 0 3) = lo := by
  rw [stTail, extractLsb'_append_extractLsb' lo 0 10 3]
  exact (extractLsb'_append_extractLsb' lo 0 3 13).trans (extractLsb'_self lo)

@[simp] theorem sxTail_sf {sf : BitVec 4} {arg : BitVec 12} : (sxTail sf arg).extractLsb' 12 4 = sf :=
  (extractLsb'_append_high sf arg (by decide)).trans (extractLsb'_self sf)
@[simp] theorem sxTail_arg {sf : BitVec 4} {arg : BitVec 12} : (sxTail sf arg).extractLsb' 0 12 = arg :=
  (extractLsb'_append_low sf arg (by decide)).trans (extractLsb'_self arg)
theorem sxTail_fields (lo : Half) : sxTail (lo.extractLsb' 12 4) (lo.extractLsb' 0 12) = lo :=
  (extractLsb'_append_extractLsb' lo 0 4 12).trans (extractLsb'_self lo)

@[simp] theorem modeI_0 {w v : Bool} : (modeI w v).getLsbD 0 = w := by cases w <;> cases v <;> rfl
@[simp] theorem modeI_1 {w v : Bool} : (modeI w v).getLsbD 1 = v := by cases w <;> cases v <;> rfl
@[simp] theorem modeI_2 {w v : Bool} : (modeI w v).getLsbD 2 = false := by cases w <;> cases v <;> rfl
theorem eq_modeI (h : mode.getLsbD 2 = false) : mode = modeI (mode.getLsbD 0) (mode.getLsbD 1) := by
  revert mode
  decide

end

end Sys2Proof.Machine

namespace Sys2Proof.Machine

/-! SUPPORT. The words of a well-formed instruction decode to it (R87 to R94, R167). -/

/-! ## Instructions that come back from their words -/

/-- The words of a scalar instruction decode to it, whatever follows a word without an immediate. -/
def RoundTrips (gen : Nat) (i : Instr) : Prop :=
  if takesExt i then ∃ w e, encode i = [w, e] ∧ decodeScalar gen w e = some i
  else ∃ w, encode i = [w] ∧ ∀ e, decodeScalar gen w e = some i

section
variable {gen : Nat} {i : Instr} {w e : Word} {op : BitVec 6} {df af : BitVec 5} {lo : Half} {a b c : Src} {d : Dst}

/-- A word with the immediate among its operands, if it has one, that decodes back. -/
theorem roundTrips_of (imms : List Src) (henc : encode i = w :: if takesExt i then [Src.immOf imms] else [])
    (hdec : ∀ e, (takesExt i = true → e = Src.immOf imms) → decodeScalar gen w e = some i) : RoundTrips gen i := by
  unfold RoundTrips
  split
  · next h => exact ⟨w, Src.immOf imms, by rw [henc, if_pos h], hdec _ fun _ => rfl⟩
  · next h => exact ⟨w, by rw [henc, if_neg h], fun e => hdec e fun h' => absurd h' h⟩

theorem decodeScalar_wordOf (hw : wf i = true) (h : scalarForm e op df af lo = some i) :
    decodeScalar gen (wordOf op df af lo) e = some i := by
  rw [decodeScalar_eq_some]
  simp [h, hw]

theorem decodeScalar_retired (hw : wf i = true) (hn : scalarForm e op df af lo = none)
    (h : retiredForm e gen op df af lo = some i) : decodeScalar gen (wordOf op df af lo) e = some i := by
  rw [decodeScalar_eq_some]
  simp [h, hn, hw]

/-! ### The extension word of one, two or three operands -/

theorem src?_one (he : a.isImm = true → e = Src.immOf [a]) : src? e a.code = some a :=
  src?_code <| by
    rintro v rfl
    exact (he rfl).symm

theorem src?_two (hw : a.ext + b.ext ≤ 1) (he : (a.isImm || b.isImm) = true → e = Src.immOf [a, b]) :
    src? e a.code = some a ∧ src? e b.code = some b := by
  refine ⟨src?_code ?_, src?_code ?_⟩
  · rintro v rfl
    exact (he rfl).symm
  · rintro v rfl
    rw [he (by simp [Src.isImm])]
    cases a with
    | imm u => simp [Src.ext] at hw
    | _ => rfl

theorem src?_three (hw : a.ext + b.ext + c.ext ≤ 1) (he : (a.isImm || b.isImm || c.isImm) = true → e = Src.immOf [a, b, c]) :
    src? e a.code = some a ∧ src? e b.code = some b ∧ src? e c.code = some c := by
  have hbc : src? e b.code = some b ∧ src? e c.code = some c := by
    refine src?_two (by omega) fun h => ?_
    rw [he (by rw [Bool.or_assoc, h, Bool.or_true])]
    cases a with
    | imm u => cases b <;> cases c <;> simp [Src.ext, Src.isImm] at hw h
    | _ => rfl
  refine ⟨src?_code ?_, hbc⟩
  rintro v rfl
  exact (he rfl).symm

/-! ### The groups of OP 0x00 to 0x03 (R91) -/

theorem roundTrips_int {fn : BitVec 8} {w v : Bool} (hw : wf i = true) (hext : a.ext + b.ext ≤ 1)
    (henc : encode i = encInt fn d a b w v) (htake : takesExt i = (a.isImm || b.isImm))
    (h : srInt d a (some b) b.code fn (modeI w v) = some i) : RoundTrips gen i := by
  refine roundTrips_of [a, b] (henc.trans (by rw [encInt, htake])) fun e he => decodeScalar_wordOf hw ?_
  obtain ⟨ha, hb⟩ := src?_two hext (htake ▸ he)
  rw [scalarForm_int]
  simp only [dst?_code, srTail_b, srTail_fn, srTail_mode, ha, hb, Option.bind_some]
  exact h

theorem roundTrips_int1 {fn : BitVec 8} {w v : Bool} (hw : wf i = true) (henc : encode i = encInt1 fn d a w v)
    (htake : takesExt i = a.isImm) (h : ∀ b?, srInt d a b? 0 fn (modeI w v) = some i) : RoundTrips gen i := by
  refine roundTrips_of [a] (henc.trans (by rw [encInt1, htake])) fun e he => decodeScalar_wordOf hw ?_
  rw [scalarForm_int]
  simp only [dst?_code, srTail_b, srTail_fn, srTail_mode, src?_one (htake ▸ he), Option.bind_some]
  exact h _

theorem scalarForm_float : scalarForm e 1 df af lo = (dst? df).bind fun d => (src? e af).bind fun a =>
    srFloat d a (src? e (lo.extractLsb' 11 5)) (lo.extractLsb' 11 5) (lo.extractLsb' 3 8) (lo.extractLsb' 0 3) := rfl

theorem roundTrips_float {fn : BitVec 8} {mode : BitVec 3} (hw : wf i = true) (hext : a.ext + b.ext ≤ 1)
    (henc : encode i = encFloat fn d a b mode) (htake : takesExt i = (a.isImm || b.isImm))
    (h : srFloat d a (some b) b.code fn mode = some i) : RoundTrips gen i := by
  refine roundTrips_of [a, b] (henc.trans (by rw [encFloat, htake])) fun e he => decodeScalar_wordOf hw ?_
  obtain ⟨ha, hb⟩ := src?_two hext (htake ▸ he)
  rw [scalarForm_float]
  simp only [dst?_code, srTail_b, srTail_fn, srTail_mode, ha, hb, Option.bind_some]
  exact h

theorem roundTrips_float1 {fn : BitVec 8} {rm : Rm} (hw : wf i = true) (henc : encode i = encFloat1 fn d a rm)
    (htake : takesExt i = a.isImm) (h : ∀ b?, srFloat d a b? 0 fn (modeF rm) = some i) : RoundTrips gen i := by
  refine roundTrips_of [a] (henc.trans (by rw [encFloat1, htake])) fun e he => decodeScalar_wordOf hw ?_
  rw [scalarForm_float]
  simp only [dst?_code, srTail_b, srTail_fn, srTail_mode, src?_one (htake ▸ he), Option.bind_some]
  exact h _

theorem encThree_fn {sub : BitVec 3} : (c.code ++ sub).extractLsb' 3 5 = c.code ∧ (c.code ++ sub).extractLsb' 0 3 = sub :=
  ⟨(extractLsb'_append_high c.code sub (by decide)).trans (extractLsb'_self c.code),
    (extractLsb'_append_low c.code sub (by decide)).trans (extractLsb'_self sub)⟩

theorem roundTrips_three {sub mode : BitVec 3} (hw : wf i = true) (hext : a.ext + b.ext + c.ext ≤ 1)
    (henc : encode i = encThree sub mode d a b c) (htake : takesExt i = (a.isImm || b.isImm || c.isImm))
    (h : ∀ e fn, src? e (fn.extractLsb' 3 5) = some c → fn.extractLsb' 0 3 = sub → srThree e d a b fn mode = some i) :
    RoundTrips gen i := by
  refine roundTrips_of [a, b, c] (henc.trans (by rw [encThree, htake])) fun e he => decodeScalar_wordOf hw ?_
  obtain ⟨ha, hb, hc⟩ := src?_three hext (htake ▸ he)
  have := h e (c.code ++ sub) (by rw [encThree_fn.1, hc]) encThree_fn.2
  rw [scalarForm_three]
  simp only [dst?_code, srTail_b, srTail_fn, srTail_mode, ha, hb, Option.bind_some]
  exact this

/-! ### Words with operands in A, in D and A, or none -/

theorem roundTrips_encA (hw : wf i = true) (henc : encode i = encA op df a lo) (htake : takesExt i = a.isImm)
    (h : ∀ e, src? e a.code = some a → scalarForm e op df a.code lo = some i) : RoundTrips gen i :=
  roundTrips_of [a] (henc.trans (by rw [encA, htake])) fun e he => decodeScalar_wordOf hw (h e (src?_one (htake ▸ he)))

theorem roundTrips_encDA {v : Src} (hw : wf i = true) (hext : v.ext + a.ext ≤ 1) (henc : encode i = encDA op v a lo)
    (htake : takesExt i = (a.isImm || v.isImm))
    (h : ∀ e, src? e v.code = some v → src? e a.code = some a → scalarForm e op v.code a.code lo = some i) :
    RoundTrips gen i := by
  refine roundTrips_of [a, v] (henc.trans (by rw [encDA, htake])) fun e he => decodeScalar_wordOf hw ?_
  obtain ⟨ha, hv⟩ := src?_two (by omega) (htake ▸ he)
  exact h e hv ha

theorem roundTrips_encSB (hw : wf i = true) (henc : encode i = encSB op a af lo) (htake : takesExt i = a.isImm)
    (h : ∀ e, src? e a.code = some a → scalarForm e op a.code af lo = some i) : RoundTrips gen i :=
  roundTrips_of [a] (henc.trans (by rw [encSB, htake])) fun e he => decodeScalar_wordOf hw (h e (src?_one (htake ▸ he)))

theorem roundTrips_enc0 (hw : wf i = true) (henc : encode i = enc0 op df af lo) (htake : takesExt i = false)
    (h : ∀ e, scalarForm e op df af lo = some i) : RoundTrips gen i :=
  roundTrips_of [] (henc.trans (by rw [enc0, htake]; rfl)) fun e _ => decodeScalar_wordOf hw (h e)

/-- A retired word with an operand in A (R167). -/
theorem roundTrips_retired (hw : wf i = true) (henc : encode i = encA op df a lo) (htake : takesExt i = a.isImm)
    (hn : ∀ e, scalarForm e op df a.code lo = none)
    (h : ∀ e, src? e a.code = some a → retiredForm e gen op df a.code lo = some i) : RoundTrips gen i :=
  roundTrips_of [a] (henc.trans (by rw [encA, htake])) fun e he =>
    decodeScalar_retired hw (hn e) (h e (src?_one (htake ▸ he)))

end

/-! ### What each shape of fields reads back -/

section
variable {e : Word} {a v : Src} {d : Dst} {n : SReg} {imm : Half} {pos l : BitVec 5} {amt : BitVec 6} {cc : Cond}

theorem dstSrc_back {f : Dst → Src → Instr} (ha : src? e a.code = some a) :
    ((dst? d.code).bind fun d => (src? e a.code).map fun a => f d a) = some (f d a) := by
  rw [dst?_code, ha]
  rfl

theorem regSrc_back {f : SReg → Src → Instr} (ha : src? e a.code = some a) :
    ((reg? n.code).bind fun d => (src? e a.code).map fun a => f d a) = some (f n a) := by
  rw [reg?_code, ha]
  rfl

theorem srcSrc_back {f : Src → Src → Instr} (hv : src? e v.code = some v) (ha : src? e a.code = some a) :
    ((src? e v.code).bind fun v => (src? e a.code).map fun a => f v a) = some (f v a) := by
  rw [hv, ha]
  rfl

theorem src_back {f : Src → Instr} (ha : src? e a.code = some a) : ((src? e a.code).map fun a => f a) = some (f a) := by
  rw [ha]
  rfl

theorem shiftField : ((0 : BitVec 10) ++ amt : Half).extractLsb' 6 10 = 0 ∧ ((0 : BitVec 10) ++ amt : Half).extractLsb' 0 6 = amt :=
  ⟨(extractLsb'_append_high (0 : BitVec 10) amt (by decide)).trans (extractLsb'_self _),
    (extractLsb'_append_low (0 : BitVec 10) amt (by decide)).trans (extractLsb'_self amt)⟩

theorem shift_back {f : Dst → Src → BitVec 6 → Instr} (ha : src? e a.code = some a) :
    when? (((0 : BitVec 10) ++ amt : Half).extractLsb' 6 10 == 0) ((dst? d.code).bind fun d => (src? e a.code).map fun a =>
      f d a (((0 : BitVec 10) ++ amt : Half).extractLsb' 0 6)) = some (f d a amt) := by
  rw [shiftField.1, shiftField.2]
  exact dstSrc_back (f := fun d a => f d a amt) ha

theorem bitField : ((0 : BitVec 6) ++ (pos ++ l) : Half).extractLsb' 10 6 = 0 ∧
    ((0 : BitVec 6) ++ (pos ++ l) : Half).extractLsb' 5 5 = pos ∧ ((0 : BitVec 6) ++ (pos ++ l) : Half).extractLsb' 0 5 = l :=
  ⟨(extractLsb'_append_high (0 : BitVec 6) (pos ++ l) (by decide)).trans (extractLsb'_self _),
    (extractLsb'_append_low (0 : BitVec 6) (pos ++ l) (by decide)).trans <|
      (extractLsb'_append_high pos l (by decide)).trans (extractLsb'_self pos),
    (extractLsb'_append_low (0 : BitVec 6) (pos ++ l) (by decide)).trans <|
      (extractLsb'_append_low pos l (by decide)).trans (extractLsb'_self l)⟩

theorem bitField_back {f : Dst → Src → BitVec 5 → BitVec 5 → Instr} (ha : src? e a.code = some a) :
    when? (((0 : BitVec 6) ++ (pos ++ l) : Half).extractLsb' 10 6 == 0) ((dst? d.code).bind fun d => (src? e a.code).map fun a =>
      f d a (((0 : BitVec 6) ++ (pos ++ l) : Half).extractLsb' 5 5) (((0 : BitVec 6) ++ (pos ++ l) : Half).extractLsb' 0 5)) =
      some (f d a pos l) := by
  obtain ⟨h1, h2, h3⟩ := bitField (pos := pos) (l := l)
  rw [h1, h2, h3]
  exact dstSrc_back (f := fun d a => f d a pos l) ha

theorem bfi_back (ha : src? e a.code = some a) :
    scalarForm e 0x11 n.code a.code ((0 : BitVec 6) ++ (pos ++ l)) = some (.bfi n a pos l) := by
  obtain ⟨h1, h2, h3⟩ := bitField (pos := pos) (l := l)
  rw [scalarForm_bfi, h1, h2, h3]
  exact regSrc_back (f := fun n a => .bfi n a pos l) ha

theorem condField {x : BitVec 12} : (cc.code ++ x : Half).extractLsb' 12 4 = cc.code ∧ (cc.code ++ x : Half).extractLsb' 0 12 = x :=
  ⟨(extractLsb'_append_high cc.code x (by decide)).trans (extractLsb'_self cc.code),
    (extractLsb'_append_low cc.code x (by decide)).trans (extractLsb'_self x)⟩

theorem cmpi_back {x : BitVec 12} (ha : src? e a.code = some a) :
    scalarForm e 0x0E d.code a.code (cc.code ++ x) = some (.cmpiCc cc d a x) := by
  rw [scalarForm_cmpi, condField.1, condField.2, cond?_code]
  exact dstSrc_back (f := fun d a => .cmpiCc cc d a x) ha

/-! ### Branches, token words and system words -/

theorem bkField {b : Bool} : ((0 : BitVec 4) ++ bit b : BitVec 5).extractLsb' 1 4 = 0 ∧ ((0 : BitVec 4) ++ bit b : BitVec 5).getLsbD 0 = b := by
  cases b <;> exact ⟨rfl, rfl⟩

theorem bk_back {k : KIn} {b : Bool} {disp : Half} :
    scalarForm e 0x23 k.code ((0 : BitVec 4) ++ bit b) disp = some (.bk k b disp) := by
  change when? (((0 : BitVec 4) ++ bit b : BitVec 5).extractLsb' 1 4 == 0)
    ((kin? k.code).map fun k => Instr.bk k (((0 : BitVec 4) ++ bit b : BitVec 5).getLsbD 0) disp) = _
  rw [bkField.1, bkField.2, kin?_code]
  rfl

theorem bkindFields {q : QIn} {kind lvl : BitVec 3} : ((0 : BitVec 2) ++ kind : BitVec 5).extractLsb' 3 2 = 0 ∧
    ((0 : BitVec 2) ++ kind : BitVec 5).extractLsb' 0 3 = kind ∧
    (lvl ++ BitVec.ofNat 2 q.val : BitVec 5).extractLsb' 0 2 = BitVec.ofNat 2 q.val ∧
    (lvl ++ BitVec.ofNat 2 q.val : BitVec 5).extractLsb' 2 3 = lvl :=
  ⟨(extractLsb'_append_high (0 : BitVec 2) kind (by decide)).trans (extractLsb'_self _),
    (extractLsb'_append_low (0 : BitVec 2) kind (by decide)).trans (extractLsb'_self kind),
    (extractLsb'_append_low lvl (BitVec.ofNat 2 q.val) (by decide)).trans (extractLsb'_self _),
    (extractLsb'_append_high lvl (BitVec.ofNat 2 q.val) (by decide)).trans (extractLsb'_self lvl)⟩

theorem bkind_back {q : QIn} {kind lvl : BitVec 3} {disp : Half} :
    scalarForm e 0x24 (lvl ++ BitVec.ofNat 2 q.val) ((0 : BitVec 2) ++ kind) disp = some (.bkind q kind lvl disp) := by
  change when? (((0 : BitVec 2) ++ kind : BitVec 5).extractLsb' 3 2 == 0)
    (some (Instr.bkind (Fin.ofNat 4 ((lvl ++ BitVec.ofNat 2 q.val : BitVec 5).extractLsb' 0 2).toNat)
      (((0 : BitVec 2) ++ kind : BitVec 5).extractLsb' 0 3) ((lvl ++ BitVec.ofNat 2 q.val : BitVec 5).extractLsb' 2 3) disp)) = _
  obtain ⟨h1, h2, h3, h4⟩ := bkindFields (q := q) (kind := kind) (lvl := lvl)
  rw [h1, h2, h3, h4, qnum_field]
  rfl

theorem repField {len : BitVec 5} : ((0 : BitVec 11) ++ len : Half).extractLsb' 5 11 = 0 ∧ ((0 : BitVec 11) ++ len : Half).extractLsb' 0 5 = len :=
  ⟨(extractLsb'_append_high (0 : BitVec 11) len (by decide)).trans (extractLsb'_self _),
    (extractLsb'_append_low (0 : BitVec 11) len (by decide)).trans (extractLsb'_self len)⟩

theorem rep_back {len : BitVec 5} (ha : src? e a.code = some a) :
    scalarForm e 0x25 a.code 0 ((0 : BitVec 11) ++ len) = some (.rep a len) := by
  change when? (true && ((0 : BitVec 11) ++ len : Half).extractLsb' 5 11 == 0)
    ((src? e a.code).map fun a => Instr.rep a (((0 : BitVec 11) ++ len : Half).extractLsb' 0 5)) = _
  rw [repField.1, repField.2]
  exact src_back (f := fun a => .rep a len) ha

theorem owaitFields {x y z u : BitVec 4} : (x ++ (y ++ (z ++ u)) : Half).extractLsb' 12 4 = x ∧
    (x ++ (y ++ (z ++ u)) : Half).extractLsb' 8 4 = y ∧ (x ++ (y ++ (z ++ u)) : Half).extractLsb' 4 4 = z ∧
    (x ++ (y ++ (z ++ u)) : Half).extractLsb' 0 4 = u :=
  ⟨(extractLsb'_append_high x (y ++ (z ++ u)) (by decide)).trans (extractLsb'_self x),
    (extractLsb'_append_low x (y ++ (z ++ u)) (by decide)).trans <|
      (extractLsb'_append_high y (z ++ u) (by decide)).trans (extractLsb'_self y),
    (extractLsb'_append_low x (y ++ (z ++ u)) (by decide)).trans <|
      (extractLsb'_append_low y (z ++ u) (by decide)).trans <|
        (extractLsb'_append_high z u (by decide)).trans (extractLsb'_self z),
    (extractLsb'_append_low x (y ++ (z ++ u)) (by decide)).trans <|
      (extractLsb'_append_low y (z ++ u) (by decide)).trans <|
        (extractLsb'_append_low z u (by decide)).trans (extractLsb'_self u)⟩

theorem owait_back {x y z u : BitVec 4} : scalarForm e 0x31 0 0 (x ++ (y ++ (z ++ u))) = some (.owait x y z u) := by
  change some (Instr.owait ((x ++ (y ++ (z ++ u)) : Half).extractLsb' 12 4) ((x ++ (y ++ (z ++ u)) : Half).extractLsb' 8 4)
    ((x ++ (y ++ (z ++ u)) : Half).extractLsb' 4 4) ((x ++ (y ++ (z ++ u)) : Half).extractLsb' 0 4)) = _
  obtain ⟨h1, h2, h3, h4⟩ := owaitFields (x := x) (y := y) (z := z) (u := u)
  rw [h1, h2, h3, h4]

variable {df af : BitVec 5} {lvl kind : BitVec 3} {tag : BitVec 10} {sf : BitVec 4} {arg : BitVec 12} {i : Instr}

theorem scalarForm_send (h : sendForm e df af lvl tag kind = some i) : scalarForm e 0x18 df af (stTail lvl tag kind) = some i := by
  change sendForm e df af ((stTail lvl tag kind).extractLsb' 13 3) ((stTail lvl tag kind).extractLsb' 3 10)
    ((stTail lvl tag kind).extractLsb' 0 3) = _
  rw [stTail_lvl, stTail_fn, stTail_kind, h]

theorem scalarForm_token (h : tokenForm e df af lvl tag kind = some i) : scalarForm e 0x19 df af (stTail lvl tag kind) = some i := by
  change tokenForm e df af ((stTail lvl tag kind).extractLsb' 13 3) ((stTail lvl tag kind).extractLsb' 3 10)
    ((stTail lvl tag kind).extractLsb' 0 3) = _
  rw [stTail_lvl, stTail_fn, stTail_kind, h]

theorem scalarForm_sx (h : sxForm e df af sf arg = some i) : scalarForm e 0x30 df af (sxTail sf arg) = some i := by
  change sxForm e df af ((sxTail sf arg).extractLsb' 12 4) ((sxTail sf arg).extractLsb' 0 12) = _
  rw [sxTail_sf, sxTail_arg, h]

theorem crcField {x : BitVec 2} : ((0 : BitVec 10) ++ x : BitVec 12).extractLsb' 2 10 = 0 ∧ ((0 : BitVec 10) ++ x : BitVec 12).extractLsb' 0 2 = x :=
  ⟨(extractLsb'_append_high (0 : BitVec 10) x (by decide)).trans (extractLsb'_self _),
    (extractLsb'_append_low (0 : BitVec 10) x (by decide)).trans (extractLsb'_self x)⟩

theorem crc_back {x : BitVec 2} (ha : src? e a.code = some a) :
    sxForm e n.code a.code 6 ((0 : BitVec 10) ++ x) = some (.crc32c n a x) := by
  change when? (((0 : BitVec 10) ++ x : BitVec 12).extractLsb' 2 10 == 0) ((reg? n.code).bind fun d => (src? e a.code).map fun a =>
    Instr.crc32c d a (((0 : BitVec 10) ++ x : BitVec 12).extractLsb' 0 2)) = _
  rw [crcField.1, crcField.2]
  exact regSrc_back (f := fun n a => .crc32c n a x) ha

theorem amsgField {x : BitVec 4} : ((0 : BitVec 8) ++ x : BitVec 12).extractLsb' 4 8 = 0 ∧ ((0 : BitVec 8) ++ x : BitVec 12).extractLsb' 0 4 = x :=
  ⟨(extractLsb'_append_high (0 : BitVec 8) x (by decide)).trans (extractLsb'_self _),
    (extractLsb'_append_low (0 : BitVec 8) x (by decide)).trans (extractLsb'_self x)⟩

theorem amsg_back {x : BitVec 4} (ha : src? e a.code = some a) (hv : src? e v.code = some v) :
    sxForm e v.code a.code 12 ((0 : BitVec 8) ++ x) = some (.amsg a v x) := by
  change when? (((0 : BitVec 8) ++ x : BitVec 12).extractLsb' 4 8 == 0) ((src? e a.code).bind fun a => (src? e v.code).map fun d =>
    Instr.amsg a d (((0 : BitVec 8) ++ x : BitVec 12).extractLsb' 0 4)) = _
  rw [amsgField.1, amsgField.2]
  exact srcSrc_back (f := fun a v => .amsg a v x) ha hv

theorem qpopField {b : Bool} {x : BitVec 4} : ((0 : BitVec 7) ++ (bit b ++ x) : BitVec 12).extractLsb' 5 7 = 0 ∧
    ((0 : BitVec 7) ++ (bit b ++ x) : BitVec 12).getLsbD 4 = b ∧ ((0 : BitVec 7) ++ (bit b ++ x) : BitVec 12).extractLsb' 0 4 = x := by
  refine ⟨(extractLsb'_append_high (0 : BitVec 7) (bit b ++ x) (by decide)).trans (extractLsb'_self _), ?_,
    (extractLsb'_append_low (0 : BitVec 7) (bit b ++ x) (by decide)).trans <|
      (extractLsb'_append_low (bit b) x (by decide)).trans (extractLsb'_self x)⟩
  rw [BitVec.getLsbD_append, BitVec.getLsbD_append]
  exact getLsbD_bit

theorem qpop_back {b : Bool} {x : BitVec 4} : sxForm e d.code 0 10 ((0 : BitVec 7) ++ (bit b ++ x)) = some (.qpop d b x) := by
  change when? (true && ((0 : BitVec 7) ++ (bit b ++ x) : BitVec 12).extractLsb' 5 7 == 0) ((dst? d.code).map fun d =>
    Instr.qpop d (((0 : BitVec 7) ++ (bit b ++ x) : BitVec 12).getLsbD 4) (((0 : BitVec 7) ++ (bit b ++ x) : BitVec 12).extractLsb' 0 4)) = _
  obtain ⟨h1, h2, h3⟩ := qpopField (b := b) (x := x)
  rw [h1, h2, h3, dst?_code]
  rfl

end

end Sys2Proof.Machine

namespace Sys2Proof.Machine

/-! ## Every scalar instruction comes back from its words -/

section
variable {gen : Nat} {i : Instr} {e : Word} {a b c : Src} {d : Dst} {n : SReg}

/-- A well-formed word has at most one immediate operand (R88). -/
theorem ext_le_of_wf {m : Nat} {v : Bool} (h : (decide (m ≤ 1) && v) = true) : m ≤ 1 :=
  of_decide_eq_true ((Bool.and_eq_true _ _).mp h).1

theorem cmp_ext {cc : Cond} {w : Bool} (hw : wf (.cmpCc cc d a b w) = true) : a.ext + b.ext ≤ 1 := by
  simp only [wf, wfScalar, wfVector, Bool.and_true, Bool.and_eq_true, decide_eq_true_eq] at hw
  exact hw.2

theorem fcmp_ext {cc : Cond} (hw : wf (.fcmpCc cc d a b) = true) : a.ext + b.ext ≤ 1 := by
  simp only [wf, wfScalar, wfVector, Bool.and_true, Bool.and_eq_true, decide_eq_true_eq] at hw
  exact hw.2

theorem amo_ext {fn : RmwFn} {w v : Bool} (hw : wf (.amo fn n a b w v) = true) : a.ext + b.ext ≤ 1 := by
  simp only [wf, wfScalar, wfVector, Bool.and_true, Bool.and_eq_true, decide_eq_true_eq] at hw
  exact hw.1.1

theorem sel_back {fn : BitVec 8} {w : Bool} (hc : src? e (fn.extractLsb' 3 5) = some c) (hf : fn.extractLsb' 0 3 = 0) :
    srThree e d a b fn (modeI w false) = some (.sel d a b c w) := by
  rw [srThree, hc, hf]
  cases w <;> rfl

theorem fma_back {fn : BitVec 8} {rm : Rm} (hc : src? e (fn.extractLsb' 3 5) = some c) (hf : fn.extractLsb' 0 3 = 1) :
    srThree e d a b fn (modeF rm) = some (.fma d a b c rm) := by
  rw [srThree, hc, hf]
  cases rm <;> rfl

theorem scalarForm_amo {df af : BitVec 5} {lo : Half} : scalarForm e 3 df af lo =
    when? (!(lo.extractLsb' 0 3).getLsbD 2) ((reg? df).bind fun d => (src? e af).bind fun a =>
      (src? e (lo.extractLsb' 11 5)).bind fun b => (rmwFn? (lo.extractLsb' 3 8).toNat).map fun f =>
        .amo f d a b ((lo.extractLsb' 0 3).getLsbD 0) ((lo.extractLsb' 0 3).getLsbD 1)) := rfl

theorem roundTrips_amo {fn : RmwFn} {w v : Bool} (hw : wf (.amo fn n a b w v) = true) :
    RoundTrips gen (.amo fn n a b w v) := by
  refine roundTrips_of (w := wordOf 0x03 n.code a.code (srTail b.code fn.code (modeI w v))) [a, b] rfl
    fun e he => decodeScalar_wordOf hw ?_
  obtain ⟨ha, hb⟩ := src?_two (amo_ext hw) he
  rw [scalarForm_amo]
  simp only [reg?_code, srTail_b, srTail_fn, srTail_mode, ha, hb, modeI_0, modeI_1, modeI_2, rmwFn?_code, Option.bind_some]
  rfl

theorem retiredForm_fdiv {df af : BitVec 5} {lo : Half} : retiredForm e 1 0x14 df af lo =
    when? (lo.extractLsb' 3 8 == 0) ((dst? df).bind fun d => (src? e af).bind fun a =>
      (src? e (lo.extractLsb' 11 5)).bind fun b => (rm? (lo.extractLsb' 0 3)).map fun rm => .fdiv d a b rm) := rfl

theorem scalarForm_fdiv {df af : BitVec 5} {lo : Half} : scalarForm e 0x14 df af lo = none := rfl

theorem roundTrips_fdiv {rm : Rm} (hw : wf (.fdiv d a b rm) = true) (hg : gen = 1) : RoundTrips gen (.fdiv d a b rm) := by
  have hext : a.ext + b.ext ≤ 1 := ext_le_of_wf hw
  subst hg
  refine roundTrips_of (w := wordOf 0x14 d.code a.code (srTail b.code 0 (modeF rm))) [a, b] rfl
    fun e he => decodeScalar_retired hw scalarForm_fdiv ?_
  obtain ⟨ha, hb⟩ := src?_two hext he
  rw [retiredForm_fdiv, srTail_b, srTail_fn, srTail_mode, dst?_code, ha, hb, modeF, rm?_code]
  rfl

theorem roundTrips_add {w : Bool} {v : Bool} (hw : wf (.add d a b w v) = true) : RoundTrips gen (.add d a b w v) :=
  roundTrips_int hw (ext_le_of_wf hw) rfl rfl (by cases w <;> cases v <;> rfl)
theorem roundTrips_sub {w : Bool} {v : Bool} (hw : wf (.sub d a b w v) = true) : RoundTrips gen (.sub d a b w v) :=
  roundTrips_int hw (ext_le_of_wf hw) rfl rfl (by cases w <;> cases v <;> rfl)
theorem roundTrips_mul {w : Bool} {v : Bool} (hw : wf (.mul d a b w v) = true) : RoundTrips gen (.mul d a b w v) :=
  roundTrips_int hw (ext_le_of_wf hw) rfl rfl (by cases w <;> cases v <;> rfl)
theorem roundTrips_div {w : Bool} {v : Bool} (hw : wf (.div d a b w v) = true) : RoundTrips gen (.div d a b w v) :=
  roundTrips_int hw (ext_le_of_wf hw) rfl rfl (by cases w <;> cases v <;> rfl)
theorem roundTrips_adds {w : Bool} (hw : wf (.adds d a b w) = true) : RoundTrips gen (.adds d a b w) :=
  roundTrips_int hw (ext_le_of_wf hw) rfl rfl (by cases w <;> rfl)
theorem roundTrips_subs {w : Bool} (hw : wf (.subs d a b w) = true) : RoundTrips gen (.subs d a b w) :=
  roundTrips_int hw (ext_le_of_wf hw) rfl rfl (by cases w <;> rfl)
theorem roundTrips_mulh {w : Bool} (hw : wf (.mulh d a b w) = true) : RoundTrips gen (.mulh d a b w) :=
  roundTrips_int hw (ext_le_of_wf hw) rfl rfl (by cases w <;> rfl)
theorem roundTrips_mulhu {w : Bool} (hw : wf (.mulhu d a b w) = true) : RoundTrips gen (.mulhu d a b w) :=
  roundTrips_int hw (ext_le_of_wf hw) rfl rfl (by cases w <;> rfl)
theorem roundTrips_divu {w : Bool} (hw : wf (.divu d a b w) = true) : RoundTrips gen (.divu d a b w) :=
  roundTrips_int hw (ext_le_of_wf hw) rfl rfl (by cases w <;> rfl)
theorem roundTrips_rem {w : Bool} (hw : wf (.rem d a b w) = true) : RoundTrips gen (.rem d a b w) :=
  roundTrips_int hw (ext_le_of_wf hw) rfl rfl (by cases w <;> rfl)
theorem roundTrips_remu {w : Bool} (hw : wf (.remu d a b w) = true) : RoundTrips gen (.remu d a b w) :=
  roundTrips_int hw (ext_le_of_wf hw) rfl rfl (by cases w <;> rfl)
theorem roundTrips_and {w : Bool} (hw : wf (.and d a b w) = true) : RoundTrips gen (.and d a b w) :=
  roundTrips_int hw (ext_le_of_wf hw) rfl rfl (by cases w <;> rfl)
theorem roundTrips_or {w : Bool} (hw : wf (.or d a b w) = true) : RoundTrips gen (.or d a b w) :=
  roundTrips_int hw (ext_le_of_wf hw) rfl rfl (by cases w <;> rfl)
theorem roundTrips_xor {w : Bool} (hw : wf (.xor d a b w) = true) : RoundTrips gen (.xor d a b w) :=
  roundTrips_int hw (ext_le_of_wf hw) rfl rfl (by cases w <;> rfl)
theorem roundTrips_andn {w : Bool} (hw : wf (.andn d a b w) = true) : RoundTrips gen (.andn d a b w) :=
  roundTrips_int hw (ext_le_of_wf hw) rfl rfl (by cases w <;> rfl)
theorem roundTrips_shl {w : Bool} (hw : wf (.shl d a b w) = true) : RoundTrips gen (.shl d a b w) :=
  roundTrips_int hw (ext_le_of_wf hw) rfl rfl (by cases w <;> rfl)
theorem roundTrips_shr {w : Bool} (hw : wf (.shr d a b w) = true) : RoundTrips gen (.shr d a b w) :=
  roundTrips_int hw (ext_le_of_wf hw) rfl rfl (by cases w <;> rfl)
theorem roundTrips_sra {w : Bool} (hw : wf (.sra d a b w) = true) : RoundTrips gen (.sra d a b w) :=
  roundTrips_int hw (ext_le_of_wf hw) rfl rfl (by cases w <;> rfl)
theorem roundTrips_rotl {w : Bool} (hw : wf (.rotl d a b w) = true) : RoundTrips gen (.rotl d a b w) :=
  roundTrips_int hw (ext_le_of_wf hw) rfl rfl (by cases w <;> rfl)
theorem roundTrips_min {w : Bool} (hw : wf (.min d a b w) = true) : RoundTrips gen (.min d a b w) :=
  roundTrips_int hw (ext_le_of_wf hw) rfl rfl (by cases w <;> rfl)
theorem roundTrips_max {w : Bool} (hw : wf (.max d a b w) = true) : RoundTrips gen (.max d a b w) :=
  roundTrips_int hw (ext_le_of_wf hw) rfl rfl (by cases w <;> rfl)
theorem roundTrips_minu {w : Bool} (hw : wf (.minu d a b w) = true) : RoundTrips gen (.minu d a b w) :=
  roundTrips_int hw (ext_le_of_wf hw) rfl rfl (by cases w <;> rfl)
theorem roundTrips_maxu {w : Bool} (hw : wf (.maxu d a b w) = true) : RoundTrips gen (.maxu d a b w) :=
  roundTrips_int hw (ext_le_of_wf hw) rfl rfl (by cases w <;> rfl)
theorem roundTrips_abs {w : Bool} {v : Bool} (hw : wf (.abs d a w v) = true) : RoundTrips gen (.abs d a w v) :=
  roundTrips_int1 hw rfl rfl fun b? => by cases w <;> cases v <;> rfl
theorem roundTrips_clz {w : Bool} (hw : wf (.clz d a w) = true) : RoundTrips gen (.clz d a w) :=
  roundTrips_int1 hw rfl rfl fun b? => by cases w <;> rfl
theorem roundTrips_ctz {w : Bool} (hw : wf (.ctz d a w) = true) : RoundTrips gen (.ctz d a w) :=
  roundTrips_int1 hw rfl rfl fun b? => by cases w <;> rfl
theorem roundTrips_popc {w : Bool} (hw : wf (.popc d a w) = true) : RoundTrips gen (.popc d a w) :=
  roundTrips_int1 hw rfl rfl fun b? => by cases w <;> rfl
theorem roundTrips_cmpCc {cc : Cond} {w : Bool} (hw : wf (.cmpCc cc d a b w) = true) : RoundTrips gen (.cmpCc cc d a b w) :=
  roundTrips_int hw (cmp_ext hw) rfl rfl (by cases w <;> cases cc <;> rfl)

theorem roundTrips_fadd {rm : Rm} (hw : wf (.fadd d a b rm) = true) : RoundTrips gen (.fadd d a b rm) :=
  roundTrips_float hw (ext_le_of_wf hw) rfl rfl (by cases rm <;> rfl)
theorem roundTrips_fmul {rm : Rm} (hw : wf (.fmul d a b rm) = true) : RoundTrips gen (.fmul d a b rm) :=
  roundTrips_float hw (ext_le_of_wf hw) rfl rfl (by cases rm <;> rfl)
theorem roundTrips_fmin (hw : wf (.fmin d a b) = true) : RoundTrips gen (.fmin d a b) :=
  roundTrips_float hw (ext_le_of_wf hw) rfl rfl rfl
theorem roundTrips_fmax (hw : wf (.fmax d a b) = true) : RoundTrips gen (.fmax d a b) :=
  roundTrips_float hw (ext_le_of_wf hw) rfl rfl rfl
theorem roundTrips_fcvtSW {rm : Rm} (hw : wf (.fcvtSW d a rm) = true) : RoundTrips gen (.fcvtSW d a rm) :=
  roundTrips_float1 hw rfl rfl fun b? => by cases rm <;> rfl
theorem roundTrips_fcvtSWu {rm : Rm} (hw : wf (.fcvtSWu d a rm) = true) : RoundTrips gen (.fcvtSWu d a rm) :=
  roundTrips_float1 hw rfl rfl fun b? => by cases rm <;> rfl
theorem roundTrips_fcvtWS {rm : Rm} (hw : wf (.fcvtWS d a rm) = true) : RoundTrips gen (.fcvtWS d a rm) :=
  roundTrips_float1 hw rfl rfl fun b? => by cases rm <;> rfl
theorem roundTrips_fcvtWuS {rm : Rm} (hw : wf (.fcvtWuS d a rm) = true) : RoundTrips gen (.fcvtWuS d a rm) :=
  roundTrips_float1 hw rfl rfl fun b? => by cases rm <;> rfl
theorem roundTrips_fcmpCc {cc : Cond} (hw : wf (.fcmpCc cc d a b) = true) : RoundTrips gen (.fcmpCc cc d a b) :=
  roundTrips_float hw (fcmp_ext hw) rfl rfl (by cases cc <;> rfl)
theorem roundTrips_sel {w : Bool} (hw : wf (.sel d a b c w) = true) : RoundTrips gen (.sel d a b c w) :=
  roundTrips_three hw (ext_le_of_wf hw) rfl rfl (fun e fn => sel_back)
theorem roundTrips_fma {rm : Rm} (hw : wf (.fma d a b c rm) = true) : RoundTrips gen (.fma d a b c rm) :=
  roundTrips_three hw (ext_le_of_wf hw) rfl rfl (fun e fn => fma_back)

theorem roundTrips_addi {imm : Half} (hw : wf (.addi d a imm) = true) : RoundTrips gen (.addi d a imm) :=
  roundTrips_encA hw rfl rfl fun e ha => dstSrc_back (f := fun d a => .addi d a imm) ha
theorem roundTrips_andi {imm : Half} (hw : wf (.andi d a imm) = true) : RoundTrips gen (.andi d a imm) :=
  roundTrips_encA hw rfl rfl fun e ha => dstSrc_back (f := fun d a => .andi d a imm) ha
theorem roundTrips_ori {imm : Half} (hw : wf (.ori d a imm) = true) : RoundTrips gen (.ori d a imm) :=
  roundTrips_encA hw rfl rfl fun e ha => dstSrc_back (f := fun d a => .ori d a imm) ha
theorem roundTrips_xori {imm : Half} (hw : wf (.xori d a imm) = true) : RoundTrips gen (.xori d a imm) :=
  roundTrips_encA hw rfl rfl fun e ha => dstSrc_back (f := fun d a => .xori d a imm) ha
theorem roundTrips_shli {amt : BitVec 6} (hw : wf (.shli d a amt) = true) : RoundTrips gen (.shli d a amt) :=
  roundTrips_encA hw rfl rfl fun e ha => shift_back (f := .shli) ha
theorem roundTrips_shri {amt : BitVec 6} (hw : wf (.shri d a amt) = true) : RoundTrips gen (.shri d a amt) :=
  roundTrips_encA hw rfl rfl fun e ha => shift_back (f := .shri) ha
theorem roundTrips_srai {amt : BitVec 6} (hw : wf (.srai d a amt) = true) : RoundTrips gen (.srai d a amt) :=
  roundTrips_encA hw rfl rfl fun e ha => shift_back (f := .srai) ha
theorem roundTrips_li {imm : Half} (hw : wf (.li d imm) = true) : RoundTrips gen (.li d imm) :=
  roundTrips_enc0 hw rfl rfl fun e => by rw [scalarForm_li, dst?_code]; rfl
theorem roundTrips_lih {imm : Half} (hw : wf (.lih n imm) = true) : RoundTrips gen (.lih n imm) :=
  roundTrips_enc0 hw rfl rfl fun e => by rw [scalarForm_lih, reg?_code]; rfl
theorem roundTrips_cmpiCc {cc : Cond} {imm : BitVec 12} (hw : wf (.cmpiCc cc d a imm) = true) : RoundTrips gen (.cmpiCc cc d a imm) :=
  roundTrips_encA hw rfl rfl fun e ha => cmpi_back ha
theorem roundTrips_bfx {pos : BitVec 5} {l : BitVec 5} (hw : wf (.bfx d a pos l) = true) : RoundTrips gen (.bfx d a pos l) :=
  roundTrips_encA hw rfl rfl fun e ha => bitField_back (f := .bfx) ha
theorem roundTrips_bfxu {pos : BitVec 5} {l : BitVec 5} (hw : wf (.bfxu d a pos l) = true) : RoundTrips gen (.bfxu d a pos l) :=
  roundTrips_encA hw rfl rfl fun e ha => bitField_back (f := .bfxu) ha
theorem roundTrips_bfi {pos : BitVec 5} {l : BitVec 5} (hw : wf (.bfi n a pos l) = true) : RoundTrips gen (.bfi n a pos l) :=
  roundTrips_encA hw rfl rfl fun e ha => bfi_back ha
theorem roundTrips_br {disp : Half} (hw : wf (.br disp) = true) : RoundTrips gen (.br disp) :=
  roundTrips_enc0 hw rfl rfl fun e => rfl
theorem roundTrips_bz {disp : Half} (hw : wf (.bz a disp) = true) : RoundTrips gen (.bz a disp) :=
  roundTrips_encSB hw rfl rfl fun e ha => src_back (f := fun a => .bz a disp) ha
theorem roundTrips_bnz {disp : Half} (hw : wf (.bnz a disp) = true) : RoundTrips gen (.bnz a disp) :=
  roundTrips_encSB hw rfl rfl fun e ha => src_back (f := fun a => .bnz a disp) ha
theorem roundTrips_bk {k : KIn} {v : Bool} {disp : Half} (hw : wf (.bk k v disp) = true) : RoundTrips gen (.bk k v disp) :=
  roundTrips_enc0 hw rfl rfl fun e => bk_back
theorem roundTrips_bkind {q : QIn} {kind : BitVec 3} {lvl : BitVec 3} {disp : Half} (hw : wf (.bkind q kind lvl disp) = true) : RoundTrips gen (.bkind q kind lvl disp) :=
  roundTrips_enc0 hw rfl rfl fun e => bkind_back
theorem roundTrips_rep {len : BitVec 5} (hw : wf (.rep a len) = true) : RoundTrips gen (.rep a len) :=
  roundTrips_encSB hw rfl rfl fun e ha => rep_back ha
theorem roundTrips_endCell (hw : wf (.endCell) = true) : RoundTrips gen (.endCell) :=
  roundTrips_enc0 hw rfl rfl fun e => rfl
theorem roundTrips_ldB {off : Half} (hw : wf (.ldB n a off) = true) : RoundTrips gen (.ldB n a off) :=
  roundTrips_encA hw rfl rfl fun e ha => regSrc_back (f := fun n a => .ldB n a off) ha
theorem roundTrips_ldH {off : Half} (hw : wf (.ldH n a off) = true) : RoundTrips gen (.ldH n a off) :=
  roundTrips_encA hw rfl rfl fun e ha => regSrc_back (f := fun n a => .ldH n a off) ha
theorem roundTrips_ldW {off : Half} (hw : wf (.ldW n a off) = true) : RoundTrips gen (.ldW n a off) :=
  roundTrips_encA hw rfl rfl fun e ha => regSrc_back (f := fun n a => .ldW n a off) ha
theorem roundTrips_ldD {off : Half} (hw : wf (.ldD n a off) = true) : RoundTrips gen (.ldD n a off) :=
  roundTrips_encA hw rfl rfl fun e ha => regSrc_back (f := fun n a => .ldD n a off) ha
theorem roundTrips_stB {v : Src} {off : Half} (hw : wf (.stB v a off) = true) : RoundTrips gen (.stB v a off) :=
  roundTrips_encDA hw (ext_le_of_wf hw) rfl (Bool.or_comm _ _)
    fun e hv ha => srcSrc_back (f := fun v a => .stB v a off) hv ha
theorem roundTrips_stH {v : Src} {off : Half} (hw : wf (.stH v a off) = true) : RoundTrips gen (.stH v a off) :=
  roundTrips_encDA hw (ext_le_of_wf hw) rfl (Bool.or_comm _ _)
    fun e hv ha => srcSrc_back (f := fun v a => .stH v a off) hv ha
theorem roundTrips_stW {v : Src} {off : Half} (hw : wf (.stW v a off) = true) : RoundTrips gen (.stW v a off) :=
  roundTrips_encDA hw (ext_le_of_wf hw) rfl (Bool.or_comm _ _)
    fun e hv ha => srcSrc_back (f := fun v a => .stW v a off) hv ha
theorem roundTrips_stD {v : Src} {off : Half} (hw : wf (.stD v a off) = true) : RoundTrips gen (.stD v a off) :=
  roundTrips_encDA hw (ext_le_of_wf hw) rfl (Bool.or_comm _ _)
    fun e hv ha => srcSrc_back (f := fun v a => .stD v a off) hv ha
theorem roundTrips_owait {x : BitVec 4} {y : BitVec 4} {z : BitVec 4} {u : BitVec 4} (hw : wf (.owait x y z u) = true) : RoundTrips gen (.owait x y z u) :=
  roundTrips_enc0 hw rfl rfl fun e => owait_back

theorem roundTrips_send {o : OPort} {tag : BitVec 10} (hw : wf (.send o a tag) = true) : RoundTrips gen (.send o a tag) :=
  roundTrips_encA hw rfl rfl fun e ha => scalarForm_send (by simp [sendForm, when?, ha])
theorem roundTrips_sendstop {o : OPort} {lvl : BitVec 3} {tag : BitVec 10} (hw : wf (.sendstop o lvl tag) = true) : RoundTrips gen (.sendstop o lvl tag) :=
  roundTrips_enc0 hw rfl rfl fun e => scalarForm_send (by simp [sendForm, when?])
theorem roundTrips_senddone {o : OPort} {tag : BitVec 10} (hw : wf (.senddone o tag) = true) : RoundTrips gen (.senddone o tag) :=
  roundTrips_enc0 hw rfl rfl fun e => scalarForm_send (by simp [sendForm, when?])
theorem roundTrips_recv {q : QIn} (hw : wf (.recv d q) = true) : RoundTrips gen (.recv d q) :=
  roundTrips_enc0 hw rfl rfl fun e => scalarForm_token (by simp [tokenForm, when?])
theorem roundTrips_peek {q : QIn} (hw : wf (.peek n q) = true) : RoundTrips gen (.peek n q) :=
  roundTrips_enc0 hw rfl rfl fun e => scalarForm_token (by simp [tokenForm, when?])
theorem roundTrips_drop {q : QIn} (hw : wf (.drop q) = true) : RoundTrips gen (.drop q) :=
  roundTrips_enc0 hw rfl rfl fun e => scalarForm_token (by simp [tokenForm, when?])
theorem roundTrips_collect {o : OPort} {q : QIn} (hw : wf (.collect o q) = true) : RoundTrips gen (.collect o q) :=
  roundTrips_enc0 hw rfl rfl fun e => scalarForm_token (by simp [tokenForm, when?])
theorem roundTrips_amerge {o : OPort} (hw : wf (.amerge o) = true) : RoundTrips gen (.amerge o) :=
  roundTrips_enc0 hw rfl rfl fun e => scalarForm_token (by simp [tokenForm, when?])
theorem roundTrips_tagseq {o : OPort} {q : QIn} (hw : wf (.tagseq o q) = true) : RoundTrips gen (.tagseq o q) :=
  roundTrips_enc0 hw rfl rfl fun e => scalarForm_token (by simp [tokenForm, when?])
theorem roundTrips_kwait {k : KIn} (hw : wf (.kwait k) = true) : RoundTrips gen (.kwait k) :=
  roundTrips_enc0 hw rfl rfl fun e => scalarForm_token (by simp [tokenForm, when?])
theorem roundTrips_steer {q : QIn} (hw : wf (.steer q c) = true) : RoundTrips gen (.steer q c) :=
  roundTrips_of [c] rfl fun e he => decodeScalar_wordOf hw (scalarForm_token (by
    simp [tokenForm, when?, src?_one (e := e) (a := c) he]))
theorem roundTrips_merge {o : OPort} (hw : wf (.merge o c) = true) : RoundTrips gen (.merge o c) :=
  roundTrips_encA hw rfl rfl fun e ha => scalarForm_token (by simp [tokenForm, when?, ha])
theorem roundTrips_repl (hw : wf (.repl a) = true) : RoundTrips gen (.repl a) :=
  roundTrips_encA hw rfl rfl fun e ha => scalarForm_token (by simp [tokenForm, when?, ha])
theorem roundTrips_kout (hw : wf (.kout a) = true) : RoundTrips gen (.kout a) :=
  roundTrips_encA hw rfl rfl fun e ha => scalarForm_token (by simp [tokenForm, when?, ha])
theorem roundTrips_rfetch (hw : wf (.rfetch n a) = true) : RoundTrips gen (.rfetch n a) :=
  roundTrips_encA hw rfl rfl fun e ha => scalarForm_sx (by simp [sxForm, when?, ha])
theorem roundTrips_swait (hw : wf (.swait a) = true) : RoundTrips gen (.swait a) :=
  roundTrips_encA hw rfl rfl fun e ha => scalarForm_sx (by simp [sxForm, when?, ha])
theorem roundTrips_dispatch (hw : wf (.dispatch a) = true) : RoundTrips gen (.dispatch a) :=
  roundTrips_encA hw rfl rfl fun e ha => scalarForm_sx (by simp [sxForm, when?, ha])
theorem roundTrips_csrw {r : BitVec 12} (hw : wf (.csrw a r) = true) : RoundTrips gen (.csrw a r) :=
  roundTrips_encA hw rfl rfl fun e ha => scalarForm_sx (by simp [sxForm, when?, ha])
theorem roundTrips_tlwait {r : BitVec 12} (hw : wf (.tlwait a r) = true) : RoundTrips gen (.tlwait a r) :=
  roundTrips_encA hw rfl rfl fun e ha => scalarForm_sx (by simp [sxForm, when?, ha])
theorem roundTrips_cfgw {d : Src} (hw : wf (.cfgw a d) = true) : RoundTrips gen (.cfgw a d) :=
  roundTrips_encDA hw (by rw [Nat.add_comm]; exact ext_le_of_wf hw) rfl rfl fun e hd ha =>
    scalarForm_sx (by simp [sxForm, when?, ha, hd])
theorem roundTrips_vfSet {d : Src} (hw : wf (.vfSet a d) = true) : RoundTrips gen (.vfSet a d) :=
  roundTrips_encDA hw (by rw [Nat.add_comm]; exact ext_le_of_wf hw) rfl rfl fun e hd ha =>
    scalarForm_sx (by simp [sxForm, when?, ha, hd])
theorem roundTrips_amsg {d : Src} {t : BitVec 4} (hw : wf (.amsg a d t) = true) : RoundTrips gen (.amsg a d t) :=
  roundTrips_encDA hw (by rw [Nat.add_comm]; exact ext_le_of_wf hw) rfl rfl fun e hd ha =>
    scalarForm_sx (amsg_back ha hd)
theorem roundTrips_crc32c {x : BitVec 2} (hw : wf (.crc32c n a x) = true) : RoundTrips gen (.crc32c n a x) :=
  roundTrips_encA hw rfl rfl fun e ha => scalarForm_sx (crc_back ha)
theorem roundTrips_csrr {r : BitVec 12} (hw : wf (.csrr n r) = true) : RoundTrips gen (.csrr n r) :=
  roundTrips_enc0 hw rfl rfl fun e => scalarForm_sx (by simp [sxForm, when?])
theorem roundTrips_qpop {nb : Bool} {n : BitVec 4} (hw : wf (.qpop d nb n) = true) : RoundTrips gen (.qpop d nb n) :=
  roundTrips_enc0 hw rfl rfl fun e => scalarForm_sx qpop_back
theorem roundTrips_trap {c : BitVec 12} (hw : wf (.trap c) = true) : RoundTrips gen (.trap c) :=
  roundTrips_enc0 hw rfl rfl fun e => scalarForm_sx rfl
theorem roundTrips_eret (hw : wf (.eret) = true) : RoundTrips gen (.eret) :=
  roundTrips_enc0 hw rfl rfl fun e => scalarForm_sx rfl
theorem roundTrips_halt (hw : wf (.halt) = true) : RoundTrips gen (.halt) :=
  roundTrips_enc0 hw rfl rfl fun e => scalarForm_sx rfl
theorem roundTrips_spawn {r : BitVec 12} (hw : wf (.spawn r) = true) : RoundTrips gen (.spawn r) :=
  roundTrips_enc0 hw rfl rfl fun e => scalarForm_sx rfl
theorem roundTrips_wrapCommit (hw : wf (.wrapCommit) = true) : RoundTrips gen (.wrapCommit) :=
  roundTrips_enc0 hw rfl rfl fun e => scalarForm_sx rfl

theorem roundTrips_mov (hw : wf (.mov d a) = true) (hi : inGen gen (.mov d a) = true) : RoundTrips gen (.mov d a) :=
  roundTrips_retired hw rfl rfl (fun _ => rfl) fun e ha => by
    simp only [inGen] at hi
    simp [retiredForm, when?, hi, ha]
theorem roundTrips_neg (hw : wf (.neg d a) = true) (hi : inGen gen (.neg d a) = true) : RoundTrips gen (.neg d a) :=
  roundTrips_retired hw rfl rfl (fun _ => rfl) fun e ha => by
    simp only [inGen] at hi
    simp [retiredForm, when?, hi, ha]
theorem roundTrips_bswap (hw : wf (.bswap d a) = true) (hi : inGen gen (.bswap d a) = true) : RoundTrips gen (.bswap d a) :=
  roundTrips_retired hw rfl rfl (fun _ => rfl) fun e ha => by
    simp only [inGen] at hi
    simp [retiredForm, when?, hi, ha]
theorem roundTrips_clip8 (hw : wf (.clip8 n a) = true) (hi : inGen gen (.clip8 n a) = true) : RoundTrips gen (.clip8 n a) :=
  roundTrips_retired hw rfl rfl (fun _ => rfl) fun e ha => by
    simp only [inGen] at hi
    simp [retiredForm, when?, hi, ha]

/-- Every scalar instruction within its limits, under every generation that has it. -/
theorem roundTrips_of_wf (hw : wf i = true) (hi : inGen gen i = true) : RoundTrips gen i := by
  cases i with
  | add => exact roundTrips_add hw
  | sub => exact roundTrips_sub hw
  | mul => exact roundTrips_mul hw
  | div => exact roundTrips_div hw
  | adds => exact roundTrips_adds hw
  | subs => exact roundTrips_subs hw
  | mulh => exact roundTrips_mulh hw
  | mulhu => exact roundTrips_mulhu hw
  | divu => exact roundTrips_divu hw
  | rem => exact roundTrips_rem hw
  | remu => exact roundTrips_remu hw
  | and => exact roundTrips_and hw
  | or => exact roundTrips_or hw
  | xor => exact roundTrips_xor hw
  | andn => exact roundTrips_andn hw
  | shl => exact roundTrips_shl hw
  | shr => exact roundTrips_shr hw
  | sra => exact roundTrips_sra hw
  | rotl => exact roundTrips_rotl hw
  | min => exact roundTrips_min hw
  | max => exact roundTrips_max hw
  | minu => exact roundTrips_minu hw
  | maxu => exact roundTrips_maxu hw
  | abs => exact roundTrips_abs hw
  | clz => exact roundTrips_clz hw
  | ctz => exact roundTrips_ctz hw
  | popc => exact roundTrips_popc hw
  | cmpCc => exact roundTrips_cmpCc hw
  | fadd => exact roundTrips_fadd hw
  | fmul => exact roundTrips_fmul hw
  | fmin => exact roundTrips_fmin hw
  | fmax => exact roundTrips_fmax hw
  | fcvtSW => exact roundTrips_fcvtSW hw
  | fcvtSWu => exact roundTrips_fcvtSWu hw
  | fcvtWS => exact roundTrips_fcvtWS hw
  | fcvtWuS => exact roundTrips_fcvtWuS hw
  | fcmpCc => exact roundTrips_fcmpCc hw
  | sel => exact roundTrips_sel hw
  | fma => exact roundTrips_fma hw
  | amo => exact roundTrips_amo hw
  | addi => exact roundTrips_addi hw
  | andi => exact roundTrips_andi hw
  | ori => exact roundTrips_ori hw
  | xori => exact roundTrips_xori hw
  | shli => exact roundTrips_shli hw
  | shri => exact roundTrips_shri hw
  | srai => exact roundTrips_srai hw
  | li => exact roundTrips_li hw
  | lih => exact roundTrips_lih hw
  | cmpiCc => exact roundTrips_cmpiCc hw
  | bfx => exact roundTrips_bfx hw
  | bfxu => exact roundTrips_bfxu hw
  | bfi => exact roundTrips_bfi hw
  | br => exact roundTrips_br hw
  | bz => exact roundTrips_bz hw
  | bnz => exact roundTrips_bnz hw
  | bk => exact roundTrips_bk hw
  | bkind => exact roundTrips_bkind hw
  | rep => exact roundTrips_rep hw
  | endCell => exact roundTrips_endCell hw
  | ldB => exact roundTrips_ldB hw
  | ldH => exact roundTrips_ldH hw
  | ldW => exact roundTrips_ldW hw
  | ldD => exact roundTrips_ldD hw
  | stB => exact roundTrips_stB hw
  | stH => exact roundTrips_stH hw
  | stW => exact roundTrips_stW hw
  | stD => exact roundTrips_stD hw
  | owait => exact roundTrips_owait hw
  | send => exact roundTrips_send hw
  | sendstop => exact roundTrips_sendstop hw
  | senddone => exact roundTrips_senddone hw
  | recv => exact roundTrips_recv hw
  | peek => exact roundTrips_peek hw
  | drop => exact roundTrips_drop hw
  | collect => exact roundTrips_collect hw
  | amerge => exact roundTrips_amerge hw
  | tagseq => exact roundTrips_tagseq hw
  | kwait => exact roundTrips_kwait hw
  | steer => exact roundTrips_steer hw
  | merge => exact roundTrips_merge hw
  | repl => exact roundTrips_repl hw
  | kout => exact roundTrips_kout hw
  | rfetch => exact roundTrips_rfetch hw
  | swait => exact roundTrips_swait hw
  | dispatch => exact roundTrips_dispatch hw
  | csrw => exact roundTrips_csrw hw
  | tlwait => exact roundTrips_tlwait hw
  | cfgw => exact roundTrips_cfgw hw
  | vfSet => exact roundTrips_vfSet hw
  | amsg => exact roundTrips_amsg hw
  | crc32c => exact roundTrips_crc32c hw
  | csrr => exact roundTrips_csrr hw
  | qpop => exact roundTrips_qpop hw
  | trap => exact roundTrips_trap hw
  | eret => exact roundTrips_eret hw
  | halt => exact roundTrips_halt hw
  | spawn => exact roundTrips_spawn hw
  | wrapCommit => exact roundTrips_wrapCommit hw
  | mov => exact roundTrips_mov hw hi
  | neg => exact roundTrips_neg hw hi
  | bswap => exact roundTrips_bswap hw hi
  | clip8 => exact roundTrips_clip8 hw hi
  | fdiv => exact roundTrips_fdiv hw (by simpa [inGen] using hi)
  | _ => cases hi

end

end Sys2Proof.Machine

namespace Sys2Proof.Machine

/-! SUPPORT. The word of a well-formed vector instruction decodes to it (R93, R94). -/

/-- The word of a vector instruction decodes to it. -/
def ComesBack (i : Instr) : Prop := ∃ w, encode i = [w] ∧ decodeVector w = some i

section

/-- A field of a field. -/
theorem extractLsb'_extractLsb' {m i j k l : Nat} (x : BitVec m) (h : i + l ≤ k) :
    (x.extractLsb' j k).extractLsb' i l = x.extractLsb' (j + i) l := by
  refine BitVec.eq_of_getLsbD_eq fun z hz => ?_
  simp only [BitVec.getLsbD_extractLsb', hz, decide_true, Bool.true_and, show i + z < k by omega, Nat.add_assoc]

theorem vrTail_fields {b : BitVec 5} {fn : BitVec 4} {p : Pred} {rnd : BitVec 3} : (vrTail b fn p rnd).extractLsb' 11 5 = b ∧
    (vrTail b fn p rnd).extractLsb' 7 4 = fn ∧
    (vrTail b fn p rnd).extractLsb' 6 1 = p.pe ∧
    (vrTail b fn p rnd).extractLsb' 3 3 = p.field ∧
    (vrTail b fn p rnd).extractLsb' 0 3 = rnd :=
  ⟨(extractLsb'_append_high b (fn ++ (p.pe ++ (p.field ++ rnd))) (by decide)).trans (extractLsb'_self _),
    (extractLsb'_append_low b (fn ++ (p.pe ++ (p.field ++ rnd))) (by decide)).trans <|
    (extractLsb'_append_high fn (p.pe ++ (p.field ++ rnd)) (by decide)).trans (extractLsb'_self _),
    (extractLsb'_append_low b (fn ++ (p.pe ++ (p.field ++ rnd))) (by decide)).trans <|
    (extractLsb'_append_low fn (p.pe ++ (p.field ++ rnd)) (by decide)).trans <|
    (extractLsb'_append_high p.pe (p.field ++ rnd) (by decide)).trans (extractLsb'_self _),
    (extractLsb'_append_low b (fn ++ (p.pe ++ (p.field ++ rnd))) (by decide)).trans <|
    (extractLsb'_append_low fn (p.pe ++ (p.field ++ rnd)) (by decide)).trans <|
    (extractLsb'_append_low p.pe (p.field ++ rnd) (by decide)).trans <|
    (extractLsb'_append_high p.field (rnd) (by decide)).trans (extractLsb'_self _),
    (extractLsb'_append_low b (fn ++ (p.pe ++ (p.field ++ rnd))) (by decide)).trans <|
    (extractLsb'_append_low fn (p.pe ++ (p.field ++ rnd)) (by decide)).trans <|
    (extractLsb'_append_low p.pe (p.field ++ rnd) (by decide)).trans <|
    (extractLsb'_append_low p.field (rnd) (by decide)).trans <|
    extractLsb'_self _⟩

theorem vfTail_fields {b c : BitVec 5} {p : Pred} {rnd : BitVec 2} : (vfTail b c p rnd).extractLsb' 11 5 = b ∧
    (vfTail b c p rnd).extractLsb' 6 5 = c ∧
    (vfTail b c p rnd).extractLsb' 5 1 = p.pe ∧
    (vfTail b c p rnd).extractLsb' 2 3 = p.field ∧
    (vfTail b c p rnd).extractLsb' 0 2 = rnd :=
  ⟨(extractLsb'_append_high b (c ++ (p.pe ++ (p.field ++ rnd))) (by decide)).trans (extractLsb'_self _),
    (extractLsb'_append_low b (c ++ (p.pe ++ (p.field ++ rnd))) (by decide)).trans <|
    (extractLsb'_append_high c (p.pe ++ (p.field ++ rnd)) (by decide)).trans (extractLsb'_self _),
    (extractLsb'_append_low b (c ++ (p.pe ++ (p.field ++ rnd))) (by decide)).trans <|
    (extractLsb'_append_low c (p.pe ++ (p.field ++ rnd)) (by decide)).trans <|
    (extractLsb'_append_high p.pe (p.field ++ rnd) (by decide)).trans (extractLsb'_self _),
    (extractLsb'_append_low b (c ++ (p.pe ++ (p.field ++ rnd))) (by decide)).trans <|
    (extractLsb'_append_low c (p.pe ++ (p.field ++ rnd)) (by decide)).trans <|
    (extractLsb'_append_low p.pe (p.field ++ rnd) (by decide)).trans <|
    (extractLsb'_append_high p.field (rnd) (by decide)).trans (extractLsb'_self _),
    (extractLsb'_append_low b (c ++ (p.pe ++ (p.field ++ rnd))) (by decide)).trans <|
    (extractLsb'_append_low c (p.pe ++ (p.field ++ rnd)) (by decide)).trans <|
    (extractLsb'_append_low p.pe (p.field ++ rnd) (by decide)).trans <|
    (extractLsb'_append_low p.field (rnd) (by decide)).trans <|
    extractLsb'_self _⟩

theorem vcTail_fields {fmt : BitVec 4} {rnd : BitVec 3} {sat nanp : Bool} {p : Pred} {bsz : BitVec 3} : (vcTail fmt rnd sat nanp p bsz).extractLsb' 12 4 = fmt ∧
    (vcTail fmt rnd sat nanp p bsz).extractLsb' 9 3 = rnd ∧
    (vcTail fmt rnd sat nanp p bsz).extractLsb' 8 1 = bit sat ∧
    (vcTail fmt rnd sat nanp p bsz).extractLsb' 7 1 = bit nanp ∧
    (vcTail fmt rnd sat nanp p bsz).extractLsb' 6 1 = p.pe ∧
    (vcTail fmt rnd sat nanp p bsz).extractLsb' 3 3 = p.field ∧
    (vcTail fmt rnd sat nanp p bsz).extractLsb' 0 3 = bsz :=
  ⟨(extractLsb'_append_high fmt (rnd ++ (bit sat ++ (bit nanp ++ (p.pe ++ (p.field ++ bsz))))) (by decide)).trans (extractLsb'_self _),
    (extractLsb'_append_low fmt (rnd ++ (bit sat ++ (bit nanp ++ (p.pe ++ (p.field ++ bsz))))) (by decide)).trans <|
    (extractLsb'_append_high rnd (bit sat ++ (bit nanp ++ (p.pe ++ (p.field ++ bsz)))) (by decide)).trans (extractLsb'_self _),
    (extractLsb'_append_low fmt (rnd ++ (bit sat ++ (bit nanp ++ (p.pe ++ (p.field ++ bsz))))) (by decide)).trans <|
    (extractLsb'_append_low rnd (bit sat ++ (bit nanp ++ (p.pe ++ (p.field ++ bsz)))) (by decide)).trans <|
    (extractLsb'_append_high (bit sat) (bit nanp ++ (p.pe ++ (p.field ++ bsz))) (by decide)).trans (extractLsb'_self _),
    (extractLsb'_append_low fmt (rnd ++ (bit sat ++ (bit nanp ++ (p.pe ++ (p.field ++ bsz))))) (by decide)).trans <|
    (extractLsb'_append_low rnd (bit sat ++ (bit nanp ++ (p.pe ++ (p.field ++ bsz)))) (by decide)).trans <|
    (extractLsb'_append_low (bit sat) (bit nanp ++ (p.pe ++ (p.field ++ bsz))) (by decide)).trans <|
    (extractLsb'_append_high (bit nanp) (p.pe ++ (p.field ++ bsz)) (by decide)).trans (extractLsb'_self _),
    (extractLsb'_append_low fmt (rnd ++ (bit sat ++ (bit nanp ++ (p.pe ++ (p.field ++ bsz))))) (by decide)).trans <|
    (extractLsb'_append_low rnd (bit sat ++ (bit nanp ++ (p.pe ++ (p.field ++ bsz)))) (by decide)).trans <|
    (extractLsb'_append_low (bit sat) (bit nanp ++ (p.pe ++ (p.field ++ bsz))) (by decide)).trans <|
    (extractLsb'_append_low (bit nanp) (p.pe ++ (p.field ++ bsz)) (by decide)).trans <|
    (extractLsb'_append_high p.pe (p.field ++ bsz) (by decide)).trans (extractLsb'_self _),
    (extractLsb'_append_low fmt (rnd ++ (bit sat ++ (bit nanp ++ (p.pe ++ (p.field ++ bsz))))) (by decide)).trans <|
    (extractLsb'_append_low rnd (bit sat ++ (bit nanp ++ (p.pe ++ (p.field ++ bsz)))) (by decide)).trans <|
    (extractLsb'_append_low (bit sat) (bit nanp ++ (p.pe ++ (p.field ++ bsz))) (by decide)).trans <|
    (extractLsb'_append_low (bit nanp) (p.pe ++ (p.field ++ bsz)) (by decide)).trans <|
    (extractLsb'_append_low p.pe (p.field ++ bsz) (by decide)).trans <|
    (extractLsb'_append_high p.field (bsz) (by decide)).trans (extractLsb'_self _),
    (extractLsb'_append_low fmt (rnd ++ (bit sat ++ (bit nanp ++ (p.pe ++ (p.field ++ bsz))))) (by decide)).trans <|
    (extractLsb'_append_low rnd (bit sat ++ (bit nanp ++ (p.pe ++ (p.field ++ bsz)))) (by decide)).trans <|
    (extractLsb'_append_low (bit sat) (bit nanp ++ (p.pe ++ (p.field ++ bsz))) (by decide)).trans <|
    (extractLsb'_append_low (bit nanp) (p.pe ++ (p.field ++ bsz)) (by decide)).trans <|
    (extractLsb'_append_low p.pe (p.field ++ bsz) (by decide)).trans <|
    (extractLsb'_append_low p.field (bsz) (by decide)).trans <|
    extractLsb'_self _⟩

/-- The fields of a VS word, as the vector map reads them: PORT and LVL straddle A and [15:0] (R93). -/
theorem vsWord_fields {op : BitVec 6} {v : BitVec 5} {port lvl : BitVec 3} {n : BitVec 4} :
    opOf (vsWord op v port lvl n) = op ∧ dOf (vsWord op v port lvl n) = v ∧
    (aOf (vsWord op v port lvl n)).extractLsb' 2 3 = port ∧
    ((aOf (vsWord op v port lvl n)).extractLsb' 0 2 ++ (loOf (vsWord op v port lvl n)).extractLsb' 15 1 : BitVec 3) = lvl ∧
    (loOf (vsWord op v port lvl n)).extractLsb' 11 4 = n ∧ (loOf (vsWord op v port lvl n)).extractLsb' 0 11 = 0 := by
  have ha : (vsWord op v port lvl n).extractLsb' 18 3 = port ∧ (vsWord op v port lvl n).extractLsb' 15 3 = lvl ∧
      (vsWord op v port lvl n).extractLsb' 11 4 = n ∧ (vsWord op v port lvl n).extractLsb' 0 11 = 0 :=
    ⟨(extractLsb'_append_low op (v ++ (port ++ (lvl ++ (n ++ (0 : BitVec 11))))) (by decide)).trans <|
        (extractLsb'_append_low v (port ++ (lvl ++ (n ++ (0 : BitVec 11)))) (by decide)).trans <|
        (extractLsb'_append_high port (lvl ++ (n ++ (0 : BitVec 11))) (by decide)).trans (extractLsb'_self _),
      (extractLsb'_append_low op (v ++ (port ++ (lvl ++ (n ++ (0 : BitVec 11))))) (by decide)).trans <|
        (extractLsb'_append_low v (port ++ (lvl ++ (n ++ (0 : BitVec 11)))) (by decide)).trans <|
        (extractLsb'_append_low port (lvl ++ (n ++ (0 : BitVec 11))) (by decide)).trans <|
        (extractLsb'_append_high lvl (n ++ (0 : BitVec 11)) (by decide)).trans (extractLsb'_self _),
      (extractLsb'_append_low op (v ++ (port ++ (lvl ++ (n ++ (0 : BitVec 11))))) (by decide)).trans <|
        (extractLsb'_append_low v (port ++ (lvl ++ (n ++ (0 : BitVec 11)))) (by decide)).trans <|
        (extractLsb'_append_low port (lvl ++ (n ++ (0 : BitVec 11))) (by decide)).trans <|
        (extractLsb'_append_low lvl (n ++ (0 : BitVec 11)) (by decide)).trans <|
        (extractLsb'_append_high n (0 : BitVec 11) (by decide)).trans (extractLsb'_self _),
      (extractLsb'_append_low op (v ++ (port ++ (lvl ++ (n ++ (0 : BitVec 11))))) (by decide)).trans <|
        (extractLsb'_append_low v (port ++ (lvl ++ (n ++ (0 : BitVec 11)))) (by decide)).trans <|
        (extractLsb'_append_low port (lvl ++ (n ++ (0 : BitVec 11))) (by decide)).trans <|
        (extractLsb'_append_low lvl (n ++ (0 : BitVec 11)) (by decide)).trans <|
        (extractLsb'_append_low n (0 : BitVec 11) (by decide)).trans (extractLsb'_self _)⟩
  obtain ⟨h1, h2, h3, h4⟩ := ha
  refine ⟨(extractLsb'_append_high op (v ++ (port ++ (lvl ++ (n ++ (0 : BitVec 11))))) (by decide)).trans (extractLsb'_self _),
    (extractLsb'_append_low op (v ++ (port ++ (lvl ++ (n ++ (0 : BitVec 11))))) (by decide)).trans <|
      (extractLsb'_append_high v (port ++ (lvl ++ (n ++ (0 : BitVec 11)))) (by decide)).trans (extractLsb'_self _), ?_, ?_, ?_, ?_⟩
  · rw [aOf, extractLsb'_extractLsb' _ (by decide), h1]
  · rw [aOf, loOf, extractLsb'_extractLsb' _ (by decide), extractLsb'_extractLsb' _ (by decide)]
    exact (extractLsb'_append_extractLsb' (vsWord op v port lvl n) 15 2 1).trans h2
  · rw [loOf, extractLsb'_extractLsb' _ (by decide), h3]
  · rw [loOf, extractLsb'_extractLsb' _ (by decide), h4]

end

section
variable {i : Instr} {op : BitVec 6} {d a b c : BitVec 5} {fn : BitVec 4} {p : Pred} {rnd : BitVec 3} {lo : Half}

theorem comesBack_of (hw : wf i = true) (henc : encode i = [wordOf op d a lo]) (h : vectorForm op d a lo = some i) : ComesBack i :=
  ⟨_, henc, by rw [decodeVector, opOf_wordOf, dOf_wordOf, aOf_wordOf, loOf_wordOf, checked_eq_some]; exact ⟨hw, h⟩⟩

theorem vr_back (hop : ∀ lo, vectorForm op d a lo = vrForm op d a (lo.extractLsb' 11 5) (lo.extractLsb' 7 4) (lo.extractLsb' 6 1)
    (lo.extractLsb' 3 3) (lo.extractLsb' 0 3)) (h : vrForm op d a b fn p.pe p.field rnd = some i) :
    vectorForm op d a (vrTail b fn p rnd) = some i := by
  obtain ⟨h1, h2, h3, h4, h5⟩ := vrTail_fields (b := b) (fn := fn) (p := p) (rnd := rnd)
  rw [hop, h1, h2, h3, h4, h5, h]

theorem vf_back {rnd : BitVec 2} (hop : ∀ lo, vectorForm op d a lo = vfForm op d a (lo.extractLsb' 11 5) (lo.extractLsb' 6 5)
    (lo.extractLsb' 5 1) (lo.extractLsb' 2 3) (lo.extractLsb' 0 2)) (h : vfForm op d a b c p.pe p.field rnd = some i) :
    vectorForm op d a (vfTail b c p rnd) = some i := by
  obtain ⟨h1, h2, h3, h4, h5⟩ := vfTail_fields (b := b) (c := c) (p := p) (rnd := rnd)
  rw [hop, h1, h2, h3, h4, h5, h]

theorem vc_back {fmt : BitVec 4} {sat nanp : Bool} {bsz : BitVec 3}
    (hop : ∀ lo, vectorForm op d a lo = vcForm op d a (lo.extractLsb' 12 4) (lo.extractLsb' 9 3) (lo.extractLsb' 8 1)
      (lo.extractLsb' 7 1) (lo.extractLsb' 6 1) (lo.extractLsb' 3 3) (lo.extractLsb' 0 3))
    (h : vcForm op d a fmt rnd (bit sat) (bit nanp) p.pe p.field bsz = some i) :
    vectorForm op d a (vcTail fmt rnd sat nanp p bsz) = some i := by
  obtain ⟨h1, h2, h3, h4, h5, h6, h7⟩ := vcTail_fields (fmt := fmt) (rnd := rnd) (sat := sat) (nanp := nanp) (p := p) (bsz := bsz)
  rw [hop, h1, h2, h3, h4, h5, h6, h7, h]

theorem comesBack_vs {port lvl : BitVec 3} {n : BitVec 4} (hw : wf i = true) (henc : encode i = [vsWord op d port lvl n])
    (hop : ∀ a lo, vectorForm op d a lo = vsForm op d (a.extractLsb' 2 3) (a.extractLsb' 0 2 ++ lo.extractLsb' 15 1)
      (lo.extractLsb' 11 4) (lo.extractLsb' 0 11)) (h : vsForm op d port lvl n 0 = some i) : ComesBack i := by
  obtain ⟨h1, h2, h3, h4, h5, h6⟩ := vsWord_fields (op := op) (v := d) (port := port) (lvl := lvl) (n := n)
  refine ⟨_, henc, ?_⟩
  rw [decodeVector, checked_eq_some, h1, h2, hop, h3, h4, h5, h6]
  exact ⟨hw, h⟩

theorem amountField {n : BitVec 9} : (n.extractLsb' 5 4 ++ n.extractLsb' 0 5 : BitVec 9) = n :=
  (extractLsb'_append_extractLsb' n 0 4 5).trans (extractLsb'_self n)

theorem predDest {n : PNum} : ((0 : BitVec 2) ++ BitVec.ofNat 3 n.val : BitVec 5).extractLsb' 3 2 = 0 ∧
    ((0 : BitVec 2) ++ BitVec.ofNat 3 n.val : BitVec 5).extractLsb' 0 3 = BitVec.ofNat 3 n.val :=
  ⟨(extractLsb'_append_high (0 : BitVec 2) (BitVec.ofNat 3 n.val) (by decide)).trans (extractLsb'_self _),
    (extractLsb'_append_low (0 : BitVec 2) (BitVec.ofNat 3 n.val) (by decide)).trans (extractLsb'_self _)⟩

theorem vsForm_vld {v : VNum} {p : BitVec 2} {n : BitVec 4} :
    vsForm 0x20 v.code ((0 : BitVec 1) ++ p) 0 n 0 = some (.vld v p n) := by
  have hport : ((0 : BitVec 1) ++ p : BitVec 3).getLsbD 2 = false ∧ ((0 : BitVec 1) ++ p : BitVec 3).extractLsb' 0 2 = p := by
    revert p
    decide
  change when? (!((0 : BitVec 1) ++ p : BitVec 3).getLsbD 2 && true)
    (some (Instr.vld (vnum v.code) (((0 : BitVec 1) ++ p : BitVec 3).extractLsb' 0 2) n)) = _
  rw [hport.1, hport.2, vnum_code]
  rfl

/-- An output port of a vector unit in PORT. -/
theorem outPort {p : BitVec 1} : ((0 : BitVec 2) ++ p : BitVec 3).extractLsb' 1 2 = 0 ∧ ((0 : BitVec 2) ++ p : BitVec 3).extractLsb' 0 1 = p := by
  revert p
  decide

theorem vsForm_vst {v : VNum} {p : BitVec 1} {n : BitVec 4} :
    vsForm 0x21 v.code ((0 : BitVec 2) ++ p) 0 n 0 = some (.vst v p n) := by
  change when? (((0 : BitVec 2) ++ p : BitVec 3).extractLsb' 1 2 == 0 && true)
    (some (Instr.vst (vnum v.code) (((0 : BitVec 2) ++ p : BitVec 3).extractLsb' 0 1) n)) = _
  rw [outPort.1, outPort.2, vnum_code]
  rfl

theorem vsForm_vstop {p : BitVec 1} {lvl : BitVec 3} : vsForm 0x22 0 ((0 : BitVec 2) ++ p) lvl 0 0 = some (.vstop p lvl) := by
  change when? (((0 : BitVec 2) ++ p : BitVec 3).extractLsb' 1 2 == 0 && true && true)
    (some (Instr.vstop (((0 : BitVec 2) ++ p : BitVec 3).extractLsb' 0 1) lvl)) = _
  rw [outPort.1, outPort.2]
  rfl

theorem vsForm_vdone {p : BitVec 1} : vsForm 0x23 0 ((0 : BitVec 2) ++ p) 0 0 0 = some (.vdone p) := by
  change when? (((0 : BitVec 2) ++ p : BitVec 3).extractLsb' 1 2 == 0 && true && true && true)
    (some (Instr.vdone (((0 : BitVec 2) ++ p : BitVec 3).extractLsb' 0 1))) = _
  rw [outPort.1, outPort.2]
  rfl

end

/-! ### Each word of the vector map -/

section

theorem comesBack_vadd {d : VNum} {a : VNum} {b : VNum} {p : Pred} {rm : Rm} (hw : wf (.vadd d a b p rm) = true) : ComesBack (.vadd d a b p rm) :=
  comesBack_of hw rfl (vr_back (fun _ => rfl) (by
    simp only [vrForm, vnum_code, pred?_field, rm?_code, Option.bind_some, Option.map_some]
    rfl))

theorem comesBack_vsub {d : VNum} {a : VNum} {b : VNum} {p : Pred} {rm : Rm} (hw : wf (.vsub d a b p rm) = true) : ComesBack (.vsub d a b p rm) :=
  comesBack_of hw rfl (vr_back (fun _ => rfl) (by
    simp only [vrForm, vnum_code, pred?_field, rm?_code, Option.bind_some, Option.map_some]
    rfl))

theorem comesBack_vmul {d : VNum} {a : VNum} {b : VNum} {p : Pred} {rm : Rm} (hw : wf (.vmul d a b p rm) = true) : ComesBack (.vmul d a b p rm) :=
  comesBack_of hw rfl (vr_back (fun _ => rfl) (by
    simp only [vrForm, vnum_code, pred?_field, rm?_code, Option.bind_some, Option.map_some]
    rfl))

theorem comesBack_vmin {d : VNum} {a : VNum} {b : VNum} {p : Pred} (hw : wf (.vmin d a b p) = true) : ComesBack (.vmin d a b p) :=
  comesBack_of hw rfl (vr_back (fun _ => rfl) (by
    simp only [vrForm, vnum_code, pred?_field, Option.map_some]
    rfl))

theorem comesBack_vmax {d : VNum} {a : VNum} {b : VNum} {p : Pred} (hw : wf (.vmax d a b p) = true) : ComesBack (.vmax d a b p) :=
  comesBack_of hw rfl (vr_back (fun _ => rfl) (by
    simp only [vrForm, vnum_code, pred?_field, Option.map_some]
    rfl))

theorem comesBack_vperm {d : VNum} {a : VNum} {b : VNum} {p : Pred} (hw : wf (.vperm d a b p) = true) : ComesBack (.vperm d a b p) :=
  comesBack_of hw rfl (vr_back (fun _ => rfl) (by
    simp only [vrForm, vnum_code, pred?_field, Option.map_some]
    rfl))

theorem comesBack_vand {d : VNum} {a : VNum} {b : VNum} {p : Pred} (hw : wf (.vand d a b p) = true) : ComesBack (.vand d a b p) :=
  comesBack_of hw rfl (vr_back (fun _ => rfl) (by
    simp only [vrForm, vnum_code, pred?_field, Option.map_some]
    rfl))

theorem comesBack_vor {d : VNum} {a : VNum} {b : VNum} {p : Pred} (hw : wf (.vor d a b p) = true) : ComesBack (.vor d a b p) :=
  comesBack_of hw rfl (vr_back (fun _ => rfl) (by
    simp only [vrForm, vnum_code, pred?_field, Option.map_some]
    rfl))

theorem comesBack_vxor {d : VNum} {a : VNum} {b : VNum} {p : Pred} (hw : wf (.vxor d a b p) = true) : ComesBack (.vxor d a b p) :=
  comesBack_of hw rfl (vr_back (fun _ => rfl) (by
    simp only [vrForm, vnum_code, pred?_field, Option.map_some]
    rfl))

theorem comesBack_vshl {d : VNum} {a : VNum} {b : VNum} {p : Pred} (hw : wf (.vshl d a b p) = true) : ComesBack (.vshl d a b p) :=
  comesBack_of hw rfl (vr_back (fun _ => rfl) (by
    simp only [vrForm, vnum_code, pred?_field, Option.map_some]
    rfl))

theorem comesBack_vshr {d : VNum} {a : VNum} {b : VNum} {p : Pred} (hw : wf (.vshr d a b p) = true) : ComesBack (.vshr d a b p) :=
  comesBack_of hw rfl (vr_back (fun _ => rfl) (by
    simp only [vrForm, vnum_code, pred?_field, Option.map_some]
    rfl))

theorem comesBack_vsra {d : VNum} {a : VNum} {b : VNum} {p : Pred} (hw : wf (.vsra d a b p) = true) : ComesBack (.vsra d a b p) :=
  comesBack_of hw rfl (vr_back (fun _ => rfl) (by
    simp only [vrForm, vnum_code, pred?_field, Option.map_some]
    rfl))

theorem comesBack_vneg {d : VNum} {a : VNum} {p : Pred} (hw : wf (.vneg d a p) = true) : ComesBack (.vneg d a p) :=
  comesBack_of hw rfl (vr_back (fun _ => rfl) (by
    simp only [vrForm, vnum_code, pred?_field, Option.map_some]
    rfl))

theorem comesBack_vabs {d : VNum} {a : VNum} {p : Pred} (hw : wf (.vabs d a p) = true) : ComesBack (.vabs d a p) :=
  comesBack_of hw rfl (vr_back (fun _ => rfl) (by
    simp only [vrForm, vnum_code, pred?_field, Option.map_some]
    rfl))

theorem comesBack_vrcp {d : VNum} {a : VNum} {p : Pred} (hw : wf (.vrcp d a p) = true) : ComesBack (.vrcp d a p) :=
  comesBack_of hw rfl (vr_back (fun _ => rfl) (by
    simp only [vrForm, vnum_code, pred?_field, Option.map_some]
    rfl))

theorem comesBack_vrsqrt {d : VNum} {a : VNum} {p : Pred} (hw : wf (.vrsqrt d a p) = true) : ComesBack (.vrsqrt d a p) :=
  comesBack_of hw rfl (vr_back (fun _ => rfl) (by
    simp only [vrForm, vnum_code, pred?_field, Option.map_some]
    rfl))

theorem comesBack_vexp2 {d : VNum} {a : VNum} {p : Pred} (hw : wf (.vexp2 d a p) = true) : ComesBack (.vexp2 d a p) :=
  comesBack_of hw rfl (vr_back (fun _ => rfl) (by
    simp only [vrForm, vnum_code, pred?_field, Option.map_some]
    rfl))

theorem comesBack_vlog2 {d : VNum} {a : VNum} {p : Pred} (hw : wf (.vlog2 d a p) = true) : ComesBack (.vlog2 d a p) :=
  comesBack_of hw rfl (vr_back (fun _ => rfl) (by
    simp only [vrForm, vnum_code, pred?_field, Option.map_some]
    rfl))

theorem comesBack_vmov {d : VNum} {a : VNum} {p : Pred} (hw : wf (.vmov d a p) = true) : ComesBack (.vmov d a p) :=
  comesBack_of hw rfl (vr_back (fun _ => rfl) (by
    simp only [vrForm, vnum_code, pred?_field, Option.map_some]
    rfl))

theorem comesBack_vred {fn : RedFn} {d : VNum} {a : VNum} {p : Pred} {rm : Rm} (hw : wf (.vred fn d a p rm) = true) : ComesBack (.vred fn d a p rm) :=
  comesBack_of hw rfl (vr_back (fun _ => rfl) (by
    simp only [vrForm, vnum_code, pred?_field, redFn?_code, rm?_code, Option.bind_some, Option.map_some]
    rfl))

theorem comesBack_vscan {fn : RedFn} {d : VNum} {a : VNum} {p : Pred} {rm : Rm} (hw : wf (.vscan fn d a p rm) = true) : ComesBack (.vscan fn d a p rm) :=
  comesBack_of hw rfl (vr_back (fun _ => rfl) (by
    simp only [vrForm, vnum_code, pred?_field, redFn?_code, rm?_code, Option.bind_some, Option.map_some]
    rfl))

theorem comesBack_vrot {d : VNum} {a : VNum} {n : BitVec 9} {p : Pred} (hw : wf (.vrot d a n p) = true) : ComesBack (.vrot d a n p) :=
  comesBack_of hw rfl (vr_back (fun _ => rfl) (by
    simp only [vrForm, vnum_code, pred?_field, Option.map_some, amountField]
    rfl))

theorem comesBack_vsplat {d : VNum} {a : VNum} {n : BitVec 9} {p : Pred} (hw : wf (.vsplat d a n p) = true) : ComesBack (.vsplat d a n p) :=
  comesBack_of hw rfl (vr_back (fun _ => rfl) (by
    simp only [vrForm, vnum_code, pred?_field, Option.map_some, amountField]
    rfl))

theorem comesBack_vsel {d : VNum} {a : VNum} {b : VNum} {p : PNum} (hw : wf (.vsel d a b p) = true) : ComesBack (.vsel d a b p) :=
  comesBack_of hw rfl (vr_back (p := some p) (fun _ => rfl) (by
    simp only [vrForm, vnum_code, Pred.field, pnum_field]
    rfl))

theorem comesBack_vcmpCc {cc : Cond} {d : PNum} {a : VNum} {b : VNum} {p : Pred} (hw : wf (.vcmpCc cc d a b p) = true) : ComesBack (.vcmpCc cc d a b p) :=
  comesBack_of hw rfl (vr_back (fun _ => rfl) (by
    change when? (((0 : BitVec 2) ++ BitVec.ofNat 3 d.val : BitVec 5).extractLsb' 3 2 == 0 && true) ((cond? cc.code).bind fun cc =>
      (pred? p.pe p.field).map fun p => Instr.vcmpCc cc (Fin.ofNat 8 (((0 : BitVec 2) ++ BitVec.ofNat 3 d.val : BitVec 5).extractLsb' 0 3).toNat)
        (vnum a.code) (vnum b.code) p) = _
    rw [predDest.1, predDest.2, cond?_code, pred?_field, vnum_code, vnum_code, pnum_field]
    rfl))

theorem comesBack_vfma {d : VNum} {a : VNum} {b : VNum} {c : VNum} {p : Pred} {rm : Rm} (hw : wf (.vfma d a b c p rm) = true) : ComesBack (.vfma d a b c p rm) :=
  comesBack_of hw rfl (vf_back (fun _ => rfl) (by
    simp only [vfForm, vnum_code, pred?_field, rm?_zeroExtend, Option.bind_some, Option.map_some]
    rfl))

theorem comesBack_vfms {d : VNum} {a : VNum} {b : VNum} {c : VNum} {p : Pred} {rm : Rm} (hw : wf (.vfms d a b c p rm) = true) : ComesBack (.vfms d a b c p rm) :=
  comesBack_of hw rfl (vf_back (fun _ => rfl) (by
    simp only [vfForm, vnum_code, pred?_field, rm?_zeroExtend, Option.bind_some, Option.map_some]
    rfl))

theorem comesBack_vimad {d : VNum} {a : VNum} {b : VNum} {c : VNum} {p : Pred} (hw : wf (.vimad d a b c p) = true) : ComesBack (.vimad d a b c p) :=
  comesBack_of hw rfl (vf_back (fun _ => rfl) (by
    simp only [vfForm, vnum_code, pred?_field, Option.map_some]
    rfl))

theorem comesBack_vcvt {d : VNum} {a : VNum} {fmt : BitVec 4} {rm : RmC} {sat : Bool} {nanp : Bool} {p : Pred} (hw : wf (.vcvt d a fmt rm sat nanp p) = true) : ComesBack (.vcvt d a fmt rm sat nanp p) :=
  comesBack_of hw rfl (vc_back (fun _ => rfl) (by
    simp only [vcForm, vnum_code, pred?_field, rmC?_code, bit_eq_one, Option.bind_some, Option.map_some]
    rfl))

theorem comesBack_vquant {d : VNum} {a : VNum} {fmt : BitVec 4} {rm : RmC} {bsz : BitVec 3} {p : Pred} (hw : wf (.vquant d a fmt rm bsz p) = true) : ComesBack (.vquant d a fmt rm bsz p) :=
  comesBack_of hw rfl (vc_back (fun _ => rfl) (by
    simp only [vcForm, vnum_code, pred?_field, rmC?_code, Option.bind_some, Option.map_some]
    rfl))

theorem comesBack_vscale {d : VNum} {a : VNum} {bsz : BitVec 3} (hw : wf (.vscale d a bsz) = true) : ComesBack (.vscale d a bsz) :=
  comesBack_of hw rfl (vc_back (fun _ => rfl) (by
    simp only [vcForm, vnum_code]
    rfl))

theorem comesBack_vtagSet {d : VNum} {fmt : BitVec 4} {scl : Bool} {bsz : BitVec 3} (hw : wf (.vtagSet d fmt scl bsz) = true) : ComesBack (.vtagSet d fmt scl bsz) :=
  comesBack_of hw rfl (vc_back (fun _ => rfl) (by
    simp only [vcForm, vnum_code, bit_eq_one]
    rfl))

theorem comesBack_vtagGet {d : VNum} {a : VNum} {clr : Bool} (hw : wf (.vtagGet d a clr) = true) : ComesBack (.vtagGet d a clr) :=
  comesBack_of hw rfl (vc_back (fun _ => rfl) (by
    simp only [vcForm, vnum_code, bit_eq_one]
    rfl))

theorem comesBack_vld {v : VNum} {p : BitVec 2} {n : BitVec 4} (hw : wf (.vld v p n) = true) : ComesBack (.vld v p n) :=
  comesBack_vs hw rfl (fun _ _ => rfl) (vsForm_vld)

theorem comesBack_vst {v : VNum} {p : BitVec 1} {n : BitVec 4} (hw : wf (.vst v p n) = true) : ComesBack (.vst v p n) :=
  comesBack_vs hw rfl (fun _ _ => rfl) (vsForm_vst)

theorem comesBack_vstop {p : BitVec 1} {lvl : BitVec 3} (hw : wf (.vstop p lvl) = true) : ComesBack (.vstop p lvl) :=
  comesBack_vs hw rfl (fun _ _ => rfl) (vsForm_vstop)

theorem comesBack_vdone {p : BitVec 1} (hw : wf (.vdone p) = true) : ComesBack (.vdone p) :=
  comesBack_vs hw rfl (fun _ _ => rfl) (vsForm_vdone)

theorem comesBack_vend (hw : wf (.vend) = true) : ComesBack (.vend) :=
  comesBack_of hw rfl rfl

/-- Every vector instruction within its limits. -/
theorem comesBack_of_wf {i : Instr} (hw : wf i = true) (hi : isVector i = true) : ComesBack i := by
  cases i with
  | vadd => exact comesBack_vadd hw
  | vsub => exact comesBack_vsub hw
  | vmul => exact comesBack_vmul hw
  | vmin => exact comesBack_vmin hw
  | vmax => exact comesBack_vmax hw
  | vperm => exact comesBack_vperm hw
  | vand => exact comesBack_vand hw
  | vor => exact comesBack_vor hw
  | vxor => exact comesBack_vxor hw
  | vshl => exact comesBack_vshl hw
  | vshr => exact comesBack_vshr hw
  | vsra => exact comesBack_vsra hw
  | vneg => exact comesBack_vneg hw
  | vabs => exact comesBack_vabs hw
  | vrcp => exact comesBack_vrcp hw
  | vrsqrt => exact comesBack_vrsqrt hw
  | vexp2 => exact comesBack_vexp2 hw
  | vlog2 => exact comesBack_vlog2 hw
  | vmov => exact comesBack_vmov hw
  | vred => exact comesBack_vred hw
  | vscan => exact comesBack_vscan hw
  | vrot => exact comesBack_vrot hw
  | vsplat => exact comesBack_vsplat hw
  | vsel => exact comesBack_vsel hw
  | vcmpCc => exact comesBack_vcmpCc hw
  | vfma => exact comesBack_vfma hw
  | vfms => exact comesBack_vfms hw
  | vimad => exact comesBack_vimad hw
  | vcvt => exact comesBack_vcvt hw
  | vquant => exact comesBack_vquant hw
  | vscale => exact comesBack_vscale hw
  | vtagSet => exact comesBack_vtagSet hw
  | vtagGet => exact comesBack_vtagGet hw
  | vld => exact comesBack_vld hw
  | vst => exact comesBack_vst hw
  | vstop => exact comesBack_vstop hw
  | vdone => exact comesBack_vdone hw
  | vend => exact comesBack_vend hw
  | _ => cases hi

end

end Sys2Proof.Machine

namespace Sys2Proof.Machine

/-! SUPPORT. A word that decodes is the encoding of what it decodes to (R87 to R94, R167). -/

/-- The words of an instruction are `w`, and `e` behind it if it takes an immediate. -/
def EncodesTo (e w : Word) (i : Instr) : Prop := encode i = w :: if takesExt i then [e] else []

section
variable {e w : Word} {i : Instr} {a b c v : Src} {d : Dst} {df af bf : BitVec 5} {fn : BitVec 8} {mode : BitVec 3} {lo : Half}
  {op : BitVec 6} {gen : Nat}

theorem immOf_eq {l : List Src} (h : ∀ a ∈ l, ExtIs e a) (hany : l.any Src.isImm = true) : Src.immOf l = e := by
  induction l with
  | nil => cases hany
  | cons a t ih =>
    cases a with
    | imm v => exact h _ List.mem_cons_self v rfl
    | _ => exact ih (fun b hb => h b (List.mem_cons_of_mem _ hb)) hany

/-- The immediate is the one that the operands have read. -/
theorem encodesTo_of (imms : List Src) (henc : encode i = w :: if takesExt i then [Src.immOf imms] else [])
    (hany : takesExt i = imms.any Src.isImm) (hext : ∀ a ∈ imms, ExtIs e a) : EncodesTo e w i := by
  rw [EncodesTo, henc]
  split
  · next h => rw [immOf_eq hext (hany ▸ h)]
  · rfl

theorem encodesTo_one (ha : ExtIs e a) (htake : takesExt i = a.isImm) (henc : encode i = w :: if a.isImm then [Src.immOf [a]] else []) :
    EncodesTo e w i :=
  encodesTo_of [a] (by rw [henc, htake]) (by simp [htake]) (by simpa using ha)

theorem encodesTo_two (ha : ExtIs e a) (hb : ExtIs e b) (htake : takesExt i = (a.isImm || b.isImm))
    (henc : encode i = w :: if a.isImm || b.isImm then [Src.immOf [a, b]] else []) : EncodesTo e w i :=
  encodesTo_of [a, b] (by rw [henc, htake]) (by simp [htake]) (by simp [ha, hb])

theorem encodesTo_none (htake : takesExt i = false) (henc : encode i = [w]) : EncodesTo e w i := by
  rw [EncodesTo, henc, htake]
  rfl

theorem eq_modeI_of (h2 : (!mode.getLsbD 2) = true) : mode = modeI (mode.getLsbD 0) (mode.getLsbD 1) :=
  eq_modeI (by simpa using h2)

theorem eq_modeI_plain (h2 : (!mode.getLsbD 2) = true) (h1 : (!mode.getLsbD 1) = true) : mode = modeI (mode.getLsbD 0) false := by
  have := eq_modeI_of h2
  rwa [show mode.getLsbD 1 = false by simpa using h1] at this

theorem eq_ofNat_of_toNat {n k : Nat} {x : BitVec n} (h : x.toNat = k) : x = BitVec.ofNat n k := by
  rw [← h, BitVec.ofNat_toNat, BitVec.setWidth_eq]

/-! ### OP 0x00 to 0x03 -/

theorem encodesTo_int {fn' : BitVec 8} {w v : Bool} (ha : ExtIs e a) (hfn : fn = fn') (hm : mode = modeI w v)
    (hb : src? e bf = some b) (htake : takesExt i = (a.isImm || b.isImm)) (henc : encode i = encInt fn' d a b w v) :
    EncodesTo e (wordOf 0x00 d.code a.code (srTail bf fn mode)) i := by
  obtain ⟨rfl, hb'⟩ := src?_eq_some hb
  subst hfn hm
  exact encodesTo_two ha hb' htake henc

theorem encodesTo_int1 {fn' : BitVec 8} {w v : Bool} (ha : ExtIs e a) (hfn : fn = fn') (hm : mode = modeI w v) (hb : bf = 0)
    (htake : takesExt i = a.isImm) (henc : encode i = encInt1 fn' d a w v) :
    EncodesTo e (wordOf 0x00 d.code a.code (srTail bf fn mode)) i := by
  subst hfn hm hb
  exact encodesTo_one ha htake henc

/-- A function field whose high half names a group and whose low half is a condition. -/
theorem eq_condFn {g : BitVec 4} {cc : Cond} (hg : fn.extractLsb' 4 4 = g) (hcc : cond? (fn.extractLsb' 0 4) = some cc) :
    fn = g ++ cc.code := by
  rw [← hg, ← cond?_eq_some hcc]
  exact (extractLsb'_self fn).symm.trans (extractLsb'_append_extractLsb' fn 0 4 4).symm

theorem srInt_encodes (ha : ExtIs e a) :
    Answers (EncodesTo e (wordOf 0x00 d.code a.code (srTail bf fn mode))) (srInt d a (src? e bf) bf fn mode) := by
  unfold srInt
  split
  case h_1 hfn =>
    simp only [answers_when?, answers_map]
    exact fun hm b hb => encodesTo_int ha (eq_ofNat_of_toNat hfn) (eq_modeI_of hm) hb rfl rfl
  case h_2 hfn =>
    simp only [answers_when?, answers_map]
    exact fun hm b hb => encodesTo_int ha (eq_ofNat_of_toNat hfn) (eq_modeI_of hm) hb rfl rfl
  case h_3 hfn =>
    simp only [answers_when?, answers_map]
    exact fun hm hv b hb => encodesTo_int ha (eq_ofNat_of_toNat hfn) (eq_modeI_plain hm hv) hb rfl rfl
  case h_4 hfn =>
    simp only [answers_when?, answers_map]
    exact fun hm hv b hb => encodesTo_int ha (eq_ofNat_of_toNat hfn) (eq_modeI_plain hm hv) hb rfl rfl
  case h_5 hfn =>
    simp only [answers_when?, answers_map]
    exact fun hm b hb => encodesTo_int ha (eq_ofNat_of_toNat hfn) (eq_modeI_of hm) hb rfl rfl
  case h_6 hfn =>
    simp only [answers_when?, answers_map]
    exact fun hm hv b hb => encodesTo_int ha (eq_ofNat_of_toNat hfn) (eq_modeI_plain hm hv) hb rfl rfl
  case h_7 hfn =>
    simp only [answers_when?, answers_map]
    exact fun hm hv b hb => encodesTo_int ha (eq_ofNat_of_toNat hfn) (eq_modeI_plain hm hv) hb rfl rfl
  case h_8 hfn =>
    simp only [answers_when?, answers_map]
    exact fun hm b hb => encodesTo_int ha (eq_ofNat_of_toNat hfn) (eq_modeI_of hm) hb rfl rfl
  case h_9 hfn =>
    simp only [answers_when?, answers_map]
    exact fun hm hv b hb => encodesTo_int ha (eq_ofNat_of_toNat hfn) (eq_modeI_plain hm hv) hb rfl rfl
  case h_10 hfn =>
    simp only [answers_when?, answers_map]
    exact fun hm hv b hb => encodesTo_int ha (eq_ofNat_of_toNat hfn) (eq_modeI_plain hm hv) hb rfl rfl
  case h_11 hfn =>
    simp only [answers_when?, answers_map]
    exact fun hm hv b hb => encodesTo_int ha (eq_ofNat_of_toNat hfn) (eq_modeI_plain hm hv) hb rfl rfl
  case h_12 hfn =>
    simp only [answers_when?, answers_map]
    exact fun hm hv b hb => encodesTo_int ha (eq_ofNat_of_toNat hfn) (eq_modeI_plain hm hv) hb rfl rfl
  case h_13 hfn =>
    simp only [answers_when?, answers_map]
    exact fun hm hv b hb => encodesTo_int ha (eq_ofNat_of_toNat hfn) (eq_modeI_plain hm hv) hb rfl rfl
  case h_14 hfn =>
    simp only [answers_when?, answers_map]
    exact fun hm hv b hb => encodesTo_int ha (eq_ofNat_of_toNat hfn) (eq_modeI_plain hm hv) hb rfl rfl
  case h_15 hfn =>
    simp only [answers_when?, answers_map]
    exact fun hm hv b hb => encodesTo_int ha (eq_ofNat_of_toNat hfn) (eq_modeI_plain hm hv) hb rfl rfl
  case h_16 hfn =>
    simp only [answers_when?, answers_map]
    exact fun hm hv b hb => encodesTo_int ha (eq_ofNat_of_toNat hfn) (eq_modeI_plain hm hv) hb rfl rfl
  case h_17 hfn =>
    simp only [answers_when?, answers_map]
    exact fun hm hv b hb => encodesTo_int ha (eq_ofNat_of_toNat hfn) (eq_modeI_plain hm hv) hb rfl rfl
  case h_18 hfn =>
    simp only [answers_when?, answers_map]
    exact fun hm hv b hb => encodesTo_int ha (eq_ofNat_of_toNat hfn) (eq_modeI_plain hm hv) hb rfl rfl
  case h_19 hfn =>
    simp only [answers_when?, answers_map]
    exact fun hm hv b hb => encodesTo_int ha (eq_ofNat_of_toNat hfn) (eq_modeI_plain hm hv) hb rfl rfl
  case h_20 hfn =>
    simp only [answers_when?, answers_map]
    exact fun hm hv b hb => encodesTo_int ha (eq_ofNat_of_toNat hfn) (eq_modeI_plain hm hv) hb rfl rfl
  case h_21 hfn =>
    simp only [answers_when?, answers_map]
    exact fun hm hv b hb => encodesTo_int ha (eq_ofNat_of_toNat hfn) (eq_modeI_plain hm hv) hb rfl rfl
  case h_22 hfn =>
    simp only [answers_when?, answers_map]
    exact fun hm hv b hb => encodesTo_int ha (eq_ofNat_of_toNat hfn) (eq_modeI_plain hm hv) hb rfl rfl
  case h_23 hfn =>
    simp only [answers_when?, answers_map]
    exact fun hm hv b hb => encodesTo_int ha (eq_ofNat_of_toNat hfn) (eq_modeI_plain hm hv) hb rfl rfl
  case h_24 hfn =>
    simp only [answers_when?, answers_some]
    exact fun hm hb => encodesTo_int1 ha (eq_ofNat_of_toNat hfn) (eq_modeI_of hm) (beq_iff_eq.1 hb) rfl rfl
  case h_25 hfn =>
    simp only [answers_when?, answers_some, Bool.and_eq_true]
    exact fun hm ⟨hv, hb⟩ => encodesTo_int1 ha (eq_ofNat_of_toNat hfn) (eq_modeI_plain hm hv) (beq_iff_eq.1 hb) rfl rfl
  case h_26 hfn =>
    simp only [answers_when?, answers_some, Bool.and_eq_true]
    exact fun hm ⟨hv, hb⟩ => encodesTo_int1 ha (eq_ofNat_of_toNat hfn) (eq_modeI_plain hm hv) (beq_iff_eq.1 hb) rfl rfl
  case h_27 hfn =>
    simp only [answers_when?, answers_some, Bool.and_eq_true]
    exact fun hm ⟨hv, hb⟩ => encodesTo_int1 ha (eq_ofNat_of_toNat hfn) (eq_modeI_plain hm hv) (beq_iff_eq.1 hb) rfl rfl
  case h_28 =>
    split
    case isTrue hg =>
      simp only [answers_when?, answers_bind, answers_map]
      exact fun hm hv cc hcc b hb =>
        encodesTo_int ha (eq_condFn (by simpa using hg) hcc) (eq_modeI_plain hm hv) hb rfl rfl
    case isFalse => simp

theorem encodesTo_float {fn' : BitVec 8} {mode' : BitVec 3} (ha : ExtIs e a) (hfn : fn = fn') (hm : mode = mode')
    (hb : src? e bf = some b) (htake : takesExt i = (a.isImm || b.isImm)) (henc : encode i = encFloat fn' d a b mode') :
    EncodesTo e (wordOf 0x01 d.code a.code (srTail bf fn mode)) i := by
  obtain ⟨rfl, hb'⟩ := src?_eq_some hb
  subst hfn hm
  exact encodesTo_two ha hb' htake henc

theorem encodesTo_float1 {fn' : BitVec 8} {rm : Rm} (ha : ExtIs e a) (hfn : fn = fn') (hm : rm? mode = some rm)
    (hb : (bf == 0) = true) (htake : takesExt i = a.isImm) (henc : encode i = encFloat1 fn' d a rm) :
    EncodesTo e (wordOf 0x01 d.code a.code (srTail bf fn mode)) i := by
  obtain rfl := rm?_eq_some hm
  obtain rfl := beq_iff_eq.1 hb
  subst hfn
  exact encodesTo_one ha htake henc

theorem srFloat_encodes (ha : ExtIs e a) :
    Answers (EncodesTo e (wordOf 0x01 d.code a.code (srTail bf fn mode))) (srFloat d a (src? e bf) bf fn mode) := by
  unfold srFloat
  split
  case h_1 hfn =>
    simp only [answers_bind, answers_map]
    exact fun rm hm b hb => encodesTo_float ha (eq_ofNat_of_toNat hfn) (rm?_eq_some hm) hb rfl rfl
  case h_2 hfn =>
    simp only [answers_bind, answers_map]
    exact fun rm hm b hb => encodesTo_float ha (eq_ofNat_of_toNat hfn) (rm?_eq_some hm) hb rfl rfl
  case h_3 hfn =>
    simp only [answers_when?, answers_map]
    exact fun hm b hb => encodesTo_float ha (eq_ofNat_of_toNat hfn) (beq_iff_eq.1 hm) hb rfl rfl
  case h_4 hfn =>
    simp only [answers_when?, answers_map]
    exact fun hm b hb => encodesTo_float ha (eq_ofNat_of_toNat hfn) (beq_iff_eq.1 hm) hb rfl rfl
  case h_5 hfn =>
    simp only [answers_when?, answers_map]
    exact fun hb rm hm => encodesTo_float1 ha (eq_ofNat_of_toNat hfn) hm hb rfl rfl
  case h_6 hfn =>
    simp only [answers_when?, answers_map]
    exact fun hb rm hm => encodesTo_float1 ha (eq_ofNat_of_toNat hfn) hm hb rfl rfl
  case h_7 hfn =>
    simp only [answers_when?, answers_map]
    exact fun hb rm hm => encodesTo_float1 ha (eq_ofNat_of_toNat hfn) hm hb rfl rfl
  case h_8 hfn =>
    simp only [answers_when?, answers_map]
    exact fun hb rm hm => encodesTo_float1 ha (eq_ofNat_of_toNat hfn) hm hb rfl rfl
  case h_9 =>
    split
    case isTrue hg =>
      simp only [answers_when?, answers_bind, answers_map]
      exact fun cc hcc hm b hb => encodesTo_float ha (eq_condFn (by simpa using hg) hcc) (beq_iff_eq.1 hm) hb rfl rfl
    case isFalse => simp

theorem srThree_encodes (ha : ExtIs e a) (hb : ExtIs e b) :
    Answers (EncodesTo e (wordOf 0x02 d.code a.code (srTail b.code fn mode))) (srThree e d a b fn mode) := by
  have hfn : fn = fn.extractLsb' 3 5 ++ fn.extractLsb' 0 3 :=
    (extractLsb'_self fn).symm.trans (extractLsb'_append_extractLsb' fn 0 5 3).symm
  have three {sub mode' : BitVec 3} {c : Src} {i : Instr} (hm : mode = mode') (hc : src? e (fn.extractLsb' 3 5) = some c) (hs : fn.extractLsb' 0 3 = sub)
      (htake : takesExt i = (a.isImm || b.isImm || c.isImm)) (henc : encode i = encThree sub mode' d a b c) :
      EncodesTo e (wordOf 0x02 d.code a.code (srTail b.code fn mode)) i := by
    obtain ⟨hcode, hc⟩ := src?_eq_some hc
    rw [hfn, hcode, hs, hm]
    exact encodesTo_of [a, b, c] (by rw [henc, htake]; rfl) (by simp [htake, Bool.or_assoc]) (by simp [ha, hb, hc])
  unfold srThree
  simp only [answers_bind]
  intro c hc
  split
  case h_1 hs =>
    simp only [answers_when?, answers_some, Bool.and_eq_true]
    exact fun ⟨h1, h2⟩ => three (eq_modeI_plain h2 h1) hc (eq_ofNat_of_toNat hs) rfl rfl
  case h_2 hs =>
    simp only [answers_map]
    exact fun rm hm => three (rm?_eq_some hm) hc (eq_ofNat_of_toNat hs) rfl rfl
  case h_3 => simp

/-! ### OP 0x04 to 0x17 and 0x28 to 0x37: the SI forms -/

theorem encodesTo_A (ha : src? e af = some a) (htake : takesExt i = a.isImm) (henc : encode i = encA op df a lo) :
    EncodesTo e (wordOf op df af lo) i := by
  obtain ⟨rfl, ha'⟩ := src?_eq_some ha
  exact encodesTo_one ha' htake henc

theorem encodesTo_dstA (hd : dst? df = some d) (ha : src? e af = some a) (htake : takesExt i = a.isImm)
    (henc : encode i = encA op d.code a lo) : EncodesTo e (wordOf op df af lo) i :=
  encodesTo_A ha htake (dst?_eq_some hd ▸ henc)

theorem encodesTo_regA {n : SReg} (hd : reg? df = some n) (ha : src? e af = some a) (htake : takesExt i = a.isImm)
    (henc : encode i = encA op n.code a lo) : EncodesTo e (wordOf op df af lo) i :=
  encodesTo_A ha htake (reg?_eq_code hd ▸ henc)

theorem encodesTo_DA (hv : src? e df = some v) (ha : src? e af = some a) (htake : takesExt i = (a.isImm || v.isImm))
    (henc : encode i = encDA op v a lo) : EncodesTo e (wordOf op df af lo) i := by
  obtain ⟨rfl, hv'⟩ := src?_eq_some hv
  obtain ⟨rfl, ha'⟩ := src?_eq_some ha
  exact encodesTo_two ha' hv' htake henc

/-- The OP of a word of an SI form. -/
theorem op_eq_of_siForm (op : BitVec 6) : op = BitVec.ofNat 6 ((op.extractLsb' 0 5).toNat + 32 * (op.getLsbD 5).toNat) := by
  revert op
  decide

/-- A field whose high part is known. -/
theorem half_10_6 {x : Half} {y : BitVec 10} (h : x.extractLsb' 6 10 = y) : x = y ++ x.extractLsb' 0 6 :=
  (extractLsb'_self x).symm.trans ((extractLsb'_append_extractLsb' x 0 10 6).symm.trans (congrArg (· ++ x.extractLsb' 0 6) h))
@[inherit_doc half_10_6]
theorem half_4_12 {x : Half} {y : BitVec 4} (h : x.extractLsb' 12 4 = y) : x = y ++ x.extractLsb' 0 12 :=
  (extractLsb'_self x).symm.trans ((extractLsb'_append_extractLsb' x 0 4 12).symm.trans (congrArg (· ++ x.extractLsb' 0 12) h))
@[inherit_doc half_10_6]
theorem half_11_5 {x : Half} {y : BitVec 11} (h : x.extractLsb' 5 11 = y) : x = y ++ x.extractLsb' 0 5 :=
  (extractLsb'_self x).symm.trans ((extractLsb'_append_extractLsb' x 0 11 5).symm.trans (congrArg (· ++ x.extractLsb' 0 5) h))
@[inherit_doc half_10_6]
theorem half_6_5_5 {x : Half} {y : BitVec 6} (h : x.extractLsb' 10 6 = y) : x = y ++ (x.extractLsb' 5 5 ++ x.extractLsb' 0 5) :=
  (extractLsb'_self x).symm.trans <| (extractLsb'_append_extractLsb' x 0 6 10).symm.trans <|
    (congrArg (· ++ x.extractLsb' 0 10) h).trans (congrArg (y ++ ·) (extractLsb'_append_extractLsb' x 0 5 5).symm)
@[inherit_doc half_10_6]
theorem half_4_4_4_4 (x : Half) : x = x.extractLsb' 12 4 ++ (x.extractLsb' 8 4 ++ (x.extractLsb' 4 4 ++ x.extractLsb' 0 4)) :=
  (extractLsb'_self x).symm.trans <| (extractLsb'_append_extractLsb' x 0 4 12).symm.trans <| congrArg (x.extractLsb' 12 4 ++ ·) <|
    (extractLsb'_append_extractLsb' x 0 4 8).symm.trans <| congrArg (x.extractLsb' 8 4 ++ ·) (extractLsb'_append_extractLsb' x 0 4 4).symm

/-- An SI word with a shift amount. -/
theorem encodesTo_shift {f : Dst → Src → BitVec 6 → Instr} (hlo : (lo.extractLsb' 6 10 == 0) = true) (hd : dst? df = some d)
    (ha : src? e af = some a) (htake : ∀ n, takesExt (f d a n) = a.isImm)
    (henc : ∀ n : BitVec 6, encode (f d a n) = encA op d.code a ((0 : BitVec 10) ++ n)) :
    EncodesTo e (wordOf op df af lo) (f d a (lo.extractLsb' 0 6)) :=
  encodesTo_dstA hd ha (htake _) ((henc _).trans (congrArg _ (half_10_6 (beq_iff_eq.1 hlo)).symm))

/-- An SI word with a bit field. -/
theorem encodesTo_bitField {f : Dst → Src → BitVec 5 → BitVec 5 → Instr} (hlo : (lo.extractLsb' 10 6 == 0) = true)
    (hd : dst? df = some d) (ha : src? e af = some a) (htake : ∀ p l, takesExt (f d a p l) = a.isImm)
    (henc : ∀ p l : BitVec 5, encode (f d a p l) = encA op d.code a ((0 : BitVec 6) ++ (p ++ l))) :
    EncodesTo e (wordOf op df af lo) (f d a (lo.extractLsb' 5 5) (lo.extractLsb' 0 5)) :=
  encodesTo_dstA hd ha (htake _ _) ((henc _ _).trans (congrArg _ (half_6_5_5 (beq_iff_eq.1 hlo)).symm))

theorem siForm_encodes : Answers (EncodesTo e (wordOf op df af lo)) (siForm e (op.extractLsb' 0 5) df af (op.getLsbD 5) lo) := by
  have hop := op_eq_of_siForm op
  revert hop
  generalize op.extractLsb' 0 5 = op5
  generalize op.getLsbD 5 = hi
  unfold siForm
  split
  case h_1 hop5 =>
    simp only [hop5, answers_bind, answers_map]
    rintro rfl d hd a ha
    exact encodesTo_dstA hd ha rfl rfl
  case h_2 hop5 =>
    simp only [hop5, answers_bind, answers_map]
    rintro rfl d hd a ha
    exact encodesTo_dstA hd ha rfl rfl
  case h_3 hop5 =>
    simp only [hop5, answers_bind, answers_map]
    rintro rfl d hd a ha
    exact encodesTo_dstA hd ha rfl rfl
  case h_4 hop5 =>
    simp only [hop5, answers_bind, answers_map]
    rintro rfl d hd a ha
    exact encodesTo_dstA hd ha rfl rfl
  case h_5 hop5 =>
    simp only [hop5, answers_when?, answers_bind, answers_map]
    rintro rfl hlo d hd a ha
    exact encodesTo_shift (f := .shli) hlo hd ha (fun _ => rfl) fun _ => rfl
  case h_6 hop5 =>
    simp only [hop5, answers_when?, answers_bind, answers_map]
    rintro rfl hlo d hd a ha
    exact encodesTo_shift (f := .shri) hlo hd ha (fun _ => rfl) fun _ => rfl
  case h_7 hop5 =>
    simp only [hop5, answers_when?, answers_bind, answers_map]
    rintro rfl hlo d hd a ha
    exact encodesTo_shift (f := .srai) hlo hd ha (fun _ => rfl) fun _ => rfl
  case h_8 hop5 =>
    simp only [hop5, answers_when?, answers_map, beq_iff_eq]
    rintro rfl rfl d hd
    obtain rfl := dst?_eq_some hd
    exact encodesTo_none rfl rfl
  case h_9 hop5 =>
    simp only [hop5, answers_when?, answers_map, beq_iff_eq]
    rintro rfl rfl n hn
    obtain rfl := reg?_eq_code hn
    exact encodesTo_none rfl rfl
  case h_10 hop5 =>
    simp only [hop5, answers_bind, answers_map]
    rintro rfl cc hcc d hd a ha
    exact encodesTo_dstA hd ha rfl (congrArg (encA 0x0E d.code a) (half_4_12 (cond?_eq_some hcc)).symm)
  case h_11 hop5 =>
    simp only [hop5, answers_when?, answers_bind, answers_map]
    rintro rfl hlo d hd a ha
    exact encodesTo_bitField (f := .bfx) hlo hd ha (fun _ _ => rfl) fun _ _ => rfl
  case h_12 hop5 =>
    simp only [hop5, answers_when?, answers_bind, answers_map]
    rintro rfl hlo d hd a ha
    exact encodesTo_bitField (f := .bfxu) hlo hd ha (fun _ _ => rfl) fun _ _ => rfl
  case h_13 hop5 =>
    simp only [hop5, answers_when?, answers_bind, answers_map, beq_iff_eq]
    rintro rfl hlo n hn a ha
    exact encodesTo_regA hn ha rfl (congrArg (encA 0x11 n.code a) (half_6_5_5 hlo).symm)
  case h_14 hop5 =>
    simp only [hop5, answers_bind, answers_map]
    rintro rfl n hn a ha
    exact encodesTo_regA hn ha rfl rfl
  case h_15 hop5 =>
    simp only [hop5, answers_bind, answers_map]
    rintro rfl n hn a ha
    exact encodesTo_regA hn ha rfl rfl
  case h_16 hop5 =>
    simp only [hop5, answers_bind, answers_map]
    rintro rfl n hn a ha
    exact encodesTo_regA hn ha rfl rfl
  case h_17 hop5 =>
    simp only [hop5, answers_bind, answers_map]
    rintro rfl n hn a ha
    exact encodesTo_regA hn ha rfl rfl
  case h_18 hop5 =>
    simp only [hop5, answers_bind, answers_map]
    rintro rfl v hv a ha
    exact encodesTo_DA hv ha (Bool.or_comm _ _) rfl
  case h_19 hop5 =>
    simp only [hop5, answers_bind, answers_map]
    rintro rfl v hv a ha
    exact encodesTo_DA hv ha (Bool.or_comm _ _) rfl
  case h_20 hop5 =>
    simp only [hop5, answers_bind, answers_map]
    rintro rfl v hv a ha
    exact encodesTo_DA hv ha (Bool.or_comm _ _) rfl
  case h_21 hop5 =>
    simp only [hop5, answers_bind, answers_map]
    rintro rfl v hv a ha
    exact encodesTo_DA hv ha (Bool.or_comm _ _) rfl
  case h_22 hop5 =>
    simp only [hop5, answers_when?, answers_some, Bool.and_eq_true, beq_iff_eq]
    rintro rfl ⟨rfl, rfl⟩
    exact encodesTo_none rfl (congrArg (fun x => [wordOf 0x31 0 0 x]) (half_4_4_4_4 lo).symm)
  case h_23 => simp

end

/-! ### OP 0x18 to 0x27 and 0x30 -/

section
variable {e w : Word} {i : Instr} {a b c v : Src} {d : Dst} {df af cond : BitVec 5} {lo disp : Half} {lvl kind : BitVec 3}
  {tag : BitVec 10} {sf : BitVec 4} {arg : BitVec 12} {op : BitVec 6} {gen : Nat}

theorem encodesTo_SB (ha : src? e df = some a) (htake : takesExt i = a.isImm) (henc : encode i = encSB op a af lo) :
    EncodesTo e (wordOf op df af lo) i := by
  obtain ⟨rfl, ha'⟩ := src?_eq_some ha
  exact encodesTo_one ha' htake henc

/-- The OP of a word of an SB form. -/
theorem op_eq_of_sbForm (h : op.extractLsb' 3 3 = 4) : op = BitVec.ofNat 6 (0x20 + (op.extractLsb' 0 3).toNat) := by
  revert op
  decide

theorem cond_bit (h : (cond.extractLsb' 1 4 == 0) = true) : cond = (0 : BitVec 4) ++ bit (cond.getLsbD 0) := by
  revert cond
  decide

theorem cond_kind (h : (cond.extractLsb' 3 2 == 0) = true) : cond = (0 : BitVec 2) ++ cond.extractLsb' 0 3 := by
  revert cond
  decide

theorem queue_lvl : af = af.extractLsb' 2 3 ++ BitVec.ofNat 2 (Fin.ofNat 4 (af.extractLsb' 0 2).toNat : QIn).val := by
  revert af
  decide

theorem sbForm_encodes (hop : op.extractLsb' 3 3 = 4) :
    Answers (EncodesTo e (wordOf op df af lo)) (sbForm e (op.extractLsb' 0 3) df af lo) := by
  have hop := op_eq_of_sbForm hop
  revert hop
  generalize op.extractLsb' 0 3 = sel
  unfold sbForm
  split
  case h_1 hsel =>
    simp only [hsel, answers_when?, answers_some, Bool.and_eq_true, beq_iff_eq]
    rintro rfl ⟨rfl, rfl⟩
    exact encodesTo_none rfl rfl
  case h_2 hsel =>
    simp only [hsel, answers_when?, answers_map, beq_iff_eq]
    rintro rfl rfl a ha
    exact encodesTo_SB ha rfl rfl
  case h_3 hsel =>
    simp only [hsel, answers_when?, answers_map, beq_iff_eq]
    rintro rfl rfl a ha
    exact encodesTo_SB ha rfl rfl
  case h_4 hsel =>
    simp only [hsel, answers_when?, answers_map]
    rintro rfl hc k hk
    refine encodesTo_none rfl ?_
    rw [kin?_eq_some hk]
    exact congrArg (fun c => [wordOf 0x23 k.code c lo]) (cond_bit hc).symm
  case h_5 hsel =>
    simp only [hsel, answers_when?, answers_some]
    rintro rfl hc
    refine encodesTo_none rfl ?_
    exact congrArg₂ (fun q c => [wordOf 0x24 q c lo]) queue_lvl.symm (cond_kind hc).symm
  case h_6 hsel =>
    simp only [hsel, answers_when?, answers_map, Bool.and_eq_true, beq_iff_eq]
    rintro rfl ⟨rfl, hd⟩ a ha
    exact encodesTo_SB ha rfl (congrArg (encSB 0x25 a 0) (half_11_5 hd).symm)
  case h_7 hsel =>
    simp only [hsel, answers_when?, answers_some, Bool.and_eq_true, beq_iff_eq]
    rintro rfl ⟨⟨rfl, rfl⟩, rfl⟩
    exact encodesTo_none rfl rfl
  case h_8 => simp

theorem sendForm_encodes : Answers (EncodesTo e (wordOf 0x18 df af (stTail lvl tag kind))) (sendForm e df af lvl tag kind) := by
  unfold sendForm
  simp only [answers_bind]
  intro o ho
  obtain rfl := port?_eq_some ho
  split
  case h_1 hk =>
    obtain rfl := eq_ofNat_of_toNat hk
    simp only [answers_when?, answers_map, beq_iff_eq]
    rintro rfl a ha
    exact encodesTo_A ha rfl rfl
  case h_2 hk =>
    obtain rfl := eq_ofNat_of_toNat hk
    simp only [answers_when?, answers_some, beq_iff_eq]
    rintro rfl
    exact encodesTo_none rfl rfl
  case h_3 hk =>
    obtain rfl := eq_ofNat_of_toNat hk
    simp only [answers_when?, answers_some, Bool.and_eq_true, beq_iff_eq]
    rintro ⟨rfl, rfl⟩
    exact encodesTo_none rfl rfl
  case h_4 => simp

theorem tokenForm_encodes : Answers (EncodesTo e (wordOf 0x19 df af (stTail lvl tag kind))) (tokenForm e df af lvl tag kind) := by
  unfold tokenForm
  simp only [answers_when?, Bool.and_eq_true, beq_iff_eq]
  rintro ⟨rfl, rfl⟩
  split
  case h_1 hf =>
    obtain rfl := eq_ofNat_of_toNat hf
    simp only [answers_bind, answers_map]
    rintro d hd q hq
    obtain rfl := dst?_eq_some hd
    obtain rfl := queue?_eq_some hq
    exact encodesTo_none rfl rfl
  case h_2 hf =>
    obtain rfl := eq_ofNat_of_toNat hf
    simp only [answers_bind, answers_map]
    rintro n hn q hq
    obtain rfl := reg?_eq_code hn
    obtain rfl := peek?_eq_some hq
    exact encodesTo_none rfl rfl
  case h_3 hf =>
    obtain rfl := eq_ofNat_of_toNat hf
    simp only [answers_when?, answers_map, beq_iff_eq]
    rintro rfl q hq
    obtain rfl := queue?_eq_some hq
    exact encodesTo_none rfl rfl
  case h_4 hf =>
    obtain rfl := eq_ofNat_of_toNat hf
    simp only [answers_bind, answers_map]
    rintro q hq c hc
    obtain rfl := queue?_eq_some hq
    obtain ⟨rfl, hc'⟩ := src?_eq_some hc
    exact encodesTo_one hc' rfl rfl
  case h_5 hf =>
    obtain rfl := eq_ofNat_of_toNat hf
    simp only [answers_bind, answers_map]
    rintro o ho c hc
    obtain rfl := port?_eq_some ho
    exact encodesTo_A hc rfl rfl
  case h_6 hf =>
    obtain rfl := eq_ofNat_of_toNat hf
    simp only [answers_bind, answers_map]
    rintro o ho q hq
    obtain rfl := port?_eq_some ho
    obtain rfl := queue?_eq_some hq
    exact encodesTo_none rfl rfl
  case h_7 hf =>
    obtain rfl := eq_ofNat_of_toNat hf
    simp only [answers_when?, answers_map, beq_iff_eq]
    rintro rfl o ho
    obtain rfl := port?_eq_some ho
    exact encodesTo_none rfl rfl
  case h_8 hf =>
    obtain rfl := eq_ofNat_of_toNat hf
    simp only [answers_bind, answers_map]
    rintro o ho q hq
    obtain rfl := port?_eq_some ho
    obtain rfl := queue?_eq_some hq
    exact encodesTo_none rfl rfl
  case h_9 hf =>
    obtain rfl := eq_ofNat_of_toNat hf
    simp only [answers_when?, answers_map, beq_iff_eq]
    rintro rfl a ha
    exact encodesTo_A ha rfl rfl
  case h_10 hf =>
    obtain rfl := eq_ofNat_of_toNat hf
    simp only [answers_when?, answers_map, beq_iff_eq]
    rintro rfl a ha
    exact encodesTo_A ha rfl rfl
  case h_11 hf =>
    obtain rfl := eq_ofNat_of_toNat hf
    simp only [answers_when?, answers_map, beq_iff_eq]
    rintro rfl k hk
    obtain rfl := kin?_eq_some hk
    exact encodesTo_none rfl rfl
  case h_12 => simp

theorem crc_arg (h : arg.extractLsb' 2 10 = 0) : arg = (0 : BitVec 10) ++ arg.extractLsb' 0 2 :=
  (extractLsb'_self arg).symm.trans ((extractLsb'_append_extractLsb' arg 0 10 2).symm.trans (congrArg (· ++ arg.extractLsb' 0 2) h))
theorem amsg_arg (h : arg.extractLsb' 4 8 = 0) : arg = (0 : BitVec 8) ++ arg.extractLsb' 0 4 :=
  (extractLsb'_self arg).symm.trans ((extractLsb'_append_extractLsb' arg 0 8 4).symm.trans (congrArg (· ++ arg.extractLsb' 0 4) h))
theorem qpop_arg (h : arg.extractLsb' 5 7 = 0) : arg = (0 : BitVec 7) ++ (bit (arg.getLsbD 4) ++ arg.extractLsb' 0 4) := by
  have hbit : arg.extractLsb' 4 1 = bit (arg.getLsbD 4) := by
    refine BitVec.eq_of_getLsbD_eq fun i hi => ?_
    obtain rfl : i = 0 := by omega
    rw [BitVec.getLsbD_extractLsb', getLsbD_bit]
    rfl
  exact (extractLsb'_self arg).symm.trans <| (extractLsb'_append_extractLsb' arg 0 7 5).symm.trans <|
    (congrArg (· ++ arg.extractLsb' 0 5) h).trans <| congrArg ((0 : BitVec 7) ++ ·) <|
      (extractLsb'_append_extractLsb' arg 0 1 4).symm.trans (congrArg (· ++ arg.extractLsb' 0 4) hbit)

theorem sxForm_encodes : Answers (EncodesTo e (wordOf 0x30 df af (sxTail sf arg))) (sxForm e df af sf arg) := by
  unfold sxForm
  split
  case h_1 hf =>
    obtain rfl := eq_ofNat_of_toNat hf
    simp only [answers_when?, answers_bind, answers_map, answers_some, Bool.and_eq_true, beq_iff_eq]
    rintro rfl n hn a ha
    exact encodesTo_regA hn ha rfl rfl
  case h_2 hf =>
    obtain rfl := eq_ofNat_of_toNat hf
    simp only [answers_when?, answers_bind, answers_map, answers_some, Bool.and_eq_true, beq_iff_eq]
    rintro ⟨rfl, rfl⟩ a ha
    exact encodesTo_A ha rfl rfl
  case h_3 hf =>
    obtain rfl := eq_ofNat_of_toNat hf
    simp only [answers_when?, answers_bind, answers_map, answers_some, Bool.and_eq_true, beq_iff_eq]
    rintro ⟨rfl, rfl⟩ a ha
    exact encodesTo_A ha rfl rfl
  case h_4 hf =>
    obtain rfl := eq_ofNat_of_toNat hf
    simp only [answers_when?, answers_bind, answers_map, answers_some, Bool.and_eq_true, beq_iff_eq]
    rintro rfl a ha d hd
    exact encodesTo_DA hd ha rfl rfl
  case h_5 hf =>
    obtain rfl := eq_ofNat_of_toNat hf
    simp only [answers_when?, answers_bind, answers_map, answers_some, Bool.and_eq_true, beq_iff_eq]
    rintro rfl n hn
    obtain rfl := reg?_eq_code hn
    exact encodesTo_none rfl rfl
  case h_6 hf =>
    obtain rfl := eq_ofNat_of_toNat hf
    simp only [answers_when?, answers_bind, answers_map, answers_some, Bool.and_eq_true, beq_iff_eq]
    rintro rfl a ha
    exact encodesTo_A ha rfl rfl
  case h_7 hf =>
    obtain rfl := eq_ofNat_of_toNat hf
    simp only [answers_when?, answers_bind, answers_map, answers_some, Bool.and_eq_true, beq_iff_eq]
    rintro harg n hn a ha
    exact encodesTo_regA hn ha rfl (congrArg (fun x => encA 0x30 n.code a (sxTail 6 x)) (crc_arg harg).symm)
  case h_8 hf =>
    obtain rfl := eq_ofNat_of_toNat hf
    simp only [answers_when?, answers_bind, answers_map, answers_some, Bool.and_eq_true, beq_iff_eq]
    rintro ⟨rfl, rfl⟩
    exact encodesTo_none rfl rfl
  case h_9 hf =>
    obtain rfl := eq_ofNat_of_toNat hf
    simp only [answers_when?, answers_bind, answers_map, answers_some, Bool.and_eq_true, beq_iff_eq]
    rintro ⟨⟨rfl, rfl⟩, rfl⟩
    exact encodesTo_none rfl rfl
  case h_10 hf =>
    obtain rfl := eq_ofNat_of_toNat hf
    simp only [answers_when?, answers_bind, answers_map, answers_some, Bool.and_eq_true, beq_iff_eq]
    rintro ⟨⟨rfl, rfl⟩, rfl⟩
    exact encodesTo_none rfl rfl
  case h_11 hf =>
    obtain rfl := eq_ofNat_of_toNat hf
    simp only [answers_when?, answers_bind, answers_map, answers_some, Bool.and_eq_true, beq_iff_eq]
    rintro ⟨rfl, harg⟩ d hd
    obtain rfl := dst?_eq_some hd
    exact encodesTo_none rfl (congrArg (fun x => [wordOf 0x30 d.code 0 (sxTail 10 x)]) (qpop_arg harg).symm)
  case h_12 hf =>
    obtain rfl := eq_ofNat_of_toNat hf
    simp only [answers_when?, answers_bind, answers_map, answers_some, Bool.and_eq_true, beq_iff_eq]
    rintro ⟨rfl, rfl⟩
    exact encodesTo_none rfl rfl
  case h_13 hf =>
    obtain rfl := eq_ofNat_of_toNat hf
    simp only [answers_when?, answers_bind, answers_map, answers_some, Bool.and_eq_true, beq_iff_eq]
    rintro harg a ha d hd
    exact encodesTo_DA hd ha rfl (congrArg (fun x => encDA 0x30 d a (sxTail 12 x)) (amsg_arg harg).symm)
  case h_14 hf =>
    obtain rfl := eq_ofNat_of_toNat hf
    simp only [answers_when?, answers_bind, answers_map, answers_some, Bool.and_eq_true, beq_iff_eq]
    rintro rfl a ha
    exact encodesTo_A ha rfl rfl
  case h_15 hf =>
    obtain rfl := eq_ofNat_of_toNat hf
    simp only [answers_when?, answers_bind, answers_map, answers_some, Bool.and_eq_true, beq_iff_eq]
    rintro ⟨⟨rfl, rfl⟩, rfl⟩
    exact encodesTo_none rfl rfl
  case h_16 h0 h1 h2 h3 h4 h5 h6 h7 h8 h9 h10 h11 h12 h13 h14 =>
    have hlt := sf.isLt
    have h15 : sf.toNat = 15 := by
      generalize sf.toNat = n at *
      interval_cases n <;> simp_all
    obtain rfl := eq_ofNat_of_toNat h15
    simp only [answers_when?, answers_bind, answers_map, beq_iff_eq]
    rintro rfl a ha d hd
    exact encodesTo_DA hd ha rfl rfl

theorem retiredForm_encodes (hgen : gen ∈ [1, 2, 3]) : Answers (EncodesTo e (wordOf op df af lo)) (retiredForm e gen op df af lo) := by
  unfold retiredForm
  split
  case h_1 hf =>
    obtain rfl := eq_ofNat_of_toNat hf
    simp only [answers_when?, answers_bind, answers_map, answers_some, Bool.and_eq_true, beq_iff_eq]
    rintro ⟨-, rfl⟩ d hd a ha
    exact encodesTo_dstA hd ha rfl rfl
  case h_2 hf =>
    obtain rfl := eq_ofNat_of_toNat hf
    simp only [answers_when?, answers_bind, answers_map, answers_some, Bool.and_eq_true, beq_iff_eq]
    rintro ⟨-, rfl⟩ d hd a ha
    exact encodesTo_dstA hd ha rfl rfl
  case h_3 hf =>
    obtain rfl := eq_ofNat_of_toNat hf
    simp only [answers_when?, answers_bind, answers_map, answers_some, Bool.and_eq_true, beq_iff_eq]
    rintro ⟨-, rfl⟩ n hn a ha
    exact encodesTo_regA hn ha rfl rfl
  case h_4 hf =>
    obtain rfl := eq_ofNat_of_toNat hf
    simp only [answers_when?, answers_bind, answers_map, answers_some, Bool.and_eq_true, beq_iff_eq]
    rintro ⟨-, hlo⟩ d hd a ha b hb rm hrm
    obtain rfl := dst?_eq_some hd
    obtain ⟨rfl, ha'⟩ := src?_eq_some ha
    obtain ⟨hcode, hb'⟩ := src?_eq_some hb
    refine encodesTo_two ha' hb' rfl ?_
    rw [← srTail_fields lo, hcode, hlo, rm?_eq_some hrm]
    rfl
  case h_5 hf =>
    obtain rfl := eq_ofNat_of_toNat hf
    simp only [answers_when?, answers_bind, answers_map, answers_some, Bool.and_eq_true, beq_iff_eq]
    rintro ⟨-, rfl⟩ d hd a ha
    exact encodesTo_dstA hd ha rfl rfl
  case h_6 => simp

/-! ### Whole words -/

theorem scalarForm_encodes : Answers (EncodesTo e (wordOf op df af lo)) (scalarForm e op df af lo) := by
  have hsr := srTail_fields lo
  have hst := stTail_fields lo
  have hsx := sxTail_fields lo
  unfold scalarForm
  split
  case h_1 hop =>
    obtain rfl := eq_ofNat_of_toNat hop
    simp only [answers_bind]
    intro d hd a ha
    obtain ⟨rfl, ha'⟩ := src?_eq_some ha
    rw [dst?_eq_some hd, ← hsr, srTail_b, srTail_fn, srTail_mode]
    exact srInt_encodes ha'
  case h_2 hop =>
    obtain rfl := eq_ofNat_of_toNat hop
    simp only [answers_bind]
    intro d hd a ha
    obtain ⟨rfl, ha'⟩ := src?_eq_some ha
    rw [dst?_eq_some hd, ← hsr, srTail_b, srTail_fn, srTail_mode]
    exact srFloat_encodes ha'
  case h_3 hop =>
    obtain rfl := eq_ofNat_of_toNat hop
    simp only [answers_bind]
    intro d hd a ha b hb
    obtain ⟨rfl, ha'⟩ := src?_eq_some ha
    obtain ⟨hcode, hb'⟩ := src?_eq_some hb
    rw [dst?_eq_some hd, ← hsr, hcode, srTail_fn, srTail_mode]
    exact srThree_encodes ha' hb'
  case h_4 hop =>
    obtain rfl := eq_ofNat_of_toNat hop
    simp only [answers_when?, answers_bind, answers_map]
    intro hm n hn a ha b hb fn hfn
    obtain ⟨rfl, ha'⟩ := src?_eq_some ha
    obtain ⟨hcode, hb'⟩ := src?_eq_some hb
    refine encodesTo_two ha' hb' rfl ?_
    rw [reg?_eq_code hn, ← hsr, hcode, rmwFn?_eq_some hfn, eq_modeI_of hm, srTail_mode, modeI_0, modeI_1]
    rfl
  case h_5 hop =>
    obtain rfl := eq_ofNat_of_toNat hop
    rw [← hst, stTail_lvl, stTail_fn, stTail_kind]
    exact sendForm_encodes
  case h_6 hop =>
    obtain rfl := eq_ofNat_of_toNat hop
    rw [← hst, stTail_lvl, stTail_fn, stTail_kind]
    exact tokenForm_encodes
  case h_7 hop =>
    obtain rfl := eq_ofNat_of_toNat hop
    rw [← hsx, sxTail_sf, sxTail_arg]
    exact sxForm_encodes
  case h_8 =>
    split
    case isTrue hsb => exact sbForm_encodes (beq_iff_eq.1 hsb)
    case isFalse => exact siForm_encodes

/-- A word that a scalar map holds is the encoding of what it decodes to. -/
theorem encode_of_decodeScalar (hgen : gen ∈ [1, 2, 3]) (h : decodeScalar gen w e = some i) :
    encode i = if takesExt i then [w, e] else [w] := by
  have henc : EncodesTo e w i := by
    obtain ⟨-, h⟩ := decodeScalar_eq_some.1 h
    rw [← wordOf_fields w]
    rcases Option.or_eq_some_iff.1 h with h | ⟨-, h⟩
    · exact scalarForm_encodes i h
    · exact retiredForm_encodes hgen i h
  rw [henc]
  split <;> rfl

end

end Sys2Proof.Machine

namespace Sys2Proof.Machine

/-! SUPPORT and PROOFS. A vector word that decodes is the encoding of what it decodes to; decoding and encoding agree (R93, R94). -/

/-- The word of an instruction is `w`. -/
def EncodesToV (w : Word) (i : Instr) : Prop := encode i = [w]

section
variable {op : BitVec 6} {d a b c : VNum} {df af : BitVec 5} {fn : BitVec 4} {pe : BitVec 1} {pr rnd : BitVec 3} {lo : Half} {w : Word}

theorem predDest_eq (h : df.extractLsb' 3 2 = 0) :
    df = (0 : BitVec 2) ++ BitVec.ofNat 3 (Fin.ofNat 8 (df.extractLsb' 0 3).toNat : PNum).val := by
  revert df
  decide

theorem amountParts {fn : BitVec 4} {b : BitVec 5} : (fn ++ b : BitVec 9).extractLsb' 5 4 = fn ∧ (fn ++ b : BitVec 9).extractLsb' 0 5 = b :=
  ⟨(extractLsb'_append_high fn b (by decide)).trans (extractLsb'_self fn),
    (extractLsb'_append_low fn b (by decide)).trans (extractLsb'_self b)⟩

theorem vrForm_encodes : Answers (EncodesToV (wordOf op d.code a.code (b.code ++ (fn ++ (pe ++ (pr ++ rnd))))))
    (vrForm op d.code a.code b.code fn pe pr rnd) := by
  unfold vrForm
  split
  case h_1 hop =>
    obtain rfl := eq_ofNat_of_toNat hop
    simp only [vnum_code, answers_when?, answers_bind, answers_map, answers_some, Bool.and_eq_true, beq_iff_eq]
    rintro rfl p hp rm hrm
    obtain ⟨rfl, rfl⟩ := pred?_eq_some hp
    obtain rfl := rm?_eq_some hrm
    rfl
  case h_2 hop =>
    obtain rfl := eq_ofNat_of_toNat hop
    simp only [vnum_code, answers_when?, answers_bind, answers_map, answers_some, Bool.and_eq_true, beq_iff_eq]
    rintro rfl p hp rm hrm
    obtain ⟨rfl, rfl⟩ := pred?_eq_some hp
    obtain rfl := rm?_eq_some hrm
    rfl
  case h_3 hop =>
    obtain rfl := eq_ofNat_of_toNat hop
    simp only [vnum_code, answers_when?, answers_bind, answers_map, answers_some, Bool.and_eq_true, beq_iff_eq]
    rintro rfl p hp rm hrm
    obtain ⟨rfl, rfl⟩ := pred?_eq_some hp
    obtain rfl := rm?_eq_some hrm
    rfl
  case h_4 hop =>
    obtain rfl := eq_ofNat_of_toNat hop
    simp only [vnum_code, answers_when?, answers_bind, answers_map, answers_some, Bool.and_eq_true, beq_iff_eq]
    rintro hb ⟨rfl, rfl⟩ p hp
    obtain ⟨rfl, rfl⟩ := pred?_eq_some hp
    rw [hb]
    rfl
  case h_5 hop =>
    obtain rfl := eq_ofNat_of_toNat hop
    simp only [vnum_code, answers_when?, answers_bind, answers_map, answers_some, Bool.and_eq_true, beq_iff_eq]
    rintro hb ⟨rfl, rfl⟩ p hp
    obtain ⟨rfl, rfl⟩ := pred?_eq_some hp
    rw [hb]
    rfl
  case h_6 hop =>
    obtain rfl := eq_ofNat_of_toNat hop
    simp only [vnum_code, answers_when?, answers_bind, answers_map, answers_some, Bool.and_eq_true, beq_iff_eq]
    rintro ⟨rfl, rfl⟩ p hp
    obtain ⟨rfl, rfl⟩ := pred?_eq_some hp
    rfl
  case h_7 hop =>
    obtain rfl := eq_ofNat_of_toNat hop
    simp only [vnum_code, answers_when?, answers_bind, answers_map, answers_some, Bool.and_eq_true, beq_iff_eq]
    rintro ⟨rfl, rfl⟩ p hp
    obtain ⟨rfl, rfl⟩ := pred?_eq_some hp
    rfl
  case h_8 hop =>
    obtain rfl := eq_ofNat_of_toNat hop
    simp only [vnum_code, answers_when?, answers_bind, answers_map, answers_some, Bool.and_eq_true, beq_iff_eq]
    rintro hb ⟨rfl, rfl⟩ p hp
    obtain ⟨rfl, rfl⟩ := pred?_eq_some hp
    rw [hb]
    rfl
  case h_9 hop =>
    obtain rfl := eq_ofNat_of_toNat hop
    simp only [vnum_code, answers_when?, answers_bind, answers_map, answers_some, Bool.and_eq_true, beq_iff_eq]
    rintro hb ⟨rfl, rfl⟩ p hp
    obtain ⟨rfl, rfl⟩ := pred?_eq_some hp
    rw [hb]
    rfl
  case h_10 hop =>
    obtain rfl := eq_ofNat_of_toNat hop
    simp only [vnum_code, answers_when?, answers_bind, answers_map, answers_some, Bool.and_eq_true, beq_iff_eq]
    rintro hb ⟨rfl, rfl⟩ p hp
    obtain ⟨rfl, rfl⟩ := pred?_eq_some hp
    rw [hb]
    rfl
  case h_11 hop =>
    obtain rfl := eq_ofNat_of_toNat hop
    simp only [vnum_code, answers_when?, answers_bind, answers_map, answers_some, Bool.and_eq_true, beq_iff_eq]
    rintro hb ⟨rfl, rfl⟩ p hp
    obtain ⟨rfl, rfl⟩ := pred?_eq_some hp
    rw [hb]
    rfl
  case h_12 hop =>
    obtain rfl := eq_ofNat_of_toNat hop
    simp only [vnum_code, answers_when?, answers_bind, answers_map, answers_some, Bool.and_eq_true, beq_iff_eq]
    rintro ⟨hd, rfl⟩ cc hcc p hp
    obtain ⟨rfl, rfl⟩ := pred?_eq_some hp
    obtain rfl := cond?_eq_some hcc
    exact congrArg (fun x => [wordOf 0x0D x a.code (vrTail b.code cc.code p 0)]) (predDest_eq hd).symm
  case h_13 hop =>
    obtain rfl := eq_ofNat_of_toNat hop
    simp only [vnum_code, answers_when?, answers_bind, answers_map, answers_some, Bool.and_eq_true, beq_iff_eq]
    rintro ⟨⟨rfl, rfl⟩, rfl⟩
    exact congrArg (fun x => [wordOf 0x0E d.code a.code (b.code ++ ((0 : BitVec 4) ++ ((1 : BitVec 1) ++ (x ++ (0 : BitVec 3)))))]) (ofNat_pnum pr)
  case h_14 hop =>
    obtain rfl := eq_ofNat_of_toNat hop
    simp only [vnum_code, answers_when?, answers_bind, answers_map, answers_some, Bool.and_eq_true, beq_iff_eq]
    rintro hb f hf p hp rm hrm
    obtain ⟨rfl, rfl⟩ := pred?_eq_some hp
    obtain rfl := redFn?_eq_some hf
    obtain rfl := rm?_eq_some hrm
    rw [hb]
    rfl
  case h_15 hop =>
    obtain rfl := eq_ofNat_of_toNat hop
    simp only [vnum_code, answers_when?, answers_bind, answers_map, answers_some, Bool.and_eq_true, beq_iff_eq]
    rintro hb f hf p hp rm hrm
    obtain ⟨rfl, rfl⟩ := pred?_eq_some hp
    obtain rfl := redFn?_eq_some hf
    obtain rfl := rm?_eq_some hrm
    rw [hb]
    rfl
  case h_16 hop =>
    obtain rfl := eq_ofNat_of_toNat hop
    simp only [vnum_code, answers_when?, answers_bind, answers_map, answers_some, Bool.and_eq_true, beq_iff_eq]
    rintro ⟨rfl, rfl⟩ p hp
    obtain ⟨rfl, rfl⟩ := pred?_eq_some hp
    rfl
  case h_17 hop =>
    obtain rfl := eq_ofNat_of_toNat hop
    simp only [vnum_code, answers_when?, answers_bind, answers_map, answers_some, Bool.and_eq_true, beq_iff_eq]
    rintro rfl p hp
    obtain ⟨rfl, rfl⟩ := pred?_eq_some hp
    exact congrArg₂ (fun x y => [wordOf 0x15 d.code a.code (vrTail x y p 0)]) (amountParts (b := b.code)).2 amountParts.1
  case h_18 hop =>
    obtain rfl := eq_ofNat_of_toNat hop
    simp only [vnum_code, answers_when?, answers_bind, answers_map, answers_some, Bool.and_eq_true, beq_iff_eq]
    rintro rfl p hp
    obtain ⟨rfl, rfl⟩ := pred?_eq_some hp
    exact congrArg₂ (fun x y => [wordOf 0x16 d.code a.code (vrTail x y p 0)]) (amountParts (b := b.code)).2 amountParts.1
  case h_19 hop =>
    obtain rfl := eq_ofNat_of_toNat hop
    simp only [vnum_code, answers_when?, answers_bind, answers_map, answers_some, Bool.and_eq_true, beq_iff_eq]
    rintro hb ⟨rfl, rfl⟩ p hp
    obtain ⟨rfl, rfl⟩ := pred?_eq_some hp
    rw [hb]
    rfl
  case h_20 hop =>
    obtain rfl := eq_ofNat_of_toNat hop
    simp only [vnum_code, answers_when?, answers_bind, answers_map, answers_some, Bool.and_eq_true, beq_iff_eq]
    rintro ⟨rfl, rfl⟩ p hp
    obtain ⟨rfl, rfl⟩ := pred?_eq_some hp
    rfl
  case h_21 hop =>
    obtain rfl := eq_ofNat_of_toNat hop
    simp only [vnum_code, answers_when?, answers_bind, answers_map, answers_some, Bool.and_eq_true, beq_iff_eq]
    rintro ⟨rfl, rfl⟩ p hp
    obtain ⟨rfl, rfl⟩ := pred?_eq_some hp
    rfl
  case h_22 hop =>
    obtain rfl := eq_ofNat_of_toNat hop
    simp only [vnum_code, answers_when?, answers_bind, answers_map, answers_some, Bool.and_eq_true, beq_iff_eq]
    rintro ⟨rfl, rfl⟩ p hp
    obtain ⟨rfl, rfl⟩ := pred?_eq_some hp
    rfl
  case h_23 hop =>
    obtain rfl := eq_ofNat_of_toNat hop
    simp only [vnum_code, answers_when?, answers_bind, answers_map, answers_some, Bool.and_eq_true, beq_iff_eq]
    rintro ⟨rfl, rfl⟩ p hp
    obtain ⟨rfl, rfl⟩ := pred?_eq_some hp
    rfl
  case h_24 hop =>
    obtain rfl := eq_ofNat_of_toNat hop
    simp only [vnum_code, answers_when?, answers_bind, answers_map, answers_some, Bool.and_eq_true, beq_iff_eq]
    rintro ⟨rfl, rfl⟩ p hp
    obtain ⟨rfl, rfl⟩ := pred?_eq_some hp
    rfl
  case h_25 hop =>
    obtain rfl := eq_ofNat_of_toNat hop
    simp only [vnum_code, answers_when?, answers_bind, answers_map, answers_some, Bool.and_eq_true, beq_iff_eq]
    rintro ⟨rfl, rfl⟩ p hp
    obtain ⟨rfl, rfl⟩ := pred?_eq_some hp
    rfl
  case h_26 => simp

theorem vfForm_encodes {rnd : BitVec 2} : Answers (EncodesToV (wordOf op d.code a.code (b.code ++ (c.code ++ (pe ++ (pr ++ rnd))))))
    (vfForm op d.code a.code b.code c.code pe pr rnd) := by
  unfold vfForm
  split
  case h_1 hop =>
    obtain rfl := eq_ofNat_of_toNat hop
    simp only [vnum_code, answers_bind, answers_map]
    rintro p hp rm hrm
    obtain ⟨rfl, rfl⟩ := pred?_eq_some hp
    obtain rfl := rm?_zeroExtend_eq_some hrm
    rfl
  case h_2 hop =>
    obtain rfl := eq_ofNat_of_toNat hop
    simp only [vnum_code, answers_bind, answers_map]
    rintro p hp rm hrm
    obtain ⟨rfl, rfl⟩ := pred?_eq_some hp
    obtain rfl := rm?_zeroExtend_eq_some hrm
    rfl
  case h_3 hop =>
    obtain rfl := eq_ofNat_of_toNat hop
    simp only [vnum_code, answers_when?, answers_map, beq_iff_eq]
    rintro rfl p hp
    obtain ⟨rfl, rfl⟩ := pred?_eq_some hp
    rfl
  case h_4 => simp

theorem vcForm_encodes {fmt : BitVec 4} {sat nanp : BitVec 1} {bsz : BitVec 3} :
    Answers (EncodesToV (wordOf op d.code a.code (fmt ++ (rnd ++ (sat ++ (nanp ++ (pe ++ (pr ++ bsz))))))))
      (vcForm op d.code a.code fmt rnd sat nanp pe pr bsz) := by
  have hsat := bit_beq_one sat
  have hnanp := bit_beq_one nanp
  unfold vcForm
  split
  case h_1 hop =>
    obtain rfl := eq_ofNat_of_toNat hop
    simp only [vnum_code, answers_when?, answers_bind, answers_map, beq_iff_eq]
    rintro rfl rm hrm p hp
    obtain ⟨rfl, rfl⟩ := pred?_eq_some hp
    obtain rfl := rmC?_eq_some hrm
    exact congrArg₂ (fun x y => [wordOf 0x0F d.code a.code (fmt ++ (rm.code ++ (x ++ (y ++ (p.pe ++ (p.field ++ (0 : BitVec 3)))))))]) hsat hnanp
  case h_2 hop =>
    obtain rfl := eq_ofNat_of_toNat hop
    simp only [vnum_code, answers_when?, answers_bind, answers_map, Bool.and_eq_true, beq_iff_eq]
    rintro ⟨rfl, rfl⟩ rm hrm p hp
    obtain ⟨rfl, rfl⟩ := pred?_eq_some hp
    obtain rfl := rmC?_eq_some hrm
    rfl
  case h_3 hop =>
    obtain rfl := eq_ofNat_of_toNat hop
    simp only [vnum_code, answers_when?, answers_some, Bool.and_eq_true, beq_iff_eq]
    rintro ⟨⟨⟨⟨⟨rfl, rfl⟩, rfl⟩, rfl⟩, rfl⟩, rfl⟩
    rfl
  case h_4 hop =>
    obtain rfl := eq_ofNat_of_toNat hop
    simp only [vnum_code, answers_when?, Bool.and_eq_true, beq_iff_eq]
    rintro ⟨⟨rfl, rfl⟩, rfl⟩
    split
    case isTrue hrnd =>
      subst hrnd
      simp only [answers_when?, answers_some, beq_iff_eq]
      intro ha
      rw [ha]
      exact congrArg (fun x => [wordOf 0x1F d.code 0 (fmt ++ ((0 : BitVec 3) ++ (x ++ (bit false ++ ((0 : BitVec 1) ++ ((0 : BitVec 3) ++ bsz))))))]) hsat
    case isFalse =>
      split
      case isTrue hrnd =>
        subst hrnd
        simp only [answers_when?, answers_some, Bool.and_eq_true, beq_iff_eq]
        rintro ⟨rfl, rfl⟩
        exact congrArg (fun x => [wordOf 0x1F d.code a.code ((0 : BitVec 4) ++ ((1 : BitVec 3) ++ (x ++ (bit false ++ ((0 : BitVec 1) ++
          ((0 : BitVec 3) ++ (0 : BitVec 3)))))))]) hsat
      case isFalse => simp
  case h_5 => simp

theorem outPort_eq {port : BitVec 3} (h : port.extractLsb' 1 2 = 0) : port = (0 : BitVec 2) ++ port.extractLsb' 0 1 := by
  revert port
  decide

theorem inPort_eq {port : BitVec 3} (h : (!port.getLsbD 2) = true) : port = (0 : BitVec 1) ++ port.extractLsb' 0 2 := by
  revert port
  decide

theorem vsForm_encodes {port lvl : BitVec 3} {n : BitVec 4} {res : BitVec 11} :
    Answers (EncodesToV (vsWord op d.code port lvl n)) (vsForm op d.code port lvl n res) := by
  unfold vsForm
  simp only [answers_when?]
  intro _
  split
  case h_1 hop =>
    obtain rfl := eq_ofNat_of_toNat hop
    simp only [vnum_code, answers_when?, answers_some, Bool.and_eq_true, beq_iff_eq]
    rintro ⟨hp, rfl⟩
    exact congrArg (fun x => [vsWord 0x20 d.code x 0 n]) (inPort_eq hp).symm
  case h_2 hop =>
    obtain rfl := eq_ofNat_of_toNat hop
    simp only [vnum_code, answers_when?, answers_some, Bool.and_eq_true, beq_iff_eq]
    rintro ⟨hp, rfl⟩
    exact congrArg (fun x => [vsWord 0x21 d.code x 0 n]) (outPort_eq hp).symm
  case h_3 hop =>
    obtain rfl := eq_ofNat_of_toNat hop
    simp only [answers_when?, answers_some, Bool.and_eq_true, beq_iff_eq]
    rintro ⟨⟨hp, hd⟩, rfl⟩
    rw [hd]
    exact congrArg (fun x => [vsWord 0x22 0 x lvl 0]) (outPort_eq hp).symm
  case h_4 hop =>
    obtain rfl := eq_ofNat_of_toNat hop
    simp only [answers_when?, answers_some, Bool.and_eq_true, beq_iff_eq]
    rintro ⟨⟨⟨hp, hd⟩, rfl⟩, rfl⟩
    rw [hd]
    exact congrArg (fun x => [vsWord 0x23 0 x 0 0]) (outPort_eq hp).symm
  case h_5 => simp

/-- The fields of [15:0] of a VR, VF and VC word. -/
theorem vrFields (lo : Half) : lo = lo.extractLsb' 11 5 ++ (lo.extractLsb' 7 4 ++ (lo.extractLsb' 6 1 ++ (lo.extractLsb' 3 3 ++ lo.extractLsb' 0 3))) :=
  (extractLsb'_self lo).symm.trans <| (extractLsb'_append_extractLsb' lo 0 5 11).symm.trans <| congrArg (lo.extractLsb' 11 5 ++ ·) <|
    (extractLsb'_append_extractLsb' lo 0 4 7).symm.trans <| congrArg (lo.extractLsb' 7 4 ++ ·) <|
    (extractLsb'_append_extractLsb' lo 0 1 6).symm.trans <| congrArg (lo.extractLsb' 6 1 ++ ·) (extractLsb'_append_extractLsb' lo 0 3 3).symm
@[inherit_doc vrFields]
theorem vfFields (lo : Half) : lo = lo.extractLsb' 11 5 ++ (lo.extractLsb' 6 5 ++ (lo.extractLsb' 5 1 ++ (lo.extractLsb' 2 3 ++ lo.extractLsb' 0 2))) :=
  (extractLsb'_self lo).symm.trans <| (extractLsb'_append_extractLsb' lo 0 5 11).symm.trans <| congrArg (lo.extractLsb' 11 5 ++ ·) <|
    (extractLsb'_append_extractLsb' lo 0 5 6).symm.trans <| congrArg (lo.extractLsb' 6 5 ++ ·) <|
    (extractLsb'_append_extractLsb' lo 0 1 5).symm.trans <| congrArg (lo.extractLsb' 5 1 ++ ·) (extractLsb'_append_extractLsb' lo 0 3 2).symm
@[inherit_doc vrFields]
theorem vcFields (lo : Half) : lo = lo.extractLsb' 12 4 ++ (lo.extractLsb' 9 3 ++ (lo.extractLsb' 8 1 ++ (lo.extractLsb' 7 1 ++
    (lo.extractLsb' 6 1 ++ (lo.extractLsb' 3 3 ++ lo.extractLsb' 0 3))))) :=
  (extractLsb'_self lo).symm.trans <| (extractLsb'_append_extractLsb' lo 0 4 12).symm.trans <| congrArg (lo.extractLsb' 12 4 ++ ·) <|
    (extractLsb'_append_extractLsb' lo 0 3 9).symm.trans <| congrArg (lo.extractLsb' 9 3 ++ ·) <|
    (extractLsb'_append_extractLsb' lo 0 1 8).symm.trans <| congrArg (lo.extractLsb' 8 1 ++ ·) <|
    (extractLsb'_append_extractLsb' lo 0 1 7).symm.trans <| congrArg (lo.extractLsb' 7 1 ++ ·) <|
    (extractLsb'_append_extractLsb' lo 0 1 6).symm.trans <| congrArg (lo.extractLsb' 6 1 ++ ·) (extractLsb'_append_extractLsb' lo 0 3 3).symm

/-- A word is a VS word where its low bits are zero (R93). -/
theorem eq_vsWord (h : (loOf w).extractLsb' 0 11 = 0) : w = vsWord (opOf w) (dOf w) ((aOf w).extractLsb' 2 3)
    ((aOf w).extractLsb' 0 2 ++ (loOf w).extractLsb' 15 1) ((loOf w).extractLsb' 11 4) := by
  have hport : (aOf w).extractLsb' 2 3 = w.extractLsb' 18 3 := extractLsb'_extractLsb' w (by decide)
  have hn : (loOf w).extractLsb' 11 4 = w.extractLsb' 11 4 := extractLsb'_extractLsb' w (by decide)
  have hlow : w.extractLsb' 0 11 = 0 := (extractLsb'_extractLsb' w (by decide)).symm.trans h
  have hlvl : ((aOf w).extractLsb' 0 2 ++ (loOf w).extractLsb' 15 1 : BitVec 3) = w.extractLsb' 15 3 :=
    (congrArg₂ (· ++ ·) (extractLsb'_extractLsb' (l := 2) (i := 0) w (by decide)) (extractLsb'_extractLsb' (l := 1) (i := 15) w (by decide))).trans
      (extractLsb'_append_extractLsb' w 15 2 1)
  rw [hport, hn, hlvl]
  exact (extractLsb'_self w).symm.trans <| (extractLsb'_append_extractLsb' w 0 6 26).symm.trans <| congrArg (opOf w ++ ·) <|
    (extractLsb'_append_extractLsb' w 0 5 21).symm.trans <| congrArg (dOf w ++ ·) <|
    (extractLsb'_append_extractLsb' w 0 3 18).symm.trans <| congrArg (w.extractLsb' 18 3 ++ ·) <|
    (extractLsb'_append_extractLsb' w 0 3 15).symm.trans <| congrArg (w.extractLsb' 15 3 ++ ·) <|
    (extractLsb'_append_extractLsb' w 0 4 11).symm.trans <| congrArg (w.extractLsb' 11 4 ++ ·) hlow

theorem exists_vnum (f : BitVec 5) : ∃ v : VNum, f = v.code := ⟨vnum f, (code_vnum f).symm⟩

theorem vrForm_encodes_fields (w : Word) : Answers (EncodesToV w) (vrForm (opOf w) (dOf w) (aOf w) ((loOf w).extractLsb' 11 5)
    ((loOf w).extractLsb' 7 4) ((loOf w).extractLsb' 6 1) ((loOf w).extractLsb' 3 3) ((loOf w).extractLsb' 0 3)) := by
  obtain ⟨d, hd⟩ := exists_vnum (dOf w)
  obtain ⟨a, ha⟩ := exists_vnum (aOf w)
  obtain ⟨b, hb⟩ := exists_vnum ((loOf w).extractLsb' 11 5)
  have h := @vrForm_encodes (opOf w) d a b ((loOf w).extractLsb' 7 4) ((loOf w).extractLsb' 6 1) ((loOf w).extractLsb' 3 3)
    ((loOf w).extractLsb' 0 3)
  rwa [← hd, ← ha, ← hb, ← vrFields, wordOf_fields] at h

theorem vfForm_encodes_fields (w : Word) : Answers (EncodesToV w) (vfForm (opOf w) (dOf w) (aOf w) ((loOf w).extractLsb' 11 5)
    ((loOf w).extractLsb' 6 5) ((loOf w).extractLsb' 5 1) ((loOf w).extractLsb' 2 3) ((loOf w).extractLsb' 0 2)) := by
  obtain ⟨d, hd⟩ := exists_vnum (dOf w)
  obtain ⟨a, ha⟩ := exists_vnum (aOf w)
  obtain ⟨b, hb⟩ := exists_vnum ((loOf w).extractLsb' 11 5)
  obtain ⟨c, hc⟩ := exists_vnum ((loOf w).extractLsb' 6 5)
  have h := @vfForm_encodes (opOf w) d a b c ((loOf w).extractLsb' 5 1) ((loOf w).extractLsb' 2 3) ((loOf w).extractLsb' 0 2)
  rwa [← hd, ← ha, ← hb, ← hc, ← vfFields, wordOf_fields] at h

theorem vcForm_encodes_fields (w : Word) : Answers (EncodesToV w) (vcForm (opOf w) (dOf w) (aOf w) ((loOf w).extractLsb' 12 4)
    ((loOf w).extractLsb' 9 3) ((loOf w).extractLsb' 8 1) ((loOf w).extractLsb' 7 1) ((loOf w).extractLsb' 6 1)
    ((loOf w).extractLsb' 3 3) ((loOf w).extractLsb' 0 3)) := by
  obtain ⟨d, hd⟩ := exists_vnum (dOf w)
  obtain ⟨a, ha⟩ := exists_vnum (aOf w)
  have h := @vcForm_encodes (opOf w) d a ((loOf w).extractLsb' 6 1) ((loOf w).extractLsb' 3 3) ((loOf w).extractLsb' 9 3)
    ((loOf w).extractLsb' 12 4) ((loOf w).extractLsb' 8 1) ((loOf w).extractLsb' 7 1) ((loOf w).extractLsb' 0 3)
  rwa [← hd, ← ha, ← vcFields, wordOf_fields] at h

theorem vsForm_encodes_fields (w : Word) : Answers (EncodesToV w) (vsForm (opOf w) (dOf w) ((aOf w).extractLsb' 2 3)
    ((aOf w).extractLsb' 0 2 ++ (loOf w).extractLsb' 15 1) ((loOf w).extractLsb' 11 4) ((loOf w).extractLsb' 0 11)) := by
  by_cases hres : (loOf w).extractLsb' 0 11 = 0
  case pos =>
    obtain ⟨d, hd⟩ := exists_vnum (dOf w)
    have h := @vsForm_encodes (opOf w) d ((aOf w).extractLsb' 2 3) ((aOf w).extractLsb' 0 2 ++ (loOf w).extractLsb' 15 1)
      ((loOf w).extractLsb' 11 4) ((loOf w).extractLsb' 0 11)
    rwa [← hd, ← eq_vsWord hres] at h
  case neg =>
    unfold vsForm
    rw [answers_when?]
    exact fun h => absurd (beq_iff_eq.mp h) hres

theorem vectorForm_encodes (w : Word) : Answers (EncodesToV w) (vectorForm (opOf w) (dOf w) (aOf w) (loOf w)) := by
  unfold vectorForm
  split
  · exact vfForm_encodes_fields w
  · exact vfForm_encodes_fields w
  · exact vfForm_encodes_fields w
  · exact vcForm_encodes_fields w
  · exact vcForm_encodes_fields w
  · exact vcForm_encodes_fields w
  · exact vcForm_encodes_fields w
  · exact vsForm_encodes_fields w
  · exact vsForm_encodes_fields w
  · exact vsForm_encodes_fields w
  · exact vsForm_encodes_fields w
  case h_12 hop =>
    simp only [answers_when?, answers_some, Bool.and_eq_true, beq_iff_eq]
    rintro ⟨⟨hd, ha⟩, hlo⟩
    have hw := wordOf_fields w
    rw [eq_ofNat_of_toNat hop, hd, ha, hlo] at hw
    exact congrArg (fun x => [x]) hw
  case h_13 => exact vrForm_encodes_fields w

end

/-- Settles O2: encoding has a left inverse instruction by instruction, and each form that decodes gives back the word it stands in. -/
theorem decodeEncode : Obligations.DecodeEncode := by
  unfold Obligations.DecodeEncode
  refine ⟨fun gen i hg hw hi => ?_, fun i hw hv => comesBack_of_wf hw hv, fun gen w e i hg h => encode_of_decodeScalar hg h, fun w i h => ?_⟩
  · exact roundTrips_of_wf hw hi
  · exact vectorForm_encodes w i (checked_eq_some.mp h).2

end Sys2Proof.Machine

namespace Sys2Proof.Machine

/-! PROOFS. Words written out from the tables, the state after reset, and what a step runs (R21, R87 to R94, R406). -/

/-- Settles O1, by running the decoders on the words. -/
theorem decodeWords : Obligations.DecodeWords := by
  unfold Obligations.DecodeWords
  exact ⟨fun e => ⟨rfl, rfl, rfl, rfl, rfl, rfl, rfl, rfl, rfl, rfl, rfl, rfl, rfl, rfl⟩, rfl, rfl, rfl, rfl⟩

theorem reset_core (k : Nat) : State.reset.core k = resetCore := by
  simp only [State.core, State.reset, List.getD_eq_getElem?_getD, List.getElem?_replicate]
  split
  · rfl
  · rfl

theorem resetCore_reg (n : SReg) : resetCore.reg n = 0 := by
  revert n
  decide

theorem reset_inv : State.reset.Inv where
  mem := reset_memOk
  ctxs := List.nodup_nil
  cores := rfl
  core := by
    intro c hc
    obtain rfl := List.eq_of_mem_replicate hc
    decide

/-- Settles O6, from the one value that every core holds after reset. -/
theorem resetState : Obligations.ResetState := by
  unfold Obligations.ResetState
  refine ⟨reset_inv, fun k _ => ?_, rfl, rfl, rfl, fun _ => rfl, rfl, rfl, rfl⟩
  refine ⟨?_, ?_, ?_, ?_, fun n => ?_⟩
  · simp only [State.csr, reset_core]; rfl
  · simp only [State.csr, reset_core]; rfl
  · simp only [State.csr, reset_core]; rfl
  · rw [reset_core]; rfl
  · rw [reset_core, resetCore_reg]

end Sys2Proof.Machine

namespace Sys2Proof.Machine

/-! SUPPORT. What the operators, actors and channels of a task read after an update, and after the pops, pushes and advances of a cell
(R20, R109, R127). -/

variable {s : State} {t t' o o' p : Nat}

/-! ## Operators -/

theorem getElem?_lmod_self {α : Type} {n : Nat} {f : α → α} {l : List α} : (lmod n f l)[n]? = l[n]?.map f := by
  induction l generalizing n with
  | nil => cases n <;> rfl
  | cons a l ih =>
    cases n with
    | zero => rfl
    | succ n => simpa [lmod] using ih

theorem getElem?_lmod_other {α : Type} {n m : Nat} {f : α → α} {l : List α} (h : m ≠ n) : (lmod n f l)[m]? = l[m]? := by
  induction l generalizing n m with
  | nil => cases n <;> rfl
  | cons a l ih =>
    cases n with
    | zero =>
      cases m with
      | zero => exact absurd rfl h
      | succ m => rfl
    | succ n =>
      cases m with
      | zero => rfl
      | succ m => simpa [lmod] using ih (fun e => h (congrArg Nat.succ e))

theorem modTask_task {g : Task → Task} : (s.modTask t g).task t' = if t' = t then (s.task t').map g else s.task t' := by
  split
  case isTrue h => subst h; exact modTask_task_self
  case isFalse h => exact modTask_task_other h

/-- A change of a task that keeps its operators changes no operator. -/
theorem modTask_op {g : Task → Task} (h : ∀ k, (g k).ops = k.ops) : (s.modTask t g).op t' o' = s.op t' o' := by
  rw [State.op, State.op, modTask_task]
  split
  case isTrue => cases s.task t' <;> simp [h]
  case isFalse => rfl

@[simp] theorem modOp_op_self {g : Op → Op} : (s.modOp t o g).op t o = (s.op t o).map g := by
  simp only [State.op, State.modOp, modTask_task_self]
  cases s.task t with
  | none => rfl
  | some k => exact getElem?_lmod_self

theorem modOp_op_other {g : Op → Op} (h : (t', o') ≠ (t, o)) : (s.modOp t o g).op t' o' = s.op t' o' := by
  rw [State.op, State.op, State.modOp, modTask_task]
  split
  case isFalse => rfl
  case isTrue ht =>
    have ho : o' ≠ o := fun e => h (by rw [ht, e])
    cases s.task t' with
    | none => rfl
    | some k => exact getElem?_lmod_other ho

/-! ## Cells and vector units -/

/-- The cell actor of an operator. -/
def Op.cell? (p : Op) : Option Cell :=
  match p.kind with
  | .cell c => some c
  | _ => none

/-- The vector actor of an operator. -/
def Op.vec? (p : Op) : Option Vec :=
  match p.kind with
  | .vec c => some c
  | _ => none

theorem cell_eq_op : s.cell t o = (s.op t o).bind Op.cell? := by
  rw [State.cell]
  rcases s.op t o with _ | ⟨pl, fa, ff, re, po, hd, fi, k⟩
  · rfl
  · cases k <;> rfl

theorem vec_eq_op : s.vec t o = (s.op t o).bind Op.vec? := by
  rw [State.vec]
  rcases s.op t o with _ | ⟨pl, fa, ff, re, po, hd, fi, k⟩
  · rfl
  · cases k <;> rfl

theorem cell_congr {s' : State} (h : s'.op t o = s.op t o) : s'.cell t o = s.cell t o := by rw [cell_eq_op, cell_eq_op, h]

theorem vec_congr {s' : State} (h : s'.op t o = s.op t o) : s'.vec t o = s.vec t o := by rw [vec_eq_op, vec_eq_op, h]

theorem op_of_cell {c : Cell} (h : s.cell t o = some c) : ∃ p, s.op t o = some p ∧ p.kind = .cell c := by
  rw [cell_eq_op] at h
  obtain ⟨p, hp, hc⟩ := Option.bind_eq_some_iff.mp h
  refine ⟨p, hp, ?_⟩
  unfold Op.cell? at hc
  split at hc
  · next hk => rw [hk, Option.some.inj hc]
  · cases hc

theorem op_of_vec {c : Vec} (h : s.vec t o = some c) : ∃ p, s.op t o = some p ∧ p.kind = .vec c := by
  rw [vec_eq_op] at h
  obtain ⟨p, hp, hc⟩ := Option.bind_eq_some_iff.mp h
  refine ⟨p, hp, ?_⟩
  unfold Op.vec? at hc
  split at hc
  · next hk => rw [hk, Option.some.inj hc]
  · cases hc

theorem task_of_op {q : Op} (h : s.op t o = some q) : ∃ k, s.task t = some k ∧ k.ops[o]? = some q := Option.bind_eq_some_iff.mp h

/-- A change of an operator that keeps what it is, keeps its actor. -/
theorem modOp_cell {g : Op → Op} (h : ∀ p, (g p).kind = p.kind) : (s.modOp t o g).cell t' o' = s.cell t' o' := by
  rw [cell_eq_op, cell_eq_op]
  by_cases e : (t', o') = (t, o)
  · cases e
    rw [modOp_op_self]
    cases s.op t o <;> simp [Op.cell?, h]
  · rw [modOp_op_other e]

@[inherit_doc modOp_cell]
theorem modOp_vec {g : Op → Op} (h : ∀ p, (g p).kind = p.kind) : (s.modOp t o g).vec t' o' = s.vec t' o' := by
  rw [vec_eq_op, vec_eq_op]
  by_cases e : (t', o') = (t, o)
  · cases e
    rw [modOp_op_self]
    cases s.op t o <;> simp [Op.vec?, h]
  · rw [modOp_op_other e]

@[simp] theorem modCell_cell_self {g : Cell → Cell} : (s.modCell t o g).cell t o = (s.cell t o).map g := by
  rw [cell_eq_op, cell_eq_op, State.modCell, modOp_op_self]
  rcases s.op t o with _ | ⟨pl, fa, ff, re, po, hd, fi, k⟩
  · rfl
  · cases k <;> rfl

theorem modCell_cell_other {g : Cell → Cell} (h : (t', o') ≠ (t, o)) : (s.modCell t o g).cell t' o' = s.cell t' o' :=
  cell_congr (modOp_op_other h)

@[simp] theorem modCell_vec {g : Cell → Cell} : (s.modCell t o g).vec t' o' = s.vec t' o' := by
  rw [vec_eq_op, vec_eq_op]
  by_cases e : (t', o') = (t, o)
  · cases e
    rw [State.modCell, modOp_op_self]
    rcases s.op t o with _ | ⟨pl, fa, ff, re, po, hd, fi, k⟩
    · rfl
    · cases k <;> rfl
  · rw [State.modCell, modOp_op_other e]

@[simp] theorem modVec_vec_self {g : Vec → Vec} : (s.modVec t o g).vec t o = (s.vec t o).map g := by
  rw [vec_eq_op, vec_eq_op, State.modVec, modOp_op_self]
  rcases s.op t o with _ | ⟨pl, fa, ff, re, po, hd, fi, k⟩
  · rfl
  · cases k <;> rfl

theorem modVec_vec_other {g : Vec → Vec} (h : (t', o') ≠ (t, o)) : (s.modVec t o g).vec t' o' = s.vec t' o' :=
  vec_congr (modOp_op_other h)

@[simp] theorem modVec_cell {g : Vec → Vec} : (s.modVec t o g).cell t' o' = s.cell t' o' := by
  rw [cell_eq_op, cell_eq_op]
  by_cases e : (t', o') = (t, o)
  · cases e
    rw [State.modVec, modOp_op_self]
    rcases s.op t o with _ | ⟨pl, fa, ff, re, po, hd, fi, k⟩
    · rfl
    · cases k <;> rfl
  · rw [State.modVec, modOp_op_other e]

@[simp] theorem modFiring_cell_self {g : Firing → Firing} :
    (s.modFiring t o g).cell t o = (s.cell t o).map fun c => { c with firing := c.firing.map g } := modCell_cell_self

theorem modFiring_firing_self {g : Firing → Firing} : (s.modFiring t o g).firing t o = (s.firing t o).map g := by
  rw [State.firing, State.firing, modFiring_cell_self]
  cases s.cell t o <;> rfl

/-! ## Channels -/

/-- A change of a task that keeps its channels changes no channel. -/
theorem modTask_inChan {g : Task → Task} (h : ∀ k, (g k).chans = k.chans) : (s.modTask t g).inChan t' o' p = s.inChan t' o' p := by
  rw [State.inChan, State.inChan, modTask_task]
  split
  case isTrue => cases s.task t' <;> simp [h, Task.chanIn]
  case isFalse => rfl

@[simp] theorem modOp_inChan {g : Op → Op} : (s.modOp t o g).inChan t' o' p = s.inChan t' o' p := modTask_inChan fun _ => rfl

@[simp] theorem modOp_headTok {g : Op → Op} : (s.modOp t o g).headTok t' o' p = s.headTok t' o' p := by
  rw [State.headTok, State.headTok, modOp_inChan]
  rfl

@[simp] theorem modCell_headTok {g : Cell → Cell} : (s.modCell t o g).headTok t' o' p = s.headTok t' o' p := modOp_headTok

@[simp] theorem modFiring_headTok {g : Firing → Firing} : (s.modFiring t o g).headTok t' o' p = s.headTok t' o' p := modOp_headTok

theorem modOp_chans {g : Op → Op} : ((s.modOp t o g).task t').map (·.chans) = (s.task t').map (·.chans) := by
  rw [State.modOp, modTask_task]
  split
  case isTrue => cases s.task t' <;> rfl
  case isFalse => rfl

/-! ## Pops, pushes and the advance of a firing -/

@[simp] theorem modChan_op {c : Nat} {g : Chan → Chan} : (s.modChan t c g).op t' o' = s.op t' o' := modTask_op fun _ => rfl
@[simp] theorem balance_op {d : Int} : (s.balance t d).op t' o' = s.op t' o' := modTask_op fun _ => rfl
@[simp] theorem resetRates_op : (s.resetRates t o).op t' o' = s.op t' o' := modTask_op fun _ => rfl

@[simp] theorem popTok_op : (s.popTok t o p).op t' o' = s.op t' o' := by
  unfold State.popTok
  split
  · rw [balance_op, modChan_op]
  · rfl

@[simp] theorem pushTok_op {tok : Token} : (s.pushTok t o p tok).op t' o' = s.op t' o' := by
  unfold State.pushTok
  split
  · exact balance_op.trans (modChan_op.trans modChan_op)
  · rfl

@[simp] theorem pushAll_op {tok : Token} {l : List Nat} : (s.pushAll t o tok l).op t' o' = s.op t' o' := by
  induction l generalizing s with
  | nil => rfl
  | cons a l ih => exact ih.trans pushTok_op

@[simp] theorem countMicro_op : (s.countMicro t o).op t' o' = s.op t' o' := by
  unfold State.countMicro
  split
  · split
    · split
      · rfl
      · rfl
    · rfl
  · rfl

@[simp] theorem popTok_cell : (s.popTok t o p).cell t' o' = s.cell t' o' := cell_congr popTok_op
@[simp] theorem pushTok_cell {tok : Token} : (s.pushTok t o p tok).cell t' o' = s.cell t' o' := cell_congr pushTok_op
@[simp] theorem pushAll_cell {tok : Token} {l : List Nat} : (s.pushAll t o tok l).cell t' o' = s.cell t' o' := cell_congr pushAll_op
@[simp] theorem countMicro_cell : (s.countMicro t o).cell t' o' = s.cell t' o' := cell_congr countMicro_op
@[simp] theorem popTok_vec : (s.popTok t o p).vec t' o' = s.vec t' o' := vec_congr popTok_op
@[simp] theorem pushTok_vec {tok : Token} : (s.pushTok t o p tok).vec t' o' = s.vec t' o' := vec_congr pushTok_op
@[simp] theorem pushAll_vec {tok : Token} {l : List Nat} : (s.pushAll t o tok l).vec t' o' = s.vec t' o' := vec_congr pushAll_op
@[simp] theorem countMicro_vec : (s.countMicro t o).vec t' o' = s.vec t' o' := vec_congr countMicro_op
@[simp] theorem sinkPoison_cell {w : Word} : (s.sinkPoison t o w).cell t' o' = s.cell t' o' := modOp_cell fun p => by split <;> rfl
@[simp] theorem sinkPoison_vec {w : Word} : (s.sinkPoison t o w).vec t' o' = s.vec t' o' := modOp_vec fun p => by split <;> rfl
@[simp] theorem freeze_cell {code : BitVec 7} {w : Word} : (s.freeze t o code w).cell t' o' = s.cell t' o' :=
  modOp_cell (s := s) fun p => by split <;> rfl
@[simp] theorem freeze_vec {code : BitVec 7} {w : Word} : (s.freeze t o code w).vec t' o' = s.vec t' o' :=
  modOp_vec (s := s) fun p => by split <;> rfl

theorem cellAdvance_cell_self {words iv : Nat} : (s.cellAdvance t o words iv).cell t o =
    (s.cell t o).map fun c => { c with firing := c.firing.map fun f => { f.next words with nextAt := s.after t o iv } } := by
  have h : (s.cellAdvance t o words iv).cell t o =
      ((s.countMicro t o).modFiring t o fun f => { f.next words with nextAt := s.after t o iv }).cell t o := rfl
  rw [h, modFiring_cell_self, countMicro_cell]

theorem cellAdvance_op_other {words iv : Nat} (h : (t', o') ≠ (t, o)) : (s.cellAdvance t o words iv).op t' o' = s.op t' o' :=
  (modOp_op_other (s := s.countMicro t o) h).trans countMicro_op

/-- What pops leave of a cell: only its firing's header and the queues that still hold its guard token change, and it may retire. -/
structure Cell.Popped (c c' : Cell) : Prop where
  cell : c' = { c with firing := c'.firing, retired := c'.retired }
  firing : ∀ f, c.firing = some f → ∃ f', c'.firing = some f' ∧
    f' = { f with chosen := f'.chosen, chosenPopped := f'.chosenPopped, lastHdr := f'.lastHdr }

theorem Cell.Popped.refl (c : Cell) : c.Popped c := ⟨rfl, fun f h => ⟨f, h, rfl⟩⟩

theorem Cell.Popped.trans {a b c : Cell} (h : a.Popped b) (h' : b.Popped c) : a.Popped c where
  cell := by rw [h'.cell, h.cell]
  firing := by
    intro f hf
    obtain ⟨g, hg, hgf⟩ := h.firing f hf
    obtain ⟨i, hi, hig⟩ := h'.firing g hg
    exact ⟨i, hi, by rw [hig, hgf]⟩

theorem cellPop_popped {c : Cell} (h : s.cell t o = some c) : ∃ c', (s.cellPop t o p).cell t o = some c' ∧ c.Popped c' := by
  unfold State.cellPop
  split
  · exact ⟨c, popTok_cell.trans h, Cell.Popped.refl c⟩
  split
  · exact ⟨c, h, Cell.Popped.refl c⟩
  next k _ =>
    have hm : (s.popTok t o p).cell t o = some c := popTok_cell.trans h
    have hfir (f : Firing) (hf : c.firing = some f) :
        c.firing.map (fun f => { f.popOf p with lastHdr := k.hdr }) = some { f.popOf p with lastHdr := k.hdr } := by rw [hf]; rfl
    dsimp only
    have hfired : (((s.popTok t o p).modFiring t o fun f => { f.popOf p with lastHdr := k.hdr })).cell t o =
        some { c with firing := c.firing.map fun f => { f.popOf p with lastHdr := k.hdr } } := by
      rw [modFiring_cell_self, hm]
      rfl
    split
    · exact ⟨_, modCell_cell_self.trans (congrArg (Option.map _) hfired), rfl, fun f hf => ⟨_, hfir f hf, rfl⟩⟩
    · exact ⟨_, hfired, rfl, fun f hf => ⟨_, hfir f hf, rfl⟩⟩

theorem cellPops_popped {l : List Nat} {c : Cell} (h : s.cell t o = some c) :
    ∃ c', (s.cellPops t o l).cell t o = some c' ∧ c.Popped c' := by
  induction l generalizing s c with
  | nil => exact ⟨c, h, Cell.Popped.refl c⟩
  | cons a l ih =>
    obtain ⟨c₁, h₁, hp₁⟩ := cellPop_popped (p := a) h
    obtain ⟨c₂, h₂, hp₂⟩ := ih h₁
    exact ⟨c₂, h₂, hp₁.trans hp₂⟩

end Sys2Proof.Machine

namespace Sys2Proof.Machine

/-! PROOFS. Branches, `rep` and `end` (R127, R129 to R132). -/

variable {s : State} {t o k : Nat} {c : Cell} {f : Firing} {ps : List Nat} {words iv : Nat} {taken : Bool} {disp : Half}
  {srcs : List Src} {vals : List Word}

/-- Where a firing goes depends on its next word and on its `rep` block alone. -/
theorem next_fields {f f' : Firing} (hpc : f'.pc = f.pc) (hrep : f'.rep = f.rep) (words : Nat) :
    (f'.next words).pc = (f.next words).pc ∧ (f'.next words).rep = (f.next words).rep := by
  unfold Firing.next
  rw [hpc, hrep]
  split
  · split
    · split
      · exact ⟨rfl, rfl⟩
      · exact ⟨rfl, rfl⟩
    · exact ⟨rfl, rfl⟩
  · exact ⟨rfl, rfl⟩

/-- A firing after its pops: at the same word, and in the same `rep` block. -/
theorem cellPops_firing (hc : s.cell t o = some c) (hf : c.firing = some f) :
    ∃ f', (s.cellPops t o ps).firing t o = some f' ∧ f'.pc = f.pc ∧ f'.rep = f.rep := by
  obtain ⟨c', hc', hp⟩ := cellPops_popped (l := ps) hc
  obtain ⟨f', hf', hff⟩ := hp.firing f hf
  exact ⟨f', by rw [State.firing, hc']; exact hf', by rw [hff], by rw [hff]⟩

theorem cellAdvance_firing : (s.cellAdvance t o words iv).firing t o =
    (s.firing t o).map fun f => { f.next words with nextAt := s.after t o iv } := by
  rw [State.firing, State.firing, cellAdvance_cell_self]
  cases s.cell t o <;> rfl

theorem cellBranch_cellPops (hc : s.cell t o = some c) (hf : c.firing = some f) :
    (s.cellPops t o ps).cellBranch t o words taken disp = s.branched t o f ps words taken disp := by
  obtain ⟨f', hf', hpc, -⟩ := cellPops_firing (ps := ps) hc hf
  have hat : ((((s.cellPops t o ps).cell t o).bind (·.firing)).map (·.pc)).getD 0 = f.pc := by
    rw [show ((s.cellPops t o ps).cell t o).bind (·.firing) = some f' from hf', Option.map_some, Option.getD_some, hpc]
  rw [State.cellBranch, hat]
  rfl

theorem branched_pcOf (hc : s.cell t o = some c) (hf : c.firing = some f) :
    (s.branched t o f ps words taken disp).pcOf t o = some (if taken then branchTo f.pc disp else (f.next words).pc) := by
  obtain ⟨f', hf', hpc, hrep⟩ := cellPops_firing (ps := ps) hc hf
  unfold State.branched State.pcOf
  cases taken with
  | false =>
    rw [if_neg Bool.false_ne_true, if_neg Bool.false_ne_true, cellAdvance_firing, hf']
    exact congrArg some (next_fields hpc hrep words).1
  | true =>
    rw [if_pos rfl, if_pos rfl, modFiring_firing_self, cellAdvance_firing, hf']
    rfl

theorem CellReads.cell (h : CellReads s t o c f srcs vals) : s.cell t o = some c := h.runs.cell
theorem CellReads.firing (h : CellReads s t o c f srcs vals) : c.firing = some f := h.runs.firing

/-- A word that reads its operands and pushes nothing goes on with their values. -/
theorem withOperands_free {go : Cell → Firing → List Word → State} (h : CellReads s t o c f srcs vals) :
    s.withOperands t o srcs none go = go c f vals := withOperands_eq h fun _ hp => absurd hp (Option.not_mem_none _)

theorem exec_br (h : CellReads s t o c f [] []) : exec (.br disp) s = .next (s.branched t o f [] 1 true disp) := by
  have hx : exec (.br disp) s = execBr disp s := rfl
  rw [hx, execBr, h.runs.cur]
  exact congrArg Host.Outcome.next <| (withOperands_free h).trans (cellBranch_cellPops (ps := []) h.cell h.firing)

theorem condBranch_cell {a : Src} {x : Word} {want : Bool} (h : CellReads s t o c f [a] [x]) :
    s.condBranch a want disp = s.branched t o f (popsOf [a]) (srcWords [a]) ((x != 0) == want) disp := by
  rw [State.condBranch, h.runs.cur]
  exact (withOperands_free h).trans (cellBranch_cellPops h.cell h.firing)

theorem coreBranch_core (h : k < s.cores.length) : (s.coreBranch k words taken disp).core k =
    { s.core k with pc := if taken then (s.core k).pc + (disp.signExtend 64) * 4 else (s.core k).after words } := getD_lmod h

theorem condBranch_core {a : Src} {want : Bool} (h : CoreRuns s k [a] none) :
    s.condBranch a want disp = s.coreBranch k (srcWords [a]) (((s.core k).src a != 0) == want) disp := by
  rw [State.condBranch, h.cur]
  simp [h.going, h.still]

/-- The header of a queue's head, and the channels, stay where a firing goes on or branches. -/
theorem cellAdvance_task : (s.cellAdvance t o words iv).task = ((s.countMicro t o).modFiring t o fun f =>
    { f.next words with nextAt := s.after t o iv }).task := rfl

theorem countMicro_task : (s.countMicro t o).task = s.task := by
  unfold State.countMicro
  split
  · split
    · split
      · rfl
      · rfl
    · rfl
  · rfl

theorem countMicro_fc : (s.countMicro t o).fc = s.fc := by
  unfold State.countMicro
  split
  · split
    · split
      · rfl
      · rfl
    · rfl
  · rfl

theorem headTok_congr {s s' : State} {p : Nat} (ht : (s'.task t).map (·.chans) = (s.task t).map (·.chans)) (hfc : s'.fc = s.fc) :
    s'.headTok t o p = s.headTok t o p := by
  have h : s'.inChan t o p = s.inChan t o p := by
    have e (u : State) : u.inChan t o p =
        ((u.task t).map (·.chans)).bind fun l => (lfind (fun c => c.consOp == o && c.consPort == p) l).bind fun c => l[c]? := by
      rw [State.inChan]
      cases u.task t <;> rfl
    rw [e, e, ht]
  rw [State.headTok, State.headTok, h, hfc]

theorem modFiring_chans {g : Firing → Firing} {t' : Nat} : ((s.modFiring t o g).task t').map (·.chans) = (s.task t').map (·.chans) :=
  modOp_chans

theorem cellAdvance_chans {t' : Nat} : ((s.cellAdvance t o words iv).task t').map (·.chans) = (s.task t').map (·.chans) := by
  rw [cellAdvance_task, modFiring_chans, countMicro_task]

theorem cellBranch_chans {t' : Nat} : ((s.cellBranch t o words taken disp).task t').map (·.chans) = (s.task t').map (·.chans) := by
  unfold State.cellBranch
  split
  · exact modFiring_chans.trans cellAdvance_chans
  · exact cellAdvance_chans

theorem cellBranch_fc : (s.cellBranch t o words taken disp).fc = s.fc := by
  unfold State.cellBranch
  split
  · exact countMicro_fc
  · exact countMicro_fc

theorem cellBranch_op_other {t' o' : Nat} (h : (t', o') ≠ (t, o)) : (s.cellBranch t o words taken disp).op t' o' = s.op t' o' := by
  unfold State.cellBranch
  split
  · exact (modOp_op_other h).trans (cellAdvance_op_other h)
  · exact cellAdvance_op_other h

theorem cellBranch_quiet : s.Quiet (s.cellBranch t o words taken disp) := by
  unfold State.cellBranch
  split
  · exact cellAdvance_quiet.trans modFiring_quiet
  · exact cellAdvance_quiet

theorem cellBranch_cell (hc : s.cell t o = some c) (hf : c.firing = some f) :
    ∃ g, (s.cellBranch t o words taken disp).cell t o = some { c with firing := some g } ∧
      g.pc = if taken then branchTo f.pc disp else (f.next words).pc := by
  have hat : (((s.cell t o).bind (·.firing)).map (·.pc)).getD 0 = f.pc := by
    rw [hc, Option.bind_some, hf, Option.map_some, Option.getD_some]
  have hadv : (s.cellAdvance t o words 1).cell t o = some { c with firing := some { f.next words with nextAt := s.after t o 1 } } := by
    rw [cellAdvance_cell_self, hc, Option.map_some, hf]
    rfl
  unfold State.cellBranch
  rw [hat]
  cases taken with
  | false => exact ⟨_, hadv, rfl⟩
  | true =>
    exact ⟨{ f.next words with nextAt := s.after t o 1, pc := branchTo f.pc disp },
      modFiring_cell_self.trans (congrArg (Option.map _) hadv), rfl⟩

theorem exec_bkind {q : QIn} {kind lvl : BitVec 3} {tok : Token} (h : CellRuns s t o c f) (ht : s.headTok t o q.val = some tok) :
    exec (.bkind q kind lvl disp) s =
      .next (s.cellBranch t o 1 (tok.kind == kind.toNat && (lvl == 0 || hdrLevel tok.hdr == lvl.toNat)) disp) := by
  have hx : exec (.bkind q kind lvl disp) s = execBkind q kind lvl disp s := rfl
  rw [hx, execBkind, curFiring_eq h]
  dsimp only
  rw [ht]

/-- Settles O19: a branch goes on at its target or after itself, from the word that its firing or its core stands at. -/
theorem branches : Obligations.Branches := by
  unfold Obligations.Branches
  refine ⟨⟨fun s t o c f disp h => ?_, fun s t o c f a x disp h => ?_, fun s k a disp h => ?_⟩,
    fun s t o c f k v x disp h => ?_, fun s t o c f q tok kind lvl disp h ht => ?_⟩
  · exact ⟨exec_br h, branched_pcOf h.cell h.firing⟩
  · have hz : exec (.bz a disp) s = .next (s.condBranch a false disp) := rfl
    have hnz : exec (.bnz a disp) s = .next (s.condBranch a true disp) := rfl
    refine ⟨?_, ?_, branched_pcOf h.cell h.firing, branched_pcOf h.cell h.firing⟩
    · rw [hz, condBranch_cell h]
      rw [beq_false, bne, Bool.not_not]
    · rw [hnz, condBranch_cell h, beq_true]
  · have hz : exec (.bz a disp) s = .next (s.condBranch a false disp) := rfl
    have hnz : exec (.bnz a disp) s = .next (s.condBranch a true disp) := rfl
    have hbr : exec (.br disp) s = .next (s.coreBranch k 1 true disp) := by
      have hx : exec (.br disp) s = execBr disp s := rfl
      rw [hx, execBr, h.cur]
      simp [h.going]
    rw [hz, hnz, condBranch_core h, condBranch_core h]
    have hnear : (s.core k).after (srcWords [a]) = (s.core k).pc + 4 * BitVec.ofNat 64 (srcWords [a]) := by
      rw [Core.after, BitVec.ofNat_mul]; rfl
    have hfar : disp.signExtend 64 * 4 = 4 * disp.signExtend 64 := BitVec.mul_comm _ _
    refine ⟨⟨_, hbr, ?_⟩, ⟨_, rfl, ?_⟩, ⟨_, rfl, ?_⟩⟩
    · rw [coreBranch_core h.there, if_pos rfl, hfar]
    · rw [coreBranch_core h.there, hnear, hfar]
      by_cases hx : (s.core k).src a = 0 <;> simp [hx]
    · rw [coreBranch_core h.there, hnear, hfar]
      by_cases hx : (s.core k).src a = 0 <;> simp [hx]
  · have hx : exec (.bk k v disp) s = execBk k v disp s := rfl
    refine ⟨?_, ?_⟩
    · rw [hx, execBk, h.runs.cur]
      exact congrArg Host.Outcome.next <| (withOperands_free h).trans
        (cellBranch_cellPops (ps := [6 + k.val]) h.cell h.firing)
    · rw [branched_pcOf h.cell h.firing]
      simp only [beq_iff_eq]
  · obtain ⟨g, hg, hpc⟩ := cellBranch_cell (words := 1) (disp := disp)
      (taken := tok.kind == kind.toNat && (lvl == 0 || hdrLevel tok.hdr == lvl.toNat)) h.cell h.firing
    refine ⟨_, g, exec_bkind h ht, (headTok_congr cellBranch_chans cellBranch_fc).trans ht, hg, hpc.trans ?_,
      fun t' => cellBranch_chans, fun t' o' hne => cellBranch_op_other hne, cellBranch_quiet.cores, cellBranch_quiet.mem⟩
    simp only [Bool.and_eq_true, Bool.or_eq_true, beq_iff_eq]

end Sys2Proof.Machine

namespace Sys2Proof.Machine

/-! PROOFS. `rep`, and the end of a firing (R127, R131, R132, R265). -/

variable {s : State} {t o t' o' : Nat} {c : Cell} {f : Firing} {words iv : Nat}

/-! ## The end of a firing on its actor -/

theorem aget_avals {κ α : Type} [DecidableEq κ] {j : κ} {g : κ → α → α} {l : List (κ × α)} :
    aget j (avals g l) = (aget j l).map (g j) := by
  induction l with
  | nil => rfl
  | cons a l ih =>
    obtain ⟨i, v⟩ := a
    by_cases h : i = j
    · simp [avals, aget, h]
    · simp [avals, aget, h, ih]

theorem withdrawn_cell (p : Op) : p.withdrawn.cell? = p.cell? := by
  obtain ⟨pl, fa, ff, re, po, hd, fi, k⟩ := p
  cases k <;> rfl

theorem withdrawn_vec (p : Op) : p.withdrawn.vec? = p.vec? := by
  obtain ⟨pl, fa, ff, re, po, hd, fi, k⟩ := p
  cases k <;> rfl

/-- A pause takes the page requests of its tasks back, and leaves every actor. -/
theorem pauseTasks_op {q : Nat → Task → Bool} :
    (s.pauseTasks q).op t' o' = s.op t' o' ∨ (s.pauseTasks q).op t' o' = (s.op t' o').map Op.withdrawn := by
  simp only [State.op, State.pauseTasks, State.task, aget_avals]
  cases aget t' s.tasks with
  | none => exact .inl rfl
  | some k =>
    simp only [Option.map_some, Option.bind_some]
    split
    · exact .inr List.getElem?_map
    · exact .inl rfl

@[simp] theorem pauseTasks_cell {q : Nat → Task → Bool} : (s.pauseTasks q).cell t' o' = s.cell t' o' := by
  rw [cell_eq_op, cell_eq_op]
  rcases pauseTasks_op (s := s) (q := q) (t' := t') (o' := o') with h | h
  · rw [h]
  · rw [h, Option.bind_map]
    exact congrArg (Option.bind _) (funext withdrawn_cell)

@[simp] theorem pauseTasks_vec {q : Nat → Task → Bool} : (s.pauseTasks q).vec t' o' = s.vec t' o' := by
  rw [vec_eq_op, vec_eq_op]
  rcases pauseTasks_op (s := s) (q := q) (t' := t') (o' := o') with h | h
  · rw [h]
  · rw [h, Option.bind_map]
    exact congrArg (Option.bind _) (funext withdrawn_vec)

/-- A stop condition that is met pauses tasks, and changes no actor. -/
theorem checkStopCond_cases : s.checkStopCond t o = s ∨ ∃ l, s.checkStopCond t o = s.pauseTakesEffect l := by
  unfold State.checkStopCond
  split
  · exact .inl rfl
  split
  · exact .inl rfl
  split
  · exact (ite_eq_or_eq _ _ _).elim (fun h => .inr ⟨_, h⟩) .inl
  · exact .inl rfl

@[simp] theorem checkStopCond_cell : (s.checkStopCond t o).cell t' o' = s.cell t' o' := by
  rcases checkStopCond_cases (s := s) (t := t) (o := o) with h | ⟨l, h⟩
  · rw [h]
  · rw [h]
    exact pauseTasks_cell (s := s)

@[simp] theorem checkStopCond_vec : (s.checkStopCond t o).vec t' o' = s.vec t' o' := by
  rcases checkStopCond_cases (s := s) (t := t) (o := o) with h | ⟨l, h⟩
  · rw [h]
  · rw [h]
    exact pauseTasks_vec (s := s)

@[simp] theorem countFiring_cell : (s.countFiring t o).cell t' o' = s.cell t' o' := checkStopCond_cell.trans (modOp_cell fun _ => rfl)
@[simp] theorem countFiring_vec : (s.countFiring t o).vec t' o' = s.vec t' o' := checkStopCond_vec.trans (modOp_vec fun _ => rfl)

theorem foldl_sinkPoison_cell {l : List Word} : (l.foldl (fun s w => s.sinkPoison t o w) s).cell t' o' = s.cell t' o' := by
  induction l generalizing s with
  | nil => rfl
  | cons a l ih => exact ih.trans sinkPoison_cell

theorem foldl_sinkPoison_vec {l : List Word} : (l.foldl (fun s w => s.sinkPoison t o w) s).vec t' o' = s.vec t' o' := by
  induction l generalizing s with
  | nil => rfl
  | cons a l ih => exact ih.trans sinkPoison_vec

@[simp] theorem flushMarks_cell : (s.flushMarks t o).cell t' o' = s.cell t' o' := by
  unfold State.flushMarks
  split
  · rfl
  · exact foldl_sinkPoison_cell

@[simp] theorem flushMarks_vec : (s.flushMarks t o).vec t' o' = s.vec t' o' := by
  unfold State.flushMarks
  split
  · rfl
  · exact foldl_sinkPoison_vec

/-- An operator whose firing has ended; its next begins in fc `next` at the earliest. -/
def Op.ended (next : Nat) (wrap retire : Bool) (p : Op) : Op :=
  match p.kind with
  | .cell c => { p with heldDone := p.heldDone || c.retired,
                         kind := .cell { c with firing := none, idleFrom := next, retired := c.retired || retire,
                                                wrapRun := c.wrapRun || wrap } }
  | .vec v => { p with heldDone := p.heldDone || v.retired,
                        kind := .vec { v with firing := none, idleFrom := next, retired := v.retired || retire } }
  | _ => p

theorem endFiring_cell_vec {wrap retire : Bool} :
    (s.endFiring t o wrap retire).cell t' o' = (s.modOp t o (Op.ended (s.after t o 1) wrap retire)).cell t' o' ∧
    (s.endFiring t o wrap retire).vec t' o' = (s.modOp t o (Op.ended (s.after t o 1) wrap retire)).vec t' o' := by
  have h : s.endFiring t o wrap retire =
      (if (((s.modOp t o (Op.ended (s.after t o 1) wrap retire)).vec t o).map (·.retired)).getD false then
        (s.modOp t o (Op.ended (s.after t o 1) wrap retire)).flushMarks t o
      else s.modOp t o (Op.ended (s.after t o 1) wrap retire)).countFiring t o := rfl
  rw [h, countFiring_cell, countFiring_vec]
  split
  · exact ⟨flushMarks_cell, flushMarks_vec⟩
  · exact ⟨rfl, rfl⟩

theorem endFiring_cell_self {wrap retire : Bool} (h : s.cell t o = some c) : (s.endFiring t o wrap retire).cell t o =
    some { c with firing := none, idleFrom := s.after t o 1, retired := c.retired || retire, wrapRun := c.wrapRun || wrap } := by
  obtain ⟨p, hp, hk⟩ := op_of_cell h
  rw [endFiring_cell_vec.1, cell_eq_op, modOp_op_self, hp]
  simp only [Op.ended, hk, Option.map_some, Option.bind_some, Op.cell?]

/-! ## rep -/

/-- A firing inside a block that runs `x` times, `j` words after its start. -/
def Firing.inBlock (g : Firing) (b len x j : Nat) : Prop :=
  g.pc = b + j % len ∧ g.rep = some { start := b, len := len, left := x - 1 - j / len }

theorem inBlock_next {g : Firing} {b len x j : Nat} (hlen : 0 < len) (hg : g.inBlock b len x j) (hj : j + 1 < len * x) :
    (g.next 1).inBlock b len x (j + 1) := by
  obtain ⟨hpc, hrep⟩ := hg
  have hlt := Nat.mod_lt j hlen
  have hdiv := Nat.div_add_mod j len
  unfold Firing.next Firing.inBlock
  rw [hrep]
  dsimp only
  rw [hpc]
  by_cases hend : j % len + 1 = len
  case pos =>
    have hj1 : j + 1 = len * (j / len + 1) := by rw [Nat.mul_add]; omega
    have hq : j / len + 1 < x := by
      rw [hj1] at hj
      exact Nat.lt_of_mul_lt_mul_left hj
    have hd : (j + 1) / len = j / len + 1 := by rw [hj1, Nat.mul_div_cancel_left _ hlen]
    have hm : (j + 1) % len = 0 := by rw [hj1, Nat.mul_mod_right]
    rw [if_pos (by omega), if_neg (by omega), hd, hm]
    exact ⟨rfl, congrArg some (congrArg (RepBlock.mk b len) (by omega))⟩
  case neg =>
    have hj1 : j + 1 = len * (j / len) + (j % len + 1) := by omega
    have hm : (j + 1) % len = j % len + 1 :=
      (congrArg (· % len) hj1).trans ((Nat.mul_add_mod _ _ _).trans (Nat.mod_eq_of_lt (by omega)))
    have hd : (j + 1) / len = j / len :=
      (congrArg (· / len) hj1).trans ((Nat.mul_add_div hlen _ _).trans (congrArg (j / len + ·) (Nat.div_eq_of_lt (by omega))))
    rw [if_neg (by omega), hd, hm]
    exact ⟨Nat.add_assoc b _ _, rfl⟩

theorem inBlock_foldl {b len x : Nat} (hlen : 0 < len) (hx : 0 < x) (hpc : f.pc = b)
    (hrep : f.rep = some { start := b, len := len, left := x - 1 }) {j : Nat} (hj : j < len * x) :
    ((List.range j).foldl (fun g _ => g.next 1) f).inBlock b len x j := by
  induction j with
  | zero => exact ⟨by simp [hpc], by simp [hrep]⟩
  | succ j ih =>
    rw [List.range_succ, List.foldl_append]
    exact inBlock_next hlen (ih (by omega)) hj

/-- The last word of the last run leaves the block. -/
theorem inBlock_next_last {g : Firing} {b len x j : Nat} (hlen : 0 < len) (hx : 0 < x) (hg : g.inBlock b len x j)
    (hj : j + 1 = len * x) : (g.next 1).pc = b + len ∧ (g.next 1).rep = none := by
  obtain ⟨hpc, hrep⟩ := hg
  have hj' : j = len * (x - 1) + (len - 1) := by
    obtain ⟨y, rfl⟩ := Nat.exists_eq_add_of_lt hx
    have : len * (0 + y + 1) = len * y + len := by rw [Nat.zero_add, Nat.mul_add, Nat.mul_one]
    simp only [Nat.zero_add, Nat.add_sub_cancel]
    omega
  have hm : j % len = len - 1 := by rw [hj', Nat.mul_add_mod, Nat.mod_eq_of_lt (by omega)]
  have hd : j / len = x - 1 := by rw [hj', Nat.mul_add_div hlen, Nat.div_eq_of_lt (by omega), Nat.add_zero]
  unfold Firing.next
  rw [hrep]
  dsimp only
  rw [hpc, if_pos (by omega), if_pos (by omega)]
  exact ⟨by dsimp only; omega, rfl⟩

theorem exec_rep {a : Src} {x : Word} {len : BitVec 5} (h : CellReads s t o c f [a] [x]) :
    exec (.rep a len) s = .next (((s.cellPops t o (popsOf [a])).cellAdvance t o (srcWords [a]) 1).modFiring t o fun f =>
      if x.toNat = 0 then { f with pc := f.pc + len.toNat }
      else { f with rep := some { start := f.pc, len := len.toNat, left := x.toNat - 1 } }) := by
  have hx : exec (.rep a len) s = execRep a len s := rfl
  rw [hx, execRep, h.runs.cur]
  exact congrArg Host.Outcome.next (withOperands_free h)

theorem exec_endCell_done (h : CellRuns s t o c f) (hd : f.chosenPopped = true ∨ f.wrap = true ∨ s.headTok t o f.guardPort = none) :
    exec .endCell s = .next ((s.endFiring t o f.wrap f.wrap).busy (s.lctxOf t)).issued := by
  have hx : exec .endCell s = execEndCell s := rfl
  rw [hx, execEndCell, curFiring_eq h]
  dsimp only
  cases hp : f.chosenPopped with
  | true => rfl
  | false =>
    cases hw : f.wrap with
    | true => rfl
    | false =>
      rw [hp, hw] at hd
      rw [hd.resolve_left Bool.false_ne_true |>.resolve_left Bool.false_ne_true]
      rfl

/-- Settles O20: `rep` sets the block that the advance of the firing runs down, and `end` closes the firing or freezes its cell. -/
theorem repeatAndEnd : Obligations.RepeatAndEnd := by
  unfold Obligations.RepeatAndEnd
  refine ⟨fun s t o c f a x len h => ?_, ⟨fun s t o c f r words iv hc hf hr hend => ?_, fun f b len x hlen hx hpc hrep => ?_⟩,
    fun s t o c f h hd => ?_, fun s t o c f tok h hp hw ht hz => ?_⟩
  · obtain ⟨f', hf', hpc, hrep⟩ := cellPops_firing (ps := popsOf [a]) h.cell h.firing
    obtain ⟨hnpc, hnrep⟩ := next_fields hpc hrep (srcWords [a])
    refine ⟨_, _, exec_rep h, modFiring_firing_self.trans (congrArg _ (cellAdvance_firing.trans (congrArg _ hf'))), fun hx => ?_, fun hx => ?_⟩
    · dsimp only
      rw [if_pos (by rw [hx]; rfl)]
      exact ⟨congrArg (· + len.toNat) hnpc, hnrep⟩
    · dsimp only
      rw [if_neg fun e : x.toNat = 0 => hx (BitVec.eq_of_toNat_eq e)]
      exact ⟨hnpc, by dsimp only; rw [hnpc]⟩
  · refine ⟨_, cellAdvance_firing.trans (by rw [State.firing, hc, Option.bind_some, hf, Option.map_some]), fun hl => ?_, fun hl => ?_⟩
    · unfold Firing.next
      rw [hr]
      dsimp only
      rw [if_pos hend, if_neg (by omega)]
      exact ⟨rfl, rfl⟩
    · unfold Firing.next
      rw [hr]
      dsimp only
      rw [if_pos hend, if_pos hl]
      exact ⟨rfl, rfl⟩
  · refine ⟨fun j hj => (inBlock_foldl hlen hx hpc hrep hj).1, ?_⟩
    obtain ⟨n, hn⟩ : ∃ n, len * x = n + 1 := Nat.exists_eq_succ_of_ne_zero (Nat.mul_pos hlen hx).ne'
    dsimp only
    rw [hn, List.range_succ, List.foldl_append]
    exact inBlock_next_last hlen hx (inBlock_foldl hlen hx hpc hrep (by omega)) hn.symm
  · exact ⟨_, _, exec_endCell_done h hd, endFiring_cell_self h.cell, rfl, rfl, rfl, rfl⟩
  · have hx : exec .endCell s = .next (s.malformed t o f.guardPort tok) := by
      have he : exec .endCell s = execEndCell s := rfl
      rw [he, execEndCell, curFiring_eq h]
      dsimp only
      rw [hp, hw, ht]
      rfl
    obtain ⟨p, hop, -⟩ := op_of_cell h.cell
    rw [State.frozen, hop] at hz
    refine ⟨_, hx, ?_⟩
    have hop' : (s.malformed t o f.guardPort tok).op t o = _ := modOp_op_self (s := s)
    have hz' : ¬p.fault.isSome = true := fun e => Bool.false_ne_true (hz.symm.trans e)
    rw [hop', hop, Option.map_some, Option.map_some, if_neg hz']

end Sys2Proof.Machine

namespace Sys2Proof.Machine

/-! PROOFS. The send group, the token group, steering, merging, tags and control bits on cells (R133 to R144). -/

variable {s : State} {t o : Nat} {c : Cell} {f : Firing} {q : QIn} {p : OPort} {tok : Token}

/-! ## Headers and marks -/

theorem hdrKind_mkHdr {kind level tag : Nat} (hk : kind < 8) (hl : level < 8) (ht : tag < 1024) : hdrKind (mkHdr kind level tag) = kind := by
  rw [hdrKind, mkHdr, BitVec.toNat_ofNat]
  omega

theorem hdrTag_mkHdr {kind level tag : Nat} (hk : kind < 8) (hl : level < 8) (ht : tag < 1024) : hdrTag (mkHdr kind level tag) = tag := by
  rw [hdrTag, mkHdr, BitVec.toNat_ofNat]
  omega

theorem hdrKind_lt (h : Half) : hdrKind h < 8 := by have := h.isLt; rw [hdrKind]; omega
theorem hdrLevel_lt (h : Half) : hdrLevel h < 8 := Nat.mod_lt _ (by decide)
theorem hdrTag_lt (h : Half) : hdrTag h < 1024 := Nat.mod_lt _ (by decide)

theorem tagged_kind {g : Nat} (hg : g < 1024) : (tok.tagged g).kind = tok.kind := hdrKind_mkHdr (hdrKind_lt _) (hdrLevel_lt _) hg

/-- A firing marks data tokens alone (R36). -/
theorem marked_of_kind (h : tok.kind ≠ Kind.data) : f.marked tok = tok := by
  rw [Firing.marked, if_neg]
  simp [h]

theorem kind_of_isClose (h : tok.isClose = true) : tok.kind ≠ Kind.data := by
  intro hk
  rw [Token.isClose, hk] at h
  exact absurd h (by decide)

theorem kind_of_isPoison (h : tok.isPoison = true) : tok.kind ≠ Kind.data := by
  intro hk
  rw [Token.isPoison, hk] at h
  exact absurd h (by decide)

theorem marked_of_isClose (h : tok.isClose = true) : f.marked tok = tok := marked_of_kind (kind_of_isClose h)

theorem marked_isClose : (f.marked tok).isClose = tok.isClose := by
  unfold Firing.marked
  split
  case isTrue h =>
    have hk : tok.kind = Kind.data := beq_iff_eq.mp ((Bool.and_eq_true _ _).mp h).2
    have ha : ({ tok with hdr := mkHdr Kind.audit (hdrLevel tok.hdr) (hdrTag tok.hdr) } : Token).kind = Kind.audit :=
      hdrKind_mkHdr (by decide) (hdrLevel_lt _) (hdrTag_lt _)
    rw [Token.isClose, Token.isClose, ha, hk]
    rfl
  case isFalse => rfl

theorem marked_tag : hdrTag (f.marked tok).hdr = hdrTag tok.hdr := by
  unfold Firing.marked
  split
  · exact hdrTag_mkHdr (by decide) (hdrLevel_lt _) (hdrTag_lt _)
  · rfl

/-- The tokens that a firing makes carry their mark from the start. -/
theorem marked_resultHdr {w : Word} : f.marked (wideTok (resultTok f 0).hdr w) = wideTok (resultTok f 0).hdr w := by
  unfold Firing.marked
  refine if_neg fun h => ?_
  obtain ⟨ha, hk⟩ := (Bool.and_eq_true _ _).mp h
  have hh : (resultTok f 0).hdr = mkHdr Kind.audit 0 (hdrTag f.guardHdr) :=
    congrArg (fun b : Nat => mkHdr b 0 (hdrTag f.guardHdr)) (if_pos ha)
  have hk' : hdrKind (resultTok f 0).hdr = Kind.data := beq_iff_eq.mp hk
  rw [hh, hdrKind_mkHdr (by decide) (by decide) (hdrTag_lt _)] at hk'
  exact absurd hk' (by decide)

/-! ## send, recv, peek and drop -/

theorem next_lastHdr (f : Firing) (words : Nat) : (f.next words).lastHdr = f.lastHdr := by
  unfold Firing.next
  split
  · split
    · split
      · rfl
      · rfl
    · rfl
  · rfl

theorem exec_send {a : Src} {x : Word} {tag : BitVec 10} (h : CellReads s t o c f [a] [x])
    (hp : PushOk s t o (4 + p.val) (if tag = 0 then resultTok f x else (resultTok f x).tagged tag.toNat)) :
    exec (.send p a tag) s = .next (s.cellSent t o (4 + p.val) (popsOf [a]) (srcWords [a])
      (if tag = 0 then resultTok f x else (resultTok f x).tagged tag.toNat)) := by
  have hx : exec (.send p a tag) s = execSend p a tag s := rfl
  rw [hx, execSend, h.runs.cur]
  dsimp only
  rw [withOperands_eq h (by rintro _ ⟨⟩; exact hp.ready)]
  simp only [beq_iff_eq]
  exact congrArg Host.Outcome.next (cellSend_eq hp)

theorem exec_recv_port (h : CellRuns s t o c f) (ht : s.headTok t o q.val = some tok) (hpop : PopsOk s t o [q.val])
    (hp : PushOk s t o (4 + p.val) (f.marked tok)) :
    exec (.recv (.o p) q) s = .next (s.cellSent t o (4 + p.val) [q.val] 1 (f.marked tok)) := by
  have hx : exec (.recv (.o p) q) s = execRecv (.o p) q s := rfl
  have hd : s.dstReady t o (.o p) = true := hp.ready
  rw [hx, execRecv, curFiring_eq h]
  dsimp only
  rw [ht]
  dsimp only
  rw [hd, popFreeze_eq hpop, cellSend_eq hp]
  rfl

theorem exec_recv_reg {n : SReg} (h : CellRuns s t o c f) (ht : s.headTok t o q.val = some tok) (hpop : PopsOk s t o [q.val]) :
    exec (.recv (.s n) q) s = .next
      ((if tok.isPoison then ((s.cellPop t o q.val).modCell t o fun c => c.setReg n tok.word).sinkPoison t o tok.word
        else (s.cellPop t o q.val).modCell t o fun c => c.setReg n tok.word).cellAdvance t o 1 1) := by
  have hx : exec (.recv (.s n) q) s = execRecv (.s n) q s := rfl
  rw [hx, execRecv, curFiring_eq h]
  dsimp only
  rw [ht]
  dsimp only
  rw [popFreeze_eq hpop]
  rfl

theorem exec_drop (h : CellRuns s t o c f) (ht : s.headTok t o q.val = some tok) (hpop : PopsOk s t o [q.val]) :
    exec (.drop q) s = .next
      ((if tok.isPoison then (s.cellPop t o q.val).sinkPoison t o tok.word else s.cellPop t o q.val).cellAdvance t o 1 1) := by
  have hx : exec (.drop q) s = execDrop q s := rfl
  rw [hx, execDrop, curFiring_eq h]
  dsimp only
  rw [ht]
  dsimp only
  rw [popFreeze_eq hpop]

theorem exec_peek {n : SReg} (h : CellRuns s t o c f) (ht : s.headTok t o q.val = some tok) :
    exec (.peek n q) s = .next (((s.modCell t o fun c => c.setReg n tok.word).modFiring t o fun f =>
      { f with lastHdr := tok.hdr }).cellAdvance t o 1 1) := by
  have hx : exec (.peek n q) s = execPeek n q s := rfl
  rw [hx, execPeek, curFiring_eq h]
  dsimp only
  rw [ht]

theorem setReg_firing {n : SReg} {w : Word} : (c.setReg n w).firing = c.firing := by
  unfold Cell.setReg
  split
  · rfl
  · rfl

/-- Settles O21: each word of the two groups sends or takes one token, and goes on. -/
theorem sendAndReceive : Obligations.SendAndReceive := by
  unfold Obligations.SendAndReceive
  refine ⟨⟨fun s t o c f p a x tag h hp => exec_send h hp, fun s t o c f p lvl tag h hp => ?_, fun s t o c f p tag h hp => ?_⟩,
    fun s t o c f q tok h ht => ⟨fun hpop p hp => exec_recv_port h ht hpop hp, fun hpop n => exec_recv_reg h ht hpop,
      fun hpop => exec_drop h ht hpop, fun n => ?_⟩⟩
  · have hx : exec (.sendstop p lvl tag) s = execSendstop p lvl tag s := rfl
    rw [hx, execSendstop, curFiring_eq h]
    exact congrArg Host.Outcome.next (cellSend_eq hp)
  · have hx : exec (.senddone p tag) s = execSenddone p tag s := rfl
    rw [hx, execSenddone, curFiring_eq h]
    exact congrArg Host.Outcome.next (cellSend_eq hp)
  · have hcell : ((s.modCell t o fun c => c.setReg n tok.word).modFiring t o fun f => { f with lastHdr := tok.hdr }).cell t o =
        some { c.setReg n tok.word with firing := some { f with lastHdr := tok.hdr } } := by
      rw [modFiring_cell_self, modCell_cell_self, h.cell, Option.map_some, Option.map_some, setReg_firing, h.firing]
      rfl
    refine ⟨_, _, exec_peek h ht, ?_, cellAdvance_cell_self.trans (congrArg _ hcell), ?_⟩
    · exact (headTok_congr (cellAdvance_chans.trans (modFiring_chans.trans modOp_chans)) countMicro_fc).trans ht
    · exact next_lastHdr _ _

/-! ## steer, merge and amerge -/

/-- What a firing takes where the arms do not close together (R136 rules 3 and 4). -/
def State.pickOpen (s : State) (t o : Nat) (c : Cell) : ArmKind → Pick
  | .merge a => match s.mergeCtrl t o c a with
    | .wait => .wait
    | .poison w => .ctrlPoison w
    | .close y q => .malformed y q
    | .value v => match s.headTok t o (if v != 0 then 1 else 0) with
      | some y => if y.isClose then .wait else .take [if v != 0 then 1 else 0] y
      | none => .wait
  | k => match s.earliest t o (s.arms t o k) with
    | some q => match s.headTok t o q with
      | some y => .take [q] y
      | none => .wait
    | none => .wait

theorem sameClose_of_open {a b : Token} (h : b.isClose = false) : sameClose a b = false := by
  unfold Token.isClose at h
  obtain ⟨hs, hd⟩ := Bool.or_eq_false_iff.mp h
  rw [sameClose, hs, hd, Bool.and_false, Bool.and_false, Bool.false_and, Bool.or_false]

/-- An arm whose head does not close keeps the arms from closing together. -/
theorem pickArm_open {k : ArmKind} {b : Nat} {x : Token} (hb : b ∈ s.arms t o k) (hx : s.headTok t o b = some x)
    (hc : x.isClose = false) : s.pickArm t o c k = s.pickOpen t o c k := by
  have hmem : (b, x) ∈ (s.arms t o k).filterMap fun p => (s.headTok t o p).map fun x => (p, x) :=
    List.mem_filterMap.mpr ⟨b, hb, by rw [hx]; rfl⟩
  unfold State.pickArm
  dsimp only
  split
  case h_2 heq => rw [heq] at hmem; cases hmem
  case h_1 p y rest heq =>
    rw [heq] at hmem ⊢
    have htog : (y.isClose && rest.all fun z => sameClose y z.2) = false := by
      rcases List.mem_cons.mp hmem with e | hr
      · cases e
        rw [hc, Bool.false_and]
      · exact Bool.and_eq_false_iff.mpr (.inr (List.all_eq_false.mpr ⟨_, hr, by simp [sameClose_of_open hc]⟩))
    have hall : (((p, y) :: rest).all fun z => z.2.isClose) = false := List.all_eq_false.mpr ⟨_, hmem, by simp [hc]⟩
    rw [Bool.and_assoc, htog, hall, Bool.and_false, if_neg Bool.false_ne_true, if_neg Bool.false_ne_true]
    cases k <;> rfl

theorem earliest_mem {l : List Nat} {b : Nat} (h : s.earliest t o l = some b) : b ∈ l := by
  induction l generalizing b with
  | nil => cases h
  | cons a l ih =>
    unfold State.earliest at h
    split at h
    · split at h
      · exact List.mem_cons_of_mem _ (ih h)
      · split at h
        · next hq =>
          split at h
          · cases h
            exact List.mem_cons_of_mem _ (ih hq)
          · cases h
            exact List.mem_cons_self
        · cases h
          exact List.mem_cons_self
    · exact List.mem_cons_of_mem _ (ih h)

/-- An arm that is selected is popped with its control input, and its token goes out (R138, R139). -/
theorem armStep_take {kind : ArmKind} {ctl : List Nat} {words b : Nat} {x : Token} (hf : c.firing = some f)
    (hpick : s.pickArm t o c kind = .take [b] x) (hx : x.isClose = false) (hpop : PopsOk s t o (b :: ctl))
    (hp : PushOk s t o (4 + p.val) (f.marked x)) :
    s.armStep t o c p kind ctl words = (((ctl.foldl (fun s q => s.popTok t o q) (s.popArms t o [b] x)).pushTok t o (4 + p.val)
      (f.marked x)).cellAdvance t o words 1) := by
  unfold State.armStep
  rw [hpick]
  dsimp only
  rw [hf, hx, if_neg Bool.false_ne_true, Option.map_some, Option.getD_some, hp.ready]
  have hfree : s.popFreeze t o ([b] ++ ctl) = none := popFreeze_eq hpop
  rw [hfree, hp.rate]
  rfl

theorem pickArm_merge {a : Src} {v : Word} {x : Token} (hf : c.firing = some f) (hv : s.readCtrl t o c f.lastHdr [] a = .value v)
    (hx : s.headTok t o (if v = 0 then 0 else 1) = some x) (hc : x.isClose = false) :
    s.pickArm t o c (.merge a) = .take [if v = 0 then 0 else 1] x := by
  have hb : (if v = 0 then 0 else 1) ∈ s.arms t o (.merge a) := by
    change _ ∈ [0, 1]
    split <;> simp
  have hctl : s.mergeCtrl t o c a = .value v := by rw [State.mergeCtrl, hf]; exact hv
  have hbit : (if (v != 0) = true then 1 else 0) = if v = 0 then 0 else 1 := by by_cases h : v = 0 <;> simp [h]
  rw [pickArm_open hb hx hc, State.pickOpen, hctl]
  dsimp only
  rw [hbit, hx]
  dsimp only
  rw [hc]
  rfl

theorem exec_steer_open {a : Src} {v : Word} (h : CellRuns s t o c f) (ht : s.headTok t o q.val = some tok) (hc : tok.isClose = false)
    (hv : s.readCtrl t o c tok.hdr [q.val] a = .value v) (hpop : PopsOk s t o (q.val :: popsOf [a]))
    (hp : PushOk s t o (if v = 0 then 4 else 5) (f.marked tok)) (hk : PushOk s t o kcPort (ctrlTok (v != 0))) :
    exec (.steer q a) s = .next ((((s.cellPops t o (q.val :: popsOf [a])).pushTok t o (if v = 0 then 4 else 5) (f.marked tok)).pushTok t o
      kcPort (ctrlTok (v != 0))).cellAdvance t o (srcWords [a]) 1) := by
  have hx : exec (.steer q a) s = execSteer q a s := rfl
  have hport : (if (v != 0) = true then 5 else 4) = if v = 0 then 4 else 5 := by by_cases h : v = 0 <;> simp [h]
  rw [hx, execSteer, curFiring_eq h]
  dsimp only
  rw [ht]
  dsimp only
  rw [marked_isClose, hc, if_neg Bool.false_ne_true, popFreeze_eq hpop, hv]
  dsimp only
  rw [hport, hp.ready, hk.ready, hp.rate, hk.rate]
  rfl

theorem exec_steer_close {a : Src} (h : CellRuns s t o c f) (ht : s.headTok t o q.val = some tok) (hc : tok.isClose = true)
    (hpop : PopsOk s t o [q.val]) (hp : s.canPushAll t o cellOuts = true) :
    exec (.steer q a) s = .next ((((s.cellPop t o q.val).pushTok t o 4 tok).pushTok t o 5 tok).cellAdvance t o (srcWords [a]) 1) := by
  have hx : exec (.steer q a) s = execSteer q a s := rfl
  rw [hx, execSteer, curFiring_eq h]
  dsimp only
  rw [ht]
  dsimp only
  rw [marked_of_isClose hc, hc, if_pos rfl, hp, popFreeze_eq hpop]
  rfl

/-- Settles O22: steering by the control operand, and the arm that the control bit or the arrival selects. -/
theorem steerAndMerge : Obligations.SteerAndMerge := by
  unfold Obligations.SteerAndMerge
  refine ⟨fun s t o c f q a tok h ht => ⟨fun hc v hv hpop hp hk => exec_steer_open h ht hc hv hpop hp hk,
      fun hc hpop hp => exec_steer_close h ht hc hpop hp⟩,
    fun s t o c f p a v x h hv hx hc hpop hp => ?_, fun s t o c f p b x h hb hx hc hpop hp => ?_⟩
  · have he : exec (.merge p a) s = execMerge p a s := rfl
    rw [he, execMerge, curFiring_eq h]
    exact congrArg Host.Outcome.next (armStep_take h.firing (pickArm_merge h.firing hv hx hc) hc hpop hp)
  · have he : exec (.amerge p) s = execAmerge p s := rfl
    have hpick : s.pickArm t o c .amerge = .take [b] x := by
      rw [pickArm_open (earliest_mem hb) hx hc, State.pickOpen, hb]
      dsimp only
      rw [hx]
      exact fun a => ArmKind.noConfusion
    rw [he, execAmerge, curFiring_eq h]
    exact congrArg Host.Outcome.next (armStep_take (ctl := []) h.firing hpick hc hpop hp)

end Sys2Proof.Machine

namespace Sys2Proof.Machine

/-! PROOFS. Tags, `repl` and control bits on cells (R141 to R144). -/

variable {s : State} {t o : Nat} {c : Cell} {f : Firing} {q : QIn} {p : OPort} {tok : Token} {ps : List Nat}

/-! ## A word that issues counts -/

@[simp] theorem popTok_issues {p : Nat} : (s.popTok t o p).issues = s.issues := by
  unfold State.popTok
  split
  · rfl
  · rfl

@[simp] theorem pushTok_issues {p : Nat} : (s.pushTok t o p tok).issues = s.issues := by
  unfold State.pushTok
  split
  · rfl
  · rfl

@[simp] theorem cellPop_issues {p : Nat} : (s.cellPop t o p).issues = s.issues := by
  unfold State.cellPop
  split
  · exact popTok_issues
  split
  · rfl
  dsimp only
  split
  · exact popTok_issues
  · exact popTok_issues

@[simp] theorem cellPops_issues : (s.cellPops t o ps).issues = s.issues := by
  induction ps generalizing s with
  | nil => rfl
  | cons a l ih => exact ih.trans cellPop_issues

@[simp] theorem countMicro_issues : (s.countMicro t o).issues = s.issues := by
  unfold State.countMicro
  split
  · split
    · split
      · rfl
      · rfl
    · rfl
  · rfl

@[simp] theorem cellAdvance_issues {words iv : Nat} : (s.cellAdvance t o words iv).issues = s.issues + 1 :=
  congrArg (· + 1) countMicro_issues

@[simp] theorem cellSent_issues {words n : Nat} : (s.cellSent t o n ps words tok).issues = s.issues + 1 := by
  rw [State.cellSent, cellAdvance_issues, pushTok_issues, cellPops_issues]

/-! ## tagseq -/

theorem exec_tagseq (h : CellRuns s t o c f) (ht : s.headTok t o q.val = some tok) (hpop : PopsOk s t o [q.val])
    (hp : PushOk s t o (4 + p.val) (f.marked (tok.tagged (if tok.isClose then 0 else c.tseq)))) :
    exec (.tagseq p q) s = .next (if tok.isClose then
        s.cellSent t o (4 + p.val) [q.val] 1 (f.marked (tok.tagged (if tok.isClose then 0 else c.tseq)))
      else (s.cellSent t o (4 + p.val) [q.val] 1 (f.marked (tok.tagged (if tok.isClose then 0 else c.tseq)))).modCell t o fun c =>
        { c with tseq := c.tseq % 1023 + 1 }) := by
  have hx : exec (.tagseq p q) s = execTagseq p q s := rfl
  rw [hx, execTagseq, curFiring_eq h]
  dsimp only
  rw [ht]
  dsimp only
  rw [hp.ready, popFreeze_eq hpop]
  dsimp only
  have hsend := cellSend_eq (pops := [q.val]) (words := 1) hp
  rw [Token.tagged] at hsend ⊢
  rw [hsend]
  cases tok.isClose with
  | true => rfl
  | false =>
    have hn : ((s.cellSent t o (4 + p.val) [q.val] 1 (f.marked { tok with hdr := hdrWithTag tok.hdr c.tseq })).issues == s.issues) = false := by
      rw [cellSent_issues]
      exact beq_false_of_ne (Nat.succ_ne_self _)
    simp only [Bool.false_or, Bool.false_eq_true, if_false, hn]
    rfl

/-! ## collect -/

theorem cellPops_push_cell {n : Nat} (h : s.cell t o = some c) :
    ∃ c', ((s.cellPops t o ps).pushTok t o n tok).cell t o = some c' ∧ c'.next = c.next ∧ c'.window = c.window := by
  obtain ⟨c', hc', hp⟩ := cellPops_popped (l := ps) h
  exact ⟨c', pushTok_cell.trans hc', by rw [hp.cell], by rw [hp.cell]⟩

theorem collectPush_eq {g : Nat} (h : s.cell t o = some c) (hg : hdrTag tok.hdr = g) (hp : PushOk s t o (4 + p.val) tok) :
    s.collectPush t o p ps tok = ((s.cellPops t o ps).pushTok t o (4 + p.val) tok).collected t o c g := by
  obtain ⟨c', hc', hnext, hwin⟩ := cellPops_push_cell (tok := tok) (n := 4 + p.val) (ps := ps) h
  unfold State.collectPush State.collected
  rw [hp.ready, if_pos rfl, hp.rate]
  dsimp only
  rw [modCell_cell_self, hc', hg, ← hnext, ← hwin]
  rfl

theorem collected_cell {g : Nat} {c' : Cell} (h : s.cell t o = some c') :
    ∃ c'', (s.collected t o c g).cell t o = some c'' ∧ c''.next = c'.next % 1023 + 1 := by
  have hu : (s.modCell t o fun x => { x with next := x.next % 1023 + 1, window := adel g x.window }).cell t o =
      some { c' with next := c'.next % 1023 + 1, window := adel g c'.window } := by
    rw [modCell_cell_self, h]
    rfl
  unfold State.collected
  dsimp only
  split
  · exact ⟨_, modFiring_cell_self.trans (congrArg _ hu), rfl⟩
  · exact ⟨_, cellAdvance_cell_self.trans (congrArg _ (modFiring_cell_self.trans (congrArg _ hu))), rfl⟩

/-- What `collect` does with the token at its queue (R142). -/
theorem exec_collect (h : CellRuns s t o c f) (hr : f.releasing = false) (ht : s.headTok t o q.val = some tok)
    (hpop : PopsOk s t o [q.val]) : exec (.collect p q) s = .next (
      if tok.isClose then
        if c.window.isEmpty then s.cellSend t o p [q.val] 1 (f.marked tok)
        else s.freeze t o Code.tagWindow (BitVec.ofNat 32 (hdrTag tok.hdr + 2 ^ 10 * c.next))
      else if hdrTag tok.hdr = 0 ∨ 64 ≤ (hdrTag tok.hdr + 1023 - c.next) % 1023 ∨ (aget (hdrTag tok.hdr) c.window).isSome then
        s.freeze t o Code.tagWindow (BitVec.ofNat 32 (hdrTag tok.hdr + 2 ^ 10 * c.next))
      else if (hdrTag tok.hdr + 1023 - c.next) % 1023 = 0 then s.collectPush t o p [q.val] (f.marked tok)
      else ((s.cellPop t o q.val).modCell t o fun c => { c with window := aset (hdrTag tok.hdr) tok c.window }).cellAdvance t o 1 1) := by
  have hx : exec (.collect p q) s = execCollect p q s := rfl
  rw [hx, execCollect, curFiring_eq h]
  dsimp only
  rw [hr, if_neg Bool.false_ne_true, ht]
  dsimp only
  rw [popFreeze_eq hpop]
  dsimp only
  split
  · split
    · rfl
    · rfl
  · split
    · rfl
    · split
      · rfl
      · rfl

theorem exec_collect_releasing {k : Token} (h : CellRuns s t o c f) (hr : f.releasing = true) (hk : aget c.next c.window = some k) :
    exec (.collect p q) s = .next (s.collectPush t o p [] (f.marked k)) := by
  have hx : exec (.collect p q) s = execCollect p q s := rfl
  rw [hx, execCollect, curFiring_eq h]
  dsimp only
  rw [hr, if_pos rfl, hk]

/-- Settles O23: `tagseq` numbers its tokens, and `collect` keeps its window, token by token. -/
theorem tagSequenceAndCollect : Obligations.TagSequenceAndCollect := by
  unfold Obligations.TagSequenceAndCollect
  refine ⟨fun s t o c f p q tok h ht hpop => ⟨fun hc hp => ?_, fun hc hp => ?_⟩,
    fun s t o c f p q tok h hr ht hpop => ⟨fun hc hg hδ hlt hw => ?_, fun hc hg hδ hw hp => ⟨?_, ?_⟩, fun hc hbad => ?_, fun hc hw hp => ?_⟩,
    fun s t o c f p q k h hr hk htag hp => ?_⟩
  · have he := exec_tagseq (p := p) h ht hpop (by rw [hc]; exact hp)
    rw [hc] at he
    exact he
  · have hm : f.marked (tok.tagged 0) = tok.tagged 0 := marked_of_kind (by rw [tagged_kind (by decide)]; exact kind_of_isClose hc)
    have he := exec_tagseq (p := p) h ht hpop (by rw [hc, if_pos rfl, hm]; exact hp)
    rw [hc, if_pos rfl, if_pos rfl, hm] at he
    exact he
  · rw [exec_collect h hr ht hpop, hc, hw, if_neg Bool.false_ne_true, if_neg (by simp [hg, hlt]), if_neg hδ]
  · rw [exec_collect h hr ht hpop, hc, hw, if_neg Bool.false_ne_true, if_neg (by simp [hg, hδ]), if_pos hδ]
    exact congrArg Host.Outcome.next (collectPush_eq h.cell marked_tag hp)
  · obtain ⟨c', hc', hnext, -⟩ := cellPops_push_cell (tok := f.marked tok) (n := 4 + p.val) (ps := [q.val]) h.cell
    obtain ⟨c'', hc'', hn⟩ := collected_cell (c := c) (g := hdrTag tok.hdr) hc'
    exact ⟨c'', hc'', by rw [hn, hnext]⟩
  · rw [exec_collect h hr ht hpop, hc, if_neg Bool.false_ne_true, if_pos (by rwa [Option.isSome_iff_ne_none])]
  · rw [exec_collect h hr ht hpop, hc, hw, if_pos rfl, marked_of_isClose hc, cellSend_eq hp]
    rfl
  · rw [exec_collect_releasing h hr hk]
    exact congrArg Host.Outcome.next (collectPush_eq (ps := []) h.cell (marked_tag.trans htag) hp)

/-! ## repl, kout and kwait -/

/-- What `repl` pushes for an operand that came with a token (R143). -/
def replOut (f : Firing) (popped : Bool) (k : Token) : Token :=
  let hdr := if popped then k.hdr else hdrWithTag k.hdr (hdrTag f.guardHdr)
  if k.isPoison then narrowTok hdr k.word
  else if k.isClose then narrowTok hdr 0
  else wideTok hdr k.word

/-- `repl` of an operand with a token pushes one token, unless the token closes a stream that it only peeks at. -/
theorem exec_repl_tok {a : Src} {v : Opnd} (h : CellRuns s t o c f) (hv : s.readSrc t o c f.lastHdr [] a = some v)
    (hk : v.tok = some tok) (hcl : tok.isClose = true → (srcPops a).isSome = true) (hpop : PopsOk s t o (popsOf [a]))
    (hp : PushOk s t o 4 (f.marked (replOut f (srcPops a).isSome tok))) :
    exec (.repl a) s = .next (s.cellSent t o 4 (popsOf [a]) (srcWords [a]) (f.marked (replOut f (srcPops a).isSome tok))) := by
  have hx : exec (.repl a) s = execRepl a s := rfl
  have hsend := cellSend_eq (p := 0) (pops := popsOf [a]) (words := srcWords [a]) hp
  rw [hx, execRepl, curFiring_eq h]
  dsimp only
  rw [hv]
  dsimp only
  rw [hp.ready, popFreeze_eq hpop]
  dsimp only
  rw [hk]
  dsimp only
  unfold replOut at hsend ⊢
  dsimp only at hsend ⊢
  cases hpo : tok.isPoison with
  | true =>
    rw [hpo] at hsend
    exact congrArg Host.Outcome.next hsend
  | false =>
    cases hcl' : tok.isClose with
    | true =>
      rw [hpo, hcl'] at hsend
      rw [hcl hcl'] at hsend ⊢
      exact congrArg Host.Outcome.next hsend
    | false =>
      rw [hpo, hcl'] at hsend
      exact congrArg Host.Outcome.next hsend

theorem exec_repl_value {a : Src} {v : Opnd} (h : CellRuns s t o c f) (hv : s.readSrc t o c f.lastHdr [] a = some v)
    (hk : v.tok = none) (hpop : PopsOk s t o (popsOf [a])) (hp : PushOk s t o 4 (wideTok (resultTok f 0).hdr v.val)) :
    exec (.repl a) s = .next (s.cellSent t o 4 (popsOf [a]) (srcWords [a]) (wideTok (resultTok f 0).hdr v.val)) := by
  have hx : exec (.repl a) s = execRepl a s := rfl
  have hsend := cellSend_eq (p := 0) (pops := popsOf [a]) (words := srcWords [a]) hp
  rw [hx, execRepl, curFiring_eq h]
  dsimp only
  rw [hv]
  dsimp only
  rw [hp.ready, popFreeze_eq hpop]
  dsimp only
  rw [hk]
  exact congrArg Host.Outcome.next ((congrArg (s.cellSend t o 0 (popsOf [a]) (srcWords [a])) marked_resultHdr).trans hsend)

/-- Settles O24: `repl` widens its operand's token, `kout` sends a control bit, and `kwait` takes one. -/
theorem replAndControlBits : Obligations.ReplAndControlBits := by
  unfold Obligations.ReplAndControlBits
  refine ⟨fun s t o c f q tok h ht hpop hp => ?_, fun s t o c f q tok h ht hpo hcl hp => ?_, fun s t o c f a v h hv hk hpop hp => ?_,
    fun s t o c f a v h hpop hv hp => ?_, fun s t o c f k x h => ?_⟩
  · have hv : s.readSrc t o c f.lastHdr [] (.q q) = some { val := tok.word, tok := some tok, port := q.val } := by
      rw [State.readSrc, List.count_nil, ht]
      rfl
    have hout : f.marked (replOut f (srcPops (.q q)).isSome tok) =
        if tok.isPoison then narrowTok tok.hdr tok.word else if tok.isClose then narrowTok tok.hdr 0
          else f.marked (wideTok tok.hdr tok.word) := by
      rw [replOut]
      cases hpo : tok.isPoison with
      | true => exact marked_of_kind (kind_of_isPoison hpo)
      | false =>
        cases hcl : tok.isClose with
        | true => exact marked_of_kind (kind_of_isClose hcl)
        | false => rfl
    rw [← hout] at hp ⊢
    exact exec_repl_tok h hv rfl (fun _ => rfl) hpop hp
  · have hv : s.readSrc t o c f.lastHdr [] (.pk q) = some { val := tok.word, tok := some tok, port := q.val } := by
      rw [State.readSrc, ht]
      rfl
    have hout : replOut f (srcPops (.pk q)).isSome tok = wideTok (hdrWithTag tok.hdr (hdrTag f.guardHdr)) tok.word := by
      rw [replOut, hpo, hcl]
      rfl
    have hnone : PopsOk s t o (popsOf [.pk q]) := ⟨rfl, rfl⟩
    rw [← hout] at hp ⊢
    exact exec_repl_tok h hv rfl (fun e => absurd (hcl.symm.trans e) Bool.false_ne_true) hnone hp
  · exact exec_repl_value h hv hk hpop hp
  · have hx : exec (.kout a) s = execKout a s := rfl
    rw [hx, execKout, curFiring_eq h]
    dsimp only
    rw [hp.ready, popFreeze_eq hpop, hv]
    dsimp only
    rw [hp.rate]
    rfl
  · have hx : exec (.kwait k) s = execKwait k s := rfl
    rw [hx, execKwait, h.runs.cur]
    exact congrArg Host.Outcome.next (withOperands_free h)

end Sys2Proof.Machine

namespace Sys2Proof.Machine

/-! PROOFS. System words of cells: work queues, spawns, counters and the commit of a wrap-up (R147 to R149, R269). -/

variable {s : State} {t o t' o' l n : Nat} {c : Cell} {f : Firing} {d : Dst} {srcs : List Src} {vals : List Word} {w : Word}

/-! ## What a pop of a work queue keeps -/

theorem touch_cases (x : Loc) : ∃ p, s.touch x = { s with power := p } := by
  unfold State.touch
  split
  · exact ⟨_, rfl⟩
  · exact ⟨s.power, rfl⟩

theorem touchVa_cases (va : Nat) : ∃ p, s.touchVa l va n = { s with power := p } := by
  unfold State.touchVa
  split
  · exact touch_cases _
  · exact ⟨s.power, rfl⟩

theorem writeVa_cases (va v : Nat) : ∃ p m, s.writeVa l va n v = { s with power := p, mem := m } := by
  unfold State.writeVa
  split
  · next x _ =>
    obtain ⟨p, hp⟩ := touch_cases (s := s.writeLoc x n v) x
    exact ⟨p, _, hp⟩
  · exact ⟨s.power, s.mem, rfl⟩

/-- A pop of a work queue changes memory, and counts an access; nothing else (R147). -/
theorem popQueue_cases {nb : Bool} : ∃ p m, (s.popQueue l n nb).2 = { s with power := p, mem := m } := by
  unfold State.popQueue
  split
  · exact ⟨s.power, s.mem, rfl⟩
  dsimp only
  split
  · exact ⟨s.power, s.mem, rfl⟩
  split
  · split
    · exact ⟨s.power, s.mem, rfl⟩
    · obtain ⟨p, hp⟩ := touchVa_cases (s := s) (l := l) (n := 4) _
      rw [hp]
      exact writeVa_cases (s := { s with power := p }) _ _
  split
  · exact ⟨s.power, s.mem, rfl⟩
  split
  · exact ⟨s.power, s.mem, rfl⟩
  · exact ⟨s.power, s.mem, rfl⟩

/-! ## A word that issues freezes nothing -/

theorem frozen_congr {s' : State} (h : (s'.op t o).map (·.fault.isSome) = (s.op t o).map (·.fault.isSome)) :
    s'.frozen t o = s.frozen t o := by
  have e (u : State) : u.frozen t o = ((u.op t o).map (·.fault.isSome)).getD true := by
    rw [State.frozen]
    cases u.op t o <;> rfl
  rw [e, e, h]

theorem modCell_fault {g : Cell → Cell} :
    ((s.modCell t o g).op t' o').map (·.fault.isSome) = (s.op t' o').map (·.fault.isSome) := by
  by_cases e : (t', o') = (t, o)
  · cases e
    rw [State.modCell, modOp_op_self]
    cases s.op t o with
    | none => rfl
    | some p => simp only [Option.map_some]; split <;> rfl
  · rw [State.modCell, modOp_op_other e]

theorem cellWrite_fault : ((s.cellWrite t o f d w).op t' o').map (·.fault.isSome) = (s.op t' o').map (·.fault.isSome) := by
  unfold State.cellWrite
  split
  · exact modCell_fault
  · rw [pushTok_op]

theorem cellAdvance_fault {words iv : Nat} :
    ((s.cellAdvance t o words iv).op t' o').map (·.fault.isSome) = (s.op t' o').map (·.fault.isSome) :=
  (modCell_fault (s := s.countMicro t o)).trans (by rw [countMicro_op])

theorem cellWrite_issues : (s.cellWrite t o f d w).issues = s.issues := by
  unfold State.cellWrite
  split
  · rfl
  · exact pushTok_issues

theorem cellDone_issues {iv : Nat} : (s.cellDone t o f d srcs w iv).issues = s.issues + 1 := by
  rw [State.cellDone, cellAdvance_issues, cellWrite_issues, cellPops_issues]

theorem exec_qpop_cell {s₁ : State} {nb : Bool} {n : BitVec 4} {v : Word} (hp : s.popQueue (s.lctxOf t) n.toNat nb = (.value v, s₁))
    (h : CellReads s₁ t o c f [] []) (hd : CellTakes s₁ t o f d) (hz : s₁.frozen t o = false) :
    exec (.qpop d nb n) s = .next (s₁.cellDone t o f d [] v 1) := by
  have hx : exec (.qpop d nb n) s = execQpop d nb n s := rfl
  obtain ⟨p, m, hs⟩ := popQueue_cases (s := s) (l := s.lctxOf t) (n := n.toNat) (nb := nb)
  rw [hp] at hs
  have hcur : s.cur = .cell t o := by
    have := h.runs.cur
    rwa [show s₁ = { s with power := p, mem := m } from hs] at this
  have hiss : s₁.issues = s.issues := by rw [show s₁ = { s with power := p, mem := m } from hs]
  have hdone : s₁.cellScalar t o d [] 1 (fun _ => .ok v) = s₁.cellDone t o f d [] v 1 := cellScalar_done h hd rfl
  have hfro : (s₁.cellDone t o f d [] v 1).frozen t o = false :=
    (frozen_congr (cellAdvance_fault.trans cellWrite_fault)).trans hz
  have hne : ((s₁.cellDone t o f d [] v 1).issues == s.issues) = false := by
    rw [cellDone_issues, hiss]
    exact beq_false_of_ne (Nat.succ_ne_self _)
  rw [hx, execQpop, hcur]
  dsimp only
  rw [State.cellQpop, hp]
  dsimp only
  rw [hdone, hne, hfro]
  rfl

theorem bit31_of_div {r : Nat} : (w32 r).getLsbD 31 = true ↔ r / 2 ^ 31 % 2 = 1 := by
  rw [w32, BitVec.getLsbD_ofNat, Nat.testBit_eq_decide_div_mod_eq]
  simp

/-! ## wrap.commit -/

theorem addSpan_op {x : SpanOut} : (s.addSpan x).op t' o' = s.op t' o' := rfl

theorem touchKey_cases (k : Nat) : ∃ p, s.touchKey k = { s with power := p } := by
  unfold State.touchKey
  split
  · exact touch_cases _
  · exact ⟨s.power, rfl⟩

theorem drainLine_op {x : WLine} : (s.drainLine t x).op t' o' = s.op t' o' := by
  unfold State.drainLine
  obtain ⟨p, hp⟩ := touchKey_cases (s := { s with mem := x.bytes.foldl (fun m (y : Nat × Byte) => memPut m (x.line + y.1) y.2) s.mem }) x.line
  dsimp only
  rw [hp]
  split
  · rfl
  · rfl

theorem drain_op {q : WLine → Bool} : (s.drain t q).op t' o' = s.op t' o' := by
  unfold State.drain
  split
  · rfl
  · next k _ =>
    have hfold (l : List WLine) (u : State) : (l.foldl (fun s w => s.drainLine t w) u).op t' o' = u.op t' o' := by
      induction l generalizing u with
      | nil => rfl
      | cons a l ih => exact (ih _).trans drainLine_op
    exact (hfold _ _).trans (modTask_op fun _ => rfl)

theorem exec_wrapCommit {k : Task} (h : CellRuns s t o c f) (hk : s.task t = some k) (hout : k.storesOut = false) :
    ∃ s' c', exec .wrapCommit s = .next s' ∧ s'.cell t o = some c' ∧ c'.committed = true ∧ c'.regs = c.regs := by
  have hx : exec .wrapCommit s = execWrapCommit s := rfl
  rw [hx, execWrapCommit, curFiring_eq h]
  dsimp only
  split
  case isTrue hc => exact ⟨_, _, rfl, cellAdvance_cell_self.trans (congrArg _ h.cell), hc, rfl⟩
  case isFalse =>
    rw [hk, Option.map_some, Option.getD_some, hout]
    have hd : (s.drainAll t).cell t o = some c := (cell_congr drain_op).trans h.cell
    exact ⟨_, _, rfl, cellAdvance_cell_self.trans (congrArg _ (modCell_cell_self.trans (congrArg _ hd))), rfl, rfl⟩

/-- Settles O25: the record that a pop takes is the word's result, and each other word ends once what it waits for is there. -/
theorem cellSystemWords : Obligations.CellSystemWords := by
  unfold Obligations.CellSystemWords
  refine ⟨⟨fun s s₁ t o c f d nb n v hp h hd hz => exec_qpop_cell hp h hd hz, fun s t o c f n h => ?_, fun s t o c f a x n h hh hb hlt => ?_,
    fun s t o c f k h hk hout => exec_wrapCommit h hk hout, fun s t o c f h hc => ?_⟩,
    fun s l n c nb head tail term size base hctx hbase hsize hhead htail hterm hq hrec => ⟨fun hne r hr => ?_, fun heq => ?_⟩⟩
  · have hx : exec (.spawn n) s = execSpawn n s := rfl
    rw [hx, execSpawn, curFiring_eq h]
  · have hx : exec (.tlwait a n) s = .next (s.cellTlwait t o a n.toNat) := by
      have he : exec (.tlwait a n) s = execTlwait a n s := rfl
      rw [he, execTlwait, h.runs.cur]
    rw [hx, State.cellTlwait, withOperands_free h, hh, hb]
    exact congrArg Host.Outcome.next (if_pos hlt)
  · have hx : exec .wrapCommit s = execWrapCommit s := rfl
    rw [hx, execWrapCommit, curFiring_eq h]
    dsimp only
    rw [hc, if_pos rfl]
  · unfold State.popQueue
    rw [hctx]
    dsimp only
    rw [hbase, hsize, hhead, htail, hterm]
    simp only [Option.getD_some, hq, hrec hne, hr, ne_eq, hne, not_false_eq_true, decide_true, Bool.and_false, Bool.or_false,
      Bool.false_eq_true, if_false, if_true]
    exact congrArg (·, _) (ite_congr (propext bit31_of_div) (fun _ => rfl) fun _ => rfl)
  · unfold State.popQueue
    rw [hctx]
    dsimp only
    rw [hbase, hsize, hhead, htail, hterm]
    simp only [Option.getD_some, hq, heq, ne_eq, not_true_eq_false, decide_false, Bool.false_and, Bool.or_false,
      Bool.false_eq_true, if_false]
    split
    · rfl
    · split
      · rfl
      · rfl

end Sys2Proof.Machine

namespace Sys2Proof.Machine

/-! PROOFS. Messages, validity flags and retired words on cells (R146, R167, R168, R267, R268). -/

variable {s : State} {t o t' o' k n : Nat} {c : Cell} {f : Firing} {d : Dst} {srcs : List Src} {vals : List Word} {w : Word}

/-! ## Templates -/

theorem tmpl_setTmpl_self {k : Task} {tile n : Nat} {m : Tmpl} : (k.setTmpl tile n m).tmpl tile n = m := by
  simp [Task.tmpl, Task.setTmpl]

theorem tmpl_setTmpl_other {k : Task} {tile n tile' n' : Nat} {m : Tmpl} (h : (tile', n') ≠ (tile, n)) :
    (k.setTmpl tile n m).tmpl tile' n' = k.tmpl tile' n' := by
  have hhead : (tile == tile' && n == n') = false := by
    rw [Bool.and_eq_false_iff, beq_eq_false_iff_ne, beq_eq_false_iff_ne]
    by_contra hc
    simp only [not_or, ne_eq, Decidable.not_not] at hc
    exact h (by rw [hc.1, hc.2])
  have hpred : (fun x : Nat × Nat × Tmpl => decide ((!(x.1 == tile && x.2.1 == n)) = true ∧ (x.1 == tile' && x.2.1 == n') = true)) =
      fun x => x.1 == tile' && x.2.1 == n' := by
    funext x
    rw [Bool.decide_and, Bool.decide_eq_true, Bool.decide_eq_true]
    cases hx : x.1 == tile' && x.2.1 == n' with
    | false => rw [Bool.and_false]
    | true =>
      obtain ⟨h1, h2⟩ := (Bool.and_eq_true _ _).mp hx
      have e : (x.1 == tile && x.2.1 == n) = false := by
        rw [beq_iff_eq.mp h1, beq_iff_eq.mp h2, Bool.beq_comm (a := tile'), Bool.beq_comm (a := n')]
        exact hhead
      rw [e]
      rfl
  unfold Task.tmpl Task.setTmpl
  rw [List.find?_cons_of_neg (by simp [hhead]), List.find?_filter, hpred]

theorem modTask_tmpls {g : Task → Task} (h : ∀ k, (g k).tmpls = k.tmpls) :
    ((s.modTask t g).task t').map (·.tmpls) = (s.task t').map (·.tmpls) := by
  rw [modTask_task]
  split
  case isTrue => cases s.task t' <;> simp [h]
  case isFalse => rfl

theorem modOp_tmpls {g : Op → Op} : ((s.modOp t o g).task t').map (·.tmpls) = (s.task t').map (·.tmpls) := modTask_tmpls fun _ => rfl
theorem modChan_tmpls {i : Nat} {g : Chan → Chan} : ((s.modChan t i g).task t').map (·.tmpls) = (s.task t').map (·.tmpls) :=
  modTask_tmpls fun _ => rfl
theorem balance_tmpls {i : Int} : ((s.balance t i).task t').map (·.tmpls) = (s.task t').map (·.tmpls) := modTask_tmpls fun _ => rfl

theorem popTok_tmpls {p : Nat} : ((s.popTok t o p).task t').map (·.tmpls) = (s.task t').map (·.tmpls) := by
  unfold State.popTok
  split
  · exact balance_tmpls.trans modChan_tmpls
  · rfl

theorem cellPop_tmpls {p : Nat} : ((s.cellPop t o p).task t').map (·.tmpls) = (s.task t').map (·.tmpls) := by
  unfold State.cellPop
  split
  · exact popTok_tmpls
  split
  · rfl
  dsimp only
  split
  · exact modOp_tmpls.trans (modOp_tmpls.trans popTok_tmpls)
  · exact modOp_tmpls.trans popTok_tmpls

theorem cellPops_tmpls {ps : List Nat} : ((s.cellPops t o ps).task t').map (·.tmpls) = (s.task t').map (·.tmpls) := by
  induction ps generalizing s with
  | nil => rfl
  | cons a l ih => exact ih.trans cellPop_tmpls

theorem cellAdvance_tmpls {words iv : Nat} : ((s.cellAdvance t o words iv).task t').map (·.tmpls) = (s.task t').map (·.tmpls) := by
  rw [cellAdvance_task]
  exact modOp_tmpls.trans (by rw [countMicro_task])

theorem map_tmpl {u v : State} (h : (u.task t).map (·.tmpls) = (v.task t).map (·.tmpls)) (tile n : Nat) :
    (u.task t).map (fun k => k.tmpl tile n) = (v.task t).map (fun k => k.tmpl tile n) := by
  have e (u : State) : (u.task t).map (fun k => k.tmpl tile n) = ((u.task t).map (·.tmpls)).map fun l =>
      ((l.find? fun x => x.1 == tile && x.2.1 == n).map (·.2.2)).getD { image := 0, desc := 0 } := by
    cases u.task t <;> rfl
  rw [e, e, h]

/-! ## Messages in flight -/

theorem extractLsb'_low32 (x : Dbl) : x.extractLsb' 0 32 = x.setWidth 32 := by
  apply BitVec.eq_of_toNat_eq
  rw [BitVec.extractLsb'_toNat, BitVec.toNat_setWidth, Nat.shiftRight_zero]

theorem popTok_msgs {p : Nat} : (s.popTok t o p).msgs = s.msgs := by
  unfold State.popTok
  split
  · rfl
  · rfl

theorem cellPops_msgs {ps : List Nat} : (s.cellPops t o ps).msgs = s.msgs := by
  induction ps generalizing s with
  | nil => rfl
  | cons a l ih =>
    refine ih.trans ?_
    unfold State.cellPop
    split
    · exact popTok_msgs
    split
    · rfl
    dsimp only
    split
    · exact popTok_msgs
    · exact popTok_msgs

theorem countMicro_msgs : (s.countMicro t o).msgs = s.msgs := by
  unfold State.countMicro
  split
  · split
    · split
      · rfl
      · rfl
    · rfl
  · rfl

/-- The message of an `amsg` on a cell of tile `tile` (R146). -/
def State.cellMsg (s : State) (t o tile : Nat) (k : Task) (m : Tmpl) (x y : Word) : Msg :=
  { from_ := tile, entry := k.entryAt tile, x := m.x, y := m.y, packet := m.message x y,
    target := s.targetOf (some t) k.lctx m.x m.y (Packet.engine m.image), due := s.after t o 1, seqSender := false }

/-- The state after an `amsg` on a cell: the message is on its way, and the template and the message port have gone on. -/
def State.cellSaid (s : State) (t o tile : Nat) (k : Task) (a d : Src) (n : Nat) (x y : Word) : State :=
  (((({ s.cellPops t o (popsOf [a, d]) with
        msgs := (s.cellPops t o (popsOf [a, d])).msgs ++ [s.cellMsg t o tile k (k.tmpl tile n) x y] } : State).modTask t fun k' =>
      k'.setTmpl tile n (k.tmpl tile n).sent).modTile tile fun z =>
        { z with msgRr := k.entryAt tile, lastIssue := aset msgPort (s.cellPops t o (popsOf [a, d])).fc z.lastIssue }).cellAdvance t o
    (srcWords [a, d]) 1)

theorem exec_amsg_cell {a d : Src} {x y : Word} {n : BitVec 4} {k : Task} {p : Op} (h : CellReads s t o c f [a, d] [x, y])
    (hk : s.task t = some k) (hp : s.op t o = some p)
    (hctx : Packet.ctx (k.tmpl (tileKey p.place.x p.place.y) n.toNat).image = k.lctx)
    (hinv : (k.tmpl (tileKey p.place.x p.place.y) n.toNat).invalid = false)
    (hturn : (s.amsgTurn (tileKey p.place.x p.place.y)).map (fun z => (z.1, z.2.1)) = some (t, o)) :
    exec (.amsg a d n) s = .next (s.cellSaid t o (tileKey p.place.x p.place.y) k a d n.toNat x y) := by
  have hx : exec (.amsg a d n) s = execAmsg a d n s := rfl
  rw [hx, execAmsg, h.runs.cur]
  dsimp only
  rw [State.cellAmsg, withOperands_free h, hk, hp]
  dsimp only
  rw [if_neg (by simp [hctx, hinv]), if_neg (by simp [hturn])]
  rfl

/-- Settles O26: the message that an `amsg` sends, and the template that it leaves. -/
theorem messages : Obligations.Messages := by
  unfold Obligations.Messages
  refine ⟨fun s t o c f a d x y n k p h hk hp hctx hinv hturn => ?_, fun s k a d n m h hm hctx hinv hlane => ?_⟩
  · refine ⟨_, s.cellMsg t o _ k _ x y, exec_amsg_cell h hk hp hctx hinv hturn, ?_, rfl, rfl, rfl, rfl, ?_, fun tile' n' hne => ?_⟩
    · exact countMicro_msgs.trans (congrArg (· ++ _) cellPops_msgs)
    all_goals
      have htask : ((s.cellPops t o (popsOf [a, d])).task t).map (·.tmpls) = some k.tmpls := by rw [cellPops_tmpls, hk]; rfl
      obtain ⟨k', hk', htm⟩ := Option.map_eq_some_iff.mp htask
      refine (map_tmpl cellAdvance_tmpls _ _).trans ?_
      refine (congrArg (Option.map _) modTask_task_self).trans ?_
      change ((((s.cellPops t o (popsOf [a, d])).task t).map _).map _) = _
      rw [hk', Option.map_some, Option.map_some]
    · exact congrArg some tmpl_setTmpl_self
    · exact congrArg some ((tmpl_setTmpl_other hne).trans (by rw [Task.tmpl, Task.tmpl, htm]))
  · have hx : exec (.amsg a d n) s = .next (s.coreAmsg k a d n.toNat) := by
      have he : exec (.amsg a d n) s = execAmsg a d n s := rfl
      rw [he, execAmsg, h.cur]
    have hget : (s.core k).tmpls.getD n.toNat { image := 0, desc := 0 } = m := by
      rw [List.getD_eq_getElem?_getD, hm, Option.getD_some]
    have hgo : ((s.core k).halted || (s.core k).waits [a, d] none) = false := by rw [h.going, h.still]; rfl
    rw [hx, State.coreAmsg, hget, hgo]
    dsimp only
    rw [if_neg Bool.false_ne_true, if_neg (by simp [hctx, hinv]), hlane, if_neg Bool.false_ne_true]
    have hcore (g : Core → Core) (ms : List Msg) :
        (((({ s with msgs := ms } : State).modCore k g).coreNext k (srcWords [a, d])).core k) =
          { g (s.core k) with pc := (g (s.core k)).after (srcWords [a, d]) } := by
      have hlen : k < (({ s with msgs := ms } : State).modCore k g).cores.length := by
        change k < (lmod k g s.cores).length
        rw [length_lmod]
        exact h.there
      have hself : (({ s with msgs := ms } : State).modCore k g).core k = g (s.core k) := modCore_core_self (s := { s with msgs := ms }) h.there
      rw [coreNext_core hlen, hself]
    refine ⟨_, _, rfl, rfl, ?_, ?_, ?_⟩
    · rw [extractLsb'_low32, extractLsb'_low32]
    · rw [hcore]
      exact getElem?_lmod_self.trans (by rw [hm]; rfl)
    · rw [hcore]
      rfl

/-! ## vf.set -/

/-- The spline unit of an operator. -/
def Op.spline? (p : Op) : Option Spline :=
  match p.kind with
  | .spline c => some c
  | _ => none

theorem spline_eq_op : s.spline t o = (s.op t o).bind Op.spline? := by
  rw [State.spline]
  rcases s.op t o with _ | ⟨pl, fa, ff, re, po, hd, fi, k⟩
  · rfl
  · cases k <;> rfl

theorem spline_congr {s' : State} (h : s'.op t o = s.op t o) : s'.spline t o = s.spline t o := by rw [spline_eq_op, spline_eq_op, h]

theorem spline_of_op {p : Op} {z : Spline} (h : s.op t o = some p) (hk : p.kind = .spline z) : s.spline t o = some z := by
  rw [spline_eq_op, h, Option.bind_some, Op.spline?, hk]

@[simp] theorem modSpline_spline_self {g : Spline → Spline} : (s.modSpline t o g).spline t o = (s.spline t o).map g := by
  rw [spline_eq_op, spline_eq_op, State.modSpline, modOp_op_self]
  rcases s.op t o with _ | ⟨pl, fa, ff, re, po, hd, fi, k⟩
  · rfl
  · cases k <;> rfl

/-- Bytes that leave for another device change the list of those on their way alone (R405). -/
theorem unitSpan_cases (k : Nat) (write : Bool) (ks : List Nat) :
    ∃ n l, s.unitSpan t o k write ks = { s with nextId := n, spans := l } := by
  unfold State.unitSpan
  generalize runsOf (ks.filter isRemote) = rs
  induction rs generalizing s with
  | nil => exact ⟨s.nextId, s.spans, rfl⟩
  | cons r rs ih =>
    obtain ⟨n, l, h⟩ := ih (s := s.addSpan (s.spanNew t o k write r.1 r.2))
    exact ⟨n, l, h⟩

theorem exec_vfSet {a d : Src} {x y : Word} {k : Task} {q : Nat} {z : Spline} {s' : State}
    (h : CellReads s t o c f [a, d] [x, y]) (hk : s.task t = some k) (hq : k.splineAt (x.extractLsb' 24 8).toNat = some q)
    (hz : s.spline t q = some z) (hm : z.mapStored = true) (hy : y.toNat < 4) (hn : (x.extractLsb' 0 24).toNat < z.count)
    (hread : ∃ l' tail', s.unitAt t q (z.mapVa + 8 * ((x.extractLsb' 0 24).toNat / 32)) 8 0 = .at_ l' tail')
    (hwrite : s.splineStore t q flagK (z.mapVa + 8 * ((x.extractLsb' 0 24).toNat / 32)) 8
      (4 * ((x.extractLsb' 0 24).toNat % 32) + y.toNat) = .ok s') :
    exec (.vfSet a d) s = .next ((s'.cellPops t o (popsOf [a, d])).cellAdvance t o (srcWords [a, d]) 1) := by
  have hx : exec (.vfSet a d) s = execVfSet a d s := rfl
  obtain ⟨l', tail', hr⟩ := hread
  have hbits : y.extractLsb' 2 30 = 0 := by
    apply BitVec.eq_of_toNat_eq
    rw [BitVec.extractLsb'_toNat, Nat.shiftRight_eq_div_pow, Nat.div_eq_of_lt hy]
    rfl
  rw [hx, execVfSet, h.runs.cur]
  dsimp only
  rw [withOperands_free h]
  rw [show [x, y].getD 0 0 = x from rfl, show [x, y].getD 1 0 = y from rfl, hk, Option.bind_some, hq, Option.bind_some, hz,
    Option.map_some]
  dsimp only
  rw [hm, if_neg (by decide), if_neg (not_or.mpr ⟨Nat.not_le.mpr hn, not_not.mpr hbits⟩), hr, hwrite]

theorem flag_parts {n v : Nat} (hv : v < 4) : (4 * n + v) / 4 = n ∧ (4 * n + v) % 4 = v := by omega

/-- Settles O27: the store that `vf.set` issues, and the double that the completed store leaves. -/
theorem validityFlags : Obligations.ValidityFlags := by
  unfold Obligations.ValidityFlags
  refine ⟨fun s t o q c f a d x y k z l tail h hk hq hz hm hy hn hread hwrite => ?_,
    fun s t q p z acc rest n v hp hkind hhalt haccs hk hdue hval hv hbank => ?_⟩
  · refine ⟨{ k := flagK, loc := l, tail := tail, bytes := 8, write := true,
              val := BitVec.ofNat 1024 (4 * ((x.extractLsb' 0 24).toNat % 32) + y.toNat), at_ := s.fc, done := false,
              poison := none, due := s.after t q 1, hdr := 0 }, rfl, rfl, rfl, rfl, rfl, ?_, rfl, ?_⟩
    · rw [BitVec.toNat_ofNat]
      refine Nat.mod_eq_of_lt (lt_of_lt_of_le (b := 2 ^ 8) ?_ (Nat.pow_le_pow_right (by decide) (by decide)))
      have := Nat.mod_lt (x.extractLsb' 0 24).toNat (show 32 > 0 by decide)
      omega
    · refine exec_vfSet h hk hq hz hm hy hn hread ?_
      rw [State.splineStore, hwrite]
  · have hx : exec (.storeAck t q) s = .next (s.splineAck t q z) := by
      have he : exec (.storeAck t q) s = execStoreAck t q s := rfl
      rw [he, execStoreAck, hp]
      dsimp only
      rw [hhalt, if_neg Bool.false_ne_true, hkind]
    have hfree : (decide (acc.due > s.fc) || s.bankHolds acc.keys) = false := by
      rw [hbank, decide_eq_false (Nat.not_lt.mpr hdue)]
      rfl
    have hwritten : s.splineValue acc = flagSet (s.readKeys acc.keys) (2 * n) v := by
      rw [State.splineValue, if_pos hk, hval, (flag_parts hv).1, (flag_parts hv).2]
    obtain ⟨i, sp, hspan⟩ := unitSpan_cases (s := { s with mem := writeKeys s.mem acc.keys (flagSet (s.readKeys acc.keys) (2 * n) v) })
      (t := t) (o := q) acc.k true acc.keys
    refine ⟨_, hx, ?_, ?_⟩
    · rw [State.splineAck, haccs]
      dsimp only
      rw [hfree, if_neg Bool.false_ne_true, hwritten, hspan]
      rfl
    · rw [State.splineAck, haccs]
      dsimp only
      rw [hfree, if_neg Bool.false_ne_true, hwritten, hspan]
      exact ⟨_, (modSpline_spline_self).trans (congrArg _ (spline_of_op hp hkind)), rfl⟩

/-! ## Retired words -/

theorem microWord_done {a : Src} {g : Nat → Except (BitVec 7) Nat} {x v : Word} (h : CellReads s t o c f [a] [x]) (hd : CellTakes s t o f d)
    (hg : g x.toNat = .ok v.toNat) : State.microWord d a g s =
      (s.cellDone t o f d [a] v 1).modCtx (s.lctxOf t) fun z => { z with legacyMicro := satInc z.legacyMicro } := by
  have hs : State.scalar d [a] (.w false) 1 (una fun _ a => g a) s = s.cellDone t o f d [a] v 1 := scalar_cell_done h hd hg
  unfold State.microWord
  rw [hs, h.runs.cur]
  dsimp only
  rw [if_neg (by rw [cellDone_issues]; exact Nat.succ_ne_self _)]

theorem trappedWord_cell {g : List Nat → Nat} (h : CellReads s t o c f srcs vals) (hc : c.trapped = none) :
    ∃ c', (State.trappedWord d srcs g s).cell t o = some c' ∧
      c'.trapped = some (BitVec.ofNat 32 (g (vals.map (·.toNat))), d) := by
  obtain ⟨⟨hcur, hcell, hf⟩, l, hl, rfl, hz, hp⟩ := h
  obtain ⟨c', hc', -⟩ := cellPops_popped (l := popsOf srcs) hcell
  unfold State.trappedWord
  rw [hcur]
  dsimp only
  rw [hcell]
  dsimp only
  rw [hf, hc]
  dsimp only
  rw [hl]
  dsimp only
  rw [hz]
  dsimp only
  rw [hp]
  refine ⟨_, (modCell_cell_self).trans (congrArg _ hc'), ?_⟩
  rw [List.map_map]
  rfl

theorem cellWrite_cell (h : s.cell t o = some c) : ∃ c', (s.cellWrite t o f d w).cell t o = some c' ∧ c'.firing = c.firing ∧
    ∀ n, d = .s n → c' = c.setReg n w := by
  unfold State.cellWrite
  split
  · next n => exact ⟨_, modCell_cell_self.trans (congrArg _ h), setReg_firing, fun m hm => by cases hm; rfl⟩
  · next p => exact ⟨c, pushTok_cell.trans h, rfl, fun m hm => by cases hm⟩

theorem wrapI_neg (x : Word) : wrapI 32 (-(sgn 32 x.toNat)) = (-x).toNat := by
  rw [sgn_toNat, wrapI_eq, BitVec.ofInt_neg, BitVec.ofInt_toInt]

theorem swapped_bytes (x : Word) :
    BitVec.ofNat 32 (x.toNat % 256 * 2 ^ 24 + x.toNat / 2 ^ 8 % 256 * 2 ^ 16 + x.toNat / 2 ^ 16 % 256 * 2 ^ 8 + x.toNat / 2 ^ 24 % 256) =
      x.extractLsb' 0 8 ++ (x.extractLsb' 8 8 ++ (x.extractLsb' 16 8 ++ x.extractLsb' 24 8)) := by
  apply BitVec.eq_of_toNat_eq
  have h1 : (x.extractLsb' 24 8).toNat < 2 ^ 8 := (x.extractLsb' 24 8).isLt
  have h2 : (x.extractLsb' 16 8 ++ x.extractLsb' 24 8).toNat < 2 ^ 16 := (x.extractLsb' 16 8 ++ x.extractLsb' 24 8).isLt
  have h3 : (x.extractLsb' 8 8 ++ (x.extractLsb' 16 8 ++ x.extractLsb' 24 8)).toNat < 2 ^ 24 :=
    (x.extractLsb' 8 8 ++ (x.extractLsb' 16 8 ++ x.extractLsb' 24 8)).isLt
  rw [BitVec.toNat_append, ← Nat.shiftLeft_add_eq_or_of_lt h3, BitVec.toNat_append, ← Nat.shiftLeft_add_eq_or_of_lt h2,
    BitVec.toNat_append, ← Nat.shiftLeft_add_eq_or_of_lt h1]
  simp only [BitVec.extractLsb'_toNat, BitVec.toNat_ofNat, Nat.shiftRight_eq_div_pow, Nat.shiftLeft_eq]
  omega

/-- Settles O28: the substitutes of the retired words, and the result that comes back to a word that traps. -/
theorem retiredWords : Obligations.RetiredWords := by
  unfold Obligations.RetiredWords
  refine ⟨fun s t o c f d a x h hd => ⟨?_, ⟨_, rfl, ?_⟩, fun n hn => ⟨_, rfl, ?_⟩⟩, fun s t o c f d a b rm x y h hc => ?_,
    fun s t o c f d a x h hc => ?_, fun s t o c f d v hc hf ht hg hs hz hd => ?_⟩
  · have hx : exec (.mov d a) s = .next (State.scalar d [a] (.w false) 1 (una fun _ a => .ok a) s) := rfl
    rw [hx, scalar_cell_done h hd rfl]
  · exact microWord_done h hd (congrArg _ (wrapI_neg x))
  · subst hn
    refine microWord_done h hd (congrArg Except.ok ?_)
    rw [sgn_toNat, wrapI_eq]
  · have hx : exec (.fdiv d a b rm) s = execFdiv d a b rm s := rfl
    have hftz : s.ftzNow = s.ftz (s.lctxOf t) := by rw [State.ftzNow, h.runs.cur]
    obtain ⟨c', hc', htr⟩ := trappedWord_cell (d := d) (g := fun l => match l with
      | [x, y] => fp32.result s.ftzNow (rmC rm) (fpDiv (fp32.operand s.ftzNow x) (fp32.operand s.ftzNow y))
      | _ => 0) h hc
    refine ⟨_, c', hx, hc', htr.trans ?_⟩
    rw [hftz]
    rfl
  · have hx : exec (.bswap d a) s = execBswap d a s := rfl
    obtain ⟨c', hc', htr⟩ := trappedWord_cell (d := d) (g := fun l => match l with
      | [x] => x % 256 * 2 ^ 24 + x / 2 ^ 8 % 256 * 2 ^ 16 + x / 2 ^ 16 % 256 * 2 ^ 8 + x / 2 ^ 24 % 256
      | _ => 0) h hc
    exact ⟨_, c', hx, hc', htr.trans (congrArg (fun w => some (w, d)) (swapped_bytes x))⟩
  · have hx : exec (.trappedResultArrive t o) s = execTrappedResultArrive t o s := rfl
    obtain ⟨c', hc', hfir, hreg⟩ := cellWrite_cell (f := f) (d := d) (w := v) hc
    rw [hx, execTrappedResultArrive, hc]
    dsimp only
    rw [hf, ht]
    dsimp only
    rw [hg, hs, hz, hd.ready, hd.rate]
    refine ⟨_, _, rfl, (modFiring_cell_self).trans (congrArg _ (modCell_cell_self.trans (congrArg _ hc'))), rfl, fun n hn => ?_⟩
    rw [← hreg n hn]

end Sys2Proof.Machine

namespace Sys2Proof.Machine

/-! PROOFS. Traps, returns, privilege and control registers of cores (R151 to R153). -/

variable {s : State} {k : Nat} {a b : Src} {srcs : List Src} {d : Option SReg}

/-! ## A core that runs -/

theorem onCore_eq {g : Nat → State} (h : s.cur = .core k) : s.onCore g = g k := by rw [State.onCore, h]

/-- A core that runs waits for nothing. -/
theorem CoreRuns.goes (h : CoreRuns s k srcs d) : ((s.core k).halted || (s.core k).waits srcs d) = false := by
  rw [h.going, h.still]
  rfl

theorem waits_mono {c : Core} {srcs srcs' : List Src} (hsub : ∀ x ∈ srcs', x ∈ srcs) (h : c.waits srcs none = false) :
    c.waits srcs' none = false := by
  unfold Core.waits at h ⊢
  rw [List.any_eq_false] at h ⊢
  intro n hn
  rw [Option.toList_none, List.append_nil] at h hn
  obtain ⟨x, hx, hxn⟩ := List.mem_filterMap.mp hn
  exact h n (List.mem_filterMap.mpr ⟨x, hsub x hx, hxn⟩)

/-- A core whose word names more registers runs a word that names fewer. -/
theorem CoreRuns.fewer {srcs' : List Src} (h : CoreRuns s k srcs none) (hsub : ∀ x ∈ srcs', x ∈ srcs) : CoreRuns s k srcs' none :=
  ⟨h.cur, h.there, h.going, waits_mono hsub h.still⟩

theorem issued_core : s.issued.core k = s.core k := rfl

theorem after_one (c : Core) : c.after 1 = c.pc + 4 := rfl

/-! ## trap, eret, halt -/

theorem exec_trap {n : BitVec 12} (h : CoreRuns s k [] none) :
    exec (.trap n) s = .next (s.coreTrapAt k ((s.core k).after 1) (softCause n) 0).issued := by
  have hx : exec (.trap n) s = execTrap n s := rfl
  rw [hx, execTrap, onCore_eq h.cur, h.going, if_neg Bool.false_ne_true]

/-- Settles O29: the trap of a core, with the address of the next word and ARG. -/
theorem softwareTrap : Obligations.SoftwareTrap := by
  unfold Obligations.SoftwareTrap
  intro s k n h
  refine ⟨_, exec_trap h, rfl, ?_⟩
  have hc := coreTrapAt_core (s := s) (epc := (s.core k).after 1) (cause := softCause n) (eval := 0) h.there
  rw [issued_core, hc]
  obtain ⟨h0, h1, h2⟩ := trapStatus_bits (s.core k).status
  exact ⟨after_one _, rfl, rfl, h0, h1, h2, rfl, rfl, rfl, rfl, rfl⟩

/-- STATUS after a return: MODE takes PMODE, and the other bits stay. -/
theorem eretStatus_bits (st : Dbl) : (eretStatus st).getLsbD 0 = st.getLsbD 1 ∧ ∀ i, 1 ≤ i → (eretStatus st).getLsbD i = st.getLsbD i := by
  unfold eretStatus
  refine ⟨?_, fun i hi => ?_⟩
  · cases h : st.getLsbD 1 <;> simp
  · by_cases hlt : i < 64
    · have hbits : ∀ j : Fin 64, 1 ≤ j.val → (~~~(1 : Dbl)).getLsbD j = true ∧ (1 : Dbl).getLsbD j = false := by decide
      obtain ⟨h1, h2⟩ := hbits ⟨i, hlt⟩ hi
      simp only at h1 h2
      rw [BitVec.getLsbD_or, BitVec.getLsbD_and, h1, Bool.and_true]
      split
      · rw [h2, Bool.or_false]
      · rw [show (0 : Dbl).getLsbD i = false from BitVec.getLsbD_zero, Bool.or_false]
    · rw [BitVec.getLsbD_of_ge _ _ (by omega), BitVec.getLsbD_of_ge _ _ (by omega)]

theorem exec_eret (h : CoreRuns s k [] none) :
    exec .eret s = .next (if (s.core k).super then (s.modCore k Core.eret).issued else s.privTrap k) := by
  have hx : exec .eret s = execEret s := rfl
  rw [hx, execEret, onCore_eq h.cur, h.going, if_neg Bool.false_ne_true]
  cases (s.core k).super <;> rfl

theorem exec_halt (h : CoreRuns s k [] none) : exec .halt s = .next (if (s.core k).super then
    (s.coreNext k 1).modCore k fun c => { c with halted := true } else s.privTrap k) := by
  have hx : exec .halt s = execHalt s := rfl
  rw [hx, execHalt, onCore_eq h.cur, h.going, if_neg Bool.false_ne_true]
  cases (s.core k).super <;> rfl

theorem exec_cfgw {x : Src} (h : CoreRuns s k [a, x] none) : exec (.cfgw a x) s = .next (if (s.core k).super then
    if mgmtWritable ((s.core k).src a).toNat then
      (s.mgmtWrite ((s.core k).src a).toNat ((s.core k).src x)).coreNext k (srcWords [a, x])
    else s.accessTrap k Code.range ((s.core k).src a)
    else s.privTrap k) := by
  have hx : exec (.cfgw a x) s = execCfgw a x s := rfl
  rw [hx, execCfgw, onCore_eq h.cur]
  dsimp only
  rw [h.goes, if_neg Bool.false_ne_true]
  cases (s.core k).super <;> rfl

theorem exec_csrw {r : BitVec 12} (h : CoreRuns s k [a] none) : exec (.csrw a r) s = .next (
    if !(s.core k).super && r != 0x006 then s.privTrap k
    else (s.modCore k fun x => x.setCsr r ((s.core k).src a)).coreNext k (srcWords [a])) := by
  have hx : exec (.csrw a r) s = execCsrw a r s := rfl
  rw [hx, execCsrw, onCore_eq h.cur]
  dsimp only
  rw [h.goes, if_neg Bool.false_ne_true]

/-- The packet that a `dispatch` reads at a local address. -/
def State.localPacket (s : State) (k : Nat) (e : Dbl) : Packet := BitVec.ofNat 512 (s.readLoc (.core k (e.extractLsb' 0 18).toNat) 64)

theorem exec_dispatch (h : CoreRuns s k [a] none) (hform : ((s.core k).src a).extractLsb' 62 2 = 2)
    (hrest : ((s.core k).src a).extractLsb' 18 44 = 0) (halign : ((s.core k).src a).toNat % 64 = 0) :
    exec (.dispatch a) s = .next (
      if !(s.core k).super && decide (((s.localPacket k ((s.core k).src a)).byte 2).toNat ≠ (s.core k).lctx) then s.privTrap k
      else if s.intake.any fun x => x.1 == k then s
      else ({ s with intake := s.intake ++ [(k, ((s.ctx (s.core k).lctx).map Ctx.aqi).getD 0, s.localPacket k ((s.core k).src a))] } :
        State).coreNext k (srcWords [a])) := by
  have hx : exec (.dispatch a) s = execDispatch a s := rfl
  rw [hx, execDispatch, onCore_eq h.cur]
  dsimp only
  rw [h.goes, if_neg Bool.false_ne_true, hform, hrest, halign, if_neg (by decide), if_neg (by decide)]
  rfl

/-- A word that user mode may not run raises PRIV. -/
theorem privTrap_core (h : k < s.cores.length) : ((s.privTrap k).core k).epc = (s.core k).pc ∧ ((s.privTrap k).core k).cause = 0x45 ∧
    ((s.privTrap k).core k).super = true ∧ ((s.privTrap k).core k).regs = (s.core k).regs := by
  rw [State.privTrap, issued_core, coreTrap_core h]
  exact ⟨rfl, rfl, (trapStatus_bits _).1, rfl⟩

theorem wakeAddress {k : Nat} (h : k < 16) : mgmtWritable (0x900000 + 0x1000 * k + 0x488) = true ∧
    (0x900000 + 0x1000 * k + 0x488 - 0x900000) / 0x1000 = k ∧ (0x900000 + 0x1000 * k + 0x488) % 0x1000 = 0x488 := by
  refine ⟨?_, by omega, by omega⟩
  unfold mgmtWritable
  rw [decide_eq_true (show 0x900000 ≤ 0x900000 + 0x1000 * k + 0x488 by omega),
    decide_eq_true (show 0x900000 + 0x1000 * k + 0x488 < 0x910000 by omega),
    decide_eq_true (show (0x900000 + 0x1000 * k + 0x488) % 8 = 0 by omega),
    decide_eq_true (show (0x900000 + 0x1000 * k + 0x488) % 0x1000 = 0x488 by omega), Bool.or_true]
  rfl

/-- Settles O30: what supervisor mode runs, and the trap of the same words in user mode. -/
theorem returnHaltAndPrivilege : Obligations.ReturnHaltAndPrivilege := by
  unfold Obligations.ReturnHaltAndPrivilege
  refine ⟨⟨fun s k h => ?_, fun s k h => ?_, fun s k v h16 hk hv => ?_⟩, fun s k a b r h hu => ?_⟩
  · refine ⟨(s.modCore k Core.eret).issued, by rw [exec_eret h.runs, h.super]; rfl, rfl, ?_⟩
    obtain ⟨h0, h1⟩ := eretStatus_bits (s.core k).status
    have hc : (s.modCore k Core.eret).issued.core k = (s.core k).eret := modCore_core_self h.runs.there
    rw [hc]
    exact ⟨rfl, h0, h1, rfl⟩
  · refine ⟨(s.coreNext k 1).modCore k fun c => { c with halted := true }, by rw [exec_halt h.runs, h.super]; rfl, ?_⟩
    have hlen : k < (s.coreNext k 1).cores.length := by
      change k < (lmod k _ s.cores).length
      rw [length_lmod]
      exact h.runs.there
    rw [modCore_core_self hlen, coreNext_core h.runs.there]
    rfl
  · have hx : exec (.coreWake k v) s = execCoreWake k v s := rfl
    refine ⟨s.wakeCore k, ?_, ?_⟩
    · obtain ⟨hw, hdiv, hmod⟩ := wakeAddress h16
      rw [hx, execCoreWake, if_pos h16, State.mgmtWrite, hw, hdiv, hmod]
      simp [hv]
    · exact modCore_core_self hk
  · have priv (i : Instr) (hi : exec i s = .next (s.privTrap k)) : ∃ s', exec i s = .next s' ∧ (s'.core k).epc = (s.core k).pc ∧
        (s'.core k).cause = 0x45 ∧ (s'.core k).super = true ∧ (s'.core k).regs = (s.core k).regs := ⟨_, hi, privTrap_core h.there⟩
    have hnone : CoreRuns s k [] none := h.fewer (by simp)
    have hone : CoreRuns s k [a] none := h.fewer (by simp)
    refine ⟨priv _ ?_, priv _ ?_, priv _ ?_, fun hr => priv _ ?_, fun hform hrest halign hctx => priv _ ?_⟩
    · rw [exec_cfgw h, hu]
      rfl
    · rw [exec_eret hnone, hu]
      rfl
    · rw [exec_halt hnone, hu]
      rfl
    · rw [exec_csrw hone, hu, if_pos (by simpa using hr)]
    · rw [exec_dispatch hone hform hrest halign, hu, if_pos]
      exact decide_eq_true hctx

/-! ## csrr and csrw -/

/-- A write of one control register leaves the others (R152). -/
theorem setCsr_keeps {c : Core} {r : BitVec 12} {v : Dbl} : (r.toNat ≠ 0 → (c.setCsr r v).status = c.status) ∧
    (r.toNat ≠ 1 → (c.setCsr r v).epc = c.epc) ∧ (r.toNat ≠ 4 → (c.setCsr r v).tvec = c.tvec) ∧
    (r.toNat ≠ 5 → (c.setCsr r v).ctxk = c.ctxk) ∧ (r.toNat ≠ 6 → (c.setCsr r v).scratch = c.scratch) ∧
    (c.setCsr r v).cause = c.cause ∧ (c.setCsr r v).eval = c.eval ∧ (c.setCsr r v).cycle = c.cycle ∧
    (c.setCsr r v).regs = c.regs := by
  unfold Core.setCsr
  split <;> simp_all

theorem csrw_core {r : BitVec 12} {v : Dbl} {words : Nat} (h : k < s.cores.length) :
    ((s.modCore k fun x => x.setCsr r v).coreNext k words).core k =
      { (s.core k).setCsr r v with pc := ((s.core k).setCsr r v).after words } := by
  have hlen : k < (s.modCore k fun x => x.setCsr r v).cores.length := by
    change k < (lmod k _ s.cores).length
    rw [length_lmod]
    exact h
  rw [coreNext_core hlen, modCore_core_self h]

/-- Settles O31: the value of a register, and the one register that a write changes. -/
theorem controlRegisters : Obligations.ControlRegisters := by
  unfold Obligations.ControlRegisters
  refine ⟨fun s k d r h => ?_, fun s k a r h hp => ?_⟩
  · have hx : exec (.csrr d r) s = execCsrr d r s := rfl
    rw [hx, execCsrr, onCore_eq h.cur]
    dsimp only
    rw [h.goes, if_neg Bool.false_ne_true]
  · have hgo : (!(s.core k).super && r != 0x006) = false := by
      rcases hp with hp | hp
      · rw [hp]; rfl
      · rw [hp]; simp
    refine ⟨(s.modCore k fun x => x.setCsr r ((s.core k).src a)).coreNext k (srcWords [a]), ?_, rfl, ?_⟩
    · rw [exec_csrw h, hgo, if_neg Bool.false_ne_true]
    obtain ⟨hst, hepc, htv, hck, hsc, hca, hev, hcy, hregs⟩ := setCsr_keeps (c := s.core k) (r := r) (v := (s.core k).src a)
    have hcore := csrw_core (r := r) (v := (s.core k).src a) (words := srcWords [a]) h.there
    have hne {q : BitVec 12} {n : Nat} (hq : q ≠ r) (hn : q.toNat = n) : r.toNat ≠ n := fun e =>
      hq (BitVec.eq_of_toNat_eq (hn.trans e.symm))
    refine ⟨fun hr => ?_, fun hr => ?_, fun hr => ?_, fun hr => ?_, fun hr => ?_, fun q hq => ?_, ?_⟩
    · subst hr; rw [State.csr, hcore]; rfl
    · subst hr; rw [State.csr, hcore]; rfl
    · subst hr; rw [State.csr, hcore]; rfl
    · subst hr; rw [State.csr, hcore]; rfl
    · subst hr; rw [State.csr, hcore]; rfl
    · unfold State.csr
      rw [hcore]
      split
      case h_1 hn => exact hst (hne hq hn)
      case h_2 hn => exact hepc (hne hq hn)
      case h_3 hn => exact hca
      case h_4 hn => exact hev
      case h_5 hn => exact htv (hne hq hn)
      case h_6 hn => exact hck (hne hq hn)
      case h_7 hn => exact hsc (hne hq hn)
      case h_8 hn => exact hcy
      case h_9 hn => rfl
      case h_10 => rfl
    · rw [hcore]
      exact hregs

end Sys2Proof.Machine

namespace Sys2Proof.Machine

/-! PROOFS. Loads, stores, atomics and services of cores (R147, R149, R154 to R158). -/

variable {s : State} {k : Nat} {a b : Src} {d : SReg} {off : Half} {l : Loc} {srcs : List Src}

/-! ## Effective addresses -/

theorem extract_eq_iff {e : Dbl} {i n v : Nat} : e.extractLsb' i n = BitVec.ofNat n v ↔ e.toNat / 2 ^ i % 2 ^ n = v % 2 ^ n := by
  rw [← BitVec.toNat_inj, BitVec.extractLsb'_toNat, BitVec.toNat_ofNat, Nat.shiftRight_eq_div_pow]

theorem extract_eq_zero_iff {e : Dbl} {i n : Nat} : e.extractLsb' i n = 0 ↔ e.toNat / 2 ^ i % 2 ^ n = 0 :=
  extract_eq_iff.trans (by rw [Nat.zero_mod])

theorem localOffset (e : Dbl) : (e.extractLsb' 0 18).toNat = e.toNat % 2 ^ 18 := by
  rw [BitVec.extractLsb'_toNat, Nat.shiftRight_zero]

theorem mgmtOffset (e : Dbl) : (e.extractLsb' 0 32).toNat = e.toNat % 2 ^ 32 := by
  rw [BitVec.extractLsb'_toNat, Nat.shiftRight_zero]

/-- An address of the virtual space has neither special form (R154). -/
theorem form_of_bit63 {e : Dbl} (h : e.extractLsb' 63 1 = 0) : e.extractLsb' 62 2 ≠ 2 ∧ e.extractLsb' 62 2 ≠ 3 := by
  have h63 := extract_eq_zero_iff.mp h
  refine ⟨fun h2 => ?_, fun h3 => ?_⟩
  · have := extract_eq_iff.mp (show e.extractLsb' 62 2 = BitVec.ofNat 2 2 from h2)
    omega
  · have := extract_eq_iff.mp (show e.extractLsb' 62 2 = BitVec.ofNat 2 3 from h3)
    omega

theorem top_of_middle {e : Dbl} (h : e.extractLsb' 57 6 ≠ 0) : e.extractLsb' 57 7 ≠ 0 := by
  intro h7
  refine h (extract_eq_zero_iff.mpr ?_)
  have := extract_eq_zero_iff.mp h7
  omega

theorem bit63_of_top {e : Dbl} (h : e.extractLsb' 57 7 = 0) : e.extractLsb' 63 1 = 0 := by
  refine extract_eq_zero_iff.mpr ?_
  have := extract_eq_zero_iff.mp h
  omega

theorem coreAt_local {e : Dbl} {n kind : Nat} (h : e.extractLsb' 62 2 = 2) : s.coreAt k e n kind =
    if e.extractLsb' 18 44 ≠ 0 then .trap Code.xlate else if e.toNat % n ≠ 0 then .trap Code.range else .loc (e.toNat % 2 ^ 18) := by
  unfold State.coreAt
  dsimp only
  rw [h, if_pos (by decide), localOffset]

theorem coreAt_mgmt {e : Dbl} {n kind : Nat} (h : e.extractLsb' 62 2 = 3) : s.coreAt k e n kind =
    if e.extractLsb' 32 30 ≠ 0 then .trap Code.xlate else if (s.core k).super = false then .trap Code.priv
    else if n ≠ 8 ∨ e.toNat % 8 ≠ 0 then .trap Code.range else .mgmt (e.toNat % 2 ^ 32) := by
  unfold State.coreAt
  dsimp only
  rw [h, if_neg (by decide), if_pos (by decide), mgmtOffset]
  simp only [Bool.not_eq_true']

theorem coreAt_virtual {e : Dbl} {n kind : Nat} (h : e.extractLsb' 63 1 = 0) (hbad : e.extractLsb' 57 7 ≠ 0) :
    s.coreAt k e n kind = .trap Code.xlate := by
  obtain ⟨h2, h3⟩ := form_of_bit63 h
  unfold State.coreAt
  dsimp only
  rw [if_neg (by simpa using h2), if_neg (by simpa using h3), if_pos hbad]

theorem coreAt_unaligned {e : Dbl} {n kind : Nat} (h : e.extractLsb' 57 7 = 0) (hbad : e.toNat % n ≠ 0) :
    s.coreAt k e n kind = .trap Code.range := by
  obtain ⟨h2, h3⟩ := form_of_bit63 (bit63_of_top h)
  unfold State.coreAt
  dsimp only
  rw [if_neg (by simpa using h2), if_neg (by simpa using h3), if_neg (not_not.mpr h), if_pos hbad]

/-! ## Loads and stores -/

theorem exec_load {w : (SReg → Src → Half → Instr) × Nat} (hw : w ∈ loadWords) (h : CoreRuns s k [a] (some d)) :
    exec (w.1 d a off) s = .next (s.coreLoad k d a off w.2) := by
  have hx : exec (w.1 d a off) s = .next (s.onCore fun k => s.coreLoad k d a off w.2) := by
    simp only [loadWords, List.mem_cons, List.not_mem_nil, or_false] at hw
    rcases hw with rfl | rfl | rfl | rfl
    · rfl
    · rfl
    · rfl
    · rfl
  rw [hx, onCore_eq h.cur]

theorem exec_store {w : (Src → Src → Half → Instr) × Nat} {v : Src} (hw : w ∈ storeWords) (h : CoreRuns s k [a, v] none) :
    exec (w.1 v a off) s = .next (s.coreStore k v a off w.2) := by
  have hx : exec (w.1 v a off) s = .next (s.onCore fun k => s.coreStore k v a off w.2) := by
    simp only [storeWords, List.mem_cons, List.not_mem_nil, or_false] at hw
    rcases hw with rfl | rfl | rfl | rfl
    · rfl
    · rfl
    · rfl
    · rfl
  rw [hx, onCore_eq h.cur]

/-- Settles O32: the local accesses, and the form, privilege, size and alignment of an address in the order of R154. -/
theorem localMemoryAndAddresses : Obligations.LocalMemoryAndAddresses := by
  unfold Obligations.LocalMemoryAndAddresses
  refine ⟨⟨fun w hw s k d a off l h hl => ?_, fun w hw s k v a off l h hm hl => ?_⟩, fun s k n kind e hn =>
    ⟨coreAt_local, coreAt_mgmt, fun h hbad => coreAt_virtual h (top_of_middle hbad), coreAt_unaligned⟩⟩
  · rw [exec_load hw h, State.coreLoad]
    dsimp only
    rw [h.goes, hl]
    rfl
  · refine ⟨(s.writeLoc (.core k l) w.2 ((s.core k).src v).toNat).coreNext k (srcWords [v, a]), ?_, memWrite_keeps hm,
      memRead_memWrite hm, memWrite_sameBut hm, coreNext_core h.there⟩
    rw [exec_store hw h, State.coreStore]
    dsimp only
    rw [h.goes, hl]
    rfl

/-! ## Device accesses -/

/-- The entry of a device load, or of an `amo` with its old value, that leaves core `c` (R154, R155). -/
def Core.newLoad (c : Core) (d : SReg) (e : Dbl) (l : Loc) (n seq : Nat) (amo : Option Dbl) : CoreLoad :=
  { d := d.val, va := e, loc := l, bytes := n, pc := c.pc, seq := seq, ext := true, amo := amo }

/-- A core with one more load out. -/
def Core.addLoad (c : Core) (d : SReg) (e : Dbl) (l : Loc) (n seq : Nat) (amo : Option Dbl) : Core :=
  { c with loads := c.loads ++ [c.newLoad d e l n seq amo] }

theorem coreSpan_cases (core lctx i : Nat) (write : Bool) (ks : List Nat) :
    ∃ n l, s.coreSpan core lctx i write ks = { s with nextId := n, spans := l } := by
  unfold State.coreSpan
  generalize runsOf (ks.filter isRemote) = rs
  induction rs generalizing s with
  | nil => exact ⟨s.nextId, s.spans, rfl⟩
  | cons r rs ih =>
    obtain ⟨n, l, h⟩ := ih (s := s.addSpan { s.spanNew 0 0 i write r.1 r.2 with core := some core, lctx := lctx })
    exact ⟨n, l, h⟩

/-- A device access of a core: its core takes an entry, bytes may leave for another device, and the next word is due. -/
theorem device_core {u : State} {g : Core → Core} {i lctx words : Nat} {write : Bool} {ks : List Nat} (hu : u.cores = s.cores)
    (hk : k < s.cores.length) : ((((u.touch l).modCore k g).coreSpan k lctx i write ks).coreNext k words).core k =
      { g (s.core k) with pc := (g (s.core k)).after words } ∧
    ((((u.touch l).modCore k g).coreSpan k lctx i write ks).coreNext k words).mem = u.mem := by
  obtain ⟨p, hp⟩ := touch_cases (s := u) l
  obtain ⟨n, sp, hs⟩ := coreSpan_cases (s := (u.touch l).modCore k g) k lctx i write ks
  have hlen : k < ((u.touch l).modCore k g).cores.length := by
    change k < (lmod k g (u.touch l).cores).length
    rw [length_lmod, hp]
    exact hu ▸ hk
  have hcore : (u.touch l).core k = s.core k := by
    rw [hp]
    exact congrArg (fun l => l.getD k resetCore) hu
  have hself : ((u.touch l).modCore k g).core k = g (s.core k) := by
    have hlen' : k < (u.touch l).cores.length := by rw [hp]; exact hu ▸ hk
    rw [modCore_core_self hlen', hcore]
  rw [hs]
  refine ⟨?_, by rw [hp]; rfl⟩
  have hnext := coreNext_core (s := { (u.touch l).modCore k g with nextId := n, spans := sp }) (words := words) hlen
  have hsame : ({ (u.touch l).modCore k g with nextId := n, spans := sp } : State).core k = g (s.core k) := hself
  rw [hnext, hsame]

theorem storeMay_held {u : State} {x : CoreStore} {y : CoreLoad} (hy : y ∈ (u.core k).loads) (hrel : y.seq < (u.core k).relSeq)
    (hseq : y.seq < x.seq) : u.storeMay (u.core k) x = false := by
  have hany : ((u.core k).loads.any fun y => decide (y.seq < x.seq) &&
      (decide (y.seq < (u.core k).relSeq) || overlaps y.loc y.bytes x.loc x.bytes)) = true := by
    rw [List.any_eq_true]
    exact ⟨y, hy, by rw [decide_eq_true hseq, decide_eq_true hrel]; rfl⟩
  unfold State.storeMay
  rw [hany, Bool.not_true, Bool.and_false, Bool.false_and]

theorem exec_coreStorePerformed {n : Nat} {x : CoreStore} (hx : (s.core k).stores[n]? = some x) :
    exec (.coreStorePerformed k n) s = .next (if s.storeMay (s.core k) x then
      ((s.writeLoc x.loc x.bytes x.val.toNat).modCore k fun c => { c with stores := c.stores.eraseIdx n }).coreSpan k (s.core k).lctx
        x.seq true (keysFrom x.loc x.bytes) else s) := by
  have he : exec (.coreStorePerformed k n) s = execCoreStorePerformed k n s := rfl
  rw [he, execCoreStorePerformed, hx]

theorem exec_coreLoadReturn {n : Nat} {x : CoreLoad} (hx : (s.core k).loads[n]? = some x) (hamo : x.amo = none)
    (horder : ((s.core k).loads.any fun y => decide (y.seq < x.seq) && overlaps y.loc y.bytes x.loc x.bytes) = false)
    (hsys : s.sysPending x.loc x.bytes = false) (haway : s.coreAway k x.seq = false) :
    exec (.coreLoadReturn k n false) s = .next ((s.modCore k fun c => { c with loads := c.loads.eraseIdx n }).modCore k fun c =>
      c.setReg (Fin.ofNat 16 x.d) (extend x.bytes (s.loadValue (s.core k) x))) := by
  have he : exec (.coreLoadReturn k n false) s = execCoreLoadReturn k n false s := rfl
  rw [he, execCoreLoadReturn, hx]
  dsimp only
  rw [horder, hsys, haway, hamo]
  rfl

theorem exec_owait {ld st cp op : BitVec 4} (h : CoreRuns s k [] none) (hl : (s.core k).loads.length ≤ ld.toNat)
    (hs : (s.core k).stores.length ≤ st.toNat) (hc : (s.core k).copies ≤ cp.toNat) (ho : (s.core k).cmds ≤ op.toNat) :
    exec (.owait ld st cp op) s =
      .next ((s.modCore k fun c => if st = 0 then { c with relSeq := s.nextId } else c).coreNext k 1) := by
  have he : exec (.owait ld st cp op) s = execOwait ld st cp op s := rfl
  rw [he, execOwait, onCore_eq h.cur]
  dsimp only
  rw [h.going, if_neg Bool.false_ne_true, if_pos ⟨hl, hs, hc, ho⟩]

theorem modCore_next_core {g : Core → Core} {words : Nat} (h : k < s.cores.length) :
    ((s.modCore k g).coreNext k words).core k = { g (s.core k) with pc := (g (s.core k)).after words } := by
  have hlen : k < (s.modCore k g).cores.length := by
    change k < (lmod k g s.cores).length
    rw [length_lmod]
    exact h
  rw [coreNext_core hlen, modCore_core_self h]

/-- Settles O33: an access leaves its core and comes back or is performed; a limit of 0 on stores holds the later ones. -/
theorem deviceAccesses : Obligations.DeviceAccesses := by
  unfold Obligations.DeviceAccesses
  refine ⟨fun w hw s k d a off l h hl => ?_, fun w hw s k v a off l h hl => ?_, fun s k n x hk hx hamo horder hsys haway => ?_,
    fun s k n x hk hx hm hmay => ?_, fun s k ld st cp op h hl hs hc ho => ?_⟩
  · have hx : exec (w.1 d a off) s = .next (((((s.bumpId.touch l).modCore k fun c =>
        c.addLoad d ((s.core k).addr a off) l w.2 s.nextId none).coreSpan k (s.core k).lctx s.nextId false
        (keysFrom l w.2)).coreNext k (srcWords [a]))) := by
      rw [exec_load hw h, State.coreLoad]
      dsimp only
      rw [h.goes, hl]
      rfl
    obtain ⟨hcore, hmem⟩ := device_core (s := s) (u := s.bumpId) (l := l) (i := s.nextId) (lctx := (s.core k).lctx) (write := false)
      (ks := keysFrom l w.2) (words := srcWords [a]) (g := fun c => c.addLoad d ((s.core k).addr a off) l w.2 s.nextId none)
      rfl h.there
    exact ⟨_, _, hx, congrArg Core.loads hcore, rfl, rfl, rfl, rfl, congrArg Core.pc hcore, (congrArg Core.regs hcore).trans rfl, hmem⟩
  · have hx : exec (w.1 v a off) s = .next ((((s.bumpId.touch l).modCore k fun c =>
        { c with stores := c.stores ++ [{ seq := s.nextId, loc := l, bytes := w.2, val := (s.core k).src v, at_ := s.fc }] })).coreNext k
        (srcWords [v, a])) := by
      rw [exec_store hw h, State.coreStore]
      dsimp only
      rw [h.goes, hl]
      rfl
    obtain ⟨p, hp⟩ := touch_cases (s := s.bumpId) l
    have hcore := modCore_next_core (s := s.bumpId.touch l) (words := srcWords [v, a]) (g := fun c => { c with
      stores := c.stores ++ [{ seq := s.nextId, loc := l, bytes := w.2, val := (s.core k).src v, at_ := s.fc }] })
      (k := k) (by rw [hp]; exact h.there)
    have hsame : (s.bumpId.touch l).core k = s.core k := by rw [hp]; rfl
    rw [hsame] at hcore
    exact ⟨_, _, hx, congrArg Core.stores hcore, rfl, rfl, rfl, by rw [hp]; rfl⟩
  · refine ⟨_, exec_coreLoadReturn hx hamo horder hsys haway, rfl, ?_⟩
    have hlen : k < (s.modCore k fun c => { c with loads := c.loads.eraseIdx n }).cores.length := by
      change k < (lmod k _ s.cores).length
      rw [length_lmod]
      exact hk
    rw [modCore_core_self hlen, modCore_core_self hk]
  · obtain ⟨i, sp, hs⟩ := coreSpan_cases (s := (s.writeLoc x.loc x.bytes x.val.toNat).modCore k fun c =>
      { c with stores := c.stores.eraseIdx n }) k (s.core k).lctx x.seq true (keysFrom x.loc x.bytes)
    have he : exec (.coreStorePerformed k n) s = .next { (s.writeLoc x.loc x.bytes x.val.toNat).modCore k fun c =>
        { c with stores := c.stores.eraseIdx n } with nextId := i, spans := sp } := by
      rw [exec_coreStorePerformed hx, hmay, if_pos rfl, hs]
    refine ⟨_, he, memRead_memWrite hm, memWrite_sameBut hm, ?_⟩
    have hself : ((s.writeLoc x.loc x.bytes x.val.toNat).modCore k fun c => { c with stores := c.stores.eraseIdx n }).core k =
        { s.core k with stores := (s.core k).stores.eraseIdx n } :=
      modCore_core_self (s := s.writeLoc x.loc x.bytes x.val.toNat) hk
    exact congrArg Core.stores hself
  · refine ⟨_, exec_owait h hl hs hc ho, rfl, ?_, fun hz u n x y hy hseq hrel hyu hx hyx => ?_⟩
    · rw [modCore_next_core h.there]
      by_cases hz : st = 0
      · rw [if_pos hz, if_pos hz]
        rfl
      · rw [if_neg hz, if_neg hz]
        rfl
    · have hrel' : (u.core k).relSeq = s.nextId := by
        rw [hrel, modCore_next_core h.there, if_pos hz]
      rw [exec_coreStorePerformed hx, storeMay_held hyu (by rw [hrel']; exact hseq) hyx]
      rfl

/-! ## Atomics -/

theorem exec_amo {fn : RmwFn} {w ovt : Bool} (h : CoreRuns s k [a, b] (some d)) (hva : ((s.core k).src a).extractLsb' 57 7 = 0)
    (hl : s.coreAt k ((s.core k).src a) (if w then 8 else 4) 2 = .dev l)
    (hst : ((s.core k).stores.any fun y => overlaps y.loc y.bytes l (if w then 8 else 4)) = false)
    (hld : ((s.core k).loads.any fun y => overlaps y.loc y.bytes l (if w then 8 else 4)) = false)
    (hbank : s.bankHolds (keysFrom l (if w then 8 else 4)) = false) :
    exec (.amo fn d a b w ovt) s = .next (
      if ovt && amoOverflow fn (8 * (if w then 8 else 4)) (s.readLoc l (if w then 8 else 4))
          (((s.core k).src b).toNat % 2 ^ (8 * (if w then 8 else 4))) then (s.coreTrap k Code.iovf 0).issued
      else ((((((s.writeLoc l (if w then 8 else 4) (rmwNew fn (8 * (if w then 8 else 4)) (s.readLoc l (if w then 8 else 4))
          (((s.core k).src b).toNat % 2 ^ (8 * (if w then 8 else 4))) (((s.core k).reg d).toNat % 2 ^ (8 * (if w then 8 else 4))))).bumpId).touch
        l).modCore k fun c => c.addLoad d ((s.core k).src a) l (if w then 8 else 4) s.nextId
          (some (extend (if w then 8 else 4) (s.readLoc l (if w then 8 else 4))))).coreSpan
        k (s.core k).lctx s.nextId true (keysFrom l (if w then 8 else 4))).coreNext k (srcWords [a, b]))) := by
  have he : exec (.amo fn d a b w ovt) s = execAmo fn d a b w ovt s := rfl
  rw [he, execAmo, onCore_eq h.cur, State.coreAmo]
  dsimp only
  rw [h.goes, if_neg Bool.false_ne_true, if_neg (not_not.mpr hva), hl]
  dsimp only
  rw [hst, hld, hbank]
  rfl

/-- Settles O34: the atomic at the bank, and its overflow trap. -/
theorem atomics : Obligations.Atomics := by
  unfold Obligations.Atomics
  intro s k fn d a b w ovt l h hva_n c hva hl hst hld hbank old v
  refine ⟨fun ⟨ho, hov⟩ => ?_, fun hno => ?_⟩
  · rw [exec_amo h hva hl hst hld hbank, if_pos]
    rw [ho]
    exact hov
  · have hcond : (ovt && amoOverflow fn (8 * (if w then 8 else 4)) old v) = false := by
      rcases hno with hno | hno
      · rw [hno]; rfl
      · rw [show amoOverflow fn (8 * (if w then 8 else 4)) old v = false from hno, Bool.and_false]
    obtain ⟨hcore, hmem⟩ := device_core (s := s) (k := k) (l := l) (i := s.nextId) (lctx := (s.core k).lctx) (write := true)
      (ks := keysFrom l (if w then 8 else 4)) (words := srcWords [a, b])
      (u := (s.writeLoc l (if w then 8 else 4) (rmwNew fn (8 * (if w then 8 else 4)) old v
        (((s.core k).reg d).toNat % 2 ^ (8 * (if w then 8 else 4))))).bumpId)
      (g := fun c => c.addLoad d ((s.core k).src a) l (if w then 8 else 4) s.nextId (some (extend (if w then 8 else 4) old)))
      rfl h.there
    refine ⟨_, _, (exec_amo h hva hl hst hld hbank).trans (congrArg Host.Outcome.next (if_neg (Bool.eq_false_iff.mp hcond))), hmem,
      congrArg Core.loads hcore, rfl, rfl, congrArg Core.pc hcore⟩

end Sys2Proof.Machine

namespace Sys2Proof.Machine

/-! PROOFS. Fault records and the services of the sequencer for cores (R147, R149, R157, R158). -/

variable {s : State} {k : Nat} {a : Src} {d : SReg}

/-- `rfetch` where its local address is in order and its context exists. -/
structure Fetches (s : State) (k : Nat) (d : SReg) (a : Src) (x : Ctx) : Prop where
  runs : CoreRuns s k [a] (some d)
  form : ((s.core k).src a).extractLsb' 62 2 = 2
  rest : ((s.core k).src a).extractLsb' 18 44 = 0
  aligned : ((s.core k).src a).toNat % 32 = 0
  ctx : s.ctx (s.core k).lctx = some x

theorem exec_rfetch_none {x : Ctx} (h : Fetches s k d a x) (hnone : x.faults = []) :
    exec (.rfetch d a) s = .next (s.coreWrite k d 0 (srcWords [a])) := by
  have he : exec (.rfetch d a) s = execRfetch d a s := rfl
  rw [he, execRfetch, onCore_eq h.runs.cur]
  dsimp only
  rw [h.runs.goes, if_neg Bool.false_ne_true, h.form, h.rest, h.aligned, if_neg (by decide), h.ctx, Option.bind_some, hnone]
  rfl

/-- The place that `rfetch` copies a record to. -/
def State.faultPlace (s : State) (k : Nat) (a : Src) : Loc := .core k (((s.core k).src a).extractLsb' 0 18).toNat

/-- The state once the oldest record, of launch `l`, has been taken from context `c`. -/
def State.faultTaken (s : State) (c l : Nat) : State :=
  (s.modCtx c fun x => { x with faults := x.faults.drop 1 }).modLaunch l fun x => { x with recs := x.recs.drop 1 }

theorem faultTaken_mem {c l : Nat} : (s.faultTaken c l).mem = s.mem := rfl

theorem faultTaken_cores {c l : Nat} : (s.faultTaken c l).cores = s.cores := rfl

theorem faultTaken_ctx {c l : Nat} :
    (s.faultTaken c l).ctx c = (s.ctx c).map fun x => { x with faults := x.faults.drop 1 } := modCtx_ctx_self

/-- The state after `rfetch` of a record `v` of launch `l`, of `n` bytes. -/
def State.faultFetched (s : State) (k : Nat) (d : SReg) (a : Src) (l n v : Nat) : State :=
  ((s.faultTaken (s.core k).lctx l).writeLoc (s.faultPlace k a) n v).coreWrite k d 1 (srcWords [a])

theorem faultFetched_mem {l n v : Nat} :
    (s.faultFetched k d a l n v).mem = memWrite s.mem (s.faultPlace k a).key n v := by
  rw [State.faultFetched, coreWrite_rest.1, writeLoc_mem, faultTaken_mem]

theorem faultFetched_ctx {l n v : Nat} :
    (s.faultFetched k d a l n v).ctx (s.core k).lctx =
      (s.ctx (s.core k).lctx).map fun x => { x with faults := x.faults.drop 1 } := by
  rw [State.ctx, State.faultFetched, coreWrite_rest.2.2.1, writeLoc_ctxs]
  exact faultTaken_ctx

theorem faultFetched_core {l n v : Nat} (h : k < s.cores.length) :
    (s.faultFetched k d a l n v).core k = { (s.core k).setReg d 1 with pc := (s.core k).after (srcWords [a]) } :=
  coreWrite_core (s := (s.faultTaken (s.core k).lctx l).writeLoc (s.faultPlace k a) n v) h

theorem exec_rfetch_some {x : Ctx} {l : Nat} {w : BitVec 256} {rest : List (Nat × BitVec 256)} (h : Fetches s k d a x)
    (hsome : x.faults = (l, w) :: rest) : exec (.rfetch d a) s = .next (s.faultFetched k d a l 32 w.toNat) := by
  have he : exec (.rfetch d a) s = execRfetch d a s := rfl
  rw [he, execRfetch, onCore_eq h.runs.cur]
  dsimp only
  rw [h.runs.goes, if_neg Bool.false_ne_true, h.form, h.rest, h.aligned, if_neg (by decide), h.ctx, Option.bind_some, hsome]
  rfl

theorem faultFetched_read {l : Nat} {w : BitVec 256} (hm : s.memOk) :
    (s.faultFetched k d a l 32 w.toNat).readLoc (s.faultPlace k a) 32 = w.toNat := by
  rw [State.readLoc, faultFetched_mem, memRead_memWrite hm]
  exact Nat.mod_eq_of_lt w.isLt

theorem faultFetched_sameBut {l n v : Nat} (hm : s.memOk) :
    sameBut s.mem (s.faultFetched k d a l n v).mem (s.faultPlace k a).key n := by
  rw [faultFetched_mem]
  exact memWrite_sameBut hm

/-- Settles O35: the record that `rfetch` takes, and the bytes it writes. -/
theorem fetchFaultRecord : Obligations.FetchFaultRecord := by
  unfold Obligations.FetchFaultRecord
  intro s k d a x h e hform hrest halign hx
  have hf : Fetches s k d a x := ⟨h, hform, hrest, halign, hx⟩
  refine ⟨fun hnone => exec_rfetch_none hf hnone, fun r rest hsome hm => ?_⟩
  obtain ⟨l, w⟩ := r
  refine ⟨_, exec_rfetch_some hf hsome, ?_, faultFetched_read hm, faultFetched_sameBut hm, faultFetched_core h.there⟩
  rw [faultFetched_ctx, hx, Option.map_some, Option.map_some, hsome]
  rfl

/-- Settles O36: each service ends, or has its effect, once its operands are in order. -/
theorem coreServices : Obligations.CoreServices := by
  unfold Obligations.CoreServices
  refine ⟨fun s k a h hform hrest halign hne => ?_, fun s k a x h hform hrest halign hp hfree hx => ?_, fun s k a d h hw => ?_,
    fun s k d a n h => ?_, fun s s₁ k d nb n v h hp => ?_, fun s k a n h hh hb hle => ?_⟩
  · have he : exec (.swait a) s = execSwait a s := rfl
    rw [he, execSwait, onCore_eq h.cur]
    dsimp only
    rw [h.goes, if_neg Bool.false_ne_true, hform, hrest, halign, if_neg (by decide), if_neg (by decide), if_pos hne]
  · have hu : (!(s.core k).super && decide (((s.localPacket k ((s.core k).src a)).byte 2).toNat ≠ (s.core k).lctx)) = false := by
      rcases hp with hp | hp
      · rw [hp]; rfl
      · rw [State.localPacket, hp, decide_eq_false (not_not.mpr rfl), Bool.and_false]
    have hany : (s.intake.any fun x => x.1 == k) = false := List.any_eq_false.mpr fun z hz => by simpa using hfree z hz
    have he := exec_dispatch h hform hrest halign
    rw [hu, if_neg Bool.false_ne_true, hany, if_neg Bool.false_ne_true, hx] at he
    exact ⟨_, he, rfl, rfl, coreNext_core (s := { s with intake := s.intake ++ [(k, x.aqi, s.localPacket k ((s.core k).src a))] }) h.there⟩
  · rw [exec_cfgw h.runs, h.super, hw]
    rfl
  · have he : exec (.crc32c d a n) s = execCrc32c d a n s := rfl
    rw [he, execCrc32c, onCore_eq h.cur]
    dsimp only
    rw [h.goes, if_neg Bool.false_ne_true, extractLsb'_low32]
  · have he : exec (.qpop (.s d) nb n) s = execQpop (.s d) nb n s := rfl
    rw [he, execQpop, h.cur]
    dsimp only
    rw [State.coreQpop, h.goes, if_neg Bool.false_ne_true, hp]
  · have he : exec (.tlwait a n) s = execTlwait a n s := rfl
    rw [he, execTlwait, h.cur]
    dsimp only
    rw [State.coreTlwait, h.goes, if_neg Bool.false_ne_true, hh, hb]
    exact congrArg Host.Outcome.next (if_pos hle)

end Sys2Proof.Machine

namespace Sys2Proof.Machine

/-! PROOFS. What a step fetches (R20, R21, R106, R201, R224, R341, R368, R397, R402). -/

variable {s u : State} {i : Instr}

theorem step_turn {x : Turn} {rest : List Turn} (h : s.agenda = x :: rest) :
    step s = State.turn { s with agenda := rest, cur := .none } x := by
  rw [step, nextTurn_head h]

/-- An issue unit issues the first word that it is offered, unless that word waits. -/
theorem issueFirst_head {x y unit : Nat} {mk : Nat → Nat → Unit} {f : Fetched} {more : List Fetched} (hf : f.instr = some i) :
    (∀ s', exec i { u with cur := mk f.t f.o } = .next s' → s'.issues ≠ u.issues →
      u.issueFirst x y unit mk (f :: more) = .next (s'.markIssue x y unit)) ∧
    ((∀ s', exec i { u with cur := mk f.t f.o } ≠ .next s') →
      u.issueFirst x y unit mk (f :: more) = exec i { u with cur := mk f.t f.o }) := by
  rw [State.issueFirst, hf]
  dsimp only
  constructor
  · intro s' h hne
    rw [h]
    exact if_pos hne
  · intro h
    cases hr : exec i { u with cur := mk f.t f.o } with
    | next s' => exact absurd hr (h s')
    | _ => rfl

/-- What a core that runs fetches where both the word at its PC and the next can be read. -/
theorem coreFetch_instr {k : Nat} {w e : Word} (ha : (u.core k).pc.toNat % 4 = 0) (hw : u.coreWord k (u.core k).pc = some w)
    (he : u.coreWord k ((u.core k).pc + 4) = some e) (hd : decodeCore w e = some i) : u.coreFetch k = .instr i := by
  rw [State.coreFetch, ha, if_neg (by decide), hw]
  dsimp only
  rw [he]
  dsimp only
  rw [hd]

/-- What a core fetches depends on no turn. -/
theorem coreFetch_cur {k : Nat} {c : Unit} : State.coreFetch { u with cur := c } k = u.coreFetch k := rfl

theorem coreTurn_instr {k : Nat} {w e : Word} (hr : u.coreRuns k = true) (ha : (u.core k).pc.toNat % 4 = 0)
    (hw : u.coreWord k (u.core k).pc = some w) (he : u.coreWord k ((u.core k).pc + 4) = some e) (hd : decodeCore w e = some i) :
    u.coreTurn k = exec i (({ u with cur := .core k } : State).touchCode k) := by
  rw [State.coreTurn, hr, if_neg (by decide)]
  dsimp only
  rw [coreFetch_cur, coreFetch_instr ha hw he hd]

theorem runHead_some {o : Option Instr} (h : o = some i) : u.runHead o = exec i u := by
  rw [h, State.runHead]

theorem engineHead_some {t o : Nat} {b : Inbox} {p : InPkt} {more : List InPkt} (hb : u.inbox (.op t o) = some b)
    (hp : b.packets = p :: more) (hd : decodeCommand t o p.image = some i) : u.engineHead t o = some i := by
  rw [State.engineHead, hb, Option.bind_some, hp]
  exact hd

theorem bankHead_some {n c : Nat} {b : Inbox} {p : InPkt} {more : List InPkt} (hb : u.inbox (.bank n c) = some b)
    (hp : b.packets = p :: more) (hd : decodeBank n c p.image = some i) : u.bankHead n c = some i := by
  rw [State.bankHead, hb, Option.bind_some, hp]
  exact hd

theorem nodeHead_some {l : Nat} {a : Ahead} {more : List Ahead} (hl : (u.launch l).map (·.ahead) = some (a :: more))
    (hd : decodeNode l a.node = some i) : u.nodeHead l = some i := by
  obtain ⟨x, hx, hxa⟩ := Option.map_eq_some_iff.mp hl
  rw [State.nodeHead, hx, Option.bind_some, hxa]
  exact hd

theorem requestTurn_some {aqi q : Nat} {p : Packet} (hp : u.requestHead aqi q = some p) (hd : decodeRequest aqi q p = some i) :
    u.requestTurn aqi q = exec i u := by
  rw [State.requestTurn, hp]
  dsimp only
  rw [hd]

theorem adminTurn_some {p : Packet} {more : List Packet} (hp : u.adminQ = p :: more) (hd : decodeAdmin p = some i) :
    u.adminTurn = exec i u := by
  rw [State.adminTurn, hp]
  dsimp only [List.head?_cons]
  rw [hd]

/-- Settles O3, by the fetch of each kind of turn. -/
theorem stepRunsDecodedInstruction : Obligations.StepRunsDecodedInstruction := by
  unfold Obligations.StepRunsDecodedInstruction
  intro s x rest h
  rw [step_turn h]
  intro u
  refine ⟨?_, ?_, ?_, ?_, ?_, ?_, ?_, ?_, ?_⟩
  · rintro i rfl
    rfl
  · rintro k w e i rfl hr ha hw he hd
    exact coreTurn_instr hr ha hw he hd
  · rintro a b c f more i rfl hf hi
    rw [State.turn, hf]
    exact issueFirst_head hi
  · rintro a b f more i rfl hf hi
    rw [State.turn, hf]
    exact issueFirst_head hi
  · rintro t o b p more i rfl hb hp hd
    exact runHead_some (engineHead_some hb hp hd)
  · rintro n c b p more i rfl hb hp hd
    exact runHead_some (bankHead_some hb hp hd)
  · rintro l a more i rfl hl hd
    exact runHead_some (nodeHead_some hl hd)
  · rintro aqi q p i rfl hp hd
    exact requestTurn_some hp hd
  · rintro p more i rfl hp hd
    exact adminTurn_some hp hd

end Sys2Proof.Machine

namespace Sys2Proof.Machine

/-! PROOFS. What a vector word writes: the operation by which it issues (R201 to R204), and its lane-wise words. -/

variable {s : State} {t o : Nat} {c c' : Vec} {f : Firing} {d : VNum} {w : Word} {p : Pred}

/-! ## Registers of an actor -/

theorem ftz_busy_free : State.ftz { s with cur := .vec t o } = s.ftz := rfl

theorem VecRuns.curVec (h : VecRuns s t o c f) : s.curVec = some (t, o, c, f) := by
  rw [State.curVec, h.cur]
  dsimp only
  rw [h.vec, Option.bind_some, h.firing, Option.map_some]

theorem VecRuns.ftzNow (h : VecRuns s t o c f) : s.ftzNow = s.ftz (s.lctxOf t) := by
  rw [State.ftzNow, h.cur]

/-- Register `d` of an actor, changed. -/
def Vec.onV (c : Vec) (d : VNum) (g : VReg → VReg) : Vec := { c with vregs := lmod d.val g c.vregs }

/-- An actor whose firing has gone on to its next word, in fc `n` at the earliest. -/
def Vec.nextWord (c : Vec) (n : Nat) : Vec :=
  { c with firing := c.firing.map fun f => { f with pc := f.pc + 1, nextAt := n } }

theorem onV_self {g : VReg → VReg} (h : d.val < c.vregs.length) : (c.onV d g).v d = g (c.v d) := by
  simp only [Vec.v, Vec.onV, getD_lmod h]

theorem onV_other {g : VReg → VReg} {n : VNum} (h : n ≠ d) : (c.onV d g).v n = c.v n :=
  getD_lmod_other fun e => h (Fin.ext e)

@[simp] theorem nextWord_v {n : Nat} {e : VNum} : (c.nextWord n).v e = c.v e := rfl

theorem markV_vec : (s.markV t o d w).vec t o = (s.vec t o).map fun c => c.onV d fun r => r.marked w := modVec_vec_self

theorem vecAdvance_vec {iv : Nat} : (s.vecAdvance t o iv).vec t o = (s.vec t o).map fun c => c.nextWord (s.after t o iv) :=
  modVec_vec_self

@[simp] theorem dropMark_vec {m : Option Word} {t' o' : Nat} : (s.dropMark t o m).vec t' o' = s.vec t' o' := by
  cases m with
  | none => rfl
  | some w => exact sinkPoison_vec

theorem putV_vec {r : VReg} : (s.putV t o d r).vec t o = (s.vec t o).map fun c => c.onV d fun _ => r := by
  rw [State.putV, modVec_vec_self, dropMark_vec]
  rfl

/-- An actor of which one register is written, whose firing goes on, and whose other registers and predicates stay. -/
theorem VecWrote.intro {r : VReg} {n : Nat} {g : VReg → VReg} (hf : c.firing = some f) (hd : d.val < c.vregs.length)
    (hr : g (c.v d) = r) (hv : c'.vregs = (c.onV d g).vregs) (hp : c'.pregs = c.pregs)
    (hn : c'.firing = (c.nextWord n).firing) : VecWrote c c' f d r where
  dest := by
    rw [Vec.v, hv, ← hr]
    exact onV_self hd
  others e he := by
    rw [Vec.v, hv]
    exact onV_other he
  preds := hp
  next := by
    rw [hn, Vec.nextWord, hf]
    rfl

/-! ## The operation of a vector word -/

section
variable {srcs : List VNum} {iv : Nat} {merge : Bool} {g : Vec → List VReg → Except (BitVec 7) VOut}

/-- The register that the result of a vector word leaves (R203). -/
def VOut.reg (r : VOut) (c : Vec) (d : VNum) (p : Pred) (merge : Bool) : VReg :=
  { lanes := if merge then mergeLanes c p (c.v d) r.lanes else r.lanes, tag := r.tag, side := r.side.getD (c.v d).side, mark := none }

theorem vecOp_marked (h : VecRuns s t o c f) (hm : c.markOf srcs p = some w) :
    s.vecOp d srcs p iv merge g = (s.markV t o d w).vecAdvance t o iv := by
  rw [State.vecOp, h.curVec]
  dsimp only
  rw [hm]

theorem vecOp_error {code : BitVec 7} (h : VecRuns s t o c f) (hm : c.markOf srcs p = none)
    (hg : g c (srcs.map c.v) = .error code) :
    s.vecOp d srcs p iv merge g = (s.markV t o d (s.origin t o code)).vecAdvance t o iv := by
  rw [State.vecOp, h.curVec]
  dsimp only
  rw [hm]
  dsimp only
  rw [hg]

theorem vecOp_ok {r : VOut} (h : VecRuns s t o c f) (hm : c.markOf srcs p = none) (hg : g c (srcs.map c.v) = .ok r)
    (ht : merge = false ∨ p = none ∨ (c.v d).tag = r.tag) :
    s.vecOp d srcs p iv merge g = ((s.putV t o d (r.reg c d p merge)).modVec t o fun c =>
      { c with flags := c.flags ||| r.flags }).vecAdvance t o iv := by
  have hb : (merge && p.isSome && (c.v d).tag != r.tag) = false := by
    rcases ht with rfl | rfl | ht
    · rfl
    · rw [Option.isSome_none, Bool.and_false, Bool.false_and]
    · rw [ht, bne_self_eq_false, Bool.and_false]
  rw [State.vecOp, h.curVec]
  dsimp only
  rw [hm]
  dsimp only
  rw [hg]
  dsimp only
  rw [hb, if_neg Bool.false_ne_true]
  rfl

theorem markAdvance_wrote (h : VecRuns s t o c f) (hd : d.val < c.vregs.length) :
    ∃ c', ((s.markV t o d w).vecAdvance t o iv).vec t o = some c' ∧ VecWrote c c' f d ((c.v d).marked w) ∧
      c'.flags = c.flags ∧ c'.x = c.x := by
  rw [vecAdvance_vec, markV_vec, h.vec]
  exact ⟨_, rfl, VecWrote.intro (g := fun r => r.marked w) h.firing hd rfl rfl rfl rfl, rfl, rfl⟩

theorem vecOp_marked_wrote (h : VecRuns s t o c f) (hd : d.val < c.vregs.length) (hm : c.markOf srcs p = some w) :
    ∃ c', (s.vecOp d srcs p iv merge g).vec t o = some c' ∧ VecWrote c c' f d ((c.v d).marked w) ∧
      c'.flags = c.flags ∧ c'.x = c.x := by
  rw [vecOp_marked h hm]
  exact markAdvance_wrote h hd

theorem vecOp_error_wrote {code : BitVec 7} (h : VecRuns s t o c f) (hd : d.val < c.vregs.length)
    (hm : c.markOf srcs p = none) (hg : g c (srcs.map c.v) = .error code) :
    ∃ c', (s.vecOp d srcs p iv merge g).vec t o = some c' ∧ VecWrote c c' f d ((c.v d).marked (s.origin t o code)) ∧
      c'.flags = c.flags ∧ c'.x = c.x := by
  rw [vecOp_error h hm hg]
  exact markAdvance_wrote h hd

theorem vecOp_ok_wrote {r : VOut} (h : VecRuns s t o c f) (hd : d.val < c.vregs.length) (hm : c.markOf srcs p = none)
    (hg : g c (srcs.map c.v) = .ok r) (ht : merge = false ∨ p = none ∨ (c.v d).tag = r.tag) :
    ∃ c', (s.vecOp d srcs p iv merge g).vec t o = some c' ∧ VecWrote c c' f d (r.reg c d p merge) ∧
      c'.flags = c.flags ||| r.flags ∧ c'.x = c.x := by
  rw [vecOp_ok h hm hg ht, vecAdvance_vec, modVec_vec_self, putV_vec, h.vec]
  exact ⟨_, rfl, VecWrote.intro (g := fun _ => r.reg c d p merge) h.firing hd rfl rfl rfl rfl, rfl, rfl⟩

/-- A vector word whose operation has a result writes it. -/
theorem exec_vecOp_ok {u : Out} {r : VOut} (hu : u = .next (s.vecOp d srcs p iv merge g)) (h : VecRuns s t o c f)
    (hd : d.val < c.vregs.length) (hm : c.markOf srcs p = none) (hg : g c (srcs.map c.v) = .ok r)
    (ht : merge = false ∨ p = none ∨ (c.v d).tag = r.tag) :
    ∃ s' c', u = .next s' ∧ s'.vec t o = some c' ∧ VecWrote c c' f d (r.reg c d p merge) ∧ c'.flags = c.flags ||| r.flags ∧
      c'.x = c.x := by
  obtain ⟨c', h1, h2⟩ := vecOp_ok_wrote h hd hm hg ht
  exact ⟨_, c', hu, h1, h2⟩

/-- A vector word whose operation has no result marks its destination. -/
theorem exec_vecOp_error {u : Out} {code : BitVec 7} (hu : u = .next (s.vecOp d srcs p iv merge g)) (h : VecRuns s t o c f)
    (hd : d.val < c.vregs.length) (hm : c.markOf srcs p = none) (hg : g c (srcs.map c.v) = .error code) :
    ∃ s' c', u = .next s' ∧ s'.vec t o = some c' ∧ VecWrote c c' f d ((c.v d).marked (s.origin t o code)) ∧
      c'.flags = c.flags ∧ c'.x = c.x := by
  obtain ⟨c', h1, h2⟩ := vecOp_error_wrote h hd hm hg
  exact ⟨_, c', hu, h1, h2⟩

end

/-! ## Lanes -/

theorem mergeLanes_eq_blend {l : List Word} :
    mergeLanes c p (c.v d) l = blend c p d l.length fun i => l.getD i 0 := by
  refine List.ext_getElem (by simp [mergeLanes, blend]) fun i h _ => ?_
  have hi : i < l.length := by simpa [mergeLanes] using h
  simp [mergeLanes, blend, hi]

theorem blend_map {n : Nat} {v : Nat → Word} :
    (blend c p d ((List.range n).map v).length fun i => ((List.range n).map v).getD i 0) = blend c p d n v := by
  rw [blend, List.length_map, List.length_range]
  exact List.map_congr_left fun i hi => by simp [List.mem_range.mp hi]

theorem lanewise_reg {x : VNum} {srcs : List VNum} {v : List Word → Word} :
    (lanewise ((x :: srcs).map c.v) v).reg c d p true =
      { lanes := blend c p d (minLen ((x :: srcs).map c.v)) fun i => v ((x :: srcs).map fun n => (c.v n).lane i),
        tag := (c.v x).tag, side := (c.v d).side, mark := none } := by
  have hl : (lanewise ((x :: srcs).map c.v) v).lanes =
      (List.range (minLen ((x :: srcs).map c.v))).map fun i => v ((x :: srcs).map fun n => (c.v n).lane i) :=
    List.map_congr_left fun i _ => by rw [List.map_map]; rfl
  rw [VOut.reg, if_pos rfl, hl, mergeLanes_eq_blend, blend_map]
  rfl

/-- What a lane-wise operation gives on its sources: its value on an accepted format, INVALID on NONE. -/
structure LaneGives (g : List VReg → Except (BitVec 7) VOut) (arity : Nat) (accepts : Nat → Bool)
    (fn : Nat → List Word → Word) : Prop where
  ok : ∀ x l, (x :: l).length = arity → sameTags (x :: l) = true → tagScl x.tag = false → accepts (tagFmt x.tag) = true →
    g (x :: l) = .ok (lanewise (x :: l) (fn (tagFmt x.tag)))
  none : ∀ x l, tagFmt x.tag = 0 → g (x :: l) = .error Code.invalid

theorem okSources_ok {accept : Nat → Bool} {x : VReg} {l : List VReg} (h : sameTags (x :: l) = true)
    (hs : tagScl x.tag = false) (ha : accept (tagFmt x.tag) = true) : okSources accept (x :: l) = true := by
  rw [okSources, h, Bool.true_and, ha, hs]
  rfl

theorem okSources_none {accept : Nat → Bool} {x : VReg} {l : List VReg} (h : accept 0 = false) (hx : tagFmt x.tag = 0) :
    okSources accept (x :: l) = false := by
  rw [okSources, hx, h, Bool.false_and, Bool.and_false]

theorem not_isInt_of_isFloat3 {n : Nat} (h : isFloat3 n = true) : isInt n = false := by
  simp only [isFloat3, Bool.or_eq_true, beq_iff_eq] at h
  rcases h with (rfl | rfl) | rfl <;> rfl

theorem arith_gives {n : Nat} {z : Bool} {rm : Rm} {accept accepts : Nat → Bool} {ff : List Fp → Fp} {fi : List Int → Int}
    (h0 : accept 0 = false) (ha : ∀ k, accepts k = true → accept k = true ∧ (isInt k && rm != .rne) = false) :
    LaneGives (fun l => arith z rm l accept ff fi) n accepts (laneVal rm ff fi z) where
  ok x l _ ht hs hx := by
    obtain ⟨h1, h2⟩ := ha _ hx
    have hc : (!okSources accept (x :: l) || (isInt (tagFmt x.tag) && rm != .rne)) = false := by
      rw [okSources_ok ht hs h1, h2]
      rfl
    rw [arith]
    refine (if_neg (Bool.eq_false_iff.mp hc)).trans ?_
    cases hi : isInt (tagFmt x.tag) with
    | true =>
      have hv : laneVal rm ff fi z (tagFmt x.tag) = fun xs => wrapLane (tagFmt x.tag) (fi (xs.map (intElem (tagFmt x.tag)))) :=
        funext fun xs => by rw [laneVal, hi, if_pos rfl]
      rw [hv]
      exact if_pos hi
    | false =>
      have hv : laneVal rm ff fi z (tagFmt x.tag) =
          fun xs => fmtResult (tagFmt x.tag) z (rmC rm) (ff (xs.map (fmtOperand (tagFmt x.tag) z))) :=
        funext fun xs => by rw [laneVal, hi, if_neg Bool.false_ne_true]
      rw [hv]
      exact if_neg (Bool.eq_false_iff.mp hi)
  none x l hx := by
    rw [arith, okSources_none h0 hx]
    rfl

theorem minMax_gives {z isMax : Bool} {n : Nat} :
    LaneGives (fun l => minMaxOut z isMax l) n isSeven fun k => two (laneMinMax k z isMax) 0 where
  ok x l _ ht hs hx := by
    rw [minMaxOut, okSources_ok ht hs hx]
    rfl
  none x l hx := by
    rw [minMaxOut, okSources_none rfl hx]
    rfl

theorem estimate_gives {z : Bool} {v : Fp → Fp} {n : Nat} :
    LaneGives (fun l => estimate z v l) n (· == 1) fun _ => one (fun x => fmtResult 1 z .rne (v (fmtOperand 1 z x))) 0 where
  ok x l _ ht hs hx := by
    rw [estimate, okSources_ok ht hs hx]
    rfl
  none x l hx := by
    rw [estimate, okSources_none rfl hx]
    rfl

theorem bitwise_gives {v : Word → Word → Word} {n : Nat} : LaneGives (fun l => bitwise v l) n (· != 0) fun _ => two v 0 where
  ok x l _ ht hs hx := by
    have hc : (!sameTags (x :: l) || tagFmt x.tag == 0) = false := by
      rw [ht, Bool.not_true, Bool.false_or]
      exact beq_eq_false_iff_ne.mpr (bne_iff_ne.mp hx)
    rw [bitwise, hc, if_neg Bool.false_ne_true, hs, if_neg Bool.false_ne_true]
    rfl
  none x l hx := by
    rw [bitwise, hx]
    simp

/-- A shift of lanes of two integer formats (R214). -/
theorem shiftOut_ok {u : Bool} {v : Nat → Word → Nat → Word} {x y : VReg} (hx : isInt (tagFmt x.tag) = true)
    (hy : isInt (tagFmt y.tag) = true) (hsx : tagScl x.tag = false) (hsy : tagScl y.tag = false)
    (hu : u = true ∨ tagFmt x.tag ≠ 0xC) :
    shiftOut u v [x, y] = .ok (lanewise [x, y] (two (fun a n => v (tagFmt x.tag) a (n.toNat % fmtBits (tagFmt x.tag))) 0)) := by
  have hc : (tagFmt x.tag == 0xC && !u) = false := by
    rcases hu with rfl | hu
    · exact Bool.and_false _
    · rw [beq_eq_false_iff_ne.mpr hu, Bool.false_and]
  rw [shiftOut, hx, hy, hsx, hsy, hc]
  rfl

theorem shift_gives {u : Bool} {v : Nat → Word → Nat → Word} {accepts : Nat → Bool}
    (h : ∀ k, accepts k = true → isInt k = true ∧ (u = true ∨ k ≠ 0xC)) :
    LaneGives (fun l => shiftOut u v l) 2 accepts fun k => two (fun a n => v k a (n.toNat % fmtBits k)) 0 where
  ok x l hl ht hs hx := by
    obtain ⟨y, rfl⟩ := List.length_eq_one_iff.mp (Nat.succ.inj hl)
    have hy : y.tag = x.tag := by simpa [sameTags] using ht
    obtain ⟨h1, h2⟩ := h _ hx
    exact shiftOut_ok h1 (hy ▸ h1) hs (hy ▸ hs) h2
  none x l hx := by
    rcases l with _ | ⟨y, _ | ⟨z, l⟩⟩
    · rfl
    · rw [shiftOut, hx]
      rfl
    · rfl

/-- How a lane-wise word runs. -/
structure LaneRuns (r : LaneRow) (s : State) (d a b e : VNum) (p : Pred) : Prop where
  runs : ∃ iv g, exec (r.word d a b e p) s = .next (s.vecOp d ([a, b, e].take r.arity) p iv true fun _ l => g l) ∧
    LaneGives g r.arity r.accepts (r.fn s.ftzNow)
  arity : r.arity = 1 ∨ r.arity = 2 ∨ r.arity = 3

theorem num_accepts {rm : Rm} (k : Nat) (h : (isFloat3 k || (isInt k && rm == .rne)) = true) :
    isSeven k = true ∧ (isInt k && rm != .rne) = false := by
  rcases Bool.or_eq_true _ _ ▸ h with hf | hi
  · rw [isSeven, hf, not_isInt_of_isFloat3 hf]
    exact ⟨rfl, rfl⟩
  · obtain ⟨hi, hr⟩ := Bool.and_eq_true _ _ ▸ hi
    rw [isSeven, hi, eq_of_beq hr]
    exact ⟨Bool.or_true _, rfl⟩

theorem float3_accepts {rm : Rm} (k : Nat) (h : isFloat3 k = true) : isFloat3 k = true ∧ (isInt k && rm != .rne) = false :=
  ⟨h, by rw [not_isInt_of_isFloat3 h, Bool.false_and]⟩

theorem signed_accepts (k : Nat) (h : isSignedFmt k = true) : isSignedFmt k = true ∧ (isInt k && Rm.rne != .rne) = false :=
  ⟨h, Bool.and_false _⟩

theorem int_accepts (k : Nat) (h : isInt k = true) : isInt k = true ∧ (true = true ∨ k ≠ 0xC) := ⟨h, .inl rfl⟩

theorem signedInt_accepts (k : Nat) (h : (isInt k && k != 0xC) = true) : isInt k = true ∧ (false = true ∨ k ≠ 0xC) := by
  obtain ⟨h1, h2⟩ := Bool.and_eq_true _ _ ▸ h
  exact ⟨h1, .inr (bne_iff_ne.mp h2)⟩

theorem laneRows_run {rm : Rm} {r : LaneRow} (hr : r ∈ laneRows rm) (a b e : VNum) : LaneRuns r s d a b e p := by
  simp only [laneRows, List.mem_cons, List.not_mem_nil, or_false] at hr
  rcases hr with rfl | rfl | rfl | rfl | rfl | rfl | rfl | rfl | rfl | rfl | rfl | rfl | rfl | rfl | rfl | rfl | rfl | rfl | rfl
  · exact ⟨⟨_, _, rfl, arith_gives rfl num_accepts⟩, .inr (.inl rfl)⟩
  · exact ⟨⟨_, _, rfl, arith_gives rfl num_accepts⟩, .inr (.inl rfl)⟩
  · exact ⟨⟨_, _, rfl, arith_gives rfl num_accepts⟩, .inr (.inl rfl)⟩
  · exact ⟨⟨_, _, rfl, arith_gives rfl float3_accepts⟩, .inr (.inr rfl)⟩
  · exact ⟨⟨_, _, rfl, arith_gives rfl float3_accepts⟩, .inr (.inr rfl)⟩
  · exact ⟨⟨_, _, rfl, arith_gives rfl signed_accepts⟩, .inl rfl⟩
  · exact ⟨⟨_, _, rfl, arith_gives rfl signed_accepts⟩, .inl rfl⟩
  · exact ⟨⟨_, _, rfl, minMax_gives⟩, .inr (.inl rfl)⟩
  · exact ⟨⟨_, _, rfl, minMax_gives⟩, .inr (.inl rfl)⟩
  · exact ⟨⟨_, _, rfl, estimate_gives⟩, .inl rfl⟩
  · exact ⟨⟨_, _, rfl, estimate_gives⟩, .inl rfl⟩
  · exact ⟨⟨_, _, rfl, estimate_gives⟩, .inl rfl⟩
  · exact ⟨⟨_, _, rfl, estimate_gives⟩, .inl rfl⟩
  · exact ⟨⟨_, _, rfl, bitwise_gives⟩, .inr (.inl rfl)⟩
  · exact ⟨⟨_, _, rfl, bitwise_gives⟩, .inr (.inl rfl)⟩
  · exact ⟨⟨_, _, rfl, bitwise_gives⟩, .inr (.inl rfl)⟩
  · exact ⟨⟨_, _, rfl, shift_gives int_accepts⟩, .inr (.inl rfl)⟩
  · exact ⟨⟨_, _, rfl, shift_gives int_accepts⟩, .inr (.inl rfl)⟩
  · exact ⟨⟨_, _, rfl, shift_gives signedInt_accepts⟩, .inr (.inl rfl)⟩

end Sys2Proof.Machine

namespace Sys2Proof.Machine

/-! PROOFS. The values and the marks of the lane-wise words (R202 to R204, R206, R207, R214). -/

variable {s : State} {t o : Nat} {c : Vec} {f : Firing} {d a b e : VNum} {p : Pred}

/-- The sources of a lane-wise word: VA, and those after it. -/
theorem laneSources_cons {n : Nat} (h : n = 1 ∨ n = 2 ∨ n = 3) :
    ∃ l, [a, b, e].take n = a :: l ∧ (a :: l).length = n := by
  rcases h with rfl | rfl | rfl
  · exact ⟨[], rfl, rfl⟩
  · exact ⟨[b], rfl, rfl⟩
  · exact ⟨[b, e], rfl, rfl⟩

theorem sameTags_of {l : List VNum} (h : ∀ x ∈ a :: l, (c.v x).tag = (c.v a).tag) : sameTags ((a :: l).map c.v) = true := by
  rw [List.map_cons, sameTags, List.all_map, List.all_eq_true]
  exact fun x hx => beq_iff_eq.mpr (h x (List.mem_cons_of_mem a hx))

/-- A lane-wise word on sources that it takes writes the values of its lanes. -/
theorem laneRow_wrote {rm : Rm} {r : LaneRow} (hr : r ∈ laneRows rm) (h : VecRuns s t o c f) (hd : d.val < c.vregs.length)
    (hm : c.markOf ([a, b, e].take r.arity) p = none)
    (ht : ∀ x ∈ [a, b, e].take r.arity, (c.v x).tag = (c.v a).tag) (hs : tagScl (c.v a).tag = false)
    (ha : r.accepts (tagFmt (c.v a).tag) = true) (hp : p = none ∨ (c.v d).tag = (c.v a).tag) :
    ∃ s' c', exec (r.word d a b e p) s = .next s' ∧ s'.vec t o = some c' ∧ VecWrote c c' f d
      { lanes := blend c p d (minLen (([a, b, e].take r.arity).map c.v)) fun i =>
          r.fn (s.ftz (s.lctxOf t)) (tagFmt (c.v a).tag) (([a, b, e].take r.arity).map fun x => (c.v x).lane i),
        tag := (c.v a).tag, side := (c.v d).side, mark := none } := by
  obtain ⟨⟨iv, g, hx, hg⟩, hn⟩ := laneRows_run (s := s) (d := d) (p := p) hr a b e
  obtain ⟨l, hl, hlen⟩ := laneSources_cons (a := a) (b := b) (e := e) hn
  rw [hl] at hx hm ht ⊢
  rw [h.ftzNow] at hg
  have hok := hg.ok (c.v a) (l.map c.v) (by simpa using hlen) (sameTags_of ht) hs ha
  obtain ⟨c', h1, h2, -, -⟩ := vecOp_ok_wrote (iv := iv) (merge := true) (g := fun _ l => g l) (srcs := a :: l) h hd hm hok
    (.inr hp)
  rw [← List.map_cons, lanewise_reg] at h2
  exact ⟨_, c', hx, h1, h2⟩

/-- A shift runs the operation of `shiftOut`. -/
theorem shiftRows_run {w : (VNum → VNum → VNum → Pred → Instr) × (Nat → Bool) × (Nat → Word → Nat → Word)}
    (hw : w ∈ shiftRows) : ∃ u, (∀ d a b p s, exec (w.1 d a b p) s = .next (s.vecOp d [a, b] p 1 true fun _ l => shiftOut u w.2.2 l)) ∧
      ∀ k, w.2.1 k = true → isInt k = true ∧ (u = true ∨ k ≠ 0xC) := by
  simp only [shiftRows, List.mem_cons, List.not_mem_nil, or_false] at hw
  rcases hw with rfl | rfl | rfl
  · exact ⟨true, fun _ _ _ _ _ => rfl, int_accepts⟩
  · exact ⟨true, fun _ _ _ _ _ => rfl, int_accepts⟩
  · exact ⟨false, fun _ _ _ _ _ => rfl, signedInt_accepts⟩

/-- A bitwise word runs the operation of `bitwise`. -/
theorem bitRows_run {w : (VNum → VNum → VNum → Pred → Instr) × (Word → Word → Word)} (hw : w ∈ bitRows) :
    exec (w.1 d a b p) s = .next (s.vecOp d [a, b] p 1 true fun _ l => bitwise w.2 l) := by
  simp only [bitRows, List.mem_cons, List.not_mem_nil, or_false] at hw
  rcases hw with rfl | rfl | rfl <;> rfl

/-- A bitwise operation keeps the sidecar of a scaled source. -/
theorem bitwise_ok {v : Word → Word → Word} {x y : VReg} (ht : y.tag = x.tag) (h0 : tagFmt x.tag ≠ 0) :
    bitwise v [x, y] = .ok { lanewise [x, y] (two v 0) with side := if tagScl x.tag then some x.side else none } := by
  have hc : (!sameTags [x, y] || tagFmt x.tag == 0) = false := by
    rw [sameTags, beq_eq_false_iff_ne.mpr h0]
    simp [ht]
  rw [bitwise, hc]
  rfl

theorem lanewise_side_reg {l : List VNum} {v : List Word → Word} {side : Option (BitVec 512)} :
    ({ lanewise ((a :: l).map c.v) v with side := side } : VOut).reg c d p true =
      { (lanewise ((a :: l).map c.v) v).reg c d p true with side := side.getD (c.v d).side } := rfl

/-- Settles O37: each lane-wise word runs the one operation of R201 to R204 on the value of its lanes. -/
theorem vectorLanes : Obligations.VectorLanes := by
  unfold Obligations.VectorLanes
  refine ⟨?_, ?_, ?_⟩
  · intro w hw s t o c f d a b p h hd hm tag ht h0 hp
    obtain ⟨c', h1, h2, -, -⟩ := vecOp_ok_wrote (iv := 1) (merge := true) (g := fun _ l => bitwise w.2 l) (srcs := [a, b]) h hd hm
      (bitwise_ok ht h0) (.inr hp)
    have hr := lanewise_side_reg (c := c) (d := d) (a := a) (l := [b]) (p := p) (v := two w.2 0)
      (side := if tagScl tag then some (c.v a).side else none)
    rw [lanewise_reg] at hr
    have hs : (if tagScl tag then some (c.v a).side else none).getD (c.v d).side =
        if tagScl tag then (c.v a).side else (c.v d).side := by
      cases tagScl tag <;> rfl
    rw [hs] at hr
    exact ⟨_, c', bitRows_run hw, h1, hr ▸ h2⟩
  · intro w hw s t o c f d a b p h hd hm fmt hfa hfb hsa hsb hp
    obtain ⟨u, hx, hu⟩ := shiftRows_run hw
    obtain ⟨hi, hu⟩ := hu fmt hfa
    obtain ⟨c', h1, h2, -, -⟩ := vecOp_ok_wrote (iv := 1) (merge := true) (g := fun _ l => shiftOut u w.2.2 l) (srcs := [a, b]) h hd hm
      (shiftOut_ok hi hfb hsa hsb hu) (.inr hp)
    have hr := lanewise_reg (c := c) (d := d) (x := a) (srcs := [b]) (p := p)
      (v := two (fun v n => w.2.2 fmt v (n.toNat % fmtBits fmt)) 0)
    exact ⟨_, c', hx d a b p s, h1, hr ▸ h2⟩
  · intro rm r hr s t o c f d a b e p h hd srcs tag hm ht hs ha hp fn
    exact laneRow_wrote hr h hd hm ht hs ha hp

/-- Settles O38: a marked source, or VA of the format NONE, marks the destination. -/
theorem vectorMarks : Obligations.VectorMarks := by
  unfold Obligations.VectorMarks
  intro rm r hr s t o c f d a b e p h hd srcs
  obtain ⟨⟨iv, g, hx, hg⟩, hn⟩ := laneRows_run (s := s) (d := d) (p := p) hr a b e
  refine ⟨fun w hm => ?_, fun hm h0 => ?_⟩
  · obtain ⟨c', h1, h2, -, -⟩ := vecOp_marked_wrote (iv := iv) (merge := true) (g := fun _ l => g l) h hd hm
    exact ⟨_, c', hx, h1, h2⟩
  · obtain ⟨l, hl, -⟩ := laneSources_cons (a := a) (b := b) (e := e) hn
    have hbad : g (srcs.map c.v) = .error Code.invalid := by
      rw [show srcs = a :: l from hl, List.map_cons]
      exact hg.none (c.v a) (l.map c.v) h0
    obtain ⟨c', h1, h2, -, -⟩ := vecOp_error_wrote (iv := iv) (merge := true) (g := fun _ l => g l) h hd hm hbad
    exact ⟨_, c', hx, h1, h2⟩

end Sys2Proof.Machine

namespace Sys2Proof.Machine

/-! PROOFS. Vector compare, select and integer multiply-add, and the movements of lanes (R208, R209, R213, R215). -/

variable {s : State} {t o : Nat} {c : Vec} {f : Firing} {d a b e : VNum} {p : Pred}

/-! ## Compare (R208) -/

theorem getLsbD_foldl_bits {v : Nat → Bool} (n i : Nat) (hi : i < 512) :
    ((List.range n).foldl (fun (w : BitVec 512) j => if v j then w ||| (1 <<< j) else w) 0).getLsbD i = (decide (i < n) && v i) := by
  induction n with
  | zero => simp
  | succ n ih =>
    rw [List.range_succ, List.foldl_append, List.foldl_cons, List.foldl_nil]
    have hone : (((1 <<< n : Nat) : BitVec 512)).getLsbD i = decide (i = n) := by
      rw [BitVec.natCast_eq_ofNat, BitVec.getLsbD_ofNat, Nat.one_shiftLeft, Nat.testBit_two_pow, decide_eq_true hi, Bool.true_and]
      exact decide_eq_decide.mpr eq_comm
    cases hv : v n with
    | true =>
      rw [if_pos rfl, BitVec.getLsbD_or, ih, hone]
      rcases lt_trichotomy i n with h | rfl | h
      · simp [h, h.ne, Nat.lt_succ_of_lt h]
      · simp [hv]
      · simp [h.ne', Nat.not_lt_of_lt h, Nat.not_lt_of_le (Nat.succ_le_of_lt h)]
    | false =>
      rw [if_neg Bool.false_ne_true, ih]
      rcases lt_trichotomy i n with h | rfl | h
      · simp [h, Nat.lt_succ_of_lt h]
      · simp [hv]
      · simp [Nat.not_lt_of_lt h, Nat.not_lt_of_le (Nat.succ_le_of_lt h)]

theorem getLsbD_bitsOf {v : Nat → Bool} {i : Nat} (hi : i < 512) : (bitsOf v).getLsbD i = v i := by
  rw [bitsOf, getLsbD_foldl_bits 512 i hi, decide_eq_true hi, Bool.true_and]

/-- The bits that a comparison writes (R203, R208). -/
def Vec.cmpBits (c : Vec) (z : Bool) (cc : Cond) (d : PNum) (a b : VNum) (p : Pred) : BitVec 512 :=
  bitsOf fun i => if c.sel p i then
    decide (i < minLen [c.v a, c.v b]) && laneCond (tagFmt (c.v a).tag) z cc ((c.v a).lane i) ((c.v b).lane i)
  else (c.p d).bits.getLsbD i

/-- Predicate `d` of an actor, written. -/
def Vec.putP (c : Vec) (d : PNum) (bits : BitVec 512) : Vec :=
  { c with pregs := lmod d.val (fun _ => { bits := bits, mark := none }) c.pregs }

theorem nextWord_p {d : PNum} {n : Nat} : (c.nextWord n).p d = c.p d := rfl

theorem putP_p_self {d : PNum} {w : BitVec 512} (h : d.val < c.pregs.length) : (c.putP d w).p d = { bits := w, mark := none } := by
  simp only [Vec.p, Vec.putP, getD_lmod h]

theorem exec_vcmp {cc : Cond} {d : PNum} (h : VecRuns s t o c f) (hm : c.markOf [a, b] p = none)
    (ht : (c.v a).tag = (c.v b).tag) (hs : tagScl (c.v a).tag = false) (h7 : isSeven (tagFmt (c.v a).tag) = true)
    (hcc : ccOk (tagFmt (c.v a).tag) cc = true) :
    exec (.vcmpCc cc d a b p) s = .next (((s.dropMark t o (c.p d).mark).modVec t o fun x =>
      x.putP d (c.cmpBits (s.ftz (s.lctxOf t)) cc d a b p)).vecAdvance t o 1) := by
  have he : exec (.vcmpCc cc d a b p) s = execVcmpCc cc d a b p s := rfl
  have hok : (!okSources isSeven [c.v a, c.v b] || !ccOk (tagFmt (c.v a).tag) cc) = false := by
    rw [okSources_ok (by simp [sameTags, ht]) hs h7, hcc]
    rfl
  rw [he, execVcmpCc, h.curVec]
  dsimp only
  rw [hm]
  dsimp only
  rw [hok, if_neg Bool.false_ne_true, h.ftzNow]
  rfl

theorem getLsbD_cmpBits {z : Bool} {cc : Cond} {d : PNum} {i : Nat} (hi : i < 512) :
    (c.cmpBits z cc d a b p).getLsbD i = if c.sel p i then decide (i < (c.v a).vlen ∧ i < (c.v b).vlen) &&
      laneCond (tagFmt (c.v a).tag) z cc ((c.v a).lane i) ((c.v b).lane i) else (c.p d).bits.getLsbD i := by
  have hn : minLen [c.v a, c.v b] = min (c.v a).vlen (c.v b).vlen := rfl
  rw [Vec.cmpBits, getLsbD_bitsOf hi, hn, decide_eq_decide.mpr lt_min_iff]

/-! ## Select and multiply-add (R209, R215) -/

theorem not_merged_reg {r : VOut} : r.reg c d p false =
    { lanes := r.lanes, tag := r.tag, side := r.side.getD (c.v d).side, mark := none } := rfl

/-- The formats of the factors of vimad (R215). -/
def imadFactor (n : Nat) : Bool := n == 0xA || n == 0xB || n == 0xC

theorem imadFormat {n : Nat} (h : n ∈ [0xA, 0xB, 0xC]) : imadFactor n = true := by
  simp only [List.mem_cons, List.not_mem_nil, or_false] at h
  rcases h with rfl | rfl | rfl <;> rfl

theorem intElem_int32 (x : Word) : intElem 0x9 x = x.toInt := by
  rw [intElem, if_neg (by decide), show fmtBits 0x9 = 32 from rfl, BitVec.toInt_eq_toNat_cond, sgn, Nat.mod_eq_of_lt x.isLt]
  split <;> split <;> omega

theorem wrapLane_int32 (v : Int) : wrapLane 0x9 v = BitVec.ofInt 32 v := by
  rw [wrapLane, show fmtBits 0x9 = 32 from rfl]
  refine BitVec.eq_of_toNat_eq ?_
  rw [BitVec.toNat_ofNat, BitVec.toNat_ofInt, wrapI]
  omega

/-- The value of vimad on three registers that it takes (R215). -/
def imadOut (x y z : VReg) : VOut :=
  vout (mkTag 0x9 false 0) ((List.range (minLen [x, y, z])).map fun i =>
    wrapLane 0x9 (intElem (tagFmt x.tag) (x.lane i) * intElem (tagFmt y.tag) (y.lane i) + intElem 0x9 (z.lane i)))

/-- The test by which vimad takes its sources. -/
theorem imadTakes {x y z : VReg} (hx : imadFactor (tagFmt x.tag) = true) (hy : imadFactor (tagFmt y.tag) = true)
    (hz : tagFmt z.tag = 0x9) (sx : tagScl x.tag = false) (sy : tagScl y.tag = false) (sz : tagScl z.tag = false) :
    (!imadFactor (tagFmt x.tag) || !imadFactor (tagFmt y.tag) || tagFmt z.tag != 0x9 || tagScl x.tag || tagScl y.tag ||
      tagScl z.tag) = false := by
  rw [hx, hy, hz, sx, sy, sz]
  rfl

theorem imadOut_reg : (imadOut (c.v a) (c.v b) (c.v e)).reg c d p true =
    { lanes := blend c p d (min (c.v a).vlen (min (c.v b).vlen (c.v e).vlen)) fun i =>
        BitVec.ofInt 32 (intElem (tagFmt (c.v a).tag) ((c.v a).lane i) * intElem (tagFmt (c.v b).tag) ((c.v b).lane i) +
          ((c.v e).lane i).toInt),
      tag := 0x09, side := (c.v d).side, mark := none } := by
  have hl : (imadOut (c.v a) (c.v b) (c.v e)).lanes = (List.range (min (c.v a).vlen (min (c.v b).vlen (c.v e).vlen))).map fun i =>
      BitVec.ofInt 32 (intElem (tagFmt (c.v a).tag) ((c.v a).lane i) * intElem (tagFmt (c.v b).tag) ((c.v b).lane i) +
        ((c.v e).lane i).toInt) :=
    List.map_congr_left fun i _ => by rw [wrapLane_int32, intElem_int32 ((c.v e).lane i)]
  rw [VOut.reg, if_pos rfl, hl, mergeLanes_eq_blend, blend_map]
  rfl

/-- Settles O39: vcmp by its bits, vsel and vimad by the operation of R201 to R204. -/
theorem vectorCompareSelectMultiply : Obligations.VectorCompareSelectMultiply := by
  unfold Obligations.VectorCompareSelectMultiply
  refine ⟨fun s t o c f cc d a b p h hd hm ht hs h7 hcc => ?_, fun s t o c f d a b p h hd hm ht h0 hs => ?_, ?_⟩
  · have hv := vecAdvance_vec (iv := 1) (t := t) (o := o) (s := (s.dropMark t o (c.p d).mark).modVec t o fun x =>
      x.putP d (c.cmpBits (s.ftz (s.lctxOf t)) cc d a b p))
    rw [modVec_vec_self, dropMark_vec, h.vec, Option.map_some, Option.map_some] at hv
    have hp := putP_p_self (w := c.cmpBits (s.ftz (s.lctxOf t)) cc d a b p) hd
    refine ⟨_, _, exec_vcmp h hm ht hs h7 hcc, hv, rfl, ?_, fun i hi => ?_⟩
    · rw [nextWord_p, hp]
    · rw [nextWord_p, hp]
      dsimp only
      rw [getLsbD_cmpBits hi]
  · have hok : (sameTags [c.v a, c.v b] && tagFmt (c.v a).tag != 0 && !tagScl (c.v a).tag) = true := by
      rw [bne_iff_ne.mpr h0, hs]
      simp [sameTags, ht]
    obtain ⟨s', c', h1, h2, h3, -⟩ := exec_vecOp_ok (u := exec (.vsel d a b p) s) rfl h hd hm (if_pos hok) (.inl rfl)
    exact ⟨s', c', h1, h2, h3⟩
  · intro s t o c f d a b e p h hd hm fa fb ha hb he hs hp
    have hok := imadTakes (imadFormat ha) (imadFormat hb) he (hs a (by simp)) (hs b (by simp)) (hs e (by simp))
    obtain ⟨s', c', h1, h2, h3, -⟩ := exec_vecOp_ok (u := exec (.vimad d a b e p) s) (r := imadOut (c.v a) (c.v b) (c.v e)) rfl h hd hm
      (if_neg (Bool.eq_false_iff.mp hok)) (.inr hp)
    rw [imadOut_reg] at h3
    exact ⟨s', c', h1, h2, h3⟩

end Sys2Proof.Machine

namespace Sys2Proof.Machine

/-! PROOFS. The movements of lanes, and the words on tags (R212, R213, R220). -/

variable {s : State} {t o : Nat} {c : Vec} {f : Firing} {d a b : VNum} {p : Pred}

/-! ## Movements (R213) -/

theorem moveOut_ok {z : Bool} {x : VReg} {l : List Word} (h0 : tagFmt x.tag ≠ 0) (hs : tagScl x.tag = false ∨ z = true) :
    moveOut z x l = .ok { lanes := l, tag := x.tag, side := some x.side, flags := 0 } := by
  refine if_neg ?_
  rintro (h | ⟨h1, h2⟩)
  · exact h0 h
  · rcases hs with hs | hs
    · exact Bool.false_ne_true (hs ▸ h1)
    · exact h2 hs

/-- The register that a movement of register `x` leaves. -/
theorem moveOut_reg {x : VReg} {l : List Word} :
    ({ lanes := l, tag := x.tag, side := some x.side, flags := 0 } : VOut).reg c d p true =
      { lanes := blend c p d l.length fun i => l.getD i 0, tag := x.tag, side := x.side, mark := none } := by
  rw [VOut.reg, if_pos rfl, mergeLanes_eq_blend]
  rfl

theorem markOf_one (h : c.markOf [a] none = none) : (c.v a).mark = none := by
  rw [Vec.markOf] at h
  cases hm : (c.v a).mark with
  | none => rfl
  | some w => simp [hm] at h

/-- What vmov copies without a predicate is the register as it stands. -/
theorem whole_blend {x : VReg} (h : x.mark = none) :
    ({ lanes := blend c none d x.lanes.length fun i => x.lanes.getD i 0, tag := x.tag, side := x.side, mark := none } : VReg) = x := by
  have hl : (blend c none d x.lanes.length fun i => x.lanes.getD i 0) = x.lanes :=
    List.ext_getElem (by simp [blend]) fun i h1 h2 => by simp [blend, Vec.sel, h2]
  rw [hl, ← h]

theorem exec_vmov_whole (h : VecRuns s t o c f) (hm : (c.v a).mark = none) (h0 : tagFmt (c.v a).tag ≠ 0) :
    exec (.vmov d a none) s = .next (if d = a then s.vecAdvance t o 1 else (s.putV t o d (c.v a)).vecAdvance t o 1) := by
  have he : exec (.vmov d a none) s = execVmov d a none s := rfl
  rw [he]
  unfold execVmov
  rw [h.curVec]
  dsimp only
  rw [if_neg fun x => h0 x.1]
  split <;> rfl

theorem exec_vmov_pred {n : PNum} : exec (.vmov d a (some n)) s =
    .next (s.vecOp d [a] (some n) 1 true fun c _ => moveOut true (c.v a) (c.v a).lanes) := by
  have he : exec (.vmov d a (some n)) s = execVmov d a (some n) s := rfl
  rw [he, execVmov]
  rintro _ _ _ _ _ ⟨⟩

/-- An unpredicated vmov leaves in VD the register that VA holds. -/
theorem vmov_whole_wrote (h : VecRuns s t o c f) (hd : d.val < c.vregs.length) (hm : (c.v a).mark = none)
    (h0 : tagFmt (c.v a).tag ≠ 0) :
    ∃ s' c', exec (.vmov d a none) s = .next s' ∧ s'.vec t o = some c' ∧ VecWrote c c' f d (c.v a) := by
  rw [exec_vmov_whole h hm h0]
  by_cases e : d = a
  · rw [if_pos e]
    refine ⟨_, c.nextWord (s.after t o 1), rfl, by rw [vecAdvance_vec, h.vec]; rfl, by rw [e]; rfl, fun _ _ => rfl, rfl, ?_⟩
    rw [Vec.nextWord, h.firing]
    rfl
  · rw [if_neg e]
    have hv := vecAdvance_vec (s := s.putV t o d (c.v a)) (t := t) (o := o) (iv := 1)
    rw [putV_vec, h.vec, Option.map_some, Option.map_some] at hv
    exact ⟨_, _, rfl, hv, VecWrote.intro (g := fun _ => c.v a) h.firing hd rfl rfl rfl rfl⟩

theorem vperm_index {n : Nat} (h : n ∈ [0x9, 0xA]) : ¬(n ≠ 0x9 ∧ n ≠ 0xA) := by
  simp only [List.mem_cons, List.not_mem_nil, or_false] at h
  omega

/-- Settles O40: each movement runs the operation of R201 to R204 on the lanes it takes, or copies the register whole. -/
theorem vectorMovement : Obligations.VectorMovement := by
  unfold Obligations.VectorMovement
  refine ⟨fun r hr s t o c f d a n p h hd hm h0 hfit hp => ?_, fun s t o c f d a b p h hd hm h0 hsa hb hsb hp => ?_⟩
  · simp only [moveRows, List.mem_cons, List.not_mem_nil, or_false] at hr
    rcases hr with rfl | rfl | rfl
    · obtain ⟨s', c', h1, h2, h3, -⟩ := exec_vecOp_ok (u := exec (.vrot d a n p) s) rfl h hd hm (moveOut_ok h0 (.inl hfit)) (.inr hp)
      exact ⟨s', c', h1, h2, moveOut_reg ▸ h3⟩
    · obtain ⟨s', c', h1, h2, h3, -⟩ := exec_vecOp_ok (u := exec (.vsplat d a n p) s) rfl h hd hm
        ((if_neg (Nat.not_le_of_lt hfit.1)).trans (moveOut_ok h0 (.inl hfit.2))) (.inr hp)
      exact ⟨s', c', h1, h2, moveOut_reg ▸ h3⟩
    · cases p with
      | none =>
        have hmark := markOf_one hm
        obtain ⟨s', c', h1, h2, h3⟩ := vmov_whole_wrote h hd hmark h0
        exact ⟨s', c', h1, h2, (whole_blend hmark).symm ▸ h3⟩
      | some m =>
        obtain ⟨s', c', h1, h2, h3, -⟩ := exec_vecOp_ok exec_vmov_pred h hd hm (moveOut_ok h0 (.inr rfl)) (.inr hp)
        exact ⟨s', c', h1, h2, moveOut_reg ▸ h3⟩
  · have hc : ¬((tagFmt (c.v b).tag ≠ 0x9 ∧ tagFmt (c.v b).tag ≠ 0xA) ∨ tagScl (c.v b).tag = true) := by
      rintro (h | h)
      · exact vperm_index hb h
      · exact Bool.false_ne_true (hsb ▸ h)
    obtain ⟨s', c', h1, h2, h3, -⟩ := exec_vecOp_ok (u := exec (.vperm d a b p) s) rfl h hd hm
      ((if_neg hc).trans (moveOut_ok h0 (.inl hsa))) (.inr hp)
    rw [moveOut_reg, blend_map] at h3
    exact ⟨s', c', h1, h2, h3⟩

/-! ## Tags (R212, R220) -/

theorem modV_wrote {g : VReg → VReg} {fl : Vec → BitVec 3} {r : VReg} {u : State} (h : VecRuns s t o c f)
    (hd : d.val < c.vregs.length) (hu : u.vec t o = (s.vec t o).map fun c => { c.onV d g with flags := fl c })
    (hr : g (c.v d) = r) :
    ∃ c', (u.vecAdvance t o 1).vec t o = some c' ∧ VecWrote c c' f d r ∧ c'.flags = fl c := by
  have hv := vecAdvance_vec (s := u) (t := t) (o := o) (iv := 1)
  rw [hu, h.vec, Option.map_some, Option.map_some] at hv
  exact ⟨_, hv, VecWrote.intro (g := g) h.firing hd hr rfl rfl rfl, rfl⟩

/-! ### Bytes of block scales -/

/-- Bytes laid out from the least significant one on. -/
def byteSum (v : Nat → Nat) (n : Nat) : Nat := lsum ((List.range n).map fun k => v k * 2 ^ (8 * k))

theorem lsum_append_one (l : List Nat) (x : Nat) : lsum (l ++ [x]) = lsum l + x := by
  induction l with
  | nil => simp [lsum]
  | cons y l ih => rw [List.cons_append, lsum, lsum, ih, Nat.add_assoc]

theorem byteSum_succ {v : Nat → Nat} {n : Nat} : byteSum v (n + 1) = byteSum v n + v n * 2 ^ (8 * n) := by
  rw [byteSum, List.range_succ, List.map_append, List.map_singleton, lsum_append_one]
  rfl

theorem byteSum_lt {v : Nat → Nat} (hv : ∀ k, v k < 256) (n : Nat) : byteSum v n < 2 ^ (8 * n) := by
  induction n with
  | zero => exact Nat.one_pos
  | succ n ih =>
    have h : v n * 2 ^ (8 * n) ≤ 255 * 2 ^ (8 * n) := Nat.mul_le_mul_right _ (Nat.le_of_lt_succ (hv n))
    rw [byteSum_succ, show 8 * (n + 1) = 8 * n + 8 from rfl, Nat.pow_add]
    omega

theorem byteSum_byte {v : Nat → Nat} (hv : ∀ k, v k < 256) (n k : Nat) :
    byteSum v n / 2 ^ (8 * k) % 256 = if k < n then v k else 0 := by
  induction n with
  | zero => simp [byteSum, lsum]
  | succ n ih =>
    rcases lt_trichotomy k n with h | rfl | h
    · have hq : v n * 2 ^ (8 * n) = 2 ^ (8 * k) * (256 * (v n * 2 ^ (8 * (n - k - 1)))) := by
        have he : 8 * n = 8 * k + 8 + 8 * (n - k - 1) := by omega
        rw [he, Nat.pow_add, Nat.pow_add]
        ring
      rw [byteSum_succ, hq, Nat.add_mul_div_left _ _ (Nat.two_pow_pos _), Nat.add_mul_mod_self_left, ih, if_pos h,
        if_pos (Nat.lt_succ_of_lt h)]
    · rw [byteSum_succ, Nat.add_mul_div_right _ _ (Nat.two_pow_pos _), Nat.div_eq_of_lt (byteSum_lt hv k), Nat.zero_add,
        Nat.mod_eq_of_lt (hv k), if_pos (Nat.lt_succ_self k)]
    · have hlt : byteSum v (n + 1) < 2 ^ (8 * k) :=
        Nat.lt_of_lt_of_le (byteSum_lt hv (n + 1)) (Nat.pow_le_pow_right (by decide) (by omega))
      rw [Nat.div_eq_of_lt hlt, if_neg (by omega)]

theorem sideByte_byteSum {v : Nat → Nat} (hv : ∀ k, v k < 256) {n k : Nat} (hn : n ≤ 64) :
    sideByte (BitVec.ofNat 512 (byteSum v n)) k = if k < n then v k else 0 := by
  have hlt : byteSum v n < 2 ^ 512 := Nat.lt_of_lt_of_le (byteSum_lt hv n) (Nat.pow_le_pow_right (by decide) (by omega))
  rw [sideByte, BitVec.extractLsb'_toNat, BitVec.toNat_ofNat, Nat.mod_eq_of_lt hlt, Nat.shiftRight_eq_div_pow]
  exact byteSum_byte hv n k

/-- The number of scales of a BLK code (R183). -/
def scaleCount (bsz : BitVec 3) : Nat := if bsz = 1 then 32 else if bsz = 2 then 16 else 1

theorem scaleCount_le (bsz : BitVec 3) : scaleCount bsz ≤ 64 := by
  unfold scaleCount
  split
  · decide
  · split <;> decide

/-- The sidecar that vscale writes (R212). -/
def scaleSide (r : VReg) (bsz : BitVec 3) : BitVec 512 :=
  BitVec.ofNat 512 (byteSum (fun k => (r.lane k).toNat % 256) (scaleCount bsz))

theorem exec_vscale {bsz : BitVec 3} (h : VecRuns s t o c f) (hm : (c.v a).mark = none) (ha : tagFmt (c.v a).tag = 0xE)
    (hs : tagScl (c.v a).tag = false) (h0 : tagFmt (c.v d).tag ≠ 0) :
    exec (.vscale d a bsz) s = .next ((s.modVec t o fun x => x.onV d fun r =>
      { r with side := scaleSide (c.v a) bsz, tag := mkTag (tagFmt r.tag) true bsz.toNat }).vecAdvance t o 1) := by
  have he : exec (.vscale d a bsz) s = execVscale d a bsz s := rfl
  have hc : ¬(tagFmt (c.v a).tag ≠ 0xE ∨ tagScl (c.v a).tag = true ∨ tagFmt (c.v d).tag = 0) := by
    rintro (h | h | h)
    · exact h ha
    · exact Bool.false_ne_true (hs ▸ h)
    · exact h0 h
  rw [he, execVscale, h.curVec]
  dsimp only
  rw [hm]
  dsimp only
  rw [if_neg hc]
  have hn : scaleCount bsz = if bsz = 1 then 32 else if bsz = 2 then 16 else 1 := rfl
  split
  · next h1 =>
    rw [if_pos (BitVec.eq_of_toNat_eq h1)] at hn
    rw [scaleSide, hn]
    rfl
  · next h2 =>
    have h1 : bsz ≠ 1 := fun e => absurd (e ▸ h2) (by decide)
    rw [if_neg h1, if_pos (BitVec.eq_of_toNat_eq h2)] at hn
    rw [scaleSide, hn]
    rfl
  · next h1 h2 =>
    have e1 : bsz ≠ 1 := fun e => h1 (congrArg BitVec.toNat e)
    have e2 : bsz ≠ 2 := fun e => h2 (congrArg BitVec.toNat e)
    rw [if_neg e1, if_neg e2] at hn
    rw [scaleSide, hn]
    rfl

/-- Settles O42: each word on tags writes its register alone. -/
theorem vectorTags : Obligations.VectorTags := by
  unfold Obligations.VectorTags
  refine ⟨fun s t o c f d a bsz h hd hm ha hs h0 => ?_, fun s t o c f d fmt scl bsz h hd => ?_, fun s t o c f d a clr h hd => ?_⟩
  · obtain ⟨c', h1, h2, -⟩ := modV_wrote (fl := (·.flags)) h hd (modVec_vec_self (s := s) (g := fun x => x.onV d fun r =>
      { r with side := scaleSide (c.v a) bsz, tag := mkTag (tagFmt r.tag) true bsz.toNat })) rfl
    exact ⟨_, c', scaleSide (c.v a) bsz, exec_vscale h hm ha hs h0, h1, h2, fun k _ =>
      sideByte_byteSum (fun k => Nat.mod_lt _ (by decide)) (scaleCount_le bsz)⟩
  · have he : exec (.vtagSet d fmt scl bsz) s = execVtagSet d fmt scl bsz s := rfl
    rw [he, execVtagSet, h.curVec]
    obtain ⟨c', h1, h2, -⟩ := modV_wrote (fl := (·.flags)) h hd (modVec_vec_self (s := s) (g := fun x => x.onV d fun r =>
      { r with tag := mkTag fmt.toNat scl bsz.toNat, lanes := r.lanes.map fun x => BitVec.ofNat 32 (x.toNat % 2 ^ fmtBits fmt.toNat),
               side := if fmt = 0 then 0 else r.side })) rfl
    exact ⟨_, c', rfl, h1, h2⟩
  · have he : exec (.vtagGet d a clr) s = execVtagGet d a clr s := rfl
    rw [he, execVtagGet, h.curVec]
    cases clr with
    | false =>
      obtain ⟨c', h1, h2, h3⟩ := modV_wrote (fl := (·.flags)) h hd putV_vec rfl
      exact ⟨_, c', rfl, h1, h2, h3⟩
    | true =>
      have hu (r : VReg) : ((s.putV t o d r).modVec t o fun c => { c with flags := 0 }).vec t o =
          (s.vec t o).map fun c => { c.onV d (fun _ => r) with flags := 0 } := by
        rw [modVec_vec_self, putV_vec, Option.map_map]
        rfl
      obtain ⟨c', h1, h2, h3⟩ := modV_wrote (fl := fun _ => 0) h hd (hu _) rfl
      exact ⟨_, c', rfl, h1, h2, h3⟩

end Sys2Proof.Machine

namespace Sys2Proof.Machine

/-! PROOFS. Conversion and quantisation of vector registers (R189, R210, R211). -/

variable {s : State} {t o : Nat} {c : Vec} {f : Firing} {d a : VNum} {p : Pred} {rm : RmC}

/-- The stochastic state after the draws of a conversion (R189). -/
def Vec.drawn (c : Vec) (rm : RmC) (a : VNum) (p : Pred) : Word :=
  if rm = .sr then drawsX (c.writtenCount p (c.v a).vlen) c.x else c.x

theorem takeDraws_vec (h : VecRuns s t o c f) : (s.takeDraws rm a p).vec t o = some { c with x := c.drawn rm a p } := by
  rw [State.takeDraws, h.curVec, Vec.drawn]
  dsimp only
  split
  · rw [modVec_vec_self, h.vec]
    rfl
  · exact h.vec

theorem takeDraws_runs (h : VecRuns s t o c f) : VecRuns (s.takeDraws rm a p) t o { c with x := c.drawn rm a p } f where
  cur := by
    have hc : (s.takeDraws rm a p).cur = s.cur := by
      rw [State.takeDraws, h.curVec]
      dsimp only
      split <;> rfl
    rw [hc]
    exact h.cur
  vec := takeDraws_vec h
  firing := h.firing

theorem modOp_lctxOf {g : Op → Op} {t' : Nat} : (s.modOp t o g).lctxOf t' = s.lctxOf t' := by
  rw [State.lctxOf, State.lctxOf, State.modOp, modTask_task]
  split
  · cases s.task t' <;> rfl
  · rfl

theorem modVec_origin {g : Vec → Vec} {code : BitVec 7} : (s.modVec t o g).origin t o code = s.origin t o code := by
  rw [State.origin, State.origin, State.modVec, modOp_op_self, modOp_lctxOf]
  rcases s.op t o with _ | ⟨pl, fa, ff, re, po, hd, fi, k⟩
  · rfl
  · cases k <;> rfl

theorem takeDraws_origin (h : VecRuns s t o c f) {code : BitVec 7} :
    (s.takeDraws rm a p).origin t o code = s.origin t o code := by
  rw [State.takeDraws, h.curVec]
  dsimp only
  split
  · exact modVec_origin
  · rfl

theorem VecWrote.of_x {c' : Vec} {r : VReg} {x : Word} (h : VecWrote { c with x := x } c' f d r) : VecWrote c c' f d r :=
  ⟨h.dest, h.others, h.preds, h.next⟩

section
variable {g : Except (BitVec 7) VOut}

/-- A conversion with a result writes it, gathers its flags and has taken its draws. -/
theorem converted_ok {u : Out} {out : VOut}
    (hu : u = .next ((s.takeDraws rm a p).vecOp d [a] p 1 true fun _ _ => g)) (h : VecRuns s t o c f)
    (hd : d.val < c.vregs.length) (hm : c.markOf [a] p = none) (hg : g = .ok out) (ht : p = none ∨ (c.v d).tag = out.tag) :
    ∃ s' c', u = .next s' ∧ s'.vec t o = some c' ∧
      VecWrote c c' f d { lanes := blend c p d out.lanes.length fun i => out.lanes.getD i 0, tag := out.tag,
                          side := out.side.getD (c.v d).side, mark := none } ∧
      c'.flags = c.flags ||| out.flags ∧ c'.x = c.drawn rm a p := by
  obtain ⟨s', c', h1, h2, h3, h4, h5⟩ := exec_vecOp_ok hu (takeDraws_runs (rm := rm) (a := a) (p := p) h) hd hm hg (.inr ht)
  rw [VOut.reg, if_pos rfl, mergeLanes_eq_blend] at h3
  exact ⟨s', c', h1, h2, h3.of_x, h4, h5⟩

/-- A conversion that may not stand marks its destination. -/
theorem converted_error {u : Out} {code : BitVec 7}
    (hu : u = .next ((s.takeDraws rm a p).vecOp d [a] p 1 true fun _ _ => g)) (h : VecRuns s t o c f)
    (hd : d.val < c.vregs.length) (hm : c.markOf [a] p = none) (hg : g = .error code) :
    ∃ s' c', u = .next s' ∧ s'.vec t o = some c' ∧ VecWrote c c' f d ((c.v d).marked (s.origin t o code)) ∧
      c'.flags = c.flags := by
  obtain ⟨s', c', h1, h2, h3, h4, -⟩ := exec_vecOp_error hu (takeDraws_runs (rm := rm) (a := a) (p := p) h) hd hm hg
  rw [takeDraws_origin h] at h3
  exact ⟨s', c', h1, h2, h3.of_x, h4⟩

end

theorem exec_vcvt {fmt : BitVec 4} {sat nanp : Bool} (h : VecRuns s t o c f) : exec (.vcvt d a fmt rm sat nanp p) s =
    .next ((s.takeDraws rm a p).vecOp d [a] p 1 true fun _ _ => cvtOut (s.ftz (s.lctxOf t)) c a fmt.toNat rm sat nanp p) := by
  have he : exec (.vcvt d a fmt rm sat nanp p) s = execVcvt d a fmt rm sat nanp p s := rfl
  rw [he, execVcvt, h.curVec, h.ftzNow]
  rfl

theorem exec_vquant {fmt : BitVec 4} {bsz : BitVec 3} (h : VecRuns s t o c f) : exec (.vquant d a fmt rm bsz p) s =
    .next ((s.takeDraws rm a p).vecOp d [a] p 1 true fun _ _ => quantOut (s.ftz (s.lctxOf t)) c a fmt.toNat rm bsz.toNat p) := by
  have he : exec (.vquant d a fmt rm bsz p) s = execVquant d a fmt rm bsz p s := rfl
  rw [he, execVquant, h.curVec, h.ftzNow]
  rfl

/-- The tag and the sidecar of a converted register (R210). -/
theorem cvtOut_tag {z sat nanp : Bool} {fmt : Nat} {out : VOut} (h : cvtOut z c a fmt rm sat nanp p = .ok out) :
    out.tag = mkTag fmt false 0 ∧ out.side = none := by
  unfold cvtOut at h
  dsimp only at h
  split at h
  · cases h
  · split at h
    · cases h
    · cases h
      exact ⟨rfl, rfl⟩

/-- The tag of a quantised register (R211). -/
theorem quantOut_tag {z : Bool} {fmt blk : Nat} {out : VOut} (h : quantOut z c a fmt rm blk p = .ok out) :
    out.tag = mkTag fmt true blk := by
  unfold quantOut at h
  dsimp only at h
  split at h
  · cases h
  · cases h
    rfl

theorem quantOut_invalid {z : Bool} {fmt blk : Nat} (h : isFloat3 (tagFmt (c.v a).tag) = false ∨ tagScl (c.v a).tag = true) :
    quantOut z c a fmt rm blk p = .error Code.invalid := by
  have hc : okSources isFloat3 [c.v a] = false := by
    rw [okSources]
    rcases h with h | h
    · rw [h, Bool.false_and, Bool.and_false]
    · rw [h, Bool.not_true, Bool.and_false, Bool.and_false]
  exact if_pos (by rw [hc]; rfl)

/-- Settles O41: a conversion runs the operation of R201 to R204 after its draws. -/
theorem vectorConversion : Obligations.VectorConversion := by
  unfold Obligations.VectorConversion
  refine ⟨fun s t o c f d a fmt rm sat nanp p h hd hm => ⟨fun out hout hp => ?_, fun code hcode => ?_⟩,
    fun s t o c f d a fmt rm bsz p h hd hm => ⟨fun out hout hp => ?_, fun hbad => ?_⟩⟩
  · obtain ⟨htag, hside⟩ := cvtOut_tag hout
    have hw := converted_ok (exec_vcvt h) h hd hm hout (htag ▸ hp)
    rw [htag, hside] at hw
    exact hw
  · exact converted_error (exec_vcvt h) h hd hm hcode
  · have htag := quantOut_tag hout
    have hw := converted_ok (exec_vquant h) h hd hm hout (htag ▸ hp)
    rw [htag] at hw
    exact hw
  · exact converted_error (exec_vquant h) h hd hm (quantOut_invalid hbad)

end Sys2Proof.Machine

namespace Sys2Proof.Machine

/-! PROOFS. Reductions and scans (R196, R221). -/

variable {s : State} {t o : Nat} {c : Vec} {f : Firing} {d a : VNum} {p : Pred}

/-- Adding integer lanes is the addition of words. -/
theorem redOp_add_int32 : redOp .add 0x9 false .rne = fun x y => x + y := by
  funext x y
  have h : redOp .add 0x9 false .rne x y = wrapLane 0x9 (intElem 0x9 x + intElem 0x9 y) := rfl
  rw [h, wrapLane_int32, intElem_int32, intElem_int32, BitVec.ofInt_add, BitVec.ofInt_toInt, BitVec.ofInt_toInt]

theorem sum_zipWith_add (l m : List Word) (h : l.length = m.length) :
    (List.zipWith (fun x y => x + y) l m).sum = l.sum + m.sum := by
  induction l generalizing m with
  | nil =>
    rw [List.length_eq_zero_iff.mp h.symm]
    rfl
  | cons x l ih =>
    obtain ⟨y, m, rfl⟩ := List.exists_cons_of_length_eq_add_one h.symm
    rw [List.zipWith_cons_cons, List.sum_cons, List.sum_cons, List.sum_cons, ih m (Nat.succ.inj h)]
    ring

/-- The steps of vred on 2^n lanes leave their sum. -/
theorem redTree_add (n : Nat) (l : List Word) (h : l.length = 2 ^ n) : redTree (fun x y => x + y) n l = [l.sum] := by
  induction n generalizing l with
  | zero =>
    obtain ⟨x, rfl⟩ := List.length_eq_one_iff.mp h
    simp [redTree]
  | succ n ih =>
    have htake : (l.take (2 ^ n)).length = 2 ^ n := by
      rw [List.length_take, h, Nat.pow_succ]
      omega
    have hdrop : (l.drop (2 ^ n)).length = 2 ^ n := by
      rw [List.length_drop, h, Nat.pow_succ]
      omega
    rw [redTree, ih _ (by rw [List.length_zipWith, htake, hdrop, Nat.min_self]), sum_zipWith_add _ _ (htake.trans hdrop.symm),
      ← List.sum_append, List.take_append_drop]

theorem ofInt_sum (l : List Word) : BitVec.ofInt 32 (l.map BitVec.toInt).sum = l.sum := by
  induction l with
  | nil => rfl
  | cons x l ih => rw [List.map_cons, List.sum_cons, BitVec.ofInt_add, ih, BitVec.ofInt_toInt, List.sum_cons]

theorem vout_reg {tag : Byte} {l : List Word} : (vout tag l).reg c d p false =
    { lanes := l, tag := tag, side := (c.v d).side, mark := none } := rfl

/-- Settles O43: the reductions run the operation of R201 to R204 on the trees of R196, and the tree of an addition is a sum. -/
theorem vectorReductions : Obligations.VectorReductions := by
  unfold Obligations.VectorReductions
  refine ⟨fun s t o c f fn d a p rm h hd hm hok => ?_, fun l hl => ?_⟩
  · intro fmt op l
    refine ⟨?_, ?_⟩
    · obtain ⟨s', c', h1, h2, h3, -⟩ := exec_vecOp_ok (u := exec (.vred fn d a p rm) s) rfl h hd hm (if_pos hok) (.inl rfl)
      rw [vout_reg, h.ftzNow] at h3
      exact ⟨s', c', h1, h2, h3⟩
    · obtain ⟨s', c', h1, h2, h3, -⟩ := exec_vecOp_ok (u := exec (.vscan fn d a p rm) s) rfl h hd hm (if_pos hok) (.inl rfl)
      rw [vout_reg, h.ftzNow] at h3
      exact ⟨s', c', h1, h2, h3⟩
  · rw [redOp_add_int32, redTree_add 9 l hl, ofInt_sum]
    rfl

end Sys2Proof.Machine

namespace Sys2Proof.Machine

/-! PROOFS. A token of `vld` whose COUNT is larger than a wide token of the register's format (R217). -/

/-- A wide data token of COUNT 33, where a wide token of INT32 holds 32 elements. -/
def overfullToken : Token := { hdr := 0, count := 33, pay := 0 }

/-- A channel to port 0 of operator 0 that holds that token. -/
def overfullChan : Chan :=
  { (default : Chan) with prodOp := 90, prodPort := 4, consOp := 0, consPort := 0, net := .wide, prodHi := 9, consHi := 9,
                          endq := [{ tok := overfullToken, due := 0 }] }

/-- A vector actor of empty INT32 registers with a firing at its first word. -/
def overfullVec : Vec := { handVec [] 0 with vregs := List.replicate 32 { lanes := [], tag := 9, side := 0, mark := none } }

/-- That actor on its unit, with the token at port 0. -/
def overfullState : State :=
  { State.reset with tasks := [(0, { handTask (.vec overfullVec) with chans := [overfullChan] })], fc := 100, cur := .vec 0 0 }

/-- Whether the transfer in progress of operator 0 is bad, after an outcome. -/
def xferBad : Out → Option Bool
  | .next s => (s.vec 0 0).bind fun c => c.xfer.map fun x => x.bad.isSome
  | _ => none

/-- The first of two tokens makes the transfer bad. -/
theorem overfull_bad : xferBad (exec (.vld 0 0 1) overfullState) = some true := by decide

/-- What the statement asks of the unit, its port and its token. -/
theorem overfull_port : (0 : VNum).val < overfullVec.vregs.length ∧ overfullState.headTok 0 0 (0 : BitVec 2).toNat = some overfullToken ∧
    overfullState.behindDone 0 0 (0 : BitVec 2).toNat = none ∧ overfullState.popRate 0 0 (0 : BitVec 2).toNat 1 = none :=
  ⟨by decide, by rfl, by decide, by decide⟩

/-- A wide token of the register holds 32 elements. -/
theorem overfull_elems : fmtElems (tagFmt (overfullVec.v 0).tag) = 32 := by decide

/-- Refutes O44: a token whose COUNT exceeds the elements of a wide token gives all of them, and yet makes its transfer bad
(R217), where the statement has the transfer go on unmarked. -/
theorem not_vectorPorts : ¬ Obligations.VectorPorts := by
  unfold Obligations.VectorPorts
  rintro ⟨hvld, -⟩
  have hruns : VecRuns overfullState 0 0 overfullVec (newFiring 0 0 [] false 0) := ⟨rfl, rfl, rfl⟩
  obtain ⟨hlen, hhead, hbehind, hrate⟩ := overfull_port
  obtain ⟨hdata, -⟩ := hvld overfullState 0 0 overfullVec _ 0 0 1 overfullToken hruns hlen hhead hbehind hrate
  obtain ⟨-, hgo⟩ := hdata rfl (by decide) (by rw [overfull_elems]; decide) rfl
  obtain ⟨s', c', he, hv, -, hx⟩ := hgo (by decide) (by rw [overfull_elems]; rfl)
  have hbad := overfull_bad
  rw [he, xferBad, hv, Option.bind_some, hx] at hbad
  exact absurd hbad (by decide)

end Sys2Proof.Machine

namespace Sys2Proof.Machine

/-! PROOFS. What the shared operations of engines leave of an operator and of the state: commands that start and complete
(R224, R225), firings that are counted, and accesses of units. -/

variable {s u v : State} {t o t' o' : Nat} {p : Packet} {step step' : Inbox → Inbox → Prop}

/-! ## Commands -/

theorem command_ready {e : EngineRef} {ready : Bool} {go : State → State} (ho : s.inboxOpen e = true) (hr : ready = true) :
    s.command e ready go = go s := by
  rw [hr]
  exact command_run ho

/-- An inbox whose commands in order and whose count stay: a reply may change. -/
structure Answered (b b' : Inbox) : Prop where
  packets : b'.packets = b.packets
  started : b'.started = b.started

theorem Started.answered {a b c : Inbox} (h : Started a b) (h' : Answered b c) : Started a c :=
  ⟨h'.packets.trans h.packets, h'.started.trans h.started⟩

/-- From `s` to `u` the inbox of operator `o` changes as `step` says; besides it, only the cores' counts of outstanding commands
and the busy bits of contexts do. -/
structure CmdRan (step : Inbox → Inbox → Prop) (s : State) (t o : Nat) (u : State) : Prop where
  op : ∃ g : Inbox → Inbox, (∀ b, step b (g b)) ∧ u.op t o = (s.op t o).map fun q => { q with kind := q.kind.modInbox g }
  others : ∀ t' o', (t', o') ≠ (t, o) → u.op t' o' = s.op t' o'
  rest : ∃ tasks cores ctxs, u = { s with tasks := tasks, cores := cores, ctxs := ctxs }

theorem modInbox_modInbox {k : OpKind} {g h : Inbox → Inbox} : (k.modInbox g).modInbox h = k.modInbox (h ∘ g) := by
  cases k <;> rfl

theorem modInbox_id {k : OpKind} : k.modInbox id = k := by
  cases k <;> rfl

theorem CmdRan.refl (h : ∀ b, step b b) : CmdRan step s t o s where
  op := ⟨id, h, by
    cases s.op t o with
    | none => rfl
    | some q => simp only [Option.map_some, modInbox_id]⟩
  others _ _ _ := rfl
  rest := ⟨s.tasks, s.cores, s.ctxs, rfl⟩

theorem CmdRan.trans {st : Inbox → Inbox → Prop} (h : CmdRan step s t o u) (h' : CmdRan step' u t o v)
    (hs : ∀ a b c, step a b → step' b c → st a c) : CmdRan st s t o v where
  op := by
    obtain ⟨g, hg, hu⟩ := h.op
    obtain ⟨g', hg', hv⟩ := h'.op
    refine ⟨g' ∘ g, fun b => hs _ _ _ (hg b) (hg' _), ?_⟩
    rw [hv, hu]
    cases s.op t o with
    | none => rfl
    | some q => simp only [Option.map_some, modInbox_modInbox]
  others t' o' hne := (h'.others t' o' hne).trans (h.others t' o' hne)
  rest := by
    obtain ⟨_, _, _, rfl⟩ := h.rest
    obtain ⟨tasks, cores, ctxs, rfl⟩ := h'.rest
    exact ⟨tasks, cores, ctxs, rfl⟩

theorem modInbox_ran {g : Inbox → Inbox} (h : ∀ b, step b (g b)) : CmdRan step s t o (s.modInbox (.op t o) g) where
  op := ⟨g, h, modOp_op_self⟩
  others _ _ hne := modOp_op_other hne
  rest := ⟨_, s.cores, s.ctxs, rfl⟩

/-- The operators, and all but the cores and the contexts, are as before. -/
theorem CmdRan.of_tasks (h : CmdRan step s t o u) (ht : v.tasks = u.tasks)
    (hr : ∃ cores ctxs, v = { u with cores := cores, ctxs := ctxs }) : CmdRan step s t o v := by
  have hop : ∀ t' o', v.op t' o' = u.op t' o' := fun t' o' => by rw [State.op, State.op, State.task, State.task, ht]
  refine ⟨?_, fun t' o' hne => (hop t' o').trans (h.others t' o' hne), ?_⟩
  · obtain ⟨g, hg, hu⟩ := h.op
    exact ⟨g, hg, (hop t o).trans hu⟩
  · obtain ⟨_, _, _, rfl⟩ := h.rest
    obtain ⟨cores, ctxs, rfl⟩ := hr
    exact ⟨_, cores, ctxs, rfl⟩

theorem beginCmd_ran : CmdRan Started s t o (s.beginCmd (.op t o) p) :=
  CmdRan.of_tasks (modInbox_ran fun _ => ⟨rfl, rfl⟩) rfl ⟨_, _, rfl⟩

theorem coreCmdDone_rest {c : Option Nat} {copy : Bool} : ∃ cores, s.coreCmdDone c copy = { s with cores := cores } := by
  cases c with
  | none => exact ⟨s.cores, rfl⟩
  | some k => exact ⟨_, rfl⟩

theorem endCmd_ran {id status : Nat} : CmdRan Answered s t o (s.endCmd (.op t o) id status) := by
  unfold State.endCmd
  split
  · exact CmdRan.refl fun _ => ⟨rfl, rfl⟩
  · next r _ =>
    have h := modInbox_ran (s := s) (t := t) (o := o) (step := Answered)
      (g := fun b => b.setReply id fun x => { x with status := some status, doneAt := s.fc }) fun _ => ⟨rfl, rfl⟩
    obtain ⟨cores, hc⟩ := coreCmdDone_rest (s := s.modInbox (.op t o) fun b =>
      b.setReply id fun x => { x with status := some status, doneAt := s.fc }) (c := r.core) (copy := s.engineOf (.op t o) == 2)
    rw [hc]
    exact h.of_tasks rfl ⟨cores, _, rfl⟩

theorem oneStep_ran {status : Nat} : CmdRan Started s t o (s.oneStep (.op t o) p status) :=
  beginCmd_ran.trans endCmd_ran fun _ _ _ => Started.answered

/-! ## Matrix tiles -/

/-- The matrix tile of an operator. -/
def Op.matrix? (p : Op) : Option Matrix :=
  match p.kind with
  | .matrix m => some m
  | _ => none

theorem matrix_eq_op : s.matrix t o = (s.op t o).bind Op.matrix? := by
  rw [State.matrix]
  rcases s.op t o with _ | ⟨pl, fa, ff, re, po, hd, fi, k⟩
  · rfl
  · cases k <;> rfl

theorem matrix_congr (h : u.op t o = s.op t o) : u.matrix t o = s.matrix t o := by rw [matrix_eq_op, matrix_eq_op, h]

@[simp] theorem modMatrix_matrix_self {g : Matrix → Matrix} : (s.modMatrix t o g).matrix t o = (s.matrix t o).map g := by
  rw [matrix_eq_op, matrix_eq_op, State.modMatrix, modOp_op_self]
  rcases s.op t o with _ | ⟨pl, fa, ff, re, po, hd, fi, k⟩
  · rfl
  · cases k <;> rfl

/-- A change of an operator that keeps what it is, keeps its matrix tile. -/
theorem modOp_matrix {g : Op → Op} (h : ∀ p, (g p).kind = p.kind) : (s.modOp t o g).matrix t' o' = s.matrix t' o' := by
  rw [matrix_eq_op, matrix_eq_op]
  by_cases e : (t', o') = (t, o)
  · cases e
    rw [modOp_op_self]
    cases s.op t o <;> simp [Op.matrix?, h]
  · rw [modOp_op_other e]

theorem withdrawn_matrix (p : Op) : p.withdrawn.matrix? = p.matrix? := by
  obtain ⟨pl, fa, ff, re, po, hd, fi, k⟩ := p
  cases k <;> rfl

theorem CmdRan.matrix {m : Matrix} (h : CmdRan step s t o u) (hm : s.matrix t o = some m) :
    ∃ b, step m.inbox b ∧ u.matrix t o = some { m with inbox := b } := by
  obtain ⟨g, hg, hu⟩ := h.op
  rw [matrix_eq_op] at hm
  obtain ⟨q, hq, hk⟩ := Option.bind_eq_some_iff.mp hm
  refine ⟨g m.inbox, hg _, ?_⟩
  rw [matrix_eq_op, hu, hq, Option.map_some, Option.bind_some]
  unfold Op.matrix? at hk
  split at hk
  · next hkind =>
    cases hk
    simp only [Op.matrix?, hkind, OpKind.modInbox]
  · cases hk

@[simp] theorem pauseTasks_matrix {q : Nat → Task → Bool} : (s.pauseTasks q).matrix t' o' = s.matrix t' o' := by
  rw [matrix_eq_op, matrix_eq_op]
  rcases pauseTasks_op (s := s) (q := q) (t' := t') (o' := o') with h | h
  · rw [h]
  · rw [h, Option.bind_map]
    exact congrArg (Option.bind _) (funext withdrawn_matrix)

@[simp] theorem checkStopCond_matrix : (s.checkStopCond t o).matrix t' o' = s.matrix t' o' := by
  rcases checkStopCond_cases (s := s) (t := t) (o := o) with h | ⟨l, h⟩
  · rw [h]
  · rw [h]
    exact pauseTasks_matrix (s := s)

@[simp] theorem countFiring_matrix : (s.countFiring t o).matrix t' o' = s.matrix t' o' :=
  checkStopCond_matrix.trans (modOp_matrix fun _ => rfl)

/-! ## Changes of tasks alone -/

/-- From `s` to `u` only tasks and contexts change. -/
def TasksOnly (s u : State) : Prop := ∃ tasks ctxs, u = { s with tasks := tasks, ctxs := ctxs }

theorem TasksOnly.refl (s : State) : TasksOnly s s := ⟨s.tasks, s.ctxs, rfl⟩

theorem TasksOnly.trans (h : TasksOnly s u) (h' : TasksOnly u v) : TasksOnly s v := by
  obtain ⟨_, _, rfl⟩ := h
  obtain ⟨tasks, ctxs, rfl⟩ := h'
  exact ⟨tasks, ctxs, rfl⟩

theorem modTask_tasksOnly {g : Task → Task} : TasksOnly s (s.modTask t g) := ⟨_, s.ctxs, rfl⟩

theorem popTok_tasksOnly {q : Nat} : TasksOnly s (s.popTok t o q) := by
  unfold State.popTok
  split
  · exact ⟨_, s.ctxs, rfl⟩
  · exact TasksOnly.refl s

theorem pushTok_tasksOnly {q : Nat} {tok : Token} : TasksOnly s (s.pushTok t o q tok) := by
  unfold State.pushTok
  split
  · exact ⟨_, _, rfl⟩
  · exact TasksOnly.refl s

/-- The clock of an operator's tile is that of its place. -/
theorem after_congr {n : Nat} (h : TasksOnly s u) (hp : (u.op t o).map (·.place) = (s.op t o).map (·.place)) :
    u.after t o n = s.after t o n := by
  have e (x : State) : x.tileOf t o = (((x.op t o).map (·.place)).map fun a => tileKey a.x a.y).getD 0 := by
    rw [State.tileOf, Option.map_map]
    rfl
  have ht : u.tileOf t o = s.tileOf t o := by rw [e, e, hp]
  obtain ⟨_, _, rfl⟩ := h
  rw [State.after, State.after, ht]
  rfl

theorem modOp_place {g : Op → Op} (h : ∀ p, (g p).place = p.place) :
    ((s.modOp t o g).op t' o').map (·.place) = (s.op t' o').map (·.place) := by
  by_cases e : (t', o') = (t, o)
  · cases e
    rw [modOp_op_self]
    cases s.op t o <;> simp [h]
  · rw [modOp_op_other e]


end Sys2Proof.Machine

namespace Sys2Proof.Machine

/-! PROOFS. The commands of a matrix tile, its tokens, its output and its loads (R227 to R238). -/

variable {s u : State} {t o t' o' : Nat} {p : Packet} {m : Matrix} {tok : Token} {i : Instr}

/-! ## Records -/

theorem wantFsr_rest {l : Nat} : ∃ q, s.wantFsr l = { s with fsrQueue := q } := by
  unfold State.wantFsr
  split
  · split
    · exact ⟨_, rfl⟩
    · exact ⟨s.fsrQueue, rfl⟩
  · exact ⟨s.fsrQueue, rfl⟩

/-- A fault record is queued with its context and its launch (R384); no task and no byte of memory changes. -/
theorem queueRecord_rest {lctx l : Nat} {es : List (BitVec 256)} : ∃ n ctxs ls q nt, s.queueRecord lctx l es =
    { s with nextId := n, ctxs := ctxs, launches := ls, fsrQueue := q, notices := nt } := by
  unfold State.queueRecord
  split
  · exact ⟨s.nextId, s.ctxs, s.launches, s.fsrQueue, s.notices, rfl⟩
  split
  · next c _ _ =>
    obtain ⟨q, h⟩ := wantFsr_rest (s := (s.bumpId.modCtx lctx fun c => { c with faults := c.faults ++ es.map fun e => (l, e) }).modLaunch l fun x =>
      { x with recs := x.recs ++ es.map fun _ => s.nextId }) (l := l)
    exact ⟨_, _, _, q, _, h⟩
  · exact ⟨s.nextId, _, s.launches, s.fsrQueue, _, rfl⟩

theorem queueFault_rest {lctx l : Nat} {r : FaultRec} : ∃ n ctxs ls q nt, s.queueFault lctx l r =
    { s with nextId := n, ctxs := ctxs, launches := ls, fsrQueue := q, notices := nt } := queueRecord_rest

section
variable {who holder : Nat} {w detail : Word} {code : BitVec 7} {struct : Bool}

theorem taskRecord_op : (s.taskRecord t who w code struct holder detail).op t' o' = s.op t' o' := by
  unfold State.taskRecord
  split
  · rfl
  · refine (modTask_op fun k => by split <;> rfl).trans ?_
    obtain ⟨n, ctxs, ls, q, nt, h⟩ := queueFault_rest (s := s)
    rw [h]
    rfl

theorem taskRecord_mem : (s.taskRecord t who w code struct holder detail).mem = s.mem := by
  unfold State.taskRecord
  split
  · rfl
  · refine modTask_mem.trans ?_
    obtain ⟨n, ctxs, ls, q, nt, h⟩ := queueFault_rest (s := s)
    rw [h]

end

/-! ## Commands -/

theorem mxWhen_true {c : Matrix → Bool} (hm : s.matrix t o = some m) (hc : c m = true) : s.mxWhen t o c = true := by
  rw [State.mxWhen, hm]
  exact hc

/-- A command that starts and changes its matrix tile by `g`. -/
theorem gives_matrix {z : State} {g : Matrix → Matrix} {P : Matrix → Prop} (hm : s.matrix t o = some m)
    (hx : exec i z = .next (u.modMatrix t o g)) (hr : CmdRan Started s t o u) (hi : ∀ b, (g { m with inbox := b }).inbox = b)
    (hP : ∀ b, P (g { m with inbox := b })) :
    Gives i z fun s' => ∃ m', s'.matrix t o = some m' ∧ Started m.inbox m'.inbox ∧ P m' := by
  obtain ⟨b, hb, hu⟩ := hr.matrix hm
  refine ⟨_, hx, g { m with inbox := b }, ?_, (hi b).symm ▸ hb, hP b⟩
  rw [modMatrix_matrix_self, hu]
  rfl

theorem cmdId_matrix (hm : s.matrix t o = some m) : s.cmdId (.op t o) = m.inbox.started := by
  rw [matrix_eq_op] at hm
  obtain ⟨q, hq, hk⟩ := Option.bind_eq_some_iff.mp hm
  unfold Op.matrix? at hk
  split at hk
  · next hkind =>
    cases hk
    rw [State.cmdId, State.inbox, hq, Option.bind_some, hkind]
    rfl
  · cases hk

theorem aget_map_mem {α : Type} {g : Nat → α} {l : List Nat} {c : Nat} (h : c ∈ l) :
    aget c (l.map fun j => (j, g j)) = some (g c) := by
  induction l with
  | nil => cases h
  | cons j l ih =>
    by_cases e : j = c
    · rw [List.map_cons, aget, if_pos e, e]
    · rw [List.map_cons, aget, if_neg e]
      exact ih ((List.mem_cons.mp h).resolve_left fun x => e x.symm)

theorem aget_map_range {α : Type} {g : Nat → α} {n c : Nat} (h : c < n) :
    aget c ((List.range n).map fun j => (j, g j)) = some (g c) := aget_map_mem (List.mem_range.mpr h)

section
variable (hm : s.matrix t o = some m) (ho : s.inboxOpen (.op t o) = true)
include hm ho

theorem exec_mxCfg (h1 : m.opOpen = false) (h2 : m.load = none) (h3 : m.swapPending = none) :
    exec (.mxCfg t o p) s = .next ((s.oneStep (.op t o) p 0).modMatrix t o fun m =>
      { m with configured := true, afmt := ((p.dbl 1).extractLsb' 53 4).toNat, wfmt := ((p.dbl 1).extractLsb' 50 3).toNat,
               mx := ((p.dbl 1).extractLsb' 49 1).toNat == 1, ncol := ((p.dbl 1).extractLsb' 42 7).toNat + 1,
               rows := ((p.dbl 1).extractLsb' 34 8).toNat + 1, kpass := ((p.dbl 1).extractLsb' 30 4).toNat + 1,
               active := emptyPlane ((p.dbl 1).extractLsb' 50 3).toNat, shadow := emptyPlane ((p.dbl 1).extractLsb' 50 3).toNat,
               cs := [], csPoison := none, acc := [], marks := [], ea := [], armed := 0, pass := 0, partialRows := false }) :=
  congrArg Host.Outcome.next (command_ready ho (mxWhen_true hm (by rw [h1, h2, h3]; rfl)))

/-- The load that a mx.loadw begins (R230). -/
def State.newLoad (s : State) (t o : Nat) (p : Packet) : Load :=
  { stream := (p.dbl 2).getLsbD 63, va := p.dbl 2, taken := 0, scaled := none, lines := [], poison := none,
    reply := s.cmdId (.op t o),
    at_ := if (p.dbl 2).getLsbD 63 then s.after t o 1 else s.after t o (1 + imageLines (((s.matrix t o).map (·.wfmt)).getD 0)) }

theorem exec_mxLoadw (h1 : m.load = none) (h2 : m.swapPending = none) (h3 : m.configured = true) :
    exec (.mxLoadw t o p) s = .next ((s.beginCmd (.op t o) p).modMatrix t o fun m => { m with load := some (s.newLoad t o p) }) := by
  have he : exec (.mxLoadw t o p) s = execMxLoadw t o p s := rfl
  rw [he, execMxLoadw]
  dsimp only
  rw [command_ready ho (mxWhen_true hm (by rw [h1, h2]; rfl)), hm]
  dsimp only
  rw [h3, State.newLoad, hm]
  rfl

theorem exec_mxSwap (h : m.swapPending = none) : exec (.mxSwap t o p) s =
    .next ((s.beginCmd (.op t o) p).modMatrix t o fun x => { x with swapPending := some m.inbox.started, swapAfter := x.opOpen }) := by
  have he : exec (.mxSwap t o p) s = execMxSwap t o p s := rfl
  rw [he, execMxSwap]
  dsimp only
  rw [command_ready ho (mxWhen_true hm (by rw [h]; rfl)), cmdId_matrix hm]

theorem exec_mxArm (h1 : m.opOpen = false) (h2 : m.configured = true)
    (h3 : m.kpass ≤ 1 ∨ ((p.dbl 1).extractLsb' 0 32).toNat = m.rows) : exec (.mxArm t o p) s =
    .next ((s.beginCmd (.op t o) p).modMatrix t o fun x =>
      { x with armed := ((p.dbl 1).extractLsb' 0 32).toNat, opOpen := true, idx := 0, armReply := s.cmdId (.op t o), partialRows := false,
               acc := if x.partialRows then [] else x.acc, marks := if x.partialRows then [] else x.marks }) := by
  have he : exec (.mxArm t o p) s = execMxArm t o p s := rfl
  have hc : ¬((!m.configured) = true ∨ (m.kpass > 1 ∧ ((p.dbl 1).extractLsb' 0 32).toNat ≠ m.rows)) := by
    rw [h2]
    rintro (h | ⟨h, h'⟩)
    · cases h
    · omega
  rw [he, execMxArm]
  dsimp only
  rw [command_ready ho (mxWhen_true hm (by rw [h1]; rfl)), hm]
  dsimp only
  rw [if_neg hc]

theorem exec_mxScale_word (h1 : m.opOpen = false) (h2 : (p.dbl 1).getLsbD 56 = true) : exec (.mxScale t o p) s =
    .next ((s.oneStep (.op t o) p 0).modMatrix t o fun x =>
      { x with cs := (List.range 128).map fun c => (c, (p.dbl 1).extractLsb' 0 32), csPoison := none }) := by
  have he : exec (.mxScale t o p) s = execMxScale t o p s := rfl
  rw [he, execMxScale]
  rw [command_ready ho (mxWhen_true hm (by rw [h1]; rfl)), if_pos h2]

theorem exec_mxScale_mem {ks : List Nat} (h1 : m.opOpen = false) (h2 : (p.dbl 1).getLsbD 56 = false)
    (hk : s.unitKeys t o (p.dbl 2).toNat 512 0 = .at_ ks) : exec (.mxScale t o p) s =
    .next (((s.touchKeys ks).oneStep (.op t o) p 0).modMatrix t o fun x =>
      { x with cs := (List.range 128).map fun c => (c, BitVec.ofNat 32 (s.readKeys ks / 2 ^ (32 * c))), csPoison := none }) := by
  have he : exec (.mxScale t o p) s = execMxScale t o p s := rfl
  rw [he, execMxScale]
  rw [command_ready ho (mxWhen_true hm (by rw [h1]; rfl)), if_neg (Bool.eq_false_iff.mp h2), State.unitRead, hk]

theorem exec_mxDrain_out (h1 : m.opOpen = false)
    (h2 : ((p.dbl 1).extractLsb' 49 8).toNat + ((p.dbl 1).extractLsb' 41 8).toNat + 1 ≤ m.rows)
    (h3 : (p.dbl 1).getLsbD 40 = false) : exec (.mxDrain t o p) s =
    .next ((s.beginCmd (.op t o) p).modMatrix t o fun x =>
      { x with out := x.out ++ ((List.range (((p.dbl 1).extractLsb' 41 8).toNat + 1)).map fun i =>
                 x.rowOut (((p.dbl 1).extractLsb' 49 8).toNat + i) Kind.data 0).flatten,
               drains := x.drains ++ [((((p.dbl 1).extractLsb' 41 8).toNat + 1) * x.rowToks, s.cmdId (.op t o))],
               pushAt := max x.pushAt (s.after t o 1) }) := by
  have he : exec (.mxDrain t o p) s = execMxDrain t o p s := rfl
  rw [he, execMxDrain]
  dsimp only
  rw [command_ready ho (mxWhen_true hm (by rw [h1]; rfl)), hm]
  dsimp only
  rw [if_neg (by omega), h3]
  rfl

/-- Rows written to memory: the command ends, with a record where one of them is marked (R236). -/
theorem exec_mxDrain_mem {v : State} (h1 : m.opOpen = false)
    (h2 : ((p.dbl 1).extractLsb' 49 8).toNat + ((p.dbl 1).extractLsb' 41 8).toNat + 1 ≤ m.rows)
    (h3 : (p.dbl 1).getLsbD 40 = true)
    (hk : ∀ z, s.unitKeys t o (p.dbl 2).toNat (512 * (((p.dbl 1).extractLsb' 41 8).toNat + 1)) 1 ≠ .wait z)
    (hr : s.mxRows t o m (p.dbl 2).toNat ((p.dbl 1).extractLsb' 49 8).toNat (((p.dbl 1).extractLsb' 41 8).toNat + 1) = .ok v) :
    Gives (.mxDrain t o p) s fun s' => s'.mem = v.mem := by
  have he : exec (.mxDrain t o p) s = execMxDrain t o p s := rfl
  have hmem (n : Nat) : (v.oneStep (.op t o) p n).mem = v.mem := by
    obtain ⟨_, _, _, h⟩ := (oneStep_ran (s := v) (t := t) (o := o) (p := p) (status := n)).rest
    rw [h]
  unfold Gives
  rw [he, execMxDrain]
  dsimp only
  rw [command_ready ho (mxWhen_true hm (by rw [h1]; rfl)), hm]
  dsimp only
  rw [if_neg (by omega), h3, if_neg (by decide), hr]
  refine ⟨_, rfl, ?_⟩
  cases hu : s.unitKeys t o (p.dbl 2).toNat (512 * (((p.dbl 1).extractLsb' 41 8).toNat + 1)) 1 with
  | wait z => exact absurd hu (hk z)
  | at_ ks =>
    dsimp only
    split
    · exact taskRecord_mem.trans (hmem 2)
    · exact hmem 0
  | fault z =>
    dsimp only
    split
    · exact taskRecord_mem.trans (hmem 2)
    · exact hmem 0

theorem exec_mxZero (h : m.opOpen = false) : exec (.mxZero t o p) s =
    .next ((s.oneStep (.op t o) p 0).modMatrix t o fun m =>
      { m with acc := if (p.dbl 1).getLsbD 56 then [] else m.acc, marks := if (p.dbl 1).getLsbD 56 then [] else m.marks,
               ea := if (p.dbl 1).getLsbD 55 then [] else m.ea, flags := if (p.dbl 1).getLsbD 54 then 0 else m.flags,
               pass := if (p.dbl 1).getLsbD 53 then 0 else m.pass }) :=
  congrArg Host.Outcome.next (command_ready ho (mxWhen_true hm (by rw [h]; rfl)))

theorem exec_mxStat {v : State} (hw : s.unitWrite t o (p.dbl 2).toNat 32 m.stat = .ok v) : exec (.mxStat t o p) s =
    .next ((v.oneStep (.op t o) p 0).modMatrix t o fun m => { m with flags := if (p.dbl 1).getLsbD 56 then 0 else m.flags }) := by
  have he : exec (.mxStat t o p) s = execMxStat t o p s := rfl
  rw [he, execMxStat]
  rw [command_ready ho rfl, hm]
  dsimp only
  rw [hw]

end

/-! ## Tokens (R231 to R234) -/

theorem foldl_rest {f : Matrix → Nat → Matrix} (hf : ∀ x c, ∃ acc flags, f x c = { x with acc := acc, flags := flags })
    (l : List Nat) (x : Matrix) : ∃ acc flags, l.foldl f x = { x with acc := acc, flags := flags } := by
  induction l generalizing x with
  | nil => exact ⟨x.acc, x.flags, rfl⟩
  | cons c l ih =>
    obtain ⟨_, _, h⟩ := hf x c
    obtain ⟨acc, flags, h'⟩ := ih (f x c)
    exact ⟨acc, flags, by rw [List.foldl_cons, h', h]⟩

/-- A token only changes accumulators and flags. -/
theorem compute_rest {row : Nat} : ∃ acc flags, m.compute tok row = { m with acc := acc, flags := flags } :=
  foldl_rest (fun _ _ => ⟨_, _, rfl⟩) _ m

/-- What the tile is after it has taken a token (R232, R233), but for its times. -/
structure Took (m m' : Matrix) (acc : List (Nat × Word)) (out : List Token) : Prop where
  acc : m'.acc = acc
  out : m'.out = out
  idx : m'.idx = m.idx
  armed : m'.armed = m.armed
  pushAt : m'.pushAt = m.pushAt

theorem CmdRan.took {step : Inbox → Inbox → Prop} (h : CmdRan step s t o u) (hm : s.matrix t o = some m) :
    ∃ m', u.matrix t o = some m' ∧ Took m m' m.acc m.out := by
  obtain ⟨b, -, hu⟩ := h.matrix hm
  exact ⟨_, hu, rfl, rfl, rfl, rfl, rfl⟩

theorem mxSettle_matrix (hm : s.matrix t o = some m) : ∃ m', (s.mxSettle t o).matrix t o = some m' ∧ Took m m' m.acc m.out := by
  have hself : ∃ m', s.matrix t o = some m' ∧ Took m m' m.acc m.out := ⟨m, hm, rfl, rfl, rfl, rfl, rfl⟩
  rw [State.mxSettle, hm]
  dsimp only
  split
  · next h =>
    simp only [Bool.and_eq_true, beq_iff_eq] at h
    obtain ⟨⟨hopen, harmed⟩, -⟩ := h
    rw [State.mxOpEnd, hm]
    dsimp only
    rw [hopen, if_neg (by decide)]
    have hmod := modMatrix_matrix_self (s := s) (t := t) (o := o) (g := fun x =>
      { x with opOpen := false, armed := 0, pass := if 0 = 0 then (m.pass + 1) % m.kpass else 0, ops := x.ops + 1, swapAfter := false })
    rw [hm] at hmod
    obtain ⟨m', hm', h1, h2, h3, h4, h5⟩ := (endCmd_ran (id := m.armReply) (status := 0)).took hmod
    exact ⟨m', hm', h1, h2, h3, h4.trans harmed.symm, h5⟩
  · exact hself


theorem isData_kind (h : tok.isData = true) : tok.kind ≠ Kind.scale ∧ tok.isClose = false ∧ tok.isPoison = false := by
  rw [Token.isData, Bool.or_eq_true, beq_iff_eq, beq_iff_eq] at h
  rw [Token.isClose, Token.isPoison]
  rcases h with h | h <;> rw [h] <;> decide

/-- The tile with a token that no poison marks. -/
def Matrix.taken (m : Matrix) (tok : Token) : Matrix :=
  let z := m.compute tok (m.idx % m.rows)
  if m.pass + 1 = m.kpass then
    { z.clearRow (m.idx % m.rows) with out := z.out ++ z.rowOut (m.idx % m.rows) tok.kind (hdrTag tok.hdr) }
  else z

/-- The state with the tile and its times after such a token, before its operation is settled. -/
def State.mxTook (s : State) (t o : Nat) (m : Matrix) (tok : Token) : State :=
  ((s.resetRates t o).popTok t o mxIn).modMatrix t o fun x =>
    { m.taken tok with armed := m.armed - 1, idx := m.idx + 1, tokens := m.tokens + 1,
                       takeAt := s.after t o (s.mxGap (m.taken tok)), pushAt := s.after t o 1, swapPending := m.swapPending,
                       inbox := x.inbox }

theorem mxTake_eq (hd : tok.isData = true) (h1 : m.swapPending = none) (h2 : m.active.poison = none) (h3 : m.csPoison = none) :
    s.mxTake t o m tok = (((s.mxTook t o m tok).mxSettle t o).busy ((s.mxTook t o m tok).lctxOf t)).countFiring t o := by
  obtain ⟨-, -, hp⟩ := isData_kind hd
  simp only [State.mxTake, State.mxTook, Matrix.taken, hp, h1, h2, h3, Option.isSome_none, Bool.and_false, Bool.false_and,
    Bool.false_eq_true, if_false, beq_iff_eq]

theorem mxOpen_matrix (h : s.mxOpen t o = some m) : s.matrix t o = some m := by
  unfold State.mxOpen at h
  split at h
  · next hm =>
    split at h
    · exact hm.trans h
    · cases h
  · cases h

/-- Taking a token runs the array on it. -/
theorem exec_matrixTokenTake (h : s.mxOpen t o = some m) (hb : s.behindDone t o mxIn = none) (ht : s.headTok t o mxIn = some tok)
    (hd : tok.isData = true) (hopen : m.opOpen = true) (ha : 0 < m.armed) (hat : m.takeAt ≤ s.fc) (hs : m.swapPending = none)
    (hout : m.pass + 1 = m.kpass → m.out = []) :
    exec (.matrixTokenTake t o) s = .next (s.mxTake t o m tok) := by
  have he : exec (.matrixTokenTake t o) s = execMatrixTokenTake t o s := rfl
  obtain ⟨hscale, hclose, -⟩ := isData_kind hd
  have hlast : (m.pass + 1 == m.kpass && !m.out.isEmpty) = false := by
    by_cases e : m.pass + 1 = m.kpass
    · rw [hout e]
      exact Bool.and_false _
    · rw [beq_eq_false_iff_ne.mpr e, Bool.false_and]
  have hwait : (!m.opOpen || m.armed == 0 || (m.pass + 1 == m.kpass && !m.out.isEmpty) || decide (m.takeAt > s.fc) ||
      (m.idx == 0 && m.swapPending.isSome && !m.swapAfter && m.load.isSome)) = false := by
    rw [hopen, hlast, hs, beq_eq_false_iff_ne.mpr (by omega), decide_eq_false (by omega)]
    simp
  rw [he, execMatrixTokenTake, h]
  dsimp only
  rw [hb, ht]
  dsimp only
  rw [State.mxToken, if_neg hscale, hclose, if_neg Bool.false_ne_true]
  exact congrArg Host.Outcome.next (if_neg (Bool.eq_false_iff.mp hwait))

/-- The tile after a token that no poison marks. -/
theorem mxTake_gives (hm : s.matrix t o = some m) (hd : tok.isData = true) (h1 : m.swapPending = none)
    (h2 : m.active.poison = none) (h3 : m.csPoison = none) :
    ∃ m', (s.mxTake t o m tok).matrix t o = some m' ∧ m'.acc = (m.taken tok).acc ∧ m'.out = (m.taken tok).out ∧
      m'.idx = m.idx + 1 ∧ m'.armed = m.armed - 1 := by
  have htook : (s.mxTook t o m tok).matrix t o = some
      { m.taken tok with armed := m.armed - 1, idx := m.idx + 1, tokens := m.tokens + 1,
                         takeAt := s.after t o (s.mxGap (m.taken tok)), pushAt := s.after t o 1, swapPending := m.swapPending,
                         inbox := m.inbox } := by
    rw [State.mxTook, modMatrix_matrix_self, matrix_congr popTok_op, matrix_congr resetRates_op, hm]
    rfl
  obtain ⟨m', hm', ha, ho, hi, har, -⟩ := mxSettle_matrix htook
  refine ⟨m', ?_, ha, ho, hi, har⟩
  rw [mxTake_eq hd h1 h2 h3, countFiring_matrix]
  exact hm'

theorem taken_more (h : m.pass + 1 ≠ m.kpass) : (m.taken tok).acc = (m.compute tok (m.idx % m.rows)).acc ∧ (m.taken tok).out = m.out := by
  obtain ⟨acc, flags, hc⟩ := compute_rest (m := m) (tok := tok) (row := m.idx % m.rows)
  rw [Matrix.taken]
  dsimp only
  rw [if_neg h, hc]
  exact ⟨rfl, rfl⟩

theorem taken_last (h : m.pass + 1 = m.kpass) (hout : m.out = []) :
    (m.taken tok).acc = ((m.compute tok (m.idx % m.rows)).clearRow (m.idx % m.rows)).acc ∧
    (m.taken tok).out = (m.compute tok (m.idx % m.rows)).rowOut (m.idx % m.rows) tok.kind (hdrTag tok.hdr) := by
  obtain ⟨acc, flags, hc⟩ := compute_rest (m := m) (tok := tok) (row := m.idx % m.rows)
  have hz : (m.compute tok (m.idx % m.rows)).out = [] := by rw [hc]; exact hout
  rw [Matrix.taken]
  dsimp only
  rw [if_pos h]
  dsimp only
  rw [hz, List.nil_append]
  exact ⟨rfl, rfl⟩

/-! ## Output (R234) -/

theorem PushOk.fits {q : Nat} (h : PushOk s t o q tok) : (!s.canPush t o q 1) = false := by rw [h.ready]; rfl

/-- The state with an output token pushed, which an unbound output sinks when it is poison (R373). -/
def State.mxPushed (s : State) (t o : Nat) (tok : Token) : State :=
  if (s.pushTok t o mxOut tok).outBound t o mxOut || !tok.isPoison then s.pushTok t o mxOut tok
  else (s.pushTok t o mxOut tok).sinkPoison t o tok.word

theorem mxPushed_matrix : (s.mxPushed t o tok).matrix t' o' = s.matrix t' o' := by
  unfold State.mxPushed
  split
  · exact matrix_congr pushTok_op
  · exact (modOp_matrix fun p => by split <;> rfl).trans (matrix_congr pushTok_op)

theorem mxPushed_after {n : Nat} : (s.mxPushed t o tok).after t o n = s.after t o n := by
  have h : (s.pushTok t o mxOut tok).after t o n = s.after t o n := after_congr pushTok_tasksOnly (by rw [pushTok_op])
  unfold State.mxPushed
  split
  · exact h
  · exact (after_congr modTask_tasksOnly (modOp_place fun p => by split <;> rfl)).trans h

/-- The tile and the state with its oldest output token pushed. -/
def State.mxOutput (s : State) (t o : Nat) (m : Matrix) (tok : Token) (rest : List Token) (drains : List (Nat × Nat)) : State :=
  (s.mxPushed t o tok).modMatrix t o fun m => { m with out := rest, pushAt := (s.mxPushed t o tok).after t o 1, drains := drains }

theorem mxOutput_matrix {rest : List Token} {drains : List (Nat × Nat)} (hm : s.matrix t o = some m) :
    (s.mxOutput t o m tok rest drains).matrix t o = some { m with out := rest, pushAt := s.after t o 1, drains := drains } := by
  rw [State.mxOutput, modMatrix_matrix_self, mxPushed_matrix, mxPushed_after, hm]
  rfl

theorem exec_matrixOutputPush {rest : List Token} (hm : s.matrix t o = some m) (hg : s.goesOn t = true)
    (hz : s.frozen t o = false) (hu : s.unitTicks t o = true) (hat : m.pushAt ≤ s.fc) (hout : m.out = tok :: rest)
    (hp : PushOk s t o mxOut tok) :
    Gives (.matrixOutputPush t o) s fun s' => ∃ m', s'.matrix t o = some m' ∧ m'.out = rest ∧ m'.pushAt = s.after t o 1 := by
  have he : exec (.matrixOutputPush t o) s = execMatrixOutputPush t o s := rfl
  have hw : (!s.goesOn t || s.frozen t o || !s.unitTicks t o || decide (m.pushAt > s.fc) || !s.canPush t o mxOut 1) = false := by
    rw [hg, hz, hu, hp.fits, decide_eq_false (by omega)]
    rfl
  unfold Gives
  rw [he, execMatrixOutputPush, hm]
  dsimp only
  rw [hw, if_neg Bool.false_ne_true, hout]
  dsimp only
  rw [hp.rate]
  have key (u : State) (drains : List (Nat × Nat)) (hu : u = s.mxOutput t o m tok rest drains ∨
      ∃ id, u = (s.mxOutput t o m tok rest drains).endCmd (.op t o) id 0) :
      ∃ m', (u.mxSettle t o).matrix t o = some m' ∧ m'.out = rest ∧ m'.pushAt = s.after t o 1 := by
    have ho := mxOutput_matrix (tok := tok) (rest := rest) (drains := drains) hm
    rcases hu with rfl | ⟨id, rfl⟩
    · obtain ⟨m', hm', -, h1, -, -, h2⟩ := mxSettle_matrix ho
      exact ⟨m', hm', h1, h2⟩
    · obtain ⟨m₁, hm₁, -, h1, -, -, h2⟩ := (endCmd_ran (id := id) (status := 0)).took ho
      obtain ⟨m', hm', -, h1', -, -, h2'⟩ := mxSettle_matrix hm₁
      exact ⟨m', hm', h1'.trans h1, h2'.trans h2⟩
  rcases m.drains with _ | ⟨⟨n, id⟩, more⟩
  · exact ⟨_, rfl, key _ _ (.inl rfl)⟩
  · refine ⟨_, rfl, ?_⟩
    dsimp only
    split
    · exact key _ _ (.inr ⟨id, rfl⟩)
    · exact key _ _ (.inl rfl)

/-! ## Loads (R230) -/

theorem touchKeys_cases (ks : List Nat) : ∃ q, s.touchKeys ks = { s with power := q } := by
  unfold State.touchKeys
  generalize ks.zipIdx.filter (fun x => x.2 = 0 || x.1 % 64 = 0) = l
  induction l generalizing s with
  | nil => exact ⟨s.power, rfl⟩
  | cons x l ih =>
    obtain ⟨q, hq⟩ := touchKey_cases (s := s) x.1
    obtain ⟨q', hq'⟩ := ih (s := { s with power := q })
    exact ⟨q', by rw [List.foldl_cons, hq]; exact hq'⟩

theorem touchKeys_op {ks : List Nat} : (s.touchKeys ks).op t' o' = s.op t' o' := by
  obtain ⟨q, hq⟩ := touchKeys_cases (s := s) ks
  rw [hq]
  rfl

/-- A unit's write changes no operator. -/
theorem unitWrite_op {va n v : Nat} {z : State} (h : s.unitWrite t o va n v = .ok z) : z.op t' o' = s.op t' o' := by
  unfold State.unitWrite at h
  split at h
  · cases h
  · cases h
  · next ks _ =>
    split at h
    · cases h
    · obtain rfl := Stored.ok.inj h
      obtain ⟨n', l, hl⟩ := unitSpan_cases (s := ({ s with mem := writeKeys s.mem ks v } : State).touchKeys ks) (t := t) (o := o) 0 true ks
      rw [hl]
      exact touchKeys_op (s := { s with mem := writeKeys s.mem ks v })

/-- A load that completes leaves the active plane (R230). -/
theorem mxLoaded_matrix {ld : Load} {img : Nat} {eb : List Nat} (hm : s.matrix t o = some m) :
    ∃ m', (s.mxLoaded t o m ld img eb).matrix t o = some m' ∧ m'.load = none ∧ m'.active = m.active := by
  have key (g : Matrix → Matrix) (hl : (g m).load = none) (ha : (g m).active = m.active) (status : Nat) :
      ∃ m', ((s.modMatrix t o g).endCmd (.op t o) ld.reply status).matrix t o = some m' ∧ m'.load = none ∧ m'.active = m.active := by
    have hmod : (s.modMatrix t o g).matrix t o = some (g m) := by rw [modMatrix_matrix_self, hm]; rfl
    obtain ⟨b, -, hb⟩ := (endCmd_ran (id := ld.reply) (status := status)).matrix hmod
    exact ⟨_, hb, hl, ha⟩
  unfold State.mxLoaded
  dsimp only
  split
  · rw [matrix_congr taskRecord_op]
    refine key _ ?_ ?_ 2 <;> rfl
  · refine key _ ?_ ?_ 0 <;> rfl

/-- The keys of the lines of a load. -/
def State.loadKeys (s : State) (t o : Nat) (m : Matrix) (ld : Load) : List UnitKeys :=
  (List.range (imageLines m.wfmt + if m.mx then 1 else 0)).map fun i => s.unitKeys t o (ld.lineVa i) 64 0

theorem foldl_touch_power {l : List UnitKeys} {f : State → UnitKeys → State} (hf : ∀ s k, ∃ q, f s k = { s with power := q }) :
    ∃ q, l.foldl f s = { s with power := q } := by
  induction l generalizing s with
  | nil => exact ⟨s.power, rfl⟩
  | cons k l ih =>
    obtain ⟨q, hq⟩ := hf s k
    obtain ⟨q', hq'⟩ := ih (s := { s with power := q })
    exact ⟨q', by rw [List.foldl_cons, hq]; exact hq'⟩

theorem loadKeys_ready {ld : Load} (h : ∀ i z, i ≤ imageLines m.wfmt → s.unitKeys t o (ld.lineVa i) 64 0 ≠ .wait z)
    {g : UnitKeys → Option State} (hg : ∀ k, (∀ z, k ≠ .wait z) → g k = none) : (s.loadKeys t o m ld).findSome? g = none := by
  rw [List.findSome?_eq_none_iff]
  intro k hk
  obtain ⟨i, hi, rfl⟩ := List.mem_map.mp hk
  refine hg _ fun z => h i z ?_
  have := List.mem_range.mp hi
  split at this <;> omega

theorem readLines_matrix {c : Prop} [Decidable c] {l : List UnitKeys} {f : State → UnitKeys → State}
    (hf : ∀ s k, ∃ q, f s k = { s with power := q }) :
    (if c then l.foldl f s else (l.foldl f s).dropUsersOf t o).matrix t o = s.matrix t o := by
  obtain ⟨q, hq⟩ := foldl_touch_power (s := s) (l := l) hf
  rw [hq]
  split <;> rfl

theorem mxLines_matrix {ld : Load} (hm : s.matrix t o = some m)
    (h : ∀ i z, i ≤ imageLines m.wfmt → s.unitKeys t o (ld.lineVa i) 64 0 ≠ .wait z) :
    ∃ m', (s.mxLines t o m ld).matrix t o = some m' ∧ m'.load = none ∧ m'.active = m.active := by
  unfold State.mxLines
  dsimp only
  split
  · next z hz =>
    rw [← State.loadKeys, loadKeys_ready h] at hz
    · cases hz
    · intro k hk
      cases k with
      | wait z => exact absurd rfl (hk z)
      | _ => rfl
  · refine mxLoaded_matrix ((readLines_matrix fun s k => ?_).trans hm)
    cases k with
    | at_ ks => exact touchKeys_cases ks
    | _ => exact ⟨s.power, rfl⟩

theorem exec_mxLoadw_lines {ld : Load} (hm : s.matrix t o = some m) (hg : s.goesOn t = true) (hz : s.frozen t o = false)
    (hu : s.unitTicks t o = true) (hld : m.load = some ld) (hat : ld.at_ ≤ s.fc) (hs : ld.stream = false) :
    exec (.mxLoadwComplete t o) s = .next (s.mxLines t o m ld) := by
  have he : exec (.mxLoadwComplete t o) s = execMxLoadwComplete t o s := rfl
  have hw : (!s.goesOn t || s.frozen t o || !s.unitTicks t o || decide (ld.at_ > s.fc)) = false := by
    rw [hg, hz, hu, decide_eq_false (by omega)]
    rfl
  rw [he, execMxLoadwComplete, hm]
  dsimp only
  rw [hld]
  dsimp only
  rw [hw, if_neg Bool.false_ne_true, hs]
  rfl

theorem exec_mxLoadw_token {ld : Load} (hm : s.matrix t o = some m) (hg : s.goesOn t = true) (hz : s.frozen t o = false)
    (hu : s.unitTicks t o = true) (hld : m.load = some ld) (hat : ld.at_ ≤ s.fc) (hs : ld.stream = true)
    (ht : s.headTok t o mxWt = some tok) (hk : tok.kind = Kind.data) (hn : ld.taken + 1 < imageToks m.wfmt) :
    Gives (.mxLoadwComplete t o) s fun s' => ∃ m' ld', s'.matrix t o = some m' ∧ m'.load = some ld' ∧
      ld'.taken = ld.taken + 1 ∧ ld'.lines = ld.lines ++ [tok.pay] := by
  have he : exec (.mxLoadwComplete t o) s = execMxLoadwComplete t o s := rfl
  have hw : (!s.goesOn t || s.frozen t o || !s.unitTicks t o || decide (ld.at_ > s.fc)) = false := by
    rw [hg, hz, hu, decide_eq_false (by omega)]
    rfl
  have hclose : tok.isClose = false := by rw [Token.isClose, hk]; rfl
  have hpois : tok.isPoison = false := by rw [Token.isPoison, hk]; rfl
  have hok : ¬(false || decide (Kind.data = Kind.audit) ||
      decide (Kind.data = Kind.scale) && (!m.mx || ld.scaled.isSome || decide (ld.taken ≠ 0))) = true := by
    rw [decide_eq_false (show ¬Kind.data = Kind.audit by decide), decide_eq_false (show ¬Kind.data = Kind.scale by decide), Bool.false_and]
    decide
  have hpop : ((s.popTok t o mxWt).busy ((s.popTok t o mxWt).lctxOf t)).matrix t o = some m := (matrix_congr popTok_op).trans hm
  unfold Gives
  rw [he, execMxLoadwComplete, hm]
  dsimp only
  rw [hld]
  dsimp only
  rw [hw, if_neg Bool.false_ne_true, hs]
  simp only [Bool.not_true, Bool.false_eq_true, if_false]
  rw [ht]
  dsimp only
  rw [State.mxStream, hclose, hpois, hk, if_neg hok]
  dsimp only
  rw [if_neg (by decide), if_pos hn]
  exact ⟨_, rfl, _, _, modMatrix_matrix_self.trans (congrArg (Option.map _) hpop), rfl, rfl, rfl⟩

/-- Settles O45: each command by its equation and what starting a command leaves, and the array by what it takes and pushes. -/
theorem matrixTiles : Obligations.MatrixTiles := by
  unfold Obligations.MatrixTiles
  refine ⟨fun s t o p m hm ho => ?_, fun s t o m tok hopen hb ht hd h1 h2 h3 h4 h5 h6 => ?_,
    fun s t o m tok rest hm hg hz hu hat hout hp => exec_matrixOutputPush hm hg hz hu hat hout hp,
    fun s t o m ld hm hg hz hu hld hat => ⟨fun hs hk => ?_, fun tok hs ht hk hn => exec_mxLoadw_token hm hg hz hu hld hat hs ht hk hn⟩⟩
  · intro fld give
    refine ⟨fun h1 h2 h3 => ?_, fun h1 h2 h3 => ?_, fun h => ?_, fun h1 h2 h3 => ?_, fun h1 h2 => ?_, fun ks h1 h2 hk => ?_,
      fun h1 h2 h3 => ?_, fun v h1 h2 h3 hk hr => ?_, fun h => ?_, fun v hw => ?_⟩
    · exact gives_matrix hm (exec_mxCfg hm ho h1 h2 h3) oneStep_ran (fun _ => rfl)
        fun _ => ⟨rfl, rfl, rfl, rfl, rfl, rfl, rfl, rfl, rfl, rfl, rfl, rfl, rfl, rfl⟩
    · exact gives_matrix hm (exec_mxLoadw hm ho h1 h2 h3) beginCmd_ran (fun _ => rfl) fun _ => ⟨_, rfl, rfl, rfl, rfl, rfl⟩
    · exact gives_matrix hm (exec_mxSwap hm ho h) beginCmd_ran (fun _ => rfl) fun _ => ⟨rfl, rfl⟩
    · exact gives_matrix hm (exec_mxArm hm ho h1 h2 h3) beginCmd_ran (fun _ => rfl) fun _ => ⟨rfl, rfl, rfl⟩
    · exact gives_matrix hm (exec_mxScale_word hm ho h1 h2) oneStep_ran (fun _ => rfl) fun _ c hc => aget_map_range hc
    · have hm' : (s.touchKeys ks).matrix t o = some m := (matrix_congr touchKeys_op).trans hm
      exact gives_matrix hm' (exec_mxScale_mem hm ho h1 h2 hk) oneStep_ran (fun _ => rfl) fun _ c hc => aget_map_range hc
    · exact gives_matrix hm (exec_mxDrain_out hm ho h1 h2 h3) beginCmd_ran (fun _ => rfl) fun _ => rfl
    · exact exec_mxDrain_mem hm ho h1 h2 h3 hk hr
    · exact gives_matrix hm (exec_mxZero hm ho h) oneStep_ran (fun _ => rfl) fun _ => ⟨rfl, rfl, rfl, rfl, rfl⟩
    · have hm' : v.matrix t o = some m := (matrix_congr (unitWrite_op hw)).trans hm
      have hr : CmdRan Started v t o (v.oneStep (.op t o) p 0) := oneStep_ran
      obtain ⟨b, -, hb⟩ := hr.matrix hm'
      obtain ⟨_, _, _, hrest⟩ := hr.rest
      have hmem : (v.oneStep (.op t o) p 0).mem = v.mem := by rw [hrest]
      exact ⟨_, exec_mxStat hm ho hw, hmem, _, modMatrix_matrix_self.trans (congrArg (Option.map _) hb), rfl⟩
  · intro row z takes
    have hm := mxOpen_matrix hopen
    refine ⟨fun hp => ?_, fun hp hout => ?_⟩
    · obtain ⟨m', hm', ha, ho, hi, har⟩ := mxTake_gives hm hd h4 h5 h6
      exact ⟨_, exec_matrixTokenTake hopen hb ht hd h1 h2 h3 h4 fun e => absurd e hp, m', hm', ha.trans (taken_more hp).1,
        ho.trans (taken_more hp).2, hi, har⟩
    · obtain ⟨m', hm', ha, ho, hi, har⟩ := mxTake_gives hm hd h4 h5 h6
      exact ⟨_, exec_matrixTokenTake hopen hb ht hd h1 h2 h3 h4 fun _ => hout, m', hm', ha.trans (taken_last hp hout).1,
        ho.trans (taken_last hp hout).2, hi, har⟩
  · obtain ⟨m', hm', h1, h2⟩ := mxLines_matrix hm hk
    exact ⟨_, exec_mxLoadw_lines hm hg hz hu hld hat hs, m', hm', h1, h2⟩

end Sys2Proof.Machine

namespace Sys2Proof.Machine

/-! PROOFS. What counted firings and drains leave of an operator, whatever its kind; and the operators that are copy engines. -/

variable {s u v : State} {t o t' o' n : Nat} {p : Packet} {α : Type} {π : Op → Option α} {step : Inbox → Inbox → Prop}

/-! ## Views of operators -/

/-- A part of an operator that its kind gives, and that a page request withdrawn by a pause leaves. -/
structure View (π : Op → Option α) : Prop where
  kind : ∀ p q : Op, q.kind = p.kind → π q = π p
  withdrawn : ∀ p : Op, π p.withdrawn = π p

/-- That part of an operator. -/
def State.view (s : State) (π : Op → Option α) (t o : Nat) : Option α := (s.op t o).bind π

theorem view_congr (h : u.op t o = s.op t o) : u.view π t o = s.view π t o := by rw [State.view, State.view, h]

theorem view_of_op {q : Op} (h : s.op t o = some q) : s.view π t o = π q := by
  rw [State.view, h, Option.bind_some]

theorem View.modOp (h : View π) {g : Op → Op} (hg : ∀ p, (g p).kind = p.kind) : (s.modOp t o g).view π t' o' = s.view π t' o' := by
  rw [State.view, State.view]
  by_cases e : (t', o') = (t, o)
  · cases e
    rw [modOp_op_self]
    cases s.op t o with
    | none => rfl
    | some q => exact h.kind q (g q) (hg q)
  · rw [modOp_op_other e]

theorem View.pauseTasks (h : View π) {q : Nat → Task → Bool} : (s.pauseTasks q).view π t' o' = s.view π t' o' := by
  rw [State.view, State.view]
  rcases pauseTasks_op (s := s) (q := q) (t' := t') (o' := o') with e | e
  · rw [e]
  · rw [e, Option.bind_map]
    exact congrArg (Option.bind _) (funext h.withdrawn)

theorem View.checkStopCond (h : View π) : (s.checkStopCond t o).view π t' o' = s.view π t' o' := by
  rcases checkStopCond_cases (s := s) (t := t) (o := o) with e | ⟨l, e⟩
  · rw [e]
  · rw [e]
    exact h.pauseTasks (s := s)

theorem View.countFiring (h : View π) : (s.countFiring t o).view π t' o' = s.view π t' o' :=
  h.checkStopCond.trans (h.modOp fun _ => rfl)

theorem View.sinkPoison (h : View π) {w : Word} : (s.sinkPoison t o w).view π t' o' = s.view π t' o' :=
  h.modOp fun p => by split <;> rfl

theorem View.freeze (h : View π) {code : BitVec 7} {w : Word} : (s.freeze t o code w).view π t' o' = s.view π t' o' :=
  h.modOp (s := s) fun p => by split <;> rfl

/-- A command that runs changes nothing but the inbox of its operator. -/
theorem CmdRan.view (h : CmdRan step s t o u) (hπ : ∀ (p : Op) g, π { p with kind := p.kind.modInbox g } = π p) :
    u.view π t' o' = s.view π t' o' := by
  by_cases e : (t', o') = (t, o)
  · cases e
    obtain ⟨g, -, hu⟩ := h.op
    rw [State.view, State.view, hu]
    cases s.op t o with
    | none => rfl
    | some q => exact hπ q g
  · exact view_congr (h.others t' o' e)

/-! ## Copy engines -/

/-- The copy engine of an operator. -/
def Op.copy? (p : Op) : Option Copy :=
  match p.kind with
  | .copy c => some c
  | _ => none

theorem copyEng_eq_op : s.copyEng t o = (s.op t o).bind Op.copy? := by
  rw [State.copyEng]
  rcases s.op t o with _ | ⟨pl, fa, ff, re, po, hd, fi, k⟩
  · rfl
  · cases k <;> rfl

/-- A slot of an operator that is a copy engine. -/
def Op.slot? (n : Nat) (p : Op) : Option Slot := p.copy?.bind fun c => c.slots[n]?

theorem slot_eq_view : s.slot t o n = s.view (Op.slot? n) t o := by
  rw [State.slot, copyEng_eq_op, State.view, Option.bind_assoc]
  rfl

theorem slot_congr (h : u.op t o = s.op t o) : u.slot t o n = s.slot t o n := by
  rw [slot_eq_view, slot_eq_view, view_congr h]

theorem slot_modInbox (p : Op) (g : Inbox → Inbox) : Op.slot? n { p with kind := p.kind.modInbox g } = Op.slot? n p := by
  obtain ⟨pl, fa, ff, re, po, hd, fi, k⟩ := p
  cases k <;> rfl

theorem CmdRan.slot (h : CmdRan step s t o u) : u.slot t' o' n = s.slot t' o' n := by
  rw [slot_eq_view, slot_eq_view]
  exact h.view slot_modInbox

theorem modInbox_slot {g : Inbox → Inbox} : (s.modInbox (.op t o) g).slot t' o' n = s.slot t' o' n :=
  (modInbox_ran (step := fun _ _ => True) fun _ => trivial).slot

@[simp] theorem modSlot_slot_self {g : Slot → Slot} : (s.modSlot t o n g).slot t o n = (s.slot t o n).map g := by
  rw [slot_eq_view, slot_eq_view, State.view, State.view, State.modSlot, State.modCopy, modOp_op_self]
  rcases s.op t o with _ | ⟨pl, fa, ff, re, po, hd, fi, k⟩
  · rfl
  · cases k with
    | copy c => exact getElem?_lmod_self
    | _ => rfl

/-! ### Handles and counters -/

theorem setBits_low (x : Dbl) {st : Nat} (h : st < 4) : ((setBits x 0 2 st).extractLsb' 0 2).toNat = st := by
  have hb : (setBits x 0 2 st).extractLsb' 0 2 = BitVec.ofNat 2 st := by
    refine BitVec.eq_of_getLsbD_eq fun i hi => ?_
    have hm : (BitVec.ofNat 64 ((2 ^ 2 - 1) * 2 ^ 0)).getLsbD i = true := by
      have : i = 0 ∨ i = 1 := by omega
      rcases this with rfl | rfl <;> decide
    simp only [setBits, BitVec.getLsbD_extractLsb', Nat.zero_add, BitVec.getLsbD_or, BitVec.getLsbD_and, BitVec.getLsbD_not, hm,
      Bool.not_true, Bool.and_false, Bool.false_or, Bool.and_true]
    rw [BitVec.getLsbD_ofNat, BitVec.getLsbD_ofNat, Nat.pow_zero, Nat.mul_one, decide_eq_true hi, decide_eq_true (by omega), Bool.true_and]
  rw [hb, BitVec.toNat_ofNat]
  exact Nat.mod_eq_of_lt h

theorem bufState_setBuf_self {h st rank : Nat} (hst : st < 4) : (s.setBuf h st rank).bufState h = st := by
  rw [State.bufState, State.bufEntry, State.setBuf, aget_aset_self, Option.getD_some]
  exact setBits_low _ hst

theorem bufState_setBuf_other {h g st rank : Nat} (hg : g ≠ h) : (s.setBuf h st rank).bufState g = s.bufState g := by
  rw [State.bufState, State.bufState, State.bufEntry, State.bufEntry, State.setBuf, aget_aset_other hg]

theorem CmdRan.bufState (h : CmdRan step s t o u) {g : Nat} : u.bufState g = s.bufState g := by
  obtain ⟨_, _, _, rfl⟩ := h.rest
  rfl

theorem CmdRan.timeline (h : CmdRan step s t o u) : u.timeline = s.timeline := by
  obtain ⟨_, _, _, rfl⟩ := h.rest
  rfl

theorem CmdRan.tlBad (h : CmdRan step s t o u) {g : Nat} : u.tlBad g = s.tlBad g := by
  obtain ⟨_, _, _, rfl⟩ := h.rest
  rfl

theorem CmdRan.mem (h : CmdRan step s t o u) : u.mem = s.mem := by
  obtain ⟨_, _, _, rfl⟩ := h.rest
  rfl

theorem tl_congr (h : u.timeline = s.timeline) {g : Nat} : u.tl g = s.tl g := by rw [State.tl, State.tl, h]

theorem tlAdd_self {g : Nat} {w : Dbl} (h : s.tlBad g = false) : (s.tlAdd g w).tl g = s.tl g + w := by
  have ht : (s.tlAdd g w).timeline = aset g (s.tl g + w) s.timeline := by
    rw [State.tlAdd, h]
    rfl
  rw [State.tl, ht, aget_aset_self, Option.getD_some]

theorem tlAdd_other {g k : Nat} {w : Dbl} (h : k ≠ g) : (s.tlAdd g w).tl k = s.tl k := by
  have ht : (s.tlAdd g w).timeline = s.timeline ∨ (s.tlAdd g w).timeline = aset g (s.tl g + w) s.timeline := by
    unfold State.tlAdd
    split
    · exact .inl rfl
    · exact .inr rfl
  rcases ht with ht | ht
  · exact tl_congr ht
  · rw [State.tl, State.tl, ht, aget_aset_other h]

/-- A drain changes no counter. -/
theorem drainLine_timeline {x : WLine} : (s.drainLine t x).timeline = s.timeline ∧ (s.drainLine t x).poisonedTl = s.poisonedTl := by
  unfold State.drainLine
  obtain ⟨q, hq⟩ := touchKey_cases (s := { s with mem := x.bytes.foldl (fun m (y : Nat × Byte) => memPut m (x.line + y.1) y.2) s.mem }) x.line
  dsimp only
  rw [hq]
  split
  · exact ⟨rfl, rfl⟩
  · exact ⟨rfl, rfl⟩

theorem drain_timeline {q : WLine → Bool} : (s.drain t q).timeline = s.timeline ∧ (s.drain t q).poisonedTl = s.poisonedTl := by
  unfold State.drain
  split
  · exact ⟨rfl, rfl⟩
  · next k _ =>
    have hfold (l : List WLine) (u : State) : (l.foldl (fun s w => s.drainLine t w) u).timeline = u.timeline ∧
        (l.foldl (fun s w => s.drainLine t w) u).poisonedTl = u.poisonedTl := by
      induction l generalizing u with
      | nil => exact ⟨rfl, rfl⟩
      | cons a l ih => exact ⟨(ih _).1.trans drainLine_timeline.1, (ih _).2.trans drainLine_timeline.2⟩
    exact ⟨(hfold _ _).1, (hfold _ _).2⟩

theorem engineRelease_timeline {e : EngineRef} {at_ : Nat} (h : s.engineRelease e at_ = some u) :
    u.timeline = s.timeline ∧ u.poisonedTl = s.poisonedTl := by
  unfold State.engineRelease at h
  split at h
  · cases h
    exact ⟨rfl, rfl⟩
  · split at h
    · cases h
      exact ⟨rfl, rfl⟩
    · split at h
      · cases h
        exact drain_timeline
      · cases h

/-! ### Commands -/

theorem slotFree {z : Slot} (hz : s.slot t o n = some z) (hf : z.firing = false) :
    (((s.slot t o n).map fun x => !x.firing).getD false) = true := by
  rw [hz, Option.map_some, hf]
  rfl

section
variable (ho : s.inboxOpen (.op t o) = true)
include ho

/-- The number of the slot that a packet names (R346). -/
def slotNo (p : Packet) : Nat := ((p.dbl 1).extractLsb' 53 4).toNat

/-- The slot that an image with its dimensions in memory arms. -/
def armedBy (p : Packet) (v : Nat) : Slot := armedSlot p ((doubles v (((p.dbl 1).extractLsb' 50 3).toNat + 1)).map copyDim)

theorem exec_cpArm {z : Slot} {ks : List Nat} (hz : s.slot t o (slotNo p) = some z) (hf : z.firing = false)
    (hk : s.unitKeys t o (p.dbl 4).toNat (8 * (((p.dbl 1).extractLsb' 50 3).toNat + 1)) 0 = .at_ ks)
    (hs : (armedBy p (s.readKeys ks)).stridesOk = true) :
    exec (.cpArm t o p) s = .next ((((s.touchKeys ks).oneStep (.op t o) p 0).modInbox (.op t o) fun b =>
      b.setReply (s.cmdId (.op t o)) fun r => { r with rply := false }).modSlot t o (slotNo p) fun _ => armedBy p (s.readKeys ks)) := by
  have he : exec (.cpArm t o p) s = execCpArm t o p s := rfl
  have hz' : s.slot t o ((p.dbl 1).extractLsb' 53 4).toNat = some z := hz
  rw [he, execCpArm]
  dsimp only
  rw [command_ready ho (slotFree hz' hf), State.unitRead, hk]
  exact congrArg Host.Outcome.next (if_pos hs)

omit ho in
theorem cpArm_slot {z : Slot} {ks : List Nat} {id : Nat} {g : Reply → Reply} {x : Slot} (hz : s.slot t o n = some z) :
    ((((s.touchKeys ks).oneStep (.op t o) p 0).modInbox (.op t o) fun b => b.setReply id g).modSlot t o n fun _ => x).slot t o n =
      some x := by
  have hr : CmdRan Answered ((s.touchKeys ks).oneStep (.op t o) p 0) t o
      (((s.touchKeys ks).oneStep (.op t o) p 0).modInbox (.op t o) fun b => b.setReply id g) := modInbox_ran fun _ => ⟨rfl, rfl⟩
  rw [modSlot_slot_self, hr.slot, oneStep_ran.slot, slot_congr touchKeys_op, hz]
  rfl

/-- The state in which the command of a cp.fire has started: without RPLY the template's reply stands for its own (R348). -/
def State.fireBegun (s : State) (t o : Nat) (p : Packet) (x : Slot) : State :=
  if Packet.rply p then s.beginCmd (.op t o) p
  else (s.beginCmd (.op t o) p).modInbox (.op t o) fun b => b.setReply (s.cmdId (.op t o)) fun r =>
    { r with rply := x.rply, word7 := x.word7, opc := 1, seq := x.seq }

theorem exec_cpFire {z : Slot} (hz : s.slot t o (slotNo p) = some z) (hf : z.firing = false) (ha : z.armed = true) :
    exec (.cpFire t o p) s = .next ((s.fireBegun t o p z).fireSlot t o (slotNo p) (some (s.cmdId (.op t o)))) := by
  have he : exec (.cpFire t o p) s = execCpFire t o p s := rfl
  have hz' : s.slot t o ((p.dbl 1).extractLsb' 53 4).toNat = some z := hz
  rw [he, execCpFire]
  dsimp only
  rw [command_ready ho (slotFree hz' hf), hz']
  dsimp only
  rw [ha]
  rfl

theorem exec_bufWait (h : s.bufState (field32 (p.dbl 1)) = ((p.dbl 1).extractLsb' 0 2).toNat)
    (hs : (p.dbl 1).getLsbD 6 = true → s.bufMay (field32 (p.dbl 1)) rankWait = true ∧
      s.firstAwaiting (.op t o) (field32 (p.dbl 1)) ((p.dbl 1).extractLsb' 0 2).toNat = true) :
    exec (.bufWait t o p) s = .next (if (p.dbl 1).getLsbD 6 then
      (s.oneStep (.op t o) p 0).setBuf (field32 (p.dbl 1)) ((p.dbl 1).extractLsb' 4 2).toNat rankWait
      else s.oneStep (.op t o) p 0) := by
  have he : exec (.bufWait t o p) s = execBufWait t o p s := rfl
  have hr : (s.bufState (field32 (p.dbl 1)) == ((p.dbl 1).extractLsb' 0 2).toNat && (!(p.dbl 1).getLsbD 6 ||
      (s.bufMay (field32 (p.dbl 1)) rankWait && s.firstAwaiting (.op t o) (field32 (p.dbl 1)) ((p.dbl 1).extractLsb' 0 2).toNat))) = true := by
    rw [beq_iff_eq.mpr h, Bool.true_and]
    cases hb : (p.dbl 1).getLsbD 6 with
    | false => rfl
    | true =>
      obtain ⟨h1, h2⟩ := hs hb
      rw [h1, h2]
      rfl
  rw [he, execBufWait]
  dsimp only
  rw [command_ready ho hr]

theorem exec_bufSet (h : s.bufMay (field32 (p.dbl 1)) rankSet = true) : exec (.bufSet t o p) s =
    .next ((s.oneStep (.op t o) p 0).setBuf (field32 (p.dbl 1)) ((p.dbl 1).extractLsb' 0 2).toNat rankSet) :=
  congrArg Host.Outcome.next (command_ready ho h)

theorem exec_tlInc {b : Inbox} {u : State} (hb : s.inbox (.op t o) = some b)
    (hr : (b.replies.all fun r => r.status.isSome && !r.owesAdd) = true)
    (hu : s.engineRelease (.op t o) (b.relAt.getD s.fc) = some u) : exec (.tlInc t o p) s =
    .next (((u.oneStep (.op t o) p 0).modInbox (.op t o) fun b => { b with relAt := none }).tlAdd (field32 (p.dbl 1))
      (((p.dbl 1).extractLsb' 0 32).zeroExtend 64)) := by
  have he : exec (.tlInc t o p) s = execTlInc t o p s := rfl
  have hready : (((s.inbox (.op t o)).map fun b => b.replies.all fun r => r.status.isSome && !r.owesAdd).getD false) = true := by
    rw [hb]
    exact hr
  rw [he, execTlInc]
  dsimp only
  rw [command_ready ho hready, hb]
  dsimp only [Option.bind_some]
  rw [hu]

theorem exec_tlWait (h : ((p.dbl 2).extractLsb' 0 32).toNat + 2 ^ 32 * ((p.dbl 3).extractLsb' 0 32).toNat ≤
    (s.tl (field32 (p.dbl 1))).toNat) : exec (.tlWait t o p) s =
    .next (s.oneStep (.op t o) p (if s.tlBad (field32 (p.dbl 1)) then 2 else 0)) :=
  congrArg Host.Outcome.next (command_ready ho (by rw [decide_eq_true h, Bool.or_true]))

end

/-! ### Firings -/

/-- A slot that may have taken its handles. -/
def Slot.held (z : Slot) (a b : Bool) : Slot := { z with shTaken := a, dhTaken := b }

theorem setBuf_op {h st rank : Nat} : (s.setBuf h st rank).op t' o' = s.op t' o' := rfl

theorem modSlot_held {z : Slot} {a b : Bool} {g : Slot → Slot} (hz : s.slot t o n = some (z.held a b))
    (hg : ∃ a' b', g (z.held a b) = z.held a' b') : ∃ a' b', (s.modSlot t o n g).slot t o n = some (z.held a' b') := by
  obtain ⟨a', b', hg⟩ := hg
  rw [modSlot_slot_self, hz, Option.map_some, hg]
  exact ⟨a', b', rfl⟩

theorem takeSource_slot {z : Slot} {c : Bool} {h? : Option Nat} (hz : s.slot t o n = some z) :
    ∃ a b, (if c then s else match h? with
      | none => s.modSlot t o n fun x => { x with shTaken := true }
      | some h => if s.bufState h = 2 ∧ s.bufMay h rankCopy then (s.setBuf h 3 rankCopy).modSlot t o n fun x => { x with shTaken := true }
        else s).slot t o n = some (z.held a b) := by
  have hself : ∃ a b, s.slot t o n = some (z.held a b) := ⟨z.shTaken, z.dhTaken, hz⟩
  split
  · exact hself
  split
  · exact modSlot_held (a := z.shTaken) (b := z.dhTaken) hz ⟨true, _, rfl⟩
  · split
    · exact modSlot_held (s := s.setBuf _ 3 rankCopy) (a := z.shTaken) (b := z.dhTaken) hz ⟨true, _, rfl⟩
    · exact hself

theorem takeDest_slot {z : Slot} {c : Bool} {h? : Option Nat} (hz : ∃ a b, s.slot t o n = some (z.held a b)) :
    ∃ a b, (if c then s else match h? with
      | none => s.modSlot t o n fun x => { x with dhTaken := true }
      | some h => if s.bufState h = 1 ∨ s.bufState h = 3 ∨ !s.bufMay h rankCopy then s
        else (s.setBuf h 1 rankCopy).modSlot t o n fun x => { x with dhTaken := true }).slot t o n = some (z.held a b) := by
  obtain ⟨a, b, hab⟩ := hz
  split
  · exact ⟨a, b, hab⟩
  split
  · exact modSlot_held hab ⟨a, true, rfl⟩
  · split
    · exact ⟨a, b, hab⟩
    · exact modSlot_held (s := s.setBuf _ 1 rankCopy) hab ⟨a, true, rfl⟩

/-- Taking handles changes no more of a slot than that it has them (R347). -/
theorem takeHandles_slot {z : Slot} (hz : s.slot t o n = some z) : ∃ a b, (s.takeHandles t o n).slot t o n = some (z.held a b) := by
  unfold State.takeHandles
  rw [hz]
  dsimp only
  split
  · exact ⟨z.shTaken, z.dhTaken, hz⟩
  · exact takeDest_slot (takeSource_slot hz)

theorem fireSlot_slot {z : Slot} {r : Option Nat} (hz : s.slot t o n = some z) : ∃ z', (s.fireSlot t o n r).slot t o n = some z' ∧
    z'.firing = true ∧ z'.elem = 0 ∧ z'.finished = false ∧ z'.dims = z.dims ∧ z'.src = z.src ∧ z'.dst = z.dst := by
  have hmod (g : Slot → Slot) : ((s.resetRates t o).bumpId.modSlot t o n g).slot t o n = some (g z) := by
    rw [modSlot_slot_self, show (s.resetRates t o).bumpId.slot t o n = (s.resetRates t o).slot t o n from rfl,
      slot_congr resetRates_op, hz]
    rfl
  obtain ⟨a, b, h⟩ := takeHandles_slot (hmod fun x =>
    { x with firing := true, shTaken := false, dhTaken := false, elem := 0, sub := 0, inTok := [], inPos := 0, inAudit := false,
             outTok := [], outAudit := false, old := [], fireNo := s.nextId, stall := none, fetch := none, status := 0,
             finished := false, fireReply := r })
  exact ⟨_, h, rfl, rfl, rfl, rfl, rfl, rfl⟩

theorem fireBegun_slot {z : Slot} : (s.fireBegun t o p z).slot t' o' n = s.slot t' o' n := by
  have hb : CmdRan Started s t o (s.beginCmd (.op t o) p) := beginCmd_ran
  unfold State.fireBegun
  split
  · exact hb.slot
  · exact modInbox_slot.trans hb.slot

/-- A data token at a trigger fires an armed template that is not firing (R347). -/
theorem exec_copyTrigger {z : Slot} {tok : Token} (hz : s.slot t o n = some z) (ho : s.copyOpen t o = true) (ht : z.ten = true)
    (hb : s.behindDone t o z.tport = none) (hh : s.headTok t o z.tport = some tok) (hd : tok.isData = true)
    (ha : z.armed = true) (hf : z.firing = false) :
    exec (.copyTrigger t o n) s = .next ((s.fireSlot t o n none).popTok t o z.tport) := by
  have he : exec (.copyTrigger t o n) s = execCopyTrigger t o n s := rfl
  rw [he, execCopyTrigger, hz]
  dsimp only
  rw [ho, ht, if_neg (by decide), hb, hh]
  dsimp only
  rw [hd, if_pos rfl, ha, hf]
  rfl

/-- The handles of a firing that is over: the source free, the destination full (R347). -/
def State.handlesMoved (s : State) (z : Slot) : State :=
  let s := match z.sh with
    | some h => s.setBuf h 0 rankCopy
    | none => s
  match z.dh with
    | some h => s.setBuf h 2 rankCopy
    | none => s

theorem handlesMoved_op {z : Slot} : (s.handlesMoved z).op t' o' = s.op t' o' := by
  unfold State.handlesMoved
  cases z.sh <;> cases z.dh <;> rfl

theorem handlesMoved_dest {z : Slot} {g : Nat} (h : z.dh = some g) : (s.handlesMoved z).bufState g = 2 := by
  rw [State.handlesMoved, h]
  exact bufState_setBuf_self (by decide)

theorem handlesMoved_source {z : Slot} {g : Nat} (h : z.sh = some g) (hd : z.dh ≠ some g) : (s.handlesMoved z).bufState g = 0 := by
  rw [State.handlesMoved, h]
  cases hk : z.dh with
  | none => exact bufState_setBuf_self (by decide)
  | some k =>
    have hne : g ≠ k := fun e => hd (by rw [hk, e])
    exact (bufState_setBuf_other hne).trans (bufState_setBuf_self (by decide))

/-- The end of a firing: its slot is free, and its handles are as `handlesMoved` leaves them. -/
theorem exec_copyFiringComplete {z : Slot} (hz : s.slot t o n = some z) (hf : z.firing = true) (hfin : z.finished = true)
    (hout : z.outTok = []) (hg : s.goesOn t = true) (hfr : s.frozen t o = false)
    (hmay : ∀ g, z.sh = some g ∨ z.dh = some g → s.bufMay g rankCopy = true) :
    Gives (.copyFiringComplete t o n) s fun s' => (∃ z', s'.slot t o n = some z' ∧ z'.firing = false) ∧
      ∀ g, s'.bufState g = (s.handlesMoved z).bufState g := by
  have he : exec (.copyFiringComplete t o n) s = execCopyFiringComplete t o n s := rfl
  have hm (h? : Option Nat) (hx : ∀ g, h? = some g → s.bufMay g rankCopy = true) :
      ((h?.map fun h => s.bufMay h rankCopy).getD true) = true := by
    cases h? with
    | none => rfl
    | some g => exact hx g rfl
  have hw : (!z.firing || !z.finished || !z.outTok.isEmpty || !s.goesOn t || s.frozen t o ||
      !((z.sh.map fun h => s.bufMay h rankCopy).getD true) || !((z.dh.map fun h => s.bufMay h rankCopy).getD true)) = false := by
    rw [hf, hfin, hout, hg, hfr, hm z.sh fun g h => hmay g (.inl h), hm z.dh fun g h => hmay g (.inr h)]
    rfl
  have hslot (g : Slot → Slot) : ((s.handlesMoved z).modSlot t o n g).slot t o n = some (g z) := by
    rw [modSlot_slot_self, slot_congr handlesMoved_op, hz]
    rfl
  unfold Gives
  rw [he, execCopyFiringComplete, hz]
  dsimp only
  rw [hw, if_neg Bool.false_ne_true]
  refine ⟨_, rfl, ?_⟩
  split
  · have hr (u : State) (id : Nat) : (u.endCmd (.op t o) id z.status).slot t o n = u.slot t o n ∧
        ∀ g, (u.endCmd (.op t o) id z.status).bufState g = u.bufState g := ⟨endCmd_ran.slot, fun _ => endCmd_ran.bufState⟩
    exact ⟨⟨_, (hr _ _).1.trans (hslot _), rfl⟩, fun g => (hr _ _).2 g⟩
  · split
    · exact ⟨⟨_, hslot _, rfl⟩, fun _ => rfl⟩
    · exact ⟨⟨_, modInbox_slot.trans (hslot _), rfl⟩, fun _ => rfl⟩

end Sys2Proof.Machine

namespace Sys2Proof.Machine

/-! PROOFS. What a translation by the tables as they stand depends on (R320 to R322). -/

variable {s u : State}

/-- The fields of a context that a translation reads. -/
def Ctx.xl (c : Ctx) : Nat × Nat × Nat × Nat × Nat := (c.shm, c.shmLen, c.shmBase, c.pasid, c.aqi)

/-- What the tables hold is the same in two states. -/
structure Tables (s u : State) : Prop where
  mem : u.mem = s.mem
  roots : u.roots = s.roots
  hostAbsent : u.hostAbsent = s.hostAbsent
  aqis : u.aqis = s.aqis
  ctx : ∀ l, (u.ctx l).map Ctx.xl = (s.ctx l).map Ctx.xl

theorem Tables.refl (s : State) : Tables s s := ⟨rfl, rfl, rfl, rfl, fun _ => rfl⟩

theorem Tables.trans {v : State} (h : Tables s u) (h' : Tables u v) : Tables s v :=
  ⟨h'.mem.trans h.mem, h'.roots.trans h.roots, h'.hostAbsent.trans h.hostAbsent, h'.aqis.trans h.aqis, fun l => (h'.ctx l).trans (h.ctx l)⟩

theorem modCtx_tables {c : Nat} {g : Ctx → Ctx} (h : ∀ x, (g x).xl = x.xl) : Tables s (s.modCtx c g) where
  mem := rfl
  roots := rfl
  hostAbsent := rfl
  aqis := rfl
  ctx l := by
    by_cases e : l = c
    · subst e
      rw [modCtx_ctx_self, Option.map_map]
      exact congrArg (fun f => Option.map f (s.ctx l)) (funext h)
    · rw [modCtx_ctx_other e]

theorem busy_tables {c : Nat} : Tables s (s.busy c) := modCtx_tables fun _ => rfl

section
variable (h : Tables s u)
include h

theorem Tables.part {aqi i : Nat} : u.part aqi i = s.part aqi i := by
  rw [State.part, State.part, h.aqis]

theorem Tables.stage2 {aqi tgt ia : Nat} : u.stage2 aqi tgt ia = s.stage2 aqi tgt ia := by
  unfold State.stage2
  rw [h.part, h.hostAbsent]

theorem Tables.readLoc {l : Loc} {n : Nat} : u.readLoc l n = s.readLoc l n := by
  rw [State.readLoc, State.readLoc, h.mem]

theorem Tables.hostHas {ia size : Nat} : u.hostHas ia size = s.hostHas ia size := by
  rw [State.hostHas, State.hostHas, h.hostAbsent]

theorem Tables.leaf {die pasid aqi va size : Nat} {e : Dbl} : u.leaf die pasid aqi va size e = s.leaf die pasid aqi va size e := by
  unfold State.leaf
  rw [h.hostHas]
  simp only [h.stage2]

theorem Tables.runAgrees {aqi table idx : Nat} {e : Dbl} : u.runAgrees aqi table idx e = s.runAgrees aqi table idx e := by
  simp only [State.runAgrees, h.stage2, h.readLoc]

theorem Tables.walkFrom {die pasid aqi va : Nat} (l : List Nat) (table : Nat) :
    u.walkFrom die pasid aqi va l table = s.walkFrom die pasid aqi va l table := by
  induction l generalizing table with
  | nil => rfl
  | cons lv rest ih => simp only [State.walkFrom, h.stage2, h.readLoc, h.leaf, h.runAgrees, ih]

theorem Tables.walk {die pasid aqi va : Nat} : u.walk die pasid aqi va = s.walk die pasid aqi va := by
  simp only [State.walk, h.roots, h.walkFrom]

/-- A translation by the tables as they stand is the same. -/
theorem Tables.xlateNow {l va n kind : Nat} : u.xlateNow l va n kind = s.xlateNow l va n kind := by
  have hc := h.ctx l
  rw [State.xlateNow, State.xlateNow]
  cases hu : u.ctx l with
  | none =>
    rw [hu] at hc
    rw [Option.map_eq_none_iff.mp hc.symm]
  | some c =>
    rw [hu] at hc
    obtain ⟨c', hs, hx⟩ := Option.map_eq_some_iff.mp hc.symm
    rw [hs]
    simp only [Ctx.xl, Prod.mk.injEq] at hx
    obtain ⟨h1, h2, h3, h4, h5⟩ := hx
    simp only [Ctx.shmAt, h1, h2, h3, h4, h5, h.walk]

theorem Tables.placeNow {l va n kind : Nat} : u.placeNow l va n kind = s.placeNow l va n kind := by
  simp only [State.placeNow, h.xlateNow]

theorem Tables.vaKeys {l va n kind : Nat} : u.vaKeys l va n kind = s.vaKeys l va n kind := by
  have hfrom (f va n : Nat) : u.vaKeysFrom l kind f va n = s.vaKeysFrom l kind f va n := by
    induction f generalizing va n with
    | zero => rfl
    | succ f ih => simp only [State.vaKeysFrom, h.xlateNow, ih]
  exact hfrom _ _ _

theorem Tables.readKeys {ks : List Nat} : u.readKeys ks = s.readKeys ks := by
  rw [State.readKeys, State.readKeys, h.mem]

theorem Tables.vaRead {l va n : Nat} : u.vaRead l va n = s.vaRead l va n := by
  rw [State.vaRead, State.vaRead, h.vaKeys]
  exact congrArg (fun f => Option.map f _) (funext fun _ => h.readKeys)

end

end Sys2Proof.Machine

namespace Sys2Proof.Machine

/-! PROOFS. The transfer of a template of one element between addresses (R345 to R347), and the statement about copy engines. -/

variable {s u : State} {t o t' o' n va vb : Nat} {z : Slot} {la lb : Loc} {ta tb : Option (Nat × Loc)}

/-! ## The transfer of one element -/

/-- A firing of a template of one element between two addresses, neither of whose elements crosses 64 bytes, before its transfer. -/
structure OneCopy (z : Slot) (va vb : Nat) : Prop where
  elem : z.elem = 0
  sub : z.sub = 0
  old : z.old = []
  src : z.src = .addr va
  dst : z.dst = .addr vb
  size : 0 < z.esize
  fitsA : va % 64 + z.esize ≤ 64
  fitsB : vb % 64 + z.esize ≤ 64
  dims : z.dims = [{ ext := 1, sstr := 0, dstr := 0 }]

section
variable (h : OneCopy z va vb)
include h

theorem OneCopy.part_eq : z.part = z.esize := Nat.min_eq_left (by have := h.fitsA; omega)

theorem OneCopy.parts_eq : z.parts = 1 := by
  rw [Slot.parts, h.part_eq, Nat.div_self h.size]

theorem OneCopy.total_eq : z.total = 1 := by
  rw [Slot.total, h.dims, h.parts_eq]
  rfl

theorem OneCopy.offset_eq {f : DimRec → Int} : z.offset f 0 = 0 := by
  rw [Slot.offset, h.dims, h.parts_eq]
  simp [pointIdx]

theorem OneCopy.srcAt_eq : z.srcAt 0 = va := by
  unfold Slot.srcAt Slot.addrAt
  rw [h.offset_eq, h.src]
  simp

theorem OneCopy.dstAt_eq : z.dstAt 0 = vb := by
  unfold Slot.dstAt Slot.addrAt
  rw [h.offset_eq, h.dst]
  simp

theorem OneCopy.pieceLen_eq : z.pieceLen 0 0 = z.esize := by
  have ha : z.addrAt z.src (·.sstr) 0 = va := h.srcAt_eq
  have hb : z.addrAt z.dst (·.dstr) 0 = vb := h.dstAt_eq
  have h1 := h.fitsA
  have h2 := h.fitsB
  rw [h.src] at ha
  rw [h.dst] at hb
  rw [Slot.pieceLen, h.part_eq, h.src, h.dst]
  dsimp only
  rw [ha, hb]
  omega

theorem OneCopy.whole_eq : z.whole = true := by
  rw [Slot.whole, h.elem, h.sub, h.pieceLen_eq, h.part_eq]
  simp

theorem OneCopy.moves_eq : z.moves = 1 := by
  rw [Slot.moves, h.whole_eq, if_pos rfl, h.elem, Slot.run, h.total_eq]
  simp

theorem OneCopy.moveBytes_eq : z.moveBytes = z.esize := by
  rw [Slot.moveBytes, h.whole_eq, if_pos rfl, h.moves_eq, h.part_eq, Nat.one_mul]

theorem OneCopy.needBytes_eq : z.needBytes = z.esize := by
  rw [Slot.needBytes, h.moveBytes_eq, Nat.max_self, ite_self]

theorem OneCopy.vas_eq : z.vas = [(va, 0), (vb, 1)] := by
  rw [Slot.vas, h.src, h.dst, h.elem, h.sub, h.srcAt_eq, h.dstAt_eq]
  rfl

theorem OneCopy.starts_eq : z.starts = true := by
  rw [Slot.starts, h.sub, h.elem, h.parts_eq]
  rfl

end

/-! ## Translations -/

/-- The die of an operator. -/
def State.dieAt (s : State) (t o : Nat) : Nat := ((s.op t o).map fun p => dieOf p.place.x p.place.y).getD 0

/-- Where an access of a unit translates is what its die's tables give. -/
theorem unitAt_at_iff {va m kind : Nat} {l : Loc} {tail : Option (Nat × Loc)} : s.unitAt t o va m kind = .at_ l tail ↔
    s.xlatePlace (s.dieAt t o) (.op t o) (s.lctxOf t) va m kind = .at_ l tail := by
  have key (die : Nat) (hd : die = s.dieAt t o) : (match s.xlatePlace die (.op t o) (s.lctxOf t) va m kind with
      | .at_ l tail => UnitAt.at_ l tail
      | .fault g v => .fault (s.dropMiss die (.op t o) (s.lctxOf t) v) g v
      | .miss v => .wait ((s.addMiss die (.op t o) (s.lctxOf t) v kind).busy (s.lctxOf t))) = .at_ l tail ↔
      s.xlatePlace (s.dieAt t o) (.op t o) (s.lctxOf t) va m kind = .at_ l tail := by
    rw [← hd]
    cases s.xlatePlace die (.op t o) (s.lctxOf t) va m kind with
    | at_ l' tail' =>
      refine ⟨fun e => ?_, fun e => ?_⟩
      · injection e with e1 e2
        rw [e1, e2]
      · injection e with e1 e2
        rw [e1, e2]
    | fault g v => exact ⟨fun e => (nomatch e), fun e => (nomatch e)⟩
    | miss v => exact ⟨fun e => (nomatch e), fun e => (nomatch e)⟩
  refine key _ ?_
  rw [State.dieAt]
  cases s.op t o <;> rfl

theorem dropMiss_cases {die : Nat} {x : XUser} {l va : Nat} : ∃ q, s.dropMiss die x l va = { s with misses := q } := by
  unfold State.dropMiss
  split
  · exact ⟨s.misses, rfl⟩
  · exact ⟨_, rfl⟩

/-- The fault of an access leaves the state but for what waits for a walk. -/
theorem unitAt_fault {va m kind g v : Nat} (h : s.unitAt t o va m kind = .fault u g v) : ∃ q, u = { s with misses := q } := by
  unfold State.unitAt at h
  dsimp only at h
  split at h
  · cases h
  · cases h
    exact dropMiss_cases
  · cases h

/-- The tables and the caches of translations are the same. -/
theorem unitAt_power {va m kind : Nat} {l : Loc} {tail : Option (Nat × Loc)} {q : Power} (h : s.unitAt t o va m kind = .at_ l tail) :
    ({ s with power := q } : State).unitAt t o va m kind = .at_ l tail := by
  have h' := unitAt_at_iff.mp h
  exact unitAt_at_iff.mpr h'

theorem power_tables {q : Power} : Tables s ({ s with power := q } : State) := ⟨rfl, rfl, rfl, rfl, fun _ => rfl⟩

section
variable (h : OneCopy z va vb)
include h

theorem OneCopy.moveKeys_source (ha : s.unitAt t o va z.esize 0 = .at_ la ta) :
    s.moveKeys t o z.src (z.srcAt 0 + 0) z.esize 0 = some (placeKeys la ta z.esize) := by
  rw [h.srcAt_eq, h.src, State.moveKeys, Nat.add_zero, ha]

theorem OneCopy.moveKeys_dest (hb : s.unitAt t o vb z.esize 1 = .at_ lb tb) :
    s.moveKeys t o z.dst (z.dstAt 0 + 0) z.esize 1 = some (placeKeys lb tb z.esize) := by
  rw [h.dstAt_eq, h.dst, State.moveKeys, Nat.add_zero, hb]

theorem OneCopy.waits_eq (ha : s.unitAt t o va z.esize 0 = .at_ la ta) (hb : s.unitAt t o vb z.esize 1 = .at_ lb tb) :
    s.copyWaits t o z z.needBytes = false := by
  rw [State.copyWaits, h.vas_eq, h.needBytes_eq, List.any_cons, List.any_cons, ha, hb]
  rfl

theorem OneCopy.stall_eq (ha : s.unitAt t o va z.esize 0 = .at_ la ta) (hb : s.unitAt t o vb z.esize 1 = .at_ lb tb) :
    s.copyStall t o n z z.needBytes = none := by
  rw [State.copyStall, h.vas_eq, h.needBytes_eq, List.findSome?_cons, List.findSome?_cons, State.copyReplay, State.copyReplay, ha, hb]
  rfl

theorem OneCopy.elemFault_eq (ha : s.unitAt t o va z.esize 0 = .at_ la ta) (hb : s.unitAt t o vb z.esize 1 = .at_ lb tb)
    (hf : z.fetch = some .here ∨ z.fetch = none) : s.elemFault t o z = none := by
  unfold State.elemFault
  rcases hf with hf | hf
  · rw [hf]
    simp [h.starts_eq, h.vas_eq, h.needBytes_eq, ha, hb, h.src, h.dst]
  · rw [hf]
    simp [h.starts_eq, h.vas_eq, h.needBytes_eq, ha, hb, h.src, h.dst]

/-- The next transfer meets no bank ALU's hold (R343). -/
theorem OneCopy.held_eq (hb : s.unitAt t o vb z.esize 1 = .at_ lb tb) (hh : s.bankHolds (placeKeys lb tb z.esize) = false) :
    s.copyHeld t o z z.moveBytes = false := by
  have hk := h.moveKeys_dest hb
  unfold State.copyHeld
  rw [h.dst] at hk ⊢
  dsimp only
  rw [h.elem, h.sub, h.moveBytes_eq, hk]
  exact hh

/-- It waits for no other device. -/
theorem OneCopy.awaits_eq (ha : s.unitAt t o va z.esize 0 = .at_ la ta)
    (hf : z.fetch = some .here ∨ z.fetch = none ∧ (placeKeys la ta z.esize).any isRemote = false) : s.copyAwaits t o z = false := by
  rw [State.copyAwaits]
  rcases hf with hf | ⟨hf, hr⟩
  · rw [hf]
    exact Bool.and_false _
  · have hk := h.moveKeys_source ha
    have hfar : s.copyFar t o z = false := by
      unfold State.copyFar
      rw [h.src] at hk ⊢
      dsimp only
      rw [h.elem, h.sub, h.moveBytes_eq, hk]
      exact hr
    rw [hfar, Bool.false_and]

omit h in
/-- A byte that the firing does not write is read as memory holds it. -/
theorem copyByte_free {left : List (Nat × Nat)} {f key : Nat} (ho : z.old = []) (hl : aget key left = none) :
    s.copyByte z left (f + 1) key = memGet s.mem key := by
  rw [State.copyByte, ho, hl]
  rfl

omit h in
theorem aget_zip_none {l l' : List Nat} {k : Nat} (hk : k ∉ l) : aget k (l.zip l') = none := by
  induction l generalizing l' with
  | nil => rfl
  | cons a l ih =>
    cases l' with
    | nil => rfl
    | cons b l' =>
      obtain ⟨hne, hl⟩ := not_or.mp (List.mem_cons.not.mp hk)
      rw [List.zip_cons_cons, aget, if_neg fun e => hne e.symm]
      exact ih hl

/-- The bytes that such a firing has to write are those of its one element. -/
theorem OneCopy.left_none {k : Nat} (hv : ∀ kv, s.vaKeys (s.lctxOf t) vb z.esize 1 = some kv → k ∉ kv) :
    aget k (s.pairsLeft t z) = none := by
  have hkd : s.partKeys t z.dst (z.dstAt 0) z.part 1 = s.vaKeys (s.lctxOf t) vb z.esize 1 := by
    rw [h.dstAt_eq, h.part_eq, h.dst]
    rfl
  rw [State.pairsLeft, h.total_eq, h.elem]
  show aget k (List.flatMap _ [0]) = none
  rw [List.flatMap_cons, List.flatMap_nil, List.append_nil, hkd]
  split
  · next a b ha hb => exact aget_zip_none (hv b hb)
  · rfl

/-- The source's bytes are read as memory holds them. -/
theorem OneCopy.readPart_eq (ha : s.unitAt t o va z.esize 0 = .at_ la ta)
    (hv : ∀ kv, s.vaKeys (s.lctxOf t) vb z.esize 1 = some kv → ∀ key ∈ placeKeys la ta z.esize, key ∉ kv) :
    s.readPart t o z 0 0 z.esize = .val (s.readKeys (placeKeys la ta z.esize)) := by
  have hk := h.moveKeys_source ha
  have hstream : z.dst.stream = false := by rw [h.dst]; rfl
  have hmap : (placeKeys la ta z.esize).map (s.copyByte z (s.pairsLeft t z) ((s.pairsLeft t z).length + 1)) =
      (placeKeys la ta z.esize).map (memGet s.mem) := by
    refine List.map_congr_left fun key hkey => copyByte_free h.old ?_
    exact h.left_none fun kv hkv => hv kv hkv key hkey
  unfold State.readPart
  rw [h.src] at hk ⊢
  dsimp only
  rw [hk]
  dsimp only
  rw [hstream, if_neg Bool.false_ne_true, hmap]
  rfl

end

theorem modSlot_slot_of {g : Slot → Slot} (hz : s.slot t o n = some z) : (s.modSlot t o n g).slot t o n = some (g z) := by
  rw [modSlot_slot_self, hz]
  rfl

/-- What a transfer writes: memory, and in its slot the bytes overwritten. -/
theorem OneCopy.writePart_mem_slot {v : Nat} (h : OneCopy z va vb) (hb : s.unitAt t o vb z.esize 1 = .at_ lb tb)
    (hz : s.slot t o n = some z) :
    (s.writePart t o n z 0 0 z.esize v false).mem = writeKeys s.mem (placeKeys lb tb z.esize) v ∧
      ∃ l, (s.writePart t o n z 0 0 z.esize v false).slot t o n = some { z with old := l } := by
  have hk := h.moveKeys_dest hb
  obtain ⟨q, hq⟩ := touchKeys_cases (s := { s with mem := writeKeys s.mem (placeKeys lb tb z.esize) v }) (placeKeys lb tb z.esize)
  obtain ⟨i, l, hl⟩ := unitSpan_cases (s := { s with mem := writeKeys s.mem (placeKeys lb tb z.esize) v, power := q }) (t := t) (o := o)
    (z.spanK n) true (placeKeys lb tb z.esize)
  obtain ⟨u, hu, hm, hs⟩ : ∃ u, ({ s with mem := writeKeys s.mem (placeKeys lb tb z.esize) v }.touchKeys
      (placeKeys lb tb z.esize)).unitSpan t o (z.spanK n) true (placeKeys lb tb z.esize) = u ∧
      u.mem = writeKeys s.mem (placeKeys lb tb z.esize) v ∧ u.slot t o n = some z := by
    refine ⟨_, rfl, ?_, ?_⟩
    · rw [hq, hl]
    · rw [hq, hl]
      exact hz
  have hw : s.writePart t o n z 0 0 z.esize v false = u.modSlot t o n fun y => y.remember s.mem (placeKeys lb tb z.esize) := by
    unfold State.writePart
    rw [h.dst] at hk ⊢
    dsimp only
    rw [hk]
    dsimp only
    rw [hu]
  rw [hw]
  exact ⟨hm, _, modSlot_slot_of hs⟩

/-- How far a slot of an operator has come with its firing. -/
def Op.progress? (n : Nat) (p : Op) : Option (Nat × Bool) := (Op.slot? n p).map fun z => (z.elem, z.finished)

theorem progress_view : View (Op.progress? n) where
  kind p q h := by
    obtain ⟨pl, fa, ff, re, po, hd, fi, k⟩ := p
    obtain ⟨pl', fa', ff', re', po', hd', fi', k'⟩ := q
    cases h
    rfl
  withdrawn p := by
    obtain ⟨pl, fa, ff, re, po, hd, fi, k⟩ := p
    cases k with
    | copy c =>
      show (((c.slots.map _)[n]?).map _) = (c.slots[n]?).map _
      rw [List.getElem?_map, Option.map_map]
      rfl
    | _ => rfl

theorem progress_of_slot (hz : s.slot t o n = some z) : s.view (Op.progress? n) t o = some (z.elem, z.finished) := by
  have e : s.view (Op.progress? n) t o = (s.slot t o n).map fun z => (z.elem, z.finished) := by
    rw [slot_eq_view, State.view, State.view, Option.map_bind]
    rfl
  rw [e, hz]
  rfl

theorem slot_of_progress {e : Nat} {b : Bool} (h : s.view (Op.progress? n) t o = some (e, b)) :
    ∃ z, s.slot t o n = some z ∧ z.elem = e ∧ z.finished = b := by
  have e' : s.view (Op.progress? n) t o = (s.slot t o n).map fun z => (z.elem, z.finished) := by
    rw [slot_eq_view, State.view, State.view, Option.map_bind]
    rfl
  rw [e'] at h
  obtain ⟨z, hz, hp⟩ := Option.map_eq_some_iff.mp h
  cases hp
  exact ⟨z, hz, rfl, rfl⟩

theorem countFiring_mem : (s.countFiring t o).mem = s.mem := by
  unfold State.countFiring
  rcases checkStopCond_cases (s := s.modOp t o fun p => { p with firings := p.firings + 1 }) (t := t) (o := o) with e | ⟨l, e⟩
  · rw [e]
    rfl
  · rw [e]
    rfl

theorem copyFaulted_cases {m : Nat} : ∃ l, s.copyFaulted t o z m = { s with misses := l } := by
  have hstep (u : State) (a : Nat × Nat) : ∃ l, (match u.unitAt t o a.1 m a.2 with
      | .fault s' _ _ => s'
      | _ => u) = { u with misses := l } := by
    split
    · next s' g v h => exact unitAt_fault h
    · exact ⟨u.misses, rfl⟩
  unfold State.copyFaulted
  generalize z.vas = as
  induction as generalizing s with
  | nil => exact ⟨s.misses, rfl⟩
  | cons a as ih =>
    obtain ⟨l, hl⟩ := hstep s a
    obtain ⟨l', hl'⟩ := ih (s := { s with misses := l })
    exact ⟨l', (congrArg (fun u => List.foldl _ u as) hl).trans hl'⟩

/-- The step after a transfer: memory as the transfer left it, and the slot one element on. -/
theorem OneCopy.copyOn_mem_slot {x : Slot} {l : List (Nat × Byte)} (h : OneCopy z va vb) (hx : x = { z with old := l })
    (hs : s.slot t o n = some x) : (s.copyOn t o n z 1 0).mem = s.mem ∧
      ∃ z', (s.copyOn t o n z 1 0).slot t o n = some z' ∧ z'.elem = 1 ∧ z'.finished = true := by
  subst hx
  obtain ⟨q, hq⟩ := copyFaulted_cases (s := s) (t := t) (o := o) (z := z) (m := z.needBytes)
  obtain ⟨u, hu, hum, y, hus, hye, hyf, hyd⟩ : ∃ u, ((s.copyFaulted t o z z.needBytes).modSlot t o n fun y =>
      { y with elem := z.elem + 1, sub := 0, inTok := y.inTok.drop 1, inPos := z.inPos + 1, stall := none, fetch := none,
               finished := decide (z.elem + 1 ≥ z.total) }) = u ∧ u.mem = s.mem ∧ ∃ y, u.slot t o n = some y ∧ y.elem = 1 ∧
      y.finished = true ∧ y.dst = .addr vb := by
    refine ⟨_, rfl, ?_, _, modSlot_slot_of (z := { z with old := l }) ?_, ?_, ?_, h.dst⟩
    · rw [hq]
      rfl
    · rw [hq]
      exact hs
    · rw [h.elem]
    · rw [h.elem, h.total_eq]
      rfl
  have hpush : u.pushPacked t o n = u := by
    unfold State.pushPacked
    rw [hus]
    dsimp only
    rw [hyd]
  have hc : s.copyOn t o n z 1 0 = (u.busy (u.lctxOf t)).countFiring t o := by
    unfold State.copyOn
    dsimp only
    rw [hu, hpush]
  rw [hc]
  refine ⟨countFiring_mem.trans hum, slot_of_progress ?_⟩
  rw [progress_view.countFiring]
  have hp := progress_of_slot hus
  rw [hye, hyf] at hp
  exact hp

theorem findSome?_head {β γ : Type} {f : β → Option γ} {a : β} {l : List β} {c : γ} (h : f a = some c) :
    (a :: l).findSome? f = some c := by
  rw [List.findSome?_cons, h]

/-- What it reads, it writes. -/
theorem OneCopy.moveParts_eq {v : Nat} (h : OneCopy z va vb) (hr : s.readPart t o z 0 0 z.esize = .val v) :
    s.moveParts t o n z 1 0 = s.writePart t o n z 0 0 z.esize v false := by
  rw [State.moveParts, h.part_eq, hr, h.src]
  rfl

/-- What a transfer of such a firing leaves (R345 to R347). -/
theorem OneCopy.copyMove_eq (h : OneCopy z va vb) (hz : s.slot t o n = some z) (ha : s.unitAt t o va z.esize 0 = .at_ la ta)
    (hb : s.unitAt t o vb z.esize 1 = .at_ lb tb) (hh : s.bankHolds (placeKeys lb tb z.esize) = false)
    (hv : ∀ kv, s.vaKeys (s.lctxOf t) vb z.esize 1 = some kv → ∀ key ∈ placeKeys la ta z.esize, key ∉ kv)
    (hf : z.fetch = some .here ∨ z.fetch = none ∧ (placeKeys la ta z.esize).any isRemote = false) :
    ∃ u, s.copyMove t o n z = some u ∧ u.mem = writeKeys s.mem (placeKeys lb tb z.esize) (s.readKeys (placeKeys la ta z.esize)) ∧
      ∃ z', u.slot t o n = some z' ∧ z'.elem = 1 ∧ z'.finished = true := by
  obtain ⟨q, hq⟩ := touchKeys_cases (s := s) (placeKeys la ta z.esize)
  have hstream : z.src.stream = false := by rw [h.src]; rfl
  have htouch : s.touchSource t o z z.moveBytes = { s with power := q } := by
    have hk := h.moveKeys_source ha
    unfold State.touchSource
    rw [h.src] at hk ⊢
    dsimp only
    rw [h.elem, h.sub, h.moveBytes_eq, hk]
    exact hq
  have hread := h.readPart_eq (s := { s with power := q }) (unitAt_power ha) fun kv hkv => hv kv (power_tables.vaKeys.symm.trans hkv)
  have hparts : ({ s with power := q } : State).moveParts t o n z 1 z.elem = ({ s with power := q } : State).writePart t o n z 0 0 z.esize
      (s.readKeys (placeKeys la ta z.esize)) false := by
    rw [h.elem]
    exact h.moveParts_eq hread
  have hcount (u : State) : u.countSource t z 1 = u := by
    unfold State.countSource
    rw [h.src]
  obtain ⟨hmem, l, hslot⟩ := h.writePart_mem_slot (s := { s with power := q }) (v := s.readKeys (placeKeys la ta z.esize)) (unitAt_power hb) hz
  obtain ⟨hm', hs'⟩ := h.copyOn_mem_slot rfl hslot
  refine ⟨_, ?_, hm'.trans hmem, hs'⟩
  unfold State.copyMove
  dsimp only
  rw [h.waits_eq ha hb, h.held_eq hb hh, h.awaits_eq ha hf, h.stall_eq ha hb, h.elemFault_eq ha hb (hf.imp_right And.left)]
  rw [htouch, h.whole_eq, h.moves_eq, if_pos rfl, hparts, hcount]
  rw [h.dst]
  rfl

theorem copyStep_move (ho : s.copyOpen t o = true) (hd : s.copyDeferred t = false) (hz : s.slot t o n = some z) (hf : z.firing = true)
    (hfin : z.finished = false) (hsh : z.shTaken = true) (hdh : z.dhTaken = true) (hst : z.stall = none) (hsrc : z.src = .addr va) :
    s.copyStep t o n = s.copyMove t o n z := by
  have hw : (!s.copyOpen t o || !z.firing || z.finished || !z.shTaken || !z.dhTaken || (z.stall.map (·.waiting)).getD false ||
      s.copyDeferred t) = false := by
    rw [ho, hf, hfin, hsh, hdh, hst, hd]
    rfl
  unfold State.copyStep
  rw [hz]
  dsimp only
  rw [hw, if_neg Bool.false_ne_true, hsrc]

/-- A transfer of a context entry (R345). -/
theorem copyTransfer_next {x y : Nat} {p : Op} {c : Copy} {u v : State} (hu : s.copyHandles (tileKey x y) = u)
    (hl : aget copyPort (u.tile (tileKey x y)).lastIssue ≠ some u.fc) (ht : u.ticks (tileKey x y) = true)
    (hops : u.opsAt (tileKey x y) (((u.tile (tileKey x y)).copyRr + 1) % 8) = [(t, o, p)]) (hc : p.kind = .copy c)
    (hs : u.copyStep t o ((c.rr + 1) % 16) = some v) :
    exec (.copyTransfer x y) s = .next ((v.modCopy t o fun c' => { c' with rr := (c.rr + 1) % 16 }).modTile (tileKey x y) fun z =>
      { z with copyRr := ((u.tile (tileKey x y)).copyRr + 1) % 8,
               lastIssue := aset copyPort (v.modCopy t o fun c' => { c' with rr := (c.rr + 1) % 16 }).fc z.lastIssue }) := by
  have he : exec (.copyTransfer x y) s = execCopyTransfer x y s := rfl
  have hentry : u.copyEntry (tileKey x y) (((u.tile (tileKey x y)).copyRr + 1) % 8) =
      some (v.modCopy t o fun c' => { c' with rr := (c.rr + 1) % 16 }) := by
    rw [State.copyEntry, hops]
    refine findSome?_head ?_
    dsimp only
    rw [hc]
    refine findSome?_head ?_
    dsimp only
    rw [Nat.add_zero, hs]
    rfl
  have hw : (aget copyPort (u.tile (tileKey x y)).lastIssue == some u.fc || !u.ticks (tileKey x y)) = false := by
    rw [beq_eq_false_iff_ne.mpr hl, ht]
    rfl
  rw [he, execCopyTransfer]
  dsimp only
  rw [hu, hw, if_neg Bool.false_ne_true]
  refine congrArg Host.Outcome.next (congrArg (Option.getD · u) (findSome?_head ?_))
  dsimp only
  rw [Nat.add_zero, hentry]
  rfl

/-! ## The statement -/

theorem modCopy_rr_slot {m : Nat} : (s.modCopy t o fun c => { c with rr := m }).slot t o n = s.slot t o n := by
  rw [slot_eq_view, slot_eq_view, State.view, State.view, State.modCopy, modOp_op_self]
  rcases s.op t o with _ | ⟨pl, fa, ff, re, po, hd, fi, k⟩
  · rfl
  · cases k <;> rfl

theorem inbox_modInbox {k : OpKind} {b : Inbox} {g : Inbox → Inbox} (h : k.inbox? = some b) : (k.modInbox g).inbox? = some (g b) := by
  cases k with
  | matrix m => exact congrArg some (congrArg g (Option.some.inj h))
  | copy m => exact congrArg some (congrArg g (Option.some.inj h))
  | walker m => exact congrArg some (congrArg g (Option.some.inj h))
  | spline m => exact congrArg some (congrArg g (Option.some.inj h))
  | cell m => cases h
  | vec m => cases h
  | mem m => cases h
  | fibre m => cases h

/-- A state in which a command has added to counter h, and done no more with counters. -/
theorem tlAdd_frame {h : Nat} {v : State} {w : Dbl} (hv : v.timeline = s.timeline) (hb : v.tlBad h = false) :
    (v.tlAdd h w).tl h = s.tl h + w ∧ ∀ g, g ≠ h → (v.tlAdd h w).tl g = s.tl g := by
  refine ⟨?_, fun g hg => (tlAdd_other hg).trans (tl_congr hv)⟩
  rw [tlAdd_self hb, tl_congr hv]

theorem zeroExtend_low (x : BitVec 32) : x.zeroExtend 64 = BitVec.ofNat 64 x.toNat := by
  apply BitVec.eq_of_toNat_eq
  rw [BitVec.toNat_ofNat]
  exact BitVec.toNat_setWidth 64 x

theorem CmdRan.inbox_started {b : Inbox} (h : CmdRan Started s t o u) (hb : s.inbox (.op t o) = some b) :
    ∃ b', u.inbox (.op t o) = some b' ∧ Started b b' := by
  obtain ⟨g, hg, hu⟩ := h.op
  rw [State.inbox] at hb ⊢
  obtain ⟨q, hq, hb⟩ := Option.bind_eq_some_iff.mp hb
  refine ⟨g b, ?_, hg b⟩
  rw [hu, hq]
  exact (inbox_modInbox hb)

/-- Settles O46: what the commands of a copy engine, its triggers, its transfers and the ends of its firings leave. -/
theorem copyEngines : Obligations.CopyEngines := by
  unfold Obligations.CopyEngines
  refine ⟨fun s t o p ho => ?_, fun s t o n z tok hz ho ht hb hh hd ha hf => ?_, ?_, fun s t o n z hz hf hfin hout hg hfr hmay => ?_⟩
  · intro fld h
    refine ⟨fun z ks hz hf hk => ?_, fun z hz hf ha => ?_, fun hst hset => ?_,
      fun hmay => ?_, fun b hb hr hbad hrel => ?_, fun b hb hle => ?_⟩
    · intro x hs
      exact ⟨_, exec_cpArm ho hz hf hk hs, cpArm_slot hz⟩
    · exact ⟨_, exec_cpFire ho hz hf ha, fireSlot_slot (fireBegun_slot.trans hz)⟩
    · refine ⟨_, exec_bufWait ho hst hset, ?_⟩
      cases (p.dbl 1).getLsbD 6 with
      | true => exact ⟨bufState_setBuf_self (BitVec.isLt _), fun g hg => (bufState_setBuf_other hg).trans oneStep_ran.bufState⟩
      | false => exact ⟨oneStep_ran.bufState.trans hst, fun g _ => oneStep_ran.bufState⟩
    · exact ⟨_, exec_bufSet ho hmay, bufState_setBuf_self (BitVec.isLt _), fun g hg => (bufState_setBuf_other hg).trans oneStep_ran.bufState⟩
    · obtain ⟨u, hu⟩ := Option.isSome_iff_exists.mp hrel
      obtain ⟨ht, hp⟩ := engineRelease_timeline hu
      have hstep : CmdRan Started u t o (u.oneStep (.op t o) p 0) := oneStep_ran
      have hbad' : (u.oneStep (.op t o) p 0).tlBad h = false := by
        rw [hstep.tlBad, State.tlBad, hp]
        exact hbad
      have hadd := tlAdd_frame (v := (u.oneStep (.op t o) p 0).modInbox (.op t o) fun b => { b with relAt := none })
        (w := ((p.dbl 1).extractLsb' 0 32).zeroExtend 64) (hstep.timeline.trans ht) hbad'
      rw [zeroExtend_low] at hadd
      refine ⟨_, exec_tlInc ho hb hr hu, ?_⟩
      rw [zeroExtend_low]
      exact hadd
    · exact ⟨_, exec_tlWait ho hle, oneStep_ran.timeline, oneStep_ran.inbox_started hb⟩
  · obtain ⟨z', hz', hf', he', -⟩ := fireSlot_slot (r := none) hz
    exact ⟨_, exec_copyTrigger hz ho ht hb hh hd ha hf, z', (slot_congr popTok_op).trans hz', hf', he'⟩
  · intro s x y t o op c z va vb la lb ta tb tile u n ka kb hl ht hops hc ho hd hz hf hfin hsh hdh hst he hsub hold hsrc hdst hsz hfa hfb hdims
      ha hb hbank hv hfetch
    have h : OneCopy z va vb := ⟨he, hsub, hold, hsrc, hdst, hsz, hfa, hfb, hdims⟩
    obtain ⟨v, hmove, hmem, z', hz', hz1, hz2⟩ := h.copyMove_eq hz ha hb hbank hv hfetch
    have hstep := (copyStep_move ho hd hz hf hfin hsh hdh hst hsrc).trans hmove
    refine ⟨_, copyTransfer_next rfl hl ht hops hc hstep, hmem, z', ?_, hz1, hz2⟩
    have hrr : ∀ w : State, (w.modTile tile fun z =>
        { z with copyRr := ((u.tile tile).copyRr + 1) % 8, lastIssue := aset copyPort w.fc z.lastIssue }).slot t o n = w.slot t o n :=
      fun _ => rfl
    exact (hrr _).trans (modCopy_rr_slot.trans hz')
  · obtain ⟨s', h1, h2, h3⟩ := exec_copyFiringComplete hz hf hfin hout hg hfr hmay
    exact ⟨s', h1, h2, fun g hg => (h3 g).trans (handlesMoved_dest hg), fun g hg hd => (h3 g).trans (handlesMoved_source hg hd)⟩

end Sys2Proof.Machine

namespace Sys2Proof.Machine

/-! PROOFS. The commands of a bank ALU and its line operations (R341 to R344). -/

variable {s u x : State} {b c n i : Nat} {p : Packet} {k : BankCmd} {ks : List Nat}

/-! ## Commands start -/

theorem bankCmd_aset {v : BankCmd} (h : (aget b s.banks).isSome = true) :
    ({ s with banks := amod b (fun y => { y with running := aset c v y.running }) s.banks } : State).bankCmd b c = some v := by
  obtain ⟨y, hy⟩ := Option.isSome_iff_exists.mp h
  rw [State.bankCmd, aget_amod_self, hy]
  exact aget_aset_self

theorem exec_startBank (ho : s.inboxOpen (.bank b c) = true) (hn : s.bankCmd b c = none) :
    (s.startBank b c p).bankCmd b c = some (bankCmdOf c p (s.cmdId (.bank b c))) ∧ (s.startBank b c p).mem = s.mem := by
  have hsome : (aget b s.banks).isSome = true := by
    cases hb : aget b s.banks with
    | some _ => rfl
    | none =>
      rw [State.inboxOpen, State.inbox, hb] at ho
      cases ho
  have hready : (s.bankCmd b c).isNone = true := by rw [hn]; rfl
  rw [State.startBank, command_ready ho hready]
  refine ⟨bankCmd_aset ?_, rfl⟩
  show (aget b (amod b _ s.banks)).isSome = true
  rw [aget_amod_self, Option.isSome_map]
  exact hsome

/-! ## Elements one after the other -/

section
variable {w : Nat → State} {f : Nat → Nat → Nat}

theorem BankSteps.frame {val : State → Nat → Nat → Nat} (h : BankSteps s k n val w) {j : Nat} (hj : j ≤ n) :
    w j = { s with mem := (w j).mem } := by
  induction j with
  | zero => rw [h.first]
  | succ j ih =>
    obtain ⟨ks, -, -, hnext⟩ := h.next j hj
    rw [hnext, ih (Nat.le_of_succ_le hj)]

theorem Tables.setMem (h : Tables s x) {m : List Host.Cell} : Tables ({ s with mem := m } : State) { x with mem := m } :=
  ⟨rfl, h.roots, h.hostAbsent, h.aqis, h.ctx⟩

/-- The steps of a range command in a state with the same tables. -/
theorem BankSteps.moved (h : BankSteps s k n (fun _ => f) w) (ht : Tables s x) :
    BankSteps x k n (fun _ => f) fun j => { x with mem := (w j).mem } where
  first := by rw [h.first, ← ht.mem]
  next j hj := by
    obtain ⟨ks, h0, h1, hnext⟩ := h.next j hj
    have hj' := h.frame (Nat.le_of_lt hj)
    have hx : Tables (w j) { x with mem := (w j).mem } := by
      rw [hj']
      exact ht.setMem
    refine ⟨ks, hx.vaKeys.trans h0, hx.vaKeys.trans h1, ?_⟩
    rw [hx.readKeys, hnext]

/-- One element of the destination is read and written. -/
theorem BankSteps.elem (h : BankSteps s k n (fun _ => f) w) {j : Nat} (hj : j < n) :
    ∃ old, (w j).vaRead k.lctx (k.dst + (k.i + j) * k.size) k.size = some old ∧
      (w j).vaWrite k.lctx (k.dst + (k.i + j) * k.size) k.size (f j old) = some (w (j + 1)) := by
  obtain ⟨ks, h0, h1, hnext⟩ := h.next j hj
  refine ⟨(w j).readKeys ks, ?_, ?_⟩
  · rw [State.vaRead, h0]
    rfl
  · rw [State.vaWrite, h1, hnext]
    rfl

/-- Values applied to the elements of a line, one after the other. -/
theorem BankSteps.bankPut {vs : List Nat} (h : BankSteps s k vs.length (fun _ j old => k.apply old (vs.getD j 0)) w) :
    s.bankPut k k.i vs = w vs.length := by
  have hrest (m j : Nat) (hm : j + m = vs.length) : (w j).bankPut k (k.i + j) (vs.drop j) = w vs.length := by
    induction m generalizing j with
    | zero =>
      rw [List.drop_eq_nil_of_le (by omega), ← hm]
      rfl
    | succ m ih =>
      have hj : j < vs.length := by omega
      obtain ⟨old, hr, hw⟩ := h.elem hj
      rw [List.getD_eq_getElem _ _ hj] at hw
      rw [List.drop_eq_getElem_cons hj, State.bankPut]
      rw [hr]
      dsimp only
      rw [hw]
      exact ih (j + 1) (by omega)
  have h0 := hrest vs.length 0 (Nat.zero_add _)
  rw [h.first] at h0
  exact h0

/-- Source elements applied, each read after the one before it was written. -/
theorem BankSteps.bankEach {v : Nat → Nat} (h : BankSteps s k n (fun _ j old => k.apply old (v j)) w)
    (hv : ∀ j, j < n → (w j).bankRemote k (k.i + j) = false ∧ (w j).vaRead k.lctx (k.src + (k.i + j) * k.size) k.size = some (v j)) :
    s.bankEach k n k.i = (w n, true) := by
  have hrest (m j : Nat) (hm : j + m = n) : (w j).bankEach k m (k.i + j) = (w n, true) := by
    induction m generalizing j with
    | zero =>
      rw [← hm]
      rfl
    | succ m ih =>
      have hj : j < n := by omega
      obtain ⟨old, hr, hw⟩ := h.elem hj
      obtain ⟨hrem, hsrc⟩ := hv j hj
      rw [State.bankEach]
      rw [hrem, hsrc, hr, if_neg Bool.false_ne_true]
      dsimp only
      rw [hw]
      exact ih (j + 1) (by omega)
  have h0 := hrest n 0 (Nat.zero_add _)
  rw [h.first] at h0
  exact h0

/-- A value written to the elements of a line. -/
theorem BankSteps.fill {v : Nat} (h : BankSteps s k n (fun _ _ _ => v) w) :
    (List.range n).foldl (fun s j => (s.vaWrite k.lctx (k.dst + (k.i + j) * k.size) k.size v).getD s) s = w n := by
  have hrest (m : Nat) (hm : m ≤ n) :
      (List.range m).foldl (fun s j => (s.vaWrite k.lctx (k.dst + (k.i + j) * k.size) k.size v).getD s) s = w m := by
    induction m with
    | zero => exact h.first.symm
    | succ m ih =>
      obtain ⟨old, -, hw⟩ := h.elem hm
      rw [List.range_succ, List.foldl_append, ih (Nat.le_of_succ_le hm)]
      exact congrArg (Option.getD · _) hw
  exact hrest n (Nat.le_refl n)

end

/-- The running value of a reduction over the elements of a line (R343). -/
theorem bankFold_run {r v : Nat → Nat} (hv : ∀ j, j < n → k.src + (k.i + j) * k.size ≠ k.dst →
      s.vaRead k.lctx (k.src + (k.i + j) * k.size) k.size = some (v j))
    (hr : ∀ j, j < n → r (j + 1) = k.apply (r j) (if k.src + (k.i + j) * k.size = k.dst then r j else v j)) :
    s.bankFold k n k.i (r 0) = r n := by
  have hrest (m j : Nat) (hm : j + m = n) : s.bankFold k m (k.i + j) (r j) = r n := by
    induction m generalizing j with
    | zero =>
      rw [← hm]
      rfl
    | succ m ih =>
      have hj : j < n := by omega
      rw [State.bankFold]
      have hstep : k.apply (r j) (if k.src + (k.i + j) * k.size = k.dst then r j
          else (s.vaRead k.lctx (k.src + (k.i + j) * k.size) k.size).getD 0) = r (j + 1) := by
        rw [hr j hj]
        split
        · rfl
        · next hne => rw [hv j hj hne]; rfl
      rw [hstep]
      exact ih (j + 1) (by omega)
  exact hrest n 0 (Nat.zero_add _)

/-! ## Ends of commands and of lines -/

/-- One command runs in a bank. -/
def RunsIn (s : State) (b c : Nat) (k : BankCmd) : Prop := ∃ y, aget b s.banks = some y ∧ y.running = [(c, k)]

theorem pauseCheck_rest : ∃ ctxs l m i q, s.pauseCheck c =
    { s with ctxs := ctxs, adminWait := l, adminComp := m, adminTail := i, adminPhase := q } := by
  unfold State.pauseCheck
  cases s.ctx c with
  | none => exact ⟨s.ctxs, s.adminWait, s.adminComp, s.adminTail, s.adminPhase, rfl⟩
  | some x =>
    dsimp only
    split
    · exact ⟨s.ctxs, s.adminWait, s.adminComp, s.adminTail, s.adminPhase, rfl⟩
    · cases x.pauseTag with
      | none => exact ⟨_, _, _, _, _, rfl⟩
      | some tag => exact ⟨_, _, _, _, _, rfl⟩

theorem endCmd_bank {id st : Nat} : ∃ g : Inbox → Inbox, ∃ cores, s.endCmd (.bank b c) id st =
    { s.modInbox (.bank b c) g with cores := cores } ∨ s.endCmd (.bank b c) id st = s := by
  unfold State.endCmd
  split
  · exact ⟨fun b => b, s.cores, .inr rfl⟩
  · next r _ =>
    obtain ⟨cores, hc⟩ := coreCmdDone_rest (s := s.modInbox (.bank b c) fun b =>
      b.setReply id fun x => { x with status := some st, doneAt := s.fc }) (c := r.core) (copy := s.engineOf (.bank b c) == 2)
    exact ⟨_, cores, .inl hc⟩

theorem runsIn_modInbox {g : Inbox → Inbox} (h : RunsIn s b c k) : RunsIn (s.modInbox (.bank b c) g) b c k := by
  obtain ⟨y, hy, hk⟩ := h
  refine ⟨{ y with queues := amod c g y.queues }, ?_, hk⟩
  show aget b (amod b _ s.banks) = _
  rw [aget_amod_self, hy]
  rfl

theorem bankCmd_of_banks {s u : State} (h : u.banks = s.banks) : u.bankCmd b c = s.bankCmd b c := by
  rw [State.bankCmd, State.bankCmd, h]

theorem bankCmd_modInbox {g : Inbox → Inbox} {b' c' : Nat} : (s.modInbox (.bank b' c') g).bankCmd b c = s.bankCmd b c := by
  show (aget b (amod b' _ s.banks)).bind _ = (aget b s.banks).bind _
  by_cases e : b = b'
  · subst e
    rw [aget_amod_self, Option.bind_map]
    rfl
  · rw [aget_amod_other e]

theorem endCmd_bankCmd {b' c' id st : Nat} : (s.endCmd (.bank b' c') id st).bankCmd b c = s.bankCmd b c ∧
    (s.endCmd (.bank b' c') id st).mem = s.mem := by
  obtain ⟨g, cores, h | h⟩ := endCmd_bank (s := s) (b := b') (c := c') (id := id) (st := st)
  · rw [h]
    exact ⟨bankCmd_modInbox (s := s), rfl⟩
  · rw [h]
    exact ⟨rfl, rfl⟩

/-- A command that ends runs no more. -/
theorem bankEnd_gone {st : Nat} (h : RunsIn s b c k) (hc : k.lctx = c) :
    (s.bankEnd b k st).bankCmd b c = none ∧ (s.bankEnd b k st).mem = s.mem := by
  obtain ⟨y, hy, hr⟩ := h
  have hdel : ({ s with banks := amod b (fun x => { x with running := adel c x.running }) s.banks } : State).bankCmd b c = none := by
    rw [State.bankCmd, aget_amod_self, hy]
    show aget c (adel c y.running) = none
    rw [hr, adel, if_pos rfl]
    rfl
  rw [State.bankEnd, hc]
  obtain ⟨ctxs, l, m, i, q, hp⟩ := pauseCheck_rest (c := c)
    (s := ({ s with banks := amod b (fun x => { x with running := adel c x.running }) s.banks } : State).endCmd (.bank b c) k.reply st)
  rw [hp]
  obtain ⟨hcmd, hmem⟩ := endCmd_bankCmd (b := b) (c := c) (b' := b) (c' := c) (id := k.reply) (st := st)
    (s := { s with banks := amod b (fun x => { x with running := adel c x.running }) s.banks })
  exact ⟨hcmd.trans hdel, hmem⟩

theorem modBankCmd_runs {g : BankCmd → BankCmd} (h : RunsIn s b c k) : (s.modBankCmd b c g).bankCmd b c = some (g k) := by
  obtain ⟨y, hy, hr⟩ := h
  rw [State.modBankCmd, State.bankCmd, aget_amod_self, hy]
  show aget c (amod c g y.running) = _
  rw [hr, amod, if_pos rfl, aget, if_pos rfl]

/-- The elements of a line are done: the command goes on behind them, or ends. -/
theorem bankOn_after (h : RunsIn s b c k) (hc : k.lctx = c) :
    (s.bankOn b k n).bankCmd b c = k.after n [] ∧ (s.bankOn b k n).mem = s.mem := by
  subst hc
  rw [State.bankOn, BankCmd.after]
  split
  · exact bankEnd_gone h rfl
  · exact ⟨modBankCmd_runs h, rfl⟩

/-! ## Line operations -/

/-- The state in which a line operation of command `k` of context `c` is applied. -/
def State.lineAt (s : State) (b c : Nat) (k : BankCmd) : State :=
  ({ s.busy c with banks := amod b (fun y => { y with rr := c, nextAt := (s.busy c).fc + 2 }) (s.busy c).banks } : State).touchKeys
    (State.bankTarget { s.busy c with banks := amod b (fun y => { y with rr := c, nextAt := (s.busy c).fc + 2 }) (s.busy c).banks } k ++
      State.bankSource { s.busy c with banks := amod b (fun y => { y with rr := c, nextAt := (s.busy c).fc + 2 }) (s.busy c).banks } k)

theorem lineAt_tables : Tables s (s.lineAt b c k) := by
  rw [State.lineAt]
  obtain ⟨q, hq⟩ := touchKeys_cases (s := { s.busy c with
    banks := amod b (fun y => { y with rr := c, nextAt := (s.busy c).fc + 2 }) (s.busy c).banks })
    (State.bankTarget { s.busy c with banks := amod b (fun y => { y with rr := c, nextAt := (s.busy c).fc + 2 }) (s.busy c).banks } k ++
      State.bankSource { s.busy c with banks := amod b (fun y => { y with rr := c, nextAt := (s.busy c).fc + 2 }) (s.busy c).banks } k)
  rw [hq]
  exact ⟨rfl, rfl, rfl, rfl, (busy_tables (s := s) (c := c)).ctx⟩

theorem lineAt_runs (h : RunsIn s b c k) : RunsIn (s.lineAt b c k) b c k := by
  obtain ⟨y, hy, hr⟩ := h
  rw [State.lineAt]
  obtain ⟨q, hq⟩ := touchKeys_cases (s := { s.busy c with
    banks := amod b (fun y => { y with rr := c, nextAt := (s.busy c).fc + 2 }) (s.busy c).banks })
    (State.bankTarget { s.busy c with banks := amod b (fun y => { y with rr := c, nextAt := (s.busy c).fc + 2 }) (s.busy c).banks } k ++
      State.bankSource { s.busy c with banks := amod b (fun y => { y with rr := c, nextAt := (s.busy c).fc + 2 }) (s.busy c).banks } k)
  rw [hq]
  refine ⟨{ y with rr := c, nextAt := (s.busy c).fc + 2 }, ?_, hr⟩
  show aget b (amod b _ s.banks) = _
  rw [aget_amod_self, hy]
  rfl

section
variable {y : Bank} (hy : aget b s.banks = some y) (hat : y.nextAt ≤ s.fc) (hh : s.dev.halt = false) (hr : y.running = [(c, k)])
  (hc : k.lctx = c) (hw : k.waiting = false) (hheld : s.bankHeldBy (some (b, c)) (s.bankTarget k) = false)
include hy hat hh hr hc hw hheld

theorem exec_bankLineOperation : exec (.bankLineOperation b) s =
    .next (if k.opc = 5 && k.got.isEmpty then (s.busy c).bankAsk b k else (s.lineAt b c k).bankLine b k) := by
  have he : exec (.bankLineOperation b) s = execBankLineOperation b s := rfl
  have hgo : ¬ ((decide (y.nextAt > s.fc) || s.dev.halt) = true) := by
    rw [decide_eq_false (by omega), hh]
    decide
  have hready : s.bankReady b k = true := by
    rw [State.bankReady, hw, hc, hheld]
    rfl
  have horder : sortBy (fun z : Nat × BankCmd => (z.1 + 256 - y.rr - 1) % 256) (y.running.filter fun z => s.bankReady b z.2) = [(c, k)] := by
    rw [hr, List.filter_cons, if_pos hready]
    rfl
  rw [he, execBankLineOperation, hy]
  dsimp only
  rw [if_neg hgo, horder]
  dsimp only
  split
  · rfl
  · rfl

end

/-! ### What each command's line operation leaves -/

theorem Tables.bankRemote (h : Tables s x) : x.bankRemote k i = s.bankRemote k i := by
  rw [State.bankRemote, State.bankRemote, h.placeNow]

/-- A line whose elements are written: the command goes on behind them, or ends. -/
theorem lineDone {m : List Host.Cell} (h : RunsIn s b c k) (hc : k.lctx = c) :
    (({ s with mem := m } : State).bankOn b k n).mem = m ∧ (({ s with mem := m } : State).bankOn b k n).bankCmd b c = k.after n [] := by
  obtain ⟨hcmd, hmem⟩ := bankOn_after (s := { s with mem := m }) (n := n) h hc
  exact ⟨hmem, hcmd⟩

section
variable (hx : Tables s x) (hrun : RunsIn x b c k) (hc : k.lctx = c)
include hx hrun hc

/-- R342: the function's value at its place, and the command is over. -/
theorem bankLine_rmw (h0 : s.vaKeys c k.dst k.size 0 = some ks) (h1 : s.vaKeys c k.dst k.size 1 = some ks) (ho : k.opc = 1) :
    (x.bankLine b k).mem = writeKeys s.mem ks (k.apply (s.readKeys ks) k.v.toNat) ∧ (x.bankLine b k).bankCmd b c = none := by
  subst hc
  obtain ⟨z, hput, hmem, hrun'⟩ : ∃ z, x.bankPut k 0 [k.v.toNat] = z ∧
      z.mem = writeKeys s.mem ks (k.apply (s.readKeys ks) k.v.toNat) ∧ RunsIn z b k.lctx k := by
    refine ⟨{ x with mem := writeKeys s.mem ks (k.apply (s.readKeys ks) k.v.toNat) }, ?_, rfl, hrun⟩
    rw [State.bankPut, Nat.zero_mul, Nat.add_zero, State.vaRead, hx.vaKeys, h0]
    dsimp only [Option.map_some]
    rw [State.vaWrite, hx.vaKeys, h1, hx.readKeys, hx.mem]
    rfl
  have hline : x.bankLine b k = (if k.ret then (x.bankPut k 0 [k.v.toNat]).modInbox (.bank b k.lctx) (fun z => z.setReply k.reply fun r =>
      { r with value := some (BitVec.ofNat 32 ((x.vaRead k.lctx k.dst k.size).getD 0)) }) else x.bankPut k 0 [k.v.toNat]).bankEnd b k 0 := by
    unfold State.bankLine
    rw [ho]
    rfl
  rw [hline, hput]
  split
  · obtain ⟨hcmd, hm⟩ := bankEnd_gone (st := 0) (runsIn_modInbox (g := fun z => z.setReply k.reply fun r =>
      { r with value := some (BitVec.ofNat 32 ((x.vaRead k.lctx k.dst k.size).getD 0)) }) hrun') rfl
    exact ⟨hm.trans hmem, hcmd⟩
  · obtain ⟨hcmd, hm⟩ := bankEnd_gone (st := 0) hrun' rfl
    exact ⟨hm.trans hmem, hcmd⟩

/-- R343: the running value goes on, and is written with the last element. -/
theorem bankLine_red {r v : Nat → Nat} (h0 : s.vaKeys c k.dst k.size 0 = some ks) (h1 : s.vaKeys c k.dst k.size 1 = some ks)
    (ho : k.opc = 2) (hr0 : r 0 = k.got.headD (s.readKeys ks))
    (hv : ∀ j, j < k.inLine k.src → k.src + (k.i + j) * k.size ≠ k.dst →
      s.vaRead c (k.src + (k.i + j) * k.size) k.size = some (v j))
    (hr : ∀ j, j < k.inLine k.src → r (j + 1) = k.apply (r j) (if k.src + (k.i + j) * k.size = k.dst then r j else v j)) :
    (x.bankLine b k).bankCmd b c = k.after (k.inLine k.src) [r (k.inLine k.src)] ∧
      (x.bankLine b k).mem = if k.n ≤ k.i + k.inLine k.src then writeKeys s.mem ks (r (k.inLine k.src)) else s.mem := by
  subst hc
  have hread : (x.vaRead k.lctx k.dst k.size).getD 0 = s.readKeys ks := by
    rw [hx.vaRead, State.vaRead, h0]
    rfl
  have hfold : x.bankFold k (k.inLine k.src) k.i (k.got.headD ((x.vaRead k.lctx k.dst k.size).getD 0)) = r (k.inLine k.src) := by
    rw [hread, ← hr0]
    exact bankFold_run (fun j hj hne => hx.vaRead.trans (hv j hj hne)) hr
  have hwrite : (x.vaWrite k.lctx k.dst k.size (r (k.inLine k.src))).getD x =
      { x with mem := writeKeys s.mem ks (r (k.inLine k.src)) } := by
    rw [State.vaWrite, hx.vaKeys, h1, hx.mem]
    rfl
  have hline (z : Nat) (hz : x.bankFold k (k.inLine k.src) k.i (k.got.headD ((x.vaRead k.lctx k.dst k.size).getD 0)) = z) :
      x.bankLine b k = if k.i + k.inLine k.src ≥ k.n then ((x.vaWrite k.lctx k.dst k.size z).getD x).bankEnd b k 0
        else x.modBankCmd b k.lctx fun y => { y with i := y.i + k.inLine k.src, got := [z] } := by
    subst hz
    unfold State.bankLine
    rw [ho]
    rfl
  rw [hline _ hfold, hwrite, BankCmd.after]
  split
  · exact bankEnd_gone (s := { x with mem := writeKeys s.mem ks (r (k.inLine k.src)) }) hrun rfl
  · exact ⟨modBankCmd_runs hrun, hx.mem⟩

/-- R343: one value applied to the elements of a line. -/
theorem bankLine_scalar {w : Nat → State} (ho : k.opc = 3) (hs : k.scal = true)
    (h : BankSteps s k (k.inLine k.dst) (fun _ _ old => k.apply old k.v.toNat) w) :
    (x.bankLine b k).mem = (w (k.inLine k.dst)).mem ∧ (x.bankLine b k).bankCmd b c = k.after (k.inLine k.dst) [] := by
  have hlen : (List.replicate (k.inLine k.dst) k.v.toNat).length = k.inLine k.dst := List.length_replicate
  have hsteps : BankSteps s k (List.replicate (k.inLine k.dst) k.v.toNat).length
      (fun _ j old => k.apply old ((List.replicate (k.inLine k.dst) k.v.toNat).getD j 0)) w := by
    rw [hlen]
    refine ⟨h.first, fun j hj => ?_⟩
    rw [List.getD_eq_getElem _ _ (hlen.symm ▸ hj), List.getElem_replicate]
    exact h.next j hj
  have hput := (hsteps.moved hx).bankPut
  rw [hlen] at hput
  unfold State.bankLine
  rw [ho]
  dsimp only
  rw [hs, if_pos rfl, hput]
  exact lineDone hrun hc

/-- R343: source elements applied to the elements of a line. -/
theorem bankLine_each {w : Nat → State} {v : Nat → Nat} (ho : k.opc = 3) (hs : k.scal = false)
    (h : BankSteps s k (min (k.inLine k.dst) (k.inLine k.src)) (fun _ j old => k.apply old (v j)) w)
    (hv : ∀ j, j < min (k.inLine k.dst) (k.inLine k.src) →
      (w j).bankRemote k (k.i + j) = false ∧ (w j).vaRead c (k.src + (k.i + j) * k.size) k.size = some (v j)) :
    (x.bankLine b k).mem = (w (min (k.inLine k.dst) (k.inLine k.src))).mem ∧
      (x.bankLine b k).bankCmd b c = k.after (min (k.inLine k.dst) (k.inLine k.src)) [] := by
  subst hc
  have heach := (h.moved hx).bankEach fun j hj => by
    obtain ⟨hrem, hsrc⟩ := hv j hj
    have ht : Tables (w j) { x with mem := (w j).mem } := by
      rw [h.frame (Nat.le_of_lt hj)]
      exact hx.setMem
    exact ⟨ht.bankRemote.trans hrem, ht.vaRead.trans hsrc⟩
  unfold State.bankLine
  rw [ho]
  dsimp only
  rw [hs, if_neg Bool.false_ne_true, heach]
  exact lineDone hrun rfl

/-- R343: a value written to the elements of a line. -/
theorem bankLine_fill {w : Nat → State} (ho : k.opc = 4) (h : BankSteps s k (k.inLine k.dst) (fun _ _ _ => k.v.toNat) w) :
    (x.bankLine b k).mem = (w (k.inLine k.dst)).mem ∧ (x.bankLine b k).bankCmd b c = k.after (k.inLine k.dst) [] := by
  have hfill := (h.moved hx).fill
  unfold State.bankLine
  rw [ho]
  dsimp only
  rw [hfill]
  exact lineDone hrun hc

/-- R344: the peer's elements applied to those of a line. -/
theorem bankLine_coll {w : Nat → State} (ho : k.opc = 5) (hg : k.got ≠ [])
    (h : BankSteps s k k.got.length (fun _ j old => k.apply old (k.got.getD j 0)) w) :
    (x.bankLine b k).mem = (w k.got.length).mem ∧ (x.bankLine b k).bankCmd b c = k.after k.got.length [] := by
  have hput := (h.moved hx).bankPut
  have hne : k.got.isEmpty = false := by
    cases hk : k.got with
    | nil => exact absurd hk hg
    | cons => rfl
  unfold State.bankLine
  rw [ho]
  dsimp only
  rw [hne, if_neg Bool.false_ne_true, hput]
  exact lineDone hrun hc

end

/-- R344: a collective asks its peer for the elements of the next line, and waits. -/
theorem bankAsk_asks {y : Bank} {a : Nat} (hy : aget b s.banks = some y) (hr : y.running = [(c, k)]) (hc : k.lctx = c)
    (hp : s.placeNow c (k.src + k.i * k.size) (min (k.inLine k.dst) (k.inLine k.src) * k.size) 0 = some (.remote a, none)) :
    ((s.busy c).bankAsk b k).mem = s.mem ∧ ((s.busy c).bankAsk b k).bankCmd b c = some { k with waiting := true } ∧
      ∃ w ∈ ((s.busy c).bankAsk b k).spans, w.bank = some (b, c) ∧ w.write = false ∧ w.key = (Loc.remote a).key ∧
        w.bytes = min (k.inLine k.dst) (k.inLine k.src) * k.size ∧ w.k = k.i := by
  subst hc
  have hplace := (busy_tables (s := s) (c := k.lctx)).placeNow.trans hp
  unfold State.bankAsk
  dsimp only
  rw [hplace]
  exact ⟨rfl, modBankCmd_runs (s := s.busy k.lctx) (g := fun k => { k with waiting := true }) ⟨y, hy, hr⟩, _,
    List.mem_append_right _ (List.mem_singleton.mpr rfl), rfl, rfl, rfl, rfl, rfl⟩

/-! ## The statement -/

/-- Settles O47: the commands of a bank ALU start, and their line operations write what R342 to R344 say. -/
theorem bankCommands : Obligations.BankCommands := by
  unfold Obligations.BankCommands
  refine ⟨fun s b c p ho hn => ?_, fun s b c y k ks hy hat hh hr hc hw hheld => ?_⟩
  · intro starts
    obtain ⟨hcmd, hmem⟩ := exec_startBank (p := p) ho hn
    refine ⟨⟨_, rfl, hcmd, hmem⟩, ⟨_, rfl, hcmd, hmem⟩, ⟨_, rfl, hcmd, hmem⟩, ⟨_, rfl, hcmd, hmem⟩, fun hp => ?_⟩
    exact ⟨_, congrArg Host.Outcome.next (if_pos hp), hcmd, hmem⟩
  · intro line
    have hexec := exec_bankLineOperation hy hat hh hr hc hw hheld
    have hline {P : State → Prop} (hne : (decide (k.opc = 5) && k.got.isEmpty) = false) (h : P ((s.lineAt b c k).bankLine b k)) : line P := by
      rw [if_neg (Bool.eq_false_iff.mp hne)] at hexec
      exact ⟨_, hexec, h⟩
    have hop {m : Nat} (h : k.opc = m) (h5 : m ≠ 5) : (decide (k.opc = 5) && k.got.isEmpty) = false := by
      rw [h, decide_eq_false h5]
      rfl
    have ht : Tables s (s.lineAt b c k) := lineAt_tables
    have hrun : RunsIn (s.lineAt b c k) b c k := lineAt_runs ⟨y, hy, hr⟩
    refine ⟨fun h0 h1 => ⟨fun ho => hline (hop ho (by decide)) (bankLine_rmw ht hrun hc h0 h1 ho), fun r v ho hr0 => ?_⟩,
      fun u ho hs h => hline (hop ho (by decide)) (bankLine_scalar ht hrun hc ho hs h), fun u v ho hs => ?_,
      fun u ho h => hline (hop ho (by decide)) (bankLine_fill ht hrun hc ho h), fun ho => ?_⟩
    · intro n src hv hrec
      exact hline (hop ho (by decide)) (bankLine_red ht hrun hc h0 h1 ho hr0 hv hrec)
    · intro n h hv
      exact hline (hop ho (by decide)) (bankLine_each ht hrun hc ho hs h hv)
    · intro n
      refine ⟨fun a hg hp => ?_, fun u hg h => ?_⟩
      · rw [ho, hg] at hexec
        exact ⟨_, hexec, bankAsk_asks hy hr hc hp⟩
      · have hne : (decide (k.opc = 5) && k.got.isEmpty) = false := by
          cases hk : k.got with
          | nil => exact absurd hk hg
          | cons => exact Bool.and_false _
        exact hline hne (bankLine_coll ht hrun hc ho hg h)

end Sys2Proof.Machine

namespace Sys2Proof.Machine

/-! PROOFS. What the accesses of the units of P tiles change (R273, R324, R405), and what of a task is not its operators. -/

variable {s u v : State} {t o t' o' p n k : Nat}

/-! ## Tasks but for what their operators hold -/

/-- A task with nothing in its operators but their number. -/
def Task.bare (k : Task) : Task := { k with ops := k.ops.map fun _ => default }

/-- The tasks differ in what their operators hold alone. -/
def SameFrames (s u : State) : Prop := ∀ t, (u.task t).map Task.bare = (s.task t).map Task.bare

theorem SameFrames.refl (s : State) : SameFrames s s := fun _ => rfl

theorem SameFrames.trans (h : SameFrames s u) (h' : SameFrames u v) : SameFrames s v := fun t => (h' t).trans (h t)

theorem modOp_frames {g : Op → Op} : SameFrames s (s.modOp t o g) := by
  intro t'
  rw [State.modOp, modTask_task]
  split
  · rw [Option.map_map]
    refine congrArg (fun f => Option.map f (s.task t')) (funext fun k => ?_)
    have hl : (lmod o g k.ops).map (fun _ => (default : Op)) = k.ops.map fun _ => default := by
      rw [List.map_const', List.map_const', length_lmod]
    show { k with ops := (lmod o g k.ops).map fun _ => default } = { k with ops := k.ops.map fun _ => default }
    rw [hl]
  · rfl

/-- A part of a task that is not in its operators. -/
theorem SameFrames.get {α : Type} (h : SameFrames s u) {f : Task → α} (hf : ∀ k, f k.bare = f k) : (u.task t).map f = (s.task t).map f := by
  have e (x : State) : (x.task t).map f = ((x.task t).map Task.bare).map f := by
    rw [Option.map_map]
    exact congrArg (fun g => Option.map g (x.task t)) (funext fun k => (hf k).symm)
  rw [e, e, h t]

theorem SameFrames.task_cases (h : SameFrames s u) (t : Nat) : (u.task t = none ∧ s.task t = none) ∨
    ∃ k k', u.task t = some k' ∧ s.task t = some k ∧ k'.bare = k.bare := by
  have ht := h t
  cases hs : s.task t with
  | none =>
    rw [hs] at ht
    exact .inl ⟨Option.map_eq_none_iff.mp ht, rfl⟩
  | some k =>
    rw [hs] at ht
    obtain ⟨k', hk', hb⟩ := Option.map_eq_some_iff.mp ht
    exact .inr ⟨k, k', hk', rfl, hb⟩

section
variable (h : SameFrames s u)
include h

theorem SameFrames.outTo : u.outTo t o p = s.outTo t o p := by
  rw [State.outTo, State.outTo]
  rcases h.task_cases t with ⟨hu, hs⟩ | ⟨k, k', hu, hs, hb⟩
  · rw [hu, hs]
  · have hlen : k'.ops.length = k.ops.length := by
      have := congrArg (fun z => z.ops.length) hb
      rwa [Task.bare, Task.bare, List.length_map, List.length_map] at this
    have hout : k'.chanOut o p = k.chanOut o p := congrArg (fun z => z.chanOut o p) hb
    have hchans : k'.chans = k.chans := congrArg (fun z => z.chans) hb
    rw [hu, hs]
    dsimp only
    rw [hlen, hout, hchans]

theorem SameFrames.chan {c : Nat} : u.chan t c = s.chan t c := by
  have e (x : State) : x.chan t c = ((x.task t).map fun k => k.chans[c]?).join := by
    rw [State.chan]
    cases x.task t <;> rfl
  rw [e, e, h.get (f := fun k => k.chans[c]?) fun _ => rfl]

theorem SameFrames.canPush : u.canPush t o p n = s.canPush t o p n := by
  simp only [State.canPush, h.outTo, h.chan]

theorem SameFrames.canReserve : u.canReserve t o p n = s.canReserve t o p n := by
  simp only [State.canReserve, h.outTo, h.chan]

theorem SameFrames.outBound : u.outBound t o p = s.outBound t o p := by
  rw [State.outBound, State.outBound, h.outTo]

theorem SameFrames.lctxOf : u.lctxOf t = s.lctxOf t := by
  rw [State.lctxOf, State.lctxOf, h.get (f := (·.lctx)) fun _ => rfl]

end

/-! ## Accesses of units -/

/-- From `s` to `u` a unit has made accesses: no operator changes. -/
structure Accessed (s u : State) : Prop where
  rest : ∃ mem power nextId spans misses ctxs, u = { s with mem := mem, power := power, nextId := nextId, spans := spans,
                                                             misses := misses, ctxs := ctxs }
  lever : u.power.lever = s.power.lever

theorem Accessed.refl (s : State) : Accessed s s := ⟨⟨s.mem, s.power, s.nextId, s.spans, s.misses, s.ctxs, rfl⟩, rfl⟩

theorem Accessed.trans (h : Accessed s u) (h' : Accessed u v) : Accessed s v := by
  obtain ⟨⟨_, _, _, _, _, _, rfl⟩, hl⟩ := h
  obtain ⟨⟨_, _, _, _, _, _, rfl⟩, hl'⟩ := h'
  exact ⟨⟨_, _, _, _, _, _, rfl⟩, hl'.trans hl⟩

theorem Accessed.tasks (h : Accessed s u) : u.tasks = s.tasks := by
  obtain ⟨_, _, _, _, _, _, rfl⟩ := h.rest
  rfl

theorem Accessed.op (h : Accessed s u) : u.op t' o' = s.op t' o' := by
  rw [State.op, State.op, State.task, State.task, h.tasks]

theorem Accessed.frames (h : Accessed s u) : SameFrames s u := fun t => by
  rw [State.task, State.task, h.tasks]

theorem touch_accessed {l : Loc} : Accessed s (s.touch l) := by
  unfold State.touch
  split
  · exact ⟨⟨_, _, _, _, _, _, rfl⟩, rfl⟩
  · exact Accessed.refl s

theorem touchKey_accessed : Accessed s (s.touchKey k) := by
  unfold State.touchKey
  split
  · exact touch_accessed
  · exact Accessed.refl s

theorem touchKeys_accessed {ks : List Nat} : Accessed s (s.touchKeys ks) := by
  unfold State.touchKeys
  generalize ks.zipIdx.filter (fun x => x.2 = 0 || x.1 % 64 = 0) = l
  induction l generalizing s with
  | nil => exact Accessed.refl s
  | cons x l ih => exact touchKey_accessed.trans ih

theorem setMem_accessed {m : List Host.Cell} : Accessed s { s with mem := m } := ⟨⟨_, _, _, _, _, _, rfl⟩, rfl⟩

theorem unitSpan_accessed {write : Bool} {ks : List Nat} : Accessed s (s.unitSpan t o k write ks) := by
  obtain ⟨n, l, h⟩ := unitSpan_cases (s := s) (t := t) (o := o) k write ks
  rw [h]
  exact ⟨⟨_, _, _, _, _, _, rfl⟩, rfl⟩

theorem dropMiss_accessed {die l va : Nat} {x : XUser} : Accessed s (s.dropMiss die x l va) := by
  obtain ⟨q, h⟩ := dropMiss_cases (s := s) (die := die) (x := x) (l := l) (va := va)
  rw [h]
  exact ⟨⟨_, _, _, _, _, _, rfl⟩, rfl⟩

theorem busy_accessed {c : Nat} : Accessed s (s.busy c) := ⟨⟨_, _, _, _, _, _, rfl⟩, rfl⟩

theorem addMiss_accessed {die l va kind : Nat} {x : XUser} : Accessed s (s.addMiss die x l va kind) := by
  unfold State.addMiss
  split
  · exact Accessed.refl s
  · dsimp only
    split
    · exact ⟨⟨_, _, _, _, _, _, rfl⟩, rfl⟩
    · exact ⟨⟨_, _, _, _, _, _, rfl⟩, rfl⟩

theorem unitAt_fault_accessed {va m kind g w : Nat} (h : s.unitAt t o va m kind = .fault u g w) : Accessed s u := by
  unfold State.unitAt at h
  dsimp only at h
  split at h
  · cases h
  · cases h
    exact dropMiss_accessed
  · cases h

theorem unitAt_wait_accessed {va m kind : Nat} (h : s.unitAt t o va m kind = .wait u) : Accessed s u := by
  unfold State.unitAt at h
  dsimp only at h
  split at h
  · cases h
  · cases h
  · cases h
    exact addMiss_accessed.trans busy_accessed

/-- What a unit's translations of a range come to, if not keys, is an access. -/
theorem unitKeysFrom_accessed {f va m kind : Nat} :
    (∀ u, s.unitKeysFrom t o kind f va m = .fault u → Accessed s u) ∧ ∀ u, s.unitKeysFrom t o kind f va m = .wait u → Accessed s u := by
  induction f generalizing va m with
  | zero => exact ⟨fun u h => (nomatch h), fun u h => (nomatch h)⟩
  | succ f ih =>
    rw [State.unitKeysFrom]
    split
    · exact ⟨fun u h => (nomatch h), fun u h => (nomatch h)⟩
    dsimp only
    split
    · next s' g w h =>
      exact ⟨fun u e => UnitKeys.fault.inj e ▸ unitAt_fault_accessed h, fun u e => (nomatch e)⟩
    · next s' h => exact ⟨fun u e => (nomatch e), fun u e => UnitKeys.wait.inj e ▸ unitAt_wait_accessed h⟩
    · split
      · exact ⟨fun u h => (nomatch h), fun u h => (nomatch h)⟩
      · exact ih

theorem unitKeys_fault_accessed {va m kind : Nat} (h : s.unitKeys t o va m kind = .fault u) : Accessed s u := unitKeysFrom_accessed.1 u h
theorem unitKeys_wait_accessed {va m kind : Nat} (h : s.unitKeys t o va m kind = .wait u) : Accessed s u := unitKeysFrom_accessed.2 u h

/-- The state that a unit's write comes to. -/
def Stored.state : Stored → State
  | .ok s => s
  | .fault s => s
  | .wait s => s

theorem unitWrite_accessed {va m w : Nat} : Accessed s (s.unitWrite t o va m w).state := by
  unfold State.unitWrite
  split
  · next h => exact unitKeys_fault_accessed h
  · next h => exact unitKeys_wait_accessed h
  · split
    · exact Accessed.refl s
    · exact (setMem_accessed.trans touchKeys_accessed).trans unitSpan_accessed

theorem spanRead_accessed {a : Acc} : Accessed s (s.spanRead t o a) := by
  unfold State.spanRead
  split
  · exact ⟨⟨_, _, _, _, _, _, rfl⟩, rfl⟩
  · exact Accessed.refl s

end Sys2Proof.Machine

namespace Sys2Proof.Machine

/-! PROOFS. Walkers, their commands, and the record of L (R170 to R173, R246, R253 to R256). -/

variable {s u v : State} {t o t' o' n k : Nat} {w w' : Walker} {p : Packet}

/-! ## The walker of an operator -/

/-- The walker of an operator. -/
def Op.walker? (p : Op) : Option Walker :=
  match p.kind with
  | .walker w => some w
  | _ => none

theorem walker_view : View Op.walker? where
  kind p q h := by rw [Op.walker?, Op.walker?, h]
  withdrawn p := by
    obtain ⟨pl, fa, ff, re, po, hd, fi, k⟩ := p
    cases k <;> rfl

theorem walker_eq_view : s.walker t o = s.view Op.walker? t o := by
  rw [State.walker, State.view]
  rcases s.op t o with _ | ⟨pl, fa, ff, re, po, hd, fi, k⟩
  · rfl
  · cases k <;> rfl

theorem walker_congr (h : u.op t o = s.op t o) : u.walker t o = s.walker t o := by
  rw [walker_eq_view, walker_eq_view, view_congr h]

@[simp] theorem modWalker_walker_self {g : Walker → Walker} : (s.modWalker t o g).walker t o = (s.walker t o).map g := by
  rw [walker_eq_view, walker_eq_view, State.view, State.view, State.modWalker, modOp_op_self]
  rcases s.op t o with _ | ⟨pl, fa, ff, re, po, hd, fi, k⟩
  · rfl
  · cases k <;> rfl

theorem modWalker_walker_of {g : Walker → Walker} (h : s.walker t o = some w) : (s.modWalker t o g).walker t o = some (g w) := by
  rw [modWalker_walker_self, h]
  rfl

theorem countFiring_walker : (s.countFiring t o).walker t' o' = s.walker t' o' := by
  rw [walker_eq_view, walker_eq_view, walker_view.countFiring]

theorem sinkPoison_walker {x : Word} : (s.sinkPoison t o x).walker t' o' = s.walker t' o' := by
  rw [walker_eq_view, walker_eq_view, walker_view.sinkPoison]

theorem gotDone_walker : (s.gotDone t o).walker t' o' = s.walker t' o' := by
  rw [walker_eq_view, walker_eq_view]
  exact walker_view.modOp fun _ => rfl

theorem CmdRan.walker {step : Inbox → Inbox → Prop} (h : CmdRan step s t o u) (hw : s.walker t o = some w) :
    ∃ b, step w.inbox b ∧ u.walker t o = some { w with inbox := b } := by
  obtain ⟨g, hg, hu⟩ := h.op
  rw [walker_eq_view, State.view] at hw
  obtain ⟨q, hq, hk⟩ := Option.bind_eq_some_iff.mp hw
  refine ⟨g w.inbox, hg _, ?_⟩
  rw [walker_eq_view, State.view, hu, hq, Option.map_some, Option.bind_some]
  unfold Op.walker? at hk
  split at hk
  · next hkind =>
    cases hk
    simp only [Op.walker?, hkind, OpKind.modInbox]
  · cases hk

/-! ## What a unit does besides -/

/-- From `s` to `u` a unit has made accesses, and operators of tasks have changed. -/
structure UnitRan (s u : State) : Prop where
  frames : SameFrames s u
  rest : ∃ tasks mem power nextId spans misses ctxs, u = { s with tasks := tasks, mem := mem, power := power, nextId := nextId,
                                                                   spans := spans, misses := misses, ctxs := ctxs }
  lever : u.power.lever = s.power.lever

theorem Accessed.ran (h : Accessed s u) : UnitRan s u := by
  refine ⟨h.frames, ?_, h.lever⟩
  obtain ⟨_, _, _, _, _, _, rfl⟩ := h.rest
  exact ⟨_, _, _, _, _, _, _, rfl⟩

theorem UnitRan.refl (s : State) : UnitRan s s := (Accessed.refl s).ran

theorem UnitRan.trans (h : UnitRan s u) (h' : UnitRan u v) : UnitRan s v := by
  refine ⟨h.frames.trans h'.frames, ?_, h'.lever.trans h.lever⟩
  obtain ⟨_, _, _, _, _, _, _, rfl⟩ := h.rest
  obtain ⟨_, _, _, _, _, _, _, rfl⟩ := h'.rest
  exact ⟨_, _, _, _, _, _, _, rfl⟩

theorem modOp_ran {g : Op → Op} : UnitRan s (s.modOp t o g) := ⟨modOp_frames, ⟨_, _, _, _, _, _, _, rfl⟩, rfl⟩
theorem modWalker_ran {g : Walker → Walker} : UnitRan s (s.modWalker t o g) := modOp_ran
theorem sinkPoison_ran {x : Word} : UnitRan s (s.sinkPoison t o x) := modOp_ran

theorem UnitRan.fc (h : UnitRan s u) : u.fc = s.fc := by
  obtain ⟨_, _, _, _, _, _, _, rfl⟩ := h.rest
  rfl

theorem UnitRan.bufState (h : UnitRan s u) {g : Nat} : u.bufState g = s.bufState g := by
  obtain ⟨_, _, _, _, _, _, _, rfl⟩ := h.rest
  rfl

/-! ## Mask lines -/

/-- A walker as `w`, but for the mask lines that it has written. -/
def Lined (w w' : Walker) : Prop := ∃ k, w' = { w with lined := k }

theorem Lined.trans {x : Walker} (h : Lined w w') (h' : Lined w' x) : Lined w x := by
  obtain ⟨_, rfl⟩ := h
  obtain ⟨k, rfl⟩ := h'
  exact ⟨k, rfl⟩

theorem maskLines_ran : UnitRan s (s.maskLines t o n) := by
  induction n generalizing s with
  | zero => exact UnitRan.refl s
  | succ n ih =>
    rw [State.maskLines]
    split
    · exact UnitRan.refl s
    · next w _ =>
      have ha := unitWrite_accessed (s := s) (t := t) (o := o) (va := w.maskVa + 64 + 64 * w.lined) (m := 64)
        (w := w.mask / 2 ^ (512 * w.lined) % 2 ^ 512)
      dsimp only
      split
      · next h =>
        rw [h] at ha
        exact (ha.ran.trans modWalker_ran).trans ih
      · next h =>
        rw [h] at ha
        exact ((ha.ran.trans sinkPoison_ran).trans modWalker_ran).trans ih
      · next h =>
        rw [h] at ha
        exact ha.ran

theorem maskLines_walker (hw : s.walker t o = some w) : ∃ w', Lined w w' ∧ (s.maskLines t o n).walker t o = some w' := by
  induction n generalizing s w with
  | zero => exact ⟨w, ⟨w.lined, rfl⟩, hw⟩
  | succ n ih =>
    have ha := unitWrite_accessed (s := s) (t := t) (o := o) (va := w.maskVa + 64 + 64 * w.lined) (m := 64)
      (w := w.mask / 2 ^ (512 * w.lined) % 2 ^ 512)
    have hon {x : State} (hx : x.walker t o = some w) : ∃ w', Lined w w' ∧
        ((x.modWalker t o fun w => { w with lined := w.lined + 1 }).maskLines t o n).walker t o = some w' := by
      obtain ⟨w', hl, h⟩ := ih (modWalker_walker_of (g := fun w => { w with lined := w.lined + 1 }) hx)
      exact ⟨w', Lined.trans ⟨_, rfl⟩ hl, h⟩
    rw [State.maskLines, hw]
    dsimp only
    split
    · next h =>
      rw [h] at ha
      exact hon ((walker_congr ha.op).trans hw)
    · next h =>
      rw [h] at ha
      exact hon (sinkPoison_walker.trans ((walker_congr ha.op).trans hw))
    · next h =>
      rw [h] at ha
      exact ⟨w, ⟨w.lined, rfl⟩, (walker_congr ha.op).trans hw⟩

theorem setWalker_ran : UnitRan s (s.setWalker t o w) := modWalker_ran.trans maskLines_ran

theorem setWalker_walker (h : s.walker t o = some w') : ∃ x, Lined w x ∧ (s.setWalker t o w).walker t o = some x :=
  maskLines_walker (modWalker_walker_of h)

/-! ## Points -/

section
variable {b : Bool}

/-- What passing points leaves: every point passed is marked in the mask (R171). -/
structure Passed (w w' : Walker) : Prop where
  same : ∃ pos skips mask, w' = { w with pos := pos, skips := skips, mask := mask }
  le : w.pos ≤ w'.pos
  below : ∀ m, m < w.pos → w'.mask.testBit m = w.mask.testBit m
  marked : ∀ m, w.pos ≤ m → m < w'.pos → w'.mask.testBit m = true

theorem Passed.refl (w : Walker) : Passed w w := ⟨⟨_, _, _, rfl⟩, Nat.le_refl _, fun _ _ => rfl, fun _ h h' => absurd h' (by omega)⟩

theorem Passed.trans {x : Walker} (h : Passed w w') (h' : Passed w' x) : Passed w x := by
  obtain ⟨⟨_, _, _, e⟩, hle, hb, hm⟩ := h
  obtain ⟨⟨_, _, _, e'⟩, hle', hb', hm'⟩ := h'
  refine ⟨?_, Nat.le_trans hle hle', fun m hlt => (hb' m (by omega)).trans (hb m hlt), fun m h1 h2 => ?_⟩
  · subst e
    exact ⟨_, _, _, e'⟩
  · by_cases hx : m < w'.pos
    · rw [hb' m hx]
      exact hm m h1 hx
    · exact hm' m (by omega) h2

theorem testBit_lor_pow (a i j : Nat) : (Nat.lor a (2 ^ i)).testBit j = (a.testBit j || decide (i = j)) := by
  rw [show Nat.lor a (2 ^ i) = a ||| 2 ^ i from rfl, Nat.testBit_lor, Nat.testBit_two_pow]

theorem skipOne_passed : Passed w w.skipOne := by
  refine ⟨⟨_, _, _, rfl⟩, Nat.le_succ _, fun m hm => ?_, fun m h1 h2 => ?_⟩
  · show (Nat.lor w.mask (2 ^ w.pos)).testBit m = w.mask.testBit m
    rw [testBit_lor_pow, decide_eq_false (by omega), Bool.or_false]
  · have hm : m = w.pos := by
      have : m < w.pos + 1 := h2
      omega
    show (Nat.lor w.mask (2 ^ w.pos)).testBit m = true
    rw [testBit_lor_pow, decide_eq_true hm.symm, Bool.or_true]

theorem pass_passed {m : Nat} : Passed w (w.pass b m) := by
  induction m generalizing w with
  | zero => exact Passed.refl w
  | succ m ih =>
    rw [Walker.pass]
    split
    · exact Passed.refl w
    · split
      · exact skipOne_passed.trans ih
      · exact Passed.refl w

theorem passAll_passed : Passed w (w.passAll b) := pass_passed

/-- A walker whose next point is issued passes none. -/
theorem passAll_stay (hp : w.pos < w.total) (hu : w.useOf b ≠ .skip) : w.passAll b = w := by
  rw [Walker.passAll]
  obtain ⟨m, hm⟩ := Nat.exists_eq_succ_of_ne_zero (show w.total - w.pos ≠ 0 by omega)
  rw [hm, Walker.pass, if_neg (by omega)]
  split
  · next h => exact absurd h hu
  · rfl

end

end Sys2Proof.Machine

namespace Sys2Proof.Machine

/-! PROOFS. The steps of walkers: blocks, points and ends of walks (R170 to R173, R245, R246). -/

variable {s u v : State} {t o t' o' n k : Nat} {w w' : Walker} {p : Packet} {x : Launch}

theorem walkOpen_parts (h : s.walkOpen t o = some w) : s.walker t o = some w ∧ w.walking = true ∧ ∃ p, s.op t o = some p ∧
    s.live t = true ∧ p.fault.isNone = true := by
  unfold State.walkOpen at h
  split at h
  · next p w' hp hw =>
    split at h
    · next hc =>
      cases h
      simp only [Bool.and_eq_true] at hc
      exact ⟨hw, hc.2, p, hp, hc.1.1.1, hc.1.1.2⟩
    · cases h
  · cases h

/-- The handle of a walk's mask is filling from its first block on. -/
def State.filling (s : State) (w : Walker) : State :=
  if w.begun then s else { s.setBuf w.handle 1 rankUnit with masks := aset w.handle (w.maskVa, w.exts) s.masks }

theorem filling_walker : (s.filling w).walker t o = s.walker t o := by
  unfold State.filling
  split
  · rfl
  · rfl

/-- The parameters that a walker latches at a block (R246). -/
def Walker.latch (w : Walker) (fc : Nat) (x : Launch) : Kerf :=
  { (if w.chgAt = fc then w.prev else w.now) with l := x.lBefore fc, pat := x.pat.getD (if w.chgAt = fc then w.prev else w.now).pat }

/-- A block begins in a state in which the handle is as it has to be. -/
def State.blockBegun (s : State) (t o : Nat) (w : Walker) : State :=
  let f := if w.chgAt = s.fc then w.prev else w.now
  let f := match s.launchOf t with
    | some x => { f with l := x.lBefore s.fc, pat := x.pat.getD f.pat }
    | none => f
  (s.setWalker t o (({ w with begun := true, inBlock := true, latched := f } : Walker).passAll s.audits)).busy (s.lctxOf t)

theorem filling_launchOf : (s.filling w).launchOf t = s.launchOf t := by
  unfold State.filling
  split
  · rfl
  · rfl

theorem filling_fc : (s.filling w).fc = s.fc := by
  unfold State.filling
  split
  · rfl
  · rfl

theorem blockBegun_walker (hw : s.walker t o = some w) (hx : s.launchOf t = some x) :
    ∃ w', (s.blockBegun t o w).walker t o = some w' ∧ w'.begun = true ∧ w'.inBlock = true ∧ w'.latched = w.latch s.fc x ∧
      w'.pts = w.pts := by
  unfold State.blockBegun
  rw [hx]
  have hp := passAll_passed (w := { w with begun := true, inBlock := true, latched := w.latch s.fc x }) (b := s.audits)
  obtain ⟨_, _, _, he⟩ := hp.same
  obtain ⟨y, ⟨k, hy⟩, hsome⟩ := setWalker_walker (w := ({ w with begun := true, inBlock := true, latched := w.latch s.fc x } : Walker).passAll s.audits) hw
  rw [he] at hy
  subst hy
  exact ⟨_, (walker_congr busy_accessed.op).trans hsome, rfl, rfl, rfl, rfl⟩

theorem blockBegun_ran : UnitRan s (s.blockBegun t o w) := setWalker_ran.trans busy_accessed.ran

theorem exec_walkerBlockBegin (h : s.walkOpen t o = some w) (hs : s.stopped t = false) (he : w.ended = false) (hst : w.stopped = false)
    (hin : w.inBlock = false) (hat : w.blockAt ≤ s.fc)
    (hb : w.begun = true ∨ s.bufState w.handle ≠ 3 ∧ s.bufMay w.handle rankUnit = true) :
    exec (.walkerBlockBegin t o) s = .next ((s.filling w).blockBegun t o w) := by
  have hx' : exec (.walkerBlockBegin t o) s = execWalkerBlockBegin t o s := rfl
  have hdue : s.blockDue t o = some w := by
    have hc : (w.inBlock || w.ended || w.stopped || s.stopped t || decide (w.blockAt > s.fc) ||
        (!w.begun && (s.bufState w.handle == 3 || !s.bufMay w.handle rankUnit))) = false := by
      rw [hin, he, hst, hs, decide_eq_false (by omega)]
      rcases hb with hb | ⟨h3, hm⟩
      · rw [hb]
        rfl
      · rw [beq_eq_false_iff_ne.mpr h3, hm]
        exact Bool.and_false _
    unfold State.blockDue
    rw [h]
    dsimp only
    rw [hc]
    rfl
  rw [hx', execWalkerBlockBegin, hdue]
  rfl

/-! ## Points -/

theorem audits_eq (h : u.power.lever = s.power.lever) : u.audits = s.audits := by
  rw [State.audits, State.audits, h]

/-- The next point of a walker may be issued. -/
structure IssueOpen (s : State) (t o : Nat) (w : Walker) : Prop where
  isOpen : s.walkOpen t o = some w
  stopped : s.stopped t = false
  ended : w.ended = false
  stop : w.stopped = false
  block : w.inBlock = true
  at_ : w.issueAt ≤ s.fc

theorem IssueOpen.walker (h : IssueOpen s t o w) : s.walker t o = some w := (walkOpen_parts h.isOpen).1

theorem IssueOpen.exec (h : IssueOpen s t o w) (hv : u = s.setWalker t o (w.passAll s.audits)) (hw : u.walker t o = some w') :
    exec (.walkerPointIssue t o) s = .next (if w'.pos ≥ w.total || (w.pref && decide (u.power.lever ≥ 2)) || !u.canReserve t o 0 1 then u
      else u.issuePoint t o w' (w'.useOf u.audits == .audit)) := by
  have he : Sys2Proof.Machine.exec (.walkerPointIssue t o) s = execWalkerPointIssue t o s := rfl
  have hc : (!w.inBlock || w.ended || w.stopped || s.stopped t || decide (w.issueAt > s.fc)) = false := by
    have := h.at_
    rw [h.block, h.ended, h.stop, h.stopped, decide_eq_false (by omega)]
    rfl
  rw [he, execWalkerPointIssue, h.isOpen]
  dsimp only
  rw [hc, if_neg Bool.false_ne_true, ← hv, hw]
  dsimp only [Option.getD_some]
  split
  · rfl
  · rfl

/-- Points that are passed to the end of a walk are marked (R171). -/
theorem IssueOpen.passed (h : IssueOpen s t o w) (hp : (w.passAll s.audits).pos = w.total) :
    Gives (.walkerPointIssue t o) s fun s' => ∃ w', s'.walker t o = some w' ∧ w'.pos = w.total ∧ w'.pts = w.pts ∧
      ∀ n, w.pos ≤ n → n < w.total → w'.mask.testBit n = true := by
  have hpass := passAll_passed (w := w) (b := s.audits)
  obtain ⟨y, ⟨k, hy⟩, hsome⟩ := setWalker_walker (w := w.passAll s.audits) h.walker
  subst hy
  refine ⟨_, h.exec rfl hsome, ?_⟩
  have hend : (decide (({ w.passAll s.audits with lined := k } : Walker).pos ≥ w.total) || (w.pref &&
      decide ((s.setWalker t o (w.passAll s.audits)).power.lever ≥ 2)) ||
      !(s.setWalker t o (w.passAll s.audits)).canReserve t o 0 1) = true := by
    rw [decide_eq_true (Nat.le_of_eq hp.symm)]
    rfl
  rw [if_pos hend]
  obtain ⟨_, _, _, he⟩ := hpass.same
  refine ⟨_, hsome, hp, ?_, fun n h1 h2 => hpass.marked n h1 (by omega)⟩
  rw [he]

theorem reserve_walker {q m : Nat} : (s.reserve t o q m).walker t' o' = s.walker t' o' := by
  unfold State.reserve
  split
  · exact walker_congr modChan_op
  · rfl

/-- The walker when its next point has been issued with the read `a`, before it passes those behind it. -/
def Walker.issuedPoint (w : Walker) (audit last : Bool) (block issue : Nat) (a : Acc) : Walker :=
  { (if audit then w.skipOne else { w with pos := w.pos + 1 }) with
    pts := w.pts ++ [w.pos], issued := w.issued + 1, inBlock := !last, blockAt := block, issueAt := issue, accs := w.accs ++ [a] }

theorem issuedPoint_pos {audit last : Bool} {i j : Nat} {a : Acc} : (w.issuedPoint audit last i j a).pos = w.pos + 1 := by
  cases audit <;> rfl

theorem issuedPoint_mask {audit last : Bool} {i j : Nat} {a : Acc} :
    (w.issuedPoint audit last i j a).mask.testBit w.pos = (audit || w.mask.testBit w.pos) := by
  cases audit with
  | true =>
    show (Nat.lor w.mask (2 ^ w.pos)).testBit w.pos = true
    rw [testBit_lor_pow, decide_eq_true rfl, Bool.or_true]
  | false => rfl

/-- What the issue of a point leaves of its walker: the points behind it that are not issued are passed and marked (R170, R171). -/
theorem pointIssued_walker {audit : Bool} {a : Acc} (hw : s.walker t o = some w') :
    ∃ y, (s.pointIssued t o w audit a).walker t o = some y ∧ w.pos < y.pos ∧ y.pts = w.pts ++ [w.pos] ∧
      y.issued = w.issued + 1 ∧ y.accs = w.accs ++ [a] ∧ y.mask.testBit w.pos = (audit || w.mask.testBit w.pos) ∧
      ∀ n, w.pos < n → n < y.pos → y.mask.testBit n = true := by
  obtain ⟨z, hz, hp⟩ : ∃ z, z = (if ((w.issued + 1) % 1024 == 0) = true then w.issuedPoint audit ((w.issued + 1) % 1024 == 0) (s.after t o 1) (s.after t o 1) a
      else (w.issuedPoint audit ((w.issued + 1) % 1024 == 0) (s.after t o 1) (s.after t o 1) a).passAll s.audits) ∧
      Passed (w.issuedPoint audit ((w.issued + 1) % 1024 == 0) (s.after t o 1) (s.after t o 1) a) z := by
    refine ⟨_, rfl, ?_⟩
    split
    · exact Passed.refl _
    · exact passAll_passed
  have he : s.pointIssued t o w audit a = (((s.reserve t o 0 1).setWalker t o z).busy (s.lctxOf t)).countFiring t o := by
    rw [hz]
    rfl
  obtain ⟨y, ⟨k, hy⟩, hsome⟩ := setWalker_walker (w := z) (reserve_walker.trans hw)
  subst hy
  have hpos := issuedPoint_pos (w := w) (audit := audit) (last := (w.issued + 1) % 1024 == 0) (i := s.after t o 1) (j := s.after t o 1) (a := a)
  obtain ⟨_, _, _, hsame⟩ := hp.same
  refine ⟨_, by rw [he, countFiring_walker]; exact (walker_congr busy_accessed.op).trans hsome, ?_, ?_, ?_, ?_, ?_, fun n h1 h2 => ?_⟩
  · have := hp.le
    show w.pos < z.pos
    omega
  · rw [hsame]
    rfl
  · rw [hsame]
    rfl
  · rw [hsame]
    rfl
  · exact (hp.below w.pos (by omega)).trans issuedPoint_mask
  · exact hp.marked n (by omega) h2

theorem useOf_lined {b : Bool} : ({ w with lined := k } : Walker).useOf b = w.useOf b := rfl

/-- A kept or audited point is issued (R170 to R172). -/
theorem IssueOpen.issued {l : Loc} {tail : Option (Nat × Loc)} (h : IssueOpen s t o w) (hpos : w.pos < w.total)
    (hpref : w.pref = false ∨ s.power.lever < 2) (hres : (s.setWalker t o w).canReserve t o 0 1 = true)
    (hat : (s.setWalker t o w).unitAt t o (w.pointVa w.pos) 128 0 = .at_ l tail) (huse : w.useOf s.audits ≠ .skip) :
    Gives (.walkerPointIssue t o) s fun s' => ∃ w' acc, s'.walker t o = some w' ∧ w.pos < w'.pos ∧
        w'.pts = w.pts ++ [w.pos] ∧ w'.issued = w.issued + 1 ∧ w'.accs = w.accs ++ [acc] ∧ acc.k = w.pos ∧ acc.loc = l ∧
        acc.tail = tail ∧ acc.write = false ∧ w'.mask.testBit w.pos = (w.useOf s.audits == .audit || w.mask.testBit w.pos) ∧
        ∀ n, w.pos < n → n < w'.pos → w'.mask.testBit n = true := by
  have hran : UnitRan s (s.setWalker t o w) := setWalker_ran
  obtain ⟨y, ⟨k, hy⟩, hsome⟩ := setWalker_walker (w := w) h.walker
  subst hy
  have hcond : (decide (({ w with lined := k } : Walker).pos ≥ w.total) || (w.pref && decide ((s.setWalker t o w).power.lever ≥ 2)) ||
      !(s.setWalker t o w).canReserve t o 0 1) = false := by
    rw [hres, hran.lever, decide_eq_false (show ¬ w.pos ≥ w.total by omega)]
    rcases hpref with hpref | hpref
    · rw [hpref]
      rfl
    · rw [decide_eq_false (by omega), Bool.and_false]
      rfl
  obtain ⟨z, hz, hz'⟩ : ∃ z, (((s.setWalker t o w).touchKey l.key).spanRead t o { pointAcc (s.setWalker t o w).fc w.pos
      (w.useOf s.audits == .audit) with loc := l, tail := tail }) = z ∧ Accessed (s.setWalker t o w) z :=
    ⟨_, rfl, touchKey_accessed.trans spanRead_accessed⟩
  obtain ⟨y, hy, h1, h2, h3, h4, h5, h6⟩ := pointIssued_walker (s := z) (w := { w with lined := k }) (audit := w.useOf s.audits == .audit)
    (a := { pointAcc (s.setWalker t o w).fc w.pos (w.useOf s.audits == .audit) with loc := l, tail := tail })
    ((walker_congr hz'.op).trans hsome)
  have hstay : s.setWalker t o (w.passAll s.audits) = s.setWalker t o w := by rw [passAll_stay hpos huse]
  refine ⟨_, h.exec hstay.symm hsome, y, { pointAcc (s.setWalker t o w).fc w.pos (w.useOf s.audits == .audit) with loc := l, tail := tail },
    ?_, h1, h2, h3, h4, rfl, rfl, rfl, rfl, h5, h6⟩
  rw [if_neg (Bool.eq_false_iff.mp hcond), State.issuePoint, useOf_lined, audits_eq hran.lever]
  dsimp only
  rw [show ({ w with lined := k } : Walker).pointVa w.pos = w.pointVa w.pos from rfl, hat]
  dsimp only
  rw [hz]
  exact hy

/-! ## Ends of walks -/

/-- A walker whose walk is over (R171, R173, R245). -/
def Walker.over (w : Walker) (stop : Bool) : Walker :=
  { w with ended := true, inBlock := false, stopped := w.stopped || stop, walks := w.walks + 1, past := w.past ++ [w.now_],
           cut := stop && decide (w.pos < w.total) }

/-- The state in which a walk is over: its handle is full. -/
def State.closed (s : State) (t o : Nat) (w : Walker) (stop : Bool) : State :=
  ({ s.setBuf w.handle 2 rankUnit with masks := aset w.handle (w.maskVa, w.exts) s.masks } : State).modWalker t o fun x => x.over stop

/-- A walk whose mask can be written is over: the handle is full. -/
structure WalkOver (s u : State) (t o : Nat) (w : Walker) (stop : Bool) : Prop where
  walker : ∃ w', Lined (w.over stop) w' ∧ u.walker t o = some w'
  frames : SameFrames s u
  buf : u.bufState w.handle = 2

theorem closed_over (hl : Lined w w') (hw : s.walker t o = some w') {stop : Bool} : WalkOver s (s.closed t o w stop) t o w stop where
  walker := by
    obtain ⟨k, rfl⟩ := hl
    exact ⟨_, ⟨k, rfl⟩, modWalker_walker_of (s := { s.setBuf w.handle 2 rankUnit with masks := aset w.handle (w.maskVa, w.exts) s.masks })
      (g := fun x => x.over stop) hw⟩
  frames := modOp_frames (s := { s.setBuf w.handle 2 rankUnit with masks := aset w.handle (w.maskVa, w.exts) s.masks })
  buf := bufState_setBuf_self (rank := rankUnit) (by decide)

theorem WalkOver.of_ran {stop : Bool} (h : SameFrames s u) (h' : WalkOver u v t o w stop) : WalkOver s v t o w stop :=
  ⟨h'.walker, h.trans h'.frames, h'.buf⟩

theorem walkOver_over {stop : Bool} (hw : s.walker t o = some w) (hm : s.masked t o w = true) : WalkOver s (s.walkOver t o w stop) t o w stop := by
  have hran : UnitRan s (s.maskLines t o (w.lines - w.lined)) := maskLines_ran
  obtain ⟨y, hl, hsome⟩ := maskLines_walker (n := w.lines - w.lined) hw
  unfold State.masked at hm
  dsimp only at hm
  obtain ⟨hlines, hwrite⟩ := (Bool.and_eq_true _ _).mp hm
  have ha := unitWrite_accessed (s := s.maskLines t o (w.lines - w.lined)) (t := t) (o := o) (va := w.maskVa) (m := 64) (w := w.pos)
  unfold State.walkOver
  dsimp only
  rw [if_neg (by simpa using hlines)]
  split
  · next z hz =>
    rw [hz] at ha
    exact WalkOver.of_ran (hran.frames.trans ha.frames) (closed_over hl ((walker_congr ha.op).trans hsome))
  · next z hz =>
    rw [hz] at ha
    exact WalkOver.of_ran ((hran.frames.trans ha.frames).trans sinkPoison_ran.frames)
      (closed_over hl (sinkPoison_walker.trans ((walker_congr ha.op).trans hsome)))
  · next z hz =>
    rw [hz] at hwrite
    cases hwrite

theorem pushTok_buf {q : Nat} {tok : Token} : (s.pushTok t o q tok).bufState n = s.bufState n := by
  obtain ⟨_, _, h⟩ := pushTok_tasksOnly (s := s) (t := t) (o := o) (q := q) (tok := tok)
  rw [h]
  rfl

theorem endToken_keeps {lvl : Nat} : (s.endToken t o lvl).walker t' o' = s.walker t' o' ∧ (s.endToken t o lvl).bufState n = s.bufState n := by
  unfold State.endToken
  generalize (if lvl = 0 then doneTok 0 else stopTok lvl 0) = tok
  dsimp only
  split
  · exact ⟨gotDone_walker.trans (walker_congr pushTok_op), pushTok_buf⟩
  · exact ⟨walker_congr pushTok_op, pushTok_buf⟩

/-- The reply of a `wk.spec` whose walk is over. -/
def State.specDone (s : State) (t o : Nat) (w : Walker) : State :=
  match w.specReply with
  | some id => s.endCmd (.op t o) id (if w.cut then 1 else 0)
  | none => s

theorem specDone_keeps (hw : s.walker t o = some w') : (∃ b, (s.specDone t o w).walker t o = some { w' with inbox := b }) ∧
    (s.specDone t o w).bufState n = s.bufState n := by
  unfold State.specDone
  split
  · obtain ⟨b, -, hb⟩ := endCmd_ran.walker hw
    exact ⟨⟨b, hb⟩, endCmd_ran.bufState⟩
  · exact ⟨⟨_, hw⟩, rfl⟩

/-- A walker that has ended its walk, and stopped or not. -/
structure WalkEnded (w : Walker) (stop : Bool) (w' : Walker) : Prop where
  walking : w'.walking = false
  ended : w'.ended = true
  stopped : w'.stopped = (w.stopped || stop)
  cut : w'.cut = (stop && decide (w.pos < w.total))
  walks : w'.walks = w.walks + 1
  past : w'.past = w.past ++ [w.now_]
  doneOut : w'.doneOut = ((if w.walking then w.endLvl else 0) == 0)

/-- A walk that may end, ends, with the handle full and its end token pushed (R170, R173, R245, R256). -/
theorem exec_walkerEnd (h : s.walkEnds t o = some w) (hw : s.walker t o = some w) (he : w.ended = false)
    (hover : (w.stopped || s.stopped t) = true ∨ ¬ w.pos < w.total) (hb : w.begun = true ∨ s.bufState w.handle ≠ 3)
    (hmay : s.bufMay w.handle rankUnit = true) (hacc : w.accs = []) (hpush : s.canPush t o 0 1 = true) (hm : s.masked t o w = true) :
    Gives (.walkerEnd t o) s fun s' => s'.bufState w.handle = 2 ∧ ∃ w', s'.walker t o = some w' ∧ WalkEnded w (w.stopped || s.stopped t) w' := by
  have hx : exec (.walkerEnd t o) s = execWalkerEnd t o s := rfl
  obtain ⟨⟨y, hl, hk⟩, hframes, hbuf⟩ := walkOver_over (stop := w.stopped || s.stopped t) hw hm
  have hgo : (!w.ended && !(w.stopped || s.stopped t) && decide (w.pos < w.total)) = false := by
    rcases hover with hover | hover
    · rw [hover, Bool.not_true, Bool.and_false]
      rfl
    · rw [decide_eq_false hover, Bool.and_false]
  have hhandle : (!w.ended && ((!w.begun && s.bufState w.handle == 3) || !s.bufMay w.handle rankUnit)) = false := by
    rw [hmay]
    rcases hb with hb | hb
    · rw [hb, he]
      rfl
    · rw [beq_eq_false_iff_ne.mpr hb, Bool.and_false, he]
      rfl
  obtain ⟨hyended, hyacc, hywalk, hylvl⟩ : y.ended = true ∧ y.accs = [] ∧ y.walking = w.walking ∧ y.endLvl = w.endLvl := by
    obtain ⟨k, rfl⟩ := hl
    exact ⟨rfl, hacc, rfl, rfl⟩
  have hready : (!y.ended || !y.accs.isEmpty || !(s.walkOver t o w (w.stopped || s.stopped t)).canPush t o 0 1) = false := by
    rw [hframes.canPush, hpush, hyacc, hyended]
    rfl
  obtain ⟨hwalk, hb1⟩ := endToken_keeps (s := s.walkOver t o w (w.stopped || s.stopped t)) (t := t) (o := o) (t' := t) (o' := o)
    (lvl := if w.walking then w.endLvl else 0) (n := w.handle)
  obtain ⟨⟨b, hspec⟩, hb2⟩ := specDone_keeps (w := y) (n := w.handle) (hwalk.trans hk)
  refine ⟨(((s.walkOver t o w (w.stopped || s.stopped t)).endToken t o (if w.walking then w.endLvl else 0)).specDone t o y).modWalker t o
    fun x => { x with walking := false, doneOut := (if w.walking then w.endLvl else 0) == 0, specReply := none }, ?_,
    hb2.trans (hb1.trans hbuf), ?_⟩
  · rw [hx, execWalkerEnd, h]
    dsimp only
    rw [hgo, if_neg Bool.false_ne_true, hhandle, if_neg Bool.false_ne_true, he, if_neg Bool.false_ne_true, hk]
    have hready' : (!((some y).getD w).ended || !((some y).getD w).accs.isEmpty ||
        !(s.walkOver t o w (w.stopped || s.stopped t)).canPush t o 0 1) = false := hready
    rw [hready', if_neg Bool.false_ne_true]
    simp only [Option.getD_some, hywalk, hylvl]
    rfl
  · obtain ⟨k, rfl⟩ := hl
    exact ⟨_, modWalker_walker_of hspec, rfl, rfl, rfl, rfl, rfl, rfl, rfl⟩

end Sys2Proof.Machine

namespace Sys2Proof.Machine

/-! PROOFS. The commands of walkers, the record of L, and the statement about walkers (R253 to R256). -/

variable {s u v : State} {t o t' o' n k l : Nat} {w w' : Walker} {p : Packet} {x : Launch}

/-! ## Commands -/

theorem CmdRan.launch {step : Inbox → Inbox → Prop} (h : CmdRan step s t o u) : u.launch l = s.launch l := by
  obtain ⟨_, _, _, rfl⟩ := h.rest
  rfl

theorem CmdRan.fc {step : Inbox → Inbox → Prop} (h : CmdRan step s t o u) : u.fc = s.fc := by
  obtain ⟨_, _, _, rfl⟩ := h.rest
  rfl

theorem modLaunch_launch_of {g : Launch → Launch} (h : s.launch l = some x) : (s.modLaunch l g).launch l = some (g x) := by
  rw [modLaunch_launch_self, h]
  rfl

theorem postL_launch {rank : Nat} {i : Int} {b : Bool} (h : s.launch l = some x) :
    (s.postL l rank i b).launch l = some { x with updates := x.updates ++ [(s.fc, rank, i, b)] } := modLaunch_launch_of h

theorem inbox_congr (h : u.op t o = s.op t o) : u.inbox (.op t o) = s.inbox (.op t o) := by
  rw [State.inbox, State.inbox, h]

theorem cmdId_congr (h : u.op t o = s.op t o) : u.cmdId (.op t o) = s.cmdId (.op t o) := by
  rw [State.cmdId, State.cmdId, inbox_congr h]

theorem resetWindows_op (q : Op) : Op.walker? (match q.kind with
    | .spline x => if x.walker = o then { q with kind := .spline { x with window := [] } } else q
    | _ => q) = Op.walker? q := by
  obtain ⟨pl, fa, ff, re, po, hd, fi, k⟩ := q
  cases k with
  | spline x =>
    dsimp only
    split
    · rfl
    · rfl
  | _ => rfl

theorem resetWindows_walker : (s.resetWindows t o).walker t o' = s.walker t o' := by
  rw [walker_eq_view, walker_eq_view, State.view, State.view, State.op, State.op, State.resetWindows, modTask_task_self]
  cases s.task t with
  | none => rfl
  | some k =>
    rw [Option.map_some, Option.bind_some, Option.bind_some, List.getElem?_map, Option.bind_map]
    exact congrArg (Option.bind _) (funext resetWindows_op)

section
variable (hw : s.walker t o = some w) (ho : s.inboxOpen (.op t o) = true)
include hw ho

theorem exec_wkSpec {ks : List Nat} {nd lvl : Nat} (hnd : ((p.dbl 1).extractLsb' 54 3).toNat + 1 = nd)
    (hlvl : ((p.dbl 1).extractLsb' 51 3).toNat = lvl) (hwalk : w.walking = false) (hd : w.doneOut = false)
    (hk : s.unitKeys t o (p.dbl 2).toNat (8 * (nd + 2)) 0 = .at_ ks)
    (hs : w.spec s.fc (doubles (s.readKeys ks) (nd + 2)) nd lvl (s.cmdId (.op t o)) = some w') :
    exec (.wkSpec t o p) s = .next (((s.touchKeys ks).beginCmd (.op t o) p).modWalker t o fun x => { w' with inbox := x.inbox }) := by
  have he : exec (.wkSpec t o p) s = execWkSpec t o p s := rfl
  subst hnd hlvl
  have hready : (!w.walking) = true := by rw [hwalk]; rfl
  have hfc : (s.touchKeys ks).fc = s.fc := by
    obtain ⟨q, hq⟩ := touchKeys_cases (s := s) ks
    rw [hq]
  rw [he, execWkSpec, hw]
  dsimp only
  rw [command_ready ho hready, hd, if_neg Bool.false_ne_true, State.unitRead, hk]
  dsimp only
  rw [hfc, cmdId_congr touchKeys_op, hs]

omit ho in
theorem wkSpec_walker {ks : List Nat} :
    ∃ b, (((s.touchKeys ks).beginCmd (.op t o) p).modWalker t o fun x => { w' with inbox := x.inbox }).walker t o =
      some { w' with inbox := b } := by
  obtain ⟨b, -, hb⟩ := (beginCmd_ran (s := s.touchKeys ks) (p := p)).walker ((walker_congr touchKeys_op).trans hw)
  exact ⟨b, modWalker_walker_of hb⟩

omit ho in
/-- A command of one step that changes the walker. -/
theorem command_walker : ∃ b, ∀ g : Walker → Walker, ((s.oneStep (.op t o) p 0).modWalker t o g).walker t o =
    some (g { w with inbox := b }) := by
  obtain ⟨b, -, hb⟩ := (oneStep_ran (s := s) (p := p) (status := 0)).walker hw
  exact ⟨b, fun _ => modWalker_walker_of hb⟩

end

theorem exec_wkKerf (ho : s.inboxOpen (.op t o) = true) : exec (.wkKerf t o p) s =
    .next ((s.oneStep (.op t o) p 0).modWalker t o fun w => w.change s.fc fun k =>
      { k with pat := ((p.dbl 1).extractLsb' 54 3).toNat, da := ((p.dbl 1).extractLsb' 51 3).toNat,
               db := ((p.dbl 1).extractLsb' 48 3).toNat, phase := ((p.dbl 1).extractLsb' 42 6).toNat,
               lm := ((p.dbl 1).extractLsb' 36 6).toNat, la := ((p.dbl 1).extractLsb' 30 6).toNat,
               seed := (p.dbl 2).extractLsb' 0 32 }) := by
  have he : exec (.wkKerf t o p) s = execWkKerf t o p s := rfl
  rw [he, execWkKerf]
  exact congrArg Host.Outcome.next (command_ready ho rfl)

/-- The windows that a wk.audit discards, if it does (R256). -/
def State.auditReset (s : State) (t o : Nat) (p : Packet) : State :=
  if ((p.dbl 1).extractLsb' 45 1).toNat = 1 then s.resetWindows t o else s

theorem auditReset_walker : (s.auditReset t o p).walker t o' = s.walker t o' := by
  unfold State.auditReset
  split
  · exact resetWindows_walker
  · rfl

theorem exec_wkAudit (ho : s.inboxOpen (.op t o) = true) : exec (.wkAudit t o p) s =
    .next (((s.oneStep (.op t o) p 0).modWalker t o fun w => w.change s.fc fun k =>
      { k with audit := auditN ((p.dbl 1).extractLsb' 54 3).toNat,
               win := if ((p.dbl 1).extractLsb' 46 8).toNat = 0 then 64 else ((p.dbl 1).extractLsb' 46 8).toNat }).auditReset t o p) := by
  have he : exec (.wkAudit t o p) s = execWkAudit t o p s := rfl
  rw [he, execWkAudit, command_ready ho rfl]
  rfl

/-- What a kf.ctl changes once its command has run (R256). -/
def State.ctl (s : State) (t o l : Nat) (p : Packet) : State :=
  let s := if (p.dbl 1).getLsbD 56 then s.postL l rankCtl (((p.dbl 1).extractLsb' 49 7).toNat : Int) false else s
  let s := if (p.dbl 1).getLsbD 48 then s.modWalker t o fun w => w.change s.fc fun k =>
    { k with phase := ((p.dbl 1).extractLsb' 42 6).toNat } else s
  if (p.dbl 1).getLsbD 41 || (p.dbl 1).getLsbD 40 then s.modLaunch l fun x => { x with frz := (p.dbl 1).getLsbD 41 } else s

theorem exec_kfCtl {k : Task} (ho : s.inboxOpen (.op t o) = true) (hk : s.task t = some k) : exec (.kfCtl t o p) s =
    .next ((s.oneStep (.op t o) p 0).ctl t o k.launch p) := by
  have he : exec (.kfCtl t o p) s = .next (s.command (.op t o) true fun s => (s.oneStep (.op t o) p 0).ctl t o (((s.task t).map (·.launch)).getD 0) p) := rfl
  rw [he, command_ready ho rfl, hk]
  rfl

theorem ctl_walker (hw : s.walker t o = some w) : ∃ w', (s.ctl t o l p).walker t o = some w' ∧
    w'.now.phase = if (p.dbl 1).getLsbD 48 then ((p.dbl 1).extractLsb' 42 6).toNat else w.now.phase := by
  have hpost (c : Prop) [Decidable c] (i : Int) : (if c then s.postL l rankCtl i false else s).walker t o = some w := by
    split
    · exact hw
    · exact hw
  have hlaunch (c : Prop) [Decidable c] (u : State) (g : Launch → Launch) : (if c then u.modLaunch l g else u).walker t o = u.walker t o := by
    split
    · rfl
    · rfl
  unfold State.ctl
  dsimp only
  rw [hlaunch]
  split
  · exact ⟨_, modWalker_walker_of (hpost _ _), rfl⟩
  · exact ⟨_, hpost _ _, rfl⟩

theorem ctl_launch (hx : s.launch l = some x) : ∃ x', (s.ctl t o l p).launch l = some x' ∧
    x'.frz = (if (p.dbl 1).getLsbD 41 || (p.dbl 1).getLsbD 40 then (p.dbl 1).getLsbD 41 else x.frz) ∧
    x'.updates = if (p.dbl 1).getLsbD 56 then x.updates ++ [(s.fc, rankCtl, (((p.dbl 1).extractLsb' 49 7).toNat : Int), false)]
      else x.updates := by
  have hpost (c : Prop) [Decidable c] (i : Int) : (if c then s.postL l rankCtl i false else s).launch l =
      some { x with updates := if c then x.updates ++ [(s.fc, rankCtl, i, false)] else x.updates } := by
    split
    · exact postL_launch hx
    · exact hx
  have hwalk (c : Prop) [Decidable c] (u : State) (g : State → Walker → Walker) :
      (if c then u.modWalker t o (g u) else u).launch l = u.launch l := by
    split
    · rfl
    · rfl
  have hfrz (c : Prop) [Decidable c] {u : State} {y : Launch} (hu : u.launch l = some y) (b : Bool) :
      (if c then u.modLaunch l fun x => { x with frz := b } else u).launch l = some { y with frz := if c then b else y.frz } := by
    split
    · exact modLaunch_launch_of hu
    · exact hu
  refine ⟨_, hfrz _ ((hwalk _ _ fun u w => w.change u.fc fun k => { k with phase := ((p.dbl 1).extractLsb' 42 6).toNat }).trans (hpost _ _)) _, rfl, rfl⟩

theorem walkEnds_walker (h : s.walkEnds t o = some w) : s.walker t o = some w := by
  unfold State.walkEnds at h
  split at h
  · next q w' _ hw =>
    split at h
    · cases h
      exact hw
    · cases h
  · cases h

theorem spec_fields {ds : List Dbl} {fc nd lvl id : Nat} (h : w.spec fc ds nd lvl id = some w') :
    w'.walking = true ∧ w'.pos = 0 ∧ w'.dims = (ds.take nd).map dimOf ∧ w'.endLvl = lvl ∧ w'.past = w.past := by
  unfold Walker.spec at h
  dsimp only at h
  split at h
  · cases h
  · cases h
    exact ⟨rfl, rfl, rfl, rfl, rfl⟩

/-! ## L -/

theorem postCeil_launch (h : s.launch l = some x) : (s.postCeil l).launch l =
    some { x with updates := if s.ceOf x < x.l then x.updates ++ [(s.fc, rankCeil, 0, false)] else x.updates } := by
  rw [State.postCeil, h]
  dsimp only
  split
  · exact postL_launch h
  · exact h

/-- The record of one update by `kf.ctl` (R253, R254). -/
theorem exec_coverageLRecord {f i : Nat} {c : Ctx} (hx : s.launch l = some x) (hc : s.ctx x.lctx = some c)
    (hu : x.updates = [(f, rankCtl, (i : Int), false)]) (hf : f < s.fc) :
    Gives (.coverageLRecord l) s fun s' => ∃ x', s'.launch l = some x' ∧ x'.l = max c.floor (min x.ceWas i) ∧ x'.lBefore s.fc = x.l ∧
      x'.updates = if s.ceOf x < max c.floor (min x.ceWas i) then [(s.fc, rankCeil, 0, false)] else [] := by
  have he : exec (.coverageLRecord l) s = execCoverageLRecord l s := rfl
  have hdue : sortBy (fun u : Nat × Nat × Int × Bool => u.1 * 2 ^ 40 + u.2.1) (x.updates.filter fun u => decide (u.1 < s.fc)) =
      [(f, rankCtl, (i : Int), false)] := by
    rw [hu, List.filter_cons, if_pos (by simpa using hf)]
    rfl
  have hrest : x.updates.filter (fun u => decide (u.1 ≥ s.fc)) = [] := by
    rw [hu, List.filter_cons, if_neg (by simpa using hf)]
    rfl
  have hv : s.applyL x x.l (f, rankCtl, (i : Int), false) = max c.floor (min x.ceWas i) := by
    unfold State.applyL
    rw [hc]
    dsimp only [Option.map_some, Option.getD_some]
    rw [if_neg (show ¬ rankCtl = rankCeil by decide), if_neg Bool.false_ne_true]
    omega
  unfold Gives
  rw [he, execCoverageLRecord, hx]
  dsimp only
  rw [hdue]
  refine ⟨_, rfl, ?_⟩
  show ∃ x', ((s.modLaunch l fun y => { y with lOld := y.l, lAt := s.fc, l := s.applyL x x.l (f, rankCtl, (i : Int), false), updates := y.updates.filter fun u => decide (u.1 ≥ s.fc) }).postCeil l).launch l = some x' ∧ _
  rw [hv, postCeil_launch (modLaunch_launch_of hx)]
  refine ⟨_, rfl, rfl, if_pos rfl, ?_⟩
  dsimp only
  rw [hrest]
  rfl

/-! ## The clock -/

theorem foldl_launches {α : Type} {f : State → α → State} (hf : ∀ s a, (f s a).launches = s.launches) (l : List α) :
    (l.foldl f s).launches = s.launches := by
  induction l generalizing s with
  | nil => rfl
  | cons a l ih => exact ih.trans (hf s a)

theorem openReply_tasksOnly {q : Nat} : TasksOnly s (s.openReply t o q) := by
  unfold State.openReply
  split
  · exact TasksOnly.refl s
  · split
    · exact TasksOnly.refl s
    · exact modTask_tasksOnly

theorem pushReply_tasksOnly {q : Nat} {tok : Token} (h : s.pushReply t o q tok = some u) : TasksOnly s u := by
  have ho : TasksOnly s (s.openReply t o q) := openReply_tasksOnly
  unfold State.pushReply at h
  dsimp only at h
  generalize s.openReply t o q = v at h ho
  split at h
  · cases h
  · split at h
    · cases h
    · split at h
      · cases h
        exact ho.trans ⟨_, _, rfl⟩
      · cases h

theorem pushSpawnReplies_launches : s.pushSpawnReplies.launches = s.launches := by
  refine foldl_launches (fun s z => ?_) _
  split
  · next s' h =>
    obtain ⟨_, _, rfl⟩ := pushReply_tasksOnly h
    rfl
  · rfl

theorem endInvalidations_launches : s.endInvalidations.launches = s.launches := by
  refine foldl_launches (fun s z => ?_) _
  split
  · split
    · rfl
    · rfl
  · rfl

theorem sendHeldIrqs_launches : s.sendHeldIrqs.launches = s.launches :=
  foldl_launches (s := s) (f := State.sendIrq) (fun _ _ => rfl) _

theorem exec_deadlineClockAdvance (hx : s.launch l = some x) (h : s.fcOwes = false) : Gives .deadlineClockAdvance s fun s' =>
    s'.launch l = some (s.latchCe x) := by
  have he : exec .deadlineClockAdvance s = .next (s.nextFc.pushSpawnReplies.endInvalidations.sendHeldIrqs) := congrArg Host.Outcome.next (if_neg (by rw [h]; decide))
  refine ⟨_, he, ?_⟩
  show aget l s.nextFc.pushSpawnReplies.endInvalidations.sendHeldIrqs.launches = _
  rw [sendHeldIrqs_launches, endInvalidations_launches, pushSpawnReplies_launches]
  show aget l (avals (fun _ x => s.latchCe x) s.launches) = _
  rw [aget_avals, show aget l s.launches = some x from hx]
  rfl

/-! ## The statement -/

/-- Settles O48: the steps of walkers, their commands, and the record of L. -/
theorem walkers : Obligations.Walkers := by
  unfold Obligations.Walkers
  refine ⟨fun s t o w x h hs he hst hx => ?_, fun s t o w h hs he hb hmay hacc hpush hm => ?_, fun s t o p w hw ho => ?_,
    fun s l f v x c hx hc hu hf => ?_, fun s l x hx h => ?_⟩
  · obtain ⟨hw, hwalk, q, hq, hlive, hfault⟩ := walkOpen_parts h
    refine ⟨fun hin hat hb => ?_, fun l tail hin hat hpos hpref => ?_, fun hin hat hp => ?_, fun hb hpos hd hacc hmay hpush hm => ?_⟩
    · intro f
      refine ⟨_, exec_walkerBlockBegin h hs he hst hin hat hb, fun hbg => ?_, ?_⟩
      · rw [blockBegun_ran.bufState, State.filling, if_neg (by rw [hbg]; decide)]
        exact bufState_setBuf_self (rank := rankUnit) (by decide)
      · obtain ⟨w', h1, h2, h3, h4, h5⟩ := blockBegun_walker (s := s.filling w) (filling_walker.trans hw) (filling_launchOf.trans hx)
        rw [filling_fc] at h4
        exact ⟨w', h1, h2, h3, by rw [h4]; rfl, by rw [h4]; rfl, by rw [h4]; rfl, h5⟩
    · intro u hres hunit use huse
      exact (IssueOpen.mk h hs he hst hin hat).issued hpos hpref hres hunit huse
    · exact (IssueOpen.mk h hs he hst hin hat).passed hp
    · have hends : s.walkEnds t o = some w := by
        unfold State.walkEnds
        rw [hq, hw]
        dsimp only
        rw [hlive, hfault, hd, hwalk]
        rfl
      obtain ⟨s', h1, h2, w', h3, h4⟩ := exec_walkerEnd hends hw he (.inr (by omega)) (.inl hb) hmay hacc hpush hm
      rw [hst, hs] at h4
      refine ⟨s', h1, h2, w', h3, h4.walking, h4.ended, h4.cut, h4.walks, h4.past, ?_⟩
      have := h4.doneOut
      rwa [hwalk, if_pos rfl] at this
  · have hw := walkEnds_walker h
    obtain ⟨s', h1, h2, w', h3, h4⟩ := exec_walkerEnd h hw he (.inl (by rw [hs, Bool.or_true])) hb hmay hacc hpush hm
    rw [hs, Bool.or_true] at h4
    exact ⟨s', h1, h2, w', h3, h4.walking, h4.stopped.trans (Bool.or_true _), h4.cut, h4.doneOut⟩
  · intro fld nd
    refine ⟨fun ks w₁ hwalk hd hk => ?_, ?_, ?_, fun k x hk hx => ?_⟩
    · intro ds hspec
      obtain ⟨b, hb⟩ := wkSpec_walker hw (w' := w₁) (p := p) (ks := ks)
      obtain ⟨h1, h2, h3, h4, h5⟩ := spec_fields hspec
      exact ⟨_, exec_wkSpec hw ho rfl rfl hwalk hd hk hspec, _, hb, h1, h2, h3, h4, h5⟩
    · obtain ⟨b, hb⟩ := command_walker (p := p) hw
      refine ⟨_, exec_wkKerf ho, _, hb _, rfl, rfl, rfl, rfl, rfl, rfl, rfl, rfl⟩
    · obtain ⟨b, hb⟩ := command_walker (p := p) hw
      refine ⟨_, exec_wkAudit ho, _, (auditReset_walker.trans (hb _)), rfl, rfl, rfl⟩
    · have hran : CmdRan Started s t o (s.oneStep (.op t o) p 0) := oneStep_ran
      obtain ⟨b, -, hb⟩ := hran.walker hw
      obtain ⟨w', h1, h2⟩ := ctl_walker (l := k.launch) (p := p) hb
      obtain ⟨x', h3, h4, h5⟩ := ctl_launch (t := t) (o := o) (p := p) (hran.launch.trans hx)
      rw [hran.fc] at h5
      exact ⟨_, exec_kfCtl ho hk, w', x', h1, h3, h2, h4, h5⟩
  · exact exec_coverageLRecord hx hc hu hf
  · obtain ⟨s', h1, h2⟩ := exec_deadlineClockAdvance hx h
    exact ⟨s', h1, _, h2, rfl, rfl, rfl⟩

end Sys2Proof.Machine

namespace Sys2Proof.Machine

/-! PROOFS. Spline units and their commands (R176, R250, R257 to R259). -/

variable {s u v : State} {t o t' o' n k : Nat} {x : Spline} {w : Walker} {p : Packet}

/-! ## Translations in states with the same tables -/

section
variable (ht : Tables s u) (htlb : u.tlb = s.tlb) (hm : u.misses = s.misses)
include ht htlb hm

theorem xlate_congr {die l va m kind : Nat} {y : XUser} : u.xlate die y l va m kind = s.xlate die y l va m kind := by
  have hmf (z : Miss) (a b c d : Nat) : u.missFor z a b c d = s.missFor z a b c d := by
    simp only [State.missFor, ht.walk]
  have hc := ht.ctx l
  rw [State.xlate, State.xlate]
  cases hu : u.ctx l with
  | none =>
    rw [hu] at hc
    rw [Option.map_eq_none_iff.mp hc.symm]
  | some c =>
    rw [hu] at hc
    obtain ⟨c', hs, hx⟩ := Option.map_eq_some_iff.mp hc.symm
    rw [hs]
    simp only [Ctx.xl, Prod.mk.injEq] at hx
    obtain ⟨h1, h2, h3, h4, h5⟩ := hx
    simp only [Ctx.shmAt, h1, h2, h3, h4, h5, State.tlbHit, htlb, hm, hmf]

theorem xlatePlace_congr {die l va m kind : Nat} {y : XUser} : u.xlatePlace die y l va m kind = s.xlatePlace die y l va m kind := by
  simp only [State.xlatePlace, xlate_congr ht htlb hm]

theorem unitAt_congr (hd : u.dieAt t o = s.dieAt t o) (hl : u.lctxOf t = s.lctxOf t) {va m kind : Nat} {l : Loc}
    {tail : Option (Nat × Loc)} : u.unitAt t o va m kind = .at_ l tail ↔ s.unitAt t o va m kind = .at_ l tail := by
  rw [unitAt_at_iff, unitAt_at_iff, xlatePlace_congr ht htlb hm, hd, hl]

theorem unitKeys_congr (hd : u.dieAt t o = s.dieAt t o) (hl : u.lctxOf t = s.lctxOf t) {va m kind : Nat} {ks : List Nat}
    (h : s.unitKeys t o va m kind = .at_ ks) : u.unitKeys t o va m kind = .at_ ks := by
  have hfrom (f va m : Nat) (ks : List Nat) (h : s.unitKeysFrom t o kind f va m = .at_ ks) :
      u.unitKeysFrom t o kind f va m = .at_ ks := by
    induction f generalizing va m ks with
    | zero => exact h
    | succ f ih =>
      rw [State.unitKeysFrom] at h ⊢
      split at h
      · next h0 =>
        rw [if_pos h0]
        exact h
      · next h0 =>
        rw [if_neg h0]
        dsimp only at h ⊢
        split at h
        · cases h
        · cases h
        · next l tail hat =>
          rw [(unitAt_congr ht htlb hm hd hl).mpr hat]
          dsimp only
          split at h
          · next ks' hks =>
            rw [ih _ _ _ hks]
            exact h
          · next hno => exact absurd h (hno ks)
  exact hfrom _ _ _ _ h

end

theorem dieAt_eq : s.dieAt t o = ((s.op t o).map fun p => dieOf p.place.x p.place.y).getD 0 := rfl

theorem modSpline_dieAt {g : Spline → Spline} : (s.modSpline t o g).dieAt t o = s.dieAt t o := by
  rw [dieAt_eq, dieAt_eq, State.modSpline, modOp_op_self]
  rcases s.op t o with _ | ⟨pl, fa, ff, re, po, hd, fi, k⟩
  · rfl
  · cases k <;> rfl

/-! ## The spline unit of an operator -/

theorem spline_view : View Op.spline? where
  kind p q h := by rw [Op.spline?, Op.spline?, h]
  withdrawn p := by
    obtain ⟨pl, fa, ff, re, po, hd, fi, k⟩ := p
    cases k <;> rfl

theorem spline_eq_view : s.spline t o = s.view Op.spline? t o := spline_eq_op

theorem modSpline_spline_of {g : Spline → Spline} (h : s.spline t o = some x) : (s.modSpline t o g).spline t o = some (g x) := by
  rw [modSpline_spline_self, h]
  rfl

theorem countFiring_spline : (s.countFiring t o).spline t' o' = s.spline t' o' := by
  rw [spline_eq_view, spline_eq_view, spline_view.countFiring]

theorem gotDone_spline : (s.gotDone t o).spline t' o' = s.spline t' o' := by
  rw [spline_eq_view, spline_eq_view]
  exact spline_view.modOp fun _ => rfl

theorem CmdRan.spline {step : Inbox → Inbox → Prop} (h : CmdRan step s t o u) (hw : s.spline t o = some x) :
    ∃ b, step x.inbox b ∧ u.spline t o = some { x with inbox := b } := by
  obtain ⟨g, hg, hu⟩ := h.op
  rw [spline_eq_op] at hw
  obtain ⟨q, hq, hk⟩ := Option.bind_eq_some_iff.mp hw
  refine ⟨g x.inbox, hg _, ?_⟩
  rw [spline_eq_op, hu, hq, Option.map_some, Option.bind_some]
  unfold Op.spline? at hk
  split at hk
  · next hkind =>
    cases hk
    simp only [Op.spline?, hkind, OpKind.modInbox]
  · cases hk

/-! ## Stores -/

/-- The state in which a spline has issued a store (R176). -/
theorem splineStore_ok {va m val : Nat} {l : Loc} {tail : Option (Nat × Loc)} (hx : s.spline t o = some x)
    (hat : s.unitAt t o va m 1 = .at_ l tail) : ∃ u acc, s.splineStore t o k va m val = .ok u ∧
      u.spline t o = some { x with accs := x.accs ++ [acc] } ∧ acc.k = k ∧ acc.loc = l ∧ acc.tail = tail ∧ acc.bytes = m ∧
      acc.write = true ∧ ∀ g, u.bufState g = s.bufState g := by
  unfold State.splineStore
  rw [hat]
  exact ⟨_, _, rfl, (spline_congr busy_accessed.op).trans (modSpline_spline_of hx), rfl, rfl, rfl, rfl, rfl, fun _ => rfl⟩

end Sys2Proof.Machine

namespace Sys2Proof.Machine

/-! PROOFS. The steps of splines, and the statement about them (R176, R250, R257 to R259). -/

variable {s u v : State} {t o t' o' n k : Nat} {x : Spline} {w : Walker} {p : Packet} {l : Loc} {tail : Option (Nat × Loc)}

/-- A store that a spline has issued last. -/
def Issued (x x' : Spline) (k : Nat) (l : Loc) (tail : Option (Nat × Loc)) (n : Nat) : Prop :=
  ∃ acc, x'.accs = x.accs ++ [acc] ∧ acc.k = k ∧ acc.loc = l ∧ acc.tail = tail ∧ acc.bytes = n ∧ acc.write = true

theorem splineOpen_spline (h : s.splineOpen t o = some x) : s.spline t o = some x := by
  unfold State.splineOpen at h
  split at h
  · next p x' hp hx =>
    split at h
    · cases h
      exact hx
    · cases h
  · cases h

/-! ## Tokens of computed points -/

/-- What a spline notes of the token of a computed point (R176). -/
def Spline.noted (x : Spline) (n k : Nat) (old : List Wide) (tok : Token) (y : Spline) : Spline :=
  { y with taken := y.taken + 1, computed := aset n (old.set k tok.pay) x.computed,
           audited := if tok.kind == Kind.audit && !x.audited.contains n then n :: x.audited else x.audited,
           flags := if aget n x.flags == some 3 then x.flags else aset n 2 x.flags }

theorem tokenTaken_spline (hx : s.spline t o = some x) : (s.tokenTaken t o).spline t o = some { x with taken := x.taken + 1 } :=
  (spline_congr busy_accessed.op).trans (modSpline_spline_of ((spline_congr popTok_op).trans hx))

/-- The token of a computed point is taken, and its store issued (R176). -/
theorem splineTake_ok {tok : Token} (hx : s.spline t o = some x) (hd : tok.isData = true)
    (hn : (((s.walker t x.walker).bind fun w => (w.walk x.walks).pts[x.taken / x.tile]?).getD x.count) = n) (hlt : n < x.count)
    (hat : s.unitAt t o (x.base + n * x.tileBytes + 128 * (x.taken % x.tile)) 128 1 = .at_ l tail) :
    ∃ y acc, (s.splineTake t o x tok).spline t o =
        some (x.noted n (x.taken % x.tile) ((aget n x.computed).getD (List.replicate x.tile 0)) tok y) ∧
      y = { x with accs := x.accs ++ [acc] } ∧ acc.k = n ∧ acc.loc = l ∧ acc.tail = tail ∧ acc.bytes = 128 ∧ acc.write = true := by
  have hp : tok.isPoison = false := by
    rw [Token.isData, Bool.or_eq_true, beq_iff_eq, beq_iff_eq] at hd
    rw [Token.isPoison, beq_eq_false_iff_ne]
    rcases hd with hd | hd
    · rw [hd]
      decide
    · rw [hd]
      decide
  obtain ⟨u, acc, hstore, hu, h1, h2, h3, h4, h5, -⟩ := splineStore_ok (k := n) (val := tok.pay.toNat) hx hat
  refine ⟨_, acc, ?_, rfl, h1, h2, h3, h4, h5⟩
  unfold State.splineTake
  dsimp only
  rw [hn, if_neg (by omega), hp, if_neg Bool.false_ne_true, hstore]
  dsimp only
  rw [countFiring_spline]
  exact modSpline_spline_of (tokenTaken_spline hu)

theorem exec_splineTileStore {tok : Token} (h : s.splineOpen t o = some x) (hph : x.phase = .take) (hin : x.inputDone = false)
    (hh : s.headTok t o 0 = some tok) (hd : tok.isData = true) (hw : s.walker t x.walker = some w) (ha : x.hasAll w = false) :
    exec (.splineTileStore t o) s = .next (s.splineTake t o x tok) := by
  have he : exec (.splineTileStore t o) s = execSplineTileStore t o s := rfl
  have hk : tok.kind ≠ Kind.done := by
    rw [Token.isData, Bool.or_eq_true, beq_iff_eq, beq_iff_eq] at hd
    rcases hd with hd | hd
    · rw [hd]
      decide
    · rw [hd]
      decide
  have hc : (x.phase != .take || x.inputDone) = false := by
    rw [hph, hin]
    rfl
  rw [he, execSplineTileStore, h]
  dsimp only
  rw [hc, if_neg Bool.false_ne_true, hh]
  dsimp only
  rw [if_neg hk, hw, Option.map_some, ha, Option.getD_some, if_neg Bool.false_ne_true, hd, Bool.true_or, if_pos rfl]

/-! ## Reconstruction -/

/-- A reconstruction begins once the mask's handle is full (R176, R245). -/
theorem exec_splineReconstruct_take (h : s.splineOpen t o = some x) (hph : x.phase = .take) (hr : x.run = none)
    (hw : s.walker t x.walker = some w) (hready : s.splineReady x w = true) :
    Gives (.splineReconstruct t o) s fun s' => s'.bufState w.handle = 3 ∧ ∃ x', s'.spline t o = some x' ∧
        x'.phase = .recon ∧ x'.walks = x.walks + 1 ∧ x'.holds = true ∧
        x'.next = if s.reconstructs t (w.walk x.walks) then 0 else x.count := by
  have he : exec (.splineReconstruct t o) s = execSplineReconstruct t o s := rfl
  unfold Gives
  rw [he, execSplineReconstruct, h]
  dsimp only
  rw [hph, hr, hw]
  dsimp only
  rw [hready, if_pos rfl]
  exact ⟨_, rfl, bufState_setBuf_self (rank := rankUnit) (by decide), _, (spline_congr busy_accessed.op).trans
    (modSpline_spline_of (s := s.setBuf w.handle 3 rankUnit) (splineOpen_spline h)), rfl, rfl, rfl, rfl⟩

/-- The branch of a reconstruction in progress. -/
theorem exec_splineReconstruct_recon (h : s.splineOpen t o = some x) (hph : x.phase = .recon) (hr : x.run = none)
    (hw : s.walker t x.walker = some w) (hmay : s.bufMay w.handle rankUnit = true) :
    exec (.splineReconstruct t o) s = .next (s.drainAgain t o x w.handle fun s =>
      (if x.next ≥ x.count then s.mapOut t o x w.handle else s.walkPoint t o x (w.walk (x.walks - 1))).busy (s.lctxOf t)) := by
  have he : exec (.splineReconstruct t o) s = execSplineReconstruct t o s := rfl
  rw [he, execSplineReconstruct, h]
  dsimp only
  rw [hph, hr, hw]
  dsimp only
  rw [hmay]
  rfl

/-- The state in which a reconstruction goes on: a handle that a pause had set full drains again (R245, R259). -/
def State.drained (s : State) (t o : Nat) (x : Spline) (h : Nat) : State :=
  if x.holds then s else (s.setBuf h 3 rankUnit).modSpline t o fun y => { y with holds := true }

/-- What that state has in common with the one before. -/
structure Drained (s u : State) (t o : Nat) (x : Spline) (h : Nat) : Prop where
  spline : u.spline t o = some { x with holds := true }
  tables : Tables s u
  tlb : u.tlb = s.tlb
  misses : u.misses = s.misses
  die : u.dieAt t o = s.dieAt t o
  lctx : u.lctxOf t = s.lctxOf t
  buf : x.holds = false → u.bufState h = 3

theorem drained_drained {h : Nat} (hx : s.spline t o = some x) : Drained s (s.drained t o x h) t o x h := by
  unfold State.drained
  split
  · next hh =>
    have e : ({ x with holds := true } : Spline) = x := by
      rw [← hh]
    refine ⟨by rw [e]; exact hx, Tables.refl s, rfl, rfl, rfl, rfl, fun hf => ?_⟩
    rw [hh] at hf
    cases hf
  · exact ⟨modSpline_spline_of (s := s.setBuf h 3 rankUnit) hx, ⟨rfl, rfl, rfl, rfl, fun _ => rfl⟩, rfl, rfl,
      modSpline_dieAt (s := s.setBuf h 3 rankUnit), (modOp_frames (s := s.setBuf h 3 rankUnit)).lctxOf,
      fun _ => bufState_setBuf_self (rank := rankUnit) (by decide)⟩

theorem drainAgain_on {h : Nat} {on : State → State} (hlt : x.next < x.count)
    (hb : x.holds = true ∨ s.bufState h ≠ 1 ∧ s.bufState h ≠ 3) : s.drainAgain t o x h on = on (s.drained t o x h) := by
  unfold State.drainAgain State.drained
  rcases hb with hb | ⟨h1, h3⟩
  · rw [hb]
    rfl
  · cases x.holds with
    | true => rfl
    | false =>
      rw [decide_eq_false (by omega), beq_eq_false_iff_ne.mpr h1, beq_eq_false_iff_ne.mpr h3]
      rfl

theorem drainAgain_wait {h : Nat} {on : State → State} (hlt : x.next < x.count) (hh : x.holds = false)
    (hb : s.bufState h = 1 ∨ s.bufState h = 3) : s.drainAgain t o x h on = s := by
  unfold State.drainAgain
  have hb' : (s.bufState h == 1 || s.bufState h == 3) = true := by
    rw [Bool.or_eq_true, beq_iff_eq, beq_iff_eq]
    exact hb
  rw [hh, decide_eq_false (by omega), hb']
  rfl

theorem countFiring_bufState {g : Nat} : (s.countFiring t o).bufState g = s.bufState g := by
  unfold State.countFiring
  rcases checkStopCond_cases (s := s.modOp t o fun p => { p with firings := p.firings + 1 }) (t := t) (o := o) with e | ⟨l, e⟩
  · rw [e]
    rfl
  · rw [e]
    rfl

/-- A spline behind the token of its tile that it has stored: the next token, or the next point (R176). -/
def Spline.behind (x y : Spline) : Spline :=
  if x.sub + 1 < x.tile then { y with sub := x.sub + 1 } else { (y.flag x.next 1) with next := x.next + 1, sub := 0 }

theorem behind_fields {y : Spline} (hr : y.run = none) : (x.behind y).accs = y.accs ∧ (x.behind y).holds = y.holds ∧
    (x.sub + 1 < x.tile → (x.behind y).next = y.next ∧ (x.behind y).sub = x.sub + 1) ∧
    (x.tile ≤ x.sub + 1 → (x.behind y).next = x.next + 1 ∧ (x.behind y).sub = 0 ∧ aget x.next (x.behind y).flags = some 1) := by
  unfold Spline.behind
  split
  · next hlt => exact ⟨rfl, rfl, fun _ => ⟨rfl, rfl⟩, fun hle => absurd hle (by omega)⟩
  · next hge =>
    rw [Spline.flag, hr]
    exact ⟨rfl, rfl, fun hlt => absurd hlt hge, fun _ => ⟨rfl, rfl, aget_aset_self⟩⟩

/-- The next token of a tile that was not computed is stored (R176). -/
theorem tileOut_ok {tl : List Wide} {y : Spline} (hy : s.spline t o = some y) (hyr : y.run = none) (hr : x.run = none)
    (hat : s.unitAt t o (x.base + x.next * x.tileBytes + 128 * x.sub) 128 1 = .at_ l tail) :
    ∃ x', (s.tileOut t o x tl).spline t o = some x' ∧ (∀ g, (s.tileOut t o x tl).bufState g = s.bufState g) ∧ x'.holds = y.holds ∧
      Issued y x' x.next l tail 128 ∧ (x.sub + 1 < x.tile → x'.next = y.next ∧ x'.sub = x.sub + 1) ∧
      (x.tile ≤ x.sub + 1 → x'.next = x.next + 1 ∧ x'.sub = 0 ∧ aget x.next x'.flags = some 1) := by
  have hdest : x.dest = x.base := by
    rw [Spline.dest, hr]
    rfl
  obtain ⟨u, acc, hstore, hu, h1, h2, h3, h4, h5, hbuf⟩ := splineStore_ok (k := x.next) (val := (tl.getD x.sub 0).toNat) hy hat
  have he : s.tileOut t o x tl = (u.modSpline t o x.behind).countFiring t o := by
    rw [State.tileOut, hdest, State.splineOut, hstore]
    rfl
  obtain ⟨hacc, hholds, hmore, hlast⟩ := behind_fields (x := x) (y := { y with accs := y.accs ++ [acc] }) hyr
  rw [he]
  exact ⟨_, countFiring_spline.trans (modSpline_spline_of hu), fun g => countFiring_bufState.trans (hbuf g), hholds,
    ⟨acc, hacc, h1, h2, h3, h4, h5⟩, hmore, hlast⟩

/-- A point that was not computed is reconstructed and stored (R176, R245, R259). -/
theorem exec_splineReconstruct_point (h : s.splineOpen t o = some x) (hph : x.phase = .recon) (hr : x.run = none)
    (hw : s.walker t x.walker = some w) (hmay : s.bufMay w.handle rankUnit = true) (hlt : x.next < x.count)
    (hb : x.holds = true ∨ s.bufState w.handle ≠ 1 ∧ s.bufState w.handle ≠ 3) (hflag : aget x.next x.flags = none)
    (hat : s.unitAt t o (x.base + x.next * x.tileBytes + 128 * x.sub) 128 1 = .at_ l tail) :
    Gives (.splineReconstruct t o) s fun s' => (x.holds = false → s'.bufState w.handle = 3) ∧ ∃ x',
      s'.spline t o = some x' ∧ x'.holds = true ∧ Issued x x' x.next l tail 128 ∧
      (x.sub + 1 < x.tile → x'.next = x.next ∧ x'.sub = x.sub + 1) ∧
      (x.tile ≤ x.sub + 1 → x'.next = x.next + 1 ∧ x'.sub = 0 ∧ aget x.next x'.flags = some 1) := by
  obtain ⟨hsp, htab, htlb, hmiss, hdie, hlctx, hbuf⟩ := drained_drained (h := w.handle) (splineOpen_spline h)
  have hpoint : ∃ tl, (s.drained t o x w.handle).walkPoint t o x (w.walk (x.walks - 1)) = (s.drained t o x w.handle).tileOut t o x tl := by
    unfold State.walkPoint
    dsimp only
    rw [hflag]
    exact ⟨_, rfl⟩
  obtain ⟨tl, htl⟩ := hpoint
  obtain ⟨x', h1, h2, h3, h4⟩ := tileOut_ok (tl := tl) hsp hr hr ((unitAt_congr htab htlb hmiss hdie hlctx).mpr hat)
  refine ⟨_, (exec_splineReconstruct_recon h hph hr hw hmay).trans (congrArg Host.Outcome.next (drainAgain_on hlt hb)), ?_⟩
  dsimp only
  rw [if_neg (by omega), htl]
  exact ⟨fun hh => (h2 _).trans (hbuf hh), x', (spline_congr busy_accessed.op).trans h1, h3, h4⟩

/-- A spline behind bytes of the validity map at `va` that it has stored (R176, R178). -/
def Spline.mapped (x : Spline) (va : Nat) (y : Spline) : Spline :=
  { y with sub := x.sub + 1, mapVa := va, phase := if 128 * (x.sub + 1) ≥ x.mapBytes then .acks else .recon }

/-- The state in which bytes of the validity map are stored: the reconstruction is over, and the handle full again (R245). -/
def State.mapReady (s : State) (t o : Nat) (x : Spline) (h : Nat) : State :=
  if x.holds then (s.setBuf h 2 rankUnit).modSpline t o fun y => { y with holds := false } else s

theorem mapReady_ready {h : Nat} (hx : s.spline t o = some x) : (s.mapReady t o x h).spline t o = some { x with holds := false } ∧
    Tables s (s.mapReady t o x h) ∧ (s.mapReady t o x h).tlb = s.tlb ∧ (s.mapReady t o x h).misses = s.misses ∧
    (s.mapReady t o x h).dieAt t o = s.dieAt t o ∧ (s.mapReady t o x h).lctxOf t = s.lctxOf t ∧
    (x.holds = true → (s.mapReady t o x h).bufState h = 2) := by
  unfold State.mapReady
  split
  · exact ⟨modSpline_spline_of (s := s.setBuf h 2 rankUnit) hx, ⟨rfl, rfl, rfl, rfl, fun _ => rfl⟩, rfl, rfl,
      modSpline_dieAt (s := s.setBuf h 2 rankUnit), (modOp_frames (s := s.setBuf h 2 rankUnit)).lctxOf,
      fun _ => bufState_setBuf_self (rank := rankUnit) (by decide)⟩
  · next hh =>
    have hf : x.holds = false := Bool.eq_false_iff.mpr hh
    have e : ({ x with holds := false } : Spline) = x := by
      rw [← hf]
    exact ⟨by rw [e]; exact hx, Tables.refl s, rfl, rfl, rfl, rfl, fun h => absurd h hh⟩

/-- The next bytes of the validity map are stored, and with the first the handle is full again (R176, R178, R245). -/
theorem exec_splineReconstruct_map (h : s.splineOpen t o = some x) (hph : x.phase = .recon) (hr : x.run = none)
    (hw : s.walker t x.walker = some w) (hmay : s.bufMay w.handle rankUnit = true) (hle : x.count ≤ x.next)
    (hn : min 128 (x.mapBytes - 128 * x.sub) = n) (hpos : 0 < n)
    (hat : s.unitAt t o (x.base + x.count * x.tileBytes + 128 * x.sub) n 1 = .at_ l tail) :
    Gives (.splineReconstruct t o) s fun s' => (x.holds = true → s'.bufState w.handle = 2) ∧ ∃ x',
      s'.spline t o = some x' ∧ x'.holds = false ∧ Issued x x' mapK l tail n ∧ x'.sub = x.sub + 1 ∧
      x'.mapVa = x.base + x.count * x.tileBytes ∧ x'.phase = if 128 * (x.sub + 1) ≥ x.mapBytes then .acks else .recon := by
  have hdest : x.dest = x.base := by
    rw [Spline.dest, hr]
    rfl
  have hdrain (on : State → State) : s.drainAgain t o x w.handle on = on s := by
    unfold State.drainAgain
    rw [decide_eq_true hle, Bool.or_true]
    rfl
  obtain ⟨hsp, htab, htlb, hmiss, hdie, hlctx, hbuf⟩ := mapReady_ready (h := w.handle) (splineOpen_spline h)
  obtain ⟨u, acc, hstore, hu, h1, h2, h3, h4, h5, hb⟩ := splineStore_ok (k := mapK)
    (val := mapValue x.mapFlags / 2 ^ (1024 * x.sub) % 2 ^ (8 * n)) hsp ((unitAt_congr htab htlb hmiss hdie hlctx).mpr hat)
  have he : s.mapOut t o x w.handle = u.modSpline t o (x.mapped (x.base + x.count * x.tileBytes)) := by
    unfold State.mapOut
    dsimp only
    unfold State.mapReady at hstore
    rw [hn, if_neg (by omega), hdest, State.splineOut, hstore]
    rfl
  refine ⟨_, (exec_splineReconstruct_recon h hph hr hw hmay).trans (congrArg Host.Outcome.next (hdrain _)), ?_⟩
  dsimp only
  rw [if_pos hle, he]
  exact ⟨fun hh => (hb _).trans (hbuf hh), _, (spline_congr busy_accessed.op).trans (modSpline_spline_of hu), rfl,
    ⟨acc, rfl, h1, h2, h3, h4, h5⟩, rfl, rfl, rfl⟩

/-! ## Ends -/

theorem acks_over (hph : x.phase = .acks) (ha : ∀ a ∈ x.accs, a.k = flagK) :
    (x.phase != .acks || x.accs.any (fun a => a.k != flagK)) = false := by
  rw [hph, Bool.or_eq_false_iff]
  refine ⟨rfl, ?_⟩
  rw [List.any_eq_false]
  intro a hmem
  rw [ha a hmem]
  decide

/-- Once its stores are acknowledged, a spline without an sp.run is done, or takes the tokens of the next walk (R176, R256). -/
theorem exec_splineDone_walk (h : s.splineOpen t o = some x) (hph : x.phase = .acks) (ha : ∀ a ∈ x.accs, a.k = flagK) (hr : x.run = none) :
    exec (.splineDone t o) s = .next (if x.inputDone then
        if s.outBound t o 1 && !s.canPush t o 1 1 then s
        else ((if s.outBound t o 1 then s.pushTok t o 1 (doneTok 0) else s.gotDone t o).modSpline t o fun x =>
          { x with phase := .done }).countFiring t o
      else s.modSpline t o fun x => { x with phase := .take, taken := 0, computed := [], audited := [], flags := [] }) := by
  have he : exec (.splineDone t o) s = execSplineDone t o s := rfl
  rw [he, execSplineDone, h]
  dsimp only
  rw [acks_over hph ha, if_neg Bool.false_ne_true, hr]
  dsimp only
  split
  · split
    · rfl
    · rfl
  · rfl

theorem exec_splineDone_run {r : SplineRun} (h : s.splineOpen t o = some x) (hph : x.phase = .acks) (ha : ∀ a ∈ x.accs, a.k = flagK)
    (hr : x.run = some r) : exec (.splineDone t o) s =
      .next ((s.endCmd (.op t o) r.reply 0).modSpline t o fun x => { x with run := none, phase := r.back }) := by
  have he : exec (.splineDone t o) s = execSplineDone t o s := rfl
  rw [he, execSplineDone, h]
  dsimp only
  rw [acks_over hph ha, if_neg Bool.false_ne_true, hr]

theorem doneOut_spline : (if s.outBound t o 1 then s.pushTok t o 1 (doneTok 0) else s.gotDone t o).spline t o = s.spline t o := by
  split
  · exact spline_congr pushTok_op
  · exact gotDone_spline

/-! ## Commands -/

/-- The parameters that an sp.cfg sets (R257). -/
def Spline.configured (x : Spline) (p : Packet) : Spline :=
  { x with fmt := ((p.dbl 1).extractLsb' 53 4).toNat, kernel := ((p.dbl 1).extractLsb' 50 3).toNat,
           da := ((p.dbl 1).extractLsb' 47 3).toNat, db := ((p.dbl 1).extractLsb' 44 3).toNat,
           tile := ((p.dbl 1).extractLsb' 40 4).toNat + 1, base := (p.dbl 2).toNat, count := (p.dbl 3).toNat, baseRef := p.dbl 2,
           countRef := p.dbl 3 }

theorem exec_spCfg (hx : s.spline t o = some x) (ho : s.inboxOpen (.op t o) = true) (hr : x.run = none) (hph : x.phase ≠ .recon) :
    exec (.spCfg t o p) s = .next ((s.oneStep (.op t o) p 0).modSpline t o fun x => x.configured p) := by
  have he : exec (.spCfg t o p) s = execSpCfg t o p s := rfl
  have hready : (x.phase != .recon && x.run.isNone) = true := by
    rw [hr, Bool.and_eq_true]
    exact ⟨bne_iff_ne.mpr hph, rfl⟩
  rw [he, execSpCfg, hx]
  dsimp only
  rw [command_ready ho hready]
  rfl

/-- The run that an sp.run starts (R258). -/
def Spline.running (x : Spline) (h base : Nat) (exts : List Nat) (passed mask reply : Nat) : Spline :=
  { x with phase := .recon, next := 0, sub := 0, mapStored := false, holds := true,
           run := some { handle := h, base := base, exts := exts, passed := passed, mask := mask, flags := [], back := x.phase,
                         reply := reply } }

/-- The state in which the command of an sp.run has read PASSED and the mask, and starts (R258). -/
def State.runBegun (s : State) (t o : Nat) (p : Packet) (h : Nat) (exts k₁ k₂ : List Nat) : State :=
  ((((s.touchKeys k₁).touchKeys k₂).beginCmd (.op t o) p).setBuf h 3 rankUnit).modSpline t o fun x =>
    x.running h (p.dbl 2).toNat exts (s.readKeys k₁) (s.readKeys k₂) (s.cmdId (.op t o))

theorem exec_spRun {va : Nat} {exts k₁ k₂ : List Nat} {h : Nat} (hx : s.spline t o = some x) (ho : s.inboxOpen (.op t o) = true)
    (hr : x.run = none) (hh : ((p.dbl 1).extractLsb' 0 12).toNat = h) (hph : x.phase = .take ∨ x.phase = .done)
    (hb : s.bufState h = 2) (hmay : s.bufMay h rankUnit = true) (hm : aget h s.masks = some (va, exts))
    (h1 : s.unitKeys t o va 4 0 = .at_ k₁) (h2 : s.unitKeys t o (va + 64) ((s.readKeys k₁ + 7) / 8) 0 = .at_ k₂) :
    exec (.spRun t o p) s = .next (s.runBegun t o p h exts k₁ k₂) := by
  have he : exec (.spRun t o p) s = execSpRun t o p s := rfl
  subst hh
  have hready : ((x.phase == .take || x.phase == .done) && x.run.isNone && s.bufState ((p.dbl 1).extractLsb' 0 12).toNat == 2 &&
      s.bufMay ((p.dbl 1).extractLsb' 0 12).toNat rankUnit) = true := by
    rw [hr, hmay, hb]
    rcases hph with hph | hph
    · rw [hph]
      rfl
    · rw [hph]
      rfl
  obtain ⟨q, hq⟩ := touchKeys_cases (s := s) k₁
  have h2' : (s.touchKeys k₁).unitKeys t o (va + 64) ((s.readKeys k₁ + 7) / 8) 0 = .at_ k₂ := by
    rw [hq]
    exact unitKeys_congr power_tables rfl rfl rfl rfl h2
  have hread : (s.touchKeys k₁).readKeys k₂ = s.readKeys k₂ := by
    rw [hq]
    rfl
  rw [he, execSpRun, hx]
  dsimp only
  rw [command_ready ho hready, hm]
  dsimp only
  rw [State.unitRead, h1]
  dsimp only
  rw [State.unitRead, h2']
  dsimp only
  rw [hread]
  rfl

theorem runBegun_spline {exts k₁ k₂ : List Nat} {h : Nat} (hx : s.spline t o = some x) : ∃ b, (s.runBegun t o p h exts k₁ k₂).spline t o =
    some (({ x with inbox := b } : Spline).running h (p.dbl 2).toNat exts (s.readKeys k₁) (s.readKeys k₂) (s.cmdId (.op t o))) := by
  obtain ⟨b, -, hb⟩ := (beginCmd_ran (s := (s.touchKeys k₁).touchKeys k₂) (p := p)).spline
    ((spline_congr touchKeys_op).trans ((spline_congr touchKeys_op).trans hx))
  exact ⟨b, modSpline_spline_of (s := (((s.touchKeys k₁).touchKeys k₂).beginCmd (.op t o) p).setBuf h 3 rankUnit) hb⟩

/-! ## The statement -/

/-- Settles O49: the steps of splines, and their commands. -/
theorem splines : Obligations.Splines := by
  unfold Obligations.Splines
  refine ⟨fun s t o x h => ?_, fun s t o p x hx ho hr => ?_⟩
  · have hx := splineOpen_spline h
    intro stored
    refine ⟨fun tok w n l tail hph hin hh hd hw ha hn hlt hat => ?_, fun w hph hr hw hready => exec_splineReconstruct_take h hph hr hw hready,
      fun w l tail hph hr hw hmay => ⟨fun hlt hh hb => ?_, fun hlt hb hflag hat => exec_splineReconstruct_point h hph hr hw hmay hlt hb hflag hat, ?_⟩,
      fun hph ha hr => ⟨fun hin hpush => ?_, fun hin => ?_⟩, fun r hph ha hr => ?_⟩
    · have hn' : (((s.walker t x.walker).bind fun w => (w.walk x.walks).pts[x.taken / x.tile]?).getD x.count) = n := by
        rw [hw, Option.bind_some, hn]
        rfl
      obtain ⟨y, acc, h1, rfl, h2⟩ := splineTake_ok hx hd hn' hlt hat
      refine ⟨_, exec_splineTileStore h hph hin hh hd hw ha, _, h1, rfl, ⟨acc, rfl, h2⟩, ⟨_, aget_aset_self, fun hk => ?_⟩, fun hf => ?_⟩
      · rw [List.length_set] at hk
        rw [List.getElem?_set_self hk]
      · show aget n (if aget n x.flags == some 3 then x.flags else aset n 2 x.flags) = some 2
        rw [if_neg (by simpa using hf), aget_aset_self]
    · rw [exec_splineReconstruct_recon h hph hr hw hmay, drainAgain_wait hlt hh hb]
    · intro n hle hpos hat
      exact exec_splineReconstruct_map h hph hr hw hmay hle rfl hpos hat
    · refine ⟨_, exec_splineDone_walk h hph ha hr, ?_⟩
      have hfits : (s.outBound t o 1 && !s.canPush t o 1 1) = false := by
        cases hb : s.outBound t o 1 with
        | false => rfl
        | true =>
          rw [hpush hb]
          rfl
      rw [if_pos hin, hfits, if_neg Bool.false_ne_true]
      exact ⟨_, countFiring_spline.trans (modSpline_spline_of (doneOut_spline.trans hx)), rfl⟩
    · refine ⟨_, exec_splineDone_walk h hph ha hr, ?_⟩
      rw [if_neg (by rw [hin]; decide)]
      exact ⟨_, modSpline_spline_of hx, rfl, rfl, rfl⟩
    · obtain ⟨b, -, hb⟩ := (endCmd_ran (s := s) (id := r.reply) (status := 0)).spline hx
      exact ⟨_, exec_splineDone_run h hph ha hr, _, modSpline_spline_of hb, rfl, rfl⟩
  · intro fld hd
    refine ⟨fun hph => ?_, fun va exts k₁ k₂ hph hb hmay hm h1 h2 => ?_⟩
    · obtain ⟨b, -, hb⟩ := (oneStep_ran (s := s) (p := p) (status := 0)).spline hx
      exact ⟨_, exec_spCfg hx ho hr hph, _, modSpline_spline_of hb, rfl, rfl, rfl, rfl, rfl, rfl, rfl⟩
    · obtain ⟨b, hsp⟩ := runBegun_spline (p := p) (h := hd) (exts := exts) (k₁ := k₁) (k₂ := k₂) hx
      exact ⟨_, exec_spRun hx ho hr rfl hph hb hmay hm h1 h2, bufState_setBuf_self (rank := rankUnit) (by decide), _, _, hsp, rfl, rfl, rfl,
        rfl, rfl, rfl, rfl, rfl, rfl, rfl, rfl⟩

end Sys2Proof.Machine

namespace Sys2Proof.Machine

/-! PROOFS. Fibre units: their state, line reads, and what a step that may be taken does (R279, R280, R293). -/

variable {s u : State} {t o t' o' q r j : Nat} {f : Fibre} {x c v tok : Token} {kinds : List Fop} {kind : Fop}

/-! ## The fibre unit of an operator -/

/-- The fibre unit of an operator. -/
def Op.fibre? (p : Op) : Option Fibre :=
  match p.kind with
  | .fibre c => some c
  | _ => none

theorem fibre_eq_op : s.fibre t o = (s.op t o).bind Op.fibre? := by
  rw [State.fibre]
  rcases s.op t o with _ | ⟨pl, fa, ff, re, po, hd, fi, k⟩
  · rfl
  · cases k <;> rfl

theorem fibre_congr (h : u.op t o = s.op t o) : u.fibre t o = s.fibre t o := by rw [fibre_eq_op, fibre_eq_op, h]

theorem modFibre_fibre_self {g : Fibre → Fibre} : (s.modFibre t o g).fibre t o = (s.fibre t o).map g := by
  rw [fibre_eq_op, fibre_eq_op, State.modFibre, modOp_op_self]
  rcases s.op t o with _ | ⟨pl, fa, ff, re, po, hd, fi, k⟩
  · rfl
  · cases k <;> rfl

theorem modFibre_fibre_of {g : Fibre → Fibre} (h : s.fibre t o = some f) : (s.modFibre t o g).fibre t o = some (g f) := by
  rw [modFibre_fibre_self, h]
  rfl

theorem fibre_view : View Op.fibre? where
  kind p q h := by rw [Op.fibre?, Op.fibre?, h]
  withdrawn p := by
    obtain ⟨pl, fa, ff, re, po, hd, fi, k⟩ := p
    cases k <;> rfl

theorem fibre_eq_view : s.fibre t o = s.view Op.fibre? t o := fibre_eq_op

theorem countFiring_fibre : (s.countFiring t o).fibre t' o' = s.fibre t' o' := by
  rw [fibre_eq_view, fibre_eq_view, fibre_view.countFiring]

theorem fibreOpen_fibre {k : Task} (h : s.fibreOpen t o = some (k, f)) : s.fibre t o = some f := by
  unfold State.fibreOpen at h
  split at h
  · next k' p f' hk hp hf =>
    split at h
    · cases h
      exact hf
    · cases h
  · cases h

/-! ## Line reads -/

/-- The next line read of a unit is issued (R279). -/
theorem exec_fbBufferLoad {k : Task} {a l : Nat} {loc : Loc} {tail : Option (Nat × Loc)} (h : s.fibreOpen t o = some (k, f))
    (hl : f.loaded = false) (ht : f.nextAt ≤ s.fc) (hline : f.lines[f.nextLine]? = some (a, l))
    (hat : s.unitAt t o (f.addrs.getD a 0 + 64 * l) (4 * f.lineWords a l) 0 = .at_ loc tail) :
    Gives (.fbBufferLoad t o) s fun s' => ∃ f' acc, s'.fibre t o = some f' ∧ f'.nextLine = f.nextLine + 1 ∧
      f'.accs = f.accs ++ [acc] ∧ acc.loc = loc ∧ acc.bytes = 4 * f.lineWords a l ∧ acc.write = false := by
  have he : exec (.fbBufferLoad t o) s = execFbBufferLoad t o s := rfl
  have hc : (f.loaded || decide (f.nextAt > s.fc)) = false := by
    rw [hl, decide_eq_false (by omega)]
    rfl
  rw [Gives, he, execFbBufferLoad, h]
  dsimp only
  rw [hc, if_neg Bool.false_ne_true, hline]
  dsimp only
  rw [hat]
  refine ⟨_, rfl, _, _, modFibre_fibre_of ((fibre_congr (touchKey_accessed.trans spanRead_accessed).op).trans
    ((fibre_congr busy_accessed.op).trans (modFibre_fibre_of (fibreOpen_fibre h)))), rfl, rfl, rfl, rfl, rfl⟩

/-! ## Steps -/

/-- What a fibre unit that may take a step does: it pushes on, or acts on its heads. -/
def State.fibreAct (s : State) (t o : Nat) (f : Fibre) (act : State → Fibre → FAct) : State :=
  match f.pushing with
  | some (r, j) => s.scanPush t o f r j
  | none => match act s f with
    | .wait => s
    | .malformed q tok => s.malformed t o q tok
    | .go st => s.fTake t o st

theorem FibreReady.run (h : FibreReady s t o f kind) {act : State → Fibre → FAct} : s.fibreRun t o [kind] act = s.fibreAct t o f act := by
  obtain ⟨k, hk⟩ := h.isOpen
  have ht := h.time
  have hc : (!([kind] : List Fop).contains f.fop || !f.loaded || decide (f.nextAt > s.fc)) = false := by
    rw [h.fop, h.loaded, decide_eq_false (by omega), List.contains_cons, beq_self_eq_true]
    rfl
  rw [State.fibreRun, hk]
  dsimp only
  rw [hc, if_neg Bool.false_ne_true, h.going, if_neg Bool.false_ne_true]
  rfl

theorem FibreReady.push (h : FibreReady s t o f kind) {act : State → Fibre → FAct} (hp : f.pushing = some (r, j)) :
    s.fibreRun t o [kind] act = s.scanPush t o f r j := by
  rw [h.run, State.fibreAct, hp]

theorem FibreReady.go (h : FibreReady s t o f kind) {act : State → Fibre → FAct} {st : FStep} (hp : f.pushing = none)
    (ha : act s f = .go st) : s.fibreRun t o [kind] act = s.fTake t o st := by
  rw [h.run, State.fibreAct, hp]
  dsimp only
  rw [ha]

/-! ## Tokens -/

theorem fData_kind {b : Bool} {n : Nat} : (fData b n).kind = if b then Kind.audit else Kind.data := by
  cases b
  · exact hdrKind_mkHdr (by decide) (by decide) (by decide)
  · exact hdrKind_mkHdr (by decide) (by decide) (by decide)

theorem fData_not_poison {b : Bool} {n : Nat} : (fData b n).isPoison = false := by
  rw [Token.isPoison, fData_kind]
  cases b
  · decide
  · decide

theorem not_data_of_kind (h : tok.kind = n) (hn : n ≠ Kind.data) (hn' : n ≠ Kind.audit) : tok.isData = false := by
  rw [Token.isData, h, beq_eq_false_iff_ne.mpr hn, beq_eq_false_iff_ne.mpr hn']
  rfl

theorem fClass_data (h : tok.isData = true) : fClass tok = 0 := by rw [fClass, h, if_pos rfl]

theorem level_lt : tok.level < 8 := Nat.mod_lt _ (by decide)

theorem fClass_stop (h : tok.kind = Kind.stop) : fClass tok = 1 + tok.level := by
  rw [fClass, not_data_of_kind h (by decide) (by decide), if_neg Bool.false_ne_true, if_pos h]

theorem fClass_other (hd : tok.isData = false) (h : tok.kind ≠ Kind.stop) : fClass tok = 10 + tok.kind := by
  rw [fClass, hd, if_neg Bool.false_ne_true, if_neg h]

theorem isClose_kind (h : tok.isClose = true) : tok.kind = Kind.stop ∨ tok.kind = Kind.done := by
  rw [Token.isClose, Bool.or_eq_true, beq_iff_eq, beq_iff_eq] at h
  exact h

theorem isClose_not_data (h : tok.isClose = true) : tok.isData = false := by
  rcases isClose_kind h with h | h
  · exact not_data_of_kind h (by decide) (by decide)
  · exact not_data_of_kind h (by decide) (by decide)

theorem isClose_not_poison (h : tok.isClose = true) : tok.isPoison = false := by
  rw [Token.isPoison]
  rcases isClose_kind h with h | h
  · rw [h]
    decide
  · rw [h]
    decide

/-- The classes tell entries, stops of each level and done apart (R292). -/
theorem fClass_close (h : c.isClose = true) (hx : fClass x = fClass c) : x.isClose = true := by
  have hlc := level_lt (tok := c)
  have hlx := level_lt (tok := x)
  cases hd : x.isData with
  | true =>
    rw [fClass_data hd] at hx
    rcases isClose_kind h with h | h
    · rw [fClass_stop h] at hx
      omega
    · rw [fClass_other (isClose_not_data ‹_›) (by rw [h]; decide)] at hx
      omega
  | false =>
    by_cases hs : x.kind = Kind.stop
    · rw [Token.isClose, hs]
      rfl
    · rw [fClass_other hd hs] at hx
      rcases isClose_kind h with h | h
      · rw [fClass_stop h] at hx
        omega
      · rw [fClass_other (isClose_not_data ‹_›) (by rw [h]; decide)] at hx
        rw [Token.isClose, show x.kind = Kind.done by omega]
        rfl

theorem pairPoison_none {p : Token × Token} (h : p.1.isPoison = false) (h' : p.2.isPoison = false) : pairPoison p = none := by
  rw [pairPoison, h, if_neg Bool.false_ne_true, h', if_neg Bool.false_ne_true]

theorem pairPoison_data {p : Token × Token} (h : p.1.isData = true) (h' : p.2.isData = true) : pairPoison p = none :=
  pairPoison_none (isData_kind h).2.2 (isData_kind h').2.2

/-! ## Scan and dense units (R281, R298) -/

theorem fSink_none {ps : List (Nat × Token)} (h : ∀ p ∈ ps, p.2.isPoison = false) : s.fSink t o ps = s := by
  have hf : ps.find? (·.2.isPoison) = none := List.find?_eq_none.mpr fun p hp => by rw [h p hp]; exact Bool.false_ne_true
  rw [State.fSink, hf]
  exact ite_self _

/-- The next tokens of the fibre being pushed. -/
theorem scanPush_next (hp : s.canPushAll t o [1, 2] = true) (h : s.fibreAt t o f r j = some (c, x)) (hc : c.isPoison = false)
    (hx : x.isPoison = false) : s.scanPush t o f r j = ((s.fPush t o [(1, c), (2, x)]).modFibre t o fun f =>
      { f with pushing := some (r, j + 1), nextAt := s.after t o 1 }).busy (s.lctxOf t) := by
  have hs : (s.fPush t o [(1, c), (2, x)]).fSink t o [(1, c), (2, x)] = s.fPush t o [(1, c), (2, x)] := fSink_none fun p hp => by
    rcases List.mem_pair.mp hp with rfl | rfl
    · exact hc
    · exact hx
  rw [State.scanPush, hp, Bool.not_true, if_neg Bool.false_ne_true, h]
  dsimp only
  rw [hs]

theorem stopTok_not_poison : (stopTok 1 0).isPoison = false := by decide

/-- The closing stop of the fibre being pushed. -/
theorem scanPush_close (hp : s.canPushAll t o [1, 2] = true) (h : s.fibreAt t o f r j = none) :
    s.scanPush t o f r j = (((s.fPush t o [(1, stopTok 1 0), (2, stopTok 1 0)]).modFibre t o fun f =>
      { f with pushing := none, nextAt := s.after t o 1 }).busy (s.lctxOf t)).countFiring t o := by
  have hs : (s.fPush t o [(1, stopTok 1 0), (2, stopTok 1 0)]).fSink t o [(1, stopTok 1 0), (2, stopTok 1 0)] =
      s.fPush t o [(1, stopTok 1 0), (2, stopTok 1 0)] := fSink_none fun p hp => by
    rcases List.mem_pair.mp hp with rfl | rfl
    · exact stopTok_not_poison
    · exact stopTok_not_poison
  rw [State.scanPush, hp, Bool.not_true, if_neg Bool.false_ne_true, h]
  dsimp only
  rw [hs]

/-- A reference of a scan unit names the fibre between its two positions. -/
theorem scanFibre_ok {a b : Nat} (hr : r + 1 < f.counts.getD 0 0) (ha : f.word 0 r = .ok a) (hb : f.word 0 (r + 1) = .ok b)
    (hab : a ≤ b) (hb' : b ≤ f.counts.getD 1 0) : s.scanFibre t o f r = .ok (a, b - a) := by
  rw [State.scanFibre, if_neg (by omega), ha, hb]
  dsimp only
  rw [if_neg (by omega)]

theorem scanFibre_range (hr : f.counts.getD 0 0 ≤ r + 1) : s.scanFibre t o f r = .error (s.origin t o Code.range) := by
  rw [State.scanFibre, if_pos hr]

section
variable {a b n w : Nat}

theorem fibreAt_scan_ok (hk : f.fop = .scan) (h : s.scanFibre t o f r = .ok (a, n)) (hj : j < n) (hw : f.word 1 (a + j) = .ok w) :
    s.fibreAt t o f r j = some (fData f.pushAudit w, fData f.pushAudit (a + j)) := by
  rw [State.fibreAt, if_neg (by rw [hk]; decide), h]
  dsimp only
  rw [if_neg (by omega), hw]

theorem fibreAt_scan_end (hk : f.fop = .scan) (h : s.scanFibre t o f r = .ok (a, n)) (hj : n ≤ j) : s.fibreAt t o f r j = none := by
  rw [State.fibreAt, if_neg (by rw [hk]; decide), h]
  dsimp only
  rw [if_pos hj]

theorem fibreAt_scan_error {z : Word} (hk : f.fop = .scan) (h : s.scanFibre t o f r = .error z) :
    s.fibreAt t o f r 0 = some (poisonTok 0 z, poisonTok 0 z) := by
  rw [State.fibreAt, if_neg (by rw [hk]; decide), h]
  rfl

theorem fibreAt_dense_ok (hk : f.fop = .dense) (hj : j < f.counts.getD 0 0) (hr : r * f.counts.getD 0 0 + j < 2 ^ 32) :
    s.fibreAt t o f r j = some (fData f.pushAudit j, fData f.pushAudit (r * f.counts.getD 0 0 + j)) := by
  rw [State.fibreAt, if_pos hk]
  dsimp only
  rw [if_neg (by omega), if_neg (by omega)]

theorem fibreAt_dense_end (hk : f.fop = .dense) (hj : f.counts.getD 0 0 ≤ j) : s.fibreAt t o f r j = none := by
  rw [State.fibreAt, if_pos hk]
  dsimp only
  rw [if_pos hj]

end

/-- The step that takes a reference pushes the first tokens of its fibre. -/
theorem scanTake_next {b : Bool} (h : s.fibreAt t o { f with pushAudit := b } r 0 = some (c, x)) :
    StepIs (s.scanTake t o f r b) [0] [(1, c), (2, x)] ∧ ((s.scanTake t o f r b).upd f).pushing = some (r, 1) := by
  rw [State.scanTake, h]
  exact ⟨⟨rfl, rfl⟩, rfl⟩

theorem scanTake_empty {b : Bool} (hp : f.pushing = none) (h : s.fibreAt t o { f with pushAudit := b } r 0 = none) :
    StepIs (s.scanTake t o f r b) [0] [(1, stopTok 1 0), (2, stopTok 1 0)] ∧ ((s.scanTake t o f r b).upd f).pushing = none := by
  rw [State.scanTake, h]
  exact ⟨⟨rfl, rfl⟩, hp⟩

/-! ### The head of `ri` -/

section
variable (hh : s.fHead t o f 0 = .tok tok)
include hh

theorem scanAct_data (hd : tok.isData = true) : s.scanAct t o f = .go (s.scanTake t o f tok.word.toNat tok.isAudit) := by
  rw [State.scanAct, hh]
  dsimp only
  rw [hd, if_pos rfl]

theorem scanAct_stop (hk : tok.kind = Kind.stop) (hl : tok.level < 7) :
    s.scanAct t o f = .go (fStep [0] [(1, stopTok (tok.level + 1) 0), (2, stopTok (tok.level + 1) 0)]) := by
  rw [State.scanAct, hh]
  dsimp only
  rw [not_data_of_kind hk (by decide) (by decide), if_neg Bool.false_ne_true, if_pos hk, if_neg (by omega)]

theorem scanAct_done (hk : tok.kind = Kind.done) :
    s.scanAct t o f = .go { fStep [0] [(1, doneTok 0), (2, doneTok 0)] with retire := true } := by
  rw [State.scanAct, hh]
  dsimp only
  rw [not_data_of_kind hk (by decide) (by decide), if_neg Bool.false_ne_true, hk, if_neg (by decide), if_pos rfl]

theorem scanAct_poison (hk : tok.kind = Kind.poison) : s.scanAct t o f = .go (fStep [0] [(1, fPass tok), (2, fPass tok)]) := by
  rw [State.scanAct, hh]
  dsimp only
  rw [not_data_of_kind hk (by decide) (by decide), if_neg Bool.false_ne_true, hk, if_neg (by decide), if_neg (by decide)]

theorem lookupAct_data (hd : tok.isData = true) : s.lookupAct t o f = .go (fStep [0] [(1, if tok.word.toNat < f.counts.getD 0 0 then
    wordTok tok.isAudit (f.word 0 tok.word.toNat) else poisonTok 0 (s.origin t o Code.range))]) := by
  rw [State.lookupAct, hh]
  dsimp only
  rw [hd, if_pos rfl]
  split
  · next h => rw [if_neg (by omega)]; rfl
  · next h => rw [if_pos (by omega)]

theorem lookupAct_other (hd : tok.isData = false) :
    s.lookupAct t o f = .go { fStep [0] [(1, fPass tok)] with retire := tok.kind == Kind.done } := by
  rw [State.lookupAct, hh]
  dsimp only
  rw [hd, if_neg Bool.false_ne_true]

end

end Sys2Proof.Machine

namespace Sys2Proof.Machine

/-! PROOFS. Fibre units: merges and the other steps, and the statement about them (R281 to R286, R298 to R304). -/

variable {s u : State} {t o n q r j : Nat} {f : Fibre} {x c v tok : Token} {kind : Fop} {l : List (Token × Token)}

/-! ## Merges (R283, R299, R300) -/

/-- The coordinate at the head of a side. -/
def sideCoord (l : List (Token × Token)) (i : Nat) : Nat := (l[i]?.map fun x => x.1.word.toNat).getD 0
/-- The reference at the head of a side. -/
def sideRef (l : List (Token × Token)) (i : Nat) : Nat := (l[i]?.map fun x => x.2.word.toNat).getD 0
/-- The least coordinate of the heads of all sides. -/
def leastCoord (l : List (Token × Token)) : Nat := (List.range l.length).foldl (fun m i => min m (sideCoord l i)) (2 ^ 32)
/-- The sides at the least coordinate. -/
def leastSides (l : List (Token × Token)) : List Nat := (List.range l.length).filter fun i => sideCoord l i == leastCoord l
/-- Whether a head of these sides is audit data. -/
def leastAudit (l : List (Token × Token)) : Bool := (leastSides l).any fun i => (l[i]?.map fun x => x.1.isAudit || x.2.isAudit).getD false
/-- Whether a side is at an entry. -/
def entryAt (l : List (Token × Token)) (i : Nat) : Bool := (l[i]?.map fun x => x.1.isData).getD false

/-- The step of a merge that takes some sides. -/
def mergePop (l : List (Token × Token)) (take : Nat → Bool) (pushes : List (Nat × Token)) : FStep :=
  { fStep (((List.range l.length).filter take).flatMap fun i => [2 * i, 2 * i + 1]) pushes with
    upd := fun f => { f with lastCoord := lastAfter l take f.lastCoord } }

section
variable (hd : ∀ x ∈ l, x.1.isData = true ∧ x.2.isData = true)
include hd

theorem entryAt_lt {i : Nat} (hi : i < l.length) : entryAt l i = true := by
  rw [entryAt, List.getElem?_eq_getElem hi]
  exact (hd _ (List.getElem_mem hi)).1

theorem entries_all : (List.range l.length).filter (entryAt l) = List.range l.length :=
  List.filter_eq_self.mpr fun _ hi => entryAt_lt hd (List.mem_range.mp hi)

/-- The sides whose head is the entry with the least coordinate. -/
theorem firsts_filter : (List.range l.length).filter (fun i => entryAt l i && sideCoord l i == leastCoord l) = leastSides l :=
  List.filter_congr (fun i hi => by rw [entryAt_lt hd (List.mem_range.mp hi)]; exact Bool.true_and _)

theorem firsts_audit : (l.zipIdx.any fun y => (entryAt l y.2 && sideCoord l y.2 == leastCoord l) && (y.1.1.isAudit || y.1.2.isAudit)) =
    leastAudit l := by
  rw [Bool.eq_iff_iff, List.any_eq_true, leastAudit, List.any_eq_true]
  constructor
  · rintro ⟨⟨y, i⟩, hy, hc⟩
    rw [List.mem_zipIdx_iff_getElem?] at hy
    obtain ⟨hi, -⟩ := List.getElem?_eq_some_iff.mp hy
    obtain ⟨hc, ha⟩ := (Bool.and_eq_true _ _).mp hc
    refine ⟨i, ?_, ?_⟩
    · rw [← firsts_filter hd]
      exact List.mem_filter.mpr ⟨List.mem_range.mpr hi, hc⟩
    · rw [hy]
      exact ha
  · rintro ⟨i, hi, ha⟩
    rw [← firsts_filter hd, List.mem_filter, List.mem_range] at hi
    obtain ⟨hi, hc⟩ := hi
    rw [List.getElem?_eq_getElem hi] at ha
    refine ⟨(l[i], i), List.mem_zipIdx_iff_getElem?.mpr (List.getElem?_eq_getElem hi), ?_⟩
    rw [hc]
    exact ha

theorem firsts_all : (List.range l.length).all (fun i => entryAt l i && sideCoord l i == leastCoord l) = decide ((leastSides l).length = l.length) := by
  rw [Bool.eq_iff_iff, decide_eq_true_iff, List.all_eq_true, ← firsts_filter hd]
  conv_rhs => rhs; rw [← List.length_range (n := l.length)]
  exact List.length_filter_eq_length_iff.symm

theorem leastPop_pops {ps : List (Nat × Token)} : (mergePop l (fun i => entryAt l i && sideCoord l i == leastCoord l) ps).pops =
    (leastSides l).flatMap fun i => [2 * i, 2 * i + 1] :=
  congrArg (List.flatMap fun i => [2 * i, 2 * i + 1]) (firsts_filter hd)

/-- The tokens of a merge whose sides are all at entries, by port. -/
theorem mergeAct_entries (hs : s.sides t o f f.nin 0 = .heads l) (hne : l ≠ []) (hb : f.badSide l = none) :
    s.mergeAct t o f = .go (if (f.fop == .union || decide ((leastSides l).length = l.length)) = true then
      mergePop l (fun i => entryAt l i && sideCoord l i == leastCoord l) ((6, fData (leastAudit l) (leastCoord l)) :: (List.range l.length).map fun i =>
        (7 + i, if (entryAt l i && sideCoord l i == leastCoord l) = true then fData (leastAudit l) (sideRef l i)
          else fData false ((f.consts.getD i 0).toNat % 2 ^ 32)))
      else mergePop l (fun i => entryAt l i && sideCoord l i == leastCoord l) []) := by
  have hpp : (l.zipIdx.findSome? fun y => (pairPoison y.1).map fun p => (y.2, p)) = none := List.findSome?_eq_none_iff.mpr fun y hy => by
    have hy := hd _ (List.fst_mem_of_mem_zipIdx hy)
    rw [pairPoison_data hy.1 hy.2]
    rfl
  have hend : (l.zipIdx.find? fun y => !y.1.1.isData && y.1.1.kind != Kind.stop) = none := List.find?_eq_none.mpr fun y hy => by
    rw [(hd _ (List.fst_mem_of_mem_zipIdx hy)).1]
    exact Bool.false_ne_true
  have hemp : (List.range l.length).isEmpty = false := by
    rw [List.isEmpty_eq_false_iff]
    intro h
    exact hne (List.length_eq_zero_iff.mp (List.range_eq_nil.mp h))
  have hall : (List.range l.length).filter (fun i => (l[i]?.map fun x => x.1.isData).getD false) = List.range l.length := entries_all hd
  have hfirst := firsts_all hd
  have haudit := firsts_audit hd
  simp only [entryAt, sideCoord, leastCoord] at hfirst haudit
  unfold State.mergeAct
  rw [hs]
  dsimp only
  rw [hpp, hb]
  dsimp only
  simp only [hall, haudit, hfirst, hemp, hend]
  rw [if_neg Bool.false_ne_true, List.length_range, beq_self_eq_true, if_pos rfl]
  split
  · rfl
  · rfl

/-- The step of an intersection. -/
theorem isect_step (h : FibreReady s t o f .isect) (hp : f.pushing = none) (hs : s.sides t o f f.nin 0 = .heads l) (hne : l ≠ [])
    (hb : f.badSide l = none) : ∃ st, exec (.fbIsectStep t o) s = .next (s.fTake t o st) ∧
      StepIs st ((leastSides l).flatMap fun i => [2 * i, 2 * i + 1]) (if (leastSides l).length = l.length then
        (6, fData (leastAudit l) (leastCoord l)) :: (List.range l.length).map fun i => (7 + i, fData (leastAudit l) (sideRef l i)) else []) := by
  have he : exec (.fbIsectStep t o) s = execFbIsectStep t o s := rfl
  have hact := mergeAct_entries hd hs hne hb
  rw [he, execFbIsectStep]
  refine ⟨_, congrArg _ (h.go hp hact), ?_⟩
  rw [h.fop, show ((Fop.isect == Fop.union) = false) by decide, Bool.false_or]
  by_cases hall : (leastSides l).length = l.length
  · rw [if_pos (decide_eq_true hall), if_pos hall]
    refine ⟨leastPop_pops hd, congrArg _ (List.map_congr_left fun i hi => ?_)⟩
    have hfi := firsts_all hd
    rw [decide_eq_true hall, List.all_eq_true] at hfi
    rw [if_pos (hfi i hi)]
  · rw [if_neg (by rw [decide_eq_false hall]; exact Bool.false_ne_true), if_neg hall]
    exact ⟨leastPop_pops hd, rfl⟩

/-- The step of a union. -/
theorem union_step (h : FibreReady s t o f .union) (hp : f.pushing = none) (hs : s.sides t o f f.nin 0 = .heads l) (hne : l ≠ [])
    (hb : f.badSide l = none) : ∃ st, exec (.fbUnionStep t o) s = .next (s.fTake t o st) ∧
      StepIs st ((leastSides l).flatMap fun i => [2 * i, 2 * i + 1]) ((6, fData (leastAudit l) (leastCoord l)) :: (List.range l.length).map fun i =>
        (7 + i, if sideCoord l i = leastCoord l then fData (leastAudit l) (sideRef l i) else fData false ((f.consts.getD i 0).toNat % 2 ^ 32))) := by
  have he : exec (.fbUnionStep t o) s = execFbUnionStep t o s := rfl
  have hact := mergeAct_entries hd hs hne hb
  rw [he, execFbUnionStep]
  refine ⟨_, congrArg _ (h.go hp hact), ?_⟩
  rw [h.fop, show ((Fop.union == Fop.union) = true) by decide, Bool.true_or, if_pos rfl]
  refine ⟨leastPop_pops hd, congrArg _ (List.map_congr_left fun i hi => ?_)⟩
  rw [entryAt_lt hd (List.mem_range.mp hi), Bool.true_and]
  simp only [beq_iff_eq]

end

/-- The step of a merge whose sides all close (R292). -/
theorem mergeAct_closes (hs : s.sides t o f f.nin 0 = .heads ((c, v) :: l)) (hc : c.isClose = true)
    (hall : ∀ x ∈ (c, v) :: l, fClass x.1 = fClass c ∧ fClass x.2 = fClass c) :
    s.mergeAct t o f = .go { mergePop ((c, v) :: l) (fun _ => true) (((List.range (l.length + 1 + 1)).map (6 + ·)).map fun q => (q, fPass c)) with
      retire := c.kind == Kind.done } := by
  have hclose : ∀ x ∈ (c, v) :: l, x.1.isClose = true ∧ x.2.isClose = true := fun x hx =>
    ⟨fClass_close hc (hall x hx).1, fClass_close hc (hall x hx).2⟩
  have hpp : (((c, v) :: l).zipIdx.findSome? fun y => (pairPoison y.1).map fun p => (y.2, p)) = none :=
    List.findSome?_eq_none_iff.mpr fun y hy => by
      have hy := hclose _ (List.fst_mem_of_mem_zipIdx hy)
      rw [pairPoison_none (isClose_not_poison hy.1) (isClose_not_poison hy.2)]
      rfl
  have hbad : f.badSide ((c, v) :: l) = none := List.findSome?_eq_none_iff.mpr fun y hy => by
    have hm := (List.fst_mem_of_mem_zipIdx hy)
    dsimp only
    rw [if_neg (by rw [(hall _ hm).1, (hall _ hm).2]; exact fun h => h rfl), isClose_not_data (hclose _ hm).1]
    split
    · rfl
    · rfl
  have hdata : (List.range ((c, v) :: l).length).filter (fun i => ((((c, v) :: l)[i]?).map fun x => x.1.isData).getD false) = [] := by
    refine List.filter_eq_nil_iff.mpr fun i hi => ?_
    have hi := List.mem_range.mp hi
    rw [List.getElem?_eq_getElem hi, Option.map_some, Option.getD_some, isClose_not_data (hclose _ (List.getElem_mem hi)).1]
    exact Bool.false_ne_true
  have hcls : (((c, v) :: l).all fun y => fClass y.1 == fClass c) = true :=
    List.all_eq_true.mpr fun y hy => beq_iff_eq.mpr (hall y hy).1
  unfold State.mergeAct
  rw [hs]
  dsimp only
  rw [hpp, hbad]
  dsimp only
  simp only [hdata, hcls]
  rfl

theorem closes_step {i : Instr} (h : FibreReady s t o f kind) (hp : f.pushing = none)
    (he : exec i s = .next (s.fibreRun t o [kind] fun s f => s.mergeAct t o f))
    (hs : s.sides t o f f.nin 0 = .heads ((c, v) :: l)) (hc : c.isClose = true)
    (hall : ∀ x ∈ (c, v) :: l, fClass x.1 = fClass c ∧ fClass x.2 = fClass c) :
    ∃ st, exec i s = .next (s.fTake t o st) ∧ st.retire = (c.kind == Kind.done) ∧
      StepIs st ((List.range (l.length + 1)).flatMap fun i => [2 * i, 2 * i + 1])
        (((List.range (l.length + 1 + 1)).map (6 + ·)).map fun q => (q, fPass c)) := by
  rw [he]
  refine ⟨_, congrArg _ (h.go hp (mergeAct_closes hs hc hall)), rfl, ⟨?_, rfl⟩⟩
  show ((List.range ((c, v) :: l).length).filter fun _ => true).flatMap _ = _
  rw [List.filter_true]
  rfl

/-! ## Filter, reduce and write (R285, R286, R301, R303, R304) -/

section
variable (hs : s.sides t o f 1 0 = .heads [(c, v)])
include hs

theorem filterAct_data (hc : c.isData = true) (hv : v.isData = true) :
    s.filterAct t o f = .go (fStep [0, 1] (if f.holds v.word.toNat then [(2, fData (c.isAudit || v.isAudit) c.word.toNat),
      (3, fData (c.isAudit || v.isAudit) v.word.toNat)] else [])) := by
  rw [State.filterAct, hs]
  dsimp only
  rw [pairPoison_data hc hv]
  dsimp only
  rw [if_neg (by rw [fClass_data hc, fClass_data hv]; exact fun h => h rfl), hc, if_pos rfl]

theorem filterAct_close (hc : c.isClose = true) (hcv : fClass c = fClass v) :
    s.filterAct t o f = .go { fStep [0, 1] [(2, fPass c), (3, fPass c)] with retire := c.kind == Kind.done } := by
  rw [State.filterAct, hs]
  dsimp only
  rw [pairPoison_none (isClose_not_poison hc) (isClose_not_poison (fClass_close hc hcv.symm))]
  dsimp only
  rw [if_neg (fun h => h hcv), isClose_not_data hc, if_neg Bool.false_ne_true]

theorem reduceAct_data (hv : v.isData = true) : s.reduceAct t o f = .go { fStep [1] [] with upd := fun f =>
    { f with sum := some (BitVec.ofNat 32 (f.fold v.word.toNat)), sumAudit := f.sumAudit || v.isAudit } } := by
  rw [State.reduceAct, hs]
  dsimp only
  rw [hv, if_pos rfl]

theorem reduceAct_end {w : Word} (hv : v.kind = Kind.stop) (hl : v.level = f.level) (hc : c.isData = true) (hp : f.fibrePoison = none)
    (hw : f.sum = some w) : s.reduceAct t o f = .go { fStep [0, 1] [(2, fPass c), (3, fData f.sumAudit w.toNat)] with
      upd := Fibre.clearSum } := by
  have hout : f.entryOut c = [(2, fPass c), (3, fData f.sumAudit w.toNat)] := by
    rw [Fibre.entryOut, (isData_kind hc).2.2, if_neg Bool.false_ne_true, hp, hw]
  have hpois : v.isPoison = false := by
    rw [Token.isPoison, hv]
    decide
  rw [State.reduceAct, hs]
  dsimp only
  rw [not_data_of_kind hv (by decide) (by decide), if_neg Bool.false_ne_true, hpois, if_neg Bool.false_ne_true, if_pos hv,
    if_neg (by omega), if_pos hl, hc, Bool.true_or, if_pos rfl, hout]

theorem writeAct_data (hc : c.isData = true) (hv : v.isData = true) (hcl : f.closed = false)
    (hi : f.i < min (f.counts.getD 1 0) (f.counts.getD 2 0)) :
    s.writeAct t o f = .go { fStep [0, 1] [] with
      upd := fun f => { f with i := f.i + 1 },
      stores := [(f.addrs.getD 1 0 + 4 * f.i, c.word.toNat), (f.addrs.getD 2 0 + 4 * f.i, v.word.toNat)] } := by
  rw [State.writeAct, hs]
  dsimp only
  rw [hcl, Bool.false_and, if_neg Bool.false_ne_true, Bool.false_and, if_neg Bool.false_ne_true, pairPoison_data hc hv]
  dsimp only
  rw [if_neg (by rw [fClass_data hc, fClass_data hv]; exact fun h => h rfl), hc, if_pos rfl, if_neg (by omega)]

theorem writeAct_done (hc : c.kind = Kind.done) (hv : v.kind = Kind.done) :
    s.writeAct t o f = .go { fStep [0, 1] [] with
      retire := true,
      stores := if f.level = 1 then [(f.addrs.getD 0 0, 0), (f.addrs.getD 0 0 + 4, f.i)] else [] } := by
  have hcc : c.isClose = true := by rw [Token.isClose, hc]; rfl
  have hvc : v.isClose = true := by rw [Token.isClose, hv]; rfl
  have hcls : fClass c = fClass v := by
    rw [fClass_other (isClose_not_data hcc) (by rw [hc]; decide), fClass_other (isClose_not_data hvc) (by rw [hv]; decide), hc, hv]
  have hn : (f.closed && Kind.done != Kind.done) = false := by rw [bne_self_eq_false, Bool.and_false]
  rw [State.writeAct, hs]
  dsimp only
  rw [hc, hv, hn, if_neg Bool.false_ne_true, if_neg Bool.false_ne_true, pairPoison_none (isClose_not_poison hcc) (isClose_not_poison hvc)]
  dsimp only
  rw [if_neg (fun h => h hcls), isClose_not_data hcc, if_neg Bool.false_ne_true, if_pos rfl]
  rfl

end

/-- A fibre unit after the pop of an input: what it has read of its inputs has moved on, and nothing else. -/
structure HeadTaken (f f' : Fibre) : Prop where
  sum : f'.sum = f.sum
  vfmt : f'.vfmt = f.vfmt
  rop : f'.rop = f.rop
  i : f'.i = f.i

theorem HeadTaken.fold {f' : Fibre} (h : HeadTaken f f') : f'.fold n = f.fold n := by
  rw [Fibre.fold, Fibre.fold, h.sum, h.vfmt, h.rop]

/-- The state in which a unit has taken one stop of the run that a token stands for: with the last of them the token is popped (R290). -/
def State.runTaken (s : State) (t o q : Nat) (g' : Gram) (rest : List Nat) : State :=
  if rest.isEmpty then (s.popTok t o q).modFibre t o fun f => { f with gram := f.gram.set q g' }
  else s.modFibre t o fun f => { f with gram := f.gram.set q { f.gramOf q with run := rest } }

theorem runTaken_fibre {g' : Gram} {rest : List Nat} (hf : s.fibre t o = some f) :
    ∃ f', (s.runTaken t o q g' rest).fibre t o = some f' ∧ HeadTaken f f' := by
  unfold State.runTaken
  split
  · exact ⟨_, modFibre_fibre_of ((fibre_congr popTok_op).trans hf), rfl, rfl, rfl, rfl⟩
  · exact ⟨_, modFibre_fibre_of hf, rfl, rfl, rfl, rfl⟩

theorem fPop_fibre (hf : s.fibre t o = some f) : ∃ f', (s.fPop t o q).fibre t o = some f' ∧ HeadTaken f f' := by
  unfold State.fPop
  rw [hf]
  dsimp only
  split
  · refine ⟨_, modFibre_fibre_of hf, ?_⟩
    split
    · exact ⟨rfl, rfl, rfl, rfl⟩
    · exact ⟨rfl, rfl, rfl, rfl⟩
  · split
    · exact ⟨_, hf, rfl, rfl, rfl, rfl⟩
    · split
      · exact ⟨_, hf, rfl, rfl, rfl, rfl⟩
      · split
        · exact runTaken_fibre hf
        · exact runTaken_fibre hf

/-- A reduce unit that takes a value alone (R285). -/
theorem exec_fbReduce_data (h : FibreReady s t o f .reduce) (hp : f.pushing = none) (hs : s.sides t o f 1 0 = .heads [(c, v)])
    (hv : v.isData = true) : Gives (.fbReduceStep t o) s fun s' => ∃ f', s'.fibre t o = some f' ∧
      f'.sum = some (BitVec.ofNat 32 (f.fold v.word.toNat)) ∧ f'.i = f.i := by
  have he : exec (.fbReduceStep t o) s = execFbReduceStep t o s := rfl
  obtain ⟨k, hk⟩ := h.isOpen
  obtain ⟨f', hf', hg⟩ := fPop_fibre (q := 1) ((fibre_congr resetRates_op).trans (fibreOpen_fibre hk))
  rw [Gives, he, execFbReduceStep, h.go hp (reduceAct_data hs hv)]
  refine ⟨_, rfl, _, countFiring_fibre.trans ((fibre_congr busy_accessed.op).trans ((modFibre_fibre_of
    ((congrArg (State.fibre · t o) (fSink_none (ps := []) fun _ hp => nomatch hp)).trans hf')))), ?_, hg.i⟩
  show some (BitVec.ofNat 32 (f'.fold v.word.toNat)) = _
  rw [hg.fold]

/-! ## Repeat (R282, R302) -/

theorem repeatAct_entry (hx : s.fHead t o f 1 = .tok x) (hxd : x.isData = true) (hin : (s.inChan t o 0).isSome = true)
    (hr : s.fHead t o f 0 = .tok tok) (hrd : tok.isData = true) :
    s.repeatAct t o f = .go (fStep [1] [(2, fData (tok.isAudit || x.isAudit) tok.word.toNat), (3, fPass x)]) := by
  have hneed : f.riNeed x = .ref false := by rw [Fibre.riNeed, hxd, if_pos rfl]
  have hnone : (s.inChan t o 0).isNone = false := by rw [← Option.not_isSome, hin]; rfl
  rw [State.repeatAct, hx]
  dsimp only
  rw [hnone, if_neg Bool.false_ne_true, hneed]
  dsimp only
  rw [hr]
  dsimp only
  rw [if_pos (by rw [hrd]; rfl), if_neg Bool.false_ne_true, if_neg (by rw [(isData_kind hrd).2.2]; exact Bool.false_ne_true)]

/-! ## The statement -/

/-- The clauses on a scan or dense unit that takes the head of `ri`. -/
theorem scanStep_takes {i : Instr} {st : FStep} {y : Token} {p : Option (Nat × Nat)} (h : FibreReady s t o f kind) (hp : f.pushing = none)
    (he : exec i s = .next (s.fibreRun t o [kind] fun s f => s.scanAct t o f)) (ha : s.scanAct t o f = .go st)
    (hst : StepIs st [0] [(1, x), (2, y)] ∧ (st.upd f).pushing = p) :
    ∃ st, exec i s = .next (s.fTake t o st) ∧ StepIs st [0] [(1, x), (2, y)] ∧ (st.upd f).pushing = p :=
  ⟨st, he.trans (congrArg _ (h.go hp ha)), hst⟩

theorem lookupStep_looks {st : FStep} (h : FibreReady s t o f .lookup) (hp : f.pushing = none) (ha : s.lookupAct t o f = .go st)
    (hst : StepIs st [0] [(1, x)]) : ∃ st, exec (.fbLookupStep t o) s = .next (s.fTake t o st) ∧ StepIs st [0] [(1, x)] :=
  ⟨st, (show exec (.fbLookupStep t o) s = .next (s.fibreRun t o [.lookup] fun s f => s.lookupAct t o f) from rfl).trans
    (congrArg _ (h.go hp ha)), hst⟩

/-- Settles O50: each step is the run of the unit, whose act is read off its heads. -/
theorem fibreUnits_settled : Obligations.FibreUnits := by
  unfold Obligations.FibreUnits
  refine ⟨fun s t o k f a l loc tail h hl ht hline hat => exec_fbBufferLoad h hl ht hline hat,
    fun s t o f r j a b c h hp hc hr ha hb hab hb' => ?scan, fun s t o f r j h hp hc hj hr => ?dense, fun s t o f tok hp hh => ?head,
    fun s t o f kind l h hp hs hne hd hb => ?merge, fun s t o f kind l c r h hp hs hc hall _ => ?close,
    fun s t o f c v hp hs hc hv => ⟨fun h _ => ⟨_, congrArg _ (h.go hp (filterAct_data hs hc hv)), rfl, rfl⟩,
      fun h => exec_fbReduce_data h hp hs hv, fun h hcl hi => ⟨_, congrArg _ (h.go hp (writeAct_data hs hc hv hcl hi)), ⟨rfl, rfl⟩, rfl⟩⟩,
    fun s t o f c v hp hs => ⟨fun h hc hcv _ => ⟨_, congrArg _ (h.go hp (filterAct_close hs hc hcv)), ⟨rfl, rfl⟩, rfl⟩,
      fun w h hv hl hc hfp hw _ => ⟨_, congrArg _ (h.go hp (reduceAct_end hs hv hl hc hfp hw)), ⟨rfl, rfl⟩, rfl⟩,
      fun h hc hv => ⟨_, congrArg _ (h.go hp (writeAct_done hs hc hv)), ⟨rfl, rfl⟩, rfl, rfl⟩⟩,
    fun s t o f x r h hp hx hxd hin hr hrd _ => ⟨_, congrArg _ (h.go hp (repeatAct_entry hx hxd hin hr hrd)), rfl, rfl⟩⟩
  case scan =>
    have he : exec (.fbScanStep t o) s = .next (s.fibreRun t o [.scan] fun s f => s.scanAct t o f) := rfl
    have hf : s.scanFibre t o f r = .ok (a, b - a) := scanFibre_ok hr ha hb hab hb'
    refine ⟨fun hj hw => ?_, fun hj => ?_⟩
    · rw [he, h.push hp]
      exact congrArg _ (scanPush_next hc (fibreAt_scan_ok h.fop hf (by omega) hw) fData_not_poison fData_not_poison)
    · rw [he, h.push hp]
      exact congrArg _ (scanPush_close hc (fibreAt_scan_end h.fop hf (by omega)))
  case dense =>
    have he : exec (.fbDenseStep t o) s = .next (s.fibreRun t o [.dense] fun s f => s.scanAct t o f) := rfl
    rw [he, h.push hp]
    exact congrArg _ (scanPush_next hc (fibreAt_dense_ok h.fop hj hr) fData_not_poison fData_not_poison)
  case head =>
    refine ⟨fun hd => ⟨fun h => ⟨fun a b hr ha hb hab hb' => ?_, fun hr _ => ?_⟩, fun h => ⟨fun hn hr _ => ?_, fun hn _ => ?_⟩,
        fun h _ => lookupStep_looks h hp (lookupAct_data hh hd) ⟨rfl, rfl⟩⟩,
      fun hk hl => ⟨fun h _ => scanStep_takes h hp rfl (scanAct_stop hh hk hl) ⟨⟨rfl, rfl⟩, hp⟩,
        fun h _ => scanStep_takes h hp rfl (scanAct_stop hh hk hl) ⟨⟨rfl, rfl⟩, hp⟩,
        fun h _ => lookupStep_looks h hp (lookupAct_other hh (not_data_of_kind hk (by decide) (by decide))) ⟨rfl, rfl⟩⟩,
      fun hk => ⟨fun h _ => scanStep_takes h hp rfl (scanAct_done hh hk) ⟨⟨rfl, rfl⟩, hp⟩,
        fun h _ => scanStep_takes h hp rfl (scanAct_done hh hk) ⟨⟨rfl, rfl⟩, hp⟩,
        fun h _ => lookupStep_looks h hp (lookupAct_other hh (not_data_of_kind hk (by decide) (by decide))) ⟨rfl, rfl⟩⟩,
      fun hk => ⟨fun h _ => scanStep_takes h hp rfl (scanAct_poison hh hk) ⟨⟨rfl, rfl⟩, hp⟩,
        fun h _ => scanStep_takes h hp rfl (scanAct_poison hh hk) ⟨⟨rfl, rfl⟩, hp⟩,
        fun h _ => lookupStep_looks h hp (lookupAct_other hh (not_data_of_kind hk (by decide) (by decide))) ⟨rfl, rfl⟩⟩⟩
    · have hf : s.scanFibre t o { f with pushAudit := tok.isAudit } tok.word.toNat = .ok (a, b - a) := scanFibre_ok hr ha hb hab hb'
      refine ⟨fun c hlt hw _ => ?_, fun heq _ => ?_⟩
      · exact scanStep_takes h hp rfl (scanAct_data hh hd)
          (scanTake_next (fibreAt_scan_ok (f := { f with pushAudit := tok.isAudit }) (j := 0) h.fop hf (by omega) hw))
      · exact scanStep_takes h hp rfl (scanAct_data hh hd)
          (scanTake_empty hp (fibreAt_scan_end (f := { f with pushAudit := tok.isAudit }) h.fop hf (by omega)))
    · exact scanStep_takes h hp rfl (scanAct_data hh hd)
        (scanTake_next (fibreAt_scan_error (f := { f with pushAudit := tok.isAudit }) h.fop (scanFibre_range hr)))
    · exact scanStep_takes h hp rfl (scanAct_data hh hd)
        (scanTake_next (fibreAt_dense_ok (f := { f with pushAudit := tok.isAudit }) (j := 0) h.fop hn hr))
    · exact scanStep_takes h hp rfl (scanAct_data hh hd)
        (scanTake_empty hp (fibreAt_dense_end (f := { f with pushAudit := tok.isAudit }) h.fop (Nat.le_of_eq hn)))
  case merge =>
    refine ⟨fun hk _ => ?_, fun hk _ => ?_⟩
    · subst hk
      exact isect_step hd h hp hs hne hb
    · subst hk
      exact union_step hd h hp hs hne hb
  case close =>
    refine ⟨fun hk => ?_, fun hk => ?_⟩
    · subst hk
      exact closes_step h hp rfl hs hc hall
    · subst hk
      exact closes_step h hp rfl hs hc hall

end Sys2Proof.Machine

namespace Sys2Proof.Machine

/-! PROOFS. An `ldfe.clr` of a granule that the list of tags holds twice (R318). -/

/-- An `ldfe.clr` of a word of region 0. -/
def twiceNode : Mem :=
  { (default : Mem) with mop := .ldfeClr, size := 4, count := 1, ordered := true }

/-- The node's task, whose region 0 is at the beginning of tile 0. -/
def twiceTask : Task := { handTask (.mem twiceNode) with regions := [{ num := 0, tile := 0, base := 0, size := 16, isState := false }] }

/-- The granule of the word. -/
def twiceGranule : Nat := (Loc.tile 0 0).key / 16

/-- The state with that task, in which the granule is listed as full twice. -/
def twiceState : State := { State.reset with tasks := [(0, twiceTask)], fc := 100, tags := [(twiceGranule, 1), (twiceGranule, 1)] }

/-- The tag of the granule after an outcome. -/
def tagAfter : Out → Option Nat
  | .next s => some (s.tag twiceGranule)
  | _ => none

/-- The first entry of the list goes, and the second one stands. -/
theorem twice_full : tagAfter (exec (.loadReadIssue 0 0) twiceState) = some 1 := by decide

/-- The node may issue its access. -/
theorem twice_open : ∃ p, twiceState.memOpen 0 0 = some (twiceTask, p, twiceNode) := ⟨_, rfl⟩

/-- The access has its turn. -/
theorem twice_turn : twiceState.badGranule (granules 0 0 4) = none ∧ twiceState.feAdmits twiceNode 0 (granules 0 0 4) = true ∧
    twiceState.feTurn 0 0 0 (granules 0 0 4) = true := by decide

/-- Refutes O51: a list of tags that holds a granule twice keeps its second entry when an `ldfe.clr` empties the granule. -/
theorem not_memoryNodes : ¬ Obligations.MemoryNodes := by
  unfold Obligations.MemoryNodes
  rintro ⟨hissue, -⟩
  obtain ⟨p, hopen⟩ := twice_open
  obtain ⟨hbad, hadmits, hturn⟩ := twice_turn
  obtain ⟨htile, -⟩ := hissue twiceState 0 0 twiceTask p twiceNode hopen rfl rfl rfl rfl (by decide)
  obtain ⟨hread, -⟩ := htile 0 0 (by decide) rfl (by decide) hbad
  obtain ⟨s', he, m', acc, -, -, -, -, -, hempty, -⟩ := hread (Or.inr ⟨Or.inl rfl, hadmits, hturn⟩)
  have hfull := twice_full
  rw [he, tagAfter, hempty rfl twiceGranule (by decide)] at hfull
  exact absurd hfull (by decide)

end Sys2Proof.Machine

namespace Sys2Proof.Machine

/-! PROOFS. Firings, forwarding, links and slot tables (R21, R22, R27, R35, R125, R126). -/

variable {s u : State} {t o q e x y : Nat} {p : Op} {k : Token} {f : Firing} {c : Cell} {v : Vec}

/-! ## The firing of an actor -/

theorem firingOf_cell (h : s.cell t o = some c) : s.firingOf t o = c.firing := by
  obtain ⟨q, hq, hk⟩ := Option.bind_eq_some_iff.mp (cell_eq_op.symm.trans h)
  obtain ⟨pl, fa, ff, re, po, hd, fi, kind⟩ := q
  rw [State.firingOf, hq]
  cases kind with
  | cell d =>
    cases hk
    rfl
  | _ => cases hk

theorem firingOf_vec (h : s.vec t o = some v) : s.firingOf t o = v.firing := by
  obtain ⟨q, hq, hk⟩ := Option.bind_eq_some_iff.mp (vec_eq_op.symm.trans h)
  obtain ⟨pl, fa, ff, re, po, hd, fi, kind⟩ := q
  rw [State.firingOf, hq]
  cases kind with
  | vec d =>
    cases hk
    rfl
  | _ => cases hk

theorem cell_of_op (h : s.op t o = some p) (hk : p.kind = .cell c) : s.cell t o = some c := by
  rw [cell_eq_op, h, Option.bind_some, Op.cell?, hk]

theorem vec_of_op (h : s.op t o = some p) (hk : p.kind = .vec v) : s.vec t o = some v := by
  rw [vec_eq_op, h, Option.bind_some, Op.vec?, hk]

theorem beginCell_firing {pc : Nat} {hdr : Half} {chosen : List Nat} {wrap : Bool} (h : s.cell t o = some c) :
    (s.beginCell t o pc hdr chosen wrap).firingOf t o = some (newFiring pc hdr chosen wrap s.fc) := by
  have hc : ((s.resetRates t o).modCell t o fun c => { c with firing := some (newFiring pc hdr chosen wrap s.fc) }).cell t o =
      some { c with firing := some (newFiring pc hdr chosen wrap s.fc) } := by
    rw [modCell_cell_self, cell_congr resetRates_op, h]
    rfl
  exact firingOf_cell ((cell_congr busy_accessed.op).trans hc)

/-! ## Beginnings (R125, R136, R265) -/

section
variable (hl : s.live t = true) (hf : s.frozen t o = false) (ho : s.op t o = some p) (hu : s.unitTicks t o = true)
include hl hf ho hu

theorem exec_cellBegin (hk : p.kind = .cell c) (hn : c.firing = none) (hi : c.idleFrom ≤ s.fc) :
    exec (.actorFiringBegin t o) s = .next (s.cellBegin t o c) := by
  have he : exec (.actorFiringBegin t o) s = execActorFiringBegin t o s := rfl
  have hc : (c.firing.isSome || !s.unitTicks t o || decide (s.fc < c.idleFrom)) = false := by
    rw [hn, hu, decide_eq_false (by omega)]
    rfl
  rw [he, execActorFiringBegin, hl, hf, if_neg (by decide), ho]
  dsimp only
  rw [hk]
  dsimp only
  rw [hc, if_neg Bool.false_ne_true]

theorem exec_vecBegin (hk : p.kind = .vec v) (hn : v.firing = none) (hi : v.idleFrom ≤ s.fc) :
    exec (.actorFiringBegin t o) s = .next (s.vecBegin t o v) := by
  have he : exec (.actorFiringBegin t o) s = execActorFiringBegin t o s := rfl
  have hc : (v.firing.isSome || !s.unitTicks t o || decide (s.fc < v.idleFrom)) = false := by
    rw [hn, hu, decide_eq_false (by omega)]
    rfl
  rw [he, execActorFiringBegin, hl, hf, if_neg (by decide), ho]
  dsimp only
  rw [hk]
  dsimp only
  rw [hc, if_neg Bool.false_ne_true]

end

theorem cellBegin_wrap (h : s.wrapDue t c = some e) : s.cellBegin t o c = s.beginCell t o e 0 [] true := by
  rw [State.cellBegin, h]

theorem cellBegin_guard (h : s.wrapDue t c = none) (hr : c.retired = false) (ha : c.armKind = none) (hh : s.headTok t o c.guard = some k)
    (he : entryOf c.entries (entryIndex k) = some e) : s.cellBegin t o c = s.beginCell t o e k.hdr [c.guard] false := by
  rw [State.cellBegin, h]
  dsimp only
  rw [ha]
  dsimp only
  rw [hh]
  dsimp only
  rw [hr, if_neg Bool.false_ne_true, he]

/-- The entry of a merge: that of the token's kind, or else entry 0 (R136). -/
theorem cellBegin_arm {kind : ArmKind} {ports : List Nat} (h : s.wrapDue t c = none) (hr : c.retired = false) (ha : c.armKind = some kind)
    (hk : kind = .amerge ∨ ∃ a, kind = .merge a) (hp : s.pickArm t o c kind = .take ports k)
    (he : entryOf c.entries (entryIndex k) = some e ∨ entryOf c.entries (entryIndex k) = none ∧ entryOf c.entries 0 = some e) :
    s.cellBegin t o c = s.beginCell t o e k.hdr ports false := by
  have hentry : ((entryOf c.entries (entryIndex k)).orElse fun _ => entryOf c.entries 0) = some e := by
    rcases he with he | ⟨he, h0⟩
    · rw [he]
      rfl
    · rw [he, h0]
      rfl
  have harmed : State.cellBegin.armed s t o c kind = s.beginCell t o e k.hdr ports false := by
    rw [State.cellBegin.armed, hr, if_neg Bool.false_ne_true, hp]
    dsimp only
    rw [hentry]
  rw [← harmed, State.cellBegin, h]
  dsimp only
  rw [ha]
  rcases hk with rfl | ⟨a, rfl⟩
  · rfl
  · rfl

theorem vecBegin_firing (hv : s.vec t o = some v) (hr : v.retired = false) (hh : s.headTok t o v.guard = some k)
    (he : entryOf v.entries (entryIndex k) = some e) :
    (s.vecBegin t o v).firingOf t o = some (newFiring e k.hdr [v.guard] false s.fc) := by
  have hm : ((s.resetRates t o).modVec t o fun v => { v with firing := some (newFiring e k.hdr [v.guard] false s.fc) }).vec t o =
      some { v with firing := some (newFiring e k.hdr [v.guard] false s.fc) } := by
    rw [modVec_vec_self, vec_congr resetRates_op, hv]
    rfl
  rw [State.vecBegin, hh]
  dsimp only
  rw [hr, if_neg Bool.false_ne_true, he]
  exact firingOf_vec ((vec_congr busy_accessed.op).trans hm)

/-! ## Forwarding (R35, R126) -/

section
variable {g : Nat} {es : List Byte} {want : List Byte → Token → Bool} {more : List Nat}

/-- A token at the head of an idle actor's guard queue is forwarded. -/
theorem forward_head (hl : s.live t = true) (hf : s.frozen t o = false) (hn : s.firingOf t o = none) (hi : s.idleActor t o = some (g, es))
    (hh : s.headTok t o g = some k) (hw : want es k = true) (hs : s.serves t o = true) (hp : s.forwardPorts t o = q :: more)
    (hc : s.canPush t o q 1 = true) : s.forward t o want = (s.popTok t o g).forwardPush t o k (q :: more) := by
  rw [State.forward, hn]
  dsimp only
  rw [hl, hf, if_neg (by decide), hi]
  dsimp only
  rw [hh]
  dsimp only
  rw [hp, hw, hs, Bool.or_true, Bool.true_and, Bool.true_and, State.forwardReady, if_pos hc]
  rfl

/-- With no output bound it is popped, and a poison is held (R35). -/
theorem forward_head_unbound (hl : s.live t = true) (hf : s.frozen t o = false) (hn : s.firingOf t o = none)
    (hi : s.idleActor t o = some (g, es)) (hh : s.headTok t o g = some k) (hw : want es k = true) (hp : s.forwardPorts t o = []) :
    s.forward t o want = (if k.isPoison then (s.popTok t o g).sinkPoison t o k.word else s.popTok t o g).forwardEnd t o k := by
  rw [State.forward, hn]
  dsimp only
  rw [hl, hf, if_neg (by decide), hi]
  dsimp only
  rw [hh]
  dsimp only
  rw [hp, hw]
  rfl

/-- The next push of a token that is being forwarded. -/
theorem forward_next (hs : s.serves t o = true) (hn : s.firingOf t o = some f) (hfwd : f.fwd = some (k, q :: more))
    (hg : s.goesOn t = true) (hf : s.frozen t o = false) (hsv : f.saved = false) (ht : f.nextAt ≤ s.fc) (hc : s.canPush t o q 1 = true)
    (hw : want [] k = true) : s.forward t o want = s.forwardPush t o k (q :: more) := by
  have hcond : (s.serves t o && s.goesOn t && !s.frozen t o && !f.saved && decide (f.nextAt ≤ s.fc) && want [] k &&
      s.forwardReady t o (q :: more)) = true := by
    rw [hs, hg, hf, hsv, decide_eq_true ht, hw, State.forwardReady, hc]
    rfl
  rw [State.forward, hn]
  dsimp only
  rw [hfwd]
  dsimp only
  rw [if_pos hcond]

theorem exec_defaultTokenForward : exec (.defaultTokenForward t o) s =
    .next (s.forward t o fun es k => k.isClose && (entryOf es (entryIndex k)).isNone) := rfl

theorem exec_poisonForward : exec (.poisonForward t o) s = .next (s.forward t o fun es k => k.isPoison && (entryOf es 9).isNone) := rfl

theorem entryOf_nil {i : Nat} : entryOf [] i = none := rfl

end

/-! ## Links (R27) -/

theorem modChan_chan_self {i : Nat} {g : Chan → Chan} : (s.modChan t i g).chan t i = (s.chan t i).map g := by
  rw [State.chan, State.modChan, modTask_task_self, State.chan]
  rcases s.task t with _ | z
  · rfl
  · exact getElem?_lmod_self

theorem modChan_chan_other {i i' t' : Nat} {g : Chan → Chan} (h : t' ≠ t ∨ i' ≠ i) : (s.modChan t i g).chan t' i' = s.chan t' i' := by
  rw [State.chan, State.modChan, State.chan]
  by_cases ht : t' = t
  · subst ht
    rw [modTask_task_self]
    rcases s.task t' with _ | z
    · rfl
    · exact getElem?_lmod_other (by omega)
  · rw [modTask_task_other ht]

theorem exec_linkTransfer {dir : Dir} {net : Net} {z : Nat × Nat × Nat × Nat} (hn : net ≠ .control) (hh : s.dev.halt = false)
    (hl : ∀ last, aget (tileKey x y, dir, net) s.links = some last → last.2 ≠ s.fc) (ht : s.ticksBy (s.linkPeriod x y dir) = true)
    (hz : pickLane (((aget (tileKey x y, dir, net) s.links).map (·.1)).getD 7) (s.linkLanes x y dir net) = some z) :
    exec (.linkTransfer x y dir net) s =
      .next { s.moveLane (s.linkPeriod x y dir) z with links := aset (tileKey x y, dir, net) (z.2.2.2, s.fc) s.links } := by
  have he : exec (.linkTransfer x y dir net) s = execLinkTransfer x y dir net s := rfl
  rw [he, execLinkTransfer]
  dsimp only
  rw [if_neg (by
    rw [hh, ht]
    rcases hlast : aget (tileKey x y, dir, net) s.links with _ | ⟨a, b⟩
    · exact Bool.false_ne_true
    · dsimp only
      rw [decide_eq_false (hl _ hlast)]
      exact Bool.false_ne_true)]
  cases net with
  | control => exact absurd rfl hn
  | narrow =>
    dsimp only
    rw [hz]
  | wide =>
    dsimp only
    rw [hz]

/-! ## The statement -/

/-- Settles O52: each step is run through its guards, and the unit it changes is read after it. -/
theorem firingsAndLinks : Obligations.FiringsAndLinks := by
  unfold Obligations.FiringsAndLinks
  refine ⟨fun s t o p k e hl hf ho hu => ⟨fun c hk hn hi => ?cell, fun v hk hn hi hr hh he => ?vec⟩,
    fun s t o g es k hl hf hn hi hh => ⟨fun q more hs hp hc => ⟨fun hk he => ?_, fun hk he => ?_⟩, fun hp => ⟨fun hk he => ?_, fun hk he => ?_⟩⟩,
    fun s t o f k q more hs hn hfwd hg hf hsv ht hc => ⟨fun hk => ?_, fun hk => ?_⟩, fun s x y dir net z hn hh hl ht hz => ?link,
    fun s x y => ⟨fun w hw => ?apply, fun ht htick hstep => ?advance⟩⟩
  case cell =>
    have hcell : s.cell t o = some c := cell_of_op ho hk
    have he := exec_cellBegin hl hf ho hu hk hn hi
    refine ⟨fun hw => ⟨_, he, ?_⟩, fun hw hr => ⟨fun ha hh hent => ⟨_, he, ?_⟩, fun kind ports ha harm hp hent => ⟨_, he, ?_⟩⟩⟩
    · rw [cellBegin_wrap hw]
      exact beginCell_firing hcell
    · rw [cellBegin_guard hw hr ha hh hent]
      exact beginCell_firing hcell
    · rw [cellBegin_arm hw hr ha harm hp hent]
      exact beginCell_firing hcell
  case vec => exact ⟨_, exec_vecBegin hl hf ho hu hk hn hi, vecBegin_firing (vec_of_op ho hk) hr hh he⟩
  · rw [exec_defaultTokenForward, forward_head hl hf hn hi hh (by rw [hk, he]; rfl) hs hp hc]
  · rw [exec_poisonForward, forward_head hl hf hn hi hh (by rw [hk, he]; rfl) hs hp hc]
  · rw [exec_defaultTokenForward, forward_head_unbound hl hf hn hi hh (by rw [hk, he]; rfl) hp, isClose_not_poison hk, if_neg Bool.false_ne_true]
  · rw [exec_poisonForward, forward_head_unbound hl hf hn hi hh (by rw [hk, he]; rfl) hp, hk, if_pos rfl]
  · rw [exec_defaultTokenForward, forward_next hs hn hfwd hg hf hsv ht hc (by rw [hk, entryOf_nil]; rfl)]
  · rw [exec_poisonForward, forward_next hs hn hfwd hg hf hsv ht hc (by rw [hk, entryOf_nil]; rfl)]
  case link => exact ⟨_, exec_linkTransfer hn hh hl ht hz, modChan_chan_self, fun t c h => modChan_chan_other h, aget_aset_self⟩
  case apply =>
    have he : exec (.slotTableApply x y) s = .next (if ((s.tile (tileKey x y)).slotsDue s.fc).isSome then
      s.modTile (tileKey x y) fun t => t.inForce s.fc else s) := rfl
    have hin : (s.tile (tileKey x y)).inForce s.fc = (s.tile (tileKey x y)).withSlots w := by rw [Tile.inForce, hw]
    refine ⟨_, he, ?_⟩
    rw [hw, if_pos (show (some w).isSome = true from rfl)]
    dsimp only
    rw [modTile_tile_self, hin]
    exact ⟨rfl, rfl⟩
  case advance =>
    have he : exec (.slotPointerAdvance x y) s = .next (if tileOk x y && s.ticks (tileKey x y) then
      s.modTile (tileKey x y) fun t => t.step s.fc else s) := rfl
    refine ⟨_, he, ?_⟩
    rw [ht, htick, if_pos (show (true && true) = true from rfl)]
    dsimp only
    rw [modTile_tile_self, Tile.step, hstep, if_neg Bool.false_ne_true]
    exact ⟨rfl, rfl⟩

end Sys2Proof.Machine

namespace Sys2Proof.Machine

/-! PROOFS. Messages and replies of engines (R107, R146, R224, R225, R414). -/

variable {s u v : State} {t o t' o' q n : Nat} {e : EngineRef} {b : Inbox} {r : Reply} {ch : Chan} {tok : Token} {g : Inbox → Inbox}

/-! ## Inboxes -/

theorem modInbox_inbox_self (h : s.inbox e = some b) : (s.modInbox e g).inbox e = some (g b) := by
  cases e with
  | op t o =>
    obtain ⟨p, hp, hb⟩ := Option.bind_eq_some_iff.mp h
    show (((s.modOp t o fun p => { p with kind := p.kind.modInbox g }).op t o).bind fun p => p.kind.inbox?) = _
    rw [modOp_op_self, hp]
    exact inbox_modInbox hb
  | bank x c =>
    obtain ⟨k, hk, hb⟩ := Option.bind_eq_some_iff.mp h
    show ((aget x (amod x (fun k => { k with queues := amod c g k.queues }) s.banks)).bind fun k => aget c k.queues) = _
    rw [aget_amod_self, hk]
    show aget c (amod c g k.queues) = _
    rw [aget_amod_self, hb]
    rfl

theorem modInbox_timeline : (s.modInbox e g).timeline = s.timeline := by
  cases e with
  | op t o => rfl
  | bank x c => rfl

theorem modInbox_poisonedTl : (s.modInbox e g).poisonedTl = s.poisonedTl := by
  cases e with
  | op t o => rfl
  | bank x c => rfl

/-! ## Tasks but for their write-combining buffers -/

/-- A task without its write-combining buffers. -/
def Task.dry (k : Task) : Task := { k with wcb := [] }

/-- From `s` to `u` buffers have been drained: nothing else of a task changes. -/
structure Dried (s u : State) : Prop where
  dry : ∀ t, (u.task t).map Task.dry = (s.task t).map Task.dry
  rest : ∃ tasks mem power nextId spans misses ctxs, u = { s with tasks := tasks, mem := mem, power := power, nextId := nextId,
                                                                   spans := spans, misses := misses, ctxs := ctxs }
  lever : u.power.lever = s.power.lever

theorem Dried.refl (s : State) : Dried s s := ⟨fun _ => rfl, ⟨_, _, _, _, _, _, _, rfl⟩, rfl⟩

theorem Dried.trans (h : Dried s u) (h' : Dried u v) : Dried s v := by
  refine ⟨fun t => (h'.dry t).trans (h.dry t), ?_, h'.lever.trans h.lever⟩
  obtain ⟨_, _, _, _, _, _, _, rfl⟩ := h.rest
  obtain ⟨_, _, _, _, _, _, _, rfl⟩ := h'.rest
  exact ⟨_, _, _, _, _, _, _, rfl⟩

theorem Accessed.dried (h : Accessed s u) : Dried s u := by
  refine ⟨fun t => by rw [State.task, State.task, h.tasks], ?_, h.lever⟩
  obtain ⟨_, _, _, _, _, _, rfl⟩ := h.rest
  exact ⟨_, _, _, _, _, _, _, rfl⟩

theorem modTask_dried {f : Task → Task} (hf : ∀ k, (f k).dry = k.dry) : Dried s (s.modTask t f) := by
  refine ⟨fun t' => ?_, ⟨_, _, _, _, _, _, _, rfl⟩, rfl⟩
  by_cases ht : t' = t
  · subst ht
    rw [modTask_task_self, Option.map_map]
    exact congrArg (fun f => (s.task t').map f) (funext hf)
  · rw [modTask_task_other ht]

theorem addSpan_accessed {x : SpanOut} : Accessed s (s.addSpan x) := ⟨⟨_, _, _, _, _, _, rfl⟩, rfl⟩

theorem drainLine_accessed {w : WLine} : Accessed s (s.drainLine t w) := by
  unfold State.drainLine
  dsimp only
  split
  · exact (setMem_accessed.trans touchKey_accessed).trans addSpan_accessed
  · exact setMem_accessed.trans touchKey_accessed

theorem drain_dried {p : WLine → Bool} : Dried s (s.drain t p) := by
  unfold State.drain
  split
  · exact Dried.refl s
  · next k _ =>
    have hfold (l : List WLine) (u : State) : Dried u (l.foldl (fun s w => s.drainLine t w) u) := by
      induction l generalizing u with
      | nil => exact Dried.refl u
      | cons a l ih => exact drainLine_accessed.dried.trans (ih _)
    exact (modTask_dried (f := fun k => { k with wcb := k.wcb.filter fun w => !p w }) fun _ => rfl).trans (hfold _ _)

theorem engineRelease_dried {at_ : Nat} (h : s.engineRelease e at_ = some u) : Dried s u := by
  unfold State.engineRelease at h
  split at h
  · cases h
    exact Dried.refl s
  · split at h
    · cases h
      exact Dried.refl s
    · split at h
      · cases h
        exact drain_dried
      · cases h

/-- What is read of a task without its buffers is as it was. -/
theorem Dried.bind {α : Type} {f : Task → Option α} (h : Dried s u) (hf : ∀ k, f k.dry = f k) :
    (u.task t).bind f = (s.task t).bind f := by
  have hb (x : State) : (x.task t).bind f = ((x.task t).map Task.dry).bind f := by
    rcases x.task t with _ | k
    · rfl
    · exact (hf k).symm
  rw [hb u, hb s, h.dry t]

theorem Dried.op (h : Dried s u) : u.op t o = s.op t o := h.bind fun _ => rfl

theorem Dried.inChan (h : Dried s u) : u.inChan t o q = s.inChan t o q := h.bind fun _ => rfl

theorem Dried.fc (h : Dried s u) : u.fc = s.fc := by
  obtain ⟨_, _, _, _, _, _, _, rfl⟩ := h.rest
  rfl

theorem Dried.tiles (h : Dried s u) : u.tiles = s.tiles := by
  obtain ⟨_, _, _, _, _, _, _, rfl⟩ := h.rest
  rfl

theorem Dried.banks (h : Dried s u) : u.banks = s.banks := by
  obtain ⟨_, _, _, _, _, _, _, rfl⟩ := h.rest
  rfl

theorem Dried.timeline (h : Dried s u) : u.timeline = s.timeline := by
  obtain ⟨_, _, _, _, _, _, _, rfl⟩ := h.rest
  rfl

theorem Dried.poisonedTl (h : Dried s u) : u.poisonedTl = s.poisonedTl := by
  obtain ⟨_, _, _, _, _, _, _, rfl⟩ := h.rest
  rfl

theorem Dried.inbox (h : Dried s u) : u.inbox e = s.inbox e := by
  cases e with
  | op t o => exact congrArg (Option.bind · fun p => p.kind.inbox?) h.op
  | bank x c => exact congrArg (fun l => (aget x l).bind fun k => aget c k.queues) h.banks

/-- The place that a reply names is as it was before the release. -/
theorem engineRelease_replyTo {at_ : Nat} {w : Dbl} (h : s.engineRelease e at_ = some u) : u.replyTo e w = s.replyTo e w := by
  cases e with
  | op t o =>
    have hd := engineRelease_dried h
    unfold State.replyTo
    dsimp only
    split
    · rfl
    · exact hd.bind fun _ => rfl
  | bank x c =>
    cases h
    rfl

/-- The fc in which the clock of an operator's block has gone on depends on the power levers, the tiles and the operator's place. -/
theorem after_of (hfc : u.fc = s.fc) (htiles : u.tiles = s.tiles) (hlever : u.power.lever = s.power.lever)
    (hplace : (u.op t o).map (·.place) = (s.op t o).map (·.place)) : u.after t o n = s.after t o n := by
  have htile (x : State) : x.tileOf t o = (((x.op t o).map (·.place)).map fun a => tileKey a.x a.y).getD 0 := by
    rw [State.tileOf, Option.map_map]
    rfl
  have hof : u.tileOf t o = s.tileOf t o := by rw [htile, htile, hplace]
  have hper (m : Nat) : u.power.period m = s.power.period m := by rw [Power.period, Power.period, hlever]
  have hcls (m : Nat) : u.blockClass m = s.blockClass m := by simp only [State.blockClass, State.tile, htiles, hfc]
  have hperiod : u.period (u.tileOf t o) = s.period (s.tileOf t o) := by
    rw [hof, State.period, State.period, hlever, hcls, hper]
  have hseq : u.power.seqPeriod = s.power.seqPeriod := hper 0
  simp only [State.after, State.later, State.laterBy, hperiod, hseq, hfc]

theorem Dried.after (h : Dried s u) : u.after t o n = s.after t o n :=
  after_of h.fc h.tiles h.lever (congrArg (Option.map (·.place)) h.op)

/-! ## Reply queues -/

theorem lfind_lmod {α : Type} {p : α → Bool} {f : α → α} (hf : ∀ x, p (f x) = p x) (i : Nat) (l : List α) :
    lfind p (lmod i f l) = lfind p l := by
  induction l generalizing i with
  | nil =>
    cases i with
    | zero => rfl
    | succ i => rfl
  | cons x l ih =>
    cases i with
    | zero => rw [lmod, lfind, lfind, hf]
    | succ i => rw [lmod, lfind, lfind, ih]

theorem enter_ends {c : Chan} {x : QTok} : (c.enter x).consOp = c.consOp ∧ (c.enter x).consPort = c.consPort := by
  unfold Chan.enter
  split
  · exact ⟨rfl, rfl⟩
  · exact ⟨rfl, rfl⟩

theorem push_ends {c : Chan} {fc due : Nat} : (c.push fc due tok).consOp = c.consOp ∧ (c.push fc due tok).consPort = c.consPort := by
  unfold Chan.push
  split
  · exact ⟨rfl, rfl⟩
  · exact enter_ends

/-- A channel at an input port after a change that leaves its ends. -/
theorem modChan_inChan {c : Nat} {k : Task} {f : Chan → Chan} (hf : ∀ x, (f x).consOp = x.consOp ∧ (f x).consPort = x.consPort)
    (hk : s.task t = some k) (hc : k.chanIn o q = some c) : (s.modChan t c f).inChan t o q = (s.inChan t o q).map f := by
  have hin : ({ k with chans := lmod c f k.chans } : Task).chanIn o q = some c := by
    rw [← hc]
    exact lfind_lmod (fun x => by rw [(hf x).1, (hf x).2]) _ _
  rw [State.inChan, State.modChan, modTask_task_self, hk, State.inChan, hk, Option.map_some, Option.bind_some, Option.bind_some, hin, hc]
  exact getElem?_lmod_self

theorem inChan_congr (h : (u.task t).map (·.chans) = (s.task t).map (·.chans)) : u.inChan t o q = s.inChan t o q := by
  have hb (x : State) : x.inChan t o q = ((x.task t).map (·.chans)).bind fun cs =>
      (lfind (fun c => c.consOp == o && c.consPort == q) cs).bind fun c => cs[c]? := by
    rw [State.inChan]
    rcases x.task t with _ | k
    · rfl
    · rfl
  rw [hb u, hb s, h]

theorem modTask_chans {f : Task → Task} (hf : ∀ k, (f k).chans = k.chans) :
    ((s.modTask t f).task t').map (·.chans) = (s.task t').map (·.chans) := by
  by_cases ht : t' = t
  · subst ht
    rw [modTask_task_self, Option.map_map]
    exact congrArg (fun f => (s.task t').map f) (funext hf)
  · rw [modTask_task_other ht]

theorem modInbox_inChan : (s.modInbox e g).inChan t o q = s.inChan t o q := by
  cases e with
  | op t o => exact inChan_congr (modTask_chans fun _ => rfl)
  | bank x c => rfl

/-- A reply queue that is there and has room takes the token. -/
theorem pushReply_some (h : s.inChan t o q = some ch) (hf : ch.free = true) : ∃ u, s.pushReply t o q tok = some u ∧
    u.inChan t o q = some (ch.push s.fc (s.after t o 1) tok) ∧ (∀ e, u.inbox e = s.inbox e) := by
  have hin := h
  obtain ⟨k, hk, h⟩ := Option.bind_eq_some_iff.mp h
  obtain ⟨c, hc, hch⟩ := Option.bind_eq_some_iff.mp h
  have hopen : s.openReply t o q = s := by
    rw [State.openReply, hk]
    dsimp only
    rw [hc]
    rfl
  have hchan : s.chan t c = some ch := by
    rw [State.chan, hk]
    exact hch
  refine ⟨((s.modChan t c fun ch => ch.push s.fc (s.after t o 1) tok).balance t 1).busy (s.lctxOf t), ?_, ?_, fun e => ?_⟩
  · unfold State.pushReply
    dsimp only
    rw [hopen, hk, Option.bind_some, hc]
    dsimp only
    rw [hchan]
    dsimp only
    rw [if_pos hf]
  · have hpush := modChan_inChan (f := fun x => x.push s.fc (s.after t o 1) tok) (fun x => push_ends) hk hc
    rw [hin] at hpush
    exact (inChan_congr (modTask_chans (f := fun k => { k with balance := k.balance + 1 }) fun _ => rfl)).trans hpush
  · cases e with
    | op t' o' => exact inbox_congr (busy_accessed.op.trans (balance_op.trans modChan_op))
    | bank x c => rfl

/-! ## The statement -/

theorem exec_enginePacketArrive {m : Msg} (hm : s.msgs[n]? = some m) (hdue : m.due ≤ s.fc) (hl : s.laneFirst n m = true)
    (he : s.msgEngine m = some (.op t o)) (hb : s.inbox (.op t o) = some b) (hlen : b.packets.length < 8)
    (hf : ({ s with msgs := s.msgs.eraseIdx n }.bumpId.busy (s.lctxOf t)).packetFault (.op t o) m.packet m.seqSender = none) :
    exec (.enginePacketArrive n) s = .next ((({ s with msgs := s.msgs.eraseIdx n } : State).bumpId.busy (s.lctxOf t)).modInbox (.op t o) fun b =>
      { b with packets := b.packets ++ [{ image := m.packet, core := m.core?, seqSender := m.seqSender, no := s.nextId }] }) := by
  have hx : exec (.enginePacketArrive n) s = execEnginePacketArrive n s := rfl
  have hc : (decide (m.due > s.fc) || !s.laneFirst n m) = false := by
    rw [hl, decide_eq_false (by omega)]
    rfl
  rw [hx, execEnginePacketArrive, hm]
  dsimp only
  rw [hc, if_neg Bool.false_ne_true, he]
  dsimp only
  rw [hb]
  dsimp only
  rw [if_neg (by omega), show s.engineCtx (.op t o) = s.lctxOf t from rfl, hf]

/-- The reply at the head goes out. -/
theorem exec_engineReply {rest : List Reply} (hb : s.inbox e = some b) (hr : b.replies = r :: rest) (hs : r.status.isSome = true)
    (hh : b.held = none) (hu : (if r.rply then s.engineRelease e r.doneAt else some s) = some u) :
    exec (.engineReply e) s = .next ((u.sendReply e r).busy (u.engineCtx e)) := by
  have hx : exec (.engineReply e) s = execEngineReply e s := rfl
  have hc : (r.status.isNone || b.held.isSome) = false := by
    rw [hh, Option.isSome_none, Bool.or_false, ← Option.not_isSome, hs]
    rfl
  rw [hx, execEngineReply, hb]
  dsimp only
  rw [hr]
  dsimp only
  rw [hc, if_neg Bool.false_ne_true, hu]

/-- An inbox whose first reply has gone out. -/
def State.replyLeft (s : State) (e : EngineRef) : State := s.modInbox e fun b => { b with replies := b.replies.drop 1 }

theorem replyLeft_inbox {rest : List Reply} (hb : s.inbox e = some b) (hr : b.replies = r :: rest) (hh : b.held = none) :
    ∃ b', (s.replyLeft e).inbox e = some b' ∧ b'.replies = rest ∧ b'.held = none :=
  ⟨_, modInbox_inbox_self hb, by rw [hr]; rfl, hh⟩

theorem busy_inbox {c : Nat} : (s.busy c).inbox e = s.inbox e := by
  cases e with
  | op t o => rfl
  | bank x c => rfl

theorem tlAdd_inbox {w : Dbl} : (s.tlAdd n w).inbox e = s.inbox e := by
  unfold State.tlAdd
  split
  · rfl
  · cases e with
    | op t o => rfl
    | bank x c => rfl

theorem exec_replyTokenDeliver {oq : Nat} (hb : s.inbox e = some b) (hh : b.held = some (t, oq, tok))
    (hp : s.pushReply t (oq / 16) (oq % 16) tok = some u) :
    exec (.replyTokenDeliver e) s = .next (u.modInbox e fun b => { b with held := none }) := by
  have hx : exec (.replyTokenDeliver e) s = execReplyTokenDeliver e s := rfl
  rw [hx, execReplyTokenDeliver, hb, Option.bind_some, hh]
  dsimp only
  rw [hp]

/-- Settles O53: what reaches an inbox, and where each reply of it goes. -/
theorem engineMessages : Obligations.EngineMessages := by
  unfold Obligations.EngineMessages
  refine ⟨fun s n m t o b hm hdue hl he hb hlen hf => ⟨_, exec_enginePacketArrive hm hdue hl he hb hlen hf, rfl, _, modInbox_inbox_self hb, rfl, rfl⟩,
    fun s e b r rest hb hr hs hh hv hp hrel => ⟨fun hn => ?drop, fun hy hbit hbad => ?count, fun t o q ch hy hbit hto hin hfree => ?push⟩,
    fun s e b t oq tok ch hb hh hin hfree => ?held⟩
  case drop =>
    have hsend : s.sendReply e r = s.replyLeft e := by
      rw [State.sendReply, hn, Bool.not_false, if_pos rfl]
      rfl
    obtain ⟨b', h1, h2⟩ := replyLeft_inbox hb hr hh
    refine ⟨_, exec_engineReply hb hr hs hh (by rw [hn]; rfl), ⟨b', ?_, h2⟩, ?_⟩
    · rw [busy_inbox, hsend, h1]
    · rw [hsend]
      exact modInbox_timeline
  case count =>
    obtain ⟨u, hu⟩ := Option.isSome_iff_exists.mp (hrel hy)
    have hd := engineRelease_dried hu
    have hsend : u.sendReply e r = (u.replyLeft e).tlAdd (r.word7.extractLsb' 51 12).toNat ((r.word7.extractLsb' 0 32).zeroExtend 64) := by
      rw [State.sendReply, hy, Bool.not_true, if_neg Bool.false_ne_true, hbit, if_pos rfl, hp, Option.isSome_none, if_neg Bool.false_ne_true]
      rfl
    have hbad' : (u.replyLeft e).tlBad (r.word7.extractLsb' 51 12).toNat = false := by
      rw [State.tlBad, State.replyLeft, modInbox_poisonedTl, hd.poisonedTl]
      exact hbad
    obtain ⟨b', h1, h2⟩ := replyLeft_inbox (hd.inbox.trans hb) hr hh
    refine ⟨_, exec_engineReply hb hr hs hh (by rw [hy, if_pos rfl, hu]), ⟨b', ?_, h2⟩, ?_⟩
    · rw [busy_inbox, hsend, tlAdd_inbox, h1]
    · rw [hsend]
      exact (tlAdd_frame (modInbox_timeline.trans hd.timeline) hbad').1
  case push =>
    obtain ⟨u, hu⟩ := Option.isSome_iff_exists.mp (hrel hy)
    have hd := engineRelease_dried hu
    have hin' : (u.replyLeft e).inChan t o q = some ch := modInbox_inChan.trans (hd.inChan.trans hin)
    obtain ⟨v, hpush, hchan, hinbox⟩ := pushReply_some (tok := narrowTok 0 (statusWord r)) hin' hfree
    have hsend : u.sendReply e r = v := by
      rw [State.sendReply, hy, Bool.not_true, if_neg Bool.false_ne_true, hbit, if_neg Bool.false_ne_true, engineRelease_replyTo hu, hto]
      dsimp only
      rw [hp, hv]
      dsimp only
      rw [Option.getD_none]
      exact congrArg (fun z : Option State => match z with
        | some s' => s'
        | none => (u.replyLeft e).modInbox e fun b => { b with held := some (t, 16 * o + q, narrowTok 0 (statusWord r)) }) hpush
    have hafter : (u.replyLeft e).after t o 1 = s.after t o 1 := by
      refine Eq.trans ?_ hd.after
      cases e with
      | op t' o' => exact after_of rfl rfl rfl (modOp_place fun _ => rfl)
      | bank x c => rfl
    have hfc : (u.replyLeft e).fc = s.fc := by
      refine Eq.trans ?_ hd.fc
      cases e with
      | op t' o' => rfl
      | bank x c => rfl
    obtain ⟨b', h1, h2⟩ := replyLeft_inbox (hd.inbox.trans hb) hr hh
    refine ⟨_, exec_engineReply hb hr hs hh (by rw [hy, if_pos rfl, hu]), ⟨b', ?_, h2⟩, ?_⟩
    · rw [busy_inbox, hsend, hinbox, h1]
    · rw [hsend]
      rw [hafter, hfc] at hchan
      exact hchan
  case held =>
    obtain ⟨v, hpush, hchan, hinbox⟩ := pushReply_some (tok := tok) hin hfree
    exact ⟨_, exec_replyTokenDeliver hb hh hpush, ⟨_, modInbox_inbox_self ((hinbox e).trans hb), rfl⟩, modInbox_inChan.trans hchan⟩

end Sys2Proof.Machine

namespace Sys2Proof.Machine

/-! PROOFS. Requests (R263, R364, R397, R398). -/

variable {s u v : State} {aqi q l lctx i : Nat} {p : Packet} {x : Launch} {o : Obj}

/-! ## Queues -/

theorem modQueue_queue {f : Queue → Queue} : (s.modQueue aqi q f).queue aqi q = (s.queue aqi q).map f := by
  rw [State.queue, State.queue, State.modQueue]
  dsimp only
  rw [aget_amod_self]
  rcases aget aqi s.aqis with _ | a
  · rfl
  · exact aget_amod_self

/-- The head of a queue whose packet has been fetched. -/
theorem requestNext_head {y : Queue} (hq : q ≠ intakeQ) (hy : s.queue aqi q = some y) :
    ((s.requestNext aqi q).queue aqi q).map (·.head) = some (if y.head + 1 < y.size then y.head + 1 else 0) := by
  rw [State.requestNext, if_neg hq, modQueue_queue, hy, Option.map_some, Option.map_some, Queue.advanced]
  by_cases h : y.head + 1 < y.size
  · rw [if_neg (by omega), if_pos h]
  · rw [if_pos (by omega), if_neg h]

/-- From `s` to `u` memory and the AQIs have changed at most, and the head of a queue has not. -/
structure Completed (s u : State) (aqi q : Nat) : Prop where
  rest : ∃ m as, u = { s with mem := m, aqis := as }
  head : (u.queue aqi q).map (·.head) = (s.queue aqi q).map (·.head)

theorem Completed.trans (h : Completed s u aqi q) (h' : Completed u v aqi q) : Completed s v aqi q := by
  refine ⟨?_, h'.head.trans h.head⟩
  obtain ⟨_, _, rfl⟩ := h.rest
  obtain ⟨_, _, rfl⟩ := h'.rest
  exact ⟨_, _, rfl⟩

theorem setMem_completed {m : List Host.Cell} : Completed s { s with mem := m } aqi q := ⟨⟨m, s.aqis, rfl⟩, rfl⟩

theorem modQueue_completed {f : Queue → Queue} (hf : ∀ y, (f y).head = y.head) : Completed s (s.modQueue aqi q f) aqi q := by
  refine ⟨⟨s.mem, _, rfl⟩, ?_⟩
  rw [modQueue_queue, Option.map_map]
  exact congrArg (fun g => (s.queue aqi q).map g) (funext hf)

theorem interrupt_completed {n : Nat} : Completed s (s.interrupt aqi n) aqi q := by
  unfold State.interrupt
  split
  · exact setMem_completed
  · split
    · exact setMem_completed
    · split
      · exact setMem_completed
      · split
        · refine ⟨⟨s.mem, _, rfl⟩, ?_⟩
          rw [State.queue, State.queue]
          dsimp only
          rw [aget_amod_self]
          rcases aget aqi s.aqis with _ | a
          · rfl
          · rfl
        · exact setMem_completed

/-- The completion ring of a queue after an entry, and the interrupt that tells of it (R399, R400). -/
def State.ringMoved (s : State) (aqi q : Nat) (y : Queue) : State :=
  let last := y.ctail + 1 ≥ y.size
  let s := s.modQueue aqi q fun u => { u with ctail := if last then 0 else u.ctail + 1, phase := if last then !u.phase else u.phase }
  match y.irq with
  | some n => s.interrupt aqi n
  | none => s

theorem ringMoved_completed {y : Queue} : Completed s (s.ringMoved aqi q y) aqi q := by
  unfold State.ringMoved
  dsimp only
  split
  · refine Completed.trans ?_ interrupt_completed
    exact modQueue_completed fun _ => rfl
  · exact modQueue_completed fun _ => rfl

/-- A completion entry writes memory and moves the completion ring on; the head of the queue stays (R399). -/
theorem complete_completed {useq : Word} {status : Nat} : Completed s (s.complete aqi q useq status lctx) aqi q := by
  unfold State.complete
  split
  · exact setMem_completed
  · split
    · refine Completed.trans ?_ (ringMoved_completed (y := _))
      exact setMem_completed
    · exact ringMoved_completed

/-! ## Requests that are taken -/

/-- A request at the head of its queue that is in order is taken (R398). -/
theorem request_eq {ok : Bool} {go : State → State} (hh : s.requestHead aqi q = some p) (hr : s.revoked.contains (Packet.pasid p) = false)
    (hok : s.reqOk aqi q p = true) (ho : ok = true) : s.request aqi q p ok go = go s := by
  rw [State.request, if_neg (fun h => h hh), hr, if_neg Bool.false_ne_true, hok, ho]
  rfl

/-! ## LAUNCH, SIGNAL and WAIT -/

theorem launchWaits_taken (hh : s.requestHead aqi q = some p) (hr : s.revoked.contains (Packet.pasid p) = false)
    (hok : s.reqOk aqi q p = true) (hw : s.launchWaits p = true) : exec (.launch aqi q p) s = .next s := by
  have he : exec (.launch aqi q p) s = execLaunch aqi q p s := rfl
  rw [he, execLaunch, request_eq hh hr hok (by rw [hw]; rfl), hw, if_pos rfl]

/-- A launch that starts. -/
def State.launched (s : State) (aqi q : Nat) (x : Launch) : State :=
  let s := s.requestNext aqi q
  ({ s with launches := s.launches ++ [(s.nextLaunch, x)], nextLaunch := s.nextLaunch + 1 } : State).postCeil s.nextLaunch

section
variable {first : Nat} (hh : s.requestHead aqi q = some p) (hr : s.revoked.contains (Packet.pasid p) = false)
  (hok : s.reqOk aqi q p = true) (hw : s.launchWaits p = false) (hl : s.launchOk aqi p = true) (ho : s.launchObj p = some (i, o, first))
include hh hr hok hw hl ho

theorem exec_launch_starts (ht : (s.newLaunch aqi q p i o first).timed = false ∨
    (s.clock.start.toNat : Int) ≤ (s.newLaunch aqi q p i o first).stopAt) :
    exec (.launch aqi q p) s = .next (s.launched aqi q (s.newLaunch aqi q p i o first)) := by
  have he : exec (.launch aqi q p) s = execLaunch aqi q p s := rfl
  have hc : ((s.newLaunch aqi q p i o first).timed &&
      decide ((s.newLaunch aqi q p i o first).stopAt < (s.clock.start.toNat : Int))) = false := by
    rcases ht with ht | ht
    · rw [ht]
      rfl
    · rw [decide_eq_false (by omega), Bool.and_false]
  rw [he, execLaunch, request_eq hh hr hok (by rw [hl, Bool.or_true]), hw, if_neg Bool.false_ne_true, ho]
  dsimp only
  rw [hc, if_neg Bool.false_ne_true]
  rfl

theorem exec_launch_late (ht : (s.newLaunch aqi q p i o first).timed = true)
    (hs : (s.newLaunch aqi q p i o first).stopAt < (s.clock.start.toNat : Int)) :
    exec (.launch aqi q p) s = .next ((s.requestNext aqi q).complete aqi q (useqOf p) 2 (s.newLaunch aqi q p i o first).lctx) := by
  have he : exec (.launch aqi q p) s = execLaunch aqi q p s := rfl
  have hc : ((s.newLaunch aqi q p i o first).timed &&
      decide ((s.newLaunch aqi q p i o first).stopAt < (s.clock.start.toNat : Int))) = true := by
    rw [ht, decide_eq_true hs]
    rfl
  rw [he, execLaunch, request_eq hh hr hok (by rw [hl, Bool.or_true]), hw, if_neg Bool.false_ne_true, ho]
  dsimp only
  rw [hc, if_pos rfl]

end

/-- The updates of L that a launch is given at its start. -/
theorem mem_amod_last {κ α : Type} [DecidableEq κ] {k : κ} {f : α → α} {l : List (κ × α)} {a : α} :
    (k, a) ∈ amod k f (l ++ [(k, a)]) ∨ (k, f a) ∈ amod k f (l ++ [(k, a)]) := by
  induction l with
  | nil =>
    right
    rw [List.nil_append, amod, if_pos rfl]
    exact List.mem_cons_self
  | cons z l ih =>
    rw [List.cons_append, amod]
    split
    · left
      exact List.mem_cons_of_mem _ (List.mem_append_right _ List.mem_cons_self)
    · exact ih.imp (List.mem_cons_of_mem _) (List.mem_cons_of_mem _)

theorem requestNext_rest : ∃ m as, s.requestNext aqi q = { s with intake := m, aqis := as } := by
  unfold State.requestNext
  split
  · exact ⟨_, s.aqis, rfl⟩
  · exact ⟨s.intake, _, rfl⟩

theorem postCeil_rest : ∃ f : Launch → Launch, (∀ y, ∃ us, f y = { y with updates := us }) ∧
    s.postCeil l = { s with launches := amod l f s.launches } ∨ s.postCeil l = s := by
  unfold State.postCeil
  split
  · split
    · exact ⟨fun y => { y with updates := y.updates ++ [(s.fc, rankCeil, 0, false)] }, Or.inl ⟨fun y => ⟨_, rfl⟩, rfl⟩⟩
    · exact ⟨id, Or.inr rfl⟩
  · exact ⟨id, Or.inr rfl⟩

/-- A launch that has started is in the list, and the head of its queue has moved on. -/
theorem launched_spec : (s.launched aqi q x).queue aqi q = (s.requestNext aqi q).queue aqi q ∧
    (s.launched aqi q x).nextLaunch = s.nextLaunch + 1 ∧ ∃ us, (s.nextLaunch, { x with updates := us }) ∈ (s.launched aqi q x).launches := by
  obtain ⟨m, as, hn⟩ := requestNext_rest (s := s) (aqi := aqi) (q := q)
  unfold State.launched
  rw [hn]
  dsimp only
  obtain ⟨f, ⟨hf, he⟩ | he⟩ := postCeil_rest (l := s.nextLaunch)
    (s := { s with intake := m, aqis := as, launches := s.launches ++ [(s.nextLaunch, x)], nextLaunch := s.nextLaunch + 1 })
  · rw [he]
    refine ⟨rfl, rfl, ?_⟩
    rcases mem_amod_last (k := s.nextLaunch) (f := f) (l := s.launches) (a := x) with h | h
    · exact ⟨x.updates, h⟩
    · obtain ⟨us, hus⟩ := hf x
      exact ⟨us, hus ▸ h⟩
  · rw [he]
    exact ⟨rfl, rfl, x.updates, List.mem_append_right _ List.mem_cons_self⟩

theorem exec_reqSignal (hh : s.requestHead aqi q = some p) (hr : s.revoked.contains (Packet.pasid p) = false)
    (hok : s.reqOk aqi q p = true) (hl : s.queueLaunches aqi q = []) : exec (.reqSignal aqi q p) s =
      .next (((s.requestNext aqi q).tlAdd (Packet.tlid p) (p.dbl 7)).complete aqi q (useqOf p) 0 (Packet.lctx p)) := by
  have he : exec (.reqSignal aqi q p) s = execReqSignal aqi q p s := rfl
  rw [he, execReqSignal, request_eq hh hr hok rfl, hl]
  rfl

theorem exec_reqWait (hh : s.requestHead aqi q = some p) (hr : s.revoked.contains (Packet.pasid p) = false)
    (hok : s.reqOk aqi q p = true) (hb : s.tlBad (Packet.tlid p) = false) (hle : (p.dbl 7).toNat ≤ (s.tl (Packet.tlid p)).toNat) :
    exec (.reqWait aqi q p) s = .next ((s.requestNext aqi q).complete aqi q (useqOf p) 0 (Packet.lctx p)) := by
  have he : exec (.reqWait aqi q p) s = execReqWait aqi q p s := rfl
  rw [he, execReqWait, request_eq hh hr hok rfl]
  dsimp only
  rw [hb, if_neg Bool.false_ne_true, if_pos hle]

/-! ## CANCEL -/

/-- What holds from a state to itself and over two steps, holds over a list of steps. -/
theorem foldl_rel {α : Type} {R : State → State → Prop} {f : State → α → State} (hr : ∀ s, R s s)
    (ht : ∀ s u v, R s u → R u v → R s v) (hf : ∀ s a, R s (f s a)) (l : List α) (s : State) : R s (l.foldl f s) := by
  induction l generalizing s with
  | nil => exact hr s
  | cons a l ih => exact ht _ _ _ (hf s a) (ih _)

theorem setTcb_rest {va off : Nat} {w : Dbl} : ∃ m pw, s.setTcb lctx va off w = { s with mem := m, power := pw } := by
  obtain ⟨pw, m, h⟩ := writeVa_cases (s := s) (l := lctx) (n := 8) (va + off) w.toNat
  exact ⟨m, pw, h⟩

theorem endSignal_rest {va : Nat} : ∃ tl, s.endSignal lctx va = { s with timeline := tl } := by
  unfold State.endSignal
  dsimp only
  split
  · unfold State.tlAdd
    split
    · exact ⟨s.timeline, rfl⟩
    · exact ⟨_, rfl⟩
  · exact ⟨s.timeline, rfl⟩

/-- A list of TCBs takes a final state: the sets of the launch settle (R363, R367). -/
theorem endBatch_rest {st src : Nat} {vs : List Nat} : ∃ (f : Launch → Launch) (m : List Host.Cell) (pw : Power) (rd : List Ready)
    (tl : List (Nat × Dbl)), (∀ y, ∃ a b, f y = { y with sets := a, chain := b }) ∧ s.endBatch l lctx st src vs =
      { s with mem := m, power := pw, ready := rd, timeline := tl, launches := amod l f s.launches } := by
  obtain ⟨m, pw, hfirst⟩ := foldl_rel (R := fun s u => ∃ m pw, u = { s with mem := m, power := pw })
    (f := fun s v => (s.setTcbState lctx v st).setTcb lctx v 0x30 (resultOf 0 0 src 0 false))
    (fun s => ⟨s.mem, s.power, rfl⟩) (fun s u v ⟨_, _, h⟩ ⟨_, _, h'⟩ => by subst h h'; exact ⟨_, _, rfl⟩)
    (fun s v => by
      obtain ⟨m, pw, h⟩ := setTcb_rest (s := s) (lctx := lctx) (va := v) (off := 0x10) (w := setBits (s.tcb lctx v 0x10) 32 4 st)
      obtain ⟨m', pw', h'⟩ := setTcb_rest (s := { s with mem := m, power := pw }) (lctx := lctx) (va := v) (off := 0x30)
        (w := resultOf 0 0 src 0 false)
      refine ⟨m', pw', ?_⟩
      rw [State.setTcbState, h, h']) vs s
  obtain ⟨tl, hlast⟩ := foldl_rel (R := fun s u => ∃ tl, u = { s with timeline := tl }) (f := fun s v => s.endSignal lctx v)
    (fun s => ⟨s.timeline, rfl⟩) (fun s u v ⟨_, h⟩ ⟨_, h'⟩ => by subst h h'; exact ⟨_, rfl⟩) (fun s v => endSignal_rest) vs
    (({ s with mem := m, power := pw, ready := s.ready.filter fun r => !(r.launch == l && vs.contains r.tcb) } : State).settleSets l)
  unfold State.endBatch
  dsimp only
  rw [hfirst, hlast]
  exact ⟨_, _, _, _, _, fun y => ⟨_, _, rfl⟩, rfl⟩

theorem stopTasks_rest {ids : List Nat} {st : Nat} {a b : Bool} : ∃ ts pr rq pl, s.stopTasks ids st a b =
    { s with tasks := ts, pageReqs := pr, requests := rq, placing := pl } := ⟨_, _, _, _, rfl⟩

theorem resumeCheck_rest : ∃ ctxs l m i q, s.resumeCheck lctx =
    { s with ctxs := ctxs, adminWait := l, adminComp := m, adminTail := i, adminPhase := q } := by
  unfold State.resumeCheck
  split
  · exact ⟨s.ctxs, s.adminWait, s.adminComp, s.adminTail, s.adminPhase, rfl⟩
  · dsimp only
    split
    · exact ⟨s.ctxs, s.adminWait, s.adminComp, s.adminTail, s.adminPhase, rfl⟩
    · exact ⟨_, _, _, _, _, rfl⟩

theorem ctxCheck_rest : ∃ ctxs l m i q, s.ctxCheck lctx =
    { s with ctxs := ctxs, adminWait := l, adminComp := m, adminTail := i, adminPhase := q } := by
  obtain ⟨a, b, c, d, e, h⟩ := pauseCheck_rest (s := s) (c := lctx)
  obtain ⟨a', b', c', d', e', h'⟩ := resumeCheck_rest (s := { s with ctxs := a, adminWait := b, adminComp := c, adminTail := d, adminPhase := e })
    (lctx := lctx)
  refine ⟨a', b', c', d', e', ?_⟩
  rw [State.ctxCheck, h, h']

/-- A cancelled launch (R398). -/
theorem cancelLaunch_spec {quiet : Bool} (hx : s.launch l = some x) : (s.cancelLaunch l quiet).aqis = s.aqis ∧
    ∃ y, (s.cancelLaunch l quiet).launch l = some y ∧ y.cancelled = true ∧ y.look = none ∧ y.ahead = [] := by
  unfold State.cancelLaunch
  rw [hx]
  dsimp only
  generalize List.filter _ (s.openTcbs x 3) = vs
  obtain ⟨f, m, pw, rd, tl, hf, hend⟩ := endBatch_rest (s := s) (l := l) (lctx := x.lctx) (st := 7) (src := 4) (vs := vs)
  rw [hend]
  obtain ⟨a, b, c, d, e, hcheck⟩ := ctxCheck_rest (lctx := x.lctx) (s := State.modLaunch (State.dropRequests (State.stopTasks
    { s with mem := m, power := pw, ready := rd, timeline := tl, launches := amod l f s.launches }
    ((s.tasks.filter fun z => z.2.launch == l).map (·.1)) 7 true quiet) fun q => match q with
      | .ready r => r.launch == l
      | q => q.ofTasks ((s.tasks.filter fun z => z.2.launch == l).map (·.1))) l fun x =>
    { x with cancelled := true, look := none, ahead := [], joinHeld := false })
  refine ⟨(congrArg State.aqis hcheck).trans rfl, ?_⟩
  refine ⟨{ f x with cancelled := true, look := none, ahead := [], joinHeld := false }, (congrArg (State.launch · l) hcheck).trans ?_, rfl, rfl, rfl⟩
  show aget l (amod l _ (amod l f s.launches)) = _
  rw [aget_amod_self, aget_amod_self]
  rw [State.launch] at hx
  rw [hx]
  rfl

theorem find_launch {z : Nat × Launch} {g : Nat × Launch → Bool} (h : (s.queueLaunches aqi q).find? g = some z) :
    ∃ y, s.launch z.1 = some y := by
  have hm : z ∈ s.launches := (List.mem_filter.mp (List.mem_of_find?_eq_some h)).1
  rw [State.launch]
  generalize s.launches = l at hm
  induction l with
  | nil => cases hm
  | cons a l ih =>
    rw [aget]
    split
    · exact ⟨_, rfl⟩
    · next hne =>
      rcases List.mem_cons.mp hm with rfl | hm
      · exact absurd rfl hne
      · exact ih hm

section
variable {z : Nat × Launch} (hh : s.requestHead aqi q = some p) (hr : s.revoked.contains (Packet.pasid p) = false)
  (hok : s.reqOk aqi q p = true)
  (hz : ((s.queueLaunches aqi q).find? fun z => z.2.useq == (p.dbl 7).extractLsb' 0 32 && !z.2.cancelled) = some z)
include hh hr hok hz

theorem exec_cancel : exec (.cancel aqi q p) s = .next (if s.owesEnd (·.launch == z.1) || s.stopOwed z.2 then s
    else (s.requestNext aqi q).cancelLaunch z.1 false) := by
  have he : exec (.cancel aqi q p) s = execCancel aqi q p s := rfl
  rw [he, execCancel, request_eq hh hr hok rfl, hz]

end

/-- Settles O54: each request is taken, and what it does leaves the head of its queue moved on. -/
theorem requests : Obligations.Requests := by
  unfold Obligations.Requests
  intro s aqi q p hh hr hok
  have hmoved (u : State) (hu : (u.queue aqi q).map (·.head) = ((s.requestNext aqi q).queue aqi q).map (·.head)) (hq : q ≠ intakeQ)
      (y : Queue) (hy : s.queue aqi q = some y) :
      (u.queue aqi q).map (·.head) = some (if y.head + 1 < y.size then y.head + 1 else 0) := hu.trans (requestNext_head hq hy)
  refine ⟨launchWaits_taken hh hr hok, fun i o first hw hl ho => ⟨fun ht => ?_, fun ht hs => ?_⟩, fun hl hb => ?_, fun hb hle => ?_, fun z hz =>
    ⟨fun hor => ?_, fun hown hstop => ?_⟩⟩
  · obtain ⟨hq, hn, us, hmem⟩ := launched_spec (s := s) (aqi := aqi) (q := q) (x := s.newLaunch aqi q p i o first)
    exact ⟨_, exec_launch_starts hh hr hok hw hl ho ht, hmoved _ (congrArg _ hq), hn, _, hmem, rfl, rfl, rfl, rfl, rfl, rfl, rfl⟩
  · have hc := complete_completed (s := s.requestNext aqi q) (aqi := aqi) (q := q) (useq := useqOf p) (status := 2)
      (lctx := (s.newLaunch aqi q p i o first).lctx)
    refine ⟨_, exec_launch_late hh hr hok hw hl ho ht hs, hmoved _ hc.head, ?_⟩
    obtain ⟨_, _, hrest⟩ := hc.rest
    obtain ⟨_, _, hnext⟩ := requestNext_rest (s := s) (aqi := aqi) (q := q)
    rw [hrest, hnext]
    exact ⟨rfl, rfl⟩
  · have hc := complete_completed (s := (s.requestNext aqi q).tlAdd (Packet.tlid p) (p.dbl 7)) (aqi := aqi) (q := q) (useq := useqOf p)
      (status := 0) (lctx := Packet.lctx p)
    obtain ⟨_, _, hrest⟩ := hc.rest
    obtain ⟨_, _, hnext⟩ := requestNext_rest (s := s) (aqi := aqi) (q := q)
    refine ⟨_, exec_reqSignal hh hr hok hl, hmoved _ (hc.head.trans ?_), ?_⟩
    · unfold State.tlAdd
      split
      · rfl
      · rfl
    · have hadd := tlAdd_frame (s := s) (v := s.requestNext aqi q) (h := Packet.tlid p) (w := p.dbl 7) (by rw [hnext])
        (by rw [hnext]; exact hb)
      rw [hrest]
      exact hadd
  · have hc := complete_completed (s := s.requestNext aqi q) (aqi := aqi) (q := q) (useq := useqOf p) (status := 0) (lctx := Packet.lctx p)
    refine ⟨_, exec_reqWait hh hr hok hb hle, hmoved _ hc.head, ?_⟩
    obtain ⟨_, _, hrest⟩ := hc.rest
    obtain ⟨_, _, hnext⟩ := requestNext_rest (s := s) (aqi := aqi) (q := q)
    rw [hrest, hnext]
  · rw [exec_cancel hh hr hok hz, if_pos (by rwa [Bool.or_eq_true])]
  · obtain ⟨y, hy⟩ := find_launch hz
    obtain ⟨_, _, hnext⟩ := requestNext_rest (s := s) (aqi := aqi) (q := q)
    obtain ⟨haqis, hgone⟩ := cancelLaunch_spec (s := s.requestNext aqi q) (l := z.1) (x := y) (quiet := false) (by rw [hnext]; exact hy)
    refine ⟨_, exec_cancel hh hr hok hz, ?_⟩
    rw [hown, hstop, if_neg (show ¬ (false || false) = true from Bool.false_ne_true)]
    exact ⟨hmoved _ (by rw [State.queue, haqis]; rfl), hgone⟩

end Sys2Proof.Machine

namespace Sys2Proof.Machine

/-! PROOFS. The issue stage and the nodes of a task graph (R310 to R313, R363, R364, R366, R368). -/

variable {s u : State} {l va lctx : Nat} {n : Packet} {x y : Launch} {o : Obj}

/-! ## The node at the head -/

theorem issuing_launch (h : s.issuing l n = some x) : s.launch l = some x := by
  unfold State.issuing at h
  split at h
  · cases h
  · next z hz =>
    split at h
    · cases h
    · split at h
      · split at h
        · cases h
          exact hz
        · cases h
      · cases h

theorem passNode_launch (h : s.launch l = some x) : (s.passNode l).launch l = some { x with ahead := x.ahead.drop 1 } := modLaunch_launch_of h

/-- A node that the look-ahead stage has resolved is passed. -/
theorem passResolved_eq {f : Launch → Launch} (h : s.issuing l n = some x) : s.passResolved l n f = (s.passNode l).modLaunch l f := by
  rw [State.passResolved, h]

theorem passResolved_launch {f : Launch → Launch} (h : s.issuing l n = some x) :
    (s.passResolved l n f).launch l = some (f { x with ahead := x.ahead.drop 1 }) := by
  rw [passResolved_eq h]
  exact modLaunch_launch_of (passNode_launch (issuing_launch h))

/-! ## The nodes but TASK -/

theorem exec_nodeJoin (h : s.allFinal l = true) : exec (.nodeJoin l n) s = .next (s.passResolved l n fun x => { x with joinHeld := false }) := by
  have he : exec (.nodeJoin l n) s = execNodeJoin l n s := rfl
  rw [he, execNodeJoin, h, if_pos rfl]

section
variable (h : s.issuing l n = some x)
include h

theorem exec_nodeWait (hb : s.tlBad (nodeF4 n) = false) (hle : (n.dbl 1).toNat ≤ (s.tl (nodeF4 n)).toNat) :
    exec (.nodeWait l n) s = .next (s.passNode l) := by
  have he : exec (.nodeWait l n) s = execNodeWait l n s := rfl
  rw [he, execNodeWait, h]
  dsimp only
  rw [hb, if_neg Bool.false_ne_true, if_pos hle]

theorem exec_nodeSignal (hf : s.allFinal l = true) (hb : s.tlBad (nodeF4 n) = false) :
    exec (.nodeSignal l n) s = .next ((s.tlAdd (nodeF4 n) (n.dbl 1)).passNode l) := by
  have he : exec (.nodeSignal l n) s = execNodeSignal l n s := rfl
  rw [he, execNodeSignal, h]
  dsimp only
  rw [hf, Bool.not_true, if_neg Bool.false_ne_true, hb, if_neg Bool.false_ne_true]

theorem exec_nodeEnd : exec (.nodeEnd l n) s = .next (if (x.ahead.head?.bind (·.arm)).isSome then s.passNode l
    else (s.passNode l).modLaunch l fun y => { y with ended := true, look := none, ahead := [] }) := by
  have he : exec (.nodeEnd l n) s = execNodeEnd l n s := rfl
  rw [he, execNodeEnd, h]
  dsimp only
  split
  · rfl
  · rfl

end

theorem tlAdd_launch {g : Nat} {w : Dbl} : (s.tlAdd g w).launch l = s.launch l := by
  unfold State.tlAdd
  split
  · rfl
  · rfl

/-! ## TASK (R310, R363, R366) -/

/-- From `s` to `u` memory has been written, with accesses that count. -/
def Written (s u : State) : Prop := ∃ m pw, u = { s with mem := m, power := pw }

theorem Written.refl (s : State) : Written s s := ⟨_, _, rfl⟩

theorem Written.trans {s u v : State} (h : Written s u) (h' : Written u v) : Written s v := by
  obtain ⟨_, _, rfl⟩ := h
  obtain ⟨_, _, rfl⟩ := h'
  exact ⟨_, _, rfl⟩

theorem setTcb_written {off : Nat} {w : Dbl} : Written s (s.setTcb lctx va off w) := setTcb_rest

theorem fillTcb_written {pool : Bool} : Written s (s.fillTcb x o va pool n) := by
  unfold State.fillTcb
  dsimp only
  have hhints (z : State) : Written z (if n.dbl 2 != 0 then z.setTcb x.lctx va 0x20 (n.dbl 2) else z) := by
    split
    · exact setTcb_written
    · exact Written.refl z
  have hfirst := (setTcb_written (s := s) (lctx := x.lctx) (va := va) (off := 0)
    (w := s.tcbRef x va (o.va + s.seg o (s.seg o 0x18 4 + 4 * nodeF4 n) 4))).trans
    ((setTcb_written (lctx := x.lctx) (va := va) (off := 8) (w := n.dbl 1)).trans (hhints _))
  generalize (if n.dbl 2 != 0 then _ else _ : State) = z at hfirst ⊢
  split
  · exact hfirst.trans ((setTcb_written.trans setTcb_written).trans setTcb_written)
  · exact hfirst

theorem prepareTcb_written {root : Nat} : Written s (s.prepareTcb x root va) := (setTcb_written.trans setTcb_written).trans setTcb_written

/-- A TCB that enters READY is the last entry of the ready queue, with the launch's RSEQ (R363, R376). -/
theorem enterReady_spec (h : s.launch l = some y) : ∃ e, (s.enterReady l va).ready = s.ready ++ [e] ∧ e.launch = l ∧ e.tcb = va ∧
    e.cls = y.cls ∧ e.rseq = y.rseq ∧ e.bypass = 0 ∧ (s.enterReady l va).launch l = some { y with rseq := y.rseq + 1 } := by
  obtain ⟨m, pw, h1⟩ := setTcb_rest (s := s) (lctx := y.lctx) (va := va) (off := 0x10) (w := setBits (s.tcb y.lctx va 0x10) 32 4 1)
  obtain ⟨m', pw', h2⟩ := setTcb_rest (s := ({ s with mem := m, power := pw } : State).bumpId) (lctx := y.lctx) (va := va) (off := 0x38)
    (w := BitVec.ofNat 32 y.rseq ++ Config.readyLink s.nextId)
  unfold State.enterReady
  rw [h]
  dsimp only
  rw [State.setTcbState, h1, h2]
  refine ⟨_, rfl, rfl, rfl, rfl, rfl, rfl, ?_⟩
  exact modLaunch_launch_of (s := { ({ s with mem := m, power := pw } : State).bumpId with mem := m', power := pw' }) h

/-- The state in which a TASK node has taken its TCB. -/
def State.taskIssued (s : State) (l : Nat) (n : Packet) (x : Launch) (o : Obj) (tcb : Nat) (pool : Bool) : State :=
  let set := if pool then [tcb] else s.taskSet x.lctx tcb
  let s := set.foldl (fun s v => s.prepareTcb x tcb v) (s.fillTcb x o tcb pool n)
  let s := s.modLaunch l fun y => { y with sets := y.sets ++ [{ tcbs := set }], chain := some set }
  (s.passNode l).enterReady l tcb

theorem exec_nodeTask {pool : Bool} (h : s.issuing l n = some x) (ho : s.objs[x.obj]? = some o)
    (hc : ∀ set, x.chain = some set → s.setFinal x.lctx set = true)
    (ht : pool = false ∧ s.nodeTcb x o.va n = .named va ∨ pool = true ∧ s.nodeTcb x o.va n = .pool va)
    (hl : ∀ v ∈ (if pool then [va] else s.taskSet x.lctx va), s.inLiveSet x.lctx v = false)
    (hs : pool = true ∨ s.selfNaming x.lctx (if pool then [va] else s.taskSet x.lctx va) = false) :
    exec (.nodeTask l n) s = .next (s.taskIssued l n x o va pool) := by
  have he : exec (.nodeTask l n) s = execNodeTask l n s := rfl
  have hchain : ((x.chain.map fun set => s.setFinal x.lctx set).getD true) = true := by
    rcases hx : x.chain with _ | set
    · rfl
    · exact hc set hx
  have hbad : (((if pool then [va] else s.taskSet x.lctx va).any fun v => s.inLiveSet x.lctx v) ||
      (!pool && s.selfNaming x.lctx (if pool then [va] else s.taskSet x.lctx va))) = false := by
    have hany : ((if pool then [va] else s.taskSet x.lctx va).any fun v => s.inLiveSet x.lctx v) = false :=
      List.any_eq_false.mpr fun v hv => by rw [hl v hv]; exact Bool.false_ne_true
    rw [hany, Bool.false_or]
    rcases hs with hs | hs
    · rw [hs]
      rfl
    · rw [hs, Bool.and_false]
  rw [he, execNodeTask, h]
  dsimp only
  rw [ho]
  dsimp only
  rw [hchain, Bool.not_true, if_neg Bool.false_ne_true]
  rcases ht with ⟨rfl, ht⟩ | ⟨rfl, ht⟩
  · rw [ht]
    exact congrArg _ (if_neg (Bool.eq_false_iff.mp hbad))
  · rw [ht]
    exact congrArg _ (if_neg (Bool.eq_false_iff.mp hbad))

theorem taskIssued_spec {pool : Bool} (h : s.launch l = some x) : ∃ e y, (s.taskIssued l n x o va pool).ready = s.ready ++ [e] ∧
    e.launch = l ∧ e.tcb = va ∧ e.cls = x.cls ∧ e.rseq = x.rseq ∧ e.bypass = 0 ∧ (s.taskIssued l n x o va pool).launch l = some y ∧
    y.chain = some (if pool then [va] else s.taskSet x.lctx va) ∧ y.rseq = x.rseq + 1 ∧ y.ahead = x.ahead.drop 1 := by
  obtain ⟨m, pw, hw⟩ := (fillTcb_written (s := s) (x := x) (o := o) (va := va) (pool := pool) (n := n)).trans
    (foldl_rel (f := fun s v => s.prepareTcb x va v) Written.refl (fun _ _ _ => Written.trans) (fun s v => prepareTcb_written)
      (if pool then [va] else s.taskSet x.lctx va) _)
  unfold State.taskIssued
  dsimp only
  rw [hw]
  obtain ⟨e, h1, h2, h3, h4, h5, h6, h7⟩ := enterReady_spec (va := va) (passNode_launch (modLaunch_launch_of (s := { s with mem := m, power := pw })
    (g := fun y => { y with sets := y.sets ++ [{ tcbs := if pool then [va] else s.taskSet x.lctx va }],
                            chain := some (if pool then [va] else s.taskSet x.lctx va) }) h))
  exact ⟨e, _, h1, h2, h3, h4, h5, h6, h7, rfl, rfl, rfl⟩

/-- Settles O55: each node passes as its kind has it, and a TASK node's TCB becomes ready. -/
theorem taskGraphNodes : Obligations.TaskGraphNodes := by
  unfold Obligations.TaskGraphNodes
  intro s l n x h
  have hx := issuing_launch h
  refine ⟨⟨_, rfl, _, passResolved_launch h, rfl⟩, ⟨_, rfl, _, passResolved_launch h, rfl⟩, ⟨_, rfl, _, passResolved_launch h, rfl⟩,
    ⟨_, rfl, _, passResolved_launch h, rfl, rfl⟩, fun hf => ⟨_, exec_nodeJoin hf, _, passResolved_launch h, rfl, rfl⟩,
    fun hb hle => ⟨_, exec_nodeWait h hb hle, _, passNode_launch hx, rfl⟩, fun hf hb => ⟨_, exec_nodeSignal h hf hb, ?_, ?_⟩,
    fun ha => ⟨_, exec_nodeEnd h, ?_⟩, fun ha => ⟨_, exec_nodeEnd h, ?_⟩, fun o va pool ho hc ht hl hs => ⟨_, exec_nodeTask h ho hc ht hl hs, taskIssued_spec hx⟩⟩
  · exact (tlAdd_frame (s := s) (v := s) rfl hb).1
  · exact ⟨_, passNode_launch (tlAdd_launch.trans hx), rfl⟩
  · rw [ha, if_neg (by decide)]
    exact ⟨_, modLaunch_launch_of (passNode_launch hx), rfl, rfl, rfl⟩
  · rw [ha, if_pos rfl]
    exact ⟨_, passNode_launch hx, rfl⟩

end Sys2Proof.Machine

namespace Sys2Proof.Machine

/-! PROOFS. An uncorrectable error in a granule whose tag is corrupted as well (R317, R318, R412). -/

/-- The first granule of tile 0. -/
def spoiltGranule : Nat := (Loc.tile 0 0).key / 16

/-- The state after reset, but that the tag of the granule is corrupted. -/
def spoiltState : State := { State.reset with tags := [(spoiltGranule, 3)] }

/-- The uncorrectable errors of tile 0 that an outcome counts. -/
def uncorrectedAfter : Out → Option Nat
  | .next s => some (s.tile 0).uncorrected
  | _ => none

/-- The access to the tag counts an error, and so does the granule's own. -/
theorem spoilt_counts_twice : uncorrectedAfter (exec (.eccUncorrectable 0 0 (.granule 0)) spoiltState) = some 2 := by decide

/-- Refutes O60: where the tag of a granule is corrupted, an uncorrectable error in it is counted twice. -/
theorem not_failuresAndSpans : ¬ Obligations.FailuresAndSpans := by
  unfold Obligations.FailuresAndSpans
  rintro ⟨-, -, -, -, -, herrors, -⟩
  obtain ⟨-, -, -, hgranule⟩ := herrors spoiltState 0 0 rfl
  obtain ⟨s', he, -, -, hcount⟩ := hgranule 0
  have htwice := spoilt_counts_twice
  rw [he, uncorrectedAfter] at htwice
  exact absurd (hcount.symm.trans (Option.some.inj htwice)) (by decide)

end Sys2Proof.Machine

namespace Sys2Proof.Machine

/-! PROOFS. Contexts that are torn down and freed (R402, R404). -/

variable {s u v : State} {c d l lctx t : Nat} {x : Launch}

/-! ## Association lists -/

/-- A change of a value that `g` does not see. -/
theorem amod_map_same {κ α β : Type} [DecidableEq κ] {k : κ} {f : α → α} {g : κ × α → β} {m : List (κ × α)}
    (h : ∀ y, g (k, f y) = g (k, y)) : (amod k f m).map g = m.map g := by
  induction m with
  | nil => rfl
  | cons z m ih =>
    obtain ⟨j, y⟩ := z
    by_cases hj : j = k
    · subst hj
      rw [amod, if_pos rfl, List.map_cons, List.map_cons, h]
    · rw [amod, if_neg hj, List.map_cons, List.map_cons, ih]

/-- A key that is not listed. -/
theorem amod_not_mem {κ α : Type} [DecidableEq κ] {k : κ} {f : α → α} {m : List (κ × α)} (h : k ∉ m.map Prod.fst) :
    amod k f m = m := by
  induction m with
  | nil => rfl
  | cons z m ih =>
    obtain ⟨j, y⟩ := z
    rw [List.map_cons, List.mem_cons, not_or] at h
    rw [amod, if_neg (Ne.symm h.1), ih h.2]

/-- Where each key is listed once, a key is removed wherever it stands. -/
theorem adel_eq_filter {κ α : Type} [DecidableEq κ] {k : κ} {m : List (κ × α)} (h : (m.map Prod.fst).Nodup) :
    adel k m = m.filter fun z => !decide (z.1 = k) := by
  induction m with
  | nil => rfl
  | cons z m ih =>
    obtain ⟨j, y⟩ := z
    rw [List.map_cons, List.nodup_cons] at h
    by_cases hj : j = k
    · subst hj
      have hrest : m.filter (fun z => !decide (z.1 = j)) = m := List.filter_eq_self.mpr fun z hz => by
        have hne : z.1 ≠ j := fun he => h.1 (List.mem_map.mpr ⟨z, hz, he⟩)
        simp [hne]
      rw [adel, if_pos rfl, List.filter_cons_of_neg (by simp), hrest]
    · rw [adel, if_neg hj, List.filter_cons_of_pos (by simp [hj]), ih h.2]

theorem adel_sublist {κ α : Type} [DecidableEq κ] {k : κ} {m : List (κ × α)} : (adel k m).Sublist m := by
  induction m with
  | nil => exact List.Sublist.slnil
  | cons z m ih =>
    rw [adel]
    split
    · exact List.sublist_cons_self _ _
    · exact ih.cons₂ _

/-- A filter that looks at keys alone. -/
theorem aget_filter_key {κ α : Type} [DecidableEq κ] {k : κ} {p : κ → Bool} {m : List (κ × α)} :
    aget k (m.filter fun z => p z.1) = if p k then aget k m else none := by
  induction m with
  | nil => simp [aget]
  | cons z m ih =>
    obtain ⟨j, y⟩ := z
    by_cases hp : p j = true
    · rw [List.filter_cons_of_pos (p := fun z : κ × α => p z.1) hp, aget, ih, aget]
      by_cases hj : j = k
      · rw [if_pos hj, if_pos hj, ← hj, if_pos hp]
      · rw [if_neg hj, if_neg hj]
    · rw [List.filter_cons_of_neg (p := fun z : κ × α => p z.1) hp, ih, aget]
      by_cases hj : j = k
      · rw [← hj, if_neg hp, if_neg hp]
      · rw [if_neg hj]

theorem aget_none {κ α : Type} [DecidableEq κ] {z : κ × α} {m : List (κ × α)} (h : aget z.1 m = none) : z ∉ m := by
  induction m with
  | nil => exact List.not_mem_nil
  | cons y m ih =>
    rw [aget] at h
    split at h
    · cases h
    · next hy =>
      rw [List.mem_cons, not_or]
      exact ⟨fun he => hy (he ▸ rfl), ih h⟩

theorem mem_of_aget {κ α : Type} [DecidableEq κ] {k : κ} {a : α} {m : List (κ × α)} (h : aget k m = some a) : (k, a) ∈ m := by
  induction m with
  | nil => cases h
  | cons z m ih =>
    obtain ⟨j, y⟩ := z
    rw [aget] at h
    split at h
    · next hj =>
      cases h
      exact hj ▸ List.mem_cons_self
    · exact List.mem_cons_of_mem _ (ih h)

/-! ## What a teardown sees of a context -/

/-- The number of a context, its record, and whether it is torn down. -/
def fate (z : Nat × Ctx) : Nat × BitVec 1024 × Bool := (z.1, z.2.record, z.2.dead)

/-- The fates of the contexts. -/
def State.fates (s : State) : List (Nat × BitVec 1024 × Bool) := s.ctxs.map fate

/-- The fate of a context after its teardown. -/
def doom (c : Nat) (z : Nat × BitVec 1024 × Bool) : Nat × BitVec 1024 × Bool := (z.1, z.2.1, z.2.2 || decide (z.1 = c))

theorem fates_keys : s.fates.map Prod.fst = s.ctxs.map Prod.fst := by
  rw [State.fates, List.map_map]
  exact congrArg (List.map · s.ctxs) rfl

theorem modCtx_fates {f : Ctx → Ctx} (h : ∀ y, (f y).record = y.record ∧ (f y).dead = y.dead) : (s.modCtx c f).fates = s.fates :=
  amod_map_same fun y => by rw [fate, fate, (h y).1, (h y).2]

/-- The fates, the PASIDs revoked, and the requests of control cores have not changed. -/
structure SameFates (s u : State) : Prop where
  fates : u.fates = s.fates
  revoked : u.revoked = s.revoked
  intake : u.intake = s.intake

theorem SameFates.refl (s : State) : SameFates s s := ⟨rfl, rfl, rfl⟩

theorem SameFates.trans (h : SameFates s u) (h' : SameFates u v) : SameFates s v :=
  ⟨h'.fates.trans h.fates, h'.revoked.trans h.revoked, h'.intake.trans h.intake⟩

theorem pauseCheck_sameFates : SameFates s (s.pauseCheck c) := by
  obtain ⟨_, _, _, _, _, h⟩ := pauseCheck_rest (s := s) (c := c)
  refine ⟨?_, by rw [h], by rw [h]⟩
  unfold State.pauseCheck
  cases s.ctx c with
  | none => rfl
  | some y =>
    dsimp only
    split
    · rfl
    · cases y.pauseTag with
      | none => exact modCtx_fates fun _ => ⟨rfl, rfl⟩
      | some tag => exact modCtx_fates fun _ => ⟨rfl, rfl⟩

theorem resumeCheck_sameFates : SameFates s (s.resumeCheck c) := by
  obtain ⟨_, _, _, _, _, h⟩ := resumeCheck_rest (s := s) (lctx := c)
  refine ⟨?_, by rw [h], by rw [h]⟩
  unfold State.resumeCheck
  split
  · rfl
  · dsimp only
    split
    · rfl
    · exact modCtx_fates fun _ => ⟨rfl, rfl⟩

theorem ctxCheck_sameFates : SameFates s (s.ctxCheck c) := pauseCheck_sameFates.trans resumeCheck_sameFates

theorem cancelLaunch_sameFates {quiet : Bool} : SameFates s (s.cancelLaunch l quiet) := by
  unfold State.cancelLaunch
  cases s.launch l with
  | none => exact SameFates.refl s
  | some x =>
    dsimp only
    generalize List.filter _ (s.openTcbs x 3) = vs
    obtain ⟨f, m, pw, rd, tl, -, hend⟩ := endBatch_rest (s := s) (l := l) (lctx := x.lctx) (st := 7) (src := 4) (vs := vs)
    rw [hend]
    refine SameFates.trans ?_ ctxCheck_sameFates
    exact ⟨rfl, rfl, rfl⟩

/-! ## The teardown of contexts -/

/-- Contexts from `s` to `u` whose teardown has begun: those of the list are dead, and the others as they were. -/
structure TornDown (s u : State) (cs : List Nat) : Prop where
  fates : u.fates = cs.foldl (fun m c => m.map (doom c)) s.fates
  revoked : u.revoked = s.revoked
  intake : u.intake = s.intake

theorem doom_keys {m : List (Nat × BitVec 1024 × Bool)} : (m.map (doom c)).map Prod.fst = m.map Prod.fst := by
  rw [List.map_map]
  exact congrArg (List.map · m) rfl

/-- Where each context is listed once, a context that is marked dead is doomed. -/
theorem kill_fates {f : Ctx → Ctx} (hn : (s.ctxs.map Prod.fst).Nodup) (h : ∀ y, (f y).record = y.record ∧ (f y).dead = true) :
    (s.modCtx c f).fates = s.fates.map (doom c) := by
  show (amod c f s.ctxs).map fate = (s.ctxs.map fate).map (doom c)
  generalize s.ctxs = m at hn
  induction m with
  | nil => rfl
  | cons z m ih =>
    obtain ⟨j, y⟩ := z
    rw [List.map_cons, List.nodup_cons] at hn
    by_cases hj : j = c
    · subst hj
      have hrest : (m.map fate).map (doom j) = m.map fate := by
        rw [List.map_map]
        refine List.map_congr_left fun z hz => ?_
        have hne : z.1 ≠ j := fun he => hn.1 (List.mem_map.mpr ⟨z, hz, he⟩)
        simp [Function.comp, doom, fate, hne]
      rw [amod, if_pos rfl, List.map_cons, List.map_cons, List.map_cons, hrest]
      simp [fate, doom, h]
    · rw [amod, if_neg hj, List.map_cons, List.map_cons, List.map_cons, ih hn.2]
      simp [fate, doom, hj]

theorem tearDown_tornDown (hn : (s.ctxs.map Prod.fst).Nodup) : TornDown s (s.tearDown c) [c] := by
  have hls := foldl_rel SameFates.refl (fun _ _ _ => SameFates.trans) (f := fun s l => (s.cancelLaunch l true).dropFsr l)
    (fun s l => (cancelLaunch_sameFates (quiet := true)).trans ⟨rfl, rfl, rfl⟩) ((s.launches.filter fun z => z.2.lctx == c).map (·.1)) s
  unfold State.tearDown
  dsimp only
  generalize List.foldl _ s _ = u at hls
  have hkeys : (u.ctxs.map Prod.fst).Nodup := by rw [← fates_keys, hls.fates, fates_keys]; exact hn
  cases hu : u.ctx c with
  | none =>
    have hdoom : s.fates.map (doom c) = s.fates := by
      rw [← hls.fates]
      refine (List.map_congr_left fun z hz => ?_).trans (List.map_id _)
      obtain ⟨y, hy, rfl⟩ := List.mem_map.mp hz
      have hne : y.1 ≠ c := by
        rintro rfl
        exact aget_none hu hy
      simp [doom, fate, hne]
    exact ⟨hls.fates.trans hdoom.symm, hls.revoked, hls.intake⟩
  | some x =>
    refine ⟨?_, hls.revoked, hls.intake⟩
    show _ = s.fates.map (doom c)
    rw [← hls.fates]
    exact kill_fates hkeys fun y => ⟨rfl, rfl⟩

theorem doomAll_keys {cs : List Nat} {m : List (Nat × BitVec 1024 × Bool)} :
    (cs.foldl (fun m c => m.map (doom c)) m).map Prod.fst = m.map Prod.fst := by
  induction cs generalizing m with
  | nil => rfl
  | cons c cs ih => exact ih.trans doom_keys

theorem TornDown.keys {cs : List Nat} (h : TornDown s u cs) : u.ctxs.map Prod.fst = s.ctxs.map Prod.fst := by
  rw [← fates_keys, h.fates, doomAll_keys, fates_keys]

theorem tearDown_foldl {cs : List Nat} (hn : (s.ctxs.map Prod.fst).Nodup) : TornDown s (cs.foldl State.tearDown s) cs := by
  induction cs generalizing s with
  | nil => exact ⟨rfl, rfl, rfl⟩
  | cons c cs ih =>
    have hfirst := tearDown_tornDown (c := c) hn
    have hrest := ih (s := s.tearDown c) (hfirst.keys ▸ hn)
    refine ⟨hrest.fates.trans ?_, hrest.revoked.trans hfirst.revoked, hrest.intake.trans hfirst.intake⟩
    rw [hfirst.fates]
    rfl

/-- A context that is listed after the teardown of `cs` is dead if it is one of them. -/
theorem doomAll_dead {cs : List Nat} {m : List (Nat × BitVec 1024 × Bool)} {z : Nat × BitVec 1024 × Bool}
    (hz : z ∈ cs.foldl (fun m c => m.map (doom c)) m) :
    (∃ b, (z.1, z.2.1, b) ∈ m ∧ (b = true → z.2.2 = true)) ∧ (z.1 ∈ cs → z.2.2 = true) := by
  induction cs generalizing m with
  | nil => exact ⟨⟨z.2.2, hz, id⟩, fun h => absurd h List.not_mem_nil⟩
  | cons c cs ih =>
    obtain ⟨⟨b, hb, hkeep⟩, hdead⟩ := ih (m := m.map (doom c)) hz
    obtain ⟨y, hy, he⟩ := List.mem_map.mp hb
    obtain ⟨h1, h2, h3⟩ : y.1 = z.1 ∧ y.2.1 = z.2.1 ∧ (y.2.2 || decide (y.1 = c)) = b := by
      simpa only [doom, Prod.mk.injEq] using he
    refine ⟨⟨y.2.2, h1 ▸ h2 ▸ hy, fun hd => hkeep (by rw [← h3, hd]; rfl)⟩, fun hmem => ?_⟩
    rcases List.mem_cons.mp hmem with hc | hc
    · exact hkeep (by rw [← h3, h1, hc]; simp)
    · exact hdead hc

/-! ## Contexts that are freed -/

/-- The contexts that are dead and over. -/
def State.goneCtxs (s : State) : List Nat := (s.ctxs.filter fun c => c.2.dead && s.ctxOver c.1).map (·.1)

theorem endWait_rest {w : AdminTag × AdminWait} : ∃ as aq aw ac at_ ap, s.endWait w =
    { s with aqis := as, adminQ := aq, adminWait := aw, adminComp := ac, adminTail := at_, adminPhase := ap } := by
  unfold State.endWait
  split
  · exact ⟨_, _, _, _, _, _, rfl⟩
  · split
    · exact ⟨_, _, _, _, _, _, rfl⟩
    · exact ⟨_, _, _, _, _, _, rfl⟩
    · exact ⟨_, _, _, _, _, _, rfl⟩

theorem endWaits_rest {ws : List (AdminTag × AdminWait)} : ∃ as aq aw ac at_ ap, ws.foldl State.endWait s =
    { s with aqis := as, adminQ := aq, adminWait := aw, adminComp := ac, adminTail := at_, adminPhase := ap } :=
  foldl_rel (R := fun s u => ∃ as aq aw ac at_ ap, u = { s with aqis := as, adminQ := aq, adminWait := aw, adminComp := ac,
                                                                  adminTail := at_, adminPhase := ap })
    (fun _ => ⟨_, _, _, _, _, _, rfl⟩)
    (fun _ _ _ ⟨_, _, _, _, _, _, h⟩ ⟨_, _, _, _, _, _, h'⟩ => by subst h h'; exact ⟨_, _, _, _, _, _, rfl⟩)
    (fun _ _ => endWait_rest) ws s

theorem dropCtxs_rest {cs : List Nat} : ∃ ctxs bufs banks spans msgs, cs.foldl State.dropCtx s =
    { s with ctxs := ctxs, buffers := bufs, banks := banks, spans := spans, msgs := msgs } :=
  foldl_rel (R := fun s u => ∃ ctxs bufs banks spans msgs, u = { s with ctxs := ctxs, buffers := bufs, banks := banks, spans := spans,
                                                                         msgs := msgs })
    (fun _ => ⟨_, _, _, _, _, rfl⟩) (fun _ _ _ ⟨_, _, _, _, _, h⟩ ⟨_, _, _, _, _, h'⟩ => by subst h h'; exact ⟨_, _, _, _, _, rfl⟩)
    (fun _ _ => ⟨_, _, _, _, _, rfl⟩) cs s

theorem reap_rest : ∃ ctxs bufs banks spans msgs as aq aw ac at_ ap, s.reap =
    { s with ctxs := ctxs, buffers := bufs, banks := banks, spans := spans, msgs := msgs, aqis := as, adminQ := aq, adminWait := aw,
             adminComp := ac, adminTail := at_, adminPhase := ap } := by
  obtain ⟨_, _, _, _, _, hdrop⟩ := dropCtxs_rest (s := s) (cs := s.goneCtxs)
  unfold State.reap
  dsimp only
  rw [← State.goneCtxs, hdrop]
  obtain ⟨_, _, _, _, _, _, hend⟩ := endWaits_rest (s := { s with ctxs := _, buffers := _, banks := _, spans := _, msgs := _ }) (ws := s.adminWait)
  exact ⟨_, _, _, _, _, _, _, _, _, _, _, hend⟩

theorem dropCtxs_ctxs {cs : List Nat} (hn : (s.ctxs.map Prod.fst).Nodup) :
    (cs.foldl State.dropCtx s).ctxs = s.ctxs.filter fun z => !decide (z.1 ∈ cs) := by
  induction cs generalizing s with
  | nil => exact (List.filter_eq_self.mpr fun _ _ => by simp).symm
  | cons c cs ih =>
    have hctxs : (s.dropCtx c).ctxs = s.ctxs.filter fun z => !decide (z.1 = c) := adel_eq_filter hn
    have hkeys : ((s.dropCtx c).ctxs.map Prod.fst).Nodup := List.Nodup.sublist (adel_sublist.map _) hn
    rw [List.foldl_cons, ih hkeys, hctxs, List.filter_filter]
    refine List.filter_congr fun z _ => ?_
    simp only [List.mem_cons, Bool.decide_or, Bool.not_or, Bool.and_comm]

/-- What is left of the contexts, where each is listed once. -/
theorem reap_ctxs (hn : (s.ctxs.map Prod.fst).Nodup) : s.reap.ctxs = s.ctxs.filter fun z => !decide (z.1 ∈ s.goneCtxs) := by
  obtain ⟨_, _, _, _, _, _, hend⟩ := endWaits_rest (s := s.goneCtxs.foldl State.dropCtx s) (ws := (s.goneCtxs.foldl State.dropCtx s).adminWait)
  rw [← dropCtxs_ctxs hn]
  unfold State.reap
  dsimp only
  rw [← State.goneCtxs, hend]

theorem reap_ctx (hn : (s.ctxs.map Prod.fst).Nodup) : s.reap.ctx c = if c ∈ s.goneCtxs then none else s.ctx c := by
  rw [State.ctx, reap_ctxs hn, aget_filter_key (p := fun k => !decide (k ∈ s.goneCtxs))]
  by_cases h : c ∈ s.goneCtxs
  · simp [h]
  · simp [h, State.ctx]

end Sys2Proof.Machine

namespace Sys2Proof.Machine

/-! PROOFS. What is read of an object depends on memory and the page tables alone (R159, R164). -/

variable {s u : State} {o : Obj}

/-- A change of the admin queue leaves memory and the page tables. -/
theorem adminQ_tables {q : List Packet} : Tables s { s with adminQ := q } := ⟨rfl, rfl, rfl, rfl, fun _ => rfl⟩

section

variable (h : Tables s u)
include h

theorem Tables.pasidAt {pasid aqi va kind : Nat} : u.pasidAt pasid aqi va kind = s.pasidAt pasid aqi va kind := by
  rw [State.pasidAt, State.pasidAt, h.walk]

theorem Tables.readPasid {pasid aqi : Nat} (f va n : Nat) : u.readPasid pasid aqi f va n = s.readPasid pasid aqi f va n := by
  induction f generalizing va n with
  | zero => rfl
  | succ f ih => simp only [State.readPasid, h.pasidAt, h.readLoc, ih]

theorem Tables.seg {off n : Nat} : u.seg o off n = s.seg o off n := by
  rw [State.seg, State.seg, h.readPasid]

theorem Tables.segBytes {off n : Nat} : u.segBytes o off n = s.segBytes o off n := by
  simp only [State.segBytes, h.seg]

theorem Tables.objCrcOk : u.objCrcOk o = s.objCrcOk o := by
  rw [State.objCrcOk, State.objCrcOk, h.seg, h.seg]

theorem Tables.objHeaderOk : u.objHeaderOk o = s.objHeaderOk o := by
  rw [State.objHeaderOk, State.objHeaderOk, h.seg, h.seg]

theorem Tables.pageGood {page : Nat} : u.pageGood o page = s.pageGood o page := by
  rw [State.pageGood, State.pageGood, State.pageDigest, State.pageDigest, h.segBytes, h.segBytes]

theorem Tables.objSigned : u.objSigned o = s.objSigned o := by
  simp only [State.objSigned, h.seg, h.segBytes]

theorem Tables.aqisOf {pasid : Nat} : u.aqisOf pasid = s.aqisOf pasid := by
  rw [State.aqisOf, State.aqisOf, h.aqis]

theorem Tables.objAtVa {va pasid : Nat} : u.objAtVa va pasid = s.objAtVa va pasid := by
  simp only [State.objAtVa, h.seg, h.aqisOf]

end

end Sys2Proof.Machine

namespace Sys2Proof.Machine

/-! PROOFS. Admin commands that complete in the fc in which they start (R402; log entry 41). -/

variable {s u : State} {p : Packet} {f : State → State} {c : Ctx} {t o : Nat}

theorem adminNow_run {ok : Bool} (ho : s.adminOpen = true) (hp : s.adminQ.head? = some p) (hok : ok = true) :
    s.adminNow p ok f = (f { s with adminQ := s.adminQ.drop 1 }).adminDone (adminTag p) true := by
  rw [State.adminNow, admin_run ho hp, hok, if_pos rfl]

theorem adminNow_gives {i : Instr} {ok : Bool} {P : State → Prop} (ho : s.adminOpen = true) (hp : s.adminQ.head? = some p)
    (he : exec i s = .next (s.adminNow p ok f)) (hok : ok = true)
    (hP : P ((f { s with adminQ := s.adminQ.drop 1 }).adminDone (adminTag p) true)) : Gives i s P :=
  ⟨_, he.trans (congrArg _ (adminNow_run ho hp hok)), hP⟩

theorem admin_gives {i : Instr} {P : State → Prop} (ho : s.adminOpen = true) (hp : s.adminQ.head? = some p)
    (he : exec i s = .next (s.admin p f)) (hP : P (f { s with adminQ := s.adminQ.drop 1 })) : Gives i s P :=
  ⟨_, he.trans (congrArg _ (admin_run ho hp)), hP⟩

/-- The completion entry of an admin command touches the admin completion ring alone (R402). -/
theorem adminDone_rest {tag : AdminTag} {ok : Bool} : ∃ ac at_ ap, s.adminDone tag ok =
    { s with adminComp := ac, adminTail := at_, adminPhase := ap } := ⟨_, _, _, rfl⟩

theorem isVa_of_lt {w : Dbl} (h : w.toNat < 2 ^ 57) : isVa w 1 = true := by
  have htop : w.extractLsb' 57 7 = 0 := BitVec.eq_of_toNat_eq (by
    rw [BitVec.extractLsb'_toNat, Nat.shiftRight_eq_div_pow, Nat.div_eq_of_lt h]
    rfl)
  rw [isVa, htop, Nat.mod_one]
  rfl

/-! ## One counter (R352) -/

theorem freshCounter_mine {lo i : Nat} : (decide (lo ≤ i) && decide (i < lo + 1)) = decide (i = lo) := by
  rw [← Bool.decide_and]
  exact decide_eq_decide.mpr (by omega)

theorem freshCounter_tl {lo n : Nat} : (s.freshCounters lo 1).tl n = if n = lo then 0 else s.tl n := by
  rw [State.tl, State.tl, State.freshCounters]
  dsimp only
  simp only [freshCounter_mine]
  rw [aget_filter_key (p := fun k => !decide (k = lo))]
  by_cases h : n = lo
  · simp [h]
  · simp [h]

theorem freshCounter_tlBad {lo : Nat} : (s.freshCounters lo 1).tlBad lo = false := by
  rw [State.tlBad, State.freshCounters]
  dsimp only
  simp [freshCounter_mine]

/-! ## Objects (R165) -/

/-- An object as it is registered: page 0 of a signed one is verified. -/
def registered (o : Obj) : Obj := if o.signed then { o with verified := [0] } else o

theorem registered_objAtVa {va pasid : Nat} : (registered (s.objAtVa va pasid)).va = va ∧ (registered (s.objAtVa va pasid)).pasid = pasid ∧
    (registered (s.objAtVa va pasid)).tainted = false ∧ (registered (s.objAtVa va pasid)).size = (s.objAtVa va pasid).size := by
  unfold registered
  split
  · exact ⟨rfl, rfl, rfl, rfl⟩
  · exact ⟨rfl, rfl, rfl, rfl⟩

theorem mem_lmod_of_lfind {α : Type} {q : α → Bool} {l : List α} {i : Nat} {a : α} (h : lfind q l = some i) :
    a ∈ lmod i (fun _ => a) l := by
  induction l generalizing i with
  | nil => cases h
  | cons b l ih =>
    rw [lfind] at h
    split at h
    · cases h
      exact List.mem_cons_self
    · obtain ⟨j, hj, rfl⟩ := Option.map_eq_some_iff.mp h
      exact List.mem_cons_of_mem _ (ih hj)

/-! ## Knots, the clock and power (R13, R261, R272) -/

theorem mem_lnub {seen l : List Nat} {a : Nat} : a ∈ lnub seen l ↔ a ∈ l ∧ a ∉ seen := by
  induction l generalizing seen with
  | nil => simp [lnub]
  | cons b l ih =>
    rw [lnub]
    split
    · next h =>
      rw [List.contains_iff_mem] at h
      rw [ih, List.mem_cons]
      exact ⟨fun ⟨hl, hs⟩ => ⟨Or.inr hl, hs⟩, fun ⟨hl, hs⟩ => ⟨hl.resolve_left fun he => hs (he ▸ h), hs⟩⟩
    · next h =>
      rw [List.contains_iff_mem] at h
      rw [List.mem_cons, List.mem_cons, ih, List.mem_cons, not_or]
      constructor
      · rintro (rfl | ⟨hl, -, hs⟩)
        · exact ⟨Or.inl rfl, h⟩
        · exact ⟨Or.inr hl, hs⟩
      · rintro ⟨rfl | hl, hs⟩
        · exact Or.inl rfl
        · by_cases he : a = b
          · exact Or.inl he
          · exact Or.inr ⟨hl, he, hs⟩

/-- A running task that the test picks out pauses (R11). -/
theorem pauseTasks_task_hit {q : Nat → Task → Bool} {k : Task} (hk : s.task t = some k) (hrun : k.status = .running) (hq : q t k = true) :
    (s.pauseTasks q).task t = some { k with status := .pausing, pauseFor := 0, ops := k.ops.map Op.withdrawn } := by
  rw [State.task] at hk
  rw [State.task, State.pauseTasks]
  dsimp only
  rw [aget_avals, hk, Option.map_some]
  exact congrArg some (if_pos (by rw [hrun, hq]; rfl))

theorem setPcuts_rest : ∃ ls, s.setPcuts = { s with launches := ls } :=
  foldl_rel (R := fun s u => ∃ ls, u = { s with launches := ls }) (fun _ => ⟨_, rfl⟩)
    (fun _ _ _ ⟨_, h⟩ ⟨_, h'⟩ => by subst h h'; exact ⟨_, rfl⟩)
    (fun s l => by
      split
      · next x _ =>
        split
        · obtain ⟨f, ⟨-, h⟩ | h⟩ := postCeil_rest (s := s.modLaunch l fun x => { x with pcut := s.power.pcut }) (l := l)
          · exact ⟨_, h⟩
          · exact ⟨_, h⟩
        · exact ⟨_, rfl⟩
      · exact ⟨_, rfl⟩) _ s

theorem setPcuts_power : s.setPcuts.power = s.power := by
  obtain ⟨_, h⟩ := setPcuts_rest (s := s)
  rw [h]

/-- A correction below 1 ms slews the clock. -/
theorem correctClock_slews {off : Int} {src : BitVec 2} (h : off.natAbs < 1000000) : (s.correctClock off src).clock.slew = off * 18000 ∧
    (s.correctClock off src).clock.ns = s.clock.ns ∧ (s.correctClock off src).clock.src = src ∧
    (s.correctClock off src).clock.set = true := by
  have hstep : ¬(decide (off ≥ 1000000) || (decide (off ≤ -1000000) && !s.timedLaunch)) = true := by
    rw [decide_eq_false (by omega), decide_eq_false (by omega)]
    simp
  unfold State.correctClock
  dsimp only
  rw [if_neg hstep]
  exact ⟨rfl, rfl, rfl, rfl⟩

/-- A correction of 1 ms or more steps the clock, backward only while no launch has a deadline. -/
theorem correctClock_steps {off : Int} {src : BitVec 2} (h : 1000000 ≤ off ∨ off ≤ -1000000 ∧ s.timedLaunch = false) :
    (s.correctClock off src).clock.slew = 0 ∧ (s.correctClock off src).clock.ns = s.clock.ns + BitVec.ofInt 64 off ∧
    (s.correctClock off src).clock.src = src := by
  have hstep : (decide (off ≥ 1000000) || (decide (off ≤ -1000000) && !s.timedLaunch)) = true := by
    rcases h with h | ⟨h, ht⟩
    · rw [decide_eq_true (show off ≥ 1000000 from h), Bool.true_or]
    · rw [decide_eq_true h, ht, Bool.true_and, Bool.not_false, Bool.or_true]
  unfold State.correctClock
  dsimp only
  rw [if_pos hstep]
  exact ⟨rfl, by rw [BitVec.ofInt_add, BitVec.ofInt_natCast, BitVec.ofNat_toNat, BitVec.setWidth_eq], rfl⟩

section commands

variable (ho : s.adminOpen = true) (hp : s.adminQ.head? = some p)
include ho hp

/-! ## Contexts and queues -/

theorem createCtx_gives {base : Nat} (hc : newCtx (BitVec.ofNat 1024 (s.readLoc (.host (arg p 1)) 128)) = c) (ha : arg p 0 < 256)
    (hn : s.ctx (arg p 0) = none) (hr : c.recordOk = true) (hw : s.windowFor c.shmLen = some base)
    (hm : ∀ d ∈ s.ctxs, c.meets d.2 = false) : Gives (.createCtx p) s fun s' => s'.ctx (arg p 0) = some { c with shmBase := base } := by
  have hany : (s.ctxs.any fun (d : Nat × Ctx) => c.meets d.2) = false := List.any_eq_false.mpr fun d hd => by simp [hm d hd]
  refine adminNow_gives ho hp rfl ?_ ?_
  · rw [hc]
    simp [ha, hn, hr, hw, hany]
  · rw [hc, hw]
    exact aget_aset_self

theorem createQueue_gives (ha : arg p 0 < 8) (hq : arg p 1 < 64) (hpasid : arg p 2 < 2 ^ 20) (hring : arg p 3 < 2 ^ 57)
    (hcomp : arg p 4 < 2 ^ 57) (hlo : 16 ≤ ((p.dbl 7).extractLsb' 0 32).toNat) (hhi : ((p.dbl 7).extractLsb' 0 32).toNat ≤ 65536)
    (hirq : ((p.dbl 7).extractLsb' 32 32).toNat < 64 ∨ ((p.dbl 7).extractLsb' 32 32).toNat = 2 ^ 32 - 1)
    (hn : s.queue (arg p 0) (arg p 1) = none) : Gives (.createQueue p) s fun s' =>
      ∃ u, s'.queue (arg p 0) (arg p 1) = some u ∧ u.pasid = arg p 2 ∧ u.ring = arg p 3 ∧ u.comp = arg p 4 ∧
        u.size = ((p.dbl 7).extractLsb' 0 32).toNat ∧
        u.irq = (if ((p.dbl 7).extractLsb' 32 32).toNat < 64 then some ((p.dbl 7).extractLsb' 32 32).toNat else none) ∧ u.head = 0 ∧
        u.tail = 0 := by
  have hirq' : (decide (((p.dbl 7).extractLsb' 32 32).toNat < 64) || decide (((p.dbl 7).extractLsb' 32 32).toNat = 2 ^ 32 - 1)) = true := by
    rw [← Bool.decide_or]
    exact decide_eq_true hirq
  refine adminNow_gives ho hp rfl ?_ ?_
  · rw [isVa_of_lt hring, isVa_of_lt hcomp, hirq', decide_eq_true ha, decide_eq_true hq, decide_eq_true hpasid, decide_eq_true hlo,
      decide_eq_true hhi, hn]
    rfl
  · refine ⟨{ pasid := arg p 2, ring := arg p 3, comp := arg p 4, size := ((p.dbl 7).extractLsb' 0 32).toNat, head := 0, tail := 0,
              ctail := 0, phase := true, irq := _ }, ?_, rfl, rfl, rfl, rfl, rfl, rfl, rfl⟩
    show (aget (arg p 0) (aset (arg p 0) _ s.aqis)).bind _ = _
    rw [aget_aset_self]
    exact aget_aset_self

theorem keep_gives (hc : s.ctx (arg p 0) = some c) (hw : arg p 1 < 4) (hva : arg p 2 < 2 ^ 57)
    (hk : s.keepTotal (arg p 0) (arg p 1) + arg p 3 ≤ 2 ^ 29) : Gives (.keep p) s fun s' =>
      ∃ c', s'.ctx (arg p 0) = some c' ∧ (arg p 1, arg p 2, arg p 3) ∈ c'.keeps := by
  refine adminNow_gives ho hp rfl ?_ ?_
  · rw [isVa_of_lt hva, hc]
    rw [decide_eq_true hw, decide_eq_true hk]
    rfl
  · refine ⟨_, modCtx_ctx_self.trans (congrArg _ hc), ?_⟩
    exact List.mem_append_right _ List.mem_cons_self

theorem tlClear_gives (hc : s.hasCounter (arg p 0) (arg p 1) = true) : Gives (.tlClear p) s fun s' =>
    s'.tl (arg p 1) = 0 ∧ s'.tlBad (arg p 1) = false ∧ ∀ n, n ≠ arg p 1 → s'.tl n = s.tl n :=
  adminNow_gives ho hp rfl hc ⟨freshCounter_tl.trans (if_pos rfl), freshCounter_tlBad, fun _ hn => freshCounter_tl.trans (if_neg hn)⟩

/-! ## Objects, knots, clock and power -/

theorem registerObj_gives (hva : arg p 0 < 2 ^ 57) (hpasid : arg p 1 < 2 ^ 20) (hcrc : s.objCrcOk (s.objAtVa (arg p 0) (arg p 1)) = true)
    (hhead : s.objHeaderOk (s.objAtVa (arg p 0) (arg p 1)) = true)
    (hsig : if (s.objAtVa (arg p 0) (arg p 1)).signed then
        s.objSigned (s.objAtVa (arg p 0) (arg p 1)) = true ∧ s.pageGood (s.objAtVa (arg p 0) (arg p 1)) 0 = true
      else ∃ a ∈ s.aqisOf (arg p 1), a.2.unsignedOk = true) : Gives (.registerObj p) s fun s' =>
      ∃ z ∈ s'.objs, z.va = arg p 0 ∧ z.pasid = arg p 1 ∧ z.tainted = false ∧ z.size = (s.objAtVa (arg p 0) (arg p 1)).size := by
  have hok : (if (s.objAtVa (arg p 0) (arg p 1)).signed then
      s.objSigned (s.objAtVa (arg p 0) (arg p 1)) && s.pageGood (s.objAtVa (arg p 0) (arg p 1)) 0
      else (s.aqisOf (arg p 1)).any fun (a : Nat × Aqi) => a.2.unsignedOk) = true := by
    split at hsig
    · next h => rw [if_pos h, hsig.1, hsig.2]; rfl
    · next h => rw [if_neg h]; exact List.any_eq_true.mpr hsig
  refine admin_gives ho hp rfl ⟨registered (s.objAtVa (arg p 0) (arg p 1)), ?_, registered_objAtVa⟩
  have ht : Tables s { s with adminQ := s.adminQ.drop 1 } := adminQ_tables
  dsimp only
  rw [ht.objAtVa, ht.objCrcOk, ht.objHeaderOk, ht.objSigned, ht.pageGood, ht.aqisOf, hok, hcrc, hhead, decide_eq_true hva,
    decide_eq_true hpasid, if_pos (show (true && true && true && true && true) = true from rfl)]
  show registered _ ∈ State.objs _
  split
  · next i hi => exact mem_lmod_of_lfind hi
  · exact List.mem_append_right _ List.mem_cons_self

theorem invalidate_gives (hpasid : arg p 0 < 2 ^ 20) (hva : arg p 1 < 2 ^ 57) : Gives (.invalidate p) s fun s' =>
    s'.tlb = s.tlb.filter fun e => !(e.pasid == arg p 0 && (decide (e.va < arg p 1 + arg p 2) && decide (arg p 1 < e.va + e.size))) := by
  refine admin_gives ho hp rfl ?_
  dsimp only
  rw [if_neg (by rw [isVa_of_lt hva, decide_eq_false (Nat.not_le.mpr hpasid)]; decide)]
  have hdry := foldl_rel Dried.refl (fun _ _ _ => Dried.trans) (f := State.drainAll) (fun s t => drain_dried)
    ((s.tasks.filter fun z => ((s.ctx z.2.lctx).map Ctx.pasid) == some (arg p 0)).map (·.1))
    (({ s with adminQ := s.adminQ.drop 1 } : State).invalidateRange (arg p 0) (arg p 1) (arg p 1 + arg p 2))
  obtain ⟨_, _, _, _, _, _, _, hrest⟩ := hdry.rest
  exact congrArg State.tlb hrest

theorem knotSet_gives (hr : (knotRect p).onDevice = true) : Gives (.knotSet p) s fun s' =>
    (∀ t ∈ (knotRect p).tiles, t ∈ s'.knots) ∧ ∀ t k, s.task t = some k → k.status = .running →
      (∃ i ∈ (knotRect p).tiles, (aget i k.entries).isSome = true) → ∃ k', s'.task t = some k' ∧ k'.status = .pausing := by
  refine adminNow_gives ho hp rfl hr ⟨fun t ht => ?_, fun t k hk hrun hany => ?_⟩
  · exact mem_lnub.mpr ⟨List.mem_append_right _ ht, List.not_mem_nil⟩
  · refine ⟨_, pauseTasks_task_hit hk hrun (List.any_eq_true.mpr hany), rfl⟩

theorem knotClear_gives (hr : (knotRect p).onDevice = true) (hf : ∀ t ∈ (knotRect p).tiles, t ∉ s.flash.fused) :
    Gives (.knotClear p) s fun s' => ∀ t, t ∈ s'.knots ↔ t ∈ s.knots ∧ t ∉ (knotRect p).tiles := by
  refine adminNow_gives ho hp rfl ?_ fun t => ?_
  · have hany : (knotRect p).tiles.any s.flash.fused.contains = false := List.any_eq_false.mpr fun t ht => by
      rw [List.contains_iff_mem]
      exact hf t ht
    rw [hr, hany]
    rfl
  · exact List.mem_filter.trans (by rw [Bool.not_eq_true', Bool.eq_false_iff, Ne, List.contains_iff_mem])

theorem pstep_gives (ha : arg p 0 < 16) : Gives (.pstep p) s fun s' => s'.power = { s.power with adm := BitVec.ofNat 4 (arg p 0) } := by
  refine adminNow_gives ho hp rfl (decide_eq_true ha) ?_
  exact setPcuts_power

theorem clockOffset_gives : 
    ((argD p 0).toInt.natAbs < 1000000 → Gives (.clockOffset p) s fun s' => s'.clock.slew = (argD p 0).toInt * 18000 ∧
      s'.clock.ns = s.clock.ns ∧ s'.clock.src = 2 ∧ s'.clock.set = true) ∧
    (1000000 ≤ (argD p 0).toInt ∨ (argD p 0).toInt ≤ -1000000 ∧ s.timedLaunch = false → Gives (.clockOffset p) s fun s' =>
      s'.clock.slew = 0 ∧ s'.clock.ns = s.clock.ns + BitVec.ofInt 64 (argD p 0).toInt ∧ s'.clock.src = 2) := by
  refine ⟨fun h => adminNow_gives ho hp rfl rfl ?_, fun h => adminNow_gives ho hp rfl rfl ?_⟩
  · exact correctClock_slews (s := { s with adminQ := s.adminQ.drop 1 }) h
  · exact correctClock_steps (s := { s with adminQ := s.adminQ.drop 1 }) h

end commands

end Sys2Proof.Machine

namespace Sys2Proof.Machine

/-! PROOFS. Admin commands that stop, pause, resume and restore (R388, R391, R401, R402, R404, R411; log entry 41). -/

variable {s u : State} {p : Packet} {c : Ctx} {t lctx : Nat}

/-! ## Teardown (R404) -/

/-- A context that is dead after the teardown of those of a record field's value. -/
theorem tearDownAll_dead {cs : List Nat} {w : AdminTag × AdminWait} (hn : (s.ctxs.map Prod.fst).Nodup) {z : Nat × Ctx}
    (hz : z ∈ (s.tearDownAll cs w).ctxs) : (∃ y ∈ s.ctxs, y.1 = z.1 ∧ y.2.record = z.2.record) ∧ (z.1 ∈ cs → z.2.dead = true) := by
  have hdown := tearDown_foldl (s := { s with adminWait := s.adminWait ++ [w] }) (cs := cs) hn
  have hkeys : ((cs.foldl State.tearDown { s with adminWait := s.adminWait ++ [w] }).ctxs.map Prod.fst).Nodup := hdown.keys ▸ hn
  have hmem : z ∈ (cs.foldl State.tearDown { s with adminWait := s.adminWait ++ [w] }).ctxs := by
    rw [State.tearDownAll] at hz
    rw [reap_ctxs hkeys] at hz
    exact (List.mem_filter.mp hz).1
  have hfate : fate z ∈ cs.foldl (fun m c => m.map (doom c)) s.fates := hdown.fates ▸ List.mem_map_of_mem hmem
  obtain ⟨⟨b, hb, -⟩, hdead⟩ := doomAll_dead hfate
  obtain ⟨y, hy, he⟩ := List.mem_map.mp hb
  obtain ⟨h1, h2, -⟩ : y.1 = z.1 ∧ y.2.record = z.2.record ∧ y.2.dead = b := by simpa only [fate, Prod.mk.injEq] using he
  exact ⟨⟨y, hy, h1, h2⟩, hdead⟩

theorem tearDownAll_rest {cs : List Nat} {w : AdminTag × AdminWait} (hn : (s.ctxs.map Prod.fst).Nodup) :
    (s.tearDownAll cs w).revoked = s.revoked ∧ (s.tearDownAll cs w).intake = s.intake := by
  have hdown := tearDown_foldl (s := { s with adminWait := s.adminWait ++ [w] }) (cs := cs) hn
  obtain ⟨_, _, _, _, _, _, _, _, _, _, _, hreap⟩ := reap_rest (s := cs.foldl State.tearDown { s with adminWait := s.adminWait ++ [w] })
  rw [State.tearDownAll, hreap]
  exact ⟨hdown.revoked, hdown.intake⟩

/-- A context that is marked dead, with the command that waits for its end (R402). -/
def State.doomed (s : State) (p : Packet) : State :=
  { s.modCtx (arg p 0) fun c => { c with dead := true } with
    adminQ := s.adminQ.drop 1, adminWait := s.adminWait ++ [(adminTag p, .destroy (arg p 0))] }

theorem doomed_fates (hn : (s.ctxs.map Prod.fst).Nodup) : (s.doomed p).fates = s.fates.map (doom (arg p 0)) :=
  kill_fates (f := fun c => { c with dead := true }) hn fun _ => ⟨rfl, rfl⟩

theorem aget_of_mem {κ α : Type} [DecidableEq κ] {k : κ} {a : α} {m : List (κ × α)} (hn : (m.map Prod.fst).Nodup) (h : (k, a) ∈ m) :
    aget k m = some a := by
  induction m with
  | nil => cases h
  | cons z m ih =>
    obtain ⟨j, y⟩ := z
    rw [List.map_cons, List.nodup_cons] at hn
    rcases List.mem_cons.mp h with he | hm
    · cases he
      exact if_pos rfl
    · rw [aget, if_neg fun hj => hn.1 (List.mem_map.mpr ⟨_, hm, hj.symm⟩)]
      exact ih hn.2 hm

/-- A dead context is freed once it is over. -/
theorem mem_goneCtxs (hn : (s.ctxs.map Prod.fst).Nodup) (hc : s.ctx t = some c) (hd : c.dead = true) :
    t ∈ s.goneCtxs ↔ s.ctxOver t = true := by
  rw [State.goneCtxs, List.mem_map]
  constructor
  · rintro ⟨z, hz, rfl⟩
    exact ((Bool.and_eq_true _ _).mp (List.mem_filter.mp hz).2).2
  · intro ho
    exact ⟨(t, c), List.mem_filter.mpr ⟨mem_of_aget hc, (Bool.and_eq_true _ _).mpr ⟨hd, ho⟩⟩, rfl⟩

theorem flushQueue_sameCtxs {aqi q n : Nat} : (s.flushQueue aqi q n).ctxs = s.ctxs := by
  induction n generalizing s with
  | zero => rfl
  | succ n ih =>
    rw [State.flushQueue]
    split
    · rfl
    · next p _ =>
      obtain ⟨_, _, hnext⟩ := requestNext_rest (s := s) (aqi := aqi) (q := q)
      obtain ⟨_, _, hdone⟩ := (complete_completed (s := s.requestNext aqi q) (aqi := aqi) (q := q) (useq := useqOf p) (status := 3)
        (lctx := Packet.lctx p)).rest
      rw [ih, hdone, hnext]

theorem flushAqi_ctxs {a : Nat} : (s.flushAqi a).ctxs = s.ctxs := by
  unfold State.flushAqi
  exact foldl_rel (R := fun s u => u.ctxs = s.ctxs) (f := fun s (q : Nat × Queue) => s.flushQueue a q.1 q.2.size) (fun _ => rfl)
    (fun _ _ _ h h' => h'.trans h) (fun _ _ => flushQueue_sameCtxs) _ s

theorem flushAqi_intake {a : Nat} : ∀ z ∈ (s.flushAqi a).intake, z.2.1 ≠ a := by
  intro z hz
  have hkeep := (List.mem_filter.mp hz).2
  simpa using hkeep

/-! ## Pauses and resumes -/

theorem pauseCheck_ctx : ((s.pauseCheck lctx).ctx lctx = s.ctx lctx) ∨
    (s.pauseCheck lctx).ctx lctx = (s.ctx lctx).map fun c => { c with pausing := false, paused := true, pauseTag := none } := by
  unfold State.pauseCheck
  cases hc : s.ctx lctx with
  | none => exact Or.inl hc
  | some x =>
    dsimp only
    split
    · exact Or.inl hc
    · right
      rw [← hc]
      cases x.pauseTag with
      | none => exact modCtx_ctx_self
      | some tag => exact modCtx_ctx_self

theorem resumeCheck_ctx : ((s.resumeCheck lctx).ctx lctx = s.ctx lctx) ∨
    (s.resumeCheck lctx).ctx lctx = (s.ctx lctx).map fun c => { c with resumeTag := none } := by
  unfold State.resumeCheck
  split
  · exact Or.inl rfl
  · dsimp only
    split
    · exact Or.inl rfl
    · exact Or.inr modCtx_ctx_self

theorem pauseTakesEffect_ctx : (s.pauseTakesEffect lctx).ctx lctx =
    (s.ctx lctx).map fun c => { c with pausing := true, stopCond := none, stopTask := none } := modCtx_ctx_self

theorem mem_taskInsert {l : List Nat} {a : Nat} : a ∈ s.taskInsert t l ↔ a = t ∨ a ∈ l := by
  induction l with
  | nil => exact List.mem_singleton.trans (by simp)
  | cons b l ih =>
    rw [State.taskInsert]
    split
    · exact List.mem_cons
    · rw [List.mem_cons, ih, List.mem_cons, or_left_comm]

theorem mem_resumeOrder {l m : List Nat} {a : Nat} : a ∈ l.foldl (fun m t => s.taskInsert t m) m ↔ a ∈ l ∨ a ∈ m := by
  induction l generalizing m with
  | nil => simp
  | cons b l ih => rw [List.foldl_cons, ih, mem_taskInsert, List.mem_cons, or_assoc, or_left_comm]

/-! ## Heartwood images (R411) -/

theorem settle_pend : ({ s with flash := s.flash.settle } : State).readFlash.dev.pend = false := by
  show ((s.flash.settle.slot s.flash.settle.newest).map (·.pending)).getD false = false
  generalize s.flash.settle.newest = n
  rcases n with _ | _ | _ | n
  · rfl
  · show ((s.flash.slotA.map _).map _).getD false = false
    cases s.flash.slotA with
    | none => rfl
    | some i => rfl
  · show ((s.flash.slotB.map _).map _).getD false = false
    cases s.flash.slotB with
    | none => rfl
    | some i => rfl
  · rfl

theorem putVaBytes_ctxs {l : List Byte} {va : Nat} : (s.putVaBytes lctx va l).ctxs = s.ctxs := by
  induction l generalizing s va with
  | nil => rfl
  | cons b l ih =>
    rw [State.putVaBytes, ih]
    split
    · rfl
    · rfl

/-- The context of a part as it is restored, where the launches take numbers from `dl` on (R411). -/
def restoredCtx (i : ImgCtx) (dl : Nat) : Ctx :=
  { i.ctx with
    pausing := false, paused := true, pauseTag := none, resumeTag := none, idle := 0, busy := false, stopCond := none, stopTask := none,
    faults := i.ctx.faults.map fun (r : Nat × BitVec 256) => (r.1 + dl, r.2) }

/-- The context of a part that is restored is paused (R411). -/
theorem restorePart_ctx {i : ImgCtx} : ∃ c, (s.restorePart i).ctx i.lctx = some c ∧ c.record = i.ctx.record ∧ c.paused = true ∧
    c.pausing = false := by
  unfold State.restorePart
  dsimp only
  generalize s.findObjs i.objs = r
  obtain ⟨v, objs⟩ := r
  dsimp only
  have hkeep (m : List (Nat × List Byte)) (u : State) : (m.foldl (fun s (k : Nat × List Byte) => s.putVaBytes i.lctx k.1 k.2) u).ctxs = u.ctxs :=
    foldl_rel (R := fun s u => u.ctxs = s.ctxs) (fun _ => rfl) (fun _ _ _ h h' => h'.trans h) (fun _ _ => putVaBytes_ctxs) m u
  have hfsr (m : List (Nat × Launch)) (u : State) : (m.foldl (fun s (z : Nat × Launch) => s.wantFsr z.1) u).ctxs = u.ctxs :=
    foldl_rel (R := fun s u => u.ctxs = s.ctxs) (fun _ => rfl) (fun _ _ _ h h' => h'.trans h)
      (fun s z => by obtain ⟨_, h⟩ := wantFsr_rest (s := s) (l := z.1); rw [h]) m u
  refine ⟨restoredCtx i s.nextLaunch, ?_, rfl, rfl, rfl⟩
  rw [State.ctx, hkeep, hfsr]
  exact aget_aset_self

/-- The memory node of an operator. -/
theorem mnode_iff {o : Nat} {m : Mem} : s.mnode t o = some m ↔ ∃ q, s.op t o = some q ∧ q.kind = .mem m := by
  rw [State.mnode]
  rcases s.op t o with _ | ⟨pl, fa, ff, re, po, hd, fi, k⟩
  · exact ⟨fun h => (nomatch h), fun ⟨_, h, _⟩ => (nomatch h)⟩
  · cases k with
    | mem m' => exact ⟨fun h => ⟨_, rfl, congrArg OpKind.mem (Option.some.inj h)⟩, fun ⟨_, h, hk⟩ => by cases h; cases hk; rfl⟩
    | _ => exact ⟨fun h => (nomatch h), fun ⟨_, h, hk⟩ => by cases h; cases hk⟩

/-- A memory node whose stall waits for a page request that is answered (R329). -/
theorem pageAnswer_stall {q : PageReq} {m : Mem} {x : Stall} {tag : Word} {host retry : Bool}
    (hq : (s.pageReqs.find? fun r => r.tag == tag && r.host == host) = some q) (hm : s.mnode q.t q.o = some m) (hs : m.stall = some x)
    (ht : x.tag = q.tag) (hw : x.waiting = true) : ∃ m', (s.pageAnswer tag host retry).mnode q.t q.o = some m' ∧
      m'.stall = some { x with waiting := false, refused := !retry } := by
  obtain ⟨op, hop, hkind⟩ := mnode_iff.mp hm
  have htag : q.tag = tag := by
    have hfound := List.find?_some hq
    exact eq_of_beq ((Bool.and_eq_true _ _).mp hfound).1
  refine ⟨{ m with stall := m.stall.map fun x => x.answered tag retry }, mnode_iff.mpr ?_, ?_⟩
  · unfold State.pageAnswer
    rw [hq]
    dsimp only
    rw [modOp_op_self]
    refine ⟨_, congrArg (Option.map _) hop, ?_⟩
    dsimp only
    rw [hkind]
  · rw [hs]
    exact congrArg some (if_pos ⟨ht.trans htag, hw⟩)

/-- A context whose PAUSE has been asked for (R388). -/
def State.pauseAsked (s : State) (p : Packet) : State :=
  { s.modCtx (arg p 0) fun c => { c with pauseTag := some (adminTag p) } with
    adminQ := s.adminQ.drop 1, adminWait := s.adminWait ++ [(adminTag p, .pause (arg p 0))] }

/-- A context that is resumed, with the paused tasks that ask for their re-placement in the order of R376 (R391). -/
def State.resumeAsked (s : State) (p : Packet) : State :=
  let paused := (s.tasks.filter fun z => z.2.lctx == arg p 0 && z.2.status == .paused).map (·.1)
  let free : Nat → Launch → Launch := fun _ l => if l.lctx == arg p 0 then { l with paused := false } else l
  let u := { s with adminQ := s.adminQ.drop 1 }
  { u.modCtx (arg p 0) fun c => { c with paused := false, resumeTag := some (adminTag p) } with
    launches := avals free s.launches, requests := s.requests ++ (paused.foldl (fun l t => u.taskInsert t l) []).map PReq.again,
    adminWait := s.adminWait ++ [(adminTag p, .resume (arg p 0))] }

section commands

variable (ho : s.adminOpen = true) (hp : s.adminQ.head? = some p)
include ho hp

/-! ## The commands -/

theorem destroyCtx_gives (hn : (s.ctxs.map (·.1)).Nodup) (hc : s.ctx (arg p 0) = some c) (hd : c.dead = false) :
    (s.ctxOver (arg p 0) = true → Gives (.destroyCtx p) s fun s' => s'.ctx (arg p 0) = none) ∧
    (s.ctxOver (arg p 0) = false → Gives (.destroyCtx p) s fun s' => ∃ c', s'.ctx (arg p 0) = some c' ∧ c'.dead = true) := by
  have hrun : exec (.destroyCtx p) s = .next (s.doomed p).reap := by
    refine (congrArg Host.Outcome.next (admin_run ho hp)).trans (congrArg Host.Outcome.next (if_neg ?_))
    have hlive : (!(((s.ctx (arg p 0)).map fun c => !c.dead).getD false)) = false := by rw [hc, Option.map_some, hd]; rfl
    exact fun h => absurd (hlive.symm.trans h) (by decide)
  have hkeys : ((s.doomed p).ctxs.map Prod.fst).Nodup := by
    rw [← fates_keys, doomed_fates hn, doom_keys, fates_keys]
    exact hn
  have hctx : (s.doomed p).ctx (arg p 0) = some { c with dead := true } :=
    modCtx_ctx_self.trans (congrArg (Option.map fun c : Ctx => { c with dead := true }) hc)
  have hgone : arg p 0 ∈ (s.doomed p).goneCtxs ↔ s.ctxOver (arg p 0) = true := mem_goneCtxs hkeys hctx rfl
  refine ⟨fun h => ⟨_, hrun, ?_⟩, fun h => ⟨_, hrun, ?_⟩⟩
  · exact (reap_ctx hkeys).trans (if_pos (hgone.mpr h))
  · exact ⟨_, (reap_ctx hkeys).trans ((if_neg (by rw [hgone, h]; decide)).trans hctx), rfl⟩

theorem revokePasid_gives (hn : (s.ctxs.map (·.1)).Nodup) (ha : arg p 0 < 8) (hpasid : arg p 1 < 2 ^ 20)
    (he : s.owesEnd (s.ofPasid (arg p 1)) = false) : Gives (.revokePasid p) s fun s' => arg p 1 ∈ s'.revoked := by
  refine admin_gives ho hp (if_neg (by rw [he]; decide)) ?_
  rw [if_neg (by rw [decide_eq_false (Nat.not_le.mpr ha), decide_eq_false (Nat.not_le.mpr hpasid)]; decide)]
  refine Eq.mpr (congrArg (arg p 1 ∈ ·) (tearDownAll_rest ?_).1) ?_
  · exact hn
  dsimp only
  split
  · next h => exact List.contains_iff_mem.mp h
  · exact List.mem_cons_self

theorem aqiReset_gives (hn : (s.ctxs.map (·.1)).Nodup) (ha : arg p 0 < 8) (he : s.owesEnd (s.ofAqi (arg p 0)) = false) :
    Gives (.aqiReset p) s fun s' => (∀ c x, s'.ctx c = some x → x.aqi = arg p 0 → x.dead = true) ∧ ∀ z ∈ s'.intake, z.2.1 ≠ arg p 0 := by
  refine admin_gives ho hp (if_neg (by rw [he]; decide)) ?_
  rw [if_neg (Nat.not_le.mpr ha)]
  have hkeys : ((({ s with adminQ := s.adminQ.drop 1 } : State).flushAqi (arg p 0)).ctxs.map Prod.fst).Nodup := by
    rw [flushAqi_ctxs]
    exact hn
  refine ⟨fun c x hx haqi => ?_, fun z hz => ?_⟩
  · obtain ⟨⟨y, hy, hkey, hrec⟩, hdead⟩ := tearDownAll_dead hkeys (mem_of_aget hx)
    rw [flushAqi_ctxs] at hy
    refine hdead (List.mem_map.mpr ⟨y, List.mem_filter.mpr ⟨hy, ?_⟩, hkey⟩)
    rw [beq_iff_eq, ← haqi, Ctx.aqi, Ctx.aqi, Ctx.field, Ctx.field, hrec]
  · rw [(tearDownAll_rest hkeys).2] at hz
    exact flushAqi_intake z hz

/-! ## Page requests, pauses and resumes -/

theorem pageReply_gives {q : PageReq} {m : Mem} {x : Stall} (ha : arg p 1 ≤ 1)
    (hq : (s.pageReqs.find? fun q => q.tag == (argD p 0).extractLsb' 0 32 && q.host == false) = some q) (hm : s.mnode q.t q.o = some m)
    (hs : m.stall = some x) (ht : x.tag = q.tag) (hw : x.waiting = true) : Gives (.pageReply p) s fun s' => ∃ m', s'.mnode q.t q.o = some m' ∧
      m'.stall = some { x with waiting := false, refused := decide (arg p 1 = 1) } := by
  refine adminNow_gives ho hp rfl (decide_eq_true ha) ?_
  obtain ⟨m', hm', hs'⟩ := pageAnswer_stall (s := { s with adminQ := s.adminQ.drop 1 }) (retry := decide (arg p 1 = 0)) hq hm hs ht hw
  refine ⟨m', hm', hs'.trans ?_⟩
  have hretry : (!decide (arg p 1 = 0)) = decide (arg p 1 = 1) := by
    rw [← decide_not]
    exact decide_eq_decide.mpr (by omega)
  rw [hretry]

theorem pause_gives (hc : s.ctx (arg p 0) = some c) (hd : c.dead = false) (ht : c.pauseTag = none) (hf : s.saveFits (arg p 0) c = true)
    (hb : (argD p 1).getLsbD 63 = false) : Gives (.pause p) s fun s' =>
      (∃ c', s'.ctx (arg p 0) = some c' ∧ (c'.pausing = true ∨ c'.paused = true)) ∧
      ∀ t k, s.task t = some k → k.lctx = arg p 0 → k.status = .running →
        ∃ k', s'.task t = some k' ∧ k'.status = .pausing ∧ k'.pauseFor = 0 := by
  have hok : (!c.dead && c.pauseTag.isNone && s.saveFits (arg p 0) c && true) = true := by
    rw [hd, ht, hf]
    rfl
  have hrun : exec (.pause p) s = .next (((s.pauseAsked p).pauseTakesEffect (arg p 0)).pauseCheck (arg p 0)) := by
    refine (congrArg Host.Outcome.next (admin_run ho hp)).trans ?_
    dsimp only
    rw [show State.ctx { s with adminQ := s.adminQ.drop 1 } (arg p 0) = some c from hc, hb]
    exact congrArg Host.Outcome.next (if_neg fun h => absurd (hok.symm.trans ((Bool.not_eq_true' _).mp h)) (by decide))
  refine ⟨_, hrun, ?_, fun t k hk hl hrun => ?_⟩
  · have hctx : ((s.pauseAsked p).pauseTakesEffect (arg p 0)).ctx (arg p 0) =
        some { c with pauseTag := some (adminTag p), pausing := true, stopCond := none, stopTask := none } := by
      rw [pauseTakesEffect_ctx]
      exact congrArg (Option.map _) (modCtx_ctx_self.trans (congrArg (Option.map _) hc))
    rcases pauseCheck_ctx (s := (s.pauseAsked p).pauseTakesEffect (arg p 0)) (lctx := arg p 0) with he | he
    · exact ⟨_, he.trans hctx, Or.inl rfl⟩
    · exact ⟨_, he.trans (congrArg (Option.map _) hctx), Or.inr rfl⟩
  · obtain ⟨_, _, _, _, _, hrest⟩ := pauseCheck_rest (s := (s.pauseAsked p).pauseTakesEffect (arg p 0)) (c := arg p 0)
    refine ⟨{ k with status := .pausing, pauseFor := 0, ops := k.ops.map Op.withdrawn }, ?_, rfl, rfl⟩
    rw [hrest]
    exact pauseTasks_task_hit (s := s.pauseAsked p) hk hrun (beq_iff_eq.mpr hl)

theorem resume_gives (hc : s.ctx (arg p 0) = some c) (hd : c.dead = false) (hpausing : c.pausing = false) (ht : c.resumeTag = none) :
    Gives (.resume p) s fun s' => (∃ c', s'.ctx (arg p 0) = some c' ∧ c'.paused = false) ∧
      ∀ z ∈ s.tasks, z.2.lctx = arg p 0 → z.2.status = .paused → .again z.1 ∈ s'.requests := by
  have hok : (c.dead || c.resumeTag.isSome) = false := by
    rw [hd, ht]
    rfl
  have hpause : ((s.ctx (arg p 0)).map (·.pausing)).getD false = false := by
    rw [hc]
    exact hpausing
  have hrun : exec (.resume p) s = .next ((s.resumeAsked p).resumeCheck (arg p 0)) := by
    refine (if_neg (by rw [hpause]; decide)).trans ((congrArg Host.Outcome.next (admin_run ho hp)).trans ?_)
    dsimp only
    rw [show State.ctx { s with adminQ := s.adminQ.drop 1 } (arg p 0) = some c from hc]
    exact congrArg Host.Outcome.next (if_neg (by rw [hok]; decide))
  refine ⟨_, hrun, ?_, fun z hz hl hs => ?_⟩
  · have hctx : (s.resumeAsked p).ctx (arg p 0) = some { c with paused := false, resumeTag := some (adminTag p) } :=
      modCtx_ctx_self.trans (congrArg (Option.map _) hc)
    rcases resumeCheck_ctx (s := s.resumeAsked p) (lctx := arg p 0) with he | he
    · exact ⟨_, he.trans hctx, rfl⟩
    · exact ⟨_, he.trans (congrArg (Option.map _) hctx), rfl⟩
  · obtain ⟨_, _, _, _, _, hrest⟩ := resumeCheck_rest (s := s.resumeAsked p) (lctx := arg p 0)
    rw [hrest]
    refine List.mem_append_right _ (List.mem_map_of_mem (mem_resumeOrder.mpr (Or.inl ?_)))
    exact List.mem_map_of_mem (List.mem_filter.mpr ⟨hz, by rw [hl, hs]; simp⟩)

/-! ## Restoring (R411) -/

theorem restore_none (ha : arg p 0 = 0) : Gives (.restore p) s fun s' => s'.dev.pend = false ∧ s'.tasks = s.tasks := by
  refine admin_gives ho hp rfl ?_
  dsimp only
  rw [if_pos ha]
  exact ⟨settle_pend, rfl⟩

theorem restore_one {img : Image} {i : ImgCtx} (ha : arg p 0 = 1 ∨ arg p 0 = 2) (hs : s.flash.slot (arg p 0) = some img)
    (hv : img.valid = true) (hi : img.ctxs = [i]) (hg : i.good = true) (hl : s.partLive i = false) :
    Gives (.restore p) s fun s' => ∃ c, s'.ctx i.lctx = some c ∧ c.record = i.ctx.record ∧ c.paused = true ∧ c.pausing = false := by
  refine admin_gives ho hp rfl ?_
  dsimp only
  rw [if_neg (show ¬arg p 0 = 0 by omega), if_neg (show ¬arg p 0 = 3 by omega), hs]
  dsimp only
  have hrun : (decide (arg p 0 > 3) || !img.valid || img.ctxs.any ({ s with adminQ := s.adminQ.drop 1 } : State).partLive) = false := by
    rw [decide_eq_false (by omega), hv, hi]
    show (false || false || (s.partLive i || false)) = false
    rw [hl]
    rfl
  rw [if_neg (by rw [hrun]; decide), hi, List.foldl_cons, List.foldl_nil, if_pos hg]
  exact restorePart_ctx

end commands

end Sys2Proof.Machine

namespace Sys2Proof.Machine

/-! PROOFS. The admin commands (R402). -/

/-- Settles O56: each command at the head of the admin queue runs on the state without its packet. What stays of the contexts after a
teardown follows from the list of their records, which the cancellations of launches leave as it is. -/
theorem adminCommands : Obligations.AdminCommands := by
  unfold Obligations.AdminCommands
  intro s p ho hp hn
  dsimp only
  refine ⟨fun base ha hc hr hw hm => createCtx_gives ho hp rfl ha hc hr hw hm, fun c hc hd => destroyCtx_gives ho hp hn hc hd,
    createQueue_gives ho hp, fun ha hpasid => ⟨fun he => if_pos he, revokePasid_gives ho hp hn ha hpasid⟩, registerObj_gives ho hp,
    invalidate_gives ho hp, fun q m x ha hq hm hs ht hw => pageReply_gives ho hp ha hq hm hs ht hw,
    fun c hc hd ht hf hb => pause_gives ho hp hc hd ht hf hb, fun c hc hd hpausing ht => resume_gives ho hp hc hd hpausing ht,
    knotSet_gives ho hp, knotClear_gives ho hp, pstep_gives ho hp, clockOffset_gives ho hp,
    fun ha => ⟨fun he => if_pos he, aqiReset_gives ho hp hn ha⟩, restore_none ho hp,
    fun img i ha hs hv hi hg hl => restore_one ho hp ha hs hv hi hg hl, fun c hc hw hva hk => keep_gives ho hp hc hw hva hk,
    tlClear_gives ho hp⟩

end Sys2Proof.Machine

namespace Sys2Proof.Machine

/-! PROOFS. The deadline clock, the power manager, notify writes and the management space (R260, R261, R272 to R275, R397, R408). -/

variable {s u : State} {k n i : Nat} {v : Dbl}

/-! ## The next fc (R260) -/

theorem pushSpawnReplies_rest : ∃ ts cs rs, s.pushSpawnReplies = { s with tasks := ts, ctxs := cs, spawnReplies := rs } :=
  foldl_rel (R := fun s u => ∃ ts cs rs, u = { s with tasks := ts, ctxs := cs, spawnReplies := rs }) (fun _ => ⟨_, _, _, rfl⟩)
    (fun _ _ _ ⟨_, _, _, h⟩ ⟨_, _, _, h'⟩ => by subst h h'; exact ⟨_, _, _, rfl⟩)
    (fun s z => by
      split
      · next v hv =>
        obtain ⟨_, _, rfl⟩ := pushReply_tasksOnly hv
        exact ⟨_, _, _, rfl⟩
      · exact ⟨_, _, _, rfl⟩) s.spawnReplies s

theorem endInvalidations_rest : ∃ aw ac at_ ap, s.endInvalidations =
    { s with adminWait := aw, adminComp := ac, adminTail := at_, adminPhase := ap } :=
  foldl_rel (R := fun s u => ∃ aw ac at_ ap, u = { s with adminWait := aw, adminComp := ac, adminTail := at_, adminPhase := ap })
    (fun _ => ⟨_, _, _, _, rfl⟩) (fun _ _ _ ⟨_, _, _, _, h⟩ ⟨_, _, _, _, h'⟩ => by subst h h'; exact ⟨_, _, _, _, rfl⟩)
    (fun s w => by
      split
      · split
        · exact ⟨_, _, _, _, rfl⟩
        · exact ⟨_, _, _, _, rfl⟩
      · exact ⟨_, _, _, _, rfl⟩) s.adminWait s

theorem sendHeldIrqs_rest : ∃ m as, s.sendHeldIrqs = { s with mem := m, aqis := as } := by
  obtain ⟨m, h⟩ := foldl_rel (R := fun s u => ∃ m, u = { s with mem := m }) (f := State.sendIrq) (fun _ => ⟨_, rfl⟩)
    (fun _ _ _ ⟨_, h⟩ ⟨_, h'⟩ => by subst h h'; exact ⟨_, rfl⟩) (fun _ _ => ⟨_, rfl⟩)
    ((s.aqis.flatMap fun (a : Nat × Aqi) => a.2.irqs.map (·.2)).filter irqHeld) s
  unfold State.sendHeldIrqs
  dsimp only
  rw [h]
  exact ⟨_, _, rfl⟩

theorem clockAdvance_gives (h : s.fcOwes = false) : Gives .deadlineClockAdvance s fun s' => s'.fc = s.fc + 1 ∧
    s'.clock = s.clock.tick s.power.fcLen ∧
    ∀ k, k < s.cores.length → (s'.core k).cycle = (s.core k).cycle + BitVec.ofNat 64 (s.power.coreCycles s.fc) := by
  obtain ⟨_, _, _, hpush⟩ := pushSpawnReplies_rest (s := s.nextFc)
  obtain ⟨_, _, _, _, hend⟩ := endInvalidations_rest (s := s.nextFc.pushSpawnReplies)
  obtain ⟨_, _, hsend⟩ := sendHeldIrqs_rest (s := s.nextFc.pushSpawnReplies.endInvalidations)
  rw [hend, hpush] at hsend
  refine ⟨_, congrArg Host.Outcome.next (if_neg (by rw [h]; decide)), ?_⟩
  rw [hend, hpush, hsend]
  refine ⟨rfl, rfl, fun k hk => ?_⟩
  show ((s.cores.map _).getD k resetCore).cycle = (s.cores.getD k resetCore).cycle + _
  simp [List.getD_eq_getElem?_getD, List.getElem?_map, List.getElem?_eq_getElem hk]

/-! ## Power (R272 to R275) -/

theorem setPcuts_gives {i : Instr} {pw : Power} (h : exec i s = .next ({ s with power := pw } : State).setPcuts) :
    Gives i s fun s' => s'.power = pw := ⟨_, h, setPcuts_power⟩

/-! ## The management space (R408) -/

/-- A double of the window of a control core. -/
theorem coreWindow_offset {r : Nat} (hk : k < 16) (hr : r < 0x1000) (h8 : r % 8 = 0) :
    (BitVec.ofNat 64 (0x900000 + 0x1000 * k + r)).toNat = 0x900000 + 0x1000 * k + r ∧
    (0x900000 + 0x1000 * k + r) % 8 = 0 ∧ (0x900000 + 0x1000 * k + r - 0x900000) / 0x1000 = k ∧ (0x900000 + 0x1000 * k + r) % 0x1000 = r := by
  refine ⟨?_, by omega, by omega, by omega⟩
  rw [BitVec.toNat_ofNat, Nat.mod_eq_of_lt (by omega)]

theorem mgmtWritable_core {r : Nat} (hk : k < 16) (hr : r < 0x480) (h8 : r % 8 = 0) : mgmtWritable (0x900000 + 0x1000 * k + r) = true := by
  obtain ⟨-, hmod, -, hwin⟩ := coreWindow_offset hk (show r < 0x1000 by omega) h8
  rw [mgmtWritable, hwin, decide_eq_true (show 0x900000 ≤ 0x900000 + 0x1000 * k + r by omega),
    decide_eq_true (show 0x900000 + 0x1000 * k + r < 0x910000 by omega), decide_eq_true hmod, decide_eq_true hr]
  rfl

/-- A write of a double of the window of a control core. -/
theorem exec_mgmtWrite {r : Nat} (hk : k < 16) (hr : r < 0x480) (h8 : r % 8 = 0) :
    exec (.mgmtRegisterWrite (BitVec.ofNat 64 (0x900000 + 0x1000 * k + r)) v) s =
      .next (if r < 0x400 then
          s.modCore k fun c => { c with tmpls := lmod (r / 0x40) (fun m => { m with image := Packet.setDbl m.image (r / 8 % 8) v }) c.tmpls }
        else s.modCore k fun c => { c with tmpls := lmod ((r - 0x400) / 8) (fun m => { m with desc := descBits v }) c.tmpls }) := by
  obtain ⟨hnat, hmod, hcore, hwin⟩ := coreWindow_offset hk (show r < 0x1000 by omega) h8
  refine congrArg Host.Outcome.next ?_
  rw [hnat, if_pos hmod, State.mgmtWrite, if_pos (mgmtWritable_core hk hr h8), hcore, hwin]
  by_cases h : r < 0x400
  · rw [if_pos h, if_pos h]
  · rw [if_neg h, if_neg h, if_pos hr]

theorem templateWrite_gives (hk : k < 16) (hc : k < s.cores.length) (hn : n < 16) (hi : i < 8) :
    Gives (.mgmtRegisterWrite (BitVec.ofNat 64 (0x900000 + 0x1000 * k + 0x40 * n + 8 * i)) v) s fun s' =>
      (s'.core k).tmpls[n]? = ((s.core k).tmpls[n]?).map fun m => { m with image := Packet.setDbl m.image i v } := by
  have hrun := exec_mgmtWrite (s := s) (v := v) hk (r := 0x40 * n + 8 * i) (by omega) (by omega)
  rw [if_pos (by omega), show (0x40 * n + 8 * i) / 0x40 = n by omega, show (0x40 * n + 8 * i) / 8 % 8 = i by omega, ← Nat.add_assoc] at hrun
  refine ⟨_, hrun, ?_⟩
  dsimp only
  rw [modCore_core_self hc]
  exact getElem?_lmod_self

theorem descriptorWrite_gives (hk : k < 16) (hc : k < s.cores.length) (hn : n < 16) :
    Gives (.mgmtRegisterWrite (BitVec.ofNat 64 (0x900000 + 0x1000 * k + 0x400 + 8 * n)) v) s fun s' =>
      (s'.core k).tmpls[n]? = ((s.core k).tmpls[n]?).map fun m => { m with desc := descBits v } := by
  have hrun := exec_mgmtWrite (s := s) (v := v) hk (r := 0x400 + 8 * n) (by omega) (by omega)
  rw [if_neg (by omega), show (0x400 + 8 * n - 0x400) / 8 = n by omega, ← Nat.add_assoc] at hrun
  refine ⟨_, hrun, ?_⟩
  dsimp only
  rw [modCore_core_self hc]
  exact getElem?_lmod_self

/-! ## Notify writes (R397) -/

theorem notifyWrite_gives {aqi q : Nat} {y : Queue} (hy : s.queue aqi q = some y) (hp : y.pasid = (v.extractLsb' 44 20).toNat)
    (hr : s.revoked.contains y.pasid = false) : Gives (.notifyWrite aqi q v) s fun s' => s'.queue aqi q = some { y with tail :=
      if y.head + y.size < (v.extractLsb' 0 32).toNat then (v.extractLsb' 0 32).toNat % y.size else (v.extractLsb' 0 32).toNat } := by
  have hrun : exec (.notifyWrite aqi q v) s = .next (s.modQueue aqi q fun y => { y with tail := y.notified (v.extractLsb' 0 32).toNat }) := by
    show execNotifyWrite aqi q v s = _
    rw [execNotifyWrite, hy]
    exact if_pos ⟨hp, by rw [← hp, hr]; rfl⟩
  refine ⟨_, hrun, ?_⟩
  dsimp only
  rw [modQueue_queue, hy]
  rfl

/-- Settles O59: each step runs on the state as it is. The steps that follow the next fc change no core, and the power cuts of
launches change no lever. -/
theorem clocksAndPower : Obligations.ClocksAndPower := by
  unfold Obligations.ClocksAndPower
  intro s
  refine ⟨fun h => congrArg Host.Outcome.next (if_pos h), clockAdvance_gives,
    fun off => ⟨fun h => ⟨_, rfl, correctClock_slews h⟩, fun h => ⟨_, rfl, correctClock_steps h⟩⟩, fun level => setPcuts_gives rfl,
    fun draw => ⟨fun h => ⟨_, congrArg Host.Outcome.next (if_pos h), rfl⟩, fun h h' => setPcuts_gives (congrArg Host.Outcome.next (if_pos ⟨h, h'⟩)),
      fun h h' => setPcuts_gives (congrArg Host.Outcome.next (if_pos ⟨h, h'⟩))⟩,
    fun stack pc hl hs hpc ht hd => ⟨_, congrArg Host.Outcome.next (if_pos ⟨hl, hs, hpc, ht, ?_⟩), rfl⟩,
    fun aqi q v y hy hp hr => notifyWrite_gives hy hp hr,
    fun k n i v hk hc hn hi => ⟨templateWrite_gives hk hc hn hi, descriptorWrite_gives hk hc hn⟩,
    fun tag ok q m x hq hm hs ht hw => ⟨_, rfl, pageAnswer_stall hq hm hs ht hw⟩⟩
  rw [Bool.not_eq_true', Bool.eq_false_iff, Ne, List.contains_iff_mem]
  exact hd

end Sys2Proof.Machine

namespace Sys2Proof.Machine

/-! PROOFS. What the final states of tasks and the records of faults leave unchanged (R364, R365, R367, R374, R383). -/

variable {s u v : State} {l lctx va t : Nat} {k : Task}

/-! ## Final states (R364, R367) -/

/-- From `s` to `u` tasks have reached their final states: memory, the ready queue, the counters and the launches have changed at
most, and each launch stands. -/
structure Finished (s u : State) : Prop where
  rest : ∃ m pw id rd ls tl, u = { s with mem := m, power := pw, nextId := id, ready := rd, launches := ls, timeline := tl }
  launches : ∀ l, (u.launch l).isSome = (s.launch l).isSome

theorem Finished.refl (s : State) : Finished s s := ⟨⟨_, _, _, _, _, _, rfl⟩, fun _ => rfl⟩

theorem Finished.trans (h : Finished s u) (h' : Finished u v) : Finished s v := by
  refine ⟨?_, fun l => (h'.launches l).trans (h.launches l)⟩
  obtain ⟨_, _, _, _, _, _, rfl⟩ := h.rest
  obtain ⟨_, _, _, _, _, _, rfl⟩ := h'.rest
  exact ⟨_, _, _, _, _, _, rfl⟩

theorem setTcb_finished {off : Nat} {w : Dbl} : Finished s (s.setTcb lctx va off w) := by
  obtain ⟨_, _, h⟩ := setTcb_rest (s := s) (lctx := lctx) (va := va) (off := off) (w := w)
  exact ⟨⟨_, _, _, _, _, _, h⟩, fun l => by rw [h]; rfl⟩

theorem launch_amod_isSome {j : Nat} {f : Launch → Launch} : ((s.modLaunch l f).launch j).isSome = (s.launch j).isSome := by
  by_cases h : j = l
  · rw [h, modLaunch_launch_self, Option.isSome_map]
  · rw [State.launch, modLaunch_launches, aget_amod_other h]
    rfl

theorem modLaunch_finished {f : Launch → Launch} : Finished s (s.modLaunch l f) :=
  ⟨⟨_, _, _, _, _, _, rfl⟩, fun _ => launch_amod_isSome⟩

theorem setReady_finished {rd : List Ready} : Finished s { s with ready := rd } := ⟨⟨_, _, _, _, _, _, rfl⟩, fun _ => rfl⟩

theorem bumpId_finished : Finished s s.bumpId := ⟨⟨_, _, _, _, _, _, rfl⟩, fun _ => rfl⟩

theorem endSignal_finished : Finished s (s.endSignal lctx va) := by
  obtain ⟨_, h⟩ := endSignal_rest (s := s) (lctx := lctx) (va := va)
  exact ⟨⟨_, _, _, _, _, _, h⟩, fun l => by rw [h]; rfl⟩

theorem enterReady_finished : Finished s (s.enterReady l va) := by
  unfold State.enterReady
  cases s.launch l with
  | none => exact Finished.refl s
  | some x => exact setTcb_finished.trans (bumpId_finished.trans (setTcb_finished.trans (modLaunch_finished.trans setReady_finished)))

theorem predEnded_finished {st : Nat} {res : Dbl} : Finished s (s.predEnded l va st res).1 := by
  unfold State.predEnded
  cases s.launch l with
  | none => exact Finished.refl s
  | some x =>
    dsimp only
    split
    · split
      · split
        · exact setTcb_finished.trans enterReady_finished
        · exact setTcb_finished
      · exact Finished.refl s
    · split
      · split
        · exact Finished.refl s
        · exact Finished.refl s
      · split
        · exact Finished.refl s
        · exact Finished.refl s

theorem predEndedAll_finished {st : Nat} {res : Dbl} {vs : List Nat} {out : List (Nat × Nat × Dbl)} :
    Finished s (s.predEndedAll l st res vs out).1 := by
  induction vs generalizing s out with
  | nil => exact Finished.refl s
  | cons va vs ih =>
    have hva := predEnded_finished (s := s) (l := l) (va := va) (st := st) (res := res)
    rw [State.predEndedAll]
    split
    · next u e he => exact (he ▸ hva).trans ih
    · next u he => exact (he ▸ hva).trans ih

theorem finishAll_finished {n : Nat} {ends : List (Nat × Nat × Dbl)} : Finished s (s.finishAll l n ends) := by
  induction n generalizing s ends with
  | zero => exact Finished.refl s
  | succ n ih =>
    rcases ends with _ | ⟨⟨va, st, res⟩, rest⟩
    · exact Finished.refl s
    · rw [State.finishAll]
      cases s.launch l with
      | none => exact Finished.refl s
      | some x =>
        dsimp only
        split
        · exact ih
        · refine Finished.trans (setTcb_finished.trans (setTcb_finished.trans (setReady_finished.trans (endSignal_finished.trans
            (modLaunch_finished.trans modLaunch_finished))))) (Finished.trans predEndedAll_finished ih)

theorem finish_finished {st : Nat} {res : Dbl} : Finished s (s.finish l va st res) := finishAll_finished

/-! ## Records of faults (R374, R383) -/

/-- From `s` to `u` a fault record has been queued or lost: each launch stands. -/
structure Recorded (s u : State) : Prop where
  rest : ∃ id cs ls q nt, u = { s with nextId := id, ctxs := cs, launches := ls, fsrQueue := q, notices := nt }
  launches : ∀ l, (u.launch l).isSome = (s.launch l).isSome

theorem wantFsr_recorded : Recorded s (s.wantFsr l) := by
  obtain ⟨_, h⟩ := wantFsr_rest (s := s) (l := l)
  exact ⟨⟨_, _, _, _, _, h⟩, fun l => by rw [h]; rfl⟩

theorem queueRecord_recorded {es : List (BitVec 256)} : Recorded s (s.queueRecord lctx l es) := by
  unfold State.queueRecord
  cases s.ctx lctx with
  | none => exact ⟨⟨_, _, _, _, _, rfl⟩, fun _ => rfl⟩
  | some c =>
    dsimp only
    split
    · obtain ⟨_, h⟩ := wantFsr_rest (l := l) (s := (s.bumpId.modCtx lctx fun c => { c with faults := c.faults ++ es.map fun e => (l, e) }).modLaunch l
        fun x => { x with recs := x.recs ++ es.map fun _ => s.nextId })
      refine ⟨⟨_, _, _, _, _, h⟩, fun j => ?_⟩
      rw [h]
      exact launch_amod_isSome (s := s.bumpId.modCtx lctx fun c => { c with faults := c.faults ++ es.map fun e => (l, e) })
    · exact ⟨⟨_, _, _, _, _, rfl⟩, fun _ => rfl⟩

/-! ## Tasks that stop (R383) -/

/-- From `s` to `u` each task stands, and one that was stopping still is; each launch stands. -/
structure StillStopping (s u : State) : Prop where
  tasks : ∀ t k, s.task t = some k → ∃ k', u.task t = some k' ∧ (k.status = .stopping → k'.status = .stopping)
  launches : ∀ l, (u.launch l).isSome = (s.launch l).isSome

theorem StillStopping.refl (s : State) : StillStopping s s := ⟨fun _ k h => ⟨k, h, id⟩, fun _ => rfl⟩

theorem StillStopping.trans (h : StillStopping s u) (h' : StillStopping u v) : StillStopping s v := by
  refine ⟨fun t k hk => ?_, fun l => (h'.launches l).trans (h.launches l)⟩
  obtain ⟨k', hk', hs⟩ := h.tasks t k hk
  obtain ⟨k'', hk'', hs'⟩ := h'.tasks t k' hk'
  exact ⟨k'', hk'', fun hst => hs' (hs hst)⟩

theorem StillStopping.of_tasks (h : u.tasks = s.tasks) (hl : ∀ l, (u.launch l).isSome = (s.launch l).isSome) : StillStopping s u :=
  ⟨fun t k hk => ⟨k, by rw [State.task, h]; exact hk, id⟩, hl⟩

theorem Finished.still (h : Finished s u) : StillStopping s u :=
  .of_tasks (by obtain ⟨_, _, _, _, _, _, rfl⟩ := h.rest; rfl) h.launches

theorem Recorded.still (h : Recorded s u) : StillStopping s u :=
  .of_tasks (by obtain ⟨_, _, _, _, _, rfl⟩ := h.rest; rfl) h.launches

theorem ctxCheck_still : StillStopping s (s.ctxCheck lctx) := by
  obtain ⟨_, _, _, _, _, h⟩ := ctxCheck_rest (s := s) (lctx := lctx)
  exact .of_tasks (by rw [h]) fun l => by rw [h]; rfl

theorem modTask_still {g : Task → Task} (hg : ∀ k, k.status = .stopping → (g k).status = .stopping) : StillStopping s (s.modTask t g) := by
  refine ⟨fun j k hk => ?_, fun _ => rfl⟩
  by_cases h : j = t
  · subst h
    exact ⟨g k, by rw [modTask_task_self, hk]; rfl, hg k⟩
  · exact ⟨k, by rw [modTask_task_other h]; exact hk, id⟩

theorem taskRecord_still {who : Nat} {origin : Word} {code : BitVec 7} {struct : Bool} {holder : Nat} {detail : Word} :
    StillStopping s (s.taskRecord t who origin code struct holder detail) := by
  unfold State.taskRecord
  cases s.task t with
  | none => exact .refl s
  | some k =>
    refine queueRecord_recorded.still.trans (modTask_still fun k hk => ?_)
    split
    · exact hk
    · exact hk

/-- What `stopTasks` makes of a task (R383). -/
def Task.stopIn (k : Task) (endState : Nat) (again quiet : Bool) : Task :=
  if k.status == .stopping && !again then k
  else { k with status := .stopping, endState := endState, ops := k.ops.map fun p =>
           let p := p.stopped
           { p with recorded := p.recorded || quiet } }

theorem stopIn_status {st : Nat} {again quiet : Bool} : (k.stopIn st again quiet).status = .stopping := by
  unfold Task.stopIn
  split
  · next h => exact eq_of_beq ((Bool.and_eq_true _ _).mp h).1
  · rfl

theorem stopTasks_task {ids : List Nat} {st : Nat} {again quiet : Bool} : (s.stopTasks ids st again quiet).task t =
    (s.task t).map fun k => if ids.contains t then k.stopIn st again quiet else k := aget_avals

theorem stopTasks_still {ids : List Nat} {st : Nat} {again quiet : Bool} : StillStopping s (s.stopTasks ids st again quiet) := by
  refine ⟨fun t k hk => ?_, fun _ => rfl⟩
  refine ⟨_, by rw [stopTasks_task, hk]; rfl, fun hst => ?_⟩
  split
  · exact stopIn_status
  · exact hst

theorem mem_family (hk : s.task t = some k) : t ∈ (s.family t).map (·.1) :=
  List.mem_map.mpr ⟨(t, k), List.mem_filter.mpr ⟨mem_of_aget hk, decide_eq_true rfl⟩, rfl⟩

theorem stopFamily_task (hk : s.task t = some k) : (s.stopFamily t).task t = some (k.stopIn 5 false false) := by
  rw [State.stopFamily, stopTasks_task, hk, Option.map_some, if_pos (List.contains_iff_mem.mpr (mem_family hk))]

theorem taskFreeze_still {code : BitVec 7} {detail : Word} : StillStopping s (s.taskFreeze t code detail) :=
  taskRecord_still.trans stopTasks_still

theorem taskFreeze_stops {code : BitVec 7} {detail : Word} (hk : s.task t = some k) :
    ∃ k', (s.taskFreeze t code detail).task t = some k' ∧ k'.status = .stopping := by
  obtain ⟨k', hk', -⟩ := (taskRecord_still (t := t) (who := 0xFFFF) (origin := originWord (s.lctxOf t) 0 0 15 code) (code := code)
    (struct := true) (holder := 0xFFFF) (detail := detail)).tasks t k hk
  exact ⟨_, stopFamily_task hk', stopIn_status⟩

/-- A list of tasks freezes: each of them stops. -/
theorem taskFreezes_stop {ids : List Nat} {code : BitVec 7} {detail : State → Nat → Word} (hk : s.task t = some k) (ht : t ∈ ids) :
    ∃ k', (ids.foldl (fun s t => s.taskFreeze t code (detail s t)) s).task t = some k' ∧ k'.status = .stopping := by
  induction ids generalizing s k with
  | nil => cases ht
  | cons j ids ih =>
    rw [List.foldl_cons]
    rcases List.mem_cons.mp ht with rfl | ht
    · obtain ⟨k', hk', hs⟩ := taskFreeze_stops (code := code) (detail := detail s t) hk
      obtain ⟨k'', hk'', hs'⟩ := (foldl_rel StillStopping.refl (fun _ _ _ => StillStopping.trans) (fun s j => taskFreeze_still) ids
        (s.taskFreeze t code (detail s t))).tasks t k' hk'
      exact ⟨k'', hk'', hs' hs⟩
    · obtain ⟨k', hk', -⟩ := (taskFreeze_still (t := j) (code := code) (detail := detail s j)).tasks t k hk
      exact ih hk' ht

theorem taskFreezes_still {ids : List Nat} {code : BitVec 7} {detail : State → Nat → Word} :
    StillStopping s (ids.foldl (fun s t => s.taskFreeze t code (detail s t)) s) :=
  foldl_rel StillStopping.refl (fun _ _ _ => StillStopping.trans) (fun _ _ => taskFreeze_still) ids s

end Sys2Proof.Machine

namespace Sys2Proof.Machine

/-! PROOFS. The look-ahead stage, stop instants, deadlines, routines and the end of launches (R264 to R271, R368 to R375). -/

variable {s u : State} {l t : Nat} {x : Launch} {o : Obj} {k : Task}

/-! ## The look-ahead stage (R369) -/

theorem touchSeg_rest {off n : Nat} : ∃ pw, s.touchSeg o off n = { s with power := pw } :=
  foldl_rel (R := fun s u => ∃ pw, u = { s with power := pw }) (fun _ => ⟨_, rfl⟩)
    (fun _ _ _ ⟨_, h⟩ ⟨_, h'⟩ => by subst h h'; exact ⟨_, rfl⟩)
    (fun s i => by
      split
      · exact touchKey_cases _
      · exact ⟨_, rfl⟩) _ s

/-- What is read of a node depends on memory and the page tables alone. -/
theorem Tables.nodeAt (h : Tables s u) {off : Nat} : u.nodeAt o off = s.nodeAt o off := by
  rw [State.nodeAt, State.nodeAt, h.seg]

theorem Tables.enterBody (h : Tables s u) {depth next : Nat} {ps : List (Nat × Nat × Nat)} :
    u.enterBody o depth next ps = s.enterBody o depth next ps := by
  simp only [State.enterBody, h.nodeAt]

theorem Tables.coreSecs (h : Tables s u) : u.coreSecs o = s.coreSecs o := by
  simp only [State.coreSecs, h.seg]

/-- A launch whose look-ahead stage has passed a node in order (R368, R369). -/
def State.lookedOn (s : State) (o : Obj) (off : Nat) (n : Packet) (x : Launch) : Launch :=
  { x with look := some (off + 64), ahead := x.ahead ++ [{ node := n, off := off, arm := none, halt := none }],
           passes := s.enterBody o x.calls.length (off + 64) x.passes }

/-- A node that the look-ahead stage reads passes its checks, and the pages that it lies on are hashed (R165, R369). -/
structure Looks (s : State) (l : Nat) (x : Launch) (off : Nat) (o : Obj) : Prop where
  launch : s.launch l = some x
  look : x.look = some off
  obj : s.objs[x.obj]? = some o
  going : x.joinHeld = false ∧ x.ahead.length < 64 ∧ x.halted = false ∧ x.cancelled = false ∧ s.powered = true
  registered : o.registered = true
  pages : ∀ i ∈ s.nodePages x o off (s.nodeAt o off), o.unhashed i = false ∧ i ∉ o.failed
  node : s.nodeOk o x.list off (s.nodeAt o off) = true

theorem exec_look {off : Nat} (h : Looks s l x off o) (hk : nodeKind (s.nodeAt o off) ≠ 5) :
    exec (.lookaheadNodeRead l) s = .next ((s.touchSeg o off 64).lookNode l x o off (s.nodeAt o off)) := by
  obtain ⟨hl, hlook, ho, ⟨hj, hlen, hh, hc, hp⟩, hreg, hpages, hnode⟩ := h
  have hwait : (x.joinHeld || decide (x.ahead.length ≥ 64) || x.halted || x.cancelled || !s.powered) = false := by
    rw [hj, hh, hc, hp, decide_eq_false (by omega)]
    rfl
  have hown : (pagesOf off 64 ++ s.sectionPages o).any o.unhashed = false := List.any_eq_false.mpr fun i hi => by
    rw [(hpages i (List.mem_append_left _ (List.mem_append_left _ hi))).1]
    decide
  have hfails : s.nodeFails x o off (s.nodeAt o off) = none := by
    rw [State.nodeFails, hnode, Launch.recurses, Launch.tooDeep, beq_eq_false_iff_ne.mpr hk]
    rfl
  have hunhashed : (s.nodePages x o off (s.nodeAt o off)).any o.unhashed = false := List.any_eq_false.mpr fun i hi => by
    rw [(hpages i hi).1]
    decide
  have hfailed : (s.nodePages x o off (s.nodeAt o off)).find? o.failed.contains = none := List.find?_eq_none.mpr fun i hi => by
    rw [List.contains_iff_mem]
    exact (hpages i hi).2
  show execLookaheadNodeRead l s = _
  rw [execLookaheadNodeRead, hl]
  dsimp only
  rw [hlook, ho]
  dsimp only
  rw [if_neg (by rw [hwait]; decide), hreg, if_neg (by decide), if_neg (by rw [hown]; decide), hfails]
  dsimp only
  rw [if_neg (by rw [hunhashed]; decide), hfailed]

/-- A node that the look-ahead stage passes in order: TASK, WAIT, SIGNAL and WRAP. -/
theorem lookNode_pass {off : Nat} {n : Packet} (hk : nodeKind n = 1 ∨ nodeKind n = 6 ∨ nodeKind n = 7 ∨ nodeKind n = 8) :
    s.lookNode l x o off n = s.modLaunch l fun y =>
      { y with look := some (off + 64), ahead := y.ahead ++ [{ node := n, off := off, arm := none, halt := none }],
               passes := if some (off + 64) = some (off + 64) then s.enterBody o x.calls.length (off + 64) y.passes else y.passes } := by
  rw [State.lookNode]
  rcases hk with hk | hk | hk | hk
  · rw [hk]; rfl
  · rw [hk]; rfl
  · rw [hk]; rfl
  · rw [hk]; rfl

theorem look_passes {off : Nat} (h : Looks s l x off o) (hk : nodeKind (s.nodeAt o off) ∈ [1, 6, 7, 8]) :
    Gives (.lookaheadNodeRead l) s fun s' => s'.launch l = some (s.lookedOn o off (s.nodeAt o off) x) := by
  obtain ⟨pw, htouch⟩ := touchSeg_rest (s := s) (o := o) (off := off) (n := 64)
  have ht : Tables s { s with power := pw } := ⟨rfl, rfl, rfl, rfl, fun _ => rfl⟩
  refine ⟨_, exec_look h (by rintro he; rw [he] at hk; revert hk; decide), ?_⟩
  dsimp only
  rw [htouch, lookNode_pass (by simpa using hk), modLaunch_launch_of (s := { s with power := pw }) h.launch, if_pos rfl, ht.enterBody]
  rfl

theorem look_join {off : Nat} (h : Looks s l x off o) (hk : nodeKind (s.nodeAt o off) = 4) :
    Gives (.lookaheadNodeRead l) s fun s' => ∃ y, s'.launch l = some y ∧ y.joinHeld = true ∧ y.look = some (off + 64) := by
  obtain ⟨pw, htouch⟩ := touchSeg_rest (s := s) (o := o) (off := off) (n := 64)
  refine ⟨_, exec_look h (by rw [hk]; decide), ?_⟩
  rw [htouch, State.lookNode, hk]
  exact ⟨_, modLaunch_launch_of (s := { s with power := pw }) h.launch, rfl, rfl⟩

/-! ## The end of a launch (R375, R387, R399) -/

theorem adel_length {κ α : Type} [DecidableEq κ] {j : κ} {m : List (κ × α)} (h : (aget j m).isSome = true) :
    (adel j m).length + 1 = m.length := by
  induction m with
  | nil => cases h
  | cons z m ih =>
    rw [aget] at h
    rw [adel]
    split
    · rfl
    · next hz =>
      rw [if_neg hz] at h
      exact congrArg (· + 1) (ih h)

theorem launchComplete_gives (hx : s.launch l = some x) (hover : x.over = true) (hfinal : s.allFinal l = true)
    (htasks : ∀ z ∈ s.tasks, z.2.launch ≠ l) (hplacing : ∀ q, s.placing = some q → q.launch ≠ l)
    (hspans : ∀ w ∈ s.spans, w.write = true → w.core = none → w.launch ≠ l) (hfsr : s.fsrOver l x = true) :
    Gives (.launchComplete l) s fun s' => s'.launches.length + 1 = s.launches.length ∧ l ∉ s'.fsrQueue := by
  have hbusy : (s.tasks.any (fun z => z.2.launch == l) || ((s.placing.map (·.launch)) == some l) ||
      s.spans.any fun w => w.write && w.core.isNone && w.launch == l) = false := by
    have h1 : s.tasks.any (fun z => z.2.launch == l) = false := List.any_eq_false.mpr fun z hz => by
      rw [beq_iff_eq]
      exact htasks z hz
    have h2 : ((s.placing.map (·.launch)) == some l) = false := by
      rw [beq_eq_false_iff_ne]
      intro he
      obtain ⟨q, hq, hl⟩ := Option.map_eq_some_iff.mp he
      exact hplacing q hq hl
    have h3 : (s.spans.any fun w => w.write && w.core.isNone && w.launch == l) = false := List.any_eq_false.mpr fun w hw => by
      rw [Bool.and_eq_true, Bool.and_eq_true, beq_iff_eq, Option.isNone_iff_eq_none]
      exact fun ⟨⟨hwrite, hcore⟩, hl⟩ => hspans w hw hwrite hcore hl
    rw [h1, h2, h3]
    rfl
  have hrun : (!x.over || !s.allFinal l || (s.tasks.any (fun z => z.2.launch == l) || ((s.placing.map (·.launch)) == some l) ||
      s.spans.any fun w => w.write && w.core.isNone && w.launch == l) || !s.fsrOver l x) = false := by
    rw [hbusy, hover, hfinal, hfsr]
    rfl
  obtain ⟨m, as, hdone⟩ := (complete_completed (s := s) (aqi := x.aqi) (q := x.q) (useq := x.useq) (status := x.outcome) (lctx := x.lctx)).rest
  refine ⟨({ s with mem := m, aqis := as, launches := adel l s.launches, fsrQueue := s.fsrQueue.filter (· != l) } : State).reap, ?_, ?_⟩
  · show execLaunchComplete l s = _
    rw [execLaunchComplete, hx]
    dsimp only
    rw [if_neg (by rw [hrun]; decide), hdone]
  · obtain ⟨_, _, _, _, _, _, _, _, _, _, _, hreap⟩ :=
      reap_rest (s := { s with mem := m, aqis := as, launches := adel l s.launches, fsrQueue := s.fsrQueue.filter (· != l) })
    rw [hreap]
    refine ⟨adel_length ?_, fun hmem => ?_⟩
    · rw [State.launch] at hx
      rw [hx]
      rfl
    · have hkeep := (List.mem_filter.mp hmem).2
      exact absurd hkeep (by simp)

/-! ## Fault service routines (R375) -/

theorem lfind_lt {α : Type} {p : α → Bool} {m : List α} {i : Nat} (h : lfind p m = some i) : i < m.length := by
  induction m generalizing i with
  | nil => cases h
  | cons a m ih =>
    rw [lfind] at h
    split at h
    · cases h
      exact Nat.zero_lt_succ _
    · obtain ⟨j, hj, rfl⟩ := Option.map_eq_some_iff.mp h
      exact Nat.succ_lt_succ (ih hj)

theorem enterFsr_reg {c : Core} {arg pc : Dbl} {lctx : Nat} {n : SReg} : (c.enterFsr l lctx arg pc).reg n = if n = 1 then arg else 0 := by
  show (if n = 0 then 0 else ((List.replicate 16 (0 : Dbl)).set 1 arg).getD n.val 0) = _
  by_cases h1 : n = 1
  · subst h1
    rfl
  · rw [if_neg h1]
    split
    · rfl
    · rw [List.getD_eq_getElem?_getD, List.getElem?_set_ne (show (1 : Nat) ≠ n.val from fun h => h1 (Fin.ext h.symm)), List.getElem?_replicate]
      split
      · rfl
      · rfl

theorem enterFsr_lctx {c : Core} {arg pc : Dbl} {lctx : Nat} : (c.enterFsr l lctx arg pc).lctx = lctx % 256 := by
  show ((BitVec.ofNat 64 (lctx * 2 ^ 24)).extractLsb' 24 8).toNat = _
  rw [BitVec.extractLsb'_toNat, BitVec.toNat_ofNat, Nat.shiftRight_eq_div_pow]
  omega

theorem enterFsr_user {c : Core} {arg pc : Dbl} {lctx : Nat} : (c.enterFsr l lctx arg pc).super = false := by
  show (c.status &&& ~~~(1 : Dbl)).getLsbD 0 = false
  simp

theorem fsrEntry_gives {rest : List Nat} {j i : Nat} (hx : s.launch l = some x) (hq : s.fsrQueue = l :: rest)
    (hc : lfind Core.takesFsr s.cores = some j) (hi : x.fsr = some i) (ho : s.objs[x.obj]? = some o) :
    Gives .fsrEntry s fun s' => s'.fsrQueue = rest ∧ (s'.core j).fsr = some l ∧ (s'.core j).super = false ∧ (s'.core j).reg 1 = x.farg ∧
      (∀ n, n ≠ 1 → (s'.core j).reg n = 0) ∧ (s'.core j).lctx = x.lctx % 256 ∧
      (s'.core j).pc = BitVec.ofNat 64 (o.va + (s.coreSecs o).getD i 0) ∧ ∀ z ∈ (s'.core j).loads, z.d = 0 := by
  have ht : Tables s { s with fsrQueue := rest } := ⟨rfl, rfl, rfl, rfl, fun _ => rfl⟩
  have hrun : exec .fsrEntry s = .next (({ s with fsrQueue := rest } : State).modCore j fun c =>
      c.enterFsr l x.lctx x.farg (BitVec.ofNat 64 (o.va + (s.coreSecs o).getD i 0))) := by
    show execFsrEntry s = _
    rw [execFsrEntry, hq, hc]
    dsimp only
    rw [show State.launch { s with fsrQueue := rest } l = some x from hx]
    dsimp only
    rw [hi, ho]
    dsimp only
    rw [ht.coreSecs]
  have hcore := modCore_core_self (s := { s with fsrQueue := rest }) (lfind_lt hc)
    (g := fun c => c.enterFsr l x.lctx x.farg (BitVec.ofNat 64 (o.va + (s.coreSecs o).getD i 0)))
  refine ⟨_, hrun, rfl, ?_⟩
  rw [hcore]
  refine ⟨rfl, enterFsr_user, enterFsr_reg, fun n hn => enterFsr_reg.trans (if_neg hn), enterFsr_lctx, rfl, fun z hz => ?_⟩
  obtain ⟨y, -, rfl⟩ := List.mem_map.mp hz
  rfl

/-! ## The stop instant (R264, R266, R368) -/

theorem atStop_spec {left : Bool} : (x.atStop left).stopDone = true ∧ (x.atStop left).ahead = [] ∧
    (x.wrapList = none → (x.atStop left).ended = true ∧ (x.atStop left).look = none) ∧
    ∀ w, x.wrapList = some w → x.halted = false → x.cancelled = false → (∀ a ∈ x.ahead, a.halt = none) →
      (x.atStop left).look = some w ∧ (x.atStop left).inWrap = true := by
  unfold Launch.atStop
  dsimp only
  cases x.wrapList with
  | none => exact ⟨rfl, rfl, fun _ => ⟨rfl, rfl⟩, fun w hw => (nomatch hw)⟩
  | some w =>
    dsimp only
    split
    · next hstop =>
      refine ⟨rfl, rfl, fun hw => (nomatch hw), fun w' _ hh hc ha => ?_⟩
      have hany : (x.ahead.any fun a => a.halt.isSome) = false := List.any_eq_false.mpr fun a hmem => by rw [ha a hmem]; decide
      rw [hh, hc, hany] at hstop
      exact absurd hstop (by decide)
    · exact ⟨rfl, rfl, fun hw => (nomatch hw), fun w' hw _ _ _ => ⟨hw, rfl⟩⟩

theorem stopInstant_waits (hx : s.launch l = some x) (h : s.owesEnd (fun k => k.launch == l) = true ∨ s.leftUnhashed x = true) :
    exec (.stopInstant l) s = .next s := by
  show execStopInstant l s = _
  rw [execStopInstant, hx]
  refine if_pos ?_
  rcases h with h | h
  · rw [h, Bool.or_true, Bool.true_or]
  · rw [h, Bool.or_true]

/-- The state in which the tasks of a launch know of its stop instant. -/
def State.stopKnown (s : State) (l : Nat) : State :=
  let mine (k : Task) : Bool := k.launch == l && !k.wrapX
  { s with tasks := avals (fun _ k => if mine k then k.stopped s.fc else k) s.tasks,
           requests := s.requests ++ (s.tasks.filter fun z => mine z.2 && z.2.status == .paused).map fun z => .again z.1 }

theorem exec_stopInstant (hx : s.launch l = some x) (ho : s.stopOwed x = true) (he : s.owesEnd (fun k => k.launch == l) = false)
    (hl : s.leftUnhashed x = false) : exec (.stopInstant l) s = .next (((s.stopKnown l).endBatch l x.lctx 8 5 (s.openTcbs x 1)).modLaunch l
      fun y => { y.atStop (s.tasksLeft x) with anyDeadline := y.anyDeadline || !(s.openTcbs x 1).isEmpty }) := by
  show execStopInstant l s = _
  rw [execStopInstant, hx]
  exact if_neg (by rw [ho, he, hl]; decide)

theorem stopKnown_task (hk : s.task t = some k) (hl : k.launch = l) (hw : k.wrapX = false) : (s.stopKnown l).task t = some (k.stopped s.fc) := by
  refine aget_avals.trans ?_
  rw [State.task] at hk
  rw [hk]
  exact congrArg some (if_pos (show (k.launch == l && !k.wrapX) = true by rw [hl, hw]; simp))

theorem stopped_due {fc : Nat} : (k.status = .running ∨ k.status = .pausing → (k.stopped fc).wrapDue = some (fc + 1 + 6 * k.bay.hops)) ∧
    (k.status = .paused → (k.stopped fc).wrapDue = some fc) := by
  unfold Task.stopped
  dsimp only
  refine ⟨fun h => ?_, fun h => ?_⟩
  · rcases h with h | h
    · rw [h]
    · rw [h]
  · rw [h]

theorem stopInstant_gives (hx : s.launch l = some x) (hc : x.cancelled = false) (ho : s.stopOwed x = true)
    (he : s.owesEnd (fun k => k.launch == l) = false) (hl : s.leftUnhashed x = false) : Gives (.stopInstant l) s fun s' =>
      (∃ y, s'.launch l = some y ∧ y.stopDone = true ∧ y.ahead = [] ∧ (x.wrapList = none → y.ended = true ∧ y.look = none) ∧
        ∀ w, x.wrapList = some w → x.halted = false → (∀ a ∈ x.ahead, a.halt = none) → y.look = some w ∧ y.inWrap = true) ∧
      ∀ t k, s.task t = some k → k.launch = l → k.wrapX = false →
        (k.status = .running ∨ k.status = .pausing →
          ∃ k', s'.task t = some k' ∧ k'.wrapDue = some (s.fc + 1 + 6 * k.bay.hops)) ∧
        (k.status = .paused → (∃ k', s'.task t = some k' ∧ k'.wrapDue = some s.fc) ∧ .again t ∈ s'.requests) := by
  obtain ⟨f, m, pw, rd, tl, hf, hend⟩ := endBatch_rest (s := s.stopKnown l) (l := l) (lctx := x.lctx) (st := 8) (src := 5) (vs := s.openTcbs x 1)
  refine ⟨_, exec_stopInstant hx ho he hl, ?_, fun t k hk hkl hw => ?_⟩
  · rw [hend]
    obtain ⟨a, b, hfx⟩ := hf x
    have hlaunch : (({ s.stopKnown l with mem := m, power := pw, ready := rd, timeline := tl,
                                          launches := amod l f (s.stopKnown l).launches } : State)).launch l = some (f x) := by
      rw [State.launch]
      refine aget_amod_self.trans ?_
      exact congrArg (Option.map f) hx
    refine ⟨_, modLaunch_launch_of hlaunch, ?_⟩
    obtain ⟨h1, h2, h3, h4⟩ := atStop_spec (x := f x) (left := s.tasksLeft x)
    rw [hfx] at h1 h2 h3 h4 ⊢
    exact ⟨h1, h2, h3, fun w hw hh ha => h4 w hw hh hc ha⟩
  · have htask : ∀ z, (s.stopKnown l).task t = some z →
        (((s.stopKnown l).endBatch l x.lctx 8 5 (s.openTcbs x 1)).modLaunch l
          fun y => { y.atStop (s.tasksLeft x) with anyDeadline := y.anyDeadline || !(s.openTcbs x 1).isEmpty }).task t = some z := by
      intro z hz
      rw [hend]
      exact hz
    have hstopped := stopKnown_task hk hkl hw
    refine ⟨fun hs => ⟨_, htask _ hstopped, stopped_due.1 hs⟩, fun hs => ⟨⟨_, htask _ hstopped, stopped_due.2 hs⟩, ?_⟩⟩
    rw [hend]
    refine List.mem_append_right _ (List.mem_map.mpr ⟨(t, k), List.mem_filter.mpr ⟨mem_of_aget hk, ?_⟩, rfl⟩)
    show ((k.launch == l && !k.wrapX) && k.status == .paused) = true
    rw [hkl, hw, hs]
    simp

/-! ## The deadline (R271) and the wrap token (R264) -/

theorem spawnReply_still {q : Placing} {n : Nat} : StillStopping s (s.spawnReply q n) := by
  unfold State.spawnReply
  split
  · exact .of_tasks rfl fun _ => rfl
  · exact .refl s

theorem placedFaulted_still {q : Placing} {res : Dbl} : StillStopping s (s.placedFaulted q res) := by
  unfold State.placedFaulted
  have hmark (t : Nat) : StillStopping s (s.modTask t fun k => if k.faulted then k else { k with faulted := true, result := res }) :=
    modTask_still fun k hk => by
      split
      · exact hk
      · exact hk
  cases q.req with
  | ready r => exact .refl s
  | again t => exact hmark _
  | spawn t o rec => exact hmark _

theorem placeOver_still {q : Placing} {res : Dbl} : StillStopping s (s.placeOver q res) := by
  unfold State.placeOver
  have hnone : StillStopping s { s with placing := none } := .of_tasks rfl fun _ => rfl
  cases q.req with
  | ready r => exact hnone.trans finish_finished.still
  | again t => exact .of_tasks rfl fun _ => rfl
  | spawn t o rec => exact hnone

theorem placeFault_still {q : Placing} {code : BitVec 7} {graph who detail : Nat} : StillStopping s (s.placeFault q code graph who detail) :=
  queueRecord_recorded.still.trans (spawnReply_still.trans (placedFaulted_still.trans placeOver_still))

/-- A placement of a launch whose deadline has come fails (R271). -/
def State.placingLate (s : State) (l : Nat) : State :=
  match s.placing with
  | some p => match p.req with
    | .ready r => if r.launch == l then s.placeFault p Code.wrapLate p.graph 0xFFFF 0 else s
    | _ => s
  | none => s

theorem placingLate_still : StillStopping s (s.placingLate l) := by
  unfold State.placingLate
  split
  · next p _ =>
    split
    · split
      · exact placeFault_still
      · exact .refl s
    · exact .refl s
  · exact .refl s

/-- The tasks that freeze at the deadline of a launch (R271). -/
def State.lateTasks (s : State) (l : Nat) : List Nat :=
  (s.tasks.filter fun z => z.2.launch == l && z.2.parent.isNone && z.2.status != .stopping &&
    (s.family z.1).all fun y => y.2.ops.all (·.fault.isNone)).map (·.1)

theorem exec_deadlineFc (hx : s.launch l = some x) (ho : s.deadlineOwed x = true) : exec (.deadlineFc l) s = .next
    (((((s.lateTasks l).foldl (fun s t => s.taskFreeze t Code.wrapLate 0) s).placingLate l).modLaunch l
      fun y => { y with deadlineDone := true }).ctxCheck x.lctx) := by
  show execDeadlineFc l s = _
  rw [execDeadlineFc, hx]
  exact if_neg (by rw [ho]; decide)

theorem deadlineFc_gives (hx : s.launch l = some x) (ho : s.deadlineOwed x = true) : Gives (.deadlineFc l) s fun s' =>
    (∃ y, s'.launch l = some y ∧ y.deadlineDone = true) ∧
    ∀ t k, s.task t = some k → k.launch = l → k.parent = none → k.status ≠ .stopping →
      (∀ z ∈ s.family t, (z.2.ops.all (·.fault.isNone)) = true) → ∃ k', s'.task t = some k' ∧ k'.status = .stopping := by
  have hlate := taskFreezes_still (s := s) (ids := s.lateTasks l) (code := Code.wrapLate) (detail := fun _ _ => 0)
  have hplaced := placingLate_still (s := (s.lateTasks l).foldl (fun s t => s.taskFreeze t Code.wrapLate 0) s) (l := l)
  refine ⟨_, exec_deadlineFc hx ho, ?_, fun t k hk hl hp hs hfam => ?_⟩
  · have hsome : ((((s.lateTasks l).foldl (fun s t => s.taskFreeze t Code.wrapLate 0) s).placingLate l).launch l).isSome = true := by
      rw [hplaced.launches, hlate.launches, hx]
      rfl
    obtain ⟨y, hy⟩ := Option.isSome_iff_exists.mp hsome
    obtain ⟨_, _, _, _, _, hcheck⟩ := ctxCheck_rest (lctx := x.lctx)
      (s := (((s.lateTasks l).foldl (fun s t => s.taskFreeze t Code.wrapLate 0) s).placingLate l).modLaunch l fun y => { y with deadlineDone := true })
    refine ⟨{ y with deadlineDone := true }, ?_, rfl⟩
    rw [hcheck]
    exact modLaunch_launch_of hy
  · have hmem : t ∈ s.lateTasks l := by
      refine List.mem_map.mpr ⟨(t, k), List.mem_filter.mpr ⟨mem_of_aget hk, ?_⟩, rfl⟩
      rw [hl, hp, bne_iff_ne.mpr hs, List.all_eq_true.mpr hfam]
      simp
    obtain ⟨k', hk', hs'⟩ := taskFreezes_stop (code := Code.wrapLate) (detail := fun _ _ => 0) hk hmem
    obtain ⟨k'', hk'', hs''⟩ := (hplaced.trans ((modLaunch_finished (l := l)).still.trans (ctxCheck_still (lctx := x.lctx)))).tasks t k' hk'
    exact ⟨k'', hk'', hs'' hs'⟩

/-- Settles O58: the look-ahead stage, the stop instant, the deadline, the entry of a routine and the end of a launch each run on the
launch as it stands; final states and records leave the tasks and launches in their lists. -/
theorem launchLives : Obligations.LaunchLives := by
  unfold Obligations.LaunchLives
  intro s l x hx
  refine ⟨?_, launchComplete_gives hx, ?_, fun ht hc => ⟨fun hs hat h => stopInstant_waits hx h, ?_, ?_⟩, ?_⟩
  · intro off o hlook ho hj hlen hh hc hp hreg
    dsimp only
    intro hpages hnode
    have hlooks : Looks s l x off o := ⟨hx, hlook, ho, ⟨hj, hlen, hh, hc, hp⟩, hreg, hpages, hnode⟩
    refine ⟨fun hk => ?_, look_join hlooks⟩
    obtain ⟨s', he, hl⟩ := look_passes hlooks hk
    exact ⟨s', he, _, hl, rfl⟩
  · exact fun rest k i o hq hc hi ho => fsrEntry_gives hx hq hc hi ho
  · intro hs hat he hl
    exact stopInstant_gives hx hc (by rw [State.stopOwed, ht, hs, hc, decide_eq_true hat]; rfl) he hl
  · intro hs hd hat
    exact deadlineFc_gives hx (by rw [State.deadlineOwed, ht, hs, hd, hc, decide_eq_true hat]; rfl)
  · intro t k due hk hl hdue hle hs hd
    have hwrap : s.wrapOwed k = true := by
      rw [State.wrapOwed, hs, hl, hx, hdue, Option.map_some, Option.map_some, hd, decide_eq_true hle]
      rfl
    refine ⟨s.modTask t fun k => { k with wrapMark := true, wrapDue := none, ops := k.ops.map Op.marked }, ?_, _,
      modTask_task_self.trans (congrArg (Option.map _) hk), rfl, rfl⟩
    show execWrapTokenArrive t s = _
    rw [execWrapTokenArrive, hk]
    exact congrArg Host.Outcome.next (if_pos hwrap)

end Sys2Proof.Machine

namespace Sys2Proof.Machine

/-! PROOFS. The list of tasks at the end of a task (R270, R371, R383). -/

variable {s u v : State} {l lctx t o : Nat} {k : Task}

/-! ## The numbers of the tasks -/

/-- From `s` to `u` no task has come or gone. -/
def SameTasks (s u : State) : Prop := u.tasks.map Prod.fst = s.tasks.map Prod.fst

theorem SameTasks.refl (s : State) : SameTasks s s := rfl

theorem SameTasks.trans (h : SameTasks s u) (h' : SameTasks u v) : SameTasks s v := Eq.trans h' h

theorem SameTasks.of_tasks (h : u.tasks = s.tasks) : SameTasks s u := congrArg (List.map Prod.fst) h

theorem avals_keys {κ α : Type} {g : κ → α → α} {m : List (κ × α)} : (avals g m).map Prod.fst = m.map Prod.fst := by
  induction m with
  | nil => rfl
  | cons z m ih => exact congrArg (z.1 :: ·) ih

theorem aget_isSome_iff {κ α : Type} [DecidableEq κ] {j : κ} {m : List (κ × α)} : (aget j m).isSome = true ↔ j ∈ m.map Prod.fst := by
  constructor
  · intro h
    obtain ⟨a, ha⟩ := Option.isSome_iff_exists.mp h
    exact List.mem_map.mpr ⟨_, mem_of_aget ha, rfl⟩
  · intro h
    obtain ⟨z, hz, rfl⟩ := List.mem_map.mp h
    cases hg : aget z.1 m with
    | none => exact absurd hz (aget_none hg)
    | some a => rfl

theorem SameTasks.isSome (h : SameTasks s u) (hk : (s.task t).isSome = true) : (u.task t).isSome = true := by
  rw [State.task, aget_isSome_iff] at hk ⊢
  rw [h]
  exact hk

theorem SameTasks.length (h : SameTasks s u) : u.tasks.length = s.tasks.length := by
  simpa using congrArg List.length h

theorem modTask_sameTasks {g : Task → Task} : SameTasks s (s.modTask t g) := amod_map_same fun _ => rfl

theorem modOp_sameTasks {g : Op → Op} : SameTasks s (s.modOp t o g) := modTask_sameTasks

theorem avals_sameTasks {g : Nat → Task → Task} (h : u.tasks = avals g s.tasks) : SameTasks s u := by
  rw [SameTasks, h, avals_keys]

theorem drain_sameTasks {p : WLine → Bool} : SameTasks s (s.drain t p) := by
  unfold State.drain
  cases s.task t with
  | none => exact .refl s
  | some k =>
    dsimp only
    exact SameTasks.trans modTask_sameTasks (foldl_rel SameTasks.refl (fun _ _ _ => SameTasks.trans)
      (fun s w => .of_tasks drainLine_accessed.tasks) _ _)

theorem flushSome_sameTasks {y : Vec} {pv pp : Nat → Bool} : SameTasks s (s.flushSome t o y pv pp) :=
  foldl_rel SameTasks.refl (fun _ _ _ => SameTasks.trans) (fun _ _ => modOp_sameTasks) _ s

theorem flushMarks_sameTasks : SameTasks s (s.flushMarks t o) := by
  unfold State.flushMarks
  cases s.vec t o with
  | none => exact .refl s
  | some y => exact flushSome_sameTasks

theorem flushTask_sameTasks : SameTasks s (s.flushTask t) :=
  foldl_rel SameTasks.refl (fun _ _ _ => SameTasks.trans) (fun _ _ => flushMarks_sameTasks) _ s

theorem Finished.sameTasks (h : Finished s u) : SameTasks s u :=
  .of_tasks (by obtain ⟨_, _, _, _, _, _, rfl⟩ := h.rest; rfl)

theorem Recorded.sameTasks (h : Recorded s u) : SameTasks s u :=
  .of_tasks (by obtain ⟨_, _, _, _, _, rfl⟩ := h.rest; rfl)

theorem poisonRecord_sameTasks {q : SinkPoison} : SameTasks s (s.poisonRecord t q) := by
  unfold State.poisonRecord
  cases s.task t with
  | none => exact .refl s
  | some k => exact queueRecord_recorded.sameTasks.trans modTask_sameTasks

theorem unmarkEntries_tasks {es : List (Nat × List Nat)} : (s.unmarkEntries es).tasks = s.tasks := by
  induction es generalizing s with
  | nil => rfl
  | cons e es ih => exact ih

theorem recompute_tasks {ts : List Nat} : (s.recompute ts).tasks = s.tasks := by
  induction ts generalizing s with
  | nil => rfl
  | cons i ts ih => exact ih

theorem freeBay_sameTasks : SameTasks s (s.freeBay t) := by
  unfold State.freeBay
  cases s.task t with
  | none => exact .refl s
  | some k =>
    refine SameTasks.trans (.of_tasks unmarkEntries_tasks) (SameTasks.trans modTask_sameTasks (.of_tasks recompute_tasks))

theorem pauseTakesEffect_sameTasks : SameTasks s (s.pauseTakesEffect lctx) := avals_sameTasks rfl

theorem ctxCheck_tasks : (s.ctxCheck lctx).tasks = s.tasks := by
  obtain ⟨_, _, _, _, _, h⟩ := ctxCheck_rest (s := s) (lctx := lctx)
  rw [h]

theorem reap_tasks : s.reap.tasks = s.tasks := by
  obtain ⟨_, _, _, _, _, _, _, _, _, _, _, h⟩ := reap_rest (s := s)
  rw [h]

/-! ## The end of a task -/

theorem removeTask_length (hk : (s.task t).isSome = true) : (s.removeTask t).tasks.length + 1 = s.tasks.length := by
  have hfree : SameTasks s (s.freeBay t) := freeBay_sameTasks
  have hdel : (adel t (s.freeBay t).tasks).length + 1 = s.tasks.length := by
    rw [adel_length (hfree.isSome hk), hfree.length]
  rw [← hdel, State.removeTask, ctxCheck_tasks, State.stopCondEnds]
  split
  · exact congrArg (· + 1) pauseTakesEffect_sameTasks.length
  · rfl

theorem endSpawn_length {parent : Nat} (hk : (s.task t).isSome = true) : (s.endSpawn t parent).tasks.length + 1 = s.tasks.length := by
  have hflush : SameTasks s ((s.drainAll t).flushTask t) := drain_sameTasks.trans flushTask_sameTasks
  unfold State.endSpawn
  dsimp only
  obtain ⟨k, hk'⟩ := Option.isSome_iff_exists.mp (hflush.isSome hk)
  rw [hk']
  dsimp only
  have hmod := hflush.trans (modTask_sameTasks (s := (s.drainAll t).flushTask t) (t := parent) (g := fun p =>
    { p with oldPoison := firstOf p.oldPoison (k.firstPoison.or (if k.blocked.isEmpty || k.status == .stopping then none
      else (k.ops.findSome? Op.badOrigin).map fun w =>
        { fc := ((s.drainAll t).flushTask t).fc, origin := w, who := k.whoAt w, graph := k.graphIndex, holder := 0xFFFF : SinkPoison })) }))
  exact (removeTask_length (hmod.isSome hk)).trans hmod.length

theorem endRoot_length {wrap : Bool} (hk : (s.task t).isSome = true) : (s.endRoot t wrap).tasks.length + 1 = s.tasks.length := by
  have hflush : SameTasks s ((s.drainAll t).flushTask t) := drain_sameTasks.trans flushTask_sameTasks
  unfold State.endRoot
  dsimp only
  obtain ⟨k, hk'⟩ := Option.isSome_iff_exists.mp (hflush.isSome hk)
  rw [hk']
  dsimp only
  generalize hu : (if k.endState = 7 then (s.drainAll t).flushTask t else _) = u
  have hpoison : SameTasks ((s.drainAll t).flushTask t) u := by
    rw [← hu]
    split
    · exact .refl _
    · split
      · exact poisonRecord_sameTasks
      · exact .refl _
  have hfinal : SameTasks s (if k.endState = 7 then u.finish k.launch k.tcb 7 (resultOf 0 0 4 0 false) else
      u.finish k.launch k.tcb (if ((u.task t).map (·.faulted)).getD false then 5 else 4)
        (if wrap then ((u.task t).map (·.result)).getD 0 ||| 2 else ((u.task t).map (·.result)).getD 0)) := by
    refine hflush.trans (hpoison.trans ?_)
    split
    · exact finish_finished.sameTasks
    · exact finish_finished.sameTasks
  exact (removeTask_length (hfinal.isSome hk)).trans hfinal.length

theorem endTask_length {wrap : Bool} (hk : s.task t = some k) : (s.endTask t wrap).tasks.length + 1 = s.tasks.length := by
  have hsome : (s.task t).isSome = true := by rw [hk]; rfl
  unfold State.endTask
  rw [reap_tasks]
  split
  · exact endSpawn_length hsome
  · exact endRoot_length hsome

end Sys2Proof.Machine

namespace Sys2Proof.Machine

/-! PROOFS. Freezes, stuck contexts and the end of a pause (R12, R383, R388, R390, R394). -/

variable {s u v : State} {l lctx t o : Nat} {k : Task} {p : Op} {c : Ctx}

/-! ## Freezes (R383) -/

theorem modLaunch_wantFsr_ctxs {f : Launch → Launch} : ((s.modLaunch l f).wantFsr l).ctxs = s.ctxs := by
  obtain ⟨_, h⟩ := wantFsr_rest (s := s.modLaunch l f) (l := l)
  rw [h]
  rfl

/-- A record joins those of its context while there is room (R385). -/
theorem queueFault_ctx {r : FaultRec} (hc : s.ctx lctx = some c) (hlen : c.faults.length < 256) :
    (s.queueFault lctx l r).ctx lctx = some { c with faults := c.faults ++ [(l, r.image s.tai)] } := by
  unfold State.queueFault State.queueRecord
  rw [hc]
  dsimp only
  rw [if_pos (by rw [List.length_singleton]; omega), State.ctx, modLaunch_wantFsr_ctxs]
  exact modCtx_ctx_self.trans (congrArg (Option.map _) hc)

theorem taskRecord_ctx {origin : Word} {code : BitVec 7} {holder : Nat} {d : Word} (hk : s.task t = some k) (hc : s.ctx k.lctx = some c)
    (hlen : c.faults.length < 256) : ∃ e, (s.taskRecord t o origin code true holder d).ctx k.lctx =
      some { c with faults := c.faults ++ [(k.launch, e)] } := by
  unfold State.taskRecord
  rw [hk]
  exact ⟨_, queueFault_ctx hc hlen⟩

theorem queueRecord_ctx_isSome {es : List (BitVec 256)} {j : Nat} : ((s.queueRecord lctx l es).ctx j).isSome = (s.ctx j).isSome := by
  unfold State.queueRecord
  cases hc : s.ctx lctx with
  | none => rfl
  | some c =>
    dsimp only
    have hmod (f : Ctx → Ctx) (m : List (Nat × Ctx)) : (aget j (amod lctx f m)).isSome = (aget j m).isSome := by
      by_cases h : j = lctx
      · rw [h, aget_amod_self, Option.isSome_map]
      · rw [aget_amod_other h]
    split
    · rw [State.ctx, modLaunch_wantFsr_ctxs]
      exact hmod _ _
    · exact hmod _ _

theorem taskFreeze_ctx_isSome {code : BitVec 7} {detail : Word} {j : Nat} : ((s.taskFreeze t code detail).ctx j).isSome = (s.ctx j).isSome := by
  show ((s.taskRecord t 0xFFFF _ code true 0xFFFF detail).ctx j).isSome = _
  unfold State.taskRecord
  cases s.task t with
  | none => rfl
  | some k => exact queueRecord_ctx_isSome

/-- A node of a task that stops. -/
theorem stopIn_op {st : Nat} {quiet : Bool} (ho : k.ops[o]? = some p) (hr : p.recorded = true) :
    ∃ p', (k.stopIn st false quiet).ops[o]? = some p' ∧ p'.recorded = true ∧ p'.fault = p.fault := by
  unfold Task.stopIn
  split
  · exact ⟨p, ho, hr, rfl⟩
  · refine ⟨_, List.getElem?_map.trans (congrArg (Option.map _) ho), ?_, rfl⟩
    show ((p.recorded || p.fault.isNone) || quiet) = true
    rw [hr]
    rfl

theorem freezeRecord_gives {code : BitVec 7} {d : Word} (ho : s.op t o = some p) (hk : s.task t = some k) (hf : p.fault = some (code, d))
    (hr : p.recorded = false) (hc : s.ctx k.lctx = some c) (hlen : c.faults.length < 256) : Gives (.freezeRecord t o) s fun s' =>
      (∃ k', s'.task t = some k' ∧ k'.status = .stopping) ∧
      (∃ p', s'.op t o = some p' ∧ p'.recorded = true ∧ p'.fault = some (code, d)) ∧
      ∃ c' e, s'.ctx k.lctx = some c' ∧ c'.faults = c.faults ++ [(k.launch, e)] := by
  have hrun : exec (.freezeRecord t o) s = .next (((s.taskRecord t o (s.origin t o code) code true 0xFFFF d).modOp t o
      fun p => { p with recorded := true }).stopFamily t) := by
    show execFreezeRecord t o s = _
    rw [execFreezeRecord, ho]
    dsimp only
    rw [hf]
    exact if_neg (by rw [hr]; decide)
  obtain ⟨k', hk', -⟩ := (taskRecord_still (t := t) (who := o) (origin := s.origin t o code) (code := code) (struct := true) (holder := 0xFFFF)
    (detail := d)).tasks t k hk
  have hop' : k'.ops[o]? = some p := by
    have h := taskRecord_op (s := s) (t := t) (who := o) (w := s.origin t o code) (code := code) (struct := true) (holder := 0xFFFF)
      (detail := d) (t' := t) (o' := o)
    rw [State.op, hk', ho] at h
    exact h
  have hmod : ((s.taskRecord t o (s.origin t o code) code true 0xFFFF d).modOp t o fun p => { p with recorded := true }).task t =
      some { k' with ops := lmod o (fun p => { p with recorded := true }) k'.ops } := modTask_task_self.trans (congrArg (Option.map _) hk')
  have hstop := stopFamily_task hmod
  refine ⟨_, hrun, ⟨_, hstop, stopIn_status⟩, ?_, ?_⟩
  · obtain ⟨p', hp', hrec, hfault⟩ := stopIn_op (st := 5) (quiet := false) (k := { k' with ops := lmod o (fun p => { p with recorded := true }) k'.ops })
      (p := { p with recorded := true }) (getElem?_lmod_self.trans (congrArg (Option.map _) hop')) rfl
    exact ⟨p', by rw [State.op, hstop]; exact hp', hrec, hfault.trans hf⟩
  · obtain ⟨e, he⟩ := taskRecord_ctx (o := o) (origin := s.origin t o code) (code := code) (holder := 0xFFFF) (d := d) hk hc hlen
    exact ⟨_, e, he, rfl⟩

/-! ## Stuck contexts (R394) -/

theorem stuckTimeout_gives (hc : s.ctx lctx = some c) (hstuck : s.stuckNow lctx c = true) : Gives (.stuckTimeout lctx) s fun s' =>
    (∃ c', s'.ctx lctx = some c' ∧ c'.idle = 0) ∧ ∀ t k, s.task t = some k → k.lctx = lctx → k.parent = none → k.status ≠ .stopping →
      s.familyBalance t ≠ 0 → ∃ k', s'.task t = some k' ∧ k'.status = .stopping := by
  have hrun : exec (.stuckTimeout lctx) s = .next ((((s.tasks.filter fun z => z.2.lctx == lctx && z.2.parent.isNone && z.2.status != .stopping &&
      s.familyBalance z.1 != 0).map (·.1)).foldl (fun s t => s.taskFreeze t Code.stuck (clamp32 (s.familyBalance t))) s).modCtx lctx
      fun c => { c with idle := 0 }) := by
    show execStuckTimeout lctx s = _
    rw [execStuckTimeout, hc]
    exact if_neg (by rw [hstuck]; decide)
  refine ⟨_, hrun, ?_, fun t k hk hl hp hs hb => ?_⟩
  · have hsome := foldl_rel (R := fun s u => (u.ctx lctx).isSome = (s.ctx lctx).isSome) (fun _ => rfl) (fun _ _ _ h h' => h'.trans h)
      (f := fun s t => s.taskFreeze t Code.stuck (clamp32 (s.familyBalance t))) (fun _ _ => taskFreeze_ctx_isSome)
      ((s.tasks.filter fun z => z.2.lctx == lctx && z.2.parent.isNone && z.2.status != .stopping && s.familyBalance z.1 != 0).map (·.1)) s
    rw [hc] at hsome
    obtain ⟨c', hc'⟩ := Option.isSome_iff_exists.mp hsome
    exact ⟨_, modCtx_ctx_self.trans (congrArg (Option.map _) hc'), rfl⟩
  · refine taskFreezes_stop (code := Code.stuck) (detail := fun s t => clamp32 (s.familyBalance t)) hk (List.mem_map.mpr ⟨(t, k),
      List.mem_filter.mpr ⟨mem_of_aget hk, ?_⟩, rfl⟩)
    rw [hl, hp, bne_iff_ne.mpr hs, bne_iff_ne.mpr hb]
    simp

/-! ## Firings that a pause saves (R390) -/

theorem saveFiring_firingOf : (s.saveFiring t o).firingOf t o = (s.firingOf t o).map fun f => { f with saved := true } := by
  have hop : (s.saveFiring t o).op t o = _ := modOp_op_self
  unfold State.firingOf
  rw [hop]
  rcases s.op t o with _ | ⟨pl, fa, ff, re, po, hd, fi, kind⟩
  · rfl
  · cases kind with
    | cell c => rfl
    | vec v => rfl
    | _ => rfl

/-! ## The end of a pause (R12, R388) -/

theorem drainAll_task : (s.drainAll t).task t = (s.task t).map fun k => { k with wcb := [] } := by
  unfold State.drainAll State.drain
  cases hk : s.task t with
  | none => exact hk
  | some k =>
    dsimp only
    have htasks (m : List WLine) (u : State) : (m.foldl (fun s w => s.drainLine t w) u).tasks = u.tasks :=
      foldl_rel (R := fun s u => u.tasks = s.tasks) (fun _ => rfl) (fun _ _ _ h h' => h'.trans h) (fun _ _ => drainLine_accessed.tasks) m u
    rw [State.task, htasks]
    refine (modTask_task_self.trans (congrArg (Option.map _) hk)).trans ?_
    simp

/-- From `s` to `u` what `f` reads of each task has not changed. -/
def Keeps {α : Type} (f : Task → α) (s u : State) : Prop := ∀ t, (u.task t).map f = (s.task t).map f

variable {α : Type} {f : Task → α}

theorem Keeps.refl (s : State) : Keeps f s s := fun _ => rfl

theorem Keeps.trans (h : Keeps f s u) (h' : Keeps f u v) : Keeps f s v := fun t => (h' t).trans (h t)

theorem Keeps.of_tasks (h : u.tasks = s.tasks) : Keeps f s u := fun t => by rw [State.task, State.task, h]

theorem modTask_keeps {g : Task → Task} (hg : ∀ k, f (g k) = f k) : Keeps f s (s.modTask t g) := by
  intro j
  by_cases h : j = t
  · rw [h, modTask_task_self, Option.map_map]
    exact congrArg (fun f => (s.task t).map f) (funext hg)
  · rw [modTask_task_other h]

theorem Keeps.some (h : Keeps f s u) (hk : s.task t = some k) : ∃ k', u.task t = some k' ∧ f k' = f k := by
  have ht := h t
  rw [hk] at ht
  exact Option.map_eq_some_iff.mp ht

theorem sinkPoison_keeps {w : Word} (hf : ∀ k ops, f { k with ops := ops } = f k) : Keeps f s (s.sinkPoison t o w) := modTask_keeps fun _ => hf _ _

theorem flushSome_keeps {y : Vec} {pv pp : Nat → Bool} (hf : ∀ k ops, f { k with ops := ops } = f k) : Keeps f s (s.flushSome t o y pv pp) :=
  foldl_rel Keeps.refl (fun _ _ _ => Keeps.trans) (fun _ _ => sinkPoison_keeps hf) _ s

theorem flushUnsaved_keeps : Keeps (·.wcb) s (s.flushUnsaved t) :=
  foldl_rel Keeps.refl (fun _ _ _ => Keeps.trans)
    (fun s o => by
      split
      · split
        · exact .refl s
        · exact flushSome_keeps fun _ _ => rfl
      · exact .refl s) _ s

theorem releaseHandles_tasks : (s.releaseHandles k).tasks = s.tasks := by
  unfold State.releaseHandles
  refine foldl_rel (R := fun s u => u.tasks = s.tasks) (fun _ => rfl) (fun _ _ _ h h' => h'.trans h) (fun s p => ?_) k.ops s
  split
  · dsimp only
    split
    · split
      · rfl
      · rfl
    · rfl
  · rfl

theorem writeSave_tasks : (s.writeSave k).tasks = s.tasks := by
  unfold State.writeSave
  split
  · rfl
  · dsimp only
    split
    · rfl
    · rfl

theorem freeBay_keeps : Keeps (·.wcb) s (s.freeBay t) := by
  unfold State.freeBay
  cases s.task t with
  | none => exact .refl s
  | some k =>
    refine Keeps.trans (.of_tasks unmarkEntries_tasks) (Keeps.trans (modTask_keeps (t := t) (g := fun k => { k with entries := [] })
      fun _ => rfl) (.of_tasks recompute_tasks))

/-- A task whose pause is complete holds no region, and its buffers are as they were. -/
theorem savePaused_task (hk : s.task t = some k) : ∃ k', (s.savePaused t).task t = some k' ∧ k'.status = .paused ∧ k'.regions = [] ∧
    k'.wcb = k.wcb := by
  obtain ⟨k1, hk1, hw1⟩ := (flushUnsaved_keeps (t := t)).some hk
  unfold State.savePaused
  dsimp only
  rw [hk1]
  dsimp only
  rw [State.task, ctxCheck_tasks]
  have hsaved : Keeps (·.wcb) s (((s.flushUnsaved t).releaseHandles k1).writeSave k1 |>.freeBay t) :=
    flushUnsaved_keeps.trans (Keeps.trans (.of_tasks (writeSave_tasks.trans releaseHandles_tasks)) freeBay_keeps)
  obtain ⟨k2, hk2, hw2⟩ := hsaved.some hk
  have hmod (g : Task → Task) : aget t (((((s.flushUnsaved t).releaseHandles k1).writeSave k1).freeBay t).modTask t g).tasks = some (g k2) :=
    modTask_task_self.trans (congrArg (Option.map g) hk2)
  split
  · exact ⟨_, hmod _, rfl, rfl, hw2⟩
  · exact ⟨_, hmod _, rfl, rfl, hw2⟩

theorem pauseComplete_gives (hk : s.task t = some k) (hp : k.status = .pausing) (hs : k.ops.all (Op.stopped? k.pauseLate) = true)
    (ho : s.taskOver t k = false) : Gives (.pauseComplete t) s fun s' => ∃ k', s'.task t = some k' ∧ k'.wcb = [] ∧
      (k.wcb = [] → k.ops.all (Op.settled k.pauseLate) = true → s.bankRuns k.lctx = false → k'.status = .paused ∧ k'.regions = []) := by
  have hdrain : (s.drainAll t).task t = some { k with wcb := [] } := by rw [drainAll_task, hk]; rfl
  have hbank : (s.drainAll t).bankRuns k.lctx = s.bankRuns k.lctx := by
    obtain ⟨_, _, _, _, _, _, _, h⟩ := (drain_dried (s := s) (t := t) (p := fun _ => true)).rest
    rw [State.drainAll, h]
    rfl
  have hrun : exec (.pauseComplete t) s = .next (if k.ops.all (Op.settled k.pauseLate) && !s.bankRuns k.lctx then (s.drainAll t).savePaused t
      else s.drainAll t) := by
    show execPauseComplete t s = _
    rw [execPauseComplete, hk]
    dsimp only
    rw [if_neg (by rw [hp, hs, ho]; decide), hdrain, hbank]
    rfl
  refine ⟨_, hrun, ?_⟩
  by_cases hsettled : (k.ops.all (Op.settled k.pauseLate) && !s.bankRuns k.lctx) = true
  · rw [if_pos hsettled]
    obtain ⟨k', hk', hst, hreg, hw⟩ := savePaused_task hdrain
    exact ⟨k', hk', hw, fun _ _ _ => ⟨hst, hreg⟩⟩
  · rw [if_neg hsettled]
    refine ⟨_, hdrain, rfl, fun _ hops hb => absurd ?_ hsettled⟩
    rw [hops, hb]
    rfl

end Sys2Proof.Machine

namespace Sys2Proof.Machine

/-! PROOFS. Phases and ends of tasks, and the selection and start of placements (R49, R56, R58, R60, R270, R371, R376 to R378). -/

variable {s u v : State} {l lctx t o : Nat} {k : Task} {α : Type} {f : Task → α} {r : Ready} {more : List PReq}

/-! ## Context stacks (R58) -/

theorem avals_keeps {g : Nat → Task → Task} (h : u.tasks = avals g s.tasks) (hg : ∀ t k, f (g t k) = f k) : Keeps f s u := by
  intro t
  rw [State.task, h, aget_avals, Option.map_map]
  exact congrArg (fun g => (s.task t).map g) (funext (hg t))

theorem flushTask_keeps (hf : ∀ k ops, f { k with ops := ops } = f k) : Keeps f s (s.flushTask t) :=
  foldl_rel Keeps.refl (fun _ _ _ => Keeps.trans)
    (fun s o => by
      unfold State.flushMarks
      cases s.vec t o with
      | none => exact .refl s
      | some y => exact flushSome_keeps hf) _ s

theorem sendDecls_keeps (hf : ∀ k, f { k with decls := [] } = f k) : Keeps f s (s.sendDecls t) := by
  unfold State.sendDecls
  cases s.task t with
  | none => exact .refl s
  | some k => exact (modTask_keeps (s := s) (t := t) hf).trans (.of_tasks rfl)

theorem startPhase_task (hk : s.task t = some k) : ∃ k', (s.startPhase t).task t = some k' ∧ k'.phase = k.phase + 1 ∧ k'.balance = 0 := by
  obtain ⟨k1, hk1, hphase⟩ := (flushTask_keeps (t := t) (f := (·.phase)) fun _ _ => rfl).some hk
  unfold State.startPhase
  dsimp only
  refine ⟨_, modTask_task_self.trans (congrArg (Option.map _) (modTask_task_self.trans (congrArg (Option.map _) hk1))), ?_, rfl⟩
  show (((s.flushTask t).task t).getD default).phase + 1 = _
  rw [hk1]
  exact congrArg (· + 1) hphase

theorem phaseStep_gives (hk : s.task t = some k) (hr : k.status = .running) (hph : k.phase + 1 < k.graphs.length) (hb : k.blocked = [])
    (hf : k.ops.all (·.fault.isNone) = true) (hs : k.sinksDone = true) (hst : k.storesOut = false) (hsp : s.spawning t = false) :
    Gives (.phaseStep t) s fun s' => ∃ k', s'.task t = some k' ∧ k'.phase = k.phase + 1 ∧ k'.balance = 0 := by
  have hrun : exec (.phaseStep t) s = .next (((((s.unbindKids t).startPhase t).unmarkEntries (k.entries.map fun e =>
      (e.1, (e.2.drop k.phase).take 1))).recompute (k.entries.map (·.1))).sendDecls t) := by
    show execPhaseStep t s = _
    rw [execPhaseStep, hk]
    refine if_neg ?_
    rw [hr, decide_eq_false (by omega), hb, hf, hs, hst, hsp]
    decide
  have hbound : Keeps (·.phase) s (s.unbindKids t) := avals_keeps rfl fun _ _ => by
    split
    · rfl
    · rfl
  obtain ⟨k1, hk1, hp1⟩ := hbound.some hk
  obtain ⟨k2, hk2, hp2, hb2⟩ := startPhase_task hk1
  have hrest : Keeps (fun k => (k.phase, k.balance)) ((s.unbindKids t).startPhase t) (((((s.unbindKids t).startPhase t).unmarkEntries
      (k.entries.map fun e => (e.1, (e.2.drop k.phase).take 1))).recompute (k.entries.map (·.1))).sendDecls t) :=
    (Keeps.of_tasks (recompute_tasks.trans unmarkEntries_tasks)).trans (sendDecls_keeps fun _ => rfl)
  obtain ⟨k3, hk3, h3⟩ := hrest.some hk2
  obtain ⟨hp3, hb3⟩ := Prod.mk.inj h3
  exact ⟨_, hrun, k3, hk3, hp3.trans (hp2.trans (congrArg (· + 1) hp1)), hb3.trans hb2⟩

/-! ## Ends (R270, R371) -/

theorem taskComplete_gives (hk : s.task t = some k) (hr : k.status = .running) (ho : s.taskOver t k = true) : Gives (.taskComplete t) s fun s' =>
    s'.tasks.length + 1 = s.tasks.length := by
  refine ⟨s.endTask t (s.wrapOver t k), ?_, endTask_length hk⟩
  show execTaskComplete t s = _
  rw [execTaskComplete, hk]
  dsimp only
  rw [hr, if_pos ho]

theorem wrapComplete_gives (hk : s.task t = some k) (hr : k.status = .running ∨ k.status = .pausing) (hm : k.wrapMark = true)
    (ha : k.wrapActors ≠ []) (hc : k.wrapActors.all (·.committed) = true) (hf : k.ops.all (·.fault.isNone) = true)
    (hst : k.storesOut = false) (hkids : s.hasKids t = false) : Gives (.wrapComplete t) s fun s' => s'.tasks.length + 1 = s.tasks.length := by
  have hstatus : (k.status == .running || k.status == .pausing) = true := by
    rcases hr with h | h
    · rw [h]
      rfl
    · rw [h]
      rfl
  have hover : s.wrapOver t k = true := by
    rw [State.wrapOver, hstatus, hm, hc, hf, hst, hkids, List.isEmpty_eq_false_iff.mpr ha]
    rfl
  refine ⟨s.endTask t true, ?_, endTask_length hk⟩
  show execWrapComplete t s = _
  rw [execWrapComplete, hk]
  exact if_pos hover

/-! ## Selection (R376 to R378) -/

theorem mem_readyInsert {e : Ready} {m : List Ready} (h : e ∈ s.readyInsert r m) : e = r ∨ e ∈ m := by
  induction m with
  | nil => exact .inl (List.mem_singleton.mp h)
  | cons x m ih =>
    rw [State.readyInsert] at h
    split at h
    · exact List.mem_cons.mp h
    · rcases List.mem_cons.mp h with h | h
      · exact .inr (h ▸ List.mem_cons_self ..)
      · exact (ih h).imp_right (List.mem_cons_of_mem x)

theorem mem_foldl_readyInsert {e : Ready} {m n : List Ready} (h : e ∈ m.foldl (fun l r => s.readyInsert r l) n) : e ∈ m ∨ e ∈ n := by
  induction m generalizing n with
  | nil => exact .inr h
  | cons x m ih =>
    rcases ih h with h | h
    · exact .inl (List.mem_cons_of_mem x h)
    · rcases mem_readyInsert h with h | h
      · exact .inl (h ▸ List.mem_cons_self ..)
      · exact .inr h

theorem mem_readyOrder {e : Ready} (h : e ∈ s.readyOrder) : e ∈ s.ready :=
  (mem_foldl_readyInsert h).elim (fun h => (List.mem_filter.mp h).1) fun h => absurd h List.not_mem_nil

theorem readyInsert_requests : ({ s with requests := more } : State).readyInsert = s.readyInsert := by
  funext r m
  induction m with
  | nil => rfl
  | cons x m ih =>
    rw [State.readyInsert, State.readyInsert, ih]
    rfl

theorem readyAhead_requests : ({ s with requests := more } : State).readyAhead r = s.readyAhead r := by
  unfold State.readyAhead State.readyOrder
  rw [readyInsert_requests]
  rfl

theorem mem_takeWhile_holds {β : Type} {p : β → Bool} {e : β} {m : List β} (h : e ∈ m.takeWhile p) : e ∈ m ∧ p e = true :=
  ⟨(List.takeWhile_sublist p).subset h, List.mem_takeWhile_imp h⟩

theorem readyQueueSelect_waits {rest : List Ready} (ho : s.readyOrder = r :: rest) (hu : s.readyUnhashed r = true) :
    exec .readyQueueSelect s = .next s := by
  show execReadyQueueSelect s = _
  unfold execReadyQueueSelect
  split
  · rfl
  · rw [ho]
    dsimp only
    rw [State.pickReady, if_pos hu]
    simp

theorem readyQueueSelect_gives {rest : List Ready} (hp : s.placing = none) (hq : s.requests = []) (ho : s.readyOrder = r :: rest)
    (hu : s.readyUnhashed r = false) (hb : s.readyBlocked r = false) : Gives .readyQueueSelect s fun s' =>
      s'.requests = [.ready r] ∧ s'.held = false := by
  refine ⟨{ s with blocked := s.readyBlocked r, held := false, requests := [.ready r] }, ?_, rfl, rfl⟩
  show execReadyQueueSelect s = _
  rw [execReadyQueueSelect, hp, hq, if_neg (by decide), ho]
  dsimp only
  rw [State.pickReady, if_neg (by rw [hu]; decide), if_pos (by rw [hb]; rfl)]
  simp

/-! ## The start of a placement (R49, R56, R60, R378) -/

/-- What a request begins once it has been taken from the list. -/
def State.beginReq (s : State) : PReq → State
  | .ready r => s.beginReady r
  | .again t => (s.beginAgain t).resumeCheck (s.lctxOf t)
  | .spawn t o rec => s.beginSpawn t o rec

theorem joinerPlacementBegin_run {q : PReq} (hp : s.placing = none) (hh : s.dev.halt = false) (hf : s.dev.failAt = none)
    (hq : s.requests = q :: more) : exec .joinerPlacementBegin s = .next (({ s with requests := more } : State).beginReq q) := by
  show execJoinerPlacementBegin s = _
  rw [execJoinerPlacementBegin, hh, hf, if_neg (by decide), hp, hq]
  dsimp only
  cases q with
  | ready r => rfl
  | again t => rfl
  | spawn t o rec => rfl

theorem beginReady_gives {x : Launch} {n : Nat} {q : Placing} (hp : s.placing = none) (hh : s.dev.halt = false) (hf : s.dev.failAt = none)
    (hq : s.requests = .ready r :: more) (hx : s.launch r.launch = some x) (hpaused : x.paused = false)
    (hany : (s.ready.any fun e => e.launch == r.launch && e.tcb == r.tcb) = true) (hst : s.tcbState x.lctx r.tcb = 1)
    (hout : ({ s with requests := more } : State).readyOut r = (n, some q)) (hn : n ≠ 5) (hpass : mayPass (s.readyAhead r) = true) :
    Gives .joinerPlacementBegin s fun s' => s'.placing = some q ∧ s'.requests = more ∧
      (∀ e ∈ s'.ready, ¬(e.launch = r.launch ∧ e.tcb = r.tcb)) ∧
      ∀ e ∈ s.readyAhead r, { e with bypass := min 16 (e.bypass + 1) } ∈ s'.ready := by
  have hbegin : ({ s with requests := more } : State).beginReady r = { ({ s with requests := more } : State).setTcbState x.lctx r.tcb 2 with
      ready := (addBypass (s.readyAhead r) s.ready).filter fun e => !(e.launch == r.launch && e.tcb == r.tcb), placing := some q } := by
    unfold State.beginReady
    rw [show ({ s with requests := more } : State).launch r.launch = some x from hx]
    dsimp only
    rw [if_neg (by rw [hpaused, hany, show ({ s with requests := more } : State).tcbState x.lctx r.tcb = 1 from hst]; decide), hout]
    dsimp only
    have hopen : ¬(decide (n = 5) || !mayPass (({ s with requests := more } : State).readyAhead r)) = true := by
      rw [decide_eq_false hn, readyAhead_requests, hpass]
      decide
    rw [if_neg hopen, readyAhead_requests]
  obtain ⟨_, _, hset⟩ := setTcb_rest (s := ({ s with requests := more } : State)) (lctx := x.lctx) (va := r.tcb) (off := 0x10)
    (w := setBits (({ s with requests := more } : State).tcb x.lctx r.tcb 0x10) 32 4 2)
  refine ⟨_, (joinerPlacementBegin_run hp hh hf hq).trans (congrArg Host.Outcome.next hbegin), rfl, ?_, fun e he => ?_, fun e he => ?_⟩
  · show (({ s with requests := more } : State).setTcbState x.lctx r.tcb 2).requests = more
    rw [State.setTcbState, hset]
  · have hkey := (List.mem_filter.mp he).2
    rintro ⟨h1, h2⟩
    rw [h1, h2] at hkey
    simp at hkey
  · obtain ⟨hmem, hkey⟩ := mem_takeWhile_holds he
    have hahead : ((s.readyAhead r).any fun a => a.launch == e.launch && a.tcb == e.tcb) = true :=
      List.any_eq_true.mpr ⟨e, he, by simp⟩
    exact List.mem_filter.mpr ⟨List.mem_map.mpr ⟨e, mem_readyOrder hmem, if_pos hahead⟩, hkey⟩

theorem beginAgain_gives (hp : s.placing = none) (hh : s.dev.halt = false) (hf : s.dev.failAt = none) (hq : s.requests = .again t :: more)
    (hk : s.task t = some k) (hst : k.status = .paused) (hheld : s.ctxHeld k.lctx = false ∨ k.wrapping = true) :
    Gives .joinerPlacementBegin s fun s' => ∃ q, s'.placing = some q ∧ q.req = .again t ∧ q.lctx = k.lctx ∧
      ∀ o, s.objs[k.obj]? = some o → q.graphs = k.graphs.map (({ s with requests := more } : State).resolveGraph o k.frame) := by
  have hbegin : ∃ q, ({ s with requests := more } : State).beginAgain t = { s with requests := more, placing := some q } ∧ q.req = .again t ∧
      q.lctx = k.lctx ∧ ∀ o, s.objs[k.obj]? = some o → q.graphs = k.graphs.map (({ s with requests := more } : State).resolveGraph o k.frame) := by
    unfold State.beginAgain
    rw [show ({ s with requests := more } : State).task t = some k from hk]
    dsimp only
    have hopen : ¬(k.status != .paused || (({ s with requests := more } : State).ctxHeld k.lctx && !k.wrapping)) = true := by
      rw [hst]
      rcases hheld with h | h
      · rw [show ({ s with requests := more } : State).ctxHeld k.lctx = false from h, Bool.false_and]
        decide
      · rw [h, Bool.not_true, Bool.and_false]
        decide
    rw [if_neg hopen]
    exact ⟨_, rfl, rfl, rfl, fun o ho => by rw [ho]⟩
  obtain ⟨q, hb, hreq, hl, hg⟩ := hbegin
  obtain ⟨_, _, _, _, _, hcheck⟩ := resumeCheck_rest (s := ({ s with requests := more, placing := some q } : State)) (lctx := s.lctxOf t)
  refine ⟨_, joinerPlacementBegin_run hp hh hf hq, q, ?_, hreq, hl, hg⟩
  show ((({ s with requests := more } : State).beginAgain t).resumeCheck (s.lctxOf t)).placing = some q
  rw [hb, hcheck]

theorem beginSpawn_gives {rec : Nat} (hp : s.placing = none) (hh : s.dev.halt = false) (hf : s.dev.failAt = none)
    (hq : s.requests = .spawn t o rec :: more) (hk : s.task t = some k) (hst : k.status ≠ .stopping) :
    Gives .joinerPlacementBegin s fun s' => ∃ q, s'.placing = some q ∧ q.req = .spawn t o rec ∧ q.lctx = k.lctx := by
  have hbegin : ∃ q, ({ s with requests := more } : State).beginSpawn t o rec = { s with requests := more, placing := some q } ∧
      q.req = .spawn t o rec ∧ q.lctx = k.lctx := by
    unfold State.beginSpawn
    rw [show ({ s with requests := more } : State).task t = some k from hk]
    dsimp only
    rw [if_neg (fun h => hst (beq_iff_eq.mp h))]
    exact ⟨_, rfl, rfl, rfl⟩
  obtain ⟨q, hb, hreq, hl⟩ := hbegin
  refine ⟨_, joinerPlacementBegin_run hp hh hf hq, q, ?_, hreq, hl⟩
  show (({ s with requests := more } : State).beginSpawn t o rec).placing = some q
  rw [hb]

end Sys2Proof.Machine

namespace Sys2Proof.Machine

/-! PROOFS. Ends of placements and hashes of pages (R49 to R51, R56, R165, R166). -/

variable {s u v : State} {l lctx t o : Nat} {k : Task} {q : Placing}

/-! ## What a task holds from its placement on -/

/-- The bay of a task, its names, its phase, its regions and the start of its accounts. -/
def Task.standing (k : Task) : Rect × Nat × Nat × Nat × List Region × Nat := (k.bay, k.lctx, k.tcb, k.phase, k.regions, k.startAt)

/-- From `s` to `u` the tasks stand where they stood, and the Joiner is at the same placement. -/
structure Standing (s u : State) : Prop where
  tasks : Keeps Task.standing s u
  placing : u.placing = s.placing

theorem Standing.refl (s : State) : Standing s s := ⟨.refl s, rfl⟩

theorem Standing.trans (h : Standing s u) (h' : Standing u v) : Standing s v := ⟨h.tasks.trans h'.tasks, h'.placing.trans h.placing⟩

theorem Standing.of_eq (ht : u.tasks = s.tasks) (hp : u.placing = s.placing) : Standing s u := ⟨.of_tasks ht, hp⟩

theorem Standing.after (h : Standing u v) (ht : u.tasks = s.tasks) (hp : u.placing = s.placing) : Standing s v := (of_eq ht hp).trans h

theorem markEntries_standing {cls : Nat} {es : List (Nat × List Nat)} : Standing s (s.markEntries cls lctx es) := by
  induction es generalizing s with
  | nil => exact .refl s
  | cons e es ih =>
    rw [State.markEntries]
    exact ih.after rfl rfl

theorem restoreRegion_standing {r : Region} {img : List (Nat × Byte) × List (Nat × Nat)} : Standing s (s.restoreRegion r img) := by
  refine (foldl_rel Standing.refl (fun _ _ _ => Standing.trans) (fun s x => ?_) img.2 _).after rfl rfl
  split
  · exact .of_eq rfl rfl
  · exact .refl s

theorem layOut_standing {saved : List (Nat × List (Nat × Byte) × List (Nat × Nat))} {rs : List Region} : Standing s (s.layOut saved rs) := by
  induction rs generalizing s with
  | nil => exact .refl s
  | cons r rs ih =>
    rw [State.layOut]
    split
    · exact restoreRegion_standing.trans ih
    · exact ih.after rfl rfl

theorem recompute_standing {ts : List Nat} : Standing s (s.recompute ts) := by
  induction ts generalizing s with
  | nil => exact .refl s
  | cons i ts ih =>
    rw [State.recompute]
    exact ih.after rfl rfl

theorem sendDecls_standing : Standing s (s.sendDecls t) := by
  refine ⟨sendDecls_keeps fun _ => rfl, ?_⟩
  unfold State.sendDecls
  cases s.task t with
  | none => rfl
  | some k => rfl

theorem setTcbState_standing {va st : Nat} : Standing s (s.setTcbState lctx va st) := by
  obtain ⟨_, _, h⟩ := setTcb_rest (s := s) (lctx := lctx) (va := va) (off := 0x10) (w := setBits (s.tcb lctx va 0x10) 32 4 st)
  exact .of_eq (by rw [State.setTcbState, h]) (by rw [State.setTcbState, h])

theorem pauseTasks_standing {p : Nat → Task → Bool} : Standing s (s.pauseTasks p) :=
  ⟨avals_keeps rfl fun _ _ => by
    split
    · rfl
    · rfl, rfl⟩

theorem pauseTakesEffect_standing : Standing s (s.pauseTakesEffect lctx) := pauseTasks_standing.trans (.of_eq rfl rfl)

theorem checkStopCond_standing : Standing s (s.checkStopCond t o) := by
  rcases checkStopCond_cases (s := s) (t := t) (o := o) with h | ⟨l, h⟩
  · rw [h]
    exact .refl s
  · rw [h]
    exact pauseTakesEffect_standing

theorem nameStop_standing : Standing s (s.nameStop t lctx) := by
  unfold State.nameStop
  split
  · split
    · split
      · exact .refl s
      · split
        · exact checkStopCond_standing.after rfl rfl
        · dsimp only
          split
          · exact .of_eq rfl rfl
          · exact .of_eq rfl rfl
    · exact .refl s
  · exact .refl s

theorem pauseIfDue_standing : Standing s (s.pauseIfDue t) := by
  unfold State.pauseIfDue
  split
  · exact .refl s
  · split
    · exact pauseTasks_standing
    · exact .refl s

theorem ctxCheck_standing : Standing s (s.ctxCheck lctx) := by
  obtain ⟨_, _, _, _, _, h⟩ := ctxCheck_rest (s := s) (lctx := lctx)
  rw [h]
  exact .of_eq rfl rfl

/-! ## The end of a placement (R49, R51) -/

theorem placeOver_placing {res : Dbl} : (s.placeOver q res).placing = none := by
  unfold State.placeOver
  dsimp only
  split
  · obtain ⟨_, _, _, _, _, _, h⟩ := (finish_finished (s := { s with placing := none }) (l := q.launch) (va := q.tcb) (st := 5) (res := res)).rest
    rw [h]
  · rfl
  · rfl

/-- A task takes its number, and the Joiner is free. -/
def State.seated (s : State) (t : Nat) (k : Task) : State :=
  { s with placing := none, tasks := aset t k s.tasks, nextTask := max s.nextTask (t + 1) }

/-- The placement of a ready entry ends with its task. -/
theorem placeDone_ready {r : Ready} {bay : Rect} {c : PlaceChoice} {caps : List (List Nat)} {regions : List Region} (hq : q.req = .ready r) :
    (s.placeDone q bay c caps regions).placing = none ∧ ∃ k, (s.placeDone q bay c caps regions).task s.nextTask = some k ∧
      k.standing = (bay, q.lctx, q.tcb, 0, regions, s.fc) := by
  have hnew : (s.newTaskOf q bay c caps regions).standing = (bay, q.lctx, q.tcb, 0, regions, s.fc) := by
    obtain ⟨req, la, lc, tcb, obj, graph, frame, graphs, pages, out⟩ := q
    subst hq
    rfl
  have hset : (s.seated s.nextTask (s.newTaskOf q bay c caps regions)).task s.nextTask = some (s.newTaskOf q bay c caps regions) := aget_aset_self
  have hstand : Standing (s.seated s.nextTask (s.newTaskOf q bay c caps regions)) (s.placeDone q bay c caps regions) := by
    unfold State.placeDone
    rw [hq]
    generalize s.newTaskOf q bay c caps regions = k
    dsimp only
    refine Standing.trans ?_ pauseIfDue_standing
    refine Standing.trans ?_ (Standing.of_eq (s := ((State.modCtx _ q.lctx _).setTcbState q.lctx q.tcb 3).nameStop s.nextTask q.lctx) rfl rfl)
    refine Standing.trans ?_ nameStop_standing
    refine Standing.trans ?_ setTcbState_standing
    refine Standing.trans ?_ (Standing.of_eq (s := State.sendDecls _ _) rfl rfl)
    exact markEntries_standing.trans (layOut_standing.trans (recompute_standing.trans sendDecls_standing))
  obtain ⟨k, hk, hks⟩ := hstand.tasks.some hset
  exact ⟨hstand.placing, k, hk, hks.trans hnew⟩

/-- A placement whose pages are all verified goes on to its outcome. -/
theorem endPlacement_verified {ob : Obj} {c : PlaceChoice} (ho : s.objs[q.obj]? = some ob)
    (hpages : ∀ i ∈ q.pages, ob.unhashed i = false ∧ i ∉ ob.failed) : q.pages.any ob.unhashed = false ∧ q.pages.find? ob.failed.contains = none :=
  ⟨List.any_eq_false.mpr fun i hi => by rw [(hpages i hi).1]; decide,
    List.find?_eq_none.mpr fun i hi h => (hpages i hi).2 (List.contains_iff_mem.mp h)⟩

theorem placementEnd_gives {ob : Obj} {c : PlaceChoice} (hq : s.placing = some q) (ho : s.objs[q.obj]? = some ob)
    (hpages : ∀ i ∈ q.pages, ob.unhashed i = false ∧ i ∉ ob.failed) :
    (∀ r bay caps regions, q.req = .ready r → q.out = .fits bay none → s.judge q.lctx bay q.graphs q.graphs c [] = .ok caps regions →
      Gives (.placementEnd c) s fun s' => s'.placing = none ∧ ∃ k, s'.task s.nextTask = some k ∧ k.bay = bay ∧
        k.lctx = q.lctx ∧ k.tcb = q.tcb ∧ k.phase = 0 ∧ k.regions = regions ∧ k.startAt = s.fc) ∧
    (∀ code who image, q.out = .report code who image → Gives (.placementEnd c) s fun s' => s'.placing = none) := by
  obtain ⟨hunhashed, hfailed⟩ := endPlacement_verified (c := c) ho hpages
  have hrun : exec (.placementEnd c) s = .next ((s.endPlacement q c).ctxCheck q.lctx) := by
    show execPlacementEnd c s = _
    rw [execPlacementEnd, hq]
  refine ⟨fun r bay caps regions hreq hout hj => ?_, fun code who image hout => ?_⟩
  · have hend : s.endPlacement q c = s.placeDone q bay c caps regions := by
      rw [State.endPlacement, ho]
      dsimp only
      rw [hunhashed, if_neg (by decide), hfailed, hout, hreq]
      dsimp only
      rw [List.drop_zero, hj]
    obtain ⟨hplacing, k, hk, hstand⟩ := placeDone_ready (s := s) (bay := bay) (c := c) (caps := caps) (regions := regions) hreq
    obtain ⟨k', hk', hs'⟩ := (ctxCheck_standing (lctx := q.lctx)).tasks.some hk
    refine ⟨_, hrun, ?_, k', ?_, ?_⟩
    · rw [hend]
      exact ctxCheck_standing.placing.trans hplacing
    · rw [hend]
      exact hk'
    · rw [hstand] at hs'
      simpa [Task.standing] using hs'
  · have hend : s.endPlacement q c = s.placeReport q code who image := by
      rw [State.endPlacement, ho]
      dsimp only
      rw [hunhashed, if_neg (by decide), hfailed, hout]
    refine ⟨_, hrun, ctxCheck_standing.placing.trans ?_⟩
    rw [hend]
    exact placeOver_placing

end Sys2Proof.Machine

namespace Sys2Proof.Machine

/-! PROOFS. The hashes of pages (R165, R166), and the life of a task. -/

variable {s u v : State} {l lctx i page : Nat} {q : Placing} {ob : Obj}

/-- From `s` to `u` no object has changed, and the Joiner is at the same placement. -/
def SameObjs (s u : State) : Prop := u.objs = s.objs ∧ u.placing = s.placing

theorem SameObjs.refl (s : State) : SameObjs s s := ⟨rfl, rfl⟩

theorem SameObjs.trans (h : SameObjs s u) (h' : SameObjs u v) : SameObjs s v := ⟨h'.1.trans h.1, h'.2.trans h.2⟩

theorem Written.sameObjs (h : Written s u) : SameObjs s u := by
  obtain ⟨_, _, rfl⟩ := h
  exact .refl _

theorem Finished.sameObjs (h : Finished s u) : SameObjs s u := by
  obtain ⟨_, _, _, _, _, _, rfl⟩ := h.rest
  exact .refl _

theorem Recorded.sameObjs (h : Recorded s u) : SameObjs s u := by
  obtain ⟨_, _, _, _, _, rfl⟩ := h.rest
  exact .refl _

theorem ctxCheck_sameObjs : SameObjs s (s.ctxCheck lctx) := by
  obtain ⟨_, _, _, _, _, h⟩ := ctxCheck_rest (s := s) (lctx := lctx)
  rw [h]
  exact ⟨rfl, rfl⟩

/-! ## Look-ahead stages that halt -/

theorem seqRecord_sameObjs {code : BitVec 7} {detail tcb graph : Nat} : SameObjs s (s.seqRecord l code detail tcb graph) := by
  unfold State.seqRecord
  split
  · exact .refl s
  · exact queueRecord_recorded.sameObjs

theorem lookHalt_sameObjs {n : Packet} {off detail : Nat} {code : BitVec 7} : SameObjs s (s.lookHalt l n off code detail) :=
  seqRecord_sameObjs.trans ⟨rfl, rfl⟩

theorem hashHalt_sameObjs {x : Launch} {n : Packet} {off : Nat} : SameObjs s (s.hashHalt l x ob off n page) := by
  unfold State.hashHalt
  split
  · exact lookHalt_sameObjs
  · dsimp only
    refine SameObjs.trans ?_ finish_finished.sameObjs
    refine SameObjs.trans ?_ (foldl_rel SameObjs.refl (fun _ _ _ => SameObjs.trans) (fun _ _ => prepareTcb_written.sameObjs) _ _)
    refine SameObjs.trans ?_ fillTcb_written.sameObjs
    exact seqRecord_sameObjs.trans ⟨rfl, rfl⟩

theorem hashFailLooks_sameObjs : SameObjs s (s.hashFailLooks i page) := by
  refine foldl_rel SameObjs.refl (fun _ _ _ => SameObjs.trans) (fun s' z => ?_) s.launches s
  dsimp only
  split
  · split
    · split
      · exact lookHalt_sameObjs
      · exact hashHalt_sameObjs
    · exact .refl s'
  · exact .refl s'

/-! ## Placements that fail -/

theorem placeOver_objs {res : Dbl} : (s.placeOver q res).objs = s.objs := by
  unfold State.placeOver
  dsimp only
  split
  · exact finish_finished.sameObjs.1
  · rfl
  · rfl

theorem spawnReply_objs {n : Nat} : (s.spawnReply q n).objs = s.objs := by
  unfold State.spawnReply
  split
  · rfl
  · rfl

theorem placedFaulted_objs {res : Dbl} : (s.placedFaulted q res).objs = s.objs := by
  unfold State.placedFaulted
  dsimp only
  split
  · rfl
  · rfl
  · rfl

theorem placeFault_objs {code : BitVec 7} {graph who detail : Nat} : (s.placeFault q code graph who detail).objs = s.objs :=
  placeOver_objs.trans (placedFaulted_objs.trans (spawnReply_objs.trans queueRecord_recorded.sameObjs.1))

theorem hashFailPlacing_objs {was : State} : (s.hashFailPlacing was i page).objs = s.objs := by
  unfold State.hashFailPlacing
  split
  · split
    · split
      · refine ctxCheck_sameObjs.1.trans (placeFault_objs.trans ?_)
        exact setTcb_written.sameObjs.1
      · rfl
    · rfl
  · split
    · exact ctxCheck_sameObjs.1.trans placeFault_objs
    · rfl

theorem hashFailPlacing_placing {was : State} (hq : s.placing = some q) (hr : q.reads i page = true) :
    (s.hashFailPlacing was i page).placing = none := by
  rw [State.hashFailPlacing, hq]
  dsimp only
  rw [if_pos hr]
  exact ctxCheck_sameObjs.2.trans placeOver_placing

theorem touchSeg_sameObjs {off n : Nat} : SameObjs s (s.touchSeg ob off n) := by
  obtain ⟨_, h⟩ := touchSeg_rest (s := s) (o := ob) (off := off) (n := n)
  rw [h]
  exact ⟨rfl, rfl⟩

theorem pageHashComplete_gives (ho : s.objs[i]? = some ob) (hu : ob.unhashed page = true) (hr : s.pageRead i page = true) :
    Gives (.pageHashComplete i page) s fun s' => ∃ o', s'.objs[i]? = some o' ∧ if s.pageGood ob page then page ∈ o'.verified
      else page ∈ o'.failed ∧ o'.tainted = true ∧ ∀ q, s.placing = some q → q.reads i page = true → s'.placing = none := by
  have hrun : exec (.pageHashComplete i page) s = if s.pageGood ob page then
      .next ((s.touchSeg ob (page * pageBytes) pageBytes).modObj i fun o => { o with verified := page :: o.verified })
    else .next (((((s.touchSeg ob (page * pageBytes) pageBytes).modObj i fun o => { o with failed := page :: o.failed }).taint i).hashFailLooks
      i page).hashFailPlacing s i page) := by
    show execPageHashComplete i page s = _
    rw [execPageHashComplete, ho]
    exact if_neg (by rw [hu, hr]; decide)
  obtain ⟨hobjs, hplacing⟩ := touchSeg_sameObjs (s := s) (ob := ob) (off := page * pageBytes) (n := pageBytes)
  have hread (f : Obj → Obj) : ((s.touchSeg ob (page * pageBytes) pageBytes).modObj i f).objs[i]? = some (f ob) := by
    rw [modObj_objs, getElem?_lmod_self, hobjs, ho]
    rfl
  by_cases hg : s.pageGood ob page = true
  · rw [if_pos hg] at hrun
    refine ⟨_, hrun, _, hread _, ?_⟩
    rw [if_pos hg]
    exact List.mem_cons_self ..
  · rw [if_neg hg] at hrun
    have htaint : (((s.touchSeg ob (page * pageBytes) pageBytes).modObj i fun o => { o with failed := page :: o.failed }).taint i).objs[i]? =
        some { ob with failed := page :: ob.failed, tainted := true } :=
      getElem?_lmod_self.trans (congrArg (Option.map _) (hread _))
    obtain ⟨hlooks, hlplacing⟩ := hashFailLooks_sameObjs (i := i) (page := page)
      (s := ((s.touchSeg ob (page * pageBytes) pageBytes).modObj i fun o => { o with failed := page :: o.failed }).taint i)
    refine ⟨_, hrun, { ob with failed := page :: ob.failed, tainted := true }, ?_, ?_⟩
    · rw [hashFailPlacing_objs, hlooks]
      exact htaint
    · rw [if_neg hg]
      exact ⟨List.mem_cons_self .., rfl, fun q hq hqr => hashFailPlacing_placing ((hlplacing.trans hplacing).trans hq) hqr⟩

/-- Settles O57, a task's life part by part: what its records, its phases, its end, its placement and the pages that it needs leave. -/
theorem taskLives : Obligations.TaskLives := by
  unfold Obligations.TaskLives
  refine ⟨fun s t o p k c code d ho hk hf hr hc hlen => freezeRecord_gives ho hk hf hr hc hlen, ?_, ?_, ?_, ?_, ?_, ?_⟩
  · intro s lctx c hc hpausing hpaused hidle hb hbusy ht
    exact stuckTimeout_gives hc (by rw [State.stuckNow, hpausing, hpaused, decide_eq_true hidle, bne_iff_ne.mpr hb, hbusy, ht]; rfl)
  · intro s t o k hk hp
    refine ⟨fun f hf hlate => ?_, fun f at_ hf hat hlate => ?_, pauseComplete_gives hk hp⟩
    · refine ⟨s.saveFiring t o, ?_, saveFiring_firingOf.trans (congrArg (Option.map _) hf)⟩
      show execPauseFiringLimit t o s = _
      rw [execPauseFiringLimit, hk]
      exact congrArg Host.Outcome.next (if_pos (by rw [hp, Task.pauseLate, decide_eq_true hlate]; rfl))
    · refine ⟨s.saveFiring t o, ?_, saveFiring_firingOf.trans (congrArg (Option.map _) hf)⟩
      show execPowerFailFiringSave t o s = _
      rw [execPowerFailFiringSave, hat, hk]
      exact congrArg Host.Outcome.next (if_pos (by rw [hp, decide_eq_true hlate]; rfl))
  · intro s t k hk
    exact ⟨fun hr hph hb hf hs hst hsp => phaseStep_gives hk hr hph hb hf hs hst hsp, fun hr ho _ => taskComplete_gives hk hr ho,
      fun hr hm ha hc hf hst hkids => wrapComplete_gives hk hr hm ha hc hf hst hkids⟩
  · intro s r rest hp
    exact ⟨fun _ ho hu => readyQueueSelect_waits ho hu, fun hq ho hu hb => readyQueueSelect_gives hp hq ho hu hb,
      fun more x n q hh hf hq hx hpaused hany hst hout hn hpass => beginReady_gives hp hh hf hq hx hpaused hany hst hout hn hpass,
      fun more t k hh hf hq hk hst hheld => beginAgain_gives hp hh hf hq hk hst hheld,
      fun more t o rec k hh hf hq hk hst => beginSpawn_gives hp hh hf hq hk hst⟩
  · intro s q o c hq ho hpages
    exact placementEnd_gives hq ho hpages
  · intro s i page o ho hu hr
    exact pageHashComplete_gives ho hu hr

end Sys2Proof.Machine

namespace Sys2Proof.Machine

/-! PROOFS. What a step may do to memory, to the control cores and to the list of contexts: the relations of the frames and of the
invariant (R6, R10, R152). -/

variable {s u v : State} {k lctx : Nat}

/-! ## Cores -/

/-- A core keeps its general registers, and the reserved bits of STATUS and TVEC stay zero. -/
structure Core.Like (c c' : Core) : Prop where
  regs : c'.regs = c.regs
  status : c.status &&& ~~~(7 : Dbl) = 0 → c'.status &&& ~~~(7 : Dbl) = 0
  tvec : c.tvec &&& ~~~(0x3FFFC : Dbl) = 0 → c'.tvec &&& ~~~(0x3FFFC : Dbl) = 0

theorem Core.Like.refl (c : Core) : c.Like c := ⟨rfl, id, id⟩

theorem Core.Like.trans {c c' c'' : Core} (h : c.Like c') (h' : c'.Like c'') : c.Like c'' :=
  ⟨h'.regs.trans h.regs, h'.status ∘ h.status, h'.tvec ∘ h.tvec⟩

theorem trapStatus_reserved {st : Dbl} (h : st &&& ~~~(7 : Dbl) = 0) : trapStatus st &&& ~~~(7 : Dbl) = 0 := by
  have hbit (i : Nat) : (st &&& ~~~(7 : Dbl)).getLsbD i = false := by rw [h]; exact BitVec.getLsbD_zero
  refine BitVec.eq_of_getLsbD_eq fun i hi => ?_
  obtain ⟨-, -, hhigh⟩ := trapStatus_bits st
  rw [show (0 : Dbl).getLsbD i = false from BitVec.getLsbD_zero, BitVec.getLsbD_and]
  by_cases h2 : 2 ≤ i
  · rw [hhigh i h2, ← BitVec.getLsbD_and]
    exact hbit i
  · have hmask : ∀ j : Fin 3, (~~~(7 : Dbl)).getLsbD j.val = false := by decide
    rw [hmask ⟨i, by omega⟩, Bool.and_false]

theorem Core.like_trap {c : Core} {epc cause eval : Dbl} : c.Like { c.trap epc cause eval with fsr := none } :=
  ⟨rfl, trapStatus_reserved, id⟩

theorem forall₂_trans {α : Type} {R : α → α → Prop} (ht : ∀ a b c, R a b → R b c → R a c) {l m n : List α} (h : List.Forall₂ R l m)
    (h' : List.Forall₂ R m n) : List.Forall₂ R l n := by
  induction h generalizing n with
  | nil => exact h'
  | cons hab _ ih =>
    cases h' with
    | cons hbc ht' => exact .cons (ht _ _ _ hab hbc) (ih ht')

theorem forall₂_lmod {α : Type} {R : α → α → Prop} {g : α → α} {n : Nat} {l : List α} (hr : ∀ a, R a a) (hg : ∀ a, R a (g a)) :
    List.Forall₂ R l (lmod n g l) := by
  induction l generalizing n with
  | nil => cases n <;> exact .nil
  | cons a l ih =>
    cases n with
    | zero => exact .cons (hg a) (List.forall₂_same.mpr fun a _ => hr a)
    | succ n => exact .cons (hr a) ih

theorem forall₂_map {α : Type} {R : α → α → Prop} {g : α → α} {l : List α} (hg : ∀ a, R a (g a)) : List.Forall₂ R l (l.map g) := by
  induction l with
  | nil => exact .nil
  | cons a l ih => exact .cons (hg a) ih

/-! ## Keys of a list of pairs -/

theorem aset_keys_nodup {κ α : Type} [DecidableEq κ] {j : κ} {a : α} {m : List (κ × α)} (h : (m.map Prod.fst).Nodup) :
    ((aset j a m).map Prod.fst).Nodup := by
  have hmem (m : List (κ × α)) {i : κ} (hi : i ∈ (aset j a m).map Prod.fst) : i = j ∨ i ∈ m.map Prod.fst := by
    induction m with
    | nil => exact .inl (List.mem_singleton.mp hi)
    | cons z m ih =>
      rw [aset] at hi
      split at hi
      · next hz => exact .inr (by rw [List.map_cons, hz]; exact hi)
      · rcases List.mem_cons.mp hi with hi | hi
        · exact .inr (hi ▸ List.mem_cons_self ..)
        · exact (ih hi).imp_right (List.mem_cons_of_mem _)
  induction m with
  | nil => exact List.nodup_singleton j
  | cons z m ih =>
    obtain ⟨hz, hm⟩ := List.nodup_cons.mp h
    rw [aset]
    split
    · next he => exact List.nodup_cons.mpr ⟨he ▸ hz, hm⟩
    · next he => exact List.nodup_cons.mpr ⟨fun hc => (hmem m hc).elim he hz, ih hm⟩

theorem adel_keys_nodup {κ α : Type} [DecidableEq κ] {j : κ} {m : List (κ × α)} (h : (m.map Prod.fst).Nodup) :
    ((adel j m).map Prod.fst).Nodup := h.sublist (adel_sublist.map Prod.fst)

/-! ## The relations -/

/-- From `s` to `u` what the invariant says of memory, contexts and cores is kept, and no general register of a core changes. -/
structure Kept (s u : State) : Prop where
  mem : s.memOk → u.memOk
  ctxs : (s.ctxs.map Prod.fst).Nodup → (u.ctxs.map Prod.fst).Nodup
  cores : List.Forall₂ Core.Like s.cores u.cores

/-- From `s` to `u` no byte of memory changes besides. -/
structure Steady (s u : State) : Prop where
  kept : Kept s u
  mem : u.mem = s.mem

theorem Kept.refl (s : State) : Kept s s := ⟨id, id, List.forall₂_same.mpr fun c _ => .refl c⟩

theorem Kept.trans (h : Kept s u) (h' : Kept u v) : Kept s v :=
  ⟨h'.mem ∘ h.mem, h'.ctxs ∘ h.ctxs, forall₂_trans (R := Core.Like) (fun _ _ _ => Core.Like.trans) h.cores h'.cores⟩

theorem Kept.of_eq (hm : s.memOk → u.memOk) (hx : u.ctxs = s.ctxs) (hc : u.cores = s.cores) : Kept s u :=
  ⟨hm, fun h => hx ▸ h, hc ▸ (Kept.refl s).cores⟩

theorem Kept.after (h : Kept u v) (hm : u.mem = s.mem) (hx : u.ctxs = s.ctxs) (hc : u.cores = s.cores) : Kept s v :=
  Kept.trans (.of_eq (memOk_of hm) hx hc) h

/-- Memory is written first. -/
theorem Kept.after' {m : List Host.Cell} (h : Kept { s with mem := m } v) (hm : s.memOk → Memory.wf m = true) : Kept s v :=
  Kept.trans (u := { s with mem := m }) (.of_eq hm rfl rfl) h

theorem Kept.foldl {α : Type} {f : State → α → State} {l : List α} (h : ∀ s a, Kept s (f s a)) (s : State) : Kept s (l.foldl f s) :=
  foldl_rel Kept.refl (fun _ _ _ => Kept.trans) h l s

theorem Steady.refl (s : State) : Steady s s := ⟨.refl s, rfl⟩

theorem Steady.trans (h : Steady s u) (h' : Steady u v) : Steady s v := ⟨h.kept.trans h'.kept, h'.mem.trans h.mem⟩

theorem Steady.of_eq (hm : u.mem = s.mem) (hx : u.ctxs = s.ctxs) (hc : u.cores = s.cores) : Steady s u := ⟨.of_eq (memOk_of hm) hx hc, hm⟩

theorem Steady.after (h : Steady u v) (hm : u.mem = s.mem) (hx : u.ctxs = s.ctxs) (hc : u.cores = s.cores) : Steady s v :=
  Steady.trans (.of_eq hm hx hc) h

theorem Steady.foldl {α : Type} {f : State → α → State} {l : List α} (h : ∀ s a, Steady s (f s a)) (s : State) : Steady s (l.foldl f s) :=
  foldl_rel Steady.refl (fun _ _ _ => Steady.trans) h l s

/-- What a step that may not be taken gives, if anything, is related to `s`. -/
def Gets (R : State → State → Prop) (s : State) : Option State → Prop
  | some u => R s u
  | none => True

theorem Gets.of {R : State → State → Prop} {x : Option State} (h : Gets R s x) (hx : x = some u) : R s u := by
  rw [hx] at h
  exact h

theorem Kept.fst {α : Type} {p : State × α} {a : α} (h : Kept s p.1) (hp : p = (u, a)) : Kept s u := by rwa [hp] at h

theorem Kept.snd {α : Type} {p : α × State} {a : α} (h : Kept s p.2) (hp : p = (a, u)) : Kept s u := by rwa [hp] at h

theorem Steady.fst {α : Type} {p : State × α} {a : α} (h : Steady s p.1) (hp : p = (u, a)) : Steady s u := by rwa [hp] at h

theorem Steady.snd {α : Type} {p : α × State} {a : α} (h : Steady s p.2) (hp : p = (a, u)) : Steady s u := by rwa [hp] at h

theorem Kept.gets {x : Option State} (h : Kept s u) (hx : Gets Kept u x) : Gets Kept s x := by
  cases x with
  | none => trivial
  | some w => exact Kept.trans h hx

theorem Steady.gets {x : Option State} (h : Steady s u) (hx : Gets Steady u x) : Gets Steady s x := by
  cases x with
  | none => trivial
  | some w => exact Steady.trans h hx

theorem Kept.bind {x : Option State} {g : State → State} (hx : Gets Kept s x) (hg : ∀ u, Kept u (g u)) : Gets Kept s (x.map g) := by
  cases x with
  | none => trivial
  | some w => exact Kept.trans hx (hg w)

theorem Steady.bind {x : Option State} {g : State → State} (hx : Gets Steady s x) (hg : ∀ u, Steady u (g u)) : Gets Steady s (x.map g) := by
  cases x with
  | none => trivial
  | some w => exact Steady.trans hx (hg w)

theorem Gets.kept {x : Option State} (h : Gets Steady s x) : Gets Kept s x := by
  cases x with
  | none => trivial
  | some u => exact Steady.kept h

theorem Gets.map {R : State → State → Prop} {α : Type} {g : α → State} {x : Option α} (h : ∀ a, R s (g a)) : Gets R s (x.map g) := by
  cases x with
  | none => trivial
  | some a => exact h a

theorem Gets.getD {R : State → State → Prop} {x : Option State} (h : Gets R s x) (hu : R s u) : R s (x.getD u) := by
  cases x with
  | none => exact hu
  | some w => exact h

theorem Gets.findSome {R : State → State → Prop} {α : Type} {g : α → Option State} {l : List α} (h : ∀ a, Gets R s (g a)) :
    Gets R s (l.findSome? g) := by
  cases hx : l.findSome? g with
  | none => trivial
  | some u =>
    obtain ⟨a, -, ha⟩ := List.exists_of_findSome?_eq_some hx
    exact (h a).of ha

/-- What a step ends with, where it ends, is related to `s`. -/
def Leads (R : State → State → Prop) (s : State) : Host.Outcome State Fault Refusal → Prop
  | .next u => R s u
  | _ => True

theorem Leads.of {R : State → State → Prop} {x : Host.Outcome State Fault Refusal} (h : Leads R s x) (hx : x = .next u) : R s u := by
  rw [hx] at h
  exact h

theorem Leads.kept {x : Host.Outcome State Fault Refusal} (h : Leads Steady s x) : Leads Kept s x := by
  cases x with
  | next u => exact Steady.kept h
  | _ => trivial

theorem Leads.ite {R : State → State → Prop} {c : Prop} [Decidable c] {x y : Host.Outcome State Fault Refusal}
    (hx : Leads R s x) (hy : Leads R s y) : Leads R s (if c then x else y) := by
  split
  · exact hx
  · exact hy

/-! ## The operations that all others are made of -/

theorem modCore_steady {g : Core → Core} (hg : ∀ c, Core.Like c (g c)) : Steady s (s.modCore k g) :=
  ⟨⟨id, id, forall₂_lmod Core.Like.refl hg⟩, rfl⟩

theorem coreTrapAt_steady {epc cause eval : Dbl} : Steady s (s.coreTrapAt k epc cause eval) :=
  ⟨⟨id, id, forall₂_lmod Core.Like.refl fun _ => Core.like_trap⟩, rfl⟩

theorem modCtx_steady {g : Ctx → Ctx} : Steady s (s.modCtx lctx g) :=
  have hkeys : (s.modCtx lctx g).ctxs.map Prod.fst = s.ctxs.map Prod.fst := amod_map_same fun _ => rfl
  ⟨⟨id, fun h => hkeys ▸ h, (Kept.refl s).cores⟩, rfl⟩

theorem setCtx_steady {c : Ctx} : Steady s { s with ctxs := aset lctx c s.ctxs } := ⟨⟨id, aset_keys_nodup, (Kept.refl s).cores⟩, rfl⟩

theorem writeLoc_kept {l : Loc} {n x : Nat} : Kept s (s.writeLoc l n x) := .of_eq writeLoc_memOk rfl rfl

end Sys2Proof.Machine

namespace Sys2Proof.Machine

/-! PROOFS. What the operations of accesses leave, in each of their outcomes, for the frames and the invariant (R324, R328, R343). -/

variable {s u : State}

theorem modTask_steady {t : ℕ} {f : Task → Task} : Steady s (s.modTask t f) :=
  .of_eq rfl rfl rfl

theorem modOp_steady {t : ℕ} {o : ℕ} {f : Op → Op} : Steady s (s.modOp t o f) :=
  modTask_steady

theorem modMem_steady {t : ℕ} {o : ℕ} {f : Mem → Mem} : Steady s (s.modMem t o f) :=
  modOp_steady

theorem busy_steady {c : ℕ} : Steady s (s.busy c) :=
  modCtx_steady

theorem bumpId_steady : Steady s s.bumpId :=
  .of_eq rfl rfl rfl

theorem issued_steady : Steady s s.issued :=
  .of_eq rfl rfl rfl

theorem freeze_steady {t : ℕ} {o : ℕ} {code : BitVec 7} {detail : Word} : Steady s (s.freeze t o code detail) :=
  modOp_steady.trans issued_steady

theorem dropMiss_steady {die : ℕ} {u : XUser} {lctx : ℕ} {va : ℕ} : Steady s (s.dropMiss die u lctx va) := by
  unfold State.dropMiss
  split
  · exact Steady.refl _
  · dsimp only
    exact Steady.of_eq rfl rfl rfl

theorem modSpline_steady {t : ℕ} {o : ℕ} {f : Spline → Spline} : Steady s (s.modSpline t o f) :=
  modOp_steady

theorem addSpan_steady {x : SpanOut} : Steady s (s.addSpan x) := by
  unfold State.addSpan
  dsimp only
  exact bumpId_steady.trans (.of_eq rfl rfl rfl)

theorem unitSpan_steady {t : ℕ} {o : ℕ} {k : ℕ} {write : Bool} {ks : List ℕ} : Steady s (s.unitSpan t o k write ks) :=
  (Steady.foldl (fun _ _ => addSpan_steady) _)

theorem touch_steady {l : Loc} : Steady s (s.touch l) := by
  unfold State.touch
  split
  · exact Steady.of_eq rfl rfl rfl
  · exact Steady.refl _

theorem touchKey_steady {k : ℕ} : Steady s (s.touchKey k) := by
  unfold State.touchKey
  split
  · exact touch_steady
  · exact Steady.refl _

theorem touchKeys_steady {ks : List ℕ} : Steady s (s.touchKeys ks) :=
  (Steady.foldl (fun _ _ => touchKey_steady) _)

theorem addMiss_steady {die : ℕ} {y : XUser} {lctx : ℕ} {va : ℕ} {kind : ℕ} : Steady s (s.addMiss die y lctx va kind) := by
  unfold State.addMiss
  split
  · exact Steady.refl _
  · dsimp only
    split
    · exact Steady.of_eq rfl rfl rfl
    · exact Steady.of_eq rfl rfl rfl

theorem replay_steady {t o stage va kind : ℕ} : Steady s (s.replay t o stage va kind) := by
  unfold State.replay
  split
  · dsimp only
    split
    · exact freeze_steady
    · split
      · exact Steady.of_eq rfl rfl rfl
      · exact Steady.of_eq rfl rfl rfl
  · exact Steady.refl _

/-! ## Outcomes -/

section

variable {t o : Nat}

theorem unitAt_fault_steady {va m kind g w : Nat} (h : s.unitAt t o va m kind = .fault u g w) : Steady s u := by
  obtain ⟨q, rfl⟩ := unitAt_fault h
  exact .of_eq rfl rfl rfl

theorem unitAt_wait_steady {va m kind : Nat} (h : s.unitAt t o va m kind = .wait u) : Steady s u := by
  unfold State.unitAt at h
  dsimp only at h
  split at h
  · cases h
  · cases h
  · cases h
    exact addMiss_steady.trans busy_steady

theorem unitKeysFrom_steady {f va m kind : Nat} :
    (∀ u, s.unitKeysFrom t o kind f va m = .fault u → Steady s u) ∧ ∀ u, s.unitKeysFrom t o kind f va m = .wait u → Steady s u := by
  induction f generalizing va m with
  | zero => exact ⟨fun u h => (nomatch h), fun u h => (nomatch h)⟩
  | succ f ih =>
    rw [State.unitKeysFrom]
    split
    · exact ⟨fun u h => (nomatch h), fun u h => (nomatch h)⟩
    dsimp only
    split
    · next s' g w h => exact ⟨fun u e => UnitKeys.fault.inj e ▸ unitAt_fault_steady h, fun u e => (nomatch e)⟩
    · next s' h => exact ⟨fun u e => (nomatch e), fun u e => UnitKeys.wait.inj e ▸ unitAt_wait_steady h⟩
    · split
      · exact ⟨fun u h => (nomatch h), fun u h => (nomatch h)⟩
      · exact ih

theorem unitKeys_fault_steady {va m kind : Nat} (h : s.unitKeys t o va m kind = .fault u) : Steady s u := unitKeysFrom_steady.1 u h

theorem unitKeys_wait_steady {va m kind : Nat} (h : s.unitKeys t o va m kind = .wait u) : Steady s u := unitKeysFrom_steady.2 u h

theorem Kept.left {x : Stored} (h : Kept s x.state) (hx : x.state = u) : Kept s u := hx ▸ h

theorem Steady.left {x : Stored} (h : Steady s x.state) (hx : x.state = u) : Steady s u := hx ▸ h

theorem unitWrite_kept {va n v : Nat} : Kept s (s.unitWrite t o va n v).state := by
  unfold State.unitWrite
  split
  · next h => exact (unitKeys_fault_steady h).kept
  · next h => exact (unitKeys_wait_steady h).kept
  · split
    · exact Kept.refl s
    · exact (touchKeys_steady.trans unitSpan_steady).kept.after' fun h => writeKeys_wf h

theorem unitWrite_ok_kept {va n v : Nat} (h : s.unitWrite t o va n v = .ok u) : Kept s u := unitWrite_kept.left (congrArg Stored.state h)

theorem unitWrite_fault_kept {va n v : Nat} (h : s.unitWrite t o va n v = .fault u) : Kept s u := unitWrite_kept.left (congrArg Stored.state h)

theorem unitWrite_wait_kept {va n v : Nat} (h : s.unitWrite t o va n v = .wait u) : Kept s u := unitWrite_kept.left (congrArg Stored.state h)

theorem splineStore_steady {k va n v : Nat} : Steady s (s.splineStore t o k va n v).state := by
  unfold State.splineStore
  split
  · next h => exact unitAt_wait_steady h
  · next h => exact unitAt_fault_steady h
  · exact modSpline_steady.trans busy_steady

theorem splineStore_ok_steady {k va n v : Nat} (h : s.splineStore t o k va n v = .ok u) : Steady s u :=
  splineStore_steady.left (congrArg Stored.state h)

theorem splineStore_fault_steady {k va n v : Nat} (h : s.splineStore t o k va n v = .fault u) : Steady s u :=
  splineStore_steady.left (congrArg Stored.state h)

theorem splineStore_wait_steady {k va n v : Nat} (h : s.splineStore t o k va n v = .wait u) : Steady s u :=
  splineStore_steady.left (congrArg Stored.state h)

theorem mxRows_kept {m : Matrix} {va row n : Nat} : Kept s (s.mxRows t o m va row n).state := by
  induction n generalizing s va row with
  | zero => exact Kept.refl s
  | succ n ih =>
    rw [State.mxRows]
    split
    · next h => exact (unitWrite_ok_kept h).trans ih
    · exact unitWrite_kept

theorem mxRows_ok_kept {m : Matrix} {va row n : Nat} (h : s.mxRows t o m va row n = .ok u) : Kept s u := mxRows_kept.left (congrArg Stored.state h)

theorem mxRows_fault_kept {m : Matrix} {va row n : Nat} (h : s.mxRows t o m va row n = .fault u) : Kept s u :=
  mxRows_kept.left (congrArg Stored.state h)

theorem mxRows_wait_kept {m : Matrix} {va row n : Nat} (h : s.mxRows t o m va row n = .wait u) : Kept s u :=
  mxRows_kept.left (congrArg Stored.state h)

theorem memPlace_wait_steady {p : Op} {m : Mem} {va kind : Nat} (h : s.memPlace t o p m va kind = .wait u) : Steady s u := by
  unfold State.memPlace at h
  dsimp only at h
  split at h
  all_goals
    split at h
    · cases h
    split at h
    · cases h
      exact addMiss_steady.trans busy_steady
    · split at h
      · cases h
        exact dropMiss_steady.trans replay_steady
      · cases h
    · split at h
      · cases h
      · cases h

end

end Sys2Proof.Machine

namespace Sys2Proof.Machine

/-! PROOFS. What the commands of the engines, the nodes of task graphs and the requests of queues leave of memory, contexts and cores
(R224, R341, R368, R397, R398). -/

variable {s u : State}

theorem modMatrix_steady {t o : Nat} {f : Matrix → Matrix} : Steady s (s.modMatrix t o f) :=
  modOp_steady

theorem modInbox_steady {e : EngineRef} {f : Inbox → Inbox} : Steady s (s.modInbox e f) := by
  unfold State.modInbox
  split
  · exact modOp_steady
  · exact Steady.of_eq rfl rfl rfl

theorem coreCmdDone_steady {c : Option Nat} {copy : Bool} : Steady s (s.coreCmdDone c copy) := by
  unfold State.coreCmdDone
  split
  · exact Steady.refl _
  · refine (modCore_steady fun c => ?_)
    split
    · exact ⟨rfl, id, id⟩
    · exact ⟨rfl, id, id⟩

theorem endCmd_steady {e : EngineRef} {id status : Nat} : Steady s (s.endCmd e id status) := by
  unfold State.endCmd
  split
  · exact Steady.refl _
  · exact modInbox_steady.trans coreCmdDone_steady

theorem beginCmd_steady {e : EngineRef} {p : Packet} : Steady s (s.beginCmd e p) := by
  unfold State.beginCmd
  dsimp only
  exact modInbox_steady.trans busy_steady

theorem oneStep_steady {e : EngineRef} {p : Packet} {status : Nat} : Steady s (s.oneStep e p status) :=
  beginCmd_steady.trans endCmd_steady

theorem command_steady {e : EngineRef} {ready : Bool} {run : State → State} (hrun : ∀ (a : State), Steady a (run a)) : Steady s (s.command e ready run) := by
  unfold State.command
  split
  · exact (hrun _)
  · exact Steady.refl _

theorem command_kept {e : EngineRef} {ready : Bool} {run : State → State} (hrun : ∀ (a : State), Kept a (run a)) : Kept s (s.command e ready run) := by
  unfold State.command
  split
  · exact (hrun _)
  · exact Kept.refl _

theorem execMxCfg_steady {t o : Nat} {p : Packet} : Leads Steady s (execMxCfg t o p s) := by
  unfold execMxCfg
  dsimp only
  exact (command_steady (fun _ => oneStep_steady.trans modMatrix_steady))

theorem modLaunch_steady {l : Nat} {f : Launch → Launch} : Steady s (s.modLaunch l f) :=
  .of_eq rfl rfl rfl

theorem wantFsr_steady {l : Nat} : Steady s (s.wantFsr l) := by
  unfold State.wantFsr
  split
  · split
    · exact Steady.of_eq rfl rfl rfl
    · exact Steady.refl _
  · exact Steady.refl _

theorem queueRecord_steady {lctx l : Nat} {es : List (BitVec 256)} : Steady s (s.queueRecord lctx l es) := by
  unfold State.queueRecord
  split
  · exact Steady.refl _
  · split
    · exact bumpId_steady.trans (modCtx_steady.trans (modLaunch_steady.trans wantFsr_steady))
    · dsimp only
      exact modCtx_steady.trans (.of_eq rfl rfl rfl)

theorem queueFault_steady {lctx l : Nat} {r : FaultRec} : Steady s (s.queueFault lctx l r) :=
  queueRecord_steady

theorem bankRecord_steady {lctx : Nat} {code : BitVec 7} {struct : Bool} {detail : Word} : Steady s (s.bankRecord lctx code struct detail) :=
  queueFault_steady

theorem freezeEngine_steady {e : EngineRef} {code : BitVec 7} {detail : Word} : Steady s (s.freezeEngine e code detail) := by
  unfold State.freezeEngine
  split
  · exact freeze_steady
  · split
    · exact Steady.refl _
    · exact modInbox_steady.trans bankRecord_steady

theorem illegalCmd_steady {e : EngineRef} {p : Packet} : Steady s (s.illegalCmd e p) :=
  freezeEngine_steady

theorem execMxLoadw_steady {t o : Nat} {p : Packet} : Leads Steady s (execMxLoadw t o p s) := by
  unfold execMxLoadw
  dsimp only
  refine (command_steady (fun s => ?_))
  split
  · exact Steady.refl _
  · split
    · exact illegalCmd_steady
    · exact beginCmd_steady.trans modMatrix_steady

theorem execMxSwap_steady {t o : Nat} {p : Packet} : Leads Steady s (execMxSwap t o p s) := by
  unfold execMxSwap
  dsimp only
  exact (command_steady (fun _ => beginCmd_steady.trans modMatrix_steady))

theorem execMxArm_steady {t o : Nat} {p : Packet} : Leads Steady s (execMxArm t o p s) := by
  unfold execMxArm
  dsimp only
  refine (command_steady (fun s => ?_))
  split
  · exact Steady.refl _
  · split
    · exact illegalCmd_steady
    · exact beginCmd_steady.trans modMatrix_steady

theorem taskRecord_steady {t who : Nat} {origin : Word} {code : BitVec 7} {struct : Bool} {holder : Nat} {detail : Word} : Steady s (s.taskRecord t who origin code struct holder detail) := by
  unfold State.taskRecord
  split
  · exact Steady.refl _
  · dsimp only
    exact queueFault_steady.trans modTask_steady

theorem engineFault_steady {t o : Nat} {code : BitVec 7} : Steady s (s.engineFault t o code) :=
  taskRecord_steady

theorem unitRead_steady {t o va n : Nat} {ok : Nat → State → State} {bad : State → State} (hok : ∀ (a : Nat) (a_1 : State), Steady a_1 (ok a a_1)) (hbad : ∀ (a : State), Steady a (bad a)) : Steady s (s.unitRead t o va n ok bad) := by
  unfold State.unitRead
  split
  · exact touchKeys_steady.trans (hok _ _)
  · rename_i y u h
    exact (unitKeys_fault_steady h).trans (hbad _)
  · rename_i y u h
    exact (unitKeys_wait_steady h)

theorem unitRead_kept {t o va n : Nat} {ok : Nat → State → State} {bad : State → State} (hok : ∀ (a : Nat) (a_1 : State), Kept a_1 (ok a a_1)) (hbad : ∀ (a : State), Kept a (bad a)) : Kept s (s.unitRead t o va n ok bad) := by
  unfold State.unitRead
  split
  · exact touchKeys_steady.kept.trans (hok _ _)
  · rename_i y u h
    exact (Steady.kept (unitKeys_fault_steady h)).trans (hbad _)
  · rename_i y u h
    exact (Steady.kept (unitKeys_wait_steady h))

theorem execMxScale_steady {t o : Nat} {p : Packet} : Leads Steady s (execMxScale t o p s) := by
  unfold execMxScale
  dsimp only
  refine (command_steady (fun s => ?_))
  split
  · exact oneStep_steady.trans modMatrix_steady
  · exact (unitRead_steady (fun _ _ => oneStep_steady.trans modMatrix_steady) (fun _ => oneStep_steady.trans (modMatrix_steady.trans engineFault_steady)))

theorem execMxDrain_kept {t o : Nat} {p : Packet} : Leads Kept s (execMxDrain t o p s) := by
  unfold execMxDrain
  dsimp only
  refine command_kept fun s => ?_
  split
  · exact Kept.refl _
  split
  · exact illegalCmd_steady.kept
  split
  · exact (beginCmd_steady.trans modMatrix_steady).kept
  split
  · next h => exact (unitKeys_wait_steady h).kept
  · next h _ => exact mxRows_wait_kept h
  · next h _ => exact (mxRows_fault_kept h).trans (oneStep_steady.trans engineFault_steady).kept
  · next h _ =>
    refine (mxRows_ok_kept h).trans ?_
    split
    · exact (oneStep_steady.trans taskRecord_steady).kept
    · exact oneStep_steady.kept

theorem execMxZero_steady {t o : Nat} {p : Packet} : Leads Steady s (execMxZero t o p s) := by
  unfold execMxZero
  dsimp only
  exact (command_steady (fun _ => oneStep_steady.trans modMatrix_steady))

theorem execMxStat_kept {t o : Nat} {p : Packet} : Leads Kept s (execMxStat t o p s) := by
  unfold execMxStat
  dsimp only
  refine (command_kept (fun s => ?_))
  split
  · exact Kept.refl _
  · split
    · rename_i y u h
      exact (unitWrite_wait_kept h)
    · rename_i y u h
      exact (unitWrite_fault_kept h).trans (oneStep_steady.kept.trans engineFault_steady.kept)
    · rename_i y u h
      exact (unitWrite_ok_kept h).trans (oneStep_steady.kept.trans modMatrix_steady.kept)

theorem modCopy_steady {t o : Nat} {f : Copy → Copy} : Steady s (s.modCopy t o f) :=
  modOp_steady

theorem modSlot_steady {t o n : Nat} {f : Slot → Slot} : Steady s (s.modSlot t o n f) :=
  modCopy_steady

theorem execCpArm_steady {t o : Nat} {p : Packet} : Leads Steady s (execCpArm t o p s) := by
  unfold execCpArm
  dsimp only
  refine (command_steady (fun _ => (unitRead_steady (fun x0 s => ?_) (fun _ => oneStep_steady.trans (modInbox_steady.trans engineFault_steady)))))
  split
  · exact oneStep_steady.trans (modInbox_steady.trans modSlot_steady)
  · exact illegalCmd_steady

theorem resetRates_steady {t o : Nat} : Steady s (s.resetRates t o) :=
  modTask_steady

theorem setBuf_steady {h st rank : Nat} : Steady s (s.setBuf h st rank) :=
  .of_eq rfl rfl rfl

theorem takeHandles_steady {t o n : Nat} : Steady s (s.takeHandles t o n) := by
  unfold State.takeHandles
  split
  · exact Steady.refl _
  · split
    · exact Steady.refl _
    · dsimp only
      split
      · split
        · exact Steady.refl _
        · split
          · exact modSlot_steady
          · split
            · exact Steady.refl _
            · exact setBuf_steady.trans modSlot_steady
      · split
        · split
          · exact modSlot_steady
          · split
            · exact modSlot_steady.trans modSlot_steady
            · split
              · exact modSlot_steady
              · exact modSlot_steady.trans (setBuf_steady.trans modSlot_steady)
        · split
          · split
            · exact setBuf_steady.trans modSlot_steady
            · split
              · exact setBuf_steady.trans (modSlot_steady.trans modSlot_steady)
              · split
                · exact setBuf_steady.trans modSlot_steady
                · exact setBuf_steady.trans (modSlot_steady.trans (setBuf_steady.trans modSlot_steady))
          · split
            · exact Steady.refl _
            · split
              · exact modSlot_steady
              · split
                · exact Steady.refl _
                · exact setBuf_steady.trans modSlot_steady

theorem fireSlot_steady {t o n : Nat} {reply : Option Nat} : Steady s (s.fireSlot t o n reply) :=
  resetRates_steady.trans (bumpId_steady.trans (modSlot_steady.trans (takeHandles_steady.trans busy_steady)))

theorem execCpFire_steady {t o : Nat} {p : Packet} : Leads Steady s (execCpFire t o p s) := by
  unfold execCpFire
  dsimp only
  refine (command_steady (fun s => ?_))
  split
  · exact Steady.refl _
  · split
    · exact illegalCmd_steady
    · refine Steady.trans ?_ fireSlot_steady
      split
      · exact beginCmd_steady
      · exact beginCmd_steady.trans modInbox_steady

theorem execBufWait_steady {t o : Nat} {p : Packet} : Leads Steady s (execBufWait t o p s) := by
  unfold execBufWait
  dsimp only
  refine (command_steady (fun s => ?_))
  split
  · exact oneStep_steady.trans setBuf_steady
  · exact oneStep_steady

theorem execBufSet_steady {t o : Nat} {p : Packet} : Leads Steady s (execBufSet t o p s) := by
  unfold execBufSet
  dsimp only
  exact (command_steady (fun _ => oneStep_steady.trans setBuf_steady))

theorem tlAdd_steady {n : Nat} {v : Dbl} : Steady s (s.tlAdd n v) := by
  unfold State.tlAdd
  split
  · exact Steady.refl _
  · exact Steady.of_eq rfl rfl rfl

theorem drainLine_kept {t : Nat} {w : WLine} : Kept s (s.drainLine t w) := by
  have hmem (h : s.memOk) : Memory.wf (w.bytes.foldl (fun m (x : Nat × Byte) => memPut m (w.line + x.1) x.2) s.mem) = true :=
    foldl_wf (fun _ _ => memPut_wf) h
  unfold State.drainLine
  dsimp only
  split
  · exact (touchKey_steady.trans addSpan_steady).kept.after' hmem
  · exact touchKey_steady.kept.after' hmem

theorem drain_kept {t : Nat} {p : WLine → Bool} : Kept s (s.drain t p) := by
  unfold State.drain
  split
  · exact Kept.refl _
  · exact modTask_steady.kept.trans (Kept.foldl (fun _ _ => drainLine_kept) _)

theorem drainAll_kept {t : Nat} : Kept s (s.drainAll t) :=
  drain_kept

theorem engineRelease_kept {e : EngineRef} {at_ : Nat} : Gets Kept s (s.engineRelease e at_) := by
  unfold State.engineRelease
  split
  · show Kept _ _
    exact Kept.refl _
  · split
    · show Kept _ _
      exact Kept.refl _
    · split
      · show Kept _ _
        exact drainAll_kept
      · exact trivial

theorem execTlInc_kept {t o : Nat} {p : Packet} : Leads Kept s (execTlInc t o p s) := by
  unfold execTlInc
  dsimp only
  refine (command_kept (fun s => ?_))
  split
  · exact modInbox_steady.kept
  · rename_i y u h
    exact (engineRelease_kept.of h).trans (oneStep_steady.kept.trans (modInbox_steady.kept.trans tlAdd_steady.kept))

theorem execTlWait_steady {t o : Nat} {p : Packet} : Leads Steady s (execTlWait t o p s) := by
  unfold execTlWait
  dsimp only
  exact (command_steady (fun _ => oneStep_steady))

theorem modWalker_steady {t o : Nat} {f : Walker → Walker} : Steady s (s.modWalker t o f) :=
  modOp_steady

theorem execWkSpec_steady {t o : Nat} {p : Packet} : Leads Steady s (execWkSpec t o p s) := by
  unfold execWkSpec
  dsimp only
  split
  · exact Steady.refl _
  · refine (command_steady (fun s => ?_))
    split
    · exact illegalCmd_steady
    · refine (unitRead_steady (fun x0 s => ?_) (fun _ => oneStep_steady.trans engineFault_steady))
      split
      · exact illegalCmd_steady
      · exact beginCmd_steady.trans modWalker_steady

theorem execWkKerf_steady {t o : Nat} {p : Packet} : Leads Steady s (execWkKerf t o p s) := by
  unfold execWkKerf
  dsimp only
  exact (command_steady (fun _ => oneStep_steady.trans modWalker_steady))

theorem resetWindows_steady {t o : Nat} : Steady s (s.resetWindows t o) :=
  modTask_steady

theorem execWkAudit_steady {t o : Nat} {p : Packet} : Leads Steady s (execWkAudit t o p s) := by
  unfold execWkAudit
  dsimp only
  refine (command_steady (fun s => ?_))
  split
  · exact oneStep_steady.trans (modWalker_steady.trans resetWindows_steady)
  · exact oneStep_steady.trans modWalker_steady

theorem postL_steady {l rank : Nat} {v : ℤ} {step : Bool} : Steady s (s.postL l rank v step) :=
  modLaunch_steady

theorem execKfCtl_steady {t o : Nat} {p : Packet} : Leads Steady s (execKfCtl t o p s) := by
  unfold execKfCtl
  dsimp only
  refine (command_steady (fun s => ?_))
  split
  · refine Steady.trans ?_ modLaunch_steady
    split
    · refine Steady.trans ?_ modWalker_steady
      split
      · exact oneStep_steady.trans postL_steady
      · exact oneStep_steady
    · split
      · exact oneStep_steady.trans postL_steady
      · exact oneStep_steady
  · split
    · refine Steady.trans ?_ modWalker_steady
      split
      · exact oneStep_steady.trans postL_steady
      · exact oneStep_steady
    · split
      · exact oneStep_steady.trans postL_steady
      · exact oneStep_steady

theorem execSpCfg_steady {t o : Nat} {p : Packet} : Leads Steady s (execSpCfg t o p s) := by
  unfold execSpCfg
  dsimp only
  exact (command_steady (fun _ => oneStep_steady.trans modSpline_steady))

theorem execSpRun_steady {t o : Nat} {p : Packet} : Leads Steady s (execSpRun t o p s) := by
  unfold execSpRun
  dsimp only
  split
  · exact Steady.refl _
  · refine (command_steady (fun s => ?_))
    split
    · exact oneStep_steady.trans engineFault_steady
    · exact (unitRead_steady (fun _ _ => (unitRead_steady (fun _ _ => beginCmd_steady.trans (setBuf_steady.trans modSpline_steady)) (fun _ => oneStep_steady.trans engineFault_steady))) (fun _ => oneStep_steady.trans engineFault_steady))

theorem startBank_steady {b c : Nat} {p : Packet} : Steady s (s.startBank b c p) := by
  unfold State.startBank
  dsimp only
  exact (command_steady (fun _ => beginCmd_steady.trans (.of_eq rfl rfl rfl)))

theorem execBkRmw_steady {bank lctx : Nat} {p : Packet} : Leads Steady s (execBkRmw bank lctx p s) := by
  unfold execBkRmw
  exact startBank_steady

theorem execBkRed_steady {bank lctx : Nat} {p : Packet} : Leads Steady s (execBkRed bank lctx p s) := by
  unfold execBkRed
  exact startBank_steady

theorem execBkApply_steady {bank lctx : Nat} {p : Packet} : Leads Steady s (execBkApply bank lctx p s) := by
  unfold execBkApply
  exact startBank_steady

theorem execBkFill_steady {bank lctx : Nat} {p : Packet} : Leads Steady s (execBkFill bank lctx p s) := by
  unfold execBkFill
  exact startBank_steady

theorem execBkColl_steady {bank lctx : Nat} {p : Packet} : Leads Steady s (execBkColl bank lctx p s) := by
  unfold execBkColl
  show Steady _ _
  split
  · exact startBank_steady
  · exact (command_steady (fun _ => illegalCmd_steady))

theorem passNode_steady {l : Nat} : Steady s (s.passNode l) :=
  modLaunch_steady

theorem writeVa_kept {lctx va n v : Nat} : Kept s (s.writeVa lctx va n v) := by
  unfold State.writeVa
  split
  · exact writeLoc_kept.trans touch_steady.kept
  · exact Kept.refl _

theorem setTcb_kept {lctx va off : Nat} {v : Dbl} : Kept s (s.setTcb lctx va off v) :=
  writeVa_kept

theorem prepareTcb_kept {x : Launch} {root tcb : Nat} : Kept s (s.prepareTcb x root tcb) := by
  unfold State.prepareTcb
  dsimp only
  exact setTcb_kept.trans (setTcb_kept.trans setTcb_kept)

theorem setTcbState_kept {lctx va st : Nat} : Kept s (s.setTcbState lctx va st) :=
  setTcb_kept

theorem enterReady_kept {l va : Nat} : Kept s (s.enterReady l va) := by
  unfold State.enterReady
  split
  · exact Kept.refl _
  · exact (setTcbState_kept.trans (bumpId_steady.kept.trans setTcb_kept)).trans (.of_eq id rfl rfl)

theorem seqRecord_steady {l : Nat} {code : BitVec 7} {detail tcb graph : Nat} : Steady s (s.seqRecord l code detail tcb graph) := by
  unfold State.seqRecord
  split
  · exact Steady.refl _
  · exact queueFault_steady

theorem issueHalt_steady {l : Nat} {code : BitVec 7} {off : Nat} : Steady s (s.issueHalt l code off) :=
  seqRecord_steady.trans modLaunch_steady

theorem fillTcb_kept {x : Launch} {o : Obj} {tcb : Nat} {pool : Bool} {n : Packet} : Kept s (s.fillTcb x o tcb pool n) := by
  unfold State.fillTcb
  dsimp only
  split
  · refine Kept.trans ?_ (setTcb_kept.trans (setTcb_kept.trans setTcb_kept))
    split
    · exact setTcb_kept.trans (setTcb_kept.trans setTcb_kept)
    · exact setTcb_kept.trans setTcb_kept
  · split
    · exact setTcb_kept.trans (setTcb_kept.trans setTcb_kept)
    · exact setTcb_kept.trans setTcb_kept

theorem execNodeTask_kept {l : Nat} {n : Packet} : Leads Kept s (execNodeTask l n s) := by
  unfold execNodeTask
  split
  · exact Kept.refl _
  · split
    · exact Kept.refl _
    · split
      · exact Kept.refl _
      · dsimp only
        split
        · show Kept _ _
          split
          · split
            · exact issueHalt_steady.kept
            · exact fillTcb_kept.trans ((Kept.foldl (fun _ _ => prepareTcb_kept) _).trans (modLaunch_steady.kept.trans (passNode_steady.kept.trans enterReady_kept)))
          · split
            · exact issueHalt_steady.kept
            · exact fillTcb_kept.trans ((Kept.foldl (fun _ _ => prepareTcb_kept) _).trans (modLaunch_steady.kept.trans (passNode_steady.kept.trans enterReady_kept)))
        · show Kept _ _
          split
          · split
            · exact issueHalt_steady.kept
            · exact fillTcb_kept.trans ((Kept.foldl (fun _ _ => prepareTcb_kept) _).trans (modLaunch_steady.kept.trans (passNode_steady.kept.trans enterReady_kept)))
          · split
            · exact issueHalt_steady.kept
            · exact fillTcb_kept.trans ((Kept.foldl (fun _ _ => prepareTcb_kept) _).trans (modLaunch_steady.kept.trans (passNode_steady.kept.trans enterReady_kept)))
        · exact Kept.refl _
        · exact issueHalt_steady.kept

theorem passResolved_steady {l : Nat} {n : Packet} {f : Launch → Launch} : Steady s (s.passResolved l n f) := by
  unfold State.passResolved
  split
  · exact Steady.refl _
  · exact passNode_steady.trans modLaunch_steady

theorem execNodeCond_steady {l : Nat} {n : Packet} : Leads Steady s (execNodeCond l n s) := by
  unfold execNodeCond
  exact passResolved_steady

theorem execNodeLoop_steady {l : Nat} {n : Packet} : Leads Steady s (execNodeLoop l n s) := by
  unfold execNodeLoop
  exact passResolved_steady

theorem execNodeJoin_steady {l : Nat} {n : Packet} : Leads Steady s (execNodeJoin l n s) := by
  unfold execNodeJoin
  show Steady _ _
  split
  · exact passResolved_steady
  · exact Steady.refl _

theorem execNodeCall_steady {l : Nat} {n : Packet} : Leads Steady s (execNodeCall l n s) := by
  unfold execNodeCall
  exact passResolved_steady

theorem execNodeWait_steady {l : Nat} {n : Packet} : Leads Steady s (execNodeWait l n s) := by
  unfold execNodeWait
  split
  · exact Steady.refl _
  · split
    · exact issueHalt_steady
    · split
      · exact passNode_steady
      · exact Steady.refl _

theorem execNodeSignal_steady {l : Nat} {n : Packet} : Leads Steady s (execNodeSignal l n s) := by
  unfold execNodeSignal
  split
  · exact Steady.refl _
  · split
    · exact Steady.refl _
    · split
      · exact issueHalt_steady
      · exact tlAdd_steady.trans passNode_steady

theorem execNodeWrap_steady {l : Nat} {n : Packet} : Leads Steady s (execNodeWrap l n s) := by
  unfold execNodeWrap
  exact passResolved_steady

theorem execNodeEnd_steady {l : Nat} {n : Packet} : Leads Steady s (execNodeEnd l n s) := by
  unfold execNodeEnd
  split
  · exact Steady.refl _
  · split
    · exact passNode_steady
    · exact passNode_steady.trans modLaunch_steady

theorem modQueue_steady {aqi q : Nat} {f : Queue → Queue} : Steady s (s.modQueue aqi q f) :=
  .of_eq rfl rfl rfl

theorem requestNext_steady {aqi q : Nat} : Steady s (s.requestNext aqi q) := by
  unfold State.requestNext
  split
  · exact Steady.of_eq rfl rfl rfl
  · exact modQueue_steady

theorem sendIrq_kept {e : BitVec 128} : Kept s (s.sendIrq e) :=
  writeLoc_kept

theorem interrupt_kept {aqi n : Nat} : Kept s (s.interrupt aqi n) := by
  unfold State.interrupt
  split
  · exact Kept.refl _
  · split
    · exact Kept.refl _
    · split
      · exact Kept.refl _
      · split
        · exact Kept.of_eq id rfl rfl
        · exact sendIrq_kept

theorem Kept.setAqis {m : List (Nat × Aqi)} (h : Kept s u) : Kept s { u with aqis := m } := h.trans (.of_eq id rfl rfl)

theorem complete_kept {aqi q : Nat} {useq : Word} {status lctx : Nat} : Kept s (s.complete aqi q useq status lctx) := by
  have hirq (y : Queue) (z : State) (m : List (Nat × Aqi)) (hz : Kept s z) : Kept s (match y.irq with
      | some n => ({ z with aqis := m } : State).interrupt aqi n
      | none => { z with aqis := m }) := by
    split
    · exact hz.setAqis.trans interrupt_kept
    · exact hz.setAqis
  unfold State.complete
  split
  · exact Kept.refl _
  · refine hirq _ _ _ ?_
    split
    · exact writeLoc_kept
    · exact Kept.refl _

theorem refuse_kept {aqi q : Nat} {p : Packet} {status : Nat} : Kept s (s.refuse aqi q p status) := by
  unfold State.refuse
  dsimp only
  split
  · exact requestNext_steady.kept.trans (complete_kept.trans (.of_eq id rfl rfl))
  · exact requestNext_steady.kept.trans complete_kept

theorem request_kept {aqi q : Nat} {p : Packet} {ok : Bool} {go : State → State} (hgo : ∀ (a : State), Kept a (go a)) : Kept s (s.request aqi q p ok go) := by
  unfold State.request
  split
  · exact Kept.refl _
  · split
    · exact refuse_kept
    · split
      · exact refuse_kept
      · exact (hgo _)

theorem postCeil_steady {l : Nat} : Steady s (s.postCeil l) := by
  unfold State.postCeil
  split
  · split
    · exact postL_steady
    · exact Steady.refl _
  · exact Steady.refl _

theorem execLaunch_kept {aqi q : Nat} {p : Packet} : Leads Kept s (execLaunch aqi q p s) := by
  unfold execLaunch
  refine (request_kept (fun s => ?_))
  split
  · exact Kept.refl _
  · split
    · exact Kept.refl _
    · dsimp only
      split
      · exact requestNext_steady.kept.trans complete_kept
      · exact requestNext_steady.kept.trans (postCeil_steady.kept.after rfl rfl rfl)

theorem execReqSignal_kept {aqi q : Nat} {p : Packet} : Leads Kept s (execReqSignal aqi q p s) := by
  unfold execReqSignal
  refine (request_kept (fun s => ?_))
  split
  · exact Kept.refl _
  · exact requestNext_steady.kept.trans (tlAdd_steady.kept.trans complete_kept)

theorem execReqWait_kept {aqi q : Nat} {p : Packet} : Leads Kept s (execReqWait aqi q p s) := by
  unfold execReqWait
  refine (request_kept (fun s => ?_))
  dsimp only
  split
  · exact requestNext_steady.kept.trans complete_kept
  · split
    · exact requestNext_steady.kept.trans complete_kept
    · exact Kept.refl _

theorem settleSets_steady {l : Nat} : Steady s (s.settleSets l) :=
  modLaunch_steady

end Sys2Proof.Machine

namespace Sys2Proof.Machine

/-! PROOFS. What a CANCEL and the admin commands leave of memory, contexts and cores (R398, R402 to R404, R411). -/

variable {s u : State}

theorem endSignal_steady {lctx va : Nat} : Steady s (s.endSignal lctx va) := by
  unfold State.endSignal
  dsimp only
  split
  · exact tlAdd_steady
  · exact Steady.refl _

theorem endBatch_kept {l lctx st src : Nat} {vs : List Nat} : Kept s (s.endBatch l lctx st src vs) := by
  unfold State.endBatch
  dsimp only
  exact (Kept.foldl (fun _ _ => setTcbState_kept.trans setTcb_kept) _).trans ((settleSets_steady.kept.trans (Kept.foldl (fun _ _ => endSignal_steady.kept) _)).after rfl rfl rfl)

theorem adminDone_steady {tag : AdminTag} {ok : Bool} : Steady s (s.adminDone tag ok) := by
  unfold State.adminDone
  dsimp only
  exact Steady.of_eq rfl rfl rfl

theorem adminFinish_steady {w : AdminTag × AdminWait} {ok : Bool} : Steady s (s.adminFinish w ok) :=
  adminDone_steady.after rfl rfl rfl

theorem resumeCheck_steady {lctx : Nat} : Steady s (s.resumeCheck lctx) := by
  unfold State.resumeCheck
  split
  · exact Steady.refl _
  · dsimp only
    split
    · exact Steady.refl _
    · exact modCtx_steady.trans adminFinish_steady

theorem pauseCheck_steady {lctx : Nat} : Steady s (s.pauseCheck lctx) := by
  unfold State.pauseCheck
  split
  · exact Steady.refl _
  · dsimp only
    split
    · exact Steady.refl _
    · split
      · exact modCtx_steady.trans adminFinish_steady
      · exact modCtx_steady

theorem ctxCheck_steady {lctx : Nat} : Steady s (s.ctxCheck lctx) :=
  pauseCheck_steady.trans resumeCheck_steady

theorem dropRequests_steady {p : PReq → Bool} : Steady s (s.dropRequests p) :=
  .of_eq rfl rfl rfl

theorem stopTasks_steady {ids : List Nat} {endState : Nat} {again : Bool} {quiet : Bool} : Steady s (s.stopTasks ids endState again quiet) := by
  unfold State.stopTasks
  dsimp only
  exact dropRequests_steady.after rfl rfl rfl

theorem cancelLaunch_kept {l : Nat} {quiet : Bool} : Kept s (s.cancelLaunch l quiet) := by
  unfold State.cancelLaunch
  split
  · exact Kept.refl _
  · dsimp only
    exact endBatch_kept.trans (stopTasks_steady.kept.trans (dropRequests_steady.kept.trans (modLaunch_steady.kept.trans ctxCheck_steady.kept)))

theorem execCancel_kept {aqi q : Nat} {p : Packet} : Leads Kept s (execCancel aqi q p s) := by
  unfold execCancel
  refine (request_kept (fun s => ?_))
  split
  · split
    · exact Kept.refl _
    · exact requestNext_steady.kept.trans cancelLaunch_kept
  · exact requestNext_steady.kept

theorem freshCounters_steady {lo n : Nat} : Steady s (s.freshCounters lo n) := by
  unfold State.freshCounters
  dsimp only
  exact Steady.of_eq rfl rfl rfl

theorem freshHandles_steady {lctx lo n : Nat} : Steady s (s.freshHandles lctx lo n) := by
  induction n generalizing s lctx lo with
  | zero =>
    rw [State.freshHandles]
    exact Steady.refl _
  | succ n ih =>
    rw [State.freshHandles]
    exact ih.after rfl rfl rfl

theorem admin_steady {p : Packet} {go : State → State} (hgo : ∀ (a : State), Steady a (go a)) : Steady s (s.admin p go) := by
  unfold State.admin
  split
  · exact Steady.refl _
  · exact (hgo _).after rfl rfl rfl

theorem admin_kept {p : Packet} {go : State → State} (hgo : ∀ (a : State), Kept a (go a)) : Kept s (s.admin p go) := by
  unfold State.admin
  split
  · exact Kept.refl _
  · exact (hgo _).after rfl rfl rfl

theorem adminNow_steady {p : Packet} {ok : Bool} {f : State → State} (hf : ∀ (a : State), Steady a (f a)) : Steady s (s.adminNow p ok f) := by
  unfold State.adminNow
  refine (admin_steady (fun s => ?_))
  refine Steady.trans ?_ adminDone_steady
  split
  · exact (hf _)
  · exact Steady.refl _

theorem adminNow_kept {p : Packet} {ok : Bool} {f : State → State} (hf : ∀ (a : State), Kept a (f a)) : Kept s (s.adminNow p ok f) := by
  unfold State.adminNow
  refine (admin_kept (fun s => ?_))
  refine Kept.trans ?_ adminDone_steady.kept
  split
  · exact (hf _)
  · exact Kept.refl _

theorem execCreateCtx_steady {p : Packet} : Leads Steady s (execCreateCtx p s) :=
  adminNow_steady fun _ => (freshCounters_steady.trans freshHandles_steady).trans setCtx_steady

theorem clearAqi_steady {a : Nat} : Steady s (s.clearAqi a) :=
  .of_eq rfl rfl rfl

theorem endWait_steady {w : AdminTag × AdminWait} : Steady s (s.endWait w) := by
  unfold State.endWait
  split
  · exact Steady.refl _
  · split
    · exact clearAqi_steady.trans adminFinish_steady
    · exact Steady.of_eq rfl rfl rfl
    · exact adminFinish_steady

theorem dropCtx_steady {c : Nat} : Steady s (s.dropCtx c) := ⟨⟨id, adel_keys_nodup, (Kept.refl s).cores⟩, rfl⟩

theorem reap_steady : Steady s s.reap := by
  unfold State.reap
  dsimp only
  exact (Steady.foldl (fun _ _ => dropCtx_steady) _).trans (Steady.foldl (fun _ _ => endWait_steady) _)

theorem execDestroyCtx_steady {p : Packet} : Leads Steady s (execDestroyCtx p s) := by
  unfold execDestroyCtx
  dsimp only
  refine (admin_steady (fun s => ?_))
  split
  · exact adminDone_steady
  · exact modCtx_steady.trans (reap_steady.after rfl rfl rfl)

theorem execCreateQueue_steady {p : Packet} : Leads Steady s (execCreateQueue p s) := by
  unfold execCreateQueue
  dsimp only
  exact (adminNow_steady (fun _ => Steady.of_eq rfl rfl rfl))

theorem dropFsr_steady {l : Nat} : Steady s (s.dropFsr l) := by
  unfold State.dropFsr
  dsimp only
  exact Steady.of_eq rfl rfl rfl

theorem tearDown_kept {c : Nat} : Kept s (s.tearDown c) := by
  unfold State.tearDown
  dsimp only
  split
  · exact (Kept.foldl (fun _ _ => cancelLaunch_kept.trans dropFsr_steady.kept) _)
  · exact (Kept.foldl (fun _ _ => cancelLaunch_kept.trans dropFsr_steady.kept) _).trans (modCtx_steady.kept.after rfl rfl rfl)

theorem tearDownAll_kept {cs : List Nat} {w : AdminTag × AdminWait} : Kept s (s.tearDownAll cs w) := by
  unfold State.tearDownAll
  dsimp only
  exact ((Kept.foldl (fun _ _ => tearDown_kept) _).trans reap_steady.kept).after rfl rfl rfl

theorem execRevokePasid_kept {p : Packet} : Leads Kept s (execRevokePasid p s) := by
  unfold execRevokePasid
  dsimp only
  split
  · exact Kept.refl _
  · refine (admin_kept (fun s => ?_))
    split
    · exact adminDone_steady.kept
    · exact tearDownAll_kept.after rfl rfl rfl

theorem modObj_steady {i : Nat} {f : Obj → Obj} : Steady s (s.modObj i f) :=
  .of_eq rfl rfl rfl

theorem execRegisterObj_steady {p : Packet} : Leads Steady s (execRegisterObj p s) := by
  unfold execRegisterObj
  refine (admin_steady (fun s => ?_))
  dsimp only
  refine Steady.trans ?_ adminDone_steady
  split
  · split
    · split
      · exact modObj_steady
      · exact Steady.of_eq rfl rfl rfl
    · exact Steady.refl _
  · split
    · split
      · exact modObj_steady
      · exact Steady.of_eq rfl rfl rfl
    · exact Steady.refl _

theorem invalidateRange_steady {pasid lo hi : Nat} : Steady s (s.invalidateRange pasid lo hi) := by
  unfold State.invalidateRange
  dsimp only
  exact Steady.of_eq rfl rfl rfl

theorem execInvalidate_kept {p : Packet} : Leads Kept s (execInvalidate p s) := by
  unfold execInvalidate
  dsimp only
  refine (admin_kept (fun s => ?_))
  split
  · exact adminDone_steady.kept
  · exact invalidateRange_steady.kept.trans ((Kept.foldl (fun _ _ => drainAll_kept) _).trans (bumpId_steady.kept.trans (.of_eq id rfl rfl)))

theorem pageAnswer_steady {tag : Word} {host : Bool} {retry : Bool} : Steady s (s.pageAnswer tag host retry) := by
  unfold State.pageAnswer
  split
  · exact Steady.refl _
  · dsimp only
    exact modOp_steady.after rfl rfl rfl

theorem execPageReply_steady {p : Packet} : Leads Steady s (execPageReply p s) := by
  unfold execPageReply
  dsimp only
  exact (adminNow_steady (fun _ => pageAnswer_steady))

theorem pauseTasks_steady {p : Nat → Task → Bool} : Steady s (s.pauseTasks p) := by
  unfold State.pauseTasks
  dsimp only
  exact Steady.of_eq rfl rfl rfl

theorem pauseTakesEffect_steady {lctx : Nat} : Steady s (s.pauseTakesEffect lctx) := by
  unfold State.pauseTakesEffect
  dsimp only
  exact pauseTasks_steady.trans (modCtx_steady.trans (.of_eq rfl rfl rfl))

theorem checkStopCond_steady {t o : Nat} : Steady s (s.checkStopCond t o) := by
  unfold State.checkStopCond
  split
  · exact Steady.refl _
  · split
    · exact Steady.refl _
    · split
      · dsimp only
        split
        · split
          · exact pauseTakesEffect_steady
          · exact Steady.refl _
        · split
          · exact pauseTakesEffect_steady
          · exact Steady.refl _
        · split
          · exact pauseTakesEffect_steady
          · exact Steady.refl _
        · split
          · exact pauseTakesEffect_steady
          · exact Steady.refl _
      · exact Steady.refl _

theorem execPause_steady {p : Packet} : Leads Steady s (execPause p s) := by
  unfold execPause
  dsimp only
  refine (admin_steady (fun s => ?_))
  split
  · exact adminDone_steady
  · split
    · split
      · exact adminDone_steady
      · split
        · exact (modCtx_steady.trans (pauseTakesEffect_steady.trans pauseCheck_steady)).after rfl rfl rfl
        · refine Steady.trans ?_ pauseCheck_steady
          split
          · exact (modCtx_steady.trans (modCtx_steady.trans checkStopCond_steady)).after rfl rfl rfl
          · exact (modCtx_steady.trans modCtx_steady).after rfl rfl rfl
    · split
      · exact adminDone_steady
      · split
        · exact (modCtx_steady.trans (pauseTakesEffect_steady.trans pauseCheck_steady)).after rfl rfl rfl
        · refine Steady.trans ?_ pauseCheck_steady
          split
          · exact (modCtx_steady.trans (modCtx_steady.trans checkStopCond_steady)).after rfl rfl rfl
          · exact (modCtx_steady.trans modCtx_steady).after rfl rfl rfl

theorem execResume_steady {p : Packet} : Leads Steady s (execResume p s) := by
  unfold execResume
  dsimp only
  split
  · exact Steady.refl _
  · refine (admin_steady (fun s => ?_))
    split
    · exact adminDone_steady
    · split
      · exact adminDone_steady
      · exact modCtx_steady.trans (resumeCheck_steady.after rfl rfl rfl)

theorem execKnotSet_steady {p : Packet} : Leads Steady s (execKnotSet p s) :=
  adminNow_steady fun _ => .of_eq rfl rfl rfl

theorem execKnotClear_steady {p : Packet} : Leads Steady s (execKnotClear p s) := by
  unfold execKnotClear
  dsimp only
  exact (adminNow_steady (fun _ => Steady.of_eq rfl rfl rfl))

theorem setPcuts_steady : Steady s s.setPcuts := by
  unfold State.setPcuts
  refine (Steady.foldl (fun s x => ?_) _)
  split
  · split
    · exact modLaunch_steady.trans postCeil_steady
    · exact Steady.refl _
  · exact Steady.refl _

theorem execPstep_steady {p : Packet} : Leads Steady s (execPstep p s) := by
  unfold execPstep
  exact (adminNow_steady (fun _ => setPcuts_steady.after rfl rfl rfl))

theorem correctClock_steady {off : ℤ} {src : BitVec 2} : Steady s (s.correctClock off src) := by
  unfold State.correctClock
  dsimp only
  exact Steady.of_eq rfl rfl rfl

theorem execClockOffset_steady {p : Packet} : Leads Steady s (execClockOffset p s) := by
  unfold execClockOffset
  exact (adminNow_steady (fun _ => correctClock_steady))

theorem flushQueue_kept {aqi q n : Nat} : Kept s (s.flushQueue aqi q n) := by
  induction n generalizing s aqi q with
  | zero =>
    rw [State.flushQueue]
    exact Kept.refl _
  | succ n ih =>
    rw [State.flushQueue]
    split
    · exact Kept.refl _
    · exact requestNext_steady.kept.trans (complete_kept.trans ih)

theorem flushAqi_kept {a : Nat} : Kept s (s.flushAqi a) := by
  unfold State.flushAqi
  dsimp only
  exact (Kept.foldl (fun _ _ => flushQueue_kept) _).trans (.of_eq id rfl rfl)

theorem execAqiReset_kept {p : Packet} : Leads Kept s (execAqiReset p s) := by
  unfold execAqiReset
  dsimp only
  split
  · exact Kept.refl _
  · refine (admin_kept (fun s => ?_))
    split
    · exact adminDone_steady.kept
    · exact flushAqi_kept.trans tearDownAll_kept

theorem findObj_steady {o : Obj} : Steady s (s.findObj o).1 := by
  unfold State.findObj
  split
  · dsimp only
    exact Steady.refl _
  · dsimp only
    exact Steady.of_eq rfl rfl rfl

theorem findObjs_steady {l : List (Nat × Obj)} : Steady s (s.findObjs l).1 := by
  induction l generalizing s with
  | nil => exact Steady.refl _
  | cons e l ih => exact findObj_steady.trans ih

theorem putVaBytes_kept {lctx va : Nat} {l : List Byte} : Kept s (s.putVaBytes lctx va l) := by
  induction l generalizing s va with
  | nil => exact Kept.refl _
  | cons b l ih =>
    unfold State.putVaBytes
    refine Kept.trans ?_ ih
    split
    · exact Kept.of_eq (fun h => memPut_wf h) rfl rfl
    · exact Kept.refl _

theorem restorePart_kept {i : ImgCtx} : Kept s (s.restorePart i) := by
  unfold State.restorePart
  dsimp only
  refine Kept.trans ?_ (Kept.foldl (fun _ _ => putVaBytes_kept) _)
  refine Kept.trans ?_ (Kept.foldl (fun _ _ => wantFsr_steady.kept) _)
  exact findObjs_steady.kept.trans ⟨id, aset_keys_nodup, (Kept.refl _).cores⟩

theorem setTcbCount_kept {lctx va n : Nat} : Kept s (s.setTcbCount lctx va n) :=
  setTcb_kept

theorem predEnded_kept {l va st : Nat} {res : Dbl} : Kept s (s.predEnded l va st res).1 := by
  unfold State.predEnded
  split
  · dsimp only
    exact Kept.refl _
  · dsimp only
    split
    · split
      · split
        · dsimp only
          exact setTcbCount_kept.trans enterReady_kept
        · dsimp only
          exact setTcbCount_kept
      · dsimp only
        exact Kept.refl _
    · split
      · split
        · dsimp only
          exact Kept.refl _
        · dsimp only
          exact Kept.refl _
      · split
        · dsimp only
          exact Kept.refl _
        · dsimp only
          exact Kept.refl _

theorem predEndedAll_kept {l st : Nat} {res : Dbl} {vs : List Nat} {out : List (Nat × Nat × Dbl)} :
    Kept s (s.predEndedAll l st res vs out).1 := by
  induction vs generalizing s out with
  | nil => exact Kept.refl _
  | cons v vs ih =>
    rw [State.predEndedAll]
    split
    · next h => exact (predEnded_kept.fst h).trans ih
    · next h => exact (predEnded_kept.fst h).trans ih

theorem finishAll_kept {l n : Nat} {ends : List (Nat × Nat × Dbl)} : Kept s (s.finishAll l n ends) := by
  induction n generalizing s ends with
  | zero =>
    unfold State.finishAll
    exact Kept.refl _
  | succ n ih =>
    rcases ends with _ | ⟨⟨va, st, res⟩, rest⟩
    · exact Kept.refl _
    rw [State.finishAll]
    split
    · exact Kept.refl _
    split
    · exact ih
    refine Kept.trans ?_ ih
    refine Kept.trans ?_ predEndedAll_kept
    refine Kept.trans ?_ settleSets_steady.kept
    refine Kept.trans ?_ modLaunch_steady.kept
    exact setTcbState_kept.trans (setTcb_kept.trans (endSignal_steady.kept.after rfl rfl rfl))

theorem finish_kept {l va st : Nat} {res : Dbl} : Kept s (s.finish l va st res) :=
  finishAll_kept

theorem restoreBad_kept {i : ImgCtx} : Kept s (s.restoreBad i) := by
  unfold State.restoreBad
  dsimp only
  exact restorePart_kept.trans ((Kept.foldl (fun _ _ => queueFault_steady.kept.trans finish_kept) _).trans (.of_eq id rfl rfl))

theorem readFlash_steady : Steady s s.readFlash := by
  unfold State.readFlash
  dsimp only
  exact Steady.of_eq rfl rfl rfl

theorem execRestore_kept {p : Packet} : Leads Kept s (execRestore p s) := by
  unfold execRestore
  dsimp only
  refine (admin_kept (fun s => ?_))
  split
  · exact (readFlash_steady.kept.trans adminDone_steady.kept).after rfl rfl rfl
  · split
    · exact adminDone_steady.kept
    · split
      · exact adminDone_steady.kept
      · refine (Kept.foldl (fun s x => ?_) _).trans ((readFlash_steady.kept.trans adminDone_steady.kept).after rfl rfl rfl)
        split
        · exact restorePart_kept
        · exact restoreBad_kept

theorem execKeep_steady {p : Packet} : Leads Steady s (execKeep p s) := by
  unfold execKeep
  dsimp only
  exact (adminNow_steady (fun _ => modCtx_steady))

theorem execTlClear_steady {p : Packet} : Leads Steady s (execTlClear p s) := by
  unfold execTlClear
  exact (adminNow_steady (fun _ => freshCounters_steady))

theorem malformed_steady {t o port : Nat} {tok : Token} : Steady s (s.malformed t o port tok) :=
  freeze_steady

theorem modCell_steady {t o : Nat} {f : Cell → Cell} : Steady s (s.modCell t o f) :=
  modOp_steady

theorem beginCell_steady {t o pc : Nat} {hdr : Half} {chosen : List Nat} {wrap : Bool} : Steady s (s.beginCell t o pc hdr chosen wrap) :=
  resetRates_steady.trans (modCell_steady.trans busy_steady)

theorem cellBegin_armed_steady {t o : Nat} {c : Cell} {kind : ArmKind} : Steady s (State.cellBegin.armed s t o c kind) := by
  unfold State.cellBegin.armed
  split
  · split
    · exact malformed_steady
    · exact Steady.refl _
  · split
    · exact Steady.refl _
    · exact malformed_steady
    · exact freeze_steady
    · split
      · exact beginCell_steady
      · exact Steady.refl _

theorem cellBegin_steady {t o : Nat} {c : Cell} : Steady s (s.cellBegin t o c) := by
  unfold State.cellBegin
  split
  · exact beginCell_steady
  · split
    · exact cellBegin_armed_steady
    · exact cellBegin_armed_steady
    · split
      · exact Steady.refl _
      · split
        · exact malformed_steady
        · split
          · exact beginCell_steady
          · split
            · split
              · exact beginCell_steady
              · exact Steady.refl _
            · split
              · exact malformed_steady
              · exact Steady.refl _

theorem modVec_steady {t o : Nat} {f : Vec → Vec} : Steady s (s.modVec t o f) :=
  modOp_steady

theorem vecBegin_steady {t o : Nat} {v : Vec} : Steady s (s.vecBegin t o v) := by
  unfold State.vecBegin
  split
  · exact Steady.refl _
  · split
    · exact malformed_steady
    · split
      · exact resetRates_steady.trans (modVec_steady.trans busy_steady)
      · split
        · exact malformed_steady
        · exact Steady.refl _

theorem sinkPoison_steady {t o : Nat} {origin : Word} : Steady s (s.sinkPoison t o origin) :=
  modOp_steady

theorem balance_steady {t : Nat} {d : ℤ} : Steady s (s.balance t d) :=
  modTask_steady

theorem modChan_steady {t c : Nat} {f : Chan → Chan} : Steady s (s.modChan t c f) :=
  modTask_steady

theorem popTok_steady {t o p : Nat} : Steady s (s.popTok t o p) := by
  unfold State.popTok
  split
  · exact modChan_steady.trans balance_steady
  · exact Steady.refl _

theorem flushSome_steady {t o : Nat} {v : Vec} {pv : Nat → Bool} {pp : Nat → Bool} : Steady s (s.flushSome t o v pv pp) := by
  unfold State.flushSome
  dsimp only
  exact (Steady.foldl (fun _ _ => sinkPoison_steady) _)

theorem flushMarks_steady {t o : Nat} : Steady s (s.flushMarks t o) := by
  unfold State.flushMarks
  split
  · exact Steady.refl _
  · exact flushSome_steady

theorem countFiring_steady {t o : Nat} : Steady s (s.countFiring t o) :=
  modOp_steady.trans checkStopCond_steady

theorem endFiring_steady {t o : Nat} {wrap : Bool} {retire : Bool} : Steady s (s.endFiring t o wrap retire) := by
  unfold State.endFiring
  dsimp only
  refine Steady.trans ?_ countFiring_steady
  split
  · exact modOp_steady.trans flushMarks_steady
  · exact modOp_steady

theorem gotDone_steady {t o : Nat} : Steady s (s.gotDone t o) :=
  modOp_steady

theorem retire_steady {t o : Nat} : Steady s (s.retire t o) :=
  modOp_steady.trans (flushMarks_steady.trans gotDone_steady)

theorem forwardEnd_steady {t o : Nat} {k : Token} : Steady s (s.forwardEnd t o k) := by
  unfold State.forwardEnd
  refine Steady.trans ?_ (endFiring_steady.trans busy_steady)
  split
  · exact retire_steady
  · exact Steady.refl _

theorem pushTok_steady {t o p : Nat} {tok : Token} : Steady s (s.pushTok t o p tok) := by
  unfold State.pushTok
  split
  · dsimp only
    exact modChan_steady.trans (modChan_steady.trans (balance_steady.trans busy_steady))
  · exact Steady.refl _

theorem setFiring_steady {t o : Nat} {f : Firing} : Steady s (s.setFiring t o f) :=
  modOp_steady

theorem forwardPush_steady {t o : Nat} {k : Token} {l : List Nat} : Steady s (s.forwardPush t o k l) := by
  unfold State.forwardPush
  split
  · exact forwardEnd_steady
  · dsimp only
    split
    · exact pushTok_steady.trans (busy_steady.trans (issued_steady.trans forwardEnd_steady))
    · exact pushTok_steady.trans (busy_steady.trans (issued_steady.trans setFiring_steady))

theorem forward_steady {t o : Nat} {want : List Byte → Token → Bool} : Steady s (s.forward t o want) := by
  unfold State.forward
  split
  · split
    · split
      · exact forwardPush_steady
      · exact Steady.refl _
    · exact Steady.refl _
  · split
    · exact Steady.refl _
    · split
      · exact Steady.refl _
      · split
        · exact Steady.refl _
        · dsimp only
          split
          · refine Steady.trans ?_ forwardPush_steady
            split
            · exact popTok_steady.trans sinkPoison_steady
            · exact popTok_steady
          · exact Steady.refl _

theorem cellWrite_steady {t o : Nat} {f : Firing} {d : Dst} {w : Word} : Steady s (s.cellWrite t o f d w) := by
  unfold State.cellWrite
  split
  · exact modCell_steady
  · exact pushTok_steady

theorem modFiring_steady {t o : Nat} {f : Firing → Firing} : Steady s (s.modFiring t o f) :=
  modCell_steady

theorem moveLane_steady {p : Nat} {z : Nat × Nat × Nat × Nat} : Steady s (s.moveLane p z) :=
  modChan_steady.trans busy_steady

theorem modTile_steady {k : Nat} {f : Tile → Tile} : Steady s (s.modTile k f) :=
  .of_eq rfl rfl rfl

theorem openReply_steady {t o q : Nat} : Steady s (s.openReply t o q) := by
  unfold State.openReply
  split
  · exact Steady.refl _
  · split
    · exact Steady.refl _
    · exact modTask_steady

theorem pushReply_steady {t o q : Nat} {tok : Token} : Gets Steady s (s.pushReply t o q tok) := by
  unfold State.pushReply
  dsimp only
  split
  · exact trivial
  · split
    · exact trivial
    · split
      · show Steady _ _
        exact openReply_steady.trans (modChan_steady.trans (balance_steady.trans busy_steady))
      · exact trivial

end Sys2Proof.Machine

namespace Sys2Proof.Machine

/-! PROOFS. What the steps of memory nodes, page walks, walkers and splines leave of memory, contexts and cores (R324, R328, R331, R343). -/

variable {s u : State}

theorem execReplyTokenDeliver_steady {e : EngineRef} : Leads Steady s (execReplyTokenDeliver e s) := by
  unfold execReplyTokenDeliver
  split
  · exact Steady.refl _
  · split
    · rename_i y u h
      exact (pushReply_steady.of h).trans modInbox_steady
    · exact Steady.refl _

theorem popChan_steady {t o c : Nat} : Steady s (s.popChan t o c) :=
  modChan_steady.trans balance_steady

theorem takeEdges_steady {t o : Nat} : Gets Steady s (s.takeEdges t o) := by
  unfold State.takeEdges
  split
  · split
    · show Steady _ _
      exact Steady.refl _
    · dsimp only
      split
      · show Steady _ _
        exact (Steady.foldl (fun _ _ => popChan_steady) _).trans modMem_steady
      · exact trivial
  · exact trivial

theorem memPassed_steady {t o : Nat} {accs : List Acc} : Steady s (s.memPassed t o accs) :=
  modMem_steady.trans busy_steady

theorem feWait_steady {t o : Nat} : Steady s (s.feWait t o) :=
  modMem_steady

theorem spanRead_steady {t o : Nat} {a : Acc} : Steady s (s.spanRead t o a) := by
  unfold State.spanRead
  split
  · exact addSpan_steady
  · exact Steady.refl _

theorem setTags_steady {gs : List Nat} {v : Nat} : Steady s (s.setTags gs v) :=
  .of_eq rfl rfl rfl

theorem memIssued_steady {t o : Nat} {accs : List Acc} : Steady s (s.memIssued t o accs) :=
  modMem_steady.trans (busy_steady.trans countFiring_steady)

theorem memBad_steady {t o : Nat} {w : Word} : Steady s (s.memBad t o w) :=
  modMem_steady

theorem reserve_steady {t o p n : Nat} : Steady s (s.reserve t o p n) := by
  unfold State.reserve
  split
  · exact modChan_steady
  · exact Steady.refl _

theorem memFault_steady {t o : Nat} {m : Mem} {hdr : Half} {w : Word} {due : Nat} : Steady s (s.memFault t o m hdr w due) := by
  unfold State.memFault
  dsimp only
  split
  · exact memBad_steady.trans (reserve_steady.trans memIssued_steady)
  · exact memBad_steady.trans (sinkPoison_steady.trans memIssued_steady)

theorem memXlate_steady {t o : Nat} {p : Op} {m : Mem} {va : Option Nat} : Steady s (s.memXlate t o p m va) := by
  unfold State.memXlate
  dsimp only
  refine Steady.trans ?_ memFault_steady
  split
  · exact dropMiss_steady
  · exact Steady.refl _

theorem retireTile_steady {tile : Nat} : Steady s (s.retireTile tile) := by
  unfold State.retireTile
  split
  · exact Steady.refl _
  · dsimp only
    exact Steady.of_eq rfl rfl rfl

theorem uncorrectable_steady {tile : Nat} : Steady s (s.uncorrectable tile) :=
  modTile_steady.trans retireTile_steady

theorem countTags_steady {tile : Nat} {gs : List Nat} : Steady s (s.countTags tile gs) := by
  unfold State.countTags
  split
  · exact uncorrectable_steady
  · exact Steady.refl _

theorem loadIssue_steady {t o n : Nat} {a : Acc} (h : Steady s u) :
    Steady s (((u.reserve t o mpOut n).spanRead t o a).memIssued t o [a]) :=
  h.trans (reserve_steady.trans (spanRead_steady.trans memIssued_steady))

theorem loadElem_steady {s₁ : State} {t o : Nat} {k : Task} {p : Op} {m : Mem} {e : Nat} (h₁ : Steady s s₁) :
    Steady s (s.loadElem s₁ t o k p m e) := by
  simp only [State.loadElem]
  split
  · split
    · exact h₁.trans memFault_steady
    · split
      · exact feWait_steady
      · split
        · split
          · exact Steady.refl _
          · exact h₁.trans (countTags_steady.trans memFault_steady)
        · split
          · exact (loadIssue_steady h₁).trans setTags_steady
          · exact loadIssue_steady h₁
  · split
    · next h => exact memPlace_wait_steady h
    · exact h₁.trans memXlate_steady
    · have hz : Steady s (if m.acq = true then s₁.modMem t o fun m => { m with lines := [] } else s₁) := by
        split
        · exact h₁.trans modMem_steady
        · exact h₁
      split
      · exact loadIssue_steady hz
      · exact loadIssue_steady (hz.trans touchKeys_steady)

theorem loadNext_steady {t o : Nat} {k : Task} {p : Op} {m : Mem} : Steady s (s.loadNext t o k p m) := by
  unfold State.loadNext
  split
  · split
    · exact modMem_steady
    · split
      · exact (loadElem_steady (Steady.refl _))
      · exact Steady.refl _
  · split
    · exact malformed_steady
    · exact Steady.refl _
    · dsimp only
      split
      · exact popTok_steady.trans (memPassed_steady.trans modMem_steady)
      · split
        · exact malformed_steady
        · split
          · exact Steady.refl _
          · split
            · split
              · exact popTok_steady.trans (reserve_steady.trans memPassed_steady)
              · exact popTok_steady.trans memPassed_steady
            · split
              · exact popTok_steady.trans memFault_steady
              · split
                · exact popTok_steady.trans memFault_steady
                · exact (loadElem_steady popTok_steady)

theorem execLoadReadIssue_steady {t o : Nat} : Leads Steady s (execLoadReadIssue t o s) := by
  unfold execLoadReadIssue
  split
  · exact Steady.refl _
  · split
    · exact Steady.refl _
    · split
      · exact Steady.refl _
      · rename_i y u h
        exact (takeEdges_steady.of h).trans loadNext_steady

theorem modFibre_steady {t o : Nat} {f : Fibre → Fibre} : Steady s (s.modFibre t o f) :=
  modOp_steady

theorem fibreDelivery_steady {t o : Nat} {f : Fibre} : Steady s (s.fibreDelivery t o f) := by
  unfold State.fibreDelivery
  split
  · exact Steady.refl _
  · split
    · exact Steady.refl _
    · dsimp only
      exact modFibre_steady.trans busy_steady

theorem unreserve_steady {t o p n : Nat} : Steady s (s.unreserve t o p n) := by
  unfold State.unreserve
  split
  · exact modChan_steady
  · exact Steady.refl _

theorem walkDelivery_steady {t o : Nat} {w : Walker} : Steady s (s.walkDelivery t o w) := by
  unfold State.walkDelivery
  split
  · exact Steady.refl _
  · split
    · exact Steady.refl _
    · dsimp only
      split
      · exact modWalker_steady.trans (unreserve_steady.trans (resetRates_steady.trans freeze_steady))
      · exact modWalker_steady.trans (unreserve_steady.trans (resetRates_steady.trans pushTok_steady))

theorem memDone_steady {t o : Nat} {m : Mem} : Steady s (s.memDone t o m) := by
  unfold State.memDone
  split
  · exact Steady.refl _
  · split
    · split
      · exact pushTok_steady.trans modMem_steady
      · exact Steady.refl _
    · exact gotDone_steady.trans modMem_steady

theorem pushEach_steady {t o : Nat} {l : List Token} : Steady s (s.pushEach t o l) := by
  induction l generalizing s t o with
  | nil =>
    rw [State.pushEach]
    exact Steady.refl _
  | cons e l ih =>
    rw [State.pushEach]
    split
    · exact freeze_steady
    · exact pushTok_steady.trans ih

theorem deliver_steady {t o : Nat} {m : Mem} {a : Acc} : Steady s (s.deliver t o m a) := by
  unfold State.deliver
  dsimp only
  split
  · split
    · exact modMem_steady.trans (busy_steady.trans (unreserve_steady.trans (resetRates_steady.trans pushEach_steady)))
    · split
      · exact modMem_steady.trans (busy_steady.trans sinkPoison_steady)
      · exact modMem_steady.trans busy_steady
  · split
    · exact modMem_steady.trans (busy_steady.trans (unreserve_steady.trans (resetRates_steady.trans pushEach_steady)))
    · split
      · exact modMem_steady.trans (busy_steady.trans sinkPoison_steady)
      · exact modMem_steady.trans busy_steady

theorem memDelivery_steady {t o : Nat} {m : Mem} : Steady s (s.memDelivery t o m) := by
  unfold State.memDelivery
  split
  · exact memDone_steady
  · split
    · exact Steady.refl _
    · exact deliver_steady

theorem execReadDelivery_steady {t o : Nat} : Leads Steady s (execReadDelivery t o s) := by
  unfold execReadDelivery
  split
  · exact Steady.refl _
  · split
    · exact memDelivery_steady
    · exact walkDelivery_steady
    · exact fibreDelivery_steady
    · exact Steady.refl _

theorem rereads_steady {tile : Nat} {gs : List Nat} : Steady s (s.rereads tile gs) :=
  .of_eq rfl rfl rfl

theorem tileDone_steady {tile v : Nat} {gs : List Nat} : Steady s (s.tileDone tile v gs) := by
  unfold State.tileDone
  dsimp only
  split
  · exact setTags_steady.trans (rereads_steady.trans setTags_steady)
  · exact setTags_steady.trans (rereads_steady.trans setTags_steady)

theorem tilePoison_kept {tile a n : Nat} {w : Word} : Kept s (s.tilePoison tile a n w) := by
  unfold State.tilePoison
  exact countTags_steady.kept.trans (Kept.after' (m := List.foldl _ _ _) tileDone_steady.kept fun h => foldl_wf (fun _ _ => memWrite_keeps) h)

theorem poisonStore_kept {s₁ : State} {t o : Nat} {k : Task} {m : Mem} {tok : Token} (h₁ : Kept s s₁) : Kept s (s.poisonStore s₁ t o k m tok) := by
  unfold State.poisonStore
  dsimp only
  split
  · split
    · exact h₁.trans (sinkPoison_steady.kept.trans (memBad_steady.kept.trans memIssued_steady.kept))
    · split
      · exact Kept.refl _
      · exact h₁.trans (sinkPoison_steady.kept.trans (memBad_steady.kept.trans (memIssued_steady.kept.trans tilePoison_kept)))
  · exact h₁.trans (sinkPoison_steady.kept.trans (memBad_steady.kept.trans memIssued_steady.kept))

theorem vaStore_kept {s₁ : State} {t o : Nat} {p : Op} {m : Mem} {e v c count : Nat} (h₁ : Kept s s₁) : Kept s (s.vaStore s₁ t o p m e v c count) := by
  unfold State.vaStore
  split
  · rename_i y u h
    exact (Steady.kept (memPlace_wait_steady h))
  · exact h₁.trans memXlate_steady.kept
  · dsimp only
    refine Kept.trans ?_ memIssued_steady.kept
    split
    · refine Kept.trans ?_ reserve_steady.kept
      split
      · exact h₁.trans drain_kept
      · exact h₁
    · split
      · exact h₁.trans drain_kept
      · exact h₁

theorem popElems_steady {t o : Nat} {l : List (Nat × List Token)} : Steady s (s.popElems t o l) := by
  induction l generalizing s t o with
  | nil =>
    rw [State.popElems]
    exact Steady.refl _
  | cons e l ih =>
    rw [State.popElems]
    exact (Steady.foldl (fun _ _ => popTok_steady) _).trans ih

theorem release_kept {t o : Nat} {m : Mem} {at_ : Nat} : Kept s (s.release t o m at_).1 := by
  unfold State.release
  split
  · dsimp only
    exact Kept.refl _
  · split
    · dsimp only
      exact Kept.refl _
    · split
      · dsimp only
        exact Kept.refl _
      · dsimp only
        exact drainAll_kept

theorem tileWrite_kept {tile a n v : Nat} : Kept s (s.tileWrite tile a n v) := by
  unfold State.tileWrite
  dsimp only
  exact countTags_steady.kept.trans (writeLoc_kept.trans tileDone_steady.kept)

theorem tileStore_kept {s₁ : State} {t o : Nat} {k : Task} {m : Mem} {e v c count : Nat} (h₁ : Kept s s₁) : Kept s (s.tileStore s₁ t o k m e v c count) := by
  simp only [State.tileStore]
  split
  · exact h₁.trans memFault_steady.kept
  · split
    · exact Kept.refl _
    · split
      · rename_i y u h
        exact (release_kept.fst h)
      · rename_i y u h
        split
        · split
          · exact (release_kept.fst h)
          · split
            · split
              · refine Kept.trans ?_ (modTile_steady.kept.trans (countTags_steady.kept.trans memFault_steady.kept))
                split
                · exact h₁.trans drainAll_kept
                · exact h₁
              · refine Kept.trans ?_ (modTile_steady.kept.trans (countTags_steady.kept.trans memIssued_steady.kept))
                split
                · exact h₁.trans drainAll_kept
                · exact h₁
            · refine Kept.trans ?_ memIssued_steady.kept
              split
              · refine Kept.trans ?_ (modTile_steady.kept.trans (modTile_steady.kept.trans reserve_steady.kept))
                split
                · exact h₁.trans drainAll_kept
                · exact h₁
              · refine Kept.trans ?_ (modTile_steady.kept.trans modTile_steady.kept)
                split
                · exact h₁.trans drainAll_kept
                · exact h₁
        · split
          · refine Kept.trans ?_ (tileWrite_kept.trans memIssued_steady.kept)
            split
            · exact h₁.trans drainAll_kept
            · exact h₁
          · exact feWait_steady.kept
        · refine Kept.trans ?_ (tileWrite_kept.trans memIssued_steady.kept)
          split
          · exact h₁.trans drainAll_kept
          · exact h₁

theorem storeNext_kept {t o : Nat} {k : Task} {p : Op} {m : Mem} {l : List (Nat × List Token)} : Kept s (s.storeNext t o k p m l) := by
  unfold State.storeNext
  dsimp only
  split
  · exact malformed_steady.kept
  · split
    · exact resetRates_steady.kept.trans (popTok_steady.kept.trans freeze_steady.kept)
    · split
      · exact resetRates_steady.kept.trans (popElems_steady.kept.trans memPassed_steady.kept)
      · split
        · split
          · exact resetRates_steady.kept.trans (popElems_steady.kept.trans (memPassed_steady.kept.trans (modMem_steady.kept.trans (gotDone_steady.kept.trans modMem_steady.kept))))
          · exact resetRates_steady.kept.trans (popElems_steady.kept.trans (memPassed_steady.kept.trans modMem_steady.kept))
        · split
          · exact (poisonStore_kept (resetRates_steady.kept.trans popElems_steady.kept))
          · split
            · split
              · exact resetRates_steady.kept.trans (popElems_steady.kept.trans (sinkPoison_steady.kept.trans (memBad_steady.kept.trans memIssued_steady.kept)))
              · exact resetRates_steady.kept.trans (popElems_steady.kept.trans memFault_steady.kept)
            · split
              · exact (tileStore_kept (resetRates_steady.kept.trans popElems_steady.kept))
              · exact (vaStore_kept (resetRates_steady.kept.trans popElems_steady.kept))
  · exact Kept.refl _

theorem execStoreIssue_kept {t o : Nat} : Leads Kept s (execStoreIssue t o s) := by
  unfold execStoreIssue
  split
  · exact Kept.refl _
  · split
    · exact Kept.refl _
    · split
      · exact malformed_steady.kept
      · split
        · exact Kept.refl _
        · split
          · exact Kept.refl _
          · rename_i y u h
            split
            · exact (Steady.kept (takeEdges_steady.of h))
            · split
              · exact (Steady.kept (takeEdges_steady.of h))
              · exact (Steady.kept (takeEdges_steady.of h)).trans storeNext_kept

theorem drainTo_kept {t tile line : Nat} : Kept s (s.drainTo t tile line) := by
  unfold State.drainTo
  split
  · exact Kept.refl _
  · dsimp only
    exact drain_kept

theorem wcbAccept_kept {t o : Nat} {p : Op} {a : Acc} : Kept s (s.wcbAccept t o p a) := by
  unfold State.wcbAccept
  dsimp only
  split
  · exact Kept.of_eq id rfl rfl
  · exact (Kept.foldl (fun _ _ => drainTo_kept) _).after rfl rfl rfl

theorem bankApply_kept {t o : Nat} {m : Mem} {a : Acc} : Kept s (s.bankApply t o m a) :=
  modMem_steady.kept.after' fun h => writeKeys_wf h

theorem takeStore_kept {t o : Nat} {p : Op} {m : Mem} {a : Acc} : Kept s (s.takeStore t o p m a) := by
  unfold State.takeStore
  split
  · exact bankApply_kept
  · exact wcbAccept_kept

theorem ackStore_kept {t o : Nat} {p : Op} {m : Mem} : Kept s (s.ackStore t o p m) := by
  unfold State.ackStore
  dsimp only
  split
  · split
    · exact Kept.refl _
    · split
      · split
        · exact drain_kept.trans (Kept.foldl (fun _ _ => drainTo_kept) _)
        · split
          · exact drain_kept.trans (Kept.foldl (fun _ _ => drainTo_kept) _)
          · exact drain_kept.trans ((Kept.foldl (fun _ _ => drainTo_kept) _).trans modMem_steady.kept)
      · split
        · exact Kept.refl _
        · split
          · exact Kept.refl _
          · exact modMem_steady.kept
  · exact Kept.refl _

theorem memAck_kept {t o : Nat} {p : Op} {m : Mem} : Kept s (s.memAck t o p m) := by
  unfold State.memAck
  split
  · split
    · rename_i y u h
      exact (release_kept.fst h).trans (takeStore_kept.trans busy_steady.kept)
    · rename_i y u h
      exact (release_kept.fst h).trans ackStore_kept
  · exact ackStore_kept

theorem fibreAck_kept {t o : Nat} {f : Fibre} : Kept s (s.fibreAck t o f) := by
  unfold State.fibreAck
  split
  · exact Kept.refl _
  · split
    · exact Kept.refl _
    · exact (unitSpan_steady.trans (modFibre_steady.trans busy_steady)).kept.after' fun h => writeKeys_wf h

theorem splineAck_kept {t o : Nat} {x : Spline} : Kept s (s.splineAck t o x) := by
  unfold State.splineAck
  split
  · exact Kept.refl _
  · split
    · exact Kept.refl _
    · exact (unitSpan_steady.trans (modSpline_steady.trans busy_steady)).kept.after' fun h => writeKeys_wf h

theorem execStoreAck_kept {t o : Nat} : Leads Kept s (execStoreAck t o s) := by
  unfold execStoreAck
  split
  · exact Kept.refl _
  · split
    · exact Kept.refl _
    · split
      · exact memAck_kept
      · exact splineAck_kept
      · exact fibreAck_kept
      · exact Kept.refl _

theorem rmwLand_kept {tile : Nat} {e : RmwFlight} : Kept s (s.rmwLand tile e) :=
  tileWrite_kept.trans modMem_steady.kept

theorem execRmwWrite_kept {x y : Nat} : Leads Kept s (execRmwWrite x y s) := by
  unfold execRmwWrite
  dsimp only
  split
  · exact modTile_steady.kept
  · exact modTile_steady.kept.trans (modTile_steady.kept.trans rmwLand_kept)

theorem execFullEmptyRelease_kept {x y granule : Nat} : Leads Kept s (execFullEmptyRelease x y granule s) := by
  unfold execFullEmptyRelease
  dsimp only
  split
  · exact Kept.refl _
  · split
    · split
      · exact execLoadReadIssue_steady.kept
      · exact execStoreIssue_kept
    · exact Kept.refl _

theorem pushEdge_steady {t o c : Nat} : Steady s (s.pushEdge t o c) :=
  modChan_steady.trans (balance_steady.trans busy_steady)

theorem sendEdges_steady {t o : Nat} : Steady s (s.sendEdges t o) := by
  unfold State.sendEdges
  split
  · exact (Steady.foldl (fun _ _ => pushEdge_steady) _).trans modMem_steady
  · exact Steady.refl _

theorem execMemoryNodeDone_steady {t o : Nat} : Leads Steady s (execMemoryNodeDone t o s) := by
  unfold execMemoryNodeDone
  split
  · exact Steady.refl _
  · split
    · exact sendEdges_steady
    · exact Steady.refl _

theorem execFenceFire_steady {t o : Nat} : Leads Steady s (execFenceFire t o s) := by
  unfold execFenceFire
  split
  · split
    · split
      · rename_i y u h
        exact (takeEdges_steady.of h).trans (sendEdges_steady.trans gotDone_steady)
      · exact Steady.refl _
    · exact Steady.refl _
  · exact Steady.refl _

theorem execStreamPrefetch_steady {t o line : Nat} : Leads Steady s (execStreamPrefetch t o line s) := by
  unfold execStreamPrefetch
  split
  · exact Steady.refl _
  · dsimp only
    split
    · exact Steady.refl _
    · split
      · split
        · exact Steady.refl _
        · exact modMem_steady.trans (touch_steady.trans busy_steady)
      · exact Steady.refl _

theorem execStreamLineExpiry_steady {t o line : Nat} : Leads Steady s (execStreamLineExpiry t o line s) := by
  unfold execStreamLineExpiry
  exact modMem_steady

theorem execWcbIdleFlush_kept {t line : Nat} : Leads Kept s (execWcbIdleFlush t line s) := by
  unfold execWcbIdleFlush
  split
  · exact Kept.refl _
  · exact drainTo_kept

theorem execPageWalkStart_steady {die : Nat} : Leads Steady s (execPageWalkStart die s) := by
  unfold execPageWalkStart
  split
  · split
    · exact Steady.of_eq rfl rfl rfl
    · exact Steady.refl _
  · exact Steady.refl _

theorem tlbFill_steady {e : XEntry} : Steady s (s.tlbFill e) := by
  unfold State.tlbFill
  dsimp only
  exact Steady.of_eq rfl rfl rfl

theorem execPageWalkComplete_steady {die n : Nat} : Leads Steady s (execPageWalkComplete die n s) := by
  unfold execPageWalkComplete
  split
  · exact Steady.refl _
  · split
    · exact Steady.of_eq rfl rfl rfl
    · split
      · exact tlbFill_steady.after rfl rfl rfl
      · exact Steady.of_eq rfl rfl rfl

theorem maskLines_kept {t o n : Nat} : Kept s (s.maskLines t o n) := by
  induction n generalizing s t o with
  | zero =>
    rw [State.maskLines]
    exact Kept.refl _
  | succ n ih =>
    rw [State.maskLines]
    split
    · exact Kept.refl _
    · dsimp only
      split
      · rename_i y u h
        exact (unitWrite_ok_kept h).trans (modWalker_steady.kept.trans ih)
      · rename_i y u h
        exact (unitWrite_fault_kept h).trans (sinkPoison_steady.kept.trans (modWalker_steady.kept.trans ih))
      · rename_i y u h
        exact (unitWrite_wait_kept h)

theorem setWalker_kept {t o : Nat} {new : Walker} : Kept s (s.setWalker t o new) :=
  modWalker_steady.kept.trans maskLines_kept

theorem execWalkerBlockBegin_kept {t o : Nat} : Leads Kept s (execWalkerBlockBegin t o s) := by
  unfold execWalkerBlockBegin
  split
  · exact Kept.refl _
  · dsimp only
    show Kept _ _
    refine Kept.trans ?_ (setWalker_kept.trans busy_steady.kept)
    split
    · exact Kept.refl _
    · exact Kept.of_eq id rfl rfl

theorem pointIssued_kept {t o : Nat} {w : Walker} {audit : Bool} {a : Acc} : Kept s (s.pointIssued t o w audit a) := by
  unfold State.pointIssued
  dsimp only
  exact reserve_steady.kept.trans (setWalker_kept.trans (busy_steady.kept.trans countFiring_steady.kept))

theorem issuePoint_kept {t o : Nat} {w : Walker} {audit : Bool} : Kept s (s.issuePoint t o w audit) := by
  unfold State.issuePoint
  dsimp only
  split
  · rename_i y u h
    exact (Steady.kept (unitAt_wait_steady h))
  · exact touchKey_steady.kept.trans (spanRead_steady.kept.trans pointIssued_kept)
  · rename_i y u y1 y2 h
    exact (Steady.kept (unitAt_fault_steady h)).trans pointIssued_kept

theorem execWalkerPointIssue_kept {t o : Nat} : Leads Kept s (execWalkerPointIssue t o s) := by
  unfold execWalkerPointIssue
  split
  · exact Kept.refl _
  · split
    · exact Kept.refl _
    · dsimp only
      split
      · exact setWalker_kept
      · exact setWalker_kept.trans issuePoint_kept

theorem walkOver_kept {t o : Nat} {w : Walker} {stop : Bool} : Kept s (s.walkOver t o w stop) := by
  have hset (z : State) : Kept z { z.setBuf w.handle 2 rankUnit with masks := aset w.handle (w.maskVa, w.exts) z.masks } :=
    .of_eq id rfl rfl
  unfold State.walkOver
  dsimp only
  split
  · exact maskLines_kept
  · split
    · next h => exact maskLines_kept.trans ((unitWrite_ok_kept h).trans ((hset _).trans modWalker_steady.kept))
    · next h => exact maskLines_kept.trans ((unitWrite_fault_kept h).trans (sinkPoison_steady.kept.trans ((hset _).trans modWalker_steady.kept)))
    · next h => exact maskLines_kept.trans (unitWrite_wait_kept h)

theorem endToken_steady {t o lvl : Nat} : Steady s (s.endToken t o lvl) := by
  unfold State.endToken
  dsimp only
  split
  · split
    · exact pushTok_steady.trans gotDone_steady
    · exact pushTok_steady
  · split
    · exact pushTok_steady.trans gotDone_steady
    · exact pushTok_steady

theorem execWalkerEnd_kept {t o : Nat} : Leads Kept s (execWalkerEnd t o s) := by
  unfold execWalkerEnd
  split
  · exact Kept.refl _
  · dsimp only
    split
    · exact Kept.refl _
    · split
      · exact Kept.refl _
      · split
        · split
          · exact Kept.refl _
          · show Kept _ _
            refine Kept.trans ?_ modWalker_steady.kept
            split
            · exact endToken_steady.kept.trans endCmd_steady.kept
            · exact endToken_steady.kept
        · split
          · exact walkOver_kept
          · show Kept _ _
            refine Kept.trans ?_ modWalker_steady.kept
            split
            · exact walkOver_kept.trans (endToken_steady.kept.trans endCmd_steady.kept)
            · exact walkOver_kept.trans endToken_steady.kept

theorem tokenTaken_steady {t o : Nat} : Steady s (s.tokenTaken t o) :=
  popTok_steady.trans (modSpline_steady.trans busy_steady)

theorem splineTake_steady {t o : Nat} {x : Spline} {tok : Token} : Steady s (s.splineTake t o x tok) := by
  unfold State.splineTake
  dsimp only
  split
  · exact tokenTaken_steady
  · split
    · exact tokenTaken_steady.trans (sinkPoison_steady.trans modSpline_steady)
    · split
      · rename_i y u h
        exact (splineStore_wait_steady h)
      · rename_i y u h
        exact (splineStore_ok_steady h).trans (tokenTaken_steady.trans (modSpline_steady.trans countFiring_steady))
      · rename_i y u h
        exact (splineStore_fault_steady h).trans (tokenTaken_steady.trans (modSpline_steady.trans (sinkPoison_steady.trans countFiring_steady)))

theorem execSplineTileStore_steady {t o : Nat} : Leads Steady s (execSplineTileStore t o s) := by
  unfold execSplineTileStore
  split
  · exact Steady.refl _
  · split
    · split
      · exact malformed_steady
      · exact Steady.refl _
    · split
      · exact Steady.refl _
      · split
        · exact popTok_steady.trans (modSpline_steady.trans busy_steady)
        · split
          · exact Steady.refl _
          · split
            · exact splineTake_steady
            · exact malformed_steady

theorem runFault_steady {t o : Nat} {r : SplineRun} : Steady s (s.runFault t o r) := by
  unfold State.runFault
  dsimp only
  refine Steady.trans ?_ (endCmd_steady.trans (engineFault_steady.trans modSpline_steady))
  split
  · exact setBuf_steady
  · exact Steady.refl _

theorem splineOut_steady {t o : Nat} {x : Spline} {k va n v : Nat} {on : State → State} (hon : ∀ (a : State), Steady a (on a)) : Steady s (s.splineOut t o x k va n v on) := by
  unfold State.splineOut
  split
  · rename_i y y1 u h
    exact (splineStore_wait_steady h)
  · rename_i y y1 u h
    exact (splineStore_ok_steady h).trans (hon _)
  · rename_i y y1 u y2 h h1
    exact (splineStore_fault_steady h).trans runFault_steady
  · rename_i y y1 u h h1
    exact (splineStore_fault_steady h).trans (sinkPoison_steady.trans (hon _))

theorem splineOut_kept {t o : Nat} {x : Spline} {k va n v : Nat} {on : State → State} (hon : ∀ (a : State), Kept a (on a)) : Kept s (s.splineOut t o x k va n v on) := by
  unfold State.splineOut
  split
  · rename_i y y1 u h
    exact (Steady.kept (splineStore_wait_steady h))
  · rename_i y y1 u h
    exact (Steady.kept (splineStore_ok_steady h)).trans (hon _)
  · rename_i y y1 u y2 h h1
    exact (Steady.kept (splineStore_fault_steady h)).trans runFault_steady.kept
  · rename_i y y1 u h h1
    exact (Steady.kept (splineStore_fault_steady h)).trans (sinkPoison_steady.kept.trans (hon _))

theorem tileOut_steady {t o : Nat} {x : Spline} {tl : List Wide} : Steady s (s.tileOut t o x tl) := by
  unfold State.tileOut
  dsimp only
  exact (splineOut_steady (fun _ => modSpline_steady.trans countFiring_steady))

theorem runPoint_steady {t o : Nat} {x : Spline} {r : SplineRun} : Steady s (s.runPoint t o x r) := by
  unfold State.runPoint
  dsimp only
  split
  · exact modSpline_steady
  · split
    · next h =>
      obtain ⟨q, -, hq⟩ := List.exists_of_findSome?_eq_some h
      split at hq
      · cases hq
      · next h' =>
        cases hq
        exact unitKeys_wait_steady h'
      · next h' =>
        cases hq
        exact (unitKeys_fault_steady h').trans runFault_steady
    · refine Steady.trans (Steady.foldl (fun s q => ?_) _) tileOut_steady
      split
      · exact touchKeys_steady
      · exact Steady.refl _

theorem closeWindow_steady {t o : Nat} {l : List Word} : Steady s (s.closeWindow t o l) := by
  unfold State.closeWindow
  split
  · exact Steady.refl _
  · split
    · dsimp only
      refine Steady.trans ?_ postL_steady
      split
      · exact modLaunch_steady.trans postCeil_steady
      · exact Steady.refl _
    · exact Steady.refl _

theorem compareAudit_steady {t o : Nat} {x : Spline} {w n : Nat} {r : List Wide} : Steady s (s.compareAudit t o x w n r) := by
  unfold State.compareAudit
  split
  · exact Steady.refl _
  · dsimp only
    split
    · exact modSpline_steady.trans closeWindow_steady
    · exact modSpline_steady

theorem walkPoint_steady {t o : Nat} {x : Spline} {w : WalkRec} : Steady s (s.walkPoint t o x w) := by
  unfold State.walkPoint
  dsimp only
  split
  · exact tileOut_steady
  · split
    · exact modSpline_steady.trans compareAudit_steady
    · exact modSpline_steady

theorem drainAgain_steady {t o : Nat} {x : Spline} {h : Nat} {on : State → State} (hon : ∀ (a : State), Steady a (on a)) : Steady s (s.drainAgain t o x h on) := by
  unfold State.drainAgain
  split
  · exact (hon _)
  · split
    · exact Steady.refl _
    · exact setBuf_steady.trans (modSpline_steady.trans (hon _))

theorem drainAgain_kept {t o : Nat} {x : Spline} {h : Nat} {on : State → State} (hon : ∀ (a : State), Kept a (on a)) : Kept s (s.drainAgain t o x h on) := by
  unfold State.drainAgain
  split
  · exact (hon _)
  · split
    · exact Kept.refl _
    · exact setBuf_steady.kept.trans (modSpline_steady.kept.trans (hon _))

theorem mapOut_steady {t o : Nat} {x : Spline} {handle : Nat} : Steady s (s.mapOut t o x handle) := by
  unfold State.mapOut
  dsimp only
  split
  · refine Steady.trans ?_ modSpline_steady
    split
    · exact setBuf_steady.trans modSpline_steady
    · exact Steady.refl _
  · refine Steady.trans ?_ (splineOut_steady (fun _ => modSpline_steady))
    split
    · exact setBuf_steady.trans modSpline_steady
    · exact Steady.refl _

theorem execSplineReconstruct_steady {t o : Nat} : Leads Steady s (execSplineReconstruct t o s) := by
  unfold execSplineReconstruct
  split
  · exact Steady.refl _
  · split
    · split
      · exact setBuf_steady.trans (modSpline_steady.trans busy_steady)
      · split
        · exact modSpline_steady.trans busy_steady
        · exact Steady.refl _
    · split
      · exact Steady.refl _
      · refine (drainAgain_steady (fun s => ?_))
        refine Steady.trans ?_ busy_steady
        split
        · exact mapOut_steady
        · exact walkPoint_steady
    · split
      · exact Steady.refl _
      · refine (drainAgain_steady (fun s => ?_))
        refine Steady.trans ?_ busy_steady
        split
        · exact mapOut_steady
        · exact runPoint_steady
    · exact Steady.refl _

theorem execCoverageLRecord_steady {l : Nat} : Leads Steady s (execCoverageLRecord l s) := by
  unfold execCoverageLRecord
  split
  · exact Steady.refl _
  · dsimp only
    split
    · exact Steady.refl _
    · exact modLaunch_steady.trans postCeil_steady

theorem execSplineDone_steady {t o : Nat} : Leads Steady s (execSplineDone t o s) := by
  unfold execSplineDone
  split
  · exact Steady.refl _
  · split
    · exact Steady.refl _
    · split
      · exact endCmd_steady.trans modSpline_steady
      · split
        · split
          · exact Steady.refl _
          · dsimp only
            show Steady _ _
            refine Steady.trans ?_ (modSpline_steady.trans countFiring_steady)
            split
            · exact pushTok_steady
            · exact gotDone_steady
        · exact modSpline_steady

theorem mxOpEnd_steady {t o status : Nat} : Steady s (s.mxOpEnd t o status) := by
  unfold State.mxOpEnd
  split
  · exact Steady.refl _
  · split
    · exact Steady.refl _
    · dsimp only
      exact modMatrix_steady.trans endCmd_steady

theorem mxSettle_steady {t o : Nat} : Steady s (s.mxSettle t o) := by
  unfold State.mxSettle
  split
  · split
    · exact mxOpEnd_steady
    · exact Steady.refl _
  · exact Steady.refl _

theorem mxTake_steady {t o : Nat} {m : Matrix} {tok : Token} : Steady s (s.mxTake t o m tok) := by
  unfold State.mxTake
  dsimp only
  refine Steady.trans ?_ (mxSettle_steady.trans (busy_steady.trans countFiring_steady))
  split
  · exact resetRates_steady.trans (popTok_steady.trans (modMatrix_steady.trans endCmd_steady))
  · exact resetRates_steady.trans (popTok_steady.trans modMatrix_steady)

theorem mxToken_steady {t o : Nat} {m : Matrix} {tok : Token} : Steady s (s.mxToken t o m tok) := by
  unfold State.mxToken
  split
  · exact popTok_steady.trans modMatrix_steady
  · split
    · split
      · exact Steady.refl _
      · dsimp only
        split
        · split
          · exact popTok_steady.trans (pushTok_steady.trans (modMatrix_steady.trans (mxOpEnd_steady.trans modMatrix_steady)))
          · exact popTok_steady.trans (pushTok_steady.trans (modMatrix_steady.trans (mxOpEnd_steady.trans (modMatrix_steady.trans gotDone_steady))))
        · exact popTok_steady.trans (pushTok_steady.trans modMatrix_steady)
    · dsimp only
      split
      · exact Steady.refl _
      · exact mxTake_steady

end Sys2Proof.Machine

namespace Sys2Proof.Machine

/-! PROOFS. What the steps of matrix tiles, copy engines, banks and fibre units, and the lives of tasks up to their ends, leave of memory,
contexts and cores (R347, R364, R371). -/

variable {s u : State}

theorem execMatrixTokenTake_steady {t o : Nat} : Leads Steady s (execMatrixTokenTake t o s) := by
  unfold execMatrixTokenTake
  split
  · exact Steady.refl _
  · split
    · exact malformed_steady
    · exact mxToken_steady
    · exact Steady.refl _

theorem execMatrixOutputPush_steady {t o : Nat} : Leads Steady s (execMatrixOutputPush t o s) := by
  unfold execMatrixOutputPush
  split
  · exact Steady.refl _
  · split
    · exact Steady.refl _
    · split
      · exact Steady.refl _
      · split
        · exact freeze_steady
        · dsimp only
          show Steady _ _
          refine Steady.trans ?_ (mxSettle_steady.trans busy_steady)
          split
          · split
            · refine Steady.trans ?_ (modMatrix_steady.trans endCmd_steady)
              split
              · exact pushTok_steady
              · exact pushTok_steady.trans sinkPoison_steady
            · refine Steady.trans ?_ modMatrix_steady
              split
              · exact pushTok_steady
              · exact pushTok_steady.trans sinkPoison_steady
          · refine Steady.trans ?_ modMatrix_steady
            split
            · exact pushTok_steady
            · exact pushTok_steady.trans sinkPoison_steady

theorem dropUsersOf_steady {t o : Nat} : Steady s (s.dropUsersOf t o) :=
  .of_eq rfl rfl rfl

theorem mxLoaded_steady {t o : Nat} {m : Matrix} {ld : Load} {img : Nat} {eb : List Nat} : Steady s (s.mxLoaded t o m ld img eb) := by
  unfold State.mxLoaded
  split
  dsimp only
  split
  · exact modMatrix_steady.trans (endCmd_steady.trans taskRecord_steady)
  · exact modMatrix_steady.trans endCmd_steady

theorem mxLines_steady {t o : Nat} {m : Matrix} {ld : Load} : Steady s (s.mxLines t o m ld) := by
  unfold State.mxLines
  dsimp only
  split
  · next h =>
    obtain ⟨q, hmem, hq⟩ := List.exists_of_findSome?_eq_some h
    obtain ⟨i, -, rfl⟩ := List.mem_map.mp hmem
    split at hq
    · next h' =>
      cases hq
      exact unitKeys_wait_steady h'
    · cases hq
  · refine Steady.trans ?_ mxLoaded_steady
    have hread {f : State → UnitKeys → State} {l : List UnitKeys} (hf : ∀ z k, Steady z (f z k)) : Steady s (l.foldl f s) :=
      Steady.foldl hf _
    have hkeys (z : State) (k : UnitKeys) : Steady z (match k with
        | .at_ ks => z.touchKeys ks
        | _ => z) := by
      split
      · exact touchKeys_steady
      · exact Steady.refl _
    have hdrop {z : State} {c : Prop} [Decidable c] (h : Steady s z) : Steady s (if c then z else z.dropUsersOf t o) := by
      split
      · exact h
      · exact h.trans dropUsersOf_steady
    exact hdrop (hread hkeys)

theorem mxStream_steady {t o : Nat} {m : Matrix} {ld : Load} {tok : Token} : Steady s (s.mxStream t o m ld tok) := by
  unfold State.mxStream
  split
  · exact freezeEngine_steady
  · dsimp only
    split
    · exact popTok_steady.trans (busy_steady.trans modMatrix_steady)
    · split
      · exact popTok_steady.trans (busy_steady.trans modMatrix_steady)
      · exact popTok_steady.trans (busy_steady.trans mxLoaded_steady)

theorem execMxLoadwComplete_steady {t o : Nat} : Leads Steady s (execMxLoadwComplete t o s) := by
  unfold execMxLoadwComplete
  split
  · exact Steady.refl _
  · split
    · exact Steady.refl _
    · split
      · exact Steady.refl _
      · split
        · exact mxLines_steady
        · split
          · exact Steady.refl _
          · exact mxStream_steady

theorem openBank_steady {b lctx : Nat} : Steady s (s.openBank b lctx) := by
  unfold State.openBank
  dsimp only
  split
  · exact Steady.refl _
  · exact Steady.of_eq rfl rfl rfl

theorem execEnginePacketArrive_steady {n : Nat} : Leads Steady s (execEnginePacketArrive n s) := by
  have hgone {z : State} (h : Steady s z) : Steady s { z with msgs := z.msgs.eraseIdx n } := h.trans (.of_eq rfl rfl rfl)
  unfold execEnginePacketArrive
  split
  · exact Steady.refl _
  split
  · exact Steady.refl _
  dsimp only
  split
  · exact coreCmdDone_steady.after rfl rfl rfl
  · split
    · exact coreCmdDone_steady.after rfl rfl rfl
    · split
      · exact Steady.refl _
      · split
        · refine (hgone ?_).trans (bumpId_steady.trans (busy_steady.trans freezeEngine_steady))
          split
          · exact openBank_steady
          · exact Steady.refl _
        · refine (hgone ?_).trans (bumpId_steady.trans (busy_steady.trans modInbox_steady))
          split
          · exact openBank_steady
          · exact Steady.refl _

theorem sendReply_steady {e : EngineRef} {r : Reply} : Steady s (s.sendReply e r) := by
  unfold State.sendReply
  dsimp only
  split
  · exact modInbox_steady
  · split
    · split
      · exact modInbox_steady.trans (.of_eq rfl rfl rfl)
      · exact modInbox_steady.trans tlAdd_steady
    · split
      · exact modInbox_steady
      · split
        · rename_i y u h
          exact modInbox_steady.trans (pushReply_steady.of h)
        · exact modInbox_steady.trans modInbox_steady

theorem execEngineReply_kept {e : EngineRef} : Leads Kept s (execEngineReply e s) := by
  unfold execEngineReply
  split
  · exact Kept.refl _
  split
  · exact Kept.refl _
  split
  · exact Kept.refl _
  split
  · exact Kept.refl _
  · next h =>
    refine Kept.trans ?_ (sendReply_steady.trans busy_steady).kept
    split at h
    · exact engineRelease_kept.of h
    · cases h
      exact Kept.refl _

theorem execCopyTrigger_steady {t o slot : Nat} : Leads Steady s (execCopyTrigger t o slot s) := by
  unfold execCopyTrigger
  split
  · exact Steady.refl _
  · split
    · exact Steady.refl _
    · split
      · exact malformed_steady
      · exact Steady.refl _
      · split
        · show Steady _ _
          split
          · exact fireSlot_steady.trans popTok_steady
          · exact Steady.refl _
        · split
          · exact popTok_steady.trans (modSlot_steady.trans gotDone_steady)
          · split
            · exact popTok_steady.trans sinkPoison_steady
            · exact malformed_steady

theorem copyAsk_steady {t o n : Nat} {x : Slot} : Steady s (s.copyAsk t o n x) := by
  unfold State.copyAsk
  split
  · exact unitSpan_steady.trans modSlot_steady
  · exact Steady.refl _

theorem copyMiss_steady {t o n : Nat} {x : Slot} : Steady s (s.copyMiss t o n x) := by
  unfold State.copyMiss
  split
  · exact Steady.refl _
  · refine (Steady.foldl (fun s x => ?_) _).trans copyAsk_steady
    split
    · rename_i y u h
      exact (unitAt_wait_steady h)
    · exact Steady.refl _

theorem copyHandles_steady {tile : Nat} : Steady s (s.copyHandles tile) := by
  unfold State.copyHandles
  dsimp only
  refine (Steady.foldl (fun _ _ => (Steady.foldl (fun s x => ?_) _)) _)
  split
  · refine (Steady.foldl (fun s x => ?_) _)
    split
    · exact Steady.refl _
    · refine Gets.getD ?_ ?_
      · refine Gets.map fun a => ?_
        exact takeHandles_steady.trans copyMiss_steady
      · exact takeHandles_steady
  · exact Steady.refl _

theorem copyBad_steady {t o n : Nat} {code : BitVec 7} : Steady s (s.copyBad t o n code) := by
  unfold State.copyBad
  split
  · split
    · exact Steady.refl _
    · exact modSlot_steady.trans engineFault_steady
  · exact Steady.refl _

theorem writePart_kept {t o n : Nat} {x : Slot} {i j m v : Nat} {audit : Bool} :
    Kept s (s.writePart t o n x i j m v audit) := by
  unfold State.writePart
  split
  · exact modSlot_steady.kept
  · split
    · exact copyBad_steady.kept
    · exact (touchKeys_steady.trans (unitSpan_steady.trans modSlot_steady)).kept.after' fun h => writeKeys_wf h
  · split
    · exact copyBad_steady.kept
    · exact tileWrite_kept.trans modSlot_steady.kept

theorem moveParts_kept {t o n : Nat} {x : Slot} {k i : Nat} : Kept s (s.moveParts t o n x k i) := by
  induction k generalizing s i with
  | zero => exact Kept.refl _
  | succ k ih =>
    rw [State.moveParts]
    refine Kept.trans ?_ ih
    split
    · exact writePart_kept
    · split
      · exact Kept.refl _
      · exact copyBad_steady.kept

theorem copyFaulted_steady {t o : Nat} {x : Slot} {m : Nat} : Steady s (s.copyFaulted t o x m) := by
  unfold State.copyFaulted
  refine (Steady.foldl (fun s x => ?_) _)
  split
  · rename_i y u y1 y2 h
    exact (unitAt_fault_steady h)
  · exact Steady.refl _

theorem pushPacked_steady {t o n : Nat} : Steady s (s.pushPacked t o n) := by
  unfold State.pushPacked
  split
  · split
    · split
      · exact Steady.refl _
      · dsimp only
        split
        · exact freeze_steady
        · exact pushTok_steady.trans modSlot_steady
    · exact Steady.refl _
  · exact Steady.refl _

theorem copyOn_steady {t o n : Nat} {x : Slot} {k sub : Nat} : Steady s (s.copyOn t o n x k sub) := by
  unfold State.copyOn
  dsimp only
  exact copyFaulted_steady.trans (modSlot_steady.trans (pushPacked_steady.trans (busy_steady.trans countFiring_steady)))

theorem copyReplay_steady {t o n : Nat} {x : Slot} {va m kind : Nat} : Gets Steady s (s.copyReplay t o n x va m kind) := by
  unfold State.copyReplay
  split
  · rename_i y y1 u y2 y3 y4 h h1
    split
    · exact trivial
    · dsimp only
      split
      · show Steady _ _
        exact (unitAt_fault_steady h).trans freeze_steady
      · show Steady _ _
        split
        · refine Steady.trans (u := u.bumpId.modSlot t o n fun x_1 =>
  { armed := x_1.armed, declared := x_1.declared, src := x_1.src, dst := x_1.dst, dims := x_1.dims, esize := x_1.esize,
    ten := x_1.ten, tport := x_1.tport, sh := x_1.sh, dh := x_1.dh, rpl := x_1.rpl, rply := x_1.rply,
    word7 := x_1.word7, seq := x_1.seq, firing := x_1.firing, shTaken := x_1.shTaken, dhTaken := x_1.dhTaken,
    elem := x_1.elem, sub := x_1.sub, inTok := x_1.inTok, inPos := x_1.inPos, inAudit := x_1.inAudit,
    outTok := x_1.outTok, outAudit := x_1.outAudit, old := x_1.old, fireNo := x_1.fireNo,
    stall :=
      some
        { va := BitVec.ofNat 64 y3, tries := (Option.map (fun x => x.tries) x.stall).getD 0 + 1,
          tag := BitVec.ofNat 32 u.nextId, stage := faultStage y2, waiting := true, refused := false },
    fetch := x_1.fetch, status := x_1.status, finished := x_1.finished, fireReply := x_1.fireReply }) ?_ (.of_eq rfl rfl rfl)
          exact (unitAt_fault_steady h).trans (bumpId_steady.trans modSlot_steady)
        · refine Steady.trans (u := u.bumpId.modSlot t o n fun x_1 =>
  { armed := x_1.armed, declared := x_1.declared, src := x_1.src, dst := x_1.dst, dims := x_1.dims, esize := x_1.esize,
    ten := x_1.ten, tport := x_1.tport, sh := x_1.sh, dh := x_1.dh, rpl := x_1.rpl, rply := x_1.rply,
    word7 := x_1.word7, seq := x_1.seq, firing := x_1.firing, shTaken := x_1.shTaken, dhTaken := x_1.dhTaken,
    elem := x_1.elem, sub := x_1.sub, inTok := x_1.inTok, inPos := x_1.inPos, inAudit := x_1.inAudit,
    outTok := x_1.outTok, outAudit := x_1.outAudit, old := x_1.old, fireNo := x_1.fireNo,
    stall :=
      some
        { va := BitVec.ofNat 64 y3, tries := (Option.map (fun x => x.tries) x.stall).getD 0 + 1,
          tag := BitVec.ofNat 32 u.nextId, stage := faultStage y2, waiting := true, refused := false },
    fetch := x_1.fetch, status := x_1.status, finished := x_1.finished, fireReply := x_1.fireReply }) ?_ (.of_eq rfl rfl rfl)
          exact (unitAt_fault_steady h).trans (bumpId_steady.trans modSlot_steady)
  · exact trivial

theorem copyStall_steady {t o n : Nat} {x : Slot} {m : Nat} : Gets Steady s (s.copyStall t o n x m) := by
  unfold State.copyStall
  refine Gets.findSome fun a => ?_
  exact copyReplay_steady

theorem touchSource_steady {t o : Nat} {x : Slot} {n : Nat} : Steady s (s.touchSource t o x n) := by
  unfold State.touchSource
  split
  · exact touchKeys_steady
  · exact Steady.refl _

theorem movePiece_kept {t o n : Nat} {x : Slot} {j m : Nat} : Kept s (s.movePiece t o n x j m) := by
  unfold State.movePiece
  dsimp only
  split
  · exact writePart_kept
  · split
    · exact Kept.refl _
    · exact copyBad_steady.kept

theorem countSource_steady {t : Nat} {x : Slot} {k : Nat} : Steady s (s.countSource t x k) := by
  unfold State.countSource
  split
  · refine (Steady.foldl (fun s x => ?_) _)
    split
    · exact countTags_steady
    · exact Steady.refl _
  · exact Steady.refl _

theorem copyMove_kept {t o n : Nat} {x : Slot} : Gets Kept s (s.copyMove t o n x) := by
  unfold State.copyMove
  dsimp only
  split
  · split
    · exact trivial
    · split
      · rename_i y y1 u h
        show Kept _ _
        exact (Steady.kept (copyStall_steady.of h))
      · show Kept _ _
        exact copyBad_steady.kept.trans copyOn_steady.kept
      · show Kept _ _
        refine Kept.trans ?_ (countSource_steady.kept.trans copyOn_steady.kept)
        split
        · exact touchSource_steady.kept.trans moveParts_kept
        · exact touchSource_steady.kept.trans movePiece_kept
  · split
    · exact trivial
    · split
      · rename_i y y1 u h
        show Kept _ _
        exact (Steady.kept (copyStall_steady.of h))
      · show Kept _ _
        exact copyBad_steady.kept.trans copyOn_steady.kept
      · show Kept _ _
        refine Kept.trans ?_ (countSource_steady.kept.trans copyOn_steady.kept)
        split
        · exact touchSource_steady.kept.trans moveParts_kept
        · exact touchSource_steady.kept.trans movePiece_kept

theorem copyTake_steady {t o n : Nat} {x : Slot} {p : Nat} {tok : Token} : Steady s (s.copyTake t o n x p tok) := by
  unfold State.copyTake
  dsimp only
  split
  · split
    · exact popTok_steady.trans (modSlot_steady.trans (pushPacked_steady.trans gotDone_steady))
    · exact popTok_steady.trans (modSlot_steady.trans pushPacked_steady)
  · split
    · exact popTok_steady.trans (modSlot_steady.trans copyBad_steady)
    · split
      · exact malformed_steady
      · split
        · exact freeze_steady
        · exact popTok_steady.trans modSlot_steady

theorem copyStep_kept {t o n : Nat} : Gets Kept s (s.copyStep t o n) := by
  unfold State.copyStep
  split
  · exact trivial
  · split
    · exact trivial
    · split
      · split
        · show Kept _ _
          exact malformed_steady.kept
        · exact trivial
        · dsimp only
          split
          · split
            · show Kept _ _
              exact copyTake_steady.kept
            · show Kept _ _
              refine Gets.getD ?_ ?_
              · exact copyTake_steady.kept.gets copyMove_kept
              · exact copyTake_steady.kept
          · show Kept _ _
            exact copyTake_steady.kept
      · exact copyMove_kept

theorem copyEntry_kept {tile e : Nat} : Gets Kept s (s.copyEntry tile e) := by
  unfold State.copyEntry
  refine Gets.findSome fun a => ?_
  split
  · refine Gets.findSome fun a => ?_
    dsimp only
    refine Kept.bind ?_ fun s => ?_
    · exact copyStep_kept
    · exact modCopy_steady.kept
  · exact trivial

theorem execCopyTransfer_kept {x y : Nat} : Leads Kept s (execCopyTransfer x y s) := by
  have hu : Kept s (s.copyHandles (tileKey x y)) := copyHandles_steady.kept
  simp only [execCopyTransfer]
  generalize s.copyHandles (tileKey x y) = u at hu ⊢
  split
  · exact hu
  · refine hu.trans (Gets.getD (Gets.findSome fun i => ?_) (Kept.refl _))
    exact Kept.bind copyEntry_kept fun _ => modTile_steady.kept

theorem execCopyFiringComplete_steady {t o slot : Nat} : Leads Steady s (execCopyFiringComplete t o slot s) := by
  unfold execCopyFiringComplete
  split
  · exact Steady.refl _
  · dsimp only
    split
    · exact Steady.refl _
    · show Steady _ _
      split
      · refine Steady.trans ?_ (modSlot_steady.trans (busy_steady.trans endCmd_steady))
        split
        · refine Steady.trans ?_ setBuf_steady
          split
          · exact setBuf_steady
          · exact Steady.refl _
        · split
          · exact setBuf_steady
          · exact Steady.refl _
      · split
        · refine Steady.trans ?_ (modSlot_steady.trans busy_steady)
          split
          · refine Steady.trans ?_ setBuf_steady
            split
            · exact setBuf_steady
            · exact Steady.refl _
          · split
            · exact setBuf_steady
            · exact Steady.refl _
        · refine Steady.trans ?_ (modSlot_steady.trans (busy_steady.trans modInbox_steady))
          split
          · refine Steady.trans ?_ setBuf_steady
            split
            · exact setBuf_steady
            · exact Steady.refl _
          · split
            · exact setBuf_steady
            · exact Steady.refl _

theorem vaWrite_kept {lctx va n v : Nat} : Gets Kept s (s.vaWrite lctx va n v) :=
  Gets.map fun _ => .of_eq (fun h => writeKeys_wf h) rfl rfl

theorem bankPut_kept {k : BankCmd} {i : Nat} {l : List Nat} : Kept s (s.bankPut k i l) := by
  induction l generalizing s k i with
  | nil =>
    rw [State.bankPut]
    exact Kept.refl _
  | cons e l ih =>
    rw [State.bankPut]
    split
    · exact ih
    · refine Kept.trans ?_ ih
      refine Gets.getD ?_ ?_
      · exact vaWrite_kept
      · exact Kept.refl _

theorem bankEnd_steady {b : Nat} {k : BankCmd} {status : Nat} : Steady s (s.bankEnd b k status) :=
  (endCmd_steady.trans pauseCheck_steady).after rfl rfl rfl

theorem modBankCmd_steady {b c : Nat} {f : BankCmd → BankCmd} : Steady s (s.modBankCmd b c f) :=
  .of_eq rfl rfl rfl

theorem bankOn_steady {b : Nat} {k : BankCmd} {n : Nat} : Steady s (s.bankOn b k n) := by
  unfold State.bankOn
  split
  · exact bankEnd_steady
  · exact modBankCmd_steady

theorem bankEach_kept {k : BankCmd} {n n1 : Nat} : Kept s (s.bankEach k n n1).1 := by
  induction n generalizing s k n1 with
  | zero =>
    rw [State.bankEach]
    dsimp only
    exact Kept.refl _
  | succ n ih =>
    rw [State.bankEach]
    split
    · dsimp only
      exact Kept.refl _
    · split
      · refine Kept.trans ?_ ih
        refine Gets.getD ?_ ?_
        · exact vaWrite_kept
        · exact Kept.refl _
      · dsimp only
        exact Kept.refl _

theorem bankLine_kept {b : Nat} {k : BankCmd} : Kept s (s.bankLine b k) := by
  unfold State.bankLine
  split
  · dsimp only
    refine Kept.trans ?_ bankEnd_steady.kept
    split
    · exact bankPut_kept.trans modInbox_steady.kept
    · exact bankPut_kept
  · dsimp only
    split
    · refine Kept.trans ?_ bankEnd_steady.kept
      refine Gets.getD ?_ ?_
      · exact vaWrite_kept
      · exact Kept.refl _
    · exact modBankCmd_steady.kept
  · split
    · exact bankPut_kept.trans bankOn_steady.kept
    · dsimp only
      split
      · rename_i y u h
        exact (bankEach_kept.fst h).trans bankOn_steady.kept
      · rename_i y u h
        exact (bankEach_kept.fst h).trans (bankRecord_steady.kept.trans bankEnd_steady.kept)
  · dsimp only
    refine (Kept.foldl (fun s x => ?_) _).trans bankOn_steady.kept
    refine Gets.getD ?_ ?_
    · exact vaWrite_kept
    · exact Kept.refl _
  · split
    · exact Kept.refl _
    · exact bankPut_kept.trans bankOn_steady.kept

theorem bankAbandon_steady {b : Nat} {k : BankCmd} : Steady s (s.bankAbandon b k) := by
  unfold State.bankAbandon
  dsimp only
  exact bankRecord_steady.trans (modInbox_steady.trans bankEnd_steady)

theorem bankAsk_steady {b : Nat} {k : BankCmd} : Steady s (s.bankAsk b k) := by
  unfold State.bankAsk
  dsimp only
  split
  · exact modBankCmd_steady.trans addSpan_steady
  · exact bankAbandon_steady

theorem execBankLineOperation_kept {bank : Nat} : Leads Kept s (execBankLineOperation bank s) := by
  unfold execBankLineOperation
  split
  · exact Kept.refl _
  · split
    · exact Kept.refl _
    · dsimp only
      split
      · exact Kept.refl _
      · split
        · exact busy_steady.kept.trans bankAsk_steady.kept
        · exact busy_steady.kept.trans ((touchKeys_steady.kept.trans bankLine_kept).after rfl rfl rfl)

theorem execFbBufferLoad_steady {t o : Nat} : Leads Steady s (execFbBufferLoad t o s) := by
  unfold execFbBufferLoad
  split
  · exact Steady.refl _
  · split
    · exact Steady.refl _
    · split
      · show Steady _ _
        split
        · exact modFibre_steady
        · exact Steady.refl _
      · dsimp only
        split
        · rename_i y u h
          exact (unitAt_wait_steady h)
        · rename_i y u y1 y2 h
          exact (unitAt_fault_steady h).trans (modFibre_steady.trans (busy_steady.trans modFibre_steady))
        · exact modFibre_steady.trans (busy_steady.trans (touchKey_steady.trans (spanRead_steady.trans modFibre_steady)))

theorem fSink_steady {t o : Nat} {pushes : List (Nat × Token)} : Steady s (s.fSink t o pushes) := by
  unfold State.fSink
  split
  · split
    · exact sinkPoison_steady
    · exact Steady.refl _
  · exact Steady.refl _

theorem fPop_steady {t o q : Nat} : Steady s (s.fPop t o q) := by
  unfold State.fPop
  split
  · exact Steady.refl _
  · split
    · exact modFibre_steady
    · split
      · exact Steady.refl _
      · split
        · exact Steady.refl _
        · dsimp only
          split
          · split
            · exact popTok_steady.trans modFibre_steady
            · exact modFibre_steady
          · split
            · exact popTok_steady.trans modFibre_steady
            · exact modFibre_steady

theorem fWalk_steady {t o : Nat} {l : List (Nat × Nat)} : Gets Steady s (s.fWalk t o l) := by
  unfold State.fWalk
  refine Gets.findSome fun a => ?_
  split
  · rename_i y u h
    show Steady _ _
    exact (unitAt_wait_steady h)
  · exact trivial

theorem fStore_steady {t o : Nat} {x : Nat × Nat} : Steady s (s.fStore t o x) := by
  unfold State.fStore
  split
  · rename_i y u h
    exact (unitAt_wait_steady h)
  · rename_i y u y1 y2 h
    exact (unitAt_fault_steady h).trans sinkPoison_steady
  · exact modFibre_steady

theorem fPush_steady {t o : Nat} {l : List (Nat × Token)} : Steady s (s.fPush t o l) := by
  induction l generalizing s t o with
  | nil =>
    rw [State.fPush]
    exact Steady.refl _
  | cons e l ih =>
    rw [State.fPush]
    split
    · exact freeze_steady
    · exact pushTok_steady.trans ih

theorem fTake_steady {t o : Nat} {st : FStep} : Steady s (s.fTake t o st) := by
  unfold State.fTake
  split
  · exact Steady.refl _
  · split
    · refine Gets.getD ?_ ?_
      · exact fWalk_steady
      · exact Steady.refl _
    · dsimp only
      split
      · refine Steady.trans ?_ (busy_steady.trans countFiring_steady)
        split
        · split
          · exact resetRates_steady.trans ((Steady.foldl (fun _ _ => fPop_steady) _).trans (fPush_steady.trans (fSink_steady.trans (modFibre_steady.trans (sinkPoison_steady.trans ((Steady.foldl (fun _ _ => fStore_steady) _).trans gotDone_steady))))))
          · exact resetRates_steady.trans ((Steady.foldl (fun _ _ => fPop_steady) _).trans (fPush_steady.trans (fSink_steady.trans (modFibre_steady.trans (sinkPoison_steady.trans (Steady.foldl (fun _ _ => fStore_steady) _))))))
        · split
          · exact resetRates_steady.trans ((Steady.foldl (fun _ _ => fPop_steady) _).trans (fPush_steady.trans (fSink_steady.trans (modFibre_steady.trans ((Steady.foldl (fun _ _ => fStore_steady) _).trans gotDone_steady)))))
          · exact resetRates_steady.trans ((Steady.foldl (fun _ _ => fPop_steady) _).trans (fPush_steady.trans (fSink_steady.trans (modFibre_steady.trans (Steady.foldl (fun _ _ => fStore_steady) _)))))
      · refine Steady.trans ?_ busy_steady
        split
        · split
          · exact resetRates_steady.trans ((Steady.foldl (fun _ _ => fPop_steady) _).trans (fPush_steady.trans (fSink_steady.trans (modFibre_steady.trans (sinkPoison_steady.trans ((Steady.foldl (fun _ _ => fStore_steady) _).trans gotDone_steady))))))
          · exact resetRates_steady.trans ((Steady.foldl (fun _ _ => fPop_steady) _).trans (fPush_steady.trans (fSink_steady.trans (modFibre_steady.trans (sinkPoison_steady.trans (Steady.foldl (fun _ _ => fStore_steady) _))))))
        · split
          · exact resetRates_steady.trans ((Steady.foldl (fun _ _ => fPop_steady) _).trans (fPush_steady.trans (fSink_steady.trans (modFibre_steady.trans ((Steady.foldl (fun _ _ => fStore_steady) _).trans gotDone_steady)))))
          · exact resetRates_steady.trans ((Steady.foldl (fun _ _ => fPop_steady) _).trans (fPush_steady.trans (fSink_steady.trans (modFibre_steady.trans (Steady.foldl (fun _ _ => fStore_steady) _)))))

theorem scanPush_steady {t o : Nat} {f : Fibre} {r j : Nat} : Steady s (s.scanPush t o f r j) := by
  unfold State.scanPush
  split
  · exact Steady.refl _
  · dsimp only
    split
    · exact fPush_steady.trans (fSink_steady.trans (modFibre_steady.trans busy_steady))
    · exact fPush_steady.trans (fSink_steady.trans (modFibre_steady.trans (busy_steady.trans countFiring_steady)))

theorem afterDone_steady {t o : Nat} : Steady s (s.afterDone t o) := by
  unfold State.afterDone
  split
  · exact malformed_steady
  · exact Steady.refl _

theorem fibreRun_steady {t o : Nat} {kinds : List Fop} {act : State → Fibre → FAct} : Steady s (s.fibreRun t o kinds act) := by
  unfold State.fibreRun
  split
  · exact Steady.refl _
  · split
    · exact Steady.refl _
    · split
      · exact afterDone_steady
      · split
        · exact scanPush_steady
        · split
          · exact Steady.refl _
          · exact malformed_steady
          · exact fTake_steady

theorem execFbScanStep_steady {t o : Nat} : Leads Steady s (execFbScanStep t o s) := by
  unfold execFbScanStep
  exact fibreRun_steady

theorem execFbDenseStep_steady {t o : Nat} : Leads Steady s (execFbDenseStep t o s) := by
  unfold execFbDenseStep
  exact fibreRun_steady

theorem execFbLookupStep_steady {t o : Nat} : Leads Steady s (execFbLookupStep t o s) := by
  unfold execFbLookupStep
  exact fibreRun_steady

theorem execFbIsectStep_steady {t o : Nat} : Leads Steady s (execFbIsectStep t o s) := by
  unfold execFbIsectStep
  exact fibreRun_steady

theorem execFbUnionStep_steady {t o : Nat} : Leads Steady s (execFbUnionStep t o s) := by
  unfold execFbUnionStep
  exact fibreRun_steady

theorem execFbFilterStep_steady {t o : Nat} : Leads Steady s (execFbFilterStep t o s) := by
  unfold execFbFilterStep
  exact fibreRun_steady

theorem execFbRepeatStep_steady {t o : Nat} : Leads Steady s (execFbRepeatStep t o s) := by
  unfold execFbRepeatStep
  exact fibreRun_steady

theorem execFbReduceStep_steady {t o : Nat} : Leads Steady s (execFbReduceStep t o s) := by
  unfold execFbReduceStep
  exact fibreRun_steady

theorem execFbWriteStep_steady {t o : Nat} : Leads Steady s (execFbWriteStep t o s) := by
  unfold execFbWriteStep
  exact fibreRun_steady

theorem stopFamily_steady {t : Nat} : Steady s (s.stopFamily t) :=
  stopTasks_steady

theorem execFreezeRecord_steady {t o : Nat} : Leads Steady s (execFreezeRecord t o s) := by
  unfold execFreezeRecord
  split
  · exact Steady.refl _
  · split
    · exact Steady.refl _
    · split
      · exact Steady.refl _
      · exact taskRecord_steady.trans (modOp_steady.trans stopFamily_steady)

theorem taskFreeze_steady {t : Nat} {code : BitVec 7} {detail : Word} : Steady s (s.taskFreeze t code detail) :=
  taskRecord_steady.trans stopFamily_steady

theorem execStuckTimeout_steady {lctx : Nat} : Leads Steady s (execStuckTimeout lctx s) := by
  unfold execStuckTimeout
  split
  · exact Steady.refl _
  · split
    · exact Steady.refl _
    · dsimp only
      exact (Steady.foldl (fun _ _ => taskFreeze_steady) _).trans modCtx_steady

theorem saveFiring_steady {t o : Nat} : Steady s (s.saveFiring t o) :=
  modOp_steady

theorem execPauseFiringLimit_steady {t o : Nat} : Leads Steady s (execPauseFiringLimit t o s) := by
  unfold execPauseFiringLimit
  split
  · exact Steady.refl _
  · show Steady _ _
    split
    · exact saveFiring_steady
    · exact Steady.refl _

theorem releaseHandles_steady {k : Task} : Steady s (s.releaseHandles k) := by
  unfold State.releaseHandles
  refine (Steady.foldl (fun s x => ?_) _)
  split
  · dsimp only
    split
    · split
      · exact setBuf_steady
      · exact Steady.refl _
    · exact Steady.refl _
  · exact Steady.refl _

theorem writeSave_kept {k : Task} : Kept s (s.writeSave k) := by
  unfold State.writeSave
  split
  · exact Kept.refl _
  · dsimp only
    split
    · exact Kept.of_eq (fun h => freeBytes_wf h) rfl rfl
    · exact Kept.refl _

theorem flushUnsaved_steady {t : Nat} : Steady s (s.flushUnsaved t) := by
  unfold State.flushUnsaved
  refine (Steady.foldl (fun s x => ?_) _)
  split
  · split
    · exact Steady.refl _
    · exact flushSome_steady
  · exact Steady.refl _

theorem dropUsers_steady {t : Nat} : Steady s (s.dropUsers t) := by
  unfold State.dropUsers
  dsimp only
  exact Steady.of_eq rfl rfl rfl

theorem unmarkEntries_steady {l : List (Nat × List Nat)} : Steady s (s.unmarkEntries l) := by
  induction l generalizing s with
  | nil =>
    rw [State.unmarkEntries]
    exact Steady.refl _
  | cons e l ih =>
    rw [State.unmarkEntries]
    exact modTile_steady.trans ih

theorem recomputeSlots_steady {tile : Nat} : Steady s (s.recomputeSlots tile) := by
  unfold State.recomputeSlots
  dsimp only
  exact modTile_steady

theorem recompute_steady {l : List Nat} : Steady s (s.recompute l) := by
  induction l generalizing s with
  | nil =>
    rw [State.recompute]
    exact Steady.refl _
  | cons e l ih =>
    rw [State.recompute]
    exact recomputeSlots_steady.trans ih

theorem freeBay_steady {t : Nat} : Steady s (s.freeBay t) := by
  unfold State.freeBay
  split
  · exact Steady.refl _
  · exact unmarkEntries_steady.trans (modTask_steady.trans recompute_steady)

theorem savePaused_kept {t : Nat} : Kept s (s.savePaused t) := by
  have hmark {z : State} {c : Prop} [Decidable c] {r : List PReq} {m : List Msg} (h : Kept s z) :
      Kept s (if c then { z with requests := r, msgs := m } else { z with msgs := m }) := by
    split
    · exact h.trans (.of_eq id rfl rfl)
    · exact h.trans (.of_eq id rfl rfl)
  unfold State.savePaused
  dsimp only
  split
  · exact flushUnsaved_steady.kept
  · refine Kept.trans (hmark ?_) ctxCheck_steady.kept
    exact flushUnsaved_steady.kept.trans (releaseHandles_steady.kept.trans
      (writeSave_kept.trans (freeBay_steady.kept.trans (modTask_steady.trans dropUsers_steady).kept)))

theorem execPauseComplete_kept {t : Nat} : Leads Kept s (execPauseComplete t s) := by
  unfold execPauseComplete
  split
  · exact Kept.refl _
  · dsimp only
    split
    · exact Kept.refl _
    · show Kept _ _
      split
      · exact drainAll_kept.trans savePaused_kept
      · exact drainAll_kept

theorem flushTask_steady {t : Nat} : Steady s (s.flushTask t) :=
  (Steady.foldl (fun _ _ => flushMarks_steady) _)

theorem startPhase_steady {t : Nat} : Steady s (s.startPhase t) := by
  unfold State.startPhase
  dsimp only
  exact flushTask_steady.trans (modTask_steady.trans modTask_steady)

theorem unbindKids_steady {t : Nat} : Steady s (s.unbindKids t) := by
  unfold State.unbindKids
  dsimp only
  exact Steady.of_eq rfl rfl rfl

theorem sendDecls_steady {t : Nat} : Steady s (s.sendDecls t) := by
  unfold State.sendDecls
  split
  · exact Steady.refl _
  · dsimp only
    exact Steady.of_eq rfl rfl rfl

theorem execPhaseStep_steady {t : Nat} : Leads Steady s (execPhaseStep t s) := by
  unfold execPhaseStep
  split
  · exact Steady.refl _
  · split
    · exact Steady.refl _
    · dsimp only
      exact unbindKids_steady.trans (startPhase_steady.trans (unmarkEntries_steady.trans (recompute_steady.trans sendDecls_steady)))

theorem poisonRecord_steady {t : Nat} {q : SinkPoison} : Steady s (s.poisonRecord t q) := by
  unfold State.poisonRecord
  split
  · exact Steady.refl _
  · dsimp only
    exact queueFault_steady.trans modTask_steady

theorem stopCondEnds_steady {t lctx : Nat} : Steady s (s.stopCondEnds t lctx) := by
  unfold State.stopCondEnds
  split
  · exact pauseTakesEffect_steady
  · exact Steady.refl _

theorem removeTask_steady {t : Nat} : Steady s (s.removeTask t) := by
  have hu : Steady s ((s.freeBay t).dropUsers t) := freeBay_steady.trans dropUsers_steady
  simp only [State.removeTask]
  generalize (s.freeBay t).dropUsers t = u at hu ⊢
  refine hu.trans ?_
  refine Steady.trans ?_ ctxCheck_steady
  refine Steady.trans ?_ stopCondEnds_steady
  refine Steady.trans ?_ dropRequests_steady
  exact .of_eq rfl rfl rfl

theorem endRoot_kept {t : Nat} {wrap : Bool} : Kept s (s.endRoot t wrap) := by
  unfold State.endRoot
  dsimp only
  split
  · exact drainAll_kept.trans flushTask_steady.kept
  · refine Kept.trans ?_ removeTask_steady.kept
    split
    · exact drainAll_kept.trans (flushTask_steady.kept.trans finish_kept)
    · refine Kept.trans ?_ finish_kept
      split
      · exact drainAll_kept.trans (flushTask_steady.kept.trans poisonRecord_steady.kept)
      · exact drainAll_kept.trans flushTask_steady.kept

theorem endSpawn_kept {t parent : Nat} : Kept s (s.endSpawn t parent) := by
  unfold State.endSpawn
  dsimp only
  split
  · exact drainAll_kept.trans flushTask_steady.kept
  · exact drainAll_kept.trans (flushTask_steady.kept.trans (modTask_steady.kept.trans removeTask_steady.kept))

theorem endTask_kept {t : Nat} {wrap : Bool} : Kept s (s.endTask t wrap) := by
  unfold State.endTask
  refine Kept.trans ?_ reap_steady.kept
  split
  · exact endSpawn_kept
  · exact endRoot_kept

theorem execTaskComplete_kept {t : Nat} : Leads Kept s (execTaskComplete t s) := by
  unfold execTaskComplete
  split
  · exact Kept.refl _
  · split
    · exact Kept.refl _
    · split
      · exact endTask_kept
      · exact Kept.refl _
    · split
      · exact endTask_kept
      · exact Kept.refl _

theorem execWrapComplete_kept {t : Nat} : Leads Kept s (execWrapComplete t s) := by
  unfold execWrapComplete
  split
  · exact Kept.refl _
  · split
    · exact endTask_kept
    · exact Kept.refl _

end Sys2Proof.Machine

namespace Sys2Proof.Machine

/-! PROOFS. What the placement of tasks, the ends of launches, the clock, the power manager, other devices, resets and errors leave of memory,
contexts and cores (R364, R375, R400, R405, R406, R412). -/

variable {s u : State}

theorem execReadyQueueSelect_steady : Leads Steady s (execReadyQueueSelect s) := by
  unfold execReadyQueueSelect
  split
  · exact Steady.refl _
  · split
    · exact Steady.refl _
    · split
      · exact Steady.refl _
      · exact Steady.of_eq rfl rfl rfl
      · exact Steady.of_eq rfl rfl rfl

theorem beginSpawn_steady {t o rec : Nat} : Steady s (s.beginSpawn t o rec) := by
  unfold State.beginSpawn
  split
  · exact Steady.refl _
  · split
    · exact Steady.refl _
    · dsimp only
      exact Steady.of_eq rfl rfl rfl

theorem beginAgain_steady {t : Nat} : Steady s (s.beginAgain t) := by
  unfold State.beginAgain
  split
  · exact Steady.refl _
  · split
    · exact Steady.refl _
    · dsimp only
      exact Steady.of_eq rfl rfl rfl

theorem beginReady_kept {r : Ready} : Kept s (s.beginReady r) := by
  unfold State.beginReady
  split
  · exact Kept.refl _
  · split
    · exact Kept.refl _
    · split
      · split
        · exact Kept.refl _
        · dsimp only
          exact setTcbState_kept.trans (.of_eq id rfl rfl)
      · exact Kept.refl _

theorem execJoinerPlacementBegin_kept : Leads Kept s (execJoinerPlacementBegin s) := by
  unfold execJoinerPlacementBegin
  split
  · exact Kept.refl _
  · split
    · dsimp only
      split
      · exact beginReady_kept.after rfl rfl rfl
      · exact (beginAgain_steady.kept.trans resumeCheck_steady.kept).after rfl rfl rfl
      · exact beginSpawn_steady.kept.after rfl rfl rfl
    · exact Kept.refl _

theorem placedFaulted_steady {p : Placing} {res : Dbl} : Steady s (s.placedFaulted p res) := by
  unfold State.placedFaulted
  dsimp only
  split
  · exact modTask_steady
  · exact modTask_steady
  · exact Steady.refl _

theorem placeOver_kept {p : Placing} {res : Dbl} : Kept s (s.placeOver p res) := by
  unfold State.placeOver
  dsimp only
  split
  · exact finish_kept.after rfl rfl rfl
  · exact Kept.of_eq id rfl rfl
  · exact Kept.of_eq id rfl rfl

theorem spawnReply_steady {p : Placing} {v : Nat} : Steady s (s.spawnReply p v) := by
  unfold State.spawnReply
  split
  · exact Steady.of_eq rfl rfl rfl
  · exact Steady.refl _

theorem placeFault_kept {p : Placing} {code : BitVec 7} {graph who detail : Nat} : Kept s (s.placeFault p code graph who detail) := by
  unfold State.placeFault
  dsimp only
  exact queueFault_steady.kept.trans (spawnReply_steady.kept.trans (placedFaulted_steady.kept.trans placeOver_kept))

theorem markEntries_steady {cls lctx : Nat} {l : List (Nat × List Nat)} : Steady s (s.markEntries cls lctx l) := by
  induction l generalizing s cls lctx with
  | nil =>
    rw [State.markEntries]
    exact Steady.refl _
  | cons e l ih =>
    rw [State.markEntries]
    exact modTile_steady.trans ih

theorem pauseIfDue_steady {t : Nat} : Steady s (s.pauseIfDue t) := by
  unfold State.pauseIfDue
  split
  · exact Steady.refl _
  · split
    · exact pauseTasks_steady
    · exact Steady.refl _

theorem noteFigure_steady {lctx : Nat} : Steady s (s.noteFigure lctx) :=
  modCtx_steady

theorem nameStop_steady {t lctx : Nat} : Steady s (s.nameStop t lctx) := by
  unfold State.nameStop
  split
  · split
    · split
      · exact Steady.refl _
      · split
        · exact modCtx_steady.trans checkStopCond_steady
        · dsimp only
          split
          · exact modCtx_steady.trans adminFinish_steady
          · exact modCtx_steady
    · exact Steady.refl _
  · exact Steady.refl _

theorem clearRegion_kept {r : Region} : Kept s (s.clearRegion r) := .of_eq clearRegion_memOk rfl rfl

theorem restoreRegion_kept {r : Region} {img : List (Nat × Byte) × List (Nat × Nat)} : Kept s (s.restoreRegion r img) := by
  unfold State.restoreRegion
  dsimp only
  refine clearRegion_kept.trans (Kept.after' (Kept.foldl (fun s x => ?_) _) fun h => foldl_wf (fun _ _ => memPut_wf) h)
  split
  · exact setTags_steady.kept
  · exact Kept.refl _

theorem layOut_kept {saved : List (Nat × List (Nat × Byte) × List (Nat × Nat))} {l : List Region} : Kept s (s.layOut saved l) := by
  induction l generalizing s saved with
  | nil =>
    rw [State.layOut]
    exact Kept.refl _
  | cons e l ih =>
    rw [State.layOut]
    refine Kept.trans ?_ ih
    split
    · exact restoreRegion_kept
    · exact clearRegion_kept

theorem moveNames_steady {t : Nat} {k : Task} {ops : List Op} : Steady s (s.moveNames t k ops) :=
  .of_eq rfl rfl rfl

theorem cacheUse_steady {e : CacheEnt} : Steady s (s.cacheUse e) := by
  unfold State.cacheUse
  dsimp only
  exact Steady.of_eq rfl rfl rfl

theorem bindEdges_steady {t c : Nat} {d : Dbl} {rec : Nat} {k : Task} : Steady s (s.bindEdges t c d rec k) := by
  unfold State.bindEdges
  refine (Steady.foldl (fun s x => ?_) _)
  dsimp only
  exact modChan_steady.trans modChan_steady

theorem placeDone_kept {p : Placing} {bay : Rect} {c : PlaceChoice} {caps : List (List Nat)} {regions : List Region} : Kept s (s.placeDone p bay c caps regions) := by
  unfold State.placeDone
  dsimp only
  refine Kept.trans ?_ (noteFigure_steady.kept.trans pauseIfDue_steady.kept)
  split
  · refine Kept.trans ?_ ((markEntries_steady.kept.trans (layOut_kept.trans (recompute_steady.kept.trans (sendDecls_steady.kept.trans (cacheUse_steady.kept.trans (modCtx_steady.kept.trans (setTcbState_kept.trans nameStop_steady.kept))))))).after rfl rfl rfl)
    refine Kept.trans (u := match p.req with
| PReq.again t => (Option.map (fun was => s.moveNames t was (s.newTaskOf p bay c caps regions).ops) (s.task t)).getD s
| x => s) ?_ (.of_eq id rfl rfl)
    split
    · refine Gets.getD ?_ ?_
      · refine Gets.map fun a => ?_
        exact moveNames_steady.kept
      · exact Kept.refl _
    · exact Kept.refl _
  · refine Kept.trans ?_ ((markEntries_steady.kept.trans (layOut_kept.trans (recompute_steady.kept.trans (sendDecls_steady.kept.trans (cacheUse_steady.kept.trans (modCtx_steady.kept.trans nameStop_steady.kept)))))).after rfl rfl rfl)
    refine Kept.trans (u := match p.req with
| PReq.again t => (Option.map (fun was => s.moveNames t was (s.newTaskOf p bay c caps regions).ops) (s.task t)).getD s
| x => s) ?_ (.of_eq id rfl rfl)
    split
    · refine Gets.getD ?_ ?_
      · refine Gets.map fun a => ?_
        exact moveNames_steady.kept
      · exact Kept.refl _
    · exact Kept.refl _
  · split
    · refine Kept.trans ?_ ((markEntries_steady.kept.trans (layOut_kept.trans (recompute_steady.kept.trans (sendDecls_steady.kept.trans (cacheUse_steady.kept.trans (modCtx_steady.kept.trans (spawnReply_steady.kept.trans bindEdges_steady.kept))))))).after rfl rfl rfl)
      refine Kept.trans (u := match p.req with
| PReq.again t => (Option.map (fun was => s.moveNames t was (s.newTaskOf p bay c caps regions).ops) (s.task t)).getD s
| x => s) ?_ (.of_eq id rfl rfl)
      split
      · refine Gets.getD ?_ ?_
        · refine Gets.map fun a => ?_
          exact moveNames_steady.kept
        · exact Kept.refl _
      · exact Kept.refl _
    · refine Kept.trans ?_ ((markEntries_steady.kept.trans (layOut_kept.trans (recompute_steady.kept.trans (sendDecls_steady.kept.trans (cacheUse_steady.kept.trans modCtx_steady.kept))))).after rfl rfl rfl)
      refine Kept.trans (u := match p.req with
| PReq.again t => (Option.map (fun was => s.moveNames t was (s.newTaskOf p bay c caps regions).ops) (s.task t)).getD s
| x => s) ?_ (.of_eq id rfl rfl)
      split
      · refine Gets.getD ?_ ?_
        · refine Gets.map fun a => ?_
          exact moveNames_steady.kept
        · exact Kept.refl _
      · exact Kept.refl _

theorem placeReport_kept {p : Placing} {code who : Nat} {image : Packet} : Kept s (s.placeReport p code who image) := by
  unfold State.placeReport
  dsimp only
  exact queueRecord_steady.kept.trans (spawnReply_steady.kept.trans placeOver_kept)

theorem endPlacement_kept {p : Placing} {c : PlaceChoice} : Kept s (s.endPlacement p c) := by
  unfold State.endPlacement
  split
  · exact placeFault_kept
  · split
    · exact Kept.refl _
    · split
      · exact placeFault_kept
      · split
        · exact placeFault_kept
        · exact placeFault_kept
        · exact placeReport_kept
        · dsimp only
          split
          · exact placeDone_kept
          · split
            · exact placeDone_kept
            · exact placeReport_kept
            · exact placeFault_kept
            · exact Kept.refl _

theorem execPlacementEnd_kept {c : PlaceChoice} : Leads Kept s (execPlacementEnd c s) := by
  unfold execPlacementEnd
  split
  · exact Kept.refl _
  · exact endPlacement_kept.trans ctxCheck_steady.kept

theorem hashFailPlacing_kept {was : State} {obj page : Nat} : Kept s (s.hashFailPlacing was obj page) := by
  unfold State.hashFailPlacing
  split
  · split
    · split
      · refine Kept.trans ?_ (placeFault_kept.trans ctxCheck_steady.kept)
        dsimp only
        exact setTcbState_kept.trans (.of_eq id rfl rfl)
      · exact Kept.refl _
    · exact Kept.refl _
  · split
    · exact placeFault_kept.trans ctxCheck_steady.kept
    · exact Kept.refl _

theorem lookHalt_steady {l : Nat} {n : Packet} {off : Nat} {code : BitVec 7} {detail : Nat} : Steady s (s.lookHalt l n off code detail) :=
  seqRecord_steady.trans modLaunch_steady

theorem hashHalt_kept {l : Nat} {x : Launch} {o : Obj} {off : Nat} {n : Packet} {page : Nat} : Kept s (s.hashHalt l x o off n page) := by
  unfold State.hashHalt
  split
  · exact lookHalt_steady.kept
  · dsimp only
    exact seqRecord_steady.kept.trans (modLaunch_steady.kept.trans (fillTcb_kept.trans ((Kept.foldl (fun _ _ => prepareTcb_kept) _).trans finish_kept)))

theorem hashFailLooks_kept {obj page : Nat} : Kept s (s.hashFailLooks obj page) := by
  unfold State.hashFailLooks
  refine (Kept.foldl (fun s x => ?_) _)
  split
  · split
    · dsimp only
      split
      · exact lookHalt_steady.kept
      · exact hashHalt_kept
    · exact Kept.refl _
  · exact Kept.refl _

theorem taint_steady {i : Nat} : Steady s (s.taint i) := by
  unfold State.taint
  dsimp only
  exact Steady.of_eq rfl rfl rfl

theorem touchSeg_steady {o : Obj} {off n : Nat} : Steady s (s.touchSeg o off n) := by
  unfold State.touchSeg
  dsimp only
  refine (Steady.foldl (fun s x => ?_) _)
  split
  · exact touchKey_steady
  · exact Steady.refl _

theorem execPageHashComplete_kept {obj page : Nat} : Leads Kept s (execPageHashComplete obj page s) := by
  unfold execPageHashComplete
  split
  · exact Kept.refl _
  split
  · exact Kept.refl _
  split
  · exact (touchSeg_steady.trans modObj_steady).kept
  · exact (touchSeg_steady.trans (modObj_steady.trans taint_steady)).kept.trans (hashFailLooks_kept.trans hashFailPlacing_kept)

theorem touchVa_steady {lctx va n : Nat} : Steady s (s.touchVa lctx va n) := by
  unfold State.touchVa
  split
  · exact touch_steady
  · exact Steady.refl _

theorem lookNode_steady {l : Nat} {x : Launch} {o : Obj} {off : Nat} {n : Packet} : Steady s (s.lookNode l x o off n) := by
  unfold State.lookNode
  dsimp only
  split
  · split
    · exact Steady.refl _
    · split
      · exact lookHalt_steady
      · exact modLaunch_steady.trans touchVa_steady
  · split
    · exact Steady.refl _
    · split
      · exact lookHalt_steady
      · split
        · exact modLaunch_steady.trans touchVa_steady
        · exact modLaunch_steady.trans touchVa_steady
  · exact modLaunch_steady
  · exact modLaunch_steady
  · split
    · exact modLaunch_steady
    · exact modLaunch_steady
  · exact modLaunch_steady

theorem execLookaheadNodeRead_kept {l : Nat} : Leads Kept s (execLookaheadNodeRead l s) := by
  unfold execLookaheadNodeRead
  split
  · exact Kept.refl _
  · split
    · split
      · exact Kept.refl _
      · dsimp only
        split
        · exact lookHalt_steady.kept
        · split
          · exact Kept.refl _
          · split
            · exact lookHalt_steady.kept
            · split
              · exact Kept.refl _
              · split
                · exact hashHalt_kept
                · exact touchSeg_steady.kept.trans lookNode_steady.kept
    · exact Kept.refl _

theorem execLaunchComplete_kept {l : Nat} : Leads Kept s (execLaunchComplete l s) := by
  unfold execLaunchComplete
  split
  · exact Kept.refl _
  · dsimp only
    split
    · exact Kept.refl _
    · exact complete_kept.trans (reap_steady.kept.after rfl rfl rfl)

theorem execStopInstant_kept {l : Nat} : Leads Kept s (execStopInstant l s) := by
  unfold execStopInstant
  split
  · exact Kept.refl _
  · split
    · exact Kept.refl _
    · dsimp only
      exact (endBatch_kept.trans modLaunch_steady.kept).after rfl rfl rfl

theorem execWrapTokenArrive_steady {t : Nat} : Leads Steady s (execWrapTokenArrive t s) := by
  unfold execWrapTokenArrive
  split
  · exact Steady.refl _
  · show Steady _ _
    split
    · exact modTask_steady
    · exact Steady.refl _

theorem execDeadlineFc_kept {l : Nat} : Leads Kept s (execDeadlineFc l s) := by
  unfold execDeadlineFc
  split
  · exact Kept.refl _
  · split
    · exact Kept.refl _
    · dsimp only
      show Kept _ _
      refine Kept.trans ?_ (modLaunch_steady.kept.trans ctxCheck_steady.kept)
      split
      · split
        · split
          · exact (Kept.foldl (fun _ _ => taskFreeze_steady.kept) _).trans placeFault_kept
          · exact (Kept.foldl (fun _ _ => taskFreeze_steady.kept) _)
        · exact (Kept.foldl (fun _ _ => taskFreeze_steady.kept) _)
      · exact (Kept.foldl (fun _ _ => taskFreeze_steady.kept) _)

theorem execIeee1588Timestamp_steady {off : ℤ} : Leads Steady s (execIeee1588Timestamp off s) := by
  unfold execIeee1588Timestamp
  exact correctClock_steady

theorem execPstepStrobe_steady {level : BitVec 4} : Leads Steady s (execPstepStrobe level s) := by
  unfold execPstepStrobe
  exact setPcuts_steady.after rfl rfl rfl

theorem execPowerLeverEngage_steady {draw : Nat} : Leads Steady s (execPowerLeverEngage draw s) := by
  unfold execPowerLeverEngage
  show Steady _ _
  split
  · exact setPcuts_steady.after rfl rfl rfl
  · exact Steady.refl _

theorem execPowerLeverRelease_steady {draw : Nat} : Leads Steady s (execPowerLeverRelease draw s) := by
  unfold execPowerLeverRelease
  show Steady _ _
  split
  · exact setPcuts_steady.after rfl rfl rfl
  · exact Steady.refl _

theorem execHbmPcPowerDown_steady {stack pc : Nat} : Leads Steady s (execHbmPcPowerDown stack pc s) := by
  unfold execHbmPcPowerDown
  dsimp only
  show Steady _ _
  split
  · exact Steady.of_eq rfl rfl rfl
  · exact Steady.refl _

theorem execNotifyWrite_steady {aqi q : Nat} {v : Dbl} : Leads Steady s (execNotifyWrite aqi q v s) := by
  unfold execNotifyWrite
  dsimp only
  split
  · split
    · exact modQueue_steady
    · exact Steady.of_eq rfl rfl rfl
  · exact Steady.of_eq rfl rfl rfl

theorem wakeCore_steady {k : Nat} : Steady s (s.wakeCore k) :=
  (modCore_steady fun _ => ⟨rfl, id, id⟩)

theorem mgmtWrite_steady {off : Nat} {v : Dbl} : Steady s (s.mgmtWrite off v) := by
  unfold State.mgmtWrite
  split
  · dsimp only
    split
    · exact (modCore_steady fun _ => ⟨rfl, id, id⟩)
    · split
      · exact (modCore_steady fun _ => ⟨rfl, id, id⟩)
      · split
        · exact wakeCore_steady
        · exact Steady.refl _
  · exact Steady.refl _

theorem execCoreWake_steady {core : Nat} {v : Dbl} : Leads Steady s (execCoreWake core v s) := by
  unfold execCoreWake
  show Steady _ _
  split
  · exact mgmtWrite_steady
  · exact Steady.refl _

theorem execMgmtRegisterWrite_steady {off : Dbl} {v : Dbl} : Leads Steady s (execMgmtRegisterWrite off v s) := by
  unfold execMgmtRegisterWrite
  show Steady _ _
  split
  · exact mgmtWrite_steady
  · exact Steady.refl _

theorem spanAccess_kept {a : SpanAccess} : Kept s (s.spanAccess a) := by
  unfold State.spanAccess
  split
  · exact Kept.refl _
  · dsimp only
    split
    · exact Kept.refl _
    · split
      · split
        · exact writeLoc_kept.trans touch_steady.kept
        · exact Kept.refl _
      · split
        · exact touch_steady.kept
        · exact Kept.refl _

theorem execSpanFrameReceive_kept {src : Nat} {flits : List SpanAccess} : Leads Kept s (execSpanFrameReceive src flits s) := by
  unfold execSpanFrameReceive
  show Kept _ _
  split
  · exact Kept.refl _
  · exact (Kept.foldl (fun _ _ => spanAccess_kept) _)

theorem copyReadEnd_kept {x : SpanOut} {ok : Bool} {data : Wide} : Kept s (s.copyReadEnd x ok data) := by
  unfold State.copyReadEnd
  split
  · exact Kept.refl _
  split
  · exact Kept.refl _
  split
  · exact modSlot_steady.kept
  · exact modSlot_steady.kept.after' fun h => memWrite_keeps h

theorem coreLost_steady {core : Nat} {x : SpanOut} : Steady s (s.coreLost core x) := by
  unfold State.coreLost
  split
  · refine Steady.trans (u := s.modCore core fun c => { c with loads := c.loads.filter fun l => l.seq != x.k }) ?_ coreTrapAt_steady
    exact modCore_steady fun _ => ⟨rfl, id, id⟩
  · exact Steady.refl _

theorem coreReadEnd_steady {core : Nat} {x : SpanOut} {ok : Bool} {data : Wide} : Steady s (s.coreReadEnd core x ok data) := by
  unfold State.coreReadEnd
  split
  · exact (modCore_steady fun _ => ⟨rfl, id, id⟩)
  · exact coreLost_steady

theorem spanReadEnd_kept {x : SpanOut} {ok : Bool} {data : Wide} : Kept s (s.spanReadEnd x ok data) := by
  unfold State.spanReadEnd
  split
  · split
    · exact Kept.refl _
    · split
      · exact modBankCmd_steady.kept
      · exact bankAbandon_steady.kept
  · split
    · exact coreReadEnd_steady.kept
    · dsimp only
      split
      · exact modWalker_steady.kept
      · exact modFibre_steady.kept
      · exact copyReadEnd_kept
      · exact modMem_steady.kept

theorem unitLost_steady {x : SpanOut} : Steady s (s.unitLost x) := by
  unfold State.unitLost
  split
  · split
    · exact runFault_steady
    · exact sinkPoison_steady
  · split
    · split
      · exact copyBad_steady
      · exact engineFault_steady
    · exact Steady.refl _
  · exact sinkPoison_steady
  · exact Steady.refl _

theorem spanWriteEnd_steady {x : SpanOut} {ok : Bool} : Steady s (s.spanWriteEnd x ok) := by
  unfold State.spanWriteEnd
  split
  · exact Steady.refl _
  · split
    · exact coreLost_steady
    · exact Steady.refl _
    · split
      · exact unitLost_steady
      · refine (Steady.foldl (fun s x => ?_) _)
        dsimp only
        split
        · exact sinkPoison_steady.trans memBad_steady
        · exact Steady.refl _

theorem spanEnd_kept {x : SpanOut} {ok : Bool} {data : Wide} : Kept s (s.spanEnd x ok data) := by
  unfold State.spanEnd
  dsimp only
  split
  · exact spanWriteEnd_steady.kept.after rfl rfl rfl
  · exact spanReadEnd_kept.after rfl rfl rfl

theorem execSpanAckReceive_kept {id : Nat} {ok : Bool} {data : Wide} : Leads Kept s (execSpanAckReceive id ok data s) := by
  unfold execSpanAckReceive
  split
  · show Kept _ _
    split
    · exact Kept.refl _
    · exact spanEnd_kept
  · exact Kept.refl _

theorem execSpanAccessTimeout_kept {id : Nat} : Leads Kept s (execSpanAccessTimeout id s) := by
  unfold execSpanAccessTimeout
  split
  · show Kept _ _
    split
    · exact spanEnd_kept
    · exact Kept.refl _
  · exact Kept.refl _

theorem loseStores_steady {lctx n : Nat} : Steady s (s.loseStores lctx n) :=
  modCtx_steady

theorem abandonSpans_steady : Steady s s.abandonSpans := by
  have hlose {α : Type} {l : List α} {c n : α → Nat} (z : State) : Steady z (l.foldl (fun z a => z.loseStores (c a) (n a)) z) :=
    Steady.foldl (fun _ _ => loseStores_steady) z
  have hcut {z : State} {g : Core → Core} {t : List (Nat × Task)} {x : List SpanOut} (hg : ∀ c, Core.Like c (g c)) :
      Steady z { z with tasks := t, cores := z.cores.map g, spans := x } := ⟨⟨id, id, forall₂_map hg⟩, rfl⟩
  unfold State.abandonSpans
  exact (hlose s).trans ((hlose _).trans ((hlose _).trans (hcut fun _ => ⟨rfl, id, id⟩)))

theorem execPowerFail_steady : Leads Steady s (execPowerFail s) := by
  unfold execPowerFail
  split
  · exact Steady.refl _
  · dsimp only
    exact ((Steady.foldl (fun _ _ => pauseTakesEffect_steady) _).trans abandonSpans_steady).after rfl rfl rfl

theorem execPowerFailFiringSave_steady {t o : Nat} : Leads Steady s (execPowerFailFiringSave t o s) := by
  unfold execPowerFailFiringSave
  split
  · show Steady _ _
    split
    · exact saveFiring_steady
    · exact Steady.refl _
  · exact Steady.refl _

theorem execHeartwoodWriteEnd_steady : Leads Steady s (execHeartwoodWriteEnd s) := by
  unfold execHeartwoodWriteEnd
  split
  · exact Steady.refl _
  · dsimp only
    exact abandonSpans_steady.trans (readFlash_steady.after rfl rfl rfl)

theorem execFunctionLevelReset_kept : Leads Kept s (execFunctionLevelReset s) := by
  unfold execFunctionLevelReset
  split
  · exact Kept.refl _
  · exact (Kept.foldl (fun _ _ => flushAqi_kept) _).trans tearDownAll_kept

theorem execEccCorrectable_steady {x y : Nat} : Leads Steady s (execEccCorrectable x y s) := by
  unfold execEccCorrectable
  split
  · exact Steady.refl _
  · dsimp only
    show Steady _ _
    split
    · exact modTile_steady.trans retireTile_steady
    · exact modTile_steady

theorem eccLine_steady {t o n : Nat} : Steady s (s.eccLine t o n) := by
  unfold State.eccLine
  dsimp only
  exact modFibre_steady

theorem eccLink_steady {t chan hop x y : Nat} : Steady s (s.eccLink t chan hop x y) := by
  unfold State.eccLink
  dsimp only
  exact modChan_steady

theorem eccPlane_steady {t o : Nat} {shadow : Bool} : Steady s (s.eccPlane t o shadow) := by
  unfold State.eccPlane
  dsimp only
  exact modMatrix_steady

theorem eccTile_steady {t o n : Nat} : Steady s (s.eccTile t o n) :=
  modSpline_steady

theorem eccReg_steady {t o v : Nat} : Steady s (s.eccReg t o v) :=
  modVec_steady

theorem eccBank_steady {b lctx : Nat} : Steady s (s.eccBank b lctx) := by
  unfold State.eccBank
  split
  · exact bankRecord_steady.trans bankEnd_steady
  · exact Steady.refl _

theorem eccToken_steady {t chan x y : Nat} : Steady s (s.eccToken t chan x y) :=
  modChan_steady

theorem eccCopy_steady {t o n : Nat} : Steady s (s.eccCopy t o n) :=
  modSlot_steady

theorem eccRead_steady {t o : Nat} : Steady s (s.eccRead t o) := by
  unfold State.eccRead
  dsimp only
  exact modOp_steady

theorem eccFlash_steady {slot part : Nat} : Steady s (s.eccFlash slot part) := by
  unfold State.eccFlash
  split
  · exact Steady.refl _
  · dsimp only
    exact readFlash_steady.after rfl rfl rfl

theorem execEccUncorrectable_kept {x y : Nat} {w : EccWhere} : Leads Kept s (execEccUncorrectable x y w s) := by
  unfold execEccUncorrectable
  split
  · exact Kept.refl _
  · dsimp only
    show Kept _ _
    split
    · split
      · exact tilePoison_kept
      · exact eccToken_steady.kept
      · exact eccRead_steady.kept
      · exact eccLine_steady.kept
      · exact eccLink_steady.kept
      · exact eccReg_steady.kept
      · exact eccPlane_steady.kept
      · exact eccCopy_steady.kept
      · exact eccTile_steady.kept
      · exact eccBank_steady.kept
      · exact eccFlash_steady.kept
      · exact Kept.refl _
    · refine Kept.trans ?_ uncorrectable_steady.kept
      split
      · exact tilePoison_kept
      · exact eccToken_steady.kept
      · exact eccRead_steady.kept
      · exact eccLine_steady.kept
      · exact eccLink_steady.kept
      · exact eccReg_steady.kept
      · exact eccPlane_steady.kept
      · exact eccCopy_steady.kept
      · exact eccTile_steady.kept
      · exact eccBank_steady.kept
      · exact eccFlash_steady.kept
      · exact Kept.refl _

theorem execCfgParityError_steady {t o word : Nat} : Leads Steady s (execCfgParityError t o word s) := by
  unfold execCfgParityError
  split
  · exact Steady.refl _
  · exact freeze_steady.trans uncorrectable_steady

theorem sendHeldIrqs_kept : Kept s s.sendHeldIrqs := by
  unfold State.sendHeldIrqs
  dsimp only
  exact (Kept.foldl (fun _ _ => sendIrq_kept) _).trans (.of_eq id rfl rfl)

theorem pushSpawnReplies_steady : Steady s s.pushSpawnReplies := by
  unfold State.pushSpawnReplies
  refine (Steady.foldl (fun s x => ?_) _)
  split
  · rename_i y u h
    exact (pushReply_steady.of h).trans (.of_eq rfl rfl rfl)
  · exact Steady.refl _

theorem endInvalidations_steady : Steady s s.endInvalidations := by
  unfold State.endInvalidations
  refine (Steady.foldl (fun s x => ?_) _)
  split
  · split
    · exact Steady.refl _
    · exact adminFinish_steady
  · exact Steady.refl _

theorem nextFc_steady : Steady s s.nextFc := by
  have hkeys : s.nextFc.ctxs.map Prod.fst = s.ctxs.map Prod.fst := avals_keys
  exact ⟨⟨id, fun h => hkeys ▸ h, forall₂_map fun _ => ⟨rfl, id, id⟩⟩, rfl⟩

theorem execDeadlineClockAdvance_kept : Leads Kept s (execDeadlineClockAdvance s) := by
  unfold execDeadlineClockAdvance
  show Kept _ _
  split
  · exact Kept.refl _
  · exact nextFc_steady.kept.trans (pushSpawnReplies_steady.kept.trans (endInvalidations_steady.kept.trans sendHeldIrqs_kept))

theorem coreSpan_steady {core lctx k : Nat} {write : Bool} {ks : List Nat} : Steady s (s.coreSpan core lctx k write ks) :=
  (Steady.foldl (fun _ _ => addSpan_steady) _)

theorem execPowerCapMet_steady {draw : Nat} : Leads Steady s (execPowerCapMet draw s) := by
  unfold execPowerCapMet
  show Steady _ _
  split
  · exact Steady.of_eq rfl rfl rfl
  · exact Steady.refl _

theorem execPageRequestInterfaceResponse_steady {tag : Word} {ok : Bool} : Leads Steady s (execPageRequestInterfaceResponse tag ok s) := by
  unfold execPageRequestInterfaceResponse
  exact pageAnswer_steady

theorem execFlitRetry_steady {id : Nat} : Leads Steady s (execFlitRetry id s) := by
  unfold execFlitRetry
  show Steady _ _
  split
  · exact Steady.refl _
  · exact Steady.refl _

theorem execCorrectableErrorAgeOut_steady {x y : Nat} : Leads Steady s (execCorrectableErrorAgeOut x y s) := by
  unfold execCorrectableErrorAgeOut
  show Steady _ _
  split
  · exact modTile_steady
  · exact Steady.refl _

end Sys2Proof.Machine

namespace Sys2Proof.Machine

/-! PROOFS. What firings, links, slot tables and the delivery of a core's store leave of memory, contexts and cores (R21, R35, R126, R156). -/

variable {s u : State}

theorem execActorFiringBegin_steady {t o : Nat} : Leads Steady s (execActorFiringBegin t o s) := by
  unfold execActorFiringBegin
  refine Leads.ite (Steady.refl _) ?_
  split
  · split
    · exact Leads.ite (Steady.refl _) cellBegin_steady
    · exact Leads.ite (Steady.refl _) vecBegin_steady
    · exact Steady.refl _
  · exact Steady.refl _

theorem execDefaultTokenForward_steady {t o : Nat} : Leads Steady s (execDefaultTokenForward t o s) := forward_steady

theorem execPoisonForward_steady {t o : Nat} : Leads Steady s (execPoisonForward t o s) := forward_steady

theorem execTrappedResultArrive_steady {t o : Nat} : Leads Steady s (execTrappedResultArrive t o s) := by
  unfold execTrappedResultArrive
  split
  · exact Steady.refl _
  · split
    · refine Leads.ite (Steady.refl _) ?_
      split
      · exact freeze_steady
      · exact cellWrite_steady.trans (modCell_steady.trans (modFiring_steady.trans busy_steady))
    · exact Steady.refl _

theorem execLinkTransfer_steady {x y : Nat} {dir : Dir} {net : Net} : Leads Steady s (execLinkTransfer x y dir net s) := by
  have hlink {z : State} {l : List ((Nat × Dir × Net) × Nat × Nat)} (h : Steady s z) : Steady s { z with links := l } :=
    h.trans (.of_eq rfl rfl rfl)
  simp only [execLinkTransfer]
  refine Leads.ite (Steady.refl _) ?_
  split
  · refine Leads.ite (Steady.refl _) ?_
    exact hlink (Steady.foldl (fun _ _ => moveLane_steady) s)
  · split
    · exact Steady.refl _
    · exact hlink moveLane_steady

theorem execSlotTableApply_steady {x y : Nat} : Leads Steady s (execSlotTableApply x y s) := by
  unfold execSlotTableApply
  show Steady _ _
  split
  · exact modTile_steady
  · exact Steady.refl _

theorem execSlotPointerAdvance_steady {x y : Nat} : Leads Steady s (execSlotPointerAdvance x y s) := by
  unfold execSlotPointerAdvance
  show Steady _ _
  split
  · exact modTile_steady
  · exact Steady.refl _

theorem execCoreStorePerformed_kept {core n : Nat} : Leads Kept s (execCoreStorePerformed core n s) := by
  simp only [execCoreStorePerformed]
  split
  · exact Kept.refl _
  · show Kept _ _
    split
    · refine writeLoc_kept.trans (Kept.trans (Steady.kept (modCore_steady fun _ => ?_)) coreSpan_steady.kept)
      exact ⟨rfl, id, id⟩
    · exact Kept.refl _

end Sys2Proof.Machine

namespace Sys2Proof.Machine

/-! PROOFS. What a word of a cell, of a vector unit or of a control core may change: one relation for each kind of unit, and the
operations that words are made of (R10, R19, R152, R198). -/

variable {s u w : State} {t o t' o' p k : Nat} {m : Bool}

/-- What a word may change besides its place in the code: memory, the register, vector register or predicate that it writes,
control registers, TSEQ, what `collect` keeps, the stochastic state and the sticky flags. -/
structure Mods where
  mem : Bool := false
  reg : Option SReg := none
  csr : Bool := false
  tseq : Bool := false
  window : Bool := false
  v : Option VNum := none
  p : Option PNum := none
  draws : Bool := false
  flags : Bool := false

variable {F : Mods}

/-! ## Cells and vector units -/

/-- A cell keeps its registers, TSEQ and what `collect` keeps, but for what `F` names. -/
structure Cell.Keeps (F : Mods) (c c' : Cell) : Prop where
  reg : ∀ n, F.reg ≠ some n → c'.reg n = c.reg n
  tseq : F.tseq = false → c'.tseq = c.tseq
  next : F.window = false → c'.next = c.next
  window : F.window = false → c'.window = c.window

/-- A vector actor keeps its registers, predicates, stochastic state and flags, but for what `F` names. -/
structure Vec.Keeps (F : Mods) (c c' : Vec) : Prop where
  v : ∀ n, F.v ≠ some n → c'.v n = c.v n
  p : ∀ n, F.p ≠ some n → c'.p n = c.p n
  x : F.draws = false → c'.x = c.x
  flags : F.flags = false → c'.flags = c.flags

theorem Cell.Keeps.refl (c : Cell) : c.Keeps F c := ⟨fun _ _ => rfl, fun _ => rfl, fun _ => rfl, fun _ => rfl⟩

theorem Cell.Keeps.trans {a b c : Cell} (h : a.Keeps F b) (h' : b.Keeps F c) : a.Keeps F c :=
  ⟨fun n hn => (h'.reg n hn).trans (h.reg n hn), fun e => (h'.tseq e).trans (h.tseq e), fun e => (h'.next e).trans (h.next e),
    fun e => (h'.window e).trans (h.window e)⟩

theorem Vec.Keeps.refl (c : Vec) : c.Keeps F c := ⟨fun _ _ => rfl, fun _ _ => rfl, fun _ => rfl, fun _ => rfl⟩

theorem Vec.Keeps.trans {a b c : Vec} (h : a.Keeps F b) (h' : b.Keeps F c) : a.Keeps F c :=
  ⟨fun n hn => (h'.v n hn).trans (h.v n hn), fun n hn => (h'.p n hn).trans (h.p n hn), fun e => (h'.x e).trans (h.x e),
    fun e => (h'.flags e).trans (h.flags e)⟩

/-- A cell whose registers, TSEQ and window stand as they were. -/
theorem Cell.Keeps.of_eq {c c' : Cell} (hr : c'.regs = c.regs) (ht : c'.tseq = c.tseq) (hn : c'.next = c.next)
    (hw : c'.window = c.window) : c.Keeps F c' :=
  ⟨fun n _ => by rw [Cell.reg, Cell.reg, hr], fun _ => ht, fun _ => hn, fun _ => hw⟩

/-- A vector actor whose registers, predicates, stochastic state and flags stand as they were. -/
theorem Vec.Keeps.of_eq {c c' : Vec} (hv : c'.vregs = c.vregs) (hp : c'.pregs = c.pregs) (hx : c'.x = c.x) (hf : c'.flags = c.flags) :
    c.Keeps F c' :=
  ⟨fun n _ => by rw [Vec.v, Vec.v, hv], fun n _ => by rw [Vec.p, Vec.p, hp], fun _ => hx, fun _ => hf⟩

theorem Cell.keeps_setReg {c : Cell} {n : SReg} {x : Word} (h : F.reg = some n) : c.Keeps F (c.setReg n x) := by
  refine ⟨fun j hj => ?_, fun _ => ?_, fun _ => ?_, fun _ => ?_⟩
  · have hjn : n ≠ j := fun e => hj (e ▸ h)
    unfold Cell.setReg
    split
    · rfl
    · simp only [Cell.reg, List.getD_eq_getElem?_getD, List.getElem?_set_ne fun e => hjn (Fin.ext e)]
  all_goals
    unfold Cell.setReg
    split <;> rfl

/-! ## The relations between states -/

/-- A core keeps its registers, general and control. -/
structure Core.Same (c c' : Core) : Prop where
  regs : c'.regs = c.regs
  status : c'.status = c.status
  epc : c'.epc = c.epc
  cause : c'.cause = c.cause
  eval : c'.eval = c.eval
  tvec : c'.tvec = c.tvec
  ctxk : c'.ctxk = c.ctxk
  scratch : c'.scratch = c.scratch
  cycle : c'.cycle = c.cycle

theorem Core.Same.refl (c : Core) : c.Same c := ⟨rfl, rfl, rfl, rfl, rfl, rfl, rfl, rfl, rfl⟩

theorem Core.Same.trans {a b c : Core} (h : a.Same b) (h' : b.Same c) : a.Same c :=
  ⟨h'.regs.trans h.regs, h'.status.trans h.status, h'.epc.trans h.epc, h'.cause.trans h.cause, h'.eval.trans h.eval,
    h'.tvec.trans h.tvec, h'.ctxk.trans h.ctxk, h'.scratch.trans h.scratch, h'.cycle.trans h.cycle⟩

/-- Nothing of a cell, a vector unit or a control core changes that a word may name, and no memory unless `m` says so. -/
structure Calm (m : Bool) (s u : State) : Prop where
  kept : Kept s u
  mem : m = false → u.mem = s.mem
  cores : List.Forall₂ Core.Same s.cores u.cores
  clock : u.clock = s.clock
  cell : ∀ t o, u.cell t o = s.cell t o
  vec : ∀ t o, u.vec t o = s.vec t o

theorem Calm.refl (s : State) : Calm m s s := ⟨.refl s, fun _ => rfl, List.forall₂_same.mpr fun c _ => .refl c, rfl, fun _ _ => rfl, fun _ _ => rfl⟩

theorem Calm.trans (h : Calm m s u) (h' : Calm m u w) : Calm m s w :=
  ⟨h.kept.trans h'.kept, fun e => (h'.mem e).trans (h.mem e),
    forall₂_trans (R := Core.Same) (fun _ _ _ => Core.Same.trans) h.cores h'.cores, h'.clock.trans h.clock,
    fun t o => (h'.cell t o).trans (h.cell t o), fun t o => (h'.vec t o).trans (h.vec t o)⟩

theorem Calm.foldl {α : Type} {f : State → α → State} {l : List α} (h : ∀ s a, Calm m s (f s a)) (s : State) : Calm m s (l.foldl f s) :=
  foldl_rel Calm.refl (fun _ _ _ => Calm.trans) h l s

theorem Calm.of_steady (h : Steady s u) (hc : u.cores = s.cores) (hk : u.clock = s.clock) (hcell : ∀ t o, u.cell t o = s.cell t o)
    (hvec : ∀ t o, u.vec t o = s.vec t o) : Calm m s u :=
  ⟨h.kept, fun _ => h.mem, hc ▸ List.forall₂_same.mpr fun c _ => .refl c, hk, hcell, hvec⟩

/-- A step that leaves the tasks leaves their actors. -/
theorem Calm.of_eq (hm : u.mem = s.mem) (hx : u.ctxs = s.ctxs) (hc : u.cores = s.cores) (hk : u.clock = s.clock) (ht : u.tasks = s.tasks) :
    Calm m s u :=
  have hop (t o : Nat) : u.op t o = s.op t o := by rw [State.op, State.op, State.task, State.task, ht]
  .of_steady (.of_eq hm hx hc) hc hk (fun t o => cell_congr (hop t o)) fun t o => vec_congr (hop t o)

/-- What a word on the actor `o` of task `t` may do: nothing of another actor or of a control core changes. -/
structure Does (t o : Nat) (F : Mods) (s u : State) : Prop where
  kept : Kept s u
  mem : F.mem = false → u.mem = s.mem
  cores : u.cores = s.cores
  cells : ∀ t' o', (t', o') ≠ (t, o) → u.cell t' o' = s.cell t' o'
  vecs : ∀ t' o', (t', o') ≠ (t, o) → u.vec t' o' = s.vec t' o'
  cell : Option.Rel (Cell.Keeps F) (s.cell t o) (u.cell t o)
  vec : Option.Rel (Vec.Keeps F) (s.vec t o) (u.vec t o)

theorem optionRel_refl {α : Type} {R : α → α → Prop} (h : ∀ a, R a a) : ∀ x : Option α, Option.Rel R x x
  | none => .none
  | some a => .some (h a)

theorem optionRel_trans {α : Type} {R : α → α → Prop} (ht : ∀ a b c, R a b → R b c → R a c) {x y z : Option α} (h : Option.Rel R x y)
    (h' : Option.Rel R y z) : Option.Rel R x z := by
  cases h with
  | none => exact h'
  | some hab =>
    cases h' with
    | some hbc => exact .some (ht _ _ _ hab hbc)

theorem optionRel_map {α : Type} {R : α → α → Prop} {g : α → α} (h : ∀ a, R a (g a)) : ∀ x : Option α, Option.Rel R x (x.map g)
  | none => .none
  | some a => .some (h a)

theorem Does.trans (h : Does t o F s u) (h' : Does t o F u w) : Does t o F s w :=
  ⟨h.kept.trans h'.kept, fun e => (h'.mem e).trans (h.mem e), h'.cores.trans h.cores,
    fun a b hne => (h'.cells a b hne).trans (h.cells a b hne), fun a b hne => (h'.vecs a b hne).trans (h.vecs a b hne),
    optionRel_trans (R := Cell.Keeps F) (fun _ _ _ => Cell.Keeps.trans) h.cell h'.cell, optionRel_trans (R := Vec.Keeps F) (fun _ _ _ => Vec.Keeps.trans) h.vec h'.vec⟩

theorem Does.of_calm (h : Calm F.mem s u) (hc : u.cores = s.cores) : Does t o F s u :=
  ⟨h.kept, h.mem, hc, fun t o _ => h.cell t o, fun t o _ => h.vec t o, h.cell t o ▸ optionRel_refl Cell.Keeps.refl _,
    h.vec t o ▸ optionRel_refl Vec.Keeps.refl _⟩

theorem Does.refl (s : State) : Does t o F s s := .of_calm (.refl s) rfl

theorem Does.of_steady (h : Steady s u) (hc : u.cores = s.cores) (hcell : ∀ t o, u.cell t o = s.cell t o)
    (hvec : ∀ t o, u.vec t o = s.vec t o) : Does t o F s u :=
  ⟨h.kept, fun _ => h.mem, hc, fun t o _ => hcell t o, fun t o _ => hvec t o, hcell t o ▸ optionRel_refl Cell.Keeps.refl _,
    hvec t o ▸ optionRel_refl Vec.Keeps.refl _⟩

theorem Does.of_eq (hm : u.mem = s.mem) (hx : u.ctxs = s.ctxs) (hc : u.cores = s.cores) (ht : u.tasks = s.tasks) : Does t o F s u :=
  have hop (t o : Nat) : u.op t o = s.op t o := by rw [State.op, State.op, State.task, State.task, ht]
  .of_steady (.of_eq hm hx hc) hc (fun t o => cell_congr (hop t o)) fun t o => vec_congr (hop t o)

theorem Does.ite {c : Prop} [Decidable c] (h : Does t o F s u) (h' : Does t o F s w) : Does t o F s (if c then u else w) := by
  split
  · exact h
  · exact h'

theorem Does.foldl {α : Type} {f : State → α → State} {l : List α} (h : ∀ s a, Does t o F s (f s a)) (s : State) :
    Does t o F s (l.foldl f s) :=
  foldl_rel Does.refl (fun _ _ _ => Does.trans) h l s

/-! ## The operations of an actor -/

theorem modCell_does {g : Cell → Cell} (h : ∀ c, Cell.Keeps F c (g c)) : Does t o F s (s.modCell t o g) where
  kept := modCell_steady.kept
  mem _ := rfl
  cores := rfl
  cells _ _ hne := modCell_cell_other hne
  vecs _ _ _ := modCell_vec
  cell := modCell_cell_self ▸ optionRel_map h _
  vec := modCell_vec (s := s) ▸ optionRel_refl Vec.Keeps.refl _

theorem modVec_does {g : Vec → Vec} (h : ∀ c, Vec.Keeps F c (g c)) : Does t o F s (s.modVec t o g) where
  kept := modVec_steady.kept
  mem _ := rfl
  cores := rfl
  cells _ _ _ := modVec_cell
  vecs _ _ hne := modVec_vec_other hne
  cell := modVec_cell (s := s) ▸ optionRel_refl Cell.Keeps.refl _
  vec := modVec_vec_self ▸ optionRel_map h _

theorem modFiring_does {g : Firing → Firing} : Does t o F s (s.modFiring t o g) := modCell_does fun _ => .of_eq rfl rfl rfl rfl

theorem modVFiring_does {g : Firing → Firing} : Does t o F s (s.modVFiring t o g) := modVec_does fun _ => .of_eq rfl rfl rfl rfl

theorem popTok_does : Does t o F s (s.popTok t' o' p) :=
  .of_steady popTok_steady popTok_quiet.cores (fun _ _ => popTok_cell) fun _ _ => popTok_vec

theorem pushTok_does {tok : Token} : Does t o F s (s.pushTok t' o' p tok) :=
  .of_steady pushTok_steady pushTok_quiet.cores (fun _ _ => pushTok_cell) fun _ _ => pushTok_vec

theorem pushAll_does {tok : Token} {l : List Nat} : Does t o F s (s.pushAll t' o' tok l) := by
  induction l generalizing s with
  | nil => exact .refl s
  | cons a l ih => exact pushTok_does.trans ih

theorem busy_does {c : Nat} : Does t o F s (s.busy c) := .of_steady busy_steady rfl (fun _ _ => rfl) fun _ _ => rfl

theorem issued_does : Does t o F s s.issued := .of_eq rfl rfl rfl rfl

theorem modCtx_does {c : Nat} {g : Ctx → Ctx} : Does t o F s (s.modCtx c g) :=
  .of_steady modCtx_steady rfl (fun _ _ => rfl) fun _ _ => rfl

theorem freeze_does {code : BitVec 7} {x : Word} : Does t o F s (s.freeze t' o' code x) :=
  .of_steady freeze_steady rfl (fun _ _ => freeze_cell) fun _ _ => freeze_vec

theorem malformed_does {tok : Token} : Does t o F s (s.malformed t' o' p tok) := freeze_does

theorem sinkPoison_does {x : Word} : Does t o F s (s.sinkPoison t' o' x) :=
  .of_steady sinkPoison_steady rfl (fun _ _ => sinkPoison_cell) fun _ _ => sinkPoison_vec

theorem cellPop_does : Does t o F s (s.cellPop t o p) := by
  unfold State.cellPop
  split
  · exact popTok_does
  · split
    · exact .refl s
    · refine Does.ite ?_ (popTok_does.trans modFiring_does)
      exact (popTok_does.trans modFiring_does).trans (modCell_does fun _ => .of_eq rfl rfl rfl rfl)

theorem cellPops_does {l : List Nat} : Does t o F s (s.cellPops t o l) := by
  induction l generalizing s with
  | nil => exact .refl s
  | cons a l ih => exact cellPop_does.trans ih

theorem countMicro_does : Does t o F s (s.countMicro t' o') := by
  unfold State.countMicro
  split
  · split
    · exact .ite modCtx_does (.refl s)
    · exact .refl s
  · exact .refl s

theorem cellAdvance_does {words iv : Nat} : Does t o F s (s.cellAdvance t o words iv) :=
  countMicro_does.trans (modFiring_does.trans (busy_does.trans issued_does))

theorem vecAdvance_does {iv : Nat} : Does t o F s (s.vecAdvance t o iv) := modVFiring_does.trans (busy_does.trans issued_does)

/-- The end of a firing leaves what its actor holds. -/
theorem endFiring_does {wrap retire : Bool} : Does t o F s (s.endFiring t o wrap retire) where
  kept := endFiring_steady.kept
  mem _ := endFiring_steady.mem
  cores := endFiring_quiet.cores
  cells _ _ hne := endFiring_cell_vec.1.trans (cell_congr (modOp_op_other hne))
  vecs _ _ hne := endFiring_cell_vec.2.trans (vec_congr (modOp_op_other hne))
  cell := by
    rw [endFiring_cell_vec.1, cell_eq_op, cell_eq_op, modOp_op_self]
    rcases s.op t o with _ | ⟨pl, fa, ff, re, po, hd, fi, k⟩
    · exact .none
    · cases k with
      | cell c => exact .some (.of_eq rfl rfl rfl rfl)
      | _ => exact .none
  vec := by
    rw [endFiring_cell_vec.2, vec_eq_op, vec_eq_op, modOp_op_self]
    rcases s.op t o with _ | ⟨pl, fa, ff, re, po, hd, fi, k⟩
    · exact .none
    · cases k with
      | vec c => exact .some (.of_eq rfl rfl rfl rfl)
      | _ => exact .none

/-- A firing ends, and its unit has issued. -/
theorem endIssued_does {wrap retire : Bool} {c : Nat} : Does t o F s (((s.endFiring t o wrap retire).busy c).issued) :=
  endFiring_does.trans (busy_does.trans issued_does)

theorem poisonOut_does {pops : List Nat} {tok : Token} : Does t o F s (s.poisonOut t o pops tok) := by
  unfold State.poisonOut
  refine Does.ite ?_ (.refl s)
  exact cellPops_does.trans ((Does.ite pushAll_does sinkPoison_does).trans endIssued_does)

theorem operandFreeze_does {srcs : List Src} {vals : List Opnd} (h : s.operandFreeze t o srcs vals = some u) : Does t o F s u := by
  unfold State.operandFreeze at h
  split at h
  · cases h; exact malformed_does
  · split at h
    · cases h; exact malformed_does
    · obtain ⟨x, -, rfl⟩ := Option.map_eq_some_iff.mp h
      exact freeze_does

theorem popFreeze_does {pops : List Nat} (h : s.popFreeze t o pops = some u) : Does t o F s u := by
  unfold State.popFreeze at h
  split at h
  · cases h; exact malformed_does
  · obtain ⟨x, -, rfl⟩ := Option.map_eq_some_iff.mp h
    exact freeze_does

/-- The register of a destination, where it is one. -/
theorem cellWrite_does {f : Firing} {d : Dst} {x : Word} (h : F.reg = dstReg d) : Does t o F s (s.cellWrite t o f d x) := by
  cases d with
  | s n => exact modCell_does fun _ => Cell.keeps_setReg h
  | o q => exact pushTok_does

theorem cellSend_does {q : OPort} {pops : List Nat} {words : Nat} {tok : Token} : Does t o F s (s.cellSend t o q pops words tok) := by
  unfold State.cellSend
  refine Does.ite ?_ (.refl s)
  split
  · exact freeze_does
  · exact cellPops_does.trans (pushTok_does.trans cellAdvance_does)

/-! ## The frames that words share -/

theorem withOperands_does {srcs : List Src} {out : Option Nat} {go : Cell → Firing → List Word → State}
    (h : ∀ c f l, Does t o F s (go c f l)) : Does t o F s (s.withOperands t o srcs out go) := by
  unfold State.withOperands
  split
  · exact .refl s
  split
  · exact .refl s
  split
  · exact .refl s
  refine Does.ite (.refl s) ?_
  split
  · next hf => exact operandFreeze_does hf
  · split
    · exact poisonOut_does
    · exact h _ _ _

theorem cellScalar_does {d : Dst} {srcs : List Src} {iv : Nat} {g : List Word → Except (BitVec 7) Word} (h : F.reg = dstReg d) :
    Does t o F s (s.cellScalar t o d srcs iv g) := by
  unfold State.cellScalar
  split
  · exact .refl s
  split
  · exact .refl s
  split
  · exact .refl s
  refine Does.ite (.refl s) ?_
  split
  · next hf => exact operandFreeze_does hf
  split
  · exact poisonOut_does
  split
  · exact poisonOut_does
  split
  · exact freeze_does
  · exact cellPops_does.trans ((cellWrite_does h).trans cellAdvance_does)

end Sys2Proof.Machine

namespace Sys2Proof.Machine

/-! PROOFS. What a word of a control core may change, and what a word does on whatever unit executes it (R111, R151 to R158). -/

variable {s u w : State} {t o p k j n words : Nat} {m : Bool} {F : Mods}

/-! ## Cores -/

/-- The control registers of a core (R152). -/
structure Core.SameCsr (c c' : Core) : Prop where
  status : c'.status = c.status
  epc : c'.epc = c.epc
  cause : c'.cause = c.cause
  eval : c'.eval = c.eval
  tvec : c'.tvec = c.tvec
  ctxk : c'.ctxk = c.ctxk
  scratch : c'.scratch = c.scratch
  cycle : c'.cycle = c.cycle

theorem Core.Same.csr {c c' : Core} (h : c.Same c') : c.SameCsr c' :=
  ⟨h.status, h.epc, h.cause, h.eval, h.tvec, h.ctxk, h.scratch, h.cycle⟩

/-- A core after a word: only the register that `F` names is written; and the control registers stand, or `F` lets the word
write them, or a trap is taken. -/
structure Core.Moves (F : Mods) (c c' : Core) : Prop where
  reg : ∀ n, F.reg ≠ some n → c'.reg n = c.reg n
  regs : F.reg = none → c'.regs = c.regs
  length : c'.regs.length = c.regs.length
  status : c.status &&& ~~~(7 : Dbl) = 0 → c'.status &&& ~~~(7 : Dbl) = 0
  tvec : c.tvec &&& ~~~(0x3FFFC : Dbl) = 0 → c'.tvec &&& ~~~(0x3FFFC : Dbl) = 0
  csr : F.csr = false → c.SameCsr c' ∨ ∃ epc cause eval, c' = { c.trap epc cause eval with fsr := none }

theorem Core.Same.moves {c c' : Core} (h : c.Same c') : c.Moves F c' where
  reg n _ := by rw [Core.reg, Core.reg, h.regs]
  regs _ := h.regs
  length := by rw [h.regs]
  status := by rw [h.status]; exact id
  tvec := by rw [h.tvec]; exact id
  csr _ := .inl h.csr

theorem Core.moves_trap {c : Core} {epc cause eval : Dbl} : c.Moves F { c.trap epc cause eval with fsr := none } where
  reg _ _ := rfl
  regs _ := rfl
  length := rfl
  status := trapStatus_reserved
  tvec := id
  csr _ := .inr ⟨epc, cause, eval, rfl⟩

theorem Core.moves_setReg {c : Core} {d : SReg} {v pc : Dbl} (h : F.reg = some d) : c.Moves F { c.setReg d v with pc := pc } := by
  by_cases hd : d = 0
  · rw [Core.setReg, if_pos hd]
    exact (⟨rfl, rfl, rfl, rfl, rfl, rfl, rfl, rfl, rfl⟩ : c.Same { c with pc := pc }).moves
  · rw [Core.setReg, if_neg hd]
    refine ⟨fun j hj => ?_, fun e => (nomatch h.symm.trans e), List.length_set, id, id, fun _ => .inl ⟨rfl, rfl, rfl, rfl, rfl, rfl, rfl, rfl⟩⟩
    have hdj : d ≠ j := fun e => hj (e ▸ h)
    simp only [Core.reg, List.getD_eq_getElem?_getD, List.getElem?_set_ne fun e => hdj (Fin.ext e)]

/-- From a core that keeps its registers to one that keeps all control registers. -/
theorem Core.Same.trans_moves {a b c : Core} (h : a.Same b) (hm : b.Moves F c) (hc : b.SameCsr c) : a.Moves F c where
  reg n hn := (hm.reg n hn).trans (by rw [Core.reg, Core.reg, h.regs])
  regs e := (hm.regs e).trans h.regs
  length := hm.length.trans (by rw [h.regs])
  status e := hm.status (h.status ▸ e)
  tvec e := hm.tvec (h.tvec ▸ e)
  csr _ := .inl ⟨hc.status.trans h.status, hc.epc.trans h.epc, hc.cause.trans h.cause, hc.eval.trans h.eval, hc.tvec.trans h.tvec,
    hc.ctxk.trans h.ctxk, hc.scratch.trans h.scratch, hc.cycle.trans h.cycle⟩

theorem forall₂_getD {α : Type} {R : α → α → Prop} {l l' : List α} {d : α} (h : List.Forall₂ R l l') (hd : R d d) (n : Nat) :
    R (l.getD n d) (l'.getD n d) := by
  induction h generalizing n with
  | nil => exact hd
  | cons hab _ ih =>
    cases n with
    | zero => exact hab
    | succ n => exact ih n

theorem Calm.core (h : Calm m s u) (j : Nat) : (s.core j).Same (u.core j) := forall₂_getD h.cores (.refl _) j

/-- What a word on core `k` may do: no register of another core, and nothing of a cell or a vector unit, changes. -/
structure CoreDoes (k : Nat) (F : Mods) (s u : State) : Prop where
  memOk : s.memOk → u.memOk
  ctxs : (s.ctxs.map Prod.fst).Nodup → (u.ctxs.map Prod.fst).Nodup
  mem : F.mem = false → u.mem = s.mem
  length : u.cores.length = s.cores.length
  others : ∀ j, j ≠ k → (s.core j).Same (u.core j)
  core : (s.core k).Moves F (u.core k)
  clock : u.clock = s.clock
  cell : ∀ t o, u.cell t o = s.cell t o
  vec : ∀ t o, u.vec t o = s.vec t o

theorem CoreDoes.of_calm (h : Calm F.mem s u) : CoreDoes k F s u :=
  ⟨h.kept.mem, h.kept.ctxs, h.mem, h.cores.length_eq.symm, fun j _ => h.core j, (h.core k).moves, h.clock, h.cell, h.vec⟩

theorem CoreDoes.refl (s : State) : CoreDoes k F s s := .of_calm (.refl s)

theorem CoreDoes.ite {c : Prop} [Decidable c] (h : CoreDoes k F s u) (h' : CoreDoes k F s w) : CoreDoes k F s (if c then u else w) := by
  split
  · exact h
  · exact h'

theorem lmod_of_ge {α : Type} {n : Nat} {g : α → α} {l : List α} (h : l.length ≤ n) : lmod n g l = l := by
  induction l generalizing n with
  | nil => cases n <;> rfl
  | cons a l ih =>
    cases n with
    | zero => exact absurd h (Nat.not_succ_le_zero _)
    | succ n => exact congrArg (a :: ·) (ih (Nat.le_of_succ_le_succ h))

/-- Core `k` is changed, after steps that change no register. -/
theorem Calm.modCore_does {g : Core → Core} (h : Calm F.mem s u) (hg : (s.core k).Moves F (g (u.core k))) : CoreDoes k F s (u.modCore k g).issued where
  memOk := h.kept.mem
  ctxs := h.kept.ctxs
  mem := h.mem
  length := length_lmod.trans h.cores.length_eq.symm
  others j hj := (h.core j).trans (modCore_core_other (s := u) hj ▸ .refl _)
  core := by
    by_cases hk : k < u.cores.length
    · exact (modCore_core_self (g := g) hk).symm ▸ hg
    · have hs : (u.modCore k g).core k = u.core k := by rw [State.core, State.core, State.modCore, lmod_of_ge (Nat.le_of_not_lt hk)]
      exact hs.symm ▸ (h.core k).moves
  clock := h.clock
  cell := h.cell
  vec := h.vec

theorem Calm.coreWrite_does {d : SReg} {v : Dbl} (h : Calm F.mem s u) (hd : F.reg = some d) : CoreDoes k F s (u.coreWrite k d v words) :=
  h.modCore_does ((h.core k).trans_moves (Core.moves_setReg hd) (by
    unfold Core.setReg
    split
    · exact ⟨rfl, rfl, rfl, rfl, rfl, rfl, rfl, rfl⟩
    · exact ⟨rfl, rfl, rfl, rfl, rfl, rfl, rfl, rfl⟩))

/-- A trap, after steps that leave the cores as they are. -/
theorem Calm.coreTrapAt_does {epc cause eval : Dbl} (h : Calm F.mem s u) (hc : u.cores = s.cores) :
    CoreDoes k F s (u.coreTrapAt k epc cause eval).issued := by
  have hcore : u.core k = s.core k := by rw [State.core, State.core, hc]
  have hm := h.modCore_does (k := k) (g := fun c => { c.trap epc cause eval with fsr := none }) (hcore.symm ▸ Core.moves_trap)
  exact ⟨hm.memOk, hm.ctxs, hm.mem, hm.length, hm.others, hm.core, hm.clock, hm.cell, hm.vec⟩

theorem coreTrap_does {code : BitVec 7} {eval : Dbl} : CoreDoes k F s ((s.coreTrap k code eval).issued) := (Calm.refl s).coreTrapAt_does rfl

theorem privTrap_does : CoreDoes k F s (s.privTrap k) := coreTrap_does

/-! ## The operations of a core that change no register -/

theorem modCore_calm {g : Core → Core} (h : ∀ c, Core.Same c (g c)) : Calm m s (s.modCore k g) where
  kept := (modCore_steady fun c => ⟨(h c).regs, by rw [(h c).status]; exact id, by rw [(h c).tvec]; exact id⟩).kept
  mem _ := rfl
  cores := forall₂_lmod Core.Same.refl h
  clock := rfl
  cell _ _ := rfl
  vec _ _ := rfl

theorem issued_calm : Calm m s s.issued := .of_eq rfl rfl rfl rfl rfl

theorem coreNext_calm : Calm m s (s.coreNext k words) := by
  have hpc : Calm m s (s.modCore k fun c => { c with pc := c.after words }) :=
    modCore_calm fun _ => ⟨rfl, rfl, rfl, rfl, rfl, rfl, rfl, rfl, rfl⟩
  exact hpc.trans issued_calm

theorem touch_calm {l : Loc} : Calm m s (s.touch l) := by
  unfold State.touch
  split
  · exact .of_eq rfl rfl rfl rfl rfl
  · exact .refl s

theorem touchKey_calm {y : Nat} : Calm m s (s.touchKey y) := by
  unfold State.touchKey
  split
  · exact touch_calm
  · exact .refl s

theorem bumpId_calm : Calm m s s.bumpId := .of_eq rfl rfl rfl rfl rfl

theorem addSpan_calm {x : SpanOut} : Calm m s (s.addSpan x) := .of_eq rfl rfl rfl rfl rfl

theorem coreSpan_calm {lctx y : Nat} {write : Bool} {ks : List Nat} : Calm m s (s.coreSpan k lctx y write ks) :=
  Calm.foldl (fun _ _ => addSpan_calm) s

theorem addMiss_calm {die lctx va kind : Nat} {y : XUser} : Calm m s (s.addMiss die y lctx va kind) := by
  unfold State.addMiss
  split
  · exact .refl s
  · dsimp only
    split
    · exact .of_eq rfl rfl rfl rfl rfl
    · exact .of_eq rfl rfl rfl rfl rfl

theorem dropMiss_cores {die lctx va : Nat} {y : XUser} : (s.dropMiss die y lctx va).cores = s.cores := by
  unfold State.dropMiss
  split <;> rfl

theorem dropMiss_calm {die lctx va : Nat} {y : XUser} : Calm m s (s.dropMiss die y lctx va) := by
  unfold State.dropMiss
  split
  · exact .refl s
  · exact .of_eq rfl rfl rfl rfl rfl

theorem writeLoc_calm {l : Loc} {x : Nat} : Calm true s (s.writeLoc l n x) :=
  ⟨writeLoc_kept, nofun, List.forall₂_same.mpr fun c _ => .refl c, rfl, fun _ _ => rfl, fun _ _ => rfl⟩

theorem mgmtWrite_calm {off : Nat} {v : Dbl} : Calm m s (s.mgmtWrite off v) := by
  have hg {k : Nat} {g : Core → Core} (h : ∀ c, Core.Same c (g c)) : Calm m s (s.modCore k g) := modCore_calm h
  unfold State.mgmtWrite
  split
  · dsimp only
    split
    · exact hg fun _ => ⟨rfl, rfl, rfl, rfl, rfl, rfl, rfl, rfl, rfl⟩
    · split
      · exact hg fun _ => ⟨rfl, rfl, rfl, rfl, rfl, rfl, rfl, rfl, rfl⟩
      · split
        · exact hg fun _ => ⟨rfl, rfl, rfl, rfl, rfl, rfl, rfl, rfl, rfl⟩
        · exact .refl s
  · exact .refl s

theorem touchVa_calm {lctx va : Nat} : Calm m s (s.touchVa lctx va n) := by
  unfold State.touchVa
  split
  · exact touch_calm
  · exact .refl s

theorem accessTrap_does {code : BitVec 7} {e : Dbl} (h : Calm F.mem s u) (hc : u.cores = s.cores) : CoreDoes k F s (u.accessTrap k code e) :=
  (h.trans dropMiss_calm).coreTrapAt_does (dropMiss_cores.trans hc)

/-! ## What a word does -/

/-- What a word does on the unit that executes it. -/
def Acts (F : Mods) (s u : State) : Prop :=
  match s.cur with
  | .cell t o => Does t o F s u
  | .vec t o => Does t o F s u
  | .core k => CoreDoes k F s u
  | .none => u = s

theorem Acts.refl (s : State) : Acts F s s := by
  unfold Acts
  split
  · exact .refl s
  · exact .refl s
  · exact .refl s
  · rfl

theorem Acts.of_cell (h : s.cur = .cell t o) (hd : Does t o F s u) : Acts F s u := by
  unfold Acts
  rw [h]
  exact hd

theorem Acts.of_vec (h : s.cur = .vec t o) (hd : Does t o F s u) : Acts F s u := by
  unfold Acts
  rw [h]
  exact hd

theorem Acts.of_core (h : s.cur = .core k) (hd : CoreDoes k F s u) : Acts F s u := by
  unfold Acts
  rw [h]
  exact hd

theorem Acts.cell (h : Acts F s u) (hs : s.cur = .cell t o) : Does t o F s u := by
  unfold Acts at h
  rw [hs] at h
  exact h

theorem Acts.vec (h : Acts F s u) (hs : s.cur = .vec t o) : Does t o F s u := by
  unfold Acts at h
  rw [hs] at h
  exact h

theorem Acts.core (h : Acts F s u) (hs : s.cur = .core k) : CoreDoes k F s u := by
  unfold Acts at h
  rw [hs] at h
  exact h

/-- A word that only a core executes. -/
theorem onCore_acts {g : Nat → State} (h : ∀ k, CoreDoes k F s (g k)) : Acts F s (s.onCore g) := by
  unfold State.onCore
  split
  · next hc => exact .of_core hc (h _)
  · exact .refl s

theorem cur_of_curFiring {c : Cell} {f : Firing} (h : s.curFiring = some (t, o, c, f)) : s.cur = .cell t o := by
  unfold State.curFiring at h
  split at h
  · next hc =>
    obtain ⟨c', -, hf⟩ := Option.bind_eq_some_iff.mp h
    obtain ⟨f', -, he⟩ := Option.map_eq_some_iff.mp hf
    cases he
    exact hc
  · cases h

theorem cur_of_curVec {c : Vec} {f : Firing} (h : s.curVec = some (t, o, c, f)) : s.cur = .vec t o := by
  unfold State.curVec at h
  split at h
  · next hc =>
    obtain ⟨c', -, hf⟩ := Option.bind_eq_some_iff.mp h
    obtain ⟨f', -, he⟩ := Option.map_eq_some_iff.mp hf
    cases he
    exact hc
  · cases h

theorem coreScalar_does {d : Dst} {srcs : List Src} {wd : Width} {g : Nat → List Nat → Except (BitVec 7) Nat} (h : F.reg = dstReg d) :
    CoreDoes k F s (s.coreScalar k d srcs wd g) := by
  unfold State.coreScalar
  split
  · exact .refl s
  · dsimp only
    refine CoreDoes.ite (.refl s) ?_
    split
    · exact coreTrap_does
    · exact (Calm.refl s).coreWrite_does h

/-- A scalar word writes at most its destination. -/
theorem scalar_acts {d : Dst} {srcs : List Src} {wd : Width} {iv : Nat} {g : Nat → List Nat → Except (BitVec 7) Nat}
    (h : F.reg = dstReg d) : Acts F s (State.scalar d srcs wd iv g s) := by
  unfold State.scalar
  split
  · next hc => exact .of_cell hc (cellScalar_does h)
  · next hc => exact .of_core hc (coreScalar_does h)
  · exact .refl s

end Sys2Proof.Machine

namespace Sys2Proof.Machine

/-! PROOFS. What the words of a cell change: their destination, and the state of the actor that executes them (R125 to R145, R147 to
R149, R167, R168, R268, R269). -/

variable {s u : State} {t o t' o' p k n : Nat} {F : Mods}

/-! ## Scalar words that count in LEGACY_USE (R167, R168) -/

theorem microWord_acts {d : Dst} {a : Src} {g : Nat → Except (BitVec 7) Nat} (h : F.reg = dstReg d) :
    Acts F s (State.microWord d a g s) := by
  have hs : Acts F s (State.scalar d [a] (.w false) 1 (una fun _ a => g a) s) := scalar_acts h
  unfold State.microWord
  split
  · next hc => exact .of_cell hc (Does.ite (hs.cell hc) ((hs.cell hc).trans modCtx_does))
  · exact hs

theorem trappedWord_acts {d : Dst} {srcs : List Src} {g : List Nat → Nat} : Acts F s (State.trappedWord d srcs g s) := by
  unfold State.trappedWord
  split
  · next hc =>
    refine .of_cell hc ?_
    split
    · exact .refl s
    · split
      · split
        · exact .refl s
        · split
          · next hf => exact operandFreeze_does hf
          · split
            · exact poisonOut_does
            · dsimp only
              refine cellPops_does.trans (Does.trans (modCell_does fun _ => ?_) (modCtx_does.trans (busy_does.trans issued_does)))
              exact .of_eq rfl rfl rfl rfl
      · exact .refl s
  · exact .refl s

/-! ## Branches, `rep` and `end` (R129 to R132) -/

theorem cellBranch_does {words : Nat} {taken : Bool} {disp : Half} : Does t o F s (s.cellBranch t o words taken disp) := by
  unfold State.cellBranch
  exact Does.ite (cellAdvance_does.trans modFiring_does) cellAdvance_does

theorem coreBranch_calm {m : Bool} {words : Nat} {taken : Bool} {disp : Half} : Calm m s (s.coreBranch k words taken disp) := by
  have hpc {g : Core → Dbl} : Calm m s (s.modCore k fun c => { c with pc := g c }) :=
    modCore_calm fun _ => ⟨rfl, rfl, rfl, rfl, rfl, rfl, rfl, rfl, rfl⟩
  exact hpc.trans issued_calm

theorem execBr_acts {disp : Half} : Leads (Acts F) s (execBr disp s) := by
  unfold execBr
  split
  · next hc => exact .of_cell hc (withOperands_does fun _ _ _ => cellBranch_does)
  · next hc => exact .of_core hc (CoreDoes.ite (.refl s) (.of_calm coreBranch_calm))
  · exact .refl s

theorem condBranch_acts {a : Src} {want : Bool} {disp : Half} : Acts F s (s.condBranch a want disp) := by
  unfold State.condBranch
  split
  · next hc => exact .of_cell hc (withOperands_does fun _ _ _ => cellPops_does.trans cellBranch_does)
  · next hc => exact .of_core hc (CoreDoes.ite (.refl s) (.of_calm coreBranch_calm))
  · exact .refl s

theorem execBk_acts {q : KIn} {v : Bool} {disp : Half} : Leads (Acts F) s (execBk q v disp s) := by
  unfold execBk
  split
  · next hc => exact .of_cell hc (withOperands_does fun _ _ _ => cellPop_does.trans cellBranch_does)
  · exact .refl s

theorem execBkind_acts {q : QIn} {kind lvl : BitVec 3} {disp : Half} : Leads (Acts F) s (execBkind q kind lvl disp s) := by
  unfold execBkind
  split
  · next hc =>
    split
    · exact .refl s
    · exact .of_cell (cur_of_curFiring hc) cellBranch_does
  · exact .refl s

theorem execRep_acts {a : Src} {len : BitVec 5} : Leads (Acts F) s (execRep a len s) := by
  unfold execRep
  split
  · next hc => exact .of_cell hc (withOperands_does fun _ _ _ => cellPops_does.trans (cellAdvance_does.trans modFiring_does))
  · exact .refl s

theorem execEndCell_acts : Leads (Acts F) s (execEndCell s) := by
  unfold execEndCell
  split
  · next hc =>
    have hcur := cur_of_curFiring hc
    split
    · split
      · exact .of_cell hcur malformed_does
      · exact .of_cell hcur endIssued_does
    · exact .of_cell hcur endIssued_does
  · exact .refl s

/-! ## Tokens (R133 to R137, R141 to R144) -/

theorem execSend_acts {q : OPort} {a : Src} {tag : BitVec 10} : Leads (Acts F) s (execSend q a tag s) := by
  unfold execSend
  split
  · next hc => exact .of_cell hc (withOperands_does fun _ _ _ => cellSend_does)
  · exact .refl s

theorem execSendstop_acts {q : OPort} {lvl : BitVec 3} {tag : BitVec 10} : Leads (Acts F) s (execSendstop q lvl tag s) := by
  unfold execSendstop
  split
  · next hc => exact .of_cell (cur_of_curFiring hc) cellSend_does
  · exact .refl s

theorem execSenddone_acts {q : OPort} {tag : BitVec 10} : Leads (Acts F) s (execSenddone q tag s) := by
  unfold execSenddone
  split
  · next hc => exact .of_cell (cur_of_curFiring hc) cellSend_does
  · exact .refl s

theorem poisonSunk_does {c : Prop} [Decidable c] {x : Word} (h : Does t o F s u) : Does t o F s (if c then u.sinkPoison t o x else u) :=
  Does.ite (h.trans sinkPoison_does) h

theorem execRecv_acts {d : Dst} {q : QIn} (h : F.reg = dstReg d) : Leads (Acts F) s (execRecv d q s) := by
  unfold execRecv
  split
  · exact .refl s
  · next hc =>
    have hcur := cur_of_curFiring hc
    split
    · exact .refl s
    · refine Leads.ite (.refl s) ?_
      split
      · next hf => exact .of_cell hcur (popFreeze_does hf)
      · split
        · exact .of_cell hcur cellSend_does
        · exact .of_cell hcur ((poisonSunk_does (cellPop_does.trans (modCell_does fun _ => Cell.keeps_setReg h))).trans cellAdvance_does)

theorem execPeek_acts {d : SReg} {q : QIn} (h : F.reg = some d) : Leads (Acts F) s (execPeek d q s) := by
  unfold execPeek
  split
  · exact .refl s
  · next hc =>
    split
    · exact .refl s
    · exact .of_cell (cur_of_curFiring hc)
        ((modCell_does fun _ => Cell.keeps_setReg h).trans (modFiring_does.trans cellAdvance_does))

theorem execDrop_acts {q : QIn} : Leads (Acts F) s (execDrop q s) := by
  unfold execDrop
  split
  · exact .refl s
  · next hc =>
    have hcur := cur_of_curFiring hc
    split
    · exact .refl s
    · split
      · next hf => exact .of_cell hcur (popFreeze_does hf)
      · exact .of_cell hcur ((poisonSunk_does cellPop_does).trans cellAdvance_does)

theorem execSteer_acts {q : QIn} {a : Src} : Leads (Acts F) s (execSteer q a s) := by
  unfold execSteer
  split
  · exact .refl s
  next hc =>
  have hcur := cur_of_curFiring hc
  split
  · exact .refl s
  · dsimp only
    split
    · refine Leads.ite (.refl s) ?_
      split
      · next hf => exact .of_cell hcur (popFreeze_does hf)
      · exact .of_cell hcur (cellPop_does.trans (pushAll_does.trans cellAdvance_does))
    · split
      · next hf => exact .of_cell hcur (popFreeze_does hf)
      · split
        · exact .refl s
        · exact .of_cell hcur freeze_does
        · exact .of_cell hcur malformed_does
        · refine Leads.ite ?_ (.refl s)
          split
          · exact .of_cell hcur freeze_does
          · split
            · exact .of_cell hcur freeze_does
            · exact .of_cell hcur (cellPops_does.trans (pushTok_does.trans (pushTok_does.trans cellAdvance_does)))

theorem popArms_does {ports : List Nat} {tok : Token} : Does t o F s (s.popArms t o ports tok) := by
  have hpop : Does t o F s (ports.foldl (fun s p => s.popTok t o p) s) := Does.foldl (fun _ _ => popTok_does) s
  unfold State.popArms
  exact Does.ite (hpop.trans (modFiring_does.trans (modCell_does fun _ => .of_eq rfl rfl rfl rfl))) (hpop.trans modFiring_does)

theorem armStep_does {c : Cell} {q : OPort} {kind : ArmKind} {ctl : List Nat} {words : Nat} :
    Does t o F s (s.armStep t o c q kind ctl words) := by
  unfold State.armStep
  split
  · exact .refl s
  · exact malformed_does
  · exact freeze_does
  · dsimp only
    refine Does.ite (.refl s) ?_
    split
    · next hf => exact popFreeze_does hf
    · split
      · exact freeze_does
      · exact popArms_does.trans ((Does.foldl (fun _ _ => popTok_does) _).trans (pushTok_does.trans cellAdvance_does))

theorem execMerge_acts {q : OPort} {a : Src} : Leads (Acts F) s (execMerge q a s) := by
  unfold execMerge
  split
  · next hc => exact .of_cell (cur_of_curFiring hc) armStep_does
  · exact .refl s

theorem execAmerge_acts {q : OPort} : Leads (Acts F) s (execAmerge q s) := by
  unfold execAmerge
  split
  · next hc => exact .of_cell (cur_of_curFiring hc) armStep_does
  · exact .refl s

theorem execTagseq_acts {q : OPort} {x : QIn} (h : F.tseq = true) : Leads (Acts F) s (execTagseq q x s) := by
  have hseq (c : Cell) : c.Keeps F { c with tseq := nextSeq c.tseq } :=
    ⟨fun _ _ => rfl, fun e => Bool.noConfusion (h.symm.trans e), fun _ => rfl, fun _ => rfl⟩
  unfold execTagseq
  split
  · exact .refl s
  next hc =>
  have hcur := cur_of_curFiring hc
  split
  · exact .refl s
  · refine Leads.ite (.refl s) ?_
    split
    · next hf => exact .of_cell hcur (popFreeze_does hf)
    · exact .of_cell hcur (Does.ite cellSend_does (cellSend_does.trans (modCell_does hseq)))

theorem Cell.keeps_window {c : Cell} {x : Nat} {l : List (Nat × Token)} (h : F.window = true) :
    c.Keeps F { c with next := x, window := l } :=
  ⟨fun _ _ => rfl, fun _ => rfl, fun e => Bool.noConfusion (h.symm.trans e), fun e => Bool.noConfusion (h.symm.trans e)⟩

theorem collectPush_does {q : OPort} {pops : List Nat} {tok : Token} (h : F.window = true) :
    Does t o F s (s.collectPush t o q pops tok) := by
  unfold State.collectPush
  refine Does.ite ?_ (.refl s)
  split
  · exact freeze_does
  · dsimp only
    have hpush : Does t o F s (((s.cellPops t o pops).pushTok t o (4 + q.val) tok).modCell t o fun c =>
        { c with next := nextSeq c.next, window := adel (hdrTag tok.hdr) c.window }) :=
      cellPops_does.trans (pushTok_does.trans (modCell_does fun _ => Cell.keeps_window h))
    refine hpush.trans ?_
    exact Does.ite (modFiring_does.trans (busy_does.trans issued_does)) (modFiring_does.trans cellAdvance_does)

theorem execCollect_acts {q : OPort} {x : QIn} (h : F.window = true) : Leads (Acts F) s (execCollect q x s) := by
  unfold execCollect
  split
  · exact .refl s
  next hc =>
  have hcur := cur_of_curFiring hc
  split
  · split
    · exact .of_cell hcur (collectPush_does h)
    · exact .of_cell hcur (modFiring_does.trans cellAdvance_does)
  · split
    · exact .refl s
    · split
      · next hf => exact .of_cell hcur (popFreeze_does hf)
      · dsimp only
        split
        · split
          · exact .of_cell hcur cellSend_does
          · exact .of_cell hcur freeze_does
        · split
          · exact .of_cell hcur freeze_does
          · split
            · exact .of_cell hcur (collectPush_does h)
            · exact .of_cell hcur (cellPop_does.trans ((modCell_does fun _ => Cell.keeps_window h).trans cellAdvance_does))

theorem execRepl_acts {a : Src} : Leads (Acts F) s (execRepl a s) := by
  unfold execRepl
  split
  · exact .refl s
  next hc =>
  have hcur := cur_of_curFiring hc
  split
  · exact .refl s
  · dsimp only
    refine Leads.ite (.refl s) ?_
    split
    · next hf => exact .of_cell hcur (popFreeze_does hf)
    · split
      · exact .of_cell hcur cellSend_does
      · split
        · exact .of_cell hcur cellSend_does
        · refine Leads.ite ?_ (.of_cell hcur cellSend_does)
          exact Leads.ite (.of_cell hcur cellSend_does) (.of_cell hcur malformed_does)

theorem execKout_acts {a : Src} : Leads (Acts F) s (execKout a s) := by
  unfold execKout
  split
  · exact .refl s
  next hc =>
  have hcur := cur_of_curFiring hc
  refine Leads.ite (.refl s) ?_
  split
  · next hf => exact .of_cell hcur (popFreeze_does hf)
  · split
    · exact .refl s
    · exact .of_cell hcur freeze_does
    · exact .of_cell hcur malformed_does
    · split
      · exact .of_cell hcur freeze_does
      · exact .of_cell hcur (cellPops_does.trans (pushTok_does.trans cellAdvance_does))

theorem execKwait_acts {q : KIn} : Leads (Acts F) s (execKwait q s) := by
  unfold execKwait
  split
  · next hc => exact .of_cell hc (withOperands_does fun _ _ _ => cellPop_does.trans cellAdvance_does)
  · exact .refl s

/-! ## System words (R146 to R149, R268, R269) -/

theorem popQueue_calm {lctx : Nat} {nb : Bool} : Calm true s (s.popQueue lctx n nb).2 ∧ (s.popQueue lctx n nb).2.cores = s.cores := by
  obtain ⟨q, x, hq⟩ := popQueue_cases (s := s) (l := lctx) (n := n) (nb := nb)
  have hmem : s.memOk → (s.popQueue lctx n nb).2.memOk := by
    unfold State.popQueue
    split
    · exact id
    · dsimp only
      split
      · exact id
      · split
        · split
          · exact id
          · exact (touchVa_steady.kept.trans writeVa_kept).mem
        · split
          · exact id
          · split
            · exact id
            · exact id
  rw [hq] at hmem ⊢
  exact ⟨⟨.of_eq hmem rfl rfl, nofun, List.forall₂_same.mpr fun c _ => .refl c, rfl, fun _ _ => rfl, fun _ _ => rfl⟩, rfl⟩

theorem popQueue_does {lctx : Nat} {nb : Bool} {x : Popped} (hm : F.mem = true) (h : s.popQueue lctx n nb = (x, u)) : Does t o F s u := by
  obtain ⟨hcalm, hcores⟩ := popQueue_calm (s := s) (lctx := lctx) (n := n) (nb := nb)
  rw [h] at hcalm hcores
  exact .of_calm (hm.symm ▸ hcalm) hcores

theorem cellQpop_does {d : Dst} {nb : Bool} (hm : F.mem = true) (h : F.reg = dstReg d) : Does t o F s (s.cellQpop t o d nb n) := by
  unfold State.cellQpop
  split
  · exact .refl s
  · exact cellScalar_does h
  · next hp =>
    exact Does.ite (cellScalar_does h) ((popQueue_does hm hp).trans (cellScalar_does h))
  · next hp =>
    exact Does.ite (.refl s) ((popQueue_does hm hp).trans (cellScalar_does h))

theorem execSpawn_acts {x : BitVec 12} : Leads (Acts F) s (execSpawn x s) := by
  unfold execSpawn
  split
  · next t o _ _ hc =>
    have hreq {l : List PReq} : Does t o F s { s with requests := l } := .of_eq rfl rfl rfl rfl
    exact .of_cell (cur_of_curFiring hc) (hreq.trans cellAdvance_does)
  · exact .refl s

theorem modTile_does {x : Nat} {g : Tile → Tile} : Does t o F s (s.modTile x g) := .of_steady modTile_steady rfl (fun _ _ => rfl) fun _ _ => rfl

theorem modTask_does {g : Task → Task} (h : ∀ k, (g k).ops = k.ops) : Does t o F s (s.modTask t' g) :=
  .of_steady modTask_steady rfl (fun _ _ => cell_congr (modTask_op h)) fun _ _ => vec_congr (modTask_op h)

theorem cellAmsg_does {a d : Src} : Does t o F s (s.cellAmsg t o a d n) := by
  have hmsg {z : State} {l : List Msg} (h : Does t o F s z) : Does t o F s { z with msgs := l } := h.trans (.of_eq rfl rfl rfl rfl)
  unfold State.cellAmsg
  refine withOperands_does fun _ _ _ => ?_
  split
  · dsimp only
    split
    · exact freeze_does
    · split
      · exact .refl s
      · refine Does.trans ?_ cellAdvance_does
        refine Does.trans ?_ modTile_does
        refine Does.trans ?_ (modTask_does fun _ => rfl)
        exact hmsg cellPops_does
  · exact .refl s

theorem cellTlwait_does {a : Src} : Does t o F s (s.cellTlwait t o a n) := by
  unfold State.cellTlwait
  refine withOperands_does fun _ _ _ => ?_
  refine Does.ite freeze_does (Does.ite poisonOut_does (Does.ite ?_ (.refl s)))
  exact cellPops_does.trans cellAdvance_does

theorem drainAll_cores : (s.drainAll t).cores = s.cores := by
  have hline (z : State) (x : WLine) : (z.drainLine t x).cores = z.cores := by
    obtain ⟨q, hq⟩ := touchKey_cases (s := { z with mem := x.bytes.foldl (fun m (y : Nat × Byte) => memPut m (x.line + y.1) y.2) z.mem })
      x.line
    unfold State.drainLine
    dsimp only
    rw [hq]
    split <;> rfl
  unfold State.drainAll State.drain
  split
  · rfl
  · exact foldl_rel (R := fun a b => b.cores = a.cores) (fun _ => rfl) (fun _ _ _ h h' => h'.trans h) hline _ _

theorem drainAll_does (hm : F.mem = true) : Does t o F s (s.drainAll t') where
  kept := drainAll_kept
  mem e := Bool.noConfusion (hm.symm.trans e)
  cores := drainAll_cores
  cells _ _ _ := cell_congr drain_op
  vecs _ _ _ := vec_congr drain_op
  cell := cell_congr (s := s) drain_op ▸ optionRel_refl Cell.Keeps.refl _
  vec := vec_congr (s := s) drain_op ▸ optionRel_refl Vec.Keeps.refl _

theorem execWrapCommit_acts (hm : F.mem = true) : Leads (Acts F) s (execWrapCommit s) := by
  unfold execWrapCommit
  split
  · exact .refl s
  next hc =>
  have hcur := cur_of_curFiring hc
  refine Leads.ite (.of_cell hcur cellAdvance_does) (Leads.ite (.refl s) ?_)
  refine .of_cell hcur ((drainAll_does hm).trans (Does.trans (modCell_does fun _ => ?_) cellAdvance_does))
  exact .of_eq rfl rfl rfl rfl

/-- A change of an operator that leaves the cell or vector unit in it. -/
theorem modOp_does {g : Op → Op} (hc : ∀ p, (g p).cell? = p.cell?) (hv : ∀ p, (g p).vec? = p.vec?) :
    Does t o F s (s.modOp t' o' g) := by
  have hview {α : Type} {π : Op → Option α} (hπ : ∀ p, π (g p) = π p) (a b : Nat) :
      ((s.modOp t' o' g).op a b).bind π = (s.op a b).bind π := by
    by_cases e : (a, b) = (t', o')
    · cases e
      rw [modOp_op_self, Option.bind_map]
      exact congrArg (Option.bind _) (funext hπ)
    · rw [modOp_op_other e]
  refine .of_steady modOp_steady rfl (fun a b => ?_) fun a b => ?_
  · rw [cell_eq_op, cell_eq_op]
    exact hview hc a b
  · rw [vec_eq_op, vec_eq_op]
    exact hview hv a b

theorem modSpline_does {g : Spline → Spline} : Does t o F s (s.modSpline t' o' g) := by
  refine modOp_does (fun z => ?_) fun z => ?_
  all_goals
    obtain ⟨pl, fa, ff, re, po, hd, fi, q⟩ := z
    cases q <;> rfl

theorem Accessed.does (h : Accessed s u) (hs : Steady s u) : Does t o F s u := by
  refine .of_steady hs ?_ (fun _ _ => cell_congr h.op) fun _ _ => vec_congr h.op
  obtain ⟨_, _, _, _, _, _, rfl⟩ := h.rest
  rfl

theorem unitAt_fault_does {va y kind g w : Nat} (h : s.unitAt t' o' va y kind = .fault u g w) : Does t o F s u :=
  (unitAt_fault_accessed h).does (unitAt_fault_steady h)

theorem unitAt_wait_does {va y kind : Nat} (h : s.unitAt t' o' va y kind = .wait u) : Does t o F s u :=
  (unitAt_wait_accessed h).does (unitAt_wait_steady h)

theorem splineStore_does {y va v : Nat} : Does t o F s (s.splineStore t' o' y va n v).state := by
  unfold State.splineStore
  split
  · next h => exact unitAt_wait_does h
  · next h => exact unitAt_fault_does h
  · exact modSpline_does.trans busy_does

theorem Does.left {x : Stored} (h : Does t o F s x.state) (hu : x.state = u) : Does t o F s u := hu ▸ h

theorem execVfSet_acts {a d : Src} : Leads (Acts F) s (execVfSet a d s) := by
  unfold execVfSet
  split
  · next hc =>
    refine .of_cell hc (withOperands_does fun _ _ _ => ?_)
    dsimp only
    split
    · exact poisonOut_does
    · refine Does.ite (.refl s) (Does.ite poisonOut_does ?_)
      split
      · next h => exact unitAt_wait_does h
      · next h => exact (unitAt_fault_does h).trans poisonOut_does
      · split
        · next h => exact splineStore_does.left (congrArg Stored.state h)
        · next h => exact (splineStore_does.left (congrArg Stored.state h)).trans poisonOut_does
        · next h => exact (splineStore_does.left (congrArg Stored.state h)).trans (cellPops_does.trans cellAdvance_does)
  · exact .refl s

end Sys2Proof.Machine

namespace Sys2Proof.Machine

/-! PROOFS. What the words of a control core change: their destination, control registers by csrw, eret and traps, and memory by the
words that store (R146 to R158). -/

variable {s u : State} {t o p k n : Nat} {m : Bool} {F : Mods}

/-! ## Loads, stores and atomics (R154 to R156) -/

/-- An access of a core is on its way. -/
theorem coreLoads_calm {g : Core → List CoreLoad} : Calm m s (s.modCore k fun c => { c with loads := g c }) :=
  modCore_calm fun _ => ⟨rfl, rfl, rfl, rfl, rfl, rfl, rfl, rfl, rfl⟩

theorem coreStores_calm {g : Core → List CoreStore} : Calm m s (s.modCore k fun c => { c with stores := g c }) :=
  modCore_calm fun _ => ⟨rfl, rfl, rfl, rfl, rfl, rfl, rfl, rfl, rfl⟩

theorem coreLoad_does {d : SReg} {a : Src} {off : Half} (h : F.reg = some d) : CoreDoes k F s (s.coreLoad k d a off n) := by
  unfold State.coreLoad
  dsimp only
  refine CoreDoes.ite (.refl s) ?_
  split
  · exact accessTrap_does (.refl s) rfl
  · exact .of_calm addMiss_calm
  · exact (Calm.refl s).coreWrite_does h
  · exact (Calm.refl s).coreWrite_does h
  · refine .of_calm (Calm.trans ?_ coreNext_calm)
    refine Calm.trans ?_ coreSpan_calm
    refine Calm.trans ?_ coreLoads_calm
    exact bumpId_calm.trans touch_calm

theorem coreStore_does {v a : Src} {off : Half} (hm : F.mem = true) : CoreDoes k F s (s.coreStore k v a off n) := by
  unfold State.coreStore
  dsimp only
  refine CoreDoes.ite (.refl s) ?_
  split
  · exact accessTrap_does (.refl s) rfl
  · exact .of_calm addMiss_calm
  · exact .of_calm (hm.symm ▸ writeLoc_calm.trans coreNext_calm)
  · exact .of_calm (mgmtWrite_calm.trans coreNext_calm)
  · refine .of_calm (Calm.trans ?_ coreNext_calm)
    refine Calm.trans ?_ coreStores_calm
    exact bumpId_calm.trans touch_calm

theorem coreAmo_does {fn : RmwFn} {d : SReg} {a b : Src} {w64 ovt : Bool} (hm : F.mem = true) :
    CoreDoes k F s (s.coreAmo k fn d a b w64 ovt) := by
  unfold State.coreAmo
  dsimp only
  refine CoreDoes.ite (.refl s) (CoreDoes.ite (accessTrap_does (.refl s) rfl) ?_)
  split
  · exact accessTrap_does (.refl s) rfl
  · exact .of_calm addMiss_calm
  · refine CoreDoes.ite (.refl s) (CoreDoes.ite coreTrap_does ?_)
    refine .of_calm (hm.symm ▸ Calm.trans ?_ coreNext_calm)
    refine Calm.trans ?_ coreSpan_calm
    refine Calm.trans ?_ coreLoads_calm
    exact writeLoc_calm.trans (bumpId_calm.trans touch_calm)
  · exact accessTrap_does (.refl s) rfl

theorem execOwait_acts {ld st cp op : BitVec 4} : Leads (Acts F) s (execOwait ld st cp op s) := by
  refine onCore_acts fun k => CoreDoes.ite (.refl s) (CoreDoes.ite (.of_calm (Calm.trans ?_ coreNext_calm)) (.refl s))
  refine modCore_calm fun c => ?_
  split
  · exact ⟨rfl, rfl, rfl, rfl, rfl, rfl, rfl, rfl, rfl⟩
  · exact .refl c

/-! ## Control registers, traps and returns (R151 to R153) -/

theorem and_mask_reserved {a x mask : Dbl} (h : x &&& ~~~mask = 0) : a &&& x &&& ~~~mask = 0 := by
  rw [BitVec.and_assoc, h]
  exact BitVec.and_zero

theorem or_reserved {a b mask : Dbl} (ha : a &&& mask = 0) (hb : b &&& mask = 0) : (a ||| b) &&& mask = 0 := by
  have h : (a ||| b) &&& mask = (a &&& mask) ||| (b &&& mask) := by
    refine BitVec.eq_of_getLsbD_eq fun i _ => ?_
    simp only [BitVec.getLsbD_and, BitVec.getLsbD_or, Bool.and_or_distrib_right]
  rw [h, ha, hb]
  exact BitVec.or_zero

/-- A write of a control register leaves the general registers and the reserved bits of STATUS and TVEC. -/
theorem Core.moves_setCsr {c : Core} {r : BitVec 12} {v pc : Dbl} (h : F.csr = true) : c.Moves F { c.setCsr r v with pc := pc } := by
  have hcsr {c' : Core} : F.csr = false → c.SameCsr c' ∨ ∃ epc cause eval, c' = { c.trap epc cause eval with fsr := none } :=
    fun e => Bool.noConfusion (h.symm.trans e)
  unfold Core.setCsr
  split
  · exact ⟨fun _ _ => rfl, fun _ => rfl, rfl, fun _ => or_reserved (and_mask_reserved (by decide)) (and_mask_reserved (by decide)), id, hcsr⟩
  · exact ⟨fun _ _ => rfl, fun _ => rfl, rfl, id, id, hcsr⟩
  · exact ⟨fun _ _ => rfl, fun _ => rfl, rfl, id, fun _ => and_mask_reserved (by decide), hcsr⟩
  · exact ⟨fun _ _ => rfl, fun _ => rfl, rfl, id, id, hcsr⟩
  · exact ⟨fun _ _ => rfl, fun _ => rfl, rfl, id, id, hcsr⟩
  · exact ⟨fun _ _ => rfl, fun _ => rfl, rfl, id, id, hcsr⟩

theorem Core.moves_eret {c : Core} (h : F.csr = true) : c.Moves F c.eret := by
  refine ⟨fun _ _ => rfl, fun _ => rfl, rfl, fun hs => ?_, id, fun e => Bool.noConfusion (h.symm.trans e)⟩
  refine or_reserved ?_ ?_
  · rw [BitVec.and_assoc, BitVec.and_comm (~~~1), ← BitVec.and_assoc, hs]
    exact BitVec.zero_and
  · split
    · decide
    · decide

theorem modCore_modCore {g g' : Core → Core} : (s.modCore k g).modCore k g' = s.modCore k fun c => g' (g c) := by
  have hl (l : List Core) (n : Nat) : lmod n g' (lmod n g l) = lmod n (fun c => g' (g c)) l := by
    induction l generalizing n with
    | nil => cases n <;> rfl
    | cons c l ih =>
      cases n with
      | zero => rfl
      | succ n => exact congrArg (c :: ·) (ih n)
  rw [State.modCore, State.modCore, State.modCore, hl]

theorem execCsrr_acts {d : SReg} {r : BitVec 12} (h : F.reg = some d) : Leads (Acts F) s (execCsrr d r s) :=
  onCore_acts fun _ => CoreDoes.ite (.refl s) ((Calm.refl s).coreWrite_does h)

theorem execCsrw_acts {a : Src} {r : BitVec 12} (h : F.csr = true) : Leads (Acts F) s (execCsrw a r s) := by
  refine onCore_acts fun k => CoreDoes.ite (.refl s) (CoreDoes.ite privTrap_does ?_)
  have hset : ((s.modCore k fun x => x.setCsr r ((s.core k).src a)).coreNext k (srcWords [a])) =
      (s.modCore k fun x => { x.setCsr r ((s.core k).src a) with pc := (x.setCsr r ((s.core k).src a)).after (srcWords [a]) }).issued := by
    rw [State.coreNext, modCore_modCore]
  rw [hset]
  exact (Calm.refl s).modCore_does (Core.moves_setCsr h)

theorem execTrap_acts {c : BitVec 12} : Leads (Acts F) s (execTrap c s) :=
  onCore_acts fun _ => CoreDoes.ite (.refl s) ((Calm.refl s).coreTrapAt_does rfl)

theorem execEret_acts (h : F.csr = true) : Leads (Acts F) s (execEret s) :=
  onCore_acts fun _ => CoreDoes.ite (.refl s) (CoreDoes.ite privTrap_does ((Calm.refl s).modCore_does (Core.moves_eret h)))

theorem execHalt_acts : Leads (Acts F) s (execHalt s) := by
  refine onCore_acts fun k => CoreDoes.ite (.refl s) (CoreDoes.ite privTrap_does (.of_calm ?_))
  refine Calm.trans (u := s.coreNext k 1) coreNext_calm ?_
  exact modCore_calm fun _ => ⟨rfl, rfl, rfl, rfl, rfl, rfl, rfl, rfl, rfl⟩

/-! ## The remaining words (R146 to R149, R157, R158) -/

theorem modCtx_calm {c : Nat} {g : Ctx → Ctx} : Calm m s (s.modCtx c g) := .of_steady modCtx_steady rfl rfl (fun _ _ => rfl) fun _ _ => rfl

theorem modLaunch_calm {l : Nat} {g : Launch → Launch} : Calm m s (s.modLaunch l g) := .of_eq rfl rfl rfl rfl rfl

theorem execRfetch_acts {d : SReg} {a : Src} (hm : F.mem = true) (h : F.reg = some d) : Leads (Acts F) s (execRfetch d a s) := by
  refine onCore_acts fun k => CoreDoes.ite (.refl s) (CoreDoes.ite (accessTrap_does (.refl s) rfl) ?_)
  split
  · exact (Calm.refl s).coreWrite_does h
  · exact Calm.coreWrite_does (hm.symm ▸ modCtx_calm.trans (modLaunch_calm.trans writeLoc_calm)) h

theorem execSwait_acts {a : Src} : Leads (Acts F) s (execSwait a s) :=
  onCore_acts fun _ => CoreDoes.ite (.refl s) (CoreDoes.ite (accessTrap_does (.refl s) rfl)
    (CoreDoes.ite (accessTrap_does (.refl s) rfl) (CoreDoes.ite (.of_calm coreNext_calm) (.refl s))))

theorem execDispatch_acts {a : Src} : Leads (Acts F) s (execDispatch a s) := by
  have hin {l : List (Nat × Nat × Packet)} : Calm F.mem s { s with intake := l } := .of_eq rfl rfl rfl rfl rfl
  exact onCore_acts fun _ => CoreDoes.ite (.refl s) (CoreDoes.ite (accessTrap_does (.refl s) rfl)
    (CoreDoes.ite (accessTrap_does (.refl s) rfl) (CoreDoes.ite privTrap_does (CoreDoes.ite (.refl s) (.of_calm (hin.trans coreNext_calm))))))

theorem execCfgw_acts {a d : Src} : Leads (Acts F) s (execCfgw a d s) :=
  onCore_acts fun _ => CoreDoes.ite (.refl s) (CoreDoes.ite privTrap_does
    (CoreDoes.ite (.of_calm (mgmtWrite_calm.trans coreNext_calm)) (accessTrap_does (.refl s) rfl)))

theorem execCrc32c_acts {d : SReg} {a : Src} {x : BitVec 2} (h : F.reg = some d) : Leads (Acts F) s (execCrc32c d a x s) :=
  onCore_acts fun _ => CoreDoes.ite (.refl s) ((Calm.refl s).coreWrite_does h)

theorem coreQpop_does {d : Dst} {nb : Bool} (hm : F.mem = true) (h : F.reg = dstReg d) : CoreDoes k F s (s.coreQpop k d nb n) := by
  unfold State.coreQpop
  split
  · exact .refl s
  · dsimp only
    obtain ⟨hcalm, hcores⟩ := popQueue_calm (s := s) (lctx := (s.core k).lctx) (n := n) (nb := nb)
    refine CoreDoes.ite (.refl s) ?_
    split
    · exact .refl s
    · exact accessTrap_does (.refl s) rfl
    · next hp =>
      rw [hp] at hcalm
      exact Calm.coreWrite_does (hm.symm ▸ hcalm) h
    · next hp =>
      rw [hp] at hcalm hcores
      exact accessTrap_does (hm.symm ▸ hcalm) hcores

theorem execQpop_acts {d : Dst} {nb : Bool} {x : BitVec 4} (hm : F.mem = true) (h : F.reg = dstReg d) :
    Leads (Acts F) s (execQpop d nb x s) := by
  unfold execQpop
  split
  · next hc => exact .of_cell hc (cellQpop_does hm h)
  · next hc => exact .of_core hc (coreQpop_does hm h)
  · exact .refl s

theorem coreAmsg_does {a d : Src} : CoreDoes k F s (s.coreAmsg k a d n) := by
  have hmsg {l : List Msg} : Calm F.mem s { s with msgs := l } := .of_eq rfl rfl rfl rfl rfl
  unfold State.coreAmsg
  dsimp only
  refine CoreDoes.ite (.refl s) (CoreDoes.ite privTrap_does (CoreDoes.ite (.refl s) (.of_calm (Calm.trans ?_ coreNext_calm))))
  refine hmsg.trans (modCore_calm fun _ => ?_)
  exact ⟨rfl, rfl, rfl, rfl, rfl, rfl, rfl, rfl, rfl⟩

theorem execAmsg_acts {a d : Src} {x : BitVec 4} : Leads (Acts F) s (execAmsg a d x s) := by
  unfold execAmsg
  split
  · next hc => exact .of_cell hc cellAmsg_does
  · next hc => exact .of_core hc coreAmsg_does
  · exact .refl s

theorem execTlwait_acts {a : Src} {c : BitVec 12} : Leads (Acts F) s (execTlwait a c s) := by
  unfold execTlwait
  split
  · next hc => exact .of_cell hc cellTlwait_does
  · next hc => exact .of_core hc (CoreDoes.ite (.refl s) (CoreDoes.ite privTrap_does
      (CoreDoes.ite coreTrap_does (CoreDoes.ite (.of_calm coreNext_calm) (.refl s)))))
  · exact .refl s

end Sys2Proof.Machine

namespace Sys2Proof.Machine

/-! PROOFS. What the words of a vector unit change: their destination, and the sticky flags and the stochastic state where they
convert (R189, R192, R198 to R221). -/

variable {s u : State} {t o n : Nat} {F : Mods} {d : VNum} {p : Pred}

/-! ## Registers and predicates -/

theorem Vec.keeps_lmod {c : Vec} {g : VReg → VReg} (h : F.v = some d) : Vec.Keeps F c { c with vregs := lmod d.val g c.vregs } :=
  ⟨fun n hn => getD_lmod_other fun e => hn (h.trans (congrArg some (Fin.ext e.symm))), fun _ _ => rfl, fun _ => rfl, fun _ => rfl⟩

theorem Vec.keeps_lmodP {c : Vec} {d : PNum} {g : PReg → PReg} (h : F.p = some d) :
    Vec.Keeps F c { c with pregs := lmod d.val g c.pregs } :=
  ⟨fun _ _ => rfl, fun n hn => getD_lmod_other fun e => hn (h.trans (congrArg some (Fin.ext e.symm))), fun _ => rfl, fun _ => rfl⟩

theorem markV_does {x : Word} (h : F.v = some d) : Does t o F s (s.markV t o d x) := modVec_does fun _ => Vec.keeps_lmod h

theorem markP_does {d : PNum} {x : Word} (h : F.p = some d) : Does t o F s (s.markP t o d x) := modVec_does fun _ => Vec.keeps_lmodP h

theorem dropMark_does {x : Option Word} : Does t o F s (s.dropMark t o x) := by
  unfold State.dropMark
  split
  · exact sinkPoison_does
  · exact .refl s

theorem putV_does {r : VReg} (h : F.v = some d) : Does t o F s (s.putV t o d r) :=
  dropMark_does.trans (modVec_does fun _ => Vec.keeps_lmod h)

theorem markedV_does {x : Word} {iv : Nat} (h : F.v = some d) : Does t o F s ((s.markV t o d x).vecAdvance t o iv) :=
  (markV_does h).trans vecAdvance_does

/-! ## The words that write a register -/

/-- A result that raises no sticky flag. -/
def Flagless : Except (BitVec 7) VOut → Prop
  | .ok r => r.flags = 0
  | .error _ => True

theorem Flagless.ite {c : Prop} [Decidable c] {x y : Except (BitVec 7) VOut} (hx : Flagless x) (hy : Flagless y) :
    Flagless (if c then x else y) := by
  split
  · exact hx
  · exact hy

theorem vecOp_does {c : Vec} {f : Firing} {srcs : List VNum} {iv : Nat} {merge : Bool} {g : Vec → List VReg → Except (BitVec 7) VOut}
    (hc : s.curVec = some (t, o, c, f)) (hv : F.v = some d) (hf : F.flags = true ∨ ∀ c l, Flagless (g c l)) :
    Does t o F s (s.vecOp d srcs p iv merge g) := by
  unfold State.vecOp
  rw [hc]
  dsimp only
  split
  · exact markedV_does hv
  · split
    · exact markedV_does hv
    · next r hr =>
      refine Does.ite (markedV_does hv) ?_
      refine (putV_does hv).trans (Does.trans (modVec_does fun x => ?_) vecAdvance_does)
      refine ⟨fun _ _ => rfl, fun _ _ => rfl, fun _ => rfl, fun e => ?_⟩
      rcases hf with hf | hf
      · exact Bool.noConfusion (hf.symm.trans e)
      · have hz := hf c (srcs.map c.v)
        rw [hr] at hz
        show x.flags ||| r.flags = x.flags
        rw [show r.flags = 0 from hz]
        exact BitVec.or_zero

theorem vecOp_none {srcs : List VNum} {iv : Nat} {merge : Bool} {g : Vec → List VReg → Except (BitVec 7) VOut} (hc : s.curVec = none) :
    s.vecOp d srcs p iv merge g = s := by
  unfold State.vecOp
  rw [hc]

/-- A word that writes a register, and raises no flag unless `F` says so. -/
theorem vecOp_acts {srcs : List VNum} {iv : Nat} {merge : Bool} {g : Vec → List VReg → Except (BitVec 7) VOut} (hv : F.v = some d)
    (hf : F.flags = true ∨ ∀ c l, Flagless (g c l)) : Acts F s (s.vecOp d srcs p iv merge g) := by
  cases hc : s.curVec with
  | none =>
    rw [vecOp_none hc]
    exact .refl s
  | some x =>
    obtain ⟨t, o, c, f⟩ := x
    exact .of_vec (cur_of_curVec hc) (vecOp_does hc hv hf)

/-! ## Results without flags -/

theorem arith_flagless {ftz : Bool} {rm : Rm} {l : List VReg} {accept : Nat → Bool} {ff : List Fp → Fp} {fi : List Int → Int} :
    Flagless (arith ftz rm l accept ff fi) := Flagless.ite trivial (Flagless.ite rfl rfl)

theorem minMaxOut_flagless {ftz isMax : Bool} {l : List VReg} : Flagless (minMaxOut ftz isMax l) := Flagless.ite trivial rfl

theorem estimate_flagless {ftz : Bool} {g : Fp → Fp} {l : List VReg} : Flagless (estimate ftz g l) := Flagless.ite trivial rfl

theorem moveOut_flagless {scaled : Bool} {r : VReg} {l : List Word} : Flagless (moveOut scaled r l) := Flagless.ite trivial rfl

theorem bitwise_flagless {g : Word → Word → Word} {l : List VReg} : Flagless (bitwise g l) := by
  unfold bitwise
  split
  · exact Flagless.ite trivial rfl
  · trivial

theorem shiftOut_flagless {z : Bool} {g : Nat → Word → Nat → Word} {l : List VReg} : Flagless (shiftOut z g l) := by
  unfold shiftOut
  split
  · exact Flagless.ite trivial rfl
  · trivial

theorem execVsel_acts {a b : VNum} {q : PNum} (hv : F.v = some d) : Leads (Acts F) s (execVsel d a b q s) := by
  refine vecOp_acts hv (.inr fun c l => ?_)
  split
  · exact Flagless.ite rfl trivial
  · trivial

theorem execVimad_acts {a b c : VNum} (hv : F.v = some d) : Leads (Acts F) s (execVimad d a b c p s) := by
  refine vecOp_acts hv (.inr fun c l => ?_)
  split
  · exact Flagless.ite trivial rfl
  · trivial

theorem execVmov_acts {a : VNum} (hv : F.v = some d) : Leads (Acts F) s (execVmov d a p s) := by
  unfold execVmov
  split
  · next hc =>
    have hcur := cur_of_curVec hc
    refine Leads.ite (.of_vec hcur (markedV_does hv)) (Leads.ite (.of_vec hcur vecAdvance_does) ?_)
    exact .of_vec hcur ((putV_does hv).trans vecAdvance_does)
  · exact vecOp_acts hv (.inr fun _ _ => moveOut_flagless)

/-! ## Conversions (R210, R211) -/

theorem takeDraws_does {c : Vec} {f : Firing} {rm : RmC} {a : VNum} (hc : s.curVec = some (t, o, c, f)) (hx : F.draws = true) :
    Does t o F s (s.takeDraws rm a p) := by
  unfold State.takeDraws
  rw [hc]
  dsimp only
  refine Does.ite (modVec_does fun _ => ?_) (.refl s)
  exact ⟨fun _ _ => rfl, fun _ _ => rfl, fun e => Bool.noConfusion (hx.symm.trans e), fun _ => rfl⟩

theorem vecRuns_of_curVec {c : Vec} {f : Firing} (h : s.curVec = some (t, o, c, f)) : VecRuns s t o c f := by
  have hcur := cur_of_curVec h
  rw [State.curVec, hcur] at h
  obtain ⟨c', hv, hf⟩ := Option.bind_eq_some_iff.mp h
  obtain ⟨f', hfi, he⟩ := Option.map_eq_some_iff.mp hf
  cases he
  exact ⟨hcur, hv, hfi⟩

theorem takeDraws_curVec {c : Vec} {f : Firing} {rm : RmC} {a : VNum} (hc : s.curVec = some (t, o, c, f)) :
    ∃ c', (s.takeDraws rm a p).curVec = some (t, o, c', f) :=
  ⟨_, (takeDraws_runs (vecRuns_of_curVec hc)).curVec⟩

/-- A conversion draws, and then writes its register and its flags. -/
theorem converts_acts {rm : RmC} {a : VNum} {iv : Nat} {merge : Bool} {srcs : List VNum} {g : Vec → List VReg → Except (BitVec 7) VOut}
    (hv : F.v = some d) (hx : F.draws = true) (hf : F.flags = true) : Acts F s ((s.takeDraws rm a p).vecOp d srcs p iv merge g) := by
  cases hc : s.curVec with
  | none =>
    have hs : s.takeDraws rm a p = s := by
      unfold State.takeDraws
      rw [hc]
    rw [hs, vecOp_none hc]
    exact .refl s
  | some x =>
    obtain ⟨t, o, c, f⟩ := x
    obtain ⟨c', hc'⟩ := takeDraws_curVec (rm := rm) (a := a) (p := p) hc
    exact .of_vec (cur_of_curVec hc) ((takeDraws_does hc hx).trans (vecOp_does hc' hv (.inl hf)))

/-! ## Compares, scales and tags (R208, R212, R220) -/

theorem execVcmpCc_acts {cc : Cond} {d : PNum} {a b : VNum} (h : F.p = some d) : Leads (Acts F) s (execVcmpCc cc d a b p s) := by
  unfold execVcmpCc
  split
  · exact .refl s
  next hc =>
  have hcur := cur_of_curVec hc
  split
  · exact .of_vec hcur ((markP_does h).trans vecAdvance_does)
  · refine Leads.ite (.of_vec hcur ((markP_does h).trans vecAdvance_does)) ?_
    exact .of_vec hcur (dropMark_does.trans ((modVec_does fun _ => Vec.keeps_lmodP h).trans vecAdvance_does))

theorem execVscale_acts {a : VNum} {x : BitVec 3} (h : F.v = some d) : Leads (Acts F) s (execVscale d a x s) := by
  unfold execVscale
  split
  · exact .refl s
  next hc =>
  have hcur := cur_of_curVec hc
  split
  · exact .of_vec hcur (markedV_does h)
  · refine Leads.ite (.of_vec hcur (markedV_does h)) ?_
    exact .of_vec hcur ((modVec_does fun _ => Vec.keeps_lmod h).trans vecAdvance_does)

theorem execVtagSet_acts {fmt : BitVec 4} {scl : Bool} {x : BitVec 3} (h : F.v = some d) : Leads (Acts F) s (execVtagSet d fmt scl x s) := by
  unfold execVtagSet
  split
  · exact .refl s
  · next hc => exact .of_vec (cur_of_curVec hc) ((modVec_does fun _ => Vec.keeps_lmod h).trans vecAdvance_does)

theorem execVtagGet_acts {a : VNum} {clr : Bool} (h : F.v = some d) (hf : F.flags = true) : Leads (Acts F) s (execVtagGet d a clr s) := by
  unfold execVtagGet
  split
  · exact .refl s
  · next hc =>
    have hclear (c : Vec) : Vec.Keeps F c { c with flags := 0 } :=
      ⟨fun _ _ => rfl, fun _ _ => rfl, fun _ => rfl, fun e => Bool.noConfusion (hf.symm.trans e)⟩
    exact .of_vec (cur_of_curVec hc) ((Does.ite ((putV_does h).trans (modVec_does hclear)) (putV_does h)).trans vecAdvance_does)

/-! ## The wide ports (R216 to R219) and `end` -/

theorem vecPop_does {port : Nat} {tok : Token} : Does t o F s (s.vecPop t o port tok) := by
  unfold State.vecPop
  refine Does.ite ?_ (popTok_does.trans modVFiring_does)
  refine popTok_does.trans (modVFiring_does.trans (modVec_does fun _ => ?_))
  exact .of_eq rfl rfl rfl rfl

theorem xferStep_does {x : Xfer} : Does t o F s (s.xferStep t o x) := by
  refine Does.trans (modVec_does fun _ => ?_) (modVFiring_does.trans (busy_does.trans issued_does))
  exact .of_eq rfl rfl rfl rfl

theorem xferEnd_does : Does t o F s (s.xferEnd t o) := by
  refine Does.trans (modVec_does fun _ => ?_) vecAdvance_does
  exact .of_eq rfl rfl rfl rfl

theorem execVld_acts {q : BitVec 2} {x : BitVec 4} (h : F.v = some d) : Leads (Acts F) s (execVld d q x s) := by
  unfold execVld
  split
  · exact .refl s
  next hc =>
  have hcur := cur_of_curVec hc
  dsimp only
  split
  · exact .refl s
  · split
    · exact .of_vec hcur malformed_does
    · refine Leads.ite (.of_vec hcur (vecPop_does.trans vecAdvance_does)) ?_
      refine Leads.ite (.of_vec hcur (vecPop_does.trans xferStep_does)) ?_
      refine Leads.ite (.of_vec hcur malformed_does) ?_
      split
      · exact .of_vec hcur freeze_does
      · refine Leads.ite (.of_vec hcur (vecPop_does.trans xferStep_does)) ?_
        refine .of_vec hcur (Does.trans ?_ xferEnd_does)
        split
        · exact vecPop_does.trans (markV_does h)
        · exact vecPop_does.trans (putV_does h)

theorem execVst_acts {v : VNum} {q : BitVec 1} {x : BitVec 4} : Leads (Acts F) s (execVst v q x s) := by
  unfold execVst
  split
  · exact .refl s
  next hc =>
  have hcur := cur_of_curVec hc
  dsimp only
  refine Leads.ite (.refl s) (Leads.ite (.of_vec hcur (pushTok_does.trans xferStep_does)) ?_)
  split
  · exact .of_vec hcur freeze_does
  · refine Leads.ite ?_ ?_
    · exact .of_vec hcur (pushTok_does.trans xferStep_does)
    · exact .of_vec hcur (pushTok_does.trans xferEnd_does)

theorem vecClose_acts {q : BitVec 1} {tok : Token} : Acts F s (s.vecClose q tok) := by
  unfold State.vecClose
  split
  · exact .refl s
  · next hc => exact .of_vec (cur_of_curVec hc) (Does.ite (pushTok_does.trans vecAdvance_does) (.refl s))

theorem execVend_acts : Leads (Acts F) s (execVend s) := by
  unfold execVend
  split
  · exact .refl s
  next hc =>
  have hcur := cur_of_curVec hc
  refine Leads.ite ?_ (.of_vec hcur endIssued_does)
  split
  · exact .of_vec hcur malformed_does
  · exact .of_vec hcur endIssued_does

end Sys2Proof.Machine

namespace Sys2Proof.Machine

/-! PROOFS. Every word changes no more than it names (R19, R152, R198). -/

variable {s s' : State} {t o k : Nat} {i : Instr}

/-- What a word names of the state of its unit: whether it stores, the register it writes, and what of the actor's own state. -/
def mods (i : Instr) : Mods where
  mem := mayWrite i
  reg := destReg i
  csr := match i with
    | .csrw .. | .eret => true
    | _ => false
  tseq := match i with
    | .tagseq .. => true
    | _ => false
  window := match i with
    | .collect .. => true
    | _ => false
  v := destV i
  p := destP i
  draws := match i with
    | .vcvt .. | .vquant .. => true
    | _ => false
  flags := match i with
    | .vcvt .. | .vquant .. | .vtagGet .. => true
    | _ => false

/-- A word of the scalar map (R90 to R92). -/
theorem scalarWord_acts (h : isScalar i = true) : Leads (Acts (mods i)) s (exec i s) := by
  cases i with
  | add | sub | adds | subs | mul | mulh | mulhu | div | divu | rem | remu | and | or | xor | andn | shl | shr | sra | rotl | min | max
  | minu | maxu | abs | clz | ctz | popc | cmpCc => exact scalar_acts rfl
  | fadd | fmul | fmin | fmax | fcvtSW | fcvtSWu | fcvtWS | fcvtWuS | fcmpCc | sel | fma => exact scalar_acts rfl
  | addi | andi | ori | xori | shli | shri | srai | li | lih | cmpiCc | bfx | bfxu | bfi => exact scalar_acts rfl
  | br => exact execBr_acts
  | bz | bnz => exact condBranch_acts
  | bk => exact execBk_acts
  | bkind => exact execBkind_acts
  | rep => exact execRep_acts
  | endCell => exact execEndCell_acts
  | ldB | ldH | ldW | ldD => exact onCore_acts fun _ => coreLoad_does rfl
  | stB | stH | stW | stD => exact onCore_acts fun _ => coreStore_does rfl
  | amo => exact onCore_acts fun _ => coreAmo_does rfl
  | owait => exact execOwait_acts
  | send => exact execSend_acts
  | sendstop => exact execSendstop_acts
  | senddone => exact execSenddone_acts
  | recv => exact execRecv_acts rfl
  | peek => exact execPeek_acts rfl
  | drop => exact execDrop_acts
  | steer => exact execSteer_acts
  | merge => exact execMerge_acts
  | collect => exact execCollect_acts rfl
  | amerge => exact execAmerge_acts
  | tagseq => exact execTagseq_acts rfl
  | repl => exact execRepl_acts
  | kout => exact execKout_acts
  | kwait => exact execKwait_acts
  | rfetch => exact execRfetch_acts rfl rfl
  | swait => exact execSwait_acts
  | dispatch => exact execDispatch_acts
  | cfgw => exact execCfgw_acts
  | csrr => exact execCsrr_acts rfl
  | csrw => exact execCsrw_acts rfl
  | crc32c => exact execCrc32c_acts rfl
  | trap => exact execTrap_acts
  | eret => exact execEret_acts rfl
  | halt => exact execHalt_acts
  | qpop => exact execQpop_acts rfl rfl
  | spawn => exact execSpawn_acts
  | amsg => exact execAmsg_acts
  | tlwait => exact execTlwait_acts
  | wrapCommit => exact execWrapCommit_acts rfl
  | vfSet => exact execVfSet_acts
  | _ => cases h

/-- A word of the map of some generation (R167). -/
theorem genWord_acts {gen : Nat} (h : inGen gen i = true) : Leads (Acts (mods i)) s (exec i s) := by
  unfold inGen at h
  split at h
  · exact scalar_acts rfl
  · exact microWord_acts rfl
  · exact microWord_acts rfl
  · exact trappedWord_acts
  · exact trappedWord_acts
  · exact scalarWord_acts h

/-- A word of the vector map (R206 to R221). -/
theorem vectorWord_acts (h : isVector i = true) : Leads (Acts (mods i)) s (exec i s) := by
  cases i with
  | vadd | vsub | vmul | vfma | vfms | vneg | vabs => exact vecOp_acts rfl (.inr fun _ _ => arith_flagless)
  | vmin | vmax => exact vecOp_acts rfl (.inr fun _ _ => minMaxOut_flagless)
  | vrcp | vrsqrt | vexp2 | vlog2 => exact vecOp_acts rfl (.inr fun _ _ => estimate_flagless)
  | vcmpCc => exact execVcmpCc_acts rfl
  | vsel => exact execVsel_acts rfl
  | vcvt | vquant => exact converts_acts rfl rfl rfl
  | vscale => exact execVscale_acts rfl
  | vred | vscan => exact vecOp_acts rfl (.inr fun _ _ => Flagless.ite rfl trivial)
  | vperm => exact vecOp_acts rfl (.inr fun _ _ => Flagless.ite trivial moveOut_flagless)
  | vrot => exact vecOp_acts rfl (.inr fun _ _ => moveOut_flagless)
  | vsplat => exact vecOp_acts rfl (.inr fun _ _ => Flagless.ite trivial moveOut_flagless)
  | vmov => exact execVmov_acts rfl
  | vand | vor | vxor => exact vecOp_acts rfl (.inr fun _ _ => bitwise_flagless)
  | vshl | vshr | vsra => exact vecOp_acts rfl (.inr fun _ _ => shiftOut_flagless)
  | vimad => exact execVimad_acts rfl
  | vtagSet => exact execVtagSet_acts rfl
  | vtagGet => exact execVtagGet_acts rfl rfl
  | vld => exact execVld_acts rfl
  | vst => exact execVst_acts
  | vstop | vdone => exact vecClose_acts
  | vend => exact execVend_acts
  | _ => cases h

end Sys2Proof.Machine

namespace Sys2Proof.Machine

/-! PROOFS. The frames of words on cells, on vector units and on control cores (R19, R141, R142, R147, R151 to R158, R192, R269). -/

variable {s s' : State} {t o k : Nat} {i : Instr}

/-! ## What a word names -/

theorem mods_draws (hcvt : ∀ d a f r x y p, i ≠ .vcvt d a f r x y p) (hquant : ∀ d a f r b p, i ≠ .vquant d a f r b p) :
    (mods i).draws = false := by
  unfold mods
  dsimp only
  split
  · exact (hcvt _ _ _ _ _ _ _ rfl).elim
  · exact (hquant _ _ _ _ _ _ rfl).elim
  · rfl

theorem mods_flags (hcvt : ∀ d a f r x y p, i ≠ .vcvt d a f r x y p) (hquant : ∀ d a f r b p, i ≠ .vquant d a f r b p)
    (hget : ∀ d a e, i ≠ .vtagGet d a e) : (mods i).flags = false := by
  unfold mods
  dsimp only
  split
  · exact (hcvt _ _ _ _ _ _ _ rfl).elim
  · exact (hquant _ _ _ _ _ _ rfl).elim
  · exact (hget _ _ _ rfl).elim
  · rfl

theorem mods_tseq (h : ∀ p q, i ≠ .tagseq p q) : (mods i).tseq = false := by
  unfold mods
  dsimp only
  split
  · exact (h _ _ rfl).elim
  · rfl

theorem mods_window (h : ∀ p q, i ≠ .collect p q) : (mods i).window = false := by
  unfold mods
  dsimp only
  split
  · exact (h _ _ rfl).elim
  · rfl

theorem mods_csr (heret : i ≠ .eret) (hcsrw : ∀ a r, i ≠ .csrw a r) : (mods i).csr = false := by
  unfold mods
  dsimp only
  split
  · exact (hcsrw _ _ rfl).elim
  · exact (heret rfl).elim
  · rfl

/-! ## Vector units -/

theorem mayWrite_of_vector (h : isVector i = true) : mayWrite i = false := by
  cases i with
  | vadd | vsub | vmul | vfma | vfms | vneg | vabs | vmin | vmax | vrcp | vrsqrt | vexp2 | vlog2 | vcmpCc | vsel | vcvt | vquant
  | vscale | vred | vscan | vperm | vrot | vsplat | vmov | vand | vor | vxor | vshl | vshr | vsra | vimad | vtagSet | vtagGet | vld
  | vst | vstop | vdone | vend => rfl
  | _ => cases h

theorem Does.cell_some {F : Mods} {c c' : Cell} (h : Does t o F s s') (hc : s.cell t o = some c) (hc' : s'.cell t o = some c') :
    c.Keeps F c' := by
  have hr := h.cell
  rw [hc, hc'] at hr
  cases hr with
  | some hk => exact hk

theorem Does.vec_some {F : Mods} {c c' : Vec} (h : Does t o F s s') (hc : s.vec t o = some c) (hc' : s'.vec t o = some c') :
    c.Keeps F c' := by
  have hr := h.vec
  rw [hc, hc'] at hr
  cases hr with
  | some hk => exact hk

theorem optionRel_none {α : Type} {R : α → α → Prop} {x y : Option α} (h : Option.Rel R x y) (hx : x = none) : y = none := by
  cases h with
  | none => rfl
  | some _ => cases hx

theorem vec_none_of_cell {c : Cell} (h : s.cell t o = some c) : s.vec t o = none := by
  obtain ⟨p, hp, hk⟩ := op_of_cell h
  rw [vec_eq_op, hp, Option.bind_some, Op.vec?, hk]

theorem cell_none_of_vec {c : Vec} (h : s.vec t o = some c) : s.cell t o = none := by
  obtain ⟨p, hp, hk⟩ := op_of_vec h
  rw [cell_eq_op, hp, Option.bind_some, Op.cell?, hk]

/-- A word on a vector unit leaves every cell. -/
theorem Does.cells_of_vec {F : Mods} {c : Vec} (h : Does t o F s s') (hc : s.vec t o = some c) (t' o' : Nat) :
    s'.cell t' o' = s.cell t' o' := by
  by_cases e : (t', o') = (t, o)
  · cases e
    exact (optionRel_none h.cell (cell_none_of_vec hc)).trans (cell_none_of_vec hc).symm
  · exact h.cells t' o' e

/-- A word on a cell leaves every vector unit. -/
theorem Does.vecs_of_cell {F : Mods} {c : Cell} (h : Does t o F s s') (hc : s.cell t o = some c) (t' o' : Nat) :
    s'.vec t' o' = s.vec t' o' := by
  by_cases e : (t', o') = (t, o)
  · cases e
    exact (optionRel_none h.vec (vec_none_of_cell hc)).trans (vec_none_of_cell hc).symm
  · exact h.vecs t' o' e

/-- Settles O9: each word of the vector map changes no more of its actor than it names. -/
theorem vectorFrame : Obligations.VectorFrame := by
  unfold Obligations.VectorFrame
  intro s s' t o c c' i hcur hi hx hc hc'
  have h : Does t o (mods i) s s' := ((vectorWord_acts hi).of hx).vec hcur
  have hk := h.vec_some hc hc'
  exact ⟨hk.v, hk.p, fun hcvt hquant => ⟨hk.x (mods_draws hcvt hquant), fun hget => hk.flags (mods_flags hcvt hquant hget)⟩, h.vecs,
    h.cells_of_vec hc, h.cores, h.mem (mayWrite_of_vector hi)⟩

end Sys2Proof.Machine

namespace Sys2Proof.Machine

/-! PROOFS. The frames of words on cells and on control cores: memory (R147, R152 to R158, R268, R269). -/

variable {s s' : State} {t o k : Nat} {i : Instr}

/-! ## Memory -/

/-- A byte elsewhere stays, whatever form the memory has. -/
theorem memGet_memPut_other {m : List Host.Cell} {j a : Nat} {b : Byte} (h : a ≠ j) : memGet (memPut m j b) a = memGet m a := by
  induction m with
  | nil =>
    rw [memPut]
    split
    · rfl
    · exact (memGet.eq_2 a j b []).trans (if_neg (Ne.symm h))
  | cons c m ih =>
    obtain ⟨x, d⟩ := c
    rw [memPut]
    split
    · split
      · rfl
      · rw [memGet, if_neg (Ne.symm h)]
    · split
      · next he =>
        subst he
        split
        · rw [memGet, if_neg (Ne.symm h)]
        · rw [memGet, memGet, if_neg (Ne.symm h), if_neg (Ne.symm h)]
      · rw [memGet, memGet, ih]

theorem sameBut_memWrite {m : List Host.Cell} {j n v : Nat} : sameBut m (memWrite m j n v) j n := by
  induction n generalizing m j v with
  | zero => exact fun _ _ => rfl
  | succ n ih =>
    intro a ha
    rw [memWrite, ih a (by omega), memGet_memPut_other (by omega)]

theorem sameBut_writeLoc {u : State} {l : Loc} {n v : Nat} (h : u.mem = s.mem) : sameBut s.mem (u.writeLoc l n v).mem l.key n :=
  h ▸ sameBut_memWrite

theorem sameBut_refl {m : List Host.Cell} {j n : Nat} : sameBut m m j n := fun _ _ => rfl

/-- `m` is the memory of `s`, with a store of `n` bytes at `va` of a context performed or not. -/
def Moves (s : State) (lctx va n : Nat) (m : List Host.Cell) : Prop :=
  m = s.mem ∨ ∃ l v, s.xlateNow lctx va n 1 = .at_ l ∧ m = memWrite s.mem l.key n v

theorem Moves.frame {lctx va n : Nat} {m : List Host.Cell} (h : Moves s lctx va n m) :
    (∀ l, s.xlateNow lctx va n 1 = .at_ l → sameBut s.mem m l.key n) ∧ ((∀ l, s.xlateNow lctx va n 1 ≠ .at_ l) → m = s.mem) := by
  rcases h with rfl | ⟨l, v, hl, rfl⟩
  · exact ⟨fun _ _ => sameBut_refl, fun _ => rfl⟩
  · refine ⟨fun l' hl' => ?_, fun hno => (hno l hl).elim⟩
    cases hl.symm.trans hl'
    exact sameBut_memWrite

theorem touchVa_writeVa_moves {lctx va n va' n' v : Nat} : Moves s lctx va n ((s.touchVa lctx va' n').writeVa lctx va n v).mem := by
  obtain ⟨q, hq⟩ := touchVa_cases (s := s) (l := lctx) (n := n') va'
  rw [hq]
  unfold State.writeVa
  split
  · next l hl =>
    obtain ⟨q', hq'⟩ := touch_cases (s := ({ s with power := q } : State).writeLoc l n v) l
    rw [hq']
    exact .inr ⟨l, v, hl, rfl⟩
  · exact .inl rfl

theorem popQueue_moves {lctx n : Nat} {nb : Bool} {x : Ctx} (hx : s.ctx lctx = some x) :
    Moves s lctx (x.wqt + 32 * n + 0x10) 4 (s.popQueue lctx n nb).2.mem := by
  unfold State.popQueue
  rw [hx]
  dsimp only
  split
  · exact .inl rfl
  · split
    · split
      · exact .inl rfl
      · exact touchVa_writeVa_moves
    · split
      · exact .inl rfl
      · split
        · exact .inl rfl
        · exact .inl rfl

theorem cellQpop_moves {d : Dst} {nb : Bool} {n : Nat} {x : Ctx} (hx : s.ctx (s.lctxOf t) = some x) :
    Moves s (s.lctxOf t) (x.wqt + 32 * n + 0x10) 4 (s.cellQpop t o d nb n).mem := by
  have hpop := popQueue_moves (n := n) (nb := nb) hx
  have hstay {z : State} (h : z.mem = s.mem) : Moves s (s.lctxOf t) (x.wqt + 32 * n + 0x10) 4 z.mem := .inl h
  unfold State.cellQpop
  split
  · exact hstay rfl
  · exact hstay cellScalar_quiet.mem
  · next v u hp =>
    rw [hp] at hpop
    dsimp only
    split
    · exact hstay cellScalar_quiet.mem
    · rw [cellScalar_quiet.mem]
      exact hpop
  · next v u hp =>
    rw [hp] at hpop
    dsimp only
    split
    · exact hstay rfl
    · rw [cellScalar_quiet.mem]
      exact hpop

theorem accessTrap_mem {code : BitVec 7} {e : Dbl} : (s.accessTrap k code e).mem = s.mem := (dropMiss_calm (m := false)).mem rfl

theorem coreQpop_moves {d : Dst} {nb : Bool} {n : Nat} {x : Ctx} (hx : s.ctx (s.core k).lctx = some x) :
    Moves s (s.core k).lctx (x.wqt + 32 * n + 0x10) 4 (s.coreQpop k d nb n).mem := by
  have hpop := popQueue_moves (n := n) (nb := nb) hx
  have hstay {z : State} (h : z.mem = s.mem) : Moves s (s.core k).lctx (x.wqt + 32 * n + 0x10) 4 z.mem := .inl h
  unfold State.coreQpop
  split
  · exact hstay rfl
  · dsimp only
    split
    · exact hstay rfl
    · split
      · exact hstay rfl
      · exact hstay accessTrap_mem
      · next v u hp =>
        rw [hp] at hpop
        exact hpop
      · next v u hp =>
        rw [hp] at hpop
        rw [accessTrap_mem]
        exact hpop

/-- A line that is drained writes its own bytes. -/
theorem drainLine_get {x : WLine} {a : Nat} (h : ∀ y ∈ x.bytes, a ≠ x.line + y.1) : memGet (s.drainLine t x).mem a = memGet s.mem a := by
  have hput (l : List (Nat × Byte)) (m : List Host.Cell) (hl : ∀ y ∈ l, a ≠ x.line + y.1) :
      memGet (l.foldl (fun m (y : Nat × Byte) => memPut m (x.line + y.1) y.2) m) a = memGet m a := by
    induction l generalizing m with
    | nil => rfl
    | cons y l ih =>
      exact (ih _ fun z hz => hl z (List.mem_cons_of_mem _ hz)).trans (memGet_memPut_other (hl y (List.mem_cons_self ..)))
  obtain ⟨q, hq⟩ := touchKey_cases (s := { s with mem := x.bytes.foldl (fun m (y : Nat × Byte) => memPut m (x.line + y.1) y.2) s.mem })
    x.line
  unfold State.drainLine
  dsimp only
  rw [hq]
  split
  · exact hput _ _ h
  · exact hput _ _ h

theorem drainAll_get {K : Task} {a : Nat} (hk : s.task t = some K) (h : ∀ w ∈ K.wcb, ∀ x ∈ w.bytes, a ≠ w.line + x.1) :
    memGet (s.drainAll t).mem a = memGet s.mem a := by
  have hfold (l : List WLine) (u : State) (hl : ∀ w ∈ l, ∀ x ∈ w.bytes, a ≠ w.line + x.1) :
      memGet (l.foldl (fun s w => s.drainLine t w) u).mem a = memGet u.mem a := by
    induction l generalizing u with
    | nil => rfl
    | cons w l ih =>
      exact (ih _ fun z hz => hl z (List.mem_cons_of_mem _ hz)).trans (drainLine_get (hl w (List.mem_cons_self ..)))
  unfold State.drainAll State.drain
  rw [hk]
  exact hfold _ _ fun w hw => h w (List.mem_filter.mp hw).1

theorem wrapCommit_get {K : Task} {a : Nat} (hcur : s.cur = .cell t o) (hk : s.task t = some K)
    (h : ∀ w ∈ K.wcb, ∀ x ∈ w.bytes, a ≠ w.line + x.1) (hx : execWrapCommit s = .next s') : memGet s'.mem a = memGet s.mem a := by
  unfold execWrapCommit at hx
  split at hx
  · cases hx; rfl
  · next t' o' c f hc =>
    cases hcur.symm.trans (cur_of_curFiring hc)
    split at hx
    · cases hx
      rw [cellAdvance_quiet.mem]
    · split at hx
      · cases hx; rfl
      · cases hx
        rw [cellAdvance_quiet.mem]
        exact drainAll_get hk h

/-! ## Stores, atomics and records of cores -/

theorem coreStore_mem {v a : Src} {off : Half} {n : Nat} :
    (∀ l, s.coreAt k ((s.core k).addr a off) n 1 = .loc l → sameBut s.mem (s.coreStore k v a off n).mem (Loc.core k l).key n) ∧
    ((∀ l, s.coreAt k ((s.core k).addr a off) n 1 ≠ .loc l) → (s.coreStore k v a off n).mem = s.mem) := by
  unfold State.coreStore
  dsimp only
  split
  · exact ⟨fun _ _ => sameBut_refl, fun _ => rfl⟩
  · split
    · next h => exact ⟨fun l hl => (nomatch h.symm.trans hl), fun _ => accessTrap_mem⟩
    · next h => exact ⟨fun l hl => (nomatch h.symm.trans hl), fun _ => (addMiss_calm (m := false)).mem rfl⟩
    · next q h =>
      refine ⟨fun l hl => ?_, fun hno => (hno q h).elim⟩
      cases h.symm.trans hl
      exact sameBut_memWrite
    · next h => exact ⟨fun l hl => (nomatch h.symm.trans hl), fun _ => (mgmtWrite_calm (m := false)).mem rfl⟩
    · next q h => exact ⟨fun l hl => (nomatch h.symm.trans hl), fun _ => (touch_calm (m := false) (s := s.bumpId)).mem rfl⟩

theorem coreAmo_mem {fn : RmwFn} {d : SReg} {a b : Src} {w ovt : Bool} :
    (∀ l, s.coreAt k ((s.core k).src a) (if w then 8 else 4) 2 = .dev l →
      sameBut s.mem (s.coreAmo k fn d a b w ovt).mem l.key (if w then 8 else 4)) ∧
    ((∀ l, s.coreAt k ((s.core k).src a) (if w then 8 else 4) 2 ≠ .dev l) → (s.coreAmo k fn d a b w ovt).mem = s.mem) := by
  have hstay {z : State} {l : Loc} {n : Nat} (h : z.mem = s.mem) : sameBut s.mem z.mem l.key n := h ▸ sameBut_refl
  unfold State.coreAmo
  dsimp only
  generalize (if w then 8 else 4) = n
  split
  · exact ⟨fun _ _ => hstay rfl, fun _ => rfl⟩
  · split
    · exact ⟨fun _ _ => hstay accessTrap_mem, fun _ => accessTrap_mem⟩
    · split
      · exact ⟨fun _ _ => hstay accessTrap_mem, fun _ => accessTrap_mem⟩
      · exact ⟨fun _ _ => hstay ((addMiss_calm (m := false)).mem rfl), fun _ => (addMiss_calm (m := false)).mem rfl⟩
      · next q h =>
        split
        · exact ⟨fun _ _ => hstay rfl, fun _ => rfl⟩
        · split
          · exact ⟨fun _ _ => hstay rfl, fun _ => rfl⟩
          · refine ⟨fun l hl => ?_, fun hno => (hno q h).elim⟩
            cases h.symm.trans hl
            rw [(coreNext_calm (m := false)).mem rfl, (coreSpan_calm (m := false)).mem rfl, (coreLoads_calm (m := false)).mem rfl,
              (touch_calm (m := false)).mem rfl]
            exact sameBut_memWrite
      · exact ⟨fun _ _ => hstay accessTrap_mem, fun _ => accessTrap_mem⟩

theorem rfetch_mem {d : SReg} {a : Src} (hcur : s.cur = .core k) (hx : execRfetch d a s = .next s') :
    sameBut s.mem s'.mem (Loc.core k (((s.core k).src a).extractLsb' 0 18).toNat).key 32 := by
  have hstay {z : State} (h : z.mem = s.mem) : sameBut s.mem z.mem (Loc.core k (((s.core k).src a).extractLsb' 0 18).toNat).key 32 :=
    h ▸ sameBut_refl
  unfold execRfetch at hx
  rw [State.onCore, hcur] at hx
  dsimp only at hx
  split at hx
  · cases hx; exact hstay rfl
  · split at hx
    · cases hx; exact hstay accessTrap_mem
    · split at hx
      · cases hx; exact hstay rfl
      · cases hx
        rw [coreWrite_rest.1]
        exact sameBut_writeLoc rfl

/-! ## The frames -/

/-- Where the control registers of a core and the clock stand, every control register reads the same. -/
theorem Core.SameCsr.read {j : Nat} (h : (s.core j).SameCsr (s'.core j)) (hclock : s'.clock = s.clock) (r : BitVec 12) :
    s'.csr j r = s.csr j r := by
  unfold State.csr State.tai
  dsimp only
  rw [h.status, h.epc, h.cause, h.eval, h.tvec, h.ctxk, h.scratch, h.cycle, hclock]

/-- Settles O7: each word on a cell changes no more of its actor than it names. -/
theorem cellFrame : Obligations.CellFrame := by
  unfold Obligations.CellFrame
  intro s s' t o c c' gen i hcur hi hx hc hc'
  have hgen : inGen gen i = true := (Bool.and_eq_true_iff.mp hi).1
  have h : Does t o (mods i) s s' := ((genWord_acts hgen).of hx).cell hcur
  have hk := h.cell_some hc hc'
  refine ⟨hk.reg, rfl, fun ht => hk.tseq (mods_tseq ht), fun hw => ⟨hk.next (mods_window hw), hk.window (mods_window hw)⟩, h.cells,
    h.vecs_of_cell hc, h.cores, h.mem, ?_, ?_⟩
  · rintro d nb n x rfl hctx
    have hq : execQpop d nb n s = .next s' := hx
    rw [execQpop, hcur] at hq
    cases hq
    exact (cellQpop_moves hctx).frame
  · rintro rfl K a hK hno
    exact wrapCommit_get hcur hK hno hx

/-- Settles O8: each word on a control core changes no more of its core than it names. -/
theorem coreFrame : Obligations.CoreFrame := by
  unfold Obligations.CoreFrame
  intro s s' k i hcur hi hx
  have hscalar : isScalar i = true := (Bool.and_eq_true_iff.mp (Bool.and_eq_true_iff.mp hi).1).1
  have h : CoreDoes k (mods i) s s' := ((scalarWord_acts hscalar).of hx).core hcur
  have hon {g : Nat → State} (he : (.next (s.onCore g) : Out) = .next s') : s' = g k := by
    rw [State.onCore, hcur] at he
    cases he
    rfl
  refine ⟨h.core.reg, rfl, fun heret hcsrw => ?_, fun j hj => ⟨(h.others j hj).regs, (h.others j hj).csr.read h.clock⟩,
    fun t o => ⟨h.cell t o, h.vec t o⟩, h.mem, ?_, ?_, ?_, ?_⟩
  · exact (h.core.csr (mods_csr heret hcsrw)).imp_left fun hs => hs.read h.clock
  · intro w hw v a off hiw
    simp only [storeWords, List.mem_cons, List.not_mem_nil, or_false] at hw
    rcases hw with rfl | rfl | rfl | rfl
    all_goals
      cases hiw
      rw [hon hx]
      exact coreStore_mem
  · rintro fn d a b w ovt rfl
    rw [hon hx]
    exact coreAmo_mem
  · rintro d a rfl
    exact rfetch_mem hcur hx
  · rintro d nb n x rfl hctx
    have hq : execQpop d nb n s = .next s' := hx
    rw [execQpop, hcur] at hq
    cases hq
    exact (coreQpop_moves hctx).frame

end Sys2Proof.Machine

namespace Sys2Proof.Machine

/-! PROOFS. Every instruction of the device, by what it may do to memory and to the control cores (R10, R154, R308, R375, R406). -/

variable {s u : State} {t o k : Nat} {i : Instr}

/-! ## The kinds of instructions -/

/-- A word that a cell, a vector unit or a control core fetches. -/
def isWord (i : Instr) : Bool := isScalar i || isVector i || inGen 1 i || inGen 2 i

theorem isWord_iff : isWord i = true ↔ isScalar i = true ∨ isVector i = true ∨ ∃ gen, inGen gen i = true := by
  constructor
  · intro h
    unfold isWord at h
    rcases Bool.or_eq_true_iff.mp h with h | h
    · rcases Bool.or_eq_true_iff.mp h with h | h
      · exact (Bool.or_eq_true_iff.mp h).imp_right .inl
      · exact .inr (.inr ⟨1, h⟩)
    · exact .inr (.inr ⟨2, h⟩)
  · rintro (h | h | ⟨gen, h⟩)
    · rw [isWord, h]; rfl
    · rw [isWord, h, Bool.or_true]; rfl
    · unfold inGen at h
      split at h
      · rfl
      · rfl
      · rfl
      · rfl
      · rfl
      · rw [isWord, h]; rfl

theorem word_acts (h : isWord i = true) : Leads (Acts (mods i)) s (exec i s) := by
  rcases isWord_iff.mp h with h | h | ⟨gen, h⟩
  · exact scalarWord_acts h
  · exact vectorWord_acts h
  · exact genWord_acts h

/-- No word, and no step that `mayWrite` or `mayWriteCores` names. -/
def isQuiet (i : Instr) : Bool := !(isWord i || mayWrite i || mayWriteCores i)

/-- A step of the device that `mayWrite` does not name leaves every byte of memory (R10). -/
theorem exec_steady (h : isQuiet i = true) (hx : exec i s = .next u) : Steady s u := by
  cases i with
  | mxCfg => exact execMxCfg_steady.of hx
  | mxLoadw => exact execMxLoadw_steady.of hx
  | mxSwap => exact execMxSwap_steady.of hx
  | mxArm => exact execMxArm_steady.of hx
  | mxScale => exact execMxScale_steady.of hx
  | mxZero => exact execMxZero_steady.of hx
  | cpArm => exact execCpArm_steady.of hx
  | cpFire => exact execCpFire_steady.of hx
  | bufWait => exact execBufWait_steady.of hx
  | bufSet => exact execBufSet_steady.of hx
  | tlWait => exact execTlWait_steady.of hx
  | wkSpec => exact execWkSpec_steady.of hx
  | wkKerf => exact execWkKerf_steady.of hx
  | wkAudit => exact execWkAudit_steady.of hx
  | kfCtl => exact execKfCtl_steady.of hx
  | spCfg => exact execSpCfg_steady.of hx
  | spRun => exact execSpRun_steady.of hx
  | bkRmw => exact execBkRmw_steady.of hx
  | bkRed => exact execBkRed_steady.of hx
  | bkApply => exact execBkApply_steady.of hx
  | bkFill => exact execBkFill_steady.of hx
  | bkColl => exact execBkColl_steady.of hx
  | nodeCond => exact execNodeCond_steady.of hx
  | nodeLoop => exact execNodeLoop_steady.of hx
  | nodeJoin => exact execNodeJoin_steady.of hx
  | nodeCall => exact execNodeCall_steady.of hx
  | nodeWait => exact execNodeWait_steady.of hx
  | nodeSignal => exact execNodeSignal_steady.of hx
  | nodeWrap => exact execNodeWrap_steady.of hx
  | nodeEnd => exact execNodeEnd_steady.of hx
  | createCtx => exact execCreateCtx_steady.of hx
  | destroyCtx => exact execDestroyCtx_steady.of hx
  | createQueue => exact execCreateQueue_steady.of hx
  | registerObj => exact execRegisterObj_steady.of hx
  | pageReply => exact execPageReply_steady.of hx
  | pause => exact execPause_steady.of hx
  | resume => exact execResume_steady.of hx
  | knotSet => exact execKnotSet_steady.of hx
  | knotClear => exact execKnotClear_steady.of hx
  | pstep => exact execPstep_steady.of hx
  | clockOffset => exact execClockOffset_steady.of hx
  | keep => exact execKeep_steady.of hx
  | tlClear => exact execTlClear_steady.of hx
  | actorFiringBegin => exact execActorFiringBegin_steady.of hx
  | defaultTokenForward => exact execDefaultTokenForward_steady.of hx
  | poisonForward => exact execPoisonForward_steady.of hx
  | trappedResultArrive => exact execTrappedResultArrive_steady.of hx
  | linkTransfer => exact execLinkTransfer_steady.of hx
  | slotTableApply => exact execSlotTableApply_steady.of hx
  | replyTokenDeliver => exact execReplyTokenDeliver_steady.of hx
  | loadReadIssue => exact execLoadReadIssue_steady.of hx
  | readDelivery => exact execReadDelivery_steady.of hx
  | memoryNodeDone => exact execMemoryNodeDone_steady.of hx
  | fenceFire => exact execFenceFire_steady.of hx
  | streamPrefetch => exact execStreamPrefetch_steady.of hx
  | streamLineExpiry => exact execStreamLineExpiry_steady.of hx
  | pageWalkStart => exact execPageWalkStart_steady.of hx
  | pageWalkComplete => exact execPageWalkComplete_steady.of hx
  | splineTileStore => exact execSplineTileStore_steady.of hx
  | splineReconstruct => exact execSplineReconstruct_steady.of hx
  | coverageLRecord => exact execCoverageLRecord_steady.of hx
  | splineDone => exact execSplineDone_steady.of hx
  | matrixTokenTake => exact execMatrixTokenTake_steady.of hx
  | matrixOutputPush => exact execMatrixOutputPush_steady.of hx
  | mxLoadwComplete => exact execMxLoadwComplete_steady.of hx
  | enginePacketArrive => exact execEnginePacketArrive_steady.of hx
  | copyTrigger => exact execCopyTrigger_steady.of hx
  | copyFiringComplete => exact execCopyFiringComplete_steady.of hx
  | fbBufferLoad => exact execFbBufferLoad_steady.of hx
  | fbScanStep => exact execFbScanStep_steady.of hx
  | fbDenseStep => exact execFbDenseStep_steady.of hx
  | fbLookupStep => exact execFbLookupStep_steady.of hx
  | fbIsectStep => exact execFbIsectStep_steady.of hx
  | fbUnionStep => exact execFbUnionStep_steady.of hx
  | fbFilterStep => exact execFbFilterStep_steady.of hx
  | fbRepeatStep => exact execFbRepeatStep_steady.of hx
  | fbReduceStep => exact execFbReduceStep_steady.of hx
  | fbWriteStep => exact execFbWriteStep_steady.of hx
  | freezeRecord => exact execFreezeRecord_steady.of hx
  | stuckTimeout => exact execStuckTimeout_steady.of hx
  | pauseFiringLimit => exact execPauseFiringLimit_steady.of hx
  | phaseStep => exact execPhaseStep_steady.of hx
  | readyQueueSelect => exact execReadyQueueSelect_steady.of hx
  | wrapTokenArrive => exact execWrapTokenArrive_steady.of hx
  | ieee1588Timestamp => exact execIeee1588Timestamp_steady.of hx
  | pstepStrobe => exact execPstepStrobe_steady.of hx
  | powerLeverEngage => exact execPowerLeverEngage_steady.of hx
  | powerLeverRelease => exact execPowerLeverRelease_steady.of hx
  | hbmPcPowerDown => exact execHbmPcPowerDown_steady.of hx
  | notifyWrite => exact execNotifyWrite_steady.of hx
  | coreWake => exact execCoreWake_steady.of hx
  | mgmtRegisterWrite => exact execMgmtRegisterWrite_steady.of hx
  | powerFail => exact execPowerFail_steady.of hx
  | powerFailFiringSave => exact execPowerFailFiringSave_steady.of hx
  | heartwoodWriteEnd => exact execHeartwoodWriteEnd_steady.of hx
  | eccCorrectable => exact execEccCorrectable_steady.of hx
  | cfgParityError => exact execCfgParityError_steady.of hx
  | slotPointerAdvance => exact execSlotPointerAdvance_steady.of hx
  | powerCapMet => exact execPowerCapMet_steady.of hx
  | pageRequestInterfaceResponse => exact execPageRequestInterfaceResponse_steady.of hx
  | flitRetry => exact execFlitRetry_steady.of hx
  | correctableErrorAgeOut => exact execCorrectableErrorAgeOut_steady.of hx
  | _ => cases h

/-- The instruction is unfolded first: the type checker is slow on the body of `execCopyTransfer`. -/
theorem exec_copyTransfer_kept {x y : Nat} (hx : exec (.copyTransfer x y) s = .next u) : Kept s u := by
  have he : execCopyTransfer x y s = .next u := hx
  exact execCopyTransfer_kept.of he

/-- A step that `mayWrite` names and that is no word leaves the registers of the control cores, but for a cold reset. -/
theorem exec_kept (h : mayWrite i = true) (hw : isWord i = false) (hc : mayWriteCores i = false)
    (hx : exec i s = .next u) : Kept s u := by
  cases i with
  | amo | stB | stH | stW | stD | rfetch | qpop | wrapCommit => cases hw
  | coldReset => cases hc
  | mxDrain => exact execMxDrain_kept.of hx
  | mxStat => exact execMxStat_kept.of hx
  | tlInc => exact execTlInc_kept.of hx
  | nodeTask => exact execNodeTask_kept.of hx
  | launch => exact execLaunch_kept.of hx
  | reqSignal => exact execReqSignal_kept.of hx
  | reqWait => exact execReqWait_kept.of hx
  | cancel => exact execCancel_kept.of hx
  | revokePasid => exact execRevokePasid_kept.of hx
  | invalidate => exact execInvalidate_kept.of hx
  | aqiReset => exact execAqiReset_kept.of hx
  | restore => exact execRestore_kept.of hx
  | storeIssue => exact execStoreIssue_kept.of hx
  | storeAck => exact execStoreAck_kept.of hx
  | rmwWrite => exact execRmwWrite_kept.of hx
  | fullEmptyRelease => exact execFullEmptyRelease_kept.of hx
  | wcbIdleFlush => exact execWcbIdleFlush_kept.of hx
  | walkerBlockBegin => exact execWalkerBlockBegin_kept.of hx
  | walkerPointIssue => exact execWalkerPointIssue_kept.of hx
  | walkerEnd => exact execWalkerEnd_kept.of hx
  | engineReply => exact execEngineReply_kept.of hx
  | copyTransfer => exact exec_copyTransfer_kept hx
  | bankLineOperation => exact execBankLineOperation_kept.of hx
  | pauseComplete => exact execPauseComplete_kept.of hx
  | taskComplete => exact execTaskComplete_kept.of hx
  | wrapComplete => exact execWrapComplete_kept.of hx
  | joinerPlacementBegin => exact execJoinerPlacementBegin_kept.of hx
  | placementEnd => exact execPlacementEnd_kept.of hx
  | pageHashComplete => exact execPageHashComplete_kept.of hx
  | lookaheadNodeRead => exact execLookaheadNodeRead_kept.of hx
  | launchComplete => exact execLaunchComplete_kept.of hx
  | stopInstant => exact execStopInstant_kept.of hx
  | deadlineFc => exact execDeadlineFc_kept.of hx
  | spanFrameReceive => exact execSpanFrameReceive_kept.of hx
  | spanAckReceive => exact execSpanAckReceive_kept.of hx
  | spanAccessTimeout => exact execSpanAccessTimeout_kept.of hx
  | functionLevelReset => exact execFunctionLevelReset_kept.of hx
  | eccUncorrectable => exact execEccUncorrectable_kept.of hx
  | deadlineClockAdvance => exact execDeadlineClockAdvance_kept.of hx
  | coreStorePerformed => exact execCoreStorePerformed_kept.of hx
  | _ => cases h

end Sys2Proof.Machine

namespace Sys2Proof.Machine

/-! PROOFS. The frame of the whole machine (R10, R154, R308, R375, R406). -/

variable {s s' u : State} {k : Nat} {i : Instr} {F : Mods}

/-- What a word that does not store leaves: every byte of memory. -/
theorem Acts.mem (h : Acts F s u) (hm : F.mem = false) : u.mem = s.mem := by
  unfold Acts at h
  split at h
  · exact h.mem hm
  · exact h.mem hm
  · exact h.mem hm
  · rw [h]

/-- What a word without a destination leaves: the general registers of every core. -/
theorem Acts.regs (h : Acts F s u) (hr : F.reg = none) (k : Nat) : (u.core k).regs = (s.core k).regs := by
  unfold Acts at h
  split at h
  · rw [State.core, State.core, h.cores]
  · rw [State.core, State.core, h.cores]
  · next j _ =>
    by_cases hk : k = j
    · rw [hk]; exact h.core.regs hr
    · exact (h.others k hk).regs
  · rw [h]

theorem Kept.regs (h : Kept s u) (k : Nat) : (u.core k).regs = (s.core k).regs := (forall₂_getD h.cores (.refl _) k).regs

theorem execCoreLoadReturn_mem {n : Nat} {ecc : Bool} (hx : execCoreLoadReturn k n ecc s = .next u) : u.mem = s.mem := by
  unfold execCoreLoadReturn at hx
  dsimp only at hx
  split at hx
  · cases hx; rfl
  · split at hx
    · cases hx; rfl
    · split at hx
      · cases hx; rfl
      · cases hx; rfl

theorem execFsrEntry_mem (hx : execFsrEntry s = .next u) : u.mem = s.mem := by
  unfold execFsrEntry at hx
  split at hx
  · dsimp only at hx
    split at hx
    · cases hx; rfl
    · split at hx
      · cases hx; rfl
      · cases hx; rfl
  · cases hx; rfl

theorem destReg_of_vector (h : isVector i = true) : destReg i = none := by
  cases i with
  | vadd | vsub | vmul | vfma | vfms | vneg | vabs | vmin | vmax | vrcp | vrsqrt | vexp2 | vlog2 | vcmpCc | vsel | vcvt | vquant
  | vscale | vred | vscan | vperm | vrot | vsplat | vmov | vand | vor | vxor | vshl | vshr | vsra | vimad | vtagSet | vtagGet | vld
  | vst | vstop | vdone | vend => rfl
  | _ => cases h

theorem isQuiet_of (hw : isWord i = false) (hm : mayWrite i = false) (hc : mayWriteCores i = false) : isQuiet i = true := by
  rw [isQuiet, hw, hm, hc]
  rfl

/-- The steps that may change registers of control cores, and that are no words. -/
theorem mayWriteCores_cases (h : mayWriteCores i = true) : (∃ k n ecc, i = .coreLoadReturn k n ecc) ∨ i = .fsrEntry ∨ i = .coldReset := by
  unfold mayWriteCores at h
  split at h
  · exact .inl ⟨_, _, _, rfl⟩
  · exact .inr (.inl rfl)
  · exact .inr (.inr rfl)
  · cases h

/-- A step that is no word, and that changes no register of a control core. -/
theorem exec_device_kept (hw : isWord i = false) (hc : mayWriteCores i = false) (hx : exec i s = .next u) : Kept s u := by
  cases hm : mayWrite i with
  | true => exact exec_kept hm hw hc hx
  | false => exact (exec_steady (isQuiet_of hw hm hc) hx).kept

theorem exec_mem (hm : mayWrite i = false) (hx : exec i s = .next u) : u.mem = s.mem := by
  cases hw : isWord i with
  | true => exact ((word_acts hw).of hx).mem hm
  | false =>
    cases hc : mayWriteCores i with
    | false => exact (exec_steady (isQuiet_of hw hm hc) hx).mem
    | true =>
      rcases mayWriteCores_cases hc with ⟨j, n, ecc, rfl⟩ | rfl | rfl
      · exact execCoreLoadReturn_mem hx
      · exact execFsrEntry_mem hx
      · cases hm

/-- Settles O10: words by what they name, all other steps by what they are made of. -/
theorem machineFrame : Obligations.MachineFrame := by
  unfold Obligations.MachineFrame
  intro s s' i hx
  refine ⟨fun hm => exec_mem hm hx, fun hs hg hc k => ?_⟩
  cases hw : isWord i with
  | false => exact (exec_device_kept hw hc hx).regs k
  | true =>
    rcases isWord_iff.mp hw with h | h | ⟨gen, h⟩
    · cases hs.symm.trans h
    · exact ((vectorWord_acts h).of hx).regs (destReg_of_vector h) k
    · cases (hg gen).symm.trans h

end Sys2Proof.Machine

namespace Sys2Proof.Machine

/-! PROOFS. Every step keeps the invariant (R6, R152). -/

variable {s s' u w : State} {k : Nat} {i : Instr} {F : Mods}

/-! ## The invariant, core by core -/

/-- What the invariant says of a core. -/
def Core.Sound (c : Core) : Prop := c.regs.length = 16 ∧ c.status &&& ~~~(7 : Dbl) = 0 ∧ c.tvec &&& ~~~(0x3FFFC : Dbl) = 0

theorem resetCore_sound : resetCore.Sound := ⟨rfl, rfl, rfl⟩

theorem Core.Like.sound {c c' : Core} (h : c.Like c') (hc : c.Sound) : c'.Sound := by
  obtain ⟨hlen, hstatus, htvec⟩ := hc
  exact ⟨h.regs ▸ hlen, h.status hstatus, h.tvec htvec⟩

theorem Core.Moves.sound {c c' : Core} (h : c.Moves F c') (hc : c.Sound) : c'.Sound := by
  obtain ⟨hlen, hstatus, htvec⟩ := hc
  exact ⟨h.length.trans hlen, h.status hstatus, h.tvec htvec⟩

theorem sound_iff : (∀ c ∈ s.cores, c.Sound) ↔ ∀ k, (s.core k).Sound := by
  constructor
  · intro h k
    unfold State.core
    rw [List.getD_eq_getElem?_getD]
    cases hk : s.cores[k]? with
    | none => exact resetCore_sound
    | some c => exact h c (List.mem_of_getElem? hk)
  · intro h c hc
    obtain ⟨k, hk, rfl⟩ := List.getElem_of_mem hc
    have := h k
    rwa [State.core, List.getD_eq_getElem?_getD, List.getElem?_eq_getElem hk] at this

theorem State.Inv.sound (h : s.Inv) (k : Nat) : (s.core k).Sound := sound_iff.mp h.core k

/-- A state whose memory, contexts and cores are in order. -/
theorem inv_of (hm : u.memOk) (hx : (u.ctxs.map Prod.fst).Nodup) (hl : u.cores.length = 16) (hc : ∀ k, (u.core k).Sound) : u.Inv :=
  ⟨hm, hx, hl, sound_iff.mpr hc⟩

/-- From `s` to `u` the invariant is kept. -/
def Safe (s u : State) : Prop := s.Inv → u.Inv

theorem Safe.trans (h : Safe s u) (h' : Safe u w) : Safe s w := h' ∘ h

theorem Kept.safe (h : Kept s u) : Safe s u := fun hs =>
  inv_of (h.mem hs.mem) (h.ctxs hs.ctxs) (h.cores.length_eq ▸ hs.cores) fun k =>
    (forall₂_getD h.cores (.refl _) k : Core.Like (s.core k) (u.core k)).sound (hs.sound k)

theorem Safe.of_eq (hm : u.mem = s.mem) (hx : u.ctxs = s.ctxs) (hc : u.cores = s.cores) : Safe s u := (Steady.of_eq hm hx hc).kept.safe

theorem CoreDoes.safe (h : CoreDoes k F s u) : Safe s u := fun hs => by
  refine inv_of (h.memOk hs.mem) (h.ctxs hs.ctxs) (h.length.trans hs.cores) fun j => ?_
  by_cases hj : j = k
  · exact hj ▸ h.core.sound (hs.sound k)
  · exact ((h.others j hj).moves (F := F)).sound (hs.sound j)

theorem Acts.safe (h : Acts F s u) : Safe s u := by
  unfold Acts at h
  split at h
  · exact h.kept.safe
  · exact h.kept.safe
  · exact h.safe
  · exact fun hs => h ▸ hs

theorem modCore_safe {g : Core → Core} (hg : ∀ c, c.Sound → (g c).Sound) : Safe s (s.modCore k g) := fun hs => by
  have hcores : List.Forall₂ (fun c c' : Core => c.Sound → c'.Sound) s.cores (s.modCore k g).cores := forall₂_lmod (fun _ => id) hg
  exact inv_of hs.mem hs.ctxs (length_lmod.trans hs.cores) fun j => forall₂_getD hcores id j (hs.sound j)

/-! ## The steps that change registers -/

theorem execCoreLoadReturn_safe {n : Nat} {ecc : Bool} (hx : execCoreLoadReturn k n ecc s = .next u) : Safe s u := by
  have hload : Safe s (s.modCore k fun c => { c with loads := c.loads.eraseIdx n }) := modCore_safe fun _ h => h
  unfold execCoreLoadReturn at hx
  dsimp only at hx
  split at hx
  · cases hx; exact id
  · split at hx
    · cases hx; exact id
    · split at hx
      · cases hx
        exact hload.trans coreTrapAt_steady.kept.safe
      · cases hx
        refine hload.trans (modCore_safe fun c h => ?_)
        unfold Core.setReg
        split
        · exact h
        · exact ⟨List.length_set.trans h.1, h.2⟩

theorem enterFsr_sound {c : Core} {l lctx : Nat} {arg pc : Dbl} (h : c.Sound) : (c.enterFsr l lctx arg pc).Sound := by
  obtain ⟨-, hstatus, htvec⟩ := h
  refine ⟨rfl, ?_, htvec⟩
  show c.status &&& ~~~(1 : Dbl) &&& ~~~(7 : Dbl) = 0
  rw [BitVec.and_assoc, BitVec.and_comm (~~~(1 : Dbl)), ← BitVec.and_assoc, hstatus]
  exact BitVec.zero_and

theorem execFsrEntry_safe (hx : execFsrEntry s = .next u) : Safe s u := by
  unfold execFsrEntry at hx
  split at hx
  · next l rest j _ _ =>
    have hqueue : Safe s { s with fsrQueue := rest } := .of_eq rfl rfl rfl
    dsimp only at hx
    split at hx
    · cases hx; exact hqueue
    · split at hx
      · cases hx
        exact hqueue.trans (modCore_safe fun _ => enterFsr_sound)
      · cases hx; exact hqueue
  · cases hx; exact id

theorem execColdReset_safe (hx : execColdReset s = .next u) : Safe s u := fun hs => by
  cases hx
  exact ⟨memKeep_wf hs.mem, List.nodup_nil, rfl, resetState.1.core⟩

/-! ## Every instruction -/

theorem exec_safe : Leads Safe s (exec i s) := by
  cases hx : exec i s with
  | next u =>
    cases hw : isWord i with
    | true => exact ((word_acts hw).of hx).safe
    | false =>
      cases hc : mayWriteCores i with
      | false => exact (exec_device_kept hw hc hx).safe
      | true =>
        rcases mayWriteCores_cases hc with ⟨j, n, ecc, rfl⟩ | rfl | rfl
        · exact execCoreLoadReturn_safe hx
        · exact execFsrEntry_safe hx
        · exact execColdReset_safe hx
  | _ => trivial

/-! ## Every turn -/

theorem Leads.after {x : Host.Outcome State Fault Refusal} (h : Leads Safe u x) (hu : Safe s u) : Leads Safe s x := by
  cases x with
  | next w => exact hu.trans h
  | _ => trivial

theorem markIssue_safe {x y unit : Nat} : Safe s (s.markIssue x y unit) := .of_eq rfl rfl rfl

theorem issueFirst_safe {x y unit : Nat} {n : Nat → Nat → Unit} {l : List Fetched} : Leads Safe s (s.issueFirst x y unit n l) := by
  induction l with
  | nil => exact id
  | cons f l ih =>
    rw [State.issueFirst]
    split
    · trivial
    · next i _ =>
      have hexec : Leads Safe s (exec i { s with cur := n f.t f.o }) := exec_safe.after (.of_eq rfl rfl rfl)
      split
      · next w hw =>
        split
        · exact (hexec.of hw).trans markIssue_safe
        · exact ih
      · exact hexec

theorem touchCode_safe : Safe s (s.touchCode k) := by
  unfold State.touchCode
  split
  · exact touchKey_steady.kept.safe
  · exact id

theorem coreTurn_safe : Leads Safe s (s.coreTurn k) := by
  have hcur : Safe s { s with cur := .core k } := .of_eq rfl rfl rfl
  unfold State.coreTurn
  split
  · exact id
  · generalize ({ s with cur := .core k } : State) = u at hcur
    refine Leads.after ?_ hcur
    dsimp only
    split
    · exact exec_safe.after touchCode_safe
    · exact (accessTrap_does (F := {}) (.refl u) rfl).safe
    · exact addMiss_steady.kept.safe

theorem runHead_safe {x : Option Instr} : Leads Safe s (s.runHead x) := by
  cases x with
  | none => exact id
  | some i => exact exec_safe

theorem requestTurn_safe {aqi q : Nat} : Leads Safe s (s.requestTurn aqi q) := by
  unfold State.requestTurn
  split
  · exact id
  · split
    · exact exec_safe
    · exact refuse_kept.safe

theorem adminTurn_safe : Leads Safe s s.adminTurn := by
  unfold State.adminTurn
  split
  · exact id
  · split
    · exact exec_safe
    · exact (admin_steady fun _ => adminDone_steady).kept.safe

theorem turn_safe {x : Turn} : Leads Safe s (s.turn x) := by
  cases x with
  | cell | vec => exact issueFirst_safe
  | core => exact coreTurn_safe
  | engine | bank | node => exact runHead_safe
  | request => exact requestTurn_safe
  | admin => exact adminTurn_safe
  | event => exact exec_safe

theorem nextTurn_safe : Safe s s.nextTurn.2 := by
  unfold State.nextTurn
  split
  · exact .of_eq rfl rfl rfl
  · exact .of_eq rfl rfl rfl

/-- Settles O5: each instruction keeps the invariant, and so does each turn. -/
theorem stepKeepsInvariant : Obligations.StepKeepsInvariant := by
  unfold Obligations.StepKeepsInvariant
  intro s s' hs hx
  exact (nextTurn_safe.trans (turn_safe.of hx)) hs

end Sys2Proof.Machine
